-- ==== Sys2Proof/Word.lean ====
section
/-!
DEFINITION. Word.lean: the bit-vector types of the Alaton X8 (spec/00_scope.md R4, spec/01_machine.md R13).
-/
namespace Sys2Proof

/-- One byte of storage. -/
abbrev Byte := BitVec 8
/-- A register word: the width of every S, V and K register (R13). -/
abbrev W32 := BitVec 32
/-- A register pair, a P register's 64 lane bits, or a stamp (R13, R214). -/
abbrev W64 := BitVec 64
/-- One bit per lane, lane l in bit l (R23). -/
abbrev Mask := BitVec 64
/-- A 57-bit virtual address of code (R69). -/
abbrev Va := BitVec 57
/-- The 128 bits of an array register (R101). -/
abbrev ARegVal := BitVec 128
/-- The 128 bytes of a line, byte i in bits [8i+7:8i] (R4). -/
abbrev LineData := BitVec 1024

end Sys2Proof
end

