-- ==== Sys2Proof/Machine/Bits.lean ====
section
/-!
DEFINITION. Bits.lean: bit fields, sign extension and byte order (spec/00_scope.md R4, spec/04_encoding.md R69, R70).
-/
namespace Sys2Proof

/-- The field of len bits at bit lo. -/
def bits {w : Nat} (x : BitVec w) (lo len : Nat) : BitVec len := x.extractLsb' lo len

/-- One bit. -/
def bit {w : Nat} (x : BitVec w) (i : Nat) : Bool := x.getLsbD i

/-- Position of the lowest set bit of n, 0 for 0; fuel bounds the search. -/
def lowBit : Nat → Nat → Nat
  | 0, _ => 0
  | f + 1, n => if n % 2 = 1 then 0 else 1 + lowBit f (n / 2)

/-- Number of set bits among the low f bits of n. -/
def popNat : Nat → Nat → Nat
  | 0, _ => 0
  | f + 1, n => n % 2 + popNat f (n / 2)

/-- Number of set bits. -/
def popCount {w : Nat} (x : BitVec w) : Nat := popNat w x.toNat

/-- Little-endian value of a list of bytes (R4). -/
def leNat : List Byte → Nat
  | [] => 0
  | b :: bs => b.toNat + 256 * leNat bs

/-- The n low bytes of v, least significant first (R4). -/
def leBytes : Nat → Nat → List Byte
  | 0, _ => []
  | n + 1, v => BitVec.ofNat 8 v :: leBytes n (v / 256)

/-- Bytes of a bit vector, least significant first. -/
def bytesOf {w : Nat} (x : BitVec w) : List Byte := leBytes (w / 8) x.toNat

/-- The bit vector whose bytes these are. -/
def ofBytes (w : Nat) (bs : List Byte) : BitVec w := BitVec.ofNat w (leNat bs)

/-- All ones in the low n bits. -/
def lowMask (n : Nat) : Mask := BitVec.ofNat 64 (2 ^ n - 1)

/-- The lanes set in a mask, ascending. -/
def lanesOf (m : Mask) : List Nat := (List.range 64).filter fun l => m.getLsbD l

/-- A mask with one lane. -/
def laneBit (l : Nat) : Mask := BitVec.ofNat 64 (2 ^ l)

/-- The mask of the lanes below w for which f holds. -/
def maskOf (w : Nat) (f : Nat → Bool) : Mask :=
  (List.range w).foldl (fun m l => if f l then m ||| laneBit l else m) 0

/-- Numbers below n, mapped. -/
def tabulate {α : Type} (n : Nat) (f : Nat → α) : List α := (List.range n).map f

/-- The i-th element, or d. -/
def nthD {α : Type} (d : α) (xs : List α) (i : Nat) : α := (xs[i]?).getD d

/-- The list with element i replaced (unchanged when i is beyond its end). -/
def setNth {α : Type} (xs : List α) (i : Nat) (x : α) : List α := xs.set i x

end Sys2Proof
end

