-- ==== Sys2Proof/Syntax.lean ====
section
/-!
DEFINITION. Syntax.lean: the steps of the Alaton X8 (spec/opcode_table.json), as typed syntax: one constructor per row.
Scalar words: spec/04_encoding.md R52 to R57.  Lane words: R53, R58 to R66.  Sub-steps of SMFS and SMTS: R10, R92.
Events: spec/95_what_each_step_holds.md.
-/
namespace Sys2Proof

/-- SB conditions (R57). -/
inductive SCond | eq | ne | lt | ge | ltn | gen
  deriving DecidableEq, Repr, Inhabited
/-- Counters of CWAIT and YIELD (R56). -/
inductive Ctr | ccopy | ctrav | cattn
  deriving DecidableEq, Repr, Inhabited
/-- MWAIT comparisons (R108). -/
inductive MCmp | eq | ne | gen
  deriving DecidableEq, Repr, Inhabited
/-- Scopes (R64). -/
inductive Scope | group | team | pair | device | swarm | system
  deriving DecidableEq, Repr, Inhabited
/-- Orderings of a fence (R64). -/
inductive FOrd | acq | rel | full
  deriving DecidableEq, Repr, Inhabited
/-- Orderings of an atomic; relaxed takes no scope (R156). -/
inductive AOrd | relaxed | acq (s : Scope) | rel (s : Scope) | acqrel (s : Scope)
  deriving DecidableEq, Repr, Inhabited
/-- Element types (R62), in code order. -/
inductive Ty | i32 | n32 | i16 | n16 | i8 | n8 | i64 | n64 | f32 | f16 | bf16 | e4m3 | e5m2 | l6 | h2 | b2
  deriving DecidableEq, Repr, Inhabited
/-- Rounding selections (R63). -/
inductive Rm | mode | rne | rz | ru | rd | rna
  deriving DecidableEq, Repr, Inhabited
/-- Compare conditions (R66). -/
inductive Cond | eq | ne | lt | le | gt | ge | un | ord
  deriving DecidableEq, Repr, Inhabited
/-- XSHFL modes (R61). -/
inductive Shfl | idx | up | down | xor
  deriving DecidableEq, Repr, Inhabited
/-- XVOTE modes (R61). -/
inductive Vote | all | any | uni
  deriving DecidableEq, Repr, Inhabited
/-- XPREFIX and XREDUCE operations (R61). -/
inductive XOp | add | min | max | and | or | xor
  deriving DecidableEq, Repr, Inhabited
/-- A uniform register selected by sb or sc (R60). -/
inductive Uni | s (n : BitVec 6) | k (n : BitVec 4)
  deriving DecidableEq, Repr, Inhabited
/-- Operand b of the forms 'V, S/K or imm' (R59, R60). -/
inductive OpB | v (n : BitVec 8) | u (r : Uni) | lid | imm (x : BitVec 32)
  deriving DecidableEq, Repr, Inhabited
/-- Operands of the forms 'V or S/K' and indices (R59, R60). -/
inductive OpC | v (n : BitVec 8) | u (r : Uni) | lid
  deriving DecidableEq, Repr, Inhabited
/-- The target of a lane CWAIT (R141). -/
inductive Tgt | u (r : Uni) | imm (x : BitVec 32)
  deriving DecidableEq, Repr, Inhabited
/-- Destination of XBALLOT, XVOTE and XREDUCE: a V register, or an S register when sd is set (R61). -/
inductive Dst | v (n : BitVec 8) | s (n : BitVec 6)
  deriving DecidableEq, Repr, Inhabited
/-- The guard and marker fields that lane words share (R53, R65). -/
structure Mods where
  neg : Bool
  p   : BitVec 3
  nf  : Bool
  sw  : Bool
  deriving DecidableEq, Repr, Inhabited
/-- What TLB_INVAL names (R342). -/
inductive TlbScope | all | range (asp lo hi : Nat)
  deriving DecidableEq, Repr, Inhabited
/-- What PREEMPT names (R342). -/
inductive PreSel | launch (lid : Nat) | dies (mask : BitVec 8)
  deriving DecidableEq, Repr, Inhabited
/-- What FAULT_DONE names (R342). -/
inductive FaultWho | team (lid tid : Nat) | trav (id : Nat)
  deriving DecidableEq, Repr, Inhabited
/-- What DEBUG names (R342): a core's debug record or a PA range. -/
inductive DbgWhat | core (die core : Nat) | range (pa len : Nat)
  deriving DecidableEq, Repr, Inhabited
/-- Where an SPDM message arrives: the host's DOE, or a Plozan link (R348). -/
inductive Port | host | link (pl : Nat)
  deriving DecidableEq, Repr, Inhabited

/-- One step of the part: one constructor per row of spec/opcode_table.json.
d, a, b, c name registers as R56 and R59 give them; sw is the switch marker (R33). -/
inductive Instr
  | sadd (d a b : BitVec 6) (sw : Bool)
  | ssub (d a b : BitVec 6) (sw : Bool)
  | smul (d a b : BitVec 6) (sw : Bool)
  | smulh (d a b : BitVec 6) (sw : Bool)
  | sand (d a b : BitVec 6) (sw : Bool)
  | sor (d a b : BitVec 6) (sw : Bool)
  | sxor (d a b : BitVec 6) (sw : Bool)
  | sshl (d a b : BitVec 6) (sw : Bool)
  | sshr (d a b : BitVec 6) (sw : Bool)
  | ssra (d a b : BitVec 6) (sw : Bool)
  | smin (d a b : BitVec 6) (sw : Bool)
  | smax (d a b : BitVec 6) (sw : Bool)
  | smov (d a : BitVec 6) (sw : Bool)
  | saddi (d a : BitVec 6) (imm : BitVec 13) (sw : Bool)
  | smuli (d a : BitVec 6) (imm : BitVec 13) (sw : Bool)
  | sandi (d a : BitVec 6) (imm : BitVec 13) (sw : Bool)
  | sori (d a : BitVec 6) (imm : BitVec 13) (sw : Bool)
  | sxori (d a : BitVec 6) (imm : BitVec 13) (sw : Bool)
  | smini (d a : BitVec 6) (imm : BitVec 13) (sw : Bool)
  | smaxi (d a : BitVec 6) (imm : BitVec 13) (sw : Bool)
  | sshli (d a : BitVec 6) (amt : BitVec 5) (sw : Bool)
  | sshri (d a : BitVec 6) (amt : BitVec 5) (sw : Bool)
  | ssrai (d a : BitVec 6) (amt : BitVec 5) (sw : Bool)
  | slui (d : BitVec 6) (imm : BitVec 19) (sw : Bool)
  | smovi (d : BitVec 6) (imm : BitVec 19) (sw : Bool)
  | swiden (d a b : BitVec 6) (sw : Bool)
  | srange (d a b : BitVec 6) (sw : Bool)
  | srnggetLo (d a : BitVec 6) (sw : Bool)
  | srnggetHi (d a : BitVec 6) (sw : Bool)
  | srnggetTop (d a : BitVec 6) (sw : Bool)
  | sb (cond : SCond) (a b : BitVec 6) (off : BitVec 9) (sw : Bool)
  | sj (off : BitVec 25) (sw : Bool)
  | sjal (off : BitVec 25) (sw : Bool)
  | sjr (a : BitVec 6) (sw : Bool)
  | skmov (d : BitVec 6) (k : BitVec 4) (sw : Bool)
  | asetb (n : BitVec 4) (a : BitVec 6) (sw : Bool)
  | asetx (n : BitVec 4) (a b : BitVec 6) (sw : Bool)
  | aget (d : BitVec 6) (n : BitVec 4) (w : BitVec 2) (sw : Bool)
  | smfs (d : BitVec 6) (num : BitVec 13) (sw : Bool)
  | smts (a : BitVec 6) (num : BitVec 13) (sw : Bool)
  | sld (d : BitVec 6) (n : BitVec 4) (b : BitVec 6) (off : BitVec 7) (sw : Bool)
  | sst (d : BitVec 6) (n : BitVec 4) (b : BitVec 6) (off : BitVec 7) (sw : Bool)
  | lrun (idx : BitVec 19) (sw : Bool)
  | lsync (sw : Bool)
  | tcopy (a b : BitVec 6) (i nm1 : BitVec 5) (sw : Bool)
  | cwait (ctr : Ctr) (a : BitVec 6) (sw : Bool)
  | mwait (cmp : MCmp) (acq : Option Scope) (a b : BitVec 6) (sw : Bool)
  | yield (ctr : Ctr) (a b : BitVec 6) (sw : Bool)
  | attn (a b : BitVec 6) (ctl : BitVec 5) (sw : Bool)
  | tvlayout (a : BitVec 6) (n : BitVec 4) (sw : Bool)
  | bar (a : BitVec 6) (n : BitVec 4) (sw : Bool)
  | stgacq (a : BitVec 6) (st : BitVec 12) (sw : Bool)
  | stgrel (a : BitVec 6) (st : BitVec 12) (sw : Bool)
  | grow (q : BitVec 12) (sw : Bool)
  | shrink (q : BitVec 12) (sw : Bool)
  | task (a : BitVec 6) (prio : BitVec 2) (sw : Bool)
  | sfence (ord : FOrd) (sc : Scope) (sw : Bool)
  | trap (code : BitVec 13) (sw : Bool)
  | brk (code : BitVec 13) (sw : Bool)
  | eret (sw : Bool)
  | eretSkip (sw : Bool)
  | sexit (sw : Bool)
  | snop (sw : Bool)
  | iadd (m : Mods) (ty : Ty) (sat : Bool) (d a : BitVec 8) (b : OpB)
  | isub (m : Mods) (ty : Ty) (sat : Bool) (d a : BitVec 8) (b : OpB)
  | imul (m : Mods) (ty : Ty) (sat : Bool) (d a : BitVec 8) (b : OpB)
  | imulh (m : Mods) (ty : Ty) (d a : BitVec 8) (b : OpB)
  | imad (m : Mods) (ty : Ty) (sat : Bool) (d a : BitVec 8) (b : OpB) (c : OpC)
  | iabs (m : Mods) (ty : Ty) (sat : Bool) (d a : BitVec 8)
  | ineg (m : Mods) (ty : Ty) (sat : Bool) (d a : BitVec 8)
  | imin (m : Mods) (ty : Ty) (d a : BitVec 8) (b : OpB)
  | imax (m : Mods) (ty : Ty) (d a : BitVec 8) (b : OpB)
  | iclamp (m : Mods) (ty : Ty) (d a : BitVec 8) (b : OpB) (c : OpC)
  | iand (m : Mods) (ty : Ty) (d a : BitVec 8) (b : OpB)
  | ior (m : Mods) (ty : Ty) (d a : BitVec 8) (b : OpB)
  | ixor (m : Mods) (ty : Ty) (d a : BitVec 8) (b : OpB)
  | inot (m : Mods) (ty : Ty) (d a : BitVec 8)
  | ishl (m : Mods) (ty : Ty) (d a : BitVec 8) (b : OpB)
  | ishr (m : Mods) (ty : Ty) (d a : BitVec 8) (b : OpB)
  | isra (m : Mods) (ty : Ty) (d a : BitVec 8) (b : OpB)
  | iclz (m : Mods) (ty : Ty) (d a : BitVec 8)
  | ipopc (m : Mods) (ty : Ty) (d a : BitVec 8)
  | ibrev (m : Mods) (ty : Ty) (d a : BitVec 8)
  | ibfx (m : Mods) (ty : Ty) (d a : BitVec 8) (pos : BitVec 5) (len : BitVec 6)
  | ibfi (m : Mods) (ty : Ty) (d a : BitVec 8) (b : OpC) (pos : BitVec 5) (len : BitVec 6)
  | icmp (m : Mods) (ty : Ty) (cond : Cond) (d : BitVec 3) (a : BitVec 8) (b : OpB)
  | isel (m : Mods) (ty : Ty) (d a : BitVec 8) (b : OpB) (c : BitVec 3)
  | imov (m : Mods) (ty : Ty) (d a : BitVec 8)
  | imovi (m : Mods) (ty : Ty) (d : BitVec 8) (imm : BitVec 32)
  | icvt (m : Mods) (ty src : Ty) (rm : Rm) (sat : Bool) (d a : BitVec 8)
  | vwiden (m : Mods) (d : BitVec 8) (lo hi : Uni)
  | vrange (m : Mods) (d : BitVec 8) (lo hi : Uni)
  | fadd (m : Mods) (ty : Ty) (rm : Rm) (d a : BitVec 8) (b : OpB)
  | fsub (m : Mods) (ty : Ty) (rm : Rm) (d a : BitVec 8) (b : OpB)
  | fmul (m : Mods) (ty : Ty) (rm : Rm) (d a : BitVec 8) (b : OpB)
  | ffma (m : Mods) (ty : Ty) (rm : Rm) (d a : BitVec 8) (b : OpB) (c : OpC)
  | fmin (m : Mods) (ty : Ty) (d a : BitVec 8) (b : OpB)
  | fmax (m : Mods) (ty : Ty) (d a : BitVec 8) (b : OpB)
  | fcmp (m : Mods) (ty : Ty) (cond : Cond) (d : BitVec 3) (a : BitVec 8) (b : OpB)
  | frcp (m : Mods) (ty : Ty) (rm : Rm) (d a : BitVec 8)
  | frsq (m : Mods) (ty : Ty) (rm : Rm) (d a : BitVec 8)
  | fsqrt (m : Mods) (ty : Ty) (rm : Rm) (d a : BitVec 8)
  | fdiv (m : Mods) (ty : Ty) (rm : Rm) (d a : BitVec 8) (b : OpB)
  | fexp2 (m : Mods) (ty : Ty) (rm : Rm) (d a : BitVec 8)
  | flog2 (m : Mods) (ty : Ty) (rm : Rm) (d a : BitVec 8)
  | frnd (m : Mods) (ty : Ty) (rm : Rm) (d a : BitVec 8)
  | fcvt (m : Mods) (ty src : Ty) (rm : Rm) (sat : Bool) (d a : BitVec 8)
  | fclass (m : Mods) (ty : Ty) (d a : BitVec 8)
  | lmul (m : Mods) (sat : Bool) (d a : BitVec 8) (b : OpB)
  | lcvt (m : Mods) (ty src : Ty) (rm : Rm) (sat : Bool) (d a : BitVec 8)
  | pand (m : Mods) (d a b : BitVec 3)
  | por (m : Mods) (d a b : BitVec 3)
  | pxor (m : Mods) (d a b : BitVec 3)
  | pnot (m : Mods) (d a : BitVec 3)
  | pmov (m : Mods) (d a : BitVec 3)
  | exmget (m : Mods) (d : BitVec 3)
  | exmset (m : Mods) (a : BitVec 3)
  | fxget (m : Mods) (d : BitVec 8)
  | fxset (m : Mods) (a : BitVec 8)
  | xshfl (m : Mods) (ty : Ty) (mode : Shfl) (d a : BitVec 8) (b : OpB)
  | xbcast (m : Mods) (ty : Ty) (d a : BitVec 8) (b : OpB)
  | xballot (m : Mods) (d : Dst) (a : BitVec 3)
  | xvote (m : Mods) (mode : Vote) (d : Dst) (a : BitVec 3)
  | xprefix (m : Mods) (ty : Ty) (rm : Rm) (op : XOp) (excl : Bool) (d a : BitVec 8)
  | xreduce (m : Mods) (ty : Ty) (rm : Rm) (op : XOp) (d : Dst) (a : BitVec 8)
  | lbrc (m : Mods) (tgt rpc : BitVec 16)
  | ljoin (nf sw : Bool)
  | ljmp (nf sw : Bool) (off : BitVec 32)
  | lcall (nf sw : Bool) (off : BitVec 32)
  | lret (nf sw : Bool)
  | lexit (nf sw : Bool)
  | lkill (m : Mods)
  | spawn (m : Mods) (a : BitVec 8) (entry : BitVec 32)
  | laneCwait (m : Mods) (ctr : Ctr) (t : Tgt)
  | ld (m : Mods) (ty : Ty) (acq : Option Scope) (d : BitVec 8) (n : BitVec 4) (b : OpC) (off : BitVec 32)
  | st (m : Mods) (ty : Ty) (rel : Option Scope) (n : BitVec 4) (b : OpC) (c : BitVec 8) (off : BitVec 32)
  | lds (m : Mods) (ty : Ty) (d : BitVec 8) (n : BitVec 4) (b : OpC) (off : BitVec 32)
  | sts (m : Mods) (ty : Ty) (n : BitVec 4) (b : OpC) (c : BitVec 8) (off : BitVec 32)
  | cst (m : Mods) (ty : Ty) (n : BitVec 4) (b : Uni) (c : BitVec 8) (off : BitVec 32)
  | xlde (m : Mods) (ty : Ty) (d : BitVec 8) (n : BitVec 4) (b : Uni) (off : BitVec 32)
  | lfence (nf sw : Bool) (ord : FOrd) (sc : Scope)
  | atomAdd (m : Mods) (ty : Ty) (ord : AOrd) (d : BitVec 8) (n : BitVec 4) (b : OpC) (c : BitVec 8) (off : BitVec 32)
  | atomMin (m : Mods) (ty : Ty) (ord : AOrd) (d : BitVec 8) (n : BitVec 4) (b : OpC) (c : BitVec 8) (off : BitVec 32)
  | atomMax (m : Mods) (ty : Ty) (ord : AOrd) (d : BitVec 8) (n : BitVec 4) (b : OpC) (c : BitVec 8) (off : BitVec 32)
  | atomAnd (m : Mods) (ty : Ty) (ord : AOrd) (d : BitVec 8) (n : BitVec 4) (b : OpC) (c : BitVec 8) (off : BitVec 32)
  | atomOr (m : Mods) (ty : Ty) (ord : AOrd) (d : BitVec 8) (n : BitVec 4) (b : OpC) (c : BitVec 8) (off : BitVec 32)
  | atomXor (m : Mods) (ty : Ty) (ord : AOrd) (d : BitVec 8) (n : BitVec 4) (b : OpC) (c : BitVec 8) (off : BitVec 32)
  | atomXchg (m : Mods) (ty : Ty) (ord : AOrd) (d : BitVec 8) (n : BitVec 4) (b : OpC) (c : BitVec 8) (off : BitVec 32)
  | atomCas (m : Mods) (ty : Ty) (ord : AOrd) (d : BitVec 8) (n : BitVec 4) (b : OpC) (c : BitVec 8) (off : BitVec 32)
  | mbegin (nf sw : Bool)
  | mend (nf sw : Bool)
  | mma (nf sw : Bool) (ty : Ty) (rm : Rm) (d a b : BitVec 8)
  | mldf (nf sw : Bool) (fragB : Bool) (d : BitVec 8) (addr : Uni) (off : BitVec 32)
  | mzero (nf sw : Bool) (d : BitVec 8)
  | maccld (nf sw : Bool) (d : BitVec 8) (addr : Uni) (off : BitVec 32)
  | maccst (nf sw : Bool) (a : BitVec 8) (addr : Uni) (off : BitVec 32)
  | tvbegin (m : Mods) (d a b : BitVec 8) (c : Uni) (lay : BitVec 4)
  | tvret (m : Mods) (a b : BitVec 8)
  | tvcut (m : Mods) (a b : BitVec 8) (c : Uni)
  | tvresume (m : Mods) (d a : BitVec 8)
  | tvbound (m : Mods) (a : BitVec 8)
  | tvstat (m : Mods) (d a : BitVec 8)
  /-- A fetched word that decodes to no instruction (R67): the lowest offending bit and the reason of R68. -/
  | wordNotAnInstruction (lane : Bool) (reason : BitVec 8) (bit : BitVec 7)
  /-- The read of GTCLO that an SMFS of number 0x014 makes (R10). -/
  | gtcloRead (d : BitVec 6) (sw : Bool)
  /-- The read of GTCHI that an SMFS of number 0x015 makes (R10). -/
  | gtchiRead (d : BitVec 6) (sw : Bool)
  | modeWrite (a : BitVec 6) (sw : Bool)
  | exmloWrite (a : BitVec 6) (sw : Bool)
  | exmhiWrite (a : BitVec 6) (sw : Bool)
  | trappcWrite (a : BitVec 6) (sw : Bool)
  | trappcloWrite (a : BitVec 6) (sw : Bool)
  | trappchiWrite (a : BitVec 6) (sw : Bool)
  | trapinfoWrite (a : BitVec 6) (sw : Bool)
  | gtcTick 
  /-- Result k of the stream's list lands. keep: lanes that keep the value already in a register that two unsynchronised instructions write (R34). late: lanes of a load whose value is the one memory holds now (R248). -/
  | resultReturn (gid : Nat) (lane : Bool) (k : Nat) (keep late : Mask)
  | blockStart (gid : Nat)
  | blockRetire (gid : Nat)
  | trapEntry (gid : Nat)
  | binTimerExpiry (core bin : Nat)
  /-- The distributor launches the oldest sealed bin of the core that a spawn slot admits (R46). -/
  | spawnedGroupLaunch (core : Nat)
  /-- The next team that fits is placed on core; groups gives each group's slot and row0, the choice R277 leaves open. -/
  | teamPlacement (core spbase accbase : Nat) (groups : List (Nat × Nat))
  | teamReserving (lid : Nat)
  | growGrant (gid : Nat)
  | yieldReactivate (gid : Nat)
  | barrierRelease (team bar : Nat)
  | stagePhaseObserved (gid : Nat)
  | mwaitReread (gid : Nat)
  | counterWaitMet (gid : Nat) (lane : Bool)
  | engineLineOwnership (cmd : Nat)
  | engineLineRelease (cmd line : Nat)
  /-- prog: the destination sectors each slice has written when a check-value mismatch stops the command (R213, R219). -/
  | copyCommandComplete (cmd : Nat) (prog : List Nat)
  /-- cached: the record fields come from the sequence map cache when it holds them (R294). -/
  | attnCommandStart (cmd : Nat) (cached : Bool)
  | attnKeyBlock (cmd : Nat)
  | attnCommandComplete (cmd : Nat)
  | traversalStep (id : Nat)
  | cutApply (id : Nat)
  | launchEnd (lid : Nat)
  | openTailWake (graph node : Nat)
  | graphEnd (graph : Nat)
  | l1Fill (core line : Nat)
  | leaseExpiry (core line : Nat)
  | homeWritePerform (req : Nat)
  | sliceEviction (line : Nat)
  | replicaLock (req die : Nat)
  | replicaUpdate (req : Nat)
  | tableWalk (die asp va : Nat)
  | refreshManagement (stack row : Nat)
  | readShared (agent line : Nat)
  | readOwn (agent line : Nat)
  | dirtyNotice (agent line : Nat)
  | writeback (agent line : Nat) (data : LineData)
  | cleanEviction (agent line : Nat)
  /-- A peer home recalls a line this package holds down to shared. -/
  | recallToShared (agent line : Nat)
  /-- A peer home recalls a line this package holds. -/
  | recallInvalidate (agent line : Nat)
  | data (agent line : Nat) (data : LineData)
  | dataDirty (agent line : Nat) (data : LineData)
  | notHeld (agent line : Nat)
  | failureNotice (agent : Nat)
  | memrdShared (addr : Nat)
  | memrdAny (addr : Nat)
  | memrdInvalid (addr : Nat)
  /-- bytes: the byte enables of MemWrPtl, all ones for MemWr. -/
  | memwr (addr : Nat) (data : LineData) (bytes : BitVec 128)
  | snpdata (line : Nat)
  | snpinv (line : Nat)
  | resync (pa size : Nat)
  | freezeReleaseResume (kind id : Nat)
  | freezeReleaseEnd (kind id : Nat)
  | biasSetHost (pa count : Nat)
  | biasSetDevice (pa count : Nat)
  | pageFlip (page : Nat)
  | telemetry (sel : Nat)
  | fwStage (off : Nat) (bytes : List (BitVec 8))
  | fwActivate (commit : Bool)
  | leaseSet (lam : Nat)
  | placementRead (die stack first count : Nat) (clear : Bool)
  | losslogSet (base size : Nat)
  | aspaceSet (id root : Nat)
  | tlbInval (scope : TlbScope)
  | graphPost (die asp root prio : Nat)
  | graphRelease (die root : Nat)
  | preempt (sel : PreSel) (area : Nat) (migrate : Bool)
  /-- prog: for each stopped copy command, the destination sectors each slice has written (R219). -/
  | chrysalisComplete (team : Nat) (prog : List (Nat × List Nat))
  | poolSlotSave (team : Nat)
  | resume (lid : Nat)
  | resumeEnd (lid : Nat)
  | faultDoneRetry (w : FaultWho)
  | faultDoneEnd (w : FaultWho)
  | poolSet (base count : Nat)
  | trapbaseSet (die : Nat) (cores : BitVec 48) (va : Nat)
  | featClear (die : Nat) (bits : BitVec 64)
  | debugRead (w : DbgWhat)
  | debugWrite (w : DbgWhat) (bytes : List (BitVec 8))
  | protectSet (index pa size : Nat) (flags : BitVec 3)
  | swarmSet (pos n : Nat) (table : List (Option Nat))
  | travEnd (lid id : Nat)
  | backgroundComplete 
  | getVersion (port : Port)
  | getCapabilities (port : Port)
  | negotiateAlgorithms (port : Port)
  | getDigests (port : Port)
  | getCertificate (port : Port) (slot off len : Nat)
  /-- peer: over a link, the peer's replies to the exchange that the package makes with it (R348). -/
  | challenge (port : Port) (nonce : BitVec 256) (peer : List (List (BitVec 8)))
  | getMeasurements (port : Port) (index : Nat) (nonce : BitVec 256)
  | linkDown (pl : Nat)
  | agentFailed (agent : Nat)
  | agentRejoin (agent : Nat)
  | powerOn 
  | moduleReset 
  | selfHeatEnd 
  | trainingComplete 
  | levelChange (core level : Nat)
  | droopEvent (core : Nat)
  | junctionThrottle (die : Nat) (temp : BitVec 16)
  | stackRefreshDouble (stack : Nat) (temp : BitVec 16)
  | trip (stack : Bool) (unit : Nat) (temp : BitVec 16)
  | retrainingWindow (stack ch : Nat)
  | hostSnoopResponse (line : Nat) (dirty : Option LineData)
  | hostCacheData (line : Nat) (own : Bool) (data : LineData)
  | linkTrainingComplete (pl : Nat)
  | flitReplay (pl : Nat)
  | retrainingWindowEnd (stack ch : Nat) (ok : Bool)
  | junctionFallsBelow95 (die : Nat) (temp : BitVec 16)
  | functionLevelReset 
  | hdmDecoderProgram (base : Nat)
  deriving DecidableEq, Repr, Inhabited

end Sys2Proof
end

