-- ==== Sys2Proof/Config.lean ====
section
/-!
DEFINITION. Config.lean: what an implementation or a module fixes, and the free values: opaque constants about which
nothing can be proved (spec/00_scope.md R3 'undefined register contents').
-/
namespace Sys2Proof

/-- What the schedule says happens next.  The machine has many agents; which acts next, and what an outcome that the
manual calls unspecified turns out to be, is data on the tape (log entry 5). -/
inductive Act where
  /-- One stream of a group issues its next word.  `picks`: for a register with outstanding writes, the lanes that see
  the i-th of them, under the key 64 × register key + i (R34). -/
  | issue (gid : Nat) (lane : Bool) (picks : List (Nat × Mask))
  /-- Scalar writes to S and A registers reach a block: the running one (0), or the queued one with index block − 1 (R31,
  R102). -/
  | view (gid : Nat) (block : Nat) (regs : Mask) (aregs : BitVec 16)
  /-- A step of an engine, a walker, a home slice, the host, a peer or the platform.  `picks`: what an unspecified choice
  in it turns out to be, under keys of its own; with none, everything is read and done at once. -/
  | event (i : Instr) (picks : List (Nat × Mask))
  /-- The host issues a mailbox command with an opcode that R342 does not list (R341). -/
  | mailbox (opcode : Nat)
  deriving DecidableEq, Repr, Inhabited

namespace Config

/-- Undefined register, scratchpad and ACC words (R3, R15, R21, R25, R42, R43); argument: the draw. -/
opaque undefWord : Nat → W32
/-- Undefined predicate registers (R25). -/
opaque undefMask : Nat → Mask
/-- Undefined array registers of a spawned group (R25). -/
opaque undefAReg : Nat → ARegVal
/-- The channel, modulo 32, of its stack that a line lies on: the manual gives no map (R355, R356). -/
opaque channelOf : Nat → Nat
/-- The six check symbols of a line's 128 data bytes and sideband bits [79:0]: the manual does not give the code's
generator (R238). -/
opaque eccRight : List Byte → BitVec 48
/-- Check symbols of a line whose error could not be corrected (R238); argument: the draw. -/
opaque eccWrong : Nat → BitVec 48
/-- What happens next when the tape is at its end: anything. -/
opaque freeAct : Nat → Act
/-- A sensor or power reading (R357). -/
opaque reading : Nat → BitVec 16
/-- The public key with which an image is checked: the manual does not say where it lies (R347). -/
opaque publicKey : List Byte → List Byte
/-- The fused minimum security version, the fused digests of the four public keys and their revoke bits as the module is
supplied (R347). -/
opaque fusedSvn : BitVec 8
opaque fusedKeys : List (BitVec 512)
opaque fusedRevoked : BitVec 4
/-- The digest of the firmware image as the module is supplied (R348). -/
opaque suppliedImage : List Byte
/-- The bytes of the certificate chain of the module (R348). -/
opaque certChain : List Byte
/-- The seed of the module's identity key, which firmware derives (R348). -/
opaque identitySeed : List Byte
/-- The SPDM requests GET_CAPABILITIES (1) and NEGOTIATE_ALGORITHMS (2) as a requester sent them; argument: the draw and which
(R348). -/
opaque spdmRequest : Nat → Nat → List Byte
/-- The transfer size (0), message size (1) and timeout exponent (2) of the module's capabilities, which the manual does not give
(R348). -/
opaque spdmSize : Nat → W32
/-- The identity key that a certificate chain certifies up to the Qorryn Devices root; none: the chain is not valid (R348). -/
opaque chainKey : List Byte → Option (List Byte)

end Config
end Sys2Proof
end

