-- ==== Sys2Proof/WellFormed.lean ====
section
/-!
DEFINITION. WellFormed.lean: which typed instructions have a word (spec/04_encoding.md R59 to R67): the register classes,
pairs, runs and types that the fields' types do not already say.
-/
namespace Sys2Proof

/-- What decoding depends on besides the word: handler mode (R88, R117), width 64 (R59, R132), and the element size in
bytes of each array register (R62); `none`: any size. -/
structure Ctx where
  handler : Bool
  w64     : Bool
  asize   : BitVec 4 → Option Nat

/-- The context that refuses least: used where no group is at hand. -/
def Ctx.any : Ctx := ⟨true, false, fun _ => none⟩

namespace Ty

/-- Types held in a V pair (R59). -/
def is64 : Ty → Bool
  | .i64 | .n64 => true
  | _ => false

/-- Element size in bytes of the integer types (R62); 0 for the others. -/
def size : Ty → Nat
  | .i32 | .n32 => 4
  | .i16 | .n16 => 2
  | .i8 | .n8 => 1
  | .i64 | .n64 => 8
  | _ => 0

/-- Signed integer types. -/
def signed : Ty → Bool
  | .i32 | .i16 | .i8 | .i64 => true
  | _ => false

/-- The types of the integer rows and the atomics (R62). -/
def int4 : Ty → Bool
  | .i32 | .n32 | .i64 | .n64 => true
  | _ => false

/-- The integer codes 0 to 7 (R62). -/
def int8c : Ty → Bool
  | .i32 | .n32 | .i16 | .n16 | .i8 | .n8 | .i64 | .n64 => true
  | _ => false

/-- F32, F16, BF16 (R62). -/
def flt3 : Ty → Bool
  | .f32 | .f16 | .bf16 => true
  | _ => false

/-- F32, F16, BF16, H2, B2 (R62). -/
def flt5 : Ty → Bool
  | .f32 | .f16 | .bf16 | .h2 | .b2 => true
  | _ => false

/-- The MMA types (R62). -/
def mma : Ty → Bool
  | .e4m3 | .e5m2 | .i8 | .l6 | .f16 | .bf16 => true
  | _ => false

/-- I32 and I64, the shuffle types (R62). -/
def shfl : Ty → Bool
  | .i32 | .i64 => true
  | _ => false

/-- The XPREFIX and XREDUCE types with an operation (R62). -/
def scan (op : XOp) : Ty → Bool
  | .i32 | .n32 | .i64 | .n64 => true
  | .f32 => match op with
    | .add | .min | .max => true
    | _ => false
  | _ => false

/-- FCVT pairs: no L6, and at least one side in 8 to 15 (R62). -/
def fcvt (t s : Ty) : Bool :=
  t != .l6 && s != .l6 && !(t.int8c && s.int8c)

/-- LCVT pairs: exactly one side L6, the other F32, F16 or BF16 (R62). -/
def lcvt (t s : Ty) : Bool :=
  (t == .l6 && s.flt3) || (s == .l6 && t.flt3)
/-- A type that LCVT takes. -/
def lcvtAny (t : Ty) : Bool := t == .l6 || t.flt3

end Ty

/-- An even register number. -/
def even {w : Nat} (n : BitVec w) : Bool := n.toNat % 2 == 0

/-- A V field of type ty: an even register when the type is a pair (R59). -/
def vOk (ty : Ty) (n : BitVec 8) : Bool := !ty.is64 || even n

namespace Uni
/-- A selected pair is even (R60). -/
def pairOk : Uni → Bool
  | .s n => even n
  | .k n => even n
end Uni

namespace OpB
def ok (ty : Ty) : OpB → Bool
  | .v n => vOk ty n
  | .u r => !ty.is64 || r.pairOk
  | .lid | .imm _ => true
end OpB

namespace OpC
def ok (ty : Ty) : OpC → Bool
  | .v n => vOk ty n
  | .u r => !ty.is64 || r.pairOk
  | .lid => true
end OpC

/-- A run of k registers ends at or below V255 (R59). -/
def runOk (n : BitVec 8) (k : Nat) : Bool := n.toNat + k ≤ 256

/-- The element size of An agrees with ty (R62). -/
def arrOk (c : Ctx) (ty : Ty) (n : BitVec 4) : Bool :=
  match c.asize n with
  | none => true
  | some k => k == ty.size

/-- A Z tile is even at width 64 (R59). -/
def zOk (c : Ctx) (z : BitVec 8) : Bool := !c.w64 || even z

/-- Field length of IBFX and IBFI: 1 to 32 (R59). -/
def lenOk (len : BitVec 6) : Bool := 1 ≤ len.toNat && len.toNat ≤ 32

/-- ICMP has six conditions (R66). -/
def icondOk : Cond → Bool
  | .un | .ord => false
  | _ => true

/-- The CAS data run (R59). -/
def casOk (ty : Ty) (c : BitVec 8) : Bool :=
  if ty.is64 then c.toNat % 4 == 0 else even c

/-- System register numbers that SMFS accepts (R88). -/
def smfsOk (handler : Bool) (n : BitVec 13) : Bool :=
  match n.toNat with
  | 0x000 | 0x001 | 0x002 | 0x003 | 0x004 | 0x005 | 0x008 | 0x009 | 0x00A
  | 0x010 | 0x011 | 0x012 | 0x013 | 0x014 | 0x015 => true
  | 0x020 | 0x021 | 0x022 | 0x023 | 0x024 | 0x025 => handler
  | _ => false

/-- System register numbers that SMTS accepts (R88). -/
def smtsOk (handler : Bool) (n : BitVec 13) : Bool :=
  match n.toNat with
  | 0x000 => true
  | 0x004 | 0x005 | 0x020 | 0x022 | 0x024 | 0x025 => handler
  | _ => false

namespace Instr

/-- Well-formed in a context: the instruction has a word that the decoder accepts there.  Events and sub-steps have no
word. -/
def wf (c : Ctx) : Instr → Bool
  | .sadd .. | .ssub .. | .smul .. | .smulh .. | .sand .. | .sor .. | .sxor .. | .sshl .. | .sshr .. | .ssra ..
  | .smin .. | .smax .. | .smov .. | .saddi .. | .smuli .. | .sandi .. | .sori .. | .sxori .. | .smini .. | .smaxi ..
  | .sshli .. | .sshri .. | .ssrai .. | .slui .. | .smovi .. | .swiden .. | .srange .. | .srnggetLo .. | .srnggetHi ..
  | .srnggetTop .. | .sb .. | .sj .. | .sjal .. | .skmov .. | .asetx .. | .aget .. | .sld .. | .sst .. | .lrun ..
  | .lsync .. | .cwait .. | .bar .. | .stgacq .. | .stgrel .. | .grow .. | .shrink .. | .sfence .. | .trap ..
  | .brk .. | .sexit .. | .snop .. => true
  | .sjr a _ | .asetb _ a _ | .tcopy a _ _ _ _ | .attn a _ _ _ | .tvlayout a _ _ | .task a _ _ => even a
  | .mwait _ _ a b _ => even a && even b
  | .yield _ _ b _ => even b
  | .smfs _ n _ => smfsOk c.handler n
  | .smts _ n _ => smtsOk c.handler n
  | .eret _ | .eretSkip _ => c.handler
  | .iadd _ ty _ d a b | .isub _ ty _ d a b | .imul _ ty _ d a b =>
    ty.int4 && vOk ty d && vOk ty a && b.ok ty
  | .imulh _ ty d a b | .imin _ ty d a b | .imax _ ty d a b | .iand _ ty d a b | .ior _ ty d a b | .ixor _ ty d a b
  | .ishl _ ty d a b | .ishr _ ty d a b | .isra _ ty d a b => ty.int4 && vOk ty d && vOk ty a && b.ok ty
  | .imad _ ty _ d a b e => ty.int4 && vOk ty d && vOk ty a && b.ok ty && e.ok ty
  | .iclamp _ ty d a b e => ty.int4 && vOk ty d && vOk ty a && b.ok ty && e.ok ty
  | .iabs _ ty _ d a | .ineg _ ty _ d a => ty.int4 && vOk ty d && vOk ty a
  | .inot _ ty d a | .iclz _ ty d a | .ipopc _ ty d a | .ibrev _ ty d a | .imov _ ty d a =>
    ty.int4 && vOk ty d && vOk ty a
  | .ibfx _ ty d a _ len => ty.int4 && vOk ty d && vOk ty a && lenOk len
  | .ibfi _ ty d a b _ len => ty.int4 && vOk ty d && vOk ty a && b.ok ty && lenOk len
  | .icmp _ ty cond d a b => ty.int4 && icondOk cond && d != 0 && vOk ty a && b.ok ty
  | .isel _ ty d a b _ => ty.int4 && vOk ty d && vOk ty a && b.ok ty
  | .imovi _ ty d _ => ty.int4 && vOk ty d
  | .icvt _ ty src _ _ d a => ty.int8c && src.int8c && vOk ty d && vOk src a
  | .vwiden .. | .vrange .. => true
  | .fadd _ ty _ _ _ _ | .fsub _ ty _ _ _ _ | .fmul _ ty _ _ _ _ => ty.flt5
  | .ffma _ ty _ _ _ _ _ => ty.flt5
  | .fmin _ ty _ _ _ | .fmax _ ty _ _ _ => ty.flt5
  | .fcmp _ ty _ d _ _ => ty.flt3 && d != 0
  | .frcp _ ty _ _ _ | .frsq _ ty _ _ _ | .fsqrt _ ty _ _ _ | .fexp2 _ ty _ _ _ | .flog2 _ ty _ _ _ => ty.flt3
  | .fdiv _ ty _ _ _ _ => ty.flt3
  | .frnd _ ty _ _ _ => ty.flt5
  | .fcvt _ ty src _ _ d a => ty.fcvt src && vOk ty d && vOk src a
  | .fclass _ ty _ _ => ty.flt3
  | .lmul .. => true
  | .lcvt _ ty src _ _ _ _ => ty.lcvt src
  | .pand _ d _ _ | .por _ d _ _ | .pxor _ d _ _ => d != 0
  | .pnot _ d _ | .pmov _ d _ => d != 0
  | .exmget _ d => d != 0
  | .exmset .. | .fxget .. | .fxset .. => true
  | .xshfl _ ty _ d a _ => ty.shfl && vOk ty d && vOk ty a
  | .xbcast _ ty d a _ => ty.shfl && vOk ty d && vOk ty a
  | .xballot _ d _ => match d with
    | .v n => !c.w64 || even n
    | .s n => !c.w64 || even n
  | .xvote .. => true
  | .xprefix _ ty _ op _ d a => ty.scan op && vOk ty d && vOk ty a
  | .xreduce _ ty _ op d a => ty.scan op && vOk ty a && (match d with
    | .v n => vOk ty n
    | .s n => !ty.is64 || even n)
  | .lbrc .. | .ljoin .. | .ljmp .. | .lcall .. | .lret .. | .lexit .. | .lkill .. | .laneCwait .. => true
  | .spawn _ a _ => runOk a 4
  | .ld _ ty _ d n _ _ => ty.int8c && arrOk c ty n && vOk ty d
  | .st _ ty _ n _ e _ => ty.int8c && arrOk c ty n && vOk ty e
  | .lds _ ty d n _ _ => ty.int8c && arrOk c ty n && vOk ty d
  | .sts _ ty n _ e _ => ty.int8c && arrOk c ty n && vOk ty e
  | .cst _ ty n _ e _ => ty.int8c && arrOk c ty n && vOk ty e
  | .xlde _ ty d n _ _ => ty.int8c && arrOk c ty n && vOk ty d
  | .lfence .. => true
  | .atomAdd _ ty _ d n _ e _ | .atomMin _ ty _ d n _ e _ | .atomMax _ ty _ d n _ e _ | .atomAnd _ ty _ d n _ e _
  | .atomOr _ ty _ d n _ e _ | .atomXor _ ty _ d n _ e _ | .atomXchg _ ty _ d n _ e _ =>
    ty.int4 && arrOk c ty n && vOk ty d && vOk ty e
  | .atomCas _ ty _ d n _ e _ => ty.int4 && arrOk c ty n && vOk ty d && casOk ty e
  | .mbegin .. | .mend .. => true
  | .mma _ _ ty _ d a b => ty.mma && zOk c d && runOk a 16 && runOk b (if c.w64 then 8 else 16)
  | .mldf _ _ fragB d _ _ => runOk d (if fragB && c.w64 then 8 else 16)
  | .mzero _ _ d => zOk c d
  | .maccld _ _ d _ _ => zOk c d
  | .maccst _ _ a _ _ => zOk c a
  | .tvbegin _ _ a _ e _ => even a && e.pairOk
  | .tvret .. => true
  | .tvcut _ _ _ e => e.pairOk
  | .tvresume _ _ a => even a
  | .tvbound .. | .tvstat .. => true
  | .gtcloRead .. | .gtchiRead .. | .modeWrite .. | .exmloWrite .. | .exmhiWrite .. | .trappcWrite ..
  | .trappcloWrite .. | .trappchiWrite .. | .trapinfoWrite .. | .gtcTick | .resultReturn .. | .blockStart ..
  | .blockRetire .. | .trapEntry .. | .binTimerExpiry .. | .spawnedGroupLaunch .. | .teamPlacement ..
  | .teamReserving .. | .growGrant .. | .yieldReactivate .. | .barrierRelease .. | .stagePhaseObserved ..
  | .mwaitReread .. | .counterWaitMet .. | .engineLineOwnership .. | .engineLineRelease .. | .copyCommandComplete ..
  | .attnCommandStart .. | .attnKeyBlock .. | .attnCommandComplete .. | .traversalStep .. | .cutApply ..
  | .launchEnd .. | .openTailWake .. | .graphEnd .. | .l1Fill .. | .leaseExpiry .. | .homeWritePerform ..
  | .sliceEviction .. | .replicaLock .. | .replicaUpdate .. | .tableWalk .. | .refreshManagement .. | .readShared ..
  | .readOwn .. | .dirtyNotice .. | .writeback .. | .cleanEviction .. | .recallToShared .. | .recallInvalidate ..
  | .data .. | .dataDirty .. | .notHeld .. | .failureNotice .. | .memrdShared .. | .memrdAny .. | .memrdInvalid ..
  | .memwr .. | .snpdata .. | .snpinv .. | .resync .. | .freezeReleaseResume .. | .freezeReleaseEnd ..
  | .biasSetHost .. | .biasSetDevice .. | .pageFlip .. | .telemetry .. | .fwStage .. | .fwActivate .. | .leaseSet ..
  | .placementRead .. | .losslogSet .. | .aspaceSet .. | .tlbInval .. | .graphPost .. | .graphRelease .. | .preempt ..
  | .chrysalisComplete .. | .poolSlotSave .. | .resume .. | .resumeEnd .. | .faultDoneRetry .. | .faultDoneEnd ..
  | .poolSet .. | .trapbaseSet .. | .featClear .. | .debugRead .. | .debugWrite .. | .protectSet .. | .swarmSet ..
  | .travEnd .. | .backgroundComplete | .getVersion .. | .getCapabilities .. | .negotiateAlgorithms .. | .getDigests ..
  | .getCertificate .. | .challenge .. | .getMeasurements .. | .linkDown .. | .agentFailed .. | .agentRejoin ..
  | .powerOn | .moduleReset | .selfHeatEnd | .trainingComplete | .levelChange .. | .droopEvent ..
  | .junctionThrottle .. | .stackRefreshDouble .. | .trip .. | .retrainingWindow .. | .wordNotAnInstruction ..
  | .hostSnoopResponse .. | .hostCacheData .. | .linkTrainingComplete .. | .flitReplay .. | .retrainingWindowEnd ..
  | .junctionFallsBelow95 .. | .functionLevelReset | .hdmDecoderProgram .. => false

end Instr
end Sys2Proof
end

