-- ==== Sys2Proof/Decode.lean ====
section
/-!
DEFINITION. Decode.lean: words to instructions and back (spec/04_encoding.md R52 to R68).  The decoder is total: a word
that is not an instruction gives the reason and the bit of R67 and R68.
-/
namespace Sys2Proof

/-! ## Codes -/

/-- Type codes (R62). -/
def Ty.code : Ty → BitVec 4
  | .i32 => 0 | .n32 => 1 | .i16 => 2 | .n16 => 3 | .i8 => 4 | .n8 => 5 | .i64 => 6 | .n64 => 7
  | .f32 => 8 | .f16 => 9 | .bf16 => 10 | .e4m3 => 11 | .e5m2 => 12 | .l6 => 13 | .h2 => 14 | .b2 => 15

def tyOf (x : BitVec 4) : Ty :=
  match x.toNat with
  | 0 => .i32 | 1 => .n32 | 2 => .i16 | 3 => .n16 | 4 => .i8 | 5 => .n8 | 6 => .i64 | 7 => .n64
  | 8 => .f32 | 9 => .f16 | 10 => .bf16 | 11 => .e4m3 | 12 => .e5m2 | 13 => .l6 | 14 => .h2 | _ => .b2

/-- Rounding codes (R63); 6 and 7 are reserved. -/
def Rm.code : Rm → BitVec 3
  | .mode => 0 | .rne => 1 | .rz => 2 | .ru => 3 | .rd => 4 | .rna => 5

def rmOf (x : BitVec 3) : Rm :=
  match x.toNat with
  | 1 => .rne | 2 => .rz | 3 => .ru | 4 => .rd | 5 => .rna | _ => .mode

/-- Scope codes (R64); 6 and 7 are reserved. -/
def Scope.code : Scope → BitVec 3
  | .group => 0 | .team => 1 | .pair => 2 | .device => 3 | .swarm => 4 | .system => 5

def scopeOf (x : BitVec 3) : Scope :=
  match x.toNat with
  | 1 => .team | 2 => .pair | 3 => .device | 4 => .swarm | 5 => .system | _ => .group

/-- Fence orderings (R64); 0 is unassigned. -/
def FOrd.code : FOrd → BitVec 2
  | .acq => 1 | .rel => 2 | .full => 3

def fordOf (x : BitVec 2) : FOrd :=
  match x.toNat with
  | 1 => .acq | 2 => .rel | _ => .full

/-- SB condition codes (R57). -/
def SCond.code : SCond → BitVec 4
  | .eq => 0 | .ne => 1 | .lt => 2 | .ge => 3 | .ltn => 4 | .gen => 5

def scondOf (x : BitVec 4) : SCond :=
  match x.toNat with
  | 0 => .eq | 1 => .ne | 2 => .lt | 3 => .ge | 4 => .ltn | _ => .gen

/-- Counter codes (R56); 3 is unassigned. -/
def Ctr.code : Ctr → BitVec 2
  | .ccopy => 0 | .ctrav => 1 | .cattn => 2

def ctrOf (x : BitVec 2) : Ctr :=
  match x.toNat with
  | 0 => .ccopy | 1 => .ctrav | _ => .cattn

/-- MWAIT comparisons (R108); 3 is unassigned. -/
def MCmp.code : MCmp → BitVec 2
  | .eq => 0 | .ne => 1 | .gen => 2

def mcmpOf (x : BitVec 2) : MCmp :=
  match x.toNat with
  | 0 => .eq | 1 => .ne | _ => .gen

/-- Compare conditions (R66). -/
def Cond.code : Cond → BitVec 4
  | .eq => 0 | .ne => 1 | .lt => 2 | .le => 3 | .gt => 4 | .ge => 5 | .un => 6 | .ord => 7

def condOf (x : BitVec 4) : Cond :=
  match x.toNat with
  | 0 => .eq | 1 => .ne | 2 => .lt | 3 => .le | 4 => .gt | 5 => .ge | 6 => .un | _ => .ord

/-- XSHFL modes (R61). -/
def Shfl.code : Shfl → BitVec 2
  | .idx => 0 | .up => 1 | .down => 2 | .xor => 3

def shflOf (x : BitVec 2) : Shfl :=
  match x.toNat with
  | 0 => .idx | 1 => .up | 2 => .down | _ => .xor

/-- XVOTE modes (R61); 3 is unassigned. -/
def Vote.code : Vote → BitVec 2
  | .all => 0 | .any => 1 | .uni => 2

def voteOf (x : BitVec 2) : Vote :=
  match x.toNat with
  | 0 => .all | 1 => .any | _ => .uni

/-- XPREFIX and XREDUCE operations (R61); 6 and 7 are unassigned. -/
def XOp.code : XOp → BitVec 3
  | .add => 0 | .min => 1 | .max => 2 | .and => 3 | .or => 4 | .xor => 5

def xopOf (x : BitVec 3) : XOp :=
  match x.toNat with
  | 0 => .add | 1 => .min | 2 => .max | 3 => .and | 4 => .or | _ => .xor

/-- A selected field: 0 to 63 name S, 64 to 79 name K (R60). -/
def Uni.code : Uni → BitVec 8
  | .s n => n.setWidth 8
  | .k n => 64 + n.setWidth 8

def uniOf (x : BitVec 8) : Uni :=
  if x.toNat < 64 then .s (x.setWidth 6) else .k (x.setWidth 4)

/-- Ord and scope of the atomics (R64). -/
def AOrd.ordCode : AOrd → BitVec 2
  | .relaxed => 0 | .acq _ => 1 | .rel _ => 2 | .acqrel _ => 3

def AOrd.scopeCode : AOrd → BitVec 3
  | .relaxed => 0 | .acq s | .rel s | .acqrel s => s.code

def aordOf (o : BitVec 2) (s : BitVec 3) : AOrd :=
  match o.toNat with
  | 0 => .relaxed | 1 => .acq (scopeOf s) | 2 => .rel (scopeOf s) | _ => .acqrel (scopeOf s)

/-! ## Offending fields -/

/-- The lowest offending bit of fields that must be 0, given as (lowest bit of the field, value), ascending (R68). -/
def firstBad : List (Nat × Nat) → Option Nat
  | [] => none
  | (pos, v) :: r => if v = 0 then firstBad r else some (pos + lowBit 32 v)

/-- The lowest of the fields that fail a check, given as (lowest bit of the field, fails), ascending (R68). -/
def firstFail : List (Nat × Bool) → Option Nat
  | [] => none
  | (pos, b) :: r => if b then some pos else firstFail r

/-- The first failing reason in the order of R67: 1, 3, 2, 4, 6, 5, 8. -/
def firstReason : List (Nat × Option Nat) → Option (Nat × Nat)
  | [] => none
  | (r, o) :: rest =>
    match o with
    | some b => some (r, b)
    | none => firstReason rest

/-! ## Scalar words -/

/-- Fields of the six scalar formats (R52). -/
structure SRaw where
  op : BitVec 6
  /-- bits [25:20]: d of SR, SI, SU; a of SC -/
  f1 : BitVec 6
  /-- bits [19:14]: a of SR, SI; b of SC -/
  f2 : BitVec 6
  /-- bits [13:8]: b of SR -/
  f3 : BitVec 6
  /-- bits [7:1]: fn of SR -/
  fn : BitVec 7
  sw : Bool
  deriving DecidableEq, Repr

/-- imm13 of SI, ctl13 of SC: bits [13:1]. -/
def SRaw.imm13 (r : SRaw) : BitVec 13 := r.f3 ++ r.fn
/-- imm19 of SU: bits [19:1]. -/
def SRaw.imm19 (r : SRaw) : BitVec 19 := r.f2 ++ r.imm13
/-- off25 of SJ: bits [25:1]. -/
def SRaw.imm25 (r : SRaw) : BitVec 25 := r.f1 ++ r.imm19

/-- Cut a scalar word into its fields (R52). -/
def SRaw.ofWord (w : BitVec 32) : SRaw :=
  { op := bits w 26 6, f1 := bits w 20 6, f2 := bits w 14 6, f3 := bits w 8 6, fn := bits w 1 7, sw := bit w 0 }

/-- Put the fields of a scalar word together (R52). -/
def SRaw.toWord (r : SRaw) : BitVec 32 :=
  r.op ++ r.f1 ++ r.f2 ++ r.f3 ++ r.fn ++ BitVec.ofBool r.sw

/-- Format SR with the fields given. -/
def mkSR (op d a b : BitVec 6) (fn : BitVec 7) (sw : Bool) : SRaw := ⟨op, d, a, b, fn, sw⟩
/-- Formats SI and SC: two register fields and 13 bits. -/
def mkSI (op d a : BitVec 6) (imm : BitVec 13) (sw : Bool) : SRaw := ⟨op, d, a, bits imm 7 6, bits imm 0 7, sw⟩
/-- Format SU. -/
def mkSU (op d : BitVec 6) (imm : BitVec 19) (sw : Bool) : SRaw :=
  ⟨op, d, bits imm 13 6, bits imm 7 6, bits imm 0 7, sw⟩
/-- Format SJ. -/
def mkSJ (op : BitVec 6) (imm : BitVec 25) (sw : Bool) : SRaw :=
  ⟨op, bits imm 19 6, bits imm 13 6, bits imm 7 6, bits imm 0 7, sw⟩
/-- Format SB: cond [25:22], a [21:16], b [15:10], off9 [9:1]. -/
def mkSB (op : BitVec 6) (cond : BitVec 4) (a b : BitVec 6) (off : BitVec 9) (sw : Bool) : SRaw :=
  mkSJ op (cond ++ a ++ b ++ off) sw

/-- SB fields. -/
def SRaw.sbCond (r : SRaw) : BitVec 4 := bits r.imm25 21 4
def SRaw.sbA (r : SRaw) : BitVec 6 := bits r.imm25 15 6
def SRaw.sbB (r : SRaw) : BitVec 6 := bits r.imm25 9 6
def SRaw.sbOff (r : SRaw) : BitVec 9 := bits r.imm25 0 9


/-- What a scalar word of one opcode says: the fields that must be 0, the failing checks by reason (R67), and the
instruction it stands for when none fails. -/
structure SForm where
  /-- reason 3: (lowest bit, value that must be 0) -/
  resv : List (Nat × Nat)
  /-- reason 2 -/
  sub  : List (Nat × Bool)
  /-- reason 4 -/
  code : List (Nat × Bool)
  /-- reason 5 -/
  cls  : List (Nat × Bool)
  ins  : Instr

/-- The first failing check of a scalar word (R67, R68). -/
def SForm.err (f : SForm) : Option (Nat × Nat) :=
  firstReason [(3, firstBad f.resv), (2, firstFail f.sub), (4, firstFail f.code), (5, firstFail f.cls)]

/-- A word with no fields to check beyond the reserved ones. -/
def sform (resv : List (Nat × Nat)) (cls : List (Nat × Bool)) (ins : Instr) : SForm := ⟨resv, [], [], cls, ins⟩

/-- The SALU members (R55). -/
def saluForm (r : SRaw) : SForm :=
  let d := r.f1; let a := r.f2; let b := r.f3; let sw := r.sw
  match r.fn.toNat with
  | 0x00 => sform [] [] (.sadd d a b sw)
  | 0x01 => sform [] [] (.ssub d a b sw)
  | 0x02 => sform [] [] (.smul d a b sw)
  | 0x03 => sform [] [] (.smulh d a b sw)
  | 0x04 => sform [] [] (.sand d a b sw)
  | 0x05 => sform [] [] (.sor d a b sw)
  | 0x06 => sform [] [] (.sxor d a b sw)
  | 0x07 => sform [] [] (.sshl d a b sw)
  | 0x08 => sform [] [] (.sshr d a b sw)
  | 0x09 => sform [] [] (.ssra d a b sw)
  | 0x0A => sform [] [] (.smin d a b sw)
  | 0x0B => sform [] [] (.smax d a b sw)
  | 0x0C => sform [(8, b.toNat)] [] (.smov d a sw)
  | _ => ⟨[], [(1, true)], [], [], .snop sw⟩

/-- The AREG members (R56, R102); b is reserved of every fn but ASETX's. -/
def aregForm (r : SRaw) : SForm :=
  let d := r.f1; let a := r.f2; let b := r.f3; let sw := r.sw
  match r.fn.toNat with
  | 0 => sform [(8, b.toNat)] [(14, !even a), (20, 15 < d.toNat)] (.asetb (d.setWidth 4) a sw)
  | 1 => sform [] [(20, 15 < d.toNat)] (.asetx (d.setWidth 4) a b sw)
  | 2 => sform [(8, b.toNat)] [(14, 15 < a.toNat)] (.aget d (a.setWidth 4) 0 sw)
  | 3 => sform [(8, b.toNat)] [(14, 15 < a.toNat)] (.aget d (a.setWidth 4) 1 sw)
  | 4 => sform [(8, b.toNat)] [(14, 15 < a.toNat)] (.aget d (a.setWidth 4) 2 sw)
  | 5 => sform [(8, b.toNat)] [(14, 15 < a.toNat)] (.aget d (a.setWidth 4) 3 sw)
  | _ => ⟨[(8, b.toNat)], [(1, true)], [], [], .snop sw⟩

/-- imm13 lies outside 0 to hi (R67 reason 5). -/
def immOut (i : BitVec 13) (hi : Nat) : Bool := hi < i.toNat

/-- The scalar opcode map (R54, R56).  `none`: unassigned, or ERET outside handler mode (R117). -/
def scalarForm (c : Ctx) (r : SRaw) : Option SForm :=
  let d := r.f1; let a := r.f2; let b := r.f3; let sw := r.sw; let i := r.imm13
  match r.op.toNat with
  | 0x01 => some (saluForm r)
  | 0x02 => some (sform [] [] (.saddi d a i sw))
  | 0x03 => some (sform [] [] (.smuli d a i sw))
  | 0x04 => some (sform [] [] (.sandi d a i sw))
  | 0x05 => some (sform [] [] (.sori d a i sw))
  | 0x06 => some (sform [] [] (.sxori d a i sw))
  | 0x07 => some (sform [] [] (.smini d a i sw))
  | 0x08 => some (sform [] [] (.smaxi d a i sw))
  | 0x09 => some (sform [] [(1, immOut i 31)] (.sshli d a (i.setWidth 5) sw))
  | 0x0A => some (sform [] [(1, immOut i 31)] (.sshri d a (i.setWidth 5) sw))
  | 0x0B => some (sform [] [(1, immOut i 31)] (.ssrai d a (i.setWidth 5) sw))
  | 0x0C => some (sform [] [] (.slui d r.imm19 sw))
  | 0x0D => some (sform [] [] (.smovi d r.imm19 sw))
  | 0x10 => some (sform [(1, r.fn.toNat)] [] (.swiden d a b sw))
  | 0x11 => some (sform [(1, r.fn.toNat)] [] (.srange d a b sw))
  | 0x12 =>
    let ins := match r.fn.toNat with
      | 0 => Instr.srnggetLo d a sw
      | 1 => .srnggetHi d a sw
      | _ => .srnggetTop d a sw
    some ⟨[(8, b.toNat)], [(1, 2 < r.fn.toNat)], [], [], ins⟩
  | 0x14 => some ⟨[], [(22, 5 < r.sbCond.toNat)], [], [], .sb (scondOf r.sbCond) r.sbA r.sbB r.sbOff sw⟩
  | 0x15 => some (sform [] [] (.sj r.imm25 sw))
  | 0x16 => some (sform [] [] (.sjal r.imm25 sw))
  | 0x17 => some (sform [(1, r.fn.toNat), (8, b.toNat), (20, d.toNat)] [(14, !even a)] (.sjr a sw))
  | 0x18 => some (sform [(1, r.fn.toNat), (8, b.toNat)] [(14, 15 < a.toNat)] (.skmov d (a.setWidth 4) sw))
  | 0x19 => some (aregForm r)
  | 0x1A => some (sform [(14, a.toNat)] [(1, !smfsOk c.handler i)] (.smfs d i sw))
  | 0x1B => some (sform [(20, d.toNat)] [(1, !smtsOk c.handler i)] (.smts a i sw))
  | 0x1C => some (sform [] [(14, 15 < a.toNat)] (.sld d (a.setWidth 4) b r.fn sw))
  | 0x1D => some (sform [] [(14, 15 < a.toNat)] (.sst d (a.setWidth 4) b r.fn sw))
  | 0x20 => some (sform [(20, d.toNat)] [] (.lrun r.imm19 sw))
  | 0x21 => some (sform [(1, r.fn.toNat), (8, b.toNat), (14, a.toNat), (20, d.toNat)] [] (.lsync sw))
  -- SC: the a field is f1, the b field is f2, ctl13 is imm13
  | 0x22 => some (sform [(11, (bits i 10 3).toNat)] [(20, !even d)] (.tcopy d a (bits i 0 5) (bits i 5 5) sw))
  | 0x23 => some ⟨[(3, (bits i 2 11).toNat), (14, a.toNat)], [(1, (bits i 0 2).toNat == 3)], [], [],
      .cwait (ctrOf (bits i 0 2)) d sw⟩
  | 0x24 =>
    let acq := bit i 2
    let sc := bits i 3 3
    some ⟨[(4, if acq then 0 else sc.toNat), (7, (bits i 6 7).toNat)], [(1, (bits i 0 2).toNat == 3)],
      [(4, acq && decide (5 < sc.toNat))], [(14, !even a), (20, !even d)],
      .mwait (mcmpOf (bits i 0 2)) (if acq then some (scopeOf sc) else none) d a sw⟩
  | 0x25 => some ⟨[(3, (bits i 2 11).toNat)], [(1, (bits i 0 2).toNat == 3)], [], [(14, !even a)],
      .yield (ctrOf (bits i 0 2)) d a sw⟩
  | 0x26 => some (sform [(6, (bits i 5 8).toNat)] [(20, !even d)] (.attn d a (bits i 0 5) sw))
  | 0x27 => some (sform [(5, (bits i 4 9).toNat), (14, a.toNat)] [(20, !even d)] (.tvlayout d (bits i 0 4) sw))
  | 0x28 => some (sform [(20, d.toNat)] [(1, immOut i 15)] (.bar a (i.setWidth 4) sw))
  | 0x29 => some (sform [(20, d.toNat)] [(1, immOut i 4095)] (.stgacq a (i.setWidth 12) sw))
  | 0x2A => some (sform [(20, d.toNat)] [(1, immOut i 4095)] (.stgrel a (i.setWidth 12) sw))
  | 0x2B => some (sform [(14, a.toNat), (20, d.toNat)] [(1, immOut i 4095)] (.grow (i.setWidth 12) sw))
  | 0x2C => some (sform [(14, a.toNat), (20, d.toNat)] [(1, immOut i 4095)] (.shrink (i.setWidth 12) sw))
  | 0x2D => some (sform [(3, (bits i 2 11).toNat), (14, a.toNat)] [(20, !even d)] (.task d (bits i 0 2) sw))
  | 0x2E =>
    let ord := bits r.fn 0 2
    let sc := bits r.fn 2 3
    some ⟨[(6, (bits r.fn 5 2).toNat), (8, b.toNat), (14, a.toNat), (20, d.toNat)], [(1, ord.toNat == 0)],
      [(3, decide (5 < sc.toNat))], [], .sfence (fordOf ord) (scopeOf sc) sw⟩
  | 0x38 => some (sform [(14, a.toNat), (20, d.toNat)] [] (.trap i sw))
  | 0x39 => some (sform [(14, a.toNat), (20, d.toNat)] [] (.brk i sw))
  | 0x3A =>
    if c.handler then
      some ⟨[(8, b.toNat), (14, a.toNat), (20, d.toNat)], [(1, 1 < r.fn.toNat)], [], [],
        if r.fn.toNat = 0 then .eret sw else .eretSkip sw⟩
    else none
  | 0x3B => some (sform [(1, r.fn.toNat), (8, b.toNat), (14, a.toNat), (20, d.toNat)] [] (.sexit sw))
  | 0x3C => some (sform [(1, r.fn.toNat), (8, b.toNat), (14, a.toNat), (20, d.toNat)] [] (.snop sw))
  | _ => none

/-- Decode a scalar word: the instruction, or the reason and bit of R67 and R68. -/
def decodeScalar (c : Ctx) (w : BitVec 32) : Except (Nat × Nat) Instr :=
  match scalarForm c (SRaw.ofWord w) with
  | none => .error (1, 26)
  | some f =>
    match f.err with
    | some e => .error e
    | none => .ok f.ins

/-! ## Lane words -/

/-- Fields of a lane word (R53); ext is ext[5:0], sb and sc are ext[7] and ext[6]. -/
structure LRaw where
  op  : BitVec 10
  d   : BitVec 8
  a   : BitVec 8
  b   : BitVec 8
  c   : BitVec 8
  neg : Bool
  p   : BitVec 3
  ty  : BitVec 4
  rm  : BitVec 3
  sat : Bool
  nf  : Bool
  sw  : Bool
  sb  : Bool
  sc  : Bool
  ext : BitVec 6
  imm : BitVec 32
  deriving DecidableEq, Repr

/-- Cut a lane word into its fields (R53). -/
def LRaw.ofWord (w : BitVec 96) : LRaw :=
  { op := bits w 86 10, d := bits w 78 8, a := bits w 70 8, b := bits w 62 8, c := bits w 54 8, neg := bit w 53,
    p := bits w 50 3, ty := bits w 46 4, rm := bits w 43 3, sat := bit w 42, nf := bit w 41, sw := bit w 40,
    sb := bit w 39, sc := bit w 38, ext := bits w 32 6, imm := bits w 0 32 }

/-- Put the fields of a lane word together (R53). -/
def LRaw.toWord (r : LRaw) : BitVec 96 :=
  r.op ++ r.d ++ r.a ++ r.b ++ r.c ++ BitVec.ofBool r.neg ++ r.p ++ r.ty ++ r.rm ++ BitVec.ofBool r.sat ++
    BitVec.ofBool r.nf ++ BitVec.ofBool r.sw ++ BitVec.ofBool r.sb ++ BitVec.ofBool r.sc ++ r.ext ++ r.imm

/-- What a lane word of one opcode says: for each field the part that must be 0 (reason 3), and the failing checks by
reason. -/
structure LForm where
  immBad : Nat
  extBad : Nat
  scBad  : Nat
  sbBad  : Nat
  satBad : Nat
  rmBad  : Nat
  tyBad  : Nat
  cBad   : Nat
  bBad   : Nat
  aBad   : Nat
  dBad   : Nat
  /-- reason 2 -/
  sub    : List (Nat × Bool)
  /-- reason 4 -/
  code   : List (Nat × Bool)
  /-- reason 6 -/
  tyNo   : List (Nat × Bool)
  /-- reason 5, per register field -/
  clsC   : Bool
  clsB   : Bool
  clsA   : Bool
  clsD   : Bool
  /-- reason 8 -/
  pgBad  : Bool
  ins    : Instr

/-- The first failing check of a lane word (R67, R68). -/
def LForm.err (f : LForm) : Option (Nat × Nat) :=
  firstReason
    [(3, firstBad [(0, f.immBad), (32, f.extBad), (38, f.scBad), (39, f.sbBad), (42, f.satBad), (43, f.rmBad),
        (46, f.tyBad), (54, f.cBad), (62, f.bBad), (70, f.aBad), (78, f.dBad)]),
     (2, firstFail f.sub), (4, firstFail f.code), (6, firstFail f.tyNo),
     (5, firstFail [(54, f.clsC), (62, f.clsB), (70, f.clsA), (78, f.clsD)]), (8, firstFail [(50, f.pgBad)])]

/-- 1 for a set flag. -/
def flag (b : Bool) : Nat := if b then 1 else 0

namespace LRaw

/-- The shared fields of the typed instruction. -/
def mods (r : LRaw) : Mods := ⟨r.neg, r.p, r.nf, r.sw⟩

/-- Every field reserved, ty 0 only (R59, R62); the opcodes then free the fields they use.  A nonzero rm or a set sat where R63
does not permit it is reason 3 (log entry 94: DEDUCED). -/
def base (r : LRaw) (ins : Instr) : LForm :=
  { immBad := r.imm.toNat, extBad := r.ext.toNat, scBad := flag r.sc, sbBad := flag r.sb, satBad := flag r.sat,
    rmBad := r.rm.toNat, tyBad := 0, cBad := r.c.toNat, bBad := r.b.toNat, aBad := r.a.toNat, dBad := r.d.toNat,
    sub := [], code := [], tyNo := [(46, r.ty.toNat != 0)], clsC := false, clsB := false, clsA := false,
    clsD := false, pgBad := false, ins := ins }

def t (r : LRaw) : Ty := tyOf r.ty
/-- ib: imm32 stands in place of b (R61). -/
def ib (r : LRaw) : Bool := bit r.ext 5
/-- sd: d names an S register (R61). -/
def sd (r : LRaw) : Bool := bit r.ext 4
/-- The source type of a conversion (R61). -/
def src (r : LRaw) : Ty := tyOf (bits r.ext 0 4)

/-- A selected value outside S, K and, where it may stand, LID; or an odd pair (R60). -/
def selBad (lidOk pair : Bool) (x : BitVec 8) : Bool :=
  decide (80 < x.toNat) || (x.toNat == 80 && !lidOk) || (decide (x.toNat < 80) && pair && !even x)

/-- Operand b of the forms 'V, S/K or imm'. -/
def opB (r : LRaw) : OpB :=
  if r.ib then .imm r.imm else if r.sb then (if r.b.toNat = 80 then .lid else .u (uniOf r.b)) else .v r.b

/-- Operand b of the forms 'V or S/K'. -/
def opBs (r : LRaw) : OpC :=
  if r.sb then (if r.b.toNat = 80 then .lid else .u (uniOf r.b)) else .v r.b

/-- Operand c. -/
def opC (r : LRaw) : OpC :=
  if r.sc then (if r.c.toNat = 80 then .lid else .u (uniOf r.c)) else .v r.c

/-- Destination with sd. -/
def dst (r : LRaw) : Dst := if r.sd then .s (r.d.setWidth 6) else .v r.d

def ordC (r : LRaw) : BitVec 2 := bits r.ext 4 2
def scopeC (r : LRaw) : BitVec 3 := bits r.ext 1 3

end LRaw

namespace LForm

/-- d is a V register of the type. -/
def dV (f : LForm) (r : LRaw) (ty : Ty) : LForm := { f with dBad := 0, clsD := !vOk ty r.d }
/-- d is one V register. -/
def dV1 (f : LForm) : LForm := { f with dBad := 0 }
/-- d is P1 to P7 (R59). -/
def dP (f : LForm) (r : LRaw) : LForm := { f with dBad := 0, clsD := decide (7 < r.d.toNat) || r.d.toNat == 0 }
/-- a is a V register of the type. -/
def aV (f : LForm) (r : LRaw) (ty : Ty) : LForm := { f with aBad := 0, clsA := !vOk ty r.a }
def aV1 (f : LForm) : LForm := { f with aBad := 0 }
def aP (f : LForm) (r : LRaw) : LForm := { f with aBad := 0, clsA := decide (7 < r.a.toNat) }
/-- a is an A register. -/
def aArr (f : LForm) (r : LRaw) : LForm := { f with aBad := 0, clsA := decide (15 < r.a.toNat) }
/-- a is an even V pair. -/
def aPair (f : LForm) (r : LRaw) : LForm := { f with aBad := 0, clsA := !even r.a }
/-- b is V, S/K, LID or the immediate; `allowed` are the further ext bits the opcode uses (R60, R61).  With ib set, sb and b
count as reserved: reason 3, which the manual does not say (log entry 82: DESIGN CHOICE). -/
def bImm (f : LForm) (r : LRaw) (ty : Ty) (allowed : BitVec 6) : LForm :=
  if r.ib then { f with immBad := 0, extBad := (r.ext &&& ~~~(allowed ||| 0x20)).toNat }
  else { f with bBad := 0, sbBad := 0, extBad := (r.ext &&& ~~~allowed).toNat,
                clsB := if r.sb then LRaw.selBad true ty.is64 r.b else !vOk ty r.b }
/-- b is V, S/K or LID. -/
def bSel (f : LForm) (r : LRaw) (ty : Ty) : LForm :=
  { f with bBad := 0, sbBad := 0, clsB := if r.sb then LRaw.selBad true ty.is64 r.b else !vOk ty r.b }
/-- b is a uniform register, its selector required (R60). -/
def bUni (f : LForm) (r : LRaw) : LForm :=
  { f with bBad := 0, sbBad := flag (!r.sb), clsB := r.sb && LRaw.selBad false false r.b }
def bV1 (f : LForm) : LForm := { f with bBad := 0 }
def bP (f : LForm) (r : LRaw) : LForm := { f with bBad := 0, clsB := decide (7 < r.b.toNat) }
/-- c is V, S/K or LID of the type. -/
def cSel (f : LForm) (r : LRaw) (ty : Ty) : LForm :=
  { f with cBad := 0, scBad := 0, clsC := if r.sc then LRaw.selBad true ty.is64 r.c else !vOk ty r.c }
/-- c is a uniform register, its selector required; pair: an even pair (R60). -/
def cUni (f : LForm) (r : LRaw) (pair : Bool) : LForm :=
  { f with cBad := 0, scBad := flag (!r.sc), clsC := r.sc && LRaw.selBad false pair r.c }
def cV (f : LForm) (r : LRaw) (ty : Ty) : LForm := { f with cBad := 0, clsC := !vOk ty r.c }
def cP (f : LForm) (r : LRaw) : LForm := { f with cBad := 0, clsC := decide (7 < r.c.toNat) }
/-- imm32 is the instruction's own. -/
def imm (f : LForm) : LForm := { f with immBad := 0 }
/-- ext[5:0] bits that the opcode uses. -/
def ext (f : LForm) (r : LRaw) (allowed : BitVec 6) : LForm := { f with extBad := (r.ext &&& ~~~allowed).toNat }
/-- The permitted types (R62). -/
def types (f : LForm) (ok : Bool) : LForm := { f with tyNo := [(46, !ok)] }
/-- ty is reserved under R67 (R315). -/
def tyResv (f : LForm) (r : LRaw) : LForm := { f with tyBad := r.ty.toNat, tyNo := [] }
/-- rm may be nonzero (R63). -/
def rmOk (f : LForm) (r : LRaw) : LForm := { f with rmBad := 0, code := f.code ++ [(43, decide (5 < r.rm.toNat))] }
def satOk (f : LForm) : LForm := { f with satBad := 0 }
def subBad (f : LForm) (pos : Nat) (b : Bool) : LForm := { f with sub := f.sub ++ [(pos, b)] }
/-- pg must be 0 (R65). -/
def pg0 (f : LForm) (r : LRaw) : LForm := { f with pgBad := r.neg || r.p != 0 }
/-- ty agrees with the element size of the array register a (R62). -/
def arr (f : LForm) (c : Ctx) (r : LRaw) (ok : Bool) : LForm :=
  { f with tyNo := [(46, !ok || (decide (r.a.toNat ≤ 15) && !arrOk c r.t (r.a.setWidth 4)))] }
/-- ord and scope of ext (R61, R64): which ord codes are assigned, and that a plain or relaxed access has scope 0.  A scope
that must be 0 counts as reserved: reason 3, which the manual does not say (log entry 83: DESIGN CHOICE). -/
def ordScope (f : LForm) (r : LRaw) (ordOk : Bool) (plain0 : Bool) : LForm :=
  { f with
    extBad := (r.ext &&& 1).toNat + (if plain0 && r.ordC == 0 then 2 * r.scopeC.toNat else 0),
    sub := [(36, !ordOk)],
    code := f.code ++ [(33, decide (5 < r.scopeC.toNat))] }

/-- pos [4:0] and len [13:8] of IBFX and IBFI; the other bits are reserved (R59, R123). -/
def bf (f : LForm) (r : LRaw) : LForm :=
  { f with immBad := (r.imm &&& ~~~(0x3F1F#32)).toNat, sub := f.sub ++ [(8, !lenOk (bits r.imm 8 6))] }
/-- Source and destination types of a conversion: (source fails, destination fails) (R62). -/
def cvt (f : LForm) (srcBad dstBad : Bool) : LForm := { f with tyNo := [(32, srcBad), (46, dstBad)] }
/-- Destination of XBALLOT, XVOTE, XREDUCE: V, or S with sd; pair: even (R61, R132, R133). -/
def dDst (f : LForm) (r : LRaw) (pair : Bool) : LForm :=
  { f with dBad := 0, clsD := (r.sd && decide (63 < r.d.toNat)) || (pair && !even r.d) }
def aRun (f : LForm) (r : LRaw) (k : Nat) : LForm := { f with aBad := 0, clsA := !runOk r.a k }
def bRun (f : LForm) (r : LRaw) (k : Nat) : LForm := { f with bBad := 0, clsB := !runOk r.b k }
def dRun (f : LForm) (r : LRaw) (k : Nat) : LForm := { f with dBad := 0, clsD := !runOk r.d k }
def dZ (f : LForm) (r : LRaw) (c : Ctx) : LForm := { f with dBad := 0, clsD := !zOk c r.d }
def aZ (f : LForm) (r : LRaw) (c : Ctx) : LForm := { f with aBad := 0, clsA := !zOk c r.a }
/-- The data of ATOM.CAS: a pair, or a run of four on a multiple of 4 (R59). -/
def cCas (f : LForm) (r : LRaw) : LForm := { f with cBad := 0, clsC := !casOk r.t r.c }
/-- The target of a lane CWAIT: a uniform register or the immediate; neither is reason 3, bit 39 (R60, R141).  With ib set,
sb and b count as reserved (log entry 82: DESIGN CHOICE). -/
def bCw (f : LForm) (r : LRaw) : LForm :=
  if r.ib then { f with immBad := 0, extBad := (r.ext &&& ~~~(0x23#6)).toNat }
  else { f with bBad := 0, sbBad := flag (!r.sb), extBad := (r.ext &&& ~~~(3#6)).toNat,
                clsB := r.sb && LRaw.selBad false false r.b }
/-- imm32[3:0] is a layout, imm32[31:4] is reserved (R303). -/
def lay (f : LForm) (r : LRaw) : LForm := { f with immBad := (r.imm &&& ~~~(0xF#32)).toNat }

end LForm

/-- The lane opcode map (R58, R59, R61 to R66).  `none`: unassigned. -/
def laneForm (c : Ctx) (r : LRaw) : Option LForm :=
  let m := r.mods; let t := r.t; let rm := rmOf r.rm
  let d := r.d; let a := r.a; let nf := r.nf; let sw := r.sw
  let off := r.imm
  let n := r.a.setWidth 4
  match r.op.toNat with
  | 0x001 => some ((((((r.base (.iadd m t r.sat d a r.opB)).dV r t).aV r t).bImm r t 0).types t.int4).satOk)
  | 0x002 => some ((((((r.base (.isub m t r.sat d a r.opB)).dV r t).aV r t).bImm r t 0).types t.int4).satOk)
  | 0x003 => some ((((((r.base (.imul m t r.sat d a r.opB)).dV r t).aV r t).bImm r t 0).types t.int4).satOk)
  | 0x004 => some (((((r.base (.imulh m t d a r.opB)).dV r t).aV r t).bImm r t 0).types t.int4)
  | 0x005 => some ((((((r.base (.imad m t r.sat d a r.opB r.opC)).dV r t).aV r t).bImm r t 0).cSel r t).types t.int4 |>.satOk)
  | 0x006 => some (((((r.base (.iabs m t r.sat d a)).dV r t).aV r t).types t.int4).satOk)
  | 0x007 => some (((((r.base (.ineg m t r.sat d a)).dV r t).aV r t).types t.int4).satOk)
  | 0x008 => some (((((r.base (.imin m t d a r.opB)).dV r t).aV r t).bImm r t 0).types t.int4)
  | 0x009 => some (((((r.base (.imax m t d a r.opB)).dV r t).aV r t).bImm r t 0).types t.int4)
  | 0x00A => some (((((r.base (.iclamp m t d a r.opB r.opC)).dV r t).aV r t).bImm r t 0).cSel r t |>.types t.int4)
  | 0x010 => some (((((r.base (.iand m t d a r.opB)).dV r t).aV r t).bImm r t 0).types t.int4)
  | 0x011 => some (((((r.base (.ior m t d a r.opB)).dV r t).aV r t).bImm r t 0).types t.int4)
  | 0x012 => some (((((r.base (.ixor m t d a r.opB)).dV r t).aV r t).bImm r t 0).types t.int4)
  | 0x013 => some ((((r.base (.inot m t d a)).dV r t).aV r t).types t.int4)
  | 0x014 => some (((((r.base (.ishl m t d a r.opB)).dV r t).aV r t).bImm r t 0).types t.int4)
  | 0x015 => some (((((r.base (.ishr m t d a r.opB)).dV r t).aV r t).bImm r t 0).types t.int4)
  | 0x016 => some (((((r.base (.isra m t d a r.opB)).dV r t).aV r t).bImm r t 0).types t.int4)
  | 0x017 => some ((((r.base (.iclz m t d a)).dV r t).aV r t).types t.int4)
  | 0x018 => some ((((r.base (.ipopc m t d a)).dV r t).aV r t).types t.int4)
  | 0x019 => some ((((r.base (.ibrev m t d a)).dV r t).aV r t).types t.int4)
  | 0x01A => some ((((r.base (.ibfx m t d a (bits off 0 5) (bits off 8 6))).dV r t).aV r t).types t.int4 |>.bf r)
  | 0x01B => some (((((r.base (.ibfi m t d a r.opBs (bits off 0 5) (bits off 8 6))).dV r t).aV r t).bSel r t).types t.int4 |>.bf r)
  | 0x01C => some (((((r.base (.icmp m t (condOf (bits r.ext 0 4)) (d.setWidth 3) a r.opB)).dP r).aV r t).bImm r t 0xF).types t.int4 |>.subBad 32 (decide (5 < (bits r.ext 0 4).toNat)))
  | 0x01D => some (((((r.base (.isel m t d a r.opB (r.c.setWidth 3))).dV r t).aV r t).bImm r t 0).cP r |>.types t.int4)
  | 0x01E => some ((((r.base (.imov m t d a)).dV r t).aV r t).types t.int4)
  | 0x01F => some (((r.base (.imovi m t d off)).dV r t).imm.types t.int4)
  | 0x020 => some (((((r.base (.icvt m t r.src rm r.sat d a)).dV r t).aV r r.src).ext r 0xF).cvt (!r.src.int8c) (!t.int8c) |>.satOk |>.rmOk r)
  | 0x021 => some ((((r.base (.vwiden m d (uniOf r.b) (uniOf r.c))).dV1).bUni r).cUni r false)
  | 0x022 => some ((((r.base (.vrange m d (uniOf r.b) (uniOf r.c))).dV1).bUni r).cUni r false)
  | 0x030 => some ((((((r.base (.fadd m t rm d a r.opB)).dV r t).aV r t).bImm r t 0).types t.flt5).rmOk r)
  | 0x031 => some ((((((r.base (.fsub m t rm d a r.opB)).dV r t).aV r t).bImm r t 0).types t.flt5).rmOk r)
  | 0x032 => some ((((((r.base (.fmul m t rm d a r.opB)).dV r t).aV r t).bImm r t 0).types t.flt5).rmOk r)
  | 0x033 => some ((((((r.base (.ffma m t rm d a r.opB r.opC)).dV r t).aV r t).bImm r t 0).cSel r t).types t.flt5 |>.rmOk r)
  | 0x034 => some (((((r.base (.fmin m t d a r.opB)).dV r t).aV r t).bImm r t 0).types t.flt5)
  | 0x035 => some (((((r.base (.fmax m t d a r.opB)).dV r t).aV r t).bImm r t 0).types t.flt5)
  | 0x036 => some (((((r.base (.fcmp m t (condOf (bits r.ext 0 4)) (d.setWidth 3) a r.opB)).dP r).aV r t).bImm r t 0xF).types t.flt3 |>.subBad 32 (decide (7 < (bits r.ext 0 4).toNat)))
  | 0x037 => some (((((r.base (.frcp m t rm d a)).dV r t).aV r t).types t.flt3).rmOk r)
  | 0x038 => some (((((r.base (.frsq m t rm d a)).dV r t).aV r t).types t.flt3).rmOk r)
  | 0x039 => some (((((r.base (.fsqrt m t rm d a)).dV r t).aV r t).types t.flt3).rmOk r)
  | 0x03A => some ((((((r.base (.fdiv m t rm d a r.opB)).dV r t).aV r t).bImm r t 0).types t.flt3).rmOk r)
  | 0x03B => some (((((r.base (.fexp2 m t rm d a)).dV r t).aV r t).types t.flt3).rmOk r)
  | 0x03C => some (((((r.base (.flog2 m t rm d a)).dV r t).aV r t).types t.flt3).rmOk r)
  | 0x03D => some (((((r.base (.frnd m t rm d a)).dV r t).aV r t).types t.flt5).rmOk r)
  | 0x03E => some (((((r.base (.fcvt m t r.src rm r.sat d a)).dV r t).aV r r.src).ext r 0xF).cvt (r.src == .l6 || (t != .l6 && !t.fcvt r.src)) (t == .l6) |>.satOk |>.rmOk r)
  | 0x03F => some ((((r.base (.fclass m t d a)).dV r t).aV r t).types t.flt3)
  | 0x040 => some (((((r.base (.lmul m r.sat d a r.opB)).dV1).aV1).bImm r t 0).types (t == .l6) |>.satOk)
  | 0x041 => some (((((r.base (.lcvt m t r.src rm r.sat d a)).dV1).aV1).ext r 0xF).cvt (!t.lcvt r.src && (!r.src.lcvtAny || t.lcvtAny)) (!t.lcvt r.src && !t.lcvtAny) |>.satOk |>.rmOk r)
  | 0x050 => some ((((r.base (.pand m (d.setWidth 3) (a.setWidth 3) (r.b.setWidth 3))).dP r).aP r).bP r)
  | 0x051 => some ((((r.base (.por m (d.setWidth 3) (a.setWidth 3) (r.b.setWidth 3))).dP r).aP r).bP r)
  | 0x052 => some ((((r.base (.pxor m (d.setWidth 3) (a.setWidth 3) (r.b.setWidth 3))).dP r).aP r).bP r)
  | 0x053 => some (((r.base (.pnot m (d.setWidth 3) (a.setWidth 3))).dP r).aP r)
  | 0x054 => some (((r.base (.pmov m (d.setWidth 3) (a.setWidth 3))).dP r).aP r)
  | 0x055 => some ((r.base (.exmget m (d.setWidth 3))).dP r)
  | 0x056 => some ((r.base (.exmset m (a.setWidth 3))).aP r)
  | 0x057 => some ((r.base (.fxget m d)).dV1)
  | 0x058 => some ((r.base (.fxset m a)).aV1)
  | 0x060 => some (((((r.base (.xshfl m t (shflOf (bits r.ext 0 2)) d a r.opB)).dV r t).aV r t).bImm r .i32 3).types t.shfl)
  | 0x061 => some (((((r.base (.xbcast m t d a r.opB)).dV r t).aV r t).bImm r .i32 0).types t.shfl)
  | 0x062 => some ((((r.base (.xballot m r.dst (a.setWidth 3))).aP r).ext r 0x10).dDst r c.w64)
  | 0x063 => some ((((r.base (.xvote m (voteOf (bits r.ext 0 2)) r.dst (a.setWidth 3))).aP r).ext r 0x13).dDst r false |>.subBad 32 ((bits r.ext 0 2).toNat == 3))
  | 0x064 => some ((((r.base (.xprefix m t rm (xopOf (bits r.ext 0 3)) (bit r.ext 3) d a)).dV r t).aV r t).ext r 0xF |>.types (t.scan (xopOf (bits r.ext 0 3))) |>.subBad 32 (decide (5 < (bits r.ext 0 3).toNat)) |>.rmOk r)
  | 0x065 => some ((((r.base (.xreduce m t rm (xopOf (bits r.ext 0 3)) r.dst a)).aV r t).ext r 0x17).dDst r t.is64 |>.types (t.scan (xopOf (bits r.ext 0 3))) |>.subBad 32 (decide (5 < (bits r.ext 0 3).toNat)) |>.rmOk r)
  | 0x070 => some ((r.base (.lbrc m (bits off 16 16) (bits off 0 16))).imm)
  | 0x071 => some ((r.base (.ljoin nf sw)).pg0 r)
  | 0x072 => some (((r.base (.ljmp nf sw off)).imm).pg0 r)
  | 0x073 => some (((r.base (.lcall nf sw off)).imm).pg0 r)
  | 0x074 => some ((r.base (.lret nf sw)).pg0 r)
  | 0x075 => some ((r.base (.lexit nf sw)).pg0 r)
  | 0x076 => some (r.base (.lkill m))
  | 0x077 => some (((r.base (.spawn m a off)).imm).aRun r 4)
  | 0x078 => some (((r.base (.laneCwait m (ctrOf (bits r.ext 0 2)) (if r.ib then .imm off else .u (uniOf r.b)))).bCw r).subBad 32 ((bits r.ext 0 2).toNat == 3))
  | 0x080 => some (((((r.base (.ld m t (if r.ordC == 0 then none else some (scopeOf r.scopeC)) d n r.opBs off)).dV r t).aArr r).bSel r .i32).imm |>.ordScope r (r.ordC == 0 || r.ordC == 1) true |>.arr c r t.int8c)
  | 0x081 => some (((((r.base (.st m t (if r.ordC == 0 then none else some (scopeOf r.scopeC)) n r.opBs r.c off)).cV r t).aArr r).bSel r .i32).imm |>.ordScope r (r.ordC == 0 || r.ordC == 2) true |>.arr c r t.int8c)
  | 0x082 => some (((((r.base (.lds m t d n r.opBs off)).dV r t).aArr r).bSel r .i32).imm |>.arr c r t.int8c)
  | 0x083 => some (((((r.base (.sts m t n r.opBs r.c off)).cV r t).aArr r).bSel r .i32).imm |>.arr c r t.int8c)
  | 0x084 => some (((((r.base (.cst m t n (uniOf r.b) r.c off)).cV r t).aArr r).bUni r).imm |>.arr c r t.int8c)
  | 0x085 => some (((((r.base (.xlde m t d n (uniOf r.b) off)).dV r t).aArr r).bUni r).imm |>.arr c r t.int8c)
  | 0x086 => some (((r.base (.lfence nf sw (fordOf r.ordC) (scopeOf r.scopeC))).ordScope r (r.ordC != 0) false).pg0 r)
  | 0x090 => some ((((((r.base (.atomAdd m t (aordOf r.ordC r.scopeC) d n r.opBs r.c off)).dV r t).cV r t).aArr r).bSel r .i32).imm |>.ordScope r true true |>.arr c r t.int4)
  | 0x091 => some ((((((r.base (.atomMin m t (aordOf r.ordC r.scopeC) d n r.opBs r.c off)).dV r t).cV r t).aArr r).bSel r .i32).imm |>.ordScope r true true |>.arr c r t.int4)
  | 0x092 => some ((((((r.base (.atomMax m t (aordOf r.ordC r.scopeC) d n r.opBs r.c off)).dV r t).cV r t).aArr r).bSel r .i32).imm |>.ordScope r true true |>.arr c r t.int4)
  | 0x093 => some ((((((r.base (.atomAnd m t (aordOf r.ordC r.scopeC) d n r.opBs r.c off)).dV r t).cV r t).aArr r).bSel r .i32).imm |>.ordScope r true true |>.arr c r t.int4)
  | 0x094 => some ((((((r.base (.atomOr m t (aordOf r.ordC r.scopeC) d n r.opBs r.c off)).dV r t).cV r t).aArr r).bSel r .i32).imm |>.ordScope r true true |>.arr c r t.int4)
  | 0x095 => some ((((((r.base (.atomXor m t (aordOf r.ordC r.scopeC) d n r.opBs r.c off)).dV r t).cV r t).aArr r).bSel r .i32).imm |>.ordScope r true true |>.arr c r t.int4)
  | 0x096 => some ((((((r.base (.atomXchg m t (aordOf r.ordC r.scopeC) d n r.opBs r.c off)).dV r t).cV r t).aArr r).bSel r .i32).imm |>.ordScope r true true |>.arr c r t.int4)
  | 0x097 => some ((((((r.base (.atomCas m t (aordOf r.ordC r.scopeC) d n r.opBs r.c off)).dV r t).cCas r).aArr r).bSel r .i32).imm |>.ordScope r true true |>.arr c r t.int4)
  | 0x0A0 => some ((r.base (.mbegin nf sw)).pg0 r)
  | 0x0A1 => some ((r.base (.mend nf sw)).pg0 r)
  | 0x0A2 => some (((((r.base (.mma nf sw t rm d a r.b)).dZ r c).aRun r 16).bRun r (if c.w64 then 8 else 16)).types t.mma |>.rmOk r |>.pg0 r)
  | 0x0A3 => some (((((r.base (.mldf nf sw (bit r.ext 0) d (uniOf r.b) off)).dRun r (if bit r.ext 0 && c.w64 then 8 else 16)).bUni r).imm).ext r 1 |>.pg0 r)
  | 0x0A4 => some (((r.base (.mzero nf sw d)).dZ r c).pg0 r)
  | 0x0A5 => some (((((r.base (.maccld nf sw d (uniOf r.b) off)).dZ r c).bUni r).imm) |>.pg0 r)
  | 0x0A6 => some (((((r.base (.maccst nf sw a (uniOf r.b) off)).aZ r c).bUni r).imm) |>.pg0 r)
  | 0x0B0 => some ((((((r.base (.tvbegin m d a r.b (uniOf r.c) (bits off 0 4))).dV1).aPair r).bV1).cUni r true).lay r |>.tyResv r)
  | 0x0B1 => some ((((r.base (.tvret m a r.b)).aV1).bV1).tyResv r)
  | 0x0B2 => some (((((r.base (.tvcut m a r.b (uniOf r.c))).aV1).bV1).cUni r true).tyResv r)
  | 0x0B3 => some ((((r.base (.tvresume m d a)).dV1).aPair r).tyResv r)
  | 0x0B4 => some (((r.base (.tvbound m a)).aV1).tyResv r)
  | 0x0B5 => some ((((r.base (.tvstat m d a)).dV1).aV1).tyResv r)
  | _ => none

/-- Decode a lane word: the instruction, or the reason and bit of R67 and R68. -/
def decodeLane (c : Ctx) (w : BitVec 96) : Except (Nat × Nat) Instr :=
  match laneForm c (LRaw.ofWord w) with
  | none => .error (1, 86)
  | some f =>
    match f.err with
    | some e => .error e
    | none => .ok f.ins

/-! ## Encoding -/

/-- The fields of a scalar instruction's word (R52, R54 to R56); `none` where the instruction has no scalar word. -/
def encodeSRaw : Instr → Option SRaw
  | .sadd d a b sw => some (mkSR 0x01 d a b 0 sw)
  | .ssub d a b sw => some (mkSR 0x01 d a b 1 sw)
  | .smul d a b sw => some (mkSR 0x01 d a b 2 sw)
  | .smulh d a b sw => some (mkSR 0x01 d a b 3 sw)
  | .sand d a b sw => some (mkSR 0x01 d a b 4 sw)
  | .sor d a b sw => some (mkSR 0x01 d a b 5 sw)
  | .sxor d a b sw => some (mkSR 0x01 d a b 6 sw)
  | .sshl d a b sw => some (mkSR 0x01 d a b 7 sw)
  | .sshr d a b sw => some (mkSR 0x01 d a b 8 sw)
  | .ssra d a b sw => some (mkSR 0x01 d a b 9 sw)
  | .smin d a b sw => some (mkSR 0x01 d a b 10 sw)
  | .smax d a b sw => some (mkSR 0x01 d a b 11 sw)
  | .smov d a sw => some (mkSR 0x01 d a 0 12 sw)
  | .saddi d a i sw => some (mkSI 0x02 d a i sw)
  | .smuli d a i sw => some (mkSI 0x03 d a i sw)
  | .sandi d a i sw => some (mkSI 0x04 d a i sw)
  | .sori d a i sw => some (mkSI 0x05 d a i sw)
  | .sxori d a i sw => some (mkSI 0x06 d a i sw)
  | .smini d a i sw => some (mkSI 0x07 d a i sw)
  | .smaxi d a i sw => some (mkSI 0x08 d a i sw)
  | .sshli d a i sw => some (mkSI 0x09 d a (i.setWidth 13) sw)
  | .sshri d a i sw => some (mkSI 0x0A d a (i.setWidth 13) sw)
  | .ssrai d a i sw => some (mkSI 0x0B d a (i.setWidth 13) sw)
  | .slui d i sw => some (mkSU 0x0C d i sw)
  | .smovi d i sw => some (mkSU 0x0D d i sw)
  | .swiden d a b sw => some (mkSR 0x10 d a b 0 sw)
  | .srange d a b sw => some (mkSR 0x11 d a b 0 sw)
  | .srnggetLo d a sw => some (mkSR 0x12 d a 0 0 sw)
  | .srnggetHi d a sw => some (mkSR 0x12 d a 0 1 sw)
  | .srnggetTop d a sw => some (mkSR 0x12 d a 0 2 sw)
  | .sb c a b off sw => some (mkSB 0x14 c.code a b off sw)
  | .sj off sw => some (mkSJ 0x15 off sw)
  | .sjal off sw => some (mkSJ 0x16 off sw)
  | .sjr a sw => some (mkSR 0x17 0 a 0 0 sw)
  | .skmov d k sw => some (mkSR 0x18 d (k.setWidth 6) 0 0 sw)
  | .asetb n a sw => some (mkSR 0x19 (n.setWidth 6) a 0 0 sw)
  | .asetx n a b sw => some (mkSR 0x19 (n.setWidth 6) a b 1 sw)
  | .aget d n w sw => some (mkSR 0x19 d (n.setWidth 6) 0 (2 + w.setWidth 7) sw)
  | .smfs d n sw => some (mkSI 0x1A d 0 n sw)
  | .smts a n sw => some (mkSI 0x1B 0 a n sw)
  | .sld d n b off sw => some (mkSR 0x1C d (n.setWidth 6) b off sw)
  | .sst d n b off sw => some (mkSR 0x1D d (n.setWidth 6) b off sw)
  | .lrun i sw => some (mkSU 0x20 0 i sw)
  | .lsync sw => some (mkSR 0x21 0 0 0 0 sw)
  | .tcopy a b i nm1 sw => some (mkSI 0x22 a b ((0 : BitVec 3) ++ nm1 ++ i) sw)
  | .cwait c a sw => some (mkSI 0x23 a 0 ((0 : BitVec 11) ++ c.code) sw)
  | .mwait cmp acq a b sw => some (match acq with
    | none => mkSI 0x24 a b ((0 : BitVec 11) ++ cmp.code) sw
    | some s => mkSI 0x24 a b ((0 : BitVec 7) ++ s.code ++ (1 : BitVec 1) ++ cmp.code) sw)
  | .yield c a b sw => some (mkSI 0x25 a b ((0 : BitVec 11) ++ c.code) sw)
  | .attn a b ctl sw => some (mkSI 0x26 a b ((0 : BitVec 8) ++ ctl) sw)
  | .tvlayout a n sw => some (mkSI 0x27 a 0 ((0 : BitVec 9) ++ n) sw)
  | .bar a n sw => some (mkSI 0x28 0 a (n.setWidth 13) sw)
  | .stgacq a n sw => some (mkSI 0x29 0 a (n.setWidth 13) sw)
  | .stgrel a n sw => some (mkSI 0x2A 0 a (n.setWidth 13) sw)
  | .grow n sw => some (mkSI 0x2B 0 0 (n.setWidth 13) sw)
  | .shrink n sw => some (mkSI 0x2C 0 0 (n.setWidth 13) sw)
  | .task a p sw => some (mkSI 0x2D a 0 ((0 : BitVec 11) ++ p) sw)
  | .sfence o s sw => some (mkSR 0x2E 0 0 0 ((0 : BitVec 2) ++ s.code ++ o.code) sw)
  | .trap i sw => some (mkSI 0x38 0 0 i sw)
  | .brk i sw => some (mkSI 0x39 0 0 i sw)
  | .eret sw => some (mkSR 0x3A 0 0 0 0 sw)
  | .eretSkip sw => some (mkSR 0x3A 0 0 0 1 sw)
  | .sexit sw => some (mkSR 0x3B 0 0 0 0 sw)
  | .snop sw => some (mkSR 0x3C 0 0 0 0 sw)
  | _ => none

/-- A lane word with only the shared fields set (R53). -/
def lraw (op : BitVec 10) (m : Mods) : LRaw :=
  ⟨op, 0, 0, 0, 0, m.neg, m.p, 0, 0, false, m.nf, m.sw, false, false, 0, 0⟩

/-- The shared fields of an opcode whose pg must be 0 (R65). -/
def noGuard (nf sw : Bool) : Mods := ⟨false, 0, nf, sw⟩

namespace LRaw

/-- Set d, a and ty. -/
def dat (r : LRaw) (d a : BitVec 8) (ty : Ty) : LRaw := { r with d := d, a := a, ty := ty.code }
/-- Set operand b of the forms 'V, S/K or imm'. -/
def putB (r : LRaw) : OpB → LRaw
  | .v n => { r with b := n }
  | .u x => { r with b := x.code, sb := true }
  | .lid => { r with b := 80, sb := true }
  | .imm x => { r with imm := x, ext := r.ext ||| 0x20 }
/-- Set operand b of the forms 'V or S/K'. -/
def putBs (r : LRaw) : OpC → LRaw
  | .v n => { r with b := n }
  | .u x => { r with b := x.code, sb := true }
  | .lid => { r with b := 80, sb := true }
/-- Set operand c. -/
def putC (r : LRaw) : OpC → LRaw
  | .v n => { r with c := n }
  | .u x => { r with c := x.code, sc := true }
  | .lid => { r with c := 80, sc := true }
/-- Set a uniform operand b, with an offset. -/
def putU (r : LRaw) (x : Uni) (off : BitVec 32) : LRaw := { r with b := x.code, sb := true, imm := off }
/-- Set the destination of XBALLOT, XVOTE and XREDUCE. -/
def putD (r : LRaw) : Dst → LRaw
  | .v n => { r with d := n }
  | .s n => { r with d := n.setWidth 8, ext := r.ext ||| 0x10 }
/-- Set ord and scope (R61). -/
def putOrd (r : LRaw) (o : BitVec 2) (s : BitVec 3) : LRaw := { r with ext := o ++ s ++ (0 : BitVec 1) }

end LRaw

/-- ord and scope of an optional acquire or release. -/
def ordOpt (code : BitVec 2) : Option Scope → BitVec 2 × BitVec 3
  | none => (0, 0)
  | some s => (code, s.code)

/-- pos and len of IBFX and IBFI in imm32 (R59). -/
def bfImm (pos : BitVec 5) (len : BitVec 6) : BitVec 32 := (0 : BitVec 18) ++ len ++ (0 : BitVec 3) ++ pos

/-- The fields of a lane instruction's word (R53, R58, R59, R61); `none` where the instruction has no lane word. -/
def encodeLRaw : Instr → Option LRaw
  | .iadd m ty sat d a b => some (({ (lraw 0x001 m).dat d a ty with sat := sat } : LRaw).putB b)
  | .isub m ty sat d a b => some (({ (lraw 0x002 m).dat d a ty with sat := sat } : LRaw).putB b)
  | .imul m ty sat d a b => some (({ (lraw 0x003 m).dat d a ty with sat := sat } : LRaw).putB b)
  | .imulh m ty d a b => some (((lraw 0x004 m).dat d a ty).putB b)
  | .imad m ty sat d a b c => some ((({ (lraw 0x005 m).dat d a ty with sat := sat } : LRaw).putB b).putC c)
  | .iabs m ty sat d a => some ({ (lraw 0x006 m).dat d a ty with sat := sat })
  | .ineg m ty sat d a => some ({ (lraw 0x007 m).dat d a ty with sat := sat })
  | .imin m ty d a b => some (((lraw 0x008 m).dat d a ty).putB b)
  | .imax m ty d a b => some (((lraw 0x009 m).dat d a ty).putB b)
  | .iclamp m ty d a b c => some ((((lraw 0x00A m).dat d a ty).putB b).putC c)
  | .iand m ty d a b => some (((lraw 0x010 m).dat d a ty).putB b)
  | .ior m ty d a b => some (((lraw 0x011 m).dat d a ty).putB b)
  | .ixor m ty d a b => some (((lraw 0x012 m).dat d a ty).putB b)
  | .inot m ty d a => some ((lraw 0x013 m).dat d a ty)
  | .ishl m ty d a b => some (((lraw 0x014 m).dat d a ty).putB b)
  | .ishr m ty d a b => some (((lraw 0x015 m).dat d a ty).putB b)
  | .isra m ty d a b => some (((lraw 0x016 m).dat d a ty).putB b)
  | .iclz m ty d a => some ((lraw 0x017 m).dat d a ty)
  | .ipopc m ty d a => some ((lraw 0x018 m).dat d a ty)
  | .ibrev m ty d a => some ((lraw 0x019 m).dat d a ty)
  | .ibfx m ty d a pos len => some ({ (lraw 0x01A m).dat d a ty with imm := bfImm pos len })
  | .ibfi m ty d a b pos len => some (({ (lraw 0x01B m).dat d a ty with imm := bfImm pos len } : LRaw).putBs b)
  | .icmp m ty cond d a b => some (({ (lraw 0x01C m).dat (d.setWidth 8) a ty with ext := (0 : BitVec 2) ++ cond.code } : LRaw).putB b)
  | .isel m ty d a b c => some (({ (lraw 0x01D m).dat d a ty with c := c.setWidth 8 } : LRaw).putB b)
  | .imov m ty d a => some ((lraw 0x01E m).dat d a ty)
  | .imovi m ty d imm => some ({ (lraw 0x01F m).dat d 0 ty with imm := imm })
  | .icvt m ty src rm sat d a => some ({ (lraw 0x020 m).dat d a ty with rm := rm.code, sat := sat, ext := (0 : BitVec 2) ++ src.code })
  | .vwiden m d lo hi => some ({ lraw 0x021 m with d := d, b := lo.code, c := hi.code, sb := true, sc := true })
  | .vrange m d lo hi => some ({ lraw 0x022 m with d := d, b := lo.code, c := hi.code, sb := true, sc := true })
  | .fadd m ty rm d a b => some (({ (lraw 0x030 m).dat d a ty with rm := rm.code } : LRaw).putB b)
  | .fsub m ty rm d a b => some (({ (lraw 0x031 m).dat d a ty with rm := rm.code } : LRaw).putB b)
  | .fmul m ty rm d a b => some (({ (lraw 0x032 m).dat d a ty with rm := rm.code } : LRaw).putB b)
  | .ffma m ty rm d a b c => some ((({ (lraw 0x033 m).dat d a ty with rm := rm.code } : LRaw).putB b).putC c)
  | .fmin m ty d a b => some (((lraw 0x034 m).dat d a ty).putB b)
  | .fmax m ty d a b => some (((lraw 0x035 m).dat d a ty).putB b)
  | .fcmp m ty cond d a b => some (({ (lraw 0x036 m).dat (d.setWidth 8) a ty with ext := (0 : BitVec 2) ++ cond.code } : LRaw).putB b)
  | .frcp m ty rm d a => some ({ (lraw 0x037 m).dat d a ty with rm := rm.code })
  | .frsq m ty rm d a => some ({ (lraw 0x038 m).dat d a ty with rm := rm.code })
  | .fsqrt m ty rm d a => some ({ (lraw 0x039 m).dat d a ty with rm := rm.code })
  | .fdiv m ty rm d a b => some (({ (lraw 0x03A m).dat d a ty with rm := rm.code } : LRaw).putB b)
  | .fexp2 m ty rm d a => some ({ (lraw 0x03B m).dat d a ty with rm := rm.code })
  | .flog2 m ty rm d a => some ({ (lraw 0x03C m).dat d a ty with rm := rm.code })
  | .frnd m ty rm d a => some ({ (lraw 0x03D m).dat d a ty with rm := rm.code })
  | .fcvt m ty src rm sat d a => some ({ (lraw 0x03E m).dat d a ty with rm := rm.code, sat := sat, ext := (0 : BitVec 2) ++ src.code })
  | .fclass m ty d a => some ((lraw 0x03F m).dat d a ty)
  | .lmul m sat d a b => some (({ (lraw 0x040 m).dat d a .l6 with sat := sat } : LRaw).putB b)
  | .lcvt m ty src rm sat d a => some ({ (lraw 0x041 m).dat d a ty with rm := rm.code, sat := sat, ext := (0 : BitVec 2) ++ src.code })
  | .pand m d a b => some ({ lraw 0x050 m with d := d.setWidth 8, a := a.setWidth 8, b := b.setWidth 8 })
  | .por m d a b => some ({ lraw 0x051 m with d := d.setWidth 8, a := a.setWidth 8, b := b.setWidth 8 })
  | .pxor m d a b => some ({ lraw 0x052 m with d := d.setWidth 8, a := a.setWidth 8, b := b.setWidth 8 })
  | .pnot m d a => some ({ lraw 0x053 m with d := d.setWidth 8, a := a.setWidth 8 })
  | .pmov m d a => some ({ lraw 0x054 m with d := d.setWidth 8, a := a.setWidth 8 })
  | .exmget m d => some ({ lraw 0x055 m with d := d.setWidth 8 })
  | .exmset m a => some ({ lraw 0x056 m with a := a.setWidth 8 })
  | .fxget m d => some ({ lraw 0x057 m with d := d })
  | .fxset m a => some ({ lraw 0x058 m with a := a })
  | .xshfl m ty mode d a b => some (({ (lraw 0x060 m).dat d a ty with ext := (0 : BitVec 4) ++ mode.code } : LRaw).putB b)
  | .xbcast m ty d a b => some (((lraw 0x061 m).dat d a ty).putB b)
  | .xballot m d a => some (({ lraw 0x062 m with a := a.setWidth 8 } : LRaw).putD d)
  | .xvote m mode d a => some (({ lraw 0x063 m with a := a.setWidth 8, ext := (0 : BitVec 4) ++ mode.code } : LRaw).putD d)
  | .xprefix m ty rm op excl d a => some ({ (lraw 0x064 m).dat d a ty with rm := rm.code, ext := (0 : BitVec 2) ++ BitVec.ofBool excl ++ op.code })
  | .xreduce m ty rm op d a => some (({ (lraw 0x065 m).dat 0 a ty with rm := rm.code, ext := (0 : BitVec 3) ++ op.code } : LRaw).putD d)
  | .lbrc m tgt rpc => some ({ lraw 0x070 m with imm := tgt ++ rpc })
  | .ljoin nf sw => some (lraw 0x071 (noGuard nf sw))
  | .ljmp nf sw off => some ({ lraw 0x072 (noGuard nf sw) with imm := off })
  | .lcall nf sw off => some ({ lraw 0x073 (noGuard nf sw) with imm := off })
  | .lret nf sw => some (lraw 0x074 (noGuard nf sw))
  | .lexit nf sw => some (lraw 0x075 (noGuard nf sw))
  | .lkill m => some (lraw 0x076 m)
  | .spawn m a entry => some ({ lraw 0x077 m with a := a, imm := entry })
  | .laneCwait m ctr t => some (match t with
    | .u x => { lraw 0x078 m with ext := (0 : BitVec 4) ++ ctr.code, b := x.code, sb := true }
    | .imm x => { lraw 0x078 m with ext := (0x8 : BitVec 4) ++ ctr.code, imm := x })
  | .ld m ty acq d n b off => some (({ ((lraw 0x080 m).dat d (n.setWidth 8) ty).putOrd (ordOpt 1 acq).1 (ordOpt 1 acq).2 with imm := off } : LRaw).putBs b)
  | .st m ty rel n b c off => some (({ ((lraw 0x081 m).dat 0 (n.setWidth 8) ty).putOrd (ordOpt 2 rel).1 (ordOpt 2 rel).2 with imm := off, c := c } : LRaw).putBs b)
  | .lds m ty d n b off => some (({ (lraw 0x082 m).dat d (n.setWidth 8) ty with imm := off } : LRaw).putBs b)
  | .sts m ty n b c off => some (({ (lraw 0x083 m).dat 0 (n.setWidth 8) ty with imm := off, c := c } : LRaw).putBs b)
  | .cst m ty n b c off => some (({ (lraw 0x084 m).dat 0 (n.setWidth 8) ty with c := c } : LRaw).putU b off)
  | .xlde m ty d n b off => some (((lraw 0x085 m).dat d (n.setWidth 8) ty).putU b off)
  | .lfence nf sw o s => some ((lraw 0x086 (noGuard nf sw)).putOrd o.code s.code)
  | .atomAdd m ty o d n b c off => some (({ ((lraw 0x090 m).dat d (n.setWidth 8) ty).putOrd o.ordCode o.scopeCode with imm := off, c := c } : LRaw).putBs b)
  | .atomMin m ty o d n b c off => some (({ ((lraw 0x091 m).dat d (n.setWidth 8) ty).putOrd o.ordCode o.scopeCode with imm := off, c := c } : LRaw).putBs b)
  | .atomMax m ty o d n b c off => some (({ ((lraw 0x092 m).dat d (n.setWidth 8) ty).putOrd o.ordCode o.scopeCode with imm := off, c := c } : LRaw).putBs b)
  | .atomAnd m ty o d n b c off => some (({ ((lraw 0x093 m).dat d (n.setWidth 8) ty).putOrd o.ordCode o.scopeCode with imm := off, c := c } : LRaw).putBs b)
  | .atomOr m ty o d n b c off => some (({ ((lraw 0x094 m).dat d (n.setWidth 8) ty).putOrd o.ordCode o.scopeCode with imm := off, c := c } : LRaw).putBs b)
  | .atomXor m ty o d n b c off => some (({ ((lraw 0x095 m).dat d (n.setWidth 8) ty).putOrd o.ordCode o.scopeCode with imm := off, c := c } : LRaw).putBs b)
  | .atomXchg m ty o d n b c off => some (({ ((lraw 0x096 m).dat d (n.setWidth 8) ty).putOrd o.ordCode o.scopeCode with imm := off, c := c } : LRaw).putBs b)
  | .atomCas m ty o d n b c off => some (({ ((lraw 0x097 m).dat d (n.setWidth 8) ty).putOrd o.ordCode o.scopeCode with imm := off, c := c } : LRaw).putBs b)
  | .mbegin nf sw => some (lraw 0x0A0 (noGuard nf sw))
  | .mend nf sw => some (lraw 0x0A1 (noGuard nf sw))
  | .mma nf sw ty rm d a b => some ({ (lraw 0x0A2 (noGuard nf sw)).dat d a ty with b := b, rm := rm.code })
  | .mldf nf sw fragB d x off => some (({ lraw 0x0A3 (noGuard nf sw) with d := d, ext := (0 : BitVec 5) ++ BitVec.ofBool fragB } : LRaw).putU x off)
  | .mzero nf sw d => some ({ lraw 0x0A4 (noGuard nf sw) with d := d })
  | .maccld nf sw d x off => some (({ lraw 0x0A5 (noGuard nf sw) with d := d } : LRaw).putU x off)
  | .maccst nf sw a x off => some (({ lraw 0x0A6 (noGuard nf sw) with a := a } : LRaw).putU x off)
  | .tvbegin m d a b c lay => some ({ lraw 0x0B0 m with d := d, a := a, b := b, c := c.code, sc := true, imm := (0 : BitVec 28) ++ lay })
  | .tvret m a b => some ({ lraw 0x0B1 m with a := a, b := b })
  | .tvcut m a b c => some ({ lraw 0x0B2 m with a := a, b := b, c := c.code, sc := true })
  | .tvresume m d a => some ({ lraw 0x0B3 m with d := d, a := a })
  | .tvbound m a => some ({ lraw 0x0B4 m with a := a })
  | .tvstat m d a => some ({ lraw 0x0B5 m with d := d, a := a })
  | _ => none

/-- A word of either stream. -/
inductive Word where
  | scalar (w : BitVec 32)
  | lane (w : BitVec 96)
  deriving DecidableEq, Repr

/-- The word of an instruction; `none` for events and sub-steps. -/
def encode (i : Instr) : Option Word :=
  match encodeSRaw i with
  | some r => some (.scalar r.toWord)
  | none =>
    match encodeLRaw i with
    | some r => some (.lane r.toWord)
    | none => none

/-- Decode a word of either stream. -/
def decode (c : Ctx) : Word → Except (Nat × Nat) Instr
  | .scalar w => decodeScalar c w
  | .lane w => decodeLane c w

/-- The instruction that a word of the opcode table stands for, in the context that refuses least: nbits at most 32 is a
scalar word, more is a lane word.  Both are stored little-endian with bit 0 in the first byte (R52, R53), so the
table's numbering of bits is the word's. -/
def decodeTableWord (nbits w : Nat) : Option Instr :=
  if nbits ≤ 32 then (decodeScalar Ctx.any (BitVec.ofNat 32 w)).toOption
  else (decodeLane Ctx.any (BitVec.ofNat 96 w)).toOption

end Sys2Proof
end

