-- ==== Sys2Proof/Machine/Store.lean ====
section
/-!
DEFINITION. Store.lean: keyed lists in one canonical form, keys strictly rising.  `getD`/`putD` hold a total map with a
default: no entry equals the default, so equal maps are equal lists (memory, register files, check values).
`find`/`put`/`del` hold a partial map (groups, teams, launches, engine commands).
-/
namespace Sys2Proof.Store

variable {α : Type}

/-- The entry at a key. -/
def find : List (Nat × α) → Nat → Option α
  | [], _ => none
  | (j, x) :: m, k => if j < k then find m k else if j = k then some x else none

/-- Insert or replace the entry at a key. -/
def put : List (Nat × α) → Nat → α → List (Nat × α)
  | [], k, v => [(k, v)]
  | (j, x) :: m, k, v =>
    if j < k then (j, x) :: put m k v else if j = k then (k, v) :: m else (k, v) :: (j, x) :: m

/-- Remove the entry at a key. -/
def del : List (Nat × α) → Nat → List (Nat × α)
  | [], _ => []
  | (j, x) :: m, k => if j < k then (j, x) :: del m k else if j = k then m else (j, x) :: m

/-- The value at a key of a total map with default d. -/
def getD (d : α) (m : List (Nat × α)) (k : Nat) : α := (find m k).getD d

/-- Write a total map with default d: writing d removes the entry. -/
def putD [DecidableEq α] (d : α) (m : List (Nat × α)) (k : Nat) (v : α) : List (Nat × α) :=
  if v = d then del m k else put m k v

/-- Write consecutive keys. -/
def putsD [DecidableEq α] (d : α) : List (Nat × α) → Nat → List α → List (Nat × α)
  | m, _, [] => m
  | m, k, v :: vs => putsD d (putD d m k v) (k + 1) vs

/-- Change the entry at a key, if there is one. -/
def adjust (m : List (Nat × α)) (k : Nat) (f : α → α) : List (Nat × α) :=
  match find m k with
  | some x => put m k (f x)
  | none => m

/-- Keys strictly rising. -/
def sorted : List (Nat × α) → Bool
  | [] => true
  | [_] => true
  | (j, _) :: (k, y) :: m => decide (j < k) && sorted ((k, y) :: m)

/-- The canonical form of a total map with default d. -/
def wf [DecidableEq α] (d : α) (m : List (Nat × α)) : Bool :=
  sorted m && m.all fun e => e.2 != d

end Sys2Proof.Store
end

