-- ==== Sys2Proof/Machine/State.lean ====
section
/-!
DEFINITION. State.lean: everything the manual gives the machine (INVENTORY.md '## State'), as plain data.
-/
namespace Sys2Proof.Machine

open Sys2Proof

/-- Memory: one byte per listed physical address, in the canonical form of Store; what an unlisted address reads as is
`unlisted`. -/
abbrev Memory := List Host.Cell

/-- What a byte of memory that nothing has written reads as (log entry 1: DESIGN CHOICE, unsafe). -/
def unlisted : Byte := 0

/-- The canonical form of memory. -/
abbrev Memory.wf (m : Memory) : Prop := Store.wf unlisted m = true

/-- A shadow: signed bounds, or TOP (R142). -/
inductive Shadow
  | top
  | itv (lo hi : Int)
  deriving DecidableEq, Repr, Inhabited

/-- Why a step stops.  The part itself never stops; this is the model's only stop. -/
inductive Fault where
  /-- exec was given a word while no resident group is the issuing one.  Raised by every word's meaning; `step` sets
  the issuing group before it calls exec, so no run reaches it.  Safe: the machine stops where no claim is made. -/
  | noIssuingGroup
  deriving DecidableEq, Repr

/-- Why there is no meaning. -/
inductive Refusal where
  /-- Not modelled.  Safe: the machine stops. -/
  | notModelled (mnemonic : String)
  deriving DecidableEq, Repr

/-! ## Streams and groups -/

/-- One register write of an outstanding result (R33).  `ovl`: another write to the register, with no switch point
between, was outstanding too (R34, R143). -/
inductive PWrite
  /-- V register: the lanes written, the 64 lanes' values, the shadow after. -/
  | v (reg : Nat) (lanes : Mask) (vals : List W32) (sh : Shadow) (ovl : Bool)
  /-- S register 0 to 63; 64 + i is handler register S(56 + i). -/
  | s (reg : Nat) (val : W32) (sh : Shadow) (ovl : Bool)
  | p (reg : Nat) (lanes vals : Mask) (ovl : Bool)
  /-- flags ORed into FX (R172) -/
  | fxOr (flags : List (BitVec 6)) (ovl : Bool)
  /-- FX replaced (R128); ors: flags ORed in by overlapping results that have landed since -/
  | fxSet (lanes : Mask) (vals ors : List (BitVec 6)) (ovl : Bool)
  /-- a Z tile (R198) -/
  | z (tile : Nat) (entries : List W32)
  deriving DecidableEq, Repr, Inhabited

/-- One element that a load reads: where, and how it is extended (R157). -/
structure LoadElt where
  lane   : Nat
  pa     : Nat
  size   : Nat
  signed : Bool
  deriving DecidableEq, Repr, Inhabited

/-- What kind of result is outstanding: decides how it returns. -/
inductive PKind
  | plain
  /-- a read of memory that may use its core's unperformed writes (R248) -/
  | load
  /-- a read at the point of coherence: SLD, LD.ACQ at PAIR or wider (R163) -/
  | homeLoad
  /-- XLDE (R160) -/
  | expand
  /-- LDS: scratchpad; its addresses are team-relative -/
  | scratch
  | atomic
  /-- SMFS of a register that other agents change: sampled between issue and the write (R92) -/
  | sysreg (num : Nat)
  /-- MLDF: a fragment, B or A, of this many rows from a team-relative address on (R199) -/
  | frag (isB : Bool) (rows addr : Nat)
  /-- MACCLD: a tile from a team-relative address on (R201) -/
  | tile (addr : Nat)
  deriving DecidableEq, Repr, Inhabited

/-- An outstanding result (R33 to R35). -/
structure Pending where
  id        : Nat
  pc        : Va
  kind      : PKind
  writes    : List PWrite
  elts      : List LoadElt
  /-- lanes whose value is not yet taken: the line is not readable yet, the read comes later, or the lane's atomic is not
  yet performed -/
  unsampled : Mask
  /-- requests of an atomic not yet performed -/
  waiting   : List Nat
  /-- lanes of an atomic whose check value mismatched (R162) -/
  bad       : Mask
  /-- effective mask of the word, which gives an XLDE its positions (R159) -/
  eff       : Mask
  /-- registers (kind and number) in which an overlapping write has landed since, and the lanes it wrote (R34) -/
  met       : List (Nat × Nat × Mask)
  /-- of a matrix word's result: the words of each register, or of each 64 entries, that are still to be read (R199) -/
  rest      : List Mask
  /-- it is an acquire at this scope: LD.ACQ, an atomic, or a read that a fence followed (R252) -/
  acq       : Option Scope
  deriving DecidableEq, Repr, Inhabited

/-- What a stream waits for (R107 to R113, R141). -/
inductive Wait
  | cwait (ctr : Ctr) (target : BitVec 16)
  | mwait (cmp : MCmp) (acq : Option Scope) (addr : Nat) (v : W64)
  | bar (n : Nat)
  | stg (x st : Nat) (phase : Bool)
  | grow (q seq : Nat)
  | yield (ctr : Ctr) (target : BitVec 16) (cont : Va)
  deriving DecidableEq, Repr, Inhabited

/-- A release: the group that made it, its scope, and what it covers (R245, R251). -/
structure Rel where
  scope : Scope
  gid   : Nat
  lid   : Nat
  tid   : Option Nat
  cover : List Nat
  deriving DecidableEq, Repr, Inhabited

/-- A fence with .REL or .FULL that later writes of its stream follow: what it covers, its scope, and whether the covered
writes must be performed (R251, R253). -/
structure FenceRel where
  cover : List Nat
  scope : Scope
  far   : Bool
  deriving DecidableEq, Repr, Inhabited

/-- One instruction stream of a group: results outstanding (oldest first), the sw park, what it waits for, and its
ordering obligations (R33, R249 to R253). -/
structure Stream where
  out  : List Pending
  park : Bool
  wait : Option Wait
  /-- sw of the waiting word -/
  wsw  : Bool
  /-- requests that a later release of the stream covers -/
  cov  : List Nat
  /-- fences that later writes of the stream follow -/
  rel  : List FenceRel
  /-- acquire reads that later accesses of the stream follow -/
  acq  : List Nat
  /-- releases that its reads have returned: a later fence makes those reads acquires (R252) -/
  seen : List Rel
  /-- 4-byte parts of its next word that are fetched already, by virtual address (R71) -/
  parts : List (Nat × List Byte)
  deriving DecidableEq, Repr, Inhabited

/-- A divergence-stack entry (R38, R39). -/
structure DivEntry where
  join : Bool
  pc   : Va
  mask : Mask
  rpc  : Va
  deriving DecidableEq, Repr, Inhabited

/-- A queued or running lane block: its address, captured MODE (R93), and the S and A registers as its instructions see
them (R31, R102). -/
structure Block where
  addr : Va
  mode : W32
  sv   : List W32
  ssh  : List Shadow
  av   : List ARegVal
  /-- scalar results outstanding at its LRUN, with the S register that each writes: the block sees them (R31) -/
  due  : List (Nat × Nat)
  /-- what the scalar accesses before its LRUN leave for its accesses to follow: requests, fences, acquire reads (R32) -/
  cov  : List Nat
  rel  : List FenceRel
  acq  : List Nat
  deriving DecidableEq, Repr, Inhabited

/-- The lane stream's own context (R316, R332). -/
structure LaneCtx where
  lpc     : Va
  exm     : Mask
  /-- held entries, top first -/
  held    : List DivEntry
  /-- entries in the spill area -/
  spilled : Nat
  /-- progress count p (R161) -/
  prog    : Nat
  /-- a CST or XLDE has committed positions and has more to come: no instruction boundary (R161, R316) -/
  part    : Bool
  /-- the word that p belongs to has counted its lines (R155) -/
  counted : Bool
  running : Option Block
  /-- the running block's LEXIT has issued -/
  exited  : Bool
  queue   : List Block
  deriving DecidableEq, Repr, Inhabited

/-- One touched tile of an open chain (R195). -/
structure ChainTile where
  tile  : Nat
  steps : Nat
  z0    : List W32
  /-- hidden sums, in units of 2^-32 -/
  sum   : List Int
  /-- 0 none, 1 +infinity, 2 -infinity, 3 NaN -/
  spec  : List Nat
  zr    : List W32
  deriving DecidableEq, Repr, Inhabited

/-- An open matrix chain (R193, R195). -/
structure Chain where
  /-- type and resolved rounding of its first MMA -/
  first : Option (Ty × Rm)
  tiles : List ChainTile
  /-- MODE captured, for daz and ftzo of the chain -/
  mode  : W32
  deriving DecidableEq, Repr, Inhabited

/-- A trap raised and not yet entered (R316). -/
structure TrapRec where
  cause : Nat
  info  : W32
  lane  : Bool
  pc    : Va
  /-- the trapping word is XLDE (R321) -/
  xlde  : Bool
  deriving DecidableEq, Repr, Inhabited

/-- A visit carried by a lane of a spawned group (R305, R306): traversal, kind (0 ENTER, 1 LEAVE, 2 PRUNE), V3. -/
structure Visit where
  lane : Nat
  trav : Nat
  kind : Nat
  user : W32
  deriving DecidableEq, Repr, Inhabited

/-- A resident group (R13, R22, R25). -/
structure Group where
  lid    : Nat
  /-- team id; none: a spawned group (R27) -/
  tid    : Option Nat
  /-- group index in the team; spawn slot of a spawned group -/
  gidx   : Nat
  width  : Nat
  role   : BitVec 2
  row0   : Nat
  q      : Nat
  qmax   : Nat
  s      : Vector W32 64
  ssh    : Vector Shadow 64
  hs     : Vector W32 8
  hsh    : Vector Shadow 8
  k      : Vector W32 16
  a      : Vector ARegVal 16
  p      : Vector Mask 8
  vsh    : Vector Shadow 256
  fx     : Vector (BitVec 6) 64
  live   : Mask
  spc    : Va
  mode   : W32
  ccopy  : BitVec 16
  ctrav  : BitVec 16
  cattn  : BitVec 16
  /-- GTCHI latch (R10) -/
  latch  : Option W32
  ctx    : LaneCtx
  sc     : Stream
  ln     : Stream
  /-- lane writes to S registers that have landed and that the scalar stream has not yet seen (R31) -/
  pub    : List (Nat × W32 × Shadow)
  chain  : Option Chain
  /-- the interrupted scalar PC and lane context: handler mode (R316) -/
  saved  : Option (Va × LaneCtx)
  /-- full trap address (R319) -/
  tpc    : Va
  tcause : W32
  tinfo  : W32
  /-- the handler has written the trap address (R321) -/
  tpcWr  : Bool
  /-- the trapping word is XLDE (R321) -/
  txlde  : Bool
  trap   : Option TrapRec
  /-- barrier and phase at which the group has arrived (R110, R316) -/
  arrived : Option (Nat × Bool)
  visits : List Visit
  /-- copy commands given and not yet counted by CCOPY, in the order given (R107) -/
  copyq  : List Nat
  /-- traversals started and not yet counted by CTRAV, in the order started (R107) -/
  travq  : List Nat
  /-- halted by team-stop (R324) -/
  tstop  : Bool
  /-- halted for a save or a freeze (R325, R326, R345) -/
  halted : Bool
  /-- the stream whose next word fires no breakpoint (R321) -/
  noBp   : Option Bool
  deriving DecidableEq, Repr, Inhabited

/-! ## Teams and launches -/

/-- A barrier (R110, R330).
R13 puts a team's barriers in its scratchpad and no rule gives them an address: they are kept as a
list of the team beside the scratchpad's bytes (DESIGN CHOICE, log 88). -/
structure Barrier where
  count : Nat
  arr   : List Nat
  phase : Bool
  cov   : List Nat
  deriving DecidableEq, Repr, Inhabited

/-- Where a team stands (R325 to R329, R344). -/
inductive TeamState
  | resident
  /-- halted, its save under way (R327) -/
  | halting
  /-- halted in place until a pool slot frees (R328) -/
  | awaiting
  | out
  deriving DecidableEq, Repr, Inhabited

/-- A team that has been placed and has not ended, or a saved spawned group (R22, R330). -/
structure Team where
  lid     : Nat
  /-- none: a spawned group saved by pre-emption -/
  tid     : Option Nat
  state   : TeamState
  /-- its core, the even one of a pair -/
  core    : Nat
  spbase  : Nat
  accbase : Nat
  /-- group indices that have ended -/
  ended   : List Nat
  bars    : List Barrier
  /-- releases counted at stage words: (address of the word, covered requests) (R281) -/
  rings   : List (Nat × List Nat)
  /-- why of R330: 1 fault, 2 pre-emption, 3 both, 0 none -/
  why     : Nat
  fkind   : Nat
  fmaster : Nat
  fva     : Nat
  slot    : Option Nat
  /-- the groups as saved; the image in memory holds what R330 to R335 lay out -/
  groups  : List Group
  serviced : Bool
  /-- requests that its groups which have ended leave for a save to wait for (R258) -/
  owed    : List Nat
  /-- when it began to wait, out, for a place, and whether it is reserving (R277) -/
  since   : Nat
  reserving : Bool
  deriving DecidableEq, Repr, Inhabited

/-- The fields of a kernel descriptor (R75). -/
structure KDesc where
  width   : Nat
  groups  : Nat
  pair    : Bool
  sentry  : Nat
  lbase   : Nat
  rolemap : W64
  /-- q0 and qmax of roles 0 to 3 -/
  quotas  : List (Nat × Nat)
  spq     : Nat
  accq    : Nat
  timer   : Nat
  spawnq  : Nat
  sq0     : Nat
  sqmax   : Nat
  vol     : Option (Nat × Nat)
  stackz  : Nat
  stackb  : Nat
  stats   : Nat
  featreq : W64
  mode    : W32
  deriving DecidableEq, Repr, Inhabited

/-- Spawn slots reserved on a core for a launch: group slot and first row of each (R279). -/
structure SpawnRes where
  core  : Nat
  slots : List (Nat × Nat)
  deriving DecidableEq, Repr, Inhabited

/-- A thread of a bin (R44): its four words, the visit it is (R305), and what its start acquires (R140). -/
structure Thread where
  words : List W32
  visit : Option (Nat × Nat)
  cov   : List Nat
  deriving DecidableEq, Repr, Inhabited

/-- A spawn bin in use (R44, R45). -/
structure Bin where
  core    : Nat
  num     : Nat
  lid     : Nat
  entry   : Va
  threads : List Thread
  opened  : Nat
  sealed  : Bool
  seq     : Nat
  deriving DecidableEq, Repr, Inhabited

/-- Pre-emption of a launch (R326 to R329). -/
inductive PreState
  | none
  | saving (migrate : Bool)
  | saved
  deriving DecidableEq, Repr, Inhabited

/-- A dispatched launch (R22, R276). -/
structure Launch where
  die     : Nat
  graph   : Nat
  node    : Nat
  asp     : Nat
  prio    : Nat
  seq     : Nat
  kdesc   : Nat
  desc    : KDesc
  teams   : Nat
  dmask   : BitVec 8
  args    : List W32
  /-- lowest team not yet placed -/
  next    : Nat
  /-- when the lowest unplaced team began to wait -/
  since   : Nat
  reserving : Bool
  /-- teams that have ended -/
  done    : Nat
  /-- statistics, entry 3 × tid + counter -/
  stats   : List (Nat × Nat)
  /-- node layouts (R298) -/
  layouts : List (Nat × BitVec 512)
  spawn   : List SpawnRes
  pre     : PreState
  /-- threads of open bins and traversals held while pre-empted -/
  threads : List (Nat × Va × Thread)
  /-- requests that the launch's groups acquire at their start (R256) -/
  cov     : List Nat
  /-- writes of its groups that have ended, which its end covers (R280) -/
  rel     : List Nat
  /-- ids that its traversals have had (R300) -/
  tids    : List Nat
  deriving DecidableEq, Repr, Inhabited

/-! ## Engines -/

/-- A translation made in advance (R358): the physical address, and the dies of a replicated page (0: not one). -/
structure Place where
  pa   : Nat
  repl : BitVec 8
  deriving DecidableEq, Repr, Inhabited

/-- A participant of a copy command: its group index and its slice (R106). -/
structure Part where
  gidx  : Nat
  slice : Nat
  deriving DecidableEq, Repr, Inhabited

/-- Where an engine command stands. -/
inductive CmdState
  | pending
  | running
  /-- stopped in a chrysalis, with its why of R219 or R293 -/
  | stopped (why : Nat)
  | frozen
  deriving DecidableEq, Repr, Inhabited

/-- A 32-byte sector of a copy command's source, as its engine has read it (R216): its number (its address / 32, in the box
or in the window), and its bytes. -/
structure SrcSector where
  num   : Nat
  bytes : List Byte
  deriving DecidableEq, Repr, Inhabited

/-- A copy command (R106, R204 to R219). -/
structure Copy where
  lid    : Nat
  tid    : Nat
  core   : Nat
  addr   : Nat
  block  : BitVec 512
  mask   : W32
  n      : Nat
  mode   : W32
  parts  : List Part
  disagree : Bool
  state  : CmdState
  /-- the block checks of R213 are made -/
  started : Bool
  /-- failure status found so far -/
  status : Nat
  /-- destination sectors written, per slice -/
  next   : List Nat
  srcs   : List SrcSector
  /-- lines of a box that the command writes: VA / 128, the line, and the dies of a replicated page -/
  vmap   : List (Nat × Nat × BitVec 8)
  /-- the translations of the lines still to own are made -/
  placed : Bool
  /-- lines still to own, and lines owned (R232) -/
  want   : List Nat
  held   : List Nat
  /-- where its stamp goes (R358) -/
  stamp  : Option Place
  /-- whether the stamp's translation is made -/
  stampOk : Bool
  vaddr  : Nat
  cov    : List Nat
  deriving DecidableEq, Repr, Inhabited

/-- What an attention command holds of its tile: outputs, running maxima and sums by row, and the counts of R202 for the
last write of the outputs (sat, flush, nan) and of the maxima and sums. -/
structure AttnAcc where
  o  : List W32
  m  : List W32
  l  : List W32
  st : List Nat
  deriving DecidableEq, Repr, Inhabited

/-- An attention command (R284 to R293). -/
structure Attn where
  lid    : Nat
  tid    : Nat
  gidx   : Nat
  core   : Nat
  block  : BitVec 512
  p0     : W32
  ctl    : BitVec 5
  mode   : W32
  state  : CmdState
  /-- has started: its checks are made and its translations taken -/
  started : Bool
  status : Nat
  next   : Nat
  stale  : Nat
  looks  : Nat
  /-- the rows of Q, once they are read (R292) -/
  qs     : Option (List (List Byte))
  /-- what is read already of the key block under way, by what it is and where (R288) -/
  got    : List (Nat × List Byte)
  /-- bytes 0x00 to 0x1F of its record -/
  map    : Option (BitVec 256)
  acc    : Option AttnAcc
  /-- the output tiles are normalised (R290) -/
  fined  : Bool
  /-- physical address of its record -/
  mapPa  : Option Place
  stamp  : Option Place
  /-- whether the stamp's translation is made -/
  stampOk : Bool
  vaddr  : Nat
  cov    : List Nat
  deriving DecidableEq, Repr, Inhabited

/-- A stack entry of a traversal (R300), as its two words. -/
structure TEntry where
  w0 : W64
  w1 : W64
  deriving DecidableEq, Repr, Inhabited

/-- A cut request (R308): level, record address as named, its translations, each from an offset on (none: to be made again,
R358), and whether it has reached the engine. -/
structure Cut where
  level   : Nat
  record  : Nat
  pa      : List (Nat × Place)
  arrived : Bool
  deriving DecidableEq, Repr, Inhabited

/-- An outstanding visit (R305): its kind (0 ENTER, 1 LEAVE, 2 PRUNE), the entry it is of, and of an ENTER the layout
(none: empty) and the node as read. -/
structure TVisit where
  kind : Nat
  e    : TEntry
  lay  : Option (BitVec 512)
  node : List Byte
  deriving DecidableEq, Repr, Inhabited

/-- A live traversal (R300). -/
structure Trav where
  lid     : Nat
  /-- owner: team (none: spawned) and group index, its group key, and whether it has not ended -/
  oteam   : Option Nat
  ogroup  : Nat
  okey    : Nat
  owned   : Bool
  /-- the core of its engine, and its owner's core, whose bins its visits enter (R303) -/
  core    : Nat
  bins    : Nat
  table   : BitVec 512
  taddr   : Nat
  payload : W32
  tg      : BitVec 8
  /-- held entries, top first -/
  held    : List TEntry
  spilled : Nat
  /-- a step has begun and its node is not yet read (R308, R312) -/
  begun   : Bool
  visit   : Option TVisit
  /-- the visit's thread waits for a bin (R305) -/
  waiting : Bool
  /-- result and user word of a visit whose group has ended, not yet applied (R306) -/
  ret     : Option (W32 × W32)
  cuts    : List Cut
  stamp   : Option Place
  /-- the stamp's translation is good, or there is none -/
  stampOk : Bool
  /-- the status with which it ends, its stamp not yet written (R312) -/
  ending  : Option Nat
  /-- suspended by a translation fault (R312) -/
  fault   : Option (Nat × Nat)
  cov     : List Nat
  deriving DecidableEq, Repr, Inhabited

/-- State of a graph (R344). -/
inductive GraphState | running | halted | ending
  deriving DecidableEq, Repr, Inhabited

/-- A live graph (R266). -/
structure Graph where
  die     : Nat
  asp     : Nat
  root    : Nat
  prio    : Nat
  state   : GraphState
  failed  : Nat
  endNode : Nat
  watched : List Nat
  /-- what the walker has yet to do, by operation and node: 0 activate, 1 follow, 2 read a watched next0 again,
  3 dispatch a TASK that is active -/
  todo    : List (Nat × Nat)
  /-- of the TASK under dispatch: the node as read, under number 32, and the 8-byte parts of its descriptor that are read
  already, by number (R74, R270) -/
  dparts  : List (Nat × List Byte)
  cov     : List Nat
  deriving DecidableEq, Repr, Inhabited

/-! ## Memory side -/

/-- Atomic operations (R162). -/
inductive AtomOp | add | min | max | and | or | xor | xchg | cas
  deriving DecidableEq, Repr, Inhabited

/-- What an external agent asks of a line (R228, R337). -/
inductive ExtWhat
  | read
  | own
  | peek
  | write (data : LineData) (bytes : BitVec 128)
  deriving DecidableEq, Repr, Inhabited

/-- What a request waiting at a home does. -/
inductive ReqKind
  | store (pa : Nat) (bytes : List Byte)
  | atomic (op : AtomOp) (signed : Bool) (pa size data new pend lane : Nat)
  | ext (agent : Nat) (what : ExtWhat)
  deriving DecidableEq, Repr, Inhabited

/-- A request sent toward its home (R222, R247). -/
structure Req where
  line  : Nat
  core  : Option Nat
  /-- issuing group and stream -/
  src   : Option (Nat × Bool)
  kind  : ReqKind
  /-- requests performed, and reads returned, before it is performed -/
  deps  : List Nat
  /-- what must be over before it is sent: reads returned, and what holds back the writes it covers (R251) -/
  sentAfter : List Nat
  /-- the releases that it makes -/
  rels : List Rel
  /-- record key of the team, or the spawned group, that sent it (R258) -/
  own : Option Nat
  /-- dies of a replicated page; 0: not replicated (R233) -/
  repl  : BitVec 8
  /-- dies whose replica is locked (R234) -/
  locked : List Nat
  deriving DecidableEq, Repr, Inhabited

/-- A copy of a line in a home slice: of an OWNED line, or of host or peer memory (R223, R227, R338). -/
structure SliceLine where
  data  : LineData
  own   : Bool
  dirty : Bool
  deriving DecidableEq, Repr, Inhabited

/-- A snoop or recall outstanding (R228): inv: the holder gives the line up; keep: its data stays in the slice. -/
structure Snoop where
  line  : Nat
  agent : Nat
  inv   : Bool
  keep  : Bool
  deriving DecidableEq, Repr, Inhabited

/-- An L1 copy (R221). -/
structure L1Copy where
  core   : Nat
  line   : Nat
  expiry : Nat
  deriving DecidableEq, Repr, Inhabited

/-- A cached translation of a 64 KiB granule (R241). -/
structure TlbEntry where
  die   : Nat
  asp   : Nat
  vpn   : Nat
  frame : Nat
  wr    : Bool
  ex    : Bool
  rmask : BitVec 8
  deriving DecidableEq, Repr, Inhabited

/-- A performed release whose covered writes are not all performed (R251).  hidden: a plain store has overwritten it; an
atomic's write after that synchronises again (R252). -/
structure RelTag where
  pa     : Nat
  size   : Nat
  rel    : Rel
  hidden : Bool
  deriving DecidableEq, Repr, Inhabited

/-! ## Package -/

/-- Per-core registers of system software (R319, R323, R353). -/
structure Core where
  trapbase : Va
  bps      : List W64
  step     : W64
  sstr     : Bool
  tstop    : Bool
  level    : Nat
  droops   : Nat
  deriving DecidableEq, Repr, Inhabited

/-- A core at module reset. -/
def Core.init : Core := ⟨0, [0, 0, 0, 0], 0, false, false, 0, 0⟩

/-- A frozen master (R345). -/
structure Frozen where
  kind : Nat
  unit : Nat
  die  : Nat
  lid  : Nat
  team : Nat
  addr : Nat
  viol : Nat
  /-- record key of the frozen team, or of the frozen spawned group; 0: of another master -/
  key  : Nat
  deriving DecidableEq, Repr, Inhabited

/-- An entry of the pending-fault list (R344). -/
structure PFault where
  die    : Nat
  kind   : Nat
  lid    : Nat
  who    : Nat
  detail : W32
  addr   : Nat
  info   : Nat
  deriving DecidableEq, Repr, Inhabited

/-- A protected region (R345): flags host-allowed, peer-allowed, freeze-on-mismatch in bits 0 to 2. -/
structure Region where
  pa    : Nat
  size  : Nat
  flags : BitVec 3
  deriving DecidableEq, Repr, Inhabited

/-- Mailbox return codes (R341). -/
inductive RetCode | success | background | invalidInput | unsupported | busy | internalError
  deriving DecidableEq, Repr, Inhabited

/-- Their numeric values in CXL 3.1 (PRESUMED, log entry 79). -/
def RetCode.code : RetCode → BitVec 16
  | .success => 0x00 | .background => 0x01 | .invalidInput => 0x02 | .unsupported => 0x03 | .internalError => 0x04
  | .busy => 0x06

/-- A background command under way (R341, R342). -/
inductive Background
  | bias (host : Bool) (pages : List Nat)
  /-- launches still to be saved, where the first one's slots begin, and the next free slot -/
  | preempt (lids : List Nat) (base next : Nat)
  deriving DecidableEq, Repr, Inhabited

/-- A DEBUG access to a physical range under way (R359): the bytes to write, or those read; lines done. -/
structure DbgRun where
  pa    : Nat
  n     : Nat
  write : Bool
  bytes : List Byte
  lines : Nat
  deriving DecidableEq, Repr, Inhabited

/-- The mailbox (R341). -/
structure Mailbox where
  code    : RetCode
  payload : List Byte
  bg      : Option Background
  bgDone  : Bool
  /-- a DEBUG command that is not over -/
  dbg     : Option DbgRun
  /-- the area of a RESYNC that is not over -/
  sync    : Option (Nat × Nat)
  /-- agents whose failure has been posted as an event (R351) -/
  events  : List Nat
  deriving DecidableEq, Repr, Inhabited

/-- A page flip under way (R340): pages are flipped one at a time. -/
structure Flip where
  page : Nat
  host : Bool
  deriving DecidableEq, Repr, Inhabited

/-- A link (R349, R351). -/
structure Link where
  state   : Nat
  replays : Nat
  downAt  : Nat
  deriving DecidableEq, Repr, Inhabited

/-- Swarm state (R350). -/
structure Swarm where
  pos   : Nat
  n     : Nat
  table : List (Option Nat)
  deriving DecidableEq, Repr, Inhabited

/-- An agent's entry of the incarnation table (R229). -/
structure Agent where
  inc  : BitVec 2
  down : Bool
  /-- incarnation at the last scrub -/
  scrub : BitVec 2
  deriving DecidableEq, Repr, Inhabited

/-- Loss-log ring (R231). -/
structure LossLog where
  base : Nat
  size : Nat
  next : Nat
  lost : Nat
  deriving DecidableEq, Repr, Inhabited

/-- Firmware and fuses (R347). -/
structure Firmware where
  staged  : List (Nat × Byte)
  /-- a verified image that takes effect at the next module reset -/
  ready   : Option (List Byte)
  running : List Byte
  minSvn  : BitVec 8
  /-- fused digests of the four public keys, and their revoke bits -/
  keys    : List (BitVec 512)
  revoked : BitVec 4
  deriving DecidableEq, Repr, Inhabited

/-- What an SPDM signature covers beside its own exchange, with one requester (R348): the version, capability and algorithm
messages, and the digest and certificate messages since the last challenge. -/
structure Transcript where
  vca   : List Byte
  certs : List Byte
  deriving DecidableEq, Repr, Inhabited

/-- The trip record (R354, R357). -/
structure TripRec where
  stack : Bool
  unit  : Nat
  temp  : BitVec 16
  deriving DecidableEq, Repr, Inhabited

/-- A retraining channel (R355, R356). -/
structure Channel where
  window  : Option Nat
  last    : Option Nat
  fails   : Nat
  failed  : Bool
  windows : Nat
  deriving DecidableEq, Repr, Inhabited

/-- Power, thermal and telemetry state (R352 to R357). -/
structure Platform where
  phase     : Nat
  trip      : Option TripRec
  throttled : BitVec 8
  hotStacks : BitVec 16
  /-- channels, key 32 × stack + channel -/
  channels  : List (Nat × Channel)
  corr      : List (Nat × Nat)
  merge     : List (Nat × Nat)
  /-- lines of failed channels that have been read since (R356) -/
  dead      : List Nat
  deriving DecidableEq, Repr, Inhabited

/-- What the package sends to the host or to a peer in a step (R337, R338, R349). -/
inductive Msg
  /-- data of a request that an external agent made; bad: a failure or poisoned answer -/
  | reply (agent line : Nat) (data : LineData) (bad : Bool)
  | ack (agent line : Nat)
  /-- a back-invalidate snoop or a recall -/
  | recall (agent line : Nat) (inv : Bool)
  /-- a request for a line: of host memory, or of a host-bias page, by its host address; of a peer's by its address there -/
  | request (agent addr : Nat) (own : Bool)
  /-- an EXCLUSIVE line of a peer's memory has been written here (R349) -/
  | dirtyNotice (agent addr : Nat)
  /-- a line of another's memory, or of a host-bias page, leaving the slice, or an answer to a snoop: its data when dirty;
  by its address there -/
  | evict (agent addr : Nat) (dirty : Option LineData)
  | notHeld (agent addr : Nat)
  | spdm (port : Port) (body : List Byte)
  | failure (agent : Nat)
  deriving DecidableEq, Repr, Inhabited

/-- A word of on-chip storage that a write still in flight has reached (R21): the storage (0 register file, 1 scratchpad,
2 ACC), its word, what it held, and the command that writes it (2^40 + a group's key: STS or MACCST of that group). -/
structure OldWord where
  store : Nat
  word  : Nat
  old   : W32
  src   : Nat
  deriving DecidableEq, Repr, Inhabited

/-- The machine. -/
structure State where
  -- the schedule and the free values (the model's own)
  tape    : List Act
  free    : Nat
  cur     : Nat
  picks   : List (Nat × Mask)
  nextId  : Nat
  -- groups, teams, launches
  groups  : List (Nat × Group)
  teams   : List (Nat × Team)
  launches : List (Nat × Launch)
  bins    : List Bin
  -- on-chip storage
  rf      : List (Nat × W32)
  spad    : List (Nat × Byte)
  acc     : List (Nat × W32)
  olds    : List OldWord
  cores   : List (Nat × Core)
  feat    : Vector W64 8
  -- engines
  copies  : List (Nat × Copy)
  attns   : List (Nat × Attn)
  mapCache : List (Nat × BitVec 256)
  travs   : List (Nat × Trav)
  travId  : Nat
  -- walkers
  graphs  : List (Nat × Graph)
  disp    : Vector Nat 8
  -- memory side
  mem     : Memory
  chk     : List (Nat × BitVec 16)
  ely     : List (Nat × BitVec 16)
  ecc     : List (Nat × BitVec 48)
  expiry  : List (Nat × Nat)
  l1      : List L1Copy
  lam     : Nat
  slices  : List (Nat × SliceLine)
  reqs    : List (Nat × Req)
  waits   : List (Nat × Nat)
  locks   : List (Nat × Nat)
  snoops  : List Snoop
  relTags : List RelTag
  tlb     : List TlbEntry
  aspaces : List (Nat × Nat)
  counts  : List (Nat × W64)
  hdm     : Nat
  hostBias : List (Nat × Bool)
  flips   : List Flip
  -- package, host, swarm
  gtc     : W64
  agents  : Vector Agent 8
  loss    : LossLog
  frozen  : List Frozen
  regions : List (Nat × Region)
  pfaults : List PFault
  poolBase : Nat
  poolSize : Nat
  poolUsed : List Nat
  mbox    : Mailbox
  fw      : Firmware
  spdm    : List (Nat × Transcript)
  swarm   : Option Swarm
  links   : Vector Link 12
  plat    : Platform
  sent    : List Msg
  deriving DecidableEq, Repr

/-- The machine right after module reset (R10, R220, R229, R231, R319, R322, R339, R352): no launch is placed, memory
lists nothing, the counter is 0, λ is 26, FEAT has its three bits, every page is in device bias, phase 0.  Values that
the manual gives none for: log entries 1 to 3, 5, 40, 41. -/
def State.reset : State :=
  { tape := [], free := 0, cur := 0, picks := [], nextId := 1,
    groups := [], teams := [], launches := [], bins := [],
    rf := [], spad := [], acc := [], olds := [], cores := [], feat := Vector.replicate 8 7,
    copies := [], attns := [], mapCache := [], travs := [], travId := 0,
    graphs := [], disp := Vector.replicate 8 0,
    mem := [], chk := [], ely := [], ecc := [], expiry := [], l1 := [], lam := 26, slices := [], reqs := [], waits := [], locks := [],
    snoops := [], relTags := [], tlb := [], aspaces := [], counts := [], hdm := 0, hostBias := [], flips := [],
    gtc := 0, agents := Vector.replicate 8 ⟨0, false, 0⟩, loss := ⟨0, 0, 0, 0⟩, frozen := [], regions := [],
    pfaults := [], poolBase := 0, poolSize := 0, poolUsed := [],
    mbox := ⟨.success, [], none, false, none, none, []⟩,
    fw := ⟨[], none, Config.suppliedImage, Config.fusedSvn, Config.fusedKeys, Config.fusedRevoked⟩, spdm := [],
    swarm := none, links := Vector.replicate 12 ⟨5, 0, 0⟩,
    plat := ⟨0, none, 0, 0, [], [], [], []⟩, sent := [] }

end Sys2Proof.Machine
end

