-- ==== Sys2Proof/Machine/Ops.lean ====
section
/-!
DEFINITION. Ops.lean: named operations over the state that all families share: groups and registers, the results a
stream has outstanding (spec/02_execution_model.md R33 to R35), taking a trap and returning from it
(spec/26_faults_and_preemption.md R316 to R321), and the end of groups and teams (R118, R317).
-/
namespace Sys2Proof.Machine

open Sys2Proof

/-! ## Places -/

/-- Core of a group key: keys are 64 × core + group slot (R278, R323). -/
def coreOf (gid : Nat) : Nat := gid / 64
/-- Die of a core; cores are numbered 48 × die + core (R6). -/
def dieOf (core : Nat) : Nat := core / 48
/-- Key of a team: launch id and team id (R22). -/
def teamKey (lid tid : Nat) : Nat := lid * 2 ^ 32 + tid
/-- Key of a saved spawned group: beyond every team id of its launch. -/
def spawnKey (lid core slot : Nat) : Nat := lid * 2 ^ 32 + 2 ^ 31 + core * 64 + slot

/-- Element i of a vector, or the default. -/
def vget {α : Type} {n : Nat} [Inhabited α] (v : Vector α n) (i : Nat) : α := (v[i]?).getD default
/-- Replace element i. -/
def vset {α : Type} {n : Nat} (v : Vector α n) (i : Nat) (x : α) : Vector α n := v.setIfInBounds i x

namespace State

def grp (s : State) (gid : Nat) : Option Group := Store.find s.groups gid
def setGrp (s : State) (gid : Nat) (g : Group) : State := { s with groups := Store.put s.groups gid g }
def updGrp (s : State) (gid : Nat) (f : Group → Group) : State := { s with groups := Store.adjust s.groups gid f }
def team (s : State) (k : Nat) : Option Team := Store.find s.teams k
def updTeam (s : State) (k : Nat) (f : Team → Team) : State := { s with teams := Store.adjust s.teams k f }
def launch (s : State) (lid : Nat) : Option Launch := Store.find s.launches lid
def updLaunch (s : State) (lid : Nat) (f : Launch → Launch) : State := { s with launches := Store.adjust s.launches lid f }
def core (s : State) (c : Nat) : Core := Store.getD Core.init s.cores c
def setCore (s : State) (c : Nat) (x : Core) : State := { s with cores := Store.putD Core.init s.cores c x }
/-- Draw the number of a free value. -/
def draw (s : State) : Nat × State := (s.free, { s with free := s.free + 1 })
/-- A fresh internal id. -/
def fresh (s : State) : Nat × State := (s.nextId, { s with nextId := s.nextId + 1 })
def emit (s : State) (m : Msg) : State := { s with sent := s.sent ++ [m] }
def emits (s : State) (ms : List Msg) : State := { s with sent := s.sent ++ ms }
def desc (s : State) (g : Group) : KDesc := ((s.launch g.lid).map (·.desc)).getD default

end State

/-- A step that always has a next state. -/
def done (s : State) : Host.Outcome State Fault Refusal := .next s

/-- Run a word for the issuing group. -/
def withCur (s : State) (k : Nat → Group → State) : Host.Outcome State Fault Refusal :=
  match s.grp s.cur with
  | none => .fault .noIssuingGroup
  | some g => .next (k s.cur g)

/-! ## Streams -/

namespace Group

def handler (g : Group) : Bool := g.saved.isSome
def str (g : Group) (lane : Bool) : Stream := if lane then g.ln else g.sc
def setStr (g : Group) (lane : Bool) (x : Stream) : Group := if lane then { g with ln := x } else { g with sc := x }
def drained (g : Group) : Bool := g.sc.out.isEmpty && g.ln.out.isEmpty
def all (g : Group) : Mask := lowMask g.width
/-- Core of a spawned group, or of a launch group: both are given by the key. -/
def spawned (g : Group) : Bool := g.tid.isNone
def tkey (g : Group) : Option Nat := g.tid.map (teamKey g.lid)
/-- MODE as scalar instructions capture it: trap enables read 0 in handler mode (R93, R317). -/
def smode (g : Group) : W32 := if g.handler then g.mode &&& ~~~(0x1F00#32) else g.mode
/-- The running block. -/
def block (g : Group) : Block := g.ctx.running.getD ⟨0, g.mode, g.s.toList, g.ssh.toList, g.a.toList, [], [], [], []⟩
/-- MODE as the running block captured it. -/
def lmode (g : Group) : W32 := if g.handler then g.block.mode &&& ~~~(0x1F00#32) else g.block.mode
/-- Register key of an S register: handler registers stand for S56 to S63 in handler mode (R317). -/
def sKey (g : Group) (n : Nat) : Nat := if g.handler && decide (56 ≤ n) then n + 8 else n
/-- An S register and its shadow by key. -/
def sAt (g : Group) (k : Nat) : W32 × Shadow :=
  if k < 64 then (vget g.s k, vget g.ssh k) else (vget g.hs (k - 64), vget g.hsh (k - 64))
def sPut (g : Group) (k : Nat) (v : W32) (sh : Shadow) : Group :=
  if k < 64 then { g with s := vset g.s k v, ssh := vset g.ssh k sh }
  else { g with hs := vset g.hs (k - 64) v, hsh := vset g.hsh (k - 64) sh }
/-- Predicate register; P0 reads all ones (R13). -/
def pRaw (g : Group) (n : Nat) : Mask := if n = 0 then lowMask 64 else vget g.p n
/-- Empty lane context: no queue, no stack (R316). -/
def emptyCtx (lpc : Va) (exm : Mask) : LaneCtx := ⟨lpc, exm, [], 0, 0, false, false, none, false, []⟩

end Group

/-- Keys of registers in the picks: V registers 0 to 255, S register keys (handler registers included) from 256,
P registers from 384, FX 400 (R34). -/
def pkV (n : Nat) : Nat := n
def pkS (k : Nat) : Nat := 256 + k
def pkP (n : Nat) : Nat := 384 + n
def pkFx : Nat := 400
/-- The key of the picks that name the lanes whose read an issuing load puts off. -/
def pkDefer : Nat := 402

/-- Lanes of an issuing load that are read later than at issue (R248). -/
def deferred (picks : List (Nat × Mask)) : Mask := ((picks.find? fun e => e.1 == 64 * pkDefer).map (·.2)).getD 0

/-- Whether a lane's read of the register with key k sees its i-th outstanding write. -/
def pickBit (picks : List (Nat × Mask)) (k i lane : Nat) : Bool :=
  picks.any fun e => e.1 == 64 * k + i && e.2.getLsbD lane

/-- The value a read sees: the current one, or that of an outstanding write whose pick admits the lane (R34). -/
def pickVal {α : Type} (picks : List (Nat × Mask)) (k lane : Nat) : Nat → α → List α → α
  | _, cur, [] => cur
  | i, cur, x :: xs => pickVal picks k lane (i + 1) (if pickBit picks k i lane then x else cur) xs

/-- Outstanding writes of a stream to an S register key, oldest first. -/
def sOut (out : List Pending) (k : Nat) : List W32 :=
  out.flatMap fun p => p.writes.filterMap fun w =>
    match w with
    | .s r v _ _ => if r = k then some v else none
    | _ => none

/-- Those whose value is known: a read that sees the new value sees one of these (R34). -/
def sKnown (out : List Pending) (k : Nat) : List W32 := sOut (out.filter fun p => p.unsampled == 0) k

/-- Lanes of a result's write number i whose value is not yet taken. -/
def Pending.unread (p : Pending) (i : Nat) : Mask := p.unsampled ||| nthD 0 p.rest i

/-- Outstanding writes to a V register: the lanes whose value is known, and the values. -/
def vOut (out : List Pending) (n : Nat) : List (Mask × List W32) :=
  out.flatMap fun p => (p.writes.mapIdx fun i w => (i, w)).filterMap fun w =>
    match w.2 with
    | .v r ls vs _ _ => if r = n then some (ls &&& ~~~p.unread w.1, vs) else none
    | _ => none

/-- Outstanding writes to a P register. -/
def pOut (out : List Pending) (n : Nat) : List (Mask × Mask) :=
  out.flatMap fun p => p.writes.filterMap fun w =>
    match w with
    | .p r ls vs _ => if r = n then some (ls, vs) else none
    | _ => none

/-- Key in the picks of a lane write to an S register that no LSYNC has followed: its place in the group's list (R31). -/
def pkPub (i : Nat) : Nat := 2 ^ 52 + i

/-- The place of the lane write that a scalar read of an S register key sees, of those that no LSYNC has followed; none: the
register itself (R31). -/
def pubSeen (picks : List (Nat × Mask)) (g : Group) (k : Nat) : Option Nat :=
  ((List.range g.pub.length).filter fun i => (nthD default g.pub i).1 == k && pickBit picks 0 (pkPub i) 0).getLast?

/-- An S register and its shadow, as a scalar instruction finds them: before the next LSYNC, old or new where a lane write has
landed (R31). -/
def sHeld (picks : List (Nat × Mask)) (g : Group) (k : Nat) : W32 × Shadow :=
  match pubSeen picks g k with
  | some i => (nthD default g.pub i).2
  | none => g.sAt k

/-- The shadow that a scalar instruction found becomes another one. -/
def shPut (picks : List (Nat × Mask)) (g : Group) (k : Nat) (sh : Shadow) : Group :=
  match pubSeen picks g k with
  | some i => { g with pub := setNth g.pub i (k, (sHeld picks g k).1, sh) }
  | none => g.sPut k (g.sAt k).1 sh

/-- A scalar read of S(n): value and shadow; TOP when a write is outstanding (R34, R143). -/
def sRead (picks : List (Nat × Mask)) (g : Group) (n : Nat) : W32 × Shadow :=
  let k := g.sKey n
  let o := sOut g.sc.out k
  let x := sHeld picks g k
  (pickVal picks (pkS k) 0 0 x.1 (sKnown g.sc.out k), if o.isEmpty then x.2 else .top)

/-- S(n) as last written by either stream, and its shadow: a lane write that the scalar stream has not seen is newer than
the register. -/
def newestS (g : Group) (n : Nat) : W32 × Shadow :=
  match (g.pub.filter fun e => e.1 == g.sKey n).getLast? with
  | some e => (e.2.1, e.2.2)
  | none => g.sAt (g.sKey n)

/-- The value alone. -/
def sVal (picks : List (Nat × Mask)) (g : Group) (n : Nat) : W32 := (sRead picks g n).1

/-- The 64-bit value of an even S pair (R56). -/
def sPair (picks : List (Nat × Mask)) (g : Group) (n : Nat) : W64 := sVal picks g (n + 1) ++ sVal picks g n

/-- The writes of one result overlap the stream's earlier ones: mark both (R34, R143). -/
def PWrite.same : PWrite → PWrite → Bool
  | .v a .., .v b .. => a == b
  | .s a .., .s b .. => a == b
  | .p a .., .p b .. => a == b
  | .z a .., .z b .. => a == b
  | .fxOr .., .fxSet .. => true
  | .fxSet .., .fxOr .. => true
  | .fxSet .., .fxSet .. => true
  | _, _ => false

/-- The register of a write that overlaps another: its kind and number, and the lanes that it writes. -/
def PWrite.met : PWrite → Option (Nat × Nat × Mask)
  | .v r ls _ _ true => some (0, r, ls)
  | .s r _ _ true => some (1, r, 1)
  | .p r ls _ true => some (2, r, ls)
  | .fxSet ls _ _ true => some (3, 0, ls)
  | _ => none

/-- The kind and number that a write which may be kept out looks for among those that have landed. -/
def PWrite.meets : PWrite → Option (Nat × Nat)
  | .fxOr _ true => some (3, 0)
  | w => w.met.map fun m => (m.1, m.2.1)

/-- The lanes of a write's register that overlapping writes which have landed have written. -/
def PWrite.hit (met : List (Nat × Nat × Mask)) (w : PWrite) : Mask :=
  (met.filter fun m => w.meets == some (m.1, m.2.1)).foldl (fun h m => h ||| m.2.2) 0

def PWrite.overlap : PWrite → PWrite
  | .v r ls xs sh _ => .v r ls xs sh true
  | .s r x sh _ => .s r x sh true
  | .p r ls xs _ => .p r ls xs true
  | .fxOr fs _ => .fxOr fs true
  | .fxSet ls xs os _ => .fxSet ls xs os true
  | w => w

/-- Mark the writes that meet one of ws. -/
def markOvl (ws : List PWrite) (p : Pending) : Pending :=
  { p with writes := p.writes.map fun w => if ws.any (PWrite.same w) then w.overlap else w }

/-- A stream takes one more outstanding result. -/
def Stream.push (x : Stream) (p : Pending) : Stream :=
  let old := x.out.flatMap (·.writes)
  { x with out := x.out.map (markOvl p.writes) ++ [markOvl old p] }

/-- After a word has issued: the next address, and the park that sw asks for (R33). -/
def Stream.mark (x : Stream) (sw : Bool) : Stream := { x with park := sw && !x.out.isEmpty }

/-- The scalar stream goes on at pc. -/
def Group.goS (g : Group) (pc : Va) (sw : Bool) : Group := { g with spc := pc, sc := g.sc.mark sw }
/-- The scalar stream goes on at the next word. -/
def Group.nextS (g : Group) (sw : Bool) : Group := g.goS (g.spc + 4) sw
/-- The lane stream goes on at pc. -/
def Group.goL (g : Group) (pc : Va) (sw : Bool) : Group :=
  { g with ctx := { g.ctx with lpc := pc }, ln := g.ln.mark sw }
/-- The lane stream goes on at the next word. -/
def Group.nextL (g : Group) (sw : Bool) : Group := g.goL (g.ctx.lpc + 12) sw

/-- A plain outstanding result. -/
def plainPending (id : Nat) (pc : Va) (ws : List PWrite) : Pending :=
  ⟨id, pc, .plain, ws, [], 0, [], 0, 0, [], [], none⟩

/-- A stream's 64th outstanding result stalls it (R35). -/
def Stream.full (x : Stream) : Bool := decide (63 ≤ x.out.length)

/-- A result that is sampled between issue and its write may be sampled later than at issue (R92). -/
def PKind.defers (kind : PKind) (picks : List (Nat × Mask)) : Mask :=
  match kind with
  | .sysreg _ => deferred picks &&& 1
  | _ => 0

/-- Issue a scalar word with S results of a kind: (register, value, shadow) each; the stream goes on at pc.  Stalls at
the 64th outstanding result: nothing changes and the word issues again later (R35). -/
def issueSK (s : State) (gid : Nat) (g : Group) (kind : PKind) (ws : List (Nat × W32 × Shadow)) (pc : Va) (sw : Bool) :
    State :=
  if g.sc.full then s
  else
    let p := { plainPending s.nextId g.spc (ws.map fun w => .s (g.sKey w.1) w.2.1 w.2.2 false) with
      kind := kind, unsampled := kind.defers s.picks }
    let g := { g with sc := g.sc.push p }
    ({ s with nextId := s.nextId + 1 } : State).setGrp gid (g.goS pc sw)

/-- Issue a scalar word with plain S results. -/
def issueS (s : State) (gid : Nat) (g : Group) (ws : List (Nat × W32 × Shadow)) (pc : Va) (sw : Bool) : State :=
  issueSK s gid g .plain ws pc sw

/-! ## On-chip words that a write in flight has reached (R21) -/

/-- Storages, as OldWord numbers them. -/
def stRf : Nat := 0
def stSpad : Nat := 1
def stAcc : Nat := 2

/-- Key of a word of a storage in the picks: 64 words a key; which of its values a read sees, and, as lane of the last
choice, whether a second writer's value gives way. -/
def pkOld (store word : Nat) : Nat := 2 ^ 40 + 3 * (word / 64) + store

/-- What a word held before the writes in flight that others than `me` have made. -/
def oldsAt (s : State) (me store word : Nat) : List W32 :=
  (s.olds.filter fun o => o.store == store && o.word == word && o.src != me).map (·.old)

/-- A word as a read sees it: its contents, or what it held before a write that is still in flight. -/
def seeWord (s : State) (me store word : Nat) (cur : W32) : W32 :=
  if s.olds.isEmpty then cur else pickVal s.picks (pkOld store word) (word % 64) 0 cur (oldsAt s me store word)

/-- Note what words held before a writer reached them. -/
def noteOlds (s : State) (src store : Nat) (ws : List (Nat × W32)) : State :=
  { s with olds := ws.foldl (fun os w =>
      if os.contains ⟨store, w.1, w.2, src⟩ then os else os ++ [⟨store, w.1, w.2, src⟩]) s.olds }

/-- A writer's writes are no longer in flight. -/
def dropOlds (s : State) (src : Nat) : State := { s with olds := s.olds.filter fun o => o.src != src }

/-- A landing write of a group's own instruction: its words hold one value. -/
def clearOlds (s : State) (store : Nat) (words : List Nat) : State :=
  { s with olds := s.olds.filter fun o => !(o.store == store && words.contains o.word) }

/-- Another writer's write to the word is in flight, and its value stays (R21). -/
def givesWay (s : State) (src store word : Nat) : Bool :=
  (s.olds.any fun o => o.store == store && o.word == word && o.src != src) &&
    pickBit s.picks (pkOld store word) 63 (word % 64)

/-- The source number of a group's scratchpad stores. -/
def spadSrc (gid : Nat) : Nat := 2 ^ 40 + gid

/-- A release of a group: its scratchpad stores are performed (R251). -/
def released (s : State) (gid : Nat) : State := dropOlds s (spadSrc gid)

/-! ## V registers -/

/-- Word of the register file that holds Vn of lane l (R15). -/
def rfKey (core row0 width n l : Nat) : Nat := core * 2 ^ 18 + row0 * 64 + n * width + l

/-- Vn of lane l as stored. -/
def vRaw (s : State) (gid : Nat) (g : Group) (n l : Nat) : W32 :=
  Store.getD 0 s.rf (rfKey (coreOf gid) g.row0 g.width n l)

/-- Vn of lane l as a read sees it, a write of an engine in flight (R21, R34). -/
def vSeen (s : State) (gid : Nat) (g : Group) (n l : Nat) : W32 :=
  seeWord s 0 stRf (rfKey (coreOf gid) g.row0 g.width n l) (vRaw s gid g n l)

/-- A lane's read of Vn: old or new where a write is outstanding (R34). -/
def vRead (s : State) (gid : Nat) (g : Group) (n l : Nat) : W32 :=
  let o := (vOut g.ln.out n).filterMap fun e => if e.1.getLsbD l then some (nthD 0 e.2 l) else none
  pickVal s.picks (pkV n) l 0 (vSeen s gid g n l) o

/-- A write of an engine or a window to Vn is in flight: its shadow is TOP (R34, R143). -/
def vFlight (s : State) (gid : Nat) (g : Group) (n : Nat) : Bool :=
  let k := rfKey (coreOf gid) g.row0 g.width n 0
  s.olds.any fun o => o.store == stRf && decide (k ≤ o.word) && decide (o.word < k + g.width)

/-- The shadow of Vn as an instruction reads it (R143). -/
def vShadow (g : Group) (n : Nat) : Shadow := if (vOut g.ln.out n).isEmpty then vget g.vsh n else .top

/-- Write Vn in some lanes. -/
def vPut (s : State) (gid : Nat) (g : Group) (n : Nat) (lanes : Mask) (vals : List W32) : State :=
  let put := fun (m : List (Nat × W32)) l => Store.putD 0 m (rfKey (coreOf gid) g.row0 g.width n l) (nthD 0 vals l)
  let s := clearOlds s stRf ((lanesOf (lanes &&& g.all)).map (rfKey (coreOf gid) g.row0 g.width n))
  { s with rf := (lanesOf (lanes &&& g.all)).foldl put s.rf }

/-- A predicate register as read, lane by lane (R34). -/
def pRead (picks : List (Nat × Mask)) (g : Group) (n : Nat) : Mask :=
  if n = 0 then lowMask 64
  else
    let o := pOut g.ln.out n
    if o.isEmpty then g.pRaw n
    else maskOf 64 fun l =>
      pickVal picks (pkP n) l 0 ((g.pRaw n).getLsbD l) (o.filterMap fun e => if e.1.getLsbD l then some (e.2.getLsbD l) else none)

/-- The guard mask (R65). -/
def guardMask (picks : List (Nat × Mask)) (g : Group) (m : Mods) : Mask :=
  let p := pRead picks g m.p.toNat
  if m.neg then ~~~p else p

/-- The effective mask of a lane instruction (R65). -/
def effMask (picks : List (Nat × Mask)) (g : Group) (m : Mods) : Mask := g.ctx.exm &&& guardMask picks g m &&& g.all

/-- Rows that a quota of q registers takes at width w (R15). -/
def rowsOf (w q : Nat) : Nat := (q * w + 63) / 64

/-- Fill consecutive register words with undefined contents (R3, R15). -/
def undefRf (s : State) (key count : Nat) : State :=
  { s with rf := Store.putsD 0 s.rf key (tabulate count fun i => Config.undefWord (s.free + i)), free := s.free + count }

/-- The rows that a quota of n2 registers takes and one of n1 does not hold undefined contents, beyond register n2 too
(R15). -/
def undefRows (s : State) (gid : Nat) (g : Group) (n1 n2 : Nat) : State :=
  if rowsOf g.width n1 = rowsOf g.width n2 then s
  else undefRf s (rfKey (coreOf gid) g.row0 g.width n2 0) (64 * rowsOf g.width n2 - n2 * g.width)

/-- The registers n1 ≤ n < n2 of a group hold undefined contents, with TOP shadows (R42, R43). -/
def undefRegs (s : State) (gid : Nat) (g : Group) (n1 n2 : Nat) : State :=
  let s := undefRf s (rfKey (coreOf gid) g.row0 g.width n1 0) ((n2 - n1) * g.width)
  s.setGrp gid { g with vsh := (List.range (n2 - n1)).foldl (fun v i => vset v (n1 + i) .top) g.vsh }

/-- A group whose quota grows from n1 registers to n2, from 0 at its start, receives registers and rows (R15, R42). -/
def receive (s : State) (gid : Nat) (g : Group) (n1 n2 : Nat) : State :=
  undefRows (undefRegs s gid g n1 n2) gid g n1 n2

/-! ## Pending faults and the end of groups -/

def postFault (s : State) (f : PFault) : State := { s with pfaults := s.pfaults ++ [f] }

/-- Two of the same id belong to one team. -/
def Copy.ofTeam (c : Copy) (k : Nat) : Bool := teamKey c.lid c.tid == k
def Attn.ofTeam (a : Attn) (k : Nat) : Bool := teamKey a.lid a.tid == k

/-- A group of a command's mask has ended before it queued its slice: the command fails with status 2, unless its
block is invalid (R106, R213). -/
def failPending (k gidx : Nat) (c : Copy) : Copy :=
  if c.ofTeam k && c.state == .pending && bit c.mask gidx && !(c.parts.any fun p => p.gidx == gidx)
  then { c with state := .running, disagree := true } else c

/-- The visits of an ending group return with r := 0 and u := their V3 (R306); what comes after them follows the group's
accesses (R313). -/
def returnVisits (g : Group) (ts : List (Nat × Trav)) : List (Nat × Trav) :=
  g.visits.foldl (fun ts v => Store.adjust ts v.trav fun t =>
    { t with ret := some (0, v.user), cov := t.cov ++ g.sc.cov ++ g.ln.cov }) ts

/-- All groups of the team have ended. -/
def Team.allEnded (s : State) (t : Team) : Bool :=
  match s.launch t.lid with
  | some l => decide (l.desc.groups ≤ t.ended.length)
  | none => true

/-- Release a team whose groups have ended and whose commands have completed, traversals among them: its scratchpad and ACC
are free (R118), and the launch counts it (R24). -/
def reap (s : State) (k : Nat) : State :=
  match s.team k with
  | none => s
  | some t =>
    if t.allEnded s && !(s.copies.any fun c => Copy.ofTeam c.2 k) && !(s.attns.any fun c => Attn.ofTeam c.2 k) &&
        !(s.travs.any fun x => x.2.lid == t.lid && x.2.oteam.isSome && x.2.oteam == t.tid) then
      let s := { s with teams := Store.del s.teams k }
      s.updLaunch t.lid fun l => { l with done := l.done + 1 }
    else s

/-- A traversal whose owner has ended has none (R118, R312). -/
def disown (gid : Nat) (g : Group) (t : Trav) : Trav :=
  if t.lid == g.lid && t.oteam == g.tid && t.ogroup == g.gidx && (g.tid.isSome || t.okey == gid)
  then { t with owned := false } else t

/-- One group ends: its storage is released, pending copies that wait for it fail, its visits return (R106, R118, R306). -/
def endGroup (s : State) (gid : Nat) : State :=
  match s.grp gid with
  | none => s
  | some g =>
    let ts := (returnVisits g s.travs).map fun (t : Nat × Trav) => (t.1, disown gid g t.2)
    let s := { s with
      groups := Store.del s.groups gid, travs := ts,
      reqs := s.reqs.map fun (r : Nat × Req) => (r.1, if (r.2.src.map (·.1)) == some gid then { r.2 with src := none } else r.2) }
    let s := dropOlds s (spadSrc gid)
    let s := s.updLaunch g.lid fun l => { l with rel := l.rel ++ g.sc.cov ++ g.ln.cov }
    match g.tkey with
    | none => s
    | some k =>
      let s := { s with copies := s.copies.map fun (c : Nat × Copy) => (c.1, failPending k g.gidx c.2) }
      let s := s.updTeam k fun t => { t with ended := t.ended ++ [g.gidx], owed := t.owed ++ g.sc.cov ++ g.ln.cov }
      reap s k

/-- Every group of a team, or the spawned group alone, ends at once, as SEXIT in handler mode ends it (R118, R317). -/
def endTeamOf (s : State) (gid : Nat) (g : Group) : State :=
  match g.tid with
  | none => endGroup s gid
  | some _ =>
    ((s.groups.filter fun e => e.2.lid == g.lid && e.2.tid == g.tid).map (·.1)).foldl endGroup s

/-! ## Traps -/

/-- Causes of TRAPCAUSE (R318). -/
inductive Cause
  | illegal | convergence | role | quota | operand | bounds | range | arithmetic | integrity | feature | brk
  | breakpoint | step | trap | overflow | chain
  deriving DecidableEq, Repr

def Cause.code : Cause → Nat
  | .illegal => 1 | .convergence => 2 | .role => 3 | .quota => 4 | .operand => 5 | .bounds => 6 | .range => 7
  | .arithmetic => 8 | .integrity => 9 | .feature => 10 | .brk => 11 | .breakpoint => 12 | .step => 13 | .trap => 14
  | .overflow => 15 | .chain => 16

/-- TRAPCAUSE: cause in [7:0], stream in [8] (R318). -/
def causeWord (lane : Bool) (code : Nat) : W32 := BitVec.ofNat 32 (code + if lane then 256 else 0)

/-- Wait words of a stopped stream are taken as not issued (R316 step 2). -/
def Stream.unwait (x : Stream) : Stream := { x with wait := none, wsw := false, parts := [] }
/-- The same at a halt for a save or a freeze, where a yielded group stays yielded (R283, R326). -/
def Stream.stopWait (x : Stream) : Stream := match x.wait with | some (.yield ..) => x | _ => x.unwait

/-- Lane writes to S registers reach the scalar stream (R30, R31). -/
def Group.publish (g : Group) : Group :=
  { (g.pub.foldl (fun g e => g.sPut e.1 e.2.1 e.2.2) g) with pub := [] }

/-- Other groups of the team halt when one enters handler mode for a debug cause, their waiting words taken as not issued,
and go on when it leaves handler mode (R324). -/
def teamStop (s : State) (gid : Nat) (g : Group) (on : Bool) : State :=
  { s with groups := s.groups.map fun e =>
      if e.1 != gid && e.2.lid == g.lid && e.2.tid == g.tid && g.tid.isSome then
        (e.1, if on then { e.2 with tstop := true, sc := e.2.sc.unwait, ln := e.2.ln.unwait } else { e.2 with tstop := false })
      else e }

/-- Enter handler mode once both streams stand at an instruction boundary and have no outstanding result (R316 steps 2 to 5,
R10): the interrupted scalar PC and lane context are set aside, the trap registers written, and the scalar PC is TRAPBASE. -/
def enterTrap (s : State) (gid : Nat) : State :=
  match s.grp gid with
  | none => s
  | some g =>
    match g.trap with
    | none => s
    | some t =>
      if !g.drained || g.ctx.part then s
      else
        let c := s.core (coreOf gid)
        let g := g.publish
        let g := { g with
          saved := some (g.spc, g.ctx), spc := c.trapbase, ctx := Group.emptyCtx g.ctx.lpc g.ctx.exm,
          tpc := t.pc, tcause := causeWord t.lane t.cause, tinfo := t.info, tpcWr := false, txlde := t.xlde, trap := none,
          latch := none, sc := g.sc.unwait, ln := g.ln.unwait, noBp := none }
        let s := s.setGrp gid g
        if c.tstop && (t.cause == 11 || t.cause == 12 || t.cause == 13) then teamStop s gid g true else s

/-- A trap raised in handler mode, or on a core whose TRAPBASE is 0, ends the team and posts a pending fault of kind 4
(R317, R319). -/
def doubleTrap (s : State) (gid : Nat) (g : Group) (t : TrapRec) : State :=
  let s := postFault s
    { die := dieOf (coreOf gid), kind := 4, lid := g.lid, who := g.tid.getD 0xFFFFFFFF,
      detail := causeWord t.lane t.cause, addr := t.pc.toNat, info := t.info.toNat }
  endTeamOf s gid g

/-- Take a trap (R316): the word has no effect, the other stream stops at its boundary (a CST or XLDE that has committed
positions goes on to its end), and handler mode is entered at once when no result is outstanding, else by TRAP_ENTRY.  xlde:
the word is XLDE (R321). -/
def raiseAt (s : State) (gid : Nat) (g : Group) (lane : Bool) (pc : Va) (c : Cause) (info : W32) (xlde : Bool := false) :
    State :=
  let t : TrapRec := ⟨c.code, info, lane, pc, xlde⟩
  if g.handler || (s.core (coreOf gid)).trapbase == 0 then doubleTrap s gid g t
  else
    let ctx := { g.ctx with part := g.ctx.part && !lane }
    let s := s.setGrp gid { g with trap := some t, ctx := ctx, sc := g.sc.unwait, ln := g.ln.unwait }
    enterTrap s gid

/-- A trap of the scalar word at the scalar PC. -/
def raiseS (s : State) (gid : Nat) (g : Group) (c : Cause) (info : W32) : State := raiseAt s gid g false g.spc c info
/-- A trap of the lane word at the lane PC. -/
def raiseL (s : State) (gid : Nat) (g : Group) (c : Cause) (info : W32) : State := raiseAt s gid g true g.ctx.lpc c info
/-- A trap of either stream's word. -/
def raise (s : State) (gid : Nat) (g : Group) (lane : Bool) (c : Cause) (info : W32) : State :=
  if lane then raiseL s gid g c info else raiseS s gid g c info

/-- TRAPINFO of a quota trap (R320): kind 1 register, 2 quota, 3 tile, 4 spawnq = 0. -/
def quotaInfo (kind num : Nat) : W32 := BitVec.ofNat 32 (kind + num * 256)

/-- The volatile range of the kernel, as far as the group's quota reaches, holds undefined contents, with TOP shadows
(R43). -/
def volatile (s : State) (gid : Nat) (g : Group) : State :=
  match (s.desc g).vol with
  | none => s.setGrp gid g
  | some (m, n) => undefRegs s gid g m (max m (min (n + 1) g.q))

/-- Return from a trap (R117, R321): both streams are restored, the trapping stream at the full trap address (skip: after
it), the other at its saved point; p as R321 says; the volatile range is undefined. -/
def trapReturn (s : State) (gid : Nat) (g : Group) (skip : Bool) : State :=
  match g.saved with
  | none => s
  | some (spc, ctx) =>
    let lane := bit g.tcause 8
    let step : Va := if lane then 12 else 4
    let pc := if skip then g.tpc + step else g.tpc
    let prog :=
      if g.tpcWr || skip then 0
      else if lane && bits g.tcause 0 8 == 9 && g.txlde then (bits g.tinfo 8 7).toNat
      else ctx.prog
    let ctx := { ctx with
      lpc := if lane then pc else ctx.lpc, prog := prog, counted := ctx.counted && decide (prog ≠ 0),
      exm := ctx.exm &&& g.live }
    let g := { g with saved := none, spc := if lane then spc else pc, ctx := ctx, latch := none, noBp := some lane }
    let s := volatile s gid g
    teamStop s gid g false

end Sys2Proof.Machine
end

