-- ==== Sys2Proof/Machine/Mem.lean ====
section
/-!
DEFINITION. Mem.lean: the physical map, the home of a line, leases, check values, elytron bits and translation
(spec/01_machine.md R18 to R20; spec/16_memory_system.md R220 to R242; spec/28_host_and_swarm.md R337 to R340).
A line is named by PA[51:7].
-/
namespace Sys2Proof.Machine

open Sys2Proof

/-! ## The physical map -/

inductive PaKind
  | hbm (die : Nat)
  | window
  | peer (agent : Nat)
  | host
  | unmapped
  deriving DecidableEq, Repr

/-- A local PA inside HBM (R18). -/
def inHbm (pa : Nat) : Bool := decide (pa < 0x10000000000) && decide (pa % 0x2000000000 < 0x1800000000)

/-- The die that owns an HBM address. -/
def dieOfPa (pa : Nat) : Nat := pa / 0x2000000000
/-- The stack, 0 to 15, that holds an HBM address. -/
def stackOfPa (pa : Nat) : Nat := 2 * dieOfPa pa + (if pa % 0x2000000000 < 0xC00000000 then 0 else 1)

/-- A window address that is not reserved (R19).  Slots 48 to 63 of a die belong to no core and count as reserved (log entry 92:
DESIGN CHOICE). -/
def windowOk (pa : Nat) : Bool :=
  let o := pa - 0x10000000000
  let off := o % 0x400000
  decide (o % 0x10000000 / 0x400000 < 48) &&
    (decide (off < 0x160000) || (decide (0x180000 ≤ off) && decide (off < 0x1C0000)))

/-- The swarm names a package with this agent id (R226, R350). -/
def agentPresent (s : State) (id : Nat) : Bool :=
  match s.swarm with
  | none => false
  | some w => decide (0 < id) && decide ((w.pos + id) % 8 < w.n)

/-- What lies at a physical address (R18, R350). -/
def paKind (s : State) (pa : Nat) : PaKind :=
  if inHbm pa then .hbm (dieOfPa pa)
  else if 0x10000000000 ≤ pa ∧ pa < 0x10080000000 then (if windowOk pa then .window else .unmapped)
  else if 0x1000000000000 ≤ pa ∧ pa < 0x1080000000000 then
    let o := pa - 0x1000000000000
    let id := o / 0x10000000000
    if agentPresent s id && inHbm (o % 0x10000000000) then .peer id else .unmapped
  else if 0x8000000000000 ≤ pa ∧ pa < 0x10000000000000 then .host
  else .unmapped

/-- A local master's access reaches a line: HBM, host memory, or another package's memory. -/
def PaKind.line : PaKind → Bool
  | .hbm _ => true
  | .peer _ => true
  | .host => true
  | _ => false

/-! ## Check values (R236, R237) -/

/-- One step of the CRC register, most significant bit first. -/
def crcBit (r : BitVec 16) (b : Bool) : BitVec 16 :=
  if r.msb != b then (r <<< 1) ^^^ 0x8BB7#16 else r <<< 1
def crcByte (r : BitVec 16) (b : Byte) : BitVec 16 :=
  (List.range 8).foldl (fun r i => crcBit r (b.getLsbD (7 - i))) r
/-- The right check value of a sector: its 32 bytes, then its physical address as 8 bytes. -/
def rightCheck (pa : Nat) (bytes : List Byte) : BitVec 16 := (bytes ++ leBytes 8 pa).foldl crcByte 0

/-- A byte of HBM. -/
def memByte (s : State) (pa : Nat) : Byte := Store.getD unlisted s.mem pa
/-- Consecutive bytes of HBM. -/
def memBytes (s : State) (pa n : Nat) : List Byte := tabulate n fun i => memByte s (pa + i)
/-- The check value that sector k (PA / 32) carries: State holds its difference from the right one. -/
def checkValue (s : State) (k : Nat) : BitVec 16 := rightCheck (32 * k) (memBytes s (32 * k) 32) ^^^ Store.getD 0 s.chk k
/-- A sector's check value mismatches. -/
def chkBad (s : State) (k : Nat) : Bool := Store.getD 0 s.chk k != 0

/-- Count a mismatch met at a merge, per stack (R237, R357). -/
def countMerge (s : State) (pa : Nat) : State :=
  let k := stackOfPa pa
  { s with plat := { s.plat with merge := Store.putD 0 s.plat.merge k ((Store.getD 0 s.plat.merge k + 1) % 2 ^ 32) } }

/-- Sector k takes bytes [lo, hi) of a write: covered whole, it has the right check value; else the old one is verified,
and a mismatch is carried on as the right value exclusive-or 0xFFFF (R237). -/
def sealSector (s : State) (lo hi k : Nat) : State :=
  if lo ≤ 32 * k ∧ 32 * k + 32 ≤ hi then { s with chk := Store.putD 0 s.chk k 0 }
  else if chkBad s k then countMerge { s with chk := Store.putD 0 s.chk k 0xFFFF } (32 * k)
  else s

/-- The 128-bit sideband of a line (R238): check symbols, check values, elytron bits; State holds the difference of the
check symbols from the right ones. -/
def sideband (s : State) (line : Nat) : BitVec 128 :=
  let chk := (List.range 4).flatMap fun i => bytesOf (checkValue s (4 * line + i))
  let low := bytesOf (Store.getD 0 s.ely line) ++ chk
  let ecc := Config.eccRight (memBytes s (128 * line) 128 ++ low) ^^^ Store.getD 0 s.ecc line
  ofBytes 128 (low ++ bytesOf ecc)

/-- The check symbols of lines are made again (R238). -/
def freshEcc (s : State) (first n : Nat) : State :=
  { s with ecc := (List.range n).foldl (fun m i => Store.putD 0 m (first + i) 0) s.ecc }

/-- Write bytes of HBM with their check values and check symbols.  whole: the write gives every one of the bytes; else some are
what stood there, and every sector is merged (R237). -/
def writeMemAs (s : State) (whole : Bool) (pa : Nat) (bs : List Byte) : State :=
  if bs.isEmpty then s
  else
    let s := freshEcc { s with mem := Store.putsD unlisted s.mem pa bs } (pa / 128)
      ((pa + bs.length - 1) / 128 - pa / 128 + 1)
    (tabulate ((pa + bs.length - 1) / 32 - pa / 32 + 1) fun i => pa / 32 + i).foldl
      (fun s k => sealSector s pa (if whole then pa + bs.length else pa) k) s

/-- Write bytes of HBM, all of them new. -/
def writeMem (s : State) (pa : Nat) (bs : List Byte) : State := writeMemAs s true pa bs

/-- Spoil every sector of a line (R238). -/
def spoilLine (s : State) (line : Nat) : State :=
  { s with chk := (List.range 4).foldl (fun m i => Store.putD 0 m (4 * line + i) 0xFFFF) s.chk }

/-! ## Elytron bits (R225, R227) -/

def elyRaw (s : State) (line : Nat) : BitVec 16 := Store.getD 0 s.ely line
def setEly (s : State) (line : Nat) (e : BitVec 16) : State := { s with ely := Store.putD 0 s.ely line e }
/-- inc, agents and state made into the 16 bits. -/
def mkEly (inc : BitVec 2) (agents : BitVec 8) (st : BitVec 3) : BitVec 16 := 0#3 ++ inc ++ agents ++ st
def elyAgents (e : BitVec 16) : BitVec 8 := bits e 3 8
def elyInc (e : BitVec 16) : BitVec 2 := bits e 11 2
/-- The one agent named. -/
def elyOwner (e : BitVec 16) : Nat := lowBit 8 (elyAgents e).toNat

/-- States of a line (R227). -/
inductive LState | uncached | shared | exclusive | owned | modified | engineHeld | hostBias | locked
  deriving DecidableEq, Repr

def LState.ofCode (c : BitVec 3) : LState :=
  match c.toNat with
  | 0 => .uncached | 1 => .shared | 2 => .exclusive | 3 => .owned | 4 => .modified | 5 => .engineHeld | 6 => .hostBias
  | _ => .locked

/-- The page of a line is in host bias (R339); pages are 64 KiB. -/
def inHostBias (s : State) (line : Nat) : Bool := Store.getD false s.hostBias (line / 512)
/-- The page of a line is being flipped (R340). -/
def inFlip (s : State) (line : Nat) : Bool := s.flips.any fun f => f.page == line / 512
/-- The line's channel is in a retraining window, of at most 1 µs: its requests wait (R355). -/
def inWindow (s : State) (line : Nat) : Bool :=
  match Store.find s.plat.channels (32 * stackOfPa (128 * line) + Config.channelOf line % 32) with
  | some c => (match c.window with | some t => decide (s.gtc.toNat < t + 100) | none => false)
  | none => false
/-- The line's state; every line of a host-bias page is in HOST-BIAS. -/
def lineState (s : State) (line : Nat) : LState :=
  if inHostBias s line then .hostBias else LState.ofCode (bits (elyRaw s line) 0 3)

/-! ## Loss log (R231) and lost owners (R229) -/

/-- Write one loss-log entry, or count it as lost. -/
def logLoss (s : State) (line kind agent : Nat) (inc : BitVec 2) : State :=
  let l := s.loss
  if l.size = 0 then { s with loss := { l with lost := l.lost + 1 } }
  else
    let n := l.size / 16
    let w1 := (s.gtc.toNat % 2 ^ 48) * 2 ^ 16 + kind * 2 ^ 8 + agent * 4 + inc.toNat
    let s := writeMem s (l.base + 16 * (l.next % n)) (leBytes 8 (line * 128) ++ leBytes 8 w1)
    { s with loss := { l with next := l.next + 1, lost := if n ≤ l.next then l.lost + 1 else l.lost } }

def agent (s : State) (a : Nat) : Agent := vget s.agents a

/-- A failed channel holds the line (R356). -/
def onFailedChannel (s : State) (line : Nat) : Bool :=
  match Store.find s.plat.channels (32 * stackOfPa (128 * line) + Config.channelOf line % 32) with
  | some c => c.failed
  | none => false

/-- A line read uncorrectably: its sectors mismatch, it counts as UNCACHED, and the loss is logged (R238, R356); its check
symbols are a free value. -/
def uncorrectable (s : State) (line : Nat) : State :=
  let inc := elyInc (elyRaw s line)
  let s := setEly (spoilLine s line) line 0
  let s := { s with ecc := Store.putD 0 s.ecc line (Config.eccWrong s.free), free := s.free + 1 }
  logLoss s line 2 0 inc

/-- One more correction of a stack (R238, R357). -/
def countCorr (s : State) (pa : Nat) : State :=
  let k := stackOfPa pa
  { s with plat := { s.plat with corr := Store.putD 0 s.plat.corr k ((Store.getD 0 s.plat.corr k + 1) % 2 ^ 32) } }

/-- The mask that the picks hold under a key. -/
def pickMask (picks : List (Nat × Mask)) (key : Nat) : Mask := ((picks.find? fun e => e.1 == key).map (·.2)).getD 0

/-- The key in the picks of what an HBM read of a line meets: bit 0 an error that cannot be corrected, bit 1 one that is
(R238). -/
def pkMedia (line : Nat) : Nat := 2 ^ 50 + line

/-- A line is read from HBM: what the reading meets is the tape's (log entry 15), once a step (R238). -/
def mediaHit (s : State) (line : Nat) : State :=
  let m := pickMask s.picks (pkMedia line)
  if m == 0 || !inHbm (128 * line) then s
  else
    let s := { s with picks := s.picks.filter fun e => e.1 != pkMedia line }
    let s := if m.getLsbD 1 then countCorr s (128 * line) else s
    if m.getLsbD 0 then uncorrectable s line else s

/-- An access at a line's home reads HBM: not where the slice's copy of an OWNED line serves it, nor on the host-bias path
(R339). -/
def mediaRead (s : State) (line : Nat) : State :=
  match lineState s line with
  | .uncached | .shared | .exclusive | .modified => mediaHit s line
  | _ => s

/-- A line of a failed channel is treated as an uncorrectable error when it is next read, and again when something has been
written there since (R356). -/
def channelGone (s : State) (line : Nat) : State :=
  if inHbm (128 * line) && onFailedChannel s line &&
      !(s.plat.dead.contains line && elyRaw s line == 0 && (List.range 4).all fun i => chkBad s (4 * line + i))
  then
    let s := { s with plat := { s.plat with dead := (s.plat.dead.filter (· != line)) ++ [line] } }
    uncorrectable s line
  else s

/-- What every access at a line's home meets first: the reading of HBM (R238); a line owned by an agent that is down or has
another incarnation is treated as not held (R229); a line of a failed channel is read as an uncorrectable error (R356).
During a retraining window the access waits, and nothing is read (R355). -/
def resolve (s : State) (line : Nat) : State :=
  if inHbm (128 * line) && inWindow s line then s
  else
  let s := channelGone (mediaRead s line) line
  let e := elyRaw s line
  let b := elyOwner e
  let lost := (agent s b).down || (agent s b).inc != elyInc e
  match lineState s line with
  | .exclusive => if lost then setEly s line 0 else s
  | .owned =>
    if lost then
      match Store.find s.slices line with
      | some d => setEly { writeMem s (128 * line) (bytesOf d.data) with slices := Store.del s.slices line } line 0
      | none => setEly s line 0
    else s
  | .modified => if lost then logLoss (setEly s line 0) line 1 b (elyInc e) else s
  | _ => s

/-! ## Reading a line at its home -/

/-- Where the home takes a line's bytes from. -/
inductive LineSrc
  | mem
  | slice (d : LineData)
  /-- another package's memory that has failed: every sector mismatches (R351) -/
  | bad
  deriving DecidableEq, Repr

/-- A copy command holds the line (R232): every other request to it waits. -/
def engineHeld (s : State) (line : Nat) : Bool := s.copies.any fun c => c.2.held.contains line

/-- The team of a frozen command is on its core: once it is saved, the freeze is of the command alone (R345). -/
def frozenHere (s : State) (f : Frozen) : Bool :=
  f.kind == 4 || (match s.team (teamKey f.lid f.team) with | some t => t.state != .out | none => false)

/-- The engine of this kind and core is frozen. -/
def engineFrozen (s : State) (kind core : Nat) : Bool :=
  s.frozen.any fun f => f.kind == kind && f.unit == core % 48 && f.die == dieOf core && frozenHere s f

/-- The even core of a pair, which has the pair's traversal engine. -/
def tveCore (core : Nat) : Nat := core / 2 * 2

/-- What sends accesses that wait at a home under no request's id: a core's L1 for a fill, and the engines, walkers and saves
that write. -/
inductive Writer
  | fill (core : Nat)
  /-- a copy or an attention command -/
  | cmd (id : Nat)
  | trav (id : Nat)
  | graph (key : Nat)
  /-- a launch that ends -/
  | launch (id : Nat)
  /-- a team's save -/
  | team (key : Nat)
  /-- a command of the mailbox -/
  | mailbox
  deriving DecidableEq, Repr

/-- The number of a writer in the arrival order, apart from the ids of requests, commands and results. -/
def Writer.id : Writer → Nat
  | .fill c => 2 ^ 80 + c
  | .cmd i => 2 * 2 ^ 80 + i
  | .trav i => 3 * 2 ^ 80 + i
  | .graph k => 4 * 2 ^ 80 + k
  | .team k => 5 * 2 ^ 80 + k
  | .mailbox => 6 * 2 ^ 80
  | .launch i => 7 * 2 ^ 80 + i

/-- A DEBUG or RESYNC command is not over. -/
def Mailbox.held (m : Mailbox) : Bool := m.dbg.isSome || m.sync.isSome

/-- A writer's place in the arrival order stands: a fill until it is served, an engine's while its command or traversal may go
on, a save's until the team is out. -/
def writerWaits (s : State) (id : Nat) : Bool :=
  let k := id % 2 ^ 80
  match id / 2 ^ 80 with
  | 1 => true
  | 2 =>
    (match Store.find s.copies k with | some c => c.state == .running && !engineFrozen s 2 c.core | none => false) ||
      (match Store.find s.attns k with
       | some c => (c.state == .running || c.state == .pending) && !engineFrozen s 3 c.core
       | none => false)
  | 3 => match Store.find s.travs k with | some t => t.fault.isNone && !engineFrozen s 4 (tveCore t.core) | none => false
  | 4 => (Store.find s.graphs k).isSome
  | 5 => match s.team k with | some t => t.state == .halting || t.state == .awaiting | none => false
  | 6 => s.mbox.bg.isSome || s.mbox.held
  | 7 => (s.launch k).isSome
  | _ => false

/-- A result of a read at the point of coherence has still to read an element of the line. -/
def readWaits (s : State) (line id : Nat) : Bool :=
  s.groups.any fun e => (e.2.sc.out ++ e.2.ln.out).any fun p => p.id == id && p.kind == .homeLoad &&
    p.elts.any fun x => x.pa / 128 == line && p.unsampled.getLsbD x.lane

/-- What is in the arrival order of a line and still waits there: a request, a copy command that asks for the line, a read, or a
writer. -/
def stillWaits (s : State) (line id : Nat) : Bool :=
  (Store.find s.reqs id).isSome ||
    (match Store.find s.copies id with
     | some c => c.state == .running && c.want.head? == some line
     | none => false) ||
    readWaits s line id || writerWaits s id

/-- What has waited longest at the home of a line (R222). -/
def firstWaiting (s : State) (line : Nat) : Option Nat :=
  (s.waits.find? fun w => w.1 == line && stillWaits s line w.2).map (·.2)

/-- The home may serve what has this id: nothing that arrived earlier waits there (R222). -/
def mayServe (s : State) (line id : Nat) : Bool :=
  match firstWaiting s line with
  | none => true
  | some i => i == id

/-- What cannot be served waits at the home, in its order of arrival (R222). -/
def arriveAt (s : State) (line id : Nat) : State :=
  if s.waits.contains (line, id) then s
  else { s with waits := (s.waits.filter fun w => stillWaits s w.1 w.2) ++ [(line, id)] }

/-- The home's present copy of a line, whatever waits; none: not readable (R228, R232, R338, R339). -/
def homeLineNow (s : State) (line : Nat) : Option LineSrc :=
  if engineHeld s line then none
  else
  match paKind s (128 * line) with
  | .hbm _ =>
    if inFlip s line || inWindow s line then none
    else
      match lineState s line with
      | .uncached => some .mem
      | .shared => some .mem
      | .owned => some (match Store.find s.slices line with | some d => .slice d.data | none => .mem)
      | .hostBias => (Store.find s.slices line).map fun d => .slice d.data
      | _ => none
  | .peer a => if (agent s a).down then some .bad else (Store.find s.slices line).map fun d => .slice d.data
  | .host => (Store.find s.slices line).map fun d => .slice d.data
  | _ => none

/-- What waits under an id is served: it leaves the arrival order. -/
def leaveLine (s : State) (line id : Nat) : State := { s with waits := s.waits.filter (· != (line, id)) }

/-- The home's copy of a line for a local read that arrives now; none: the read waits, behind what waits there (R222). -/
def homeLine (s : State) (line : Nat) : Option LineSrc :=
  if (firstWaiting s line).isSome then none else homeLineNow s line

/-- Bytes [off, off + n) of a line from its source. -/
def srcBytes (s : State) (src : LineSrc) (pa n : Nat) : List Byte :=
  match src with
  | .mem => memBytes s pa n
  | .slice d => tabulate n fun i => bits d (8 * (pa % 128 + i)) 8
  | .bad => tabulate n fun _ => 0

/-- The sector of pa mismatches. -/
def srcBad (s : State) (src : LineSrc) (pa : Nat) : Bool :=
  match src with
  | .mem => chkBad s (pa / 32)
  | .slice _ => false
  | .bad => true

/-- Bytes within one line of a source, and whether a sector of them mismatches. -/
def srcRead (s : State) (pa n : Nat) (src : LineSrc) : List Byte × Bool :=
  (srcBytes s src pa n, (List.range ((pa + n - 1) / 32 - pa / 32 + 1)).any fun i => srcBad s src (32 * (pa / 32 + i)))

/-- Bytes within one line as a local read at the home, and whether a sector of them mismatches. -/
def homeRead (s : State) (pa n : Nat) : Option (List Byte × Bool) := (homeLine s (pa / 128)).map (srcRead s pa n)
/-- The same for a read that has an id in the arrival order. -/
def homeReadFor (s : State) (id pa n : Nat) : Option (List Byte × Bool) :=
  if mayServe s (pa / 128) id then (homeLineNow s (pa / 128)).map (srcRead s pa n) else none
/-- The same for a request that the home serves now, or a copy that a core already has. -/
def homeReadNow (s : State) (pa n : Nat) : Option (List Byte × Bool) := (homeLineNow s (pa / 128)).map (srcRead s pa n)

/-- The address by which a line that the package does not own is asked for: the host's address of a line of host memory
(R338), H + PA of a host-bias page (R339), the address within its package of a peer's line. -/
def askAddr (s : State) (line : Nat) : Nat :=
  if inHbm (128 * line) then s.hdm + 128 * line
  else if 0x8000000000000 ≤ 128 * line then 128 * line - 0x8000000000000
  else 128 * line % 0x10000000000

/-- Record a snoop, recall or request that is outstanding, and send it (R228, R337, R338, R349). -/
def snoop (s : State) (line agent : Nat) (inv keep : Bool) (m : Msg) : State :=
  if s.snoops.any fun x => x.line == line && x.agent == agent && x.inv == inv then s
  else ({ s with snoops := s.snoops ++ [⟨line, agent, inv, keep⟩] } : State).emit m

/-- Ask for what a local read of an unreadable line needs: a snoop of its owner, or the line from the host or the other
package.  A held, locked or flipping line just waits. -/
def askRead (s : State) (line : Nat) : State :=
  let s := resolve s line
  if (homeLine s line).isSome || engineHeld s line then s
  else
    match paKind s (128 * line) with
    | .hbm _ =>
      if inFlip s line then s
      else
        let b := elyOwner (elyRaw s line)
        match lineState s line with
        | .exclusive => snoop s line b false false (.recall b line false)
        | .modified => snoop s line b false true (.recall b line false)
        | .hostBias => snoop s line 0 false true (.request 0 (askAddr s line) false)
        | _ => s
    | .peer a => snoop s line a false true (.request a (askAddr s line) false)
    | .host => snoop s line 0 false true (.request 0 (askAddr s line) false)
    | _ => s

/-! ## Writing a line at its home -/

/-- Agents of SHARED that must be invalidated: those that are up (R229). -/
def sharers (s : State) (line : Nat) : List Nat :=
  (List.range 8).filter fun a => (elyAgents (elyRaw s line)).getLsbD a && !(agent s a).down

/-- A local write of the line may be performed, its leases apart (R228, R247). -/
def homeWritable (s : State) (line : Nat) : Bool :=
  !engineHeld s line &&
  match paKind s (128 * line) with
  | .hbm _ =>
    !inFlip s line && !inWindow s line &&
      (match lineState s line with
       | .uncached => true
       | .shared => (sharers s line).isEmpty
       | .hostBias => ((Store.find s.slices line).map (·.own)).getD false
       | _ => false)
  | .peer a => (agent s a).down || ((Store.find s.slices line).map (·.own)).getD false
  | .host => ((Store.find s.slices line).map (·.own)).getD false
  | _ => false

/-- Ask for what a local write needs: invalidations, or the line with ownership. -/
def askWrite (s : State) (line : Nat) : State :=
  let s := resolve s line
  if homeWritable s line || engineHeld s line then s
  else
    match paKind s (128 * line) with
    | .hbm _ =>
      if inFlip s line then s
      else
        match lineState s line with
        | .shared => (sharers s line).foldl (fun s a => snoop s line a true false (.recall a line true)) s
        | .exclusive => snoop s line (elyOwner (elyRaw s line)) true false (.recall (elyOwner (elyRaw s line)) line true)
        | .owned => snoop s line (elyOwner (elyRaw s line)) true false (.recall (elyOwner (elyRaw s line)) line true)
        | .modified => snoop s line (elyOwner (elyRaw s line)) true false (.recall (elyOwner (elyRaw s line)) line true)
        | .hostBias => snoop s line 0 true true (.request 0 (askAddr s line) true)
        | _ => s
    | .peer a => snoop s line a true true (.request a (askAddr s line) true)
    | .host => snoop s line 0 true true (.request 0 (askAddr s line) true)
    | _ => s

/-- The latest lease of the line has expired at its home (R222). -/
def leaseOver (s : State) (line : Nat) : Bool := decide (Store.getD 0 s.expiry line ≤ s.gtc.toNat)

/-- A peer's line that the slice owns EXCLUSIVE is written: its home is told (R349). -/
def tellDirty (s : State) (line : Nat) : State :=
  match paKind s (128 * line), Store.find s.slices line with
  | .peer a, some d => if d.own && !d.dirty then s.emit (.dirtyNotice a (askAddr s line)) else s
  | _, _ => s

/-- Write bytes within one line at its home: into HBM, or into the slice's owned copy.  The line becomes UNCACHED
(R228).  whole: the write gives every one of the bytes (R237). -/
def homeWriteAs (s : State) (whole : Bool) (pa : Nat) (bs : List Byte) : State :=
  let line := pa / 128
  match paKind s (128 * line), lineState s line with
  | .hbm _, .hostBias | .host, _ | .peer _, _ =>
    { tellDirty s line with slices := Store.adjust s.slices line fun d =>
        let old := bytesOf d.data
        let o := pa % 128
        { d with data := ofBytes 1024 (old.take o ++ bs ++ old.drop (o + bs.length)), dirty := true } }
  | .hbm _, .shared => setEly (writeMemAs s whole pa bs) line 0
  | .hbm _, _ => writeMemAs s whole pa bs
  | _, _ => s

/-- Write bytes within one line at its home, all of them new. -/
def homeWrite (s : State) (pa : Nat) (bs : List Byte) : State := homeWriteAs s true pa bs

/-! ## Leases (R221) -/

/-- A live L1 copy: the core's counter reads below e − 1. -/
def hasL1 (s : State) (core line : Nat) : Bool :=
  s.l1.any fun c => c.core == core && c.line == line && decide (s.gtc.toNat + 1 < c.expiry)

/-- The home serves an L1 fill in its order of arrival, when the line is readable: it grants the lease gtc + λ (R221, R222,
R234). -/
def fillL1 (s : State) (core line : Nat) : State :=
  let id := Writer.id (.fill core)
  if hasL1 s core line || (homeLineNow s line).isNone || !mayServe s line id then s
  else
    let e := s.gtc.toNat + s.lam
    { leaveLine s line id with
      expiry := Store.putD 0 s.expiry line (max e (Store.getD 0 s.expiry line)),
      l1 := (s.l1.filter fun c => !(c.core == core && c.line == line)) ++ [⟨core, line, e⟩] }

/-- A core's L1 asks for a line: the home serves it, or the fill waits there in the order of arrival (R222). -/
def askFill (s : State) (core line : Nat) : State :=
  let id := Writer.id (.fill core)
  if hasL1 s core line then leaveLine s line id
  else
    let s := resolve s line
    if (homeLineNow s line).isSome && mayServe s line id then fillL1 s core line else arriveAt (askRead s line) line id

/-! ## Translation (R239 to R242) -/

inductive Acc | read | write | fetch
  deriving DecidableEq, Repr

/-- A translation: the physical address and the leaf, a fault kind, or a table line that the walk waits for. -/
inductive Tr
  | ok (pa : Nat) (e : TlbEntry)
  | fault (kind : Nat)
  | blocked (line : Nat)
  deriving DecidableEq, Repr

/-- The index of a VA at a level, and the bits below it. -/
def vaShift : Nat → Nat
  | 0 => 16
  | 1 => 21
  | 2 => 30
  | 3 => 39
  | _ => 48
def vaIndex (level va : Nat) : Nat := va / 2 ^ vaShift level % (if level = 0 then 32 else 512)

/-- The walk from a table down; the level is the fuel.  A leaf with a replica mask whose frame lies outside HBM is malformed
(log entry 99: DEDUCED). -/
def walk (s : State) (die asp va : Nat) : Nat → Nat → Tr
  | level, tbl =>
    let a := tbl + 8 * vaIndex level va
    if !inHbm a then .fault 6
    else
      match homeRead s a 8 with
      | none => .blocked (a / 128)
      | some (bs, _) =>
        let e := ofBytes 64 bs
        if !bit e 0 then .fault 1
        else if bits e 52 12 != 0 then .fault 4
        else if bit e 1 then
          let frame := (bits e 16 36).toNat * 65536
          let rmask : BitVec 8 := bits e 8 8
          if bits e 4 4 != 0 then .fault 4
          else if 2 < level then .fault 4
          else if frame % 2 ^ vaShift level != 0 then .fault 4
          else if rmask != 0 && !(inHbm frame && rmask.getLsbD (dieOfPa frame)) then .fault 4
          else
            let pa := frame + va % 2 ^ vaShift level
            .ok pa ⟨die, asp, va / 65536, pa / 65536, bit e 2, bit e 3, rmask⟩
        else
          match level with
          | 0 => .fault 4
          | l + 1 =>
            let next := (bits e 8 44).toNat * 256
            if bits e 2 6 != 0 then .fault 4
            else if l != 0 && next % 4096 != 0 then .fault 4
            else walk s die asp va l next
  termination_by structural level => level

/-- The table lines that a walk reads, in order. -/
def walkLines (s : State) (va : Nat) : Nat → Nat → List Nat
  | level, tbl =>
    let a := tbl + 8 * vaIndex level va
    if !inHbm a then []
    else
      let e := ofBytes 64 (memBytes s a 8)
      a / 128 :: (match level with
        | 0 => []
        | l + 1 => if bit e 0 && !bit e 1 then walkLines s va l ((bits e 8 44).toNat * 256) else [])
  termination_by structural level => level

/-- What reading the table lines of a walk meets (R229, R238, R356). -/
def resolveWalk (s : State) (asp va : Nat) : State :=
  match Store.find s.aspaces asp with
  | none => s
  | some root => (walkLines s va 4 root).foldl resolve s

/-- A page mapped on more than one die (R233). -/
def TlbEntry.replicated (e : TlbEntry) : Bool := decide (1 < popCount e.rmask)

/-- The address a master of die d accesses: reads use the replica on d, writes the primary (R233). -/
def routed (e : TlbEntry) (die pa : Nat) (acc : Acc) : Nat :=
  if e.replicated && acc != .write && e.rmask.getLsbD die
  then pa % 0x2000000000 + die * 0x2000000000 else pa

/-- Permission and routing, tested after a valid leaf (R242). -/
def permit (e : TlbEntry) (die pa : Nat) (acc : Acc) : Tr :=
  if acc == .write && !e.wr then .fault 2
  else if acc == .fetch && !e.ex then .fault 3
  else .ok (routed e die pa acc) e

/-- Translate for a master of a die: kind 5 first, then the TLB or a walk, then kinds 2 and 3 (R242). -/
def translate (s : State) (die asp va : Nat) (acc : Acc) : Tr :=
  if 2 ^ 57 ≤ va then .fault 5
  else
    match s.tlb.find? fun e => e.die == die && e.asp == asp && e.vpn == va / 65536 with
    | some e => permit e die (e.frame * 65536 + va % 65536) acc
    | none =>
      match Store.find s.aspaces asp with
      | none => .fault 6
      | some root =>
        match walk s die asp va 4 root with
        | .ok pa e => permit e die pa acc
        | t => t

/-- Keep the translations that walks find: a changed table takes effect only after TLB_INVAL (R241). -/
def keepTr (s : State) (die asp va : Nat) : State :=
  if 2 ^ 57 ≤ va || (s.tlb.any fun e => e.die == die && e.asp == asp && e.vpn == va / 65536) then s
  else
    let s := resolveWalk s asp va
    match Store.find s.aspaces asp with
    | none => s
    | some root =>
      match walk s die asp va 4 root with
      | .ok _ e => { s with tlb := s.tlb ++ [e] }
      | _ => s

/-- Keep the translations of several addresses. -/
def keepTrs (s : State) (die asp : Nat) (vas : List Nat) : State := vas.foldl (fun s va => keepTr s die asp va) s

/-- The first failure among translations, in order. -/
def firstBad (ts : List (Nat × Tr)) : Option (Nat × Tr) :=
  ts.find? fun t => match t.2 with | .ok _ _ => false | _ => true

/-- The addresses of a list of good translations. -/
def pasOf (ts : List (Nat × Tr)) : List (Nat × TlbEntry) :=
  ts.filterMap fun t => match t.2 with | .ok pa e => some (pa, e) | _ => none

/-- Dies that hold copies of a page, when it is replicated. -/
def replMask (e : TlbEntry) : BitVec 8 := if e.replicated then e.rmask else 0

/-- A mapping of a frame on the dies of a mask takes in a line: on each of the dies, at the frame's place (R233). -/
def mapsLine (line frame size : Nat) (m : BitVec 8) : Bool :=
  let x := 128 * line % 0x2000000000
  let f := frame % 0x2000000000
  decide (1 < popCount m) && inHbm (128 * line) && m.getLsbD (dieOfPa (128 * line)) && decide (f ≤ x) && decide (x < f + size)

/-- The dies on which the leaves under a table map a line, where more than one; the level is the fuel. -/
def tableRepl (s : State) (line : Nat) : Nat → Nat → BitVec 8
  | level, tbl =>
    (List.range (if level = 0 then 32 else 512)).foldl (fun (m : BitVec 8) i =>
      let a := tbl + 8 * i
      let e := ofBytes 64 (memBytes s a 8)
      if !inHbm a || !bit e 0 then m
      else if bit e 1 then
        if mapsLine line ((bits e 16 36).toNat * 65536) (2 ^ vaShift level) (bits e 8 8) then m ||| bits e 8 8 else m
      else
        match level with
        | 0 => m
        | l + 1 => m ||| tableRepl s line l ((bits e 8 44).toNat * 256)) 0
  termination_by structural level => level

/-- The dies that hold a line of a replicated page, as translations in use, waiting commits and the page tables of the
address spaces show; 0: not replicated (R233). -/
def lineRepl (s : State) (line : Nat) : BitVec 8 :=
  let m := s.tlb.foldl (fun (m : BitVec 8) e => if mapsLine line (65536 * e.frame) 65536 (replMask e) then m ||| e.rmask else m) 0
  let m := s.reqs.foldl (fun (m : BitVec 8) r =>
    if mapsLine line (128 * r.2.line / 65536 * 65536) 65536 r.2.repl then m ||| r.2.repl else m) m
  s.aspaces.foldl (fun (m : BitVec 8) a => m ||| tableRepl s line 4 a.2) m

/-- The line lies in a replicated page. -/
def replicatedLine (s : State) (line : Nat) : Bool := lineRepl s line != 0

/-! ## Placement counters (R155) -/

/-- Add n lines of die d to the counter of the region of pa; only HBM has counters. -/
def countLines (s : State) (die pa n : Nat) : State :=
  if !inHbm pa || n == 0 then s
  else
    let k := pa / 0x200000
    let c := Store.getD 0 s.counts k
    let lines := min ((bits c 0 32).toNat + n) 0xFFFFFFFF
    let v : W64 := (bits c 56 8 ||| BitVec.ofNat 8 (2 ^ die)) ++ 0#24 ++ BitVec.ofNat 32 lines
    { s with counts := Store.putD 0 s.counts k v }

/-- Count a list of lines (PA[51:7]) once each. -/
def countEach (s : State) (die : Nat) (lines : List Nat) : State :=
  lines.foldl (fun s l => countLines s die (128 * l) 1) s

end Sys2Proof.Machine
end

