-- ==== Sys2Proof/Machine/Flags.lean ====
section
/-!
DEFINITION. Flags.lean: shadow intervals, which stand where other machines have condition flags
(spec/10_bounded_access.md R142 to R145, spec/07_scalar_instructions.md R98), and the FX flags (R90, R172).
-/
namespace Sys2Proof.Machine

open Sys2Proof

namespace Shadow

/-- −2^31. -/
def lo32 : Int := -2147483648
/-- 2^31 − 1. -/
def hi32 : Int := 2147483647

/-- The shadow with these exact endpoints: TOP when they do not fit, or are F (R144). -/
def norm (lo hi : Int) : Shadow :=
  if lo < lo32 ∨ hi32 < hi then .top else if lo = lo32 ∧ hi = hi32 then .top else .itv lo hi

/-- The exact shadow of a value (R142). -/
def exact (v : W32) : Shadow := .itv v.toInt v.toInt

/-- TOP read as F. -/
def lower : Shadow → Int
  | .top => lo32
  | .itv a _ => a
def upper : Shadow → Int
  | .top => hi32
  | .itv _ b => b

def isTop : Shadow → Bool
  | .top => true
  | .itv _ _ => false

/-- X nonneg (R98, R144). -/
def nonneg : Shadow → Bool
  | .top => false
  | .itv a _ => decide (0 ≤ a)

/-- The smallest interval covering both (R143). -/
def join : Shadow → Shadow → Shadow
  | .itv a b, .itv c d => norm (min a c) (max b d)
  | _, _ => .top

/-- x lies within [lo, hi]; TOP does not. -/
def within (x : Shadow) (lo hi : Int) : Bool :=
  match x with
  | .top => false
  | .itv a b => decide (lo ≤ a) && decide (b ≤ hi)

/-- x + [off, off], exact, TOP stays TOP (R103, R149). -/
def shift (x : Shadow) (lo hi : Int) : Shadow :=
  match x with
  | .top => .top
  | .itv a b => .itv (a + lo) (b + hi)

/-- How the endpoints of a result are taken: wrapping, or clamped to I32 or N32 (R145). -/
inductive Fit | wrap | satI | satN
  deriving DecidableEq, Repr

/-- Exact endpoints made a shadow. -/
def fit (f : Fit) (lo hi : Int) : Shadow :=
  match f with
  | .wrap => norm lo hi
  | .satI => norm (max lo32 (min lo hi32)) (max lo32 (min hi hi32))
  | .satN => norm (max 0 (min lo 4294967295)) (max 0 (min hi 4294967295))

def add (f : Fit) : Shadow → Shadow → Shadow
  | .itv a b, .itv c d => fit f (a + c) (b + d)
  | _, _ => .top
def sub (f : Fit) : Shadow → Shadow → Shadow
  | .itv a b, .itv c d => fit f (a - d) (b - c)
  | _, _ => .top

/-- Exact endpoints of a product. -/
def mulEnds (a b c d : Int) : Int × Int :=
  (min (min (a * c) (a * d)) (min (b * c) (b * d)), max (max (a * c) (a * d)) (max (b * c) (b * d)))

def mul (f : Fit) : Shadow → Shadow → Shadow
  | .itv a b, .itv c d => fit f (mulEnds a b c d).1 (mulEnds a b c d).2
  | _, _ => .top

/-- IMAD: without sat the product must fit by itself (R144); with sat the endpoints are exact to the end (R145). -/
def mad (f : Fit) (x y z : Shadow) : Shadow :=
  match f with
  | .wrap => add .wrap (mul .wrap x y) z
  | _ =>
    match x, y, z with
    | .itv a b, .itv c d, .itv l h => fit f ((mulEnds a b c d).1 + l) ((mulEnds a b c d).2 + h)
    | _, _, _ => .top

def smin (x y : Shadow) : Shadow := norm (min x.lower y.lower) (min x.upper y.upper)
def smax (x y : Shadow) : Shadow := norm (max x.lower y.lower) (max x.upper y.upper)
def clamp (x y z : Shadow) : Shadow :=
  norm (min (max x.lower y.lower) z.lower) (min (max x.upper y.upper) z.upper)

/-- SAND, IAND: the least upper bound among the nonneg operands. -/
def sand (x y : Shadow) : Shadow :=
  if x.nonneg && y.nonneg then .itv 0 (min x.upper y.upper)
  else if x.nonneg then .itv 0 x.upper
  else if y.nonneg then .itv 0 y.upper
  else .top

/-- B is exact with an amount, read unsigned, of at least 32. -/
def farShift : Shadow → Bool
  | .top => false
  | .itv a b => decide (a = b) && (decide (a < 0) || decide (32 ≤ a))

def shl (x y : Shadow) : Shadow :=
  if y.farShift then .itv 0 0
  else
    match x, y with
    | .itv a b, .itv c d => if c = d ∧ 0 ≤ c ∧ c ≤ 31 then norm (a * 2 ^ c.toNat) (b * 2 ^ c.toNat) else .top
    | _, _ => .top

def shr (x y : Shadow) : Shadow :=
  if y.farShift then .itv 0 0
  else
    match x, y with
    | .itv a b, .itv c d => if 0 ≤ c ∧ d ≤ 31 ∧ 0 ≤ a then norm (a / 2 ^ d.toNat) (b / 2 ^ c.toNat) else .top
    | _, _ => .top

def sra (x y : Shadow) : Shadow :=
  match x with
  | .top => .top
  | .itv a b =>
    if y.farShift then norm (a >>> 31) (b >>> 31)
    else
      match y with
      | .top => .top
      | .itv c d =>
        if 0 ≤ c ∧ d ≤ 31 then
          norm (a >>> (if 0 ≤ a then d.toNat else c.toNat)) (b >>> (if 0 ≤ b then c.toNat else d.toNat))
        else .top

/-- A ∩ [lo, hi]; equal to F is TOP. -/
def cap (x : Shadow) (lo hi : Int) : Shadow := norm (max x.lower lo) (min x.upper hi)

/-- How SB refines on a path: the relation that holds there (R98). -/
inductive Rel | lt | ge | eq | ne | ltu | geu
  deriving DecidableEq, Repr

def SCondRel : SCond → Bool → Rel
  | .eq, true => .eq
  | .eq, false => .ne
  | .ne, true => .ne
  | .ne, false => .eq
  | .lt, true => .lt
  | .lt, false => .ge
  | .ge, true => .ge
  | .ge, false => .lt
  | .ltn, true => .ltu
  | .ltn, false => .geu
  | .gen, true => .geu
  | .gen, false => .ltu

/-- New shadows of a and b (R98). -/
def refine (r : Rel) (x y : Shadow) : Shadow × Shadow :=
  match r with
  | .lt => (x.cap lo32 (y.upper - 1), y.cap (x.lower + 1) hi32)
  | .ge => (x.cap y.lower hi32, y.cap lo32 x.upper)
  | .eq => (x.cap y.lower y.upper, y.cap x.lower x.upper)
  | .ne => (x, y)
  | .ltu =>
    (if y.nonneg then x.cap 0 (y.upper - 1) else x,
     if x.nonneg && y.nonneg then y.cap (x.lower + 1) hi32 else y)
  | .geu =>
    (if x.nonneg && y.nonneg then x.cap y.lower hi32 else x,
     if x.nonneg then y.cap 0 x.upper else y)

end Shadow

/-- How R145 fits the endpoints of a lane type. -/
def fitOf (ty : Ty) (sat : Bool) : Shadow.Fit :=
  if sat then (if ty.signed then .satI else .satN) else .wrap

/-- R145: 64-bit types give TOP; N32 with sat asks that every operand be nonneg. -/
def laneShadow (ty : Ty) (sat : Bool) (ops : List Shadow) (sh : Shadow) : Shadow :=
  if ty.is64 then .top
  else if sat && !ty.signed && !ops.all Shadow.nonneg then .top
  else sh

/-- R145: IMIN, IMAX, ICLAMP and ISHR on N32 ask that every operand be nonneg. -/
def nShadow (ty : Ty) (ops : List Shadow) (sh : Shadow) : Shadow :=
  if ty.is64 then .top
  else if !ty.signed && !ops.all Shadow.nonneg then .top
  else sh

/-! ## FX -/

/-- FX flags (R90). -/
def fxNv : BitVec 6 := 1
def fxDz : BitVec 6 := 2
def fxOf : BitVec 6 := 4
def fxUf : BitVec 6 := 8
def fxNx : BitVec 6 := 16
def fxOb : BitVec 6 := 32

/-- A lane's FX as an instruction reads it: outstanding flag writes seen or not (R34). -/
def fxRead (picks : List (Nat × Mask)) (g : Group) (l : Nat) : BitVec 6 :=
  let ws := g.ln.out.flatMap fun p => p.writes
  (ws.foldl (fun (e : BitVec 6 × Nat) w =>
    match w with
    | .fxOr fs _ => (if pickBit picks pkFx e.2 l then e.1 ||| nthD 0 fs l else e.1, e.2 + 1)
    | .fxSet ls vs _ _ => (if ls.getLsbD l && pickBit picks pkFx e.2 l then nthD 0 vs l else e.1, e.2 + 1)
    | _ => e) (vget g.fx l, 0)).1

/-- The flag write of an instruction: none with nf, or when no lane raises a flag (R172, R53). -/
def fxWrite (nf : Bool) (fs : List (BitVec 6)) : List PWrite :=
  if nf || fs.all (· == 0) then [] else [.fxOr fs false]

end Sys2Proof.Machine
end

