-- ==== Sys2Proof/Machine/Operands.lean ====
section
/-!
DEFINITION. Operands.lean: the operand forms of lane words (spec/04_encoding.md R59, R60; spec/08_lane_instructions.md
R119), how a lane word issues, and the checks that come before every other trap (R27, R41).
-/
namespace Sys2Proof.Machine

open Sys2Proof

/-! ## Uniform operands -/

/-- A uniform register as a lane word reads it: S registers from the running block's view (R31), K registers exact. -/
def uRead (picks : List (Nat × Mask)) (g : Group) : Uni → W32 × Shadow
  | .k n => (vget g.k n.toNat, Shadow.exact (vget g.k n.toNat))
  | .s n =>
    let k := g.sKey n.toNat
    let o := sOut g.ln.out k
    (pickVal picks (pkS k) 0 0 (nthD 0 g.block.sv n.toNat) o, if o.isEmpty then nthD .top g.block.ssh n.toNat else .top)

/-- The register after it, the high word of a pair. -/
def Uni.next : Uni → Uni
  | .s n => .s (n + 1)
  | .k n => .k (n + 1)

/-- A uniform value at a type: a pair for the 64-bit types (R119). -/
def uVal (picks : List (Nat × Mask)) (g : Group) (ty : Ty) (u : Uni) : Nat :=
  if ty.is64 then (uRead picks g u).1.toNat + 2 ^ 32 * (uRead picks g (Uni.next u)).1.toNat else (uRead picks g u).1.toNat

/-- The 64-bit value of a uniform pair. -/
def uPair (picks : List (Nat × Mask)) (g : Group) (u : Uni) : W64 :=
  (uRead picks g (Uni.next u)).1 ++ (uRead picks g u).1

/-- An array register as a lane word sees it (R102). -/
def aLane (g : Group) (n : BitVec 4) : ARegVal := nthD 0 g.block.av n.toNat

/-! ## Operands of one lane, as W-bit patterns -/

/-- Width of a register value of the type (R120). -/
def tyW (ty : Ty) : Nat := if ty.is64 then 64 else 32

/-- A V operand in lane l. -/
def vVal (s : State) (gid : Nat) (g : Group) (ty : Ty) (n : BitVec 8) (l : Nat) : Nat :=
  if ty.is64 then (vRead s gid g n.toNat l).toNat + 2 ^ 32 * (vRead s gid g (n.toNat + 1) l).toNat
  else (vRead s gid g n.toNat l).toNat

/-- The 64-bit value of a V pair in lane l. -/
def vPair (s : State) (gid : Nat) (g : Group) (n : BitVec 8) (l : Nat) : W64 :=
  vRead s gid g (n.toNat + 1) l ++ vRead s gid g n.toNat l

/-- An ib immediate at a type: sign-extended for I64, else zero-extended (R119). -/
def immVal (ty : Ty) (x : BitVec 32) : Nat :=
  if ty = .i64 then (x.signExtend 64).toNat else x.toNat

def bVal (s : State) (gid : Nat) (g : Group) (ty : Ty) (b : OpB) (l : Nat) : Nat :=
  match b with
  | .v n => vVal s gid g ty n l
  | .u r => uVal s.picks g ty r
  | .lid => l
  | .imm x => immVal ty x

def cVal (s : State) (gid : Nat) (g : Group) (ty : Ty) (c : OpC) (l : Nat) : Nat :=
  match c with
  | .v n => vVal s gid g ty n l
  | .u r => uVal s.picks g ty r
  | .lid => l

/-- The shadow of LID (R60). -/
def lidShadow (g : Group) : Shadow := .itv 0 ((g.width : Int) - 1)

def bSh (s : State) (g : Group) (b : OpB) : Shadow :=
  match b with
  | .v n => vShadow g n.toNat
  | .u r => (uRead s.picks g r).2
  | .lid => lidShadow g
  | .imm x => Shadow.exact x

def cSh (s : State) (g : Group) (c : OpC) : Shadow :=
  match c with
  | .v n => vShadow g n.toNat
  | .u r => (uRead s.picks g r).2
  | .lid => lidShadow g

/-! ## Uniform registers that a word reads -/

/-- A uniform register at a type: the pair for the 64-bit types. -/
def uniAt (ty : Ty) (r : Uni) : List Uni := if ty.is64 then [r, Uni.next r] else [r]
def unisB (ty : Ty) : OpB → List Uni
  | .u r => uniAt ty r
  | _ => []
def unisC (ty : Ty) : OpC → List Uni
  | .u r => uniAt ty r
  | _ => []

/-- The uniform registers that a lane word reads. -/
def unis : Instr → List Uni
  | .iadd _ ty _ _ _ b => unisB ty b
  | .isub _ ty _ _ _ b => unisB ty b
  | .imul _ ty _ _ _ b => unisB ty b
  | .imulh _ ty _ _ b => unisB ty b
  | .imad _ ty _ _ _ b c => unisB ty b ++ unisC ty c
  | .imin _ ty _ _ b => unisB ty b
  | .imax _ ty _ _ b => unisB ty b
  | .iclamp _ ty _ _ b c => unisB ty b ++ unisC ty c
  | .iand _ ty _ _ b => unisB ty b
  | .ior _ ty _ _ b => unisB ty b
  | .ixor _ ty _ _ b => unisB ty b
  | .ishl _ ty _ _ b => unisB ty b
  | .ishr _ ty _ _ b => unisB ty b
  | .isra _ ty _ _ b => unisB ty b
  | .ibfi _ ty _ _ b _ _ => unisC ty b
  | .icmp _ ty _ _ _ b => unisB ty b
  | .isel _ ty _ _ b _ => unisB ty b
  | .vwiden _ _ lo hi => [lo] ++ [hi]
  | .vrange _ _ lo hi => [lo] ++ [hi]
  | .fadd _ _ _ _ _ b => unisB .i32 b
  | .fsub _ _ _ _ _ b => unisB .i32 b
  | .fmul _ _ _ _ _ b => unisB .i32 b
  | .ffma _ _ _ _ _ b c => unisB .i32 b ++ unisC .i32 c
  | .fmin _ _ _ _ b => unisB .i32 b
  | .fmax _ _ _ _ b => unisB .i32 b
  | .fcmp _ _ _ _ _ b => unisB .i32 b
  | .fdiv _ _ _ _ _ b => unisB .i32 b
  | .lmul _ _ _ _ b => unisB .i32 b
  | .xshfl _ _ _ _ _ b => unisB .i32 b
  | .xbcast _ _ _ _ b => unisB .i32 b
  | .laneCwait _ _ t => (match t with | .u r => [r] | .imm _ => [])
  | .ld _ _ _ _ _ b _ => unisC .i32 b
  | .st _ _ _ _ b _ _ => unisC .i32 b
  | .lds _ _ _ _ b _ => unisC .i32 b
  | .sts _ _ _ b _ _ => unisC .i32 b
  | .cst _ _ _ b _ _ => [b]
  | .xlde _ _ _ _ b _ => [b]
  | .atomAdd _ _ _ _ _ b _ _ => unisC .i32 b
  | .atomMin _ _ _ _ _ b _ _ => unisC .i32 b
  | .atomMax _ _ _ _ _ b _ _ => unisC .i32 b
  | .atomAnd _ _ _ _ _ b _ _ => unisC .i32 b
  | .atomOr _ _ _ _ _ b _ _ => unisC .i32 b
  | .atomXor _ _ _ _ _ b _ _ => unisC .i32 b
  | .atomXchg _ _ _ _ _ b _ _ => unisC .i32 b
  | .atomCas _ _ _ _ _ b _ _ => unisC .i32 b
  | .mldf _ _ _ _ addr _ => [addr]
  | .maccld _ _ _ addr _ => [addr]
  | .maccst _ _ _ addr _ => [addr]
  | .tvbegin _ _ _ _ c _ => [c, Uni.next c]
  | .tvcut _ _ _ c => [c, Uni.next c]
  | _ => []

/-- The word reads an S register that a scalar result issued before the block's LRUN is still to write: it waits (R31). -/
def waitsS (g : Group) (i : Instr) : Bool :=
  (unis i).any fun r =>
    match r with
    | .s n => g.block.due.any fun e => e.2 == n.toNat
    | .k _ => false

/-! ## Registers a word names, for the quota check -/

def vRegs (ty : Ty) (n : BitVec 8) : List Nat := if ty.is64 then [n.toNat, n.toNat + 1] else [n.toNat]
def runRegs (n : BitVec 8) (k : Nat) : List Nat := tabulate k fun i => n.toNat + i
def bRegs (ty : Ty) : OpB → List Nat
  | .v n => vRegs ty n
  | _ => []
def cRegs (ty : Ty) : OpC → List Nat
  | .v n => vRegs ty n
  | _ => []
def dRegs (ty : Ty) : Dst → List Nat
  | .v n => vRegs ty n
  | .s _ => []

/-- The lowest of the registers at or above the quota (R41). -/
def overQuota (q : Nat) (regs : List Nat) : Option Nat :=
  regs.foldl (fun r n => if n < q then r else match r with | none => some n | some m => some (min m n)) none

/-- Run a lane word whose V registers lie within the quota; else the quota trap (R41, R320). -/
def inQuota (s : State) (gid : Nat) (g : Group) (regs : List Nat) (k : State) : State :=
  match overQuota g.q regs with
  | some n => raiseL s gid g .quota (quotaInfo 1 n)
  | none => k

/-! ## Results of lane words -/

/-- The shadow of a V destination: joined with the old one when the effective mask is not the live mask (R143). -/
def partialSh (g : Group) (n : Nat) (eff : Mask) (sh : Shadow) : Shadow :=
  if eff == g.live then sh else Shadow.join (vShadow g n) sh

/-- Write Vn, or the pair, in the effective lanes: f gives the W-bit pattern of each lane. -/
def wV (g : Group) (ty : Ty) (n : BitVec 8) (eff : Mask) (sh : Shadow) (f : Nat → Nat) : List PWrite :=
  if ty.is64 then
    [.v n.toNat eff (tabulate g.width fun l => BitVec.ofNat 32 (f l)) (partialSh g n.toNat eff .top) false,
     .v (n.toNat + 1) eff (tabulate g.width fun l => BitVec.ofNat 32 (f l / 2 ^ 32)) (partialSh g (n.toNat + 1) eff .top) false]
  else [.v n.toNat eff (tabulate g.width fun l => BitVec.ofNat 32 (f l)) (partialSh g n.toNat eff sh) false]

/-- Write the effective bits of a P register. -/
def wP (n : BitVec 3) (eff : Mask) (vals : Mask) : List PWrite := [.p n.toNat eff vals false]

/-- Write an S register from the lane stream, whole (R129). -/
def wS (g : Group) (n : Nat) (v : W32) (sh : Shadow) : List PWrite := [.s (g.sKey n) v sh false]

/-- Issue a lane word with the result p (its id is given here): the stream goes on at the next word; the 64th
outstanding result stalls it (R35).  A word that writes nothing has no outstanding result (R119). -/
def issueP (s : State) (gid : Nat) (g : Group) (p : Pending) (sw : Bool) : State :=
  if p.writes.isEmpty then s.setGrp gid (g.nextL sw)
  else if g.ln.full then s
  else
    let g := { g with ln := g.ln.push { p with id := s.nextId, pc := g.ctx.lpc } }
    ({ s with nextId := s.nextId + 1 } : State).setGrp gid (g.nextL sw)

/-- Issue a lane word with plain register writes. -/
def issueL (s : State) (gid : Nat) (g : Group) (ws : List PWrite) (sw : Bool) : State :=
  issueP s gid g (plainPending 0 0 ws) sw

/-- A lane word with a V destination, per-lane result f and shadow sh, under its guard (R119): the shape of most rows. -/
def laneV (s : State) (gid : Nat) (g : Group) (m : Mods) (regs : List Nat) (ty : Ty) (d : BitVec 8) (sh : Shadow)
    (f : Nat → Nat) : State :=
  inQuota s gid g regs
    (let eff := effMask s.picks g m
     issueL s gid g (if eff == 0 then [] else wV g ty d eff sh f) m.sw)

/-- A lane word with a P destination. -/
def laneP (s : State) (gid : Nat) (g : Group) (m : Mods) (regs : List Nat) (d : BitVec 3) (f : Nat → Bool) : State :=
  inQuota s gid g regs
    (let eff := effMask s.picks g m
     issueL s gid g (if eff == 0 then [] else wP d eff (maskOf g.width f)) m.sw)

/-! ## Checks -/

/-- The role of R26 permits copy commands. -/
def roleCopy (g : Group) : Bool := g.role == 0 || g.role == 3
/-- The role permits matrix instructions and ATTN by the columns of R26. -/
def roleMatrix (g : Group) : Bool := g.role == 1 || g.role == 3

/-- TRAPINFO of a role violation: the group's role, 3 with a spawned group (R320). -/
def roleInfo (g : Group) : W32 := if g.spawned then 3 else BitVec.ofNat 32 g.role.toNat

/-- TRAPINFO of an operand trap (R320). -/
def opInfo (bit : Nat) : W32 := BitVec.ofNat 32 bit

/-- FEAT bit of the die of the group (R322). -/
def hasFeat (s : State) (gid : Nat) (bitNo : Nat) : Bool := bit (vget s.feat (dieOf (coreOf gid))) bitNo

end Sys2Proof.Machine
end

