-- ==== Sys2Proof/Machine/Access.lean ====
section
/-!
DEFINITION. Access.lean: how the groups' streams reach memory: halting a team on a fault or a violation
(spec/26_faults_and_preemption.md R325; spec/28_host_and_swarm.md R345), what a read may return
(spec/18_consistency.md R248 to R250), the requests that writes send (R247, R251), and access through an array register
(spec/10_bounded_access.md R149 to R153).
-/
namespace Sys2Proof.Machine

open Sys2Proof

/-! ## Halts -/

/-- The groups of g's team, or the spawned group alone. -/
def sameTeam (g : Group) (gid : Nat) (e : Nat × Group) : Bool :=
  if g.tid.isSome then e.2.lid == g.lid && e.2.tid == g.tid else e.1 == gid

/-- Halt every group of the team at its boundary: waiting words count as not issued (R316 step 2, R325, R345). -/
def haltTeam (s : State) (gid : Nat) (g : Group) : State :=
  { s with groups := s.groups.map fun e =>
      if sameTeam g gid e then (e.1, { e.2 with halted := true, sc := e.2.sc.stopWait, ln := e.2.ln.stopWait }) else e }

/-- The key under which a group's team, or the spawned group itself, is recorded when it is out. -/
def outKey (gid : Nat) (g : Group) : Nat :=
  match g.tkey with
  | some k => k
  | none => spawnKey g.lid (coreOf gid) g.gidx

/-- Freeze the team of a group (R345, kind 1). -/
def freezeTeam (s : State) (gid : Nat) (g : Group) (viol addr : Nat) : State :=
  let core := coreOf gid
  haltTeam { s with frozen := s.frozen ++
    [⟨1, core % 48, dieOf core, g.lid, g.tid.getD 0xFFFFFFFF, addr, viol, outKey gid g⟩] } gid g

/-- A record for a spawned group that leaves its slot (R328). -/
def spawnTeam (gid : Nat) (g : Group) : Team :=
  { lid := g.lid, tid := none, state := .resident, core := coreOf gid, spbase := 0, accbase := 0, ended := [], bars := [],
    rings := [], why := 0, fkind := 0, fmaster := 0, fva := 0, slot := none, groups := [], serviced := false, owed := [],
    since := 0, reserving := false }

/-- why of R330: 1 fault, 2 pre-emption, 3 both. -/
def whyFault (w : Nat) : Nat := if w = 2 ∨ w = 3 then 3 else 1
def whyPre (w : Nat) : Nat := if w = 1 ∨ w = 3 then 3 else 2

/-- A translation fault of a master of the team: the team halts, its fault record is made, and the fault is posted
(R242, R325, R344). master: group index, 0xFE TCE, 0xFF ATE (R330). -/
def faultTeam (s : State) (gid : Nat) (g : Group) (master kind va : Nat) : State :=
  let k := outKey gid g
  let s := if (s.team k).isSome then s else { s with teams := Store.put s.teams k (spawnTeam gid g) }
  let s := s.updTeam k fun t =>
    if t.why == 1 || t.why == 3 then t
    else { t with state := .halting, why := whyFault t.why, fkind := kind, fmaster := master, fva := va, serviced := false }
  let s := postFault s
    { die := dieOf (coreOf gid), kind := 1, lid := g.lid, who := g.tid.getD 0xFFFFFFFF,
      detail := BitVec.ofNat 32 kind, addr := va, info := 0 }
  haltTeam s gid g

/-- The region with its freeze flag set that covers an address (R345). -/
def freezeRegion (s : State) (pa : Nat) : Bool :=
  s.regions.any fun r => decide (r.2.pa ≤ pa) && decide (pa < r.2.pa + r.2.size) && bit r.2.flags 2

/-- A check-value mismatch found by a group: the integrity trap, or the freeze of viol 2 (R151, R237, R345). -/
def integrity (s : State) (gid : Nat) (g : Group) (lane : Bool) (pc : Va) (pa : Nat) (info : W32) (xlde : Bool := false) :
    State :=
  if freezeRegion s pa then freezeTeam s gid g 2 pa else raiseAt s gid g lane pc .integrity info xlde

/-- A sector of the bytes [pa, pa + n) mismatches as it is stored. -/
def spotBad (s : State) (pa n : Nat) : Bool :=
  (List.range ((pa + n - 1) / 32 - pa / 32 + 1)).any fun i => chkBad s (pa / 32 + i)

/-- TRAPINFO of an integrity fault (R320). -/
def integInfo (p lane : Nat) : W32 := BitVec.ofNat 32 (p * 256 + lane)

/-- The address space of a group's launch (R239). -/
def aspOf (s : State) (g : Group) : Nat := ((s.launch g.lid).map (·.asp)).getD 0

/-! ## Ids still outstanding -/

/-- The result or the request with this id has not returned, or not been performed. -/
def pendingId (s : State) (id : Nat) : Bool :=
  (Store.find s.reqs id).isSome ||
    s.groups.any fun e => (e.2.sc.out.any fun p => p.id == id) || (e.2.ln.out.any fun p => p.id == id)

/-- The ids among these that are still outstanding. -/
def live (s : State) (ids : List Nat) : List Nat := ids.filter (pendingId s)

/-- An acquire, or a fence, holds back the stream's accesses (R252, R253). -/
def Stream.blocked (s : State) (x : Stream) : Bool := x.acq.any (pendingId s)

/-- A scope whose releases need their covered writes performed (R251). -/
def farScope (s : State) (g : Group) : Scope → Bool
  | .group => false
  | .team => g.tid.isSome && (s.desc g).pair
  | _ => true

/-- Outstanding reads of a stream. -/
def Stream.reads (x : Stream) : List Nat :=
  (x.out.filter fun p => p.kind != .plain).map (·.id)

/-! ## Scratchpad (R17) -/

/-- Core and byte of a team-relative scratchpad address (R17). -/
def spadKey (d : KDesc) (t : Team) (x : Nat) : Nat :=
  let half := d.spq / 2
  if d.pair && decide (half ≤ x) then (t.core + 1) * 0x60000 + 128 * t.spbase + (x - half)
  else t.core * 0x60000 + 128 * t.spbase + x

/-- A word of scratchpad storage. -/
def spadWord (s : State) (w : Nat) : W32 := ofBytes 32 (tabulate 4 fun i => Store.getD 0 s.spad (4 * w + i))

/-- A byte of the team's scratchpad as stored. -/
def spadNow (s : State) (d : KDesc) (t : Team) (x n : Nat) : List Byte :=
  tabulate n fun i => Store.getD 0 s.spad (spadKey d t (x + i))

/-- Bytes of the team's scratchpad as a reader sees them, other writers' stores in flight (R21, R248); me: the source number
of the reader's own writes. -/
def spadBytes (s : State) (me : Nat) (d : KDesc) (t : Team) (x n : Nat) : List Byte :=
  if s.olds.isEmpty then spadNow s d t x n
  else
    tabulate n fun i =>
      let k := spadKey d t (x + i)
      bits (seeWord s me stSpad (k / 4) (spadWord s (k / 4))) (8 * (k % 4)) 8

/-- Bytes written to the team's scratchpad, at one instant. -/
def spadWrite (s : State) (d : KDesc) (t : Team) (x : Nat) (bs : List Byte) : State :=
  let put := fun (e : List (Nat × Byte) × Nat) b => (Store.putD 0 e.1 (spadKey d t e.2) b, e.2 + 1)
  { s with spad := (bs.foldl put (s.spad, x)).1 }

/-- Storage words of scratchpad bytes. -/
def spadWords (d : KDesc) (t : Team) (x n : Nat) : List Nat :=
  ((List.range n).map fun i => spadKey d t (x + i) / 4).eraseDups

/-- A word's new bytes, in what other writers' notes of it say it held: those writes are ordered by bytes alone. -/
def overNotes (s : State) (src store w : Nat) (new mask : W32) : State :=
  { s with olds := s.olds.map fun o =>
      if o.store == store && o.word == w && o.src != src then { o with old := (o.old &&& ~~~mask) ||| (new &&& mask) } else o }

/-- After a writer's bytes have reached a word that held `now`: readers may still see that, or what it held before other
writes in flight (R21, R248). -/
def noteWord (s : State) (src store w : Nat) (now new mask : W32) : State :=
  noteOlds (overNotes s src store w new mask) src store ((now :: oldsAt s src store w).map fun o => (w, o))

/-- The bytes of word w that lie among storage bytes, as a bit mask. -/
def wordMask (ks : List Nat) (w : Nat) : W32 :=
  ks.foldl (fun (m : W32) k => if k / 4 = w then m ||| BitVec.ofNat 32 (255 * 2 ^ (8 * (k % 4))) else m) 0

/-- Bytes that a writer stores into scratchpad storage: where another writer's store of the word is in flight either may
remain (R21). -/
def spadPutAt (s : State) (src : Nat) (xs : List (Nat × Byte)) : State :=
  ((xs.map fun x => x.1 / 4).eraseDups).foldl (fun s w =>
    if givesWay s src stSpad w then s
    else
      let now := spadWord s w
      let ys := xs.filter fun x => x.1 / 4 == w
      let s := { s with spad := ys.foldl (fun sp y => Store.putD 0 sp y.1 y.2) s.spad }
      noteWord s src stSpad w now (spadWord s w) (wordMask (ys.map (·.1)) w)) s

/-- Bytes that a writer stores into the team's scratchpad. -/
def spadPut (s : State) (src : Nat) (d : KDesc) (t : Team) (x : Nat) (bs : List Byte) : State :=
  spadPutAt s src (bs.mapIdx fun i b => (spadKey d t (x + i), b))

/-- The place, among what a word has held, of the value that a read by `me` sees; none: its contents. -/
def oldSeen (s : State) (me store word : Nat) : Option Nat :=
  ((List.range (oldsAt s me store word).length).filter fun i => pickBit s.picks (pkOld store word) i (word % 64)).getLast?

/-- A group has read words of the scratchpad: a store that it has seen is performed, with all before it (R250). -/
def readSpad (s : State) (me : Nat) (ws : List Nat) : State :=
  if s.olds.isEmpty then s
  else
    ws.foldl (fun s w =>
      let mine := fun (o : OldWord) => o.store == stSpad && o.word == w && o.src != me
      let n := match oldSeen s me stSpad w with | some i => i | none => s.olds.length
      { s with olds := (s.olds.foldl (fun (r : List OldWord × Nat) o =>
          if mine o then (if r.2 < n then (r.1, r.2 + 1) else (r.1 ++ [o], r.2 + 1)) else (r.1 ++ [o], r.2)) ([], 0)).1 }) s

/-! ## What a read returns -/

/-- [a, a + n) and [b, b + m) overlap. -/
def overlap (a n b m : Nat) : Bool := decide (a < b + m) && decide (b < a + n)

/-- The bytes a request writes: of a store, its own; of an atomic, its element. -/
def ReqKind.span : ReqKind → Nat × Nat
  | .store pa bs => (pa, bs.length)
  | .atomic _ _ pa size _ _ _ _ => (pa, size)
  | .ext _ _ => (0, 0)

/-- What must be over before a core's request is sent: what it follows itself, and what the core's earlier requests to its line
follow, which are sent before it (R248, R251). -/
def unsentFor (s : State) (id : Nat) (r : Req) : List Nat :=
  live s ((s.reqs.filter fun q => decide (q.1 ≤ id) && q.2.core == r.core && q.2.line == r.line).flatMap fun q =>
    q.2.deps ++ q.2.sentAfter)

/-- A request has been sent. -/
def isSent (s : State) (id : Nat) (r : Req) : Bool := (unsentFor s id r).isEmpty

/-- The writes of a core to bytes [pa, pa + n) that the homes have not performed, in issue order.  Stores to replicated pages are
not seen (R255). -/
def coreWrites (s : State) (core pa n : Nat) : List (Nat × Req) :=
  s.reqs.filter fun r =>
    r.2.core == some core && overlap r.2.kind.span.1 r.2.kind.span.2 pa n && r.2.repl == 0

/-- Those that it has sent (R248). -/
def sentWrites (s : State) (core pa n : Nat) : List (Nat × Req) :=
  (coreWrites s core pa n).filter fun r => isSent s r.1 r.2

/-- An earlier write of the read's own stream to the location is not sent yet: the read, which returns it or a later one, waits
(R248, R250). -/
def ownUnsent (s : State) (core : Nat) (src : Nat × Bool) (before pa n : Nat) : Bool :=
  (coreWrites s core pa n).any fun r => r.2.src == some src && decide (r.1 < before) && !isSent s r.1 r.2

/-- Bytes [pa, pa + n) with a store's bytes laid over them. -/
def layOver (pa : Nat) (bs : List Byte) (spa : Nat) (sb : List Byte) : List Byte :=
  bs.mapIdx fun i b => if spa ≤ pa + i ∧ pa + i < spa + sb.length then nthD 0 sb (pa + i - spa) else b

/-- Writes to bytes [pa, pa + n) from the last one on that covers them. -/
def lastOver (pa n : Nat) (ws : List (Nat × Req)) : List (Nat × Req) :=
  ws.foldl (fun l r => if r.2.kind.span.1 ≤ pa ∧ pa + n ≤ r.2.kind.span.1 + r.2.kind.span.2 then [r] else l ++ [r]) []

/-- The key in the picks of the lanes whose read passes over a request that was issued after it. -/
def pkLate (id : Nat) : Nat := 2 ^ 51 + id

/-- An unperformed write of the core that a lane's read, of the result with id `before`, may return: none of its own
stream's later ones; another group's later atomic never, its later store as the picks say (R248, R250). -/
def mayReturn (s : State) (src : Nat × Bool) (before lane : Nat) (r : Nat × Req) : Bool :=
  if r.1 < before then true
  else if r.2.src == some src then false
  else match r.2.kind with
    | .store .. => !(pickMask s.picks (pkLate r.1)).getLsbD lane
    | _ => false

/-- A plain read of an element by a core, of the result with id `before`: the bytes, whether its sector mismatches, and
the unperformed writes it returned; none while it cannot be read (R248, R250).  A leased copy is read whatever waits at the
home (R221). -/
def plainRead (s : State) (core : Nat) (src : Nat × Bool) (before lane pa n : Nat) : Option (List Byte × Bool × List Nat) :=
  let ws := (sentWrites s core pa n).filter (mayReturn s src before lane)
  if ownUnsent s core src before pa n || ws.any fun r => match r.2.kind with | .atomic .. => true | _ => false then none
  else
    let ws := lastOver pa n ws
    let covers := ws.any fun r => decide (r.2.kind.span.1 ≤ pa) && decide (pa + n ≤ r.2.kind.span.1 + r.2.kind.span.2)
    let base :=
      match if hasL1 s core (pa / 128) then homeReadNow s pa n else homeReadFor s (Writer.id (.fill core)) pa n with
      | some x => some x
      | none => if covers then some (tabulate n fun _ => 0, false) else none
    base.map fun x =>
      (ws.foldl (fun bs r => match r.2.kind with | .store spa sb => layOver pa bs spa sb | _ => bs) x.1, x.2, ws.map (·.1))

/-- A core has a write to a line that it issued before this id and that is not performed. -/
def writeBefore (s : State) (core before line : Nat) : Bool :=
  s.reqs.any fun r => r.2.core == some core && r.2.line == line && decide (r.1 < before) &&
    (match r.2.kind with | .ext _ _ => false | _ => true)

/-- A read at the point of coherence, of the result with id `before`, in the arrival order there: it waits behind its own core's
earlier writes to the line (R222, R248, R163). -/
def coherentRead (s : State) (core : Nat) (before : Nat) (pa n : Nat) : Option (List Byte × Bool × List Nat) :=
  if writeBefore s core before (pa / 128) then none
  else (homeReadFor s before pa n).map fun x => (x.1, x.2, [])

/-- The descriptor and the team of a group. -/
def descTeam (s : State) (gid : Nat) : Option (KDesc × Team) :=
  (s.grp gid).bind fun g => (g.tkey.bind s.team).map fun t => (s.desc g, t)

/-- A read of one element, by the kind of its result. -/
def readElt (s : State) (core : Nat) (src : Nat × Bool) (kind : PKind) (before : Nat) (e : LoadElt) :
    Option (List Byte × Bool × List Nat) :=
  match kind with
  | .homeLoad => coherentRead s core before e.pa e.size
  | .scratch => (descTeam s src.1).map fun x => (spadBytes s (spadSrc src.1) x.1 x.2 e.pa e.size, false, [])
  | _ => plainRead s core src before e.lane e.pa e.size

/-! ## Releases and acquires (R245, R251, R252) -/

/-- Of two groups, by key, launch and team, whether one lies within a scope of the other (R245). -/
def Scope.joins (sc : Scope) (gid lid : Nat) (tid : Option Nat) (gid' lid' : Nat) (tid' : Option Nat) : Bool :=
  match sc with
  | .group => gid == gid' && lid == lid'
  | .team => if tid.isSome then lid == lid' && tid == tid' else gid == gid' && lid == lid'
  | .pair => coreOf gid / 2 == coreOf gid' / 2
  | _ => true

/-- How wide a scope is. -/
def Scope.rank : Scope → Nat
  | .group => 0 | .team => 1 | .pair => 2 | .device => 3 | .swarm => 4 | .system => 5

/-- The wider of two scopes. -/
def wider (a : Option Scope) (b : Scope) : Scope :=
  match a with
  | some x => if Scope.rank b ≤ Scope.rank x then x else b
  | none => b

/-- A release synchronises with an acquire of a group at a scope: each lies within the other's scope (R245). -/
def Rel.meets (r : Rel) (sc : Scope) (gid : Nat) (g : Group) : Bool :=
  Scope.joins r.scope r.gid r.lid r.tid gid g.lid g.tid && Scope.joins sc gid g.lid g.tid r.gid r.lid r.tid

/-- The releases that a read of [pa, pa + n) returns, with the unperformed writes it returned: those writes' own, and those
of performed writes whose covered writes are not all performed, where an atomic's write is the latest or none came after
(R251, R252). -/
def relsRead (s : State) (pa n : Nat) (ids : List Nat) : List Rel :=
  let rs := ids.filterMap (Store.find s.reqs)
  (rs.flatMap (·.rels)) ++
    if rs.any fun r => decide (r.kind.span.1 ≤ pa) && decide (pa + n ≤ r.kind.span.1 + r.kind.span.2) then []
    else (s.relTags.filter fun t => overlap t.pa t.size pa n && !t.hidden).map (·.rel)

/-- A plain write of [pa, pa + n) hides what the releases performed there left: a read of it synchronises with none of them,
until an atomic's write follows (R252). -/
def hideRels (s : State) (pa n : Nat) : State :=
  { s with relTags := s.relTags.map fun t => if overlap t.pa t.size pa n then { t with hidden := true } else t }

/-- What an acquire at a scope adds to the covers, of the releases that it returned (R251 part 3). -/
def acqCover (gid : Nat) (g : Group) (acq : Option Scope) (rs : List Rel) : List Nat :=
  match acq with
  | none => []
  | some sc => (rs.filter fun r => r.meets sc gid g).flatMap (·.cover)

/-- The releases whose covers have an access outstanding. -/
def liveRels (s : State) (rs : List Rel) : List Rel := (rs.filter fun r => r.cover.any (pendingId s)).eraseDups

/-- A list of covers that holds a read holds what it returned (R251 part 2). -/
def also (id : Nat) (ids l : List Nat) : List Nat := if l.contains id then l ++ ids else l

/-- The unperformed stores to replicated pages among these: no core sees them before they are performed (R255). -/
def replPending (s : State) (ids : List Nat) : List Nat :=
  ids.filter fun i => match Store.find s.reqs i with | some r => r.repl != 0 | none => false

/-- A stream's covers gain what an acquire has brought; its later accesses, which return nothing older, follow what the core
does not see yet (R252). -/
def Stream.gain (s : State) (x : Stream) (ids : List Nat) : Stream :=
  { x with cov := live s (x.cov ++ ids), acq := live s x.acq ++ replPending s ids }

/-- The covers of a stream, and of a block; h: what their later accesses follow. -/
def Stream.mapCov (f h : List Nat → List Nat) (x : Stream) : Stream :=
  { x with cov := f x.cov, rel := x.rel.map fun r => { r with cover := f r.cover }, acq := h x.acq }
def Block.mapCov (f h : List Nat → List Nat) (b : Block) : Block :=
  { b with cov := f b.cov, rel := b.rel.map fun r => { r with cover := f r.cover }, acq := h b.acq }
def Group.mapCov (f h : List Nat → List Nat) (g : Group) : Group :=
  { g with
    sc := g.sc.mapCov f h, ln := g.ln.mapCov f h,
    ctx := { g.ctx with running := g.ctx.running.map (Block.mapCov f h), queue := g.ctx.queue.map (Block.mapCov f h) } }
def Req.mapCov (f : List Nat → List Nat) (r : Req) : Req :=
  { r with deps := f r.deps, rels := r.rels.map fun x => { x with cover := f x.cover } }

/-- A read, already in covers, has returned these writes, and acquired these: what it is in covers them too (R251), and accesses
that follow it follow what the core does not see yet (R252). -/
def coverFollows (s : State) (id : Nat) (ids : List Nat) : State :=
  if ids.isEmpty then s
  else
    let f := also id ids
    { s with
      reqs := s.reqs.map fun r => (r.1, r.2.mapCov f),
      groups := s.groups.map fun e => (e.1, e.2.mapCov f (also id (replPending s ids))),
      teams := s.teams.map fun t => (t.1, { t.2 with
        owed := f t.2.owed,
        bars := t.2.bars.map fun b => { b with cov := f b.cov }, rings := t.2.rings.map fun r => (r.1, f r.2) }),
      copies := s.copies.map fun c => (c.1, { c.2 with cov := f c.2.cov }),
      attns := s.attns.map fun c => (c.1, { c.2 with cov := f c.2.cov }),
      travs := s.travs.map fun c => (c.1, { c.2 with cov := f c.2.cov }),
      graphs := s.graphs.map fun c => (c.1, { c.2 with cov := f c.2.cov }),
      bins := s.bins.map fun b => { b with threads := b.threads.map fun t => { t with cov := f t.cov } },
      launches := s.launches.map fun l => (l.1, { l.2 with cov := f l.2.cov, rel := f l.2.rel }),
      relTags := s.relTags.map fun t => { t with rel := { t.rel with cover := f t.rel.cover } } }

/-- The value of a load: the element extended to 32 bits, or 64 (R157). -/
def extend (signed : Bool) (bs : List Byte) : Nat :=
  let w := 8 * bs.length
  let v := leNat bs
  if signed && decide (w < 32) && decide (2 ^ (w - 1) ≤ v) then v + 2 ^ 32 - 2 ^ w else v

/-! ## Requests of writes -/

/-- A write that is performed as it issues must wait: an earlier .REL fence's accesses are outstanding (R253). -/
def Stream.held (s : State) (x : Stream) : Bool :=
  x.rel.any fun f => (live s f.cover).any fun i => f.far || (Store.find s.reqs i).isNone

/-- Ids that a release of this stream covers, still outstanding. -/
def Stream.covered (s : State) (x : Stream) : List Nat := live s (x.cov ++ x.reads)

/-- The request of a write of a stream of a group.  rel: the scope at which it is itself a release (R251); it is one at the
scope of every .REL fence before it, too.  A release is sent once its covered reads have returned and its covered writes are
sent. -/
def mkReq (s : State) (gid : Nat) (g : Group) (lane : Bool) (kind : ReqKind) (repl : BitVec 8) (rel : Option Scope) : Req :=
  let x := g.str lane
  let c := x.covered s
  let far := match rel with | some sc => farScope s g sc | none => false
  let read := fun i => (Store.find s.reqs i).isNone
  let fence := x.rel.flatMap fun f => live s f.cover
  let before := fun ids => (ids.filterMap fun i => (Store.find s.reqs i).map fun r => (i, r)).flatMap fun r => unsentFor s r.1 r.2
  { line := kind.span.1 / 128, core := some (coreOf gid), src := some (gid, lane), kind := kind,
    deps := (if far then c else []) ++ (x.rel.filter (·.far)).flatMap fun f => live s f.cover,
    sentAfter := (if rel.isSome then c.filter read ++ before c else []) ++ fence.filter read ++ before fence,
    rels := (match rel with | some sc => [⟨sc, gid, g.lid, g.tid, c⟩] | none => []) ++
      x.rel.map fun f => ⟨f.scope, gid, g.lid, g.tid, live s f.cover⟩,
    own := some (outKey gid g), repl := repl, locked := [] }

/-- Send requests of a stream, one fresh id each, and put them into its cover. -/
def sendReqs (s : State) (gid : Nat) (lane : Bool) (rs : List Req) : State :=
  rs.foldl (fun s r =>
    let s' := { s with reqs := Store.put s.reqs s.nextId r, nextId := s.nextId + 1 }
    s'.updGrp gid fun g =>
      let x := g.str lane
      g.setStr lane { x with cov := live s x.cov ++ [s.nextId] }) s

/-! ## Array registers (R101) -/

def aBase (a : ARegVal) : Nat := (bits a 0 57).toNat
def aExtent (a : ARegVal) : Nat := (bits a 64 32).toNat
def aLsz (a : ARegVal) : Nat := (bits a 96 3).toNat
def aEsz (a : ARegVal) : Nat := 2 ^ aLsz a
/-- 0 MASK, 1 TRAP, 2 WRAP. -/
def aMode (a : ARegVal) : Nat := (bits a 99 2).toNat

/-- The interval is inside [0, extent − 1]: the access is unchecked (R149). -/
def insideA (a : ARegVal) (iv : Shadow) : Bool := iv.within 0 ((aExtent a : Int) - 1)

/-- An index is outside [0, extent − 1]. -/
def outA (a : ARegVal) (i : Int) : Bool := decide (i < 0) || decide ((aExtent a : Int) ≤ i)

/-- The index after the mode: none when the lane offends (R149). -/
def modeIndex (a : ARegVal) (checked : Bool) (i : Int) : Option Int :=
  if checked && outA a i then
    if aMode a = 2 ∧ aExtent a ≠ 0 then some (i - aExtent a * (i / aExtent a)) else none
  else some i

/-- The address of an element. -/
def eltAddr (a : ARegVal) (i : Int) : Nat := ((aBase a : Int) + i * aEsz a).toNat

/-- A lane, or a position, of a bounded access: its address, or none when it offends. -/
abbrev Spot := Nat × Option Nat

/-- bounded_index over (lane, index + off) pairs. -/
def spots (a : ARegVal) (iv : Shadow) (ix : List (Nat × Int)) : List Spot :=
  ix.map fun e => (e.1, (modeIndex a (!insideA a iv) e.2).map (eltAddr a))

/-- The lowest lane or position that the TRAP mode stops at. -/
def trapLane (a : ARegVal) (iv : Shadow) (ix : List (Nat × Int)) : Option Nat :=
  if !insideA a iv && aMode a == 1 then (ix.find? fun e => outA a e.2).map (·.1) else none

/-- TRAPINFO of a bounds trap (R320). -/
def boundsInfo (sp : Bool) (arr lane : Nat) : W32 := BitVec.ofNat 32 ((if sp then 2 ^ 16 else 0) + arr * 256 + lane)

/-- The lanes that offend. -/
def offending (sp : List Spot) : Mask := sp.foldl (fun m e => if e.2.isNone then m ||| laneBit e.1 else m) 0

/-- The lanes that access, with their addresses. -/
def accessing (sp : List Spot) : List (Nat × Nat) := sp.filterMap fun e => e.2.map fun a => (e.1, a)

/-- FX.ob of the offending lanes (R149). -/
def obWrite (nf : Bool) (w : Nat) (off : Mask) : List PWrite :=
  fxWrite nf (tabulate w fun l => if off.getLsbD l then fxOb else 0)

/-- The element range of a footprint (R152), for a uniform index, or for the interval of lanes or positions.  The table's
rows for a uniform index and for CST and XLDE are taken to stand for a TOP interval too, where the closing sentence gives no
footprint, and a uniform index that offends has none (log entry 80: DEDUCED). -/
def footprint (a : ARegVal) (iv : Shadow) (uniform : Option Int) (positions : Bool) : Option (Int × Int) :=
  let checked := !insideA a iv
  let top := (aExtent a : Int) - 1
  let r : Option (Int × Int) :=
    match uniform with
    | some i => (modeIndex a checked i).map fun j => (j, j)
    | none =>
      if checked && aMode a == 2 then some (0, top)
      else
        match iv with
        | .top => if positions then some (0, top) else none
        | .itv x y => if checked then some (max x 0, min y top) else some (x, y)
  r.filter fun e => decide (e.1 ≤ e.2)

/-- First and last byte of an element range. -/
def footBytes (a : ARegVal) (r : Int × Int) : Nat × Nat := (eltAddr a r.1, eltAddr a r.2 + aEsz a - 1)

/-- Lines of the range of virtual bytes, as VA / 128. -/
def footLines (b : Nat × Nat) : Nat := b.2 / 128 - b.1 / 128 + 1

/-- The translations of the lines of a footprint of 1 to 64 lines (R153). -/
def footTrs (s : State) (core asp : Nat) (b : Nat × Nat) : List Tr :=
  if 64 < footLines b then []
  else tabulate (footLines b) fun i => translate s (dieOf core) asp (128 * (b.1 / 128 + i)) .read

/-- The lines that the footprint of a load reserves: those of pages that can be translated (R153). -/
def reserved (s : State) (core asp : Nat) (b : Nat × Nat) : List Nat :=
  (footTrs s core asp b).filterMap fun t =>
    match t with
    | .ok pa _ => if (paKind s pa).line then some (pa / 128) else none
    | _ => none

/-- The table lines for which the walks of a footprint wait: whether those pages can be translated is not known yet. -/
def footWalks (s : State) (core asp : Nat) (b : Nat × Nat) : List Nat :=
  (footTrs s core asp b).filterMap fun t => match t with | .blocked line => some line | _ => none

/-- The core's L1 has asked for a line, and the home cannot serve it now, or a walk waits: no lane's access goes out yet
(R153). -/
def reserveWaits (s : State) (core asp : Nat) (b : Nat × Nat) : Bool :=
  !(footWalks s core asp b).isEmpty ||
    (reserved s core asp b).any fun l =>
      !hasL1 s core l && !((homeLineNow s l).isSome && mayServe s l (Writer.id (.fill core)))

/-- Reserve the lines of a footprint of 1 to 64 lines: the L1 is filled where the home can serve the line, which is asked for
elsewhere, as the table lines are for which walks wait (R153). -/
def reserve (s : State) (core asp : Nat) (b : Nat × Nat) : State :=
  let s := if 64 < footLines b then s
    else keepTrs s (dieOf core) asp ((List.range (footLines b)).map fun i => 128 * (b.1 / 128 + i))
  let s := (footWalks s core asp b).foldl askRead s
  (reserved s core asp b).foldl (fun s l => askFill s core l) s

/-- Count a footprint's lines, page by page (R155). -/
def countFoot (s : State) (die asp : Nat) (acc : Acc) (b : Nat × Nat) : State :=
  (List.range (b.2 / 65536 - b.1 / 65536 + 1)).foldl (fun s i =>
    let p := b.1 / 65536 + i
    let lo := max b.1 (65536 * p)
    let hi := min b.2 (65536 * p + 65535)
    match translate s die asp lo acc with
    | .ok pa _ => countLines s die pa (hi / 128 - lo / 128 + 1)
    | _ => s) s

/-- Translate the addresses of lanes. -/
def transLanes (s : State) (die asp : Nat) (acc : Acc) (xs : List (Nat × Nat)) : List (Nat × Tr) :=
  xs.map fun e => (e.1, translate s die asp e.2 acc)

/-- Go on with translated lanes (lane, PA, leaf); a fault swaps the team out, an access outside permitted regions freezes
it, and a walk that waits for a table line stalls the word (R151, R242, R18). -/
def translated (s : State) (gid : Nat) (g : Group) (acc : Acc) (xs : List (Nat × Nat))
    (k : State → List (Nat × Nat × TlbEntry) → State) : State :=
  let die := dieOf (coreOf gid)
  let asp := aspOf s g
  let s := keepTrs s die asp (xs.map (·.2))
  let ts := transLanes s die asp acc xs
  match ts.find? fun t => match t.2 with | .fault _ => true | _ => false with
  | some (l, .fault kind) => faultTeam s gid g g.gidx kind (((xs.find? fun x => x.1 == l).map (·.2)).getD 0)
  | _ =>
    match ts.find? fun t => match t.2 with | .blocked _ => true | _ => false with
    | some (_, .blocked line) => askRead s line
    | _ =>
      let ps := ts.filterMap fun t => match t.2 with | .ok pa e => some (t.1, pa, e) | _ => none
      match ps.find? fun p => !(paKind s p.2.1).line with
      | some p => freezeTeam s gid g 1 p.2.1
      | none => k s ps

/-- Lines of translated lanes, each once. -/
def linesOf (ps : List (Nat × Nat × TlbEntry)) : List Nat := (ps.map fun p => p.2.1 / 128).eraseDups

end Sys2Proof.Machine
end

