-- ==== Sys2Proof/Machine/Diverge.lean ====
section
/-!
DEFINITION. Diverge.lean: the divergence stack and its spill area (spec/02_execution_model.md R38, R39).
-/
namespace Sys2Proof.Machine

open Sys2Proof

/-- Base of a group's spill area and the number of entries it holds (R39). -/
def spillArea (s : State) (gid : Nat) (g : Group) : Nat × Nat :=
  let d := s.desc g
  let z := d.stackz
  let teams := ((s.launch g.lid).map (·.teams)).getD 0
  let i :=
    match g.tid with
    | some t => t * d.groups + g.gidx
    | none => teams * d.groups + coreOf gid * d.spawnq + g.gidx
  (d.stackb + i * z, z / 32)

/-- Entries held and spilled. -/
def LaneCtx.depth (c : LaneCtx) : Nat := c.held.length + c.spilled

/-- A spilled entry as four words (R39). -/
def divWords (e : DivEntry) : List W64 := [e.mask, e.pc.zeroExtend 64, e.rpc.zeroExtend 64, if e.join then 1 else 0]
def divOfWords (ws : List W64) : DivEntry :=
  ⟨bit (nthD 0 ws 3) 0, (nthD 0 ws 1).truncate 57, nthD 0 ws 0, (nthD 0 ws 2).truncate 57⟩

/-- Entries that n more pushes send to the spill area. -/
def spillsOf (c : LaneCtx) (n : Nat) : Nat := c.held.length + n - 32

/-- n pushes find room: 32 entries in handler mode, the spill area's room elsewhere (R39, R317). -/
def hasRoom (s : State) (gid : Nat) (g : Group) (n : Nat) : Bool :=
  if g.handler then decide (g.ctx.held.length + n ≤ 32)
  else decide (g.ctx.spilled + spillsOf g.ctx n ≤ (spillArea s gid g).2)

/-- The divergence-stack overflow trap (R39, R320). -/
def overflowTrap (s : State) (gid : Nat) (g : Group) : State :=
  raiseL s gid g .overflow (if g.handler then 32 else 0)

/-- Push entries, the first given first; the bottom entries beyond 32 are stored in the spill area, as ordinary accesses
of the group. -/
def pushDiv (s : State) (gid : Nat) (g : Group) (es : List DivEntry) (k : State → Group → State) : State :=
  if !hasRoom s gid g es.length then overflowTrap s gid g
  else
    let held := es.reverse ++ g.ctx.held
    let n := held.length - 32
    let out := (held.drop (held.length - n)).reverse
    let g' := { g with ctx := { g.ctx with held := held.take (held.length - n), spilled := g.ctx.spilled + n } }
    if n = 0 then k s g'
    else if g.ln.blocked s then s
    else
      let base := (spillArea s gid g).1 + 32 * g.ctx.spilled
      let words := out.flatMap divWords
      translated s gid g .write (tabulate words.length fun i => (i, base + 8 * i)) fun s ps =>
        let rs := ps.map fun p =>
          mkReq s gid g true (.store p.2.1 (bytesOf (nthD 0 words p.1))) (replMask p.2.2) none
        let s := sendReqs (s.setGrp gid g') gid true rs
        match s.grp gid with
        | some g => k s g
        | none => s

/-- Pop the top entry; while entries are spilled, the newest of them comes back under the held ones. -/
def popDiv (s : State) (gid : Nat) (g : Group) (k : State → Group → DivEntry → State) : State :=
  match g.ctx.held with
  | [] => s
  | e :: rest =>
    if g.ctx.spilled = 0 then k s { g with ctx := { g.ctx with held := rest } } e
    else if g.ln.blocked s then s
    else
      let base := (spillArea s gid g).1 + 32 * (g.ctx.spilled - 1)
      translated s gid g .read (tabulate 4 fun i => (i, base + 8 * i)) fun s ps =>
        let s := ps.foldl (fun s p => resolve s (p.2.1 / 128)) s
        let rs := ps.map fun p => (p, plainRead s (coreOf gid) (gid, true) s.nextId p.1 p.2.1 8)
        match rs.find? fun r => r.2.isNone with
        | some r => askFill s (coreOf gid) (r.1.2.1 / 128)
        | none =>
          let ws := rs.filterMap fun r => r.2.map fun x => (r.1.2.1, x)
          match ws.find? fun x => x.2.2.1 with
          | some x => integrity s gid g true g.ctx.lpc x.1 (integInfo 0 0)
          | none =>
            let b := divOfWords (ws.map fun x => ofBytes 64 x.2.1)
            k s { g with
              ctx := { g.ctx with held := rest ++ [b], spilled := g.ctx.spilled - 1 },
              ln := { g.ln.gain s (ws.flatMap fun x => x.2.2.2) with
                seen := liveRels s (g.ln.seen ++ ws.flatMap fun x => relsRead s x.1 8 x.2.2.2) } } e

/-- Reconvergence, applied before a lane word issues (R38); fuel: the depth of the stack. -/
def reconverge (gid : Nat) : Nat → State → Group → (State → Group → State) → State
  | 0, s, g, k => k s g
  | n + 1, s, g, k =>
    match g.ctx.held with
    | [] => k s g
    | t :: _ =>
      if t.rpc == g.ctx.lpc then
        popDiv s gid g fun s g e =>
          reconverge gid n s { g with ctx := { g.ctx with exm := e.mask &&& g.live, lpc := e.pc } } k
      else k s g

end Sys2Proof.Machine
end

