-- ==== Sys2Proof/Machine/Fetch.lean ====
section
/-!
DEFINITION. Fetch.lean: a stream's next word: whether it may issue, debug breakpoints, fetching and decoding
(spec/02_execution_model.md R28 to R33, spec/04_encoding.md R67 to R71, spec/26_faults_and_preemption.md R324).
-/
namespace Sys2Proof.Machine

open Sys2Proof

/-- The group's slot on its core is single-stepped, outside handler mode (R317, R324). -/
def stepped (s : State) (gid : Nat) (g : Group) : Bool := bit (s.core (coreOf gid)).step (gid % 64) && !g.handler

/-- Nothing stops a stream: no halt, no trap pending, and, of a stepped group, it is the stepped stream (R316, R324).  A CST or
XLDE that has committed positions goes on to its end, which is where the lane stream stops. -/
def mayGo (s : State) (gid : Nat) (g : Group) (lane : Bool) : Bool :=
  !g.halted && !g.tstop && g.trap.isNone && (!stepped s gid g || (s.core (coreOf gid)).sstr == lane) || lane && g.ctx.part

/-- A stream may issue: nothing stops it, it does not wait and is not parked (R33), and, for the lane stream, a block is running
(R29). -/
def canIssue (s : State) (gid : Nat) (g : Group) (lane : Bool) : Bool :=
  let x := g.str lane
  mayGo s gid g lane && x.wait.isNone && (!x.park || x.out.isEmpty) &&
    (!lane || (g.ctx.running.isSome && !g.ctx.exited))

/-- The breakpoint slot that fires on a word (R323, R324). -/
def breakSlot (s : State) (gid : Nat) (g : Group) (lane : Bool) (pc : Va) : Option Nat :=
  if g.handler || g.noBp == some lane || lane && g.ctx.part then none
  else (List.range 4).find? fun i =>
    let b := nthD 0 (s.core (coreOf gid)).bps i
    bit b 63 && bit b 62 == lane && bits b 0 57 == pc

/-- What decoding depends on in a group. -/
def groupCtx (g : Group) : Ctx := ⟨g.handler, g.width == 64, fun n => some (aEsz (aLane g n))⟩

/-- The key in the picks of the 4-byte parts of a word that are fetched later than now (R71). -/
def pkParts : Nat := 64 * 403

/-- A part of a word: as fetched before, put off, or as the home holds it. -/
def fetchPart (s : State) (parts : List (Nat × List Byte)) (i va pa : Nat) : Option (List Byte) :=
  match parts.find? fun e => e.1 == va with
  | some e => some e.2
  | none => if (pickMask s.picks pkParts).getLsbD i then none else (homeRead s pa 4).map (·.1)

/-- Keep parts of a stream's next word. -/
def setParts (s : State) (gid : Nat) (lane : Bool) (parts : List (Nat × List Byte)) : State :=
  s.updGrp gid fun g => g.setStr lane { g.str lane with parts := parts }

/-- The parts of a word, each with its two addresses: when all are there the word goes on, else those that are wait. -/
def fetchParts (s : State) (gid : Nat) (g : Group) (lane : Bool) (ps : List (Nat × Nat))
    (k : State → List Byte → State ⊕ (State × Instr)) : State ⊕ (State × Instr) :=
  let old := (g.str lane).parts
  let got := (ps.mapIdx fun i p => (p.1, fetchPart s old i p.1 p.2)).filterMap fun e => e.2.map fun b => (e.1, b)
  if got.length < ps.length then .inl (setParts s gid lane got)
  else k (if old.isEmpty then s else setParts s gid lane []) (got.flatMap (·.2))

/-- The lane stream stops where it is. -/
def Group.unpart (g : Group) : Group := { g with ctx := { g.ctx with part := false } }

/-- Fetch n bytes of code at a virtual address, in parts of 4, each at a time of its own (R71): a failed translation is the
fault of that word. -/
def fetchBytes (s : State) (gid : Nat) (g : Group) (lane : Bool) (pc : Va) (n : Nat)
    (k : State → List Byte → State ⊕ (State × Instr)) : State ⊕ (State × Instr) :=
  let die := dieOf (coreOf gid)
  let asp := aspOf s g
  let vas := tabulate (n / 4) fun i => pc.toNat + 4 * i
  let s := keepTrs s die asp vas
  let ts := vas.map fun va => (va, translate s die asp va .fetch)
  let stop := fun (s : State) => if lane && g.ctx.part then s.updGrp gid Group.unpart else s
  match firstBad ts with
  | some (va, .fault kind) => .inl (faultTeam (stop s) gid g g.gidx kind va)
  | some (_, .blocked line) => .inl (askRead s line)
  | _ =>
    let ps := (pasOf ts).map (·.1)
    match ps.find? fun p => !(paKind s p).line with
    | some p => .inl (freezeTeam (stop s) gid g 1 p)
    | none =>
      let s := ps.foldl (fun s p => resolve s (p / 128)) s
      match ps.find? fun p => (homeRead s p 4).isNone with
      | some p => .inl (askRead s (p / 128))
      | none => fetchParts s gid g lane (vas.zip ps) k

/-- The instruction of a decoded word; a word that is none raises the illegal-instruction trap (R67). -/
def orIllegal (lane : Bool) : Except (Nat × Nat) Instr → Instr
  | .ok i => i
  | .error (reason, b) => .wordNotAnInstruction lane (BitVec.ofNat 8 reason) (BitVec.ofNat 7 b)

/-- Fetch and decode a stream's word; the breakpoint comes first (R324).  A scalar PC that is no multiple of 4 can only be a
routine entry, which R299 checks when it is fetched: the trap is SJR's for a bad target, reason 7 (DEDUCED, log 95). -/
def fetchWord (s : State) (gid : Nat) (g : Group) (lane : Bool) : State ⊕ (State × Instr) :=
  let pc := if lane then g.ctx.lpc else g.spc
  match breakSlot s gid g lane pc with
  | some i => .inl (raiseAt s gid g lane pc .breakpoint (BitVec.ofNat 32 i))
  | none =>
    if lane then
      fetchBytes s gid g true pc 12 fun s bs => .inr (s, orIllegal true (decodeLane (groupCtx g) (ofBytes 96 bs)))
    else if pc.toNat % 4 != 0 then .inr (s, .wordNotAnInstruction false 7 0)
    else
      fetchBytes s gid g false pc 4 fun s bs => .inr (s, orIllegal false (decodeScalar (groupCtx g) (ofBytes 32 bs)))

/-- Reconvergence before a lane word; the state in which it is fetched, unless a spilled entry cannot be read yet. -/
def beforeLane (s : State) (gid : Nat) (g : Group) : State :=
  reconverge gid (g.ctx.depth + 1) s g fun s g => s.setGrp gid g

/-- No pop is due. -/
def converged (g : Group) : Bool :=
  match g.ctx.held with
  | t :: _ => t.rpc != g.ctx.lpc
  | [] => true

/-- Prepare the issue of a stream's next word: the state it issues in and its instruction, or what happens instead. -/
def prepare (s : State) (gid : Nat) (lane : Bool) (picks : List (Nat × Mask)) : State ⊕ (State × Instr) :=
  match s.grp gid with
  | none => .inl s
  | some g =>
    if !canIssue s gid g lane then .inl s
    else
      let s := if lane then beforeLane s gid g else s
      match s.grp gid with
      | none => .inl s
      | some g =>
        if !canIssue s gid g lane || (lane && !converged g) then .inl s
        else
          match fetchWord { s with cur := gid, picks := picks } gid g lane with
          | .inl s' => .inl s'
          | .inr (s', i) => if lane && waitsS g i then .inl s' else .inr (s', i)

/-- The lane queue is empty and every result of every retired block has returned (R30). -/
def Group.laneIdle (g : Group) : Bool := g.ctx.queue.isEmpty && g.ctx.running.isNone && g.ln.out.isEmpty

/-- Where a lane stream stands: its PC, EXM and divergence stack, and whether its LEXIT has issued. -/
def LaneCtx.place (c : LaneCtx) : Va × Mask × List DivEntry × Nat × Bool := (c.lpc, c.exm, c.held, c.spilled, c.exited)

/-- A stream's word has issued, and has not stalled (R324): its PC or its lane context has changed, or it is a word that may
issue and leave them as they were; SJAL stalls at 63 outstanding results (R35). -/
def hasIssued (s : State) (before g : Group) (lane : Bool) (i : Instr) : Bool :=
  (if lane then g.ctx.place != before.ctx.place else g.spc != before.spc) ||
    match i with
    | .sb .. | .sj .. | .sjr .. | .ljmp .. => true
    | .sjal .. => !before.sc.full
    | .yield .. => before.laneIdle && g.sc.wait.isNone
    | .lbrc m .. =>
      let t := before.ctx.exm &&& guardMask s.picks before m
      t == 0 || t == before.ctx.exm
    | _ => false

/-- The single-step trap, after the lane PC's reconvergence (R324). -/
def stepTrap (s : State) (gid : Nat) (lane : Bool) : State :=
  match s.grp gid with
  | none => s
  | some g =>
    if !stepped s gid g || (s.core (coreOf gid)).sstr != lane || g.trap.isSome || g.halted then s
    else if lane then
      reconverge gid (g.ctx.depth + 1) s g fun s g => raiseL (s.setGrp gid g) gid g .step 0
    else raiseS s gid g .step 0

/-- After a word of a stream has had its effect: the first word after ERET has issued, and a stepped stream traps once its
word has issued. -/
def settle (before : Group) (gid : Nat) (lane : Bool) (i : Instr) (s : State) : State :=
  match s.grp gid with
  | none => s
  | some g =>
    if !hasIssued s before g lane i || before.handler || g.handler then s
    else
      let s := if g.noBp == some lane then s.setGrp gid { g with noBp := none } else s
      stepTrap s gid lane

/-- The number of an S register key. -/
def sNum (k : Nat) : Nat := if k < 64 then k else k - 8

/-- A block sees scalar writes to the S and A registers named, as they are now (R31, R102). -/
def viewScalar (g : Group) (regs : Mask) (aregs : BitVec 16) (b : Block) : Block :=
  let pick := fun n => decide (n < 64) && regs.getLsbD n
  { b with
    sv := tabulate 64 fun n => if pick n then (newestS g n).1 else nthD 0 b.sv n,
    ssh := tabulate 64 fun n => if pick n then (newestS g n).2 else nthD .top b.ssh n,
    av := tabulate 16 fun n => if aregs.getLsbD n then vget g.a n else nthD 0 b.av n }

/-- A group's running block (0), or its queued block with index i − 1, changes. -/
def Group.updBlock (g : Group) (i : Nat) (f : Block → Block) : Group :=
  { g with ctx := match i with
    | 0 => { g.ctx with running := g.ctx.running.map f }
    | j + 1 => { g.ctx with queue := g.ctx.queue.modify j f } }

/-- Scalar writes become visible to a running or a queued block (R31, R102). -/
def viewStep (s : State) (gid block : Nat) (regs : Mask) (aregs : BitVec 16) : State :=
  s.updGrp gid fun g => g.updBlock block (viewScalar g regs aregs)

/-- The rows of the table that are events: what the tape may name.  The others are words, which only a stream issues. -/
def isEvent : Instr → Bool
  | .gtcTick | .resultReturn .. | .blockStart .. | .blockRetire .. | .trapEntry .. | .binTimerExpiry ..
  | .spawnedGroupLaunch .. | .teamPlacement .. | .teamReserving .. | .growGrant .. | .yieldReactivate ..
  | .barrierRelease .. | .stagePhaseObserved .. | .mwaitReread .. | .counterWaitMet .. | .engineLineOwnership ..
  | .engineLineRelease .. | .copyCommandComplete .. | .attnCommandStart .. | .attnKeyBlock ..
  | .attnCommandComplete .. | .traversalStep .. | .cutApply .. | .launchEnd .. | .openTailWake .. | .graphEnd ..
  | .l1Fill .. | .leaseExpiry .. | .homeWritePerform .. | .sliceEviction .. | .replicaLock .. | .replicaUpdate ..
  | .tableWalk .. | .refreshManagement .. | .readShared .. | .readOwn .. | .dirtyNotice .. | .writeback ..
  | .cleanEviction .. | .recallToShared .. | .recallInvalidate .. | .data .. | .dataDirty .. | .notHeld ..
  | .failureNotice .. | .memrdShared .. | .memrdAny .. | .memrdInvalid .. | .memwr .. | .snpdata .. | .snpinv ..
  | .resync .. | .freezeReleaseResume .. | .freezeReleaseEnd .. | .biasSetHost .. | .biasSetDevice ..
  | .pageFlip .. | .telemetry .. | .fwStage .. | .fwActivate .. | .leaseSet .. | .placementRead ..
  | .losslogSet .. | .aspaceSet .. | .tlbInval .. | .graphPost .. | .graphRelease .. | .preempt ..
  | .chrysalisComplete .. | .poolSlotSave .. | .resume .. | .resumeEnd .. | .faultDoneRetry .. | .faultDoneEnd ..
  | .poolSet .. | .trapbaseSet .. | .featClear .. | .debugRead .. | .debugWrite .. | .protectSet ..
  | .swarmSet .. | .travEnd .. | .backgroundComplete | .getVersion .. | .getCapabilities ..
  | .negotiateAlgorithms .. | .getDigests .. | .getCertificate .. | .challenge .. | .getMeasurements ..
  | .linkDown .. | .agentFailed .. | .agentRejoin .. | .powerOn | .moduleReset | .selfHeatEnd | .trainingComplete
  | .levelChange .. | .droopEvent .. | .junctionThrottle .. | .stackRefreshDouble .. | .trip ..
  | .retrainingWindow .. | .hostSnoopResponse .. | .hostCacheData .. | .linkTrainingComplete .. | .flitReplay ..
  | .retrainingWindowEnd .. | .junctionFallsBelow95 .. | .functionLevelReset | .hdmDecoderProgram .. => true
  | _ => false

/-- What the tape says comes next; at its end, anything (log entry 5). -/
def nextAct (s : State) : Act × State :=
  match s.tape with
  | a :: t => (a, { s with tape := t, sent := [] })
  | [] => (Config.freeAct s.free, { s with free := s.free + 1, sent := [] })

end Sys2Proof.Machine
end

