-- ==== Sys2Proof/Machine/Tiles.lean ====
section
/-!
DEFINITION. Tiles.lean: where tiles and fragments lie: ACC tiles and V register runs (spec/14_matrix_and_copy.md R188 to
R190), canonical rows of the scratchpad (R212), and the words that MLDF and MACCLD read of them (R199, R201).
-/
namespace Sys2Proof.Machine

open Sys2Proof

/-- Rows M and columns N at a width. -/
def mRows (w : Nat) : Nat := if w = 16 then 8 else if w = 32 then 16 else 32
def nCols (w : Nat) : Nat := if w = 16 then 8 else 16
/-- Registers of a B run. -/
def bRun (w : Nat) : Nat := if w = 64 then 8 else 16

/-- The ACC word of entry 0 of a tile (R16). -/
def tileKey (t : Team) (w tile : Nat) : Nat := t.core * 65536 + t.accbase * 256 + tile * (if w = 16 then 64 else 256)

/-- Key in `picks` of entry e of a tile: 64 entries a key (R34, R198). -/
def pkZ (tile e : Nat) : Nat := 512 + 8 * tile + e / 64

/-- Outstanding writes to a tile, oldest first: the entries that are still to be read, and the entries. -/
def zOut (out : List Pending) (tile : Nat) : List (List Mask × List W32) :=
  out.flatMap fun p => p.writes.filterMap fun w =>
    match w with
    | .z r es => if r = tile then some (p.rest, es) else none
    | _ => none

/-- Of those, the values of entry e that are known. -/
def zKnown (o : List (List Mask × List W32)) (e : Nat) : List W32 :=
  o.filterMap fun x => if (nthD 0 x.1 (e / 64)).getLsbD (e % 64) then none else some (nthD 0 x.2 e)

/-- The entries of a tile as an instruction reads them: old or new where a write is outstanding. -/
def zRead (s : State) (g : Group) (t : Team) (tile : Nat) : List W32 :=
  let o := zOut g.ln.out tile
  tabulate (mRows g.width * nCols g.width) fun e =>
    let k := tileKey t g.width tile + e
    pickVal s.picks (pkZ tile e) (e % 64) 0 (seeWord s 0 stAcc k (Store.getD 0 s.acc k)) (zKnown o e)

/-- Scratchpad byte of byte b of a canonical row whose first byte has this key (R212). -/
def canonKey (row b : Nat) : Nat := row + 16 * ((b / 16) ^^^ (row / 128 % 8)) + b % 16

/-- A byte of scratchpad storage as a reader sees it; me: the source number of its own writes. -/
def seeByte (s : State) (me k : Nat) : Byte :=
  if s.olds.isEmpty then Store.getD 0 s.spad k
  else bits (seeWord s me stSpad (k / 4) (spadWord s (k / 4))) (8 * (k % 4)) 8

/-- Bytes [b, b + n) of the canonical row at a team-relative address. -/
def canonBytes (s : State) (me : Nat) (d : KDesc) (t : Team) (x b n : Nat) : List Byte :=
  tabulate n fun i => seeByte s me (canonKey (spadKey d t x) (b + i))

/-- The row and the first byte of the word of lane l in register j of a fragment (R189). -/
def fragPlace (w rows : Nat) (isB : Bool) (j l : Nat) : Nat × Nat :=
  if isB && w == 64 then (l % 16, 32 * (l / 16) + 4 * j) else (l % rows, 64 * (l / rows) + 4 * j)

/-- The scratchpad bytes from which a matrix word's result takes word i of register, or of 64 entries, j. -/
def matBytes (s : State) (me : Nat) (d : KDesc) (t : Team) (w : Nat) (kind : PKind) (j l : Nat) : List Byte :=
  match kind with
  | .frag isB rows x =>
    let p := fragPlace w rows isB j l
    canonBytes s me d t (x + 128 * p.1) p.2 4
  | .tile x => spadBytes s me d t (x + 4 * (64 * j + l)) 4
  | _ => []

/-- The storage words that those are. -/
def matWords (d : KDesc) (t : Team) (w : Nat) (kind : PKind) (j l : Nat) : List Nat :=
  match kind with
  | .frag isB rows x =>
    let p := fragPlace w rows isB j l
    ((List.range 4).map fun i => canonKey (spadKey d t (x + 128 * p.1)) (p.2 + i) / 4).eraseDups
  | .tile x => spadWords d t (x + 4 * (64 * j + l)) 4
  | _ => []

end Sys2Proof.Machine
end

