-- ==== Sys2Proof/Machine/Engine.lean ====
section
/-!
DEFINITION. Engine.lean: how engines, walkers and the system's own agents read and write memory
(spec/16_memory_system.md R233, R234, R358; spec/18_consistency.md R247, R256), and how an engine's fault or violation
stops its team or the engine (spec/26_faults_and_preemption.md R325; spec/28_host_and_swarm.md R345).
-/
namespace Sys2Proof.Machine

open Sys2Proof

/-! ## Reads -/

/-- The parts of [va, va + n) between boundaries of u bytes: start and length; fuel: the number of parts. -/
def splitAt (u : Nat) : Nat → Nat → Nat → List (Nat × Nat)
  | 0, _, _ => []
  | f + 1, va, n =>
    if n = 0 then []
    else
      let k := min n (u - va % u)
      (va, k) :: splitAt u f (va + k) (n - k)
def splitRange (u va n : Nat) : List (Nat × Nat) := splitAt u (n / u + 2) va n

/-- A read by an engine: the bytes and the first mismatching sector's address; a translation fault; a line that cannot be
read yet; an access outside permitted regions. -/
inductive ERead
  | ok (bs : List Byte) (bad : Option Nat)
  | fault (kind va : Nat)
  | blocked (line : Nat)
  | outside (pa : Nat)
  deriving DecidableEq, Repr

/-- One more part read. -/
def ERead.append : ERead → ERead → ERead
  | .ok a x, .ok b y => .ok (a ++ b) (match x with | some p => some p | none => y)
  | .ok _ _, r => r
  | r, _ => r

/-- Read part of a sector at a physical address, coherently at its home. -/
def paRead (s : State) (pa n : Nat) : ERead :=
  if (paKind s pa).line then
    let s := resolve s (pa / 128)
    match homeRead s pa n with
    | some (bs, bad) => .ok bs (if bad then some pa else none)
    | none => .blocked (pa / 128)
  else .outside pa

/-- Read bytes at physical addresses. -/
def paReads (s : State) (pa n : Nat) : ERead :=
  (splitRange 32 pa n).foldl (fun r p => match r with | .ok .. => r.append (paRead s p.1 p.2) | _ => r) (.ok [] none)

/-- Read bytes at virtual addresses, in ascending order. -/
def engLoad (s : State) (die asp va n : Nat) : ERead :=
  (splitRange 32 va n).foldl (fun r p =>
    match r with
    | .ok .. =>
      r.append (match translate s die asp p.1 .read with
        | .ok pa _ => paRead s pa p.2
        | .fault kind => .fault kind p.1
        | .blocked line => .blocked line)
    | _ => r) (.ok [] none)

/-- The same where addresses wrap at 2^57 (R206). -/
def engRead (s : State) (die asp va n : Nat) : ERead :=
  let k := min n (2 ^ 57 - va)
  if k = n then engLoad s die asp va n
  else
    match engLoad s die asp va k with
    | .ok a x => (ERead.ok a x).append (engLoad s die asp 0 (n - k))
    | r => r

/-- The pages of [va, va + n). -/
def pagesOf (va n : Nat) : List Nat := (splitRange 65536 va n).map fun p => p.1 % 2 ^ 57

/-- What reading the lines of a range of virtual addresses meets at their homes (R229, R238). -/
def resolveRange (s : State) (die asp va n : Nat) : State :=
  (splitRange 128 va n).foldl (fun s p =>
    match translate s die asp (p.1 % 2 ^ 57) .read with
    | .ok pa _ => if (paKind s pa).line then resolve s (pa / 128) else s
    | _ => s) s

/-- Keep the translations of a range (R241), and meet what reading it meets. -/
def keepRange (s : State) (die asp va n : Nat) : State :=
  resolveRange (keepTrs s die asp (pagesOf va n)) die asp va n

/-! ## Writes -/

/-- The lines that a write of a line reaches: every replica of a replicated page (R233). -/
def replicaLines (line : Nat) (repl : BitVec 8) : List Nat :=
  if repl == 0 then [line]
  else ((List.range 8).filter fun d => repl.getLsbD d).map fun d => line % 0x40000000 + d * 0x40000000

/-- A line may be written now, whatever waits there: by what the home serves next. -/
def lineFree (s : State) (line : Nat) : Bool := homeWritable s line && leaseOver s line

/-- A line may be written now under an id of the arrival order: nothing that arrived before waits there (R222). -/
def lineReady (s : State) (w line : Nat) : Bool := lineFree s line && mayServe s line w

/-- The present bytes of a line at its home: of HBM, or of the slice's copy. -/
def heldBytes (s : State) (pa n : Nat) : List Byte :=
  match paKind s pa, lineState s (pa / 128), Store.find s.slices (pa / 128) with
  | .hbm _, .hostBias, some d => srcBytes s (.slice d.data) pa n
  | .hbm _, _, _ => memBytes s pa n
  | _, _, some d => srcBytes s (.slice d.data) pa n
  | _, _, none => memBytes s pa n

/-- Bytes of one sector, at several places in it, written as one write: the sector is merged once (R216, R237). -/
def writePieces (s : State) (ps : List (Nat × List Byte)) : State :=
  match ps.filter fun p => !p.2.isEmpty with
  | [] => s
  | p :: rest =>
    let lo := rest.foldl (fun m q => min m q.1) p.1
    let hi := rest.foldl (fun m q => max m (q.1 + q.2.length)) (p.1 + p.2.length)
    let covered := fun a => (p :: rest).any fun q => decide (q.1 ≤ a) && decide (a < q.1 + q.2.length)
    let whole := (List.range (hi - lo)).all fun i => covered (lo + i)
    hideRels (homeWriteAs s whole lo ((p :: rest).foldl (fun bs q => layOver lo bs q.1 q.2) (heldBytes s lo (hi - lo))))
      lo (hi - lo)

/-- Lock replicas for a writer, in the order given: each home takes the lock in its own order of arrival, once the line may be
written and its latest expiry has come, and the line is LOCKED (R234).  False while a lock waits. -/
def lockLines (w : Nat) : State → List Nat → State × Bool
  | s, [] => (s, true)
  | s, l :: ls =>
    if s.locks.contains (l, w) then lockLines w s ls
    else
      let s := arriveAt (resolve s l) l w
      if lineReady s w l then lockLines w { setEly s l (mkEly 0 0 7) with locks := s.locks ++ [(l, w)] } ls
      else (askWrite s l, false)

/-- A writer's locks end, and its places in the arrival order: each line is UNCACHED, and its home serves what waits there. -/
def unlock (s : State) (w : Nat) (ls : List Nat) : State :=
  let mine := ls.filter fun l => s.locks.contains (l, w)
  { mine.foldl (fun s l => setEly s l 0) s with
    locks := s.locks.filter fun x => !(x.2 == w && ls.contains x.1),
    waits := s.waits.filter fun x => !(x.2 == w && ls.contains x.1) }

/-- A writer gives up: what it has locked is unlocked. -/
def dropWriter (s : State) (w : Writer) : State :=
  let s := unlock s w.id ((s.locks.filter fun x => x.2 == w.id).map (·.1))
  { s with waits := s.waits.filter fun x => x.2 != w.id }

/-- A line may be written now by an engine, in the home's order of arrival; a line of a replicated page once all its replicas are
locked, the primary's home first serving the commit (R222, R234).  Otherwise the write waits there, and what it asks for is in
the state given back. -/
def engReady (s : State) (w : Writer) (pa : Nat) (repl : BitVec 8) : State × Bool :=
  let line := pa / 128
  if repl == 0 then
    let s := resolve s line
    if lineReady s w.id line then (s, true) else (arriveAt (askWrite s line) line w.id, false)
  else
    let s := arriveAt s line w.id
    if !mayServe s line w.id then (s, false)
    else
      let r := lockLines w.id s (replicaLines line repl)
      (r.1, r.2 && !(replicaLines line repl).any (inWindow r.1))

/-- A writer waits at one line at a time: what it has at other lines is given up. -/
def keepAt (s : State) (w : Writer) (ls : List Nat) : State :=
  unlock s w.id (((s.locks ++ s.waits).filter fun x => x.2 == w.id && !ls.contains x.1).map (·.1)).eraseDups

/-- The lines of several writes, which an engine performs together, may all be written now; the first that must wait is asked
for. -/
def engAll (w : Writer) : State → List Place → State × Bool
  | s, [] => (s, true)
  | s, p :: ps =>
    match engReady s w p.pa p.repl with
    | (s, true) => engAll w s ps
    | (s, false) => (keepAt s w ((p.pa / 128) :: replicaLines (p.pa / 128) p.repl), false)

/-- Bytes within one line, which may be written now, into every replica of a replicated page (R234). -/
def engPut (s : State) (p : Place) (bs : List Byte) : State :=
  hideRels ((replicaLines (p.pa / 128) p.repl).foldl (fun s l => homeWrite s (128 * l + p.pa % 128) bs) s) p.pa bs.length

/-- Write bytes for an engine at their points of coherence, each part within one line; false while a line must wait. -/
def engWrites (s : State) (w : Writer) (ps : List (Place × List Byte)) : State × Bool :=
  match engAll w s (ps.map (·.1)) with
  | (s, true) => (ps.foldl (fun s p => engPut s p.1 p.2) (dropWriter s w), true)
  | r => r

/-- The same for one part. -/
def engWrite (s : State) (w : Writer) (pa : Nat) (bs : List Byte) (repl : BitVec 8) : State × Bool :=
  engWrites s w [(⟨pa, repl⟩, bs)]

/-- A translation for writing, made in advance (R358). -/
inductive EPlace
  | ok (pa : Nat) (repl : BitVec 8)
  | fault (kind va : Nat)
  | blocked (line : Nat)
  | outside (pa : Nat)
  deriving DecidableEq, Repr

def engPlace (s : State) (die asp va : Nat) : EPlace :=
  match translate s die asp va .write with
  | .ok pa e => if (paKind s pa).line then .ok pa (replMask e) else .outside pa
  | .fault kind => .fault kind va
  | .blocked line => .blocked line

/-! ## Faults and freezes of engines -/

/-- Halt every resident group of a team. -/
def haltLT (s : State) (lid tid : Nat) : State :=
  { s with groups := s.groups.map fun e =>
      if e.2.lid == lid && e.2.tid == some tid then
        (e.1, { e.2 with halted := true, sc := e.2.sc.stopWait, ln := e.2.ln.stopWait })
      else e }

/-- A translation fault of an engine's command: its team is swapped out (R325, R344). master: 0xFE TCE, 0xFF ATE. -/
def faultCmd (s : State) (lid tid core master kind va : Nat) : State :=
  let s := s.updTeam (teamKey lid tid) fun t =>
    if t.why == 1 || t.why == 3 then t
    else { t with state := .halting, why := whyFault t.why, fkind := kind, fmaster := master, fva := va, serviced := false }
  let s := postFault s
    { die := dieOf core, kind := 1, lid := lid, who := tid, detail := BitVec.ofNat 32 kind, addr := va, info := 0 }
  haltLT s lid tid

/-- Freeze an engine of a core (R345): kind 2 TCE, 3 ATE, 4 TVE; of the first two, the launch and the team of the command in
place, by which the freeze is kept. -/
def freezeEngine (s : State) (kind core lid team viol addr : Nat) : State :=
  { s with frozen := s.frozen ++ [⟨kind, core % 48, dieOf core, lid, team, addr, viol, 0⟩] }

/-! ## Layout of a chrysalis slot (R330 to R334); where its parts lie is the model's choice (log entry 30) -/

/-- 8 MiB. -/
def slotSize : Nat := 0x800000
def gOff (g : Nat) : Nat := 0x1000 + 0x28000 * g
def chainOff (g : Nat) : Nat := gOff g + 0x13000
def spOff : Nat := 0x510000
def accOff : Nat := 0x5D0000
def cmdOff : Nat := 0x610000

/-- The places of these offsets in a saved team's slot. -/
def slotPlaces (t : Team) (offs : List Nat) : List Place :=
  match t.slot with
  | none => []
  | some pa => offs.map fun o => ⟨pa + o, 0⟩

/-- The counters of the groups of a team, resident or saved, change: in a saved group's record as well (R107, R331). -/
def mapTeamGroups (s : State) (k : Nat) (f : Group → Group) : State :=
  let gs := s.groups.map fun (e : Nat × Group) => if e.2.tkey == some k then (e.1, f e.2) else e
  let s := { s with groups := gs }
  match s.team k with
  | none => s
  | some t =>
    let s := s.updTeam k fun t => { t with groups := t.groups.map f }
    match t.slot with
    | none => s
    | some pa =>
      t.groups.foldl (fun s g =>
        let g' := f g
        if g'.ccopy == g.ccopy && g'.cattn == g.cattn && g'.ctrav == g.ctrav then s
        else homeWrite s (pa + gOff (if t.tid.isSome then g.gidx else 0) + 0x558)
          (bytesOf g'.ccopy ++ bytesOf g'.ctrav ++ bytesOf g'.cattn)) s

/-- Field of len bits at bit lo of byte off of a record. -/
def fld {w : Nat} (b : BitVec w) (off lo len : Nat) : Nat := (bits b (8 * off + lo) len).toNat

end Sys2Proof.Machine
end

