-- ==== Sys2Proof/Machine/Float.lean ====
section
/-!
DEFINITION. Float.lean: number formats, exact values, rounding and the arithmetic of one element
(spec/12_arithmetic.md R165 to R187).  Every result is an exact value rounded once.
-/
namespace Sys2Proof.Machine

open Sys2Proof

/-! ## Formats (R165, R167) -/

/-- A floating format: exponent bits, fraction bits, exponent bias, whether the top exponent holds infinity and NaNs
(E4M3 has one NaN pattern and no infinity). -/
structure Fmt where
  eb   : Nat
  mb   : Nat
  bias : Nat
  ieee : Bool
  deriving DecidableEq, Repr

def fmtF32 : Fmt := ⟨8, 23, 127, true⟩
def fmtF16 : Fmt := ⟨5, 10, 15, true⟩
def fmtBF16 : Fmt := ⟨8, 7, 127, true⟩
def fmtE5M2 : Fmt := ⟨5, 2, 15, true⟩
def fmtE4M3 : Fmt := ⟨4, 3, 7, false⟩

/-- The format of a type's elements. -/
def fmtOf : Ty → Fmt
  | .f16 => fmtF16
  | .h2 => fmtF16
  | .bf16 => fmtBF16
  | .b2 => fmtBF16
  | .e4m3 => fmtE4M3
  | .e5m2 => fmtE5M2
  | _ => fmtF32

/-- Width of an element. -/
def Fmt.w (f : Fmt) : Nat := 1 + f.eb + f.mb
/-- Magnitude pattern of infinity in an IEEE-like format. -/
def Fmt.infMag (f : Fmt) : Nat := (2 ^ f.eb - 1) * 2 ^ f.mb
/-- Magnitude pattern of the largest finite value. -/
def Fmt.maxMag (f : Fmt) : Nat := if f.ieee then f.infMag - 1 else 2 ^ (f.eb + f.mb) - 2
/-- The canonical NaN. -/
def Fmt.nan (f : Fmt) : Nat := if f.ieee then f.infMag + 2 ^ (f.mb - 1) else 2 ^ (f.eb + f.mb) - 1
/-- Exponent of the last place of a subnormal. -/
def Fmt.qmin (f : Fmt) : Int := 1 - (f.bias : Int) - f.mb
/-- Sign and magnitude made into a pattern. -/
def Fmt.pack (f : Fmt) (neg : Bool) (mag : Nat) : Nat := (if neg then 2 ^ (f.eb + f.mb) else 0) + mag

/-- An operand value: finite nonzero ones are (−1)^neg × m × 2^e. -/
inductive Fv
  | nan (signalling : Bool)
  | inf (neg : Bool)
  | zero (neg : Bool)
  | fin (neg : Bool) (m : Nat) (e : Int)
  deriving DecidableEq, Repr

/-- The value of a pattern (R165); daz: subnormals read as zero (R170). -/
def Fmt.read (f : Fmt) (daz : Bool) (x : Nat) : Fv :=
  let x := x % 2 ^ f.w
  let neg := decide (2 ^ (f.eb + f.mb) ≤ x)
  let mag := x % 2 ^ (f.eb + f.mb)
  let e := mag / 2 ^ f.mb
  let fr := mag % 2 ^ f.mb
  if f.maxMag < mag then
    if f.ieee && mag == f.infMag then .inf neg
    else .nan (f.ieee && fr / 2 ^ (f.mb - 1) % 2 == 0)
  else if mag = 0 then .zero neg
  else if e = 0 then (if daz then .zero neg else .fin neg fr f.qmin)
  else .fin neg (2 ^ f.mb + fr) (f.qmin + e - 1)

def Fv.isNan : Fv → Bool
  | .nan _ => true
  | _ => false
def Fv.isSig : Fv → Bool
  | .nan b => b
  | _ => false
def Fv.neg : Fv → Bool
  | .nan _ => false
  | .inf b => b
  | .zero b => b
  | .fin b _ _ => b

/-! ## Rounding (R169) -/

/-- Round up in magnitude?  n: the kept integer; rem of 2^sh is cut off, and more below it when sticky. -/
def roundUp (rm : Rm) (neg : Bool) (n rem sh : Nat) (sticky : Bool) : Bool :=
  let inexact := rem != 0 || sticky
  let half := 2 ^ (sh - 1)
  match rm with
  | .rz => false
  | .ru => !neg && inexact
  | .rd => neg && inexact
  | .rna => decide (half ≤ rem)
  | _ => decide (half < rem) || (rem == half && (sticky || n % 2 == 1))

/-- A value rounded: magnitude pattern with the exponent unbounded above, and whether it is inexact. -/
structure Rounded where
  mag     : Nat
  inexact : Bool
  deriving DecidableEq, Repr

/-- Number of bits of n. -/
def bitLen (n : Nat) : Nat := if n = 0 then 0 else n.log2 + 1

/-- m × 2^e, more by less than 2^e when sticky, rounded to the precision and subnormals of a format, exponent unbounded
above. -/
def Fmt.round (f : Fmt) (rm : Rm) (neg : Bool) (m : Nat) (e : Int) (sticky : Bool) : Rounded :=
  let top : Int := e + bitLen m - 1
  let q : Int := max (top - f.mb) f.qmin
  let base := (q - f.qmin).toNat * 2 ^ f.mb
  if q ≤ e then ⟨base + m * 2 ^ (e - q).toNat, sticky⟩
  else
    let sh := (q - e).toNat
    let n := m / 2 ^ sh
    let rem := m % 2 ^ sh
    ⟨base + n + (if roundUp rm neg n rem sh sticky then 1 else 0), rem != 0 || sticky⟩

/-- What an instruction's MODE and selections ask of its results. -/
structure Fenv where
  rm    : Rm
  daz   : Bool
  ftzo  : Bool
  f8sat : Bool
  deriving DecidableEq, Repr

/-- MODE.rnd and rm give the rounding: codes 0 and 1 of MODE select RNE (R63, R89). -/
def rmOf (mode : W32) (rm : Rm) : Rm :=
  match rm with
  | .mode =>
    match (bits mode 0 3).toNat with
    | 2 => .rz
    | 3 => .ru
    | 4 => .rd
    | 5 => .rna
    | _ => .rne
  | r => r

def fenv (mode : W32) (rm : Rm) : Fenv := ⟨rmOf mode rm, bit mode 3, bit mode 4, bit mode 5⟩

/-- A pattern and the flags raised. -/
abbrev Fres := Nat × BitVec 6

/-- The overflow table of R169. -/
def Fmt.overflow (f : Fmt) (rm : Rm) (neg : Bool) : Nat :=
  let big :=
    match rm with
    | .rz => f.maxMag
    | .ru => if neg then f.maxMag else f.infMag
    | .rd => if neg then f.infMag else f.maxMag
    | _ => f.infMag
  f.pack neg big

/-- Round an exact nonzero value and deliver it, with overflow, tiny results and ftzo (R169, R170); ov: the pattern that
an overflow delivers. -/
def Fmt.deliver (f : Fmt) (ftzo : Bool) (rm : Rm) (neg : Bool) (m : Nat) (e : Int) (sticky : Bool) (ov : Nat) : Fres :=
  let r := f.round rm neg m e sticky
  if f.maxMag < r.mag then (ov, fxOf ||| fxNx)
  else if r.mag < 2 ^ f.mb then
    if ftzo then (f.pack neg 0, fxUf ||| fxNx)
    else (f.pack neg r.mag, if r.inexact then fxUf ||| fxNx else 0)
  else (f.pack neg r.mag, if r.inexact then fxNx else 0)

/-- The same with R169's overflow table. -/
def Fmt.fin (f : Fmt) (v : Fenv) (neg : Bool) (m : Nat) (e : Int) (sticky : Bool) : Fres :=
  f.deliver v.ftzo v.rm neg m e sticky (f.overflow v.rm neg)

/-- The canonical NaN, with nv when asked. -/
def Fmt.nanRes (f : Fmt) (nv : Bool) : Fres := (f.nan, if nv then fxNv else 0)
def Fmt.infRes (f : Fmt) (neg : Bool) (fl : BitVec 6) : Fres := (f.pack neg f.infMag, fl)
def Fmt.zeroRes (f : Fmt) (neg : Bool) : Fres := (f.pack neg 0, 0)

/-! ## Sums and products (R171, R175) -/

/-- Signed integer of a finite operand at exponent q. -/
def scaled (neg : Bool) (m : Nat) (e q : Int) : Int :=
  let x : Int := m * 2 ^ (e - q).toNat
  if neg then -x else x

/-- The sum of two finite or zero values, as exact values with signs; zero signs by R171. -/
def Fmt.sum (f : Fmt) (v : Fenv) (x y : Fv) : Fres :=
  match x, y with
  | .zero a, .zero b => f.zeroRes (if a == b then a else v.rm == .rd)
  | .zero _, .fin n m e => f.fin v n m e false
  | .fin n m e, .zero _ => f.fin v n m e false
  | .fin n m e, .fin n' m' e' =>
    let q := min e e'
    let t := scaled n m e q + scaled n' m' e' q
    if t = 0 then f.zeroRes (v.rm == .rd) else f.fin v (decide (t < 0)) t.natAbs q false
  | _, _ => f.nanRes false

/-- x + y for any values. -/
def Fmt.addV (f : Fmt) (v : Fenv) (x y : Fv) : Fres :=
  if x.isNan || y.isNan then f.nanRes (x.isSig || y.isSig)
  else
    match x, y with
    | .inf a, .inf b => if a == b then f.infRes a 0 else f.nanRes true
    | .inf a, _ => f.infRes a 0
    | _, .inf b => f.infRes b 0
    | x, y => f.sum v x y

/-- The value with its sign inverted (FSUB, after the NaN test). -/
def Fv.flip : Fv → Fv
  | .inf b => .inf !b
  | .zero b => .zero !b
  | .fin b m e => .fin (!b) m e
  | x => x

/-- An exact product of values that are not NaN; none: zero times infinity. -/
def Fv.mul (x y : Fv) : Option Fv :=
  let s := x.neg != y.neg
  match x, y with
  | .zero _, .inf _ => none
  | .inf _, .zero _ => none
  | .inf _, _ => some (.inf s)
  | _, .inf _ => some (.inf s)
  | .fin _ m e, .fin _ m' e' => some (.fin s (m * m') (e + e'))
  | _, _ => some (.zero s)

/-- Deliver a value that is already exact. -/
def Fmt.give (f : Fmt) (v : Fenv) : Fv → Fres
  | .nan b => f.nanRes b
  | .inf b => f.infRes b 0
  | .zero b => f.zeroRes b
  | .fin n m e => f.fin v n m e false

def Fmt.mulV (f : Fmt) (v : Fenv) (x y : Fv) : Fres :=
  if x.isNan || y.isNan then f.nanRes (x.isSig || y.isSig)
  else
    match x.mul y with
    | none => f.nanRes true
    | some p => f.give v p

/-- a × b + c; zero times infinity gives nv even when c is a quiet NaN (R175). -/
def Fmt.fmaV (f : Fmt) (v : Fenv) (x y z : Fv) : Fres :=
  if x.isNan || y.isNan then f.nanRes (x.isSig || y.isSig || z.isSig)
  else
    match x.mul y with
    | none => f.nanRes true
    | some p => if z.isNan then f.nanRes z.isSig else f.addV v p z

/-! ## Minimum, maximum and compare (R176, R177) -/

/-- A key that orders the values that are not NaN, −0 below +0 when split. -/
def Fv.less (split : Bool) (x y : Fv) : Bool :=
  match x, y with
  | .inf a, .inf b => a && !b
  | .inf a, _ => a
  | _, .inf b => !b
  | .zero a, .zero b => split && a && !b
  | .zero _, .fin b _ _ => !b
  | .fin a _ _, .zero _ => a
  | .fin n m e, .fin n' m' e' =>
    let q := min e e'
    decide (scaled n m e q < scaled n' m' e' q)
  | _, _ => false

/-- The pattern of an operand as read. -/
def Fmt.patOf (f : Fmt) (daz : Bool) (x : Nat) : Nat :=
  match f.read daz x with
  | .zero n => f.pack n 0
  | _ => x % 2 ^ f.w

def Fmt.minmax (f : Fmt) (v : Fenv) (mx : Bool) (a b : Nat) : Fres :=
  let x := f.read v.daz a
  let y := f.read v.daz b
  let fl : BitVec 6 := if x.isSig || y.isSig then fxNv else 0
  if x.isNan && y.isNan then (f.nan, fl)
  else if x.isNan then (f.patOf v.daz b, fl)
  else if y.isNan then (f.patOf v.daz a, fl)
  else if (Fv.less true y x) != mx then (f.patOf v.daz b, fl)
  else (f.patOf v.daz a, fl)

/-- FCMP: the relation, and the flags. -/
def Fmt.cmp (f : Fmt) (v : Fenv) (c : Cond) (a b : Nat) : Bool × BitVec 6 :=
  let x := f.read v.daz a
  let y := f.read v.daz b
  if x.isNan || y.isNan then
    let sig : BitVec 6 := if x.isSig || y.isSig then fxNv else 0
    match c with
    | .eq => (false, sig)
    | .ne => (true, sig)
    | .un => (true, sig)
    | .ord => (false, sig)
    | _ => (false, fxNv)
  else
    let lt := Fv.less false x y
    let gt := Fv.less false y x
    (match c with
     | .eq => !lt && !gt
     | .ne => lt || gt
     | .lt => lt
     | .le => !gt
     | .gt => gt
     | .ge => !lt
     | .un => false
     | .ord => true, 0)

/-! ## Division and roots (R178) -/

/-- Floor of the square root, by bits from i down. -/
def isqrtBits : Nat → Nat → Nat → Nat
  | 0, r, _ => r
  | i + 1, r, n => isqrtBits i (if (r + 2 ^ i) * (r + 2 ^ i) ≤ n then r + 2 ^ i else r) n
def isqrt (n : Nat) : Nat := isqrtBits (bitLen n / 2 + 1) 0 n

def Fmt.divV (f : Fmt) (v : Fenv) (x y : Fv) : Fres :=
  let s := x.neg != y.neg
  if x.isNan || y.isNan then f.nanRes (x.isSig || y.isSig)
  else
    match x, y with
    | .inf _, .inf _ => f.nanRes true
    | .zero _, .zero _ => f.nanRes true
    | .inf _, _ => f.infRes s 0
    | _, .inf _ => f.zeroRes s
    | .zero _, _ => f.zeroRes s
    | _, .zero _ => f.infRes s fxDz
    | .fin _ m e, .fin _ m' e' => f.fin v s (m * 2 ^ 64 / m') (e - e' - 64) (m * 2 ^ 64 % m' != 0)
    | _, _ => f.nanRes false

def Fmt.rcpV (f : Fmt) (v : Fenv) (x : Fv) : Fres := f.divV v (.fin false 1 0) x

def Fmt.sqrtV (f : Fmt) (v : Fenv) (x : Fv) : Fres :=
  match x with
  | .nan b => f.nanRes b
  | .zero b => f.zeroRes b
  | .inf b => if b then f.nanRes true else f.infRes false 0
  | .fin n m e =>
    if n then f.nanRes true
    else
      let m' := if e % 2 = 0 then m * 2 ^ 80 else m * 2 ^ 81
      let e' := if e % 2 = 0 then (e - 80) / 2 else (e - 81) / 2
      let r := isqrt m'
      f.fin v false r e' (r * r != m')

def Fmt.rsqV (f : Fmt) (v : Fenv) (x : Fv) : Fres :=
  match x with
  | .nan b => f.nanRes b
  | .zero b => f.infRes b fxDz
  | .inf b => if b then f.nanRes true else f.zeroRes false
  | .fin n m e =>
    if n then f.nanRes true
    else
      let k : Nat := if e % 2 = 0 then 160 else 161
      let r := isqrt (2 ^ k / m)
      f.fin v false r (-((k : Int) + e) / 2) (r * r * m != 2 ^ k)

/-! ## Exponential and logarithm (R179) -/

/-- Fraction bits of the fixed-point values below. -/
def expBits : Nat := 260

/-- ln 2 in units of 2^−expBits: the series 1 / (k × 2^k). -/
def ln2Fix : Nat := (List.range 300).foldl (fun t i => t + 2 ^ (expBits + 20) / ((i + 1) * 2 ^ (i + 1))) 0 / 2 ^ 20

/-- 2^(x / 2^expBits) in units of 2^−expBits, for 0 ≤ x < 2^expBits. -/
def exp2Fix (x : Nat) : Nat :=
  let t := x * ln2Fix / 2 ^ expBits
  ((List.range 80).foldl (fun (p : Nat × Nat) k => (p.1 + p.2, p.2 * t / 2 ^ expBits / (k + 1))) (0, 2 ^ expBits)).1

def Fmt.exp2V (f : Fmt) (v : Fenv) (x : Fv) : Fres :=
  match x with
  | .nan b => f.nanRes b
  | .zero _ => f.fin v false 1 0 false
  | .inf b => if b then f.zeroRes false else f.infRes false 0
  | .fin n m e =>
    if 0 ≤ e then
      let k : Int := scaled n m e 0
      if k < -5000 then f.fin v false 1 (-5000) true
      else if 5000 < k then f.fin v false 1 5000 false
      else f.fin v false 1 k false
    else
      let sh := (-e).toNat
      let q : Int := if n then -(m : Int) else m
      let k : Int := q / 2 ^ sh
      let r := (q % 2 ^ sh).toNat
      if r = 0 then f.fin v false 1 (max (-5000) (min k 5000)) false
      else if k < -5000 then f.fin v false 1 (-5000) true
      else if 5000 < k then f.fin v false 1 5000 true
      else f.fin v false (exp2Fix (r * 2 ^ expBits / 2 ^ sh)) (k - expBits) true

/-- Bits of log2 of y / 2^w, 1 ≤ y / 2^w < 2, most significant first. -/
def logBits (w : Nat) : Nat → Nat → Nat → Nat
  | 0, _, acc => acc
  | n + 1, y, acc =>
    let z := y * y / 2 ^ w
    if 2 ^ (w + 1) ≤ z then logBits w n (z / 2) (2 * acc + 1) else logBits w n z (2 * acc)

/-- log2 (R179); of 1 it is +0 in every rounding mode (log entry 97: DESIGN CHOICE). -/
def Fmt.log2V (f : Fmt) (v : Fenv) (x : Fv) : Fres :=
  match x with
  | .nan b => f.nanRes b
  | .zero _ => f.infRes true fxDz
  | .inf b => if b then f.nanRes true else f.infRes false 0
  | .fin n m e =>
    if n then f.nanRes true
    else
      let k : Int := e + m.log2
      if m = 2 ^ m.log2 then
        (if k = 0 then f.zeroRes false else f.fin v (decide (k < 0)) k.natAbs 0 false)
      else
        let t : Int := k * 2 ^ 140 + logBits 320 140 (m * 2 ^ 320 / 2 ^ m.log2) 0
        if 0 ≤ t then f.fin v false t.natAbs (-140) true else f.fin v true (t.natAbs - 1) (-140) true

/-! ## Integral values and classes (R180, R181) -/

/-- A finite value rounded to an integer magnitude, and whether it changed. -/
def roundInt (rm : Rm) (neg : Bool) (m : Nat) (e : Int) : Nat × Bool :=
  if 0 ≤ e then (m * 2 ^ e.toNat, false)
  else
    let sh := (-e).toNat
    let n := m / 2 ^ sh
    let rem := m % 2 ^ sh
    (n + (if roundUp rm neg n rem sh false then 1 else 0), rem != 0)

def Fmt.rndV (f : Fmt) (v : Fenv) (x : Fv) : Fres :=
  match x with
  | .nan b => f.nanRes b
  | .inf b => f.infRes b 0
  | .zero b => f.zeroRes b
  | .fin n m e =>
    let r := roundInt v.rm n m e
    let fl : BitVec 6 := if r.2 then fxNx else 0
    if r.1 = 0 then (f.pack n 0, fl) else (f.pack n (f.round .rne n r.1 0 false).mag, fl)

/-- FCLASS, without daz. -/
def Fmt.classOf (f : Fmt) (x : Nat) : Nat :=
  let mag := x % 2 ^ (f.eb + f.mb)
  match f.read false x with
  | .nan b => if b then 2 ^ 8 else 2 ^ 9
  | .inf n => if n then 2 ^ 0 else 2 ^ 7
  | .zero n => if n then 2 ^ 3 else 2 ^ 4
  | .fin n _ _ =>
    if mag < 2 ^ f.mb then (if n then 2 ^ 2 else 2 ^ 5) else (if n then 2 ^ 1 else 2 ^ 6)

/-! ## Conversions (R182, R183) -/

/-- Overflow of a conversion to a format: the 8-bit formats saturate by sf, the others by sat (R182). -/
def cvtOver (ty : Ty) (v : Fenv) (sat neg : Bool) : Nat :=
  let f := fmtOf ty
  let sf := sat || v.f8sat
  match ty with
  | .e4m3 => if sf then f.pack neg f.maxMag else f.nan
  | .e5m2 => if sf then f.pack neg f.maxMag else f.pack neg f.infMag
  | _ => if sat then f.pack neg f.maxMag else f.overflow v.rm neg

/-- ftzo applies to F32, F16, BF16 and the packed types only (R170). -/
def cvtFtz (ty : Ty) (v : Fenv) : Bool :=
  match ty with
  | .e4m3 => false
  | .e5m2 => false
  | _ => v.ftzo

/-- A value converted to a floating type. -/
def cvtTo (ty : Ty) (v : Fenv) (sat : Bool) (x : Fv) : Fres :=
  let f := fmtOf ty
  match x with
  | .nan b => f.nanRes b
  | .zero n => f.zeroRes n
  | .inf n =>
    match ty with
    | .e4m3 => (if sat || v.f8sat then f.pack n f.maxMag else f.nan, fxNv)
    | .e5m2 => (if sat || v.f8sat then f.pack n f.maxMag else f.pack n f.infMag, 0)
    | _ => (if sat then f.pack n f.maxMag else f.pack n f.infMag, 0)
  | .fin n m e => f.deliver (cvtFtz ty v) v.rm n m e false (cvtOver ty v sat n)

/-- daz is not applied to E4M3 and E5M2 sources (R170). -/
def cvtRead (src : Ty) (v : Fenv) (x : Nat) : Fv :=
  match src with
  | .e4m3 => fmtE4M3.read false x
  | .e5m2 => fmtE5M2.read false x
  | t => (fmtOf t).read v.daz x

/-- An exact integer as a value; 0 is +0 in every rounding mode (log entry 98: DESIGN CHOICE). -/
def intFv (x : Int) : Fv := if x = 0 then .zero false else .fin (decide (x < 0)) x.natAbs 0

/-- A value converted to an integer of n bits: always saturating (R183). -/
def cvtInt (signed : Bool) (n : Nat) (rm : Rm) (x : Fv) : Int × BitVec 6 :=
  let lo : Int := if signed then -(2 ^ (n - 1)) else 0
  let hi : Int := if signed then 2 ^ (n - 1) - 1 else 2 ^ n - 1
  match x with
  | .nan _ => (0, fxNv)
  | .inf b => (if b then lo else hi, fxNv)
  | .zero _ => (0, 0)
  | .fin b m e =>
    let r := roundInt rm b m e
    let z : Int := if b then -(r.1 : Int) else r.1
    if z < lo then (lo, fxNv) else if hi < z then (hi, fxNv) else (z, if r.2 then fxNx else 0)

/-! ## L6 (R166, R185 to R187) -/

/-- LMUL of two cells. -/
def l6Mul (sat : Bool) (a b : Nat) : Fres :=
  let a := a % 256
  let b := b % 256
  if 64 ≤ a ∨ 64 ≤ b then (0x20, fxNv)
  else if a = 0x20 ∨ b = 0x20 then (0x20, 0)
  else if a = 0 ∨ b = 0 then (0, 0)
  else
    let sg := (a / 32 + b / 32) % 2
    let m : Int := (a % 32 : Nat) + (b % 32 : Nat) - 16
    if 31 < m then (if sat then sg * 32 + 31 else 0x20, fxOf ||| fxNx)
    else if m < 1 then (0, fxUf ||| fxNx)
    else (sg * 32 + m.toNat, 0)

/-- 2^(k/4) in units of 2^−60, cut off. -/
def root4 (k : Nat) : Nat := isqrt (isqrt (2 ^ (k + 240)))

/-- LCVT from L6. -/
def l6To (ty : Ty) (v : Fenv) (a : Nat) : Fres :=
  let f := fmtOf ty
  let a := a % 256
  if 64 ≤ a then f.nanRes true
  else if a = 0x20 then f.nanRes false
  else if a = 0 then f.zeroRes false
  else
    let t : Int := (a % 32 : Nat) - 16
    let k := (t % 4).toNat
    let q := t / 4
    if k = 0 then f.fin v (a / 32 == 1) 1 q false else f.fin v (a / 32 == 1) (root4 k) (q - 60) true

/-- LCVT to L6: rounding in the log domain. -/
def toL6 (v : Fenv) (sat : Bool) (x : Fv) : Fres :=
  let big := fun (n : Bool) => ((if sat then (if n then 63 else 31) else 0x20), fxOf ||| fxNx)
  match x with
  | .nan b => (0x20, if b then fxNv else 0)
  | .zero _ => (0, 0)
  | .inf n => if sat then big n else (0x20, fxNv)
  | .fin n m e =>
    let lo := (m ^ 4).log2
    let exact := decide (m ^ 4 = 2 ^ lo)
    let near := if 2 ^ (2 * lo + 1) ≤ m ^ 8 then 1 else 0
    let up : Nat :=
      if exact then 0
      else match v.rm with
        | .rz => 0
        | .ru => if n then 0 else 1
        | .rd => if n then 1 else 0
        | _ => near
    let t : Int := 16 + 4 * e + lo + up
    if 31 < t then big n
    else if t < 1 then (0, fxUf ||| fxNx)
    else ((if n then 32 else 0) + t.toNat, if exact then 0 else fxNx)

end Sys2Proof.Machine
end

