-- ==== Sys2Proof/Machine/LaneInt.lean ====
section
/-!
DEFINITION. LaneInt.lean: lane integer arithmetic, logic, bit fields, compares, moves, conversions, predicates, masks and
FX (spec/08_lane_instructions.md R120 to R128; spec/10_bounded_access.md R144 to R147).
-/
namespace Sys2Proof.Machine

open Sys2Proof

/-! ## Exact results (R120) -/

/-- A W-bit pattern read by the signedness of the type. -/
def rd (ty : Ty) (v : Nat) : Int :=
  let w := tyW ty
  let v := v % 2 ^ w
  if ty.signed && decide (2 ^ (w - 1) ≤ v) then (v : Int) - 2 ^ w else v

/-- Least and greatest value of a type of n bits. -/
def tyMin (signed : Bool) (n : Nat) : Int := if signed then -(2 ^ (n - 1)) else 0
def tyMax (signed : Bool) (n : Nat) : Int := if signed then 2 ^ (n - 1) - 1 else 2 ^ n - 1
def clampTo (signed : Bool) (n : Nat) (x : Int) : Int := max (tyMin signed n) (min x (tyMax signed n))

/-- An exact result written: wrapped, or clamped with sat (R120). -/
def wr (ty : Ty) (sat : Bool) (x : Int) : Nat :=
  let w := tyW ty
  ((if sat then clampTo ty.signed w x else x) % 2 ^ w).toNat

/-- An operation on exact values of a and b. -/
def laneZ2 (s : State) (gid : Nat) (g : Group) (m : Mods) (ty : Ty) (sat : Bool) (d a : BitVec 8) (b : OpB)
    (sh : Shadow) (f : Int → Int → Int) : State :=
  laneV s gid g m (vRegs ty d ++ vRegs ty a ++ bRegs ty b) ty d sh fun l =>
    wr ty sat (f (rd ty (vVal s gid g ty a l)) (rd ty (bVal s gid g ty b l)))

/-- An operation on exact values of a, b and c. -/
def laneZ3 (s : State) (gid : Nat) (g : Group) (m : Mods) (ty : Ty) (sat : Bool) (d a : BitVec 8) (b : OpB) (c : OpC)
    (sh : Shadow) (f : Int → Int → Int → Int) : State :=
  laneV s gid g m (vRegs ty d ++ vRegs ty a ++ bRegs ty b ++ cRegs ty c) ty d sh fun l =>
    wr ty sat (f (rd ty (vVal s gid g ty a l)) (rd ty (bVal s gid g ty b l)) (rd ty (cVal s gid g ty c l)))

/-- An operation on the exact value of a; its shadow is TOP (R144). -/
def laneZ1 (s : State) (gid : Nat) (g : Group) (m : Mods) (ty : Ty) (sat : Bool) (d a : BitVec 8)
    (f : Int → Int) : State :=
  laneV s gid g m (vRegs ty d ++ vRegs ty a) ty d .top fun l => wr ty sat (f (rd ty (vVal s gid g ty a l)))

/-- An operation on W-bit patterns of a and b; f is given W. -/
def laneB2 (s : State) (gid : Nat) (g : Group) (m : Mods) (ty : Ty) (d a : BitVec 8) (b : OpB) (sh : Shadow)
    (f : Nat → Nat → Nat → Nat) : State :=
  laneV s gid g m (vRegs ty d ++ vRegs ty a ++ bRegs ty b) ty d sh fun l =>
    f (tyW ty) (vVal s gid g ty a l) (bVal s gid g ty b l)

/-- An operation on the W-bit pattern of a. -/
def laneB1 (s : State) (gid : Nat) (g : Group) (m : Mods) (ty : Ty) (d a : BitVec 8) (f : Nat → Nat → Nat) : State :=
  laneV s gid g m (vRegs ty d ++ vRegs ty a) ty d .top fun l => f (tyW ty) (vVal s gid g ty a l)

/-- Shadows of operands a, b, c. -/
def shA (g : Group) (a : BitVec 8) : Shadow := vShadow g a.toNat

/-! ## Arithmetic (R121) -/

def execIadd (m : Mods) (ty : Ty) (sat : Bool) (d a : BitVec 8) (b : OpB) (s : State) : Host.Outcome State Fault Refusal :=
  withCur s fun gid g =>
    laneZ2 s gid g m ty sat d a b
      (laneShadow ty sat [shA g a, bSh s g b] (Shadow.add (fitOf ty sat) (shA g a) (bSh s g b))) (· + ·)
def execIsub (m : Mods) (ty : Ty) (sat : Bool) (d a : BitVec 8) (b : OpB) (s : State) : Host.Outcome State Fault Refusal :=
  withCur s fun gid g =>
    laneZ2 s gid g m ty sat d a b
      (laneShadow ty sat [shA g a, bSh s g b] (Shadow.sub (fitOf ty sat) (shA g a) (bSh s g b))) (· - ·)
def execImul (m : Mods) (ty : Ty) (sat : Bool) (d a : BitVec 8) (b : OpB) (s : State) : Host.Outcome State Fault Refusal :=
  withCur s fun gid g =>
    laneZ2 s gid g m ty sat d a b
      (laneShadow ty sat [shA g a, bSh s g b] (Shadow.mul (fitOf ty sat) (shA g a) (bSh s g b))) (· * ·)
def execImulh (m : Mods) (ty : Ty) (d a : BitVec 8) (b : OpB) (s : State) : Host.Outcome State Fault Refusal :=
  withCur s fun gid g => laneZ2 s gid g m ty false d a b .top fun x y => (x * y) / 2 ^ tyW ty
def execImad (m : Mods) (ty : Ty) (sat : Bool) (d a : BitVec 8) (b : OpB) (c : OpC) (s : State) :
    Host.Outcome State Fault Refusal :=
  withCur s fun gid g =>
    laneZ3 s gid g m ty sat d a b c
      (laneShadow ty sat [shA g a, bSh s g b, cSh s g c] (Shadow.mad (fitOf ty sat) (shA g a) (bSh s g b) (cSh s g c)))
      fun x y z => x * y + z
def execIabs (m : Mods) (ty : Ty) (sat : Bool) (d a : BitVec 8) (s : State) : Host.Outcome State Fault Refusal :=
  withCur s fun gid g => laneZ1 s gid g m ty sat d a fun x => (x.natAbs : Int)
def execIneg (m : Mods) (ty : Ty) (sat : Bool) (d a : BitVec 8) (s : State) : Host.Outcome State Fault Refusal :=
  withCur s fun gid g => laneZ1 s gid g m ty sat d a fun x => -x
def execImin (m : Mods) (ty : Ty) (d a : BitVec 8) (b : OpB) (s : State) : Host.Outcome State Fault Refusal :=
  withCur s fun gid g =>
    laneZ2 s gid g m ty false d a b (nShadow ty [shA g a, bSh s g b] (Shadow.smin (shA g a) (bSh s g b))) min
def execImax (m : Mods) (ty : Ty) (d a : BitVec 8) (b : OpB) (s : State) : Host.Outcome State Fault Refusal :=
  withCur s fun gid g =>
    laneZ2 s gid g m ty false d a b (nShadow ty [shA g a, bSh s g b] (Shadow.smax (shA g a) (bSh s g b))) max
def execIclamp (m : Mods) (ty : Ty) (d a : BitVec 8) (b : OpB) (c : OpC) (s : State) :
    Host.Outcome State Fault Refusal :=
  withCur s fun gid g =>
    laneZ3 s gid g m ty false d a b c
      (nShadow ty [shA g a, bSh s g b, cSh s g c] (Shadow.clamp (shA g a) (bSh s g b) (cSh s g c)))
      fun x y z => min (max x y) z

/-! ## Logic, shifts and counts (R122) -/

/-- The shift amount: b unsigned, its low word for 64-bit types. -/
def shAmt (y : Nat) : Nat := y % 2 ^ 32
def shlPat (w x y : Nat) : Nat := if w ≤ shAmt y then 0 else (x * 2 ^ shAmt y) % 2 ^ w
def shrPat (w x y : Nat) : Nat := if w ≤ shAmt y then 0 else x % 2 ^ w / 2 ^ shAmt y
def sraPat (w x y : Nat) : Nat :=
  let n := if w ≤ shAmt y then w else shAmt y
  let x := x % 2 ^ w
  if 2 ^ (w - 1) ≤ x then (x + (2 ^ w * (2 ^ n - 1))) / 2 ^ n else x / 2 ^ n
def clzPat : Nat → Nat → Nat
  | 0, _ => 0
  | w + 1, x => if 2 ^ w ≤ x then 0 else 1 + clzPat w x
def brevPat (w x : Nat) : Nat := (List.range w).foldl (fun r i => r * 2 + x / 2 ^ i % 2) 0

def execIand (m : Mods) (ty : Ty) (d a : BitVec 8) (b : OpB) (s : State) : Host.Outcome State Fault Refusal :=
  withCur s fun gid g =>
    laneB2 s gid g m ty d a b (laneShadow ty false [] (Shadow.sand (shA g a) (bSh s g b))) fun _ x y => x &&& y
def execIor (m : Mods) (ty : Ty) (d a : BitVec 8) (b : OpB) (s : State) : Host.Outcome State Fault Refusal :=
  withCur s fun gid g => laneB2 s gid g m ty d a b .top fun _ x y => x ||| y
def execIxor (m : Mods) (ty : Ty) (d a : BitVec 8) (b : OpB) (s : State) : Host.Outcome State Fault Refusal :=
  withCur s fun gid g => laneB2 s gid g m ty d a b .top fun _ x y => x ^^^ y
def execInot (m : Mods) (ty : Ty) (d a : BitVec 8) (s : State) : Host.Outcome State Fault Refusal :=
  withCur s fun gid g => laneB1 s gid g m ty d a fun w x => 2 ^ w - 1 - x
def execIshl (m : Mods) (ty : Ty) (d a : BitVec 8) (b : OpB) (s : State) : Host.Outcome State Fault Refusal :=
  withCur s fun gid g =>
    laneB2 s gid g m ty d a b (laneShadow ty false [] (Shadow.shl (shA g a) (bSh s g b))) shlPat
/-- The [0, 0] case of a far shift holds whatever the shadows are (R145). -/
def execIshr (m : Mods) (ty : Ty) (d a : BitVec 8) (b : OpB) (s : State) : Host.Outcome State Fault Refusal :=
  withCur s fun gid g =>
    let sh := Shadow.shr (shA g a) (bSh s g b)
    laneB2 s gid g m ty d a b
      (if (bSh s g b).farShift then laneShadow ty false [] sh else nShadow ty [shA g a, bSh s g b] sh) shrPat
def execIsra (m : Mods) (ty : Ty) (d a : BitVec 8) (b : OpB) (s : State) : Host.Outcome State Fault Refusal :=
  withCur s fun gid g =>
    laneB2 s gid g m ty d a b (laneShadow ty false [] (Shadow.sra (shA g a) (bSh s g b))) sraPat
def execIclz (m : Mods) (ty : Ty) (d a : BitVec 8) (s : State) : Host.Outcome State Fault Refusal :=
  withCur s fun gid g => laneB1 s gid g m ty d a clzPat
def execIpopc (m : Mods) (ty : Ty) (d a : BitVec 8) (s : State) : Host.Outcome State Fault Refusal :=
  withCur s fun gid g => laneB1 s gid g m ty d a popNat
def execIbrev (m : Mods) (ty : Ty) (d a : BitVec 8) (s : State) : Host.Outcome State Fault Refusal :=
  withCur s fun gid g => laneB1 s gid g m ty d a brevPat

/-! ## Bit fields (R123) -/

def bfxPat (ty : Ty) (pos len : Nat) (x : Nat) : Nat :=
  let w := tyW ty
  let n := min len (w - pos)
  let f := x / 2 ^ pos % 2 ^ n
  if ty.signed && decide (2 ^ (n - 1) ≤ f) then f + 2 ^ w - 2 ^ n else f
def bfiPat (ty : Ty) (pos len : Nat) (x y : Nat) : Nat :=
  let w := tyW ty
  let n := min len (w - pos)
  let f := x / 2 ^ pos % 2 ^ n
  x - f * 2 ^ pos + (y % 2 ^ n) * 2 ^ pos

def execIbfx (m : Mods) (ty : Ty) (d a : BitVec 8) (pos : BitVec 5) (len : BitVec 6) (s : State) :
    Host.Outcome State Fault Refusal :=
  withCur s fun gid g => laneB1 s gid g m ty d a fun _ x => bfxPat ty pos.toNat len.toNat x
def execIbfi (m : Mods) (ty : Ty) (d a : BitVec 8) (b : OpC) (pos : BitVec 5) (len : BitVec 6) (s : State) :
    Host.Outcome State Fault Refusal :=
  withCur s fun gid g =>
    laneV s gid g m (vRegs ty d ++ vRegs ty a ++ cRegs ty b) ty d .top fun l =>
      bfiPat ty pos.toNat len.toNat (vVal s gid g ty a l) (cVal s gid g ty b l)

/-! ## Compare, select, move and convert (R124, R125) -/

def icmpHolds (c : Cond) (x y : Int) : Bool :=
  match c with
  | .eq => x == y
  | .ne => x != y
  | .lt => decide (x < y)
  | .le => decide (x ≤ y)
  | .gt => decide (y < x)
  | .ge => decide (y ≤ x)
  | .un => false
  | .ord => true

def execIcmp (m : Mods) (ty : Ty) (cond : Cond) (d : BitVec 3) (a : BitVec 8) (b : OpB) (s : State) :
    Host.Outcome State Fault Refusal :=
  withCur s fun gid g =>
    laneP s gid g m (vRegs ty a ++ bRegs ty b) d fun l =>
      icmpHolds cond (rd ty (vVal s gid g ty a l)) (rd ty (bVal s gid g ty b l))
def execIsel (m : Mods) (ty : Ty) (d a : BitVec 8) (b : OpB) (c : BitVec 3) (s : State) :
    Host.Outcome State Fault Refusal :=
  withCur s fun gid g =>
    let p := pRead s.picks g c.toNat
    laneV s gid g m (vRegs ty d ++ vRegs ty a ++ bRegs ty b) ty d
      (laneShadow ty false [] (Shadow.join (shA g a) (bSh s g b))) fun l =>
      if p.getLsbD l then vVal s gid g ty a l else bVal s gid g ty b l
def execImov (m : Mods) (ty : Ty) (d a : BitVec 8) (s : State) : Host.Outcome State Fault Refusal :=
  withCur s fun gid g =>
    laneV s gid g m (vRegs ty d ++ vRegs ty a) ty d (laneShadow ty false [] (shA g a)) fun l => vVal s gid g ty a l
def execImovi (m : Mods) (ty : Ty) (d : BitVec 8) (imm : BitVec 32) (s : State) : Host.Outcome State Fault Refusal :=
  withCur s fun gid g => laneV s gid g m (vRegs ty d) ty d (Shadow.exact imm) fun _ => immVal ty imm

/-- Bits of a type (R62). -/
def tyBits (ty : Ty) : Nat := 8 * ty.size

/-- A value of a type of n bits, read by its signedness. -/
def rdN (signed : Bool) (n v : Nat) : Int :=
  let v := v % 2 ^ n
  if signed && decide (2 ^ (n - 1) ≤ v) then (v : Int) - 2 ^ n else v

/-- Integer conversion (R125). -/
def icvtVal (ty src : Ty) (sat : Bool) (v : Nat) : Nat :=
  let x := rdN src.signed (tyBits src) v
  let n := tyBits ty
  let y := if sat then clampTo ty.signed n x else rdN ty.signed n (x % 2 ^ n).toNat
  (y % 2 ^ tyW ty).toNat

def execIcvt (m : Mods) (ty src : Ty) (_rm : Rm) (sat : Bool) (d a : BitVec 8) (s : State) :
    Host.Outcome State Fault Refusal :=
  withCur s fun gid g =>
    laneV s gid g m (vRegs ty d ++ vRegs src a) ty d .top fun l => icvtVal ty src sat (vVal s gid g src a l)

/-! ## Shadows of V registers (R147) -/

/-- A write of the lane stream to Vn is outstanding. -/
def vBusy (g : Group) (n : Nat) : Bool := !(vOut g.ln.out n).isEmpty
/-- A write of the lane stream to a limit is outstanding. -/
def uBusy (g : Group) : Uni → Bool
  | .s n => !(sOut g.ln.out (g.sKey n.toNat)).isEmpty
  | .k _ => false

/-- VWIDEN acts once for the group. -/
def execVwiden (m : Mods) (d : BitVec 8) (lo hi : Uni) (s : State) : Host.Outcome State Fault Refusal :=
  withCur s fun gid g =>
    inQuota s gid g [d.toNat]
      (if vBusy g d.toNat || uBusy g lo || uBusy g hi then s
       else
         let l := (uRead s.picks g lo).1.toInt
         let h := (uRead s.picks g hi).1.toInt
         let old := vget g.vsh d.toNat
         let sh := if vFlight s gid g d.toNat then .top
           else if l ≤ h then Shadow.join old (Shadow.norm l h) else old
         s.setGrp gid (({ g with vsh := vset g.vsh d.toNat sh } : Group).nextL m.sw))

def execVrange (m : Mods) (d : BitVec 8) (lo hi : Uni) (s : State) : Host.Outcome State Fault Refusal :=
  withCur s fun gid g =>
    inQuota s gid g [d.toNat]
      (if vBusy g d.toNat || uBusy g lo || uBusy g hi then s
       else
         let l := (uRead s.picks g lo).1.toInt
         let h := (uRead s.picks g hi).1.toInt
         let eff := effMask s.picks g m
         let old := vget g.vsh d.toNat
         match (lanesOf eff).find? fun i =>
             let x := (vRead s gid g d.toNat i).toInt
             decide (x < l) || decide (h < x) with
         | some i => raiseL s gid g .range (BitVec.ofNat 32 i)
         | none =>
           let sh := if vFlight s gid g d.toNat then .top
             else if eff == g.live then Shadow.norm l h
             else if eff != 0 then Shadow.join old (Shadow.norm l h) else old
           s.setGrp gid (({ g with vsh := vset g.vsh d.toNat sh } : Group).nextL m.sw))

/-! ## Predicates, EXM and FX (R126 to R128) -/

/-- A P register from two others, lane by lane. -/
def predOp (s : State) (gid : Nat) (g : Group) (m : Mods) (d a b : BitVec 3) (f : Mask → Mask → Mask) : State :=
  let v := f (pRead s.picks g a.toNat) (pRead s.picks g b.toNat)
  laneP s gid g m [] d fun l => v.getLsbD l

def execPand (m : Mods) (d a b : BitVec 3) (s : State) : Host.Outcome State Fault Refusal :=
  withCur s fun gid g => predOp s gid g m d a b (· &&& ·)
def execPor (m : Mods) (d a b : BitVec 3) (s : State) : Host.Outcome State Fault Refusal :=
  withCur s fun gid g => predOp s gid g m d a b (· ||| ·)
def execPxor (m : Mods) (d a b : BitVec 3) (s : State) : Host.Outcome State Fault Refusal :=
  withCur s fun gid g => predOp s gid g m d a b (· ^^^ ·)
def execPnot (m : Mods) (d a : BitVec 3) (s : State) : Host.Outcome State Fault Refusal :=
  withCur s fun gid g => predOp s gid g m d a a fun x _ => ~~~x
def execPmov (m : Mods) (d a : BitVec 3) (s : State) : Host.Outcome State Fault Refusal :=
  withCur s fun gid g => predOp s gid g m d a a fun x _ => x

def execExmget (m : Mods) (d : BitVec 3) (s : State) : Host.Outcome State Fault Refusal :=
  withCur s fun gid g => laneP s gid g m [] d fun l => g.ctx.exm.getLsbD l
def execExmset (m : Mods) (a : BitVec 3) (s : State) : Host.Outcome State Fault Refusal :=
  withCur s fun gid g =>
    let gm := guardMask s.picks g m
    let exm := ((pRead s.picks g a.toNat &&& gm) ||| (g.ctx.exm &&& ~~~gm)) &&& g.live
    s.setGrp gid (({ g with ctx := { g.ctx with exm := exm } } : Group).nextL m.sw)
def execFxget (m : Mods) (d : BitVec 8) (s : State) : Host.Outcome State Fault Refusal :=
  withCur s fun gid g => laneV s gid g m [d.toNat] .i32 d .top fun l => (fxRead s.picks g l).toNat
def execFxset (m : Mods) (a : BitVec 8) (s : State) : Host.Outcome State Fault Refusal :=
  withCur s fun gid g =>
    inQuota s gid g [a.toNat]
      (let eff := effMask s.picks g m
       let vs := tabulate g.width fun l => (vRead s gid g a.toNat l).truncate 6
       issueL s gid g (if eff == 0 then [] else [.fxSet eff vs [] false]) m.sw)

end Sys2Proof.Machine
end

