-- ==== Sys2Proof/Machine/LaneFloat.lean ====
section
/-!
DEFINITION. LaneFloat.lean: the floating and logarithmic lane words (spec/12_arithmetic.md R168, R172 to R187).
-/
namespace Sys2Proof.Machine

open Sys2Proof

/-- Enables of the arithmetic trap, in the layout of FX[4:0] (R89, R173). -/
def trapEnables (mode : W32) : BitVec 6 := (bits mode 8 5).zeroExtend 6

/-- TRAPINFO of an arithmetic trap (R320). -/
def arithInfo (flags : BitVec 6) (lane : Nat) : W32 := BitVec.ofNat 32 (flags.toNat * 256 + lane)

/-- The lowest lane that raises an enabled flag, and all the enabled flags raised. -/
def arithTrap (en : BitVec 6) (rs : List (Nat × BitVec 6)) : Option (Nat × BitVec 6) :=
  match rs.find? fun r => r.2 &&& en != 0 with
  | some r => some (r.1, rs.foldl (fun f r => f ||| (r.2 &&& en)) 0)
  | none => none

/-- A lane word that can raise flags: fl gives the flags of each effective lane, ws the writes.  It traps when an enabled
flag is raised and nf is clear; with any enable set it issues as though sw were set (R173). -/
def flagged (s : State) (gid : Nat) (g : Group) (m : Mods) (eff : Mask) (fl : Nat → BitVec 6) (ws : List PWrite) :
    State :=
  let en := trapEnables g.lmode
  let rs := (lanesOf eff).map fun l => (l, fl l)
  match if m.nf then none else arithTrap en rs with
  | some (l, f) => raiseL s gid g .arithmetic (arithInfo f l)
  | none =>
    let fx := fxWrite m.nf (tabulate g.width fun l => if eff.getLsbD l then fl l else 0)
    issueL s gid g (ws ++ fx) (m.sw || en != 0)

/-- A word with a V destination whose lanes compute a pattern and flags. -/
def laneF (s : State) (gid : Nat) (g : Group) (m : Mods) (regs : List Nat) (ty : Ty) (d : BitVec 8) (f : Nat → Fres) :
    State :=
  inQuota s gid g regs
    (let eff := effMask s.picks g m
     let rs := tabulate g.width fun l => if eff.getLsbD l then f l else (0, 0)
     flagged s gid g m eff (fun l => (nthD (0, 0) rs l).2)
       (if eff == 0 then [] else wV g ty d eff .top fun l => (nthD (0, 0) rs l).1))

/-- Both elements of a packed pattern, or the one element of another type (R168). -/
def perElt (ty : Ty) (f : (Nat → Nat) → Fres) : Fres :=
  match ty with
  | .h2 | .b2 =>
    let lo := f fun x => x % 65536
    let hi := f fun x => x / 65536 % 65536
    (lo.1 + 65536 * hi.1, lo.2 ||| hi.2)
  | .f32 => f id
  | _ => f fun x => x % 65536

/-- The format of a type, and the values of a pattern's element. -/
def el (ty : Ty) (v : Fenv) (pick : Nat → Nat) (x : Nat) : Fv := (fmtOf ty).read v.daz (pick x)

/-- Element operations of two operands. -/
def laneF2 (s : State) (gid : Nat) (g : Group) (m : Mods) (ty : Ty) (rm : Rm) (d a : BitVec 8) (b : OpB)
    (op : Fmt → Fenv → Fv → Fv → Fres) : State :=
  let v := fenv g.lmode rm
  laneF s gid g m ([d.toNat, a.toNat] ++ bRegs .i32 b) .i32 d fun l =>
    let x := vVal s gid g .i32 a l
    let y := bVal s gid g .i32 b l
    perElt ty fun p => op (fmtOf ty) v (el ty v p x) (el ty v p y)

/-- Element operations of one operand. -/
def laneF1 (s : State) (gid : Nat) (g : Group) (m : Mods) (ty : Ty) (rm : Rm) (d a : BitVec 8)
    (op : Fmt → Fenv → Fv → Fres) : State :=
  let v := fenv g.lmode rm
  laneF s gid g m [d.toNat, a.toNat] .i32 d fun l =>
    let x := vVal s gid g .i32 a l
    perElt ty fun p => op (fmtOf ty) v (el ty v p x)

def execFadd (m : Mods) (ty : Ty) (rm : Rm) (d a : BitVec 8) (b : OpB) (s : State) : Host.Outcome State Fault Refusal :=
  withCur s fun gid g => laneF2 s gid g m ty rm d a b Fmt.addV
/-- FSUB is FADD with the sign of b inverted, after the NaN test (R175). -/
def execFsub (m : Mods) (ty : Ty) (rm : Rm) (d a : BitVec 8) (b : OpB) (s : State) : Host.Outcome State Fault Refusal :=
  withCur s fun gid g => laneF2 s gid g m ty rm d a b fun f v x y => f.addV v x y.flip
def execFmul (m : Mods) (ty : Ty) (rm : Rm) (d a : BitVec 8) (b : OpB) (s : State) : Host.Outcome State Fault Refusal :=
  withCur s fun gid g => laneF2 s gid g m ty rm d a b Fmt.mulV
def execFfma (m : Mods) (ty : Ty) (rm : Rm) (d a : BitVec 8) (b : OpB) (c : OpC) (s : State) :
    Host.Outcome State Fault Refusal :=
  withCur s fun gid g =>
    let v := fenv g.lmode rm
    laneF s gid g m ([d.toNat, a.toNat] ++ bRegs .i32 b ++ cRegs .i32 c) .i32 d fun l =>
      let x := vVal s gid g .i32 a l
      let y := bVal s gid g .i32 b l
      let z := cVal s gid g .i32 c l
      perElt ty fun p => (fmtOf ty).fmaV v (el ty v p x) (el ty v p y) (el ty v p z)

/-- FMIN and FMAX of patterns. -/
def laneMinMax (s : State) (gid : Nat) (g : Group) (m : Mods) (ty : Ty) (mx : Bool) (d a : BitVec 8) (b : OpB) : State :=
  let v := fenv g.lmode .mode
  laneF s gid g m ([d.toNat, a.toNat] ++ bRegs .i32 b) .i32 d fun l =>
    let x := vVal s gid g .i32 a l
    let y := bVal s gid g .i32 b l
    perElt ty fun p => (fmtOf ty).minmax v mx (p x) (p y)

def execFmin (m : Mods) (ty : Ty) (d a : BitVec 8) (b : OpB) (s : State) : Host.Outcome State Fault Refusal :=
  withCur s fun gid g => laneMinMax s gid g m ty false d a b
def execFmax (m : Mods) (ty : Ty) (d a : BitVec 8) (b : OpB) (s : State) : Host.Outcome State Fault Refusal :=
  withCur s fun gid g => laneMinMax s gid g m ty true d a b

def execFcmp (m : Mods) (ty : Ty) (cond : Cond) (d : BitVec 3) (a : BitVec 8) (b : OpB) (s : State) :
    Host.Outcome State Fault Refusal :=
  withCur s fun gid g =>
    inQuota s gid g ([a.toNat] ++ bRegs .i32 b)
      (let v := fenv g.lmode .mode
       let eff := effMask s.picks g m
       let cmp := fun l => (fmtOf ty).cmp v cond (vVal s gid g .i32 a l) (bVal s gid g .i32 b l)
       flagged s gid g m eff (fun l => (cmp l).2)
         (if eff == 0 then [] else wP d eff (maskOf g.width fun l => (cmp l).1)))

def execFrcp (m : Mods) (ty : Ty) (rm : Rm) (d a : BitVec 8) (s : State) : Host.Outcome State Fault Refusal :=
  withCur s fun gid g => laneF1 s gid g m ty rm d a Fmt.rcpV
def execFrsq (m : Mods) (ty : Ty) (rm : Rm) (d a : BitVec 8) (s : State) : Host.Outcome State Fault Refusal :=
  withCur s fun gid g => laneF1 s gid g m ty rm d a Fmt.rsqV
def execFsqrt (m : Mods) (ty : Ty) (rm : Rm) (d a : BitVec 8) (s : State) : Host.Outcome State Fault Refusal :=
  withCur s fun gid g => laneF1 s gid g m ty rm d a Fmt.sqrtV
def execFdiv (m : Mods) (ty : Ty) (rm : Rm) (d a : BitVec 8) (b : OpB) (s : State) : Host.Outcome State Fault Refusal :=
  withCur s fun gid g => laneF2 s gid g m ty rm d a b Fmt.divV
def execFexp2 (m : Mods) (ty : Ty) (rm : Rm) (d a : BitVec 8) (s : State) : Host.Outcome State Fault Refusal :=
  withCur s fun gid g => laneF1 s gid g m ty rm d a Fmt.exp2V
def execFlog2 (m : Mods) (ty : Ty) (rm : Rm) (d a : BitVec 8) (s : State) : Host.Outcome State Fault Refusal :=
  withCur s fun gid g => laneF1 s gid g m ty rm d a Fmt.log2V
def execFrnd (m : Mods) (ty : Ty) (rm : Rm) (d a : BitVec 8) (s : State) : Host.Outcome State Fault Refusal :=
  withCur s fun gid g => laneF1 s gid g m ty rm d a Fmt.rndV

/-- FCLASS raises no flag. -/
def execFclass (m : Mods) (ty : Ty) (d a : BitVec 8) (s : State) : Host.Outcome State Fault Refusal :=
  withCur s fun gid g =>
    laneV s gid g m [d.toNat, a.toNat] .i32 d .top fun l => (fmtOf ty).classOf (vVal s gid g .i32 a l)

/-! ## Conversions (R182 to R184) -/

/-- Packed element types. -/
def packed : Ty → Bool
  | .h2 => true
  | .b2 => true
  | _ => false

/-- One element converted: from a floating or integer source pattern to ty. -/
def cvtElt (ty src : Ty) (v : Fenv) (sat : Bool) (x : Nat) : Fres :=
  let sv := if src.int8c then intFv (rdN src.signed (tyBits src) x) else cvtRead src v x
  if ty.int8c then
    let r := cvtInt ty.signed (tyBits ty) v.rm sv
    ((r.1 % 2 ^ tyW ty).toNat, r.2)
  else cvtTo ty v sat sv

/-- FCVT of a whole register value (R184). -/
def cvtVal (ty src : Ty) (v : Fenv) (sat : Bool) (x : Nat) : Fres :=
  if packed src && packed ty then
    let lo := cvtElt ty src v sat (x % 65536)
    let hi := cvtElt ty src v sat (x / 65536 % 65536)
    (lo.1 + 65536 * hi.1, lo.2 ||| hi.2)
  else if packed src then cvtElt ty src v sat (x % 65536)
  else if packed ty then
    let r := cvtElt ty src v sat x
    (r.1 + 65536 * r.1, r.2)
  else cvtElt ty src v sat x

def execFcvt (m : Mods) (ty src : Ty) (rm : Rm) (sat : Bool) (d a : BitVec 8) (s : State) :
    Host.Outcome State Fault Refusal :=
  withCur s fun gid g =>
    let v := fenv g.lmode rm
    laneF s gid g m (vRegs ty d ++ vRegs src a) ty d fun l => cvtVal ty src v sat (vVal s gid g src a l)

/-! ## L6 (R185 to R187); FEAT l6 (R322) -/

/-- Run a word of the l6 feature: the test follows the quota check and precedes the rest. -/
def withL6 (s : State) (gid : Nat) (g : Group) (regs : List Nat) (k : State) : State :=
  inQuota s gid g regs (if hasFeat s gid 2 then k else raiseL s gid g .feature 2)

def execLmul (m : Mods) (sat : Bool) (d a : BitVec 8) (b : OpB) (s : State) : Host.Outcome State Fault Refusal :=
  withCur s fun gid g =>
    let regs := [d.toNat, a.toNat] ++ bRegs .i32 b
    withL6 s gid g regs
      (laneF s gid g m regs .i32 d fun l => l6Mul sat (vVal s gid g .i32 a l) (bVal s gid g .i32 b l))

def execLcvt (m : Mods) (ty src : Ty) (rm : Rm) (sat : Bool) (d a : BitVec 8) (s : State) :
    Host.Outcome State Fault Refusal :=
  withCur s fun gid g =>
    let regs := [d.toNat, a.toNat]
    let v := fenv g.lmode rm
    withL6 s gid g regs
      (laneF s gid g m regs .i32 d fun l =>
        let x := vVal s gid g .i32 a l
        if src = .l6 then l6To ty v x else toL6 v sat ((fmtOf src).read v.daz x))

end Sys2Proof.Machine
end

