-- ==== Sys2Proof/Machine/ScalarAlu.lean ====
section
/-!
DEFINITION. ScalarAlu.lean: scalar integer arithmetic, constants, uniform and array registers, shadows and branches
(spec/07_scalar_instructions.md R86, R94 to R102; spec/10_bounded_access.md R144, R146 to R148).
-/
namespace Sys2Proof.Machine

open Sys2Proof

/-! ## The value of each SALU operation (R94) -/

def smulhVal (x y : W32) : W32 := BitVec.ofInt 32 ((x.toInt * y.toInt) / 2 ^ 32)
def sshlVal (x y : W32) : W32 := x <<< y.toNat
def sshrVal (x y : W32) : W32 := x >>> y.toNat
def ssraVal (x y : W32) : W32 := x.sshiftRight y.toNat
def sminVal (x y : W32) : W32 := if x.toInt ≤ y.toInt then x else y
def smaxVal (x y : W32) : W32 := if x.toInt ≤ y.toInt then y else x

/-- A shadow that is TOP whatever the sources are. -/
def noShadow (_ _ : Shadow) : Shadow := .top

/-- d := f of s[a] and s[b], with the shadow that sh gives from theirs. -/
def alu2 (s : State) (gid : Nat) (g : Group) (d a b : BitVec 6) (sw : Bool) (f : W32 → W32 → W32)
    (sh : Shadow → Shadow → Shadow) : State :=
  let x := sRead s.picks g a.toNat
  let y := sRead s.picks g b.toNat
  issueS s gid g [(d.toNat, f x.1 y.1, sh x.2 y.2)] (g.spc + 4) sw

/-- d := f of s[a] and an immediate, whose shadow is exact (R95). -/
def alu1 (s : State) (gid : Nat) (g : Group) (d a : BitVec 6) (y : W32) (sw : Bool) (f : W32 → W32 → W32)
    (sh : Shadow → Shadow → Shadow) : State :=
  let x := sRead s.picks g a.toNat
  issueS s gid g [(d.toNat, f x.1 y, sh x.2 (Shadow.exact y))] (g.spc + 4) sw

/-- d := v with an exact shadow. -/
def setExact (s : State) (gid : Nat) (g : Group) (d : BitVec 6) (v : W32) (sw : Bool) : State :=
  issueS s gid g [(d.toNat, v, Shadow.exact v)] (g.spc + 4) sw

def execSadd (d a b : BitVec 6) (sw : Bool) (s : State) : Host.Outcome State Fault Refusal :=
  withCur s fun gid g => alu2 s gid g d a b sw (· + ·) (Shadow.add .wrap)
def execSsub (d a b : BitVec 6) (sw : Bool) (s : State) : Host.Outcome State Fault Refusal :=
  withCur s fun gid g => alu2 s gid g d a b sw (· - ·) (Shadow.sub .wrap)
def execSmul (d a b : BitVec 6) (sw : Bool) (s : State) : Host.Outcome State Fault Refusal :=
  withCur s fun gid g => alu2 s gid g d a b sw (· * ·) (Shadow.mul .wrap)
def execSmulh (d a b : BitVec 6) (sw : Bool) (s : State) : Host.Outcome State Fault Refusal :=
  withCur s fun gid g => alu2 s gid g d a b sw smulhVal noShadow
def execSand (d a b : BitVec 6) (sw : Bool) (s : State) : Host.Outcome State Fault Refusal :=
  withCur s fun gid g => alu2 s gid g d a b sw (· &&& ·) Shadow.sand
def execSor (d a b : BitVec 6) (sw : Bool) (s : State) : Host.Outcome State Fault Refusal :=
  withCur s fun gid g => alu2 s gid g d a b sw (· ||| ·) noShadow
def execSxor (d a b : BitVec 6) (sw : Bool) (s : State) : Host.Outcome State Fault Refusal :=
  withCur s fun gid g => alu2 s gid g d a b sw (· ^^^ ·) noShadow
def execSshl (d a b : BitVec 6) (sw : Bool) (s : State) : Host.Outcome State Fault Refusal :=
  withCur s fun gid g => alu2 s gid g d a b sw sshlVal Shadow.shl
def execSshr (d a b : BitVec 6) (sw : Bool) (s : State) : Host.Outcome State Fault Refusal :=
  withCur s fun gid g => alu2 s gid g d a b sw sshrVal Shadow.shr
def execSsra (d a b : BitVec 6) (sw : Bool) (s : State) : Host.Outcome State Fault Refusal :=
  withCur s fun gid g => alu2 s gid g d a b sw ssraVal Shadow.sra
def execSmin (d a b : BitVec 6) (sw : Bool) (s : State) : Host.Outcome State Fault Refusal :=
  withCur s fun gid g => alu2 s gid g d a b sw sminVal Shadow.smin
def execSmax (d a b : BitVec 6) (sw : Bool) (s : State) : Host.Outcome State Fault Refusal :=
  withCur s fun gid g => alu2 s gid g d a b sw smaxVal Shadow.smax
def execSmov (d a : BitVec 6) (sw : Bool) (s : State) : Host.Outcome State Fault Refusal :=
  withCur s fun gid g =>
    issueS s gid g [(d.toNat, (sRead s.picks g a.toNat).1, (sRead s.picks g a.toNat).2)] (g.spc + 4) sw

/-! ## Immediate forms (R95, R96) -/

def execSaddi (d a : BitVec 6) (imm : BitVec 13) (sw : Bool) (s : State) : Host.Outcome State Fault Refusal :=
  withCur s fun gid g => alu1 s gid g d a (imm.signExtend 32) sw (· + ·) (Shadow.add .wrap)
def execSmuli (d a : BitVec 6) (imm : BitVec 13) (sw : Bool) (s : State) : Host.Outcome State Fault Refusal :=
  withCur s fun gid g => alu1 s gid g d a (imm.signExtend 32) sw (· * ·) (Shadow.mul .wrap)
def execSandi (d a : BitVec 6) (imm : BitVec 13) (sw : Bool) (s : State) : Host.Outcome State Fault Refusal :=
  withCur s fun gid g => alu1 s gid g d a (imm.signExtend 32) sw (· &&& ·) Shadow.sand
def execSori (d a : BitVec 6) (imm : BitVec 13) (sw : Bool) (s : State) : Host.Outcome State Fault Refusal :=
  withCur s fun gid g => alu1 s gid g d a (imm.signExtend 32) sw (· ||| ·) noShadow
def execSxori (d a : BitVec 6) (imm : BitVec 13) (sw : Bool) (s : State) : Host.Outcome State Fault Refusal :=
  withCur s fun gid g => alu1 s gid g d a (imm.signExtend 32) sw (· ^^^ ·) noShadow
def execSmini (d a : BitVec 6) (imm : BitVec 13) (sw : Bool) (s : State) : Host.Outcome State Fault Refusal :=
  withCur s fun gid g => alu1 s gid g d a (imm.signExtend 32) sw sminVal Shadow.smin
def execSmaxi (d a : BitVec 6) (imm : BitVec 13) (sw : Bool) (s : State) : Host.Outcome State Fault Refusal :=
  withCur s fun gid g => alu1 s gid g d a (imm.signExtend 32) sw smaxVal Shadow.smax
def execSshli (d a : BitVec 6) (amt : BitVec 5) (sw : Bool) (s : State) : Host.Outcome State Fault Refusal :=
  withCur s fun gid g => alu1 s gid g d a (amt.zeroExtend 32) sw sshlVal Shadow.shl
def execSshri (d a : BitVec 6) (amt : BitVec 5) (sw : Bool) (s : State) : Host.Outcome State Fault Refusal :=
  withCur s fun gid g => alu1 s gid g d a (amt.zeroExtend 32) sw sshrVal Shadow.shr
def execSsrai (d a : BitVec 6) (amt : BitVec 5) (sw : Bool) (s : State) : Host.Outcome State Fault Refusal :=
  withCur s fun gid g => alu1 s gid g d a (amt.zeroExtend 32) sw ssraVal Shadow.sra
def execSlui (d : BitVec 6) (imm : BitVec 19) (sw : Bool) (s : State) : Host.Outcome State Fault Refusal :=
  withCur s fun gid g => setExact s gid g d (imm.zeroExtend 32 <<< 13) sw
def execSmovi (d : BitVec 6) (imm : BitVec 19) (sw : Bool) (s : State) : Host.Outcome State Fault Refusal :=
  withCur s fun gid g => setExact s gid g d (imm.signExtend 32) sw

/-! ## Shadows (R147, R148) -/

/-- A write of the scalar stream to Sn is outstanding. -/
def sBusy (g : Group) (n : Nat) : Bool := !(sOut g.sc.out (g.sKey n)).isEmpty

/-- The value and shadow of Sn, where no scalar write is outstanding (R31). -/
def sNow (picks : List (Nat × Mask)) (g : Group) (n : Nat) : W32 × Shadow := sHeld picks g (g.sKey n)

def execSwiden (d a b : BitVec 6) (sw : Bool) (s : State) : Host.Outcome State Fault Refusal :=
  withCur s fun gid g =>
    if sBusy g d.toNat || sBusy g a.toNat || sBusy g b.toNat then s
    else
      let x := sNow s.picks g d.toNat
      let lo := (sNow s.picks g a.toNat).1.toInt
      let hi := (sNow s.picks g b.toNat).1.toInt
      let sh := if lo ≤ hi then Shadow.join x.2 (Shadow.norm lo hi) else x.2
      s.setGrp gid ((shPut s.picks g (g.sKey d.toNat) sh).nextS sw)

def execSrange (d a b : BitVec 6) (sw : Bool) (s : State) : Host.Outcome State Fault Refusal :=
  withCur s fun gid g =>
    if sBusy g d.toNat || sBusy g a.toNat || sBusy g b.toNat then s
    else
      let x := sNow s.picks g d.toNat
      let lo := (sNow s.picks g a.toNat).1.toInt
      let hi := (sNow s.picks g b.toNat).1.toInt
      if x.1.toInt < lo ∨ hi < x.1.toInt then raiseS s gid g .range 0
      else s.setGrp gid ((shPut s.picks g (g.sKey d.toNat) (Shadow.norm lo hi)).nextS sw)

def execSrnggetLo (d a : BitVec 6) (sw : Bool) (s : State) : Host.Outcome State Fault Refusal :=
  withCur s fun gid g => setExact s gid g d (BitVec.ofInt 32 (sRead s.picks g a.toNat).2.lower) sw
def execSrnggetHi (d a : BitVec 6) (sw : Bool) (s : State) : Host.Outcome State Fault Refusal :=
  withCur s fun gid g => setExact s gid g d (BitVec.ofInt 32 (sRead s.picks g a.toNat).2.upper) sw
def execSrnggetTop (d a : BitVec 6) (sw : Bool) (s : State) : Host.Outcome State Fault Refusal :=
  withCur s fun gid g => setExact s gid g d (if (sRead s.picks g a.toNat).2.isTop then 1 else 0) sw

/-! ## Branches and jumps (R97 to R99) -/

def condHolds (c : SCond) (x y : W32) : Bool :=
  match c with
  | .eq => x == y
  | .ne => x != y
  | .lt => decide (x.toInt < y.toInt)
  | .ge => decide (y.toInt ≤ x.toInt)
  | .ltn => decide (x.toNat < y.toNat)
  | .gen => decide (y.toNat ≤ x.toNat)

/-- Refine the shadows of a and b on the path followed; not where they name one register, and not a register whose read
was old-or-new (R98). -/
def refineS (picks : List (Nat × Mask)) (g : Group) (r : Shadow.Rel) (a b : Nat) (x y : Shadow) : Group :=
  if a = b then g
  else
    let n := Shadow.refine r x y
    let g1 := if sBusy g a then g else shPut picks g (g.sKey a) n.1
    if sBusy g b then g1 else shPut picks g1 (g.sKey b) n.2

def execSb (cond : SCond) (a b : BitVec 6) (off : BitVec 9) (sw : Bool) (s : State) :
    Host.Outcome State Fault Refusal :=
  withCur s fun gid g =>
    let x := sRead s.picks g a.toNat
    let y := sRead s.picks g b.toNat
    let t := condHolds cond x.1 y.1
    let pc := if t then g.spc + (off.signExtend 57 <<< 2) else g.spc + 4
    s.setGrp gid ((refineS s.picks g (Shadow.SCondRel cond t) a.toNat b.toNat x.2 y.2).goS pc sw)

def execSj (off : BitVec 25) (sw : Bool) (s : State) : Host.Outcome State Fault Refusal :=
  withCur s fun gid g => s.setGrp gid (g.goS (g.spc + (off.signExtend 57 <<< 2)) sw)

def execSjal (off : BitVec 25) (sw : Bool) (s : State) : Host.Outcome State Fault Refusal :=
  withCur s fun gid g =>
    let ret : W64 := (g.spc + 4).zeroExtend 64
    let lo : W32 := bits ret 0 32
    let hi : W32 := bits ret 32 32
    issueS s gid g [(62, lo, Shadow.exact lo), (63, hi, Shadow.exact hi)] (g.spc + (off.signExtend 57 <<< 2)) sw

/-- A code target that R69 admits: bits [1:0] and [63:57] clear. -/
def codeTarget (x : W64) : Bool := bits x 0 2 == 0 && bits x 57 7 == 0

/-- TRAPINFO of an illegal instruction (R68). -/
def illegalInfo (lane : Bool) (reason b : Nat) : W32 :=
  BitVec.ofNat 32 (reason * 256 + (if lane then 128 else 0) + b)

def execSjr (a : BitVec 6) (sw : Bool) (s : State) : Host.Outcome State Fault Refusal :=
  withCur s fun gid g =>
    let t := sPair s.picks g a.toNat
    if codeTarget t then s.setGrp gid (g.goS (t.truncate 57) sw)
    else raiseS s gid g .illegal (illegalInfo false 7 0)

/-! ## Uniform and array registers (R100 to R102) -/

def execSkmov (d : BitVec 6) (k : BitVec 4) (sw : Bool) (s : State) : Host.Outcome State Fault Refusal :=
  withCur s fun gid g => setExact s gid g d (vget g.k k.toNat) sw

/-- The array register with its low 64 bits replaced by an address: other fields unchanged. -/
def setBase (x : ARegVal) (b : W64) : ARegVal := bits x 64 64 ++ b

/-- ASETB: the pair's bits [63:57] are the failing field's, named by a (word bits [19:14]). -/
def execAsetb (n : BitVec 4) (a : BitVec 6) (sw : Bool) (s : State) : Host.Outcome State Fault Refusal :=
  withCur s fun gid g =>
    let p := sPair s.picks g a.toNat
    if bits p 57 7 != 0 then raiseS s gid g .operand 14
    else s.setGrp gid (({ g with a := vset g.a n.toNat (setBase (vget g.a n.toNat) p) } : Group).nextS sw)

/-- ASETX: each condition reads s[b], named by word bits [13:8]. -/
def execAsetx (n : BitVec 4) (a b : BitVec 6) (sw : Bool) (s : State) : Host.Outcome State Fault Refusal :=
  withCur s fun gid g =>
    let x := sVal s.picks g a.toNat
    let y := sVal s.picks g b.toNat
    if bits y 13 19 != 0 || bits y 3 2 == 3 || decide (3 < (bits y 0 3).toNat) then raiseS s gid g .operand 8
    else s.setGrp gid (({ g with a := vset g.a n.toNat (y ++ x ++ bits (vget g.a n.toNat) 0 64) } : Group).nextS sw)

def execAget (d : BitVec 6) (n : BitVec 4) (w : BitVec 2) (sw : Bool) (s : State) : Host.Outcome State Fault Refusal :=
  withCur s fun gid g => setExact s gid g d (bits (vget g.a n.toNat) (32 * w.toNat) 32) sw

end Sys2Proof.Machine
end

