-- ==== Sys2Proof/Machine/Results.lean ====
section
/-!
DEFINITION. Results.lean: how results return (spec/02_execution_model.md R33 to R35), loads (R157, R163, R248), and
trap entry (R316).
-/
namespace Sys2Proof.Machine

open Sys2Proof

/-! ## Loads -/

/-- The register write with lane l's word replaced; an S write is replaced whole. -/
def PWrite.setLane (l : Nat) (x : W32) : PWrite → PWrite
  | .v r ls vs sh o => .v r ls (setNth vs l x) sh o
  | .s r _ sh o => .s r x sh o
  | w => w

/-- Put an element's value into the result: low word in the first write, high word in the second. -/
def Pending.setElt (p : Pending) (l v : Nat) : Pending :=
  { p with writes := p.writes.mapIdx fun i w =>
      if i = 0 then w.setLane l (BitVec.ofNat 32 v)
      else if i = 1 then w.setLane l (BitVec.ofNat 32 (v / 2 ^ 32))
      else w }

/-- A load that has read its elements: the result, the elements whose sector mismatches, the covers it gains, and the
releases it returned. -/
structure Sampled where
  res  : Pending
  bad  : List LoadElt
  cov  : List Nat
  rels : List Rel
  deriving DecidableEq, Repr

/-- Read elements for a load; those that cannot be read are left for later.  An acquire gains the covers of the releases it
returns (R252). -/
def sampleElts (s : State) (gid : Nat) (g : Group) (lane : Bool) (es : List LoadElt) (p : Pending) : Sampled :=
  es.foldl (fun r e =>
    match readElt s (coreOf gid) (gid, lane) p.kind p.id e with
    | none => { r with res := { r.res with unsampled := r.res.unsampled ||| laneBit e.lane } }
    | some (bs, bad, ids) =>
      let rels := if p.kind == .scratch then [] else relsRead s e.pa e.size ids
      { res := { r.res.setElt e.lane (extend e.signed bs) with unsampled := r.res.unsampled &&& ~~~laneBit e.lane },
        bad := if bad then r.bad ++ [e] else r.bad,
        cov := r.cov ++ ids ++ acqCover gid g p.acq rels, rels := r.rels ++ rels }) ⟨p, [], [], []⟩

/-- The lanes of elements. -/
def eltLanes (es : List LoadElt) : Mask := es.foldl (fun m e => m ||| laneBit e.lane) 0

/-- While a lane is still to be read, a mismatch counts as not read yet: it is found again by the last reading, which names
the lowest lane that mismatches (R320). -/
def Sampled.hold (r : Sampled) : Sampled :=
  if r.res.unsampled == 0 then r
  else { r with res := { r.res with unsampled := r.res.unsampled ||| eltLanes r.bad }, bad := [] }

/-- The key in the picks of the words of register, or of 64 entries, j of a matrix word's result that are read later. -/
def pkRest (j : Nat) : Nat := 64 * 404 + j

/-- The register write with words replaced. -/
def PWrite.setWords (f : Nat → W32 → W32) : PWrite → PWrite
  | .v r ls vs sh o => .v r ls (vs.mapIdx f) sh o
  | .z t es => .z t (es.mapIdx f)
  | w => w

/-- Word i of a result's write is one that this reading takes: m says which of each register, or of 64 entries. -/
def wordDue (m : List Mask) (isZ : Bool) (j i : Nat) : Bool :=
  if isZ then (nthD 0 m (i / 64)).getLsbD (i % 64) else (nthD 0 m j).getLsbD i

def PWrite.isZ : PWrite → Bool
  | .z .. => true
  | _ => false

/-- Read, of a matrix word's operand, the words of some masks (R199, R201). -/
def sampleMat (s : State) (gid : Nat) (g : Group) (now : List Mask) (p : Pending) : Pending :=
  match descTeam s gid with
  | none => p
  | some (d, t) =>
    { p with
      writes := p.writes.mapIdx fun j w =>
        w.setWords fun i old =>
          if wordDue now w.isZ j i then
            ofBytes 32 (matBytes s (spadSrc gid) d t g.width p.kind (if w.isZ then i / 64 else j) (if w.isZ then i % 64 else i))
          else old,
      rest := p.rest.mapIdx fun j m => m &&& ~~~nthD 0 now j }

/-- What a reading takes of a matrix word's operand: of the lanes given, those that the picks do not put off. -/
def matNow (s : State) (lanes : Mask) (p : Pending) : List Mask :=
  p.rest.mapIdx fun j m => m &&& lanes &&& ~~~pickMask s.picks (pkRest j)

/-- Read, of what is still to be read, the words of some lanes. -/
def sampleSome (s : State) (gid : Nat) (g : Group) (lane : Bool) (lanes : Mask) (p : Pending) : Sampled :=
  match p.kind with
  | .frag .. | .tile _ => ⟨sampleMat s gid g (matNow s lanes p) p, [], [], []⟩
  | _ => (sampleElts s gid g lane (p.elts.filter fun e => (p.unsampled &&& lanes).getLsbD e.lane) p).hold

/-- Something of a result is still to be read. -/
def Pending.unreadAny (p : Pending) : Bool := p.unsampled != 0 || p.rest.any (· != 0)

/-- A result reads the scratchpad. -/
def PKind.spad : PKind → Bool
  | .scratch | .frag .. | .tile _ => true
  | _ => false

/-- The scratchpad words that a reading has taken. -/
def wordsRead (s : State) (gid : Nat) (g : Group) (old new : Pending) : List Nat :=
  match descTeam s gid with
  | none => []
  | some (d, t) =>
    ((old.elts.filter fun e => (old.unsampled &&& ~~~new.unsampled).getLsbD e.lane).flatMap fun e => spadWords d t e.pa e.size) ++
      (old.rest.mapIdx fun j m =>
        (lanesOf (m &&& ~~~nthD 0 new.rest j)).flatMap (matWords d t g.width old.kind j)).flatten

/-- After a reading of the scratchpad, the stores that it has seen are performed (R250). -/
def afterRead (s : State) (gid : Nat) (g : Group) (old new : Pending) : State :=
  if !old.kind.spad || s.olds.isEmpty then s else readSpad s (spadSrc gid) (wordsRead s gid g old new)

/-- Ask for the lines of elements that could not be read: a plain load by its core's L1, a read at the point of coherence by the
result's id, unless the core's earlier write to the line comes first (R222, R248). -/
def askElts (s : State) (core : Nat) (lanes : Mask) (p : Pending) : State :=
  if p.kind.spad then s
  else
    (p.elts.filter fun e => (p.unsampled &&& lanes).getLsbD e.lane).foldl (fun s e =>
      let line := e.pa / 128
      if p.kind != .homeLoad then askFill s core line
      else
        let s := askRead s line
        if writeBefore s core p.id line || ((homeLineNow s line).isSome && mayServe s line p.id) then s
        else arriveAt s line p.id) s

/-- Resolve the lines of elements before they are read (R229). -/
def resolveElts (s : State) (kind : PKind) (es : List LoadElt) : State :=
  if kind.spad then s else es.foldl (fun s e => resolve s (e.pa / 128)) s

/-- The stream takes a result of a load: what it read adds to the covers, and, of an acquire, later accesses follow it
(R252). -/
def Stream.load (s : State) (x : Stream) (r : Sampled) : Stream :=
  let y := x.push r.res
  let y := y.gain s r.cov
  { y with
    seen := liveRels s (y.seen ++ r.rels), acq := y.acq ++ (if r.res.acq.isSome then [r.res.id] else []) }

/-- Issue a load of a stream: what it reads is read now where it can be and where the picks do not put it off (R248); a
mismatch is the integrity fault, and then no register is written (R157).  A stream whose load is still to read a sector
that mismatches parks until it has (log entry 12). -/
def issueLoad (s : State) (gid : Nat) (g : Group) (lane : Bool) (p : Pending) (next : Bool → Group → Group) : State :=
  let x := g.str lane
  if x.full then s
  else
    let s := resolveElts s p.kind p.elts
    let pc := if lane then g.ctx.lpc else g.spc
    let p := { p with id := s.nextId, pc := pc, unsampled := eltLanes p.elts }
    let r := sampleSome s gid g lane (~~~deferred s.picks) p
    match r.bad with
    | e :: _ => integrity s gid g lane pc e.pa (integInfo 0 e.lane)
    | [] =>
      let s := afterRead s gid g p r.res
      let x := x.load s r
      let s := askElts { s with nextId := s.nextId + 1 } (coreOf gid) (~~~deferred s.picks) r.res
      let hot := !p.kind.spad && p.elts.any fun e => r.res.unsampled.getLsbD e.lane && spotBad s e.pa e.size
      s.setGrp gid (next hot (g.setStr lane x))

/-! ## Landing -/

/-- A block sees a value of an S register. -/
def Block.see (n : Nat) (v : W32) (sh : Shadow) (b : Block) : Block :=
  { b with sv := setNth b.sv n v, ssh := setNth b.ssh n sh }

/-- Change the running block and the queued ones. -/
def Group.mapBlocks (g : Group) (f : Block → Block) : Group :=
  { g with ctx := { g.ctx with running := g.ctx.running.map f, queue := g.ctx.queue.map f } }

/-- The blocks whose LRUN followed a scalar result see what it has left in its registers (R31). -/
def Group.dueLands (g : Group) (id : Nat) : Group :=
  g.mapBlocks fun b =>
    { (b.due.filter fun e => e.1 == id).foldl (fun b e =>
        Block.see e.2 (g.sAt (g.sKey e.2)).1 (g.sAt (g.sKey e.2)).2 b) b with due := b.due.filter fun e => e.1 != id }

/-- The key in the picks of the lanes in which a landing FXSET keeps the flags that overlapping results have ORed in since. -/
def pkFxOrs : Nat := 64 * 405

/-- FX of a lane after an FXSET has landed (R172): its value; with the flags of overlapping results; or, after another
overlapping FXSET has landed, what that has left. -/
def fxLand (picks : List (Nat × Mask)) (keep hit : Mask) (now val ors : BitVec 6) (l : Nat) : BitVec 6 :=
  if (keep &&& hit).getLsbD l then now
  else if keep.getLsbD l || (pickMask picks pkFxOrs).getLsbD l then val ||| ors
  else val

/-- The flags that a landing result ORs in, in an outstanding FXSET that it overlaps. -/
def PWrite.orIn (fs : List (BitVec 6)) : PWrite → PWrite
  | .fxSet ls vs os true => .fxSet ls vs (tabulate 64 fun l => nthD 0 os l ||| nthD 0 fs l) true
  | w => w

/-- A landing write: of the lanes in which the write of another unsynchronised instruction has landed (hit), the kept ones
keep it (R34), and the shadow is TOP (R143); so it is while the write of an engine or a window to the register is in flight. -/
def landWrite (s : State) (gid : Nat) (keep hit : Mask) (isLane : Bool) (w : PWrite) : State :=
  let kept := keep &&& hit
  match s.grp gid with
  | none => s
  | some g =>
    match w with
    | .v r ls vs sh o =>
      let s := vPut s gid g r (ls &&& ~~~kept) vs
      s.setGrp gid { g with vsh := vset g.vsh r (if o || vFlight s gid g r then .top else sh) }
    | .s k v sh o =>
      let sh := if o then .top else sh
      let v := if kept.getLsbD 0 then (if isLane then nthD 0 g.block.sv (sNum k) else (g.sAt k).1) else v
      if isLane then s.setGrp gid { g.mapBlocks (Block.see (sNum k) v sh) with pub := g.pub ++ [(k, v, sh)] }
      else s.setGrp gid { g.sPut k v sh with pub := g.pub.filter fun e => e.1 != k }
    | .p r ls vs _ =>
      let m := ls &&& ~~~kept &&& g.all
      s.setGrp gid { g with p := vset g.p r ((vget g.p r &&& ~~~m) ||| (vs &&& m)) }
    | .fxOr fs o =>
      let x := g.str isLane
      let g := if o then g.setStr isLane { x with out := x.out.map fun p => { p with writes := p.writes.map (PWrite.orIn fs) } } else g
      s.setGrp gid { g with
        fx := (List.range g.width).foldl (fun v l => if kept.getLsbD l then v else vset v l (vget v l ||| nthD 0 fs l)) g.fx }
    | .fxSet ls vs os o =>
      let val := fun (v : Vector (BitVec 6) 64) l =>
        if o then fxLand s.picks keep hit (vget v l) (nthD 0 vs l) (nthD 0 os l) l else nthD 0 vs l
      s.setGrp gid { g with fx := (lanesOf (ls &&& g.all)).foldl (fun v l => vset v l (val v l)) g.fx }
    | .z tile es =>
      let k := match g.tkey.bind s.team with | some t => tileKey t g.width tile | none => 0
      let s := clearOlds s stAcc (tabulate es.length fun e => k + e)
      { s with acc := Store.putsD 0 s.acc k es }

/-- The write restricted to some lanes. -/
def PWrite.only (m : Mask) : PWrite → PWrite
  | .v r ls vs sh o => .v r (ls &&& m) vs (if ls &&& m == ls then sh else .top) o
  | .fxOr fs o => .fxOr (fs.mapIdx fun l f => if m.getLsbD l then f else 0) o
  | w => w

/-- Position of a lane among those of a mask (R159). -/
def position (eff : Mask) (lane : Nat) : Nat := popCount (eff &&& lowMask lane)

/-- Every write of a result lands; in lanes where no write that it overlaps has landed before, it lands whole. -/
def landAll (s : State) (gid : Nat) (lane : Bool) (keep : Mask) (met : List (Nat × Nat × Mask)) (ws : List PWrite) : State :=
  ws.foldl (fun s w => landWrite s gid keep (w.hit met) lane w) s

/-- The result leaves the stream's list. -/
def dropOut (g : Group) (lane : Bool) (id : Nat) : Group :=
  let x := g.str lane
  g.setStr lane { x with out := x.out.filter fun p => p.id != id }

/-- The results still outstanding take note of the overlapping writes that land (R34). -/
def noteLanded (g : Group) (lane : Bool) (ws : List PWrite) : Group :=
  let ks := ws.filterMap PWrite.met
  if ks.isEmpty then g
  else
    let x := g.str lane
    g.setStr lane { x with out := x.out.map fun p => { p with met := p.met ++ ks } }

/-- A value of a system register that other agents change (R92). -/
def sysNow (s : State) (gid : Nat) (g : Group) (num : Nat) : W32 :=
  let feat := vget s.feat (dieOf (coreOf gid))
  match num with
  | 0x003 => BitVec.ofNat 32 (g.ln.out.length * 256 + (g.sc.out.length - 1))
  | 0x008 => g.ccopy.zeroExtend 32
  | 0x009 => g.ctrav.zeroExtend 32
  | 0x00A => g.cattn.zeroExtend 32
  | 0x012 => bits feat 0 32
  | 0x013 => bits feat 32 32
  | 0x015 => bits s.gtc 32 32
  | 0x023 => bits (s.core (coreOf gid)).trapbase 0 32
  | _ => 0

/-- A stream goes on from an earlier word, which issues again: a lane stream is at its boundary, and its block has not
exited. -/
def Group.rewind (g : Group) (lane : Bool) (pc : Va) : Group :=
  if lane then { g with ctx := { g.ctx with lpc := pc, part := false, exited := false } } else { g with spc := pc }

/-- A mismatch found when a load or an atomic returns.  In a region that freezes, the team freezes at its word, which issues
again once the team is released (R345, R346); else the trap names its word, and when a trap of the other stream is pending
already, that word issues again after it (log entry 12).  pos: of an XLDE, the position, which the progress count takes
(R161). -/
def lateIntegrity (s : State) (gid : Nat) (g : Group) (lane : Bool) (p : Pending) (pos : Option Nat) (pa : Nat) (info : W32) :
    State :=
  let g := g.rewind lane p.pc
  let g := match pos with
    | some j => { g with ctx := { g.ctx with prog := j, counted := decide (j ≠ 0) } }
    | none => g
  if freezeRegion s pa then
    let g := { g with trap := g.trap.filter fun t => t.lane != lane }
    freezeTeam (s.setGrp gid g) gid g 2 pa
  else
    match g.trap with
    | none => raiseAt (s.setGrp gid g) gid g lane p.pc .integrity info pos.isSome
    | some t =>
      if t.lane == lane then s.setGrp gid { g with trap := some ⟨Cause.integrity.code, info, lane, p.pc, pos.isSome⟩ }
      else s.setGrp gid g

/-- The writes of a result as they land: those of an SMFS deferred to its return have the register's value now (R92). -/
def landing (s : State) (gid : Nat) (g : Group) (p : Pending) : List PWrite :=
  match p.kind with
  | .sysreg n =>
    if p.unsampled == 0 then p.writes
    else
      let v := sysNow s gid g n
      p.writes.map fun w => match w with | .s key _ _ o => .s key v (Shadow.exact v) o | w => w
  | _ => p.writes

/-- A result leaves its stream, and the registers it wrote, if any, are what the blocks that wait for it see. -/
def leave (s : State) (gid : Nat) (lane : Bool) (id : Nat) : State :=
  if lane then s else s.updGrp gid fun g => g.dueLands id

/-- Whether a result reads anything before it returns. -/
def PKind.reads : PKind → Bool
  | .plain | .atomic | .sysreg _ => false
  | _ => true

/-- A load that returns finds a sector that mismatches: no register is written, but for the lanes of an XLDE below the
mismatching position (R157, R161). -/
def returnBad (s : State) (gid : Nat) (lane : Bool) (keep : Mask) (p : Pending) (ws : List PWrite) (e : LoadElt) : State :=
  let xl := p.kind == .expand
  let s := s.updGrp gid fun g => dropOut g lane p.id
  let ws := if xl then ws.map (PWrite.only (lowMask e.lane)) else []
  let s := leave (landAll (s.updGrp gid fun g => noteLanded g lane ws) gid lane keep p.met ws) gid lane p.id
  let j := position p.eff e.lane
  match s.grp gid with
  | some g =>
    enterTrap (lateIntegrity s gid g lane p (if xl then some j else none) e.pa (integInfo (if xl then j else 0) e.lane)) gid
  | none => s

/-- A result lands, and a mismatch that its atomics have met is raised (R162). -/
def returnGood (s : State) (gid : Nat) (g : Group) (lane : Bool) (keep : Mask) (p : Pending) : State :=
  let ws := landing s gid g p
  let s := s.setGrp gid (noteLanded (dropOut g lane p.id) lane ws)
  let s := leave (landAll s gid lane keep p.met ws) gid lane p.id
  let s :=
    if p.bad != 0 then
      match s.grp gid with
      | some g => lateIntegrity s gid g lane p none (((p.elts.find? fun e => p.bad.getLsbD e.lane).map (·.pa)).getD 0)
          (integInfo 0 (lowBit 64 p.bad.toNat))
      | none => s
    else s
  enterTrap s gid

/-- Read what a result is still to read, of some lanes: the state, and what was read.  Its stream's covers grow, and so do
those that it is in already (R251). -/
def readMore (s : State) (gid : Nat) (g : Group) (lane : Bool) (late : Mask) (p : Pending) : State × Sampled :=
  if !p.kind.reads then (s, ⟨p, [], [], []⟩)
  else
    let s := resolveElts s p.kind (p.elts.filter fun e => p.unsampled.getLsbD e.lane)
    let r := sampleSome s gid g lane (if late == 0 then BitVec.allOnes 64 else late) p
    let s := coverFollows (afterRead s gid g p r.res) p.id r.cov
    (s.updGrp gid fun g =>
      let x := g.str lane
      let x := x.gain s r.cov
      g.setStr lane { x with
        seen := liveRels s (x.seen ++ r.rels),
        out := x.out.map fun q => if q.id == p.id then r.res else q }, r)

/-- Result k of a stream returns: of what is still to be read, the lanes of `late` are read, all of them when it is empty;
when none is left the result lands, and a trap whose results have all returned is entered (R248, R316). -/
def returnResult (s : State) (gid : Nat) (lane : Bool) (k : Nat) (keep late : Mask) : State :=
  match (s.grp gid).bind fun g => (g.str lane).out[k]?.map fun p => (g, p) with
  | none => s
  | some (g, p) =>
    let (s, r) := readMore s gid g lane late p
    if p.kind.reads && r.res.unreadAny then
      askElts s (coreOf gid) (if late == 0 then BitVec.allOnes 64 else late) r.res
    else if !p.waiting.isEmpty then s
    else
      match r.bad, s.grp gid with
      | e :: _, _ => returnBad s gid lane keep p r.res.writes e
      | [], some g => returnGood s gid g lane keep r.res
      | [], none => s

end Sys2Proof.Machine
end

