-- ==== Sys2Proof/Machine/ScalarMem.lean ====
section
/-!
DEFINITION. ScalarMem.lean: SLD and SST (spec/07_scalar_instructions.md R103), MWAIT (R108), and SFENCE (R115).
-/
namespace Sys2Proof.Machine

open Sys2Proof

/-- Index, interval and checks of a scalar access (R103): none when a trap is raised instead. -/
structure SAccess where
  elt  : ARegVal
  addr : Option Nat
  deriving DecidableEq, Repr

/-- Form a scalar access: the operand and bounds traps, else the address, none when it is dropped (R103).  An odd d of an 8-byte
access is R103's operand trap, although R67 says that no instruction raises one for an odd pair (log entry 84: DEDUCED). -/
def scalarAccess (s : State) (gid : Nat) (g : Group) (d : BitVec 6) (n : BitVec 4) (b : BitVec 6) (off : BitVec 7)
    (k : ARegVal → Option Nat → State) : State :=
  let a := vget g.a n.toNat
  let x := sRead s.picks g b.toNat
  let i := x.1.toInt + off.toInt
  let iv := x.2.shift off.toInt off.toInt
  if aEsz a == 8 && d.toNat % 2 == 1 then raiseS s gid g .operand (opInfo 14)
  else if aBase a % aEsz a != 0 then raiseS s gid g .operand (opInfo 14)
  else if !insideA a iv && outA a i && aMode a == 1 then raiseS s gid g .bounds (boundsInfo false n.toNat 0)
  else k a ((modeIndex a (!insideA a iv) i).map (eltAddr a))

/-- Go on with the translated address of a scalar access. -/
def scalarPa (s : State) (gid : Nat) (g : Group) (acc : Acc) (va : Nat) (k : State → Nat → TlbEntry → State) : State :=
  translated s gid g acc [(0, va)] fun s ps =>
    match ps with
    | p :: _ => k s p.2.1 p.2.2
    | [] => s

def execSld (d : BitVec 6) (n : BitVec 4) (b : BitVec 6) (off : BitVec 7) (sw : Bool) (s : State) :
    Host.Outcome State Fault Refusal :=
  withCur s fun gid g =>
    scalarAccess s gid g d n b off fun a addr =>
      if g.sc.blocked s || g.sc.full then s
      else
        let e := aEsz a
        let regs := if e = 8 then [d.toNat, d.toNat + 1] else [d.toNat]
        let ws := regs.map fun r => PWrite.s (g.sKey r) 0 .top false
        match addr with
        | none => issueS s gid g (regs.map fun r => (r, 0, .top)) (g.spc + 4) sw
        | some va =>
          scalarPa s gid g .read va fun s pa _ =>
            let s := countLines s (dieOf (coreOf gid)) pa 1
            issueLoad s gid g false
              { plainPending 0 0 ws with kind := .homeLoad, elts := [⟨0, pa, e, false⟩] } (fun hot g => g.nextS (sw || hot))

def execSst (d : BitVec 6) (n : BitVec 4) (b : BitVec 6) (off : BitVec 7) (sw : Bool) (s : State) :
    Host.Outcome State Fault Refusal :=
  withCur s fun gid g =>
    scalarAccess s gid g d n b off fun a addr =>
      if g.sc.blocked s then s
      else
        match addr with
        | none => s.setGrp gid (g.nextS sw)
        | some va =>
          scalarPa s gid g .write va fun s pa e =>
            let v := if aEsz a = 8 then (sPair s.picks g d.toNat).toNat else (sVal s.picks g d.toNat).toNat
            let s := countLines s (dieOf (coreOf gid)) pa 1
            let r := mkReq s gid g false (.store pa (leBytes (aEsz a) v)) (replMask e) none
            sendReqs (s.setGrp gid (g.nextS sw)) gid false [r]

/-! ## MWAIT (R108) -/

def mcmpHolds (c : MCmp) (x v : W64) : Bool :=
  match c with
  | .eq => x == v
  | .ne => x != v
  | .gen => decide (v.toNat ≤ x.toNat)

/-- The scalar stream's wait is over: it goes on at pc, parks if sw asks for it, and a stepped stream traps. -/
def endWait (s : State) (gid : Nat) (lane : Bool) (pc : Va) : State :=
  match s.grp gid with
  | none => s
  | some g =>
    let x := g.str lane
    let g := { g.setStr lane { x with wait := none, wsw := false } with noBp := if g.noBp == some lane then none else g.noBp }
    let s := s.setGrp gid (if lane then g.goL pc x.wsw else g.goS pc x.wsw)
    stepTrap s gid lane

/-- The scalar stream begins to wait at its word. -/
def Group.waitS (g : Group) (w : Wait) (sw : Bool) : Group := { g with sc := { g.sc with wait := some w, wsw := sw } }

/-- One read of the stamp: at the point of coherence, behind the core's own writes to the line.  When the condition
holds, the wait is over; with acq, what the observed release covers joins the covers. -/
def mwaitRead (s : State) (gid : Nat) (cmp : MCmp) (acq : Option Scope) (addr : Nat) (v : W64) : State :=
  match s.grp gid with
  | none => s
  | some g =>
    scalarPa s gid g .read addr fun s pa _ =>
      let s := resolve s (pa / 128)
      match coherentRead s (coreOf gid) s.nextId pa 8 with
      | none => askRead s (pa / 128)
      | some (bs, bad, _) =>
        if bad then integrity s gid g false g.spc pa (integInfo 0 0)
        else if mcmpHolds cmp (ofBytes 64 bs) v then
          let rs := relsRead s pa 8 []
          endWait (s.setGrp gid { g with sc := { g.sc.gain s (acqCover gid g acq rs) with
            seen := liveRels s (g.sc.seen ++ rs) } }) gid false (g.spc + 4)
        else s

def execMwait (cmp : MCmp) (acq : Option Scope) (a b : BitVec 6) (sw : Bool) (s : State) :
    Host.Outcome State Fault Refusal :=
  withCur s fun gid g =>
    let addr := (sPair s.picks g a.toNat).toNat
    let v := sPair s.picks g b.toNat
    if addr % 8 != 0 then raiseS s gid g .operand (opInfo 20)
    else if g.sc.blocked s then s
    else mwaitRead (s.setGrp gid (g.waitS (.mwait cmp acq addr v) sw)) gid cmp acq addr v

/-- The wait reads its stamp again (R108). -/
def execMwaitReread (gid : Nat) (s : State) : Host.Outcome State Fault Refusal :=
  done (match (s.grp gid).bind fun g => if g.halted || g.tstop || g.trap.isSome then none else g.sc.wait with
    | some (.mwait cmp acq addr v) => mwaitRead s gid cmp acq addr v
    | _ => s)

/-! ## Fences (R253) -/

/-- The outstanding reads of a stream are acquires at a scope, and so are those that have returned (R252). -/
def acquireReads (s : State) (gid : Nat) (g : Group) (sc : Scope) (x : Stream) : Stream :=
  { x.gain s (acqCover gid g (some sc) x.seen) with
    out := x.out.map fun p => if p.kind == .plain then p else { p with acq := some (wider p.acq sc) } }

/-- What a fence adds to its stream's obligations.  .ACQ: later accesses follow the outstanding reads, and the reads before it
are acquires.  .REL: later writes follow every earlier access.  .FULL: both, and later reads follow the visibility of earlier
writes, of those to replicated pages at any scope (R252, R253, R255). -/
def fenceStream (s : State) (gid : Nat) (g : Group) (lane : Bool) (ord : FOrd) (sc : Scope) : Stream :=
  let far := farScope s g sc
  let acq := fun (x : Stream) (ids : List Nat) =>
    let x := acquireReads s gid g sc x
    { x with acq := live s x.acq ++ ids }
  let rel := fun (x : Stream) =>
    { x with rel := (x.rel.filter fun f => f.cover.any (pendingId s)) ++ [⟨x.covered s, sc, far⟩] }
  let x := g.str lane
  match ord with
  | .acq => acq x x.reads
  | .rel => rel x
  | .full =>
    let c := x.covered s
    rel (acq x (x.reads ++ (if far then c else replPending s c)))

/-- A fence performs the group's scratchpad stores, when writes after it are releases (R251). -/
def fenced (s : State) (gid : Nat) (ord : FOrd) : State := if ord == .acq then s else released s gid

def execSfence (ord : FOrd) (sc : Scope) (sw : Bool) (s : State) : Host.Outcome State Fault Refusal :=
  withCur s fun gid g =>
    (fenced s gid ord).setGrp gid (({ g with sc := fenceStream s gid g false ord sc } : Group).nextS sw)

end Sys2Proof.Machine
end

