-- ==== Sys2Proof/Machine/ScalarCtl.lean ====
section
/-!
DEFINITION. ScalarCtl.lean: system registers, lane control, waits, team synchronisation, quotas, traps and ending
(spec/07_scalar_instructions.md R88 to R93, R104, R105, R107, R109 to R113, R116 to R118; R10, R42, R319).
-/
namespace Sys2Proof.Machine

open Sys2Proof

/-! ## System registers (R88, R91, R92) -/

/-- EXM as SMFS reads it: of the interrupted lane stream in handler mode (R92). -/
def exmSeen (g : Group) : Mask := match g.saved with | some (_, c) => c.exm | none => g.ctx.exm

/-- Base and word length of the code the trap registers name, by TRAPCAUSE.stream (R319). -/
def trapBaseUnit (s : State) (g : Group) : Nat × Nat :=
  if bit g.tcause 8 then ((s.desc g).lbase, 12) else ((s.desc g).sentry, 4)

/-- TRAPPC: the stream, and the word offset of the full trap address, −2^30 where there is none (R319). -/
def trappcVal (s : State) (g : Group) : W32 :=
  let (base, unit) := trapBaseUnit s g
  let d : Int := (g.tpc.toNat : Int) - base
  let off : Int :=
    if d % unit ≠ 0 then -1073741824
    else if d / unit ≤ -1073741824 ∨ 1073741824 ≤ d / unit then -1073741824
    else d / unit
  (BitVec.ofBool (bit g.tcause 8)) ++ BitVec.ofInt 31 off

/-- WLOC (R14). -/
def wlocVal (s : State) (g : Group) : W32 :=
  match g.tkey.bind s.team with
  | some t => BitVec.ofNat 32 (t.accbase * 2 ^ 24 + t.spbase * 2 ^ 12 + g.row0)
  | none => BitVec.ofNat 32 g.row0

/-- The value of a system register (R88).  Every die's global time counter is the one State.gtc, with no skew, which R10 allows
up to one count (log entry 91: DESIGN CHOICE). -/
def sysVal (s : State) (gid : Nat) (g : Group) (num : Nat) : W32 :=
  let core := coreOf gid
  let feat := vget s.feat (dieOf core)
  match num with
  | 0x000 => g.mode
  | 0x001 => g.role.zeroExtend 32
  | 0x002 => BitVec.ofNat 32 g.width
  | 0x003 => BitVec.ofNat 32 (g.ln.out.length * 256 + g.sc.out.length)
  | 0x004 => bits (exmSeen g) 0 32
  | 0x005 => bits (exmSeen g) 32 32
  | 0x008 => g.ccopy.zeroExtend 32
  | 0x009 => g.ctrav.zeroExtend 32
  | 0x00A => g.cattn.zeroExtend 32
  | 0x010 => wlocVal s g
  | 0x011 => BitVec.ofNat 32 (dieOf core * 64 + core % 48)
  | 0x012 => bits feat 0 32
  | 0x013 => bits feat 32 32
  | 0x014 => bits s.gtc 0 32
  | 0x015 => g.latch.getD (bits s.gtc 32 32)
  | 0x020 => trappcVal s g
  | 0x021 => g.tcause
  | 0x022 => g.tinfo
  | 0x023 => bits (s.core core).trapbase 0 32
  | 0x024 => bits g.tpc 0 32
  | 0x025 => (bits g.tpc 32 25).zeroExtend 32
  | _ => 0

/-- The kind of the result of an SMFS: what others change, GTCHI where no latch stands, is sampled between issue and the write
(R92).  GTCLO is sampled at issue, with the latch (log entry 17: DEDUCED). -/
def sysKind (g : Group) (num : Nat) : PKind :=
  if num ∈ [0x003, 0x008, 0x009, 0x00A, 0x012, 0x013, 0x023] ∨ num = 0x015 ∧ g.latch = none then .sysreg num else .plain

/-- The GTCHI latch after a read of a system register (R10). -/
def sysLatch (s : State) (g : Group) (num : Nat) : Group :=
  if num = 0x014 then { g with latch := some (bits s.gtc 32 32) }
  else if num = 0x015 then { g with latch := none }
  else g

/-- Read a system register into s[d] (R92). -/
def smfsGo (s : State) (gid : Nat) (g : Group) (d : BitVec 6) (num : Nat) (sw : Bool) : State :=
  if (num = 4 ∨ num = 5) ∧ ¬ g.handler ∧ ¬ g.laneIdle then s
  else if g.sc.full then s
  else
    let v := sysVal s gid g num
    issueSK s gid (sysLatch s g num) (sysKind g num) [(d.toNat, v, Shadow.exact v)] (g.spc + 4) sw

def execSmfs (d : BitVec 6) (num : BitVec 13) (sw : Bool) (s : State) : Host.Outcome State Fault Refusal :=
  withCur s fun gid g => smfsGo s gid g d num.toNat sw
def execGtcloRead (d : BitVec 6) (sw : Bool) (s : State) : Host.Outcome State Fault Refusal :=
  withCur s fun gid g => smfsGo s gid g d 0x014 sw
def execGtchiRead (d : BitVec 6) (sw : Bool) (s : State) : Host.Outcome State Fault Refusal :=
  withCur s fun gid g => smfsGo s gid g d 0x015 sw

/-- The trap address that a write leaves must be a multiple of 4 (R319). -/
def setTpc (s : State) (gid : Nat) (g : Group) (pc : Va) (sw : Bool) : State :=
  if bits pc 0 2 != 0 then raiseS s gid g .operand (opInfo 14)
  else s.setGrp gid (({ g with tpc := pc, tpcWr := true } : Group).nextS sw)

def writeMode (s : State) (gid : Nat) (g : Group) (v : W32) (sw : Bool) : State :=
  if bits v 13 19 != 0 || bits v 6 2 != 0 || decide (6 ≤ (bits v 0 3).toNat) then raiseS s gid g .operand (opInfo 14)
  else s.setGrp gid (({ g with mode := v } : Group).nextS sw)

/-- Replace half of the EXM that ERET restores, ANDed with live (R92). -/
def writeExm (s : State) (gid : Nat) (g : Group) (hi : Bool) (v : W32) (sw : Bool) : State :=
  match g.saved with
  | none => s
  | some (pc, c) =>
    let m : Mask := if hi then v ++ bits c.exm 0 32 else bits c.exm 32 32 ++ v
    s.setGrp gid (({ g with saved := some (pc, { c with exm := m &&& g.live }) } : Group).nextS sw)

def writeTrappc (s : State) (gid : Nat) (g : Group) (v : W32) (sw : Bool) : State :=
  let (base, unit) := trapBaseUnit s g
  let off : BitVec 31 := bits v 0 31
  setTpc s gid g (BitVec.ofInt 57 ((base : Int) + unit * off.toInt)) sw

def writeTrappclo (s : State) (gid : Nat) (g : Group) (v : W32) (sw : Bool) : State :=
  setTpc s gid g (bits g.tpc 32 25 ++ v) sw

def writeTrappchi (s : State) (gid : Nat) (g : Group) (v : W32) (sw : Bool) : State :=
  if bits v 25 7 != 0 then raiseS s gid g .operand (opInfo 14)
  else setTpc s gid g (bits v 0 25 ++ bits g.tpc 0 32) sw

def writeTrapinfo (s : State) (gid : Nat) (g : Group) (v : W32) (sw : Bool) : State :=
  s.setGrp gid (({ g with tinfo := v } : Group).nextS sw)

/-- Write a system register (R92). -/
def smtsGo (s : State) (gid : Nat) (g : Group) (num : Nat) (v : W32) (sw : Bool) : State :=
  match num with
  | 0x000 => writeMode s gid g v sw
  | 0x004 => writeExm s gid g false v sw
  | 0x005 => writeExm s gid g true v sw
  | 0x020 => writeTrappc s gid g v sw
  | 0x022 => writeTrapinfo s gid g v sw
  | 0x024 => writeTrappclo s gid g v sw
  | 0x025 => writeTrappchi s gid g v sw
  | _ => s

def execSmts (a : BitVec 6) (num : BitVec 13) (sw : Bool) (s : State) : Host.Outcome State Fault Refusal :=
  withCur s fun gid g => smtsGo s gid g num.toNat (sVal s.picks g a.toNat) sw
def execModeWrite (a : BitVec 6) (sw : Bool) (s : State) : Host.Outcome State Fault Refusal :=
  withCur s fun gid g => writeMode s gid g (sVal s.picks g a.toNat) sw

/-- Outside handler mode the number is unassigned: reason 5, at imm13 (R88). -/
def inHandler (s : State) (gid : Nat) (g : Group) (k : State) : State :=
  if g.handler then k else raiseS s gid g .illegal (illegalInfo false 5 1)

def execExmloWrite (a : BitVec 6) (sw : Bool) (s : State) : Host.Outcome State Fault Refusal :=
  withCur s fun gid g => inHandler s gid g (writeExm s gid g false (sVal s.picks g a.toNat) sw)
def execExmhiWrite (a : BitVec 6) (sw : Bool) (s : State) : Host.Outcome State Fault Refusal :=
  withCur s fun gid g => inHandler s gid g (writeExm s gid g true (sVal s.picks g a.toNat) sw)
def execTrappcWrite (a : BitVec 6) (sw : Bool) (s : State) : Host.Outcome State Fault Refusal :=
  withCur s fun gid g => inHandler s gid g (writeTrappc s gid g (sVal s.picks g a.toNat) sw)
def execTrappcloWrite (a : BitVec 6) (sw : Bool) (s : State) : Host.Outcome State Fault Refusal :=
  withCur s fun gid g => inHandler s gid g (writeTrappclo s gid g (sVal s.picks g a.toNat) sw)
def execTrappchiWrite (a : BitVec 6) (sw : Bool) (s : State) : Host.Outcome State Fault Refusal :=
  withCur s fun gid g => inHandler s gid g (writeTrappchi s gid g (sVal s.picks g a.toNat) sw)
def execTrapinfoWrite (a : BitVec 6) (sw : Bool) (s : State) : Host.Outcome State Fault Refusal :=
  withCur s fun gid g => inHandler s gid g (writeTrapinfo s gid g (sVal s.picks g a.toNat) sw)

/-! ## Lane control (R28, R30, R104, R105) -/

/-- Scalar results outstanding, with the number of the S register that each writes. -/
def dueOf (g : Group) : List (Nat × Nat) :=
  g.sc.out.flatMap fun p => p.writes.filterMap fun w =>
    match w with
    | .s k _ _ _ => some (p.id, sNum k)
    | _ => none

/-- What a block captures at its LRUN: MODE, every S and A register as last written, the scalar results that it sees once
they have returned (R31, R93), and what the scalar accesses before it leave for its accesses to follow (R32). -/
def captureBlock (s : State) (g : Group) (addr : Va) : Block :=
  ⟨addr, g.mode, tabulate 64 fun n => (newestS g n).1, tabulate 64 fun n => (newestS g n).2, g.a.toList, dueOf g,
    live s g.sc.cov, g.sc.rel, live s (g.sc.acq ++ g.sc.reads)⟩

def execLrun (idx : BitVec 19) (sw : Bool) (s : State) : Host.Outcome State Fault Refusal :=
  withCur s fun gid g =>
    if 8 ≤ g.ctx.queue.length + (if g.ctx.running.isSome then 1 else 0) then s
    else
      let b := captureBlock s g (BitVec.ofNat 57 ((s.desc g).lbase + 12 * idx.toNat))
      s.setGrp gid (({ g with ctx := { g.ctx with queue := g.ctx.queue ++ [b] } } : Group).nextS sw)

/-- What LSYNC brings: lane writes to S registers are seen, and the blocks' accesses precede later scalar ones
(R30 to R32). -/
def lsynced (s : State) (g : Group) : Group :=
  let g := g.publish
  { g with sc := { g.sc with
      cov := live s (g.sc.cov ++ g.ln.cov), acq := live s (g.sc.acq ++ g.ln.acq),
      seen := liveRels s (g.sc.seen ++ g.ln.seen) } }

def execLsync (sw : Bool) (s : State) : Host.Outcome State Fault Refusal :=
  withCur s fun gid g => if g.laneIdle then s.setGrp gid ((lsynced s g).nextS sw) else s

/-! ## Counter waits (R107, R109, R283) -/

def counter (g : Group) : Ctr → BitVec 16
  | .ccopy => g.ccopy
  | .ctrav => g.ctrav
  | .cattn => g.cattn

/-- (C − T) mod 2^16 < 2^15. -/
def counterMet (c t : BitVec 16) : Bool := !(c - t).msb

def execCwait (ctr : Ctr) (a : BitVec 6) (sw : Bool) (s : State) : Host.Outcome State Fault Refusal :=
  withCur s fun gid g =>
    let t : BitVec 16 := (sVal s.picks g a.toNat).truncate 16
    if counterMet (counter g ctr) t then s.setGrp gid (g.nextS sw) else s.setGrp gid (g.waitS (.cwait ctr t) sw)

/-- A group that waits is not halted, and no trap is pending. -/
def mayWake (g : Group) : Bool := !g.halted && !g.tstop && g.trap.isNone

def execCounterWaitMet (gid : Nat) (lane : Bool) (s : State) : Host.Outcome State Fault Refusal :=
  done (match s.grp gid with
    | some g =>
      match (g.str lane).wait with
      | some (.cwait ctr t) =>
        if mayWake g && counterMet (counter g ctr) t then
          endWait s gid lane (if lane then g.ctx.lpc + 12 else g.spc + 4)
        else s
      | _ => s
    | none => s)

def execYield (ctr : Ctr) (a b : BitVec 6) (sw : Bool) (s : State) : Host.Outcome State Fault Refusal :=
  withCur s fun gid g =>
    if !g.laneIdle then s
    else
      let t : BitVec 16 := (sVal s.picks g a.toNat).truncate 16
      let c := sPair s.picks g b.toNat
      if !codeTarget c then raiseS s gid g .illegal (illegalInfo false 7 0)
      else
        let g := lsynced s g
        if counterMet (counter g ctr) t then s.setGrp gid (g.goS (c.truncate 57) sw)
        else s.setGrp gid (g.waitS (.yield ctr t (c.truncate 57)) sw)

def execYieldReactivate (gid : Nat) (s : State) : Host.Outcome State Fault Refusal :=
  done (match s.grp gid with
    | some g =>
      match g.sc.wait with
      | some (.yield ctr t cont) => if mayWake g && counterMet (counter g ctr) t then endWait s gid false cont else s
      | _ => s
    | none => s)

/-! ## Barriers (R110) -/

def barAt (t : Team) (n : Nat) : Barrier := nthD default t.bars n
def setBar (t : Team) (n : Nat) (b : Barrier) : Team :=
  { t with bars := tabulate 16 fun i => if i = n then b else barAt t i }

/-- A release at TEAM scope may be sent: reads have returned, and, when the team is paired, writes are performed
(R251). -/
def teamRelease (s : State) (g : Group) : Bool :=
  g.sc.reads.isEmpty && (!farScope s g .team || (g.sc.covered s).isEmpty)

/-- The group has arrived already: it waits again for the same phase, or leaves when that phase is over (R316). -/
def barAgain (s : State) (gid : Nat) (g : Group) (t : Team) (n : Nat) (ph : Bool) (sw : Bool) : State :=
  let b := barAt t n
  if b.phase == ph then s.setGrp gid (g.waitS (.bar n) sw)
  else
    let g := { g with arrived := none, sc := g.sc.gain s b.cov }
    s.setGrp gid (g.nextS sw)

/-- Arrive at a barrier, with release semantics at TEAM scope. -/
def barArrive (s : State) (gid : Nat) (g : Group) (k : Nat) (t : Team) (n c : Nat) (sw : Bool) : State :=
  let b := barAt t n
  if !b.arr.isEmpty && b.arr.length == b.count then s
  else if !b.arr.isEmpty && b.count != c then raiseS s gid g .operand (opInfo 14)
  else
    let g := lsynced s g
    if !teamRelease s g then s
    else
      let s := released s gid
      let b := { b with count := c, arr := b.arr ++ [g.gidx], cov := live s (b.cov ++ g.sc.covered s) }
      (s.updTeam k fun t => setBar t n b).setGrp gid { g.waitS (.bar n) sw with arrived := some (n, b.phase) }

def execBar (a : BitVec 6) (n : BitVec 4) (sw : Bool) (s : State) : Host.Outcome State Fault Refusal :=
  withCur s fun gid g =>
    match g.tkey with
    | none => raiseS s gid g .role (roleInfo g)
    | some k =>
      match s.team k with
      | none => s
      | some t =>
        match g.arrived with
        | some (m, ph) => if m = n.toNat then barAgain s gid g t m ph sw else s
        | none =>
          let c := (sVal s.picks g a.toNat).toNat
          if c < 1 ∨ (s.desc g).groups < c then raiseS s gid g .operand (opInfo 14)
          else if !g.laneIdle then s
          else barArrive s gid g k t n.toNat c sw

/-- The phase's arrivals are complete: its groups leave with acquire semantics and the next phase begins. -/
def leaveBar (s : State) (lid : Nat) (tid : Option Nat) (n : Nat) (ph : Bool) (cov : List Nat) : State :=
  (s.groups.filter fun e => e.2.lid == lid && e.2.tid == tid && e.2.arrived == some (n, ph)
      && e.2.sc.wait == some (.bar n)).foldl
    (fun s e =>
      let s := s.updGrp e.1 fun g => { g with arrived := none, sc := g.sc.gain s cov }
      endWait s e.1 false (e.2.spc + 4)) s

def execBarrierRelease (team bar : Nat) (s : State) : Host.Outcome State Fault Refusal :=
  done (match s.team team with
    | none => s
    | some t =>
      let b := barAt t bar
      if bar < 16 ∧ b.arr.length = b.count ∧ 0 < b.count then
        let s := s.updTeam team fun t => setBar t bar ⟨0, [], !b.phase, b.cov⟩
        leaveBar s t.lid t.tid bar b.phase b.cov
      else s)

/-! ## Stage rings (R111, R112) -/

/-- A stage word: its address, nst of its ring (R111). -/
def stageAddr (x st : Nat) : Nat := x + 8 + 4 * st
/-- A stage word, and the number of stages, as a reader finds them; me: the source number of its own writes (R21). -/
def stageWord (s : State) (me : Nat) (d : KDesc) (t : Team) (x st : Nat) : W32 :=
  ofBytes 32 (spadBytes s me d t (stageAddr x st) 4)
def ringN (s : State) (me : Nat) (d : KDesc) (t : Team) (x : Nat) : Nat := leNat (spadBytes s me d t x 2)
/-- After a group has read a stage word, the writes that it has seen are performed (R250). -/
def stageSeen (s : State) (gid : Nat) (d : KDesc) (t : Team) (x st : Nat) : State :=
  readSpad s (spadSrc gid) (spadWords d t (stageAddr x st) 4)

/-- One arrival at a stage word: need and have as R112 counts them; none: rejected. -/
def arrive (w : W32) : Option W32 :=
  let need := (bits w 8 8).toNat
  let have_ := (bits w 0 8).toNat
  if need = 0 ∨ need ≤ have_ then none
  else if have_ + 1 = need then some ((w ^^^ 0x80000000#32) &&& 0xFFFFFF00#32)
  else some (w + 1)

/-- The releases counted at a stage word gain covers (R281). -/
def addRing (t : Team) (a : Nat) (cov : List Nat) : Team :=
  { t with rings := (t.rings.filter fun r => r.1 != a) ++
      [(a, ((t.rings.filter fun r => r.1 == a).flatMap (·.2)) ++ cov)] }
def ringCov (t : Team) (a : Nat) : List Nat := (t.rings.filter fun r => r.1 == a).flatMap (·.2)

/-- The group is in a team; a spawned group violates the role (R27). -/
def inTeam (s : State) (gid : Nat) (g : Group) (lane : Bool) (k : Nat → Team → State) : State :=
  match g.tkey with
  | none => raise s gid g lane .role (roleInfo g)
  | some key =>
    match s.team key with
    | some t => k key t
    | none => s

/-- The stage passes: acquire at TEAM scope of every release counted there. -/
def stagePass (s : State) (gid : Nat) (g : Group) (t : Team) (x st : Nat) (sw : Bool) : State :=
  let g := { g with sc := { g.sc.gain s (ringCov t (stageAddr x st)) with wait := none } }
  (stageSeen s gid (s.desc g) t x st).setGrp gid (g.nextS sw)

def execStgacq (a : BitVec 6) (st : BitVec 12) (sw : Bool) (s : State) : Host.Outcome State Fault Refusal :=
  withCur s fun gid g =>
    inTeam s gid g false fun _ t =>
      let v := sVal s.picks g a.toNat
      let x := (v &&& 0xFFFFFFF8#32).toNat
      let d := s.desc g
      if d.spq < stageAddr x st.toNat + 4 then raiseS s gid g .operand (opInfo 1)
      else if ringN s (spadSrc gid) d t x ≤ st.toNat then raiseS s gid g .operand (opInfo 1)
      else if bits v 1 2 != 0 then raiseS s gid g .operand (opInfo 14)
      else if bit (stageWord s (spadSrc gid) d t x st.toNat) 31 == bit v 0 then stagePass s gid g t x st.toNat sw
      else s.setGrp gid (g.waitS (.stg x st.toNat (bit v 0)) sw)

def execStagePhaseObserved (gid : Nat) (s : State) : Host.Outcome State Fault Refusal :=
  done (match s.grp gid with
    | some g =>
      match g.sc.wait, g.tkey.bind s.team with
      | some (.stg x st ph), some t =>
        if mayWake g && bit (stageWord s (spadSrc gid) (s.desc g) t x st) 31 == ph then
          endWait ((stageSeen s gid (s.desc g) t x st).setGrp gid
            { g with sc := g.sc.gain s (ringCov t (stageAddr x st)) })
            gid false (g.spc + 4)
        else s
      | _, _ => s
    | none => s)

def execStgrel (a : BitVec 6) (st : BitVec 12) (sw : Bool) (s : State) : Host.Outcome State Fault Refusal :=
  withCur s fun gid g =>
    inTeam s gid g false fun k t =>
      let v := sVal s.picks g a.toNat
      let x := (v &&& 0xFFFFFFF8#32).toNat
      let d := s.desc g
      if d.spq < stageAddr x st.toNat + 4 then raiseS s gid g .operand (opInfo 1)
      else if ringN s (spadSrc gid) d t x ≤ st.toNat then raiseS s gid g .operand (opInfo 1)
      else if bits v 0 3 != 0 then raiseS s gid g .operand (opInfo 14)
      else if !g.laneIdle then s
      else
        let g := lsynced s g
        if !teamRelease s g then s
        else
          match arrive (stageWord s (spadSrc gid) d t x st.toNat) with
          | none => raiseS s gid g .operand (opInfo 1)
          | some w =>
            let s := spadWrite (stageSeen (released s gid) gid d t x st.toNat) d t (stageAddr x st.toNat) (bytesOf w)
            let s := s.updTeam k fun t => addRing t (stageAddr x st.toNat) (g.sc.covered s)
            s.setGrp gid (g.nextS sw)

/-! ## Quotas (R42, R113) -/

/-- Rows that a group's current quota holds. -/
def heldRows (g : Group) : Nat × Nat := (g.row0, g.row0 + rowsOf g.width g.q)

/-- Rows of the spawn slots reserved on a core (R279). -/
def reservedRows (s : State) (core : Nat) : List (Nat × Nat) :=
  s.launches.flatMap fun l => (l.2.spawn.filter fun r => r.core == core).flatMap fun r =>
    r.slots.map fun x => (x.2, x.2 + rowsOf l.2.desc.width l.2.desc.sqmax)

/-- Two row spans meet. -/
def rowsMeet (a b : Nat × Nat) : Bool := decide (a.1 < b.2) && decide (b.1 < a.2)

/-- Rows that a GROW to q wants. -/
def wantedRows (g : Group) (q : Nat) : Nat × Nat := (g.row0 + rowsOf g.width g.q, g.row0 + rowsOf g.width q)

/-- The rows are free, and no older blocked GROW on the core wants one of them; a GROW that needs no row has them (R42). -/
def growFree (s : State) (gid : Nat) (g : Group) (q seq : Nat) : Bool :=
  let w := wantedRows g q
  let core := coreOf gid
  decide (w.2 ≤ w.1) ||
  (!(s.groups.any fun e => coreOf e.1 == core && e.1 != gid &&
      (rowsMeet w (heldRows e.2) ||
        (match e.2.sc.wait with
         | some (.grow q' seq') => decide (seq' < seq) && rowsMeet w (wantedRows e.2 q')
         | _ => false)))) &&
    (g.spawned || !(reservedRows s core).any (rowsMeet w))

/-- GROW takes effect: the new registers hold undefined contents. -/
def growTo (s : State) (gid : Nat) (g : Group) (q : Nat) : State :=
  receive s gid { g with q := q } g.q q

def execGrow (q : BitVec 12) (sw : Bool) (s : State) : Host.Outcome State Fault Refusal :=
  withCur s fun gid g =>
    let n := q.toNat
    if n = g.q then s.setGrp gid (g.nextS sw)
    else if n = 0 ∨ g.qmax < n ∨ n < g.q then raiseS s gid g .quota (quotaInfo 2 n)
    else if growFree s gid g n s.nextId then growTo s gid (g.nextS sw) n
    else ({ s with nextId := s.nextId + 1 } : State).setGrp gid (g.waitS (.grow n s.nextId) sw)

def execGrowGrant (gid : Nat) (s : State) : Host.Outcome State Fault Refusal :=
  done (match s.grp gid with
    | some g =>
      match g.sc.wait with
      | some (.grow q seq) =>
        if mayWake g && growFree s gid g q seq then endWait (growTo s gid g q) gid false (g.spc + 4) else s
      | _ => s
    | none => s)

def execShrink (q : BitVec 12) (sw : Bool) (s : State) : Host.Outcome State Fault Refusal :=
  withCur s fun gid g =>
    let n := q.toNat
    if n = g.q then s.setGrp gid (g.nextS sw)
    else if n = 0 ∨ g.qmax < n ∨ g.q < n then raiseS s gid g .quota (quotaInfo 2 n)
    else if !g.laneIdle then s
    else s.setGrp gid (({ g with q := n } : Group).nextS sw)

/-! ## Traps and ending (R116 to R118) -/

def execTrap (code : BitVec 13) (_sw : Bool) (s : State) : Host.Outcome State Fault Refusal :=
  withCur s fun gid g => raiseS s gid g .trap (code.signExtend 32)
def execBrk (code : BitVec 13) (_sw : Bool) (s : State) : Host.Outcome State Fault Refusal :=
  withCur s fun gid g => raiseS s gid g .brk (code.signExtend 32)

/-- ERET waits as LSYNC does, then restores both streams; outside handler mode its opcode is unassigned (R117, R321). -/
def eretGo (s : State) (gid : Nat) (g : Group) (skip : Bool) : State :=
  if !g.handler then raiseS s gid g .illegal (illegalInfo false 1 26)
  else if !g.laneIdle then s
  else trapReturn s gid (lsynced s g) skip

def execEret (_sw : Bool) (s : State) : Host.Outcome State Fault Refusal :=
  withCur s fun gid g => eretGo s gid g false
def execEretSkip (_sw : Bool) (s : State) : Host.Outcome State Fault Refusal :=
  withCur s fun gid g => eretGo s gid g true

def execSexit (_sw : Bool) (s : State) : Host.Outcome State Fault Refusal :=
  withCur s fun gid g =>
    if g.handler then endTeamOf s gid g
    else if g.laneIdle then endGroup s gid
    else s

def execSnop (sw : Bool) (s : State) : Host.Outcome State Fault Refusal :=
  withCur s fun gid g => s.setGrp gid (g.nextS sw)

/-- A word that R67 rejects: the illegal-instruction trap, at issue (R67, R68). -/
def execWordNotAnInstruction (lane : Bool) (reason : BitVec 8) (bit : BitVec 7) (s : State) :
    Host.Outcome State Fault Refusal :=
  withCur s fun gid g => raise s gid g lane .illegal (illegalInfo lane reason.toNat bit.toNat)

/-! ## The streams' own events -/

/-- Result k of a stream's list returns (R33). -/
def execResultReturn (gid : Nat) (lane : Bool) (k : Nat) (keep late : Mask) (s : State) :
    Host.Outcome State Fault Refusal :=
  done (returnResult s gid lane k keep late)

/-- The lane stream as a block begins: what the scalar accesses before its LRUN leave goes before the block's (R32). -/
def Stream.begin (s : State) (x : Stream) (b : Block) : Stream :=
  { x with park := false, parts := [], cov := live s (x.cov ++ b.cov), rel := x.rel ++ b.rel, acq := live s (x.acq ++ b.acq) }

/-- The lane stream takes the next block (R29): the one before has retired. -/
def execBlockStart (gid : Nat) (s : State) : Host.Outcome State Fault Refusal :=
  done (s.updGrp gid fun g =>
    match g.ctx.running, g.ctx.queue with
    | none, b :: q =>
      if g.halted || g.tstop || g.trap.isSome then g
      else { g with ctx := ⟨b.addr, g.live, [], 0, g.ctx.prog, false, g.ctx.counted, some b, false, q⟩, ln := g.ln.begin s b }
    | _, _ => g)

/-- A block retires when its LEXIT has issued and all its results have returned (R29). -/
def execBlockRetire (gid : Nat) (s : State) : Host.Outcome State Fault Refusal :=
  done (s.updGrp gid fun g =>
    if g.ctx.exited && g.ln.out.isEmpty then { g with ctx := { g.ctx with running := none, exited := false } } else g)

/-- A pending trap is entered once every outstanding result has returned (R316). -/
def execTrapEntry (gid : Nat) (s : State) : Host.Outcome State Fault Refusal := done (enterTrap s gid)

end Sys2Proof.Machine
end

