-- ==== Sys2Proof/Machine/LaneMem.lean ====
section
/-!
DEFINITION. LaneMem.lean: the lane memory words (spec/10_bounded_access.md R149 to R164).
-/
namespace Sys2Proof.Machine

open Sys2Proof

/-! ## What the words share -/

/-- A lane access once its operand and bounds checks have passed: the array, the interval, the effective mask, the spots of
its lanes, and the index when it is uniform. -/
structure LAccess where
  arr   : ARegVal
  iv    : Shadow
  eff   : Mask
  spots : List Spot
  uni   : Option Int
  deriving DecidableEq, Repr

/-- Bit of the An field of a lane word, which a misaligned base involves (R320). -/
def arrBit : Nat := 70

/-- bounded_index with its traps (R149, R151): the quota, the base, then the TRAP mode. -/
def laneAccess (s : State) (gid : Nat) (g : Group) (m : Mods) (regs : List Nat) (n : BitVec 4) (b : OpC)
    (off : BitVec 32) (k : LAccess → State) : State :=
  inQuota s gid g (regs ++ cRegs .i32 b)
    (let a := aLane g n
     let iv := (cSh s g b).shift off.toInt off.toInt
     let eff := effMask s.picks g m
     let at_ := fun l => (BitVec.ofNat 32 (cVal s gid g .i32 b l)).toInt + off.toInt
     let ix := (lanesOf eff).map fun l => (l, at_ l)
     if aBase a % aEsz a != 0 then raiseL s gid g .operand (opInfo arrBit)
     else
       match trapLane a iv ix with
       | some l => raiseL s gid g .bounds (boundsInfo false n.toNat l)
       | none => k ⟨a, iv, eff, spots a iv ix, match b with | .u _ => some (at_ 0) | _ => none⟩)

/-- The footprint of a lane access, as bytes (R152). -/
def LAccess.foot (x : LAccess) : Option (Nat × Nat) := (footprint x.arr x.iv x.uni false).map (footBytes x.arr)

/-- Count an access that has been made (R155). -/
def countAccess (s : State) (core asp : Nat) (acc : Acc) (foot : Option (Nat × Nat)) (ps : List (Nat × Nat × TlbEntry)) :
    State :=
  if ps.isEmpty then s
  else
    match foot with
    | some b => countFoot s (dieOf core) asp acc b
    | none => countEach s (dieOf core) (linesOf ps)

/-- Reserve the lines of a load's footprint (R153). -/
def reserveFoot (s : State) (core asp : Nat) (foot : Option (Nat × Nat)) : State :=
  match foot with | some b => reserve s core asp b | none => s

/-- The lines that a load's footprint reserves are not all filled yet: no lane's access goes out (R153). -/
def footWaits (s : State) (core asp : Nat) (foot : Option (Nat × Nat)) : Bool :=
  match foot with | some b => reserveWaits s core asp b | none => false

/-- The L1 fills of the lines that a load accesses (R221). -/
def fillLines (s : State) (core : Nat) (ps : List (Nat × Nat × TlbEntry)) : State :=
  (linesOf ps).foldl (fun s l => askFill s core l) s

/-- PAIR scope or wider (R163). -/
def Scope.wide : Scope → Bool
  | .group | .team => false
  | _ => true

/-- The elements of a load. -/
def loadElts (ty : Ty) (ps : List (Nat × Nat × TlbEntry)) : List LoadElt :=
  ps.map fun p => ⟨p.1, p.2.1, ty.size, ty.signed⟩

/-! ## LD and ST (R157) -/

def execLd (m : Mods) (ty : Ty) (acq : Option Scope) (d : BitVec 8) (n : BitVec 4) (b : OpC) (off : BitVec 32)
    (s : State) : Host.Outcome State Fault Refusal :=
  withCur s fun gid g =>
    laneAccess s gid g m (vRegs ty d) n b off fun x =>
      let core := coreOf gid
      let far := match acq with | some sc => Scope.wide sc | none => false
      let foot := if far then none else x.foot
      if g.ln.blocked s || g.ln.full then s
      else if x.eff == 0 then
        let s := reserveFoot s core (aspOf s g) foot
        if footWaits s core (aspOf s g) foot then s else s.setGrp gid (g.nextL m.sw)
      else
        translated s gid g .read (accessing x.spots) fun s ps =>
          let s := reserveFoot s core (aspOf s g) foot
          if footWaits s core (aspOf s g) foot then s
          else
            let s := countAccess s core (aspOf s g) .read x.foot ps
            let s := if far then s else fillLines s core ps
            let ws := wV g ty d x.eff .top (fun _ => 0) ++ obWrite m.nf g.width (offending x.spots)
            issueLoad s gid g true
              { plainPending 0 0 ws with
                kind := if far then .homeLoad else .load, elts := loadElts ty ps, eff := x.eff, acq := acq }
              (fun hot g => g.nextL (m.sw || hot))

/-- The requests of a store's lanes, in ascending lane order: the highest lane's value remains (R157). -/
def storeReqs (s : State) (gid : Nat) (g : Group) (ty : Ty) (c : BitVec 8) (rel : Option Scope)
    (ps : List (Nat × Nat × TlbEntry)) : List Req :=
  ps.map fun p =>
    mkReq s gid g true (.store p.2.1 (leBytes ty.size (vVal s gid g ty c p.1))) (replMask p.2.2) rel

def execSt (m : Mods) (ty : Ty) (rel : Option Scope) (n : BitVec 4) (b : OpC) (c : BitVec 8) (off : BitVec 32)
    (s : State) : Host.Outcome State Fault Refusal :=
  withCur s fun gid g =>
    laneAccess s gid g m (vRegs ty c) n b off fun x =>
      if g.ln.blocked s || g.ln.full then s
      else
        translated s gid g .write (accessing x.spots) fun s ps =>
          let s := countAccess s (coreOf gid) (aspOf s g) .write x.foot ps
          let rs := storeReqs s gid g ty c rel ps
          let s := if rel.isSome then released s gid else s
          sendReqs (issueL s gid g (obWrite m.nf g.width (offending x.spots)) m.sw) gid true rs

/-! ## LDS and STS (R158) -/

/-- The lowest lane whose element ends beyond the scratchpad quota. -/
def beyondSpad (d : KDesc) (e : Nat) (xs : List (Nat × Nat)) : Option Nat :=
  (xs.find? fun x => decide (d.spq < x.2 + e)).map (·.1)

/-- The checks of LDS and STS: the role comes first, the scratchpad bound last. -/
def spadAccess (s : State) (gid : Nat) (g : Group) (m : Mods) (regs : List Nat) (n : BitVec 4) (b : OpC)
    (off : BitVec 32) (k : Team → LAccess → State) : State :=
  inTeam s gid g true fun _ t =>
    laneAccess s gid g m regs n b off fun x =>
      match beyondSpad (s.desc g) (aEsz x.arr) (accessing x.spots) with
      | some l => raiseL s gid g .bounds (boundsInfo true n.toNat l)
      | none => k t x

def execLds (m : Mods) (ty : Ty) (d : BitVec 8) (n : BitVec 4) (b : OpC) (off : BitVec 32) (s : State) :
    Host.Outcome State Fault Refusal :=
  withCur s fun gid g =>
    spadAccess s gid g m (vRegs ty d) n b off fun _ x =>
      if g.ln.blocked s || g.ln.full then s
      else if x.eff == 0 then s.setGrp gid (g.nextL m.sw)
      else
        let ws := wV g ty d x.eff .top (fun _ => 0) ++ obWrite m.nf g.width (offending x.spots)
        let es := (accessing x.spots).map fun e => (⟨e.1, e.2, ty.size, ty.signed⟩ : LoadElt)
        issueLoad s gid g true { plainPending 0 0 ws with kind := .scratch, elts := es, eff := x.eff }
          (fun _ g => g.nextL m.sw)

/-- Lanes of a pending load of the scratchpad that are still to be read and that a store of these elements overlaps. -/
def overlapped (xs : List (Nat × List Byte)) (p : Pending) : Mask :=
  if p.kind == .scratch then
    eltLanes (p.elts.filter fun e => p.unsampled.getLsbD e.lane && xs.any fun x => overlap e.pa e.size x.1 x.2.length)
  else 0

/-- Of a matrix word's operand that is still to be read, what lies in storage words (R199). -/
def matOverlapped (d : KDesc) (t : Team) (w : Nat) (words : List Nat) (p : Pending) : List Mask :=
  p.rest.mapIdx fun j m => maskOf 64 fun l => m.getLsbD l && (matWords d t w p.kind j l).any words.contains

/-- A pending read of the scratchpad reads what a later store of its stream overlaps, since it returns no later write of its
stream (R250). -/
def readFirst (s : State) (gid : Nat) (g : Group) (d : KDesc) (t : Team) (xs : List (Nat × List Byte)) (p : Pending) : Pending :=
  let words := xs.flatMap fun x => spadWords d t x.1 x.2.length
  match p.kind with
  | .scratch => if overlapped xs p == 0 then p else (sampleSome s gid g true (overlapped xs p) p).res
  | .frag .. | .tile _ => sampleMat s gid g (matOverlapped d t g.width words p) p
  | _ => p

/-- Write scratchpad elements of a stream, at the issue of its word; other groups and engines may see what was there before
until a release (log entry 29). -/
def spadStore (s : State) (gid : Nat) (d : KDesc) (t : Team) (xs : List (Nat × List Byte)) : State :=
  let s := s.updGrp gid fun g => { g with ln := { g.ln with out := g.ln.out.map (readFirst s gid g d t xs) } }
  xs.foldl (fun s x => spadPut s (spadSrc gid) d t x.1 x.2) s

def execSts (m : Mods) (ty : Ty) (n : BitVec 4) (b : OpC) (c : BitVec 8) (off : BitVec 32) (s : State) :
    Host.Outcome State Fault Refusal :=
  withCur s fun gid g =>
    spadAccess s gid g m (vRegs ty c) n b off fun t x =>
      if g.ln.blocked s || g.ln.held s || g.ln.full then s
      else
        let xs := (accessing x.spots).map fun e => (e.2, leBytes ty.size (vVal s gid g ty c e.1))
        spadStore (issueL s gid g (obWrite m.nf g.width (offending x.spots)) m.sw) gid (s.desc g) t xs

/-! ## CST and XLDE (R159 to R161) -/

/-- The key in `picks` under which an issue may stop early, at the position that its mask gives: a pre-emption stops these
words at any boundary between positions (R161). -/
def pkStop : Nat := 401

/-- Where the issue stops, when it does. -/
def stopAt (picks : List (Nat × Mask)) : Option Nat := (picks.find? fun e => e.1 == 64 * pkStop).map fun e => e.2.toNat

/-- Positions of a compressed access: their lane and element index (R159). -/
def positions (i0 : Int) (eff : Mask) : List (Nat × Int) := (lanesOf eff).mapIdx fun j l => (l, i0 + j)

/-- The checks of CST and XLDE; the access's spots are its positions, each named by its lane.  Of no position the interval is
never inside, as a TOP one (R159). -/
def posAccess (s : State) (gid : Nat) (g : Group) (m : Mods) (regs : List Nat) (n : BitVec 4) (b : Uni)
    (off : BitVec 32) (k : LAccess → State) : State :=
  inQuota s gid g regs
    (let a := aLane g n
     let r := uRead s.picks g b
     let eff := effMask s.picks g m
     let cnt : Int := popCount eff
     let iv := if eff == 0 then .top else r.2.shift off.toInt (off.toInt + cnt - 1)
     let ix := positions (r.1.toInt + off.toInt) eff
     if aBase a % aEsz a != 0 then raiseL s gid g .operand (opInfo arrBit)
     else
       match trapLane a iv ix with
       | some l => raiseL s gid g .bounds (boundsInfo false n.toNat (position eff l))
       | none => k ⟨a, iv, eff, spots a iv ix, none⟩)

/-- The footprint of the interval of positions. -/
def LAccess.footPos (x : LAccess) : Option (Nat × Nat) := (footprint x.arr x.iv none true).map (footBytes x.arr)

/-- What ends a run of positions early. -/
inductive PosStop
  | fault (kind va : Nat)
  | blocked (line : Nat)
  | outside (pa : Nat)
  deriving DecidableEq, Repr

/-- Translate positions in ascending order until one cannot be accessed: the spots that go on, and what stops the run. -/
def walkPos (s : State) (die asp : Nat) (acc : Acc) : List Spot → List (Nat × Nat × TlbEntry) × Option PosStop × Nat
  | [] => ([], none, 0)
  | (l, none) :: rest =>
    let _ := l
    let r := walkPos s die asp acc rest
    (r.1, r.2.1, r.2.2 + 1)
  | (l, some va) :: rest =>
    match translate s die asp va acc with
    | .fault kind => ([], some (.fault kind va), 0)
    | .blocked line => ([], some (.blocked line), 0)
    | .ok pa e =>
      if (paKind s pa).line then
        let r := walkPos s die asp acc rest
        ((l, pa, e) :: r.1, r.2.1, r.2.2 + 1)
      else ([], some (.outside pa), 0)

/-- A run of positions from p: those committed now, their lanes' spots, where it ends, and what ends it. -/
structure PosRun where
  ps    : List (Nat × Nat × TlbEntry)
  spots : List Spot
  upto  : Nat
  stop  : Option PosStop
  whole : Bool
  deriving DecidableEq, Repr

def posRun (s : State) (gid : Nat) (g : Group) (acc : Acc) (x : LAccess) : State × PosRun :=
  let p := g.ctx.prog
  let rest := x.spots.drop p
  let rest := match stopAt s.picks with | some j => rest.take (j - p) | none => rest
  let die := dieOf (coreOf gid)
  let asp := aspOf s g
  let s := keepTrs s die asp ((accessing rest).map (·.2))
  let r := walkPos s die asp acc rest
  (s, ⟨r.1, rest.take r.2.2, p + r.2.2, r.2.1, r.2.1.isNone && decide (x.spots.length ≤ p + rest.length)⟩)

/-- Count the footprint of a compressed access when the first of its positions is accessed (R155). -/
def countRun (s : State) (gid : Nat) (g : Group) (acc : Acc) (foot : Option (Nat × Nat)) (r : PosRun) : State :=
  if g.ctx.counted then s else countAccess s (coreOf gid) (aspOf s g) acc foot r.ps

/-- After the committed positions: the word completes, or p says where it goes on, and what stopped it happens.  While a
position below is still to be read, the stream parks: no later one is committed first (R160).  Cut short by nothing, or by a walk that
waits, the word is part-issued: it is at no instruction boundary (R316). -/
def endRun (s : State) (gid : Nat) (r : PosRun) (sw unread : Bool) : State :=
  match s.grp gid with
  | none => s
  | some g =>
    let counted := !r.whole && (g.ctx.counted || !r.ps.isEmpty)
    let part := !r.whole && decide (0 < r.upto) && (match r.stop with | none | some (.blocked _) => true | _ => false)
    let g' := { g with ctx := { g.ctx with prog := if r.whole then 0 else r.upto, counted := counted, part := part } }
    if r.whole then s.setGrp gid (g'.nextL sw)
    else
      let g' := { g' with ln := g'.ln.mark unread }
      let s := s.setGrp gid g'
      match r.stop with
      | some (.fault kind va) => faultTeam s gid g' g'.gidx kind va
      | some (.outside pa) => freezeTeam s gid g' 1 pa
      | some (.blocked line) => askRead s line
      | none => s

/-- FX.ob of the positions of a run. -/
def runOb (nf : Bool) (w : Nat) (r : PosRun) : List PWrite := obWrite nf w (offending r.spots)

/-- Put a result into the lane stream without moving it. -/
def holdL (s : State) (gid : Nat) (g : Group) (p : Pending) : State :=
  if p.writes.isEmpty then s
  else ({ s with nextId := s.nextId + 1 } : State).setGrp gid
    { g with ln := g.ln.push { p with id := s.nextId, pc := g.ctx.lpc } }

def execCst (m : Mods) (ty : Ty) (n : BitVec 4) (b : Uni) (c : BitVec 8) (off : BitVec 32) (s : State) :
    Host.Outcome State Fault Refusal :=
  withCur s fun gid g =>
    posAccess s gid g m (vRegs ty c) n b off fun x =>
      if g.ln.blocked s || g.ln.full then s
      else
        let (s, r) := posRun s gid g .write x
        let s := countRun s gid g .write x.footPos r
        let rs := storeReqs s gid g ty c none r.ps
        let s := holdL s gid g (plainPending 0 0 (runOb m.nf g.width r))
        endRun (sendReqs s gid true rs) gid r m.sw false

def execXlde (m : Mods) (ty : Ty) (d : BitVec 8) (n : BitVec 4) (b : Uni) (off : BitVec 32) (s : State) :
    Host.Outcome State Fault Refusal :=
  withCur s fun gid g =>
    posAccess s gid g m (vRegs ty d) n b off fun x =>
      if g.ln.blocked s || g.ln.full then s
      else
        let core := coreOf gid
        let s := reserveFoot s core (aspOf s g) x.footPos
        if footWaits s core (aspOf s g) x.footPos then s
        else
          let (s, r) := posRun s gid g .read x
          let s := fillLines (countRun s gid g .read x.footPos r) core r.ps
          let lanes := r.spots.foldl (fun m e => m ||| laneBit e.1) 0
          let ws := if lanes == 0 then [] else wV g ty d lanes .top (fun _ => 0) ++ runOb m.nf g.width r
          let p : Pending := { plainPending s.nextId g.ctx.lpc ws with
            kind := .expand, elts := loadElts ty r.ps, eff := x.eff, unsampled := eltLanes (loadElts ty r.ps) }
          let s := resolveElts s .expand p.elts
          let t := sampleSome s gid g true (~~~deferred s.picks) p
          let g := { g with ln := { g.ln.gain s t.cov with seen := liveRels s (g.ln.seen ++ t.rels) } }
          match t.bad with
          | e :: _ =>
            -- positions below the mismatching one are committed; it raises the fault (R161)
            let j := position x.eff e.lane
            let low := lowMask e.lane
            let s := holdL s gid g { t.res with
              writes := if lanes &&& low == 0 then [] else t.res.writes.map (PWrite.only low),
              elts := t.res.elts.filter fun y => decide (y.lane < e.lane), unsampled := t.res.unsampled &&& low }
            match s.grp gid with
            | some g =>
              let g := { g with ctx := { g.ctx with prog := j, part := false, counted := decide (j ≠ 0) } }
              integrity (s.setGrp gid g) gid g true g.ctx.lpc e.pa (integInfo j e.lane) true
            | none => s
          | [] =>
            let s := holdL (askElts s core (~~~deferred s.picks) { t.res with id := s.nextId }) gid g t.res
            let hot := p.elts.any fun e => t.res.unsampled.getLsbD e.lane && spotBad s e.pa e.size
            endRun s gid r (m.sw || hot) (t.res.unsampled != 0)

/-! ## Fences and atomics (R162 to R164) -/

def execLfence (_nf sw : Bool) (ord : FOrd) (sc : Scope) (s : State) : Host.Outcome State Fault Refusal :=
  withCur s fun gid g =>
    (fenced s gid ord).setGrp gid (({ g with ln := fenceStream s gid g true ord sc } : Group).nextL sw)

/-- The acquire and the release of an ordering. -/
def ordAcq : AOrd → Option Scope
  | .acq s | .acqrel s => some s
  | _ => none
def ordRel : AOrd → Option Scope
  | .rel s | .acqrel s => some s
  | _ => none

/-- Copies of these lines in the core's own L1 end (R162). -/
def dropL1 (s : State) (core : Nat) (lines : List Nat) : State :=
  { s with l1 := s.l1.filter fun c => !(c.core == core && lines.contains c.line) }

/-- The requests of an atomic's lanes, in ascending lane order, and their result (R162).  A stream whose atomic meets a
sector that mismatches parks until it has returned (log entry 12). -/
def issueAtomic (s : State) (gid : Nat) (g : Group) (m : Mods) (ty : Ty) (op : AtomOp) (ord : AOrd) (c : BitVec 8)
    (ws : List PWrite) (eff : Mask) (ps : List (Nat × Nat × TlbEntry)) : State :=
  let pid := s.nextId
  let k := if ty.is64 then 2 else 1
  let rs := ps.map fun p =>
    let data := vVal s gid g ty c p.1
    let new := if op == .cas then vVal s gid g ty (c + k) p.1 else 0
    mkReq s gid g true (.atomic op ty.signed p.2.1 ty.size data new pid p.1) (replMask p.2.2) (ordRel ord)
  let ids := tabulate rs.length fun i => pid + 1 + i
  let x := g.ln.push { plainPending pid g.ctx.lpc ws with
    kind := .atomic, elts := loadElts ty ps, unsampled := eltLanes (loadElts ty ps), waiting := ids, eff := eff,
    acq := ordAcq ord }
  let x := { x with acq := live s x.acq ++ (if (ordAcq ord).isSome then [pid] else []) }
  let hot := ps.any fun p => spotBad s p.2.1 ty.size
  let s := if (ordRel ord).isSome then released s gid else s
  let s := ({ s with nextId := pid + 1 } : State).setGrp gid (({ g with ln := x } : Group).nextL (m.sw || hot))
  dropL1 (sendReqs s gid true rs) (coreOf gid) (linesOf ps)

/-- ATOM.op for every operation. -/
def atomGo (op : AtomOp) (m : Mods) (ty : Ty) (ord : AOrd) (d : BitVec 8) (n : BitVec 4) (b : OpC) (c : BitVec 8)
    (off : BitVec 32) (gid : Nat) (g : Group) (s : State) : State :=
  let k := (if ty.is64 then 2 else 1) * (if op == .cas then 2 else 1)
  laneAccess s gid g m (vRegs ty d ++ runRegs c k) n b off fun x =>
    if g.ln.blocked s || g.ln.full then s
    else if x.eff == 0 then s.setGrp gid (g.nextL m.sw)
    else
      translated s gid g .write (accessing x.spots) fun s ps =>
        let s := countAccess s (coreOf gid) (aspOf s g) .write x.foot ps
        let ws := wV g ty d x.eff .top (fun _ => 0) ++ obWrite m.nf g.width (offending x.spots)
        issueAtomic s gid g m ty op ord c ws x.eff ps

def execAtomAdd (m : Mods) (ty : Ty) (ord : AOrd) (d : BitVec 8) (n : BitVec 4) (b : OpC) (c : BitVec 8)
    (off : BitVec 32) (s : State) : Host.Outcome State Fault Refusal :=
  withCur s fun gid g => atomGo .add m ty ord d n b c off gid g s
def execAtomMin (m : Mods) (ty : Ty) (ord : AOrd) (d : BitVec 8) (n : BitVec 4) (b : OpC) (c : BitVec 8)
    (off : BitVec 32) (s : State) : Host.Outcome State Fault Refusal :=
  withCur s fun gid g => atomGo .min m ty ord d n b c off gid g s
def execAtomMax (m : Mods) (ty : Ty) (ord : AOrd) (d : BitVec 8) (n : BitVec 4) (b : OpC) (c : BitVec 8)
    (off : BitVec 32) (s : State) : Host.Outcome State Fault Refusal :=
  withCur s fun gid g => atomGo .max m ty ord d n b c off gid g s
def execAtomAnd (m : Mods) (ty : Ty) (ord : AOrd) (d : BitVec 8) (n : BitVec 4) (b : OpC) (c : BitVec 8)
    (off : BitVec 32) (s : State) : Host.Outcome State Fault Refusal :=
  withCur s fun gid g => atomGo .and m ty ord d n b c off gid g s
def execAtomOr (m : Mods) (ty : Ty) (ord : AOrd) (d : BitVec 8) (n : BitVec 4) (b : OpC) (c : BitVec 8)
    (off : BitVec 32) (s : State) : Host.Outcome State Fault Refusal :=
  withCur s fun gid g => atomGo .or m ty ord d n b c off gid g s
def execAtomXor (m : Mods) (ty : Ty) (ord : AOrd) (d : BitVec 8) (n : BitVec 4) (b : OpC) (c : BitVec 8)
    (off : BitVec 32) (s : State) : Host.Outcome State Fault Refusal :=
  withCur s fun gid g => atomGo .xor m ty ord d n b c off gid g s
def execAtomXchg (m : Mods) (ty : Ty) (ord : AOrd) (d : BitVec 8) (n : BitVec 4) (b : OpC) (c : BitVec 8)
    (off : BitVec 32) (s : State) : Host.Outcome State Fault Refusal :=
  withCur s fun gid g => atomGo .xchg m ty ord d n b c off gid g s
def execAtomCas (m : Mods) (ty : Ty) (ord : AOrd) (d : BitVec 8) (n : BitVec 4) (b : OpC) (c : BitVec 8)
    (off : BitVec 32) (s : State) : Host.Outcome State Fault Refusal :=
  withCur s fun gid g => atomGo .cas m ty ord d n b c off gid g s

end Sys2Proof.Machine
end

