-- ==== Sys2Proof/Machine/Matrix.lean ====
section
/-!
DEFINITION. Matrix.lean: the matrix words, chains and tensor statistics (spec/14_matrix_and_copy.md R188 to R202).
-/
namespace Sys2Proof.Machine

open Sys2Proof

/-! ## Shapes, tiles and fragments (R188 to R190) -/

/-- The tile lies outside the team's ACC allocation (R190). -/
def tileBeyond (d : KDesc) (w tile : Nat) : Bool :=
  if w = 16 then decide (4 * d.accq ≤ tile)
  else if w = 32 then decide (d.accq ≤ tile)
  else decide (d.accq ≤ tile + 1)

/-- Lane and register offset of byte b of row rr of a fragment (R189). -/
def fragAt (w rows : Nat) (isB : Bool) (rr b : Nat) : Nat × Nat :=
  if isB && w == 64 then (rr + 16 * (b / 32), b % 32 / 4) else (rr + rows * (b / 64), b % 64 / 4)

/-- The 128 bytes of row rr of a fragment held in V registers. -/
def fragRow (s : State) (gid : Nat) (g : Group) (first rows : Nat) (isB : Bool) (rr : Nat) : List Byte :=
  (List.range 32).flatMap fun i =>
    let p := fragAt g.width rows isB rr (4 * i)
    bytesOf (vRead s gid g (first + p.2) p.1)

/-- The rows of a fragment. -/
def fragRows (s : State) (gid : Nat) (g : Group) (first rows : Nat) (isB : Bool) : List (List Byte) :=
  tabulate rows fun rr => fragRow s gid g first rows isB rr

/-! ## Checks (R192) -/

/-- The team of a group whose role permits matrix words. -/
def matrixRole (s : State) (gid : Nat) (g : Group) (k : Team → State) : State :=
  if !roleMatrix g then raiseL s gid g .role (roleInfo g) else inTeam s gid g true fun _ t => k t

/-- The register and the tile quota (R41, R190). -/
def tileQuota (s : State) (gid : Nat) (g : Group) (regs : List Nat) (tile : Nat) (k : State) : State :=
  inQuota s gid g regs
    (if tileBeyond (s.desc g) g.width tile then raiseL s gid g .quota (quotaInfo 3 tile) else k)

/-- EXM holds all w lanes; else illegal convergence, why 4. -/
def allLanes (s : State) (gid : Nat) (g : Group) (k : State) : State :=
  if g.ctx.exm == g.all then k else raiseL s gid g .convergence 4

/-- The open chain has touched a tile. -/
def touched (g : Group) (tile : Nat) : Bool :=
  match g.chain with
  | some c => c.tiles.any fun t => t.tile == tile
  | none => false

/-- The tile is not touched by an open chain; else the chain trap, why 6. -/
def untouched (s : State) (gid : Nat) (g : Group) (tile : Nat) (k : State) : State :=
  if touched g tile then raiseL s gid g .chain 6 else k

/-! ## Statistics (R202) -/

/-- Add n to a counter of a launch (0 sat, 1 flush, 2 nan), saturating. -/
def addStat (s : State) (lid tid c n : Nat) : State :=
  if n = 0 then s
  else s.updLaunch lid fun l =>
    { l with stats := Store.putD 0 l.stats (3 * tid + c) (min (Store.getD 0 l.stats (3 * tid + c) + n) 0xFFFFFFFF) }

/-- What one delivered element counts: sat, flush, nan. -/
structure Stat where
  sat   : Nat
  flush : Nat
  nan   : Nat
  deriving DecidableEq, Repr

def Stat.sum (xs : List Stat) : Stat :=
  xs.foldl (fun a b => ⟨a.sat + b.sat, a.flush + b.flush, a.nan + b.nan⟩) ⟨0, 0, 0⟩

/-- The counts of a delivery to a format: its flags, and whether its exact value is finite and not 0. -/
def Fmt.stat (f : Fmt) (r : Fres) (nonzero : Bool) : Stat :=
  let mag := r.1 % 2 ^ (f.eb + f.mb)
  let nan := if f.ieee then decide (f.infMag < mag) else decide (f.maxMag < mag)
  ⟨if r.2 &&& fxOf != 0 then 1 else 0, if nonzero && mag == 0 then 1 else 0, if nan then 1 else 0⟩

def addStats (s : State) (lid tid : Nat) (x : Stat) : State :=
  addStat (addStat (addStat s lid tid 0 x.sat) lid tid 1 x.flush) lid tid 2 x.nan

/-! ## MBEGIN, MZERO, MLDF, MACCLD, MACCST (R193, R199 to R201) -/

def execMbegin (_nf sw : Bool) (s : State) : Host.Outcome State Fault Refusal :=
  withCur s fun gid g =>
    if !roleMatrix g then raiseL s gid g .role (roleInfo g)
    else
      allLanes s gid g
        (if g.handler then raiseL s gid g .chain 8
         else if g.chain.isSome then raiseL s gid g .chain 1
         else s.setGrp gid (({ g with chain := some ⟨none, [], g.lmode⟩ } : Group).nextL sw))

def execMzero (_nf sw : Bool) (d : BitVec 8) (s : State) : Host.Outcome State Fault Refusal :=
  withCur s fun gid g =>
    matrixRole s gid g fun _ =>
      tileQuota s gid g [] d.toNat
        (allLanes s gid g
          (untouched s gid g d.toNat
            (issueL s gid g [.z d.toNat (tabulate (mRows g.width * nCols g.width) fun _ => 0)] sw)))

/-- The exact address of a scratchpad operand (R199). -/
def spadOperand (s : State) (g : Group) (addr : Uni) (off : BitVec 32) : Int :=
  ((uRead s.picks g addr).1.toNat : Int) + off.toInt

/-- Its alignment and bound: the operand trap involves imm32, whose lowest bit is 0 (R320). -/
def spadBound (s : State) (gid : Nat) (g : Group) (x : Int) (align len : Nat) (k : Nat → State) : State :=
  if x % align ≠ 0 then raiseL s gid g .operand (opInfo 0)
  else if x < 0 ∨ ((s.desc g).spq : Int) < x + len then raiseL s gid g .bounds (boundsInfo true 0xFF 0)
  else k x.toNat

/-- Issue a matrix word that reads the scratchpad, as LDS does: each word of its operand is read at issue or, where the picks put
it off, at a later moment up to its return (R199, R201).  n: words to read, 64 a mask. -/
def issueMat (s : State) (gid : Nat) (g : Group) (kind : PKind) (ws : List PWrite) (rest : List Mask) (sw : Bool) : State :=
  if g.ln.full then s
  else
    let p : Pending := { plainPending s.nextId g.ctx.lpc ws with kind := kind, rest := rest }
    let q := sampleMat s gid g (matNow s (BitVec.allOnes 64) p) p
    let s := afterRead s gid g p q
    ({ s with nextId := s.nextId + 1 } : State).setGrp gid (({ g with ln := g.ln.push q } : Group).nextL sw)

def execMldf (_nf sw fragB : Bool) (d : BitVec 8) (addr : Uni) (off : BitVec 32) (s : State) :
    Host.Outcome State Fault Refusal :=
  withCur s fun gid g =>
    let w := g.width
    let n := if fragB then bRun w else 16
    let rows := if fragB then nCols w else mRows w
    matrixRole s gid g fun _ =>
      inQuota s gid g (runRegs d n)
        (allLanes s gid g
          (spadBound s gid g (spadOperand s g addr off) 128 (128 * rows) fun x =>
            if g.ln.blocked s then s
            else issueMat s gid g (.frag fragB rows x)
              ((List.range n).flatMap fun j => wV g .i32 (d + BitVec.ofNat 8 j) g.all .top fun _ => 0)
              (tabulate n fun _ => g.all) sw))

def execMaccld (_nf sw : Bool) (d : BitVec 8) (addr : Uni) (off : BitVec 32) (s : State) :
    Host.Outcome State Fault Refusal :=
  withCur s fun gid g =>
    let n := mRows g.width * nCols g.width
    matrixRole s gid g fun _ =>
      tileQuota s gid g [] d.toNat
        (allLanes s gid g
          (untouched s gid g d.toNat
            (spadBound s gid g (spadOperand s g addr off) 16 (4 * n) fun x =>
              if g.ln.blocked s then s
              else issueMat s gid g (.tile x) [.z d.toNat (tabulate n fun _ => 0)]
                (tabulate (n / 64) fun _ => lowMask 64) sw)))

def execMaccst (_nf sw : Bool) (a : BitVec 8) (addr : Uni) (off : BitVec 32) (s : State) :
    Host.Outcome State Fault Refusal :=
  withCur s fun gid g =>
    let n := mRows g.width * nCols g.width
    matrixRole s gid g fun t =>
      tileQuota s gid g [] a.toNat
        (allLanes s gid g
          (untouched s gid g a.toNat
            (spadBound s gid g (spadOperand s g addr off) 16 (4 * n) fun x =>
              if g.ln.blocked s || g.ln.held s then s
              else
                let es := zRead s g t a.toNat
                spadStore (s.setGrp gid (g.nextL sw)) gid (s.desc g) t (es.mapIdx fun e v => (x + 4 * e, bytesOf v)))))

/-! ## MMA (R195) -/

/-- An exact product of 8-bit or L6 operands, in units of 2^−32. -/
inductive Prod
  | nan
  | inf (neg : Bool)
  | fin (x : Int)
  deriving DecidableEq, Repr

/-- The product of two floating 8-bit elements. -/
def prodF (x y : Fv) : Prod :=
  if x.isNan || y.isNan then .nan
  else
    match x.mul y with
    | none => .nan
    | some (.inf n) => .inf n
    | some (.fin n m e) => .fin (scaled n m e (-32))
    | some _ => .fin 0

/-- 2^(k/4) × 2^24, rounded to nearest. -/
def l6Root (k : Nat) : Int :=
  match k with
  | 0 => 0x1000000
  | 1 => 0x1306FE1
  | 2 => 0x16A09E6
  | _ => 0x1AE89FA

/-- The product of two L6 cells. -/
def prodL6 (x y : Nat) : Prod :=
  if 64 ≤ x ∨ 64 ≤ y ∨ x = 32 ∨ y = 32 then .nan
  else if x = 0 ∨ y = 0 then .fin 0
  else
    let t : Int := (x % 32 : Nat) + (y % 32 : Nat) - 32
    let v := l6Root (t % 4).toNat * 2 ^ (t / 4 + 8).toNat
    .fin (if x / 32 == y / 32 then v else -v)

/-- The product of two bytes at an MMA type. -/
def prodOf (ty : Ty) (x y : Byte) : Prod :=
  match ty with
  | .l6 => prodL6 x.toNat y.toNat
  | .i8 => .fin (x.toInt * y.toInt * 2 ^ 32)
  | _ => prodF ((fmtOf ty).read false x.toNat) ((fmtOf ty).read false y.toNat)

/-- spec with one more special value: 0 none, 1 +infinity, 2 −infinity, 3 NaN. -/
def specJoin (a b : Nat) : Nat := if a = 0 then b else if b = 0 ∨ a = b then a else 3

/-- One entry's hidden sum and spec after a row product. -/
def addProds (ty : Ty) (acc : Int × Nat) (xs ys : List Byte) : Int × Nat :=
  (xs.zip ys).foldl (fun a p =>
    match prodOf ty p.1 p.2 with
    | .nan => (a.1, specJoin a.2 3)
    | .inf n => (a.1, specJoin a.2 (if n then 2 else 1))
    | .fin x => (a.1 + x, a.2)) acc

/-- The 64 elements of a 16-bit row. -/
def halves : List Byte → List Nat
  | a :: b :: rest => (a.toNat + 256 * b.toNat) :: halves rest
  | _ => []

/-- An exact sum under construction, in units of 2^−q: its value, its infinities and NaN, and the sign that all its terms
share while they are zeros. -/
structure ESum where
  x     : Int
  spec  : Nat
  zneg  : Option Bool
  deriving DecidableEq, Repr

/-- The scale of exact sums of 16-bit products: below it no F32 or product of BF16 or F16 has bits. -/
def esumScale : Int := -300

/-- One more term. -/
def ESum.add (a : ESum) (v : Option Fv) : ESum :=
  match v with
  | none => { a with spec := 3 }
  | some (.nan _) => { a with spec := 3 }
  | some (.inf n) => { a with spec := specJoin a.spec (if n then 2 else 1) }
  | some (.zero n) => { a with zneg := if a.zneg == some n then some n else none }
  | some (.fin n m e) => { a with x := a.x + scaled n m e esumScale, zneg := none }

/-- The sum started with a value. -/
def ESum.start (v : Fv) : ESum :=
  match v with
  | .zero n => ⟨0, 0, some n⟩
  | v => (⟨0, 0, none⟩ : ESum).add (some v)

/-- The sum rounded to F32. -/
def ESum.give (a : ESum) (v : Fenv) : Fres × Bool :=
  if a.spec = 3 then (fmtF32.nanRes false, false)
  else if a.spec ≠ 0 then (fmtF32.infRes (a.spec == 2) 0, false)
  else if a.x = 0 then (fmtF32.zeroRes (a.zneg.getD (v.rm == .rd)), false)
  else (fmtF32.fin v (decide (a.x < 0)) a.x.natAbs esumScale false, true)

/-- One entry of a 16-bit chain after a row product: z + Σ x y, rounded once. -/
def fmaRow (ty : Ty) (v : Fenv) (z : W32) (xs ys : List Nat) : Fres × Bool :=
  let rd := fun x => (fmtOf ty).read v.daz x
  let prod := fun (p : Nat × Nat) =>
    let x := rd p.1
    let y := rd p.2
    if x.isNan || y.isNan then none else x.mul y
  ((xs.zip ys).foldl (fun a p => a.add (prod p)) (ESum.start (fmtF32.read false z.toNat))).give v

/-- The types whose chains sum exactly (R195). -/
def exactMma : Ty → Bool
  | .f16 | .bf16 => false
  | _ => true

/-- The state of a tile that a chain touches: z0 with daz applied. -/
def openTile (tile : Nat) (z : List W32) (daz : Bool) : ChainTile :=
  let z := z.map fun x => BitVec.ofNat 32 (fmtF32.patOf daz x.toNat)
  ⟨tile, 0, z, z.map fun _ => 0, z.map fun _ => 0, z⟩

/-- One MMA on a tile's state: the state after, and the statistics of its roundings. -/
def mmaTile (ty : Ty) (v : Fenv) (n : Nat) (ra rb : List (List Byte)) (t : ChainTile) : ChainTile × Stat :=
  if exactMma ty then
    let r := t.sum.mapIdx fun e x => addProds ty (x, nthD 0 t.spec e) (nthD [] ra (e / n)) (nthD [] rb (e % n))
    ({ t with steps := t.steps + 1, sum := r.map (·.1), spec := r.map (·.2) }, ⟨0, 0, 0⟩)
  else
    let ha := ra.map halves
    let hb := rb.map halves
    let r := t.zr.mapIdx fun e z => fmaRow ty v z (nthD [] ha (e / n)) (nthD [] hb (e % n))
    ({ t with steps := t.steps + 1, zr := r.map fun x => BitVec.ofNat 32 x.1.1 },
     Stat.sum (r.map fun x => fmtF32.stat x.1 x.2))

/-- The chain trap of an MMA, as the first case of R193's list that holds. -/
def mmaChainTrap (c : Option Chain) (tile : Nat) (ty : Ty) (rm : Rm) : Option Nat :=
  match c with
  | none => some 2
  | some c =>
    let t := c.tiles.find? fun t => t.tile == tile
    if t.isNone && decide (8 ≤ c.tiles.length) then some 3
    else if (match c.first with | some f => f != (ty, rm) | none => false) then some 4
    else if (match t with | some t => decide (2 ^ 24 ≤ t.steps + 1) | none => false) then some 5
    else none

def execMma (_nf sw : Bool) (ty : Ty) (rm : Rm) (d a b : BitVec 8) (s : State) : Host.Outcome State Fault Refusal :=
  withCur s fun gid g =>
    let w := g.width
    let v := fenv g.lmode rm
    matrixRole s gid g fun team =>
      tileQuota s gid g (runRegs a 16 ++ runRegs b (bRun w)) d.toNat
        (if ty == .l6 && !hasFeat s gid 2 then raiseL s gid g .feature 2
         else
           allLanes s gid g
             (match mmaChainTrap g.chain d.toNat ty v.rm with
              | some why => raiseL s gid g .chain (BitVec.ofNat 32 why)
              | none =>
                let c := g.chain.getD ⟨none, [], g.lmode⟩
                let old := (c.tiles.find? fun t => t.tile == d.toNat).getD (openTile d.toNat (zRead s g team d.toNat) v.daz)
                let ra := fragRows s gid g a.toNat (mRows w) false
                let rb := fragRows s gid g b.toNat (nCols w) true
                let (t, st) := mmaTile ty v (nCols w) ra rb old
                let tiles := if touched g d.toNat then c.tiles.map fun x => if x.tile == d.toNat then t else x
                  else c.tiles ++ [t]
                let g' := { g with chain := some { c with first := some (ty, v.rm), tiles := tiles } }
                addStats (s.setGrp gid (g'.nextL sw)) g.lid 255 st))

/-! ## MEND (R196) -/

/-- One entry of an 8-bit or L6 chain at its end. -/
def endEntry (v : Fenv) (z : W32) (sum : Int) (spec : Nat) : Fres × Bool :=
  let z := fmtF32.read false z.toNat
  match z with
  | .nan _ => (fmtF32.nanRes false, false)
  | .inf n =>
    if spec = 0 ∨ spec = (if n then 2 else 1) then (fmtF32.infRes n 0, false) else (fmtF32.nanRes false, false)
  | _ =>
    if spec = 3 then (fmtF32.nanRes false, false)
    else if spec ≠ 0 then (fmtF32.infRes (spec == 2) 0, false)
    else
      match z with
      | .fin n m e =>
        let x := scaled n m e (-149) + sum * 2 ^ 117
        if x = 0 then (fmtF32.zeroRes (v.rm == .rd), false)
        else (fmtF32.fin v (decide (x < 0)) x.natAbs (-149) false, true)
      | _ =>
        if sum = 0 then (fmtF32.zeroRes (z.neg || v.rm == .rd), false)
        else (fmtF32.fin v (decide (sum < 0)) sum.natAbs (-32) false, true)

/-- The entries that MEND writes into a tile, and their statistics. -/
def endTile (first : Option (Ty × Rm)) (v : Fenv) (t : ChainTile) : List W32 × Stat :=
  match first with
  | some (ty, rm) =>
    if exactMma ty then
      let r := t.z0.mapIdx fun e z => endEntry { v with rm := rm } z (nthD 0 t.sum e) (nthD 0 t.spec e)
      (r.map fun x => BitVec.ofNat 32 x.1.1, Stat.sum (r.map fun x => fmtF32.stat x.1 x.2))
    else (t.zr, ⟨0, 0, 0⟩)
  | none => (t.zr, ⟨0, 0, 0⟩)

def execMend (_nf sw : Bool) (s : State) : Host.Outcome State Fault Refusal :=
  withCur s fun gid g =>
    if !roleMatrix g then raiseL s gid g .role (roleInfo g)
    else
      allLanes s gid g
        (match g.chain with
         | none => raiseL s gid g .chain 2
         | some c =>
           if g.ln.full then s
           else
             let r := c.tiles.map fun t => (t.tile, endTile c.first (fenv g.lmode .mode) t)
             let s := issueL s gid { g with chain := none } (r.map fun x => .z x.1 x.2.1) sw
             addStats s g.lid 255 (Stat.sum (r.map fun x => x.2.2)))

end Sys2Proof.Machine
end

