-- ==== Sys2Proof/Machine/Start.lean ====
section
/-!
DEFINITION. Start.lean: the state in which a group starts (spec/02_execution_model.md R25), and a placed word for
`State.withFetchWord` (log entry 6).
-/
namespace Sys2Proof.Machine

open Sys2Proof

/-- A stream with nothing outstanding. -/
def Stream.init : Stream := ⟨[], false, none, false, [], [], [], [], []⟩

/-- A vector of a value per index. -/
def vtab {α : Type} (n : Nat) (f : Nat → α) : Vector α n := Vector.ofFn fun i => f i.val

/-- A launch group as R25 starts it.  V registers are filled by undefRegs, handler registers are undefined. -/
def startGroup (s : State) (l : Launch) (lid tid gidx row0 : Nat) : Group × State :=
  let d := l.desc
  let role := (d.rolemap >>> (2 * gidx)).truncate 2
  let qq := nthD (1, 1) d.quotas role.toNat
  let all := lowMask d.width
  let k := fun i =>
    if i < 8 then nthD 0 l.args i
    else if i = 8 then BitVec.ofNat 32 tid
    else if i = 9 then BitVec.ofNat 32 gidx
    else if i = 10 then BitVec.ofNat 32 l.teams
    else if i = 11 then BitVec.ofNat 32 lid
    else 0
  let str : Stream := { Stream.init with cov := l.cov, acq := l.cov }
  let g : Group :=
    { lid := lid, tid := some tid, gidx := gidx, width := d.width, role := role, row0 := row0, q := qq.1, qmax := qq.2,
      s := Vector.replicate 64 0, ssh := Vector.replicate 64 (.itv 0 0),
      hs := vtab 8 fun i => Config.undefWord (s.free + i), hsh := Vector.replicate 8 .top,
      k := vtab 16 k, a := Vector.replicate 16 0, p := Vector.replicate 8 0, vsh := Vector.replicate 256 .top,
      fx := Vector.replicate 64 0, live := all, spc := BitVec.ofNat 57 d.sentry, mode := d.mode, ccopy := 0, ctrav := 0,
      cattn := 0, latch := none, ctx := Group.emptyCtx 0 all, sc := str, ln := str, pub := [],
      chain := none, saved := none, tpc := 0, tcause := 0, tinfo := 0, tpcWr := false, txlde := false, trap := none, arrived := none,
      visits := [], copyq := [], travq := [], tstop := false, halted := false, noBp := none }
  (g, { s with free := s.free + 8 })

/-- The descriptor of the kernel that a placed word belongs to: one GENERAL group of width 16 with every V register. -/
def bootDesc : KDesc :=
  { width := 16, groups := 1, pair := false, sentry := 0x10000, lbase := 0x10000, rolemap := 3,
    quotas := [(256, 256), (256, 256), (256, 256), (256, 256)], spq := 0, accq := 0, timer := 0, spawnq := 0, sq0 := 0,
    sqmax := 0, vol := none, stackz := 0, stackb := 0, stats := 0, featreq := 0, mode := 0 }

/-- Its launch. -/
def bootLaunch : Launch :=
  { die := 0, graph := 0, node := 0, asp := 0, prio := 0, seq := 0, kdesc := 0, desc := bootDesc, teams := 1, dmask := 1,
    args := [], next := 1, since := 0, reserving := false, done := 0, stats := [], layouts := [], spawn := [],
    pre := .none, threads := [], cov := [], rel := [], tids := [] }

/-- Its team. -/
def bootTeam : Team :=
  { lid := 0, tid := some 0, state := .resident, core := 0, spbase := 0, accbase := 0, ended := [], bars := [],
    rings := [], why := 0, fkind := 0, fmaster := 0, fva := 0, slot := none, groups := [], serviced := false, owed := [],
    since := 0, reserving := false }

/-- Stand for the load of a program: a resident launch whose one group runs the given bytes of code, at virtual address
0x10000 of the page mapped there, as the next word that issues (log entry 6). -/
def placeWord (s : State) (lane : Bool) (code : List Byte) : State :=
  let (g, s) := startGroup s bootLaunch 0 0 0 0
  let blk : Block := ⟨0x10000, 0, tabulate 64 fun _ => 0, tabulate 64 fun _ => .itv 0 0, tabulate 16 fun _ => 0, [], [], [], []⟩
  let g := if lane then { g with ctx := { g.ctx with lpc := 0x10000, running := some blk } } else g
  { s with
    tape := .issue 0 lane [] :: s.tape,
    launches := Store.put s.launches 0 bootLaunch,
    teams := Store.put s.teams (teamKey 0 0) bootTeam,
    groups := Store.put s.groups 0 g,
    tlb := ⟨0, 0, 0, 0, true, true, 0⟩ :: ⟨0, 0, 1, 1, true, true, 0⟩ :: s.tlb,
    mem := Store.putsD unlisted s.mem 0x10000 code }

end Sys2Proof.Machine
end

