-- ==== Sys2Proof/Machine/Copy.lean ====
section
/-!
DEFINITION. Copy.lean: TCOPY and the copy engine (spec/07_scalar_instructions.md R106;
spec/14_matrix_and_copy.md R204 to R219; R232, R358).
-/
namespace Sys2Proof.Machine

open Sys2Proof

/-! ## The block (R204, R205) -/

namespace Copy

def box (c : Copy) : Nat := fld c.block 0 0 57
def chip (c : Copy) : Nat := fld c.block 8 0 32
def ctl (c : Copy) (lo len : Nat) : Nat := fld c.block 0x0C lo len
def nd (c : Copy) : Nat := c.ctl 24 3
def tensor (c : Copy) : Nat := c.ctl 16 8
def rel (c : Copy) : Bool := c.ctl 14 1 == 1
def sat (c : Copy) : Bool := c.ctl 13 1 == 1
def toBox (c : Copy) : Bool := c.ctl 12 1 == 1
def kind (c : Copy) : Nat := c.ctl 8 3
def ctype (c : Copy) : Nat := c.ctl 4 3
def sfmt (c : Copy) : Nat := c.ctl 0 3
/-- Stamp address; 0: none. -/
def stampa (c : Copy) : Nat := 8 * fld c.block 0x10 3 54
def seqw (c : Copy) : Nat := fld c.block 0x18 0 32
def scale (c : Copy) : BitVec 32 := bits c.block (8 * 0x1C) 32
def ext (c : Copy) (i : Nat) : Nat := fld c.block (0x20 + 2 * i) 0 16
def stage (c : Copy) : Nat := fld c.block 0x2A 0 12
def ring (c : Copy) : Nat := fld c.block 0x2C 0 20
/-- Stride of dimension i ≥ 1, in units of 16 bytes. -/
def stride (c : Copy) (i : Nat) : Nat := fld c.block (0x30 + 4 * (i - 1)) 0 32

/-- Bytes that n elements of the storage format take (R206). -/
def bytesFor (c : Copy) (n : Nat) : Nat :=
  match c.sfmt with
  | 0 => 4 * n
  | 1 => 2 * n
  | 2 => 2 * n
  | 6 => 3 * n / 4
  | 7 => n / 2
  | _ => n

def rowBytes (c : Copy) : Nat := c.bytesFor (c.ext 0)
/-- Rows of the box. -/
def rows (c : Copy) : Nat := (List.range c.nd).foldl (fun n i => n * c.ext (i + 1)) 1
/-- The kind stores canonical rows. -/
def canon (c : Copy) : Bool := c.kind == 0 || c.kind == 2
/-- Size of an element of the compute type. -/
def csize (c : Copy) : Nat := if c.ctype = 1 ∨ c.ctype = 2 then 2 else 1
/-- Address of row r of the box: dimension 1 varies fastest (R206). -/
def rowVa (c : Copy) (r : Nat) : Nat :=
  let f := fun (e : Nat × Nat) i => (e.1 / c.ext (i + 1), e.2 + e.1 % c.ext (i + 1) * c.stride (i + 1))
  (c.box + 16 * ((List.range c.nd).foldl f (r, 0)).2) % 2 ^ 57
/-- Bytes that a row takes on the chip side. -/
def chipRow (c : Copy) : Nat := if c.canon then 128 else c.rowBytes
/-- Some extent of a dimension in use is 0 (R217). -/
def empty (c : Copy) : Bool := (List.range (c.nd + 1)).any fun i => c.ext i == 0

/-- A reserved field or code is not 0 (R204, R205). -/
def reservedBad (c : Copy) : Bool :=
  fld c.block 0 57 7 != 0 || fld c.block 0x10 57 7 != 0 || fld c.block 0x10 0 3 != 0 || fld c.block 0x2A 12 4 != 0 ||
    fld c.block 0x2C 20 12 != 0 || c.ctl 27 5 != 0 || c.ctl 15 1 != 0 || c.ctl 11 1 != 0 || c.ctl 7 1 != 0 ||
    c.ctl 3 1 != 0 || decide (4 < c.nd) || c.ctype == 7 || decide (4 < c.kind) ||
    (List.range 5).any fun i => decide (c.nd < i) && (c.ext i != 0 || c.stride i != 0)

/-- The kind admits the direction and the compute type (R207). -/
def kindOk (c : Copy) : Bool :=
  let raw := c.ctype == 0
  match c.kind with
  | 0 => !c.toBox && !raw
  | 1 => raw
  | 2 => !c.toBox && !raw
  | 3 => raw
  | _ => !c.toBox && raw

/-- The pairs of R208. -/
def pairOk (c : Copy) : Bool :=
  match c.sfmt with
  | 5 => c.ctype == 0 || c.ctype == 6
  | 6 => c.ctype == 0 || c.ctype == 5
  | 7 => c.ctype == 0 || c.ctype == 1
  | _ => decide (c.ctype ≤ 5)

/-- The conditions of R209; a prefetch needs no alignment of its box (R218). -/
def formatOk (c : Copy) : Bool :=
  match c.sfmt with
  | 7 => (c.kind == 4 || c.box % 16 == 0) && c.ext 0 % 32 == 0
  | 6 => c.ext 0 % 4 == 0 && c.scale == 0
  | _ => bits c.scale 8 24 == 0 && (bits c.scale 0 8 == 0 || !(c.ctype == 0 || c.ctype == 6))

/-- A window offset range inside one core's scratchpad (R19, R207). -/
def inSpadWindow (o n : Nat) : Bool :=
  decide (o < 0x80000000) && decide (o % 0x10000000 / 0x400000 < 48) && decide (0x100000 ≤ o % 0x400000) &&
    decide (o % 0x400000 + n ≤ 0x160000)

/-- Alignment and place of the chip side (R207, R212). -/
def chipOk (c : Copy) : Bool :=
  match c.kind with
  | 0 => c.chip % 128 == 0 && decide (c.ext 0 * c.csize ≤ 128)
  | 2 => c.chip % 128 == 0 && decide (c.ext 0 * c.csize ≤ 128) && inSpadWindow c.chip (128 * c.rows)
  | 4 => c.chip == 0
  | _ => true

def valid (c : Copy) : Bool :=
  !c.reservedBad && c.kindOk && c.pairOk && c.formatOk && c.chipOk && (!c.rel || c.ring % 8 == 0)

/-- A window offset lies in a register file or an ACC (R19). -/
def inRfAcc (o : Nat) : Bool :=
  decide (o < 0x80000000) && decide (o % 0x10000000 / 0x400000 < 48) &&
    (decide (o % 0x400000 < 0x100000) || decide (0x180000 ≤ o % 0x400000) && decide (o % 0x400000 < 0x1C0000))

/-- A window range of n bytes reaches a register file or an ACC: at its start, or at the next one that begins in it. -/
def reachesRfAcc (o n : Nat) : Bool :=
  let x := o % 0x400000
  inRfAcc o || decide (x < 0x180000) && decide (0x180000 < x + n) && inRfAcc (o - x + 0x180000) ||
    decide (0x400000 < x + n) && inRfAcc (o - x + 0x400000)

/-- A register-file or ACC range that R20 forbids.  The multiple of 4 bytes is asked of each dense row, which is what the
engine moves, and not of the rows' whole area (log entry 87: DESIGN CHOICE). -/
def windowBad (c : Copy) : Bool :=
  c.kind == 3 && !c.empty && reachesRfAcc c.chip (c.rows * c.rowBytes) && (c.chip % 4 != 0 || c.rowBytes % 4 != 0)

/-- The ring record, up to its stage's word, lies beyond the quota (R213). -/
def ringBeyond (c : Copy) (spq : Nat) : Bool := c.rel && decide (spq < c.ring + 8 + 4 * c.stage + 4)

/-- A scratchpad area beyond the quota. -/
def spadBeyond (c : Copy) (spq : Nat) : Bool :=
  decide (c.kind ≤ 1) && !c.empty && decide (spq < c.chip + c.rows * c.chipRow)

/-- The checks at start, in the order of R213; 0: none fails. -/
def startStatus (c : Copy) (spq : Nat) : Nat :=
  if !c.valid then 1
  else if c.disagree then 2
  else if c.windowBad then 5
  else if c.spadBeyond spq || c.ringBeyond spq then 6
  else 0

end Copy

/-! ## TCOPY (R106) -/

/-- Commands of a group that are queued or running (R36). -/
def copiesOf (s : State) (g : Group) : Nat := (g.copyq.filter fun i => (Store.find s.copies i).isSome).length

/-- Every group of the mask has queued a slice. -/
def Copy.queued (c : Copy) : Bool :=
  (List.range 32).all fun g => !bit c.mask g || c.parts.any fun p => p.gidx == g

/-- A group of the mask has ended before it queued its slice; a bit of the mask at or above the team's group count, which
names no group, is taken as that of an ended group (log entry 86: DESIGN CHOICE). -/
def Copy.lost (c : Copy) (d : KDesc) (t : Team) : Bool :=
  (List.range 32).any fun g =>
    bit c.mask g && !(c.parts.any fun p => p.gidx == g) && (t.ended.contains g || decide (d.groups ≤ g))

/-- The team's pending command for a block address. -/
def pendingCopy (s : State) (k addr : Nat) : Option (Nat × Copy) :=
  s.copies.find? fun c => Copy.ofTeam c.2 k && c.2.addr == addr && c.2.state == .pending

/-- A participant joins a command. -/
def Copy.join (c : Copy) (gidx i n : Nat) (mask : W32) (block : BitVec 512) (cov : List Nat) : Copy :=
  { c with
    parts := c.parts ++ [⟨gidx, i⟩],
    disagree := c.disagree || block != c.block || n != c.n || mask != c.mask || c.parts.any fun p => p.slice == i,
    cov := c.cov ++ cov }

/-- Queue slice i of n: open the command or join it; it starts when its mask has queued (R106). -/
def queueSlice (s : State) (gid : Nat) (g : Group) (k : Nat) (t : Team) (addr i n : Nat) (mask : W32)
    (block : BitVec 512) : State :=
  let cov := g.sc.covered s
  let s := released s gid
  let (id, c, s) :=
    match pendingCopy s k addr with
    | some (id, c) => (id, c.join g.gidx i n mask block cov, s)
    | none =>
      (s.nextId,
       { lid := g.lid, tid := g.tid.getD 0, core := coreOf gid, addr := addr, block := block, mask := mask, n := n,
         mode := g.smode, parts := [⟨g.gidx, i⟩], disagree := false, state := .pending, started := false, status := 0,
         next := tabulate n fun _ => 0, srcs := [], vmap := [], placed := false, want := [], held := [],
         stamp := none, stampOk := false, vaddr := 0, cov := cov },
       { s with nextId := s.nextId + 1 })
  let c : Copy :=
    if c.queued then { c with state := .running }
    else if c.lost (s.desc g) t then { c with state := .running, disagree := true }
    else c
  ({ s with copies := Store.put s.copies id c } : State).updGrp gid fun g =>
    { g with copyq := if g.copyq.contains id then g.copyq else g.copyq ++ [id] }

/-- Read a 64-byte block as ordinary loads of a stream: of the scalar stream, at the point of coherence as SLD reads
(R106, R114, R248, R285, R298, R303). -/
def readBlock (s : State) (gid : Nat) (g : Group) (lane : Bool) (addr : Nat) (k : State → BitVec 512 → State) : State :=
  translated s gid g .read (tabulate 8 fun i => (i, addr + 8 * i)) fun s ps =>
    let s := ps.foldl (fun s p => resolve s (p.2.1 / 128)) s
    let rs := ps.map fun p => (p.2.1,
      if lane then plainRead s (coreOf gid) (gid, lane) s.nextId p.1 p.2.1 8 else coherentRead s (coreOf gid) s.nextId p.2.1 8)
    match rs.find? fun r => r.2.isNone with
    | some r => if lane then askFill s (coreOf gid) (r.1 / 128) else askRead s (r.1 / 128)
    | none =>
      let ws := rs.filterMap fun r => r.2.map fun x => (r.1, x)
      match ws.find? fun w => w.2.2.1 with
      | some w => integrity s gid g lane (if lane then g.ctx.lpc else g.spc) w.1 (integInfo 0 0)
      | none =>
        let x := g.str lane
        let g := g.setStr lane { x.gain s (ws.flatMap fun w => w.2.2.2) with
          seen := liveRels s (x.seen ++ ws.flatMap fun w => relsRead s w.1 8 w.2.2.2) }
        k (s.setGrp gid g) (ofBytes 512 (ws.flatMap fun w => w.2.1))

/-- Whether an address is no command block: not a multiple of 64, or bits [63:57] not 0. -/
def blockAddrBad (addr : W64) : Bool := addr.toNat % 64 != 0 || bits addr 57 7 != 0

def execTcopy (a b : BitVec 6) (i nm1 : BitVec 5) (sw : Bool) (s : State) : Host.Outcome State Fault Refusal :=
  withCur s fun gid g =>
    if !roleCopy g then raiseS s gid g .role (roleInfo g)
    else
      inTeam s gid g false fun k t =>
        let addr := sPair s.picks g a.toNat
        let mask := sVal s.picks g b.toNat
        let n := nm1.toNat + 1
        if blockAddrBad addr then raiseS s gid g .operand (opInfo 20)
        else if n ≤ i.toNat then raiseS s gid g .operand (opInfo 1)
        else if !bit mask g.gidx then raiseS s gid g .operand (opInfo 14)
        else if popCount mask ≠ n then raiseS s gid g .operand (opInfo 6)
        else if 64 ≤ copiesOf s g || g.sc.blocked s then s
        else
          readBlock s gid g false addr.toNat fun s block =>
            match s.grp gid with
            | some g => queueSlice (s.setGrp gid (g.nextS sw)) gid (g.nextS sw) k t addr.toNat i.toNat n mask block
            | none => s

/-! ## The chip side (R17, R19, R207) -/

/-- Where a window offset lies: its storage, as OldWord numbers them, and its byte there (R19). -/
def winPlace (o : Nat) : Nat × Nat :=
  let core := 48 * (o / 0x10000000) + o % 0x10000000 / 0x400000
  let x := o % 0x400000
  if x < 0x100000 then (stRf, core * 2 ^ 20 + x)
  else if x < 0x160000 then (stSpad, core * 0x60000 + (x - 0x100000))
  else (stAcc, core * 2 ^ 18 + (x - 0x180000))

/-- Entries of outstanding tile writes that an ACC word will hold: an engine reads it old or new (R198). -/
def zAhead (s : State) (k : Nat) : List W32 :=
  s.groups.flatMap fun e =>
    match e.2.tkey.bind s.team with
    | none => []
    | some t =>
      e.2.ln.out.flatMap fun p => p.writes.flatMap fun w =>
        match w with
        | .z tile es =>
          let b := tileKey t e.2.width tile
          if b ≤ k ∧ k < b + es.length then zKnown [(p.rest, es)] (k - b) else []
        | _ => []

/-- An ACC word as an engine reads it: its contents, what it held before a write in flight, or what an outstanding tile write
will put there (R21, R198); me: the source number of the engine's own writes. -/
def accSeen (s : State) (me k : Nat) : W32 :=
  pickVal s.picks (pkOld stAcc k) (k % 64) 0 (Store.getD 0 s.acc k) (oldsAt s me stAcc k ++ zAhead s k)

/-- A byte of a window as an engine reads it. -/
def winByte (s : State) (me o : Nat) : Byte :=
  let p := winPlace o
  if p.1 = stRf then bits (seeWord s me stRf (p.2 / 4) (Store.getD 0 s.rf (p.2 / 4))) (8 * (p.2 % 4)) 8
  else if p.1 = stSpad then seeByte s me p.2
  else bits (accSeen s me (p.2 / 4)) (8 * (p.2 % 4)) 8

/-- A word of the register file or of the ACC. -/
def wordAt (s : State) (store w : Nat) : W32 := if store = stRf then Store.getD 0 s.rf w else Store.getD 0 s.acc w
def setWord (s : State) (store w : Nat) (v : W32) : State :=
  if store = stRf then { s with rf := Store.putD 0 s.rf w v } else { s with acc := Store.putD 0 s.acc w v }

/-- A writer's bytes reach a word of the register file or of the ACC: readers may still see what was there, and where another
write is in flight either may remain (R21). -/
def putWord (s : State) (src store w : Nat) (new mask : W32) : State :=
  if givesWay s src store w then s
  else
    let now := wordAt s store w
    let v := (now &&& ~~~mask) ||| (new &&& mask)
    noteWord (setWord s store w v) src store w now v mask

/-- Storage bytes, each with its key, written to the register file or the ACC. -/
def wordsPut (s : State) (src store : Nat) (xs : List (Nat × Byte)) : State :=
  ((xs.map fun x => x.1 / 4).eraseDups).foldl (fun s w =>
    let ys := xs.filter fun x => x.1 / 4 == w
    let new := ys.foldl (fun (v : W32) y => v ||| (BitVec.ofNat 32 (y.2.toNat * 2 ^ (8 * (y.1 % 4))))) 0
    putWord s src store w new (wordMask (ys.map (·.1)) w)) s

/-- Words of the register file or of the ACC, written together. -/
def putWords (s : State) (src store : Nat) (ws : List (Nat × W32)) : State :=
  if s.olds.isEmpty then
    let olds := ws.filterMap fun w =>
      if wordAt s store w.1 = w.2 then none else some (⟨store, w.1, wordAt s store w.1, src⟩ : OldWord)
    { ws.foldl (fun s w => setWord s store w.1 w.2) s with olds := olds }
  else ws.foldl (fun s w => putWord s src store w.1 w.2 (BitVec.allOnes 32)) s

/-- The shadow after of a register write becomes TOP. -/
def PWrite.topped (top : Nat → Bool) : PWrite → PWrite
  | .v r ls vs sh o => .v r ls vs (if top r then .top else sh) o
  | w => w

/-- The shadows of registers that lie in a range of a register-file window become TOP, and stay so when a result that is
outstanding lands (R143, R216). -/
def winShadow (s : State) (o n : Nat) : State :=
  let core := 48 * (o / 0x10000000) + o % 0x10000000 / 0x400000
  let x := o % 0x400000
  if 0x100000 ≤ x then s
  else
    { s with groups := s.groups.map fun e =>
        if coreOf e.1 == core then
          let top := fun r => decide (r < e.2.q) && rowsMeet (x / 4, (x + n + 3) / 4)
            (e.2.row0 * 64 + r * e.2.width, e.2.row0 * 64 + (r + 1) * e.2.width)
          let out := e.2.ln.out.map fun p => { p with writes := p.writes.map (PWrite.topped top) }
          (e.1, { e.2 with
            vsh := vtab 256 fun r => if top r then .top else vget e.2.vsh r, ln := { e.2.ln with out := out } })
        else e }

/-- Write bytes of a window (R21). -/
def winWrite (s : State) (src o : Nat) (bs : List Byte) : State :=
  let xs := bs.mapIdx fun i b => (winPlace (o + i), b)
  let of_ := fun st => (xs.filter fun x => x.1.1 == st).map fun x => (x.1.2, x.2)
  let s := wordsPut s src stRf (of_ stRf)
  let s := spadPutAt s src (of_ stSpad)
  winShadow (wordsPut s src stAcc (of_ stAcc)) o bs.length

/-- Physical address of a window offset. -/
def winPa (o : Nat) : Nat := 0x10000000000 + o

/-- A window range reaches a reserved offset: its first. -/
def winBad (o n : Nat) : Option Nat := (tabulate n fun i => winPa (o + i)).find? fun p => !windowOk p

/-- The team's scratchpad or a window, by kind: bytes of the chip side at x. -/
def chipBytes (s : State) (me : Nat) (d : KDesc) (t : Team) (c : Copy) (x n : Nat) : List Byte :=
  if c.kind ≤ 1 then spadBytes s me d t x n else tabulate n fun i => winByte s me (x + i)

/-! ## Conversion (R209, R210) -/

/-- The compute types as lane types. -/
def Copy.cty (c : Copy) : Ty :=
  match c.ctype with
  | 1 => .bf16
  | 2 => .f16
  | 3 => .e4m3
  | 4 => .e5m2
  | _ => .l6

/-- A value times 2^k. -/
def Fv.scale (k : Int) : Fv → Fv
  | .fin n m e => .fin n m (e + k)
  | v => v

/-- The value of an E2M1 nibble under a scale byte. -/
def f4bValue (nib sc : Nat) : Fv :=
  let n := decide (8 ≤ nib % 16)
  let e := nib / 2 % 4
  let f := nib % 2
  if sc = 255 then .nan false
  else if e = 0 ∧ f = 0 then .zero n
  else if e = 0 then .fin n 1 ((sc : Int) - 128)
  else .fin n (2 + f) ((e : Int) - 2 + sc - 127)

/-- Where element k of row r lies: its first byte, its length, and its scale byte. -/
def Copy.eltAt (c : Copy) (r k : Nat) : Nat × Nat × Option Nat :=
  let row := c.rowVa r
  match c.sfmt with
  | 6 => ((row + 3 * (k / 4)) % 2 ^ 57, 3, none)
  | 7 =>
    let a := (row + k / 2) % 2 ^ 57
    let o := (a + 2 ^ 57 - c.box) % 2 ^ 57
    (a, 1, some ((((c.box : Int) + 16 * c.scale.toInt + (o / 16 : Nat)) % 2 ^ 57).toNat))
  | _ => ((row + c.bytesFor k) % 2 ^ 57, c.bytesFor 1, none)

/-- Convert an element to its compute type: pattern, flags, and whether its exact value is finite and not 0. -/
def Copy.conv (c : Copy) (k : Nat) (raw sc : List Byte) : Fres × Bool :=
  let v := fenv c.mode .mode
  let x := leNat raw
  match c.sfmt with
  | 5 => ((x % 256, 0), false)
  | 6 => ((x / 2 ^ (6 * (k % 4)) % 64, 0), false)
  | f =>
    let y : Fv :=
      match f with
      | 0 => fmtF32.read v.daz x
      | 1 => fmtF16.read v.daz x
      | 2 => fmtBF16.read v.daz x
      | 3 => fmtE4M3.read false x
      | 4 => fmtE5M2.read false x
      | _ => f4bValue (x / 16 ^ (k % 2)) (leNat sc)
    let y := if f = 7 then y else y.scale (bits c.scale 0 8).toInt
    let fin := match y with | .fin .. => true | _ => false
    (if c.ctype = 5 then toL6 v c.sat y else cvtTo c.cty v c.sat y, fin)

/-- The statistics of one delivery (R202). -/
def Copy.stat (c : Copy) (r : Fres) (fin : Bool) : Stat :=
  match c.ctype with
  | 6 => ⟨0, 0, 0⟩
  | 5 => ⟨if r.2 &&& fxOf != 0 then 1 else 0, if fin && r.1 == 0 then 1 else 0, if r.1 == 0x20 then 1 else 0⟩
  | _ => (fmtOf c.cty).stat r fin

/-- A byte of the source, of those that the engine has read (R216). -/
def Copy.srcByte (c : Copy) (a : Nat) : Byte :=
  match c.srcs.find? fun x => x.num == a / 32 with
  | some x => nthD 0 x.bytes (a % 32)
  | none => 0

/-- Consecutive bytes of the source; addresses in memory wrap at 2^57. -/
def Copy.srcRange (c : Copy) (a n : Nat) : List Byte := tabulate n fun i => c.srcByte ((a + i) % 2 ^ 57)

/-- Element k of row r, converted, as bytes of the compute type, beyond the extent 0; and its statistics. -/
def Copy.convElt (c : Copy) (r k : Nat) : List Byte × Stat :=
  if c.ext 0 ≤ k then (tabulate c.csize fun _ => 0, ⟨0, 0, 0⟩)
  else
    let e := c.eltAt r k
    let sc := match e.2.2 with | some a => c.srcRange a 1 | none => []
    let v := c.conv k (c.srcRange e.1 e.2.1) sc
    (leBytes c.csize v.1.1, c.stat v.1 v.2)

/-- The elements of a 16-byte chunk of a canonical row. -/
def Copy.chunkElts (c : Copy) (lc : Nat) : List Nat := tabulate (16 / c.csize) fun i => 16 * lc / c.csize + i

/-- The bytes and the statistics of a chunk. -/
def Copy.convChunk (c : Copy) (r lc : Nat) : List Byte × Stat :=
  let xs := (c.chunkElts lc).map (c.convElt r)
  (xs.flatMap (·.1), Stat.sum (xs.map (·.2)))

/-! ## Slices and progress (R213, R219) -/

/-- Rows of slice i. -/
def Copy.sliceRows (c : Copy) (i : Nat) : List Nat :=
  let lo := i * c.rows / c.n
  let hi := (i + 1) * c.rows / c.n
  tabulate (hi - lo) fun j => lo + j

/-- A piece of a row that lies in one 32-byte sector of the destination: row, offset in the row, length. -/
structure Part32 where
  row : Nat
  off : Nat
  len : Nat
  deriving DecidableEq, Repr, Inhabited

/-- The pieces of a row, in ascending address. -/
def Copy.rowParts (c : Copy) (r : Nat) : List Part32 :=
  if c.canon then tabulate 4 fun j => ⟨r, 32 * j, 32⟩
  else
    let a := if c.toBox then c.rowVa r else c.chip + r * c.rowBytes
    (splitRange 32 a c.rowBytes).map fun p => ⟨r, p.1 - a, p.2⟩

/-- The destination address of a piece: of the box, of the window range, or in the team's scratchpad. -/
def Copy.dstAt (c : Copy) (p : Part32) : Nat :=
  if c.toBox then (c.rowVa p.row + p.off) % 2 ^ 57
  else if c.canon then c.chip + 128 * p.row + p.off
  else c.chip + p.row * c.rowBytes + p.off

/-- Pieces that follow each other in one destination sector are written together. -/
def Copy.bySector (c : Copy) : List Part32 → List (List Part32)
  | [] => []
  | p :: ps =>
    match c.bySector ps with
    | (q :: qs) :: rest => if c.dstAt p / 32 = c.dstAt q / 32 then (p :: q :: qs) :: rest else [p] :: (q :: qs) :: rest
    | r => [p] :: r

/-- The destination sectors of slice i, each as its pieces, in the order in which the slice writes them (R219). -/
def Copy.parts32 (c : Copy) (i : Nat) : List (List Part32) := c.bySector ((c.sliceRows i).flatMap c.rowParts)

/-- All parts of every slice are written. -/
def Copy.allWritten (c : Copy) : Bool :=
  c.kind == 4 || c.empty || (List.range c.n).all fun i => decide ((c.parts32 i).length ≤ nthD 0 c.next i)

/-- What a step of a command comes to: it goes on, waits, or is stopped. -/
inductive Went
  | on
  | wait
  | mismatch (pa : Nat)
  | fault (kind va : Nat)
  | outside (pa : Nat)
  deriving DecidableEq, Repr

/-- Scratchpad row number of a canonical row, which the swizzle uses: p / 128. -/
def canonRowNo (d : KDesc) (t : Team) (c : Copy) (r : Nat) : Nat :=
  if c.kind = 0 then spadKey d t (c.chip + 128 * r) / 128 else (c.chip % 0x400000 - 0x100000 + 128 * r) / 128

/-- The logical chunks of a canonical row that a piece of it holds (R212). -/
def pieceChunks (d : KDesc) (t : Team) (c : Copy) (p : Part32) : List Nat :=
  let m := canonRowNo d t c p.row % 8
  [(p.off / 16) ^^^ m, (p.off / 16 + 1) ^^^ m]

/-- The source bytes of a piece: first address and length of each run (R206, R209). -/
def srcRuns (d : KDesc) (t : Team) (c : Copy) (p : Part32) : List (Nat × Nat) :=
  if c.toBox then [(c.chip + p.row * c.rowBytes + p.off, p.len)]
  else if c.canon then
    ((pieceChunks d t c p).flatMap c.chunkElts).flatMap fun k =>
      if c.ext 0 ≤ k then []
      else
        let e := c.eltAt p.row k
        (e.1, e.2.1) :: (match e.2.2 with | some a => [(a, 1)] | none => [])
  else [((c.rowVa p.row + p.off) % 2 ^ 57, p.len)]

/-- The source sectors of a piece that the engine has not read, each by the first address that is needed of it. -/
def srcNeed (d : KDesc) (t : Team) (c : Copy) (p : Part32) : List Nat :=
  (((srcRuns d t c p).flatMap fun r => (splitRange 32 r.1 r.2).map fun x => x.1 % 2 ^ 57).foldl (fun l a =>
    if l.any fun b => b / 32 == a / 32 then l else l ++ [a]) []).filter fun a => !(c.srcs.any fun x => x.num == a / 32)

/-- Read the source sector that holds an address, at its home, or of the chip side (R216). -/
def readSector (s : State) (id die asp : Nat) (d : KDesc) (t : Team) (c : Copy) (a : Nat) : State × ERead :=
  let lo := 32 * (a / 32)
  if c.toBox then (s, .ok (chipBytes s id d t c lo 32) none)
  else
    let s := keepTr s die asp a
    match translate s die asp a .read with
    | .ok pa _ =>
      let s := if (paKind s pa).line then resolve s (pa / 128) else s
      (s, paRead s (32 * (pa / 32)) 32)
    | .fault kind => (s, .fault kind a)
    | .blocked line => (s, .blocked line)

/-- Read source sectors: the state, the command with them, and what stops the reading. -/
def readSectors (id die asp : Nat) (d : KDesc) (t : Team) : State → Copy → List Nat → State × Copy × Went
  | s, c, [] => (s, c, .on)
  | s, c, a :: as =>
    match readSector s id die asp d t c a with
    | (s, .ok bs none) => readSectors id die asp d t s { c with srcs := c.srcs ++ [⟨a / 32, bs⟩] } as
    | (s, .ok _ (some pa)) => (s, c, .mismatch pa)
    | (s, .blocked line) => (askRead s line, c, .wait)
    | (s, .fault kind va) => (s, c, .fault kind va)
    | (s, .outside pa) => (s, c, .outside pa)

/-- The payload of a piece, once its source is read, and its statistics (R210, R212). -/
def payload (d : KDesc) (t : Team) (c : Copy) (p : Part32) : List Byte × Stat :=
  if !c.toBox && c.canon then
    let xs := (pieceChunks d t c p).map (c.convChunk p.row)
    (xs.flatMap (·.1), Stat.sum (xs.map (·.2)))
  else
    match srcRuns d t c p with
    | r :: _ => (c.srcRange r.1 r.2, ⟨0, 0, 0⟩)
    | [] => ([], ⟨0, 0, 0⟩)

/-- The first reserved window address of a sector's pieces, source or destination (R19, R213). -/
def piecesBad (c : Copy) (ps : List Part32) : Option Nat :=
  if c.kind = 3 then ps.findSome? fun p => winBad (c.chip + p.row * c.rowBytes + p.off) p.len else none

/-- Write the payload of the pieces of one destination sector: into a line of the box that the command holds, or on the chip
side. -/
def sectorWrite (s : State) (id : Nat) (d : KDesc) (t : Team) (c : Copy) (ps : List Part32) : State × Went :=
  let xs := ps.map fun p => (c.dstAt p, payload d t c p)
  match xs with
  | [] => (s, .on)
  | x :: _ =>
    if c.toBox then
      match c.vmap.find? fun e => e.1 == x.1 / 128 with
      | none => (s, .wait)
      | some e =>
        if !c.held.contains e.2.1 then (s, .wait)
        else (writePieces s (xs.map fun y => (128 * e.2.1 + y.1 % 128, y.2.1)), .on)
    else
      let put := fun (s : State) (y : Nat × List Byte × Stat) =>
        if c.kind = 0 then
          -- the canonical row lies where R17 maps its first byte
          let row := spadKey d t (128 * (y.1 / 128))
          spadPutAt s id (y.2.1.mapIdx fun i b => (row + y.1 % 128 + i, b))
        else if c.kind = 1 then spadPut s id d t y.1 y.2.1
        else winWrite s id y.1 y.2.1
      (addStats (xs.foldl put s) c.lid c.tensor (Stat.sum (xs.map fun y => y.2.2)), .on)

/-- One destination sector of a command: what is not read yet of its source is read now, and its payload is written. -/
def sectorStep (s : State) (id die asp : Nat) (d : KDesc) (t : Team) (c : Copy) (ps : List Part32) : State × Copy × Went :=
  match piecesBad c ps with
  | some pa => (s, c, .outside pa)
  | none =>
    match readSectors id die asp d t s c ((ps.flatMap (srcNeed d t c)).foldl (fun l a =>
        if l.any fun b => b / 32 == a / 32 then l else l ++ [a]) []) with
    | (s, c, .on) =>
      let r := sectorWrite s id d t c ps
      (r.1, c, r.2)
    | r => r

/-- Read the source of a sector before it is written: at some moment between start and completion (R216).  What cannot be read
now is read later. -/
def readAhead (s : State) (id die asp : Nat) (d : KDesc) (t : Team) (c : Copy) (i j : Nat) : State × Copy :=
  match (c.parts32 i)[j]? with
  | none => (s, c)
  | some ps =>
    if decide (c.n ≤ i) || (piecesBad c ps).isSome then (s, c)
    else
      (ps.flatMap (srcNeed d t c)).foldl (fun (r : State × Copy) a =>
        if r.2.srcs.any fun x => x.num == a / 32 then r
        else
          match readSectors id die asp d t r.1 r.2 [a] with
          | (s, c, .on) => (s, c)
          | _ => r) (s, c)

/-- Sectors of slice i, until something stops it: the state, the command, and what stopped it. -/
def runParts (id die asp : Nat) (d : KDesc) (t : Team) (i : Nat) : State → Copy → List (List Part32) → State × Copy × Went
  | s, c, [] => (s, c, .on)
  | s, c, p :: ps =>
    match sectorStep s id die asp d t c p with
    | (s, c, .on) => runParts id die asp d t i s { c with next := setNth c.next i (nthD 0 c.next i + 1) } ps
    | r => r

/-- Slices from i on, each up to the sector count given (all of it when none is given). -/
def runSlices (id die asp : Nat) (d : KDesc) (t : Team) (prog : List Nat) : State → Copy → List Nat → State × Copy × Went
  | s, c, [] => (s, c, .on)
  | s, c, i :: is =>
    let ps := c.parts32 i
    let lo := nthD 0 c.next i
    let hi := min (nthD ps.length prog i) ps.length
    match runParts id die asp d t i s c ((ps.take hi).drop lo) with
    | (s, c, .on) => runSlices id die asp d t prog s c is
    | r => r

/-! ## Start, stop and completion -/

def State.setCopy (s : State) (id : Nat) (c : Copy) : State := { s with copies := Store.put s.copies id c }

/-- The translations of the lines that the command does not own are to be made again; kept: its request for the next line is at
that line's home already (R241). -/
def Copy.replan (c : Copy) (kept : Bool) : Copy :=
  let want := if kept then c.want.take 1 else []
  { c with placed := false, want := want, vmap := c.vmap.filter fun e => c.held.contains e.2.1 || want.contains e.2.1 }

/-- A changed translation takes effect: the copy commands translate anew what they have still to ask for (R241). -/
def replanCopies (s : State) : State :=
  { s with copies := s.copies.map fun e =>
      (e.1, if e.2.placed then
          e.2.replan (e.2.state == .running && (match e.2.want with | l :: _ => s.waits.contains (l, e.1) | [] => false))
        else e.2) }

/-- A command as it stops: what it has read of its source is read again, and its stamp and the lines that it does not own are
translated again, when it goes on. -/
def Copy.stop (c : Copy) (why va : Nat) : Copy :=
  { c.replan false with state := .stopped why, vaddr := va, stampOk := false, srcs := [] }

/-- The command stops at a translation fault (R219), and its team is swapped out. -/
def stopCopy (s : State) (id : Nat) (c : Copy) (kind va : Nat) : State :=
  faultCmd (((dropWriter (dropOlds s id) (.cmd id))).setCopy id (c.stop 2 va)) c.lid c.tid c.core 0xFE kind va

/-- The TCE freezes with the command in place (R213, R345). -/
def freezeCopy (s : State) (id : Nat) (c : Copy) (viol pa : Nat) : State :=
  freezeEngine (s.setCopy id { c with state := .frozen }) 2 c.core c.lid c.tid viol pa

/-- The checks of R213, once. -/
def Copy.checked (c : Copy) (d : KDesc) : Copy :=
  if c.started then c
  else { c with started := true, status := if c.status = 0 then c.startStatus d.spq else c.status }

/-- Translate the stamp (R358); a command that system software ends writes none where the translation fails (log entry 103). -/
def placeStamp (s : State) (id : Nat) (c : Copy) (die asp : Nat) (k : State → Copy → State) : State :=
  if c.stampa = 0 ∨ c.stampOk then k s c
  else
    let s := keepTr s die asp c.stampa
    match engPlace s die asp c.stampa with
    | .ok pa r => k s { c with stamp := some ⟨pa, r⟩, stampOk := true }
    | .fault kind va => if c.status = 8 then k s { c with stamp := none, stampOk := true } else stopCopy s id c kind va
    | .blocked line => askRead s line
    | .outside pa => if c.status = 8 then k s { c with stamp := none, stampOk := true } else freezeCopy s id c 1 pa

/-- The virtual lines of the box, each once, in ascending order. -/
def Copy.boxLines (c : Copy) : List Nat :=
  ((List.range c.rows).flatMap fun r => (splitRange 128 (c.rowVa r) c.rowBytes).map fun p => p.1 % 2 ^ 57 / 128).foldl
    (fun (m : List (Nat × Unit)) l => Store.put m l ()) [] |>.map (·.1)

/-- Every sector of the payload in this line of the box is written. -/
def Copy.boxDone (c : Copy) (l : Nat) : Bool :=
  (List.range c.n).all fun i =>
    ((c.parts32 i).drop (nthD 0 c.next i)).all fun ps => ps.all fun p => c.dstAt p / 128 != l

/-- Translate the lines that the command has still to own, in ascending physical address (R232, R241). -/
def placeLines (s : State) (id : Nat) (c : Copy) (die asp : Nat) (k : State → Copy → State) : State :=
  if !c.toBox || c.status != 0 || c.empty || c.placed then k s c
  else
    let ls := c.boxLines.filter fun l => !(c.vmap.any fun e => e.1 == l) && !c.boxDone l
    let s := keepTrs s die asp (ls.map fun l => 128 * l)
    let ts := ls.map fun l => (l, engPlace s die asp (128 * l))
    match ts.find? fun t => match t.2 with | .ok .. => false | _ => true with
    | some (_, .fault kind va) => stopCopy s id c kind va
    | some (_, .blocked line) => askRead s line
    | some (_, .outside pa) => freezeCopy s id c 1 pa
    | _ =>
      let vm := ts.filterMap fun t => match t.2 with | .ok pa r => some (t.1, pa / 128, r) | _ => none
      let new := (vm.filter fun e => !c.held.contains e.2.1 && !c.want.contains e.2.1).foldl
        (fun (m : List (Nat × Unit)) e => Store.put m e.2.1 ()) []
      k s { c with vmap := c.vmap ++ vm, placed := true, want := c.want ++ new.map (·.1) }

/-- Bring a command to the point where its accesses may begin: its checks, its translations, and the accesses it follows
(R256). -/
def readyCopy (s : State) (id : Nat) (c : Copy) (k : State → Copy → KDesc → Team → State) : State :=
  match s.team (teamKey c.lid c.tid), s.launch c.lid with
  | some t, some l =>
    let die := dieOf c.core
    placeStamp s id (c.checked l.desc) die l.asp fun s c =>
      placeLines s id c die l.asp fun s c =>
        let s := s.setCopy id c
        if (live s c.cov).isEmpty then k s c l.desc t else s
  | _, _ => s

/-- The same for a running command whose engine is not frozen. -/
def withCopy (s : State) (id : Nat) (k : State → Copy → KDesc → Team → State) : State :=
  match Store.find s.copies id with
  | none => s
  | some c => if c.state != .running || engineFrozen s 2 c.core then s else readyCopy s id c k

/-- Take the next line, when the home serves the command's request: it becomes ENGINE-HELD (R222, R232). -/
def ownLine (s : State) (id : Nat) (c : Copy) : State :=
  match c.want with
  | [] => s
  | l :: rest =>
    let s := resolve s l
    if !(lineFree s l && mayServe s l id) then askWrite (arriveAt s l id) l
    else
      let s := if (inHbm (128 * l)) && !inHostBias s l then setEly s l 5 else s
      s.setCopy id { c with want := rest, held := c.held ++ [l] }

def execEngineLineOwnership (cmd : Nat) (s : State) : Host.Outcome State Fault Refusal :=
  done (withCopy s cmd fun s c _ _ => ownLine s cmd c)

/-- Dies of the replicas of a line that the command holds. -/
def Copy.replOf (c : Copy) (line : Nat) : BitVec 8 := ((c.vmap.find? fun e => e.2.1 == line).map (·.2.2)).getD 0

/-- The payload of a replicated line is written into every replica, with check values for each (R234). -/
def commitReplicas (s : State) (line : Nat) (repl : BitVec 8) : State :=
  ((replicaLines line repl).filter fun l => l != line).foldl (fun s l =>
    let s := writeMem s (128 * l) (memBytes s (128 * line) 128)
    { s with chk := (List.range 4).foldl (fun m i => Store.putD 0 m (4 * l + i) (Store.getD 0 s.chk (4 * line + i))) s.chk }) s

/-- Release a held line: its writes are performed and it is UNCACHED; of a replicated page once every other replica is locked
(R234), and false while one must wait. -/
def dropLine (s : State) (id : Nat) (c : Copy) (line : Nat) : State × Copy × Bool :=
  let w := Writer.id (.cmd id)
  let others := (replicaLines line (c.replOf line)).filter fun l => l != line
  match lockLines w s others with
  | (s, false) => (s, c, false)
  | (s, true) =>
    if others.any (inWindow s) then (s, c, false)
    else
      let s := unlock (commitReplicas s line (c.replOf line)) w others
      let s := if (inHbm (128 * line)) && !inHostBias s line then setEly s line 0 else s
      let c := { c with held := c.held.filter fun l => l != line }
      (s.setCopy id c, c, true)

/-- Every sector of the payload in this line is written. -/
def Copy.lineDone (c : Copy) (line : Nat) : Bool :=
  (List.range c.n).all fun i =>
    ((c.parts32 i).drop (nthD 0 c.next i)).all fun ps => ps.all fun p =>
      match c.vmap.find? fun e => e.1 == c.dstAt p / 128 with
      | some e => e.2.1 != line
      | none => true

def execEngineLineRelease (cmd line : Nat) (s : State) : Host.Outcome State Fault Refusal :=
  done (withCopy s cmd fun s c _ _ =>
    if c.held.contains line && c.lineDone line then (dropLine s cmd c line).1 else s)

/-- Release all lines held; false while one must wait. -/
def dropLines (id : Nat) : List Nat → State → Copy → State × Copy × Bool
  | [], s, c => (s, c, true)
  | l :: ls, s, c =>
    match dropLine s id c l with
    | (s, c, true) => dropLines id ls s c
    | r => r

/-- Scratchpad bytes of a team as its ring holds them: of a saved team, in its slot (R330). -/
def teamSpad (s : State) (d : KDesc) (t : Team) (x n : Nat) : List Byte :=
  match t.state, t.slot with
  | .out, some pa => heldBytes s (pa + spOff + x) n
  | _, _ => spadNow s d t x n

/-- The ring step at completion: the word after the arrival; none: STGREL would refuse it (R213 code 7). -/
def Copy.ringStep (c : Copy) (s : State) (d : KDesc) (t : Team) : Option W32 :=
  if leNat (teamSpad s d t c.ring 2) ≤ c.stage then none else arrive (ofBytes 32 (teamSpad s d t (stageAddr c.ring c.stage) 4))

/-- The ring's word takes the arrival. -/
def ringWrite (s : State) (d : KDesc) (t : Team) (x : Nat) (w : W32) : State :=
  match t.state, t.slot with
  | .out, some pa => homeWrite s (pa + spOff + x) (bytesOf w)
  | _, _ => spadWrite s d t x (bytesOf w)

/-- The completed commands that a group counts, in the order it gave them (R107). -/
def Group.countCopies (s : State) (g : Group) : Group :=
  let ended := g.copyq.takeWhile fun i => (Store.find s.copies i).isNone
  { g with copyq := g.copyq.drop ended.length, ccopy := g.ccopy + BitVec.ofNat 16 ended.length }

/-- CCOPY counts completed commands in the order the group gave them (R107). -/
def countCopies (s : State) (gidx : Nat) (k : Nat) : State :=
  mapTeamGroups s k fun g => if g.gidx == gidx then g.countCopies s else g

/-- The ring and its stage's word are there for the release of a command, which a failed command makes too (R213). -/
def Copy.ringMade (c : Copy) (d : KDesc) (t : Team) : Bool :=
  c.rel && c.ring % 8 == 0 && !c.ringBeyond d.spq && decide (t.ended.length < d.groups)

/-- The shadows of the registers that a command has written become TOP as its writes complete (R34, R216). -/
def Copy.topShadows (c : Copy) (s : State) : State :=
  if c.toBox || c.kind != 3 then s
  else
    (List.range c.n).foldl (fun s i =>
      ((c.parts32 i).take (nthD 0 c.next i)).foldl (fun s ps => ps.foldl (fun s p => winShadow s (c.dstAt p) p.len) s) s) s

/-- The command has completed: its writes are no longer in flight, then the ring release and the counters (R213, R215 steps 3
and 4). -/
def closeCopy (s : State) (id : Nat) (c : Copy) (d : KDesc) (t : Team) (status : Nat) : State :=
  let k := teamKey c.lid c.tid
  let s := c.topShadows (dropOlds s id)
  let s :=
    if c.ringMade d t && status != 7 then
      match c.ringStep s d t with
      | some w =>
        (ringWrite s d t (stageAddr c.ring c.stage) w).updTeam k fun t => addRing t (stageAddr c.ring c.stage) []
      | none => s
    else s
  let s := { s with copies := Store.del s.copies id }
  reap (c.parts.foldl (fun s p => countCopies s p.gidx k) s) k

/-- The lines of a saved team's slot that the end of a command writes. -/
def Copy.slotOffs (c : Copy) (t : Team) : List Nat :=
  if t.state == .out then
    (if c.rel then [spOff + stageAddr c.ring c.stage] else []) ++ c.parts.map fun p => gOff p.gidx + 0x558
  else []

/-- Completion (R215): the stamp is written once every line is released; the command ends when it is performed. -/
def finishCopy (s : State) (id : Nat) (c : Copy) (d : KDesc) (t : Team) : State :=
  let s := s.setCopy id c
  match dropLines id c.held s { c with want := [] } with
  | (s, c, false) => s.setCopy id c
  | (s, c, true) =>
    let stamp := match c.stamp with | none => [] | some p => [p]
    match engAll (.cmd id) s (stamp ++ slotPlaces t (c.slotOffs t)) with
    | (s, false) => s
    | (s, true) =>
      let s := dropWriter s (.cmd id)
      let status := if c.status = 0 ∧ c.rel ∧ t.ended.length < d.groups ∧ (c.ringStep s d t).isNone then 7 else c.status
      closeCopy (stamp.foldl (fun s p => engPut s p (leBytes 8 (status * 2 ^ 32 + c.seqw))) s) id c d t status

/-- A prefetch asks for every line of its box that can be translated (R154, R218). -/
def prefetch (s : State) (c : Copy) (die asp : Nat) : State :=
  c.boxLines.foldl (fun s l =>
    match translate s die asp (128 * l) .read with
    | .ok pa _ => if (paKind s pa).line then askRead s (pa / 128) else s
    | _ => s) s

/-- One step of a running command: sources are read ahead, and sectors written up to the counts given; it completes in a later
step than the one that writes the last of them, and until then its writes are in flight (R21).  The counts stand first in
`prog`, then the sectors whose source is read ahead, sector j of slice i as 32 × j + i.  A sector of a line that the command
does not hold yet waits (R232). -/
def copyStep (s : State) (id : Nat) (prog : List Nat) : State :=
  withCopy s id fun s c d t =>
    let die := dieOf c.core
    let asp := ((s.launch c.lid).map (·.asp)).getD 0
    if c.status != 0 || c.empty || c.kind != 4 && c.allWritten then finishCopy s id c d t
    else
      let s := keepTrs s die asp (c.boxLines.map fun l => 128 * l)
      if c.kind = 4 then finishCopy (prefetch s c die asp) id c d t
      else
        let (s, c) := (prog.drop c.n).foldl (fun r e => readAhead r.1 id die asp d t r.2 (e % 32) (e / 32)) (s, c)
        match runSlices id die asp d t (prog.take c.n) s c (List.range c.n) with
        | (s, c, .on) | (s, c, .wait) => s.setCopy id c
        | (s, c, .mismatch pa) =>
          if freezeRegion s pa then freezeCopy s id c 2 pa else finishCopy s id { c with status := 3 } d t
        | (s, c, .fault kind va) => stopCopy s id c kind va
        | (s, c, .outside pa) => freezeCopy s id c 1 pa

/-- A PREFETCH of a team that is saved is abandoned: it completes without bringing more lines (R218). -/
def endPrefetch (s : State) (id : Nat) : State :=
  match Store.find s.copies id with
  | some c => readyCopy s id c fun s c d t => finishCopy s id c d t
  | none => s

def execCopyCommandComplete (cmd : Nat) (prog : List Nat) (s : State) : Host.Outcome State Fault Refusal :=
  done (copyStep s cmd prog)

end Sys2Proof.Machine
end

