-- ==== Sys2Proof/Machine/Attention.lean ====
section
/-!
DEFINITION. Attention.lean: ATTN and the attention engine (spec/22_attention_engine.md R284 to R294).
-/
namespace Sys2Proof.Machine

open Sys2Proof

/-! ## The block (R286) -/

namespace Attn

def map_ (c : Attn) : Nat := fld c.block 0 0 57
def q (c : Attn) : Nat := fld c.block 8 0 32
def nkeys (c : Attn) : Nat := fld c.block 0x0C 0 32
def stampa (c : Attn) : Nat := 8 * fld c.block 0x10 3 54
def seqw (c : Attn) : Nat := fld c.block 0x18 0 32
def scale (c : Attn) : Nat := fld c.block 0x1C 0 32
def qpos (c : Attn) : Nat := fld c.block 0x20 0 32
def kmin (c : Attn) : Nat := fld c.block 0x24 0 32
def tensor (c : Attn) : Nat := fld c.block 0x28 20 8
def tyCode (c : Attn) : Nat := fld c.block 0x28 16 4
def zs (c : Attn) : Nat := fld c.block 0x28 8 8
def zo (c : Attn) : Nat := fld c.block 0x28 0 8
def qpad (c : Attn) (r : Nat) : Bool := bit c.block (8 * 0x2C + r)
def mask (c : Attn) : Nat := fld c.block 0x30 0 57
def mstride (c : Attn) : Nat := fld c.block 0x38 0 32
def reload (c : Attn) : Bool := bit c.ctl 4
def fin (c : Attn) : Bool := bit c.ctl 3
def emask (c : Attn) : Bool := bit c.ctl 2
def causal (c : Attn) : Bool := bit c.ctl 1
def init (c : Attn) : Bool := bit c.ctl 0

/-- The element type. -/
def ty (c : Attn) : Ty :=
  match c.tyCode with
  | 9 => .f16
  | 10 => .bf16
  | 11 => .e4m3
  | _ => .e5m2
/-- The type is one of R286's. -/
def tyOk (c : Attn) : Bool := decide (9 ≤ c.tyCode) && decide (c.tyCode ≤ 12)
/-- Elements of a row. -/
def k (c : Attn) : Nat := if c.tyCode ≤ 10 then 64 else 128
/-- Output tiles at a width. -/
def tiles (c : Attn) (w : Nat) : List Nat := tabulate (c.k / 16) fun t => c.zo + (if w = 64 then 2 * t else t)

/-- A reserved field is not 0, or a field is outside R286 (R291 code 1). -/
def bad (c : Attn) (m : Nat) : Bool :=
  fld c.block 0 57 7 != 0 || fld c.block 0x10 57 7 != 0 || fld c.block 0x10 0 3 != 0 || fld c.block 0x28 28 4 != 0 ||
    fld c.block 0x30 57 7 != 0 || fld c.block 0x3C 0 32 != 0 || fld c.block 0x2C m (32 - m) != 0 || !c.tyOk ||
    c.map_ % 64 != 0 || c.q % 128 != 0 || decide (0x100000 < c.nkeys) ||
    decide (0x100000000 < c.p0.toNat + c.nkeys) || (c.emask && c.mstride % 8 != 0)

end Attn

/-! ## ATTN (R285) -/

/-- The smallest tile outside the allocation. -/
def badTile (d : KDesc) (w : Nat) (ts : List Nat) : Option Nat :=
  (ts.filter (tileBeyond d w)).foldl (fun r t => match r with | none => some t | some u => some (min t u)) none

/-- The checks of the block's tiles (R285 step 7). -/
def attnTiles (s : State) (gid : Nat) (g : Group) (c : Attn) (k : State) : State :=
  let w := g.width
  let out := c.tiles w
  if !c.tyOk then k
  else
    match badTile (s.desc g) w (out ++ [c.zs]) with
    | some t => raiseS s gid g .quota (quotaInfo 3 t)
    | none =>
      if w == 64 && (c.zo % 2 == 1 || c.zs % 2 == 1) then raiseS s gid g .operand (opInfo 20)
      else if out.contains c.zs then raiseS s gid g .operand (opInfo 20)
      else if (out ++ [c.zs]).any (touched g) then raiseS s gid g .chain 9
      else k

/-- ATE commands of a group that are queued or running. -/
def attnsOf (s : State) (g : Group) : List (Nat × Attn) :=
  s.attns.filter fun a => a.2.lid == g.lid && some a.2.tid == g.tid && a.2.gidx == g.gidx

def execAttn (a b : BitVec 6) (ctl : BitVec 5) (sw : Bool) (s : State) : Host.Outcome State Fault Refusal :=
  withCur s fun gid g =>
    if !roleMatrix g then raiseS s gid g .role (roleInfo g)
    else
      inTeam s gid g false fun _ _ =>
        let addr := sPair s.picks g a.toNat
        if !hasFeat s gid 0 then raiseS s gid g .feature 0
        else if blockAddrBad addr then raiseS s gid g .operand (opInfo 20)
        else if g.width = 16 then raiseS s gid g .operand (opInfo 0)
        else if 64 ≤ (attnsOf s g).length || g.sc.blocked s then s
        else
          let p0 := sVal s.picks g b.toNat
          readBlock s gid g false addr.toNat fun s block =>
            match s.grp gid with
            | none => s
            | some g =>
              let c : Attn :=
                { lid := g.lid, tid := g.tid.getD 0, gidx := g.gidx, core := coreOf gid, block := block, p0 := p0,
                  ctl := ctl, mode := g.smode, state := .pending, started := false, status := 0, next := 0, stale := 0,
                  looks := 0, qs := none, got := [], map := none, acc := none, fined := false, mapPa := none, stamp := none,
                  stampOk := false, vaddr := 0, cov := g.sc.covered s }
              attnTiles s gid g c
                (({ released s gid with attns := Store.put s.attns s.nextId c, nextId := s.nextId + 1 } : State).setGrp gid
                  (g.nextS sw))

/-! ## Arithmetic of the engine (R290) -/

/-- An F32 operation on two patterns. -/
def f2 (v : Fenv) (op : Fmt → Fenv → Fv → Fv → Fres) (a b : W32) : Fres :=
  op fmtF32 v (fmtF32.read v.daz a.toNat) (fmtF32.read v.daz b.toNat)
def fw (r : Fres) : W32 := BitVec.ofNat 32 r.1
def fAdd (v : Fenv) (a b : W32) : W32 := fw (f2 v Fmt.addV a b)
def fSub (v : Fenv) (a b : W32) : W32 := fw (f2 v (fun f v x y => f.addV v x y.flip) a b)
def fMul (v : Fenv) (a b : W32) : W32 := fw (f2 v Fmt.mulV a b)
def fMax (v : Fenv) (a b : W32) : W32 := fw (fmtF32.minmax v true a.toNat b.toNat)
def fExp2 (v : Fenv) (a : W32) : W32 := fw (fmtF32.exp2V v (fmtF32.read v.daz a.toNat))
def fFma (v : Fenv) (a b c : W32) : Fres :=
  fmtF32.fmaV v (fmtF32.read v.daz a.toNat) (fmtF32.read v.daz b.toNat) (fmtF32.read v.daz c.toNat)

/-- −∞ in F32. -/
def negInf : W32 := 0xFF800000

/-- An exact sum of terms, rounded to F32; a term that is none is a NaN. -/
def sumOf (v : Fenv) : List (Option Fv) → Fres × Bool
  | [] => ((0, 0), false)
  | none :: ts => (ts.foldl ESum.add ⟨0, 3, none⟩).give v
  | some x :: ts => (ts.foldl ESum.add (ESum.start x)).give v

/-- A product, none when it is a NaN. -/
def prodV (x y : Fv) : Option Fv := if x.isNan || y.isNan then none else x.mul y

/-- The elements of a row of 128 bytes. -/
def Attn.elts (c : Attn) (v : Fenv) (bs : List Byte) : List Fv :=
  if c.tyCode ≤ 10 then (halves bs).map ((fmtOf c.ty).read v.daz) else bs.map fun b => (fmtOf c.ty).read false b.toNat

/-- bf16(x): FCVT to BF16 under RNE. -/
def bf16Of (v : Fenv) (x : W32) : Fv :=
  fmtBF16.read false (cvtTo .bf16 { v with rm := .rne } false (fmtF32.read v.daz x.toNat)).1

/-! ## Tiles -/

/-- ACC word of dimension d of output row r. -/
def Attn.outKey (c : Attn) (t : Team) (w r d : Nat) : Nat :=
  tileKey t w (nthD 0 (c.tiles w) (d / 16)) + 16 * r + d % 16

/-- The tile as the engine takes it at start: init's values, or what the tiles hold (R290, R293). -/
def loadAcc (s : State) (id : Nat) (c : Attn) (t : Team) (w : Nat) : AttnAcc :=
  let m := mRows w
  if c.init && c.next == 0 then
    ⟨tabulate (m * c.k) fun _ => 0, tabulate m fun _ => negInf, tabulate m fun _ => 0, [0, 0, 0, 0, 0, 0]⟩
  else
    let st := tileKey t w c.zs
    ⟨tabulate (m * c.k) fun i => accSeen s id (c.outKey t w (i / c.k) (i % c.k)),
     tabulate m fun r => accSeen s id (st + 16 * r), tabulate m fun r => accSeen s id (st + 16 * r + 1),
     (c.acc.map (·.st)).getD [0, 0, 0, 0, 0, 0]⟩

/-- The words of the output tiles. -/
def outWords (c : Attn) (t : Team) (w : Nat) (a : AttnAcc) : List (Nat × W32) :=
  (List.range (mRows w * c.k)).map fun i => (c.outKey t w (i / c.k) (i % c.k), nthD 0 a.o i)

/-- The words of the maxima, the sums and the flag words; a padding row keeps its entries unless init gave it some (R288). -/
def statWords (c : Attn) (t : Team) (w : Nat) (a : AttnAcc) : List (Nat × W32) :=
  (List.range (mRows w)).flatMap fun r =>
    if c.qpad r && !c.init then []
    else
      ([nthD 0 a.m r, nthD 0 a.l r, if nthD 0 a.m r == negInf then 1 else 0] ++ tabulate 13 fun _ => 0).mapIdx fun i v =>
        (tileKey t w c.zs + 16 * r + i, v)

/-- Write the output tiles, as a window write (R21, R292). -/
def writeOut (s : State) (id : Nat) (c : Attn) (t : Team) (w : Nat) (a : AttnAcc) : State :=
  putWords s id stAcc (outWords c t w a)

/-- Write the output tiles, the maxima, the sums and the flag words. -/
def writeTiles (s : State) (id : Nat) (c : Attn) (t : Team) (w : Nat) (a : AttnAcc) : State :=
  putWords s id stAcc (outWords c t w a ++ statWords c t w a)

/-! ## One block of keys (R288 to R290) -/

/-- What reading for a block has found so far: visible rows by key, the rows of K and V of the keys used, stale and resolved
positions, and whether something is left for a later step; or what stops it. -/
inductive BRead
  | ok (keys : List (Nat × List Bool × List Byte × List Byte)) (stale looks : Nat) (later : Bool)
  | stop (r : ERead)
  deriving DecidableEq, Repr

/-- What the engine reads of a block: a generation word before the rows and after them, a sector of a row, a mask byte. -/
def rdGen1 : Nat := 0
def rdGen2 : Nat := 1
def rdRow : Nat := 2
def rdMask : Nat := 3

/-- The key of a read of a block: what it is, for which key, and where. -/
def rdKey (what j va : Nat) : Nat := 4 * (2 ^ 20 * va + j) + what

/-- The key in the picks under which a read of a block is put off to a later step (R288). -/
def pkAttn (what j va : Nat) : Nat := 2 ^ 62 + rdKey what j va

/-- One read of a block, for key j: as read before, put off (none), or made now. -/
def Attn.take (s : State) (die asp : Nat) (c : Attn) (what j va n : Nat) : State × Attn × Option ERead :=
  match c.got.find? fun e => e.1 == rdKey what j va with
  | some e => (s, c, some (.ok e.2 none))
  | none =>
    if (pickMask s.picks (pkAttn what j va)).getLsbD 0 then (s, c, none)
    else
      let s := keepRange s die asp va n
      match engLoad s die asp va n with
      | .ok bs none => (s, { c with got := c.got ++ [(rdKey what j va, bs)] }, some (.ok bs none))
      | r => (s, c, some r)

/-- The four sectors of a row of 128 bytes; none while one of them is put off. -/
def Attn.takeRow (s : State) (die asp : Nat) (c : Attn) (j va : Nat) : State × Attn × Option ERead :=
  (List.range 4).foldl (fun (r : State × Attn × Option ERead) i =>
    match r.2.2 with
    | some (.ok bs none) =>
      let x := r.2.1.take r.1 die asp rdRow j (va + 32 * i) 32
      (x.1, x.2.1, x.2.2.map fun y => (ERead.ok bs none).append y)
    | some _ => r
    | none =>
      let x := r.2.1.take r.1 die asp rdRow j (va + 32 * i) 32
      (x.1, x.2.1, none)) (s, c, some (.ok [] none))

/-- Key j is visible to row r as far as its mask bit is not concerned. -/
def Attn.sees (c : Attn) (r j : Nat) : Bool :=
  let p := c.p0.toNat + j
  !c.qpad r && decide (c.kmin ≤ p) && !(c.causal && decide (c.qpos + r < p))

/-- What is known of a key: the answer, a read that stops the block, or that a read is put off. -/
inductive Found (α : Type)
  | got (x : α)
  | stop (r : ERead)
  | later

/-- The rows that see key j, with the explicit mask. -/
def Attn.rowsSee (c : Attn) (s : State) (die asp m j : Nat) : State × Attn × Found (List Bool) :=
  (List.range m).foldl (fun e r =>
    match e with
    | (s, c, .got vis) =>
      if !c.sees r j then (s, c, .got (vis ++ [false]))
      else if !c.emask then (s, c, .got (vis ++ [true]))
      else
        match c.take s die asp rdMask j (c.mask + r * c.mstride + j / 8) 1 with
        | (s, c, some (.ok bs none)) => (s, c, .got (vis ++ [leNat bs / 2 ^ (j % 8) % 2 == 1]))
        | (s, c, some x) => (s, c, .stop x)
        | (s, c, none) => (s, c, .later)
    | e => e) (s, c, .got [])

/-- Fields of the map record. -/
def mapBase (m : BitVec 256) (i : Nat) : Nat := (bits m (64 * i) 57).toNat
def mapSink (m : BitVec 256) : Nat := (bits m 192 32).toNat
def mapWin (m : BitVec 256) : Nat := (bits m 224 32).toNat

/-- The slot of a position, and the generation expected there (R288). -/
def slotOf (m : BitVec 256) (p : Nat) : Nat × Nat :=
  let sk := mapSink m
  let w := mapWin m
  if p < sk then (p, 0) else (sk + p % w, p / w)

/-- The generation word before the rows, the rows of K and V, the generation word after them, of the slot of key j: each read
once the ones before it are made (R288). -/
def Attn.readSlot (c : Attn) (s : State) (die asp : Nat) (rec : BitVec 256) (j slot : Nat) :
    State × Attn × Found (List Byte × List Byte × List Byte × List Byte) :=
  match c.take s die asp rdGen1 j (mapBase rec 2 + 4 * slot) 4 with
  | (s, c, none) => (s, c, .later)
  | (s, c, some (.ok g1 none)) =>
    let k := c.takeRow s die asp j (mapBase rec 0 + 128 * slot)
    match k.2.1.takeRow k.1 die asp j (mapBase rec 1 + 128 * slot), k.2.2 with
    | (s, c, some (.ok vb none)), some (.ok kb none) =>
      match c.take s die asp rdGen2 j (mapBase rec 2 + 4 * slot) 4 with
      | (s, c, some (.ok g2 none)) => (s, c, .got (g1, kb, vb, g2))
      | (s, c, some r) => (s, c, .stop r)
      | (s, c, none) => (s, c, .later)
    | (s, c, some (.ok _ none)), some r => (s, c, .stop r)
    | (s, c, some r), _ => (s, c, .stop r)
    | (s, c, none), some (.ok _ none) => (s, c, .later)
    | (s, c, none), some r => (s, c, .stop r)
    | (s, c, none), none => (s, c, .later)
  | (s, c, some r) => (s, c, .stop r)

/-- The generation words of a position make it stale (R288). -/
def staleGen (expect g1 g2 : Nat) : Bool := g1 != expect || g2 != g1 || g1 == 0xFFFFFFFF

/-- Resolve key j of the block and read its rows. -/
def readKey (die asp m : Nat) (rec : BitVec 256) (e : State × Attn × BRead) (j : Nat) : State × Attn × BRead :=
  match e.2.2 with
  | .stop _ => e
  | .ok keys st lk later =>
    match e.2.1.rowsSee e.1 die asp m j with
    | (s, c, .stop x) => (s, c, .stop x)
    | (s, c, .later) => (s, c, .ok keys st lk true)
    | (s, c, .got vis) =>
      if !vis.any id then (s, c, e.2.2)
      else
        let so := slotOf rec (c.p0.toNat + j)
        match c.readSlot s die asp rec j so.1 with
        | (s, c, .later) => (s, c, .ok keys st lk true)
        | (s, c, .stop r) => (s, c, .stop r)
        | (s, c, .got (g1, kb, vb, g2)) =>
          if staleGen so.2 (leNat g1) (leNat g2) then (s, c, .ok keys (st + 1) (lk + 1) later)
          else (s, c, .ok (keys ++ [(j, vis, kb, vb)]) st (lk + 1) later)

/-- One row of a block: outputs, maximum and sum after it, and the counts of R202 of its roundings. -/
def attnRow (c : Attn) (v : Fenv) (js : List Nat) (qrow : List Fv) (keys : List (Nat × List Fv × List Fv))
    (o : List W32) (m l : W32) : List W32 × W32 × W32 × Stat × Stat :=
  let sc := keys.map fun k => (k.1, fMul v (fw (sumOf v ((qrow.zip k.2.1).map fun p => prodV p.1 p.2)).1) (BitVec.ofNat 32 c.scale))
  let bm := sc.foldl (fun b x => fMax v b x.2) negInf
  let mn := fMax v m bm
  if mn == negInf then (o, m, l, ⟨0, 0, 0⟩, ⟨0, 0, 0⟩)
  else
    let a := fExp2 v (fSub v m mn)
    let pw := fun j => match sc.find? fun x => x.1 == j with
      | some x => fExp2 v (fSub v x.2 mn)
      | none => 0
    let sum := js.foldl (fun t j => fAdd v t (pw j)) 0
    let lr := fFma v a l sum
    let rd := fun (x : W32) => fmtF32.read v.daz x.toNat
    let exact := sumOf v [prodV (rd a) (rd l), if (rd sum).isNan then none else some (rd sum)]
    let ws := keys.map fun k => (bf16Of v (pw k.1), k.2.2)
    let out := o.mapIdx fun d x =>
      sumOf v (some (fmtF32.read false (fMul v x a).toNat) :: ws.map fun w => prodV w.1 (nthD (.zero false) w.2 d))
    (out.map fun r => fw r.1, mn, fw lr, Stat.sum (out.map fun r => fmtF32.stat r.1 r.2),
     Stat.sum [fmtF32.stat (mn.toNat, 0) false,
       fmtF32.stat lr exact.2])

/-- A block's effect on the tile. -/
def attnBlock (c : Attn) (v : Fenv) (js : List Nat) (qs : List (List Fv)) (keys : List (Nat × List Bool × List Byte × List Byte))
    (a : AttnAcc) : AttnAcc :=
  let ks := keys.map fun k => (k.1, k.2.1, c.elts v k.2.2.1, c.elts v k.2.2.2)
  let rows := qs.mapIdx fun r q =>
    let o := (a.o.drop (r * c.k)).take c.k
    if c.qpad r then (o, nthD 0 a.m r, nthD 0 a.l r, ⟨0, 0, 0⟩, ⟨0, 0, 0⟩)
    else attnRow c v js q ((ks.filter fun k => nthD false k.2.1 r).map fun k => (k.1, k.2.2.1, k.2.2.2)) o (nthD 0 a.m r)
      (nthD 0 a.l r)
  let so := Stat.sum (rows.map fun x => x.2.2.2.1)
  let sm := Stat.sum (rows.map fun x => x.2.2.2.2)
  ⟨rows.flatMap (·.1), rows.map fun x => x.2.1, rows.map fun x => x.2.2.1,
   [so.sat, so.flush, so.nan, sm.sat, sm.flush, sm.nan]⟩

/-! ## The command's steps (R290 to R294) -/

def State.setAttn (s : State) (id : Nat) (c : Attn) : State := { s with attns := Store.put s.attns id c }

/-- A command as it stops: the block under way is discarded, and Q and its translations are taken anew when it goes on
(R293, R358). -/
def Attn.stop (c : Attn) (why va : Nat) : Attn :=
  { c with
    state := .stopped why, vaddr := va, started := false, map := none, mapPa := none, stamp := none, stampOk := false, qs := none,
    got := [] }

/-- The command stops at a translation fault, and its team is swapped out (R293). -/
def stopAttn (s : State) (id : Nat) (c : Attn) (kind va : Nat) : State :=
  faultCmd ((dropWriter (dropOlds s id) (.cmd id)).setAttn id (c.stop 2 va)) c.lid c.tid c.core 0xFF kind va

def freezeAttn (s : State) (id : Nat) (c : Attn) (viol pa : Nat) : State :=
  freezeEngine (s.setAttn id { c with state := .frozen }) 3 c.core c.lid c.tid viol pa

/-- A read of the command that did not come to bytes. -/
def attnStop (s : State) (id : Nat) (c : Attn) (r : ERead) : State :=
  match r with
  | .fault kind va => stopAttn s id c kind va
  | .blocked line => askRead (s.setAttn id c) line
  | .outside pa => freezeAttn s id c 1 pa
  | .ok _ (some pa) =>
    if freezeRegion s pa then freezeAttn s id c 2 pa else s.setAttn id { c with state := .running, status := 3 }
  | .ok _ none => s

/-- Translate an address that the command will write (R358); what a command that system software ends cannot translate, it does
not write (log entry 103). -/
def attnPlace (s : State) (id : Nat) (c : Attn) (asp va : Nat) (k : State → Option Place → State) : State :=
  let die := dieOf c.core
  let s := keepTr s die asp va
  match engPlace s die asp va with
  | .ok pa r => k s (some ⟨pa, r⟩)
  | .blocked line => askRead s line
  | .fault kind va => if c.status = 8 then k s none else stopAttn s id c kind va
  | .outside pa => if c.status = 8 then k s none else freezeAttn s id c 1 pa

/-- The stamp's translation, once. -/
def attnStamp (s : State) (id : Nat) (c : Attn) (asp : Nat) (k : State → Attn → State) : State :=
  if c.stampOk then k s c
  else if c.stampa = 0 then k s { c with stampOk := true }
  else attnPlace s id c asp c.stampa fun s p => k s { c with stamp := p, stampOk := true }

/-- The map record's translation, once: of a command that reads its record, or has counted before it was stopped. -/
def attnMap (s : State) (id : Nat) (c : Attn) (asp : Nat) (k : State → Attn → State) : State :=
  if c.mapPa.isSome || c.nkeys = 0 || c.status = 1 || c.status = 6 || (c.status = 8 && c.looks = 0) then k s c
  else attnPlace s id c asp c.map_ fun s p => k s { c with mapPa := p }

/-- A map record's fields break R287. -/
def recordBad (r : BitVec 512) : Bool :=
  bits r 57 7 != 0 || bits r 121 7 != 0 || bits r 185 7 != 0 || bits r 0 7 != 0 || bits r 64 7 != 0 ||
    bits r 128 2 != 0 || decide (2 ^ 31 < (bits r 192 32).toNat) || decide ((bits r 224 32).toNat < 1) ||
    decide (2 ^ 31 < (bits r 224 32).toNat) || bits r 384 128 != 0

/-- Key of a record in its die's sequence map cache (R294). -/
def mapKey (die pa : Nat) : Nat := die * 2 ^ 52 + pa

/-- A record's fields enter its die's cache; when the die's 4,096 entries are taken they replace one, the first by address
(R294; log entry 36). -/
def cacheMap (s : State) (die pa : Nat) (m : BitVec 256) : State :=
  let key := mapKey die pa
  let mine := s.mapCache.filter fun e => e.1 / 2 ^ 52 == die && e.1 != key
  let s := match mine with
    | e :: _ => if 4096 ≤ mine.length then { s with mapCache := Store.del s.mapCache e.1 } else s
    | [] => s
  { s with mapCache := Store.put s.mapCache key m }

/-- Earlier commands of the group have completed (R292). -/
def attnTurn (s : State) (id : Nat) (c : Attn) : Bool :=
  !s.attns.any fun a => decide (a.1 < id) && a.2.lid == c.lid && a.2.tid == c.tid && a.2.gidx == c.gidx

/-- A command of a group whose turn it is, its team and launch. -/
def withAttn (s : State) (id : Nat) (started : Bool) (k : Attn → Launch → Team → State) : State :=
  match Store.find s.attns id with
  | none => s
  | some c =>
    let run := c.state == .running || (!started && c.state == .pending)
    if !run || c.started != started || engineFrozen s 3 c.core || !attnTurn s id c || !(live s c.cov).isEmpty then s
    else
      match s.team (teamKey c.lid c.tid), s.launch c.lid with
      | some t, some l => k c l t
      | _, _ => s

/-- The record's fields: cached, or the whole record as memory holds it. -/
def readRecord (s : State) (id : Nat) (c : Attn) (l : Launch) (pa : Nat) (cached : Bool) (k : State → Attn → State) :
    State :=
  let die := dieOf c.core
  let key := mapKey die pa
  match if cached && !c.reload then Store.find s.mapCache key else none with
  | some m => k s (if recordBad (m.zeroExtend 512) then { c with status := 4 } else { c with map := some m })
  | none =>
    let s := keepRange s die l.asp c.map_ 64
    match engLoad s die l.asp c.map_ 64 with
    | .ok bs none =>
      let r := ofBytes 512 bs
      let m := bits r 0 256
      k (cacheMap s die pa m) (if recordBad r then { c with status := 4 } else { c with map := some m })
    | x => attnStop s id c x

/-- The rows of Q, read now unless they have been (R292). -/
def Attn.readQ (s : State) (id : Nat) (d : KDesc) (t : Team) (c : Attn) : Attn :=
  if c.qs.isSome then c
  else { c with qs := some (tabulate (mRows d.width) fun r => canonBytes s id d t (c.q + 128 * r) 0 128) }

/-- The key in the picks under which Q is read at the command's start, and not with its first block. -/
def pkQ : Nat := 64 * 406

/-- Q is read early where the picks say so. -/
def Attn.earlyQ (s : State) (id : Nat) (d : KDesc) (t : Team) (c : Attn) : Attn :=
  if (pickMask s.picks pkQ).getLsbD 0 then c.readQ s id d t else c

/-- Start: codes 1 and 6, the translations of R358, the record, and the tile (R290, R291, R358). -/
def attnStart (s : State) (id : Nat) (cached : Bool) : State :=
  withAttn s id false fun c l t =>
    let w := l.desc.width
    let c := { c with state := .running }
    let c := if c.status != 0 then c
      else if c.bad (mRows w) then { c with status := 1 }
      else if l.desc.spq < c.q + 128 * mRows w then { c with status := 6 }
      else c
    attnStamp s id c l.asp fun s c =>
      attnMap s id c l.asp fun s c =>
        let go := fun (s : State) (c : Attn) =>
          s.setAttn id (({ c with started := true, acc := some (loadAcc s id c t w) } : Attn).earlyQ s id l.desc t)
        if c.status != 0 then s.setAttn id { c with started := true }
        else
          match c.mapPa with
          | some p => readRecord s id c l p.pa cached fun s c => go s c
          | none =>
            let s := go s c
            if c.init && c.next == 0 then writeTiles s id c t w (loadAcc s id c t w) else s

def execAttnCommandStart (cmd : Nat) (cached : Bool) (s : State) : Host.Outcome State Fault Refusal :=
  done (attnStart s cmd cached)

/-- Keys of block b. -/
def Attn.blockKeys (c : Attn) (b : Nat) : List Nat := tabulate (min 16 (c.nkeys - 16 * b)) fun i => 16 * b + i

/-- One key block (R288 to R290).  Reads that the picks put off are made in a later step, and the block is done when none is
left. -/
def attnKeys (s : State) (id : Nat) : State :=
  withAttn s id true fun c l t =>
    match c.map, c.acc with
    | some rec, some a =>
      let js := c.blockKeys c.next
      if c.status != 0 || js.isEmpty then s
      else
        let die := dieOf c.core
        let w := l.desc.width
        let m := mRows w
        let v := fenv c.mode .mode
        match js.foldl (readKey die l.asp m rec) (s, c, .ok [] 0 0 false) with
        | (s, c, .stop r) => attnStop s id c r
        | (s, c, .ok _ _ _ true) => s.setAttn id (c.earlyQ s id l.desc t)
        | (s, c, .ok keys st lk false) =>
          let c := c.readQ s id l.desc t
          let a := attnBlock c v js ((c.qs.getD []).map (c.elts v)) keys a
          let s := writeTiles s id c t w a
          s.setAttn id { c with next := c.next + 1, stale := c.stale + st, looks := c.looks + lk, acc := some a, got := [] }
    | _, _ => s

def execAttnKeyBlock (cmd : Nat) (s : State) : Host.Outcome State Fault Refusal := done (attnKeys s cmd)

/-- The outputs normalised by their sums; rows of padding keep theirs (R290). -/
def finish (c : Attn) (v : Fenv) (a : AttnAcc) : AttnAcc × Stat :=
  let r := a.o.mapIdx fun i x =>
    let row := i / c.k
    let l := nthD 0 a.l row
    if c.qpad row then ((x.toNat, 0), (⟨0, 0, 0⟩ : Stat))
    else if l == 0 then ((0, 0), ⟨0, 0, 0⟩)
    else
      let y := f2 v Fmt.divV x l
      let fin := fun (x : W32) => match fmtF32.read v.daz x.toNat with | .fin .. => true | _ => false
      (y, fmtF32.stat y (fin x && fin l))
  ({ a with o := r.map fun x => fw x.1 }, Stat.sum (r.map (·.2)))

/-- The counts of the record with a command's added: 16 bytes at 0x20 (R291). -/
def addedCounts (s : State) (p : Place) (c : Attn) : List Byte :=
  let bs := heldBytes s (p.pa + 0x20) 16
  leBytes 8 (leNat (bs.take 8) + c.stale) ++ leBytes 8 (leNat (bs.drop 8) + c.looks)

/-- The command is over: its writes are no longer in flight, and CATTN of its group, resident or saved, advances. -/
def closeAttn (s : State) (id : Nat) (c : Attn) : State :=
  let k := teamKey c.lid c.tid
  let s := dropOlds { s with attns := Store.del s.attns id } id
  reap (mapTeamGroups s k fun g => if g.gidx == c.gidx then { g with cattn := g.cattn + 1 } else g) k

/-- The last tile write: the output normalised (R290), in flight until the command completes (R292). -/
def attnFinish (s : State) (id : Nat) (c : Attn) (t : Team) (w : Nat) : State :=
  match c.acc with
  | none => s.setAttn id { c with fined := true }
  | some a =>
    let f := finish c (fenv c.mode .mode) a
    (addStats (writeOut s id c t w f.1) c.lid c.tensor f.2).setAttn id { c with fined := true }

/-- The counts of R202 of the last block's roundings; the output's, unless it is normalised. -/
def attnStats (s : State) (c : Attn) : State :=
  match c.acc with
  | none => s
  | some a =>
    let n := fun i => nthD 0 a.st i
    let s := addStats s c.lid c.tensor ⟨n 3, n 4, n 5⟩
    if c.fined then s else addStats s c.lid c.tensor ⟨n 0, n 1, n 2⟩

/-- Completion (R291): the last tile write, and in a later step the counts, the stamp and the counter. -/
def attnEnd (s : State) (id : Nat) : State :=
  withAttn s id true fun c l t =>
    if c.status = 0 ∧ 16 * c.next < c.nkeys then s
    else if c.status = 0 && c.fin && !c.fined then attnFinish s id c t l.desc.width
    else
      let stamp := match c.stamp with | none => [] | some p => [p]
      let counts := match c.mapPa with | none => [] | some p => [(⟨p.pa + 0x20, p.repl⟩ : Place)]
      let slot := slotPlaces t (if t.state == .out then [gOff c.gidx + 0x558] else [])
      match engAll (.cmd id) s (counts ++ stamp ++ slot) with
      | (s, false) => s
      | (s, true) =>
        let s := attnStats (dropWriter s (.cmd id)) c
        let s := counts.foldl (fun s p => engPut s p (addedCounts s ⟨p.pa - 0x20, p.repl⟩ c)) s
        let word := min c.stale 0xFFFFFF * 2 ^ 40 + c.status * 2 ^ 32 + c.seqw
        closeAttn (stamp.foldl (fun s p => engPut s p (leBytes 8 word)) s) id c

def execAttnCommandComplete (cmd : Nat) (s : State) : Host.Outcome State Fault Refusal := done (attnEnd s cmd)

end Sys2Proof.Machine
end

