-- ==== Sys2Proof/Machine/Bins.lean ====
section
/-!
DEFINITION. Bins.lean: spawn bins and the groups they launch (spec/02_execution_model.md R25, R44 to R46).
-/
namespace Sys2Proof.Machine

open Sys2Proof

/-- The timer length of a launch's bins in ticks (R45). -/
def binTicks (d : KDesc) : Nat := if d.timer = 0 then 200 else d.timer

/-- The bin takes one more thread; it is sealed at once when it fills (R44). -/
def Bin.add (b : Bin) (w seq : Nat) (t : Thread) : Bin :=
  let ts := b.threads ++ [t]
  { b with threads := ts, sealed := decide (w ≤ ts.length), seq := seq }

/-- The bin admits a thread of this launch and entry: it is open, and its timer has not run out. -/
def Bin.admits (b : Bin) (core lid : Nat) (entry : Va) (ticks now : Nat) : Bool :=
  b.core == core && b.lid == lid && b.entry == entry && !b.sealed && decide (now ≤ b.opened + ticks)

/-- Numbers of the core's 32 bins in use. -/
def binsUsed (s : State) (core : Nat) : List Nat := (s.bins.filter fun b => b.core == core).map (·.num)

/-- Place a thread in the open bin of its launch and entry, or in a free one, the lowest (log entry 81); none when no bin is
free (R44). -/
def binPut (s : State) (core lid : Nat) (entry : Va) (t : Thread) : Option State :=
  let d := ((s.launch lid).map (·.desc)).getD default
  let now := s.gtc.toNat
  if s.bins.any fun b => b.admits core lid entry (binTicks d) now then
    some { s with
      bins := s.bins.map fun b => if b.admits core lid entry (binTicks d) now then b.add d.width s.nextId t else b,
      nextId := s.nextId + 1 }
  else
    ((List.range 32).find? fun n => !(binsUsed s core).contains n).map fun n =>
      let b : Bin := ⟨core, n, lid, entry, [], now, false, 0⟩
      { s with bins := s.bins ++ [b.add d.width s.nextId t], nextId := s.nextId + 1 }

/-- An open bin is sealed when its timer has run out (R45). -/
def sealBin (s : State) (core num : Nat) : State :=
  { s with
    bins := s.bins.map fun b =>
      let d := ((s.launch b.lid).map (·.desc)).getD default
      if b.core == core && b.num == num && !b.sealed && decide (b.opened + binTicks d ≤ s.gtc.toNat)
      then { b with sealed := true, seq := s.nextId } else b,
    nextId := s.nextId + 1 }

/-! ## Spawned groups -/

/-- An array register whose reserved fields read 0 (R3, R101): undefined contents of a spawned group. -/
def legalA (a : ARegVal) : ARegVal := 0#19 ++ bits a 64 45 ++ 0#7 ++ bits a 0 57

/-- The shadow of a thread word that all lanes receive (R25). -/
def wordShadow (ts : List Thread) (i : Nat) : Shadow :=
  match ts with
  | [] => .top
  | t :: _ => if ts.all fun u => nthD 0 u.words i == nthD 0 t.words i then Shadow.exact (nthD 0 t.words i) else .top

/-- A spawned group as R25 starts it, but for its V registers. -/
def spawnGroup (s : State) (l : Launch) (lid slot row0 : Nat) (entry : Va) (ts : List Thread) : Group × State :=
  let d := l.desc
  let n := s.free
  let live := lowMask ts.length
  let k := fun i =>
    if i < 8 then nthD 0 l.args i
    else if i < 10 then 0xFFFFFFFF
    else if i = 10 then BitVec.ofNat 32 l.teams
    else if i = 11 then BitVec.ofNat 32 lid
    else if i = 12 then bits entry 0 32
    else 0
  let cov := ts.flatMap (·.cov)
  let str : Stream := { Stream.init with cov := cov, acq := cov }
  let vis := fun (i : Nat) (t : Thread) => t.visit.map fun v => (⟨i, v.1, v.2, nthD 0 t.words 3⟩ : Visit)
  let g : Group :=
    { lid := lid, tid := none, gidx := slot, width := d.width, role := 3, row0 := row0, q := d.sq0, qmax := d.sqmax,
      s := vtab 64 fun i => Config.undefWord (n + i), ssh := Vector.replicate 64 .top,
      hs := vtab 8 fun i => Config.undefWord (n + 64 + i), hsh := Vector.replicate 8 .top,
      k := vtab 16 k, a := vtab 16 fun i => legalA (Config.undefAReg (n + 72 + i)),
      p := vtab 8 fun i => Config.undefMask (n + 88 + i) &&& lowMask d.width, vsh := Vector.replicate 256 .top,
      fx := Vector.replicate 64 0, live := live, spc := entry, mode := d.mode, ccopy := 0, ctrav := 0, cattn := 0,
      latch := none, ctx := Group.emptyCtx 0 live, sc := str, ln := str, pub := [], chain := none, saved := none, tpc := 0,
      tcause := 0, tinfo := 0, tpcWr := false, txlde := false, trap := none, arrived := none,
      visits := (ts.mapIdx vis).filterMap id, copyq := [], travq := [], tstop := false, halted := false, noBp := none }
  (g, { s with free := n + 96 })

/-- Give V0 to V3, within the quota, the threads' words (R25). -/
def threadRegs (s : State) (gid : Nat) (g : Group) (ts : List Thread) : State :=
  (List.range (min 4 g.q)).foldl (fun s i =>
    let s := vPut s gid g i g.live (ts.map fun t => nthD 0 t.words i)
    s.updGrp gid fun g => { g with vsh := vset g.vsh i (wordShadow ts i) }) s

/-- Place a spawned group into spawn slot `slot`, whose group slot and first row are given. -/
def placeSpawned (s : State) (core : Nat) (l : Launch) (lid slot gslot row0 : Nat) (entry : Va) (ts : List Thread) :
    State :=
  let gid := 64 * core + gslot
  let (g, s) := spawnGroup s l lid slot row0 entry ts
  threadRegs (receive s gid g 0 g.q) gid g ts

/-- A spawn slot of a launch on a core that no group holds (R279): the lowest, where the manual names none (log entry 81). -/
def freeSlot (s : State) (core : Nat) (l : Launch) : Option (Nat × Nat × Nat) :=
  let slots := (l.spawn.find? fun r => r.core == core).map (·.slots)
  let ix := (slots.getD []).mapIdx fun i e => (i, e)
  ix.find? fun e => (s.grp (64 * core + e.2.1)).isNone

/-- What a sealed bin needs: its launch placed, and a free spawn slot. -/
def binSlot (s : State) (b : Bin) : Option (Launch × Nat × Nat × Nat) :=
  match s.launch b.lid with
  | none => none
  | some l => if l.pre == .none then (freeSlot s b.core l).map fun e => (l, e) else none

/-- The sealed bin of a core to launch: the oldest that a slot admits (R46); age is taken from the sealing, which the manual
does not say (log entry 81). -/
def oldestBin (s : State) (core : Nat) : Option Bin :=
  (s.bins.filter fun b => b.core == core && b.sealed && (binSlot s b).isSome).foldl (fun r b =>
    match r with
    | none => some b
    | some a => if b.seq < a.seq then some b else r) none

def launchBin (s : State) (core : Nat) : State :=
  match oldestBin s core with
  | none => s
  | some b =>
    match binSlot s b with
    | none => s
    | some (l, i, gslot, row0) =>
      placeSpawned { s with bins := s.bins.filter fun x => !(x.core == core && x.num == b.num) } core l b.lid i gslot row0
        b.entry b.threads

def execBinTimerExpiry (core bin : Nat) (s : State) : Host.Outcome State Fault Refusal := done (sealBin s core bin)

end Sys2Proof.Machine
end

