-- ==== Sys2Proof/Machine/Graph.lean ====
section
/-!
DEFINITION. Graph.lean: kernel descriptors (spec/05_objects_and_directives.md R75), the task graph walker, TASK, and the
end of launches and graphs (spec/20_scheduling.md R266 to R276, R280; R10, R203).
-/
namespace Sys2Proof.Machine

open Sys2Proof

/-! ## The kernel descriptor (R75) -/

/-- The 256 bytes of a descriptor. -/
abbrev DescBits := BitVec 2048

namespace DescBits

def width (x : DescBits) : Nat := fld x 4 0 8
def groups (x : DescBits) : Nat := fld x 5 0 8
def pair (x : DescBits) : Bool := fld x 6 0 1 == 1
def rolemap (x : DescBits) : W64 := bits x 0xC0 64
def q0 (x : DescBits) (k : Nat) : Nat := fld x (0x20 + 4 * k) 0 16
def qmax (x : DescBits) (k : Nat) : Nat := fld x (0x22 + 4 * k) 0 16
def spq (x : DescBits) : Nat := fld x 0x30 0 32
def spawnq (x : DescBits) : Nat := fld x 0x38 0 16
def sq0 (x : DescBits) : Nat := fld x 0x3A 0 16
def sqmax (x : DescBits) : Nat := fld x 0x3C 0 16
def volon (x : DescBits) : Bool := fld x 0x40 31 1 == 1
def volfirst (x : DescBits) : Nat := fld x 0x40 0 8
def vollast (x : DescBits) : Nat := fld x 0x41 0 8
def stackz (x : DescBits) : Nat := fld x 0x44 0 32
def stackb (x : DescBits) : Nat := fld x 0x48 0 64
def stats (x : DescBits) : Nat := fld x 0x50 0 64

/-- The role of group g. -/
def role (x : DescBits) (g : Nat) : Nat := (bits (rolemap x) (2 * g) 2).toNat
/-- Some group has role k. -/
def used (x : DescBits) (k : Nat) : Bool := (List.range (groups x)).any fun g => role x g == k
/-- An address field. -/
def addrBad (v align : Nat) : Bool := decide (2 ^ 57 ≤ v) || v % align != 0

/-- The checks of a role's quotas. -/
def roleChecks (x : DescBits) (k : Nat) : List (Nat × Bool) :=
  [(0x20 + 4 * k, decide (256 < q0 x k) || (if used x k then q0 x k == 0 else q0 x k != 0)),
   (0x22 + 4 * k, decide (256 < qmax x k) || (if used x k then decide (qmax x k < q0 x k) else qmax x k != 0))]

/-- The volatile range breaks R75. -/
def volBad (x : DescBits) : Bool :=
  volon x && (decide (vollast x < volfirst x) ||
    ((List.range 4).any fun k => used x k && decide (q0 x k ≤ vollast x)) ||
    (decide (0 < spawnq x) && decide (sq0 x ≤ vollast x)))

/-- Every check with its offset, ascending.  Each reserved byte from 0x64 on counts as a field of its own, which the manual
does not say (log entry 85: DESIGN CHOICE). -/
def checks (x : DescBits) : List (Nat × Bool) :=
  let w := width x
  let m : W32 := bits x (8 * 0x60) 32
  [(0, fld x 0 0 16 != 1), (2, fld x 2 0 16 != 256), (4, !(w == 16 || w == 32 || w == 64)),
   (5, groups x == 0 || decide (32 < groups x)), (6, fld x 6 1 7 != 0), (7, fld x 7 0 8 != 0),
   (8, addrBad (fld x 8 0 64) 4), (0x10, addrBad (fld x 0x10 0 64) 4),
   (0x18, (List.range 32).any fun g => decide (groups x ≤ g) && role x g != 0)] ++
  (List.range 4).flatMap (roleChecks x) ++
  [(0x30, spq x % 128 != 0 ||
      (if pair x then decide (786432 < spq x) || spq x % 256 != 0 else decide (393216 < spq x))),
   (0x34, decide (256 < fld x 0x34 0 16)), (0x38, decide (4095 < spawnq x)),
   (0x3A, decide (256 < sq0 x) || (if spawnq x = 0 then sq0 x != 0 else sq0 x == 0)),
   (0x3C, decide (256 < sqmax x) || (if spawnq x = 0 then sqmax x != 0 else decide (sqmax x < sq0 x))),
   (0x3E, fld x 0x3E 0 16 != 0), (0x41, volBad x), (0x42, fld x 0x40 16 15 != 0),
   (0x43, !volon x && fld x 0x40 0 16 != 0), (0x44, stackz x % 32 != 0),
   (0x48, addrBad (stackb x) 32 || (stackz x == 0 && stackb x != 0)), (0x50, addrBad (stats x) 64),
   (0x60, bits m 13 19 != 0 || bits m 6 2 != 0 || decide (6 ≤ (bits m 0 3).toNat))] ++
  tabulate 156 fun i => (0x64 + i, fld x (0x64 + i) 0 8 != 0)

/-- Offset of the first failing field. -/
def firstBad (x : DescBits) : Option Nat := ((checks x).find? fun c => c.2).map (·.1)

/-- The fields of a valid descriptor. -/
def desc (x : DescBits) : KDesc :=
  { width := width x, groups := groups x, pair := pair x, sentry := fld x 8 0 64, lbase := fld x 0x10 0 64,
    rolemap := rolemap x, quotas := tabulate 4 fun k => (q0 x k, qmax x k), spq := spq x, accq := fld x 0x34 0 16,
    timer := fld x 0x36 0 16, spawnq := spawnq x, sq0 := sq0 x, sqmax := sqmax x,
    vol := if volon x then some (volfirst x, vollast x) else none, stackz := stackz x, stackb := stackb x,
    stats := stats x, featreq := bits x (8 * 0x58) 64, mode := bits x (8 * 0x60) 32 }

end DescBits

/-! ## What a team needs (R278) -/

/-- Role of group g of a descriptor. -/
def KDesc.roleOf (d : KDesc) (g : Nat) : Nat := (bits d.rolemap (2 * g) 2).toNat
/-- Groups on the even core of a paired team, or on the one core. -/
def KDesc.evenGroups (d : KDesc) : Nat := if d.pair then (d.groups + 1) / 2 else d.groups
/-- Rows of group g at its initial and its maximum quota. -/
def KDesc.rows0 (d : KDesc) (g : Nat) : Nat := rowsOf d.width (nthD (0, 0) d.quotas (d.roleOf g)).1
def KDesc.rowsMax (d : KDesc) (g : Nat) : Nat := rowsOf d.width (nthD (0, 0) d.quotas (d.roleOf g)).2

/-- Insert by the last row at which a span may end. -/
def insertSpan (x : Nat × Nat) : List (Nat × Nat) → List (Nat × Nat)
  | [] => [x]
  | y :: ys => if x.2 ≤ y.2 then x :: y :: ys else y :: insertSpan x ys

/-- Spans (rows, last end) fit one after another on an empty core, earliest end first. -/
def spansFit (xs : List (Nat × Nat)) : Bool :=
  ((xs.foldr insertSpan []).foldl (fun (r : Nat × Bool) x => (r.1 + x.1, r.2 && decide (r.1 + x.1 ≤ x.2))) (0, true)).2

/-- Groups gs and the spawn reservation fit on an empty core. -/
def KDesc.coreFits (d : KDesc) (gs : List Nat) : Bool :=
  let sp := rowsOf d.width d.sqmax
  decide (gs.length + d.spawnq ≤ 64) &&
    spansFit ((gs.map fun g => (d.rows0 g, 4096 - d.rowsMax g + d.rows0 g)) ++ tabulate d.spawnq fun _ => (sp, 4096))

/-- A team can fit on an empty core or pair. -/
def KDesc.canFit (d : KDesc) : Bool :=
  let e := d.evenGroups
  d.coreFits (List.range e) && (!d.pair || d.coreFits (tabulate (d.groups - e) fun i => e + i))

/-! ## The walker's accesses (R271, R272) -/

def State.graph (s : State) (id : Nat) : Option Graph := Store.find s.graphs id
def State.updGraph (s : State) (id : Nat) (f : Graph → Graph) : State := { s with graphs := Store.adjust s.graphs id f }

/-- A node failure: the graph halts, and the failure is reported. -/
def haltGraph (s : State) (id : Nat) (gr : Graph) (n code detail lid : Nat) : State :=
  postFault ((dropWriter s (.graph id)).updGraph id fun g =>
      { g with state := .halted, failed := n, todo := [], watched := [], dparts := [] })
    { die := gr.die, kind := 3, lid := lid, who := 0, detail := BitVec.ofNat 32 (code * 2 ^ 24 + detail), addr := n,
      info := 0 }

/-- Where a node's line is written: a place, nothing (the write cannot be made), or a wait. -/
inductive NPlace
  | at (s : State) (p : Place)
  | no (s : State)
  | wait (s : State)

/-- The place of a node's line. -/
def nodePlace (s : State) (gr : Graph) (n : Nat) : NPlace :=
  let s := keepTr s gr.die gr.asp n
  match engPlace s gr.die gr.asp n with
  | .ok pa r => .at s ⟨pa, r⟩
  | .blocked line => .wait (askRead s line)
  | _ => .no s

/-- A code and its detail as a node holds them. -/
def codeAt (code detail : Nat) : Nat × List Byte := (4, leBytes 4 (code * 2 ^ 24 + detail))

/-- Writes of a node's line, each from an offset on. -/
def nodeParts (p : Place) (ws : List (Nat × List Byte)) : List (Place × List Byte) :=
  ws.map fun x => (⟨p.pa + x.1, p.repl⟩, x.2)

/-- A node fails: the code and the detail go into the node where its line can be written (R272). -/
def failNodeAs (s : State) (w : Writer) (id : Nat) (gr : Graph) (n code detail lid : Nat) (k : State → State) : State :=
  match nodePlace s gr n with
  | .wait s => s
  | .no s => haltGraph (k s) id gr n code detail lid
  | .at s p =>
    match engWrites s w (nodeParts p [codeAt code detail]) with
    | (s, true) => haltGraph (k s) id gr n code detail lid
    | (s, false) => s

/-- The same for a failure of the walker's own. -/
def failNode (s : State) (id : Nat) (gr : Graph) (n code detail lid : Nat) : State :=
  failNodeAs s (.graph id) id gr n code detail lid fun s => s

/-- Write a node and go on; else code 0x84, which only the pending-fault list gets, or a wait. -/
def nodeWrites (s : State) (w : Writer) (id : Nat) (gr : Graph) (n : Nat) (ws : List (Nat × List Byte)) (k : State → State) :
    State :=
  match nodePlace s gr n with
  | .wait s => s
  | .no s => haltGraph s id gr n 0x84 0 0
  | .at s p =>
    match engWrites s w (nodeParts p ws) with
    | (s, true) => k s
    | (s, false) => s

/-- A read of the walker at the point of coherence. -/
def walkerRead (s : State) (id : Nat) (gr : Graph) (n va len : Nat) (k : State → List Byte → State) : State :=
  let s := keepRange s gr.die gr.asp va len
  match engLoad s gr.die gr.asp va len with
  | .ok bs none => k s bs
  | .ok _ (some _) => failNode s id gr n 0x85 0 0
  | .blocked line => askRead s line
  | .fault _ _ => failNode s id gr n 0x84 0 0
  | .outside _ => failNode s id gr n 0x84 0 0

/-! ## Nodes (R267 to R269) -/

/-- The 128 bytes of a node. -/
abbrev NodeBits := BitVec 1024

namespace NodeBits

def kind (x : NodeBits) : Nat := fld x 0 0 8
def code (x : NodeBits) : Nat := fld x 7 0 8
def next0 (x : NodeBits) : Nat := fld x 8 0 64
def next1 (x : NodeBits) : Nat := fld x 0x10 0 64
def addr (x : NodeBits) : Nat := fld x 0x18 0 64
def teams (x : NodeBits) : Nat := fld x 0x20 0 24
def dmask (x : NodeBits) : BitVec 8 := bits x (8 * 0x24) 8
def need (x : NodeBits) : Nat := fld x 0x18 0 16
def have_ (x : NodeBits) : Nat := fld x 0x1C 0 16

/-- A successor word is outside R268. -/
def succBad (openOk : Bool) (v : Nat) : Bool :=
  !(v == 0 || (openOk && v == 1) || (v % 128 == 0 && decide (v < 2 ^ 57)))

/-- OPEN may stand in next0 of this node. -/
def openOk (x : NodeBits) : Bool := x.kind == 1 || x.kind == 4

/-- Bytes from off on are reserved; each counts as a field of its own (log entry 101: DESIGN CHOICE). -/
def tail (x : NodeBits) (off : Nat) : List (Nat × Bool) := tabulate (128 - off) fun i => (off + i, fld x (off + i) 0 8 != 0)

/-- The checks of the kind's own fields. -/
def kindChecks (x : NodeBits) : List (Nat × Bool) :=
  match x.kind with
  | 1 =>
    [(0x18, decide (2 ^ 57 ≤ x.addr) || x.addr % 256 != 0), (0x20, x.teams == 0 || fld x 0x20 24 8 != 0),
     (0x24, fld x 0x24 8 24 != 0)] ++ tail x 0x48
  | 2 => (0x18, decide (2 ^ 57 ≤ x.addr) || x.addr % 4 != 0) :: tail x 0x20
  | 3 => (0x18, decide (2 ^ 57 ≤ x.addr) || x.addr % 4 != 0) :: tail x 0x20
  | 4 =>
    [(0x18, x.need == 0), (0x1A, fld x 0x1A 0 16 != 0), (0x1C, decide (x.need ≤ x.have_)),
     (0x1E, fld x 0x1E 0 16 != 0)] ++ tail x 0x20
  | _ => tail x 0x18

/-- Offset of the first failing field, as the table's Offset column has it (log entry 100: DESIGN CHOICE).  The walker writes code
and detail; what stands in them is not checked (log entry 102: DEDUCED). -/
def firstBad (x : NodeBits) : Option Nat :=
  let cs := [(0, x.kind == 0 || decide (5 < x.kind)), (1, fld x 1 0 24 != 0), (4, fld x 4 16 8 != 0),
    (8, succBad x.openOk x.next0), (0x10, succBad false x.next1)] ++ kindChecks x
  (cs.find? fun (c : Nat × Bool) => c.2).map (·.1)

end NodeBits

/-! ## Activation (R270) -/

/-- The walker is done with its first operation, and has these to do before the others. -/
def didOp (s : State) (id : Nat) (ops : List (Nat × Nat)) : State :=
  s.updGraph id fun g => { g with todo := ops ++ g.todo.drop 1 }

/-- Activations of successors. -/
def acts (ns : List Nat) : List (Nat × Nat) := (ns.filter (· != 0)).map fun n => (0, n)

/-- The key in the picks of the parts of a descriptor that a graph's walker leaves for a later read. -/
def pkDesc (id : Nat) : Nat := 2 ^ 55 + id

/-- Read what is left of a descriptor, each 8-byte part at a moment of its own (R74). -/
def readDesc (s : State) (id : Nat) (gr : Graph) (n va : Nat) (k : State → List Byte → State) : State :=
  let left := (List.range 32).filter fun i => (Store.find gr.dparts i).isNone
  let now := left.filter fun i => !(pickMask s.picks (pkDesc id)).getLsbD i
  let s := keepRange s gr.die gr.asp va 256
  let rs := now.map fun i => (i, engLoad s gr.die gr.asp (va + 8 * i) 8)
  let parts := rs.foldl (fun ps r => match r.2 with | .ok bs none => Store.put ps r.1 bs | _ => ps) gr.dparts
  let s := s.updGraph id fun g => { g with dparts := parts }
  match rs.find? fun r => match r.2 with | .ok _ none => false | _ => true with
  | some (_, .ok _ _) => failNode s id gr n 0x85 0 0
  | some (_, .blocked line) => askRead s line
  | some _ => failNode s id gr n 0x84 0 0
  | none =>
    if now.length = left.length then k s ((List.range 32).flatMap fun i => (Store.find parts i).getD []) else s

/-- Dispatch a TASK node (R276). -/
def dispatch (s : State) (id : Nat) (gr : Graph) (n : Nat) (x : NodeBits) : State :=
  readDesc s id gr n x.addr fun s bs =>
    let db : DescBits := ofBytes 2048 bs
    match DescBits.firstBad db with
    | some off => failNode s id gr n 0x82 off 0
    | none =>
      let d := DescBits.desc db
      let asked : BitVec 8 := if x.dmask == 0 then BitVec.ofNat 8 (2 ^ gr.die) else x.dmask
      let has := fun i => (d.featreq &&& ~~~(vget s.feat i)) == 0
      let dm := (List.range 8).foldl (fun (m : BitVec 8) i => if has i then m else m &&& ~~~(BitVec.ofNat 8 (2 ^ i))) asked
      if dm == 0 then failNode s id gr n 0x83 0 0
      else if !d.canFit then failNode s id gr n 0x86 0 0
      else
        let c := vget s.disp gr.die
        let l : Launch :=
          { die := gr.die, graph := id, node := n, asp := gr.asp, prio := gr.prio, seq := s.nextId, kdesc := x.addr,
            desc := d, teams := x.teams, dmask := dm, args := tabulate 8 fun i => bits x (8 * (0x28 + 4 * i)) 32,
            next := 0, since := s.gtc.toNat, reserving := false, done := 0, stats := [], layouts := [], spawn := [],
            pre := .none, threads := [], cov := gr.cov, rel := [], tids := [] }
        nodeWrites s (.graph id) id gr n [codeAt 2 0] fun s =>
          let s := { s with
            launches := Store.put s.launches (gr.die * 2 ^ 29 + c % 2 ^ 29) l, disp := vset s.disp gr.die (c + 1),
            nextId := s.nextId + 1 }
          (didOp s id []).updGraph id fun g => { g with dparts := [] }

/-- Go on with the dispatch of a TASK that is active (code 1). -/
def dispatchOn (s : State) (id n : Nat) : State :=
  match s.graph id with
  | none => s
  | some gr => dispatch s id gr n (ofBytes 1024 ((Store.find gr.dparts 32).getD []))

/-- Activate a node. -/
def activate (s : State) (id : Nat) (gr : Graph) (n : Nat) : State :=
  walkerRead s id gr n n 128 fun s bs =>
    let x : NodeBits := ofBytes 1024 bs
    match NodeBits.firstBad x with
    | some off => failNode s id gr n 0x81 off 0
    | none =>
      match x.kind with
      | 1 =>
        if x.code == 1 || x.code == 2 then failNode s id gr n 0x87 0 0
        else
          nodeWrites s (.graph id) id gr n [codeAt 1 0] fun s =>
            dispatchOn ((didOp s id [(3, n)]).updGraph id fun g => { g with dparts := [(32, bs)] }) id n
      | 4 =>
        if x.have_ + 1 = x.need then
          nodeWrites s (.graph id) id gr n [(0x1C, leBytes 2 0), codeAt 3 0] fun s => didOp s id [(1, n)]
        else nodeWrites s (.graph id) id gr n [(0x1C, leBytes 2 (x.have_ + 1)), codeAt 1 0] fun s => didOp s id []
      | 5 => s.updGraph id fun g => { g with state := .ending, endNode := n, todo := [], watched := [] }
      | _ =>
        walkerRead s id gr n x.addr 4 fun s ws =>
          nodeWrites s (.graph id) id gr n [codeAt 3 0] fun s =>
            didOp s id (acts [if leNat ws = 0 then x.next1 else x.next0])

/-- follow(n), or what goes on when a watched next0 has been read again (R270, R274). -/
def followNode (s : State) (id : Nat) (gr : Graph) (n : Nat) (again : Bool) : State :=
  walkerRead s id gr n n 128 fun s bs =>
    let x : NodeBits := ofBytes 1024 bs
    if NodeBits.succBad x.openOk x.next0 then failNode s id gr n 0x81 8 0
    else if !again && NodeBits.succBad false x.next1 then failNode s id gr n 0x81 0x10 0
    else
      let s := didOp s id (acts ([if x.next0 = 1 then 0 else x.next0] ++ if again then [] else [x.next1]))
      if x.next0 = 1 then s.updGraph id fun g => { g with watched := g.watched ++ [n] } else s

/-- The walker's next operation for a graph, when it has one (R270): what it reads follows the releases that led to it
(R271). -/
def walkOne (s : State) (id : Nat) : State :=
  match s.graph id with
  | none => s
  | some gr =>
    match gr.state, gr.todo with
    | .running, (op, n) :: _ =>
      if !(live s gr.cov).isEmpty then s
      else if op = 0 then activate s id gr n
      else if op = 3 then dispatchOn s id n
      else followNode s id gr n (op == 2)
    | _, _ => s

/-- A graph becomes live on a walker, if the walker has a free slot (R266). -/
def postGraph (s : State) (die asp root prio : Nat) (cov : List Nat) : Option State :=
  if 1024 ≤ (s.graphs.filter fun g => g.2.die == die).length then none
  else
    let g : Graph :=
      { die := die, asp := asp, root := root, prio := prio, state := .running, failed := 0, endNode := 0, watched := [],
        todo := [(0, root)], dparts := [], cov := cov }
    some (walkOne { s with graphs := Store.put s.graphs s.nextId g, nextId := s.nextId + 1 } s.nextId)

def execTask (a : BitVec 6) (p : BitVec 2) (sw : Bool) (s : State) : Host.Outcome State Fault Refusal :=
  withCur s fun gid g =>
    let addr := (sPair s.picks g a.toNat).toNat
    if addr % 128 != 0 then raiseS s gid g .operand (opInfo 20)
    else if g.sc.blocked s then s
    else
      match postGraph ((released s gid).setGrp gid (g.nextS sw)) (dieOf (coreOf gid)) (aspOf s g) addr p.toNat (g.sc.covered s) with
      | some s => s
      | none => s

/-! ## Ends (R24, R203, R273, R280) -/

/-- Every team, spawned group, bin, saved thread and traversal of the launch is gone (R24, R301). -/
def launchOver (s : State) (lid : Nat) (l : Launch) : Bool :=
  l.pre == .none && l.done == l.teams && !(s.groups.any fun g => g.2.lid == lid) &&
    !(s.teams.any fun t => t.2.lid == lid) && !(s.bins.any fun b => b.lid == lid) && l.threads.isEmpty &&
    !(s.travs.any fun t => t.2.lid == lid)

/-- The bytes of the statistics table (R203). -/
def statsBytes (l : Launch) : List Byte :=
  (List.range 256).flatMap fun i =>
    leBytes 4 (Store.getD 0 l.stats (3 * i)) ++ leBytes 4 (Store.getD 0 l.stats (3 * i + 1)) ++
      leBytes 4 (Store.getD 0 l.stats (3 * i + 2)) ++ leBytes 4 0

/-- Where a range of bytes of an engine goes, part by part between lines: places, a fault, or a wait. -/
inductive WidePlace
  | at (s : State) (ps : List (Place × List Byte))
  | no (s : State)
  | wait (s : State)

def widePlace (s : State) (die asp va : Nat) (bs : List Byte) : WidePlace :=
  let s := keepRange s die asp va bs.length
  let ps := (splitRange 128 va bs.length).map fun p => ((bs.drop (p.1 - va)).take p.2, engPlace s die asp p.1)
  if ps.any fun p => match p.2 with | .fault .. => true | .outside _ => true | _ => false then .no s
  else
    match ps.findSome? fun p => match p.2 with | .blocked line => some line | _ => none with
    | some line => .wait (askRead s line)
    | none => .at s (ps.filterMap fun p => match p.2 with | .ok pa r => some (⟨pa, r⟩, p.1) | _ => none)

/-- The node of an ended launch is done: its successors follow, unless the graph has halted or is ending (R280). -/
def launchDone (s : State) (l : Launch) (gr : Graph) : State :=
  if gr.state == .running then
    walkOne (s.updGraph l.graph fun g => { g with todo := g.todo ++ [(1, l.node)] }) l.graph
  else s

/-- The graph of a launch; one that system software has released while the launch ran is halted (R272). -/
def graphOf (s : State) (l : Launch) : Graph :=
  (s.graph l.graph).getD
    { die := l.die, asp := l.asp, root := 0, prio := l.prio, state := .halted, failed := 0, endNode := 0, watched := [],
      todo := [], dparts := [], cov := [] }

/-- LAUNCH_END (R280): the statistics, the reservations, code 3, follow.  The launch's writes are performed first. -/
def launchEnd (s : State) (lid : Nat) : State :=
  match s.launch lid with
  | none => s
  | some l =>
    if !launchOver s lid l || !(live s l.rel).isEmpty then s
    else
      let drop := fun (s : State) => { s with launches := Store.del s.launches lid }
      let gr := graphOf s l
      match (if l.desc.stats = 0 then .at s [] else widePlace s gr.die l.asp l.desc.stats (statsBytes l)) with
      | .wait s => s
      | .no s => failNodeAs s (.launch lid) l.graph gr l.node 0x84 0 lid drop
      | .at s ps =>
        match nodePlace s gr l.node with
        | .wait s => s
        | .no s =>
          match engWrites s (.launch lid) ps with
          | (s, true) => haltGraph (drop s) l.graph gr l.node 0x84 0 0
          | (s, false) => s
        | .at s p =>
          match engWrites s (.launch lid) (ps ++ nodeParts p [codeAt 3 0]) with
          | (s, true) => launchDone (drop s) l gr
          | (s, false) => s

def execLaunchEnd (lid : Nat) (s : State) : Host.Outcome State Fault Refusal := done (launchEnd s lid)

/-- A watched node's line was written, or asked for by an external agent: next0 is read again, after what the walker has to do
already, one activation at a time (R270, R274). -/
def openTailWake (s : State) (id n : Nat) : State :=
  match s.graph id with
  | none => s
  | some gr =>
    if gr.state == .running && gr.watched.contains n then
      walkOne (s.updGraph id fun g => { g with watched := g.watched.erase n, todo := g.todo ++ [(2, n)] }) id
    else s

def execOpenTailWake (graph node : Nat) (s : State) : Host.Outcome State Fault Refusal := done (openTailWake s graph node)

/-- No launch of the graph is placed or waiting. -/
def graphIdle (s : State) (id : Nat) : Bool := !s.launches.any fun l => l.2.graph == id

/-- A graph ends: END was activated, or nothing is left of it (R273). -/
def graphEnd (s : State) (id : Nat) : State :=
  match s.graph id with
  | none => s
  | some gr =>
    let drop := fun (s : State) => { s with graphs := Store.del s.graphs id }
    if !graphIdle s id then s
    else
      match gr.state with
      | .ending => nodeWrites s (.graph id) id gr gr.endNode [codeAt 3 0] drop
      | .running => if gr.todo.isEmpty && gr.watched.isEmpty then drop s else s
      | .halted => s

def execGraphEnd (graph : Nat) (s : State) : Host.Outcome State Fault Refusal := done (graphEnd s graph)

/-! ## The global time counter (R10) -/

/-- Walkers go on with what they have to do. -/
def walkAll (s : State) : State := (s.graphs.map (·.1)).foldl walkOne s

/-- The counter is 0 until phase 0 ends, and does not advance in a module that has tripped (R352). -/
def gtcTick (s : State) : State :=
  if s.plat.phase = 0 ∨ s.plat.phase = 4 then s else walkAll { s with gtc := s.gtc + 1 }

def execGtcTick (s : State) : Host.Outcome State Fault Refusal := done (gtcTick s)

end Sys2Proof.Machine
end

