-- ==== Sys2Proof/Machine/LaneCtl.lean ====
section
/-!
DEFINITION. LaneCtl.lean: lane control, SPAWN and the lane CWAIT (spec/08_lane_instructions.md R134 to R141; R38 to R40).
-/
namespace Sys2Proof.Machine

open Sys2Proof

/-- A lane address: off words from the word at pc (R70). -/
def laneTarget (pc : Va) (off : Int) : Va := BitVec.ofInt 57 ((pc.toNat : Int) + 12 * off)

/-- The rpc of a call entry (R137). -/
def callRpc : Va := 0x1FFFFFFFFFFFFFF
def DivEntry.isCall (e : DivEntry) : Bool := e.rpc == callRpc

/-- A join entry for rpc is on top (R38). -/
def sameJoin (g : Group) (rpc : Va) : Bool :=
  match g.ctx.held with
  | e :: _ => e.join && e.pc == rpc && e.rpc == rpc
  | [] => false

/-- The lane stream goes on at pc with a new EXM. -/
def Group.goExm (g : Group) (exm : Mask) (pc : Va) (sw : Bool) : Group :=
  ({ g with ctx := { g.ctx with exm := exm } } : Group).goL pc sw

/-- The branch part of R38. -/
def branch (s : State) (gid : Nat) (g : Group) (t : Mask) (tgt nxt rpc : Va) (sw : Bool) : State :=
  let exm := g.ctx.exm
  let taken := exm &&& t
  let other := exm &&& ~~~t
  if taken == 0 then s.setGrp gid (g.goL nxt sw)
  else if other == 0 then s.setGrp gid (g.goL tgt sw)
  else
    let es := (if sameJoin g rpc then [] else [⟨true, rpc, exm, rpc⟩])
      ++ (if tgt == rpc || nxt == rpc then [] else [⟨false, nxt, other, rpc⟩])
    pushDiv s gid g es fun s g =>
      s.setGrp gid (if tgt == rpc then g.goExm other nxt sw else g.goExm taken tgt sw)

def execLbrc (m : Mods) (tgt rpc : BitVec 16) (s : State) : Host.Outcome State Fault Refusal :=
  withCur s fun gid g =>
    branch s gid g (guardMask s.picks g m) (laneTarget g.ctx.lpc tgt.toInt) (g.ctx.lpc + 12)
      (laneTarget g.ctx.lpc rpc.toInt) m.sw

/-- Pop an entry and go on where it says; none on top, or one of the other kind: illegal convergence (R135, R137). -/
def popTo (s : State) (gid : Nat) (g : Group) (call : Bool) (why : W32) (sw : Bool) : State :=
  match g.ctx.held with
  | [] => raiseL s gid g .convergence why
  | e :: _ =>
    if e.isCall != call then raiseL s gid g .convergence why
    else popDiv s gid g fun s g e => s.setGrp gid (g.goExm (e.mask &&& g.live) e.pc sw)

def execLjoin (_nf sw : Bool) (s : State) : Host.Outcome State Fault Refusal :=
  withCur s fun gid g => popTo s gid g false 2 sw

def execLjmp (_nf sw : Bool) (off : BitVec 32) (s : State) : Host.Outcome State Fault Refusal :=
  withCur s fun gid g => s.setGrp gid (g.goL (laneTarget g.ctx.lpc off.toInt) sw)

def execLcall (_nf sw : Bool) (off : BitVec 32) (s : State) : Host.Outcome State Fault Refusal :=
  withCur s fun gid g =>
    let pc := g.ctx.lpc
    pushDiv s gid g [⟨true, pc + 12, g.ctx.exm, callRpc⟩] fun s g => s.setGrp gid (g.goL (laneTarget pc off.toInt) sw)

def execLret (_nf sw : Bool) (s : State) : Host.Outcome State Fault Refusal :=
  withCur s fun gid g => popTo s gid g true 3 sw

/-- LEXIT ends the block (R29, R138); a stack that is not empty, then an open chain, stop it (R193). -/
def execLexit (_nf sw : Bool) (s : State) : Host.Outcome State Fault Refusal :=
  withCur s fun gid g =>
    if g.ctx.depth != 0 then raiseL s gid g .convergence 1
    else if g.chain.isSome then raiseL s gid g .chain 7
    else s.setGrp gid (({ g with ctx := { g.ctx with exited := true } } : Group).nextL sw)

/-- Remove lanes for good; when none remains, the block ends and the stack is emptied (R40). -/
def killLanes (g : Group) (eff : Mask) : Group :=
  let live := g.live &&& ~~~eff
  let ctx := { g.ctx with exm := g.ctx.exm &&& ~~~eff }
  let ctx := if live == 0 && eff != 0 then { ctx with held := [], spilled := 0, exited := true } else ctx
  { g with live := live, ctx := ctx }

def execLkill (m : Mods) (s : State) : Host.Outcome State Fault Refusal :=
  withCur s fun gid g => s.setGrp gid ((killLanes g (effMask s.picks g m)).nextL m.sw)

/-! ## SPAWN (R140, R161) -/

/-- The words of a thread: V(a) to V(a + 3) of a lane. -/
def threadWords (s : State) (gid : Nat) (g : Group) (a : BitVec 8) (l : Nat) : List W32 :=
  tabulate 4 fun i => vRead s gid g (a.toNat + i) l

/-- Place threads one by one; the number placed, and the state after (R44). -/
def placeThreads (core lid : Nat) (entry : Va) : State → List Thread → Nat × State
  | s, [] => (0, s)
  | s, t :: ts =>
    match binPut s core lid entry t with
    | none => (0, s)
    | some s =>
      let r := placeThreads core lid entry s ts
      (r.1 + 1, r.2)

/-- Threads not yet placed are created; SPAWN completes when all are in bins, else p counts those placed. -/
def execSpawn (m : Mods) (a : BitVec 8) (entry : BitVec 32) (s : State) : Host.Outcome State Fault Refusal :=
  withCur s fun gid g =>
    inQuota s gid g (runRegs a 4)
      (let eff := effMask s.picks g m
       let d := s.desc g
       if d.spawnq = 0 ∧ eff ≠ 0 then raiseL s gid g .quota (quotaInfo 4 0)
       else
         let cov := g.ln.covered s
         let ts := ((lanesOf eff).drop g.ctx.prog).map fun l => (⟨threadWords s gid g a l, none, cov⟩ : Thread)
         let va : Va := BitVec.ofInt 57 ((d.sentry : Int) + 4 * entry.toInt)
         let r := placeThreads (coreOf gid) g.lid va (if ts.isEmpty then s else released s gid) ts
         if r.1 = ts.length then r.2.setGrp gid (({ g with ctx := { g.ctx with prog := 0 } } : Group).nextL m.sw)
         else r.2.setGrp gid { g with ctx := { g.ctx with prog := g.ctx.prog + r.1 } })

/-! ## The lane CWAIT (R141) -/

/-- The lane stream begins to wait at its word. -/
def Group.waitL (g : Group) (w : Wait) (sw : Bool) : Group := { g with ln := { g.ln with wait := some w, wsw := sw } }

def execLaneCwait (m : Mods) (ctr : Ctr) (t : Tgt) (s : State) : Host.Outcome State Fault Refusal :=
  withCur s fun gid g =>
    let v : W32 := match t with | .u r => (uRead s.picks g r).1 | .imm x => x
    let t : BitVec 16 := v.truncate 16
    if counterMet (counter g ctr) t then s.setGrp gid (g.nextL m.sw) else s.setGrp gid (g.waitL (.cwait ctr t) m.sw)

end Sys2Proof.Machine
end

