-- ==== Sys2Proof/Machine/Traversal.lean ====
section
/-!
DEFINITION. Traversal.lean: node layouts and the traversal engine (spec/24_traversal.md R296 to R315).
-/
namespace Sys2Proof.Machine

open Sys2Proof

/-! ## Node layouts (R296, R298) -/

/-- A node layout entry. -/
abbrev Lay := BitVec 512

namespace Lay

def nsize (x : Lay) : Nat := fld x 0 0 16
def lfon (x : Lay) : Bool := fld x 2 15 1 == 1
def lbit (x : Lay) : Nat := fld x 2 12 3
def loff (x : Lay) : Nat := fld x 2 0 12
def arity (x : Lay) : Nat := fld x 4 0 8
def slot (x : Lay) : Nat := fld x 5 0 4
def cnton (x : Lay) : Bool := fld x 6 15 1 == 1
def cw (x : Lay) : Nat := fld x 6 13 2
/-- Bytes of the count field. -/
def cbytes (x : Lay) : Nat := 2 ^ x.cw
def coff (x : Lay) : Nat := fld x 6 0 12
def poff (x : Lay) : Nat := fld x 8 0 16
def pstride (x : Lay) : Nat := fld x 0x0A 0 16
def rel (x : Lay) : Bool := fld x 0x0C 1 1 == 1
/-- Bytes of a child pointer. -/
def pbytes (x : Lay) : Nat := if fld x 0x0C 0 1 = 1 then 8 else 4
def clayout (x : Lay) : Nat := fld x 0x0D 0 4
def koff (x : Lay) : Nat := fld x 0x10 0 16
def klen (x : Lay) : Nat := fld x 0x12 0 16

/-- A reserved field is not 0. -/
def reservedBad (x : Lay) : Bool :=
  fld x 5 4 4 != 0 || fld x 6 12 1 != 0 || fld x 0x0C 2 6 != 0 || fld x 0x0D 4 4 != 0 || fld x 0x0E 0 16 != 0 ||
    bits x 160 352 != 0

/-- A value lies outside R296. -/
def valueBad (x : Lay) : Bool :=
  decide (x.nsize < 16) || decide (4096 < x.nsize) || x.nsize % 16 != 0 ||
    (if x.lfon then decide (x.nsize ≤ x.loff) else x.loff != 0) || decide (32 < x.arity) || (x.cnton && x.arity != 0) ||
    x.cw == 3 || decide (x.nsize ≤ x.poff) || x.pstride % x.pbytes != 0 || decide (128 < x.klen)

/-- A pointer, the count field or the key window passes nsize. -/
def beyond (x : Lay) : Bool :=
  ((decide (0 < x.arity) || x.cnton) && decide (x.nsize < x.poff + x.pbytes)) ||
    (x.cnton && decide (x.nsize < x.coff + x.cbytes)) || decide (x.nsize < x.koff + x.klen)

end Lay

def execTvlayout (a : BitVec 6) (n : BitVec 4) (sw : Bool) (s : State) : Host.Outcome State Fault Refusal :=
  withCur s fun gid g =>
    let addr := sPair s.picks g a.toNat
    if !hasFeat s gid 1 then raiseS s gid g .feature 1
    else if blockAddrBad addr then raiseS s gid g .operand (opInfo 20)
    else if g.sc.blocked s then s
    else
      readBlock s gid g false addr.toNat fun s x =>
        match s.grp gid with
        | none => s
        | some g =>
          if Lay.reservedBad x || Lay.valueBad x then raiseS s gid g .operand (opInfo 20)
          else if Lay.slot x != n.toNat then raiseS s gid g .operand (opInfo 1)
          else if Lay.beyond x then raiseS s gid g .operand (opInfo 20)
          else
            let s := s.updLaunch g.lid fun l => { l with layouts := Store.put l.layouts n.toNat x }
            s.setGrp gid (g.nextS sw)

/-! ## The routine table and the entries (R299, R300) -/

/-- A field of a routine table lies outside R299. -/
def tableBad (x : BitVec 512) : Bool :=
  (List.range 5).any (fun i => fld x (8 * i) 57 7 != 0) || fld x 0x30 57 7 != 0 || fld x 0x30 0 3 != 0 ||
    fld x 0 0 57 == 0 || fld x 0x18 0 57 % 16 != 0 || fld x 0x20 0 57 % 16 != 0 ||
    (fld x 0x28 0 32 == 0 && fld x 0x20 0 57 != 0) || decide (2 ^ 24 < fld x 0x28 0 32) || fld x 0x2C 1 31 != 0 ||
    fld x 0x3C 0 32 != 0

namespace Trav

def enter (t : Trav) : Nat := fld t.table 0 0 57
def leave (t : Trav) : Nat := fld t.table 8 0 57
def prune (t : Trav) : Nat := fld t.table 0x10 0 57
def nbase (t : Trav) : Nat := fld t.table 0x18 0 57
def sbase (t : Trav) : Nat := fld t.table 0x20 0 57
def zs (t : Trav) : Nat := fld t.table 0x28 0 32
def ord (t : Trav) : Bool := fld t.table 0x2C 0 1 == 1
def stampb (t : Trav) : Nat := 8 * fld t.table 0x30 3 54
def seq (t : Trav) : Nat := fld t.table 0x38 0 32
/-- Where the completion stamp lies. -/
def stampVa (t : Trav) : Nat := t.stampb + 8 * t.payload.toNat
/-- Height of the stack. -/
def h (t : Trav) : Nat := t.spilled + t.held.length
/-- An address is one of the nodes'. -/
def inNodes (t : Trav) (x : Int) : Bool := decide ((t.nbase : Int) ≤ x) && decide (x ≤ t.nbase + 0xFFFFFFF0)

end Trav

/-- Completion-stamp address of a table and a payload; none: no stamp. -/
def stampOf (table : BitVec 512) (payload : W32) : Option Nat :=
  if fld table 0x30 3 54 = 0 then none else some (8 * fld table 0x30 3 54 + 8 * payload.toNat)

namespace TEntry

def ent (e : TEntry) : Bool := bit e.w0 63
def layout (e : TEntry) : Nat := (bits e.w0 57 4).toNat
def node (e : TEntry) : Nat := (bits e.w0 0 57).toNat
def pgen (e : TEntry) : BitVec 8 := bits e.w1 56 8
def cursor (e : TEntry) : BitVec 8 := bits e.w1 40 8
def depth (e : TEntry) : BitVec 8 := bits e.w1 32 8
def user (e : TEntry) : W32 := bits e.w1 0 32

/-- An entry of these fields. -/
def make (ent : Bool) (layout node : Nat) (pgen : BitVec 8) (cursor depth : Nat) (user : W32) : TEntry :=
  ⟨BitVec.ofBool ent ++ 0#2 ++ BitVec.ofNat 4 layout ++ BitVec.ofNat 57 node,
   pgen ++ 0#8 ++ BitVec.ofNat 8 cursor ++ BitVec.ofNat 8 depth ++ user⟩

/-- The fields of 16 bytes; the reserved bits read 0. -/
def ofList (bs : List Byte) : TEntry :=
  let x : BitVec 128 := ofBytes 128 bs
  make (bit x 63) (bits x 57 4).toNat (bits x 0 57).toNat (bits x 120 8) (bits x 104 8).toNat (bits x 96 8).toNat
    (bits x 64 32)
def toList (e : TEntry) : List Byte := bytesOf e.w0 ++ bytesOf e.w1

end TEntry

def State.setTrav (s : State) (id : Nat) (t : Trav) : State := { s with travs := Store.put s.travs id t }
/-- Address space of a traversal. -/
def travAsp (s : State) (t : Trav) : Nat := ((s.launch t.lid).map (·.asp)).getD 0

/-! ## Completion (R312) -/

/-- What stops an engine access of a traversal. -/
inductive TStop
  | fault (kind va : Nat)
  | wait (line : Nat)
  /-- a write waits at its home -/
  | later
  | outside (pa : Nat)
  | mismatch (pa : Nat)
  /-- the traversal ends -/
  | ends (status : Nat)
  deriving DecidableEq, Repr

/-- The completed traversals that a group counts, in the order it started them (R107). -/
def Group.countTravs (s : State) (g : Group) : Group :=
  let ended := g.travq.takeWhile fun i => (Store.find s.travs i).isNone
  { g with travq := g.travq.drop ended.length, ctrav := g.ctrav + BitVec.ofNat 16 ended.length }

/-- The record of the owner that is out, and where its group's counters lie in its slot. -/
def savedOwner (s : State) (t : Trav) : Option (Team × Nat) :=
  if !t.owned then none
  else
    match t.oteam with
    | some tid => ((s.team (teamKey t.lid tid)).filter fun r => r.state == .out).map fun r => (r, gOff t.ogroup + 0x558)
    | none => ((s.team t.okey).filter fun r => r.state == .out && r.tid.isNone).map fun r => (r, gOff 0 + 0x558)

/-- The owner's CTRAV counts, wherever the owner is (R118, R312, R331). -/
def countTrav (s : State) (t : Trav) : State :=
  if !t.owned then s
  else
    match t.oteam with
    | some tid => mapTeamGroups s (teamKey t.lid tid) fun g => if g.gidx == t.ogroup then g.countTravs s else g
    | none =>
      match savedOwner s t with
      | some _ => mapTeamGroups s t.okey (Group.countTravs s)
      | none => s.updGrp t.okey fun g => if g.lid == t.lid && g.tid.isNone then g.countTravs s else g

/-- Send a request of an engine. -/
def sendReq (s : State) (r : Req) : State := { s with reqs := Store.put s.reqs s.nextId r, nextId := s.nextId + 1 }

/-- The header fields 0x08 to 0x3F of a cut record whose traversal is not live: its id, and 0 in every reserved field; the table,
the payload and tg are undefined (R308, R309; log entry 104). -/
def deadHeader (n id : Nat) : List Byte :=
  (bytesOf (Config.undefWord n)) ++ bytesOf (Config.undefWord (n + 1) &&& 0x1FFFFFF) ++ bytesOf (Config.undefWord (n + 2)) ++
    bytesOf (Config.undefWord (n + 3) &&& 0xFF) ++ leBytes 4 id ++ leBytes 36 0

/-- The stores that make a cut record say that its traversal is not live: the header, and its stamp word last (R308). -/
def deadCut (s : State) (id : Nat) (c : Cut) : State :=
  match c.pa with
  | (_, p) :: _ =>
    let r : Req :=
      { line := p.pa / 128, core := none, src := none, kind := .store (p.pa + 8) (deadHeader s.free id), deps := [],
        sentAfter := [], rels := [], own := none, repl := p.repl, locked := [] }
    let stamp := { r with kind := .store p.pa (leBytes 8 (2 ^ 63 + 2 ^ 32)), deps := [s.nextId] }
    sendReq (sendReq { s with free := s.free + 4 } r) stamp
  | [] => s

/-- Cut requests that meet a traversal no longer live. -/
def deadCuts (s : State) (id : Nat) (cs : List Cut) : State := cs.foldl (fun s c => deadCut s id c) s

/-- Suspend a traversal on a translation fault (R312). -/
def suspend (s : State) (id : Nat) (t : Trav) (kind va : Nat) : State :=
  postFault ((dropWriter s (.trav id)).setTrav id { t with fault := some (kind, va) })
    { die := dieOf t.core, kind := 2, lid := t.lid, who := id, detail := BitVec.ofNat 32 kind, addr := va, info := 0 }

/-- Translate the pages of [va, va + n) for writing, each from its offset on. -/
def placePages (s : State) (t : Trav) (va n : Nat) : State × Except TStop (List (Nat × Place)) :=
  (splitRange 65536 va n).foldl (fun r p =>
    match r with
    | (s, .ok ps) =>
      let s := keepTr s (dieOf t.core) (travAsp s t) p.1
      (s, match engPlace s (dieOf t.core) (travAsp s t) p.1 with
        | .ok pa m => .ok (ps ++ [(p.1 - va, ⟨pa, m⟩)])
        | .fault kind va => .error (.fault kind va)
        | .blocked line => .error (.wait line)
        | .outside pa => .error (.outside pa))
    | r => r) (s, .ok [])

/-- The stamp's translation, made again after a pre-emption (R358). -/
def travStamp (s : State) (t : Trav) : State × Except TStop Trav :=
  if t.stampOk then (s, .ok t)
  else
    match placePages s t t.stampVa 8 with
    | (s, .ok ps) => (s, .ok { t with stamp := ps.head?.map (·.2), stampOk := true })
    | (s, .error x) => (s, .error x)

/-- The translations of cut records, made again after a pre-emption (R358). -/
def cutPlaces (t : Trav) : State → List Cut → State × Except TStop (List Cut)
  | s, [] => (s, .ok [])
  | s, c :: cs =>
    match (if c.pa.isEmpty then placePages s t c.record 4096 else (s, .ok c.pa)) with
    | (s, .error x) => (s, .error x)
    | (s, .ok ps) =>
      match cutPlaces t s cs with
      | (s, .ok cs) => (s, .ok ({ c with pa := ps } :: cs))
      | r => r

/-- Every translation of a traversal is made again before its next access after a pre-emption (R358). -/
def travPlaces (s : State) (t : Trav) : State × Except TStop Trav :=
  match travStamp s t with
  | (s, .error x) => (s, .error x)
  | (s, .ok t) =>
    match cutPlaces t s t.cuts with
    | (s, .error x) => (s, .error x)
    | (s, .ok cs) => (s, .ok { t with cuts := cs })

/-- The last part of an ending: the stamp, CTRAV, the slot; what waits keeps the traversal as ending. -/
def closeTrav (s : State) (id : Nat) (t : Trav) (status : Nat) : State :=
  let slot := match savedOwner s t with | some (r, o) => slotPlaces r [o] | none => []
  let stamp := match t.stamp with | some p => [p] | none => []
  match engAll (.trav id) s (stamp ++ slot) with
  | (s, false) => s
  | (s, true) =>
    let s := stamp.foldl (fun s p => engPut s p (leBytes 8 (status * 2 ^ 32 + t.seq))) (dropWriter s (.trav id))
    let s := countTrav { deadCuts s id t.cuts with travs := Store.del s.travs id } t
    match t.oteam with
    | some tid => reap s (teamKey t.lid tid)
    | none => s

/-- End a traversal (R312): its returns' covered writes are performed first (R313), and after a pre-emption its translations
are made again (R358): a fault there suspends it as it ends. -/
def endTrav (s : State) (id : Nat) (t : Trav) (status : Nat) : State :=
  let t := { t with ending := some status }
  let s := s.setTrav id t
  if !(live s t.cov).isEmpty then s
  else
    match travPlaces s t with
    | (s, .ok t) => closeTrav (s.setTrav id t) id t status
    | (s, .error (.fault kind va)) => suspend s id t kind va
    | (s, .error (.wait line)) => askRead s line
    | (s, .error (.outside pa)) => freezeEngine s 4 (tveCore t.core) 0 0 1 pa
    | (s, .error _) => s

/-- A stop of a traversal: it is suspended, waits, ends, or freezes its engine (R312, R345). -/
def stopTrav (s : State) (id : Nat) (t : Trav) (r : TStop) : State :=
  match r with
  | .fault kind va => suspend s id t kind va
  | .wait line => askRead (s.setTrav id t) line
  | .later => s.setTrav id t
  | .outside pa => freezeEngine (s.setTrav id t) 4 (tveCore t.core) 0 0 1 pa
  | .mismatch pa =>
    if freezeRegion s pa then freezeEngine (s.setTrav id t) 4 (tveCore t.core) 0 0 2 pa else endTrav s id t 3
  | .ends status => endTrav s id t status

/-! ## The spill area (R302) -/

def Trav.spillVa (t : Trav) (slot : Nat) : Nat := t.sbase + 16 * (t.zs * t.payload.toNat + slot)

/-- The entry in a slot. -/
def readSlot (s : State) (t : Trav) (slot : Nat) : Except TStop TEntry :=
  match engLoad s (dieOf t.core) (travAsp s t) (t.spillVa slot) 16 with
  | .ok bs none => .ok (.ofList bs)
  | .ok _ (some pa) => .error (.mismatch pa)
  | .fault kind va => .error (.fault kind va)
  | .blocked line => .error (.wait line)
  | .outside pa => .error (.outside pa)

/-- Write entries, each into its slot, together: what stops it otherwise. -/
def writeSlots (s : State) (id : Nat) (t : Trav) (es : List (Nat × TEntry)) (more : List (Place × List Byte)) :
    State × Option TStop :=
  let r := es.foldl (fun (r : State × Except TStop (List (Place × List Byte))) e =>
    match r with
    | (s, .ok ps) =>
      match placePages s t (t.spillVa e.1) 16 with
      | (s, .ok xs) => (s, .ok (ps ++ xs.map fun x => (x.2, e.2.toList)))
      | (s, .error x) => (s, .error x)
    | r => r) (s, .ok [])
  match r with
  | (s, .error x) => (s, some x)
  | (s, .ok ps) =>
    match engWrites s (.trav id) (ps ++ more) with
    | (s, true) => (s, none)
    | (s, false) => (s, some .later)

/-- Entries from a slot on. -/
def readSlots (s : State) (t : Trav) : Nat → Nat → Except TStop (List TEntry)
  | _, 0 => .ok []
  | slot, n + 1 =>
    match readSlot s t slot with
    | .error x => .error x
    | .ok e =>
      match readSlots s t (slot + 1) n with
      | .error x => .error x
      | .ok es => .ok (e :: es)

/-- Bring entries back until 64 are held or none is spilled; fuel: the number that may be missing. -/
def refill (s : State) : Nat → Trav → Except TStop Trav
  | 0, t => .ok t
  | f + 1, t =>
    if t.spilled = 0 ∨ 64 ≤ t.held.length then .ok t
    else
      match readSlot s t (t.spilled - 1) with
      | .error x => .error x
      | .ok e => refill s f { t with held := t.held ++ [e], spilled := t.spilled - 1 }

/-- Spill what is held beyond 64 entries. -/
def trim (s : State) (id : Nat) (t : Trav) : State × Except TStop Trav :=
  if t.held.length ≤ 64 then (s, .ok t)
  else
    let low := (t.held.drop 64).reverse
    match writeSlots s id t (low.mapIdx fun i e => (t.spilled + i, e)) [] with
    | (s, some x) => (s, .error x)
    | (s, none) => (s, .ok { t with held := t.held.take 64, spilled := t.spilled + low.length })

/-- Push an entry: beyond 64 + zs the traversal ends with status 2; the bottommost held entry is spilled. -/
def pushT (s : State) (id : Nat) (t : Trav) (e : TEntry) : State × Except TStop Trav :=
  if 64 + t.zs ≤ t.h then (s, .error (.ends 2))
  else
    let es := e :: t.held
    match (if 64 < es.length then es.getLast? else none) with
    | none => (s, .ok { t with held := es })
    | some b =>
      match writeSlots s id t [(t.spilled, b)] [] with
      | (s, some x) => (s, .error x)
      | (s, none) => (s, .ok { t with held := es.dropLast, spilled := t.spilled + 1 })

/-- Push several. -/
def pushTs (id : Nat) : State → Trav → List TEntry → State × Except TStop Trav
  | s, t, [] => (s, .ok t)
  | s, t, e :: es =>
    match pushT s id t e with
    | (s, .ok t) => pushTs id s t es
    | r => r

/-! ## The return of a visit (R304, R306) -/

/-- The child count of a node as read. -/
def countOf (x : Lay) (node : List Byte) : Nat :=
  if x.lfon && bit (nthD (0 : Byte) node x.loff) x.lbit then 0
  else if x.cnton then leNat ((node.drop x.coff).take x.cbytes)
  else x.arity

/-- Child pointer i as read. -/
def ptrOf (x : Lay) (node : List Byte) (i : Nat) : Nat := leNat ((node.drop (x.poff + i * x.pstride)).take x.pbytes)

/-- The address that a pointer names. -/
def childOf (x : Lay) (nbase at_ v : Nat) : Int :=
  if x.rel then (at_ : Int) + (if 2 ^ (8 * x.pbytes - 1) ≤ v then (v : Int) - 2 ^ (8 * x.pbytes) else v)
  else if x.pbytes = 8 then v
  else (nbase : Int) + v

/-- The return of an ENTER. -/
def retEnter (s : State) (id : Nat) (t : Trav) (v : TVisit) (r u : W32) : State × Except TStop Trav :=
  match v.lay with
  | none => (s, .error (.ends 4))
  | some lay =>
    let x : Lay := lay
    let cnt := countOf x v.node
    if 32 < cnt then (s, .error (.ends 4))
    else if (List.range cnt).any fun i => decide (x.nsize < x.poff + i * x.pstride + x.pbytes) then (s, .error (.ends 4))
    else
      let sel := ((List.range cnt).filter fun i => bit r i && ptrOf x v.node i != 0).map fun i =>
        (i, childOf x t.nbase v.e.node (ptrOf x v.node i))
      if sel.any fun c => c.2 % 16 != 0 || !t.inNodes c.2 then (s, .error (.ends 4))
      else
        let t := if t.leave = 0 then { t with held := t.held.drop 1 }
          else { t with held := match t.held with | e :: es => ⟨e.w0 ||| 0x8000000000000000, e.w1⟩ :: es | [] => [] }
        if sel.isEmpty then (s, .ok t)
        else if v.e.depth == 255 then (s, .error (.ends 4))
        else
          pushTs id s t ((if t.ord then sel.reverse else sel).map fun c =>
            TEntry.make false x.clayout c.2.toNat t.tg c.1 (v.e.depth.toNat + 1) u)

/-- The return of a PRUNE. -/
def retPrune (t : Trav) (r u : W32) : Trav :=
  match t.held with
  | e :: es =>
    if bit r 0 then { t with held := TEntry.make e.ent e.layout e.node t.tg e.cursor.toNat e.depth.toNat u :: es }
    else { t with held := es }
  | [] => t

def retVisit (s : State) (id : Nat) (t : Trav) (v : TVisit) (r u : W32) : State × Except TStop Trav :=
  match v.kind with
  | 0 => retEnter s id t v r u
  | 2 => (s, .ok (retPrune t r u))
  | _ => (s, .ok t)

/-- The engine may go on with what it has begun for the traversal: it is not frozen, suspended, or at its end. -/
def travFree (s : State) (t : Trav) : Bool :=
  !engineFrozen s 4 (tveCore t.core) && t.fault.isNone && t.ending.isNone

/-- The engine may act for the traversal: its launch is not pre-empted either. -/
def travMay (s : State) (t : Trav) : Bool := travFree s t && ((s.launch t.lid).map (·.pre)).getD .none == .none

/-- A return may be applied, and a step that has begun goes on: a pre-emption under way stops a traversal only between steps
(R314). -/
def travReturns (s : State) (t : Trav) : Bool := travFree s t && ((s.launch t.lid).map (·.pre)).getD .none != .saved

/-- Apply a return that has been made. -/
def applyReturn (s : State) (id : Nat) : State :=
  match Store.find s.travs id with
  | none => s
  | some t =>
    match t.visit, t.ret with
    | some v, some (r, u) =>
      if !travReturns s t then s
      else
        match travPlaces s t with
        | (s, .error x) => stopTrav s id t x
        | (s, .ok t) =>
          match retVisit s id t v r u with
          | (s, .ok t) => s.setTrav id { t with visit := none, ret := none, waiting := false }
          | (s, .error x) => stopTrav s id t x
    | _, _ => s

/-! ## Stepping (R304, R305) -/

/-- The routine of a visit kind. -/
def Trav.routine (t : Trav) (kind : Nat) : Nat := if kind = 0 then t.enter else if kind = 1 then t.leave else t.prune

/-- The thread of a visit (R305). -/
def Trav.thread (t : Trav) (id : Nat) (v : TVisit) : Thread :=
  { words := [BitVec.ofInt 32 ((v.e.node : Int) - t.nbase), BitVec.ofNat 32 id,
      BitVec.ofNat 2 v.kind ++ 0#6 ++ v.e.depth ++ 0#4 ++ BitVec.ofNat 4 v.e.layout ++ v.e.cursor, v.e.user],
    visit := some (id, v.kind), cov := t.cov }

/-- Place the visit's thread in a bin, or let it wait in the engine. -/
def placeVisit (s : State) (id : Nat) (t : Trav) (v : TVisit) : State :=
  match binPut s t.bins t.lid (BitVec.ofNat 57 (t.routine v.kind)) (t.thread id v) with
  | some s => s.setTrav id { t with visit := some v, waiting := false, begun := false }
  | none => s.setTrav id { t with visit := some v, waiting := true, begun := false }

/-- The node read of an ENTER, and the visit. -/
def stepEnter (s : State) (id : Nat) (t : Trav) (e : TEntry) : State :=
  match ((s.launch t.lid).map (·.layouts)).bind fun ls => Store.find ls e.layout with
  | none => placeVisit s id t ⟨0, e, none, []⟩
  | some x =>
    let t := { t with begun := true }
    let s := keepRange s (dieOf t.core) (travAsp s t) e.node (Lay.nsize x)
    match engLoad s (dieOf t.core) (travAsp s t) e.node (Lay.nsize x) with
    | .ok bs none => placeVisit s id t ⟨0, e, some x, bs⟩
    | .ok _ (some pa) => stopTrav s id t (.mismatch pa)
    | .fault kind va => stopTrav s id t (.fault kind va)
    | .blocked line => stopTrav s id t (.wait line)
    | .outside pa => stopTrav s id t (.outside pa)

/-- One step of a traversal that has no visit; a step whose node read has begun goes on as it began (R304, R308). -/
def stepTrav (s : State) (id : Nat) (t : Trav) : State :=
  match t.held with
  | [] => endTrav s id t 0
  | e :: es =>
    if e.ent then placeVisit s id { t with held := es } ⟨1, e, none, []⟩
    else if !t.begun && t.prune != 0 && e.pgen != t.tg then placeVisit s id t ⟨2, e, none, []⟩
    else stepEnter s id t e

/-- The topmost 64 entries are held, the others spilled (R302). -/
def holdTop (s : State) (id : Nat) (t : Trav) : State × Except TStop Trav :=
  match trim s id t with
  | (s, .error x) => (s, .error x)
  | (s, .ok t) =>
    let k := min t.spilled (64 - t.held.length)
    let s := keepRange s (dieOf t.core) (travAsp s t) (t.spillVa (t.spilled - k)) (16 * k)
    (s, refill s 64 t)

/-- Go on with a traversal whose translations are made and whose held entries are complete. -/
def readyTrav (s : State) (id : Nat) (t : Trav) (k : State → Trav → State) : State :=
  match travPlaces s t with
  | (s, .error x) => stopTrav s id t x
  | (s, .ok t) =>
    match holdTop s id t with
    | (s, .error x) => stopTrav s id t x
    | (s, .ok t') => k s t'

/-- TRAVERSAL_STEP: a return is applied, a waiting visit is placed, or the next step is taken; cuts that have arrived come
first. -/
def travStep (s : State) (id : Nat) : State :=
  match Store.find s.travs id with
  | none => s
  | some t =>
    match t.ending with
    | some st => if engineFrozen s 4 (tveCore t.core) || t.fault.isSome then s else endTrav s id t st
    | none =>
      if t.visit.isSome && t.ret.isSome then (if (live s t.cov).isEmpty then applyReturn s id else s)
      else if !(if t.begun then travReturns s t else travMay s t) || !(live s t.cov).isEmpty then s
      else
        match t.visit with
        | some v => if t.waiting then placeVisit s id t v else s
        | none =>
          if !t.begun && t.cuts.any (·.arrived) then s
          else readyTrav s id t fun s t => stepTrav s id t

def execTraversalStep (id : Nat) (s : State) : Host.Outcome State Fault Refusal := done (travStep s id)

/-! ## Starting (R301, R303) -/

/-- TVBEGIN and TVRESUME may start k traversals: the engine has k free slots, and the group owns at most 256 − k. -/
def travRoom (s : State) (gid : Nat) (g : Group) (k : Nat) : Bool :=
  let ts := s.travs.map (·.2)
  let here := (ts.filter fun t => t.core / 2 == coreOf gid / 2).length
  let own := (ts.filter fun t => t.owned && t.lid == g.lid && t.oteam == g.tid && t.ogroup == g.gidx &&
    (g.tid.isSome || t.okey == gid)).length
  decide (here + k ≤ 512) && decide (own + k ≤ 256)

/-- A new traversal of a group. -/
def newTrav (gid : Nat) (g : Group) (table : BitVec 512) (taddr : Nat) (payload : W32) (tg : BitVec 8) (held : List TEntry)
    (stamp : Option Place) (ending : Option Nat) (cov : List Nat) : Trav :=
  { lid := g.lid, oteam := g.tid, ogroup := g.gidx, okey := gid, owned := true, core := coreOf gid, bins := coreOf gid, table := table,
    taddr := taddr, payload := payload, tg := tg, held := held, spilled := 0, begun := false, visit := none,
    waiting := false, ret := none, cuts := [], stamp := stamp, stampOk := true, ending := ending, fault := none,
    cov := cov }

/-- What the checks of R303 and R310 have in common: the quota, spawnq, the feature. -/
def tvChecks (s : State) (gid : Nat) (g : Group) (regs : List Nat) (k : State) : State :=
  inQuota s gid g regs
    (if (s.desc g).spawnq = 0 then raiseL s gid g .quota (quotaInfo 4 0)
     else if !hasFeat s gid 1 then raiseL s gid g .feature 1
     else k)

/-- Lowest bit of the c field of a lane word (R320). -/
def cBit : Nat := 54

/-- The place of a lane's stamp among translated ones. -/
def placeOf (ps : List (Nat × Nat × TlbEntry)) (l : Nat) : Option Place :=
  (ps.find? fun p => p.1 == l).map fun p => ⟨p.2.1, replMask p.2.2⟩

/-- The id that a value of the counter gives: nonzero, of 32 bits (R300). -/
def travIdAt (n : Nat) : Nat := n % 0xFFFFFFFF + 1

/-- Ids that name a traversal: a live one, or one that has ended while its launch lives (R300). -/
def idsTaken (s : State) : List Nat := s.travs.map (·.1) ++ s.launches.flatMap fun l => l.2.tids

/-- The first value of the counter from n on whose id names no traversal. -/
def freeCount (s : State) (n : Nat) : Nat :=
  let taken := idsTaken s
  (((List.range (taken.length + 1)).map fun i => n + i).find? fun k => !taken.contains (travIdAt k)).getD n

/-- Start traversals; their ids, in order. -/
def startTravs (s : State) (ts : List Trav) : State × List Nat :=
  ts.foldl (fun r t =>
    let k := freeCount r.1 r.1.travId
    let s := ({ r.1 with travId := k + 1 } : State).setTrav (travIdAt k) t
    (s.updLaunch t.lid fun l => { l with tids := l.tids ++ [travIdAt k] }, r.2 ++ [travIdAt k])) (s, [])

/-- The id that a lane receives, of the lanes that start a traversal and of their ids. -/
def idOf (lanes ids : List Nat) (l : Nat) : Nat := nthD 0 ids (lanes.takeWhile fun x => x != l).length

/-- The traversal of lane l of a TVBEGIN. -/
def beginLane (s : State) (gid : Nat) (g : Group) (a b : BitVec 8) (lay : BitVec 4) (table : BitVec 512) (taddr : Nat)
    (ps : List (Nat × Nat × TlbEntry)) (l : Nat) : Trav :=
  let root := (vPair s gid g a l).toNat
  let t := newTrav gid g table taddr (vRead s gid g b.toNat l) 0 [TEntry.make false lay.toNat root 0 0 0 0] (placeOf ps l)
    none (g.ln.covered s)
  if root % 16 != 0 || !t.inNodes root then { t with ending := some 4 } else t

def execTvbegin (m : Mods) (d a b : BitVec 8) (c : Uni) (lay : BitVec 4) (s : State) : Host.Outcome State Fault Refusal :=
  withCur s fun gid g =>
    tvChecks s gid g ([d.toNat, b.toNat] ++ runRegs a 2)
      (let taddr := uPair s.picks g c
       if blockAddrBad taddr then raiseL s gid g .operand (opInfo cBit)
       else if g.ln.blocked s || g.ln.full then s
       else
         readBlock s gid g true taddr.toNat fun s table =>
           match s.grp gid with
           | none => s
           | some g =>
             let eff := effMask s.picks g m
             let lanes := lanesOf eff
             if tableBad table then raiseL s gid g .operand (opInfo cBit)
             else if !travRoom s gid g lanes.length then s
             else
               let stamps := lanes.filterMap fun l =>
                 (stampOf table (vRead s gid g b.toNat l)).map fun va => (l, va)
               translated s gid g .write stamps fun s ps =>
                 let ts := lanes.map (beginLane s gid g a b lay table taddr.toNat ps)
                 let (s, ids) := startTravs (released s gid) ts
                 let ws := if eff == 0 then [] else wV g .i32 d eff .top (idOf lanes ids)
                 issueL s gid { g with travq := g.travq ++ ids } ws m.sw)

/-! ## TVRET, TVBOUND, TVSTAT (R306, R307, R311) -/

/-- A word that needs the trav feature. -/
def tvFeat (s : State) (gid : Nat) (g : Group) (regs : List Nat) (k : State) : State :=
  inQuota s gid g regs (if !hasFeat s gid 1 then raiseL s gid g .feature 1 else k)

/-- The visit of lane l of a group. -/
def visitOf (g : Group) (l : Nat) : Option Visit := g.visits.find? fun v => v.lane == l

/-- Return the visit of one lane. -/
def returnLane (gid : Nat) (g : Group) (a b : BitVec 8) (cov : List Nat) (s : State) (l : Nat) : State :=
  match visitOf g l with
  | none => s
  | some v =>
    let r := vRead s gid g a.toNat l
    let u := vRead s gid g b.toNat l
    applyReturn { s with travs := Store.adjust s.travs v.trav fun t =>
      { t with ret := some (r, u), cov := live s (t.cov ++ cov) } } v.trav

def execTvret (m : Mods) (a b : BitVec 8) (s : State) : Host.Outcome State Fault Refusal :=
  withCur s fun gid g =>
    tvFeat s gid g [a.toNat, b.toNat]
      (let eff := effMask s.picks g m
       let lanes := lanesOf eff
       if lanes.any fun l => (visitOf g l).isNone then raiseL s gid g .operand (opInfo 0)
       else
         let s := lanes.foldl (returnLane gid g a b (g.ln.covered s)) (released s gid)
         s.updGrp gid fun g =>
           (killLanes { g with visits := g.visits.filter fun v => !eff.getLsbD v.lane } eff).nextL m.sw)

/-- The live traversal of a launch that a lane's word names. -/
def travOf (s : State) (g : Group) (w : W32) : Option Trav := (Store.find s.travs w.toNat).filter fun t => t.lid == g.lid

def execTvbound (m : Mods) (a : BitVec 8) (s : State) : Host.Outcome State Fault Refusal :=
  withCur s fun gid g =>
    tvFeat s gid g [a.toNat]
      (let s := (lanesOf (effMask s.picks g m)).foldl (fun s l =>
         let id := vRead s gid g a.toNat l
         if (travOf s g id).isSome then { s with travs := Store.adjust s.travs id.toNat fun t => { t with tg := t.tg + 1 } }
         else s) s
       s.setGrp gid (g.nextL m.sw))

def execTvstat (m : Mods) (d a : BitVec 8) (s : State) : Host.Outcome State Fault Refusal :=
  withCur s fun gid g =>
    tvFeat s gid g [d.toNat, a.toNat]
      (laneV s gid g m [] .i32 d .top fun l =>
        match travOf s g (vRead s gid g a.toNat l) with
        | some t => t.payload.toNat
        | none => 0xFFFFFFFF)

/-! ## TVCUT (R308, R309) -/

/-- The request of lane l, whose record is at va. -/
def cutOf (s : State) (gid : Nat) (g : Group) (a b : BitVec 8) (ps : List (Nat × Nat × TlbEntry)) (l j va : Nat) :
    Nat × Cut :=
  let id := (vRead s gid g a.toNat l).toNat
  let pl := fun k => (ps.find? fun p => p.1 == k).map fun p => (⟨p.2.1, replMask p.2.2⟩ : Place)
  let next := 65536 - va % 65536
  let ps := (match pl (2 * j) with | some p => [(0, p)] | none => []) ++
    (match pl (2 * j + 1) with | some p => [(next, p)] | none => [])
  (id, ⟨(vRead s gid g b.toNat l).toNat, va, ps, g.visits.any fun v => v.trav == id⟩)

/-- A request reaches the traversal, or none is live. -/
def takeCut (g : Group) (s : State) (x : Nat × Cut) : State :=
  if (travOf s g (BitVec.ofNat 32 x.1)).isSome then
    { s with travs := Store.adjust s.travs x.1 fun t => { t with cuts := t.cuts ++ [x.2] } }
  else deadCut s x.1 x.2

def execTvcut (m : Mods) (a b : BitVec 8) (c : Uni) (s : State) : Host.Outcome State Fault Refusal :=
  withCur s fun gid g =>
    tvFeat s gid g [a.toNat, b.toNat]
      (let base := uPair s.picks g c
       if blockAddrBad base then raiseL s gid g .operand (opInfo cBit)
       else if g.ln.blocked s then s
       else
         let recs := (lanesOf (effMask s.picks g m)).mapIdx fun j l => (j, l, base.toNat + 4096 * j)
         let vas := recs.flatMap fun r =>
           (2 * r.1, r.2.2) :: (if 65536 < r.2.2 % 65536 + 4096 then [(2 * r.1 + 1, r.2.2 - r.2.2 % 65536 + 65536)] else [])
         translated s gid g .write vas fun s ps =>
           let s := recs.foldl (fun s r => takeCut g s (cutOf s gid g a b ps r.2.1 r.1 r.2.2)) s
           s.setGrp gid (g.nextL m.sw))

/-- The bytes of a cut record: header fields from 0x08 on, then the entries (R309). -/
def cutBody (id : Nat) (t : Trav) (es : List TEntry) : List Byte :=
  leBytes 8 t.taddr ++ bytesOf t.payload ++ leBytes 4 t.tg.toNat ++ leBytes 4 id ++ leBytes 36 0 ++ es.flatMap (·.toList)

/-- Physical place of an offset of a record. -/
def Cut.placeAt (c : Cut) (o : Nat) : Place :=
  match (c.pa.filter fun p => decide (p.1 ≤ o)).getLast? with
  | some (k, p) => ⟨p.pa + (o - k), p.repl⟩
  | none => ⟨0, 0⟩

/-- Parts of a record between lines: offset, place, length. -/
def Cut.parts (c : Cut) (o n : Nat) : List (Nat × Place × Nat) :=
  (splitRange 128 (c.record + o) n).map fun p => (p.1 - c.record, c.placeAt (p.1 - c.record), p.2)

/-- The stack of a traversal with its n bottommost entries removed: what it hands over, what is left, and the entries left in
the spill area at their new slots (R308). -/
def splitCut (s : State) (t : Trav) (n : Nat) : State × Except TStop (List TEntry × Trav × List (Nat × TEntry)) :=
  let s := keepRange s (dieOf t.core) (travAsp s t) (t.spillVa 0) (16 * t.spilled)
  match readSlots s t 0 t.spilled with
  | .error x => (s, .error x)
  | .ok low =>
    let all := low ++ t.held.reverse
    let left := all.drop n
    let sp := left.length - 64
    let moves := if n = 0 then [] else left.take sp
    (s, .ok (all.take n, { t with held := (left.drop sp).reverse, spilled := sp }, moves.mapIdx fun i e => (i, e)))

/-- Apply a cut (R308): the entries left move down, and the record is written, its stamp word last, once every line can be. -/
def applyCut (s : State) (id : Nat) (t : Trav) (c : Cut) : State :=
  let n := min c.level (min t.h 252)
  match splitCut s t n with
  | (s, .error x) => stopTrav s id t x
  | (s, .ok (es, t', moves)) =>
    let body := cutBody id t es
    let rec_ := (c.parts 8 (56 + 16 * n)).map fun p => (p.2.1, (body.drop (p.1 - 8)).take p.2.2)
    match writeSlots s id t moves (rec_ ++ [(c.placeAt 0, leBytes 8 (2 ^ 63 + n))]) with
    | (s, some x) => stopTrav s id t x
    | (s, none) => s.setTrav id { t' with cuts := t.cuts.drop 1 }

/-- A request arrives: it is deferred while a routine is outstanding, else the oldest one is applied. -/
def cutApply (s : State) (id : Nat) : State :=
  match Store.find s.travs id with
  | none => s
  | some t =>
    if !travMay s t then s
    else if t.visit.isSome || t.begun then
      let k := (t.cuts.takeWhile (·.arrived)).length
      s.setTrav id { t with cuts := t.cuts.mapIdx fun i c => if i = k then { c with arrived := true } else c }
    else
      match t.cuts with
      | [] => s
      | c :: _ => if (live s t.cov).isEmpty then readyTrav s id t fun s t => applyCut s id t c else s

def execCutApply (id : Nat) (s : State) : Host.Outcome State Fault Refusal := done (cutApply s id)

/-! ## TVRESUME (R310) -/

/-- What a lane of a TVRESUME has found: its record's address, whether it can still start, the header, the table, the
entries. -/
structure RLane where
  lane  : Nat
  va    : Nat
  ok    : Bool
  hdr   : BitVec 512
  table : BitVec 512
  es    : List TEntry
  deriving DecidableEq, Repr, Inhabited

/-- A header breaks R309, or the record is not one of a cut made. -/
def headerBad (x : BitVec 512) : Bool :=
  !bit x 63 || bits x 40 23 != 0 || bits x 32 8 != 0 || decide (252 < (bits x 0 32).toNat) || fld x 8 57 7 != 0 ||
    fld x 8 0 57 % 64 != 0 || fld x 0x14 8 24 != 0 || bits x 224 288 != 0

/-- A read of the issuing group at a physical address range inside a page: at the point of coherence (a record), or as a
plain load (a table). -/
def groupRead (s : State) (gid : Nat) (coherent : Bool) (pa n : Nat) : ERead :=
  (splitRange 32 pa n).foldl (fun r p =>
    match r with
    | .ok .. =>
      let s := resolve s (p.1 / 128)
      r.append (match if coherent then coherentRead s (coreOf gid) s.nextId p.1 p.2
          else plainRead s (coreOf gid) (gid, true) s.nextId 0 p.1 p.2 with
        | some (bs, bad, _) => .ok bs (if bad then some p.1 else none)
        | none => .blocked (p.1 / 128))
    | _ => r) (.ok [] none)

/-- Pages of a range, with keys. -/
def pageKeys (key va n : Nat) : List (Nat × Nat) :=
  (splitRange 65536 va n).mapIdx fun i p => (key + i, p.1)

/-- Read a range whose pages have been translated under keys from `key` on. -/
def readPages (s : State) (gid : Nat) (coherent : Bool) (ps : List (Nat × Nat × TlbEntry)) (key va n : Nat) : ERead :=
  let pa := fun k => ((ps.find? fun p => p.1 == k).map (·.2.1)).getD 0
  ((splitRange 65536 va n).mapIdx fun i p => (pa (key + i), p.2)).foldl (fun r p =>
    match r with
    | .ok .. => r.append (groupRead s gid coherent p.1 p.2)
    | _ => r) (.ok [] none)

/-- The headers of the lanes. -/
def readHeaders (s : State) (gid : Nat) (ps : List (Nat × Nat × TlbEntry)) (ls : List RLane) :
    List RLane × Option ERead :=
  ls.foldl (fun r l =>
    match r.2 with
    | some _ => r
    | none =>
      if !l.ok then (r.1 ++ [l], none)
      else
        match readPages s gid true ps (4 * l.lane) l.va 64 with
        | .ok bs bad =>
          let x : BitVec 512 := ofBytes 512 bs
          match bad.filter (freezeRegion s) with
          | some pa => (r.1, some (.outside pa))
          | none => (r.1 ++ [{ l with hdr := x, ok := bad.isNone && !headerBad x }], none)
        | x => (r.1, some x)) ([], none)

/-- The tables and the entries of the lanes whose headers are good. -/
def readBodies (s : State) (gid : Nat) (ps : List (Nat × Nat × TlbEntry)) (ls : List RLane) :
    List RLane × Option (Option Nat × ERead) :=
  ls.foldl (fun r l =>
    match r.2 with
    | some _ => r
    | none =>
      if !l.ok then (r.1 ++ [l], none)
      else
        let n := (bits l.hdr 0 32).toNat
        match readPages s gid false ps (4 * l.lane) (fld l.hdr 8 0 57) 64, readPages s gid true ps (4 * l.lane + 1) (l.va + 64) (16 * n) with
        | .ok tb none, .ok eb bad =>
          let x : BitVec 512 := ofBytes 512 tb
          match bad.filter (freezeRegion s) with
          | some pa => (r.1, some (none, .outside pa))
          | none =>
            let es := tabulate n fun i => TEntry.ofList ((eb.drop (16 * i)).take 16)
            (r.1 ++ [{ l with table := x, es := es, ok := bad.isNone && !tableBad x }], none)
        | .ok _ none, y => (r.1, some (none, y))
        | y, _ => (r.1, some (some l.lane, y))) ([], none)

/-- The traversal that a lane starts: its entries pushed in order, those beyond 64 to be spilled at its first step. -/
def resumeLane (gid : Nat) (g : Group) (cov : List Nat) (ps : List (Nat × Nat × TlbEntry)) (l : RLane) : Trav :=
  let t := newTrav gid g l.table (fld l.hdr 8 0 57) (bits l.hdr 128 32) (bits l.hdr 160 8) l.es.reverse
    (placeOf ps l.lane) none cov
  if l.es.isEmpty then { t with ending := some 0 }
  else if 64 + t.zs < l.es.length then { t with ending := some 2 }
  else t

/-- The last part of a TVRESUME: the stamps are translated, and the traversals start. -/
def resumeGo (s : State) (gid : Nat) (g : Group) (m : Mods) (d : BitVec 8) (eff : Mask) (ls : List RLane) : State :=
  let go := ls.filter (·.ok)
  let stamps := go.filterMap fun l => (stampOf l.table (bits l.hdr 128 32)).map fun va => (l.lane, va)
  translated s gid g .write stamps fun s ps =>
    let (s, ids) := startTravs (released s gid) (go.map (resumeLane gid g (g.ln.covered s) ps))
    let id := fun l => if go.any fun x => x.lane == l then idOf (go.map (·.lane)) ids l else 0
    let ws := if eff == 0 then [] else wV g .i32 d eff .top id
    issueL s gid { g with travq := g.travq ++ ids } ws m.sw

def execTvresume (m : Mods) (d a : BitVec 8) (s : State) : Host.Outcome State Fault Refusal :=
  withCur s fun gid g =>
    tvChecks s gid g (d.toNat :: runRegs a 2)
      (let eff := effMask s.picks g m
       let lanes := lanesOf eff
       if g.ln.blocked s || g.ln.full || !travRoom s gid g lanes.length then s
       else
         let ls := lanes.map fun l =>
           let va := (vPair s gid g a l).toNat
           (⟨l, va, va % 64 == 0, 0, 0, []⟩ : RLane)
         translated s gid g .read ((ls.filter (·.ok)).flatMap fun l => pageKeys (4 * l.lane) l.va 64) fun s ps =>
           let s := ps.foldl (fun s p => resolve s (p.2.1 / 128)) s
           let cov := ps.flatMap fun p => acqCover gid g (some .system) (relsRead s p.2.1 8 [])
           match readHeaders s gid ps ls with
           | (_, some (.blocked line)) => askRead s line
           | (_, some (.outside pa)) => freezeTeam s gid g 2 pa
           | (_, some _) => s
           | (ls, none) =>
             let body := fun (l : RLane) =>
               pageKeys (4 * l.lane) (fld l.hdr 8 0 57) 64 ++ pageKeys (4 * l.lane + 1) (l.va + 64) (16 * (bits l.hdr 0 32).toNat)
             translated s gid g .read ((ls.filter (·.ok)).flatMap body) fun s ps =>
               let s := ps.foldl (fun s p => resolve s (p.2.1 / 128)) s
               match readBodies s gid ps ls with
               | (_, some (some _, .blocked line)) => askFill s (coreOf gid) line
               | (_, some (none, .blocked line)) => askRead s line
               | (_, some (some l, .ok _ (some pa))) => integrity s gid g true g.ctx.lpc pa (integInfo 0 l)
               | (_, some (_, .outside pa)) => freezeTeam s gid g 2 pa
               | (_, some _) => s
               | (ls, none) =>
                 let g := { g with ln := g.ln.gain s cov }
                 resumeGo (s.setGrp gid g) gid g m d eff ls)

end Sys2Proof.Machine
end

