-- ==== Sys2Proof/Machine/Context.lean ====
section
/-!
DEFINITION. Context.lean: chrysalises: how teams, spawned groups and launches are saved, serviced, resumed and ended
(spec/26_faults_and_preemption.md R325 to R335), and what a re-entering team gets back.
-/
namespace Sys2Proof.Machine

open Sys2Proof

/-! ## Images (R330 to R334) -/

/-- n zero bytes. -/
def zeros (n : Nat) : List Byte := tabulate n fun _ => 0

/-- A shadow as stored: lo, hi. -/
def shBytes : Shadow → List Byte
  | .top => leBytes 4 0x80000000 ++ leBytes 4 0x7FFFFFFF
  | .itv lo hi => bytesOf (BitVec.ofInt 32 lo) ++ bytesOf (BitVec.ofInt 32 hi)
def shOf (x : W64) : Shadow :=
  if bits x 0 32 == 0x80000000#32 && bits x 32 32 == 0x7FFFFFFF#32 then .top
  else .itv (bits x 0 32).toInt (bits x 32 32).toInt

/-- The interrupted scalar PC and lane context. -/
def Group.interrupted (g : Group) : Va × LaneCtx := g.saved.getD (g.spc, g.ctx)

/-- A lane context (R332). -/
def ctxBytes (c : LaneCtx) : List Byte :=
  let bl := (match c.running with | some b => [b] | none => []) ++ c.queue
  leBytes 8 c.lpc.toNat ++ bytesOf c.exm ++ leBytes 4 c.depth ++ leBytes 4 c.prog ++ leBytes 8 bl.length ++
    ((bl.flatMap fun b => leBytes 8 b.addr.toNat ++ bytesOf b.mode ++ leBytes 4 0) ++ zeros 0x1E0).take 0x1E0 ++
    (((c.held.reverse.flatMap fun e => (divWords e).flatMap bytesOf) ++ zeros 0x400).take 0x400)

/-- The counter code, target and continuation of a yielded group. -/
def yieldOf (g : Group) : Nat × Nat × Nat × Nat :=
  match g.sc.wait with
  | some (.yield c t k) => (1, c.code.toNat, t.toNat, k.toNat)
  | _ => (0, 0, 0, 0)

/-- A group record up to its V registers (R331). -/
def groupBytes (s : State) (i : Nat) (g : Group) : List Byte :=
  let y := yieldOf g
  let ip := g.interrupted
  let bit1 := fun b : Bool => if b then 1 else 0
  (g.s.toList.flatMap bytesOf) ++ (g.ssh.toList.flatMap shBytes) ++ (g.hs.toList.flatMap bytesOf) ++
    (g.hsh.toList.flatMap shBytes) ++ zeros 0xA0 ++ (g.a.toList.flatMap bytesOf) ++
    (tabulate 8 fun n => g.pRaw n).flatMap bytesOf ++ leBytes 8 ip.1.toNat ++ bytesOf g.live ++ bytesOf g.mode ++
    leBytes 4 (g.q * 65536 + g.role.toNat * 256 + bit1 g.chain.isSome * 8 + y.1 * 4 + bit1 g.handler) ++
    leBytes 4 (g.ctrav.toNat * 65536 + g.ccopy.toNat) ++ leBytes 4 (y.2.2.1 * 65536 + g.cattn.toNat) ++
    leBytes 8 (y.2.2.2 + y.2.1) ++ bytesOf (trappcVal s g) ++ bytesOf g.tcause ++ bytesOf g.tinfo ++ leBytes 4 0 ++
    leBytes 8 (if g.chain.isSome then chainOff i else 0) ++ (g.fx.toList.map fun f => f.zeroExtend 8) ++
    leBytes 8 g.tpc.toNat ++ zeros 0x38 ++ ctxBytes ip.2 ++ zeros 0x600 ++ (g.vsh.toList.flatMap shBytes) ++ zeros 0x600

/-- A chain record (R333). -/
def chainBytes (c : Chain) : List Byte :=
  let ty := match c.first with | some f => f.1.code.toNat + 256 * f.2.code.toNat | none => 0
  let ex := match c.first with | some f => exactMma f.1 | none => true
  let pad := fun n (bs : List Byte) => (bs ++ zeros n).take n
  leBytes 4 ty ++ leBytes 4 c.tiles.length ++ pad 8 (c.tiles.map fun t => BitVec.ofNat 8 t.tile) ++
    pad 48 (c.tiles.flatMap fun t => leBytes 4 t.steps) ++
    c.tiles.flatMap fun t => t.z0.flatMap bytesOf ++ (t.z0.mapIdx fun i _ =>
      let x : BitVec 96 := if ex then BitVec.ofInt 96 (nthD 0 t.sum i) else BitVec.zeroExtend 96 (nthD 0 t.zr i)
      (0#30 ++ BitVec.ofNat 2 (nthD 0 t.spec i) ++ x : BitVec 128)).flatMap bytesOf

/-- A stop record of a copy command (R219). -/
def copyStopBytes (c : Copy) : List Byte :=
  let why := match c.state with | .stopped w => w | _ => 1
  bytesOf c.block ++ bytesOf c.mask ++ leBytes 4 (c.n - 1) ++ bytesOf c.mode ++ leBytes 4 why ++
    leBytes 8 (if why = 2 then c.vaddr else 0) ++ zeros 8 ++ (tabulate 32 fun i => nthD 0 c.next i).flatMap (leBytes 4) ++
    zeros 32

/-- A stop record of an attention command (R293). -/
def attnStopBytes (c : Attn) : List Byte :=
  let why := match c.state with | .stopped w => w | _ => 1
  bytesOf c.block ++ bytesOf c.p0 ++ leBytes 4 c.ctl.toNat ++ bytesOf c.mode ++ leBytes 4 why ++
    leBytes 8 (if why = 2 then c.vaddr else 0) ++ leBytes 4 c.next ++ leBytes 4 c.stale ++ zeros 32

/-- A pending copy record (R334). -/
def copyPendBytes (c : Copy) : List Byte :=
  let qd := c.parts.foldl (fun (m : W32) p => m ||| BitVec.ofNat 32 (2 ^ p.slice)) 0
  bytesOf c.block ++ leBytes 8 c.addr ++ bytesOf c.mask ++ leBytes 4 (c.n - 1) ++ bytesOf qd ++ bytesOf c.mode ++ zeros 0x28

/-! ## Saving a team (R327, R328, R330) -/

/-- The resident groups recorded under a team key. -/
def groupsOf (s : State) (k : Nat) : List (Nat × Group) := s.groups.filter fun e => outKey e.1 e.2 == k

/-- Copy commands of a team that have started, or that are pending. -/
def teamCopies (s : State) (k : Nat) (pending : Bool) : List Copy :=
  (s.copies.filter fun c => Copy.ofTeam c.2 k && (c.2.state == .pending) == pending).map (·.2)
def teamAttns (s : State) (k : Nat) : List Attn := (s.attns.filter fun c => Attn.ofTeam c.2 k).map (·.2)

/-- The 0x200 bytes of the header. -/
def headBytes (s : State) (k : Nat) (t : Team) (l : Launch) (gs : List Group) : List Byte :=
  let bar := fun (j : Nat) =>
    let b := barAt t j
    leBytes 8 ((if b.arr.isEmpty then 0 else b.count) * 65536 + b.arr.length * 256 + (if b.phase then 1 else 0))
  let f := t.why != 2
  let team := t.tid.isSome
  leBytes 2 1 ++ leBytes 1 t.why ++ leBytes 1 gs.length ++ leBytes 4 (t.tid.getD 0xFFFFFFFF) ++ leBytes 4 t.lid ++
    leBytes 1 (if f then t.fkind else 0) ++ leBytes 3 (if f then t.fmaster else 0) ++ leBytes 8 (if f then t.fva else 0) ++
    leBytes 8 l.kdesc ++ leBytes 4 (if team then (teamCopies s k false).length else 0) ++
    leBytes 4 (if team then (teamAttns s k).length else 0) ++
    leBytes 8 (if team then (teamCopies s k true).length else 0) ++ leBytes 8 spOff ++ leBytes 8 accOff ++ leBytes 8 cmdOff ++
    (List.range 16).flatMap bar ++ zeros 0x38 ++
    (List.range 32).flatMap fun g =>
      leBytes 8 (if team then (if gs.any fun x => x.gidx == g then gOff g else 0) else (if g = 0 then gOff 0 else 0))

/-- V registers of a group that are saved: not the volatile ones (R43). -/
def savedRegs (d : KDesc) (g : Group) : List Nat :=
  (List.range g.q).filter fun n => match d.vol with | some (a, b) => decide (n < a) || decide (b < n) | none => true

/-- The parts of a chrysalis: offset and bytes. -/
def chrysalis (s : State) (k : Nat) (t : Team) (l : Launch) (gs : List (Nat × Group)) : List (Nat × List Byte) :=
  let d := l.desc
  let rec_ := fun (e : Nat × Group) =>
    let i := if t.tid.isSome then e.2.gidx else 0
    (gOff i, groupBytes s i e.2) ::
      ((savedRegs d e.2).map fun n =>
        (gOff i + 0x2000 + 4 * e.2.width * n, (tabulate e.2.width fun ln => vRaw s e.1 e.2 n ln).flatMap bytesOf)) ++
      (match e.2.chain with | some c => [(chainOff i, chainBytes c)] | none => [])
  let cmds := (teamCopies s k false).flatMap copyStopBytes ++ (teamAttns s k).flatMap attnStopBytes ++
    (teamCopies s k true).flatMap copyPendBytes
  (0, headBytes s k t l (gs.map (·.2))) :: gs.flatMap rec_ ++
    (if t.tid.isSome then
      [(spOff, spadNow s d t 0 d.spq),
       (accOff, (tabulate (256 * d.accq) fun i => Store.getD 0 s.acc (t.core * 65536 + t.accbase * 256 + i)).flatMap bytesOf),
       (cmdOff, cmds)]
    else [])

/-- Write parts at a physical address, when every line of them can be written. -/
def writeParts (s : State) (w : Writer) (pa : Nat) (ps : List (Nat × List Byte)) : State × Bool :=
  engWrites s w (ps.flatMap fun p => (splitRange 128 (pa + p.1) p.2.length).map fun c =>
    (⟨c.1, 0⟩, (p.2.drop (c.1 - pa - p.1)).take c.2))

/-- Bytes [128 l, 128 l + 128) of a slot: its parts, and 0 in every byte that none of them lists (R3, R330). -/
def slotLine (pa : Nat) (ps : List (Nat × List Byte)) (l : Nat) : List Byte :=
  ps.foldl (fun img p =>
    let a := max (pa + p.1) (128 * l)
    let b := min (pa + p.1 + p.2.length) (128 * l + 128)
    if b ≤ a then img
    else img.take (a - 128 * l) ++ (p.2.drop (a - pa - p.1)).take (b - a) ++ img.drop (b - 128 * l)) (zeros 128)

/-- A line of HBM holds zeros, as nothing but its package can have changed it: a write of zeros would change nothing. -/
def lineClear (s : State) (line : Nat) : Bool :=
  inHbm (128 * line) && !inHostBias s line && !inFlip s line && elyRaw s line == 0 &&
    !((List.range 4).any fun i => chkBad s (4 * line + i)) && (memBytes s (128 * line) 128).all (· == 0)

/-- The lines of a slot that its save writes: those that parts reach, and those that may hold something other than zeros. -/
def slotLines (s : State) (pa : Nat) (ps : List (Nat × List Byte)) : List Nat :=
  let inSlot := fun (l : Nat) => decide (pa ≤ 128 * l) && decide (128 * l < pa + slotSize)
  let listed := (s.mem.map fun e => e.1 / 128) ++ s.ely.map (·.1) ++ s.chk.map fun e => e.1 / 4
  let rest := if inHbm pa && (List.range 128).all fun i => !inHostBias s (pa / 128 + 512 * i) && !inFlip s (pa / 128 + 512 * i)
    then listed.filter fun l => inSlot l && !lineClear s l
    else tabulate (slotSize / 128) fun i => pa / 128 + i
  let mine := ps.flatMap fun p => (splitRange 128 (pa + p.1) p.2.length).map fun x => x.1 / 128
  (mine ++ rest).eraseDups

/-- Write a slot whole, when every line of it can be written. -/
def writeSlot (s : State) (w : Writer) (pa : Nat) (ps : List (Nat × List Byte)) : State × Bool :=
  engWrites s w ((slotLines s pa ps).map fun l => (⟨128 * l, 0⟩, slotLine pa ps l))

/-- A running PREFETCH of a team. -/
def prefetching (k : Nat) (c : Copy) : Bool := Copy.ofTeam c k && c.state == .running && c.kind == 4

/-- The PREFETCH commands of a team are abandoned, and complete with status 0, on a frozen engine too (R218). -/
def endPrefetches (s : State) (k : Nat) : State :=
  ((s.copies.filter fun c => prefetching k c.2).map (·.1)).foldl endPrefetch s

/-- Stop the commands of a team: copies at a sector, attention between key blocks (R219, R293); frozen ones stay so (R345).
None of their writes is in flight any more. -/
def stopCmds (s : State) (k : Nat) : State :=
  let copy := fun (c : Copy) =>
    if !Copy.ofTeam c k then c
    else if c.state == .running then Copy.stop c 1 0
    else if c.state == .frozen then { Copy.stop c 1 0 with state := .frozen }
    else c
  let attn := fun (c : Attn) =>
    if !Attn.ofTeam c k then c
    else if c.state == .running || c.state == .pending then Attn.stop c 1 0
    else if c.state == .frozen then { Attn.stop c 1 0 with state := .frozen }
    else c
  let ids := (s.copies.filter fun c => Copy.ofTeam c.2 k).map (·.1) ++ (s.attns.filter fun c => Attn.ofTeam c.2 k).map (·.1)
  let s := ids.foldl (fun s i => dropWriter (dropOlds s i) (.cmd i)) s
  { s with copies := s.copies.map fun c => (c.1, copy c.2), attns := s.attns.map fun c => (c.1, attn c.2) }

/-- Requests outstanding that a group's later accesses follow: its own, and the writes that its reads have returned. -/
def Group.owes (s : State) (g : Group) : Bool :=
  (g.sc.cov ++ g.ln.cov ++ ((g.ctx.running.toList ++ g.ctx.queue).flatMap fun b => b.cov)).any fun i =>
    (Store.find s.reqs i).isSome

/-- A team may be saved: its groups' results have returned, no trap is pending, its PREFETCH commands are over, and the
writes that it has sent or read, its ended groups among it, are performed (R258, R327). -/
def saveReady (s : State) (k : Nat) (gs : List (Nat × Group)) : Bool :=
  (gs.all fun e => e.2.drained && e.2.trap.isNone && !e.2.ctx.part && !e.2.owes s) && !(s.reqs.any fun r => r.2.own == some k) &&
    !(s.copies.any fun c => prefetching k c.2) &&
    !((s.team k).any fun t => t.owed.any fun i => (Store.find s.reqs i).isSome)

/-- A group as it leaves its slot: the GTCHI latch is discarded (R10), nothing is outstanding; what later accesses of its
streams follow stays (R249 to R252), and so does a halt by team-stop (R324). -/
def Group.leave (g : Group) : Group :=
  { g.publish with
    latch := none, sc := { g.sc with out := [], park := false },
    ln := { g.ln with out := [], park := false, wait := none, wsw := false } }

/-- The key of a spawned group's record while it is out. -/
def outRecord (n : Nat) : Nat := 2 ^ 64 + n

/-- Traversals of the spawned group with one key belong to another key. -/
def rekey (old new : Nat) (ts : List (Nat × Trav)) : List (Nat × Trav) :=
  ts.map fun x => (x.1, if x.2.oteam.isNone && x.2.okey == old then { x.2 with okey := new } else x.2)

/-- The team is out: its groups and its storage are free, and the L1 copies of its launch's cores end (R327 step 4).  A spawned group's
record takes a key of its own, since its slot may be used again. -/
def teamOut (s : State) (k : Nat) (t : Team) (pa : Nat) (gs : List (Nat × Group)) : State :=
  let cores := (s.groups.filter fun e => e.2.lid == t.lid).map fun e => coreOf e.1
  let drop := fun (m : List (Nat × Group)) (e : Nat × Group) => Store.del m e.1
  let k' := if t.tid.isSome then k else outRecord s.nextId
  let ts := if t.tid.isSome then s.travs else gs.foldl (fun ts e => rekey e.1 k' ts) s.travs
  let fz := fun (f : Frozen) => if f.kind == 1 && f.key == k then { f with key := k' } else f
  let rec_ : Team :=
    { t with
      state := .out, slot := some pa, groups := gs.map fun e => e.2.leave, since := s.gtc.toNat, reserving := false }
  { s with
    groups := gs.foldl drop s.groups, travs := ts, olds := s.olds.filter fun o => !gs.any fun e => o.src == spadSrc e.1,
    nextId := s.nextId + 1, l1 := s.l1.filter fun c => !cores.contains c.core,
    teams := Store.put (Store.del s.teams k) k' rec_, frozen := s.frozen.map fz }

/-- Where a halted team is saved: its pool slot, or the next slot of the pre-emption that is saving its launch. -/
def saveSlot (s : State) (t : Team) (l : Launch) : Option (Nat × Bool) :=
  match t.slot, l.pre, s.mbox.bg with
  | some pa, _, _ => some (pa, false)
  | none, .saving _, some (.preempt (lid :: _) _ next) => if lid = t.lid then some (next, true) else none
  | _, _, _ => none

/-- The pre-emption has used a slot. -/
def nextSlot (s : State) : State :=
  match s.mbox.bg with
  | some (.preempt ls b n) => { s with mbox := { s.mbox with bg := some (.preempt ls b (n + slotSize)) } }
  | _ => s

/-- A line leaves its slice: not before the line's latest expiry, and not of a line that a command holds; OWNED becomes
MODIFIED, and a line of host or peer memory leaves with its data when dirty (R221, R228, R338, R349). -/
def evict (s : State) (line : Nat) : State :=
  if !leaseOver s line || engineHeld s line then s
  else
    match Store.find s.slices line with
    | none => s
    | some d =>
      let out := { s with slices := Store.del s.slices line }
      let data := if d.dirty then some d.data else none
      match paKind s (128 * line), lineState s line with
      | .hbm _, .owned => setEly out line (mkEly (elyInc (elyRaw s line)) (elyAgents (elyRaw s line)) 4)
      | .hbm _, .hostBias => out.emit (.evict 0 (askAddr s line) data)
      | .host, _ => out.emit (.evict 0 (askAddr s line) data)
      | .peer a, _ => out.emit (.evict a (askAddr s line) data)
      | _, _ => s

/-- Dirty lines of host and peer memory in the slices; a line that a stopped command holds stays held (R232). -/
def dirtyLines (s : State) : List Nat := (s.slices.filter fun d => d.2.dirty && !engineHeld s d.1).map (·.1)

/-- A launch that migrates is saved once every dirty line of the package has been written back to its owner (R327 step 4);
none: some line's leases are not over. -/
def writtenBack (s : State) (l : Launch) : Option State :=
  match l.pre with
  | .saving true => if (dirtyLines s).all (leaseOver s) then some ((dirtyLines s).foldl evict s) else none
  | _ => some s

/-- CHRYSALIS_COMPLETE: a halted team, or a halted spawned group, is saved whole (R327, R328). -/
def chrysalisComplete (s : State) (k : Nat) (prog : List (Nat × List Nat)) : State :=
  let s := prog.foldl (fun s p => match Store.find s.copies p.1 with
    | some c => if Copy.ofTeam c k then copyStep s p.1 p.2 else s
    | none => s) s
  let s := if (s.team k).any fun t => t.state == .halting || t.state == .awaiting then endPrefetches s k else s
  match s.team k with
  | none => s
  | some t =>
    match s.launch t.lid with
    | none => s
    | some l =>
      let gs := groupsOf s k
      if !(t.state == .halting || t.state == .awaiting) || !saveReady s k gs then s
      else
        match saveSlot s t l with
        | none => s
        | some (pa, fresh) =>
          match writtenBack (stopCmds s k) l with
          | none => s
          | some s =>
            match writeSlot s (.team k) pa (chrysalis s k t l (gs.map fun e => (e.1, e.2.publish))) with
            | (s, false) => s
            | (s, true) =>
              let s := teamOut s k t pa gs
              if fresh then nextSlot s else s

def execChrysalisComplete (team : Nat) (prog : List (Nat × List Nat)) (s : State) : Host.Outcome State Fault Refusal :=
  done (chrysalisComplete s team prog)

/-- Lowest free slot of the chrysalis pool (R328). -/
def freePool (s : State) : Option Nat := (List.range s.poolSize).find? fun i => !s.poolUsed.contains i

/-- POOL_SLOT_SAVE: a team halted by a fault, or by the distributor, takes a slot of the pool; with none free it stays
halted in place (R328). -/
def poolSlotSave (s : State) (k : Nat) : State :=
  match s.team k with
  | none => s
  | some t =>
    if !(t.state == .halting || t.state == .awaiting) || t.slot.isSome ||
        (((s.launch t.lid).map (·.pre)).getD .none) != .none then s
    else
      match freePool s with
      | none => s.updTeam k fun t => { t with state := .awaiting }
      | some i =>
        ({ s with poolUsed := s.poolUsed ++ [i] } : State).updTeam k fun t =>
          { t with state := .halting, slot := some (s.poolBase + slotSize * i) }

def execPoolSlotSave (team : Nat) (s : State) : Host.Outcome State Fault Refusal := done (poolSlotSave s team)

/-- The pool slot at an address is free again. -/
def freeSlotAt (s : State) (pa : Nat) : State :=
  { s with poolUsed := s.poolUsed.filter fun i => s.poolBase + slotSize * i != pa }

/-! ## The launch record (R335) -/

/-- A traversal record; an entry that a fault keeps in the spill area reads 0. -/
def travBytes (id : Nat) (t : Trav) : List Byte :=
  let vis := match t.visit with | some v => 256 + 512 * v.kind | none => 0
  let top := (t.held.take 64).reverse
  bytesOf t.table ++ leBytes 4 id ++ bytesOf t.payload ++ leBytes 4 t.h ++ leBytes 4 (vis + t.tg.toNat) ++
    leBytes 4 (t.oteam.getD 0xFFFFFFFF) ++ leBytes 4 t.ogroup ++ leBytes 4 t.cuts.length ++ zeros 0x24 ++
    (zeros (16 * (min t.h 64 - top.length)) ++ (top.flatMap (·.toList)) ++ zeros 0x400).take 0x400 ++
    t.cuts.flatMap fun c => leBytes 8 c.record ++ leBytes 8 c.level

/-- The launch record; nteam and nspawn are the slots that the pre-emption has used. -/
def launchBytes (s : State) (lid : Nat) (l : Launch) (base next : Nat) : List Byte :=
  let here := fun (t : Team) => t.lid == lid && (match t.slot with | some pa => decide (base ≤ pa) && decide (pa < next) | none => false)
  let n := fun team => (s.teams.filter fun t => here t.2 && t.2.tid.isSome == team).length
  let ts := s.travs.filter fun t => t.2.lid == lid
  leBytes 4 (n true) ++ leBytes 4 (n false) ++ leBytes 4 l.threads.length ++ leBytes 4 ts.length ++ statsBytes l ++
    (l.threads.flatMap fun t => leBytes 8 t.2.1.toNat ++ (t.2.2.words.flatMap bytesOf ++ zeros 24).take 24) ++
    ts.flatMap fun t => travBytes t.1 t.2

/-- The threads of a launch's bins leave them (R327 step 3). -/
def unbin (s : State) (lid : Nat) : State :=
  let ts := (s.bins.filter fun b => b.lid == lid).flatMap fun b => b.threads.map fun t => (b.core, b.entry, t)
  ({ s with bins := s.bins.filter fun b => b.lid != lid } : State).updLaunch lid fun l =>
    { l with threads := l.threads ++ ts }

/-- Teams of the launch that a fault had swapped out before: a pre-emption has met the fault, so why becomes 3, in the
header of the chrysalis too (R326, R330). -/
def whyMarks (s : State) (lid : Nat) : List (Nat × List Byte) :=
  s.teams.filterMap fun t => if t.2.lid == lid && t.2.why == 1 then t.2.slot.map fun pa => (pa + 2, leBytes 1 3) else none

/-- The traversals of a launch are stopped between steps: their translations are to be made again, and a step that a fault or a
frozen engine keeps from its node begins again (R314, R358). -/
def stopTravs (s : State) (lid : Nat) : State :=
  let stop := fun (t : Trav) =>
    if t.lid == lid then
      { t with stampOk := t.stampb == 0, cuts := t.cuts.map fun c => { c with pa := [] }, begun := false }
    else t
  let ids := (s.travs.filter fun t => t.2.lid == lid).map (·.1)
  let s := ids.foldl (fun s i => dropWriter s (.trav i)) s
  { s with travs := s.travs.map fun t => (t.1, stop t.2) }

/-- The engine has still to bring a traversal between steps: a return to apply, a step that has begun, or its end (R314). -/
def travBusy (s : State) (t : Trav) : Bool :=
  t.fault.isNone && !engineFrozen s 4 (tveCore t.core) && (t.ret.isSome || t.begun || t.ending.isSome)

def markWhy (s : State) (lid : Nat) : State :=
  let mark := fun (t : Team) => if t.lid == lid && t.why == 1 then { t with why := 3 } else t
  { s with teams := s.teams.map fun t => (t.1, mark t.2) }

/-- The traversals of a launch hold their topmost entries (R302); false while a line that this takes is not ready. -/
def holdTops (s : State) (lid : Nat) : State × Bool :=
  (s.travs.filter fun t => t.2.lid == lid).foldl (fun r x =>
    match holdTop r.1 x.1 x.2 with
    | (s, .ok t) => (s.setTrav x.1 t, r.2)
    | (s, .error (.wait line)) => (askRead s line, false)
    | (s, .error .later) => (s, false)
    | (s, .error _) => (s, r.2)) (s, true)

/-- The launch at the head of a pre-emption is saved, once its teams and groups are out: its record is written, and the
next launch's slots follow it. -/
def saveLaunch (s : State) (lids : List Nat) (base next : Nat) : State :=
  match lids with
  | [] => { s with mbox := { s.mbox with bg := none, bgDone := true } }
  | lid :: rest =>
    match s.launch lid with
    | none => { s with mbox := { s.mbox with bg := some (.preempt rest base next) } }
    | some l0 =>
      if (s.groups.any fun g => g.2.lid == lid) || (s.teams.any fun t => t.2.lid == lid && t.2.state != .out) ||
          (s.travs.any fun t => t.2.lid == lid && travBusy s t.2) then s
      else
        match holdTops s lid with
        | (s, false) => s
        | (s, true) =>
          match writtenBack (unbin s lid) l0 with
          | none => s
          | some s =>
            let l := (s.launch lid).getD l0
            let bs := launchBytes s lid l base next
            match writeParts s .mailbox 0 ((next, bs) :: whyMarks s lid) with
            | (s, false) => s
            | (s, true) =>
              let at_ := next + slotSize * ((bs.length + slotSize - 1) / slotSize)
              let s := (markWhy (stopTravs s lid) lid).updLaunch lid fun l => { l with pre := .saved }
              { s with mbox := { s.mbox with bg := some (.preempt rest at_ at_) } }

/-! ## PREEMPT (R326) -/

/-- The launches that a pre-emption names: placed, and not already pre-empted. -/
def preLaunches (s : State) (sel : PreSel) : List Nat :=
  let on := fun (m : BitVec 8) (lid : Nat) => s.groups.any fun g => g.2.lid == lid && m.getLsbD (dieOf (coreOf g.1))
  ((s.launches.filter fun l => l.2.pre == .none && (match sel with | .launch i => l.1 == i | .dies m => on m l.1)).map (·.1))

/-- Halt a launch for a save: every group at its boundary, which lies between any two positions of a CST or XLDE unless a trap is
pending, every team and every spawned group recorded (R161, R326). -/
def haltLaunch (s : State) (migrate : Bool) (lid : Nat) : State :=
  let mine := s.groups.filter fun g => g.2.lid == lid
  let s := mine.foldl (fun s e =>
    let k := outKey e.1 e.2
    let s := if (s.team k).isSome then s else { s with teams := Store.put s.teams k (spawnTeam e.1 e.2) }
    s.updGrp e.1 fun g => { g with
      halted := true, sc := g.sc.stopWait, ln := g.ln.stopWait, ctx := { g.ctx with part := g.ctx.part && g.trap.isSome } }) s
  let halt := fun (t : Team) =>
    if t.lid == lid && t.state != .out then
      { t with why := whyPre t.why, state := if t.slot.isSome then t.state else .halting }
    else t
  let ts := s.teams.map fun (t : Nat × Team) => (t.1, halt t.2)
  let s := { s with teams := ts }
  s.updLaunch lid fun l => { l with pre := .saving migrate }

/-- The area is an 8 MiB boundary of memory that holds lines. -/
def areaOk (s : State) (pa : Nat) : Bool := pa % slotSize == 0 && (paKind s pa).line

/-- A mailbox command returns. -/
def ret (s : State) (code : RetCode) (payload : List Byte) : State :=
  { s with mbox := { s.mbox with code := code, payload := payload } }

/-- Halt the launches and begin the background command. -/
def preemptGo (s : State) (lids : List Nat) (area : Nat) (migrate : Bool) : State :=
  let s := lids.foldl (fun s i => haltLaunch s migrate i) s
  { s with mbox := { s.mbox with code := .background, payload := [], bg := some (.preempt lids area area), bgDone := false } }

/-! ## RESUME, FAULT_DONE, and their ends (R329) -/

/-- Put saved threads of a launch back into bins of their cores, with fresh timers, as far as bins are free. -/
def rebin (s : State) (lid : Nat) : State :=
  match s.launch lid with
  | none => s
  | some l =>
    if l.pre != .none then s
    else
      let r := l.threads.foldl (fun (r : State × List (Nat × Va × Thread)) t =>
        match binPut r.1 t.1 lid t.2.1 t.2.2 with
        | some s => (s, r.2)
        | none => (r.1, r.2 ++ [t])) (s, [])
      r.1.updLaunch lid fun l => { l with threads := r.2 }

/-- RESUME of a pre-empted launch: its teams may re-enter, its threads enter bins again, and its traversals go on once
their stamps are translated again. -/
def resumeLaunch (s : State) (lid : Nat) : State :=
  let wait := fun (t : Team) => if t.lid == lid then { t with since := s.gtc.toNat, reserving := false } else t
  let s := { s with teams := s.teams.map fun (t : Nat × Team) => (t.1, wait t.2) }
  rebin (s.updLaunch lid fun l => { l with pre := .none, since := s.gtc.toNat, reserving := false }) lid

/-- What the lists of pending faults and of frozen masters say of a team, or a spawned group, that ends. -/
def unlist (s : State) (k : Nat) (t : Team) : State :=
  let mine := fun (f : PFault) =>
    f.kind == 1 && f.lid == t.lid && f.who == t.tid.getD 0xFFFFFFFF && (t.tid.isSome || f.addr == t.fva)
  let out := fun (f : Frozen) =>
    (f.kind == 1 && f.key == k) || ((f.kind == 2 || f.kind == 3) && t.tid.isSome && teamKey f.lid f.team == k)
  { s with pfaults := s.pfaults.filter fun f => !mine f, frozen := s.frozen.filter fun f => !out f }

/-- System software ends a team: its groups end as SEXIT in handler mode ends them, its recorded commands complete with
status 8, and its slot is free. -/
def endSaved (s : State) (k : Nat) : State :=
  match s.team k with
  | none => s
  | some t =>
    let copy := fun (c : Copy) =>
      if Copy.ofTeam c k then { c with state := .running, started := true, status := 8, want := [] } else c
    let attn := fun (c : Attn) => if Attn.ofTeam c k then { c with state := .running, started := false, status := 8 } else c
    let cs := s.copies.map fun (c : Nat × Copy) => (c.1, copy c.2)
    let as := s.attns.map fun (c : Nat × Attn) => (c.1, attn c.2)
    let s := { s with copies := cs, attns := as }
    let s := unlist (match t.slot with | some pa => freeSlotAt s pa | none => s) k t
    let out := t.groups
    let s := s.updTeam k fun t => { t with groups := [], slot := none, why := 0, serviced := false }
    let s := (groupsOf s k).foldl (fun s e => endGroup s e.1) s
    let s := out.foldl (fun s g =>
      { s with travs := (returnVisits g s.travs).map fun (x : Nat × Trav) => (x.1, disown k g x.2) }) s
    let s := s.updTeam k fun t => { t with ended := t.ended ++ out.map (·.gidx) }
    match t.tid with
    | none => { s with teams := Store.del s.teams k }
    | some _ => reap s k

/-- RESUME with action end: the launch's teams end, its traversals end with status 5, and no more of it is placed. -/
def endLaunch (s : State) (lid : Nat) : State :=
  let fin := fun (t : Trav) => if t.lid == lid then { t with ending := some 5, fault := none } else t
  let ts := s.travs.map fun (t : Nat × Trav) => (t.1, fin t.2)
  let s := { s with travs := ts, pfaults := s.pfaults.filter fun f => !(f.kind == 2 && f.lid == lid) }
  let s := ((s.teams.filter fun t => t.2.lid == lid).map (·.1)).foldl endSaved s
  s.updLaunch lid fun l =>
    { l with pre := .none, threads := [], done := l.done + (l.teams - l.next), next := l.teams }

/-- A team with a fault that is not serviced. -/
def Team.faulted (t : Team) : Bool := (t.why == 1 || t.why == 3) && !t.serviced

/-- The keys of what FAULT_DONE names: a team, or the faulted spawned groups of a launch. -/
def faultKeys (s : State) (lid tid : Nat) : List Nat :=
  (s.teams.filter fun t =>
    t.2.lid == lid && t.2.faulted && (if tid = 0xFFFFFFFF then t.2.tid.isNone else t.2.tid == some tid)).map (·.1)

/-- The fault of a team, or of a traversal, leaves the pending-fault list. -/
def clearFaults (s : State) (kind lid who : Nat) : State :=
  { s with pfaults := s.pfaults.filter fun f => !(f.kind == kind && f.lid == lid && f.who == who) }

/-- The live traversal with this id that is suspended by a fault. -/
def faultTrav (s : State) (id : Nat) : Option Trav := (Store.find s.travs id).filter fun t => t.fault.isSome

/-- FAULT_DONE: retry (e: false) or end (e: true); none: nothing has such a fault. -/
def faultDone (s : State) (e : Bool) : FaultWho → Option State
  | .team lid tid =>
    match faultKeys s lid tid with
    | [] => none
    | ks =>
      let s := clearFaults s 1 lid tid
      some (if e then ks.foldl endSaved s
        else ks.foldl (fun s k => s.updTeam k fun t => { t with serviced := true, since := s.gtc.toNat }) s)
  | .trav id =>
    (faultTrav s id).map fun t =>
      let s := clearFaults s 2 t.lid id
      s.setTrav id { t with fault := none, ending := if e then some 5 else t.ending }

/-! ## Re-entry (R329) -/

/-- What a re-entering group needs of its record in memory: the bytes up to its V registers, the V registers, the chain
record. -/
structure GImage where
  base  : BitVec 65536
  regs  : List Byte
  chain : List Byte
  deriving Repr

/-- Bytes of a slot; a line that cannot be read yet. -/
def slotRead (s : State) (pa n : Nat) : Except Nat (List Byte) :=
  match paReads s pa n with
  | .ok bs _ => .ok bs
  | .blocked line => .error line
  | _ => .ok (zeros n)

/-- Bytes of a saved group's chain record (R333). -/
def chainSize (g : Group) : Nat :=
  match g.chain with
  | some c => 64 + c.tiles.length * (20 * (if g.width = 16 then 64 else if g.width = 32 then 256 else 512))
  | none => 0

/-- The record of a saved group. -/
def readImage (s : State) (pa i : Nat) (g : Group) : Except Nat GImage :=
  let n := chainSize g
  match slotRead s (pa + gOff i) 0x2000, slotRead s (pa + gOff i + 0x2000) (4 * g.width * g.q), slotRead s (pa + chainOff i) n with
  | .ok a, .ok b, .ok c => .ok ⟨ofBytes 65536 a, b, c⟩
  | .error l, _, _ => .error l
  | _, .error l, _ => .error l
  | _, _, .error l => .error l

/-- The fields of a MODE word: its reserved bits read 0 (R3, R89). -/
def modeFields (m : W32) : W32 := m &&& 0x1F3F

/-- The lane context of a record, with the blocks' views as S and A now stand; what a block's accesses follow is as kept. -/
def ctxOf (b : BitVec 65536) (old : LaneCtx) (sv : List W32) (ssh : List Shadow) (av : List ARegVal) : LaneCtx :=
  let o := 0x600
  let nq := fld b (o + 0x18) 0 4
  let kept := old.running.toList ++ old.queue
  let blk := tabulate nq fun k =>
    let x := kept[k]?
    (⟨BitVec.ofNat 57 (fld b (o + 0x20 + 16 * k) 0 57), modeFields (bits b (8 * (o + 0x28 + 16 * k)) 32), sv, ssh, av, [],
      (x.map (·.cov)).getD [], (x.map (·.rel)).getD [], (x.map (·.acq)).getD []⟩ : Block)
  let depth := fld b (o + 0x10) 0 32
  let n := min depth 32
  let ent := fun i => divOfWords (tabulate 4 fun j => bits b (8 * (o + 0x200 + 32 * i + 8 * j)) 64)
  { lpc := BitVec.ofNat 57 (fld b o 0 57), exm := bits b (8 * (o + 8)) 64, held := (tabulate (min n old.held.length) ent).reverse,
    spilled := depth - min n old.held.length, prog := fld b (o + 0x14) 0 7, part := false, counted := old.counted,
    running := if old.running.isSome then blk.head? else none, exited := old.exited,
    queue := if old.running.isSome then blk.drop 1 else blk }

/-- The chain of a record: its type, rounding and MODE as kept. -/
def chainOf (bs : List Byte) (w : Nat) (c : Chain) : Chain :=
  let n := if w = 16 then 64 else if w = 32 then 256 else 512
  let at_ := fun (o len : Nat) => leNat ((bs.drop o).take len)
  let ex := match c.first with | some f => exactMma f.1 | none => true
  { c with tiles := c.tiles.mapIdx fun i t =>
      let o := 64 + i * 20 * n
      let z0 := tabulate n fun e => BitVec.ofNat 32 (at_ (o + 4 * e) 4)
      let ent := fun e => o + 4 * n + 16 * e
      { tile := at_ (8 + i) 1, steps := at_ (0x10 + 4 * i) 4, z0 := z0,
        sum := if ex then tabulate n fun e => (BitVec.ofNat 96 (at_ (ent e) 12)).toInt else t.sum,
        spec := tabulate n fun e => at_ (ent e + 12) 1 % 4,
        zr := if ex then z0 else tabulate n fun e => BitVec.ofNat 32 (at_ (ent e) 4) } }

/-- A saved group with what its record holds; counters and what no record holds as kept (log entry 31); EXM is
a subset of the live mask (R37), and reserved fields read 0 (R3).  One saved in handler mode restarts at TRAPBASE, whatever its
handler waited for (R329). -/
def groupOf (g : Group) (im : GImage) (trapbase : Va) (row0 : Nat) : Group :=
  let b := im.base
  let sv := vtab 64 fun n => (bits b (32 * n) 32 : W32)
  let ssh := vtab 64 fun n => shOf (bits b (8 * (0x100 + 8 * n)) 64)
  let av := vtab 16 fun n => legalA (bits b (8 * (0x400 + 16 * n)) 128)
  let old := g.interrupted
  let live : Mask := bits b (8 * 0x548) 64 &&& g.all
  let ctx := ctxOf b old.2 sv.toList ssh.toList av.toList
  let ctx := { ctx with exm := ctx.exm &&& live }
  let spc : Va := BitVec.ofNat 57 (fld b 0x540 0 57)
  { g with
    s := sv, ssh := ssh, hs := vtab 8 fun n => bits b (8 * (0x300 + 4 * n)) 32,
    hsh := vtab 8 fun n => shOf (bits b (8 * (0x320 + 8 * n)) 64), a := av,
    p := vtab 8 fun n => if n = 0 then vget g.p 0 else bits b (8 * (0x500 + 8 * n)) 64 &&& g.all, live := live,
    mode := modeFields (bits b (8 * 0x550) 32), q := fld b 0x554 16 16, fx := vtab 64 fun n => bits b (8 * (0x580 + n)) 6,
    tcause := bits b (8 * 0x56C) 32 &&& 0x1FF, tinfo := bits b (8 * 0x570) 32, tpc := BitVec.ofNat 57 (fld b 0x5C0 0 57),
    vsh := vtab 256 fun n => shOf (bits b (8 * (0x1200 + 8 * n)) 64), row0 := row0, halted := false,
    chain := g.chain.map (chainOf im.chain g.width), sc := if g.handler then { g.sc with wait := none } else g.sc,
    spc := if g.handler then trapbase else spc, saved := g.saved.map fun _ => (spc, ctx),
    ctx := if g.handler then Group.emptyCtx ctx.lpc ctx.exm else ctx }

/-- The ranges of a saved team's slot that its re-entry reads. -/
def slotRanges (t : Team) (d : KDesc) (pa : Nat) : List (Nat × Nat) :=
  (t.groups.flatMap fun g =>
    let i := if t.tid.isSome then g.gidx else 0
    [(pa + gOff i, 0x2000), (pa + gOff i + 0x2000, 4 * g.width * g.q), (pa + chainOff i, chainSize g)]) ++
  if t.tid.isSome then [(pa + spOff, d.spq), (pa + accOff, 1024 * d.accq)] else []

/-- What reading a slot's lines meets (R229, R238). -/
def resolveSlot (s : State) (t : Team) (d : KDesc) (pa : Nat) : State :=
  ((slotRanges t d pa).flatMap fun r => (splitRange 128 r.1 r.2).map fun x => x.1 / 128).foldl resolve s

/-- Place a saved group under a key, from its image (R329): the volatile range is undefined, and so are the words of its rows
beyond its registers (R15). -/
def reenterGroup (s : State) (gid row0 : Nat) (g : Group) (im : GImage) : State :=
  let g' := groupOf g im (s.core (coreOf gid)).trapbase row0
  let s := s.setGrp gid g'
  let regs := List.range g'.q
  let word := fun n l => BitVec.ofNat 32 (leNat ((im.regs.drop (4 * (g.width * n + l))).take 4))
  let s := regs.foldl (fun s n => vPut s gid g' n (lowMask 64) (tabulate g.width (word n))) s
  undefRows (volatile s gid g') gid g' 0 g'.q

/-- The images of the groups of a team. -/
def readImages (s : State) (t : Team) (pa : Nat) : Except Nat (List (Group × GImage)) :=
  t.groups.foldl (fun r g =>
    match r with
    | .error l => .error l
    | .ok xs =>
      match readImage s pa (if t.tid.isSome then g.gidx else 0) g with
      | .ok im => .ok (xs ++ [(g, im)])
      | .error l => .error l) (.ok [])

/-- Commands of a re-entering team go on (R219, R293), on the engines of its new core; frozen ones stay frozen there (R345).
Visits of traversals that its groups own enter the bins of the new core (R303). -/
def restartCmds (s : State) (k old new : Nat) : State :=
  let copy := fun (c : Copy) =>
    if !Copy.ofTeam c k then c
    else
      { c with core := c.core - old + new, state := match c.state with | .stopped _ => .running | x => x }
  let attn := fun (c : Attn) =>
    if !Attn.ofTeam c k then c
    else
      { c with core := c.core - old + new, state := match c.state with | .stopped _ => .pending | x => x }
  let trav := fun (t : Trav) =>
    if t.owned && (t.oteam.map (teamKey t.lid)) == some k then { t with bins := t.bins - old + new } else t
  let fz := fun (f : Frozen) =>
    if (f.kind == 2 || f.kind == 3) && teamKey f.lid f.team == k then
      { f with unit := (48 * f.die + f.unit - old + new) % 48, die := dieOf (48 * f.die + f.unit - old + new) }
    else f
  { s with
    copies := s.copies.map fun c => (c.1, copy c.2), attns := s.attns.map fun c => (c.1, attn c.2),
    travs := s.travs.map fun t => (t.1, trav t.2), frozen := s.frozen.map fz }

/-- Re-enter a team with its groups' images read: (key, row0) of each group given. -/
def reenterTeam (s : State) (k : Nat) (t : Team) (d : KDesc) (pa core spbase accbase : Nat) (places : List (Nat × Nat))
    (ims : List (Group × GImage)) (sp ac : List Byte) : State :=
  let s := (ims.zip places).foldl (fun s x => reenterGroup s x.2.1 x.2.2 x.1.1 x.1.2) s
  let t' := { t with
    state := .resident, core := core, spbase := spbase, accbase := accbase, why := 0, fkind := 0, fmaster := 0, fva := 0,
    slot := none, groups := [], serviced := false, reserving := false }
  let s := spadWrite s d t' 0 sp
  let words := tabulate (256 * d.accq) fun i => BitVec.ofNat 32 (leNat ((ac.drop (4 * i)).take 4))
  let s := { s with acc := Store.putsD 0 s.acc (core * 65536 + accbase * 256) words, teams := Store.put s.teams k t' }
  freeSlotAt (restartCmds s k t.core core) pa

end Sys2Proof.Machine
end

