-- ==== Sys2Proof/Machine/Coherence.lean ====
section
/-!
DEFINITION. Coherence.lean: what home slices, external agents and their answers do to lines (spec/16_memory_system.md R221
to R238, R243; spec/28_host_and_swarm.md R337 to R339, R345, R349, R351).
-/
namespace Sys2Proof.Machine

open Sys2Proof

/-! ## Fills, leases, evictions, walks -/

/-- L1_FILL (R221): no line is read before the channels are trained (R352). -/
def l1Fill (s : State) (core line : Nat) : State := if 384 ≤ core ∨ s.plat.phase ≠ 3 then s else askFill s core line

def execL1Fill (core line : Nat) (s : State) : Host.Outcome State Fault Refusal := done (l1Fill s core line)

/-- LEASE_EXPIRY: a copy whose counter no longer reads below e − 1 is dead (R221). -/
def leaseExpire (s : State) (core line : Nat) : State :=
  { s with l1 := s.l1.filter fun c => !(c.core == core && c.line == line && decide (c.expiry ≤ s.gtc.toNat + 1)) }

def execLeaseExpiry (core line : Nat) (s : State) : Host.Outcome State Fault Refusal := done (leaseExpire s core line)

/-- SLICE_EVICTION (R221, R228, R338, R349). -/
def execSliceEviction (line : Nat) (s : State) : Host.Outcome State Fault Refusal := done (evict s line)

/-- TABLE_WALK: a walk completes; one that meets a table line it cannot read asks for it (R240 to R242). -/
def tableWalk (s : State) (die asp va : Nat) : State :=
  if s.plat.phase ≠ 3 then s
  else
  match translate s die asp va .read with
  | .blocked line => askRead s line
  | _ => keepTr s die asp va

def execTableWalk (die asp va : Nat) (s : State) : Host.Outcome State Fault Refusal := done (tableWalk s die asp va)

/-- REFRESH_MANAGEMENT changes no value, check value, elytron state, order, fault or lease (R243). -/
def execRefreshManagement (_stack _row : Nat) (s : State) : Host.Outcome State Fault Refusal := done s

/-! ## Stores and atomics at the home (R222, R234, R247, R248) -/

/-- New value of an atomic's element (R162). -/
def atomNew (op : AtomOp) (signed : Bool) (size x c new : Nat) : Nat :=
  let w := 8 * size
  let v := fun (n : Nat) => if signed then (BitVec.ofNat w n).toInt else (n : Int)
  match op with
  | .add => (x + c) % 2 ^ w
  | .min => if v x ≤ v c then x else c
  | .max => if v x ≤ v c then c else x
  | .and => x &&& c
  | .or => x ||| c
  | .xor => x ^^^ c
  | .xchg => c
  | .cas => if x = c then new else x

/-- An outstanding read of the request's stream, issued before it, has not yet read an element of a line that the request
writes: it may not return a write that follows it (R250). -/
def readBefore (s : State) (id : Nat) (r : Req) : Bool :=
  match r.src.bind fun x => (s.grp x.1).map fun g => g.str x.2 with
  | none => false
  | some x => x.out.any fun p => decide (p.id < id) && !p.kind.spad && p.kind != .atomic &&
      p.elts.any fun e => p.unsampled.getLsbD e.lane && (replicaLines r.line r.repl).contains (e.pa / 128)

/-- The request is at the head of its sender's requests to the line, and what it follows is done (R248, R251). -/
def reqTurn (s : State) (id : Nat) (r : Req) : Bool :=
  !(s.reqs.any fun q => decide (q.1 < id) && q.2.line == r.line && q.2.core == r.core && r.core.isSome &&
      (match q.2.kind with | .ext _ _ => false | _ => true)) &&
    (live s (r.deps ++ r.sentAfter)).isEmpty && !readBefore s id r

/-- A lane of an atomic has been performed: its old value, or a mismatch (R162). -/
def atomReturn (id lane : Nat) (old : Option Nat) (p : Pending) : Pending :=
  let p := { p with waiting := p.waiting.filter (· != id), unsampled := p.unsampled &&& ~~~laneBit lane }
  match old with
  | some x => p.setElt lane x
  | none =>
    { p with bad := p.bad ||| laneBit lane, writes := p.writes.map fun w =>
        match w with
        | .v r ls vs sh o => .v r (ls &&& ~~~laneBit lane) vs sh o
        | w => w }

/-- Give the result `pend` of a group what its request has found; an atomic that is an acquire takes the covers of the
releases `rs` that it returned (R251, R252). -/
def atomReport (s : State) (src : Option (Nat × Bool)) (pend id lane : Nat) (old : Option Nat) (rs : List Rel) : State :=
  match src.bind fun x => (s.grp x.1).map fun g => (x.1, x.2, g) with
  | none => s
  | some (gid, ln, g) =>
    let x := g.str ln
    let cov := acqCover gid g ((x.out.find? fun p => p.id == pend).bind (·.acq)) rs
    let s := s.setGrp gid (g.setStr ln { x.gain s cov with
      out := x.out.map fun p => if p.id == pend then atomReturn id lane old p else p, seen := liveRels s (x.seen ++ rs) })
    coverFollows s pend cov

/-- A write has been performed: what releases there left is hidden by a store and shows again after an atomic, and a release
whose covered writes need only be sent leaves them for a later acquire to find (R251, R252). -/
def afterWrite (s : State) (id : Nat) (r : Req) : State :=
  let sp := r.kind.span
  let s := { s with reqs := Store.del s.reqs id }
  let plain := match r.kind with | .atomic .. => false | _ => true
  let keep := fun (t : RelTag) =>
    { t with rel := { t.rel with cover := live s t.rel.cover }, hidden := if overlap t.pa t.size sp.1 sp.2 then plain else t.hidden }
  let old := (s.relTags.map keep).filter fun t => !t.rel.cover.isEmpty
  let new := (r.rels.map fun x => { x with cover := live s x.cover }).filter fun x => !x.cover.isEmpty
  { s with relTags := old ++ new.map fun x => ⟨sp.1, sp.2, x, false⟩ }

/-- The request leaves the home. -/
def dropReq (s : State) (id : Nat) : State := { s with reqs := Store.del s.reqs id }

/-- The bytes of a partial write in one sector: it is merged once (R237). -/
def mergeSector (s : State) (base : Nat) (data : LineData) (en : BitVec 128) (k : Nat) : State :=
  match (List.range 32).filter fun i => en.getLsbD (32 * k + i) with
  | [] => s
  | i :: is =>
    let lo := 32 * k + i
    let n := 32 * k + is.getLastD i + 1 - lo
    let byte := fun j => if en.getLsbD (lo + j) then bits data (8 * (lo + j)) 8 else memByte s (base + lo + j)
    writeMemAs s ((i :: is).length == n) (base + lo) (tabulate n byte)

/-- The bytes of a host's write over a line in HBM. -/
def mergeBytes (s : State) (line : Nat) (data : LineData) (en : BitVec 128) : State :=
  hideRels ((List.range 4).foldl (fun s k => mergeSector s (128 * line) data en k) s) (128 * line) 128

/-- Perform a write at a line that may be written. -/
def performAt (s : State) (id : Nat) (r : Req) : State :=
  match r.kind with
  | .store pa bs => afterWrite (homeWrite s pa bs) id r
  | .atomic op sg pa size data new pend lane =>
    match homeReadNow s pa size with
    | none => s
    | some (_, true) => atomReport (dropReq s id) r.src pend id lane none []
    | some (bs, false) =>
      let x := leNat bs
      let rs := relsRead s pa size []
      let s := homeWrite s pa (leBytes size (atomNew op sg size x data new))
      atomReport (afterWrite s id r) r.src pend id lane (some x) rs
  | .ext a (.write data en) => (dropReq (mergeBytes s r.line data en) id).emit (.ack a r.line)
  | .ext _ _ => s

/-- The home performs a waiting store or atomic in its turn, or asks for what it needs (R222, R228). -/
def performReq (s : State) (id : Nat) (r : Req) : State :=
  if r.repl != 0 || !reqTurn s id r then s
  else if engineHeld s r.line || !mayServe s r.line id then arriveAt s r.line id
  else
    let s := resolve s r.line
    if !homeWritable s r.line then arriveAt (askWrite s r.line) r.line id
    else if !leaseOver s r.line then arriveAt s r.line id
    else performAt s id r

/-- REPLICA_LOCK: the commit is the one that its primary's home serves, and the next die, in ascending order, locks its
replica in that home's order of arrival, once the line's latest expiry has come (R222, R234). -/
def lockReplica (s : State) (id : Nat) (r : Req) (die : Nat) : State :=
  let next := (List.range 8).find? fun d => r.repl.getLsbD d && !r.locked.contains d
  let line := r.line % 0x40000000 + die * 0x40000000
  if next != some die || !reqTurn s id r then s
  else
    let s := arriveAt s r.line id
    if engineHeld s r.line || !mayServe s r.line id then s
    else if engineHeld s line || !mayServe s line id then arriveAt s line id
    else
      let s := resolve s line
      if !homeWritable s line then arriveAt (askWrite s line) line id
      else if !leaseOver s line then arriveAt s line id
      else
        let s := arriveAt s line id
        { setEly s line (mkEly 0 0 7) with reqs := Store.put s.reqs id { r with locked := r.locked ++ [die] } }

def execReplicaLock (req die : Nat) (s : State) : Host.Outcome State Fault Refusal :=
  done (match Store.find s.reqs req with | some r => lockReplica s req r die | none => s)

/-- REPLICA_UPDATE: every replica is locked: the new contents go into every one, and each is UNCACHED (R234, R235). -/
def updateReplicas (s : State) (id : Nat) (r : Req) : State :=
  let ls := replicaLines r.line r.repl
  if r.repl == 0 || !((List.range 8).all fun d => !r.repl.getLsbD d || r.locked.contains d) || ls.any (inWindow s) then s
  else
    let s := ls.foldl (fun s l => setEly s l 0) s
    commitReplicas (performAt s id r) r.line r.repl

def execReplicaUpdate (req : Nat) (s : State) : Host.Outcome State Fault Refusal :=
  done (match Store.find s.reqs req with | some r => updateReplicas s req r | none => s)

/-! ## External agents: permission (R337, R345) -/

/-- Some link to an agent is up (R349, R351). -/
def linkOf (s : State) (a : Nat) (up : Nat → Bool) : Option Nat :=
  match s.swarm with
  | none => none
  | some w => (List.range 12).find? fun i => nthD none w.table i == some a && up (vget s.links i).state
def linkUp (s : State) (a : Nat) : Bool := (linkOf s a (· == 3)).isSome

/-- The host function, or a peer, is frozen. -/
def agentFrozen (s : State) (a : Nat) : Bool :=
  s.frozen.any fun f => if a = 0 then f.kind == 5 else f.kind == 6 && f.team == a

/-- The die of link PLn (R5). -/
def linkDie (n : Nat) : Nat := 1 + n / 2

/-- Freeze the host function or a peer; an entry of a peer keeps its agent id where RESYNC reports a team's.  Of several links to
a peer the entry names the lowest-numbered (log entry 93: DESIGN CHOICE). -/
def freezeAgent (s : State) (a viol addr : Nat) : State :=
  let f : Frozen :=
    if a = 0 then ⟨5, 0, 0, 0, 0, addr, viol, 0⟩
    else
      let l := (linkOf s a fun _ => true).getD 0
      ⟨6, l, linkDie l, 0, a, addr, viol, 0⟩
  { s with frozen := s.frozen ++ [f] }

/-- The address is a hole, or a protected region denies the agent. -/
def denied (s : State) (a pa : Nat) : Bool :=
  !inHbm pa || s.regions.any fun r => decide (r.2.pa < pa / 128 * 128 + 128) && decide (pa / 128 * 128 < r.2.pa + r.2.size) &&
    !bit r.2.flags (if a = 0 then 0 else 1)

/-- A request that is refused: poisoned data to the host, a refusal to a peer; a host write completes. -/
def refuse (s : State) (a line : Nat) (what : ExtWhat) : State :=
  match what with
  | .write _ _ => s.emit (.ack a line)
  | _ => s.emit (.reply a line 0 true)

/-! ## External agents: service (R228, R337, R339) -/

/-- The data of a line in HBM, or of its slice copy, and whether a sector mismatches. -/
def memLine (s : State) (line : Nat) : LineData × Bool :=
  (ofBytes 1024 (memBytes s (128 * line) 128), (List.range 4).any fun i => chkBad s (4 * line + i))

/-- Answer with a line; a mismatch is a failure response that grants nothing, or freezes the agent where a region says so
(R237, R345).  grant: the elytron bits when it is served. -/
def answer (s : State) (id a line : Nat) (d : LineData × Bool) (grant : Option (BitVec 16)) : State :=
  let s := dropReq s id
  if d.2 then
    let bad := ((List.range 4).find? fun i => chkBad s (4 * line + i)).getD 0
    let pa := 128 * line + 32 * bad
    let s := if freezeRegion s pa then freezeAgent s a 2 pa else s
    s.emit (.reply a line 0 true)
  else
    let s := match grant with | some e => setEly s line e | none => s
    s.emit (.reply a line d.1 false)

/-- Snoop the owner of a line down to shared, or have it give the line up. -/
def callOwner (s : State) (line : Nat) (inv keep : Bool) : State :=
  let b := elyOwner (elyRaw s line)
  snoop s line b inv keep (.recall b line inv)

/-- Elytron bits with one more sharer, and with one owner. -/
def addSharer (s : State) (line a : Nat) : BitVec 16 := mkEly 0 (elyAgents (elyRaw s line) ||| BitVec.ofNat 8 (2 ^ a)) 1
def ownedBy (s : State) (a : Nat) (st : BitVec 3) : BitVec 16 := mkEly (agent s a).inc (BitVec.ofNat 8 (2 ^ a)) st

/-- Others that hold read-only copies. -/
def others (s : State) (line a : Nat) : List Nat := (sharers s line).filter (· != a)
def callSharers (s : State) (line : Nat) (as : List Nat) : State :=
  as.foldl (fun s b => snoop s line b true false (.recall b line true)) s

/-- A read of a line by an external agent (R228). -/
def extRead (s : State) (id a line : Nat) : State :=
  match lineState s line with
  | .uncached | .shared => answer s id a line (memLine s line) (some (addSharer s line a))
  | .exclusive | .owned | .modified => callOwner s line false false
  | _ => s

/-- Ownership by an external agent: local leases end first. -/
def extOwn (s : State) (id a line : Nat) : State :=
  match lineState s line with
  | .uncached => if leaseOver s line then answer s id a line (memLine s line) (some (ownedBy s a 2)) else s
  | .shared =>
    if !(others s line a).isEmpty then callSharers s line (others s line a)
    else if leaseOver s line then answer s id a line (memLine s line) (some (ownedBy s a 2)) else s
  | .exclusive | .owned | .modified => callOwner s line true false
  | _ => s

/-- A read that grants no copy: a local read (R337). -/
def extPeek (s : State) (id a line : Nat) : State :=
  match lineState s line with
  | .uncached | .shared => answer s id a line (memLine s line) none
  | .owned =>
    answer s id a line (match Store.find s.slices line with | some d => (d.data, false) | none => memLine s line) none
  | .exclusive => callOwner s line false false
  | .modified => callOwner s line false true
  | _ => s

/-- The agent is named as the line's owner with its current incarnation. -/
def ownerIs (s : State) (line a : Nat) : Bool :=
  let e := elyRaw s line
  (match lineState s line with | .exclusive | .owned | .modified => true | _ => false) &&
    elyOwner e == a && elyInc e == (agent s a).inc && !(agent s a).down

/-- The host holds the line: its write is a writeback (R337). -/
def hostHolds (s : State) (line : Nat) : Bool :=
  ownerIs s line 0 || (lineState s line == .shared && (elyAgents (elyRaw s line)).getLsbD 0)

/-- A host write (R337): a writeback when the host holds the line, else a local write. -/
def extWrite (s : State) (id line : Nat) (data : LineData) (en : BitVec 128) : State :=
  let fin := fun (s : State) => (dropReq s id).emit (.ack 0 line)
  let e := elyRaw s line
  if ownerIs s line 0 then
    let s := match Store.find s.slices line with
      | some d => { writeMem s (128 * line) (bytesOf d.data) with slices := Store.del s.slices line }
      | none => s
    fin (setEly (mergeBytes s line data en) line 0)
  else if hostHolds s line then
    let v := elyAgents e &&& ~~~1
    fin (setEly s line (if v == 0 then 0 else mkEly 0 v 1))
  else
    match lineState s line with
    | .uncached => if leaseOver s line then fin (mergeBytes s line data en) else s
    | .shared =>
      if !(sharers s line).isEmpty then callSharers s line (sharers s line)
      else if leaseOver s line then fin (setEly (mergeBytes s line data en) line 0) else s
    | .exclusive | .owned | .modified => callOwner s line true false
    | _ => s

/-- A request for a line of a host-bias page: the host's is served from HBM, which it reads unless it writes the whole line
(R238); a peer's goes the way of local accesses and receives no cached copy (R339). -/
def extHostBias (s : State) (id a line : Nat) (what : ExtWhat) : State :=
  match what with
  | .write data en =>
    let s := if en == BitVec.allOnes 128 then s else mediaHit s line
    (dropReq (mergeBytes s line data en) id).emit (.ack a line)
  | _ =>
    if a = 0 then
      let s := mediaHit s line
      answer s id a line (memLine s line) none
    else
      match Store.find s.slices line with
      | some d => (dropReq s id).emit (.reply a line d.data false)
      | none => snoop s line 0 false true (.request 0 (askAddr s line) false)

/-- What the home does with an external request whose turn it is: a host write to a line of a replicated page becomes a
commit to all its replicas (R234, R247, R257). -/
def extTurn (s : State) (id : Nat) (r : Req) (a : Nat) (what : ExtWhat) : State :=
  let line := r.line
  if inHostBias s line then extHostBias s id a line what
  else
    match what with
    | .write data en =>
      if replicatedLine s line && !hostHolds s line then { s with reqs := Store.put s.reqs id { r with repl := lineRepl s line } }
      else extWrite s id line data en
    | .peek => extPeek s id a line
    | .read => if replicatedLine s line then extPeek s id a line else extRead s id a line
    | .own => if replicatedLine s line then extPeek s id a line else extOwn s id a line

/-- The home serves a waiting external request in its turn, or asks for what it needs.  The host's requests do not wait behind
local ones for a line that is in host bias, which the host itself is asked for (R339), or whose page is being flipped (R340). -/
def serveExt (s : State) (id : Nat) (r : Req) (a : Nat) (what : ExtWhat) : State :=
  let line := r.line
  let direct := a == 0 && inHostBias s line
  if (s.reqs.any fun q => decide (q.1 < id) && q.2.line == line &&
      (match q.2.kind with | .ext b _ => b == a | _ => false)) then arriveAt s line id
  else if agentFrozen s a then refuse (dropReq s id) a line what
  else if (engineHeld s line && !direct) || inWindow s line || (a != 0 && inFlip s line) ||
      !(mayServe s line id || direct || (a == 0 && inFlip s line)) then arriveAt s line id
  else extTurn (arriveAt (resolve s line) line id) id r a what

/-- HOME_WRITE_PERFORM: the home serves the waiting request, when it can (R222). -/
def homePerform (s : State) (id : Nat) : State :=
  match Store.find s.reqs id with
  | none => s
  | some r =>
    match r.kind with
    | .ext a what => if r.repl == 0 then serveExt s id r a what else s
    | _ => performReq s id r

def execHomeWritePerform (req : Nat) (s : State) : Host.Outcome State Fault Refusal := done (homePerform s req)

/-- A request of an external agent arrives at the home of a line (R222, R337, R345). -/
def extArrive (s : State) (a line : Nat) (what : ExtWhat) : State :=
  if agentFrozen s a then refuse s a line what
  else if denied s a (128 * line) then refuse (freezeAgent s a 1 (128 * line)) a line what
  else
    let id := s.nextId
    let r : Req := ⟨line, none, none, .ext a what, [], [], [], none, 0, []⟩
    homePerform { s with reqs := Store.put s.reqs id r, nextId := id + 1 } id

/-! ## The host's requests (R337, R352) -/

/-- A host request at a host address: none where the decoder does not name the package; poisoned before phase 3. -/
def hostReq (s : State) (addr : Nat) (what : ExtWhat) : State :=
  if addr < s.hdm ∨ s.hdm + 2 ^ 40 ≤ addr then s
  else
    let line := (addr - s.hdm) / 128
    match s.plat.phase with
    | 1 => refuse s 0 line what
    | 2 => refuse s 0 line what
    | 3 => extArrive s 0 line what
    | _ => s

def execMemrdShared (addr : Nat) (s : State) : Host.Outcome State Fault Refusal := done (hostReq s addr .read)
def execMemrdAny (addr : Nat) (s : State) : Host.Outcome State Fault Refusal := done (hostReq s addr .own)
def execMemrdInvalid (addr : Nat) (s : State) : Host.Outcome State Fault Refusal := done (hostReq s addr .peek)
def execMemwr (addr : Nat) (data : LineData) (bytes : BitVec 128) (s : State) : Host.Outcome State Fault Refusal :=
  done (hostReq s addr (.write data bytes))

/-- HDM_DECODER_PROGRAM: a base aligned to 1 TiB (R337). -/
def execHdmDecoderProgram (base : Nat) (s : State) : Host.Outcome State Fault Refusal :=
  done (if base % 2 ^ 40 = 0 ∧ s.plat.phase ≠ 0 ∧ s.plat.phase ≠ 4 then { s with hdm := base } else s)

/-! ## Peers' requests (R349) -/

/-- A request of a peer whose link is up. -/
def peerReq (s : State) (a : Nat) (k : State → State) : State := if linkUp s a && decide (a != 0) then k s else s

def execReadShared (agent line : Nat) (s : State) : Host.Outcome State Fault Refusal :=
  done (peerReq s agent fun s => extArrive s agent line .read)
def execReadOwn (agent line : Nat) (s : State) : Host.Outcome State Fault Refusal :=
  done (peerReq s agent fun s => extArrive s agent line .own)

/-- A dirty notice, writeback or clean eviction: refused while the peer is frozen or denied.  In a retraining window of its
channel it waits (R355). -/
def notice (s : State) (a line : Nat) (k : State → State) : State :=
  peerReq s a fun s =>
    if inHbm (128 * line) && inWindow s line then s
    else if agentFrozen s a then s.emit (.reply a line 0 true)
    else if denied s a (128 * line) then (freezeAgent s a 1 (128 * line)).emit (.reply a line 0 true)
    else (k s).emit (.ack a line)

/-- DIRTY_NOTICE: EXCLUSIVE of this agent becomes MODIFIED. -/
def dirtyNotice (s : State) (a line : Nat) : State :=
  notice s a line fun s => if ownerIs s line a && lineState s line == .exclusive then setEly s line (ownedBy s a 4) else s

/-- A holder gives a line back: its data is written when dirty, or the slice's copy of an OWNED line is (R228). -/
def giveBack (s : State) (line : Nat) (data : Option LineData) : State :=
  let s := match data, Store.find s.slices line with
    | some d, _ => writeMem s (128 * line) (bytesOf d)
    | none, some d => writeMem s (128 * line) (bytesOf d.data)
    | none, none => s
  { s with slices := Store.del s.slices line }

/-- A sharer leaves (R228). -/
def unshare (s : State) (line a : Nat) : State :=
  let v := elyAgents (elyRaw s line) &&& ~~~(BitVec.ofNat 8 (2 ^ a))
  setEly s line (if v == 0 then 0 else mkEly 0 v 1)

/-- A writeback or eviction by the holder; of any other agent it has no effect (R228, R349). -/
def holderGives (s : State) (a line : Nat) (data : Option LineData) : State :=
  notice s a line fun s =>
    if ownerIs s line a then setEly (giveBack s line data) line 0
    else if lineState s line == .shared && (elyAgents (elyRaw s line)).getLsbD a then unshare s line a
    else s

def execDirtyNotice (agent line : Nat) (s : State) : Host.Outcome State Fault Refusal := done (dirtyNotice s agent line)
def execWriteback (agent line : Nat) (data : LineData) (s : State) : Host.Outcome State Fault Refusal :=
  done (holderGives s agent line (some data))
def execCleanEviction (agent line : Nat) (s : State) : Host.Outcome State Fault Refusal :=
  done (holderGives s agent line none)

/-! ## Answers (R228, R338, R349) -/

/-- The outstanding snoop, recall or request of a line toward an agent, the oldest. -/
def snoopOf (s : State) (line a : Nat) : Option Snoop := s.snoops.find? fun x => x.line == line && x.agent == a
def dropSnoop (s : State) (x : Snoop) : State := { s with snoops := s.snoops.erase x }

/-- What an agent's answer to a snoop does: data is its dirty data, held says that it held the line (R228). -/
def snooped (s : State) (line a : Nat) (x : Snoop) (data : Option LineData) : State :=
  let e := elyRaw s line
  match lineState s line with
  | .shared => if x.inv && (elyAgents e).getLsbD a then unshare s line a else s
  | .exclusive | .owned | .modified =>
    if elyOwner e != a then s
    else if x.inv then setEly (giveBack s line data) line 0
    else
      match lineState s line, x.keep, data with
      | .modified, true, some d =>
        setEly { s with slices := Store.put s.slices line ⟨d, false, false⟩ } line (mkEly (elyInc e) (elyAgents e) 3)
      | .owned, true, none => s
      | .modified, _, none => setEly s line 0
      | _, _, _ => setEly (giveBack s line data) line (mkEly 0 (elyAgents e) 1)
  | _ => s

/-- A line of host or peer memory, or of a host-bias page, arrives in its slice: a copy, or ownership. -/
def sliceFill (s : State) (line : Nat) (own dirty : Bool) (d : LineData) : State :=
  { s with slices := Store.put s.slices line ⟨d, own, dirty⟩ }

/-- An answer of an agent about a line of this package's HBM; in a retraining window of its channel it waits (R355). -/
def homeAnswer (s : State) (a line : Nat) (data : Option LineData) : State :=
  if inWindow s line then s
  else
  match snoopOf s line a with
  | none => s
  | some x => snooped (dropSnoop s x) line a x data

/-- HOST_SNOOP_RESPONSE to a BISnpInv or BISnpData (R337). -/
def execHostSnoopResponse (line : Nat) (dirty : Option LineData) (s : State) : Host.Outcome State Fault Refusal :=
  done (if inHbm (128 * line) && !inHostBias s line then homeAnswer s 0 line dirty else s)

/-- HOST_CACHE_DATA answers a RdShared or RdOwn (R338, R339). -/
def hostCacheData (s : State) (line : Nat) (own : Bool) (d : LineData) : State :=
  if !(paKind s (128 * line) == .host || (inHbm (128 * line) && inHostBias s line)) then s
  else
    match s.snoops.find? fun x => x.line == line && x.agent == 0 && x.inv == own with
    | none => s
    | some x => sliceFill (dropSnoop s x) line own false d

def execHostCacheData (line : Nat) (own : Bool) (data : LineData) (s : State) : Host.Outcome State Fault Refusal :=
  done (hostCacheData s line own data)

/-- A peer's answer: of its own memory's line, to a request; of this package's line, to a recall. -/
def peerAnswer (s : State) (a line : Nat) (dirty : Bool) (data : Option LineData) : State :=
  peerReq s a fun s =>
    match paKind s (128 * line), data with
    | .peer b, some d =>
      match snoopOf s line a with
      | some x => if b = a then sliceFill (dropSnoop s x) line x.inv (dirty && x.inv) d else s
      | none => s
    | .hbm _, d => homeAnswer s a line (if dirty then d else none)
    | _, _ => s

def execData (agent line : Nat) (data : LineData) (s : State) : Host.Outcome State Fault Refusal :=
  done (peerAnswer s agent line false (some data))
def execDataDirty (agent line : Nat) (data : LineData) (s : State) : Host.Outcome State Fault Refusal :=
  done (peerAnswer s agent line true (some data))
def execNotHeld (agent line : Nat) (s : State) : Host.Outcome State Fault Refusal :=
  done (peerAnswer s agent line false none)

/-! ## Snoops and recalls of lines that the package holds (R338, R340, R349) -/

/-- The slice answers once every L1 lease of the line has expired and no command holds it. -/
def giveUp (s : State) (a line : Nat) (inv : Bool) : State :=
  if !leaseOver s line || engineHeld s line then s
  else
    match Store.find s.slices line with
    | none => s.emit (.notHeld a (askAddr s line))
    | some d =>
      let s := { s with slices := if inv then Store.del s.slices line else Store.put s.slices line ⟨d.data, false, false⟩ }
      s.emit (.evict a (askAddr s line) (if d.dirty then some d.data else none))

/-- Lines that the host keeps coherent. -/
def hostLine (s : State) (line : Nat) : Bool :=
  paKind s (128 * line) == .host || (inHbm (128 * line) && inHostBias s line)

/-- A host's snoop is answered in phase 3 alone (R352). -/
def hostSnoop (s : State) (line : Nat) (inv : Bool) : State :=
  if hostLine s line && s.plat.phase == 3 then giveUp s 0 line inv else s


def execSnpdata (line : Nat) (s : State) : Host.Outcome State Fault Refusal :=
  done (hostSnoop s line false)
def execSnpinv (line : Nat) (s : State) : Host.Outcome State Fault Refusal :=
  done (hostSnoop s line true)

/-- A recall by the home of another package's line. -/
def recalled (s : State) (a line : Nat) (inv : Bool) : State :=
  peerReq s a fun s => if paKind s (128 * line) == .peer a then giveUp s a line inv else s

def execRecallToShared (agent line : Nat) (s : State) : Host.Outcome State Fault Refusal := done (recalled s agent line false)
def execRecallInvalidate (agent line : Nat) (s : State) : Host.Outcome State Fault Refusal := done (recalled s agent line true)

end Sys2Proof.Machine
end

