-- ==== Sys2Proof/Machine/Place.lean ====
section
/-!
DEFINITION. Place.lean: the distributor (spec/20_scheduling.md R277 to R279; spec/02_execution_model.md R24, R46, R49;
spec/26_faults_and_preemption.md R329).
-/
namespace Sys2Proof.Machine

open Sys2Proof

/-! ## What waits to be placed -/

/-- What the distributor considers of a launch: a new team, or a swapped-out one (its key and record). -/
inductive Cand
  | fresh (tid : Nat)
  | back (key : Nat) (t : Team)
  deriving DecidableEq, Repr

/-- A record that is out may re-enter: its fault is serviced, or it was only pre-empted; it is not frozen (R329, R345). -/
def Team.ready (s : State) (k : Nat) (t : Team) : Bool :=
  t.state == .out && (t.why == 2 || t.serviced) && !(s.frozen.any fun f => f.kind == 1 && f.key == k)

/-- The lowest team of the launch to place: while one is swapped out, no higher one (R49). -/
def launchCand (s : State) (lid : Nat) (l : Launch) : Option Cand :=
  if l.pre != .none then none
  else
    match s.teams.filter fun t => t.2.lid == lid && t.2.tid.isSome && t.2.state != .resident with
    | (k, t) :: _ => if t.ready s k then some (.back k t) else none
    | [] => if l.next < l.teams then some (.fresh l.next) else none

/-- A launch and what is considered of it. -/
abbrev Bid := Nat × Launch × Cand

/-- Priority first, then dispatch time (R277). -/
def before (a b : Launch) : Bool := decide (b.prio < a.prio) || (a.prio == b.prio && decide (a.seq ≤ b.seq))

def insertBid (x : Bid) : List Bid → List Bid
  | [] => [x]
  | y :: ys => if before x.2.1 y.2.1 then x :: y :: ys else y :: insertBid x ys

/-- What waits, in the order in which it is considered. -/
def bids (s : State) : List Bid :=
  (s.launches.filterMap fun e => (launchCand s e.1 e.2).map fun c => ((e.1, e.2, c) : Bid)).foldr insertBid []

/-- What one group asks for: its index, its rows, and its rows at qmax. -/
structure Ask where
  gidx : Nat
  rows : Nat
  top  : Nat
  deriving DecidableEq, Repr

def Cand.asks (d : KDesc) : Cand → List Ask
  | .fresh _ => tabulate d.groups fun g => ⟨g, d.rows0 g, d.rowsMax g⟩
  | .back _ t => t.groups.map fun g => ⟨g.gidx, rowsOf g.width g.q, rowsOf g.width g.qmax⟩

/-! ## What is free (R278) -/

/-- A reserving team of a launch keeps teams of later launches of equal or lower priority from the dies of its launch's mask
(R277). -/
def reservedFrom (s : State) (l : Launch) (core : Nat) : Bool :=
  s.launches.any fun r =>
    r.2.pre == .none && decide (l.seq > r.2.seq) && decide (l.prio ≤ r.2.prio) && r.2.dmask.getLsbD (dieOf core) &&
      (r.2.reserving || s.teams.any fun t => t.2.lid == r.1 && t.2.reserving)

/-- FEAT bits that a chrysalis needs of its die (R322). -/
def featOk (s : State) (c : Cand) (core : Nat) : Bool :=
  match c with
  | .fresh _ => true
  | .back k t =>
    let f := vget s.feat (dieOf core)
    ((teamAttns s k).isEmpty || bit f 0) &&
      (!(s.travs.any fun x => x.2.owned && x.2.lid == t.lid && x.2.oteam == t.tid && (t.tid.isSome || x.2.okey == k)) || bit f 1)

/-- The core, or pair, is one where the bid may go. -/
def coreMay (s : State) (b : Bid) (core : Nat) : Bool :=
  decide (core < 384) && b.2.1.dmask.getLsbD (dieOf core) && (!b.2.1.desc.pair || core % 2 == 0) && featOk s b.2.2 core

/-- The core, or pair, may take the bid now. -/
def coreOk (s : State) (b : Bid) (core : Nat) : Bool := coreMay s b core && !reservedFrom s b.2.1 core

/-- Spawn slots to reserve on a core (R279). -/
def newSlots (l : Launch) (core : Nat) : Nat := if l.spawn.any fun r => r.core == core then 0 else l.desc.spawnq

/-- Group slots of a core that are held or reserved. -/
def usedSlots (s : State) (core : Nat) : List Nat :=
  ((s.groups.filter fun g => coreOf g.1 == core && !g.2.spawned).map fun g => g.1 % 64) ++
    s.launches.flatMap fun l => (l.2.spawn.filter fun r => r.core == core).flatMap fun r => r.slots.map (·.1)

/-- Rows of a core that are held or reserved. -/
def usedRows (s : State) (core : Nat) : List (Nat × Nat) :=
  ((s.groups.filter fun g => coreOf g.1 == core && !g.2.spawned).map fun g => heldRows g.2) ++ reservedRows s core

/-- 128-byte units of scratchpad that a team holds in each of its cores. -/
def KDesc.spUnits (d : KDesc) : Nat := ((if d.pair then d.spq / 2 else d.spq) + 127) / 128

/-- Teams that hold storage, with their descriptors. -/
def holders (s : State) : List (Team × KDesc) :=
  s.teams.filterMap fun t =>
    if t.2.tid.isSome && t.2.state != .out then (s.launch t.2.lid).map fun l => (t.2, l.desc) else none

/-- Scratchpad units of a core that are held. -/
def usedSp (s : State) (core : Nat) : List (Nat × Nat) :=
  ((holders s).filter fun t => t.1.core == core || (t.2.pair && t.1.core + 1 == core)).map fun t =>
    (t.1.spbase, t.1.spbase + t.2.spUnits)

/-- ACC units of a core that are held. -/
def usedAcc (s : State) (core : Nat) : List (Nat × Nat) :=
  ((holders s).filter fun t => t.1.core == core).map fun t => (t.1.accbase, t.1.accbase + t.2.accq)

/-- A span lies below a limit and meets none of those used; an empty one meets none. -/
def spanOk (used : List (Nat × Nat)) (at_ n top lim : Nat) : Bool :=
  decide (at_ + top ≤ lim) && (n == 0 || !used.any fun u => decide (u.1 < u.2) && rowsMeet (at_, at_ + n) u)

/-- The same of a span whose start is a unit of the storage, as WLOC reads it (R14). -/
def unitOk (used : List (Nat × Nat)) (at_ n lim : Nat) : Bool := decide (at_ < lim) && spanOk used at_ n n lim

/-! ## A place that is named -/

/-- Spans given to asks, one after another, meet nothing used and not each other. -/
def rowsOk (used : List (Nat × Nat)) : List (Ask × Nat × Nat) → Bool
  | [] => true
  | (a, _, row0) :: xs => spanOk used row0 a.rows a.top 4096 && rowsOk ((row0, row0 + a.rows) :: used) xs

/-- Slots given are below 64, unused, and differ. -/
def slotsOk (used : List Nat) : List (Ask × Nat × Nat) → Bool
  | [] => true
  | (_, slot, _) :: xs => decide (slot < 64) && !used.contains slot && slotsOk (slot :: used) xs

/-- What goes on one core, each with its place: its groups, then its spawn slots. -/
abbrev Plan := List (Ask × Nat × Nat)

def spawnAsk (d : KDesc) : Ask := ⟨0, rowsOf d.width d.sqmax, rowsOf d.width d.sqmax⟩

/-- Divide the places named among the groups and the spawn slots of the two cores: groups of the even core, of the odd
core, spawn slots of the even core, of the odd core; none when their number is wrong. -/
def plan (b : Bid) (core : Nat) (places : List (Nat × Nat)) : Option (Plan × Plan × Plan × Plan) :=
  let l := b.2.1
  let d := l.desc
  let asks := b.2.2.asks d
  let q1 := newSlots l core
  let q2 := if d.pair then newSlots l (core + 1) else 0
  if places.length != asks.length + q1 + q2 then none
  else
    let gs := asks.zip places
    let sp := (places.drop asks.length).map fun p => (spawnAsk d, p)
    some (gs.filter (fun x => decide (x.1.gidx < d.evenGroups)), gs.filter (fun x => !decide (x.1.gidx < d.evenGroups)),
      sp.take q1, sp.drop q1)

/-- The bid fits at the place named (R278). -/
def fitsAt (s : State) (b : Bid) (core spbase accbase : Nat) (places : List (Nat × Nat)) : Bool :=
  let d := b.2.1.desc
  coreOk s b core &&
    (match plan b core places with
     | none => false
     | some (e, o, se, so) =>
       slotsOk (usedSlots s core) (e ++ se) && rowsOk (usedRows s core) (e ++ se) &&
         (!d.pair || (slotsOk (usedSlots s (core + 1)) (o ++ so) && rowsOk (usedRows s (core + 1)) (o ++ so)))) &&
    unitOk (usedSp s core) spbase d.spUnits 3072 &&
    (!d.pair || unitOk (usedSp s (core + 1)) spbase d.spUnits 3072) &&
    unitOk (usedAcc s core) accbase d.accq 256

/-! ## Whether a bid fits anywhere -/

/-- The lowest start of a free span. -/
def firstFit (used : List (Nat × Nat)) (n top lim : Nat) : Option Nat :=
  ((0 :: used.map (·.2)).filter fun a => spanOk used a n top lim).foldl (fun r a =>
    match r with
    | none => some a
    | some b => some (min a b)) none

/-- The gaps between used rows: first row and end. -/
def gapsOf (used : List (Nat × Nat)) : List (Nat × Nat) :=
  let us := used.filter fun u => decide (u.1 < u.2)
  let starts := ((0 :: us.map (·.2)).filter fun a => decide (a < 4096) && !us.any fun u => decide (u.1 ≤ a) && decide (a < u.2)).eraseDups
  starts.map fun a => (a, us.foldl (fun m u => if a < u.1 then min m u.1 else m) 4096)

/-- Spans (rows, last end), in order of their last ends, can be packed into gaps: each next span goes to the front of some
gap.  A packing in which each gap is filled from its start, earliest last end first, exists when any packing does. -/
def packs : List (Nat × Nat) → List (Nat × Nat) → Bool
  | _, [] => true
  | gaps, x :: xs =>
    (List.range gaps.length).any fun i =>
      let g := nthD (0, 0) gaps i
      decide (g.1 + x.1 ≤ g.2) && decide (g.1 + x.1 ≤ x.2) && packs (gaps.set i (g.1 + x.1, g.2)) xs

/-- Rows for asks among used ones (R278): by any packing. -/
def rowsFit (used : List (Nat × Nat)) (asks : List Ask) : Bool :=
  let gaps := gapsOf used
  decide (asks.foldl (fun n a => n + a.rows) 0 ≤ gaps.foldl (fun n g => n + (g.2 - g.1)) 0) &&
    packs gaps ((asks.map fun a => (a.rows, 4096 - a.top + a.rows)).foldr insertSpan [])

def halfFits (s : State) (l : Launch) (asks : List Ask) (core : Nat) : Bool :=
  let q := newSlots l core
  decide ((usedSlots s core).length + asks.length + q ≤ 64) &&
    rowsFit (usedRows s core) (asks ++ tabulate q fun _ => spawnAsk l.desc)

/-- There is room for the bid on this core or pair, at some place (R278). -/
def roomOn (s : State) (b : Bid) (core : Nat) : Bool :=
  let l := b.2.1
  let d := l.desc
  let asks := b.2.2.asks d
  let sp := usedSp s core ++ (if d.pair then usedSp s (core + 1) else [])
  coreMay s b core && halfFits s l (asks.filter fun a => decide (a.gidx < d.evenGroups)) core &&
    (!d.pair || halfFits s l (asks.filter fun a => !decide (a.gidx < d.evenGroups)) (core + 1)) &&
    (firstFit sp d.spUnits d.spUnits 3072).isSome && (firstFit (usedAcc s core) d.accq d.accq 256).isSome

/-- The bid fits on this core or pair, at some place. -/
def fitsOn (s : State) (b : Bid) (core : Nat) : Bool := roomOn s b core && !reservedFrom s b.2.1 core

def fitsAny (s : State) (b : Bid) : Bool := (List.range 384).any (fitsOn s b)

/-- The bid that is placed at the place named: the first that fits there, when no earlier one fits somewhere (R277). -/
def pickBid (s : State) (core spbase accbase : Nat) (places : List (Nat × Nat)) : List Bid → Option Bid
  | [] => none
  | b :: bs =>
    if fitsAt s b core spbase accbase places then some b
    else if fitsAny s b then none
    else pickBid s core spbase accbase places bs

/-! ## Placing -/

/-- Group keys and first rows, in the order of the asks. -/
def keysOf (d : KDesc) (core : Nat) (asks : List Ask) (places : List (Nat × Nat)) : List (Nat × Nat × Nat) :=
  (asks.zip places).map fun x => (x.1.gidx, 64 * (if x.1.gidx < d.evenGroups then core else core + 1) + x.2.1, x.2.2)

/-- Record the spawn slots reserved (R279); the launch's next team begins to wait once the one before it is placed. -/
def reserveSlots (s : State) (b : Bid) (core : Nat) (places : List (Nat × Nat)) (next : Nat) : State :=
  let l := b.2.1
  let sp := places.drop (b.2.2.asks l.desc).length
  let q1 := newSlots l core
  let add := fun (c : Nat) (xs : List (Nat × Nat)) => if xs.isEmpty then [] else [(⟨c, xs⟩ : SpawnRes)]
  s.updLaunch b.1 fun x =>
    { x with
      next := next, since := if next = l.next then x.since else s.gtc.toNat, reserving := x.reserving && next == l.next,
      spawn := x.spawn ++ add core (sp.take q1) ++ add (core + 1) (sp.drop q1) }

/-- A new team's scratchpad and ACC hold undefined contents (R3). -/
def undefStorage (s : State) (d : KDesc) (t : Team) : State :=
  let n := s.free
  let s := spadWrite s d t 0 (tabulate d.spq fun i => (Config.undefWord (n + i)).truncate 8)
  let words := tabulate (256 * d.accq) fun i => Config.undefWord (n + d.spq + i)
  { s with acc := Store.putsD 0 s.acc (t.core * 65536 + t.accbase * 256) words, free := n + d.spq + 256 * d.accq }

/-- Place a new team: every group starts in the state of R25 (R276). -/
def placeFresh (s : State) (b : Bid) (tid core spbase accbase : Nat) (places : List (Nat × Nat)) : State :=
  let (lid, l, c) := b
  let d := l.desc
  let t : Team :=
    { lid := lid, tid := some tid, state := .resident, core := core, spbase := spbase, accbase := accbase, ended := [],
      bars := [], rings := [], why := 0, fkind := 0, fmaster := 0, fva := 0, slot := none, groups := [], serviced := false,
      owed := [],
      since := 0, reserving := false }
  let s := undefStorage { s with teams := Store.put s.teams (teamKey lid tid) t } d t
  let s := (keysOf d core (c.asks d) places).foldl (fun s x =>
    let (g, s) := startGroup s l lid tid x.1 x.2.2
    receive s x.2.1 g 0 g.q) s
  reserveSlots s b core places (tid + 1)

/-- A swapped-out team re-enters from its chrysalis (R329). -/
def placeBack (s : State) (b : Bid) (k : Nat) (t : Team) (core spbase accbase : Nat) (places : List (Nat × Nat)) : State :=
  let d := b.2.1.desc
  let pa := t.slot.getD 0
  let s := resolveSlot s t d pa
  match readImages s t pa, slotRead s (pa + spOff) d.spq, slotRead s (pa + accOff) (1024 * d.accq) with
  | .ok ims, .ok sp, .ok ac =>
    let keys := (keysOf d core (b.2.2.asks d) places).map (·.2)
    reserveSlots (reenterTeam s k t d pa core spbase accbase keys ims sp ac) b core places b.2.1.next
  | .error line, _, _ => askRead s line
  | _, .error line, _ => askRead s line
  | _, _, .error line => askRead s line

/-- Swap a resident team out for a lower one of its launch: it halts, to be saved into a slot of the pool (R49, R277). -/
def swapOut (s : State) (k : Nat) : State :=
  let s := s.updTeam k fun t => { t with why := whyPre t.why, state := .halting }
  { s with groups := s.groups.map fun e =>
      if outKey e.1 e.2 == k then (e.1, { e.2 with halted := true, sc := e.2.sc.stopWait, ln := e.2.ln.stopWait }) else e }

/-- The team to swap out on a core for a team that there is room for nowhere: the highest-numbered resident one above it, on a
core that it may take, once every team of the launch that is out has been saved (R49, R277). -/
def victim (s : State) (b : Bid) (core : Nat) : Option Nat :=
  match b.2.2 with
  | .fresh _ => none
  | .back k _ =>
    let mine := s.teams.filter fun t => t.2.lid == b.1 && t.2.tid.isSome
    if (List.range 384).any (roomOn s b) || !coreOk s b core || (mine.any fun t => t.2.state == .halting || t.2.state == .awaiting) then none
    else
      ((mine.filter fun t => t.2.state == .resident && t.2.core == core && decide (k < t.1)).map (·.1)).getLast?

/-- A saved spawned group that may re-enter in the reserved slot named, and the slot's number (R279, R329). -/
def spawnedBack (s : State) (core slot row0 : Nat) : Option (Nat × Team × Nat) :=
  if (s.grp (64 * core + slot)).isSome then none
  else
    (s.teams.filterMap fun e =>
      match s.launch e.2.lid with
      | none => none
      | some l =>
        if e.2.tid.isNone && e.2.ready s e.1 && l.pre == .none && featOk s (.back e.1 e.2) core then
          match (l.spawn.find? fun r => r.core == core).bind fun r => r.slots.findIdx? (· == (slot, row0)) with
          | some i => some (e.1, e.2, i)
          | none => none
        else none).head?

/-- A saved spawned group re-enters. -/
def placeSpawnedBack (s : State) (k : Nat) (t : Team) (core slot row0 ix : Nat) : State :=
  let pa := t.slot.getD 0
  let gid := 64 * core + slot
  let s := resolveSlot s t default pa
  match readImages s t pa with
  | .error line => askRead s line
  | .ok ims =>
    let s := ims.foldl (fun s x => reenterGroup s gid row0 { x.1 with gidx := ix } x.2) s
    let ts := (rekey k gid s.travs).map fun (x : Nat × Trav) =>
      (x.1, if x.2.oteam.isNone && x.2.okey == gid && x.2.lid == t.lid then { x.2 with ogroup := ix, bins := core } else x.2)
    freeSlotAt { s with teams := Store.del s.teams k, travs := ts } pa

/-- TEAM_PLACEMENT: at the place named, a saved spawned group, or the first bid, goes in; where nothing does, a team of
the core named is swapped out for a bid that needs it. -/
def placeTeam (s : State) (core spbase accbase : Nat) (places : List (Nat × Nat)) : State :=
  match (match places with | [(slot, row0)] => spawnedBack s core slot row0 | _ => none), places with
  | some (k, t, ix), (slot, row0) :: _ => placeSpawnedBack s k t core slot row0 ix
  | _, _ =>
    match pickBid s core spbase accbase places (bids s) with
    | some b =>
      match b.2.2 with
      | .fresh tid => placeFresh s b tid core spbase accbase places
      | .back k t => placeBack s b k t core spbase accbase places
    | none =>
      match ((bids s).filterMap fun b => victim s b core).head? with
      | some k => swapOut s k
      | none => s

def execTeamPlacement (core spbase accbase : Nat) (groups : List (Nat × Nat)) (s : State) :
    Host.Outcome State Fault Refusal :=
  done (placeTeam s core spbase accbase groups)

/-- TEAM_RESERVING: a team that has waited 5,000 ticks and fits nowhere becomes reserving (R277). -/
def teamReserve (s : State) (lid : Nat) : State :=
  match s.launch lid with
  | none => s
  | some l =>
    match launchCand s lid l with
    | none => s
    | some c =>
      let since := match c with | .fresh _ => l.since | .back _ t => t.since
      if s.gtc.toNat < since + 5000 || fitsAny s (lid, l, c) then s
      else
        match c with
        | .fresh _ => s.updLaunch lid fun l => { l with reserving := true }
        | .back k _ => s.updTeam k fun t => { t with reserving := true }

def execTeamReserving (lid : Nat) (s : State) : Host.Outcome State Fault Refusal := done (teamReserve s lid)

/-- SPAWNED_GROUP_LAUNCH: the bin it frees may take threads that a resumed launch still holds (R46, R329). -/
def spawnedLaunch (s : State) (core : Nat) : State :=
  let s := launchBin s core
  (s.launches.filter fun l => !l.2.threads.isEmpty).foldl (fun s l => rebin s l.1) s

def execSpawnedGroupLaunch (core : Nat) (s : State) : Host.Outcome State Fault Refusal := done (spawnedLaunch s core)

end Sys2Proof.Machine
end

