-- ==== Sys2Proof/Machine/Host.lean ====
section
/-!
DEFINITION. Host.lean: the mailbox (spec/28_host_and_swarm.md R340 to R346, R350, R359): every command's effect, and its
return code.
-/
namespace Sys2Proof.Machine

open Sys2Proof

/-! ## Return codes (R341, R352) -/

def success (s : State) : State := ret s .success []
def invalid (s : State) : State := ret s .invalidInput []
def busy (s : State) : State := ret s .busy []

/-- A command: nothing answers in phases 0 and 4; phases 1 and 2 return Busy; while a background command runs, all but
RESYNC and DEBUG return Busy (R341, R352).  The mailbox takes no other command before a DEBUG or RESYNC is over: one given
meanwhile leaves the state as it is (R359; log entry 76). -/
def command (s : State) (always : Bool) (k : State → State) : State :=
  match s.plat.phase with
  | 1 => busy s
  | 2 => busy s
  | 3 => if s.mbox.held then s else if s.mbox.bg.isSome && !always then busy s else k s
  | _ => s

/-- A command that returns Success with an effect, or Invalid Input with none. -/
def check (s : State) (ok : Bool) (k : State → State) : State := if ok then success (k s) else invalid s

/-- A physical range of one kind, all of it holding lines. -/
def lineRange (s : State) (pa n : Nat) : Bool :=
  (paKind s pa).line && (n == 0 || paKind s (pa + n - 1) == paKind s pa)

/-! ## RESYNC (R343, R344) -/

def le2 (n : Nat) : List Byte := leBytes 2 n
def le4 (n : Nat) : List Byte := leBytes 4 n
def le8 (n : Nat) : List Byte := leBytes 8 n

def walkerEntry (s : State) (d : Nat) : List Byte :=
  le4 d ++ le4 (s.graphs.filter fun g => g.2.die == d).length ++ le4 (vget s.disp d % 2 ^ 29) ++ zeros 4

def GraphState.code : GraphState → Nat
  | .running => 0 | .halted => 1 | .ending => 2

def graphEntry (s : State) (id : Nat) (g : Graph) : List Byte :=
  le8 g.root ++ le4 (g.asp * 2 ^ 24 + g.state.code * 2 ^ 16 + g.prio * 2 ^ 8 + g.die) ++
    le4 (s.launches.filter fun l => l.2.graph == id).length ++ le8 g.failed ++ zeros 8

/-- state of a team: 0 resident, 1 swapped by fault, 2 pre-empted, 3 frozen, 4 awaiting a pool slot. -/
def teamCode (s : State) (k : Nat) (t : Team) : Nat :=
  if s.frozen.any fun f => f.kind == 1 && f.key == k then 3
  else
    match t.state with
    | .resident => 0
    | .awaiting => 4
    | _ => if t.why == 2 then 2 else 1

/-- One team entry; slots gives (group index, group slot). -/
def teamEntry (s : State) (k : Nat) (t : Team) (slots : List (Nat × Nat)) : List Byte :=
  le4 t.lid ++ le4 (t.tid.getD 0xFFFFFFFF) ++
    le4 (teamCode s k t * 2 ^ 16 + t.core % 48 * 2 ^ 8 + dieOf t.core) ++ zeros 4 ++ le8 (t.slot.getD 0) ++ zeros 8 ++
    tabulate 32 fun g => BitVec.ofNat 8 (((slots.find? fun x => x.1 == g).map (·.2)).getD 0)

/-- Teams, and spawned groups, which have no team (team id 0xFFFFFFFF, group 0). -/
def teamEntries (s : State) : List (List Byte) :=
  let ofTeam := s.teams.map fun t =>
    let gs := groupsOf s t.1
    teamEntry s t.1 t.2 (gs.map fun e => (if t.2.tid.isSome then e.2.gidx else 0, e.1 % 64))
  let lone := s.groups.filter fun e => e.2.spawned && (s.team (outKey e.1 e.2)).isNone
  ofTeam ++ lone.map fun e => teamEntry s (outKey e.1 e.2) (spawnTeam e.1 e.2) [(0, e.1 % 64)]

def frozenEntry (f : Frozen) : List Byte :=
  le4 (f.viol * 2 ^ 24 + f.unit * 2 ^ 16 + f.die * 2 ^ 8 + f.kind) ++ le4 (if f.kind = 1 then f.lid else 0) ++
    le4 (if f.kind = 1 then f.team else 0) ++ zeros 4 ++ le8 f.addr ++ zeros 8

def faultEntry (f : PFault) : List Byte :=
  le4 (f.die * 2 ^ 8 + f.kind) ++ le4 f.lid ++ le4 f.who ++ bytesOf f.detail ++ le8 f.addr ++ le8 f.info

def linkEntry (s : State) (i : Nat) : List Byte :=
  let l := vget s.links i
  let a := match s.swarm with | some w => (nthD none w.table i).getD 0 | none => 0
  le4 (a * 2 ^ 16 + l.state * 2 ^ 8 + i) ++ zeros 4 ++ le8 l.replays

def agentEntry (s : State) (a : Nat) : List Byte :=
  let x := agent s a
  let present := a == 0 || agentPresent s a
  le4 ((if present then 512 else 0) + (if x.down then 256 else 0) + x.inc.toNat) ++ zeros 4

def lossEntry (s : State) : List Byte := le8 s.loss.base ++ le8 s.loss.size ++ le8 s.loss.next ++ le8 s.loss.lost

/-- The sections, in order. -/
def sections (s : State) : List (List (List Byte)) :=
  [(List.range 8).map (walkerEntry s), s.graphs.map fun g => graphEntry s g.1 g.2, teamEntries s, s.frozen.map frozenEntry,
   s.pfaults.map faultEntry, (List.range 12).map (linkEntry s), (List.range 8).map (agentEntry s), [lossEntry s]]

/-- Section headers, the first section beginning at `off`. -/
def sectionHeads (off : Nat) : List (List (List Byte)) → List Byte
  | [] => []
  | x :: xs => le4 x.length ++ le4 off ++ sectionHeads (off + x.flatten.length) xs

/-- The summary: header, λ, and the sections from 0x60 on. -/
def summary (s : State) : List Byte :=
  let xs := sections s
  let body := (xs.map (·.flatten)).flatten
  let pos := match s.swarm with | some w => w.pos | none => 0xFF
  let n := match s.swarm with | some w => w.n | none => 1
  le2 1 ++ leBytes 1 pos ++ leBytes 1 n ++ le4 (0x60 + body.length) ++ bytesOf s.gtc ++ sectionHeads 0x60 xs ++ le4 s.lam ++
    zeros 12 ++ body

/-- RESYNC writes its summary once every line of it can be written; until then it is not over. -/
def resync (s : State) (pa size : Nat) : State :=
  let ok := match paKind s pa with | .hbm _ => true | .host => true | _ => false
  let bs := summary s
  let free := fun (s : State) => { s with mbox := { s.mbox with sync := none } }
  if !ok || !lineRange s pa size then invalid s
  else if size < bs.length then ret (dropWriter (free s) .mailbox) .invalidInput (le4 bs.length)
  else
    match writeParts s .mailbox pa [(0, bs)] with
    | (s, true) => success (free s)
    | (s, false) => { s with mbox := { s.mbox with sync := some (pa, size) } }

def execResync (pa size : Nat) (s : State) : Host.Outcome State Fault Refusal :=
  done (if s.mbox.sync == some (pa, size) then resync s pa size else command s true fun s => resync s pa size)

/-! ## FREEZE_RELEASE (R346); id is the entry's place in the freeze list that RESYNC reports (log entry 50) -/

/-- The entry that a release names. -/
def frozenAt (s : State) (kind id : Nat) : Option Frozen := (s.frozen[id]?).filter fun f => f.kind == kind

/-- Entries of the same master. -/
def Frozen.same (f g : Frozen) : Bool :=
  f.kind == g.kind && (if f.kind = 1 then f.key == g.key
    else if f.kind = 6 then f.team == g.team else f.unit == g.unit && f.die == g.die && f.lid == g.lid && f.team == g.team)
def unfreeze (s : State) (f : Frozen) : State := { s with frozen := s.frozen.filter fun g => !f.same g }

/-- The groups of a frozen team, or the frozen spawned group. -/
def Frozen.names (f : Frozen) (e : Nat × Group) : Bool := outKey e.1 e.2 == f.key

/-- The team's groups issue again, unless the team is being saved. -/
def thaw (s : State) (f : Frozen) : State :=
  let saving := fun (e : Nat × Group) =>
    (((s.launch e.2.lid).map (·.pre)).getD .none) != .none ||
      (match s.team (outKey e.1 e.2) with | some t => t.state != .resident | none => false)
  { s with groups := s.groups.map fun e =>
      if f.names e && !saving e then (e.1, { e.2 with halted := false }) else e }

/-- The command's team is out. -/
def cmdOut (s : State) (lid tid : Nat) : Bool :=
  match s.team (teamKey lid tid) with | some t => t.state == .out | none => false
/-- The frozen command that an entry of the list is about (R345). -/
def Frozen.ofCopy (f : Frozen) (c : Copy) : Bool :=
  f.kind == 2 && c.core == 48 * f.die + f.unit && c.lid == f.lid && c.tid == f.team && c.state == .frozen
def Frozen.ofAttn (f : Frozen) (c : Attn) : Bool :=
  f.kind == 3 && c.core == 48 * f.die + f.unit && c.lid == f.lid && c.tid == f.team && c.state == .frozen

/-- A frozen engine goes on with its command, or the command is stopped where its team is out. -/
def thawEngine (s : State) (f : Frozen) : State :=
  let copy := fun (c : Copy) =>
    if f.ofCopy c then (if cmdOut s c.lid c.tid then Copy.stop c 1 0 else { c with state := .running }) else c
  let attn := fun (c : Attn) =>
    if f.ofAttn c then
      if cmdOut s c.lid c.tid then Attn.stop c 1 0 else { c with state := if c.started then .running else .pending }
    else c
  let cs := s.copies.map fun (c : Nat × Copy) => (c.1, copy c.2)
  let as := s.attns.map fun (c : Nat × Attn) => (c.1, attn c.2)
  { s with copies := cs, attns := as }

/-- Peer links of an agent go to a state. -/
def setLinks (s : State) (a : Nat) (f : Link → Link) : State :=
  match s.swarm with
  | none => s
  | some w => { s with links := vtab 12 fun i => if nthD none w.table i == some a then f (vget s.links i) else vget s.links i }

/-- Resume: the master continues; its offending access is made again. -/
def releaseResume (s : State) (f : Frozen) : State :=
  let s := unfreeze s f
  match f.kind with
  | 1 => thaw s f
  | 2 => thawEngine s f
  | 3 => thawEngine s f
  | 6 => if f.viol = 3 then setLinks s f.team fun l => if l.state = 4 then { l with state := 2 } else l else s
  | _ => s

/-- FREEZE_RELEASE with action resume. -/
def execFreezeReleaseResume (kind id : Nat) (s : State) : Host.Outcome State Fault Refusal :=
  done (command s false fun s =>
    match frozenAt s kind id with
    | some f => success (releaseResume s f)
    | none => invalid s)

/-! ## Agents that fail (R229, R351) -/

/-- The waiting requests of an agent go, and snoops of it count as not held; what a retraining window holds up is met after it
(R355). -/
def forgetAgent (s : State) (a : Nat) : State :=
  let xs := s.snoops.filter fun x => x.agent == a
  let s := { s with
    snoops := s.snoops.filter fun x => x.agent != a,
    reqs := s.reqs.filter fun r => match r.2.kind with | .ext b _ => b != a | _ => true,
    slices := s.slices.filter fun d => paKind s (128 * d.1) != .peer a }
  xs.foldl (fun s x =>
    let s := resolve s x.line
    if inHbm (128 * x.line) && !inHostBias s x.line && !inWindow s x.line then snooped s x.line a x none else s) s

/-- The agent is declared failed: it is marked down, a mailbox event is posted, and what waits on it completes (R351 phases
1 and 2). -/
def declareFailed (s : State) (a : Nat) : State :=
  let s := { s with
    agents := vset s.agents a { agent s a with down := true }, mbox := { s.mbox with events := s.mbox.events ++ [a] } }
  forgetAgent s a

/-- End: the work of the frozen master ends (R346). -/
def releaseEnd (s : State) (f : Frozen) : State :=
  let s := unfreeze s f
  let core := 48 * f.die + f.unit
  match f.kind with
  | 1 =>
    let out := (s.teams.filter fun t => t.1 == f.key && t.2.state == .out).map (·.1)
    let s := out.foldl endSaved s
    ((s.groups.filter f.names).map (·.1)).foldl endGroup s
  | 2 =>
    let fin := fun (c : Copy) =>
      if f.ofCopy c then { c with state := .running, started := true, status := 8, want := [] } else c
    let cs := s.copies.map fun (c : Nat × Copy) => (c.1, fin c.2)
    { s with copies := cs }
  | 3 =>
    let fin := fun (c : Attn) =>
      if f.ofAttn c then { c with state := .running, started := false, status := 8 } else c
    let as := s.attns.map fun (c : Nat × Attn) => (c.1, fin c.2)
    { s with attns := as }
  | 4 =>
    let fin := fun (t : Trav) =>
      if tveCore t.core == core then { t with ending := some (t.ending.getD 5), fault := none } else t
    let mine := fun (p : PFault) => p.kind == 2 && match Store.find s.travs p.who with
      | some t => tveCore t.core == core && t.lid == p.lid
      | none => false
    let ts := s.travs.map fun (t : Nat × Trav) => (t.1, fin t.2)
    { s with travs := ts, pfaults := s.pfaults.filter fun p => !mine p }
  | 6 =>
    (declareFailed (setLinks s f.team fun l => { l with state := 0, downAt := s.gtc.toNat }) f.team).emit (.failure f.team)
  | _ => s

def execFreezeReleaseEnd (kind id : Nat) (s : State) : Host.Outcome State Fault Refusal :=
  done (command s false fun s =>
    match frozenAt s kind id with
    | some f => success (releaseEnd s f)
    | none => invalid s)

/-! ## BIAS_SET and page flips (R340) -/

/-- The run of pages is HBM of the package. -/
def pagesOk (pa count : Nat) : Bool :=
  pa % 65536 == 0 && decide (1 ≤ count) && decide (count ≤ 16384) && inHbm pa && inHbm (pa + 65536 * count - 1) &&
    dieOfPa pa == dieOfPa (pa + 65536 * count - 1)

def pageReplicated (s : State) (page : Nat) : Bool := replicatedLine s (512 * page)

/-- Begin the flip of the first page of a background command. -/
def startFlip (s : State) : State :=
  match s.mbox.bg with
  | some (.bias host (p :: _)) => { s with flips := [⟨p, host⟩] }
  | _ => { s with flips := [] }

def biasSet (s : State) (host : Bool) (pa count : Nat) : State :=
  let pages := (List.range count).map fun i => pa / 65536 + i
  if !pagesOk pa count || (host && pages.any (pageReplicated s)) then invalid s
  else
    let todo := pages.filter fun p => Store.getD false s.hostBias p != host
    startFlip { s with mbox := { s.mbox with code := .background, payload := [], bg := some (.bias host todo), bgDone := false } }

def execBiasSetHost (pa count : Nat) (s : State) : Host.Outcome State Fault Refusal :=
  done (command s false fun s => biasSet s true pa count)
def execBiasSetDevice (pa count : Nat) (s : State) : Host.Outcome State Fault Refusal :=
  done (command s false fun s => biasSet s false pa count)

/-- Lines of a page. -/
def pageLines (page : Nat) : List Nat := (List.range 512).map fun i => 512 * page + i

/-- Peers that hold a line and are up. -/
def peersOf (s : State) (line : Nat) : List Nat :=
  match lineState s line with
  | .shared => (sharers s line).filter (· != 0)
  | .exclusive | .owned | .modified => [elyOwner (elyRaw s line)].filter (· != 0)
  | _ => []

/-- A line keeps a flip waiting: it is held by a command or a commit, its channel is in a window, or an answer about it is
outstanding. -/
def lineBusy (s : State) (line : Nat) : Bool :=
  engineHeld s line || inWindow s line || lineState s line == .locked || s.snoops.any fun x => x.line == line

/-- To host bias: peers' copies are recalled, and leases run out; then slices' copies are written back, and every line is
HOST-BIAS. -/
def flipToHost (s : State) (page : Nat) : Option State × State :=
  let ls := pageLines page
  let s := ls.foldl resolve s
  let held := ls.filter fun l => !(peersOf s l).isEmpty
  if ls.any fun l => engineHeld s l || inWindow s l then (none, s)
  else if !held.isEmpty then (none, held.foldl (fun s l => callSharers s l (peersOf s l)) s)
  else if ls.any fun l => lineBusy s l || !leaseOver s l then (none, s)
  else
    let s := ls.foldl (fun s l => setEly (giveBack s l none) l (mkEly 0 0 6)) s
    (some { s with hostBias := Store.putD false s.hostBias page true }, s)

/-- To device bias: each line is taken from the host with RdOwn, and written to HBM. -/
def flipToDevice (s : State) (page : Nat) : Option State × State :=
  let ls := pageLines page
  let need := ls.filter fun l => !(((Store.find s.slices l).map (·.own)).getD false)
  if ls.any fun l => engineHeld s l || inWindow s l then (none, s)
  else if !need.isEmpty then (none, need.foldl (fun s l => snoop s l 0 true true (.request 0 (askAddr s l) true)) s)
  else if ls.any fun l => lineBusy s l || !leaseOver s l then (none, s)
  else
    let s := { s with hostBias := Store.putD false s.hostBias page false }
    let s := ls.foldl (fun s l => setEly (giveBack s l none) l 0) s
    (some s, s)

/-- PAGE_FLIP: the page at the head of the run flips once what holds it is gone. -/
def pageFlip (s : State) (page : Nat) : State :=
  match s.mbox.bg with
  | some (.bias host (p :: rest)) =>
    if p != page then s
    else
      match if host then flipToHost s page else flipToDevice s page with
      | (none, s) => s
      | (some s, _) => startFlip { s with mbox := { s.mbox with bg := some (.bias host rest) } }
  | _ => s

def execPageFlip (page : Nat) (s : State) : Host.Outcome State Fault Refusal := done (pageFlip s page)

/-- BACKGROUND_COMPLETE: a bias command whose pages have flipped completes; a pre-emption writes the next launch record, or
completes (R327, R341). -/
def backgroundStep (s : State) : State :=
  match s.mbox.bg with
  | some (.bias _ []) => { s with mbox := { s.mbox with bg := none, bgDone := true } }
  | some (.preempt ls base next) => saveLaunch s ls base next
  | _ => s

def execBackgroundComplete (s : State) : Host.Outcome State Fault Refusal := done (backgroundStep s)

/-! ## Memory commands (R155, R220, R231, R239, R241) -/

def execLeaseSet (lam : Nat) (s : State) : Host.Outcome State Fault Refusal :=
  done (command s false fun s => check s (decide (1 ≤ lam) && decide (lam ≤ 4095)) fun s => { s with lam := lam })

/-- PLACEMENT_READ returns counters of a stack's regions, and clears them if asked. -/
def placementRead (s : State) (die stack first count : Nat) (clear : Bool) : State :=
  if 8 ≤ die ∨ 2 ≤ stack ∨ 500 < count ∨ 24576 < first + count then invalid s
  else
    let ks := (List.range count).map fun i => (die * 0x2000000000 + stack * 0xC00000000) / 0x200000 + first + i
    let bs := ks.flatMap fun k => bytesOf (Store.getD 0 s.counts k)
    let zero := fun (m : List (Nat × W64)) (k : Nat) => Store.putD 0 m k 0
    ret (if clear then { s with counts := ks.foldl zero s.counts } else s) .success bs

def execPlacementRead (die stack first count : Nat) (clear : Bool) (s : State) : Host.Outcome State Fault Refusal :=
  done (command s false fun s => placementRead s die stack first count clear)

def execLosslogSet (base size : Nat) (s : State) : Host.Outcome State Fault Refusal :=
  done (command s false fun s =>
    let ok := base % 16 == 0 && size % 16 == 0 &&
      (size == 0 || (inHbm base && inHbm (base + size - 1) && dieOfPa base == dieOfPa (base + size - 1)))
    check s ok fun s =>
      if size = 0 then { s with loss := { s.loss with base := 0, size := 0 } }
      else { s with loss := { s.loss with base := base, size := size, next := 0 } })

def execAspaceSet (id root : Nat) (s : State) : Host.Outcome State Fault Refusal :=
  done (command s false fun s =>
    if 256 ≤ id ∨ root % 4096 ≠ 0 ∨ !inHbm root then invalid s
    else if s.launches.any fun l => l.2.asp == id then busy s
    else success { s with aspaces := Store.put s.aspaces id root })

/-- What a TLB_INVAL names. -/
def TlbScope.names (x : Sys2Proof.TlbScope) (e : TlbEntry) : Bool :=
  match x with
  | .all => true
  | .range asp lo hi => e.asp == asp && decide (lo / 65536 ≤ e.vpn) && decide (e.vpn ≤ hi / 65536)
def TlbScope.ok : Sys2Proof.TlbScope → Bool
  | .all => true
  | .range asp lo hi => decide (asp < 256) && decide (lo ≤ hi) && decide (hi < 2 ^ 57)

def execTlbInval (scope : TlbScope) (s : State) : Host.Outcome State Fault Refusal :=
  done (command s false fun s => check s (TlbScope.ok scope) fun s => replanCopies
    { s with tlb := s.tlb.filter fun e => !TlbScope.names scope e })

/-! ## Graphs and launches (R266, R272, R326 to R329, R312) -/

def execGraphPost (die asp root prio : Nat) (s : State) : Host.Outcome State Fault Refusal :=
  done (command s false fun s =>
    if 8 ≤ die ∨ 4 ≤ prio ∨ root % 128 ≠ 0 ∨ 2 ^ 57 ≤ root ∨ (Store.find s.aspaces asp).isNone then invalid s
    else
      match postGraph s die asp root prio [] with
      | some s => success s
      | none => busy s)

/-- The graph may be released: halted, or with nothing to do but watched nodes (R272, R342). -/
def releasable (s : State) (id : Nat) (g : Graph) : Bool :=
  g.state == .halted || (g.state == .running && g.todo.isEmpty && graphIdle s id)

def graphRelease (s : State) (die root : Nat) : State :=
  let gs := s.graphs.filter fun g => g.2.die == die && g.2.root == root
  match gs.find? fun g => releasable s g.1 g.2 with
  | some (id, _) => success (dropWriter { s with graphs := Store.del s.graphs id } (.graph id))
  | none => if gs.isEmpty then invalid s else busy s

def execGraphRelease (die root : Nat) (s : State) : Host.Outcome State Fault Refusal :=
  done (command s false fun s => graphRelease s die root)

def execPreempt (sel : PreSel) (area : Nat) (migrate : Bool) (s : State) : Host.Outcome State Fault Refusal :=
  done (command s false fun s =>
    let ls := preLaunches s sel
    if ls.isEmpty || !areaOk s area then invalid s else preemptGo s ls area migrate)

/-- The launch is pre-empted and saved. -/
def isSaved (s : State) (lid : Nat) : Bool := match s.launch lid with | some l => l.pre == .saved | none => false

def execResume (lid : Nat) (s : State) : Host.Outcome State Fault Refusal :=
  done (command s false fun s => check s (isSaved s lid) fun s => resumeLaunch s lid)
def execResumeEnd (lid : Nat) (s : State) : Host.Outcome State Fault Refusal :=
  done (command s false fun s => check s (isSaved s lid) fun s => endLaunch s lid)

def execFaultDoneRetry (w : FaultWho) (s : State) : Host.Outcome State Fault Refusal :=
  done (command s false fun s => match faultDone s false w with | some s => success s | none => invalid s)
def execFaultDoneEnd (w : FaultWho) (s : State) : Host.Outcome State Fault Refusal :=
  done (command s false fun s => match faultDone s true w with | some s => success s | none => invalid s)

def execPoolSet (base count : Nat) (s : State) : Host.Outcome State Fault Refusal :=
  done (command s false fun s =>
    check s (base % slotSize == 0 && (count == 0 || lineRange s base (slotSize * count))) fun s =>
      let used := (List.range count).filter fun i => s.teams.any fun t => t.2.slot == some (base + slotSize * i)
      { s with poolBase := base, poolSize := count, poolUsed := used })

def travEnd (s : State) (lid id : Nat) : State :=
  match Store.find s.travs id with
  | none => invalid s
  | some t =>
    if t.lid != lid || t.ending.isSome then invalid s
    else success ((clearFaults s 2 lid id).setTrav id { t with ending := some 5, fault := none })

def execTravEnd (lid id : Nat) (s : State) : Host.Outcome State Fault Refusal :=
  done (command s false fun s => travEnd s lid id)

/-! ## Cores (R319, R322 to R324) -/

def execTrapbaseSet (die : Nat) (cores : BitVec 48) (va : Nat) (s : State) : Host.Outcome State Fault Refusal :=
  done (command s false fun s =>
    check s (decide (die < 8) && decide (va != 0) && va % 4 == 0 && decide (va < 2 ^ 57)) fun s =>
      ((List.range 48).filter fun c => cores.getLsbD c).foldl (fun s c =>
        let k := 48 * die + c
        s.setCore k { s.core k with trapbase := BitVec.ofNat 57 va }) s)

def execFeatClear (die : Nat) (bits : BitVec 64) (s : State) : Host.Outcome State Fault Refusal :=
  done (command s false fun s => check s (decide (die < 8) && bits >>> 3 == 0) fun s =>
    { s with feat := vset s.feat die (vget s.feat die &&& ~~~bits) })

/-- The 48 bytes of a core's debug record. -/
def debugRecord (c : Core) : List Byte :=
  (tabulate 4 fun i => nthD 0 c.bps i).flatMap bytesOf ++ bytesOf c.step ++
    leBytes 8 ((if c.sstr then 2 else 0) + (if c.tstop then 1 else 0))

/-- A core with the debug record written; none where a reserved bit is set. -/
def debugCore (c : Core) (r : BitVec 384) : Option Core :=
  if ((List.range 4).any fun i => bits r (64 * i + 57) 5 != 0) || bits r 322 62 != 0 then none
  else some { c with
    bps := tabulate 4 fun i => bits r (64 * i) 64, step := bits r 256 64, sstr := bit r 321, tstop := bit r 320 }

/-! ## DEBUG of a physical range (R359) -/

/-- The lines of a range are mapped, and window parts are as R20 has them. -/
def debugRangeOk (s : State) (pa n : Nat) : Bool :=
  decide (1 ≤ n) && decide (n ≤ 4096) && decide (pa + n ≤ 2 ^ 52) && (splitRange 128 pa n).all fun c =>
    match paKind s c.1 with
    | .unmapped => false
    | .window =>
      let x := (c.1 - 0x10000000000) % 0x400000
      (decide (0x100000 ≤ x) && decide (x < 0x160000)) || (c.1 % 4 == 0 && c.2 % 4 == 0)
    | _ => true

/-- The source number of DEBUG's writes to windows, while they are in flight (R21). -/
def dbgSrc : Nat := 2 ^ 42
/-- The key in the picks of the lines before which a DEBUG access stays for this step (R359). -/
def pkDbg : Nat := 64 * 407

/-- Bytes within one line as DEBUG reads them, whatever their check values; a line that cannot be read yet is asked for. -/
def debugLine (s : State) (pa n : Nat) : State × Option (List Byte) :=
  match paKind s pa with
  | .window => (s, some (tabulate n fun i => winByte s dbgSrc (pa + i - 0x10000000000)))
  | _ =>
    let s := resolve s (pa / 128)
    match homeLine s (pa / 128) with
    | none => (askRead s (pa / 128), none)
    | some .bad => ({ s with free := s.free + n }, some (tabulate n fun i => (Config.undefWord (s.free + i)).truncate 8))
    | some src => (s, some (srcBytes s src pa n))

/-- One line of a DEBUG write, as a local master's: of a replicated page, every replica (R234); none while it must wait. -/
def debugPut (s : State) (pa : Nat) (bs : List Byte) : State × Bool :=
  if paKind s pa == .window then (winWrite s dbgSrc (pa - 0x10000000000) bs, true)
  else engWrite s .mailbox pa bs (lineRepl s (pa / 128))

/-- A DEBUG access is over: its writes to windows are no longer in flight, and the shadows of the registers that they reached are
TOP (R21, R34). -/
def debugEnd (s : State) (d : DbgRun) : State :=
  let s := dropOlds { s with mbox := { s.mbox with dbg := none } } dbgSrc
  let s := if d.write && paKind s d.pa == .window then
      (splitRange 128 d.pa d.n).foldl (fun s c => winShadow s (c.1 - 0x10000000000) c.2) s
    else s
  ret s .success (if d.write then [] else d.bytes)

/-- The lines of a DEBUG access that are left, in ascending order: other agents may act between any two of them, and before its
end (R359). -/
def debugGo : List (Nat × Nat) → State → DbgRun → State
  | [], s, d =>
    if (pickMask s.picks pkDbg).getLsbD d.lines then { s with mbox := { s.mbox with dbg := some d } } else debugEnd s d
  | c :: cs, s, d =>
    let stay := fun (s : State) => { s with mbox := { s.mbox with dbg := some d } }
    if (pickMask s.picks pkDbg).getLsbD d.lines then stay s
    else if d.write then
      match debugPut s c.1 ((d.bytes.drop (c.1 - d.pa)).take c.2) with
      | (s, true) => debugGo cs s { d with lines := d.lines + 1 }
      | (s, false) => stay s
    else
      match debugLine s c.1 c.2 with
      | (s, some bs) => debugGo cs s { d with bytes := d.bytes ++ bs, lines := d.lines + 1 }
      | (s, none) => stay s

/-- A DEBUG access of a range goes on, or begins. -/
def debugRange (s : State) (pa n : Nat) (write : Bool) (bs : List Byte) : State :=
  let go := fun (d : DbgRun) => debugGo ((splitRange 128 pa n).drop d.lines) s d
  match s.mbox.dbg with
  | some d => if d.pa = pa ∧ d.n = n ∧ d.write = write then go d else s
  | none =>
    command s true fun s =>
      if debugRangeOk s pa n then debugGo (splitRange 128 pa n) s ⟨pa, n, write, bs, 0⟩ else invalid s

def execDebugRead (w : DbgWhat) (s : State) : Host.Outcome State Fault Refusal :=
  done (match w with
    | .core die c =>
      command s true fun s =>
        if 8 ≤ die ∨ 48 ≤ c then invalid s else ret s .success (debugRecord (s.core (48 * die + c)))
    | .range pa n => debugRange s pa n false [])

def execDebugWrite (w : DbgWhat) (bytes : List (BitVec 8)) (s : State) : Host.Outcome State Fault Refusal :=
  done (match w with
    | .core die c =>
      command s true fun s =>
        if 8 ≤ die ∨ 48 ≤ c ∨ bytes.length ≠ 48 then invalid s
        else
          match debugCore (s.core (48 * die + c)) (ofBytes 384 bytes) with
          | some x => success (s.setCore (48 * die + c) x)
          | none => invalid s
    | .range pa n => if bytes.length = n then debugRange s pa n true bytes else command s true invalid)

/-! ## Protection and the swarm (R345, R350) -/

def execProtectSet (index pa size : Nat) (flags : BitVec 3) (s : State) : Host.Outcome State Fault Refusal :=
  done (command s false fun s => check s (decide (index < 16) && decide (pa + size ≤ 2 ^ 52)) fun s =>
    { s with regions := Store.put s.regions index ⟨pa, size, flags⟩ })

/-- The link table names present packages, and every other package has a link. -/
def swarmOk (pos n : Nat) (table : List (Option Nat)) : Bool :=
  decide (1 ≤ n) && decide (n ≤ 8) && decide (pos < n) && table.length == 12 &&
    (table.all fun a => match a with | some a => decide (1 ≤ a) && decide (a ≤ 7) && decide ((pos + a) % 8 < n) | none => true) &&
    (List.range 8).all fun q => decide (n ≤ q) || q == pos || table.contains (some ((q + 8 - pos) % 8))

/-- A link of the table trains when it is newly assigned, and is unassigned when the table names no agent for it. -/
def relink (old new : Option Nat) (l : Link) : Link :=
  match new with
  | none => { l with state := 5 }
  | some _ => if old == new && l.state != 5 then l else { l with state := 1 }

def execSwarmSet (pos n : Nat) (table : List (Option Nat)) (s : State) : Host.Outcome State Fault Refusal :=
  done (command s false fun s => check s (swarmOk pos n table) fun s =>
    let old := fun i => match s.swarm with | some w => nthD none w.table i | none => none
    { s with swarm := some ⟨pos, n, table⟩, links := vtab 12 fun i => relink (old i) (nthD none table i) (vget s.links i) })

end Sys2Proof.Machine
end

