-- ==== Sys2Proof/Machine/LaneCross.lean ====
section
/-!
DEFINITION. LaneCross.lean: the cross-lane words (spec/08_lane_instructions.md R129 to R133).
-/
namespace Sys2Proof.Machine

open Sys2Proof

/-- The value that lane j of Va supplies: 0 outside the live mask (R129). -/
def srcLane (s : State) (gid : Nat) (g : Group) (ty : Ty) (a : BitVec 8) (j : Nat) : Nat :=
  if g.live.getLsbD j then vVal s gid g ty a j else 0

/-- The source lane of a shuffle at width w, none when it lies outside the group (R130). -/
def shflFrom (w : Nat) (mode : Shfl) (l k : Nat) : Option Nat :=
  match mode with
  | .idx => some (k % w)
  | .up => if k ≤ l then some (l - k) else none
  | .down => if l + k < w then some (l + k) else none
  | .xor => some (l ^^^ (k % w))

def execXshfl (m : Mods) (ty : Ty) (mode : Shfl) (d a : BitVec 8) (b : OpB) (s : State) :
    Host.Outcome State Fault Refusal :=
  withCur s fun gid g =>
    laneV s gid g m (vRegs ty d ++ vRegs ty a ++ bRegs .i32 b) ty d .top fun l =>
      srcLane s gid g ty a ((shflFrom g.width mode l (bVal s gid g .i32 b l)).getD l)

def execXbcast (m : Mods) (ty : Ty) (d a : BitVec 8) (b : OpB) (s : State) : Host.Outcome State Fault Refusal :=
  withCur s fun gid g =>
    let low := lowBit 64 (effMask s.picks g m).toNat
    laneV s gid g m (vRegs ty d ++ vRegs ty a ++ bRegs .i32 b) ty d .top fun _ =>
      srcLane s gid g ty a (bVal s gid g .i32 b low % g.width)

/-- The writes of a uniform result, one word a register from d on: every effective lane of V registers, or S registers
whole, with exact shadows (R129). -/
def uniWrites (g : Group) (d : Dst) (eff : Mask) (ws : List W32) : List PWrite :=
  match d with
  | .s n => (ws.mapIdx fun i v => wS g (n.toNat + i) v (Shadow.exact v)).flatten
  | .v n =>
    if eff == 0 then []
    else ws.mapIdx fun i v =>
      .v (n.toNat + i) eff (tabulate g.width fun _ => v) (partialSh g (n.toNat + i) eff (Shadow.exact v)) false

/-- V registers among the k registers from d on. -/
def dstRegs (k : Nat) : Dst → List Nat
  | .v n => runRegs n k
  | .s _ => []

def execXballot (m : Mods) (d : Dst) (a : BitVec 3) (s : State) : Host.Outcome State Fault Refusal :=
  withCur s fun gid g =>
    let eff := effMask s.picks g m
    let t := pRead s.picks g a.toNat &&& eff
    let ws := if g.width = 64 then [bits t 0 32, bits t 32 32] else [bits t 0 32]
    inQuota s gid g (dstRegs ws.length d) (issueL s gid g (uniWrites g d eff ws) m.sw)

/-- The outcome of a vote (R132). -/
def voteResult (mode : Vote) (t e : Mask) : Bool :=
  match mode with
  | .all => t == e
  | .any => t != 0
  | .uni => t == 0 || t == e

def execXvote (m : Mods) (mode : Vote) (d : Dst) (a : BitVec 3) (s : State) : Host.Outcome State Fault Refusal :=
  withCur s fun gid g =>
    let eff := effMask s.picks g m
    let t := pRead s.picks g a.toNat &&& eff
    inQuota s gid g (dstRegs 1 d)
      (issueL s gid g (uniWrites g d eff [if voteResult mode t eff then 1 else 0]) m.sw)

/-! ## Scans and reductions (R133) -/

/-- The identity of an operation at a type, as a W-bit pattern. -/
def scanIdentity (op : XOp) (ty : Ty) : Nat :=
  match op with
  | .add | .or | .xor => 0
  | .and => 2 ^ tyW ty - 1
  | .min => if ty = .f32 then 0x7F800000 else wr ty false (tyMax ty.signed (tyW ty))
  | .max => if ty = .f32 then 0xFF800000 else wr ty false (tyMin ty.signed (tyW ty))

/-- One step of the operation, with its flags. -/
def scanStep (v : Fenv) (op : XOp) (ty : Ty) (x y : Nat) : Fres :=
  match op with
  | .add =>
    if ty = .f32 then (fmtOf .f32).addV v ((fmtOf .f32).read v.daz x) ((fmtOf .f32).read v.daz y)
    else (wr ty false (rd ty x + rd ty y), 0)
  | .min => if ty = .f32 then (fmtOf .f32).minmax v false x y else (wr ty false (min (rd ty x) (rd ty y)), 0)
  | .max => if ty = .f32 then (fmtOf .f32).minmax v true x y else (wr ty false (max (rd ty x) (rd ty y)), 0)
  | .and => (x &&& y, 0)
  | .or => (x ||| y, 0)
  | .xor => (x ^^^ y, 0)

/-- What a lane of a scan gets: the value before its step, after it, and the flags of its step. -/
structure ScanLane where
  lane   : Nat
  before : Nat
  after  : Nat
  flags  : BitVec 6
  deriving DecidableEq, Repr

/-- The steps over the lanes that contribute, in ascending order (R133). -/
def scanFrom (v : Fenv) (op : XOp) (ty : Ty) : Nat → List (Nat × Nat) → List ScanLane
  | _, [] => []
  | x, (l, a) :: rest =>
    let r := scanStep v op ty x a
    ⟨l, x, r.1, r.2⟩ :: scanFrom v op ty r.1 rest

/-- The whole scan: the first lane takes no step. -/
def scan (v : Fenv) (op : XOp) (ty : Ty) : List (Nat × Nat) → List ScanLane
  | [] => []
  | (l, a) :: rest => ⟨l, scanIdentity op ty, a, 0⟩ :: scanFrom v op ty a rest

/-- The scan of a word: the effective lanes of Va. -/
def laneScan (s : State) (gid : Nat) (g : Group) (m : Mods) (ty : Ty) (rm : Rm) (op : XOp) (a : BitVec 8) :
    List ScanLane :=
  scan (fenv g.lmode rm) op ty ((lanesOf (effMask s.picks g m)).map fun l => (l, vVal s gid g ty a l))

/-- The entry of a lane. -/
def scanAt (r : List ScanLane) (l : Nat) : ScanLane := (r.find? fun e => e.lane == l).getD ⟨l, 0, 0, 0⟩

/-- Issue a scan or a reduction: at F32 it can raise flags, and trap; integer types can raise none (R173). -/
def scanned (s : State) (gid : Nat) (g : Group) (m : Mods) (ty : Ty) (eff : Mask) (fl : Nat → BitVec 6) (ws : List PWrite) :
    State :=
  if ty = .f32 then flagged s gid g m eff fl ws else issueL s gid g ws m.sw

def execXprefix (m : Mods) (ty : Ty) (rm : Rm) (op : XOp) (excl : Bool) (d a : BitVec 8) (s : State) :
    Host.Outcome State Fault Refusal :=
  withCur s fun gid g =>
    inQuota s gid g (vRegs ty d ++ vRegs ty a)
      (let eff := effMask s.picks g m
       let r := laneScan s gid g m ty rm op a
       scanned s gid g m ty eff (fun l => (scanAt r l).flags)
         (if eff == 0 then [] else wV g ty d eff .top fun l => if excl then (scanAt r l).before else (scanAt r l).after))

def execXreduce (m : Mods) (ty : Ty) (rm : Rm) (op : XOp) (d : Dst) (a : BitVec 8) (s : State) :
    Host.Outcome State Fault Refusal :=
  withCur s fun gid g =>
    inQuota s gid g (dRegs ty d ++ vRegs ty a)
      (let eff := effMask s.picks g m
       let r := laneScan s gid g m ty rm op a
       let v := ((r.getLast?).map (·.after)).getD (scanIdentity op ty)
       let fl := r.foldl (fun f e => f ||| e.flags) 0
       let ws := if ty.is64 then [BitVec.ofNat 32 v, BitVec.ofNat 32 (v / 2 ^ 32)] else [BitVec.ofNat 32 v]
       scanned s gid g m ty eff (fun _ => fl) (uniWrites g d eff ws))

end Sys2Proof.Machine
end

