-- ==== Sys2Proof/Machine/Crypto.lean ====
section
/-!
DEFINITION. Crypto.lean: SHA-512, and Ed25519 with and without prehash, which spec/28_host_and_swarm.md R347 and R348 name
by their standards (FIPS 180-4, RFC 8032; log entry 89: PRESUMED).
-/
namespace Sys2Proof.Machine

open Sys2Proof

/-! ## SHA-512 -/

/-- The first n primes (n up to 80). -/
def primes (n : Nat) : List Nat :=
  ((List.range 410).filter fun p => decide (2 ≤ p) && (List.range p).all fun q => decide (q < 2) || p % q != 0).take n

/-- The largest r below 2^70 with r^k at most x. -/
def introot (k x : Nat) : Nat :=
  (List.range 70).reverse.foldl (fun r i => if (r + 2 ^ i) ^ k ≤ x then r + 2 ^ i else r) 0

/-- 64 bits of the fractional parts of square roots, and of cube roots, of primes. -/
def shaInit : List (BitVec 64) := (primes 8).map fun p => BitVec.ofNat 64 (introot 2 (p * 2 ^ 128))
def shaConsts : List (BitVec 64) := (primes 80).map fun p => BitVec.ofNat 64 (introot 3 (p * 2 ^ 192))

/-- The message padded to whole blocks of 128 bytes. -/
def shaPad (m : List Byte) : List Byte :=
  m ++ [0x80] ++ tabulate ((239 - m.length % 128) % 128) (fun _ => 0) ++ (leBytes 16 (8 * m.length)).reverse

/-- The 80 words of a block. -/
def shaWords (b : List Byte) : List (BitVec 64) :=
  (List.range 64).foldl (fun ws i =>
    let w := fun j => nthD 0 ws (i + j)
    let x := w 14
    let y := w 1
    let s1 := x.rotateRight 19 ^^^ x.rotateRight 61 ^^^ (x >>> 6)
    let s0 := y.rotateRight 1 ^^^ y.rotateRight 8 ^^^ (y >>> 7)
    ws ++ [s1 + w 9 + s0 + w 0]) (tabulate 16 fun i => ofBytes 64 ((b.drop (8 * i)).take 8).reverse)

/-- One block. -/
def shaBlock (h : List (BitVec 64)) (b : List Byte) : List (BitVec 64) :=
  let r := ((shaWords b).zip shaConsts).foldl (fun v x =>
    let g := fun i => nthD 0 v i
    let e := g 4
    let a := g 0
    let t1 := g 7 + (e.rotateRight 14 ^^^ e.rotateRight 18 ^^^ e.rotateRight 41) + ((e &&& g 5) ^^^ (~~~e &&& g 6)) + x.2 + x.1
    let t2 := (a.rotateRight 28 ^^^ a.rotateRight 34 ^^^ a.rotateRight 39) + ((a &&& g 1) ^^^ (a &&& g 2) ^^^ (g 1 &&& g 2))
    [t1 + t2, a, g 1, g 2, g 3 + t1, e, g 5, g 6]) h
  (h.zip r).map fun x => x.1 + x.2

/-- The 64 bytes of a digest. -/
def sha512 (m : List Byte) : List Byte :=
  let p := shaPad m
  ((List.range (p.length / 128)).foldl (fun h i => shaBlock h ((p.drop (128 * i)).take 128)) shaInit).flatMap
    fun w => (bytesOf w).reverse

/-! ## Ed25519 -/

namespace Ed

def p : Nat := 2 ^ 255 - 19
/-- The order of the base point. -/
def order : Nat := 2 ^ 252 + 27742317777372353535851937790883648493
def mul (a b : Nat) : Nat := a * b % p
def sub (a b : Nat) : Nat := (a + p - b % p) % p
def pow (a e : Nat) : Nat :=
  (List.range 256).reverse.foldl (fun r i => let q := mul r r; if e.testBit i then mul q a else q) 1
def inv (a : Nat) : Nat := pow a (p - 2)
def d : Nat := mul (p - 121665) (inv 121666)

/-- A point of the curve: X, Y, Z for x = X / Z and y = Y / Z. -/
abbrev Point := Nat × Nat × Nat

def add (a b : Point) : Point :=
  let z := mul a.2.2 b.2.2
  let x := mul a.1 b.1
  let y := mul a.2.1 b.2.1
  let e := mul d (mul x y)
  let f := sub (mul z z) e
  let g := mul z z + e
  let cross := mul a.1 b.2.1 + mul a.2.1 b.1
  (mul (mul z f) cross, mul (mul z g) (x + y), mul f g)

/-- n times a point, n below 2^256. -/
def scale (n : Nat) (a : Point) : Point :=
  (List.range 256).reverse.foldl (fun r i => let q := add r r; if n.testBit i then add q a else q) (0, 1, 1)

/-- The x and y of a point. -/
def affine (a : Point) : Nat × Nat := (mul a.1 (inv a.2.2), mul a.2.1 (inv a.2.2))

/-- The x of a point with this y and this lowest bit of x. -/
def xOf (y s : Nat) : Option Nat :=
  let y2 := mul y y
  let x2 := mul (sub y2 1) (inv (mul d y2 + 1))
  let r := pow x2 ((p + 3) / 8)
  let x := if mul r r = x2 then r else mul r (pow 2 ((p - 1) / 4))
  if mul x x != x2 || (x == 0 && s == 1) then none else some (if x % 2 = s then x else p - x)

def base : Point :=
  let y := mul 4 (inv 5)
  ((xOf y 0).getD 0, y, 1)

def decode (bs : List Byte) : Option Point :=
  let n := leNat bs
  let y := n % 2 ^ 255
  if bs.length != 32 || decide (p ≤ y) then none else (xOf y (n / 2 ^ 255)).map fun x => (x, y, 1)
def encode (a : Point) : List Byte := let q := affine a; leBytes 32 (q.2 + 2 ^ 255 * (q.1 % 2))

/-- The characters of a string as bytes. -/
def ascii (t : String) : List Byte := t.toList.map fun c => BitVec.ofNat 8 c.toNat

/-- What Ed25519ph puts before what it hashes: no context. -/
def domPh : List Byte := ascii "SigEd25519 no Ed25519 collisions" ++ [1, 0]

/-- A signature under a public key of what is given, already hashed where a prehash is. -/
def verify (dom key m sig : List Byte) : Bool :=
  match decode key, decode (sig.take 32) with
  | some a, some r =>
    let s := leNat (sig.drop 32)
    let k := leNat (sha512 (dom ++ sig.take 32 ++ key ++ m)) % order
    sig.length == 64 && decide (s < order) && affine (scale s base) == affine (add r (scale k a))
  | _, _ => false

/-- The signature of bytes by the key of a 32-byte seed. -/
def sign (seed m : List Byte) : List Byte :=
  let h := sha512 seed
  let n := leNat (h.take 32)
  let a := n % 2 ^ 254 / 8 * 8 + 2 ^ 254
  let key := encode (scale a base)
  let r := leNat (sha512 (h.drop 32 ++ m)) % order
  let rb := encode (scale r base)
  let k := leNat (sha512 (rb ++ key ++ m)) % order
  rb ++ leBytes 32 ((r + k * a) % order)

end Ed

end Sys2Proof.Machine
end

