-- ==== Sys2Proof/Machine/Platform.lean ====
section
/-!
DEFINITION. Platform.lean: firmware and identity (spec/28_host_and_swarm.md R347, R348), links and the failure of agents
(R229, R230, R349, R351), and power, clocks, temperature, retraining and telemetry (spec/30_platform.md R352 to R357).
-/
namespace Sys2Proof.Machine

open Sys2Proof

/-! ## Firmware (R347) -/

/-- Body limit: 64 MiB. -/
def imageLimit : Nat := 0x4000000

def fwStage (s : State) (off : Nat) (bs : List Byte) : State :=
  check s (decide (bs.length ≤ 4032) && decide (off + bs.length ≤ 256 + imageLimit)) fun s =>
    { s with fw := { s.fw with staged := Store.putsD 0 s.fw.staged off bs } }

def execFwStage (off : Nat) (bytes : List (BitVec 8)) (s : State) : Host.Outcome State Fault Refusal :=
  done (command s false fun s => fwStage s off bytes)

/-- Bytes of an image as a field. -/
def imageField (bs : List Byte) (off n : Nat) : Nat := leNat ((bs.drop off).take n)

/-- The staged image: the header's 256 bytes and the body. -/
def stagedImage (f : Firmware) : List Byte :=
  let at_ := fun i => Store.getD 0 f.staged i
  let size := leNat (tabulate 4 fun i => at_ (0x10 + i))
  tabulate (256 + min size imageLimit) at_

/-- The key of an image is that of its slot, and not revoked. -/
def keyOk (f : Firmware) (bs : List Byte) : Bool :=
  let k := imageField bs 0x0C 1 % 4
  sha512 (Config.publicKey bs) == bytesOf (nthD 0 f.keys k) && !bit f.revoked k

/-- The signature of an image: of header bytes 0x00 to 0x3F and the body, hashed first. -/
def signatureOk (bs : List Byte) : Bool :=
  Ed.verify Ed.domPh (Config.publicKey bs) (sha512 (bs.take 0x40 ++ bs.drop 0x100)) ((bs.drop 0x40).take 64)

/-- The checks of FW_ACTIVATE: magic, key, signature, security version, and the fields' values. -/
def imageOk (f : Firmware) (bs : List Byte) : Bool :=
  imageField bs 0 4 == 0x51584657 && decide (imageField bs 0x10 4 ≤ imageLimit) && decide (imageField bs 8 4 ≤ 255) &&
    keyOk f bs && signatureOk bs && decide (f.minSvn.toNat ≤ imageField bs 8 4)

def fwActivate (s : State) (commit : Bool) : State :=
  let im := stagedImage s.fw
  check s (imageOk s.fw im) fun s =>
    { s with fw := { s.fw with
        ready := some im, minSvn := if commit then BitVec.ofNat 8 (imageField im 8 4) else s.fw.minSvn } }

def execFwActivate (commit : Bool) (s : State) : Host.Outcome State Fault Refusal :=
  done (command s false fun s => fwActivate s commit)

/-- At module reset a verified image takes effect, after the same check again; staging is empty. -/
def Firmware.reset (f : Firmware) : Firmware :=
  let running := match f.ready with | some im => if imageOk f im then im else f.running | none => f.running
  { f with staged := [], ready := none, running := running }

/-! ## Attestation (R348) -/

/-- The port can carry a message: the host's DOE from phase 1 on, a link that attests or is up. -/
def portOpen (s : State) : Port → Bool
  | .host => s.plat.phase == 1 || s.plat.phase == 2 || s.plat.phase == 3
  | .link pl => decide (pl < 12) && ((vget s.links pl).state == 2 || (vget s.links pl).state == 3)

/-- The number under which a requester's transcript is kept. -/
def portNum : Port → Nat
  | .host => 0
  | .link pl => pl + 1
def transcript (s : State) (p : Port) : Transcript := (Store.find s.spdm (portNum p)).getD ⟨[], []⟩

/-- Answer a request on a port: `f` is what the transcript becomes (R348). -/
def spdmReply (s : State) (p : Port) (f : Transcript → Transcript) (body : List Byte) : State :=
  if portOpen s p then
    ({ s with spdm := Store.put s.spdm (portNum p) (f (transcript s p)) } : State).emit (.spdm p body)
  else s

/-- An SPDM message: version, code, two parameters, contents; the formats are SPDM 1.2's (log entry 42: PRESUMED). -/
def spdmMsg (version code p1 p2 : Nat) (bs : List Byte) : List Byte :=
  [BitVec.ofNat 8 version, BitVec.ofNat 8 code, BitVec.ofNat 8 p1, BitVec.ofNat 8 p2] ++ bs

/-- The reply to a request that is not served: InvalidRequest. -/
def spdmError : List Byte := spdmMsg 0x12 0x7F 1 0 []

/-- An exchange of the version, capability and algorithm part. -/
def Transcript.agreed (req rsp : List Byte) (t : Transcript) : Transcript := { t with vca := t.vca ++ req ++ rsp }
/-- An exchange of the digest and certificate part. -/
def Transcript.certified (req rsp : List Byte) (t : Transcript) : Transcript := { t with certs := t.certs ++ req ++ rsp }

/-- GET_VERSION begins again: version 1.2 is supported. -/
def execGetVersion (port : Port) (s : State) : Host.Outcome State Fault Refusal :=
  let req := spdmMsg 0x10 0x84 0 0 []
  let rsp := spdmMsg 0x10 0x04 0 0 ([0, 1] ++ leBytes 2 0x1200)
  done (spdmReply s port (fun _ => ⟨req ++ rsp, []⟩) rsp)

/-- The contents of a capabilities message: flags, sizes. -/
def capBody (flags : Nat) : List Byte :=
  [0, (Config.spdmSize 2).truncate 8, 0, 0] ++ leBytes 4 flags ++ bytesOf (Config.spdmSize 0) ++ bytesOf (Config.spdmSize 1)

/-- CAPABILITIES: certificates, challenges and signed measurements; no secured session is offered (R348). -/
def capabilities : List Byte := spdmMsg 0x12 0x61 0 0 (capBody 0x16)

/-- ALGORITHMS: Ed25519 and SHA-512, for measurements too (R348). -/
def algorithms : List Byte :=
  spdmMsg 0x12 0x63 0 0 (leBytes 2 36 ++ [1, 0] ++ leBytes 4 8 ++ leBytes 4 0x400 ++ leBytes 4 4 ++ zeros 16)

/-- A request (1 GET_CAPABILITIES, 2 NEGOTIATE_ALGORITHMS) whose contents are the requester's, and its reply. -/
def agree (s : State) (port : Port) (which : Nat) (rsp : List Byte) : State :=
  spdmReply { s with free := s.free + 1 } port (Transcript.agreed (Config.spdmRequest s.free which) rsp) rsp

def execGetCapabilities (port : Port) (s : State) : Host.Outcome State Fault Refusal := done (agree s port 1 capabilities)
def execNegotiateAlgorithms (port : Port) (s : State) : Host.Outcome State Fault Refusal := done (agree s port 2 algorithms)

/-- The digest of the certificate chain. -/
def chainDigest : List Byte := sha512 Config.certChain

def execGetDigests (port : Port) (s : State) : Host.Outcome State Fault Refusal :=
  let rsp := spdmMsg 0x12 0x01 0 1 chainDigest
  done (spdmReply s port (Transcript.certified (spdmMsg 0x12 0x81 0 0 []) rsp) rsp)

/-- A part of the chain, with the lengths of the part and of what follows; slots other than 0 hold none. -/
def certReply (slot off len : Nat) : List Byte :=
  let bs := (Config.certChain.drop off).take len
  if slot = 0 ∧ off < Config.certChain.length then
    spdmMsg 0x12 0x02 0 0 (leBytes 2 bs.length ++ leBytes 2 (Config.certChain.length - off - bs.length) ++ bs)
  else spdmError

def execGetCertificate (port : Port) (slot off len : Nat) (s : State) : Host.Outcome State Fault Refusal :=
  let rsp := certReply slot off len
  done (spdmReply s port (Transcript.certified (spdmMsg 0x12 0x82 slot 0 (leBytes 2 off ++ leBytes 2 len)) rsp) rsp)

/-- What a signature of one purpose is of. -/
def spdmSigned (what : String) (m : List Byte) : List Byte :=
  let name := Ed.ascii what
  let four := (List.range 4).flatMap fun _ => Ed.ascii "dmtf-spdm-v1.2.*"
  four ++ zeros (36 - name.length) ++ name ++ sha512 m

/-- The signature of the module's identity key over a transcript, for one purpose. -/
def spdmSign (what : String) (m : List Byte) : List Byte := Ed.sign Config.identitySeed (spdmSigned what m)

/-- A nonce of the module's. -/
def ownNonce (n : Nat) : List Byte := tabulate 32 fun i => (Config.undefWord (n + i)).truncate 8

/-! ### The package's own exchange with a peer -/

/-- What the package asks a peer before the certificate chain: version, capabilities, algorithms, digests. -/
def firstRequests : List (List Byte) :=
  [spdmMsg 0x10 0x84 0 0 [], spdmMsg 0x12 0xE1 0 0 (capBody 0),
   spdmMsg 0x12 0xE3 0 0 (leBytes 2 32 ++ [1, 0] ++ leBytes 4 0x400 ++ leBytes 4 4 ++ zeros 16), spdmMsg 0x12 0x81 0 0 []]

/-- The part of a chain that a CERTIFICATE carries. -/
def certPart (rsp : List Byte) : List Byte := (rsp.drop 8).take (leNat ((rsp.drop 4).take 2))

/-- The requests for the parts of a chain, each for 1,024 bytes from where the parts before it end. -/
def certRequests : Nat → List (List Byte) → List (List Byte)
  | _, [] => []
  | off, r :: rs => spdmMsg 0x12 0x82 0 0 (leBytes 2 off ++ leBytes 2 1024) :: certRequests (off + (certPart r).length) rs

/-- Every request of the exchange, as far as the peer's replies to it go, and the CHALLENGE last. -/
def ownRequests (peer : List (List Byte)) (nonce : List Byte) : List (List Byte) :=
  firstRequests ++ certRequests 0 (peer.drop 4).dropLast ++ [spdmMsg 0x12 0x83 0 0 nonce]

/-- The start of a reply: its version and code. -/
def replyIs (rsp : List Byte) (version code : Nat) : Bool := rsp.take 2 == [BitVec.ofNat 8 version, BitVec.ofNat 8 code]

/-- The peer's replies pass (R348): it offers what the check takes, its chain is certified and has the digest it gave, and its
CHALLENGE_AUTH is signed by the identity key over all that was exchanged. -/
def peerGood (peer : List (List Byte)) (nonce : List Byte) : Bool :=
  let rsp := fun i => nthD [] peer i
  let parts := (peer.drop 4).dropLast
  let auth := peer.getLastD []
  let body := auth.take (auth.length - 64)
  let chain := parts.flatMap certPart
  let reqs := ownRequests peer nonce
  let said := ((reqs.dropLast.zip peer.dropLast).flatMap fun x => x.1 ++ x.2) ++ reqs.getLastD [] ++ body
  decide (6 ≤ peer.length) && replyIs (rsp 0) 0x10 4 && replyIs (rsp 1) 0x12 0x61 && replyIs (rsp 2) 0x12 0x63 &&
    leNat (((rsp 1).drop 8).take 4) &&& 6 == 6 && leNat (((rsp 2).drop 12).take 4) == 0x400 &&
    leNat (((rsp 2).drop 16).take 4) == 4 && replyIs (rsp 3) 0x12 1 && ((rsp 3).drop 4).take 64 == sha512 chain &&
    (parts.all fun p => replyIs p 0x12 2) && ((parts.getLastD []).drop 6).take 2 == [0, 0] && replyIs auth 0x12 3 &&
    (body.drop 4).take 64 == sha512 chain &&
    (match Config.chainKey chain with
     | some key => Ed.verify [] key (spdmSigned "responder-challenge_auth signing" said) (auth.drop (auth.length - 64))
     | none => false)

/-- The check that two peers make over a link that attests: the package's own requests go out, and by the peer's replies the
link comes up, or fails and its peer is frozen with viol 3. -/
def attested (s : State) (p : Port) (peer : List (List Byte)) : State :=
  match p with
  | .host => s
  | .link pl =>
    if 12 ≤ pl ∨ (vget s.links pl).state ≠ 2 then s
    else
      let nonce := ownNonce s.free
      let ok := peerGood peer nonce
      let s := (ownRequests peer nonce).foldl (fun s m => s.emit (.spdm p m)) { s with free := s.free + 32 }
      let s' := { s with links := vset s.links pl { vget s.links pl with state := if ok then 3 else 4 } }
      let a := match s.swarm with | some w => (nthD none w.table pl).getD 0 | none => 0
      if ok then s' else { s' with frozen := s'.frozen ++ [⟨6, pl, linkDie pl, 0, a, 0, 3, 0⟩] }

/-- CHALLENGE: the reply is signed with all that was exchanged before it; the next challenge covers what follows. -/
def challenge (s : State) (port : Port) (nonce : BitVec 256) : State :=
  let t := transcript s port
  let req := spdmMsg 0x12 0x83 0 0 (bytesOf nonce)
  let rsp := spdmMsg 0x12 0x03 0 1 (chainDigest ++ ownNonce s.free ++ leBytes 2 0)
  spdmReply { s with free := s.free + 32 } port (fun t => { t with certs := [] })
    (rsp ++ spdmSign "responder-challenge_auth signing" (t.vca ++ t.certs ++ req ++ rsp))

def execChallenge (port : Port) (nonce : BitVec 256) (peer : List (List (BitVec 8))) (s : State) :
    Host.Outcome State Fault Refusal :=
  done (attested (challenge s port nonce) port peer)

/-- Measurements 1 to 3: the digest of the running image, FEAT of each die, the fused minimum svn. -/
def measurement (s : State) (i : Nat) : Option (List Byte) :=
  match i with
  | 1 => some (sha512 s.fw.running)
  | 2 => some (s.feat.toList.flatMap bytesOf)
  | 3 => some (leBytes 8 s.fw.minSvn.toNat)
  | _ => none

/-- The block of a measurement: its index, and its value with its type: a firmware digest, raw configuration, raw svn. -/
def measureBlock (s : State) (i : Nat) : Option (List Byte) :=
  (measurement s i).map fun v =>
    [BitVec.ofNat 8 i, 1] ++ leBytes 2 (3 + v.length) ++ [if i = 1 then 0x01 else if i = 2 then 0x82 else 0x88] ++
      leBytes 2 v.length ++ v

/-- The number reported, and the blocks: of all measurements (index 255), of none but their number (0), or of one. -/
def measured (s : State) (i : Nat) : Option (Nat × List (List Byte)) :=
  if i = 0 then some (3, [])
  else if i = 255 then some (0, (List.range 4).filterMap (measureBlock s))
  else (measureBlock s i).map fun b => (0, [b])

/-- GET_MEASUREMENTS: the reply is signed, with the version, capability and algorithm messages. -/
def measure (s : State) (port : Port) (index : Nat) (nonce : BitVec 256) : State :=
  match measured s index with
  | none => spdmReply s port id spdmError
  | some (n, bs) =>
    let req := spdmMsg 0x12 0xE0 1 index (bytesOf nonce ++ [0])
    let rsp := spdmMsg 0x12 0x60 n 0 ([BitVec.ofNat 8 bs.length] ++ leBytes 3 bs.flatten.length ++ bs.flatten ++
      ownNonce s.free ++ leBytes 2 0)
    spdmReply { s with free := s.free + 32 } port id
      (rsp ++ spdmSign "responder-measurements signing" ((transcript s port).vca ++ req ++ rsp))

def execGetMeasurements (port : Port) (index : Nat) (nonce : BitVec 256) (s : State) : Host.Outcome State Fault Refusal :=
  done (measure s port index nonce)

/-! ## Links (R349, R351) -/

def updLink (s : State) (pl : Nat) (f : Link → Link) : State :=
  if 12 ≤ pl then s else { s with links := vset s.links pl (f (vget s.links pl)) }

/-- LINK_DOWN: no flit has been acknowledged for 1 ms. -/
def execLinkDown (pl : Nat) (s : State) : Host.Outcome State Fault Refusal :=
  done (updLink s pl fun l => if l.state = 5 ∨ l.state = 0 then l else { l with state := 0, downAt := s.gtc.toNat })

/-- LINK_TRAINING_COMPLETE: a link that trains, or a down one that trains again, goes on to attesting. -/
def execLinkTrainingComplete (pl : Nat) (s : State) : Host.Outcome State Fault Refusal :=
  done (updLink s pl fun l => if l.state = 0 ∨ l.state = 1 then { l with state := 2 } else l)

def execFlitReplay (pl : Nat) (s : State) : Host.Outcome State Fault Refusal :=
  done (updLink s pl fun l => if l.state = 5 ∨ l.state = 0 then l else { l with replays := l.replays + 1 })

/-- The links that the table gives an agent. -/
def linksOf (s : State) (a : Nat) : List Link :=
  match s.swarm with
  | none => []
  | some w => ((List.range 12).filter fun i => nthD none w.table i == some a).map fun i => vget s.links i

/-- The host has failed: the swarm ends, and recovery is a module reset (R351). -/
def hostFails (s : State) : State :=
  let s := { s with slices := s.slices.filter fun d => match paKind s (128 * d.1) with | .peer _ => false | _ => true }
  declareFailed { s with swarm := none, links := vtab 12 fun i => { vget s.links i with state := 5 } } 0

/-- AGENT_FAILED: every link to the agent has been down for 10 ms; the failure is declared and notified.  Of the host, the
failure ends the swarm. -/
def agentFails (s : State) (a : Nat) : State :=
  if a = 0 then (if s.swarm.isSome then hostFails s else s)
  else if 8 ≤ a ∨ (linksOf s a).isEmpty ∨ (agent s a).down then s
  else if (linksOf s a).all fun l => l.state == 0 && decide (l.downAt + 1000000 ≤ s.gtc.toNat) then
    (declareFailed s a).emit (.failure a)
  else s

def execAgentFailed (agent : Nat) (s : State) : Host.Outcome State Fault Refusal := done (agentFails s agent)

/-- FAILURE_NOTICE: the named package is declared failed, and the links to it are taken down; of the host, the swarm ends. -/
def failureNotice (s : State) (a : Nat) : State :=
  if a = 0 then (if s.swarm.isSome then hostFails s else s)
  else if 8 ≤ a ∨ !agentPresent s a ∨ (agent s a).down then s
  else declareFailed (setLinks s a fun l => if l.state = 0 then l else { l with state := 0, downAt := s.gtc.toNat }) a

def execFailureNotice (agent : Nat) (s : State) : Host.Outcome State Fault Refusal := done (failureNotice s agent)

/-- The scrub: R229 is applied to every line that names the agent as owner; false while a retraining window holds one of them up
(R230, R355). -/
def scrub (s : State) (a : Nat) : State × Bool :=
  let ls := (s.ely.filter fun e => (elyAgents e.2).getLsbD a).map (·.1)
  let s := ls.foldl resolve s
  if ls.any (inWindow s) then (s, false)
  else ({ s with agents := vset s.agents a { agent s a with scrub := (agent s a).inc } }, true)

/-- AGENT_REJOIN: the incarnation advances and the mark is cleared; the scrub comes first where the incarnation would be
that of the last scrub (R229, R230, R351 phase 5). -/
def agentRejoins (s : State) (a : Nat) : State :=
  if a = 0 ∨ 8 ≤ a ∨ !(agent s a).down then s
  else
    match (if (agent s a).inc + 1 == (agent s a).scrub then scrub s a else (s, true)) with
    | (s, false) => s
    | (s, true) => { s with agents := vset s.agents a { agent s a with inc := (agent s a).inc + 1, down := false } }

def execAgentRejoin (agent : Nat) (s : State) : Host.Outcome State Fault Refusal := done (agentRejoins s agent)

/-! ## Power and reset (R10, R336, R347, R352) -/

/-- Some of the 24 sensors reads below −10 °C; temperatures are in units of 1/16 °C. -/
def someCold (n : Nat) : Bool := (List.range 24).any fun i => decide ((Config.reading (n + i)).toInt < -160)

/-- POWER_ON: phase 0 ends with the counter at 0; phase 1 is skipped when no sensor is cold. -/
def powerOn (s : State) : State :=
  if s.plat.phase ≠ 0 then s
  else
    { s with gtc := 0, free := s.free + 24, plat := { s.plat with phase := if someCold s.free then 1 else 2 } }

def execPowerOn (s : State) : Host.Outcome State Fault Refusal := done (powerOn s)

/-- The machine after a reset of the module: what State.reset gives, the firmware, and the trip record; the schedule and the
free values go on. -/
def resetModule (s : State) (phase : Nat) (fw : Firmware) (trip : Option TripRec) : State :=
  { State.reset with
    tape := s.tape, free := s.free, cur := s.cur, nextId := s.nextId, fw := fw,
    plat := { State.reset.plat with phase := phase, trip := trip } }

/-- MODULE_RESET restarts the phases; a trip that ended the power cycle stays to be read by selector 0. -/
def moduleReset (s : State) : State :=
  resetModule s 0 s.fw.reset (if s.plat.phase = 4 then s.plat.trip else none)

def execModuleReset (s : State) : Host.Outcome State Fault Refusal := done (moduleReset s)

/-- SELF_HEAT_END: phase 2 is entered when no sensor reads below −10 °C. -/
def selfHeatEnd (s : State) : State :=
  if s.plat.phase ≠ 1 then s
  else { s with free := s.free + 24, plat := { s.plat with phase := if someCold s.free then 1 else 2 } }

def execSelfHeatEnd (s : State) : Host.Outcome State Fault Refusal := done (selfHeatEnd s)
def execTrainingComplete (s : State) : Host.Outcome State Fault Refusal :=
  done (if s.plat.phase = 2 then { s with plat := { s.plat with phase := 3 } } else s)

/-- FUNCTION_LEVEL_RESET: refused while a launch is placed; else the mailbox registers are as at reset (log entry 51). -/
def execFunctionLevelReset (s : State) : Host.Outcome State Fault Refusal :=
  done (if !s.launches.isEmpty then s
    else dropWriter (dropOlds { s with mbox :=
      { s.mbox with code := .success, payload := [], bgDone := false, dbg := none, sync := none } } dbgSrc) .mailbox)

/-! ## Clocks and temperature (R353, R354) -/

/-- A core's die is held at level 0. -/
def throttledCore (s : State) (core : Nat) : Bool := s.plat.throttled.getLsbD (dieOf core)

/-- LEVEL_CHANGE: levels 0 to 10 in phase 3; a throttled die's cores stay at 0. -/
def levelChange (s : State) (core level : Nat) : State :=
  if 384 ≤ core ∨ 10 < level ∨ s.plat.phase ≠ 3 ∨ (throttledCore s core ∧ level ≠ 0) then s
  else s.setCore core { s.core core with level := level }

def execLevelChange (core level : Nat) (s : State) : Host.Outcome State Fault Refusal := done (levelChange s core level)

def execDroopEvent (core : Nat) (s : State) : Host.Outcome State Fault Refusal :=
  done (if 384 ≤ core then s else s.setCore core { s.core core with droops := (s.core core).droops + 1 })

/-- JUNCTION_THROTTLE: above 100 °C every core of the die is held at level 0. -/
def throttle (s : State) (die : Nat) (temp : BitVec 16) : State :=
  if 8 ≤ die ∨ temp.toInt ≤ 1600 then s
  else
    let s := { s with plat := { s.plat with throttled := s.plat.throttled ||| BitVec.ofNat 8 (2 ^ die) } }
    (List.range 48).foldl (fun s c => s.setCore (48 * die + c) { s.core (48 * die + c) with level := 0 }) s

def execJunctionThrottle (die : Nat) (temp : BitVec 16) (s : State) : Host.Outcome State Fault Refusal :=
  done (throttle s die temp)

def execJunctionFallsBelow95 (die : Nat) (temp : BitVec 16) (s : State) : Host.Outcome State Fault Refusal :=
  done (if 8 ≤ die ∨ 1520 ≤ temp.toInt then s
    else { s with plat := { s.plat with throttled := s.plat.throttled &&& ~~~(BitVec.ofNat 8 (2 ^ die)) } })

/-- STACK_REFRESH_DOUBLE: above 85 °C; requests see latency only. -/
def execStackRefreshDouble (stack : Nat) (temp : BitVec 16) (s : State) : Host.Outcome State Fault Refusal :=
  done (if 16 ≤ stack ∨ temp.toInt ≤ 1360 then s
    else { s with plat := { s.plat with hotStacks := s.plat.hotStacks ||| BitVec.ofNat 16 (2 ^ stack) } })

/-- TRIP: a die above 115 °C, or a stack above 100 °C, for 1 ms: all state is lost except the trip record. -/
def trip (s : State) (stack : Bool) (unit : Nat) (temp : BitVec 16) : State :=
  let ok := if stack then decide (unit < 16) && decide (1600 < temp.toInt) else decide (unit < 8) && decide (1840 < temp.toInt)
  if !ok || s.plat.phase == 0 || s.plat.phase == 4 then s
  else resetModule s 4 { s.fw with staged := [] } (some ⟨stack, unit, temp⟩)

def execTrip (stack : Bool) (unit : Nat) (temp : BitVec 16) (s : State) : Host.Outcome State Fault Refusal :=
  done (trip s stack unit temp)

/-! ## Retraining (R355, R356) -/

def chanKey (stack ch : Nat) : Nat := 32 * stack + ch
def Channel.init : Channel := ⟨none, none, 0, false, 0⟩
def channel (s : State) (k : Nat) : Channel := Store.getD Channel.init s.plat.channels k
def setChannel (s : State) (k : Nat) (c : Channel) : State :=
  { s with plat := { s.plat with channels := Store.putD Channel.init s.plat.channels k c } }

/-- RETRAINING_WINDOW: at least 2 s after the channel's last one, and no other channel of the stack in a window. -/
def openWindow (s : State) (stack ch : Nat) : State :=
  let c := channel s (chanKey stack ch)
  let soon : Bool := match c.last with | some t => decide (s.gtc.toNat < t + 200000000) | none => false
  let open_ := fun (c : Channel) => match c.window with | some t => decide (s.gtc.toNat < t + 100) | none => false
  let taken : Bool := s.plat.channels.any fun x => x.1 / 32 == stack && open_ x.2
  if 16 ≤ stack ∨ 32 ≤ ch ∨ s.plat.phase ≠ 3 ∨ soon ∨ taken then s
  else
    let t := s.gtc.toNat
    setChannel s (chanKey stack ch) { c with window := some t, last := some t, windows := (c.windows + 1) % 2 ^ 32 }

def execRetrainingWindow (stack ch : Nat) (s : State) : Host.Outcome State Fault Refusal := done (openWindow s stack ch)

/-- RETRAINING_WINDOW_END: the third failure in a row marks the channel failed, a pending fault of kind 3 with node 0. -/
def closeWindow (s : State) (stack ch : Nat) (ok : Bool) : State :=
  let k := chanKey stack ch
  let c := channel s k
  if 16 ≤ stack ∨ 32 ≤ ch ∨ c.window.isNone then s
  else if ok then setChannel s k { c with window := none, fails := 0 }
  else if c.fails = 2 ∧ !c.failed then
    postFault (setChannel s k { c with window := none, fails := 3, failed := true })
      { die := stack / 2, kind := 3, lid := 0, who := 0, detail := 0, addr := 0, info := 0 }
  else setChannel s k { c with window := none, fails := c.fails + 1 }

def execRetrainingWindowEnd (stack ch : Nat) (ok : Bool) (s : State) : Host.Outcome State Fault Refusal :=
  done (closeWindow s stack ch ok)

/-! ## Unlisted mailbox opcodes (R341) -/

/-- A mailbox command whose opcode R342 does not list returns Unsupported. -/
def otherCommand (s : State) (op : Nat) : State :=
  if 0xC000 ≤ op ∧ op ≤ 0xC016 then s else command s false fun s => ret s .unsupported []

/-! ## Telemetry (R357) -/

/-- A power reading in watts: 0 to 4,000. -/
def powerBytes (n : Nat) : List Byte := le2 ((Config.reading n).toNat % 4001)

/-- The trip field of selector 0. -/
def tripBytes (t : Option TripRec) : List Byte :=
  match t with
  | none => zeros 4
  | some r =>
    let src := if r.stack then r.unit / 2 else r.unit
    le2 (2 ^ 15 + src * 2 ^ 12 + (if r.stack then 2 ^ 11 + r.unit % 2 * 2 ^ 10 else 0)) ++ bytesOf r.temp

/-- The record of a selector. -/
def telemetryRecord (s : State) (sel : Nat) : Option (List Byte) :=
  let n := s.free
  if sel = 0 then some (leBytes 2 s.plat.phase ++ powerBytes n ++ tripBytes s.plat.trip)
  else if sel ≤ 8 then
    let d := sel - 1
    let cs := tabulate 48 fun c => s.core (48 * d + c)
    some (bytesOf (Config.reading (n + 1)) ++ powerBytes n ++ (cs.map fun c => BitVec.ofNat 8 c.level) ++
      le4 ((cs.foldl (fun x c => x + c.droops) 0) % 2 ^ 32))
  else if sel ≤ 24 then
    let k := sel - 9
    let ch := tabulate 32 fun c => channel s (chanKey k c)
    let failed := (ch.mapIdx fun i c => if c.failed then 2 ^ i else 0).foldl (· + ·) 0
    some (bytesOf (Config.reading (n + 1)) ++ zeros 2 ++ le4 failed ++ (ch.flatMap fun c => le4 c.windows) ++
      le4 (Store.getD 0 s.plat.corr k) ++ le4 (Store.getD 0 s.plat.merge k))
  else none

/-- TELEMETRY is accepted in phases 1 to 3 (R352). -/
def telemetry (s : State) (sel : Nat) : State :=
  if s.plat.phase = 0 ∨ s.plat.phase = 4 ∨ s.mbox.held then s
  else if s.mbox.bg.isSome then busy s
  else
    match telemetryRecord s sel with
    | some bs => ret { s with free := s.free + 2 } .success bs
    | none => invalid s

def execTelemetry (sel : Nat) (s : State) : Host.Outcome State Fault Refusal := done (telemetry s sel)

end Sys2Proof.Machine
end

