-- ==== Sys2Proof/Machine/Dispatch.lean ====
section
/-!
DEFINITION. Dispatch.lean: one arm per step of the part, each a call of its meaning.
-/
namespace Sys2Proof.Machine

open Sys2Proof

def exec (i : Instr) (s : State) : Host.Outcome State Fault Refusal :=
  match i with
  | .sadd d a b sw => Sys2Proof.Machine.execSadd d a b sw s
  | .ssub d a b sw => Sys2Proof.Machine.execSsub d a b sw s
  | .smul d a b sw => Sys2Proof.Machine.execSmul d a b sw s
  | .smulh d a b sw => Sys2Proof.Machine.execSmulh d a b sw s
  | .sand d a b sw => Sys2Proof.Machine.execSand d a b sw s
  | .sor d a b sw => Sys2Proof.Machine.execSor d a b sw s
  | .sxor d a b sw => Sys2Proof.Machine.execSxor d a b sw s
  | .sshl d a b sw => Sys2Proof.Machine.execSshl d a b sw s
  | .sshr d a b sw => Sys2Proof.Machine.execSshr d a b sw s
  | .ssra d a b sw => Sys2Proof.Machine.execSsra d a b sw s
  | .smin d a b sw => Sys2Proof.Machine.execSmin d a b sw s
  | .smax d a b sw => Sys2Proof.Machine.execSmax d a b sw s
  | .smov d a sw => Sys2Proof.Machine.execSmov d a sw s
  | .saddi d a imm sw => Sys2Proof.Machine.execSaddi d a imm sw s
  | .smuli d a imm sw => Sys2Proof.Machine.execSmuli d a imm sw s
  | .sandi d a imm sw => Sys2Proof.Machine.execSandi d a imm sw s
  | .sori d a imm sw => Sys2Proof.Machine.execSori d a imm sw s
  | .sxori d a imm sw => Sys2Proof.Machine.execSxori d a imm sw s
  | .smini d a imm sw => Sys2Proof.Machine.execSmini d a imm sw s
  | .smaxi d a imm sw => Sys2Proof.Machine.execSmaxi d a imm sw s
  | .sshli d a amt sw => Sys2Proof.Machine.execSshli d a amt sw s
  | .sshri d a amt sw => Sys2Proof.Machine.execSshri d a amt sw s
  | .ssrai d a amt sw => Sys2Proof.Machine.execSsrai d a amt sw s
  | .slui d imm sw => Sys2Proof.Machine.execSlui d imm sw s
  | .smovi d imm sw => Sys2Proof.Machine.execSmovi d imm sw s
  | .swiden d a b sw => Sys2Proof.Machine.execSwiden d a b sw s
  | .srange d a b sw => Sys2Proof.Machine.execSrange d a b sw s
  | .srnggetLo d a sw => Sys2Proof.Machine.execSrnggetLo d a sw s
  | .srnggetHi d a sw => Sys2Proof.Machine.execSrnggetHi d a sw s
  | .srnggetTop d a sw => Sys2Proof.Machine.execSrnggetTop d a sw s
  | .sb cond a b off sw => Sys2Proof.Machine.execSb cond a b off sw s
  | .sj off sw => Sys2Proof.Machine.execSj off sw s
  | .sjal off sw => Sys2Proof.Machine.execSjal off sw s
  | .sjr a sw => Sys2Proof.Machine.execSjr a sw s
  | .skmov d k sw => Sys2Proof.Machine.execSkmov d k sw s
  | .asetb n a sw => Sys2Proof.Machine.execAsetb n a sw s
  | .asetx n a b sw => Sys2Proof.Machine.execAsetx n a b sw s
  | .aget d n w sw => Sys2Proof.Machine.execAget d n w sw s
  | .smfs d num sw => Sys2Proof.Machine.execSmfs d num sw s
  | .smts a num sw => Sys2Proof.Machine.execSmts a num sw s
  | .sld d n b off sw => Sys2Proof.Machine.execSld d n b off sw s
  | .sst d n b off sw => Sys2Proof.Machine.execSst d n b off sw s
  | .lrun idx sw => Sys2Proof.Machine.execLrun idx sw s
  | .lsync sw => Sys2Proof.Machine.execLsync sw s
  | .tcopy a b ix nm1 sw => Sys2Proof.Machine.execTcopy a b ix nm1 sw s
  | .cwait ctr a sw => Sys2Proof.Machine.execCwait ctr a sw s
  | .mwait cmp acq a b sw => Sys2Proof.Machine.execMwait cmp acq a b sw s
  | .yield ctr a b sw => Sys2Proof.Machine.execYield ctr a b sw s
  | .attn a b ctl sw => Sys2Proof.Machine.execAttn a b ctl sw s
  | .tvlayout a n sw => Sys2Proof.Machine.execTvlayout a n sw s
  | .bar a n sw => Sys2Proof.Machine.execBar a n sw s
  | .stgacq a st sw => Sys2Proof.Machine.execStgacq a st sw s
  | .stgrel a st sw => Sys2Proof.Machine.execStgrel a st sw s
  | .grow q sw => Sys2Proof.Machine.execGrow q sw s
  | .shrink q sw => Sys2Proof.Machine.execShrink q sw s
  | .task a prio sw => Sys2Proof.Machine.execTask a prio sw s
  | .sfence ord sc sw => Sys2Proof.Machine.execSfence ord sc sw s
  | .trap code sw => Sys2Proof.Machine.execTrap code sw s
  | .brk code sw => Sys2Proof.Machine.execBrk code sw s
  | .eret sw => Sys2Proof.Machine.execEret sw s
  | .eretSkip sw => Sys2Proof.Machine.execEretSkip sw s
  | .sexit sw => Sys2Proof.Machine.execSexit sw s
  | .snop sw => Sys2Proof.Machine.execSnop sw s
  | .iadd m ty sat d a b => Sys2Proof.Machine.execIadd m ty sat d a b s
  | .isub m ty sat d a b => Sys2Proof.Machine.execIsub m ty sat d a b s
  | .imul m ty sat d a b => Sys2Proof.Machine.execImul m ty sat d a b s
  | .imulh m ty d a b => Sys2Proof.Machine.execImulh m ty d a b s
  | .imad m ty sat d a b c => Sys2Proof.Machine.execImad m ty sat d a b c s
  | .iabs m ty sat d a => Sys2Proof.Machine.execIabs m ty sat d a s
  | .ineg m ty sat d a => Sys2Proof.Machine.execIneg m ty sat d a s
  | .imin m ty d a b => Sys2Proof.Machine.execImin m ty d a b s
  | .imax m ty d a b => Sys2Proof.Machine.execImax m ty d a b s
  | .iclamp m ty d a b c => Sys2Proof.Machine.execIclamp m ty d a b c s
  | .iand m ty d a b => Sys2Proof.Machine.execIand m ty d a b s
  | .ior m ty d a b => Sys2Proof.Machine.execIor m ty d a b s
  | .ixor m ty d a b => Sys2Proof.Machine.execIxor m ty d a b s
  | .inot m ty d a => Sys2Proof.Machine.execInot m ty d a s
  | .ishl m ty d a b => Sys2Proof.Machine.execIshl m ty d a b s
  | .ishr m ty d a b => Sys2Proof.Machine.execIshr m ty d a b s
  | .isra m ty d a b => Sys2Proof.Machine.execIsra m ty d a b s
  | .iclz m ty d a => Sys2Proof.Machine.execIclz m ty d a s
  | .ipopc m ty d a => Sys2Proof.Machine.execIpopc m ty d a s
  | .ibrev m ty d a => Sys2Proof.Machine.execIbrev m ty d a s
  | .ibfx m ty d a pos len => Sys2Proof.Machine.execIbfx m ty d a pos len s
  | .ibfi m ty d a b pos len => Sys2Proof.Machine.execIbfi m ty d a b pos len s
  | .icmp m ty cond d a b => Sys2Proof.Machine.execIcmp m ty cond d a b s
  | .isel m ty d a b c => Sys2Proof.Machine.execIsel m ty d a b c s
  | .imov m ty d a => Sys2Proof.Machine.execImov m ty d a s
  | .imovi m ty d imm => Sys2Proof.Machine.execImovi m ty d imm s
  | .icvt m ty src rm sat d a => Sys2Proof.Machine.execIcvt m ty src rm sat d a s
  | .vwiden m d lo hi => Sys2Proof.Machine.execVwiden m d lo hi s
  | .vrange m d lo hi => Sys2Proof.Machine.execVrange m d lo hi s
  | .fadd m ty rm d a b => Sys2Proof.Machine.execFadd m ty rm d a b s
  | .fsub m ty rm d a b => Sys2Proof.Machine.execFsub m ty rm d a b s
  | .fmul m ty rm d a b => Sys2Proof.Machine.execFmul m ty rm d a b s
  | .ffma m ty rm d a b c => Sys2Proof.Machine.execFfma m ty rm d a b c s
  | .fmin m ty d a b => Sys2Proof.Machine.execFmin m ty d a b s
  | .fmax m ty d a b => Sys2Proof.Machine.execFmax m ty d a b s
  | .fcmp m ty cond d a b => Sys2Proof.Machine.execFcmp m ty cond d a b s
  | .frcp m ty rm d a => Sys2Proof.Machine.execFrcp m ty rm d a s
  | .frsq m ty rm d a => Sys2Proof.Machine.execFrsq m ty rm d a s
  | .fsqrt m ty rm d a => Sys2Proof.Machine.execFsqrt m ty rm d a s
  | .fdiv m ty rm d a b => Sys2Proof.Machine.execFdiv m ty rm d a b s
  | .fexp2 m ty rm d a => Sys2Proof.Machine.execFexp2 m ty rm d a s
  | .flog2 m ty rm d a => Sys2Proof.Machine.execFlog2 m ty rm d a s
  | .frnd m ty rm d a => Sys2Proof.Machine.execFrnd m ty rm d a s
  | .fcvt m ty src rm sat d a => Sys2Proof.Machine.execFcvt m ty src rm sat d a s
  | .fclass m ty d a => Sys2Proof.Machine.execFclass m ty d a s
  | .lmul m sat d a b => Sys2Proof.Machine.execLmul m sat d a b s
  | .lcvt m ty src rm sat d a => Sys2Proof.Machine.execLcvt m ty src rm sat d a s
  | .pand m d a b => Sys2Proof.Machine.execPand m d a b s
  | .por m d a b => Sys2Proof.Machine.execPor m d a b s
  | .pxor m d a b => Sys2Proof.Machine.execPxor m d a b s
  | .pnot m d a => Sys2Proof.Machine.execPnot m d a s
  | .pmov m d a => Sys2Proof.Machine.execPmov m d a s
  | .exmget m d => Sys2Proof.Machine.execExmget m d s
  | .exmset m a => Sys2Proof.Machine.execExmset m a s
  | .fxget m d => Sys2Proof.Machine.execFxget m d s
  | .fxset m a => Sys2Proof.Machine.execFxset m a s
  | .xshfl m ty mode d a b => Sys2Proof.Machine.execXshfl m ty mode d a b s
  | .xbcast m ty d a b => Sys2Proof.Machine.execXbcast m ty d a b s
  | .xballot m d a => Sys2Proof.Machine.execXballot m d a s
  | .xvote m mode d a => Sys2Proof.Machine.execXvote m mode d a s
  | .xprefix m ty rm op excl d a => Sys2Proof.Machine.execXprefix m ty rm op excl d a s
  | .xreduce m ty rm op d a => Sys2Proof.Machine.execXreduce m ty rm op d a s
  | .lbrc m tgt rpc => Sys2Proof.Machine.execLbrc m tgt rpc s
  | .ljoin nf sw => Sys2Proof.Machine.execLjoin nf sw s
  | .ljmp nf sw off => Sys2Proof.Machine.execLjmp nf sw off s
  | .lcall nf sw off => Sys2Proof.Machine.execLcall nf sw off s
  | .lret nf sw => Sys2Proof.Machine.execLret nf sw s
  | .lexit nf sw => Sys2Proof.Machine.execLexit nf sw s
  | .lkill m => Sys2Proof.Machine.execLkill m s
  | .spawn m a entry => Sys2Proof.Machine.execSpawn m a entry s
  | .laneCwait m ctr t => Sys2Proof.Machine.execLaneCwait m ctr t s
  | .ld m ty acq d n b off => Sys2Proof.Machine.execLd m ty acq d n b off s
  | .st m ty rel n b c off => Sys2Proof.Machine.execSt m ty rel n b c off s
  | .lds m ty d n b off => Sys2Proof.Machine.execLds m ty d n b off s
  | .sts m ty n b c off => Sys2Proof.Machine.execSts m ty n b c off s
  | .cst m ty n b c off => Sys2Proof.Machine.execCst m ty n b c off s
  | .xlde m ty d n b off => Sys2Proof.Machine.execXlde m ty d n b off s
  | .lfence nf sw ord sc => Sys2Proof.Machine.execLfence nf sw ord sc s
  | .atomAdd m ty ord d n b c off => Sys2Proof.Machine.execAtomAdd m ty ord d n b c off s
  | .atomMin m ty ord d n b c off => Sys2Proof.Machine.execAtomMin m ty ord d n b c off s
  | .atomMax m ty ord d n b c off => Sys2Proof.Machine.execAtomMax m ty ord d n b c off s
  | .atomAnd m ty ord d n b c off => Sys2Proof.Machine.execAtomAnd m ty ord d n b c off s
  | .atomOr m ty ord d n b c off => Sys2Proof.Machine.execAtomOr m ty ord d n b c off s
  | .atomXor m ty ord d n b c off => Sys2Proof.Machine.execAtomXor m ty ord d n b c off s
  | .atomXchg m ty ord d n b c off => Sys2Proof.Machine.execAtomXchg m ty ord d n b c off s
  | .atomCas m ty ord d n b c off => Sys2Proof.Machine.execAtomCas m ty ord d n b c off s
  | .mbegin nf sw => Sys2Proof.Machine.execMbegin nf sw s
  | .mend nf sw => Sys2Proof.Machine.execMend nf sw s
  | .mma nf sw ty rm d a b => Sys2Proof.Machine.execMma nf sw ty rm d a b s
  | .mldf nf sw fragB d addr off => Sys2Proof.Machine.execMldf nf sw fragB d addr off s
  | .mzero nf sw d => Sys2Proof.Machine.execMzero nf sw d s
  | .maccld nf sw d addr off => Sys2Proof.Machine.execMaccld nf sw d addr off s
  | .maccst nf sw a addr off => Sys2Proof.Machine.execMaccst nf sw a addr off s
  | .tvbegin m d a b c lay => Sys2Proof.Machine.execTvbegin m d a b c lay s
  | .tvret m a b => Sys2Proof.Machine.execTvret m a b s
  | .tvcut m a b c => Sys2Proof.Machine.execTvcut m a b c s
  | .tvresume m d a => Sys2Proof.Machine.execTvresume m d a s
  | .tvbound m a => Sys2Proof.Machine.execTvbound m a s
  | .tvstat m d a => Sys2Proof.Machine.execTvstat m d a s
  | .wordNotAnInstruction lane reason bit => Sys2Proof.Machine.execWordNotAnInstruction lane reason bit s
  | .gtcloRead d sw => Sys2Proof.Machine.execGtcloRead d sw s
  | .gtchiRead d sw => Sys2Proof.Machine.execGtchiRead d sw s
  | .modeWrite a sw => Sys2Proof.Machine.execModeWrite a sw s
  | .exmloWrite a sw => Sys2Proof.Machine.execExmloWrite a sw s
  | .exmhiWrite a sw => Sys2Proof.Machine.execExmhiWrite a sw s
  | .trappcWrite a sw => Sys2Proof.Machine.execTrappcWrite a sw s
  | .trappcloWrite a sw => Sys2Proof.Machine.execTrappcloWrite a sw s
  | .trappchiWrite a sw => Sys2Proof.Machine.execTrappchiWrite a sw s
  | .trapinfoWrite a sw => Sys2Proof.Machine.execTrapinfoWrite a sw s
  | .gtcTick => Sys2Proof.Machine.execGtcTick s
  | .resultReturn gid lane k keep late => Sys2Proof.Machine.execResultReturn gid lane k keep late s
  | .blockStart gid => Sys2Proof.Machine.execBlockStart gid s
  | .blockRetire gid => Sys2Proof.Machine.execBlockRetire gid s
  | .trapEntry gid => Sys2Proof.Machine.execTrapEntry gid s
  | .binTimerExpiry core bin => Sys2Proof.Machine.execBinTimerExpiry core bin s
  | .spawnedGroupLaunch core => Sys2Proof.Machine.execSpawnedGroupLaunch core s
  | .teamPlacement core spbase accbase groups => Sys2Proof.Machine.execTeamPlacement core spbase accbase groups s
  | .teamReserving lid => Sys2Proof.Machine.execTeamReserving lid s
  | .growGrant gid => Sys2Proof.Machine.execGrowGrant gid s
  | .yieldReactivate gid => Sys2Proof.Machine.execYieldReactivate gid s
  | .barrierRelease team bar => Sys2Proof.Machine.execBarrierRelease team bar s
  | .stagePhaseObserved gid => Sys2Proof.Machine.execStagePhaseObserved gid s
  | .mwaitReread gid => Sys2Proof.Machine.execMwaitReread gid s
  | .counterWaitMet gid lane => Sys2Proof.Machine.execCounterWaitMet gid lane s
  | .engineLineOwnership cmd => Sys2Proof.Machine.execEngineLineOwnership cmd s
  | .engineLineRelease cmd line => Sys2Proof.Machine.execEngineLineRelease cmd line s
  | .copyCommandComplete cmd prog => Sys2Proof.Machine.execCopyCommandComplete cmd prog s
  | .attnCommandStart cmd cached => Sys2Proof.Machine.execAttnCommandStart cmd cached s
  | .attnKeyBlock cmd => Sys2Proof.Machine.execAttnKeyBlock cmd s
  | .attnCommandComplete cmd => Sys2Proof.Machine.execAttnCommandComplete cmd s
  | .traversalStep id => Sys2Proof.Machine.execTraversalStep id s
  | .cutApply id => Sys2Proof.Machine.execCutApply id s
  | .launchEnd lid => Sys2Proof.Machine.execLaunchEnd lid s
  | .openTailWake graph node => Sys2Proof.Machine.execOpenTailWake graph node s
  | .graphEnd graph => Sys2Proof.Machine.execGraphEnd graph s
  | .l1Fill core line => Sys2Proof.Machine.execL1Fill core line s
  | .leaseExpiry core line => Sys2Proof.Machine.execLeaseExpiry core line s
  | .homeWritePerform req => Sys2Proof.Machine.execHomeWritePerform req s
  | .sliceEviction line => Sys2Proof.Machine.execSliceEviction line s
  | .replicaLock req die => Sys2Proof.Machine.execReplicaLock req die s
  | .replicaUpdate req => Sys2Proof.Machine.execReplicaUpdate req s
  | .tableWalk die asp va => Sys2Proof.Machine.execTableWalk die asp va s
  | .refreshManagement stack row => Sys2Proof.Machine.execRefreshManagement stack row s
  | .readShared agent line => Sys2Proof.Machine.execReadShared agent line s
  | .readOwn agent line => Sys2Proof.Machine.execReadOwn agent line s
  | .dirtyNotice agent line => Sys2Proof.Machine.execDirtyNotice agent line s
  | .writeback agent line data => Sys2Proof.Machine.execWriteback agent line data s
  | .cleanEviction agent line => Sys2Proof.Machine.execCleanEviction agent line s
  | .recallToShared agent line => Sys2Proof.Machine.execRecallToShared agent line s
  | .recallInvalidate agent line => Sys2Proof.Machine.execRecallInvalidate agent line s
  | .data agent line data => Sys2Proof.Machine.execData agent line data s
  | .dataDirty agent line data => Sys2Proof.Machine.execDataDirty agent line data s
  | .notHeld agent line => Sys2Proof.Machine.execNotHeld agent line s
  | .failureNotice agent => Sys2Proof.Machine.execFailureNotice agent s
  | .memrdShared addr => Sys2Proof.Machine.execMemrdShared addr s
  | .memrdAny addr => Sys2Proof.Machine.execMemrdAny addr s
  | .memrdInvalid addr => Sys2Proof.Machine.execMemrdInvalid addr s
  | .memwr addr data bytes => Sys2Proof.Machine.execMemwr addr data bytes s
  | .snpdata line => Sys2Proof.Machine.execSnpdata line s
  | .snpinv line => Sys2Proof.Machine.execSnpinv line s
  | .resync pa size => Sys2Proof.Machine.execResync pa size s
  | .freezeReleaseResume kind id => Sys2Proof.Machine.execFreezeReleaseResume kind id s
  | .freezeReleaseEnd kind id => Sys2Proof.Machine.execFreezeReleaseEnd kind id s
  | .biasSetHost pa count => Sys2Proof.Machine.execBiasSetHost pa count s
  | .biasSetDevice pa count => Sys2Proof.Machine.execBiasSetDevice pa count s
  | .pageFlip page => Sys2Proof.Machine.execPageFlip page s
  | .telemetry sel => Sys2Proof.Machine.execTelemetry sel s
  | .fwStage off bytes => Sys2Proof.Machine.execFwStage off bytes s
  | .fwActivate commit => Sys2Proof.Machine.execFwActivate commit s
  | .leaseSet lam => Sys2Proof.Machine.execLeaseSet lam s
  | .placementRead die stack first count clear => Sys2Proof.Machine.execPlacementRead die stack first count clear s
  | .losslogSet base size => Sys2Proof.Machine.execLosslogSet base size s
  | .aspaceSet id root => Sys2Proof.Machine.execAspaceSet id root s
  | .tlbInval scope => Sys2Proof.Machine.execTlbInval scope s
  | .graphPost die asp root prio => Sys2Proof.Machine.execGraphPost die asp root prio s
  | .graphRelease die root => Sys2Proof.Machine.execGraphRelease die root s
  | .preempt sel area migrate => Sys2Proof.Machine.execPreempt sel area migrate s
  | .chrysalisComplete team prog => Sys2Proof.Machine.execChrysalisComplete team prog s
  | .poolSlotSave team => Sys2Proof.Machine.execPoolSlotSave team s
  | .resume lid => Sys2Proof.Machine.execResume lid s
  | .resumeEnd lid => Sys2Proof.Machine.execResumeEnd lid s
  | .faultDoneRetry w => Sys2Proof.Machine.execFaultDoneRetry w s
  | .faultDoneEnd w => Sys2Proof.Machine.execFaultDoneEnd w s
  | .poolSet base count => Sys2Proof.Machine.execPoolSet base count s
  | .trapbaseSet die cores va => Sys2Proof.Machine.execTrapbaseSet die cores va s
  | .featClear die bits => Sys2Proof.Machine.execFeatClear die bits s
  | .debugRead w => Sys2Proof.Machine.execDebugRead w s
  | .debugWrite w bytes => Sys2Proof.Machine.execDebugWrite w bytes s
  | .protectSet index pa size flags => Sys2Proof.Machine.execProtectSet index pa size flags s
  | .swarmSet pos n table => Sys2Proof.Machine.execSwarmSet pos n table s
  | .travEnd lid id => Sys2Proof.Machine.execTravEnd lid id s
  | .backgroundComplete => Sys2Proof.Machine.execBackgroundComplete s
  | .getVersion port => Sys2Proof.Machine.execGetVersion port s
  | .getCapabilities port => Sys2Proof.Machine.execGetCapabilities port s
  | .negotiateAlgorithms port => Sys2Proof.Machine.execNegotiateAlgorithms port s
  | .getDigests port => Sys2Proof.Machine.execGetDigests port s
  | .getCertificate port slot off len => Sys2Proof.Machine.execGetCertificate port slot off len s
  | .challenge port nonce peer => Sys2Proof.Machine.execChallenge port nonce peer s
  | .getMeasurements port index nonce => Sys2Proof.Machine.execGetMeasurements port index nonce s
  | .linkDown pl => Sys2Proof.Machine.execLinkDown pl s
  | .agentFailed agent => Sys2Proof.Machine.execAgentFailed agent s
  | .agentRejoin agent => Sys2Proof.Machine.execAgentRejoin agent s
  | .powerOn => Sys2Proof.Machine.execPowerOn s
  | .moduleReset => Sys2Proof.Machine.execModuleReset s
  | .selfHeatEnd => Sys2Proof.Machine.execSelfHeatEnd s
  | .trainingComplete => Sys2Proof.Machine.execTrainingComplete s
  | .levelChange core level => Sys2Proof.Machine.execLevelChange core level s
  | .droopEvent core => Sys2Proof.Machine.execDroopEvent core s
  | .junctionThrottle die temp => Sys2Proof.Machine.execJunctionThrottle die temp s
  | .stackRefreshDouble stack temp => Sys2Proof.Machine.execStackRefreshDouble stack temp s
  | .trip stack unit temp => Sys2Proof.Machine.execTrip stack unit temp s
  | .retrainingWindow stack ch => Sys2Proof.Machine.execRetrainingWindow stack ch s
  | .hostSnoopResponse line dirty => Sys2Proof.Machine.execHostSnoopResponse line dirty s
  | .hostCacheData line own data => Sys2Proof.Machine.execHostCacheData line own data s
  | .linkTrainingComplete pl => Sys2Proof.Machine.execLinkTrainingComplete pl s
  | .flitReplay pl => Sys2Proof.Machine.execFlitReplay pl s
  | .retrainingWindowEnd stack ch ok => Sys2Proof.Machine.execRetrainingWindowEnd stack ch ok s
  | .junctionFallsBelow95 die temp => Sys2Proof.Machine.execJunctionFallsBelow95 die temp s
  | .functionLevelReset => Sys2Proof.Machine.execFunctionLevelReset s
  | .hdmDecoderProgram base => Sys2Proof.Machine.execHdmDecoderProgram base s

end Sys2Proof.Machine
end

