-- ==== Sys2Proof/Machine/Step.lean ====
section
/-!
DEFINITION. Step.lean: one step of the machine: a stream issues its next word, or an event comes about.
-/
namespace Sys2Proof.Machine

open Sys2Proof

/-- One stream of a group issues: the word is fetched, decoded and run. -/
def issueStep (s : State) (gid : Nat) (lane : Bool) (picks : List (Nat × Mask)) : Host.Outcome State Fault Refusal :=
  match prepare s gid lane picks with
  | .inl s' => .next s'
  | .inr (s', i) =>
    match exec i s', s'.grp gid with
    | .next t, some g => .next (settle g gid lane i t)
    | o, _ => o

/-- One step: the tape says what comes next. -/
def step (s : State) : Host.Outcome State Fault Refusal :=
  match nextAct s with
  | (.issue gid lane picks, s) => issueStep s gid lane picks
  | (.view gid block regs aregs, s) => .next (viewStep s gid block regs aregs)
  | (.event i picks, s) => if isEvent i then exec i { s with picks := picks } else .next s
  | (.mailbox op, s) => .next (otherCommand s op)

/-- s with a word, whose bits are numbered as spec/opcode_table.json numbers them, placed as the next word that issues:
words of up to 32 bits are scalar, longer ones lane words (R52, R53). -/
def State.withFetchWord (s : State) (nbits w : Nat) : State :=
  if nbits ≤ 32 then placeWord s false (leBytes 4 w) else placeWord s true (leBytes 12 w)

end Sys2Proof.Machine
end

