-- ==== Sys2Proof/Safety.lean ====
section
/-!
DEFINITION. Safety.lean: the terms in which claims about the machine are stated: the group whose word issues, the states
a word of either stream leaves when it has issued, and the invariant of every step.
-/
namespace Sys2Proof.Safety

open Sys2Proof Sys2Proof.Machine

/-- g is the resident group whose word issues. -/
def Issues (s : State) (g : Group) : Prop := s.grp s.cur = some g

/-- A write of an S register by its number: in handler mode S56 to S63 are the handler's own (R317). -/
def wSreg (g : Group) (d : BitVec 6) (v : W32) (sh : Shadow) : PWrite := .s (g.sKey d.toNat) v sh false

/-- The outstanding result of a word (R33); one that is sampled between issue and its write may be sampled later (R92). -/
def resultOf (s : State) (pc : Va) (kind : PKind) (ws : List PWrite) : Pending :=
  ⟨s.nextId, pc, kind, ws, [], kind.defers s.picks, [], 0, 0, [], [], none⟩

/-- A scalar word has issued with these register writes outstanding and the scalar PC at pc; nothing else changes. -/
def scalarAfter (s : State) (g : Group) (kind : PKind) (ws : List PWrite) (pc : Va) (sw : Bool) : State :=
  { s with
    nextId := s.nextId + 1,
    groups := Store.put s.groups s.cur
      { g with spc := pc, sc := (g.sc.push (resultOf s g.spc kind ws)).mark sw } }

/-- A scalar word has issued with no outstanding result: the group is g, the scalar PC is pc. -/
def scalarOn (s : State) (g : Group) (pc : Va) (sw : Bool) : State :=
  { s with groups := Store.put s.groups s.cur { g with spc := pc, sc := g.sc.mark sw } }

/-- A lane word has issued with these register writes outstanding, and the lane PC is at the next word. -/
def laneAfter (s : State) (g : Group) (ws : List PWrite) (sw : Bool) : State :=
  { s with
    nextId := s.nextId + 1,
    groups := Store.put s.groups s.cur
      { g with
        ctx := { g.ctx with lpc := g.ctx.lpc + 12 },
        ln := (g.ln.push (resultOf s g.ctx.lpc .plain ws)).mark sw } }

/-- A lane word has issued with no outstanding result: the group is g, the lane PC is pc. -/
def laneOn (s : State) (g : Group) (pc : Va) (sw : Bool) : State :=
  { s with groups := Store.put s.groups s.cur { g with ctx := { g.ctx with lpc := pc }, ln := g.ln.mark sw } }

/-- Every byte of memory reads as before. -/
def SameMem (s t : State) : Prop := ∀ a, memByte t a = memByte s a

/-- Every byte of memory outside [lo, lo + n) reads as before. -/
def SameMemBut (s t : State) (lo n : Nat) : Prop := ∀ a, (a < lo ∨ lo + n ≤ a) → memByte t a = memByte s a

/-- Every group but the issuing one is as before, and so is everything outside the groups but the counter of ids. -/
def OnlyGroup (s t : State) : Prop :=
  t = { s with groups := t.groups, nextId := t.nextId } ∧ ∀ k, k ≠ s.cur → t.grp k = s.grp k

/-- Everything of a group but its streams' positions and outstanding results is as before. -/
def SameRegisters (g h : Group) : Prop :=
  h = { g with spc := h.spc, sc := h.sc, ln := h.ln, ctx := { g.ctx with lpc := h.ctx.lpc } }

/-- What every step keeps: memory, check values, elytron bits, check symbols, register files, scratchpads, ACC, cores, placement counters
and host-bias pages are in their canonical form; no two groups, teams or slice lines have one key; λ is a value that
LEASE_SET admits (R221, R342). -/
structure Inv (s : State) : Prop where
  mem  : Memory.wf s.mem
  chk  : Store.wf 0 s.chk = true
  ely  : Store.wf 0 s.ely = true
  ecc  : Store.wf 0 s.ecc = true
  rf   : Store.wf 0 s.rf = true
  spad : Store.wf 0 s.spad = true
  acc  : Store.wf 0 s.acc = true
  cores  : Store.wf Core.init s.cores = true
  counts : Store.wf 0 s.counts = true
  bias   : Store.wf false s.hostBias = true
  groups : Store.sorted s.groups = true
  teams  : Store.sorted s.teams = true
  slices : Store.sorted s.slices = true
  lam  : 1 ≤ s.lam ∧ s.lam ≤ 4095

end Sys2Proof.Safety
end

