-- ==== Sys2Proof/Certificates/Slice0/Obligations.lean ====
section
/-!
DEFINITION. Obligations.lean: the statements about the machine, one per group of rules.  A statement about a word gives the
state in which the word has issued; what an outstanding result does when it lands is ResultLands and ResultsReturn.
-/

open Sys2Proof Sys2Proof.Machine Sys2Proof.Safety

/-! ## Scalar arithmetic -/

/-- R94: the thirteen SALU words write s[d] with the value their row states, and with the shadow of R144; the scalar PC
goes on by 4; the result is outstanding until it lands (R33, R86). -/
def Claims.ScalarRegisterResults : Prop :=
  ∀ (s : State) (g : Group) (d a b : BitVec 6) (sw : Bool), Issues s g → g.sc.full = false →
    let x := sRead s.picks g a.toNat
    let y := sRead s.picks g b.toNat
    let lands := fun (i : Instr) (v : W32) (sh : Shadow) =>
      exec i s = .next (scalarAfter s g .plain [wSreg g d v sh] (g.spc + 4) sw)
    lands (.sadd d a b sw) (x.1 + y.1) (x.2.add .wrap y.2) ∧
    lands (.ssub d a b sw) (x.1 - y.1) (x.2.sub .wrap y.2) ∧
    lands (.smul d a b sw) (x.1 * y.1) (x.2.mul .wrap y.2) ∧
    lands (.smulh d a b sw) ((x.1.signExtend 64 * y.1.signExtend 64).extractLsb' 32 32) .top ∧
    lands (.sand d a b sw) (x.1 &&& y.1) (x.2.sand y.2) ∧
    lands (.sor d a b sw) (x.1 ||| y.1) .top ∧
    lands (.sxor d a b sw) (x.1 ^^^ y.1) .top ∧
    lands (.sshl d a b sw) (if y.1.toNat < 32 then x.1 <<< y.1.toNat else 0) (x.2.shl y.2) ∧
    lands (.sshr d a b sw) (if y.1.toNat < 32 then x.1 >>> y.1.toNat else 0) (x.2.shr y.2) ∧
    lands (.ssra d a b sw) (if y.1.toNat < 32 then x.1.sshiftRight y.1.toNat else if x.1.msb then -1 else 0)
      (x.2.sra y.2) ∧
    lands (.smin d a b sw) (BitVec.ofInt 32 (min x.1.toInt y.1.toInt)) (x.2.smin y.2) ∧
    lands (.smax d a b sw) (BitVec.ofInt 32 (max x.1.toInt y.1.toInt)) (x.2.smax y.2) ∧
    lands (.smov d a sw) x.1 x.2

/-- R95: the ten immediate forms do what the register forms do with y the sign-extended imm13, or the shift amount, and
an exact shadow for it. -/
def Claims.ScalarImmediateResults : Prop :=
  ∀ (s : State) (g : Group) (d a : BitVec 6) (imm : BitVec 13) (amt : BitVec 5) (sw : Bool),
    Issues s g → g.sc.full = false →
    let x := sRead s.picks g a.toNat
    let y := imm.signExtend 32
    let Y : Shadow := .itv imm.toInt imm.toInt
    let A : Shadow := .itv amt.toNat amt.toNat
    let lands := fun (i : Instr) (v : W32) (sh : Shadow) =>
      exec i s = .next (scalarAfter s g .plain [wSreg g d v sh] (g.spc + 4) sw)
    lands (.saddi d a imm sw) (x.1 + y) (x.2.add .wrap Y) ∧
    lands (.smuli d a imm sw) (x.1 * y) (x.2.mul .wrap Y) ∧
    lands (.sandi d a imm sw) (x.1 &&& y) (x.2.sand Y) ∧
    lands (.sori d a imm sw) (x.1 ||| y) .top ∧
    lands (.sxori d a imm sw) (x.1 ^^^ y) .top ∧
    lands (.smini d a imm sw) (BitVec.ofInt 32 (min x.1.toInt imm.toInt)) (x.2.smin Y) ∧
    lands (.smaxi d a imm sw) (BitVec.ofInt 32 (max x.1.toInt imm.toInt)) (x.2.smax Y) ∧
    lands (.sshli d a amt sw) (x.1 <<< amt.toNat) (x.2.shl A) ∧
    lands (.sshri d a amt sw) (x.1 >>> amt.toNat) (x.2.shr A) ∧
    lands (.ssrai d a amt sw) (x.1.sshiftRight amt.toNat) (x.2.sra A)

/-- R96, R100, R102, R148: the words that load a constant, a uniform register, a word of an array register, or a part of
a shadow write that value with an exact shadow. -/
def Claims.ScalarConstantResults : Prop :=
  ∀ (s : State) (g : Group) (d a : BitVec 6) (imm : BitVec 19) (n : BitVec 4) (w : BitVec 2) (sw : Bool),
    Issues s g → g.sc.full = false →
    let lands := fun (i : Instr) (v : W32) =>
      exec i s = .next (scalarAfter s g .plain [wSreg g d v (.itv v.toInt v.toInt)] (g.spc + 4) sw)
    let sh := (sRead s.picks g a.toNat).2
    lands (.slui d imm sw) (BitVec.ofNat 32 (imm.toNat * 2 ^ 13)) ∧
    lands (.smovi d imm sw) (imm.signExtend 32) ∧
    lands (.skmov d n sw) (vget g.k n.toNat) ∧
    lands (.aget d n w sw) ((vget g.a n.toNat).extractLsb' (32 * w.toNat) 32) ∧
    (match sh with
     | .top =>
       lands (.srnggetLo d a sw) 0x80000000 ∧ lands (.srnggetHi d a sw) 0x7FFFFFFF ∧ lands (.srnggetTop d a sw) 1
     | .itv lo hi =>
       lands (.srnggetLo d a sw) (BitVec.ofInt 32 lo) ∧ lands (.srnggetHi d a sw) (BitVec.ofInt 32 hi) ∧
       lands (.srnggetTop d a sw) 0)

/-- R147: with no write of the stream to their registers outstanding, SWIDEN joins [lo, hi] into the target's shadow, or
leaves it where lo > hi, and SRANGE sets it to [lo, hi] when the value lies in it; neither changes a value.  Where a lane
write has landed that no LSYNC has followed, what is read, and whose shadow changes, is the one that the scalar stream sees
(R31). -/
def Claims.ScalarShadowWords : Prop :=
  ∀ (s : State) (g : Group) (d a b : BitVec 6) (sw : Bool), Issues s g →
    sOut g.sc.out (g.sKey d.toNat) = [] → sOut g.sc.out (g.sKey a.toNat) = [] → sOut g.sc.out (g.sKey b.toNat) = [] →
    let k := g.sKey d.toNat
    let x := sHeld s.picks g k
    let lo := (sHeld s.picks g (g.sKey a.toNat)).1.toInt
    let hi := (sHeld s.picks g (g.sKey b.toNat)).1.toInt
    let shadowed := fun (sh : Shadow) => Host.Outcome.next (scalarOn s (shPut s.picks g k sh) (g.spc + 4) sw)
    exec (.swiden d a b sw) s = shadowed (if lo ≤ hi then x.2.join (Shadow.norm lo hi) else x.2) ∧
    (lo ≤ x.1.toInt → x.1.toInt ≤ hi → exec (.srange d a b sw) s = shadowed (Shadow.norm lo hi)) ∧
    (x.1.toInt < lo ∨ hi < x.1.toInt → exec (.srange d a b sw) s = .next (raiseS s s.cur g .range 0)) ∧
    (pubSeen s.picks g k = none → x = g.sAt k ∧ ∀ sh, shPut s.picks g k sh = g.sPut k x.1 sh) ∧
    (∀ i v sh0, pubSeen s.picks g k = some i → g.pub[i]? = some (k, v, sh0) →
      x = (v, sh0) ∧ ∀ sh, shPut s.picks g k sh = { g with pub := g.pub.set i (k, v, sh) })

/-! ## Control flow and array registers -/

/-- R97, R99: a taken SB and SJ go to pc + 4 × the offset, an SB that is not taken to pc + 4; SJAL also writes the return
address to S62 and S63 with exact shadows; SJR goes to a target that R69 admits, and to no other.  That addresses add modulo
2^57 is log entry 13 (PRESUMED). -/
def Claims.ScalarJumps : Prop :=
  ∀ (s : State) (g : Group) (c : SCond) (a b : BitVec 6) (off9 : BitVec 9) (off : BitVec 25) (sw : Bool), Issues s g →
    let x := sRead s.picks g a.toNat
    let y := sRead s.picks g b.toNat
    let taken : Bool := match c with
      | .eq => x.1 == y.1
      | .ne => x.1 != y.1
      | .lt => x.1.slt y.1
      | .ge => y.1.sle x.1
      | .ltn => x.1.ult y.1
      | .gen => y.1.ule x.1
    let target := sVal s.picks g (a.toNat + 1) ++ sVal s.picks g a.toNat
    let ret : W64 := (g.spc + 4).zeroExtend 64
    exec (.sb c a b off9 sw) s = .next (scalarOn s
      (refineS s.picks g (Shadow.SCondRel c taken) a.toNat b.toNat x.2 y.2)
      (if taken then g.spc + BitVec.ofInt 57 (4 * off9.toInt) else g.spc + 4) sw) ∧
    exec (.sj off sw) s = .next (scalarOn s g (g.spc + BitVec.ofInt 57 (4 * off.toInt)) sw) ∧
    (g.sc.full = false →
      exec (.sjal off sw) s = .next (scalarAfter s g .plain
        [wSreg g 62 (ret.extractLsb' 0 32) (Shadow.exact (ret.extractLsb' 0 32)),
         wSreg g 63 (ret.extractLsb' 32 32) (Shadow.exact (ret.extractLsb' 32 32))]
        (g.spc + BitVec.ofInt 57 (4 * off.toInt)) sw)) ∧
    (target.toNat % 4 = 0 → target.toNat < 2 ^ 57 →
      exec (.sjr a sw) s = .next (scalarOn s g (BitVec.ofNat 57 target.toNat) sw)) ∧
    (¬ (target.toNat % 4 = 0 ∧ target.toNat < 2 ^ 57) →
      exec (.sjr a sw) s = .next (raiseS s s.cur g .illegal 0x700))

/-- R102: ASETB writes the base from a pair whose bits [63:57] are clear, ASETX writes the extent and word 3 from legal
values; each leaves the other fields of the array register, and every other register, as they are. -/
def Claims.ArrayRegisterWrites : Prop :=
  ∀ (s : State) (g : Group) (n : BitVec 4) (a b : BitVec 6) (sw : Bool), Issues s g →
    let x := sVal s.picks g a.toNat
    let y := sVal s.picks g b.toNat
    let hi := sVal s.picks g (a.toNat + 1)
    let old := vget g.a n.toNat
    (hi.toNat < 2 ^ 25 →
      ∃ v : ARegVal, v.extractLsb' 0 32 = x ∧ v.extractLsb' 32 32 = hi ∧
        v.extractLsb' 64 64 = old.extractLsb' 64 64 ∧
        exec (.asetb n a sw) s = .next (scalarOn s { g with a := vset g.a n.toNat v } (g.spc + 4) sw)) ∧
    (2 ^ 25 ≤ hi.toNat → exec (.asetb n a sw) s = .next (raiseS s s.cur g .operand 14)) ∧
    (y.toNat < 2 ^ 13 ∧ y.toNat / 8 % 4 ≠ 3 ∧ y.toNat % 8 ≤ 3 →
      ∃ v : ARegVal, v.extractLsb' 0 64 = old.extractLsb' 0 64 ∧ v.extractLsb' 64 32 = x ∧ v.extractLsb' 96 32 = y ∧
        exec (.asetx n a b sw) s = .next (scalarOn s { g with a := vset g.a n.toNat v } (g.spc + 4) sw)) ∧
    (¬ (y.toNat < 2 ^ 13 ∧ y.toNat / 8 % 4 ≠ 3 ∧ y.toNat % 8 ≤ 3) →
      exec (.asetx n a b sw) s = .next (raiseS s s.cur g .operand 8))
/-! ## Results -/

/-- R31, R33, R86: when the result of a scalar word returns, its S register holds the value and its shadow, the result is no
longer outstanding, and every other register of the group and everything outside it is as before; a block whose LRUN followed
the word sees the value.  That a lane value of the register which the scalar stream had not yet seen is overwritten is the
model's choice (log entry 9: DEDUCED). -/
def Claims.ScalarResultLands : Prop :=
  ∀ (s : State) (g : Group) (gid k id key : Nat) (pc : Va) (v : W32) (sh : Shadow) (keep late : Mask),
    s.grp gid = some g → g.trap = none →
    g.sc.out[k]? = some ⟨id, pc, .plain, [.s key v sh false], [], 0, [], 0, 0, [], [], none⟩ →
    ∃ h : Group, exec (.resultReturn gid false k keep late) s = .next (s.setGrp gid h) ∧
      (∃ c : LaneCtx, h =
        { ({ g with
              sc := { g.sc with out := g.sc.out.filter (fun p => p.id != id) } } : Group).sPut key v sh
          with pub := g.pub.filter (fun e => e.1 != key), ctx := c } ∧
        c = { g.ctx with running := c.running, queue := c.queue } ∧
        (∀ b : Block, g.ctx.running = some b → b.due = [] → c.running = some b) ∧
        (∀ (i : Nat) (b : Block), g.ctx.queue[i]? = some b → b.due = [] → c.queue[i]? = some b) ∧
        ∀ (i : Nat) (b : Block) (n : Nat), g.ctx.queue[i]? = some b → b.due = [(id, n)] → key < 64 → g.sKey n = key → n < b.sv.length →
          ∃ b' : Block, c.queue[i]? = some b' ∧ b'.due = [] ∧ b'.addr = b.addr ∧
            ∀ m, nthD 0 b'.sv m = if m = n then v else nthD 0 b.sv m) ∧
      (key < 64 → h.sAt key = (v, sh)) ∧ ∀ j, j ≠ key → h.sAt j = g.sAt j

/-- R33, R119: when the result of a lane word returns, the lanes it wrote hold their values, every other lane and every
other V register keeps its own, and nothing else of the machine but the group and its register file changes; of the words
written no earlier value can be read any more (log entry 29: DEDUCED).  Its shadow goes with it, but while an engine's or a
window's write to the register is in flight the shadow is TOP (R143). -/
def Claims.LaneResultLands : Prop :=
  ∀ (s : State) (g : Group) (gid k id r : Nat) (pc : Va) (lanes : Mask) (vals : List W32) (sh : Shadow) (keep late : Mask),
    s.grp gid = some g → g.trap = none → r < 256 → Store.wf 0 s.rf = true → vals.length = g.width → g.width ≤ 64 →
    g.ln.out[k]? = some ⟨id, pc, .plain, [.v r lanes vals sh false], [], 0, [], 0, 0, [], [], none⟩ →
    ∃ t h, exec (.resultReturn gid true k keep late) s = .next t ∧
      t = { s with rf := t.rf, olds := t.olds, groups := Store.put s.groups gid h } ∧
      (∀ o, o ∈ t.olds ↔ o ∈ s.olds ∧
        ¬ (o.store = 0 ∧ ∃ l, l < g.width ∧ lanes.getLsbD l = true ∧ o.word = rfKey (coreOf gid) g.row0 g.width r l)) ∧
      h = { g with
        ln := { g.ln with out := g.ln.out.filter (fun p => p.id != id) },
        vsh := vset g.vsh r (if vFlight t gid g r then .top else sh) } ∧
      ∀ n l, l < g.width →
        vRaw t gid h n l = if n = r ∧ lanes.getLsbD l = true then nthD 0 vals l else vRaw s gid g n l

/-- R33, R65, R90: when a result that writes a P register, or that ORs flags into FX, returns, the named bits change and
no others do. -/
def Claims.PredicateAndFlagResultsLand : Prop :=
  ∀ (s : State) (g : Group) (gid k id : Nat) (pc : Va) (r : Nat) (lanes vals : Mask) (fs : List (BitVec 6))
    (keep late : Mask), s.grp gid = some g → g.trap = none → g.width ≤ 64 →
    let x : Stream := { g.ln with out := g.ln.out.filter (fun p => p.id != id) }
    (g.ln.out[k]? = some ⟨id, pc, .plain, [.p r lanes vals false], [], 0, [], 0, 0, [], [], none⟩ → r < 8 →
      ∃ q : Vector Mask 8, exec (.resultReturn gid true k keep late) s = .next (s.setGrp gid { g with ln := x, p := q }) ∧
        (∀ n, n ≠ r → vget q n = vget g.p n) ∧
        ∀ l, (vget q r).getLsbD l =
          if lanes.getLsbD l = true ∧ l < g.width then vals.getLsbD l else (vget g.p r).getLsbD l) ∧
    (g.ln.out[k]? = some ⟨id, pc, .plain, [.fxOr fs false], [], 0, [], 0, 0, [], [], none⟩ →
      ∃ f : Vector (BitVec 6) 64,
        exec (.resultReturn gid true k keep late) s = .next (s.setGrp gid { g with ln := x, fx := f }) ∧
        ∀ l, l < 64 → vget f l = if l < g.width then vget g.fx l ||| nthD 0 fs l else vget g.fx l)

/-! ## System registers -/

/-- R10, R88, R91, R92: outside the two EXM halves, which wait for the lane stream, an SMFS writes s[d] with the system
register's value and an exact shadow; reading GTCLO latches the counter's upper half and reading GTCHI returns and drops it.
The moment at which the value is taken is log entry 17 (DEDUCED). -/
def Claims.SystemRegisterReads : Prop :=
  ∀ (s : State) (g : Group) (d : BitVec 6) (sw : Bool), Issues s g → g.sc.full = false →
    let lands := fun (i : Instr) (h : Group) (kind : PKind) (v : W32) =>
      exec i s = .next (scalarAfter s h kind [wSreg g d v (.itv v.toInt v.toInt)] (g.spc + 4) sw)
    let lo : W32 := s.gtc.extractLsb' 0 32
    let hi : W32 := s.gtc.extractLsb' 32 32
    let hiKind : PKind := if g.latch = none then .sysreg 0x015 else .plain
    lands (.gtcloRead d sw) { g with latch := some hi } .plain lo ∧
    lands (.gtchiRead d sw) { g with latch := none } hiKind (g.latch.getD hi) ∧
    lands (.smfs d 0x014 sw) { g with latch := some hi } .plain lo ∧
    lands (.smfs d 0x015 sw) { g with latch := none } hiKind (g.latch.getD hi) ∧
    lands (.smfs d 0x000 sw) g .plain g.mode ∧
    lands (.smfs d 0x001 sw) g .plain (BitVec.ofNat 32 g.role.toNat) ∧
    lands (.smfs d 0x002 sw) g .plain (BitVec.ofNat 32 g.width) ∧
    lands (.smfs d 0x003 sw) g (.sysreg 3) (BitVec.ofNat 32 (g.ln.out.length * 256 + g.sc.out.length)) ∧
    lands (.smfs d 0x008 sw) g (.sysreg 8) (BitVec.ofNat 32 g.ccopy.toNat) ∧
    lands (.smfs d 0x009 sw) g (.sysreg 9) (BitVec.ofNat 32 g.ctrav.toNat) ∧
    lands (.smfs d 0x00A sw) g (.sysreg 10) (BitVec.ofNat 32 g.cattn.toNat) ∧
    lands (.smfs d 0x011 sw) g .plain (BitVec.ofNat 32 (s.cur / 64 / 48 * 64 + s.cur / 64 % 48)) ∧
    lands (.smfs d 0x012 sw) g (.sysreg 0x012) ((vget s.feat (s.cur / 64 / 48)).extractLsb' 0 32) ∧
    lands (.smfs d 0x013 sw) g (.sysreg 0x013) ((vget s.feat (s.cur / 64 / 48)).extractLsb' 32 32) ∧
    (∀ k t, g.tkey = some k → s.team k = some t →
      lands (.smfs d 0x010 sw) g .plain (BitVec.ofNat 32 (t.accbase * 2 ^ 24 + t.spbase * 2 ^ 12 + g.row0))) ∧
    (g.tid = none → lands (.smfs d 0x010 sw) g .plain (BitVec.ofNat 32 g.row0)) ∧
    (g.handler = true →
      (∀ off : Int, -1073741824 < off → off < 1073741824 →
        (g.tpc.toNat : Int) =
          (if g.tcause.getLsbD 8 then ((s.desc g).lbase : Int) + 12 * off else ((s.desc g).sentry : Int) + 4 * off) →
        lands (.smfs d 0x020 sw) g .plain (BitVec.ofBool (g.tcause.getLsbD 8) ++ BitVec.ofInt 31 off)) ∧
      lands (.smfs d 0x025 sw) g .plain (BitVec.ofNat 32 (g.tpc.toNat / 2 ^ 32)) ∧
      lands (.smfs d 0x021 sw) g .plain g.tcause ∧ lands (.smfs d 0x022 sw) g .plain g.tinfo ∧
      lands (.smfs d 0x023 sw) g (.sysreg 0x023) ((s.core (s.cur / 64)).trapbase.extractLsb' 0 32) ∧
      lands (.smfs d 0x024 sw) g .plain (g.tpc.extractLsb' 0 32)) ∧
    (g.saved = none → g.laneIdle = true →
      lands (.smfs d 0x004 sw) g .plain (g.ctx.exm.extractLsb' 0 32) ∧
      lands (.smfs d 0x005 sw) g .plain (g.ctx.exm.extractLsb' 32 32)) ∧
    (∀ pc c, g.saved = some (pc, c) →
      lands (.smfs d 0x004 sw) g .plain (c.exm.extractLsb' 0 32) ∧
      lands (.smfs d 0x005 sw) g .plain (c.exm.extractLsb' 32 32))

/-- R92, R319: SMTS writes MODE from a legal value at once and takes the operand trap from any other; in handler mode it
writes halves of the EXM that ERET restores, ANDed with live, and the trap registers, the trap address staying a multiple
of 4.  Each write changes that register and the scalar PC alone. -/
def Claims.SystemRegisterWrites : Prop :=
  ∀ (s : State) (g : Group) (a : BitVec 6) (sw : Bool), Issues s g →
    let v := sVal s.picks g a.toNat
    let legal : Bool := decide (v.toNat < 2 ^ 13) && decide (v.toNat / 64 % 4 = 0) && decide (v.toNat % 8 < 6)
    let on := fun (i : Instr) (h : Group) => exec i s = .next (scalarOn s h (g.spc + 4) sw)
    (legal = true → on (.modeWrite a sw) { g with mode := v } ∧ on (.smts a 0x000 sw) { g with mode := v }) ∧
    (legal = false →
      exec (.modeWrite a sw) s = .next (raiseS s s.cur g .operand 14) ∧
      exec (.smts a 0x000 sw) s = .next (raiseS s s.cur g .operand 14)) ∧
    (∀ pc c, g.saved = some (pc, c) →
      let lo : Group := { g with saved := some (pc, { c with exm := (c.exm.extractLsb' 32 32 ++ v) &&& g.live }) }
      let hi : Group := { g with saved := some (pc, { c with exm := (v ++ c.exm.extractLsb' 0 32) &&& g.live }) }
      on (.exmloWrite a sw) lo ∧ on (.smts a 0x004 sw) lo ∧ on (.exmhiWrite a sw) hi ∧ on (.smts a 0x005 sw) hi ∧
      on (.trapinfoWrite a sw) { g with tinfo := v } ∧ on (.smts a 0x022 sw) { g with tinfo := v } ∧
      (v.toNat % 4 = 0 →
        let lo : Group := { g with tpc := g.tpc.extractLsb' 32 25 ++ v, tpcWr := true }
        on (.trappcloWrite a sw) lo ∧ on (.smts a 0x024 sw) lo) ∧
      (v.toNat < 2 ^ 25 → g.tpc.toNat % 4 = 0 →
        let hi : Group := { g with tpc := v.extractLsb' 0 25 ++ g.tpc.extractLsb' 0 32, tpcWr := true }
        on (.trappchiWrite a sw) hi ∧ on (.smts a 0x025 sw) hi) ∧
      (let d := s.desc g
       let lane := g.tcause.getLsbD 8
       let at_ : Int := if lane then d.lbase + 12 * (v.extractLsb' 0 31).toInt else d.sentry + 4 * (v.extractLsb' 0 31).toInt
       at_ % 4 = 0 →
        let off : Group := { g with tpc := BitVec.ofInt 57 at_, tpcWr := true }
        on (.trappcWrite a sw) off ∧ on (.smts a 0x020 sw) off)) ∧
    (g.saved = none →
      ∀ i ∈ [Instr.exmloWrite a sw, .exmhiWrite a sw, .trappcWrite a sw, .trappcloWrite a sw, .trappchiWrite a sw,
        .trapinfoWrite a sw], exec i s = .next (raiseS s s.cur g .illegal 0x501))

/-! ## Scalar memory access -/

/-- The address that a scalar access of An makes for the index s[b] + off: none when it is dropped (R103, R149). -/
def scalarAddress (s : State) (g : Group) (n : BitVec 4) (b : BitVec 6) (off : BitVec 7) : Option Nat :=
  let a := vget g.a n.toNat
  let x := sRead s.picks g b.toNat
  (modeIndex a (!insideA a (x.2.shift off.toInt off.toInt)) (x.1.toInt + off.toInt)).map (eltAddr a)

/-- R103: an SLD of an element that can be read writes the element, zero-extended, to s[d], or its two halves to the pair;
a dropped SLD writes 0; the shadows are TOP.  The scalar PC goes on by 4 and no byte of memory changes.  That the whole element
is read at issue is one of the schedule's choices (log entry 29: DEDUCED), and an SLD of an unread line waits (log entry 8). -/
def Claims.ScalarLoads : Prop :=
  ∀ (s : State) (g : Group) (d : BitVec 6) (n : BitVec 4) (b : BitVec 6) (off : BitVec 7) (sw : Bool),
    Issues s g → g.sc.full = false → g.sc.blocked s = false → deferred s.picks = 0 →
    let a := vget g.a n.toNat
    let x := sRead s.picks g b.toNat
    let checked := !insideA a (x.2.shift off.toInt off.toInt)
    let i := x.1.toInt + off.toInt
    let die := dieOf (coreOf s.cur)
    ¬ (aEsz a = 8 ∧ d.toNat % 2 = 1) → aBase a % aEsz a = 0 →
    (checked = true → outA a i = true → aMode a = 1 →
      exec (.sld d n b off sw) s = .next (raiseS s s.cur g .bounds (boundsInfo false n.toNat 0))) ∧
    (¬ (checked = true ∧ outA a i = true ∧ aMode a = 1) →
      (scalarAddress s g n b off = none →
        exec (.sld d n b off sw) s = .next (scalarAfter s g .plain
          (wSreg g d 0 .top :: (if aEsz a = 8 then [.s (g.sKey (d.toNat + 1)) 0 .top false] else [])) (g.spc + 4) sw)) ∧
      (∀ va pa e bs, scalarAddress s g n b off = some va →
        let s1 := keepTrs s die (aspOf s g) [va]
        let s2 := resolve (countLines s1 die pa 1) (pa / 128)
        translate s1 die (aspOf s g) va .read = .ok pa e → (paKind s1 pa).line = true →
        homeRead s2 pa (aEsz a) = some (bs, false) →
        (∀ r ∈ s2.reqs, ¬ (r.2.core = some (coreOf s.cur) ∧ r.2.line = pa / 128)) →
        ∃ h p, exec (.sld d n b off sw) s = .next { s2 with nextId := s2.nextId + 1, groups := Store.put s2.groups s.cur h } ∧
          SameMem s2 { s2 with nextId := s2.nextId + 1, groups := Store.put s2.groups s.cur h } ∧
          SameRegisters g h ∧ h.spc = g.spc + 4 ∧ h.ln = g.ln ∧ h.ctx = g.ctx ∧ h.sc.out.getLast? = some p ∧
          p.id = s2.nextId ∧ p.unsampled = 0 ∧
          p.writes.map (fun w => match w with | .s k v sh _ => some (k, v, sh) | _ => none) =
            some (g.sKey d.toNat, BitVec.ofNat 32 (leNat bs), Shadow.top) ::
              (if aEsz a = 8 then [some (g.sKey (d.toNat + 1), BitVec.ofNat 32 (leNat bs / 2 ^ 32), Shadow.top)] else [])))

/-- R103, R247: an SST sends the request that stores the low bytes of s[d], or of the pair, at the element's address, and
a dropped SST sends none; the scalar PC goes on by 4; no byte of memory has changed yet.  What the request records of order is
the model's (log entry 21). -/
def Claims.ScalarStores : Prop :=
  ∀ (s : State) (g : Group) (d : BitVec 6) (n : BitVec 4) (b : BitVec 6) (off : BitVec 7) (sw : Bool),
    Issues s g → g.sc.blocked s = false →
    let a := vget g.a n.toNat
    let x := sRead s.picks g b.toNat
    let checked := !insideA a (x.2.shift off.toInt off.toInt)
    let i := x.1.toInt + off.toInt
    let die := dieOf (coreOf s.cur)
    let v := if aEsz a = 8 then (sVal s.picks g (d.toNat + 1) ++ sVal s.picks g d.toNat).toNat
      else (sVal s.picks g d.toNat).toNat
    ¬ (aEsz a = 8 ∧ d.toNat % 2 = 1) → aBase a % aEsz a = 0 → ¬ (checked = true ∧ outA a i = true ∧ aMode a = 1) →
    (scalarAddress s g n b off = none → exec (.sst d n b off sw) s = .next (scalarOn s g (g.spc + 4) sw)) ∧
    (∀ va pa e, scalarAddress s g n b off = some va →
      let s1 := keepTrs s die (aspOf s g) [va]
      translate s1 die (aspOf s g) va .write = .ok pa e → (paKind s1 pa).line = true →
      let s2 := countLines s1 die pa 1
      let r := mkReq s2 s.cur g false (.store pa (leBytes (aEsz a) v)) (replMask e) none
      exec (.sst d n b off sw) s = .next (sendReqs (s2.setGrp s.cur (g.goS (g.spc + 4) sw)) s.cur false [r]) ∧
      SameMem s1 (sendReqs (s2.setGrp s.cur (g.goS (g.spc + 4) sw)) s.cur false [r]))

/-! ## Lane control -/

/-- R28, R104: with room in the queue, LRUN queues the block at L + 12 × imm19 with the MODE it captures and the registers
as the program order has left them (R31, R93): a register's last landed value, and the results still outstanding, which the
block sees when they return; the block holds what the scalar accesses before it leave for its own accesses to follow (R32), in
the form that the model gives order (log entry 21).  That a scalar result outstanding at LRUN reaches the block when it returns
is the model's reading (log entry 9: DEDUCED).  A full queue of eight stalls it. -/
def Claims.LrunQueuesBlock : Prop :=
  ∀ (s : State) (g : Group) (idx : BitVec 19) (sw : Bool), Issues s g →
    let n := g.ctx.queue.length + (if g.ctx.running.isSome then 1 else 0)
    (n < 8 → ∃ b : Block, b.addr = BitVec.ofNat 57 ((s.desc g).lbase + 12 * idx.toNat) ∧ b.mode = g.mode ∧
      (∀ r, r < 64 → (∀ e ∈ g.pub, e.1 ≠ g.sKey r) →
        nthD 0 b.sv r = (g.sAt (g.sKey r)).1 ∧ nthD .top b.ssh r = (g.sAt (g.sKey r)).2) ∧
      (∀ r, r < 64 → ∀ v sh xs ys, g.pub = xs ++ (g.sKey r, v, sh) :: ys → (∀ e ∈ ys, e.1 ≠ g.sKey r) →
        nthD 0 b.sv r = v ∧ nthD .top b.ssh r = sh) ∧
      (∀ r, r < 16 → nthD 0 b.av r = vget g.a r) ∧
      (∀ p ∈ g.sc.out, ∀ k v sh o, .s k v sh o ∈ p.writes → (p.id, if k < 64 then k else k - 8) ∈ b.due) ∧
      (∀ e ∈ b.due, ∃ p ∈ g.sc.out, e.1 = p.id) ∧
      b.cov = live s g.sc.cov ∧ b.rel = g.sc.rel ∧ b.acq = live s (g.sc.acq ++ g.sc.reads) ∧
      exec (.lrun idx sw) s = .next (scalarOn s
        { g with ctx := { g.ctx with queue := g.ctx.queue ++ [b] } } (g.spc + 4) sw)) ∧
    (8 ≤ n → exec (.lrun idx sw) s = .next s)

/-- R29, R30: a block starts when none is running: the oldest queued block runs from its address with EXM set to the live
mask and an empty stack; a block whose LEXIT has issued retires when its results have returned; LSYNC goes on once queue
and block are empty and every lane result has returned, with the lanes' S writes visible, and stalls till then.  Where a block
starts its accesses follow what its LRUN left, and after LSYNC the lanes' accesses precede the scalar stream's (R32), in the form
that the model gives order (log entry 21). -/
def Claims.LaneBlocks : Prop :=
  ∀ (s : State) (gid : Nat) (g : Group) (sw : Bool),
    (s.grp gid = some g → ∀ b q, g.ctx.running = none → g.ctx.queue = b :: q →
      g.halted = false → g.tstop = false → g.trap = none →
      exec (.blockStart gid) s = .next (s.setGrp gid { g with
        ctx := { lpc := b.addr, exm := g.live, held := [], spilled := 0, prog := g.ctx.prog,
                 part := false, counted := g.ctx.counted, running := some b,
                 exited := false, queue := q },
        ln := { g.ln with park := false, parts := [], cov := live s (g.ln.cov ++ b.cov), rel := g.ln.rel ++ b.rel,
                          acq := live s (g.ln.acq ++ b.acq) } })) ∧
    (s.grp gid = some g → g.ctx.exited = true → g.ln.out = [] →
      exec (.blockRetire gid) s = .next (s.setGrp gid { g with ctx := { g.ctx with running := none, exited := false } })) ∧
    (Issues s g → g.ctx.queue = [] → g.ctx.running = none → g.ln.out = [] →
      let h := g.publish
      exec (.lsync sw) s = .next (scalarOn s { h with sc := { h.sc with
          cov := live s (h.sc.cov ++ h.ln.cov), acq := live s (h.sc.acq ++ h.ln.acq), seen := liveRels s (h.sc.seen ++ h.ln.seen) } }
        (h.spc + 4) sw) ∧ h.spc = g.spc ∧ h.pub = [] ∧
        ∀ k v sh ws, g.pub = ws ++ [(k, v, sh)] → k < 72 → h.sAt k = (v, sh)) ∧
    (Issues s g → (g.ctx.queue ≠ [] ∨ g.ctx.running ≠ none ∨ g.ln.out ≠ []) → exec (.lsync sw) s = .next s)

/-! ## Commands to engines and walkers -/

/-- The read of a 64-byte block goes on, with the state u and the block's bytes. -/
def BlockRead (s : State) (g : Group) (addr : Nat) (u : State) (block : BitVec 512) : Prop :=
  ∀ k, readBlock s s.cur g false addr k = k u block

/-- R106, R157: a block on a mapped page of HBM, whose line is uncached, unwritten by its core and sound, is read as the
64 bytes that memory holds there, and reading it leaves memory and registers as they are.  That the reading of HBM meets no
error is the schedule's choice (log entry 15: DESIGN CHOICE). -/
def Obligations.CommandBlockIsRead : Prop :=
  ∀ (s : State) (g : Group) (addr : Nat) (e : TlbEntry), Issues s g →
    addr % 64 = 0 → addr < 2 ^ 57 →
    s.tlb.find? (fun x => x.die == dieOf (coreOf s.cur) && x.asp == aspOf s g && x.vpn == addr / 65536) = some e →
    e.rmask = 0 →
    let pa := e.frame * 65536 + addr % 65536
    inHbm (128 * (pa / 128)) = true → s.reqs = [] → s.copies = [] → s.flips = [] → s.hostBias = [] →
    s.plat.channels = [] → s.relTags = [] → pickMask s.picks (pkMedia (pa / 128)) = 0 → elyRaw s (pa / 128) = 0 → chkBad s (pa / 32) = false → chkBad s (pa / 32 + 1) = false →
    BlockRead s g addr
      (s.setGrp s.cur { g with sc := { g.sc with cov := live s g.sc.cov, acq := live s g.sc.acq, seen := liveRels s g.sc.seen } }) (ofBytes 512 (memBytes s pa 64))

/-- R106: with a legal address, slice and mask, TCOPY queues slice i of n in the team's pending command for its block, or
opens that command, and the scalar PC goes on by 4; an address that is no block's, a slice number outside the count, a mask
without the group's own bit, and a mask of another count of groups take the operand trap.  CCOPY counts a command once for each
group, and the group's scratchpad stores are performed when it is given (log entries 21 and 29: DEDUCED). -/
def Claims.TcopyQueuesSlice : Prop :=
  ∀ (s : State) (g : Group) (a b : BitVec 6) (i nm1 : BitVec 5) (sw : Bool) (tid : Nat) (t : Team), Issues s g →
    (g.role = 0 ∨ g.role = 3) → g.tid = some tid → s.team (teamKey g.lid tid) = some t →
    let addr := sVal s.picks g (a.toNat + 1) ++ sVal s.picks g a.toNat
    let mask := sVal s.picks g b.toNat
    let n := nm1.toNat + 1
    ((addr.toNat % 64 ≠ 0 ∨ 2 ^ 57 ≤ addr.toNat) →
      exec (.tcopy a b i nm1 sw) s = .next (raiseS s s.cur g .operand 20)) ∧
    (addr.toNat % 64 = 0 → addr.toNat < 2 ^ 57 →
      (n ≤ i.toNat → exec (.tcopy a b i nm1 sw) s = .next (raiseS s s.cur g .operand 1)) ∧
      (i.toNat < n → mask.getLsbD g.gidx = false →
        exec (.tcopy a b i nm1 sw) s = .next (raiseS s s.cur g .operand 14)) ∧
      (i.toNat < n → mask.getLsbD g.gidx = true → popCount mask ≠ n →
        exec (.tcopy a b i nm1 sw) s = .next (raiseS s s.cur g .operand 6))) ∧
    (addr.toNat % 64 = 0 → addr.toNat < 2 ^ 57 → i.toNat < n → mask.getLsbD g.gidx = true → popCount mask = n →
      copiesOf s g < 64 → g.sc.blocked s = false →
      ∀ u h block, BlockRead s g addr.toNat u block → u.grp s.cur = some h →
        let w := u.setGrp s.cur (h.goS (h.spc + 4) sw)
        let end_ := fun (id : Nat) (c : Copy) (w : State) =>
          let c := if c.queued then { c with state := .running }
            else if c.lost (w.desc h) t then { c with state := .running, disagree := true } else c
          ({ w with copies := Store.put w.copies id c } : State).updGrp s.cur fun g =>
            { g with copyq := if g.copyq.contains id then g.copyq else g.copyq ++ [id] }
        let cov := Stream.covered w (h.goS (h.spc + 4) sw).sc
        let w := released w s.cur
        (∀ id c, pendingCopy w (teamKey g.lid tid) addr.toNat = some (id, c) →
          exec (.tcopy a b i nm1 sw) s = .next (end_ id
            { c with
              parts := c.parts ++ [⟨h.gidx, i.toNat⟩],
              disagree := c.disagree || block != c.block || n != c.n || mask != c.mask ||
                c.parts.any fun p => p.slice == i.toNat,
              cov := c.cov ++ cov } w)) ∧
        (pendingCopy w (teamKey g.lid tid) addr.toNat = none →
          exec (.tcopy a b i nm1 sw) s = .next (end_ w.nextId
            { lid := h.lid, tid := h.tid.getD 0, core := coreOf s.cur, addr := addr.toNat, block := block, mask := mask,
              n := n, mode := h.smode, parts := [⟨h.gidx, i.toNat⟩], disagree := false, state := .pending,
              started := false, status := 0, next := List.replicate n 0, srcs := [], vmap := [], placed := false, want := [],
              held := [], stamp := none, stampOk := false, vaddr := 0, cov := cov } { w with nextId := w.nextId + 1 })))

/-- R285: with the right role, feature and address, and tiles that lie in the allocation, ATTN gives its command to the
engine with the block, p0 and MODE it captured, and the scalar PC goes on by 4; the group's scratchpad stores are then performed
(log entry 29: DEDUCED). -/
def Claims.AttnGivesCommand : Prop :=
  ∀ (s : State) (g : Group) (a b : BitVec 6) (ctl : BitVec 5) (sw : Bool) (tid : Nat) (t : Team), Issues s g →
    g.tid = some tid → s.team (teamKey g.lid tid) = some t →
    let addr := sVal s.picks g (a.toNat + 1) ++ sVal s.picks g a.toNat
    (¬ (g.role = 1 ∨ g.role = 3) → exec (.attn a b ctl sw) s = .next (raiseS s s.cur g .role (roleInfo g))) ∧
    ((g.role = 1 ∨ g.role = 3) → hasFeat s s.cur 0 = false →
      exec (.attn a b ctl sw) s = .next (raiseS s s.cur g .feature 0)) ∧
    ((g.role = 1 ∨ g.role = 3) → hasFeat s s.cur 0 = true → addr.toNat % 64 = 0 → addr.toNat < 2 ^ 57 → g.width ≠ 16 →
      (attnsOf s g).length < 64 → g.sc.blocked s = false →
      ∀ u h block, BlockRead s g addr.toNat u block → u.grp s.cur = some h →
        let c : Attn :=
          { lid := h.lid, tid := h.tid.getD 0, gidx := h.gidx, core := coreOf s.cur, block := block,
            p0 := sVal s.picks g b.toNat, ctl := ctl, mode := h.smode, state := .pending, started := false, status := 0,
            next := 0, stale := 0, looks := 0, qs := none, got := [], map := none, acc := none, fined := false, mapPa := none, stamp := none,
            stampOk := false, vaddr := 0, cov := Stream.covered u h.sc }
        let tiles := c.tiles h.width ++ [c.zs]
        (c.tyOk = false ∨
          (badTile (u.desc h) h.width tiles = none ∧ ¬ (h.width = 64 ∧ (c.zo % 2 = 1 ∨ c.zs % 2 = 1)) ∧
           (c.tiles h.width).contains c.zs = false ∧ tiles.any (touched h) = false)) →
        exec (.attn a b ctl sw) s = .next
          (({ released u s.cur with attns := Store.put u.attns u.nextId c, nextId := u.nextId + 1 } : State).setGrp s.cur
            (h.goS (h.spc + 4) sw)))

/-- R298: with the feature bit and a legal block for slot n, TVLAYOUT puts the layout into slot n of its launch. -/
def Claims.TvlayoutSetsSlot : Prop :=
  ∀ (s : State) (g : Group) (a : BitVec 6) (n : BitVec 4) (sw : Bool), Issues s g →
    let addr := sVal s.picks g (a.toNat + 1) ++ sVal s.picks g a.toNat
    (hasFeat s s.cur 1 = false → exec (.tvlayout a n sw) s = .next (raiseS s s.cur g .feature 1)) ∧
    (hasFeat s s.cur 1 = true → addr.toNat % 64 = 0 → addr.toNat < 2 ^ 57 → g.sc.blocked s = false →
      ∀ u h x, BlockRead s g addr.toNat u x → u.grp s.cur = some h →
        Lay.reservedBad x = false → Lay.valueBad x = false → Lay.slot x = n.toNat → Lay.beyond x = false →
        exec (.tvlayout a n sw) s = .next
          ((u.updLaunch h.lid fun l => { l with layouts := Store.put l.layouts n.toNat x }).setGrp s.cur
            (h.goS (h.spc + 4) sw)))

/-- R114: with an address that is a multiple of 128, TASK hands the node to the walker of its die, where it is the root of a
new graph at priority p, behind the accesses that the group has made; a misaligned address takes the operand trap.  That the
walker's first operation follows at once is log entry 23 (DEDUCED); what the graph covers, and that the group's scratchpad
stores are then performed, are log entries 21 and 29 (DEDUCED). -/
def Claims.TaskStartsGraph : Prop :=
  ∀ (s : State) (g : Group) (a : BitVec 6) (p : BitVec 2) (sw : Bool), Issues s g →
    let addr := sVal s.picks g (a.toNat + 1) ++ sVal s.picks g a.toNat
    let die := dieOf (coreOf s.cur)
    (addr.toNat % 128 ≠ 0 → exec (.task a p sw) s = .next (raiseS s s.cur g .operand 20)) ∧
    (addr.toNat % 128 = 0 → g.sc.blocked s = false →
      (s.graphs.filter fun x => x.2.die == die).length < 1024 →
      let gr : Graph :=
        { die := die, asp := aspOf s g, root := addr.toNat, prio := p.toNat, state := .running, failed := 0, endNode := 0,
          watched := [], todo := [(0, addr.toNat)], dparts := [], cov := Stream.covered s g.sc }
      exec (.task a p sw) s = .next (walkOne
        { scalarOn (released s s.cur) g (g.spc + 4) sw with graphs := Store.put s.graphs s.nextId gr, nextId := s.nextId + 1 } s.nextId))

/-! ## Waits -/

/-- The group has gone on from a wait of its scalar stream: it is g with its wait over and the scalar PC at pc; the word
has issued, so a breakpoint may fire on the next one (R324). -/
def wokenS (g : Group) (pc : Va) : Group :=
  { g with
    spc := pc, sc := ({ g.sc with wait := none, wsw := false } : Stream).mark g.sc.wsw,
    noBp := if g.noBp = some false then none else g.noBp }

/-- A scalar stream that begins to wait at its word. -/
def waitingS (g : Group) (w : Wait) (sw : Bool) : Group := { g with sc := { g.sc with wait := some w, wsw := sw } }

/-- After the lane stream has gone idle the scalar stream's releases cover the lanes' accesses, and what those have read
(R30, R32); in the form that the model gives order (log entry 21). -/
def laneSeen (s : State) (g : Group) : Group :=
  { g with sc := { g.sc with
      cov := live s (g.sc.cov ++ g.ln.cov), acq := live s (g.sc.acq ++ g.ln.acq),
      seen := liveRels s (g.sc.seen ++ g.ln.seen) } }

/-- The group may go on: nothing halts it and no trap is pending. -/
def Awake (g : Group) : Prop := g.halted = false ∧ g.tstop = false ∧ g.trap = none

/-- R107, R109, R283: CWAIT goes on when (C − T) mod 2^16 is below 2^15 and waits otherwise, and a waiting one goes on when
its counter is there; YIELD, once the lane stream is idle, does the same with the continuation as its next address, which
R69 must admit.  What the scalar stream then orders is in the form of log entry 21 (DEDUCED). -/
def Claims.CounterWaits : Prop :=
  ∀ (s : State) (g : Group) (ctr : Ctr) (a b : BitVec 6) (sw : Bool), Issues s g →
    let counter := match ctr with | .ccopy => g.ccopy | .ctrav => g.ctrav | .cattn => g.cattn
    let t : BitVec 16 := (sVal s.picks g a.toNat).extractLsb' 0 16
    let target := sVal s.picks g (b.toNat + 1) ++ sVal s.picks g b.toNat
    ((counter - t).toNat < 2 ^ 15 → exec (.cwait ctr a sw) s = .next (scalarOn s g (g.spc + 4) sw)) ∧
    (2 ^ 15 ≤ (counter - t).toNat → exec (.cwait ctr a sw) s = .next (s.setGrp s.cur (waitingS g (.cwait ctr t) sw))) ∧
    (∀ u : BitVec 16, g.sc.wait = some (.cwait ctr u) → Awake g → stepped s s.cur g = false →
      (counter - u).toNat < 2 ^ 15 →
      exec (.counterWaitMet s.cur false) s = .next (s.setGrp s.cur (wokenS g (g.spc + 4)))) ∧
    (g.laneIdle = true → g.pub = [] →
      let h : Group := laneSeen s g
      (¬ (target.toNat % 4 = 0 ∧ target.toNat < 2 ^ 57) →
        exec (.yield ctr a b sw) s = .next (raiseS s s.cur g .illegal 0x700)) ∧
      (target.toNat % 4 = 0 → target.toNat < 2 ^ 57 → (counter - t).toNat < 2 ^ 15 →
        exec (.yield ctr a b sw) s = .next (scalarOn s h (BitVec.ofNat 57 target.toNat) sw)) ∧
      (target.toNat % 4 = 0 → target.toNat < 2 ^ 57 → 2 ^ 15 ≤ (counter - t).toNat →
        exec (.yield ctr a b sw) s =
          .next (s.setGrp s.cur (waitingS h (.yield ctr t (BitVec.ofNat 57 target.toNat)) sw)))) ∧
    (∀ (u : BitVec 16) (pc : Va), g.sc.wait = some (.yield ctr u pc) → Awake g → stepped s s.cur g = false →
      (counter - u).toNat < 2 ^ 15 →
      exec (.yieldReactivate s.cur) s = .next (s.setGrp s.cur (wokenS g pc)))

/-- R110: BAR, with a legal count, arrives at its barrier and waits; when the phase has all its arrivals, the release lets
every group that waits there go on, starts the next phase, and leaves every other group as it is.  That an arrival performs the
group's scratchpad stores, and what it records of order, are the model's (log entries 29 and 21: DEDUCED); where barriers lie is
log entry 88 (DESIGN CHOICE). -/
def Claims.Barriers : Prop :=
  ∀ (s : State) (g : Group) (a : BitVec 6) (n : BitVec 4) (sw : Bool) (tid : Nat) (t : Team), Issues s g →
    g.tid = some tid → s.team (teamKey g.lid tid) = some t →
    let c := (sVal s.picks g a.toNat).toNat
    let b := barAt t n.toNat
    (g.arrived = none → (c < 1 ∨ (s.desc g).groups < c) →
      exec (.bar a n sw) s = .next (raiseS s s.cur g .operand 14)) ∧
    (g.arrived = none → 1 ≤ c → c ≤ (s.desc g).groups → g.laneIdle = true → g.pub = [] → g.sc.out = [] →
      (s.desc g).pair = false → (b.arr = [] ∨ (b.count = c ∧ b.arr.length < c)) →
      let h : Group := laneSeen s g
      exec (.bar a n sw) s = .next
        (((released s s.cur).updTeam (teamKey g.lid tid) fun t =>
            setBar t n.toNat { b with count := c, arr := b.arr ++ [g.gidx], cov := live s (b.cov ++ Stream.covered s h.sc) }).setGrp
          s.cur { waitingS h (.bar n.toNat) sw with arrived := some (n.toNat, b.phase) })) ∧
    (b.arr.length = b.count → 0 < b.count → Store.sorted s.groups = true → (∀ k, (s.core k).step = 0) →
      ∃ u : State, exec (.barrierRelease (teamKey g.lid tid) n.toNat) s = .next u ∧
        (u.team (teamKey g.lid tid)).map (fun t => barAt t n.toNat) = some ⟨0, [], !b.phase, b.cov⟩ ∧
        u.mem = s.mem ∧
        ∀ k h, s.grp k = some h → ∃ h', u.grp k = some h' ∧
          (if h.lid = t.lid ∧ h.tid = t.tid ∧ h.arrived = some (n.toNat, b.phase) ∧ h.sc.wait = some (.bar n.toNat)
           then h'.spc = h.spc + 4 ∧ h'.sc.wait = none ∧ h'.arrived = none ∧ SameRegisters { h with arrived := none, noBp := h'.noBp } h'
           else h' = h))

/-- R111, R112: STGACQ passes when the stage's phase is the one asked for and waits otherwise; STGREL counts one release,
and the release that makes have equal need starts the next phase with have 0.  The ring's words are read as the group sees them
where another writer's store is in flight (R21, R250).  That a release performs the group's scratchpad stores, that a reading
performs the stores it has seen, and what is recorded of order, are the model's (log entries 29 and 21: DEDUCED). -/
def Claims.StageRings : Prop :=
  ∀ (s : State) (g : Group) (a : BitVec 6) (st : BitVec 12) (sw : Bool) (tid : Nat) (t : Team), Issues s g →
    g.tid = some tid → s.team (teamKey g.lid tid) = some t →
    let v := sVal s.picks g a.toNat
    let x := 8 * (v.toNat / 8)
    let d := s.desc g
    let at_ := x + 8 + 4 * st.toNat
    let me := spadSrc s.cur
    let word : W32 := ofBytes 32 (spadBytes s me d t at_ 4)
    let nst := leNat (spadBytes s me d t x 2)
    let saw := fun (y : Nat) (u : State) => readSpad u me (spadWords d t y 4)
    (d.spq < at_ + 4 ∨ nst ≤ st.toNat →
      exec (.stgacq a st sw) s = .next (raiseS s s.cur g .operand 1) ∧
      exec (.stgrel a st sw) s = .next (raiseS s s.cur g .operand 1)) ∧
    (at_ + 4 ≤ d.spq → st.toNat < nst →
      (v.toNat / 2 % 4 = 0 →
        exec (.stgacq a st sw) s = .next
          (if word.getLsbD 31 = v.getLsbD 0 then
            scalarOn (saw at_ s) { g with sc := { g.sc.gain s (ringCov t at_) with wait := none } } (g.spc + 4) sw
           else s.setGrp s.cur (waitingS g (.stg x st.toNat (v.getLsbD 0)) sw))) ∧
      (∀ need have_ : Nat, ∀ phase : Bool, word.toNat % 256 = have_ → word.toNat / 256 % 256 = need →
        word.getLsbD 31 = phase → v.toNat % 8 = 0 → have_ < need → g.laneIdle = true → g.pub = [] → g.sc.out = [] →
        d.pair = false →
        ∃ w : W32, (w.toNat % 256 = if have_ + 1 = need then 0 else have_ + 1) ∧
          (w.getLsbD 31 = if have_ + 1 = need then !phase else phase) ∧
          (∀ i, 8 ≤ i → i < 31 → w.getLsbD i = word.getLsbD i) ∧
          let h : Group := laneSeen s g
          exec (.stgrel a st sw) s = .next
            (((spadWrite (saw at_ (released s s.cur)) d t at_ (bytesOf w)).updTeam (teamKey g.lid tid) fun t =>
              addRing t at_ (Stream.covered s h.sc)).setGrp s.cur (h.goS (h.spc + 4) sw)))) ∧
    (∀ y k ph, g.sc.wait = some (.stg y k ph) → Awake g → stepped s s.cur g = false →
      (ofBytes 32 (spadBytes s me d t (y + 8 + 4 * k) 4) : W32).getLsbD 31 = ph →
      exec (.stagePhaseObserved s.cur) s = .next ((saw (y + 8 + 4 * k) s).setGrp s.cur
        (wokenS { g with sc := g.sc.gain s (ringCov t (y + 8 + 4 * k)) } (g.spc + 4))))

/-- R42, R113: GROW to a quota whose rows are free raises the quota, the new registers and the rest of the new rows undefined,
and waits while they are not; a waiting GROW goes on when they are; SHRINK lowers the quota once the lane stream is idle, and
stalls till then; an illegal quota traps.  That a SHRINK to the present quota, which has no effect, goes on whatever the lane
queue holds is the model's reading (log entry 105: DEDUCED). -/
def Claims.Quotas : Prop :=
  ∀ (s : State) (g : Group) (q : BitVec 12) (sw : Bool), Issues s g →
    let n := q.toNat
    (n = g.q → exec (.grow q sw) s = .next (scalarOn s g (g.spc + 4) sw) ∧
      exec (.shrink q sw) s = .next (scalarOn s g (g.spc + 4) sw)) ∧
    (n ≠ g.q → (n = 0 ∨ g.qmax < n ∨ n < g.q) →
      exec (.grow q sw) s = .next (raiseS s s.cur g .quota (BitVec.ofNat 32 (2 + n * 256)))) ∧
    (n ≠ g.q → (n = 0 ∨ g.qmax < n ∨ g.q < n) →
      exec (.shrink q sw) s = .next (raiseS s s.cur g .quota (BitVec.ofNat 32 (2 + n * 256)))) ∧
    (g.q < n → n ≤ g.qmax → growFree s s.cur g n s.nextId = true →
      exec (.grow q sw) s = .next (receive s s.cur { g.goS (g.spc + 4) sw with q := n } g.q n)) ∧
    (g.q < n → n ≤ g.qmax → growFree s s.cur g n s.nextId = false →
      exec (.grow q sw) s = .next
        (({ s with nextId := s.nextId + 1 } : State).setGrp s.cur (waitingS g (.grow n s.nextId) sw))) ∧
    (0 < n → n < g.q → n ≤ g.qmax → g.laneIdle = true →
      exec (.shrink q sw) s = .next (scalarOn s { g with q := n } (g.spc + 4) sw)) ∧
    (0 < n → n < g.q → n ≤ g.qmax → g.laneIdle = false → exec (.shrink q sw) s = .next s) ∧
    (∀ m seq, g.sc.wait = some (.grow m seq) → Awake g → stepped s s.cur g = false → growFree s s.cur g m seq = true →
      ∃ u h, exec (.growGrant s.cur) s = .next u ∧ u.grp s.cur = some h ∧ h.q = m ∧ h.spc = g.spc + 4 ∧
        h.sc.wait = none ∧ h.s = g.s ∧ h.p = g.p ∧ h.ctx = g.ctx ∧ u.mem = s.mem ∧ u.teams = s.teams ∧
        ∀ k, k ≠ s.cur → u.grp k = s.grp k)

/-- R108: MWAIT at an address that can be read goes on when the stamp meets its condition, and waits otherwise; each
later reading decides again; an address that is no multiple of 8 takes the operand trap.  When the wait reads again is the
schedule's, and what an acquire gains is recorded in the model's form (log entries 8 and 21). -/
def Claims.MwaitReadsStamp : Prop :=
  ∀ (s : State) (g : Group) (cmp : MCmp) (acq : Option Scope) (a b : BitVec 6) (sw : Bool), Issues s g →
    let addr := (sVal s.picks g (a.toNat + 1) ++ sVal s.picks g a.toNat : W64).toNat
    let v : W64 := sVal s.picks g (b.toNat + 1) ++ sVal s.picks g b.toNat
    let meets := fun (x v : W64) => match cmp with | .eq => x = v | .ne => x ≠ v | .gen => v.toNat ≤ x.toNat
    let die := dieOf (coreOf s.cur)
    (addr % 8 ≠ 0 → exec (.mwait cmp acq a b sw) s = .next (raiseS s s.cur g .operand 20)) ∧
    (addr % 8 = 0 → g.sc.blocked s = false → g.halted = false → g.tstop = false → g.trap = none →
      stepped s s.cur g = false →
      ∀ pa e bs, let s1 := keepTrs s die (aspOf s g) [addr]
        let s2 := resolve s1 (pa / 128)
        translate s1 die (aspOf s g) addr .read = .ok pa e → (paKind s1 pa).line = true →
        homeRead s2 pa 8 = some (bs, false) →
        (∀ r ∈ s2.reqs, ¬ (r.2.core = some (coreOf s.cur) ∧ r.2.line = pa / 128)) → s2.groups = s.groups →
        let x : W64 := ofBytes 64 bs
        let rels := relsRead s2 pa 8 []
        let more := acqCover s.cur g acq rels
        (meets x v → ∃ u, exec (.mwait cmp acq a b sw) s = .next u ∧
          u.grp s.cur = some (wokenS
            { g with sc := { g.sc.gain s2 more with wsw := sw, seen := liveRels s2 (g.sc.seen ++ rels) } } (g.spc + 4)) ∧
          u.mem = s2.mem ∧ ∀ k, k ≠ s.cur → u.grp k = s.grp k) ∧
        (¬ meets x v → ∃ u, exec (.mwait cmp acq a b sw) s = .next u ∧
          u.grp s.cur = some (waitingS g (.mwait cmp acq addr v) sw) ∧ u.mem = s2.mem) ∧
        (meets x v → g.sc.wait = some (.mwait cmp acq addr v) → ∃ u, exec (.mwaitReread s.cur) s = .next u ∧
          u.grp s.cur = some (wokenS
            { g with sc := { g.sc.gain s2 more with seen := liveRels s2 (g.sc.seen ++ rels) } } (g.spc + 4)) ∧
          u.mem = s2.mem))

/-! ## Fences, traps and ends -/

/-- R115, R118, R164, R253: SNOP and the fences go on at the next word, and change of their group no more than what its stream
must order later: with .ACQ the outstanding reads become acquires that later accesses follow, and the releases that earlier
reads returned are acquired (R252); with .REL later writes follow what the stream covers, at the fence's scope, and the group's
scratchpad stores are performed (R251).  The form in which a stream holds this, its lists out, cov, acq and rel, is the model's
(log entry 21: DEDUCED), as is when scratchpad stores are performed (log entry 29: DEDUCED). -/
def Claims.FencesAndNop : Prop :=
  ∀ (s : State) (g : Group) (ord : FOrd) (sc : Scope) (nf sw : Bool), Issues s g →
    let u := if ord = .acq then s else released s s.cur
    let fenced := fun (x y : Stream) =>
      y = { x with out := y.out, cov := y.cov, rel := y.rel, acq := y.acq } ∧
      (ord = .rel → y.out = x.out ∧ y.cov = x.cov ∧ y.acq = x.acq) ∧
      (ord ≠ .rel →
        y.out = x.out.map (fun p => if p.kind = .plain then p else { p with acq := some (wider p.acq sc) }) ∧
        y.cov = live s (x.cov ++ acqCover s.cur g (some sc) x.seen) ∧ (∀ i, i ∈ x.reads → i ∈ y.acq) ∧
        ∀ i, i ∈ x.acq → pendingId s i = true → i ∈ y.acq) ∧
      (ord = .acq → y.rel = x.rel) ∧
      (ord ≠ .acq → y.rel =
        (x.rel.filter fun f => f.cover.any (pendingId s)) ++ [⟨Stream.covered s y, sc, farScope s g sc⟩])
    exec (.snop sw) s = .next (scalarOn s g (g.spc + 4) sw) ∧
    (∃ y, fenced g.sc y ∧ exec (.sfence ord sc sw) s = .next (scalarOn u { g with sc := y } (g.spc + 4) sw)) ∧
    (∃ y, fenced g.ln y ∧ exec (.lfence nf sw ord sc) s = .next (laneOn u { g with ln := y } (g.ctx.lpc + 12) sw))

/-- The group as it stands in handler mode for a trap of a stream at an address (R316, R319). -/
def inHandlerMode (s : State) (gid : Nat) (g : Group) (lane : Bool) (pc : Va) (cause : Nat) (info : W32)
    (xlde : Bool) : Group :=
  { g with
    saved := some (g.spc, g.ctx), spc := (s.core (gid / 64)).trapbase,
    ctx := { lpc := g.ctx.lpc, exm := g.ctx.exm, held := [], spilled := 0, prog := 0, part := false, counted := false, running := none,
             exited := false, queue := [] },
    tpc := pc, tcause := BitVec.ofNat 32 (cause + if lane then 256 else 0), tinfo := info, tpcWr := false, txlde := xlde,
    trap := none, latch := none, sc := { g.sc with wait := none, wsw := false, parts := [] },
    ln := { g.ln with wait := none, wsw := false, parts := [] },
    noBp := none, pub := [] }

/-- R116, R67, R316: outside handler mode, on a core whose TRAPBASE is set, with no result outstanding and the lane stream at an
instruction boundary, TRAP, BRK and a word that is no instruction enter handler mode at once: the scalar PC is TRAPBASE, the
interrupted PC and lane context are set aside, and the trap registers name the word, its cause and its information. -/
def Claims.TrapWordsEnterHandler : Prop :=
  ∀ (s : State) (g : Group) (code : BitVec 13) (reason : BitVec 8) (pos : BitVec 7) (sw : Bool), Issues s g →
    g.saved = none → g.sc.out = [] → g.ln.out = [] → g.pub = [] → (s.core (s.cur / 64)).trapbase ≠ 0 →
    (g.ctx.part = false →
      exec (.trap code sw) s = .next (s.setGrp s.cur (inHandlerMode s s.cur g false g.spc 14 (BitVec.ofInt 32 code.toInt) false)) ∧
      (let u := s.setGrp s.cur (inHandlerMode s s.cur g false g.spc 11 (BitVec.ofInt 32 code.toInt) false)
       exec (.brk code sw) s = .next (if (s.core (s.cur / 64)).tstop then teamStop u s.cur g true else u)) ∧
      exec (.wordNotAnInstruction false reason pos) s = .next (s.setGrp s.cur
        (inHandlerMode s s.cur g false g.spc 1 (BitVec.ofNat 32 (reason.toNat * 256 + pos.toNat)) false))) ∧
    exec (.wordNotAnInstruction true reason pos) s = .next (s.setGrp s.cur
      (inHandlerMode s s.cur { g with ctx := { g.ctx with part := false } } true g.ctx.lpc 1
        (BitVec.ofNat 32 (reason.toNat * 256 + 128 + pos.toNat)) false))

/-- R316: with results outstanding, or the lane stream inside a CST or XLDE that has committed positions, the trap is pending,
both streams' waits count as not issued, and nothing else changes; its entry stalls till then, and once the last result has
returned and that word has ended enters handler mode. -/
def Claims.TrapWaitsForResults : Prop :=
  ∀ (s : State) (g : Group) (code : BitVec 13) (sw : Bool), Issues s g → g.saved = none →
    (s.core (s.cur / 64)).trapbase ≠ 0 →
    ((g.sc.out ≠ [] ∨ g.ln.out ≠ [] ∨ g.ctx.part = true) →
      exec (.trap code sw) s = .next (s.setGrp s.cur { g with
        trap := some ⟨14, BitVec.ofInt 32 code.toInt, false, g.spc, false⟩,
        sc := { g.sc with wait := none, wsw := false, parts := [] },
        ln := { g.ln with wait := none, wsw := false, parts := [] } })) ∧
    (∀ t : TrapRec, g.trap = some t →
      ((g.sc.out ≠ [] ∨ g.ln.out ≠ [] ∨ g.ctx.part = true) → exec (.trapEntry s.cur) s = .next s) ∧
      (g.sc.out = [] → g.ln.out = [] → g.ctx.part = false → g.pub = [] →
        let u := s.setGrp s.cur (inHandlerMode s s.cur g t.lane t.pc t.cause t.info t.xlde)
        exec (.trapEntry s.cur) s =
          .next (if (s.core (s.cur / 64)).tstop && (t.cause == 11 || t.cause == 12 || t.cause == 13)
            then teamStop u s.cur g true else u)))

/-- R317, R319: a trap of a group in handler mode, or on a core whose TRAPBASE is 0, posts a pending fault of kind 4 with
its cause, address and information, and ends every group of its team. -/
def Claims.DoubleTrapEndsTeam : Prop :=
  ∀ (s : State) (g : Group) (code : BitVec 13) (sw : Bool), Issues s g →
    (g.saved ≠ none ∨ (s.core (s.cur / 64)).trapbase = 0) → Store.sorted s.groups = true →
    ∃ t, exec (.trap code sw) s = .next t ∧
      t.pfaults = s.pfaults ++ [
        { die := s.cur / 64 / 48, kind := 4, lid := g.lid, who := g.tid.getD 0xFFFFFFFF, detail := 14,
          addr := g.spc.toNat, info := (BitVec.ofInt 32 code.toInt : W32).toNat }] ∧
      t.mem = s.mem ∧ t.grp s.cur = none ∧
      ∀ k h, s.grp k = some h →
        if g.tid ≠ none ∧ h.lid = g.lid ∧ h.tid = g.tid ∨ k = s.cur then t.grp k = none else t.grp k = some h

/-- R117, R321: ERET in handler mode, its lane stream idle, restores the lane context with EXM ANDed with live and returns
each stream to where it was, the trapping one to the trap address, or, with skip, to the word after it; outside handler
mode its opcode is unassigned.  That its stream has the lanes' accesses to order is in the model's form (log entry 21). -/
def Claims.EretReturns : Prop :=
  ∀ (s : State) (g : Group) (sw : Bool), Issues s g →
    (g.saved = none → exec (.eret sw) s = .next (raiseS s s.cur g .illegal 0x11A) ∧
      exec (.eretSkip sw) s = .next (raiseS s s.cur g .illegal 0x11A)) ∧
    (∀ spc c, g.saved = some (spc, c) → g.laneIdle = true → g.pub = [] →
      let lane := g.tcause.getLsbD 8
      let back := fun (pc : Va) (prog : Nat) =>
        let h : Group := { g with
          saved := none, spc := if lane then spc else pc,
          ctx := { c with
            lpc := if lane then pc else c.lpc, prog := prog, counted := c.counted && decide (prog ≠ 0),
            exm := c.exm &&& g.live },
          latch := none, noBp := some lane,
          sc := { g.sc with cov := live s (g.sc.cov ++ g.ln.cov), acq := live s (g.sc.acq ++ g.ln.acq), seen := liveRels s (g.sc.seen ++ g.ln.seen) } }
        teamStop (volatile s s.cur h) s.cur h false
      exec (.eretSkip sw) s = .next (back (g.tpc + if lane then 12 else 4) 0) ∧
      (g.tpcWr = false → ¬ (lane = true ∧ g.tcause.toNat % 256 = 9) → exec (.eret sw) s = .next (back g.tpc c.prog)) ∧
      (g.tpcWr = false → lane = true → g.tcause.toNat % 256 = 9 →
        exec (.eret sw) s = .next (back g.tpc (if g.txlde then g.tinfo.toNat / 256 % 128 else c.prog))) ∧
      (g.tpcWr = true → exec (.eret sw) s = .next (back g.tpc 0)))

/-- R118: outside handler mode SEXIT, its lane stream idle, ends its own group alone; in handler mode it ends every group
of the team; no memory changes. -/
def Claims.SexitEndsGroups : Prop :=
  ∀ (s : State) (g : Group) (sw : Bool), Issues s g → Store.sorted s.groups = true → Store.sorted s.teams = true →
    (g.saved = none → g.laneIdle = true → ∃ t, exec (.sexit sw) s = .next t ∧ t.mem = s.mem ∧ t.grp s.cur = none ∧
      (∀ k, k ≠ s.cur → t.grp k = s.grp k) ∧
      ∀ k x, g.tkey = some k → t.team k = some x → g.gidx ∈ x.ended) ∧
    (g.saved = none → g.laneIdle = false → exec (.sexit sw) s = .next s) ∧
    (g.saved ≠ none → ∃ t, exec (.sexit sw) s = .next t ∧ t.mem = s.mem ∧
      ∀ k h, s.grp k = some h →
        if g.tid ≠ none ∧ h.lid = g.lid ∧ h.tid = g.tid ∨ k = s.cur then t.grp k = none else t.grp k = some h)

/-! ## Lane control -/

/-- A register of the word lies at or beyond the quota: the quota trap names such a register (R41, R320).  That of several it
names the lowest is the model's choice (log entry 68: DEDUCED). -/
def QuotaTrap (s : State) (g : Group) (i : Instr) (regs : List Nat) : Prop :=
  ∀ r ∈ regs, g.q ≤ r → (∀ r' ∈ regs, g.q ≤ r' → r ≤ r') →
    exec i s = .next (raiseL s s.cur g .quota (BitVec.ofNat 32 (1 + 256 * r)))

/-- The group with its lane context at pc, EXM and the held entries. -/
def atLane (g : Group) (pc : Va) (exm : Mask) (held : List DivEntry) : Group :=
  { g with ctx := { g.ctx with lpc := pc, exm := exm, held := held } }

/-- R38, R134: LBRC with no lane taken goes to the next word, with every lane taken to its target, and otherwise, where the
stack has room, pushes the join entry (unless it is on top already) and the entry of the other side, and runs the taken
lanes; where a side goes straight to the join, only the other side runs and no entry of its own is pushed.  That addresses
add modulo 2^57 is log entry 13 (PRESUMED). -/
def Claims.LbrcBranches : Prop :=
  ∀ (s : State) (g : Group) (m : Mods) (tgt rpc : BitVec 16), Issues s g →
    let pc := g.ctx.lpc
    let target : Va := BitVec.ofInt 57 (pc.toNat + 12 * tgt.toInt)
    let join : Va := BitVec.ofInt 57 (pc.toNat + 12 * rpc.toInt)
    let next := pc + 12
    let taken := g.ctx.exm &&& guardMask s.picks g m
    let other := g.ctx.exm &&& ~~~guardMask s.picks g m
    let joined := if g.ctx.held.head? = some ⟨true, join, (g.ctx.held.head?.getD default).mask, join⟩ then g.ctx.held
      else ⟨true, join, g.ctx.exm, join⟩ :: g.ctx.held
    (taken = 0 → exec (.lbrc m tgt rpc) s = .next (laneOn s g next m.sw)) ∧
    (taken ≠ 0 → other = 0 → exec (.lbrc m tgt rpc) s = .next (laneOn s g target m.sw)) ∧
    (taken ≠ 0 → other ≠ 0 → hasRoom s s.cur g ((if sameJoin g join then 0 else 1) +
        if target = join ∨ next = join then 0 else 1) = false →
      exec (.lbrc m tgt rpc) s = .next (raiseL s s.cur g .overflow (if g.handler then 32 else 0))) ∧
    (taken ≠ 0 → other ≠ 0 → g.ctx.held.length + 2 ≤ 32 → g.ctx.spilled = 0 →
      exec (.lbrc m tgt rpc) s = .next
        (if target = join then laneOn s (atLane g pc other joined) next m.sw
         else if next = join then laneOn s (atLane g pc taken joined) target m.sw
         else laneOn s (atLane g pc taken (⟨false, next, other, join⟩ :: joined)) target m.sw))

/-- R135 to R137: LJMP goes to its target; LCALL pushes the call entry and goes to its target; LJOIN and LRET pop the top
entry, the one a join or branch entry and the other a call entry, and go on at its address with its mask ANDed with live; on
an empty stack, or one whose top is of the other kind, they take the convergence trap.  That addresses add modulo 2^57 is
log entry 13 (PRESUMED). -/
def Claims.LaneJumps : Prop :=
  ∀ (s : State) (g : Group) (nf sw : Bool) (off : BitVec 32), Issues s g →
    let pc := g.ctx.lpc
    let target : Va := BitVec.ofInt 57 (pc.toNat + 12 * off.toInt)
    let call : Va := BitVec.ofNat 57 (2 ^ 57 - 1)
    exec (.ljmp nf sw off) s = .next (laneOn s g target sw) ∧
    (hasRoom s s.cur g 1 = false →
      exec (.lcall nf sw off) s = .next (raiseL s s.cur g .overflow (if g.handler then 32 else 0))) ∧
    (g.ctx.held.length < 32 → g.ctx.spilled = 0 →
      exec (.lcall nf sw off) s = .next
        (laneOn s (atLane g pc g.ctx.exm (⟨true, pc + 12, g.ctx.exm, call⟩ :: g.ctx.held)) target sw)) ∧
    (g.ctx.held = [] →
      exec (.ljoin nf sw) s = .next (raiseL s s.cur g .convergence 2) ∧
      exec (.lret nf sw) s = .next (raiseL s s.cur g .convergence 3)) ∧
    (∀ e rest, g.ctx.held = e :: rest →
      (e.rpc = call → exec (.ljoin nf sw) s = .next (raiseL s s.cur g .convergence 2)) ∧
      (e.rpc ≠ call → exec (.lret nf sw) s = .next (raiseL s s.cur g .convergence 3)) ∧
      (e.rpc ≠ call → g.ctx.spilled = 0 →
        exec (.ljoin nf sw) s = .next (laneOn s (atLane g pc (e.mask &&& g.live) rest) e.pc sw)) ∧
      (e.rpc = call → g.ctx.spilled = 0 →
        exec (.lret nf sw) s = .next (laneOn s (atLane g pc (e.mask &&& g.live) rest) e.pc sw)))

/-- R39: with more than 32 entries, those below the topmost 32 have been sent as stores toward their slots of the spill area, 32
bytes each, at translated addresses; s1: after the translations; t: after the stores are sent. -/
def Spilled (s : State) (g : Group) (es : List DivEntry) (s1 t : State) : Prop :=
  let held := es.reverse ++ g.ctx.held
  let out := (held.drop 32).reverse
  let words : List W64 :=
    out.flatMap fun e => [e.mask, e.pc.zeroExtend 64, e.rpc.zeroExtend 64, if e.join then 1 else 0]
  let base := (spillArea s s.cur g).1 + 32 * g.ctx.spilled
  let die := dieOf (coreOf s.cur)
  s1 = keepTrs s die (aspOf s g) ((List.range words.length).map fun i => base + 8 * i) ∧
  ∃ pas : List (Nat × TlbEntry), pas.length = words.length ∧
    (∀ i pa e, pas[i]? = some (pa, e) →
      translate s1 die (aspOf s g) (base + 8 * i) .write = .ok pa e ∧ (paKind s1 pa).line = true) ∧
    t = sendReqs (s1.setGrp s.cur
        { g with ctx := { g.ctx with held := held.take 32, spilled := g.ctx.spilled + out.length } }) s.cur true
      (pas.mapIdx fun i x =>
        mkReq s1 s.cur g true (.store x.1 (bytesOf (nthD 0 words i : W64))) (replMask x.2) none)

/-- The newest spilled entry has been read back from its slot, its four words as plain loads of the stream; s1: after that
reading; b: the entry; ln: the lane stream, which has what those loads returned to order (log entry 21). -/
def Refilled (s : State) (g : Group) (s1 : State) (b : DivEntry) (ln : Stream) : Prop :=
  let base := (spillArea s s.cur g).1 + 32 * (g.ctx.spilled - 1)
  let die := dieOf (coreOf s.cur)
  let s0 := keepTrs s die (aspOf s g) ((List.range 4).map fun i => base + 8 * i)
  ∃ (pa : Nat → Nat) (w : Nat → List Byte × List Nat),
    s1 = (List.range 4).foldl (fun u i => resolve u (pa i / 128)) s0 ∧
    (∀ i, i < 4 → (∃ e, translate s0 die (aspOf s g) (base + 8 * i) .read = .ok (pa i) e) ∧ (paKind s0 (pa i)).line = true ∧
      plainRead s1 (coreOf s.cur) (s.cur, true) s1.nextId i (pa i) 8 = some ((w i).1, false, (w i).2)) ∧
    b = ⟨(ofBytes 64 (w 3).1 : W64).getLsbD 0, (ofBytes 64 (w 1).1 : W64).extractLsb' 0 57, ofBytes 64 (w 0).1,
         (ofBytes 64 (w 2).1 : W64).extractLsb' 0 57⟩ ∧
    ln = { g.ln.gain s1 ((List.range 4).flatMap fun i => (w i).2) with
      seen := liveRels s1 (g.ln.seen ++ (List.range 4).flatMap fun i => relsRead s1 (pa i) 8 (w i).2) }

/-- R39: the spill area of a launch group, and of a spawned group, lies where the stack area's base and size put it; a push
that takes the stack beyond 32 entries spills from its bottom, oldest first, and a pop while entries are spilled brings the
newest of them back; the word waits where its stream's accesses are held back.  The stores and loads are ordinary accesses of
the group: the form of what the stream orders is the model's (log entry 21: DEDUCED), and that the whole entry is read as the
word issues is one of the schedule's choices (log entry 29: DEDUCED). -/
def Claims.StackSpills : Prop :=
  ∀ (s : State) (g : Group) (m : Mods) (nf sw : Bool) (off : BitVec 32) (tgt rpc : BitVec 16), Issues s g →
    let d := s.desc g
    let pc := g.ctx.lpc
    let far := fun (x : Int) => (BitVec.ofInt 57 (pc.toNat + 12 * x) : Va)
    let call : Va := BitVec.ofNat 57 (2 ^ 57 - 1)
    (∀ t, g.tid = some t → spillArea s s.cur g = (d.stackb + (t * d.groups + g.gidx) * d.stackz, d.stackz / 32)) ∧
    (∀ l, g.tid = none → s.launch g.lid = some l → spillArea s s.cur g =
      (d.stackb + (l.teams * d.groups + s.cur / 64 * d.spawnq + g.gidx) * d.stackz, d.stackz / 32)) ∧
    (g.saved = none → g.ctx.held.length = 32 → g.ctx.spilled < (spillArea s s.cur g).2 →
      let e : DivEntry := ⟨true, pc + 12, g.ctx.exm, call⟩
      (g.ln.blocked s = true → exec (.lcall nf sw off) s = .next s) ∧
      (∀ s1 t h, g.ln.blocked s = false → Spilled s g [e] s1 t → t.grp s.cur = some h →
        exec (.lcall nf sw off) s = .next (t.setGrp s.cur (h.goL (far off.toInt) sw)))) ∧
    (g.saved = none → g.ctx.held.length ≤ 32 →
      let taken := g.ctx.exm &&& guardMask s.picks g m
      let other := g.ctx.exm &&& ~~~guardMask s.picks g m
      let join := far rpc.toInt
      let es : List DivEntry := (if sameJoin g join then [] else [⟨true, join, g.ctx.exm, join⟩]) ++
        (if far tgt.toInt = join ∨ pc + 12 = join then [] else [⟨false, pc + 12, other, join⟩])
      taken ≠ 0 → other ≠ 0 → 32 < g.ctx.held.length + es.length →
      g.ctx.spilled + (g.ctx.held.length + es.length - 32) ≤ (spillArea s s.cur g).2 →
      (g.ln.blocked s = true → exec (.lbrc m tgt rpc) s = .next s) ∧
      (∀ s1 t h, g.ln.blocked s = false → Spilled s g es s1 t → t.grp s.cur = some h →
        exec (.lbrc m tgt rpc) s = .next (t.setGrp s.cur
          (if far tgt.toInt = join then ({ h with ctx := { h.ctx with exm := other } } : Group).goL (pc + 12) m.sw
           else ({ h with ctx := { h.ctx with exm := taken } } : Group).goL (far tgt.toInt) m.sw)))) ∧
    (∀ e rest, g.ctx.held = e :: rest → g.ctx.spilled ≠ 0 →
      let i : Instr := if e.rpc = call then .lret nf sw else .ljoin nf sw
      (g.ln.blocked s = true → exec i s = .next s) ∧
      (∀ s1 b ln, g.ln.blocked s = false → Refilled s g s1 b ln →
        exec i s = .next (s1.setGrp s.cur (({ g with
          ln := ln,
          ctx := { g.ctx with
            exm := e.mask &&& g.live, held := rest ++ [b], spilled := g.ctx.spilled - 1 } } : Group).goL e.pc sw))))

/-- R29, R40, R138, R139: LEXIT with an empty stack and no open chain marks its block as ended; LKILL takes its lanes out
of EXM and the live mask for good, and where none is left ends the block with an empty stack. -/
def Claims.LaneEnds : Prop :=
  ∀ (s : State) (g : Group) (m : Mods) (nf sw : Bool), Issues s g →
    let pc := g.ctx.lpc
    let eff := effMask s.picks g m
    let left := g.live &&& ~~~eff
    (g.ctx.held = [] → g.ctx.spilled = 0 → g.chain = none →
      exec (.lexit nf sw) s = .next (laneOn s { g with ctx := { g.ctx with exited := true } } (pc + 12) sw)) ∧
    ((g.ctx.held ≠ [] ∨ g.ctx.spilled ≠ 0) → exec (.lexit nf sw) s = .next (raiseL s s.cur g .convergence 1)) ∧
    (left ≠ 0 ∨ eff = 0 → exec (.lkill m) s = .next (laneOn s
      { g with live := left, ctx := { g.ctx with exm := g.ctx.exm &&& ~~~eff } } (pc + 12) m.sw)) ∧
    (left = 0 → eff ≠ 0 → exec (.lkill m) s = .next (laneOn s
      { g with live := 0, ctx := { g.ctx with exm := g.ctx.exm &&& ~~~eff, held := [], spilled := 0, exited := true } }
      (pc + 12) m.sw))

/-- R107, R141: the lane CWAIT goes on when the counter is there and waits otherwise, and its wait ends as a scalar one
does. -/
def Claims.LaneCounterWait : Prop :=
  ∀ (s : State) (g : Group) (m : Mods) (ctr : Ctr) (x : BitVec 32) (u : Uni), Issues s g →
    let counter := match ctr with | .ccopy => g.ccopy | .ctrav => g.ctrav | .cattn => g.cattn
    let goes := fun (i : Instr) (t : BitVec 16) =>
      ((counter - t).toNat < 2 ^ 15 → exec i s = .next (laneOn s g (g.ctx.lpc + 12) m.sw)) ∧
      (2 ^ 15 ≤ (counter - t).toNat → exec i s = .next (s.setGrp s.cur
        { g with ln := { g.ln with wait := some (.cwait ctr t), wsw := m.sw } }))
    goes (.laneCwait m ctr (.imm x)) (x.extractLsb' 0 16) ∧
    goes (.laneCwait m ctr (.u u)) ((uRead s.picks g u).1.extractLsb' 0 16) ∧
    (∀ t : BitVec 16, g.ln.wait = some (.cwait ctr t) → Awake g → stepped s s.cur g = false →
      (counter - t).toNat < 2 ^ 15 → exec (.counterWaitMet s.cur true) s = .next (s.setGrp s.cur
        { g with ctx := { g.ctx with lpc := g.ctx.lpc + 12 },
                 ln := ({ g.ln with wait := none, wsw := false } : Stream).mark g.ln.wsw,
                 noBp := if g.noBp = some true then none else g.noBp }))

/-! ## Spawning and placement -/

/-- R41, R44, R140: SPAWN of a register beyond the quota takes the quota trap; SPAWN puts one thread for each effective lane, in ascending order and with the words of V(a) to V(a + 3),
into the bins of its core and goes on when all are placed; with no lane it changes nothing else; a launch with no spawn
slots traps.  A thread joins the open bin of its launch and entry, or opens a free one of 32; a bin is sealed as soon as it holds
as many threads as a group has lanes; with no bin free the thread is not placed, and SPAWN goes on from there.  That the free bin
opened is the lowest is the model's choice (log entry 81: DESIGN CHOICE), and so are that the group's scratchpad stores are then
performed and what a thread covers (log entries 29 and 21: DEDUCED); that of several registers beyond the quota the trap names the lowest is
log entry 68 (DEDUCED). -/
def Claims.SpawnPlacesThreads : Prop :=
  ∀ (s : State) (g : Group) (m : Mods) (a : BitVec 8) (entry : BitVec 32), Issues s g →
    QuotaTrap s g (.spawn m a entry) ((List.range 4).map (a.toNat + ·)) ∧
    (a.toNat + 3 < g.q →
    let eff := effMask s.picks g m
    let d := s.desc g
    let core := coreOf s.cur
    let va : Va := BitVec.ofInt 57 (d.sentry + 4 * entry.toInt)
    let ts := ((lanesOf eff).drop g.ctx.prog).map fun l =>
      (⟨[vRead s s.cur g a.toNat l, vRead s s.cur g (a.toNat + 1) l, vRead s s.cur g (a.toNat + 2) l,
         vRead s s.cur g (a.toNat + 3) l], none, Stream.covered s g.ln⟩ : Thread)
    let gone := { g with ctx := { g.ctx with prog := 0, lpc := g.ctx.lpc + 12 }, ln := g.ln.mark m.sw }
    (eff = 0 → exec (.spawn m a entry) s = .next (s.setGrp s.cur gone)) ∧
    (eff ≠ 0 → d.spawnq = 0 → exec (.spawn m a entry) s = .next (raiseL s s.cur g .quota 4)) ∧
    (d.spawnq ≠ 0 → ∀ n u, placeThreads core g.lid va (if ts.isEmpty then s else released s s.cur) ts = (n, u) →
      exec (.spawn m a entry) s = .next (u.setGrp s.cur
        (if n = ts.length then gone else { g with ctx := { g.ctx with prog := g.ctx.prog + n } }))) ∧
    (∀ t lid, let w := (((s.launch lid).map Launch.desc).getD default).width
      let ticks := let x := (((s.launch lid).map Launch.desc).getD default).timer
        if x = 0 then 200 else x
      let admits := fun (b : Bin) =>
        b.core = core ∧ b.lid = lid ∧ b.entry = va ∧ b.sealed = false ∧ s.gtc.toNat ≤ b.opened + ticks
      (∀ xs b ys, s.bins = xs ++ b :: ys → admits b → (∀ x ∈ xs ++ ys, ¬ admits x) →
        binPut s core lid va t = some { s with
          bins := xs ++ { b with threads := b.threads ++ [t], sealed := decide (w ≤ b.threads.length + 1), seq := s.nextId } :: ys,
          nextId := s.nextId + 1 }) ∧
      ((∀ b ∈ s.bins, ¬ admits b) →
        (∀ n, n < 32 → (∀ k, k ≤ n → (k ∈ binsUsed s core ↔ k < n)) →
          binPut s core lid va t = some { s with
            bins := s.bins ++ [⟨core, n, lid, va, [t], s.gtc.toNat, decide (w ≤ 1), s.nextId⟩], nextId := s.nextId + 1 }) ∧
        ((∀ n, n < 32 → n ∈ binsUsed s core) → binPut s core lid va t = none))))

/-- R45, R46: a bin's timer seals it, and no other bin; the oldest sealed bin that has a free spawn slot becomes a group: its
lanes are its threads, it starts at the bin's entry in the state of R25, and V0 to V3, within its quota, hold the threads'
words, with an exact shadow where all lanes agree.  What R25 leaves undefined of it (S, A and P1 to P7, and the other V registers)
is free.  That the oldest is the earliest sealed, and that the slot is the lowest free one, is the model's choice (log entry 81:
DESIGN CHOICE). -/
def Claims.BinsBecomeGroups : Prop :=
  ∀ (s : State) (core num : Nat),
    (∃ u, exec (.binTimerExpiry core num) s = .next u ∧ u = { s with bins := u.bins, nextId := s.nextId + 1 } ∧
      u.bins.length = s.bins.length ∧
      ∀ (i : Nat) (b : Bin), s.bins[i]? = some b → u.bins[i]? = some
        (if b.core = core ∧ b.num = num ∧ b.sealed = false ∧
            b.opened + binTicks (((s.launch b.lid).map Launch.desc).getD default) ≤ s.gtc.toNat
         then { b with sealed := true, seq := s.nextId } else b)) ∧
    (∀ b l i slot row0, oldestBin s core = some b → binSlot s b = some (l, i, slot, row0) →
      (∀ e ∈ s.launches, e.2.threads = []) → Store.wf 0 s.rf = true → b.threads.length ≤ l.desc.width →
      l.desc.width ≤ 64 →
      ∃ u h, exec (.spawnedGroupLaunch core) s = .next u ∧ u.grp (64 * core + slot) = some h ∧
        (h.lid = b.lid ∧ h.tid = none ∧ h.gidx = i ∧ h.role = 3 ∧ h.width = l.desc.width ∧ h.row0 = row0 ∧
          h.q = l.desc.sq0 ∧ h.qmax = l.desc.sqmax) ∧
        (h.live = lowMask b.threads.length ∧ h.ctx.exm = h.live ∧ h.pRaw 0 = lowMask 64 ∧ h.ctx.queue = [] ∧
          h.ctx.running = none ∧ h.ctx.held = [] ∧ h.ctx.spilled = 0) ∧
        ((∀ n, n < 8 → vget h.k n = nthD 0 l.args n) ∧ vget h.k 8 = 0xFFFFFFFF ∧ vget h.k 9 = 0xFFFFFFFF ∧
          vget h.k 10 = BitVec.ofNat 32 l.teams ∧ vget h.k 11 = BitVec.ofNat 32 b.lid ∧
          vget h.k 12 = b.entry.extractLsb' 0 32 ∧ ∀ n, 13 ≤ n → n < 16 → vget h.k n = 0) ∧
        (h.spc = b.entry ∧ h.mode = l.desc.mode ∧ h.fx = Vector.replicate 64 0 ∧ h.ccopy = 0 ∧ h.ctrav = 0 ∧ h.cattn = 0 ∧
          h.sc.out = [] ∧ h.ln.out = [] ∧ h.latch = none ∧ h.chain = none ∧ h.saved = none ∧ h.trap = none) ∧
        (h.ssh = Vector.replicate 64 .top ∧ ∀ n, n < 256 → vget h.vsh n =
          if n < 4 ∧ n < h.q then
            (match b.threads with
             | [] => .top
             | t :: _ => if b.threads.all (fun x => nthD 0 x.words n == nthD 0 t.words n) then Shadow.exact (nthD 0 t.words n)
               else .top)
          else .top) ∧
        u.bins = s.bins.filter (fun x => !(x.core == core && x.num == b.num)) ∧ u.mem = s.mem ∧
        (∀ k, k ≠ 64 * core + slot → u.grp k = s.grp k) ∧
        ∀ j n, j < b.threads.length → n < 4 → n < h.q →
          vRaw u (64 * core + slot) h n j = nthD 0 (nthD ⟨[], none, []⟩ b.threads j).words n)

/-- R25, R276, R277: the first waiting team that fits at the place named is placed there: its groups start at the kernel's
entry, each in the state of R25, whose V registers are undefined, and the launch goes on to its next team.  That the event
names the place, and how the bid is chosen, is log entry 45 (DESIGN CHOICE). -/
def Claims.TeamPlacementStartsGroups : Prop :=
  ∀ (s : State) (core spbase accbase lid tid : Nat) (l : Launch) (places : List (Nat × Nat)),
    (∀ slot row0, places = [(slot, row0)] → spawnedBack s core slot row0 = none) →
    pickBid s core spbase accbase places (bids s) = some (lid, l, .fresh tid) →
    let keys := keysOf l.desc core ((Cand.fresh tid).asks l.desc) places
    (keys.map fun x => x.2.1).Nodup →
    ∃ u, exec (.teamPlacement core spbase accbase places) s = .next u ∧ u.mem = s.mem ∧
      (u.team (teamKey lid tid)).map (fun t => (t.lid, t.tid, t.state, t.core, t.spbase, t.accbase)) =
        some (lid, some tid, .resident, core, spbase, accbase) ∧
      (u.launch lid).map (·.next) = (s.launch lid).map (fun _ => tid + 1) ∧
      ∀ gidx gid row0, (gidx, gid, row0) ∈ keys →
        ∃ h, u.grp gid = some h ∧
          (h.lid = lid ∧ h.tid = some tid ∧ h.gidx = gidx ∧ h.width = l.desc.width ∧ h.row0 = row0) ∧
          (let role := l.desc.rolemap.toNat / 2 ^ (2 * gidx) % 4
           h.role = BitVec.ofNat 2 role ∧ (h.q, h.qmax) = nthD (1, 1) l.desc.quotas role) ∧
          (h.spc = BitVec.ofNat 57 l.desc.sentry ∧ h.mode = l.desc.mode ∧ h.live = lowMask l.desc.width ∧
            h.ctx.exm = h.live ∧ h.ctx.queue = [] ∧ h.ctx.running = none ∧ h.ctx.held = [] ∧ h.ctx.spilled = 0) ∧
          (h.s = Vector.replicate 64 0 ∧ h.ssh = Vector.replicate 64 (.itv 0 0) ∧
            (∀ n, n < 256 → vget h.vsh n = .top) ∧ h.pRaw 0 = lowMask 64 ∧ h.p = Vector.replicate 8 0 ∧
            h.a = Vector.replicate 16 0 ∧ h.fx = Vector.replicate 64 0 ∧ h.ccopy = 0 ∧ h.ctrav = 0 ∧ h.cattn = 0 ∧
            h.sc.out = [] ∧ h.ln.out = []) ∧
          ((∀ n, n < 8 → vget h.k n = nthD 0 l.args n) ∧ vget h.k 8 = BitVec.ofNat 32 tid ∧
            vget h.k 9 = BitVec.ofNat 32 gidx ∧ vget h.k 10 = BitVec.ofNat 32 l.teams ∧
            vget h.k 11 = BitVec.ofNat 32 lid ∧ ∀ n, 12 ≤ n → n < 16 → vget h.k n = 0) ∧
          h.latch = none ∧ h.chain = none ∧ h.saved = none ∧ h.trap = none

/-- R277: a team that is next of its launch, new or swapped out, has waited 5,000 ticks and fits nowhere becomes reserving;
before that nothing changes.  How a team is found to fit nowhere is log entry 45, and that the time is that of the global counter
log entry 72. -/
def Claims.TeamBecomesReserving : Prop :=
  ∀ (s : State) (lid : Nat) (l : Launch) (c : Cand), s.launch lid = some l → launchCand s lid l = some c →
    let since := match c with | .fresh _ => l.since | .back _ t => t.since
    (since + 5000 ≤ s.gtc.toNat → fitsAny s (lid, l, c) = false →
      exec (.teamReserving lid) s = .next
        (match c with
         | .fresh _ => s.updLaunch lid fun l => { l with reserving := true }
         | .back k _ => s.updTeam k fun t => { t with reserving := true })) ∧
    (s.gtc.toNat < since + 5000 → exec (.teamReserving lid) s = .next s)
/-! ## Lane arithmetic -/

/-- The register writes of a value per lane: one register, or, at a 64-bit type, the pair's low and high words with TOP
shadows; where not every live lane is written the new shadow covers the old one too (R119, R143, R145). -/
def laneWrites (g : Group) (ty : Ty) (d : BitVec 8) (eff : Mask) (sh : Shadow) (val : Nat → Nat) : List PWrite :=
  let joined := fun (n : Nat) (x : Shadow) => if eff = g.live then x else (vShadow g n).join x
  let word := fun (k : Nat) => (List.range g.width).map fun l => (BitVec.ofNat 32 (val l / 2 ^ (32 * k)) : W32)
  if ty.is64 then
    [.v d.toNat eff (word 0) (joined d.toNat .top) false, .v (d.toNat + 1) eff (word 1) (joined (d.toNat + 1) .top) false]
  else [.v d.toNat eff (word 0) (joined d.toNat sh) false]

/-- How a lane word with a V destination completes (R41, R65, R119): with no effective lane it only goes on; otherwise it
writes val l in each effective lane l of the group, and the lane PC goes on by 12. -/
def LaneWord (s : State) (g : Group) (m : Mods) (i : Instr) (regs : List Nat) (ty : Ty) (d : BitVec 8) (sh : Shadow)
    (val : Nat → Nat) : Prop :=
  let eff := effMask s.picks g m
  QuotaTrap s g i regs ∧
  ((∀ r ∈ regs, r < g.q) → eff = 0 → exec i s = .next (laneOn s g (g.ctx.lpc + 12) m.sw)) ∧
  ((∀ r ∈ regs, r < g.q) → eff ≠ 0 → g.ln.full = false →
    exec i s = .next (laneAfter s g (laneWrites g ty d eff sh val) m.sw))

/-- The same for a P destination: bit l of its write is val l. -/
def LanePredicateWord (s : State) (g : Group) (m : Mods) (i : Instr) (regs : List Nat) (d : BitVec 3)
    (val : Nat → Bool) : Prop :=
  let eff := effMask s.picks g m
  QuotaTrap s g i regs ∧
  ((∀ r ∈ regs, r < g.q) → eff = 0 → exec i s = .next (laneOn s g (g.ctx.lpc + 12) m.sw)) ∧
  ((∀ r ∈ regs, r < g.q) → eff ≠ 0 → g.ln.full = false → g.width ≤ 64 →
    ∃ q : Mask, (∀ l, l < g.width → q.getLsbD l = val l) ∧
      exec i s = .next (laneAfter s g [.p d.toNat eff q false] m.sw))

/-- A W-bit pattern read by the signedness of its type (R120). -/
def typed (ty : Ty) (x : Nat) : Int :=
  if ty.signed then (BitVec.ofNat (tyW ty) x).toInt else ((x % 2 ^ tyW ty : Nat) : Int)

/-- An exact result as the register receives it: modulo 2^W, or clamped to the type with sat (R120). -/
def stored (ty : Ty) (sat : Bool) (x : Int) : Nat :=
  let lo : Int := if ty.signed then -(2 ^ (tyW ty - 1)) else 0
  let hi : Int := if ty.signed then 2 ^ (tyW ty - 1) - 1 else 2 ^ tyW ty - 1
  (BitVec.ofInt (tyW ty) (if sat then max lo (min x hi) else x)).toNat

/-- R120, R121, R145: the integer words compute on exact values and write them modulo 2^W, or clamped with sat.  That a
quota trap names the lowest of several registers is log entry 68 (DEDUCED). -/
def Obligations.LaneArithmetic : Prop :=
  ∀ (s : State) (g : Group) (m : Mods) (ty : Ty) (sat : Bool) (d a : BitVec 8) (b : OpB) (c : OpC),
    Issues s g → ty.int4 = true →
    let x := fun l => typed ty (vVal s s.cur g ty a l)
    let y := fun l => typed ty (bVal s s.cur g ty b l)
    let z := fun l => typed ty (cVal s s.cur g ty c l)
    let A := vShadow g a.toNat
    let B := bSh s g b
    let C := cSh s g c
    let r1 := vRegs ty d ++ vRegs ty a
    let r2 := r1 ++ bRegs ty b
    let f := fitOf ty sat
    LaneWord s g m (.iadd m ty sat d a b) r2 ty d (laneShadow ty sat [A, B] (A.add f B)) (fun l => stored ty sat (x l + y l)) ∧
    LaneWord s g m (.isub m ty sat d a b) r2 ty d (laneShadow ty sat [A, B] (A.sub f B)) (fun l => stored ty sat (x l - y l)) ∧
    LaneWord s g m (.imul m ty sat d a b) r2 ty d (laneShadow ty sat [A, B] (A.mul f B)) (fun l => stored ty sat (x l * y l)) ∧
    LaneWord s g m (.imulh m ty d a b) r2 ty d .top (fun l => stored ty false (x l * y l / 2 ^ tyW ty)) ∧
    LaneWord s g m (.imad m ty sat d a b c) (r2 ++ cRegs ty c) ty d (laneShadow ty sat [A, B, C] (A.mad f B C))
      (fun l => stored ty sat (x l * y l + z l)) ∧
    LaneWord s g m (.iabs m ty sat d a) r1 ty d .top (fun l => stored ty sat (if x l < 0 then -x l else x l)) ∧
    LaneWord s g m (.ineg m ty sat d a) r1 ty d .top (fun l => stored ty sat (-x l)) ∧
    LaneWord s g m (.imin m ty d a b) r2 ty d (nShadow ty [A, B] (A.smin B)) (fun l => stored ty false (min (x l) (y l))) ∧
    LaneWord s g m (.imax m ty d a b) r2 ty d (nShadow ty [A, B] (A.smax B)) (fun l => stored ty false (max (x l) (y l))) ∧
    LaneWord s g m (.iclamp m ty d a b c) (r2 ++ cRegs ty c) ty d (nShadow ty [A, B, C] (A.clamp B C))
      (fun l => stored ty false (min (max (x l) (y l)) (z l)))

/-- R122: logic, shifts and counts work on W-bit patterns; a shift by W or more leaves no bit of the source, or copies of
the sign. -/
def Claims.LaneLogicAndShifts : Prop :=
  ∀ (s : State) (g : Group) (m : Mods) (ty : Ty) (d a : BitVec 8) (b : OpB), Issues s g → ty.int4 = true →
    let x := fun l => BitVec.ofNat (tyW ty) (vVal s s.cur g ty a l)
    let y := fun l => BitVec.ofNat (tyW ty) (bVal s s.cur g ty b l)
    let n := fun l => bVal s s.cur g ty b l % 2 ^ 32
    let A := vShadow g a.toNat
    let B := bSh s g b
    let r1 := vRegs ty d ++ vRegs ty a
    let r2 := r1 ++ bRegs ty b
    let is64 := ty.is64
    LaneWord s g m (.iand m ty d a b) r2 ty d (if is64 then .top else A.sand B) (fun l => (x l &&& y l).toNat) ∧
    LaneWord s g m (.ior m ty d a b) r2 ty d .top (fun l => (x l ||| y l).toNat) ∧
    LaneWord s g m (.ixor m ty d a b) r2 ty d .top (fun l => (x l ^^^ y l).toNat) ∧
    LaneWord s g m (.inot m ty d a) r1 ty d .top (fun l => (~~~x l).toNat) ∧
    LaneWord s g m (.ishl m ty d a b) r2 ty d (if is64 then .top else A.shl B) (fun l => (x l <<< n l).toNat) ∧
    LaneWord s g m (.ishr m ty d a b) r2 ty d
      (if is64 then .top else if B.farShift then .itv 0 0
       else if !ty.signed && !(A.nonneg && B.nonneg) then .top else A.shr B) (fun l => (x l >>> n l).toNat) ∧
    LaneWord s g m (.isra m ty d a b) r2 ty d (if is64 then .top else A.sra B) (fun l => ((x l).sshiftRight (n l)).toNat) ∧
    LaneWord s g m (.iclz m ty d a) r1 ty d .top
      (fun l => if (x l).toNat = 0 then tyW ty else tyW ty - 1 - (x l).toNat.log2) ∧
    LaneWord s g m (.ipopc m ty d a) r1 ty d .top
      (fun l => ((List.range (tyW ty)).filter fun i => (x l).getLsbD i).length) ∧
    LaneWord s g m (.ibrev m ty d a) r1 ty d .top (fun l => (x l).reverse.toNat)

/-- R123: IBFX takes the field of a that starts at pos, as far as it lies in the register, extended by the type; IBFI puts
the low bits of b into that field of a and leaves the other bits. -/
def Claims.LaneBitFields : Prop :=
  ∀ (s : State) (g : Group) (m : Mods) (ty : Ty) (d a : BitVec 8) (b : OpC) (pos : BitVec 5) (len : BitVec 6),
    Issues s g → ty.int4 = true → 1 ≤ len.toNat → len.toNat ≤ 32 →
    let x := fun l => BitVec.ofNat (tyW ty) (vVal s s.cur g ty a l)
    let y := fun l => BitVec.ofNat (tyW ty) (cVal s s.cur g ty b l)
    let n := min len.toNat (tyW ty - pos.toNat)
    let r1 := vRegs ty d ++ vRegs ty a
    LaneWord s g m (.ibfx m ty d a pos len) r1 ty d .top (fun l =>
      let f := (x l).extractLsb' pos.toNat n
      ((if ty.signed then f.signExtend (tyW ty) else f.zeroExtend (tyW ty)) : BitVec (tyW ty)).toNat) ∧
    ∃ v : Nat → BitVec (tyW ty),
      (∀ l i, i < tyW ty → (v l).getLsbD i =
        if pos.toNat ≤ i ∧ i < pos.toNat + n then (y l).getLsbD (i - pos.toNat) else (x l).getLsbD i) ∧
      LaneWord s g m (.ibfi m ty d a b pos len) (r1 ++ cRegs ty b) ty d .top (fun l => (v l).toNat)

/-- R124, R125: ICMP sets its predicate bits by the relation of the values; ISEL takes a or b by its predicate; IMOV and
IMOVI copy; ICVT reads the source type and wraps, or clamps with sat, into the destination type.  That a quota trap names the
lowest of several registers is log entry 68 (DEDUCED). -/
def Obligations.LaneComparesAndMoves : Prop :=
  ∀ (s : State) (g : Group) (m : Mods) (ty src : Ty) (cond : Cond) (p c : BitVec 3) (rm : Rm) (sat : Bool)
    (d a : BitVec 8) (b : OpB) (imm : BitVec 32), Issues s g → ty.int8c = true → src.int8c = true →
    let x := fun l => vVal s s.cur g ty a l
    let y := fun l => bVal s s.cur g ty b l
    let A := vShadow g a.toNat
    let r1 := vRegs ty d ++ vRegs ty a
    let top := fun (sh : Shadow) => if ty.is64 then Shadow.top else sh
    (ty.int4 = true → icondOk cond = true →
      LanePredicateWord s g m (.icmp m ty cond p a b) (vRegs ty a ++ bRegs ty b) p (fun l =>
        match cond with
        | .eq => typed ty (x l) = typed ty (y l)
        | .ne => typed ty (x l) ≠ typed ty (y l)
        | .lt => typed ty (x l) < typed ty (y l)
        | .le => typed ty (x l) ≤ typed ty (y l)
        | .gt => typed ty (y l) < typed ty (x l)
        | _ => typed ty (y l) ≤ typed ty (x l))) ∧
    LaneWord s g m (.isel m ty d a b c) (r1 ++ bRegs ty b) ty d (top (A.join (bSh s g b)))
      (fun l => if (pRead s.picks g c.toNat).getLsbD l then x l else y l) ∧
    LaneWord s g m (.imov m ty d a) r1 ty d (top A) x ∧
    LaneWord s g m (.imovi m ty d imm) (vRegs ty d) ty d (.itv imm.toInt imm.toInt)
      (fun _ => if ty = .i64 then (imm.signExtend 64).toNat else imm.toNat) ∧
    LaneWord s g m (.icvt m ty src rm sat d a) (vRegs ty d ++ vRegs src a) ty d .top (fun l =>
      let n := 8 * ty.size
      let v : BitVec (8 * src.size) := BitVec.ofNat _ (vVal s s.cur g src a l)
      let exact : Int := if src.signed then v.toInt else v.toNat
      let lo : Int := if ty.signed then -(2 ^ (n - 1)) else 0
      let hi : Int := if ty.signed then 2 ^ (n - 1) - 1 else 2 ^ n - 1
      let r : BitVec n := BitVec.ofInt n (if sat then max lo (min exact hi) else exact)
      ((if ty.signed then r.signExtend (tyW ty) else r.zeroExtend (tyW ty)) : BitVec (tyW ty)).toNat)

/-- R147: VWIDEN joins [lo, hi] into the register's shadow once for the group, VRANGE asserts it of the effective lanes:
it traps at the lowest lane outside, and otherwise narrows the shadow.  No register value changes.  While an engine's or a
window's write to the register is in flight its shadow is TOP (R143). -/
def Claims.LaneShadowWords : Prop :=
  ∀ (s : State) (g : Group) (m : Mods) (d : BitVec 8) (lo hi : Uni), Issues s g → d.toNat < g.q →
    vOut g.ln.out d.toNat = [] → uBusy g lo = false → uBusy g hi = false →
    let l := (uRead s.picks g lo).1.toInt
    let h := (uRead s.picks g hi).1.toInt
    let eff := effMask s.picks g m
    let old := vget g.vsh d.toNat
    let v := fun i => (vRead s s.cur g d.toNat i).toInt
    let flown := fun (sh : Shadow) => if vFlight s s.cur g d.toNat then Shadow.top else sh
    let on := fun (i : Instr) (sh : Shadow) =>
      exec i s = .next (laneOn s { g with vsh := vset g.vsh d.toNat sh } (g.ctx.lpc + 12) m.sw)
    on (.vwiden m d lo hi) (flown (if l ≤ h then old.join (Shadow.norm l h) else old)) ∧
    ((∀ i, i < 64 → eff.getLsbD i = true → l ≤ v i ∧ v i ≤ h) →
      on (.vrange m d lo hi) (flown (if eff = g.live then Shadow.norm l h
        else if eff = 0 then old else old.join (Shadow.norm l h)))) ∧
    (∀ i, i < 64 → eff.getLsbD i = true → (v i < l ∨ h < v i) →
      (∀ j, j < i → eff.getLsbD j = true → l ≤ v j ∧ v j ≤ h) →
      exec (.vrange m d lo hi) s = .next (raiseL s s.cur g .range (BitVec.ofNat 32 i)))

/-- R126 to R128: the predicate words work bit by bit on the effective lanes; EXMGET reads EXM and EXMSET replaces its
guarded bits, ANDed with live; FXGET reads the lanes' flags and FXSET replaces them. -/
def Claims.PredicateMaskAndFlagWords : Prop :=
  ∀ (s : State) (g : Group) (m : Mods) (d a b : BitVec 3) (v : BitVec 8), Issues s g →
    let x := pRead s.picks g a.toNat
    let y := pRead s.picks g b.toNat
    let gm := guardMask s.picks g m
    let eff := effMask s.picks g m
    LanePredicateWord s g m (.pand m d a b) [] d (fun l => x.getLsbD l && y.getLsbD l) ∧
    LanePredicateWord s g m (.por m d a b) [] d (fun l => x.getLsbD l || y.getLsbD l) ∧
    LanePredicateWord s g m (.pxor m d a b) [] d (fun l => x.getLsbD l != y.getLsbD l) ∧
    (g.width ≤ 64 → LanePredicateWord s g m (.pnot m d a) [] d (fun l => !x.getLsbD l)) ∧
    LanePredicateWord s g m (.pmov m d a) [] d (fun l => x.getLsbD l) ∧
    LanePredicateWord s g m (.exmget m d) [] d (fun l => g.ctx.exm.getLsbD l) ∧
    exec (.exmset m a) s = .next (laneOn s
      { g with ctx := { g.ctx with exm := ((x &&& gm) ||| (g.ctx.exm &&& ~~~gm)) &&& g.live } } (g.ctx.lpc + 12) m.sw) ∧
    LaneWord s g m (.fxget m v) [v.toNat] .i32 v .top (fun l => (fxRead s.picks g l).toNat) ∧
    QuotaTrap s g (.fxset m v) [v.toNat] ∧
    (v.toNat < g.q → eff = 0 → exec (.fxset m v) s = .next (laneOn s g (g.ctx.lpc + 12) m.sw)) ∧
    (v.toNat < g.q → eff ≠ 0 → g.ln.full = false → exec (.fxset m v) s = .next (laneAfter s g
      [.fxSet eff ((List.range g.width).map fun l => (vRead s s.cur g v.toNat l).extractLsb' 0 6) [] false] m.sw))

/-! ## Floating and logarithmic words -/

/-- How a word that can raise flags issues (R41, R172, R173): fl gives each lane's flags, ws the writes of its destination.
With an enabled flag raised and nf clear it traps, naming the lowest such lane and the enabled flags raised; otherwise it makes
its writes and, unless nf is set, ORs the flags of the effective lanes into FX.  Any enable set makes it issue as though sw were
set.  With no effective lane it only goes on. -/
def FlagIssue (s : State) (g : Group) (m : Mods) (i : Instr) (regs : List Nat) (ws : List PWrite) (fl : Nat → BitVec 6) :
    Prop :=
  let eff := effMask s.picks g m
  let en : BitVec 6 := (g.lmode.extractLsb' 8 5).zeroExtend 6
  let traps : Prop := m.nf = false ∧ ∃ l, l < 64 ∧ eff.getLsbD l = true ∧ fl l &&& en ≠ 0
  let flags : List (BitVec 6) := (List.range g.width).map fun l => if eff.getLsbD l then fl l else 0
  let sw := m.sw || en != 0
  QuotaTrap s g i regs ∧
  ((∀ r ∈ regs, r < g.q) → eff = 0 → exec i s = .next (laneOn s g (g.ctx.lpc + 12) sw)) ∧
  ((∀ r ∈ regs, r < g.q) → eff ≠ 0 → ¬ traps → g.ln.full = false →
    exec i s = .next (laneAfter s g
      (ws ++ (if m.nf = true ∨ (∀ x ∈ flags, x = 0) then [] else [.fxOr flags false])) sw)) ∧
  ((∀ r ∈ regs, r < g.q) → m.nf = false → ∀ l, l < 64 → eff.getLsbD l = true → fl l &&& en ≠ 0 →
    (∀ j, j < l → eff.getLsbD j = true → fl j &&& en = 0) →
    ∃ all : BitVec 6, (∀ k, k < 6 →
        (all.getLsbD k = true ↔ ∃ j, j < 64 ∧ eff.getLsbD j = true ∧ (fl j &&& en).getLsbD k = true)) ∧
      exec i s = .next (raiseL s s.cur g .arithmetic (BitVec.ofNat 32 (all.toNat * 256 + l))))

/-- The same of a word with a V destination: f gives each lane's pattern and flags (R119). -/
def FlagWord (s : State) (g : Group) (m : Mods) (i : Instr) (regs : List Nat) (ty : Ty) (d : BitVec 8)
    (f : Nat → Nat × BitVec 6) : Prop :=
  let eff := effMask s.picks g m
  let at_ := fun l => if eff.getLsbD l then f l else (0, 0)
  g.width ≤ 64 → FlagIssue s g m i regs (laneWrites g ty d eff .top (fun l => (at_ l).1)) (fun l => (at_ l).2)

/-- The elements of a pattern: two halves at the packed types, else its low element (R168). -/
def elements (ty : Ty) (x : Nat) : List Nat :=
  match ty with
  | .h2 | .b2 => [x % 2 ^ 16, x / 2 ^ 16 % 2 ^ 16]
  | .f32 => [x]
  | _ => [x % 2 ^ 16]

/-- Element results put back into a pattern, their flags together. -/
def packed2 (rs : List (Nat × BitVec 6)) : Nat × BitVec 6 :=
  match rs with
  | [lo, hi] => (lo.1 + 2 ^ 16 * hi.1, lo.2 ||| hi.2)
  | lo :: _ => lo
  | [] => (0, 0)

/-- An operation of one or two operands on each element, read in the type's format with subnormals as MODE says. -/
def each1 (ty : Ty) (v : Fenv) (op : Fmt → Fenv → Fv → Fres) (x : Nat) : Fres :=
  packed2 ((elements ty x).map fun e => op (fmtOf ty) v ((fmtOf ty).read v.daz e))
def each2 (ty : Ty) (v : Fenv) (op : Fmt → Fenv → Fv → Fv → Fres) (x y : Nat) : Fres :=
  packed2 (((elements ty x).zip (elements ty y)).map fun e =>
    op (fmtOf ty) v ((fmtOf ty).read v.daz e.1) ((fmtOf ty).read v.daz e.2))

/-- R168, R172 to R178: the arithmetic words apply the operation of their row to each element of each effective lane,
rounded as rm and the block's MODE say.  That a quota trap names the lowest of several registers is log entry 68 (DEDUCED). -/
def Obligations.FloatArithmetic : Prop :=
  ∀ (s : State) (g : Group) (m : Mods) (ty : Ty) (rm : Rm) (d a : BitVec 8) (b : OpB) (c : OpC),
    Issues s g → ty.flt5 = true →
    let v := fenv g.lmode rm
    let x := fun l => vVal s s.cur g .i32 a l
    let y := fun l => bVal s s.cur g .i32 b l
    let z := fun l => cVal s s.cur g .i32 c l
    let r1 := [d.toNat, a.toNat]
    let r2 := r1 ++ bRegs .i32 b
    let w := fenv g.lmode .mode
    let both := fun (mx : Bool) l => packed2 (((elements ty (x l)).zip (elements ty (y l))).map fun e =>
      (fmtOf ty).minmax w mx e.1 e.2)
    FlagWord s g m (.fadd m ty rm d a b) r2 .i32 d (fun l => each2 ty v Fmt.addV (x l) (y l)) ∧
    FlagWord s g m (.fsub m ty rm d a b) r2 .i32 d (fun l => each2 ty v (fun f v p q => f.addV v p q.flip) (x l) (y l)) ∧
    FlagWord s g m (.fmul m ty rm d a b) r2 .i32 d (fun l => each2 ty v Fmt.mulV (x l) (y l)) ∧
    FlagWord s g m (.ffma m ty rm d a b c) (r2 ++ cRegs .i32 c) .i32 d (fun l =>
      packed2 ((((elements ty (x l)).zip (elements ty (y l))).zip (elements ty (z l))).map fun e =>
        (fmtOf ty).fmaV v ((fmtOf ty).read v.daz e.1.1) ((fmtOf ty).read v.daz e.1.2) ((fmtOf ty).read v.daz e.2))) ∧
    FlagWord s g m (.fmin m ty d a b) r2 .i32 d (both false) ∧
    FlagWord s g m (.fmax m ty d a b) r2 .i32 d (both true) ∧
    FlagWord s g m (.frnd m ty rm d a) r1 .i32 d (fun l => each1 ty v Fmt.rndV (x l)) ∧
    (ty.flt3 = true →
      FlagWord s g m (.fdiv m ty rm d a b) r2 .i32 d (fun l => each2 ty v Fmt.divV (x l) (y l)) ∧
      FlagWord s g m (.frcp m ty rm d a) r1 .i32 d (fun l => each1 ty v Fmt.rcpV (x l)) ∧
      FlagWord s g m (.frsq m ty rm d a) r1 .i32 d (fun l => each1 ty v Fmt.rsqV (x l)) ∧
      FlagWord s g m (.fsqrt m ty rm d a) r1 .i32 d (fun l => each1 ty v Fmt.sqrtV (x l)) ∧
      FlagWord s g m (.fexp2 m ty rm d a) r1 .i32 d (fun l => each1 ty v Fmt.exp2V (x l)) ∧
      FlagWord s g m (.flog2 m ty rm d a) r1 .i32 d (fun l => each1 ty v Fmt.log2V (x l)))

/-- R172, R173, R177, R181 to R187: FCMP sets the predicate bits of its effective lanes, by the relation, false where a NaN
makes the pair unordered unless the relation is NE or UN, and raises nv for a signalling NaN, or for any NaN where the relation
orders; FCLASS gives the one bit of its lane's class with no flag; FCVT, LCVT and LMUL convert and multiply, the last two only
where the die's feature bit is set.  That a quota trap names the lowest of several registers is log entry 68 (DEDUCED). -/
def Obligations.FloatComparesAndConversions : Prop :=
  ∀ (s : State) (g : Group) (m : Mods) (ty src : Ty) (cond : Cond) (p : BitVec 3) (rm : Rm) (sat : Bool)
    (d a : BitVec 8) (b : OpB), Issues s g →
    let eff := effMask s.picks g m
    let v := fenv g.lmode rm
    let w := fenv g.lmode .mode
    let x := fun l => vVal s s.cur g .i32 a l
    let y := fun l => bVal s s.cur g .i32 b l
    let r1 := [d.toNat, a.toNat]
    let r2 := r1 ++ bRegs .i32 b
    let xv := fun l => (fmtOf ty).read w.daz (x l)
    let yv := fun l => (fmtOf ty).read w.daz (y l)
    let nan := fun l => (xv l).isNan || (yv l).isNan
    let sig := fun l => (xv l).isSig || (yv l).isSig
    let ordering : Bool := match cond with | .lt | .le | .gt | .ge => true | _ => false
    (ty.flt3 = true → g.width ≤ 64 →
      ∃ q : Mask,
        (∀ l, l < g.width → q.getLsbD l =
          if nan l then decide (cond = .ne ∨ cond = .un)
          else match cond with
            | .eq => !(xv l).less false (yv l) && !(yv l).less false (xv l)
            | .ne => (xv l).less false (yv l) || (yv l).less false (xv l)
            | .lt => (xv l).less false (yv l)
            | .le => !(yv l).less false (xv l)
            | .gt => (yv l).less false (xv l)
            | .ge => !(xv l).less false (yv l)
            | .un => false
            | .ord => true) ∧
        FlagIssue s g m (.fcmp m ty cond p a b) ([a.toNat] ++ bRegs .i32 b) [.p p.toNat eff q false]
          (fun l => if sig l || (ordering && nan l) then 1 else 0)) ∧
    (ty.flt3 = true →
      LaneWord s g m (.fclass m ty d a) r1 .i32 d .top (fun l => (fmtOf ty).classOf (x l))) ∧
    (ty.fcvt src = true →
      FlagWord s g m (.fcvt m ty src rm sat d a) (vRegs ty d ++ vRegs src a) ty d
        (fun l => cvtVal ty src v sat (vVal s s.cur g src a l))) ∧
    (hasFeat s s.cur 2 = true →
      FlagWord s g m (.lmul m sat d a b) r2 .i32 d (fun l => l6Mul sat (x l) (y l)) ∧
      (ty.lcvt src = true → FlagWord s g m (.lcvt m ty src rm sat d a) r1 .i32 d (fun l =>
        if src = .l6 then l6To ty v (x l) else toL6 v sat ((fmtOf src).read v.daz (x l))))) ∧
    (hasFeat s s.cur 2 = false →
      ((∀ r ∈ r2, r < g.q) → exec (.lmul m sat d a b) s = .next (raiseL s s.cur g .feature 2)) ∧
      ((∀ r ∈ r1, r < g.q) → exec (.lcvt m ty src rm sat d a) s = .next (raiseL s s.cur g .feature 2)))

/-- R169: what rounding keeps of a magnitude is one of the two neighbours of the exact value: toward zero the lower,
upward and downward by the sign, and to nearest the one less than half a place away, a tie going to the even neighbour
(RNE) or away from zero (RNA); an exact value is kept. -/
def Obligations.RoundingDirections : Prop :=
  ∀ (rm : Rm) (neg : Bool) (n rem sh : Nat), rem < 2 ^ sh → 0 < sh → rm ≠ .mode →
    let up := roundUp rm neg n rem sh false
    (rem = 0 → up = false) ∧
    (rm = .rz → up = false) ∧
    (rm = .ru → rem ≠ 0 → (up = true ↔ neg = false)) ∧
    (rm = .rd → rem ≠ 0 → (up = true ↔ neg = true)) ∧
    ((rm = .rne ∨ rm = .rna) → (2 * rem < 2 ^ sh → up = false) ∧ (2 ^ sh < 2 * rem → up = true)) ∧
    (rm = .rne → 2 * rem = 2 ^ sh → (n + if up then 1 else 0) % 2 = 0) ∧
    (rm = .rna → 2 * rem = 2 ^ sh → up = true)


/-! ## Cross-lane words -/

/-- How a uniform result completes (R41, R129, R145): the words of the result go to consecutive registers from d on, S
registers whole, or V registers in every effective lane; other registers of the word are regs. -/
def UniformWord (s : State) (g : Group) (m : Mods) (sw : Bool) (i : Instr) (regs : List Nat) (d : Dst) (sh : W32 → Shadow)
    (ws : List W32) (more : List PWrite) : Prop :=
  let eff := effMask s.picks g m
  match d with
  | .s n =>
    QuotaTrap s g i regs ∧
    ((∀ r ∈ regs, r < g.q) → g.ln.full = false → exec i s = .next
      (laneAfter s g ((ws.mapIdx fun j v => .s (g.sKey (n.toNat + j)) v (sh v) false) ++ more) sw))
  | .v n =>
    let all := (List.range ws.length).map (n.toNat + ·) ++ regs
    QuotaTrap s g i all ∧
    ((∀ r ∈ all, r < g.q) → eff = 0 → exec i s = .next (laneOn s g (g.ctx.lpc + 12) sw)) ∧
    ((∀ r ∈ all, r < g.q) → eff ≠ 0 → g.ln.full = false → exec i s = .next (laneAfter s g
      ((ws.mapIdx fun j v => .v (n.toNat + j) eff (List.replicate g.width v)
        (if eff = g.live then sh v else (vShadow g (n.toNat + j)).join (sh v)) false) ++ more) sw))

/-- R129 to R132: XSHFL gives each lane the value of the lane its mode names, XBCAST the value of the lane named in the
lowest effective lane, both 0 from a lane outside the live mask; XBALLOT writes the predicate bits of the effective lanes,
XVOTE the outcome of its mode. -/
def Claims.LaneShufflesAndVotes : Prop :=
  ∀ (s : State) (g : Group) (m : Mods) (ty : Ty) (mode : Shfl) (vote : Vote) (d a : BitVec 8) (b : OpB) (dst : Dst)
    (p : BitVec 3), Issues s g → ty.shfl = true →
    let eff := effMask s.picks g m
    let src := fun j => if g.live.getLsbD j then vVal s s.cur g ty a j else 0
    let k := fun l => bVal s s.cur g .i32 b l
    let regs := vRegs ty d ++ vRegs ty a ++ bRegs .i32 b
    let t := pRead s.picks g p.toNat &&& eff
    let low := t.extractLsb' 0 32
    let exact : W32 → Shadow := fun v => .itv v.toInt v.toInt
    LaneWord s g m (.xshfl m ty mode d a b) regs ty d .top (fun l => src (match mode with
      | .idx => k l % g.width
      | .up => if k l ≤ l then l - k l else l
      | .down => if l + k l < g.width then l + k l else l
      | .xor => l ^^^ (k l % g.width))) ∧
    (∀ l, (eff = 0 ∨ l < 64 ∧ eff.getLsbD l = true ∧ ∀ j, j < l → eff.getLsbD j = false) →
      LaneWord s g m (.xbcast m ty d a b) regs ty d .top (fun _ => src (k l % g.width))) ∧
    UniformWord s g m m.sw (.xballot m dst p) [] dst exact (if g.width = 64 then [low, t.extractLsb' 32 32] else [low]) [] ∧
    UniformWord s g m m.sw (.xvote m vote dst p) [] dst exact
      [match vote with
        | .all => if t = eff then 1 else 0
        | .any => if t = 0 then 0 else 1
        | .uni => if t = 0 ∨ t = eff then 1 else 0] []

/-- One step of a scan (R133): integers wrap, F32 adds and compares as FADD, FMIN and FMAX do. -/
def scanOne (v : Fenv) (op : XOp) (ty : Ty) (x y : Nat) : Nat × BitVec 6 :=
  match op with
  | .add => if ty = .f32 then fmtF32.addV v (fmtF32.read v.daz x) (fmtF32.read v.daz y) else (stored ty false (typed ty x + typed ty y), 0)
  | .min => if ty = .f32 then fmtF32.minmax v false x y else (stored ty false (min (typed ty x) (typed ty y)), 0)
  | .max => if ty = .f32 then fmtF32.minmax v true x y else (stored ty false (max (typed ty x) (typed ty y)), 0)
  | .and => (x &&& y, 0)
  | .or => (x ||| y, 0)
  | .xor => (x ^^^ y, 0)

/-- The scan of the values of some lanes, in the order given: the operation's identity for none. -/
def scanOver (v : Fenv) (op : XOp) (ty : Ty) (xs : List Nat) : Nat :=
  match xs with
  | x :: rest => rest.foldl (fun r y => (scanOne v op ty r y).1) x
  | [] =>
    match op with
    | .add | .or | .xor => 0
    | .and => 2 ^ tyW ty - 1
    | .min => if ty = .f32 then 0x7F800000 else if ty.signed then 2 ^ (tyW ty - 1) - 1 else 2 ^ tyW ty - 1
    | .max => if ty = .f32 then 0xFF800000 else if ty.signed then 2 ^ (tyW ty - 1) else 0

/-- R133, R173: XPREFIX gives each effective lane the scan of the effective lanes up to it, or below it with excl, and its
step's flags; XREDUCE gives the scan of all of them, exact in its shadow, with the flags of all steps together, and traps in the
lowest effective lane where one of them is enabled.  An integer type raises no flag, and issues with its own sw.  That a 64-bit
XREDUCE leaves the exact shadow of its own value in each word of its pair is the model's reading (log entry 26: DEDUCED), as is
that a quota trap names the lowest of several registers (log entry 68: DEDUCED). -/
def Claims.LaneScans : Prop :=
  ∀ (s : State) (g : Group) (m : Mods) (ty : Ty) (rm : Rm) (op : XOp) (excl : Bool) (d a : BitVec 8) (dst : Dst),
    Issues s g → ty.scan op = true → g.width ≤ 64 →
    let v := fenv g.lmode rm
    let eff := effMask s.picks g m
    let en : BitVec 6 := (g.lmode.extractLsb' 8 5).zeroExtend 6
    let x := fun l => vVal s s.cur g ty a l
    let lanes := (List.range 64).filter fun l => eff.getLsbD l
    let below := fun l => (lanes.filter fun j => decide (j < l)).map x
    let flagsAt := fun l => if below l = [] then 0 else (scanOne v op ty (scanOver v op ty (below l)) (x l)).2
    let all := lanes.foldl (fun f l => f ||| flagsAt l) (0 : BitVec 6)
    let r := scanOver v op ty (lanes.map x)
    let ws : List W32 := if ty.is64 then [BitVec.ofNat 32 r, BitVec.ofNat 32 (r / 2 ^ 32)] else [BitVec.ofNat 32 r]
    let i := Instr.xreduce m ty rm op dst a
    let scanned := fun l => if excl then scanOver v op ty (below l) else scanOver v op ty (below l ++ [x l])
    let f32 : Bool := decide (ty = .f32)
    let sw := m.sw || (f32 && en != 0)
    (f32 = true → FlagWord s g m (.xprefix m ty rm op excl d a) (vRegs ty d ++ vRegs ty a) ty d
      (fun l => (scanned l, flagsAt l))) ∧
    (f32 = false → LaneWord s g m (.xprefix m ty rm op excl d a) (vRegs ty d ++ vRegs ty a) ty d .top
      (fun l => if eff.getLsbD l then scanned l else 0)) ∧
    (m.nf = true ∨ eff = 0 ∨ all &&& en = 0 →
      UniformWord s g m sw i (vRegs ty a) dst (fun w => .itv w.toInt w.toInt) ws
        (if m.nf = true ∨ eff = 0 ∨ all = 0 ∨ g.width = 0 then []
         else [.fxOr ((List.range g.width).map fun l => if eff.getLsbD l then all else 0) false])) ∧
    (m.nf = false → all &&& en ≠ 0 → (∀ r ∈ dRegs ty dst ++ vRegs ty a, r < g.q) →
      ∀ l, l < 64 → eff.getLsbD l = true → (∀ j, j < l → eff.getLsbD j = false) →
      exec i s = .next (raiseL s s.cur g .arithmetic (BitVec.ofNat 32 ((all &&& en).toNat * 256 + l))))

/-! ## Lane memory words -/

/-- The index a lane of a bounded access asks for, its interval, and the lane's address, none when it offends (R149). -/
def laneIndex (s : State) (g : Group) (b : OpC) (off : BitVec 32) (l : Nat) : Int :=
  (BitVec.ofNat 32 (cVal s s.cur g .i32 b l)).toInt + off.toInt
def laneInterval (s : State) (g : Group) (b : OpC) (off : BitVec 32) : Shadow := (cSh s g b).shift off.toInt off.toInt
def laneAddress (s : State) (g : Group) (n : BitVec 4) (b : OpC) (off : BitVec 32) (l : Nat) : Option Nat :=
  (modeIndex (aLane g n) (!insideA (aLane g n) (laneInterval s g b off)) (laneIndex s g b off l)).map (eltAddr (aLane g n))

/-- The effective lanes, ascending, and those of them that access, with their addresses. -/
def effLanes (s : State) (g : Group) (m : Mods) : List Nat :=
  (List.range 64).filter fun l => (effMask s.picks g m).getLsbD l
def accesses (s : State) (g : Group) (m : Mods) (at_ : Nat → Option Nat) : List (Nat × Nat) :=
  (effLanes s g m).filterMap fun l => (at_ l).map fun va => (l, va)

/-- FX.ob of the effective lanes that offend, unless nf is set (R149). -/
def obFlags (s : State) (g : Group) (m : Mods) (at_ : Nat → Option Nat) : List PWrite :=
  let off := fun l => (effMask s.picks g m).getLsbD l && (at_ l).isNone
  if m.nf || !(List.range g.width).any off then []
  else [.fxOr ((List.range g.width).map fun l => if off l then 32 else 0) false]

/-- The word is not stopped by the quota, a misaligned base, or the TRAP mode (R41, R149, R151), and can issue. -/
def LaneReady (s : State) (g : Group) (m : Mods) (regs : List Nat) (n : BitVec 4) (b : OpC) (off : BitVec 32) : Prop :=
  (∀ r ∈ regs ++ cRegs .i32 b, r < g.q) ∧ aBase (aLane g n) % aEsz (aLane g n) = 0 ∧
  (insideA (aLane g n) (laneInterval s g b off) = false → aMode (aLane g n) = 1 →
    ∀ l ∈ effLanes s g m, outA (aLane g n) (laneIndex s g b off l) = false) ∧
  g.ln.full = false ∧ g.ln.blocked s = false ∧ g.width ≤ 64

/-- The machine once the addresses of these accesses have been looked up: what reading the table lines meets has happened, and
the translations that walks found are cached (R229, R238, R241). -/
def lookedUp (s : State) (g : Group) (xs : List (Nat × Nat)) : State :=
  keepTrs s (dieOf (coreOf s.cur)) (aspOf s g) (xs.map (·.2))

/-- Every address of the accesses translates, to a line that a master may access (R151, R242). -/
def Translates (s : State) (g : Group) (acc : Acc) (xs : List (Nat × Nat)) (ps : List (Nat × Nat × TlbEntry)) : Prop :=
  transLanes (lookedUp s g xs) (dieOf (coreOf s.cur)) (aspOf s g) acc xs =
    ps.map (fun p => (p.1, Tr.ok p.2.1 p.2.2)) ∧ ∀ p ∈ ps, (paKind s p.2.1).line = true

/-- No line is on a failed channel, no reading of HBM meets an error, and no line is owned by an agent that is down or has
rejoined since (R229, R238, R356). -/
def Settled (s : State) : Prop :=
  (∀ line, onFailedChannel s line = false) ∧ (∀ line, pickMask s.picks (pkMedia line) = 0) ∧
  ∀ line, lineState s line = .exclusive ∨ lineState s line = .owned ∨ lineState s line = .modified →
    (agent s (elyOwner (elyRaw s line))).down = false ∧
    (agent s (elyOwner (elyRaw s line))).inc = elyInc (elyRaw s line)

/-- The core has sent no write that its home has not performed. -/
def NoSentWrites (s : State) : Prop := ∀ r ∈ s.reqs, r.2.core ≠ some (coreOf s.cur)

/-- The newest outstanding result of the lane stream is p, its writes marked where they meet outstanding ones. -/
def Newest (g h : Group) (ws : List PWrite) (p : Pending) : Prop :=
  h.ln.out.getLast? = some p ∧ p.writes = (markOvl (g.ln.out.flatMap (·.writes)) { p with writes := ws }).writes

/-- Of the machine, only the issuing group, memory-side requests, the L1 copies with their leases, cached translations,
counters and the notes of scratchpad words in flight may differ; and of the group, only its lane PC, which is pc, its progress
count, whether its word has counted its lines and is part-issued, and its lane stream. -/
def LaneIssuedAt (s t : State) (g h : Group) (pc : Va) : Prop :=
  t.grp s.cur = some h ∧ (∀ k, k ≠ s.cur → t.grp k = s.grp k) ∧ SameMem s t ∧ t.spad = s.spad ∧ t.rf = s.rf ∧
  t.acc = s.acc ∧ h = { g with ctx := { g.ctx with lpc := pc, prog := h.ctx.prog, counted := h.ctx.counted, part := h.ctx.part }, ln := h.ln }

/-- The same of a word that has issued whole. -/
def LaneIssued (s t : State) (g h : Group) : Prop :=
  LaneIssuedAt s t g h (g.ctx.lpc + 12) ∧ h.ctx.prog = g.ctx.prog ∧ h.ctx.counted = g.ctx.counted ∧ h.ctx.part = g.ctx.part

/-- The bytes of a lane access's footprint (R152). -/
def laneFoot (s : State) (g : Group) (n : BitVec 4) (b : OpC) (off : BitVec 32) : Option (Nat × Nat) :=
  (footprint (aLane g n) (laneInterval s g b off)
    (match b with | .u _ => some (laneIndex s g b off 0) | _ => none) false).map (footBytes (aLane g n))

/-- R103, R149, R151, R157: a lane load of elements that can be read gives each accessing lane its element, extended by
its type, and 0 to an effective lane that offends; FX.ob is set in those.  Its traps are those of a bounded access.  The lines
of its footprint are reserved first (R153), and it goes on once they are filled; an acquire at PAIR or wider reserves none.  The
footprint of a TOP interval is the model's reading (log entry 80: DEDUCED), that every lane is read at issue is one of the
schedule's choices (log entry 29: DEDUCED), and that a quota trap names the lowest of several registers is log entry 68
(DEDUCED). -/
def Obligations.LaneLoads : Prop :=
  ∀ (s : State) (g : Group) (m : Mods) (ty : Ty) (acq : Option Scope) (d : BitVec 8) (n : BitVec 4) (b : OpC)
    (off : BitVec 32), Issues s g → ty.int8c = true → (ty.is64 = true → d.toNat % 2 = 0) →
    let i := Instr.ld m ty acq d n b off
    let at_ := laneAddress s g n b off
    let xs := accesses s g m at_
    let core := coreOf s.cur
    let foot := if (match acq with | some sc => Scope.wide sc | none => false) then none else laneFoot s g n b off
    QuotaTrap s g i (vRegs ty d ++ cRegs .i32 b) ∧
    ((∀ r ∈ vRegs ty d ++ cRegs .i32 b, r < g.q) →
      (aBase (aLane g n) % aEsz (aLane g n) ≠ 0 → exec i s = .next (raiseL s s.cur g .operand 70)) ∧
      (aBase (aLane g n) % aEsz (aLane g n) = 0 → insideA (aLane g n) (laneInterval s g b off) = false →
        aMode (aLane g n) = 1 → ∀ l ∈ effLanes s g m, outA (aLane g n) (laneIndex s g b off l) = true →
        (∀ j ∈ effLanes s g m, j < l → outA (aLane g n) (laneIndex s g b off j) = false) →
        exec i s = .next (raiseL s s.cur g .bounds (BitVec.ofNat 32 (n.toNat * 256 + l))))) ∧
    (LaneReady s g m (vRegs ty d) n b off →
      (effLanes s g m = [] →
        let u := reserveFoot s core (aspOf s g) foot
        exec i s = .next (if footWaits u core (aspOf s g) foot then u else laneOn u g (g.ctx.lpc + 12) m.sw)) ∧
      (∀ ps, effLanes s g m ≠ [] → Translates s g .read xs ps →
        let u := reserveFoot (lookedUp s g xs) core (aspOf s g) foot
        footWaits u core (aspOf s g) foot = true → exec i s = .next u) ∧
      (∀ ps (bytes : Nat → List Byte), effLanes s g m ≠ [] → deferred s.picks = 0 → Settled s → NoSentWrites s → Translates s g .read xs ps →
        let u := reserveFoot (lookedUp s g xs) core (aspOf s g) foot
        footWaits u core (aspOf s g) foot = false →
        (∀ p ∈ ps, homeRead u p.2.1 ty.size = some (bytes p.1, false)) →
        ∃ t h, ∃ p : Pending, exec i s = .next t ∧ LaneIssued s t g h ∧ p.unsampled = 0 ∧
          Newest g h (laneWrites g ty d (effMask s.picks g m) .top
            (fun l => if xs.any (·.1 == l) then extend ty.signed (bytes l) else 0) ++ obFlags s g m at_) p))

/-- R157, R247: a lane store sends, in ascending lane order, the request that stores each accessing lane's element; no
byte of memory has changed yet.  What a request records of order, and that a release performs the group's scratchpad stores, are
the model's (log entries 21 and 29: DEDUCED). -/
def Obligations.LaneStores : Prop :=
  ∀ (s : State) (g : Group) (m : Mods) (ty : Ty) (rel : Option Scope) (n : BitVec 4) (b : OpC) (c : BitVec 8)
    (off : BitVec 32), Issues s g → LaneReady s g m (vRegs ty c) n b off →
    let at_ := laneAddress s g n b off
    let ob := obFlags s g m at_
    ∀ ps, Translates s g .write (accesses s g m at_) ps →
    let s0 := lookedUp s g (accesses s g m at_)
    ∃ s1, s1 = { s0 with counts := s1.counts } ∧
      let s1 := if rel.isSome then released s1 s.cur else s1
      let s2 := if ob = [] then laneOn s1 g (g.ctx.lpc + 12) m.sw else laneAfter s1 g ob m.sw
      let t := sendReqs s2 s.cur true (ps.map fun p =>
        mkReq s0 s.cur g true (.store p.2.1 (leBytes ty.size (vVal s s.cur g ty c p.1))) (replMask p.2.2) rel)
      exec (.st m ty rel n b c off) s = .next t ∧ SameMem s0 t

/-- R158: LDS reads the team's scratchpad, STS writes it in ascending lane order, both within its quota; neither changes
memory.  That STS writes at its issue is the model's choice (log entry 29: DEDUCED), and so is that LDS reads at issue, which is
one of the schedule's choices. -/
def Claims.ScratchpadAccesses : Prop :=
  ∀ (s : State) (g : Group) (key : Nat) (tm : Team) (m : Mods) (ty : Ty) (d c : BitVec 8) (n : BitVec 4) (b : OpC)
    (off : BitVec 32), Issues s g → ty.int8c = true → (ty.is64 = true → d.toNat % 2 = 0) →
    let at_ := laneAddress s g n b off
    let xs := accesses s g m at_
    let k := s.desc g
    let ob := obFlags s g m at_
    (g.tkey = none →
      exec (.lds m ty d n b off) s = .next (raiseL s s.cur g .role 3) ∧
      exec (.sts m ty n b c off) s = .next (raiseL s s.cur g .role 3)) ∧
    (g.tkey = some key → s.team key = some tm →
      (LaneReady s g m (vRegs ty d ++ vRegs ty c) n b off →
        ∀ e ∈ xs, k.spq < e.2 + aEsz (aLane g n) → (∀ f ∈ xs, f.1 < e.1 → f.2 + aEsz (aLane g n) ≤ k.spq) →
        let info := BitVec.ofNat 32 (2 ^ 16 + n.toNat * 256 + e.1)
        exec (.lds m ty d n b off) s = .next (raiseL s s.cur g .bounds info) ∧
        exec (.sts m ty n b c off) s = .next (raiseL s s.cur g .bounds info)) ∧
      ((∀ e ∈ xs, e.2 + aEsz (aLane g n) ≤ k.spq) →
        (LaneReady s g m (vRegs ty d) n b off → effLanes s g m ≠ [] → deferred s.picks = 0 →
          ∃ t h, ∃ p : Pending, exec (.lds m ty d n b off) s = .next t ∧ LaneIssued s t g h ∧
            p.unsampled = 0 ∧
            Newest g h (laneWrites g ty d (effMask s.picks g m) .top (fun l =>
              match at_ l with
              | some x => if xs.any (·.1 == l) then extend ty.signed (spadBytes s (spadSrc s.cur) k tm x ty.size) else 0
              | none => 0) ++ ob) p) ∧
        (LaneReady s g m (vRegs ty c) n b off → g.ln.held s = false →
          let s1 := if ob = [] then laneOn s g (g.ctx.lpc + 12) m.sw else laneAfter s g ob m.sw
          exec (.sts m ty n b c off) s = .next (spadStore s1 s.cur k tm
            (xs.map fun e => (e.2, leBytes ty.size (vVal s s.cur g ty c e.1)))) ∧
          SameMem s (spadStore s1 s.cur k tm (xs.map fun e => (e.2, leBytes ty.size (vVal s s.cur g ty c e.1)))))))

/-- The index of the position of an effective lane of CST and XLDE, its interval, which of no position is TOP, and its address
(R159, R161). -/
def posIndex (s : State) (g : Group) (m : Mods) (b : Uni) (off : BitVec 32) (l : Nat) : Int :=
  (uRead s.picks g b).1.toInt + off.toInt + ((effLanes s g m).filter fun i => decide (i < l)).length
def posInterval (s : State) (g : Group) (m : Mods) (b : Uni) (off : BitVec 32) : Shadow :=
  if effLanes s g m = [] then .top
  else (uRead s.picks g b).2.shift off.toInt (off.toInt + (effLanes s g m).length - 1)
def posAddress (s : State) (g : Group) (m : Mods) (n : BitVec 4) (b : Uni) (off : BitVec 32) (l : Nat) : Option Nat :=
  let a := aLane g n
  (modeIndex a (!insideA a (posInterval s g m b off)) (posIndex s g m b off l)).map (eltAddr a)

/-- R13, R158: after stores of scratchpad elements by a group, where no other group's or engine's store is in flight, each
byte of storage reads as the last one stored to it, and every other byte as before; a write of a word, as a stage word's, the
same.  A byte is named by the core and place that R17 gives its team-relative address.  When a store becomes visible is log
entry 29 (DEDUCED). -/
def Claims.ScratchpadBytes : Prop :=
  ∀ (s : State) (gid : Nat) (k : KDesc) (tm : Team) (xs : List (Nat × List Byte)), Store.wf 0 s.spad = true →
    let put := xs.flatMap fun x => x.2.mapIdx fun i b => (spadKey k tm (x.1 + i), b)
    let reads := fun (t : State) => ∀ key, Store.getD 0 t.spad key =
      match (put.filter fun y => y.1 == key).getLast? with
      | some y => y.2
      | none => Store.getD 0 s.spad key
    ((∀ o ∈ s.olds, o.store = 1 → o.src = spadSrc gid) → reads (spadStore s gid k tm xs)) ∧
    (∀ x bs, xs = [(x, bs)] → reads (spadWrite s k tm x bs))

/-- R158: the scratchpad words, and what the scratchpad holds after them; the model's choices in it are those of log entry 29
(DEDUCED). -/
def Obligations.ScratchpadWords : Prop := Claims.ScratchpadAccesses ∧ Claims.ScratchpadBytes

/-- R41, R149, R151, R161: the traps that CST and XLDE take before any position is committed: the quota, a misaligned base, and,
in the TRAP mode, the lowest position outside the bounds, which the trap names.  That a quota trap names the lowest of several
registers is log entry 68 (DEDUCED). -/
def CompressedTraps (s : State) (g : Group) (m : Mods) (n : BitVec 4) (b : Uni) (off : BitVec 32) (regs : List Nat)
    (i : Instr) : Prop :=
  let a := aLane g n
  let at_ := posIndex s g m b off
  QuotaTrap s g i regs ∧
  ((∀ r ∈ regs, r < g.q) →
    (aBase a % aEsz a ≠ 0 → exec i s = .next (raiseL s s.cur g .operand 70)) ∧
    (aBase a % aEsz a = 0 → insideA a (posInterval s g m b off) = false → aMode a = 1 →
      ∀ l ∈ effLanes s g m, outA a (at_ l) = true → (∀ j ∈ effLanes s g m, j < l → outA a (at_ j) = false) →
      exec i s = .next (raiseL s s.cur g .bounds
        (BitVec.ofNat 32 (n.toNat * 256 + ((effLanes s g m).filter fun j => decide (j < l)).length)))))

/-- R159 to R161: CST stores, and XLDE loads, the elements of consecutive positions, one for each effective lane in
ascending order, from the position p that the progress count gives on.  An issue that ends early leaves p at the position where
the word goes on, and the word's PC, at no instruction boundary; p is 0 again when it completes.  Where an issue ends early is the
schedule's choice (log entry 28: DESIGN CHOICE), the footprint of a TOP interval and the reading at issue are log entries 80 and 29
(DEDUCED), and that a quota trap names the lowest of several registers is log entry 68 (DEDUCED). -/
def Obligations.CompressedWords : Prop :=
  ∀ (s : State) (g : Group) (m : Mods) (ty : Ty) (d c : BitVec 8) (n : BitVec 4) (b : Uni) (off : BitVec 32),
    Issues s g → ty.int8c = true → (ty.is64 = true → d.toNat % 2 = 0) →
    CompressedTraps s g m n b off (vRegs ty c) (.cst m ty n b c off) ∧
    CompressedTraps s g m n b off (vRegs ty d) (.xlde m ty d n b off) ∧
    (g.ln.full = false → g.ln.blocked s = false → g.width ≤ 64 → aBase (aLane g n) % aEsz (aLane g n) = 0 →
    (insideA (aLane g n) (posInterval s g m b off) = false → aMode (aLane g n) = 1 →
      ∀ l ∈ effLanes s g m, outA (aLane g n) (posIndex s g m b off l) = false) →
    let core := coreOf s.cur
    let at_ := posAddress s g m n b off
    let left := (effLanes s g m).drop g.ctx.prog
    let run := match stopAt s.picks with | some j => left.take (j - g.ctx.prog) | none => left
    let upto := g.ctx.prog + run.length
    let whole : Bool := decide ((effLanes s g m).length ≤ upto)
    let pc := if whole then g.ctx.lpc + 12 else g.ctx.lpc
    let prog := if whole then 0 else upto
    let part : Bool := !whole && decide (0 < upto)
    let xs := run.filterMap fun l => (at_ l).map fun va => (l, va)
    let counted := !whole && (g.ctx.counted || !xs.isEmpty)
    let off_ := fun l => run.contains l && (at_ l).isNone
    let ob : List PWrite := if m.nf || !(List.range g.width).any off_ then []
      else [.fxOr ((List.range g.width).map fun l => if off_ l then 32 else 0) false]
    let lanes := maskOf 64 fun l => run.contains l
    (∀ ps, (∀ r ∈ vRegs ty c, r < g.q) → Translates s g .write xs ps →
      let s0 := lookedUp s g xs
      ∃ s1 h, s1 = { s0 with counts := s1.counts } ∧
        let s2 := if ob = [] then s1 else
          { s1 with nextId := s1.nextId + 1 }.setGrp s.cur { g with ln := g.ln.push (resultOf s g.ctx.lpc .plain ob) }
        let s3 := sendReqs s2 s.cur true (ps.map fun p =>
          mkReq s0 s.cur g true (.store p.2.1 (leBytes ty.size (vVal s s.cur g ty c p.1))) (replMask p.2.2) none)
        s3.grp s.cur = some h ∧
        exec (.cst m ty n b c off) s = .next (s3.setGrp s.cur { h with
          ctx := { h.ctx with lpc := pc, prog := prog, counted := counted, part := part },
          ln := h.ln.mark (whole && m.sw) }) ∧
        SameMem s0 s3) ∧
    (∀ ps (bytes : Nat → List Byte), (∀ r ∈ vRegs ty d, r < g.q) → run ≠ [] → deferred s.picks = 0 →
      Settled s → NoSentWrites s →
      let foot := (footprint (aLane g n) (posInterval s g m b off) none true).map (footBytes (aLane g n))
      let u := reserveFoot s core (aspOf s g) foot
      footWaits u core (aspOf s g) foot = false → Translates u g .read xs ps →
      (∀ p ∈ ps, homeRead u p.2.1 ty.size = some (bytes p.1, false)) →
      ∃ t h, ∃ p : Pending, exec (.xlde m ty d n b off) s = .next t ∧ LaneIssuedAt s t g h pc ∧ h.ctx.prog = prog ∧
        h.ctx.counted = counted ∧ h.ctx.part = part ∧ p.unsampled = 0 ∧
        Newest g h (laneWrites g ty d lanes .top
          (fun l => if xs.any (·.1 == l) then extend ty.signed (bytes l) else 0) ++ ob) p))

/-- How an atomic issues (R162, R247): one request for each accessing lane, in ascending lane order, with the lane's
operand and, of a compare-and-swap, its new value; its result waits for them.  Memory has not changed yet.  What a request
records of order is the model's (log entry 21: DEDUCED). -/
def AtomicWord (s : State) (g : Group) (m : Mods) (ty : Ty) (op : AtomOp) (d : BitVec 8) (n : BitVec 4) (b : OpC)
    (c : BitVec 8) (off : BitVec 32) (rel : Option Scope) (i : Instr) : Prop :=
  let k := if ty.is64 then 2 else 1
  let run := (List.range (if op = .cas then 2 * k else k)).map (c.toNat + ·)
  let at_ := laneAddress s g n b off
  LaneReady s g m (vRegs ty d ++ run) n b off →
  (effLanes s g m = [] → exec i s = .next (laneOn s g (g.ctx.lpc + 12) m.sw)) ∧
  (∀ ps, effLanes s g m ≠ [] → Translates s g .write (accesses s g m at_) ps →
    ∃ t h, ∃ p : Pending, exec i s = .next t ∧ LaneIssued (lookedUp s g (accesses s g m at_)) t g h ∧ p.kind = .atomic ∧
      p.id = s.nextId ∧
      p.waiting = (List.range ps.length).map (s.nextId + 1 + ·) ∧
      Newest g h (laneWrites g ty d (effMask s.picks g m) .top (fun _ => 0) ++ obFlags s g m at_) p ∧
      t.reqs = (ps.mapIdx fun j q => (s.nextId + 1 + j,
        mkReq s s.cur g true
          (.atomic op ty.signed q.2.1 ty.size (vVal s s.cur g ty c q.1)
            (if op = .cas then vVal s s.cur g ty (c + BitVec.ofNat 8 k) q.1 else 0) s.nextId q.1)
          (replMask q.2.2) rel)).foldl (fun m e => Store.put m e.1 e.2) s.reqs)

/-- R162: the eight atomics.  What their requests record of order is the model's (log entry 21: DEDUCED). -/
def Obligations.AtomicWords : Prop :=
  ∀ (s : State) (g : Group) (m : Mods) (ty : Ty) (ord : AOrd) (d : BitVec 8) (n : BitVec 4) (b : OpC) (c : BitVec 8)
    (off : BitVec 32), Issues s g → ty.int4 = true →
    let rel := match ord with | .rel x => some x | .acqrel x => some x | _ => none
    let word := fun op i => AtomicWord s g m ty op d n b c off rel i
    word .add (.atomAdd m ty ord d n b c off) ∧ word .min (.atomMin m ty ord d n b c off) ∧
    word .max (.atomMax m ty ord d n b c off) ∧ word .and (.atomAnd m ty ord d n b c off) ∧
    word .or (.atomOr m ty ord d n b c off) ∧ word .xor (.atomXor m ty ord d n b c off) ∧
    word .xchg (.atomXchg m ty ord d n b c off) ∧ word .cas (.atomCas m ty ord d n b c off)

/-! ## Matrix words -/

/-- A matrix word may run: the group's role permits it, it has a team, and all its lanes are in EXM (R26, R27, R192). -/
def MatrixReady (s : State) (g : Group) (tm : Team) : Prop :=
  (g.role = 1 ∨ g.role = 3) ∧ (∃ k, g.tkey = some k ∧ s.team k = some tm) ∧ g.ctx.exm = g.all

/-- R192, R193, R196: MBEGIN opens a chain that has touched no tile; MEND closes it and writes every touched tile. -/
def Claims.MatrixChains : Prop :=
  ∀ (s : State) (g : Group) (nf sw : Bool), Issues s g →
    let info : W32 := if g.tid = none then 3 else g.role.zeroExtend 32
    ((g.role = 0 ∨ g.role = 2) →
      exec (.mbegin nf sw) s = .next (raiseL s s.cur g .role info) ∧
      exec (.mend nf sw) s = .next (raiseL s s.cur g .role info)) ∧
    (g.role = 1 ∨ g.role = 3 →
      (g.ctx.exm ≠ g.all →
        exec (.mbegin nf sw) s = .next (raiseL s s.cur g .convergence 4) ∧
        exec (.mend nf sw) s = .next (raiseL s s.cur g .convergence 4)) ∧
      (g.ctx.exm = g.all →
        (g.handler = true → exec (.mbegin nf sw) s = .next (raiseL s s.cur g .chain 8)) ∧
        (g.handler = false → g.chain ≠ none → exec (.mbegin nf sw) s = .next (raiseL s s.cur g .chain 1)) ∧
        (g.handler = false → g.chain = none → exec (.mbegin nf sw) s =
          .next (laneOn s { g with chain := some ⟨none, [], g.lmode⟩ } (g.ctx.lpc + 12) sw)) ∧
        (g.chain = none → exec (.mend nf sw) s = .next (raiseL s s.cur g .chain 2)) ∧
        (∀ c, g.chain = some c → g.ln.full = false →
          let g' := { g with chain := none }
          let r := c.tiles.map fun t => (t.tile, endTile c.first (fenv g.lmode .mode) t)
          let st := Stat.sum (r.map fun x => x.2.2)
          exec (.mend nf sw) s = .next (addStats
            (if c.tiles = [] then laneOn s g' (g.ctx.lpc + 12) sw else laneAfter s g' (r.map fun x => .z x.1 x.2.1) sw)
            g.lid 255 st))))

/-- Sign, exponent and fraction fields of a pattern of a format. -/
def signOf (eb mb x : Nat) : Bool := x / 2 ^ (eb + mb) % 2 == 1
def expOf (eb mb x : Nat) : Nat := x / 2 ^ mb % 2 ^ eb
def fracOf (mb x : Nat) : Nat := x % 2 ^ mb

/-- The integer value of a finite pattern in units of 2^-u (R165): bias 2^(eb-1) - 1. -/
def exactVal (eb mb u x : Nat) : Int :=
  let e := expOf eb mb x
  let m := if e = 0 then fracOf mb x else 2 ^ mb + fracOf mb x
  let v : Int := m * 2 ^ (max e 1 + u - (2 ^ (eb - 1) - 1) - mb)
  if signOf eb mb x then -v else v

/-- What an operand of MMA is: NaN or an invalid L6 cell; an infinity; a value (R165, R168, R195). -/
def mmaNan (ty : Ty) (x : Nat) : Bool :=
  match ty with
  | .l6 => decide (64 ≤ x) || x == 32
  | .e4m3 => x % 128 == 127
  | .e5m2 => decide (124 < x % 128)
  | .f16 => decide (0x7C00 < x % 0x8000)
  | .bf16 => decide (0x7F80 < x % 0x8000)
  | _ => false
def mmaInf (ty : Ty) (x : Nat) : Bool :=
  match ty with
  | .e5m2 => x % 128 == 124
  | .f16 => x % 0x8000 == 0x7C00
  | .bf16 => x % 0x8000 == 0x7F80
  | _ => false
def mmaNeg (ty : Ty) (x : Nat) : Bool :=
  match ty with
  | .e4m3 | .e5m2 | .i8 => decide (128 ≤ x)
  | .l6 => decide (32 ≤ x)
  | _ => decide (0x8000 ≤ x)
def mmaZero (ty : Ty) (daz : Bool) (x : Nat) : Bool :=
  match ty with
  | .i8 | .l6 => x == 0
  | .e4m3 | .e5m2 => x % 128 == 0
  | .f16 => if daz then decide (x % 0x8000 < 0x400) else x % 0x8000 == 0
  | _ => if daz then decide (x % 0x8000 < 0x80) else x % 0x8000 == 0

/-- What a product makes of a sum: 3 NaN, 1 and 2 an infinity of its sign, 0 nothing (R195). -/
def mmaSpec (ty : Ty) (daz : Bool) (x y : Nat) : Nat :=
  if mmaNan ty x || mmaNan ty y || (mmaInf ty x && mmaZero ty daz y) || (mmaZero ty daz x && mmaInf ty y) then 3
  else if mmaInf ty x || mmaInf ty y then (if mmaNeg ty x == mmaNeg ty y then 1 else 2)
  else 0

/-- A finite product, exactly: in units of 2^-32 for the 8-bit types and L6, of 2^-300 for F16 and BF16 (R195). -/
def mmaProd (ty : Ty) (daz : Bool) (x y : Nat) : Int :=
  if mmaZero ty daz x || mmaZero ty daz y then 0
  else
    match ty with
    | .i8 => (BitVec.ofNat 8 x).toInt * (BitVec.ofNat 8 y).toInt * 2 ^ 32
    | .l6 =>
      let t := x % 32 + y % 32
      let v : Int := ([0x1000000, 0x1306FE1, 0x16A09E6, 0x1AE89FA][t % 4]?.getD 0) * 2 ^ (t / 4)
      if mmaNeg ty x == mmaNeg ty y then v else -v
    | .e4m3 => exactVal 4 3 16 x * exactVal 4 3 16 y
    | .e5m2 => exactVal 5 2 16 x * exactVal 5 2 16 y
    | .f16 => exactVal 5 10 150 x * exactVal 5 10 150 y
    | _ => exactVal 8 7 150 x * exactVal 8 7 150 y

/-- The finite products of a row and a column added, and what the others make of the sum. -/
def mmaSum (ty : Ty) (daz : Bool) (ps : List (Nat × Nat)) : Int :=
  ((ps.filter fun p => mmaSpec ty daz p.1 p.2 == 0).map fun p => mmaProd ty daz p.1 p.2).sum
def mmaSpecs (ty : Ty) (daz : Bool) (spec : Nat) (ps : List (Nat × Nat)) : Nat :=
  ps.foldl (fun a p => specJoin a (mmaSpec ty daz p.1 p.2)) spec

/-- z + the sum of the products of a 16-bit type, exact, rounded once to F32 (R169, R195): a NaN or opposite infinities give
NaN; an exact zero is -0 when all terms are -0, +0 when all are +0, and otherwise as the rounding has it. -/
def mmaRound (ty : Ty) (v : Fenv) (z : Nat) (ps : List (Nat × Nat)) : Nat :=
  let inf := z % 2 ^ 31 == 0x7F800000
  let spec := mmaSpecs ty v.daz (if 0x7F800000 < z % 2 ^ 31 then 3 else if inf then (if z < 2 ^ 31 then 1 else 2) else 0) ps
  let x := (if inf || decide (0x7F800000 < z % 2 ^ 31) then 0 else exactVal 8 23 300 z) + mmaSum ty v.daz ps
  let zeros := fun neg => z == (if neg then 2 ^ 31 else 0) &&
    ps.all fun p => (mmaZero ty v.daz p.1 || mmaZero ty v.daz p.2) && (mmaNeg ty p.1 != mmaNeg ty p.2) == neg
  if spec = 3 then 0x7FC00000 else if spec = 1 then 0x7F800000 else if spec = 2 then 0xFF800000
  else if x = 0 then (if zeros true || (!zeros false && v.rm == .rd) then 0x80000000 else 0)
  else (fmtF32.fin v (decide (x < 0)) x.natAbs (-300) false).1

/-- The 16-bit elements of a row (R189). -/
def rowHalves (r : List Byte) : List Nat :=
  (List.range (r.length / 2)).map fun k => r[2 * k]!.toNat + 256 * r[2 * k + 1]!.toNat

/-- R189, R195: inside a chain MMA adds, to every entry of its tile, the products of the row of its A fragment and the
column of its B fragment. The sums of the 8-bit types and of L6 are exact, in units of 2^-32, and their NaNs and infinities
are kept beside them; F16 and BF16 add the exact sum to the entry and round it once to F32. A tile is touched from its first
MMA on; the type and the rounding are those of the first MMA.  The sign of an exact zero sum is log entry 32 (DEDUCED). -/
def Claims.MatrixMultiply : Prop :=
  ∀ (s : State) (g : Group) (tm : Team) (nf sw : Bool) (ty : Ty) (rm : Rm) (d a b : BitVec 8) (c : Chain),
    Issues s g → MatrixReady s g tm → ty.mma = true → g.chain = some c →
    let w := g.width
    let cols := if w = 16 then 8 else 16
    let rows := if w = 16 then 8 else if w = 32 then 16 else 32
    let run := (List.range 16).map (a.toNat + ·) ++ (List.range (if w = 64 then 8 else 16)).map (b.toNat + ·)
    let v := fenv g.lmode rm
    let i := Instr.mma nf sw ty rm d a b
    let old := c.tiles.find? fun t => t.tile == d.toNat
    let ra := fragRows s s.cur g a.toNat rows false
    let rb := fragRows s s.cur g b.toNat cols true
    QuotaTrap s g i run ∧
    ((∀ r ∈ run, r < g.q) → tileBeyond (s.desc g) w d.toNat = false → (ty = .l6 → hasFeat s s.cur 2 = true) →
      (old = none → 8 ≤ c.tiles.length → exec i s = .next (raiseL s s.cur g .chain 3)) ∧
      (¬ (old = none ∧ 8 ≤ c.tiles.length) → c.first ≠ none → c.first ≠ some (ty, v.rm) →
        exec i s = .next (raiseL s s.cur g .chain 4)) ∧
      (c.first = none ∨ c.first = some (ty, v.rm) →
        (∀ t, old = some t → t.steps + 1 < 2 ^ 24 →
          let r := mmaTile ty v cols ra rb t
          exec i s = .next (addStats (laneOn s { g with chain := some { c with
            first := some (ty, v.rm), tiles := c.tiles.map fun x => if x.tile = d.toNat then r.1 else x } }
            (g.ctx.lpc + 12) sw) g.lid 255 r.2)) ∧
        (old = none → c.tiles.length < 8 →
          let r := mmaTile ty v cols ra rb (openTile d.toNat (zRead s g tm d.toNat) v.daz)
          exec i s = .next (addStats (laneOn s { g with chain := some { c with
            first := some (ty, v.rm), tiles := c.tiles ++ [r.1] } } (g.ctx.lpc + 12) sw) g.lid 255 r.2)))) ∧
    (∀ t : ChainTile,
      let bytes := fun e => ((ra[e / cols]?.getD []).map (·.toNat)).zip ((rb[e % cols]?.getD []).map (·.toNat))
      let words := fun e => (rowHalves (ra[e / cols]?.getD [])).zip (rowHalves (rb[e % cols]?.getD []))
      (ty ∈ [Ty.e4m3, .e5m2, .i8, .l6] →
        (mmaTile ty v cols ra rb t).1 = { t with
          steps := t.steps + 1
          sum := t.sum.mapIdx fun e x => x + mmaSum ty false (bytes e)
          spec := t.sum.mapIdx fun e _ => mmaSpecs ty false (t.spec[e]?.getD 0) (bytes e) }) ∧
      (ty ∈ [Ty.f16, .bf16] →
        (mmaTile ty v cols ra rb t).1 = { t with
          steps := t.steps + 1, zr := t.zr.mapIdx fun e z => BitVec.ofNat 32 (mmaRound ty v z.toNat (words e)) }))

/-- R190, R199 to R201, R212: MZERO and MACCLD write a tile's entries, MACCST stores them, and MLDF writes a fragment from
the swizzled rows of the scratchpad, each at an address that is aligned and within the scratchpad quota; none of them
changes memory.  That a word is read at issue, where the schedule does not put its reading off, and stored at issue is the
model's choice (log entry 29: DEDUCED); where the bytes of a swizzled row lie is log entry 67 (DEDUCED),
and that a quota trap names the lowest of several registers is log entry 68 (DEDUCED). -/
def Obligations.MatrixTiles : Prop :=
  ∀ (s : State) (g : Group) (tm : Team) (nf sw isB : Bool) (d : BitVec 8) (u : Uni) (off : BitVec 32),
    Issues s g → MatrixReady s g tm → g.ln.full = false → g.ln.blocked s = false → g.ln.held s = false →
    (∀ j, pickMask s.picks (pkRest j) = 0) →
    let w := g.width
    let k := s.desc g
    let cols := if w = 16 then 8 else 16
    let rows := if w = 16 then 8 else if w = 32 then 16 else 32
    let n := rows * cols
    let x : Int := ((uRead s.picks g u).1.toNat : Int) + off.toInt
    let lay := if isB then cols else rows
    let regs := if isB && w == 64 then 8 else 16
    let pc := g.ctx.lpc + 12
    let reads := fun (i : Instr) (kind : PKind) (ws : List PWrite) =>
      ∃ t h, ∃ p : Pending, exec i s = .next t ∧ LaneIssued s t g h ∧ p.kind = kind ∧ p.rest.all (· == 0) = true ∧
        Newest g h ws p
    let fits := fun (align len : Nat) (i : Instr) =>
      (x % align ≠ 0 → exec i s = .next (raiseL s s.cur g .operand 0)) ∧
      (x % align = 0 → (x < 0 ∨ (k.spq : Int) < x + len) →
        exec i s = .next (raiseL s s.cur g .bounds (BitVec.ofNat 32 (2 ^ 16 + 255 * 256))))
    (tileBeyond k w d.toNat = true → ∀ i ∈ [Instr.mzero nf sw d, .maccld nf sw d u off, .maccst nf sw d u off],
      exec i s = .next (raiseL s s.cur g .quota (BitVec.ofNat 32 (3 + 256 * d.toNat)))) ∧
    (tileBeyond k w d.toNat = false → touched g d.toNat = true →
      ∀ i ∈ [Instr.mzero nf sw d, .maccld nf sw d u off, .maccst nf sw d u off],
        exec i s = .next (raiseL s s.cur g .chain 6)) ∧
    (tileBeyond k w d.toNat = false → touched g d.toNat = false →
      exec (.mzero nf sw d) s = .next (laneAfter s g [.z d.toNat (List.replicate n 0)] sw) ∧
      fits 16 (4 * n) (.maccld nf sw d u off) ∧ fits 16 (4 * n) (.maccst nf sw d u off) ∧
      (x % 16 = 0 → 0 ≤ x → x + 4 * n ≤ k.spq →
        reads (.maccld nf sw d u off) (.tile x.toNat)
          [.z d.toNat ((List.range n).map fun e => ofBytes 32 (spadBytes s (spadSrc s.cur) k tm (x.toNat + 4 * e) 4))] ∧
        (let xs := (zRead s g tm d.toNat).mapIdx fun e v => (x.toNat + 4 * e, bytesOf v)
         exec (.maccst nf sw d u off) s = .next (spadStore (laneOn s g pc sw) s.cur k tm xs) ∧
         SameMem s (spadStore (laneOn s g pc sw) s.cur k tm xs)))) ∧
    QuotaTrap s g (.mldf nf sw isB d u off) ((List.range regs).map (d.toNat + ·)) ∧
    ((∀ j, j < regs → d.toNat + j < g.q) →
      fits 128 (128 * lay) (.mldf nf sw isB d u off) ∧
      (x % 128 = 0 → 0 ≤ x → x + 128 * lay ≤ k.spq →
        reads (.mldf nf sw isB d u off) (.frag isB lay x.toNat) ((List.range regs).flatMap fun j =>
          laneWrites g .i32 (d + BitVec.ofNat 8 j) g.all .top (fun l =>
            let row := if isB && w == 64 then l % 16 else l % lay
            let byte := if isB && w == 64 then 32 * (l / 16) + 4 * j else 64 * (l / lay) + 4 * j
            leNat (canonBytes s (spadSrc s.cur) k tm (x.toNat + 128 * row) byte 4)))))

/-! ## Traversal words -/

/-- The accesses of a word at some addresses go on, with the state u and the addresses' translations. -/
def AccessesGo (s : State) (g : Group) (acc : Acc) (xs : List (Nat × Nat)) (u : State) (ps : List (Nat × Nat × TlbEntry)) :
    Prop := ∀ k, translated s s.cur g acc xs k = k u ps

/-- The same of the read of a 64-byte block by the lane stream. -/
def LaneBlockRead (s : State) (g : Group) (addr : Nat) (u : State) (block : BitVec 512) : Prop :=
  ∀ k, readBlock s s.cur g true addr k = k u block

/-- A traversal as TVBEGIN or TVRESUME starts it (R300, R301): the group owns it, and nothing of it has begun. -/
def FreshTrav (s : State) (g : Group) (table : BitVec 512) (taddr : Nat) (payload : W32) (tg : BitVec 8)
    (held : List TEntry) (stamp : Option Place) (t : Trav) : Prop :=
  t.lid = g.lid ∧ t.oteam = g.tid ∧ t.ogroup = g.gidx ∧ t.okey = s.cur ∧ t.owned = true ∧ t.core = coreOf s.cur ∧ t.bins = coreOf s.cur ∧
  t.table = table ∧ t.taddr = taddr ∧ t.payload = payload ∧ t.tg = tg ∧ t.held = held ∧ t.spilled = 0 ∧
  t.begun = false ∧ t.visit = none ∧ t.ret = none ∧ t.cuts = [] ∧ t.stamp = stamp ∧ t.fault = none

/-- R300: traversals that start get ids that are not 0, of 32 bits, distinct, and of no traversal that lives or that a launch
has named in its life; each launch then names its own; nothing else changes. -/
def Claims.TraversalIds : Prop :=
  ∀ (s : State) (ts : List Trav), (idsTaken s).length + ts.length < 2 ^ 32 - 1 →
    let r := startTravs s ts
    r.2.length = ts.length ∧ r.2.Nodup ∧
    r.1 = { s with travs := r.1.travs, travId := r.1.travId, launches := r.1.launches } ∧
    (∀ (j id : Nat) (t : Trav), r.2[j]? = some id → ts[j]? = some t →
      id ≠ 0 ∧ id < 2 ^ 32 ∧ Store.find s.travs id = none ∧ (∀ p ∈ s.launches, id ∉ p.2.tids) ∧
        Store.find r.1.travs id = some t) ∧
    (∀ id, id ∉ r.2 → Store.find r.1.travs id = Store.find s.travs id) ∧
    ∀ lid, Store.find r.1.launches lid = (Store.find s.launches lid).map fun l =>
      { l with tids := l.tids ++ ((ts.zip r.2).filter fun p => p.1.lid == lid).map (·.2) }

/-- R301, R303, R310: with bins and the feature, a good table or record and room in the engine, TVBEGIN starts one
traversal for each effective lane at its root, and TVRESUME one for each effective lane whose record is good, with the
record's entries; each lane receives its traversal's id, and 0 where none started, and the group, which counts the completions
in this order (R107), takes the ids after those it has.  The group's scratchpad stores are performed
when it gives traversals (log entry 29: DEDUCED), and that the two words' reads end at one moment is log entry 66 (DEDUCED). -/
def Claims.TraversalsStart : Prop :=
  ∀ (s : State) (g : Group) (m : Mods) (d a b : BitVec 8) (c : Uni) (lay : BitVec 4), Issues s g →
    let taddr := (uRead s.picks g (Uni.next c)).1 ++ (uRead s.picks g c).1
    let begins := Instr.tvbegin m d a b c lay
    let resumes := Instr.tvresume m d a
    let index := fun (ls : List Nat) (l : Nat) => (ls.takeWhile (· != l)).length
    QuotaTrap s g begins ([d.toNat, b.toNat] ++ (List.range 2).map (a.toNat + ·)) ∧
    QuotaTrap s g resumes (d.toNat :: (List.range 2).map (a.toNat + ·)) ∧
    (d.toNat < g.q → b.toNat < g.q → a.toNat + 1 < g.q →
      ((s.desc g).spawnq = 0 → ∀ i ∈ [begins, resumes], exec i s = .next (raiseL s s.cur g .quota 4)) ∧
      ((s.desc g).spawnq ≠ 0 → hasFeat s s.cur 1 = false →
        ∀ i ∈ [begins, resumes], exec i s = .next (raiseL s s.cur g .feature 1)) ∧
      ((s.desc g).spawnq ≠ 0 → hasFeat s s.cur 1 = true →
        (taddr.toNat % 64 ≠ 0 ∨ 2 ^ 57 ≤ taddr.toNat → exec begins s = .next (raiseL s s.cur g .operand 54)) ∧
        (taddr.toNat % 64 = 0 → taddr.toNat < 2 ^ 57 → g.ln.blocked s = false → g.ln.full = false →
          ∀ u h table, LaneBlockRead s g taddr.toNat u table → u.cur = s.cur → u.grp s.cur = some h →
            (tableBad table = true → exec begins s = .next (raiseL u s.cur h .operand 54)) ∧
            (tableBad table = false → travRoom u s.cur h (effLanes u h m).length = true →
              ∀ v ps, AccessesGo u h .write ((effLanes u h m).filterMap fun l =>
                (stampOf table (vRead u s.cur h b.toNat l)).map fun va => (l, va)) v ps → v.cur = s.cur →
              h.ln.full = false →
              ∃ ts : List Trav, ts.length = (effLanes u h m).length ∧
                (∀ (j l : Nat), (effLanes u h m)[j]? = some l →
                  let root := (vRead v s.cur h (a.toNat + 1) l ++ vRead v s.cur h a.toNat l).toNat
                  ∃ t, ts[j]? = some t ∧
                    FreshTrav s h table taddr.toNat (vRead v s.cur h b.toNat l) 0
                      [TEntry.make false lay.toNat root 0 0 0 0] (placeOf ps l) t ∧
                    t.ending = if root % 16 ≠ 0 ∨ t.inNodes root = false then some 4 else none) ∧
                let r := startTravs (released v s.cur) ts
                let o := { h with travq := h.travq ++ r.2 }
                exec begins s = .next (if effLanes u h m = [] then laneOn r.1 o (h.ctx.lpc + 12) m.sw
                  else laneAfter r.1 o (laneWrites h .i32 d (effMask u.picks h m) .top
                    (fun l => r.2[index (effLanes u h m) l]?.getD 0)) m.sw))) ∧
        (g.ln.blocked s = false → g.ln.full = false → travRoom s s.cur g (effLanes s g m).length = true →
          let ls : List RLane := (effLanes s g m).map fun l =>
            let va := (vRead s s.cur g (a.toNat + 1) l ++ vRead s s.cur g a.toNat l).toNat
            ⟨l, va, va % 64 == 0, 0, 0, []⟩
          ∀ u ps ls1 v qs ls2 w rs, AccessesGo s g .read
            ((ls.filter (·.ok)).flatMap fun l => pageKeys (4 * l.lane) l.va 64) u ps →
            let u1 := ps.foldl (fun s p => resolve s (p.2.1 / 128)) u
            readHeaders u1 s.cur ps ls = (ls1, none) → u1.cur = s.cur →
            AccessesGo u1 g .read ((ls1.filter (·.ok)).flatMap fun l =>
              pageKeys (4 * l.lane) (fld l.hdr 8 0 57) 64 ++
                pageKeys (4 * l.lane + 1) (l.va + 64) (16 * (bits l.hdr 0 32).toNat)) v qs →
            let v := qs.foldl (fun s p => resolve s (p.2.1 / 128)) v
            readBodies v s.cur qs ls1 = (ls2, none) → v.cur = s.cur →
            let found := ps.flatMap fun p => acqCover s.cur g (some .system) (relsRead u1 p.2.1 8 [])
            let h := { g with ln := { g.ln with
              cov := live v (g.ln.cov ++ found), acq := live v g.ln.acq ++ replPending v found } }
            let go := ls2.filter (·.ok)
            (v.setGrp s.cur h).cur = s.cur →
            AccessesGo (v.setGrp s.cur h) h .write
              (go.filterMap fun l => (stampOf l.table (bits l.hdr 128 32)).map fun va => (l.lane, va)) w rs →
            w.cur = s.cur →
            ∃ ts : List Trav, ts.length = go.length ∧
              (∀ (j : Nat) (l : RLane), go[j]? = some l → ∃ t, ts[j]? = some t ∧
                FreshTrav s h l.table (fld l.hdr 8 0 57) (bits l.hdr 128 32) (bits l.hdr 160 8) l.es.reverse
                  (placeOf rs l.lane) t ∧
                t.ending = if l.es = [] then some 0 else if 64 + t.zs < l.es.length then some 2 else none) ∧
              let r := startTravs (released w s.cur) ts
              let o := { h with travq := h.travq ++ r.2 }
              exec resumes s = .next (if effLanes s g m = [] then laneOn r.1 o (h.ctx.lpc + 12) m.sw
                else laneAfter r.1 o (laneWrites h .i32 d (effMask s.picks g m) .top
                  (fun l => if go.any (·.lane == l) then r.2[index (go.map (·.lane)) l]?.getD 0 else 0)) m.sw))))

/-- R306 to R309, R311: TVRET hands the results of the effective lanes' visits to their traversals and retires the lanes;
TVBOUND counts each live traversal's bound up once for each effective lane that names it; TVSTAT gives the payload of a
live traversal, or all ones; TVCUT gives the traversals their requests, the records 4096 bytes apart in lane order.  The
group's scratchpad stores are performed at a TVRET (log entry 29: DEDUCED). -/
def Claims.TraversalWords : Prop :=
  ∀ (s : State) (g : Group) (m : Mods) (d a b : BitVec 8) (c : Uni), Issues s g →
    let eff := effMask s.picks g m
    let lanes := effLanes s g m
    let pc := g.ctx.lpc + 12
    let named := fun (l : Nat) => (vRead s s.cur g a.toNat l).toNat
    let base := (uRead s.picks g (Uni.next c)).1 ++ (uRead s.picks g c).1
    (hasFeat s s.cur 1 = false →
      (a.toNat < g.q → exec (.tvbound m a) s = .next (raiseL s s.cur g .feature 1)) ∧
      (a.toNat < g.q → b.toNat < g.q → exec (.tvret m a b) s = .next (raiseL s s.cur g .feature 1) ∧
        exec (.tvcut m a b c) s = .next (raiseL s s.cur g .feature 1))) ∧
    (hasFeat s s.cur 1 = true →
      LaneWord s g m (.tvstat m d a) [d.toNat, a.toNat] .i32 d .top (fun l =>
        match Store.find s.travs (named l) with
        | some t => if t.lid = g.lid then t.payload.toNat else 0xFFFFFFFF
        | none => 0xFFFFFFFF) ∧
      QuotaTrap s g (.tvbound m a) [a.toNat] ∧
      (a.toNat < g.q → ∃ ts, exec (.tvbound m a) s = .next (laneOn { s with travs := ts } g pc m.sw) ∧
        ∀ id, Store.find ts id = (Store.find s.travs id).map fun t =>
          if t.lid = g.lid then { t with tg := t.tg + BitVec.ofNat 8 (lanes.filter fun l => named l == id).length } else t) ∧
      QuotaTrap s g (.tvret m a b) [a.toNat, b.toNat] ∧ QuotaTrap s g (.tvcut m a b c) [a.toNat, b.toNat] ∧
      (a.toNat < g.q → b.toNat < g.q →
        ((∃ l ∈ lanes, ∀ v ∈ g.visits, v.lane ≠ l) → exec (.tvret m a b) s = .next (raiseL s s.cur g .operand 0)) ∧
        ((∀ l ∈ lanes, ∃ v ∈ g.visits, v.lane = l) →
          let u := lanes.foldl (returnLane s.cur g a b (g.ln.covered s)) (released s s.cur)
          ∀ h, u.grp s.cur = some h → ∃ t, exec (.tvret m a b) s = .next t ∧
            t = { u with groups := t.groups } ∧ (∀ k, k ≠ s.cur → t.grp k = u.grp k) ∧
            ∃ x, t.grp s.cur = some x ∧ x.live = h.live &&& ~~~eff ∧ x.ctx.exm = h.ctx.exm &&& ~~~eff ∧
              x.ctx.lpc = h.ctx.lpc + 12 ∧ x.visits = (h.visits.filter fun v => !eff.getLsbD v.lane) ∧
              x.ctx.exited = (h.ctx.exited || (h.live &&& ~~~eff == 0 && eff != 0))) ∧
        ((base.toNat % 64 ≠ 0 ∨ 2 ^ 57 ≤ base.toNat) → exec (.tvcut m a b c) s = .next (raiseL s s.cur g .operand 54)) ∧
        (base.toNat % 64 = 0 → base.toNat < 2 ^ 57 → g.ln.blocked s = false →
          let recs := lanes.mapIdx fun j l => (j, l, base.toNat + 4096 * j)
          ∀ u ps, AccessesGo s g .write (recs.flatMap fun r => (2 * r.1, r.2.2) ::
            (if 65536 < r.2.2 % 65536 + 4096 then [(2 * r.1 + 1, r.2.2 - r.2.2 % 65536 + 65536)] else [])) u ps →
            let v := recs.foldl (fun w r => takeCut g w (cutOf w s.cur g a b ps r.2.1 r.1 r.2.2)) u
            exec (.tvcut m a b c) s = .next (v.setGrp s.cur (g.nextL m.sw))) ∧
        (∀ u (x : Nat × Cut) t, travOf u g (BitVec.ofNat 32 x.1) = some t → (takeCut g u x) =
          { u with travs := Store.adjust u.travs x.1 fun t => { t with cuts := t.cuts ++ [x.2] } })))

/-! ## Copy commands -/

/-- A running command may act: its engine is not frozen, its checks and translations are made, and the accesses it follows
have been performed (R213, R232, R256, R358). -/
def CopyMay (s : State) (id : Nat) (c : Copy) (l : Launch) (t : Team) : Prop :=
  Store.find s.copies id = some c ∧ c.state = .running ∧ engineFrozen s 2 c.core = false ∧
  s.team (teamKey c.lid c.tid) = some t ∧ s.launch c.lid = some l ∧ c.started = true ∧
  (c.stampa = 0 ∨ c.stampOk = true) ∧ (c.toBox = false ∨ c.status ≠ 0 ∨ c.empty = true ∨ c.placed = true) ∧ live s c.cov = []

/-- The word of a ring's stage takes the arrival of a command that releases one and ends well (R213, R215). -/
def ringDone (u : State) (c : Copy) (l : Launch) (t : Team) (status : Nat) : State :=
  if c.ringMade l.desc t && status != 7 then
    match c.ringStep u l.desc t with
    | some w => (ringWrite u l.desc t (stageAddr c.ring c.stage) w).updTeam (teamKey c.lid c.tid)
        fun t => addRing t (stageAddr c.ring c.stage) []
    | none => u
  else u

/-- R213, R215, R216, R218, R219, R232: a command owns its lines one by one in the order of their addresses, each ENGINE-HELD
from then on, and waits at a home that cannot serve it yet, in the order of arrival; it releases a line whose sectors are all written, which is then UNCACHED, also while it waits for others; it reads
each source sector once, at some moment before the sectors that need it are written, and writes the destination sectors that the
step names, all of them in flight until it ends; when all were written before the step, or a check has failed, it ends: its stamp is written with its status, then its ring word
arrives and its groups count it, those of a team that is out in its slot; a prefetch asks for its lines and ends.  Which sectors
a step reads and writes is the schedule's choice (log entry 34: DESIGN CHOICE). -/
def Obligations.CopyCommandsRun : Prop :=
  ∀ (s : State) (id : Nat) (c : Copy) (l : Launch) (t : Team), CopyMay s id c l t →
    let k := teamKey c.lid c.tid
    let die := dieOf c.core
    let key := fun (c : Copy) (u : State) (status : Nat) => closeCopy u id c l.desc t status
    let word := fun (status : Nat) => leBytes 8 (status * 2 ^ 32 + c.seqw)
    (∀ n rest, c.want = n :: rest → resolve s n = s → lineFree s n = true → mayServe s n id = true →
      exec (.engineLineOwnership id) s = .next
        ((if inHbm (128 * n) && !inHostBias s n then setEly s n 5 else s).setCopy id
          { c with want := rest, held := c.held ++ [n] })) ∧
    (∀ n rest, c.want = n :: rest → resolve s n = s → (lineFree s n = false ∨ mayServe s n id = false) →
      exec (.engineLineOwnership id) s = .next (askWrite (arriveAt s n id) n)) ∧
    (∀ n, n ∈ c.held → c.lineDone n = true → c.replOf n = 0 →
      exec (.engineLineRelease id n) s = .next
        ((if inHbm (128 * n) && !inHostBias s n then setEly s n 0 else s).setCopy id
          { c with held := c.held.filter (· != n) })) ∧
    (∀ prog u c', c.status = 0 → c.empty = false → c.kind ≠ 4 → c.allWritten = false →
      let s1 := (c.boxLines.map (128 * ·)).foldl (fun s va => keepTr s die l.asp va) s
      let r := (prog.drop c.n).foldl (fun r e => readAhead r.1 id die l.asp l.desc t r.2 (e % 32) (e / 32)) (s1, c)
      runSlices id die l.asp l.desc t (prog.take c.n) r.1 r.2 (List.range c.n) = (u, c', .on) →
      exec (.copyCommandComplete id prog) s = .next (u.setCopy id c')) ∧
    (∀ prog, (c.status ≠ 0 ∨ c.empty = true ∨ c.kind ≠ 4 ∧ c.allWritten = true) → c.held = [] → c.want = [] → t.state ≠ .out →
      let status := if c.status = 0 ∧ c.rel = true ∧ t.ended.length < l.desc.groups ∧ c.ringStep s l.desc t = none
        then 7 else c.status
      (c.stamp = none → exec (.copyCommandComplete id prog) s = .next (key c (dropWriter s (.cmd id)) status)) ∧
      (∀ p, c.stamp = some p →
        let w := engWrite s (.cmd id) p.pa (word status) p.repl
        (w.2 = true → exec (.copyCommandComplete id prog) s = .next (key c w.1 status)) ∧
        (w.2 = false → exec (.copyCommandComplete id prog) s = .next w.1))) ∧
    (∀ prog, c.status = 0 → c.empty = false → c.kind = 4 → c.held = [] → c.rel = false → c.want = [] → c.stamp = none →
      t.state ≠ .out →
      exec (.copyCommandComplete id prog) s = .next (key c
        (dropWriter (prefetch (keepTrs s die l.asp (c.boxLines.map (128 * ·))) c die l.asp |>.setCopy id c) (.cmd id)) 0)) ∧
    (∀ (u : State) (status : Nat), key c u status =
      let u := ringDone (c.topShadows (dropOlds u id)) c l t status
      reap (c.parts.foldl (fun s p => countCopies s p.gidx k) { u with copies := Store.del u.copies id }) k) ∧
    (∀ (u : State) (gid gidx : Nat) (g : Group), u.grp gid = some g → g.tkey = some k → g.gidx = gidx →
      let ended := g.copyq.takeWhile fun i => (Store.find u.copies i).isNone
      (countCopies u gidx k).grp gid =
        some { g with copyq := g.copyq.drop ended.length, ccopy := g.ccopy + BitVec.ofNat 16 ended.length }) ∧
    (∀ (u : State) (gidx : Nat) (t' : Team), u.team k = some t' →
      ((countCopies u gidx k).team k).map (·.groups) = some (t'.groups.map fun g =>
        let ended := g.copyq.takeWhile fun i => (Store.find u.copies i).isNone
        if g.gidx = gidx then
          { g with copyq := g.copyq.drop ended.length, ccopy := g.ccopy + BitVec.ofNat 16 ended.length } else g)) ∧
    (∀ (p : Part32), ∀ a ∈ srcNeed l.desc t c p, ∀ x ∈ c.srcs, x.num ≠ a / 32) ∧
    (∀ (a : Nat) (bs : List Byte) (u : State), c.toBox = false → readSector s id die l.asp l.desc t c a = (u, .ok bs none) →
      readSectors id die l.asp l.desc t s c [a] = (u, { c with srcs := c.srcs ++ [⟨a / 32, bs⟩] }, .on)) ∧
    (∀ (p : Part32), c.toBox = false → c.kind = 1 →
      sectorWrite s id l.desc t c [p] = (spadPut s id l.desc t (c.chip + p.row * c.rowBytes + p.off)
        ((List.range p.len).map fun i => c.srcByte (((c.rowVa p.row + p.off) % 2 ^ 57 + i) % 2 ^ 57)), .on))

/-! ## Attention commands -/

/-- It is the turn of a command that has started (or, not started, is to start): its engine is not frozen, the earlier
commands of its group have completed, and the accesses it follows have been performed (R256, R292). -/
def AttnMay (s : State) (id : Nat) (started : Bool) (c : Attn) (l : Launch) (t : Team) : Prop :=
  Store.find s.attns id = some c ∧ (c.state = .running ∨ started = false ∧ c.state = .pending) ∧ c.started = started ∧
  engineFrozen s 3 c.core = false ∧ attnTurn s id c = true ∧ live s c.cov = [] ∧
  s.team (teamKey c.lid c.tid) = some t ∧ s.launch c.lid = some l

/-- R288 to R294, R358: a command starts by its checks, codes 1 and 6 in this order, and takes its record from the cache of
its die, which holds at most 4096, or from memory; a key block reads, of each key that a row sees, the generation word, the rows
of K and V and the generation word again, and gives the tile those that are not stale; Q is read once, at the start or with the
first block; when every block is done the output is normalised, in flight until the command ends (R292); the command ends when that
is done or its status is not 0, once its counts and its stamp can be written, and its group counts it, a saved one in its slot.
Which reads a step makes and what it puts off is the schedule's choice (log entry 33: DESIGN CHOICE), and so is whether the
cache gives the record (log entry 36: DESIGN CHOICE). -/
def Obligations.AttentionCommandsRun : Prop :=
  ∀ (s : State) (id : Nat) (c : Attn) (l : Launch) (t : Team),
    let w := l.desc.width
    let rows := if w = 16 then 8 else if w = 32 then 16 else 32
    let die := dieOf c.core
    let k := teamKey c.lid c.tid
    let count := fun (g : Group) => if g.gidx == c.gidx then { g with cattn := g.cattn + 1 } else g
    let qRows := fun (u : State) => (List.range rows).map fun r => canonBytes u id l.desc t (c.q + 128 * r) 0 128
    let early := fun (u : State) (c : Attn) =>
      if (pickMask s.picks pkQ).getLsbD 0 = true ∧ c.qs = none then { c with qs := some (qRows u) } else c
    (AttnMay s id false c l t → ∀ cached, c.status = 0 → c.stampOk = true →
      let c1 := { c with state := CmdState.running }
      (c.bad rows = true → exec (.attnCommandStart id cached) s = .next (s.setAttn id { c1 with status := 1, started := true })) ∧
      (c.bad rows = false → l.desc.spq < c.q + 128 * rows →
        exec (.attnCommandStart id cached) s = .next (s.setAttn id { c1 with status := 6, started := true })) ∧
      (c.bad rows = false → c.q + 128 * rows ≤ l.desc.spq → c.nkeys ≠ 0 → c.mapPa = none →
        ∀ pa repl, engPlace (keepTr s die l.asp c.map_) die l.asp c.map_ = .ok pa repl →
          let s1 := keepTr s die l.asp c.map_
          let s2 := keepRange s1 die l.asp c.map_ 64
          let c2 := { c1 with mapPa := some ⟨pa, repl⟩, started := true }
          (∀ m, cached = true → c.reload = false → Store.find s.mapCache (mapKey die pa) = some m →
            let c2 := { c2 with acc := some (loadAcc s1 id c t w) }
            exec (.attnCommandStart id cached) s = .next (s1.setAttn id
              (early s1 (if recordBad (m.zeroExtend 512) then { c2 with status := 4 } else { c2 with map := some m })))) ∧
          (∀ bs, cached = false → engLoad s2 die l.asp c.map_ 64 = .ok bs none →
            let c2 := { c2 with acc := some (loadAcc s2 id c t w) }
            let r : BitVec 512 := ofBytes 512 bs
            exec (.attnCommandStart id cached) s = .next ((cacheMap s2 die pa (r.extractLsb' 0 256)).setAttn id
              (early s2 (if recordBad r then { c2 with status := 4 } else { c2 with map := some (r.extractLsb' 0 256) })))))) ∧
    (∀ (u : State) (pa : Nat) (m : BitVec 256), Store.sorted u.mapCache = true → pa < 2 ^ 52 →
      let held := fun (u : State) => (u.mapCache.filter fun e => e.1 / 2 ^ 52 == die).length
      Store.find (cacheMap u die pa m).mapCache (mapKey die pa) = some m ∧
      (held u ≤ 4096 → held (cacheMap u die pa m) ≤ 4096)) ∧
    (∀ (rec : BitVec 256) (s1 s2 : State) (c0 c1 c2 : Attn) (j : Nat) vis g1 kb vb g2 keys st lk later,
      c0.rowsSee s die l.asp rows j = (s1, c1, .got vis) → (vis.any fun b => b) = true →
      let p := c0.p0.toNat + j
      let sink := (rec.extractLsb' 192 32).toNat
      let win := (rec.extractLsb' 224 32).toNat
      let slot := if p < sink then p else sink + p % win
      let gen := if p < sink then 0 else p / win
      c1.readSlot s1 die l.asp rec j slot = (s2, c2, .got (g1, kb, vb, g2)) →
      readKey die l.asp rows rec (s, c0, .ok keys st lk later) j = (s2, c2,
        if leNat g1 ≠ gen ∨ leNat g2 ≠ leNat g1 ∨ leNat g1 = 0xFFFFFFFF then .ok keys (st + 1) (lk + 1) later
        else .ok (keys ++ [(j, vis, kb, vb)]) st (lk + 1) later)) ∧
    (∀ (rec : BitVec 256) (c0 c1 : Attn) (j slot : Nat) (s1 : State) (x : Option ERead),
      c0.take s die l.asp rdGen1 j ((rec.extractLsb' 128 57).toNat + 4 * slot) 4 = (s1, c1, x) →
      (x = none → c0.readSlot s die l.asp rec j slot = (s1, c1, .later)) ∧
      (∀ line, x = some (.blocked line) → c0.readSlot s die l.asp rec j slot = (s1, c1, .stop (.blocked line)))) ∧
    (AttnMay s id true c l t → ∀ rec a, c.map = some rec → c.acc = some a → c.status = 0 → 16 * c.next < c.nkeys →
      let js := (List.range (min 16 (c.nkeys - 16 * c.next))).map (16 * c.next + ·)
      ∀ s1 c' keys st lk,
        (js.foldl (readKey die l.asp rows rec) (s, c, .ok [] 0 0 false) = (s1, c', .ok keys st lk true) →
          exec (.attnKeyBlock id) s = .next (s1.setAttn id (early s1 c'))) ∧
        (js.foldl (readKey die l.asp rows rec) (s, c, .ok [] 0 0 false) = (s1, c', .ok keys st lk false) →
          let v := fenv c.mode .mode
          let qs := c'.qs.getD (qRows s1)
          let b := attnBlock c v js (qs.map (c.elts v)) keys a
          exec (.attnKeyBlock id) s = .next ((writeTiles s1 id c t w b).setAttn id
            { c' with qs := some qs, got := [], next := c.next + 1, stale := c.stale + st, looks := c.looks + lk, acc := some b }))) ∧
    (AttnMay s id true c l t → (c.status ≠ 0 ∨ c.nkeys ≤ 16 * c.next) →
      (c.status = 0 → c.fin = true → c.fined = false →
        exec (.attnCommandComplete id) s = .next ((match c.acc with
          | none => s
          | some a =>
            let f := finish c (fenv c.mode .mode) a
            addStats (writeOut s id c t w f.1) c.lid c.tensor f.2).setAttn id { c with fined := true })) ∧
      (c.status ≠ 0 ∨ c.fin = false ∨ c.fined = true → t.state ≠ .out →
        let counts : List Place := c.mapPa.toList.map fun p => ⟨p.pa + 0x20, p.repl⟩
        let stats := fun (u : State) => match c.acc with
          | none => u
          | some a =>
            let n := fun (i : Nat) => a.st[i]?.getD 0
            let u := addStats u c.lid c.tensor ⟨n 3, n 4, n 5⟩
            if c.fined then u else addStats u c.lid c.tensor ⟨n 0, n 1, n 2⟩
        let add := fun (u : State) (p : Place) => engPut u p (leBytes 8 (leNat ((heldBytes u p.pa 16).take 8) + c.stale) ++
          leBytes 8 (leNat ((heldBytes u p.pa 16).drop 8) + c.looks))
        let mark := fun (u : State) (p : Place) =>
          engPut u p (leBytes 8 (min c.stale 0xFFFFFF * 2 ^ 40 + c.status * 2 ^ 32 + c.seqw))
        ∀ u,
          (engAll (.cmd id) s (counts ++ c.stamp.toList) = (u, false) →
            exec (.attnCommandComplete id) s = .next u) ∧
          (engAll (.cmd id) s (counts ++ c.stamp.toList) = (u, true) →
            exec (.attnCommandComplete id) s = .next (closeAttn
              (c.stamp.toList.foldl mark (counts.foldl add (stats (dropWriter u (.cmd id))))) id c)))) ∧
    (∀ (u : State), closeAttn u id c =
      reap (mapTeamGroups (dropOlds { u with attns := Store.del u.attns id } id) k count) k) ∧
    (∀ (u : State) gid g, u.grp gid = some g → g.tkey = some k → g.gidx = c.gidx →
      (mapTeamGroups u k count).grp gid = some { g with cattn := g.cattn + 1 }) ∧
    (∀ (u : State) (t' : Team), u.team k = some t' →
      ((mapTeamGroups u k count).team k).map (·.groups) = some (t'.groups.map count))

/-! ## Traversal events -/

/-- The engine may act for a live traversal: it is not frozen, the traversal is not suspended or ending, its launch is not
pre-empted, and the accesses it follows have been performed (R256, R312, R326, R345). -/
def TravMay (s : State) (id : Nat) (t : Trav) : Prop :=
  Store.find s.travs id = some t ∧ travMay s t = true ∧ live s t.cov = []

/-- Every address that a traversal keeps is translated (R358). -/
def TravPlaced (t : Trav) : Prop := t.stampOk = true ∧ ∀ c ∈ t.cuts, c.pa ≠ []

/-- R304, R306: what the return of an ENTER with results r and u does, when e is the entry entered and x the node's layout,
none if it is empty.  The children that r selects are pushed with the bound, the index, the depth and u, in the order that the
table gives, and e is popped or stays as entered; a node or a child out of its bounds ends the traversal with status 4, as does
a child below depth 255, and a stack that would pass 64 + zs entries with status 2.  Here nothing is spilled. -/
def EnterReturns (s : State) (id : Nat) (t : Trav) (v : TVisit) (r u : W32) (e : TEntry) (rest : List TEntry) : Prop :=
  let ends := fun (status : Nat) => exec (.traversalStep id) s = .next (endTrav s id t status)
  (v.lay = none → ends 4) ∧
  ∀ lay, v.lay = some lay →
    let x : Lay := lay
    let field := fun (o n : Nat) => leNat ((v.node.drop o).take n)
    let cnt := if x.lfon = true ∧ (v.node[x.loff]?.getD 0).getLsbD x.lbit = true then 0
      else if x.cnton then field x.coff x.cbytes else x.arity
    let ptr := fun (i : Nat) => field (x.poff + i * x.pstride) x.pbytes
    let child := fun (i : Nat) =>
      if x.rel then (e.node : Int) + (if ptr i < 2 ^ (8 * x.pbytes - 1) then (ptr i : Int) else ptr i - 2 ^ (8 * x.pbytes))
      else if x.pbytes = 8 then (ptr i : Int) else t.nbase + ptr i
    let beyond := 32 < cnt ∨ ∃ i, i < cnt ∧ x.nsize < x.poff + i * x.pstride + x.pbytes
    let sel := (List.range cnt).filter fun i => r.getLsbD i && ptr i != 0
    let astray := ∃ i ∈ sel, child i % 16 ≠ 0 ∨ child i < t.nbase ∨ t.nbase + 0xFFFFFFF0 < child i
    let base := if t.leave = 0 then rest else ⟨e.w0 ||| 0x8000000000000000, e.w1⟩ :: rest
    let pushed := (if t.ord then sel.reverse else sel).map fun i =>
      TEntry.make false x.clayout (child i).toNat t.tg i (e.depth.toNat + 1) u
    (beyond ∨ astray → ends 4) ∧
    (¬ (beyond ∨ astray) →
      (sel ≠ [] → e.depth = 255 → ends 4) ∧
      (sel = [] ∨ e.depth ≠ 255 →
        (base.length + sel.length ≤ 64 → t.spilled + base.length + sel.length ≤ 64 + t.zs →
          exec (.traversalStep id) s = .next (s.setTrav id { t with
            held := pushed.reverse ++ base, visit := none, ret := none, waiting := false })) ∧
        (t.zs = 0 → t.spilled = 0 → rest.length < 64 → 64 < base.length + sel.length → ends 2)))

/-- R304 to R306, R308, R312: with no visit outstanding a step takes the top entry: a LEAVE of an entered one, which is
popped; a PRUNE where the entry's bound is old; else an ENTER, whose node is read.  An empty stack ends the traversal.  The
return of an ENTER pushes the children that it selects; a PRUNE that is kept takes the present bound and the user word, and one
that is not pops its entry.  The oldest cut that has not arrived arrives: while a visit runs it is only marked, and it is
applied between steps (log entry 38: DEDUCED).  A group counts the completed traversals in the order in which it started them
(R107). -/
def Obligations.TraversalsStep : Prop :=
  ∀ (s : State) (id : Nat) (t : Trav), TravMay s id t →
    (t.visit = none → (∀ c ∈ t.cuts, c.arrived = false) → t.begun = false → TravPlaced t → t.held.length ≤ 64 →
      (t.held = [] → t.spilled = 0 → t.stamp = none → t.cuts = [] → savedOwner s t = none →
        let u := countTrav { dropWriter s (.trav id) with travs := Store.del s.travs id } t
        exec (.traversalStep id) s = .next (match t.oteam with | some tid => reap u (teamKey t.lid tid) | none => u)) ∧
      (∀ e rest, t.held = e :: rest → (t.spilled = 0 ∨ t.held.length = 64) →
        (e.ent = true → exec (.traversalStep id) s = .next (placeVisit s id { t with held := rest } ⟨1, e, none, []⟩)) ∧
        (e.ent = false → t.prune ≠ 0 → e.pgen ≠ t.tg →
          exec (.traversalStep id) s = .next (placeVisit s id t ⟨2, e, none, []⟩)) ∧
        (e.ent = false → (t.prune = 0 ∨ e.pgen = t.tg) → ∀ l, s.launch t.lid = some l →
          (Store.find l.layouts e.layout = none →
            exec (.traversalStep id) s = .next (placeVisit s id t ⟨0, e, none, []⟩)) ∧
          (∀ x bs, Store.find l.layouts e.layout = some x →
            let s1 := keepRange s (dieOf t.core) l.asp e.node (Lay.nsize x)
            engLoad s1 (dieOf t.core) l.asp e.node (Lay.nsize x) = .ok bs none →
            exec (.traversalStep id) s = .next (placeVisit s1 id { t with begun := true } ⟨0, e, some x, bs⟩))))) ∧
    (∀ (u : State) gid g tid, t.owned = true → t.oteam = some tid → u.grp gid = some g →
      g.tkey = some (teamKey t.lid tid) → g.gidx = t.ogroup →
      let ended := g.travq.takeWhile fun i => (Store.find u.travs i).isNone
      (countTrav u t).grp gid =
        some { g with travq := g.travq.drop ended.length, ctrav := g.ctrav + BitVec.ofNat 16 ended.length }) ∧
    (∀ v r u e rest, t.visit = some v → t.ret = some (r, u) → v.kind = 0 → v.e = e → t.held = e :: rest → TravPlaced t →
      EnterReturns s id t v r u e rest) ∧
    (∀ v r u e rest, t.visit = some v → t.ret = some (r, u) → v.kind = 2 → t.held = e :: rest → TravPlaced t →
      exec (.traversalStep id) s = .next (s.setTrav id { t with
        held := if r.getLsbD 0 then TEntry.make e.ent e.layout e.node t.tg e.cursor.toNat e.depth.toNat u :: rest else rest,
        visit := none, ret := none, waiting := false })) ∧
    (∀ c rest, t.cuts = c :: rest →
      (t.visit ≠ none ∨ t.begun = true → c.arrived = false → exec (.cutApply id) s = .next (s.setTrav id { t with
        cuts := { c with arrived := true } :: rest })) ∧
      (t.visit = none → t.begun = false → TravPlaced t → t.held.length ≤ 64 → (t.spilled = 0 ∨ t.held.length = 64) →
        exec (.cutApply id) s = .next (applyCut s id t c))) ∧
    (∀ (e : TEntry) (v : TVisit), v.e = e → (t.thread id v).words =
      [BitVec.ofInt 32 ((e.node : Int) - t.nbase), BitVec.ofNat 32 id,
       BitVec.ofNat 32 (v.kind % 4 * 2 ^ 30 + e.depth.toNat * 2 ^ 16 + e.layout % 16 * 2 ^ 8 + e.cursor.toNat), e.user])

/-! ## Graphs and the counter -/

/-- A code as a node holds it, with detail 0 (R267). -/
def codeWord (code : Nat) : Nat × List Byte := (4, leBytes 4 (code * 2 ^ 24))

/-- A node's line takes what a writer writes there, each from its offset on: the state after that (R222, R272, R358). -/
def NodeTakes (s : State) (w : Writer) (gr : Graph) (n : Nat) (ws : List (Nat × List Byte)) (u : State) : Prop :=
  ∃ v p, nodePlace s gr n = .at v p ∧ engWrites v w (ws.map fun x => (⟨p.pa + x.1, p.repl⟩, x.2)) = (u, true)

/-- A command that reaches the mailbox in phase 3 while no background command runs and no DEBUG or RESYNC is under way (R341,
R352, R359). -/
def MailboxFree (s : State) : Prop := s.plat.phase = 3 ∧ s.mbox.bg = none ∧ s.mbox.held = false

/-- A command has returned Success, or another code, with its payload. -/
def returned (s : State) (c : RetCode) (bs : List Byte) : State := { s with mbox := { s.mbox with code := c, payload := bs } }

/-- R10, R24, R266, R268, R270, R272 to R274, R280: a graph becomes live with its root to activate; a node whose fields are
out of range fails with the offset; a COND, a WHILE and a JOIN are done as R270 says, an END ends its graph, and a TASK that is
active already fails, or else gets code 1 and is dispatched; a watched node that is written is read again, after what its graph has
to do already; an ended launch is
removed with its node done and its successors to follow; a graph with nothing left ends.  That the walker takes one operation of
each graph when the counter ticks, and one at once when it gets work, is the model's choice (log entry 23: DEDUCED), and so is
that the counter stands still in phases 0 and 4 (log entry 72: DEDUCED).  Which offset a bad field of a node reports is log
entries 100 and 101 (DESIGN CHOICE), and that the code and detail are not among the fields is log entry 102 (DEDUCED). -/
def Obligations.GraphsRun : Prop :=
  ∀ (s : State) (id n die asp root prio lid : Nat) (gr : Graph) (l : Launch),
    (s.plat.phase ≠ 0 → s.plat.phase ≠ 4 →
      exec .gtcTick s = .next ((s.graphs.map (·.1)).foldl walkOne { s with gtc := s.gtc + 1 })) ∧
    ((s.plat.phase = 0 ∨ s.plat.phase = 4) → exec .gtcTick s = .next s) ∧
    (MailboxFree s → die < 8 → prio < 4 → root % 128 = 0 → root < 2 ^ 57 → Store.find s.aspaces asp ≠ none →
      (s.graphs.filter fun g => g.2.die == die).length < 1024 →
      let g : Graph := ⟨die, asp, root, prio, .running, 0, 0, [], [(0, root)], [], []⟩
      exec (.graphPost die asp root prio) s = .next (returned
        (walkOne { s with graphs := Store.put s.graphs s.nextId g, nextId := s.nextId + 1 } s.nextId) .success [])) ∧
    (MailboxFree s → (8 ≤ die ∨ 4 ≤ prio ∨ root % 128 ≠ 0 ∨ 2 ^ 57 ≤ root ∨ Store.find s.aspaces asp = none) →
      exec (.graphPost die asp root prio) s = .next (returned s .invalidInput [])) ∧
    (MailboxFree s → (s.graphs.filter fun g => g.2.die == die && g.2.root == root) = [(id, gr)] →
      (gr.state = .halted ∨ gr.state = .running ∧ gr.todo = [] ∧ (∀ x ∈ s.launches, x.2.graph ≠ id) →
        exec (.graphRelease die root) s = .next (returned (dropWriter { s with graphs := Store.del s.graphs id } (.graph id)) .success [])) ∧
      (gr.state = .ending ∨ gr.state = .running ∧ gr.todo ≠ [] →
        exec (.graphRelease die root) s = .next (returned s .busy []))) ∧
    (s.graph id = some gr → gr.state = .running → n ∈ gr.watched →
      exec (.openTailWake id n) s = .next (walkOne
        (s.updGraph id fun g => { g with watched := g.watched.erase n, todo := g.todo ++ [(2, n)] }) id)) ∧
    (s.graph id = some gr → (∀ x ∈ s.launches, x.2.graph ≠ id) →
      (gr.state = .running → gr.todo = [] → gr.watched = [] →
        exec (.graphEnd id) s = .next { s with graphs := Store.del s.graphs id }) ∧
      (∀ u, gr.state = .ending → NodeTakes s (.graph id) gr gr.endNode [codeWord 3] u →
        exec (.graphEnd id) s = .next { u with graphs := Store.del u.graphs id })) ∧
    (s.launch lid = some l → launchOver s lid l = true → live s l.rel = [] →
      let dropped := fun (u : State) => { u with launches := Store.del u.launches lid }
      (∀ u, graphOf s l = gr → l.desc.stats = 0 → NodeTakes s (.launch lid) gr l.node [codeWord 3] u →
        exec (.launchEnd lid) s = .next (if gr.state = .running then
          walkOne ((dropped u).updGraph l.graph fun g => { g with todo := g.todo ++ [(1, l.node)] }) l.graph
          else dropped u))) ∧
    (s.graph id = some gr → gr.state = .running → live s gr.cov = [] → ∀ rest bs u, gr.todo = (0, n) :: rest →
      (∀ k, walkerRead s id gr n n 128 k = k u bs) →
      let x : NodeBits := ofBytes 1024 bs
      (∀ off, NodeBits.firstBad x = some off → walkOne s id = failNode u id gr n 0x81 off 0) ∧
      (NodeBits.firstBad x = none → x.kind = 1 → (x.code = 1 ∨ x.code = 2) → walkOne s id = failNode u id gr n 0x87 0 0) ∧
      (∀ v, NodeBits.firstBad x = none → x.kind = 1 → x.code ≠ 1 → x.code ≠ 2 → NodeTakes u (.graph id) gr n [codeWord 1] v →
        walkOne s id = dispatchOn ((didOp v id [(3, n)]).updGraph id fun g => { g with dparts := [(32, bs)] }) id n) ∧
      (NodeBits.firstBad x = none → x.kind = 5 → walkOne s id =
        u.updGraph id fun g => { g with state := .ending, endNode := n, todo := [], watched := [] }) ∧
      (∀ v, NodeBits.firstBad x = none → x.kind = 4 →
        NodeTakes u (.graph id) gr n (if x.have_ + 1 = x.need then [(0x1C, [0, 0]), codeWord 3]
          else [(0x1C, leBytes 2 (x.have_ + 1)), codeWord 1]) v →
        walkOne s id = didOp v id (if x.have_ + 1 = x.need then [(1, n)] else [])) ∧
      (∀ v w ws, NodeBits.firstBad x = none → (x.kind = 2 ∨ x.kind = 3) →
        (∀ k, walkerRead u id gr n x.addr 4 k = k v ws) → NodeTakes v (.graph id) gr n [codeWord 3] w → walkOne s id =
          let next := if leNat ws = 0 then x.next1 else x.next0
          didOp w id (if next = 0 then [] else [(0, next)])))

/-! ## The memory side -/

/-- A waiting write of its home may be performed now (R222, R228, R232, R247, R248): it is its turn, its line is not held
by a copy command, nothing that arrived before it waits there, its owner is not lost, no agent holds the line against it, and the line's last lease has expired. -/
def WriteMay (s : State) (id : Nat) (r : Req) : Prop :=
  Store.find s.reqs id = some r ∧ r.repl = 0 ∧ reqTurn s id r = true ∧ engineHeld s r.line = false ∧
  mayServe s r.line id = true ∧ resolve s r.line = s ∧ homeWritable s r.line = true ∧ leaseOver s r.line = true

/-- R222, R228, R237, R247: a store that its home performs at a line of HBM in device bias leaves its bytes in memory and
every other byte as it was; a line that was SHARED is UNCACHED; the request is gone.  A sector that it covers whole has
its right check value. -/
def Obligations.StoresArePerformed : Prop :=
  ∀ (s : State) (id pa : Nat) (bs : List Byte) (r : Req), WriteMay s id r → r.kind = .store pa bs → pa / 128 = r.line →
    inHbm (128 * r.line) = true → (lineState s r.line = .uncached ∨ lineState s r.line = .shared) → Memory.wf s.mem →
    Store.wf 0 s.ely = true →
    ∃ t, exec (.homeWritePerform id) s = .next t ∧ t.reqs = Store.del s.reqs id ∧
      (∀ a, memByte t a = if pa ≤ a ∧ a < pa + bs.length then (bs[a - pa]?).getD 0 else memByte s a) ∧
      SameMemBut s t pa bs.length ∧
      (lineState s r.line = .shared → lineState t r.line = .uncached) ∧
      (∀ k, Store.wf 0 s.chk = true → pa ≤ 32 * k → 32 * k + 32 ≤ pa + bs.length → chkBad t k = false)

/-- R162: what the eight atomics leave in their element, x being its value and c the lane's operand. -/
def atomResult (op : AtomOp) (signed : Bool) (size x c new : Nat) : Nat :=
  let v := fun (n : Nat) => if signed then (BitVec.ofNat (8 * size) n).toInt else (n : Int)
  match op with
  | .add => (x + c) % 2 ^ (8 * size)
  | .min => if v x ≤ v c then x else c
  | .max => if v x ≤ v c then c else x
  | .and => x &&& c
  | .or => x ||| c
  | .xor => x ^^^ c
  | .xchg => c
  | .cas => if x = c then new else x

/-- R162, R221, R222, R228, R234, R240, R241, R243: an atomic that its home performs writes the operation's result and
gives the element's old value to the result that waits for it, or nothing where its sector mismatches; a fill waits
at the home in the order of arrival and is granted the lease gtc + λ; a copy whose lease is over ends; a line leaves its slice only after its leases, OWNED becoming MODIFIED;
a commit locks its replicas one after another and then writes them all; a walk keeps its translation; refresh management
changes nothing.  An atomic that is an acquire takes what the releases it returned cover (R251, R252).  When a lease ends and
which home serves next are the schedule's choices; what requests record of order is the model's (log entry 21: DEDUCED), and so is the
address that the message of a host line's eviction carries (log entry 52: DESIGN CHOICE). -/
def Claims.HomesAct : Prop :=
  ∀ (s : State) (id line core die asp va stack row : Nat) (r : Req),
    (∀ op sg pa size data new pend lane, WriteMay s id r → r.kind = .atomic op sg pa size data new pend lane →
      (∀ bs, homeReadNow s pa size = some (bs, false) →
        exec (.homeWritePerform id) s = .next (atomReport
          (afterWrite (homeWrite s pa (leBytes size (atomResult op sg size (leNat bs) data new))) id r)
          r.src pend id lane (some (leNat bs)) (relsRead s pa size []))) ∧
      (∀ bs, homeReadNow s pa size = some (bs, true) →
        exec (.homeWritePerform id) s = .next
          (atomReport { s with reqs := Store.del s.reqs id } r.src pend id lane none []))) ∧
    (∀ (u : State) gid g p x lane (rs : List Rel), u.grp gid = some g → p ∈ g.ln.out →
      ∃ h, (atomReport u (some (gid, true)) p.id id lane (some x) rs).grp gid = some h ∧
        ({ p with waiting := p.waiting.filter (· != id), unsampled := p.unsampled &&& ~~~laneBit lane } : Pending).setElt lane x
          ∈ h.ln.out ∧
        ∀ sc, (g.ln.out.find? fun q => q.id == p.id).bind (·.acq) = some sc → ∀ e ∈ rs, e.meets sc gid g = true →
          ∀ j ∈ e.cover, pendingId u j = true → j ∈ h.ln.cov) ∧
    (core < 384 → s.plat.phase = 3 → hasL1 s core line = false →
      let u := resolve s line
      let w := Writer.id (.fill core)
      (homeLineNow u line ≠ none → mayServe u line w = true → hasL1 u core line = false →
        exec (.l1Fill core line) s = .next { leaveLine u line w with
          expiry := Store.putD 0 u.expiry line (max (u.gtc.toNat + u.lam) (Store.getD 0 u.expiry line)),
          l1 := (u.l1.filter fun c => !(c.core == core && c.line == line)) ++ [⟨core, line, u.gtc.toNat + u.lam⟩] }) ∧
      ((homeLineNow u line = none ∨ mayServe u line w = false) →
        exec (.l1Fill core line) s = .next (arriveAt (askRead u line) line w))) ∧
    exec (.leaseExpiry core line) s = .next { s with
      l1 := s.l1.filter fun c => !(c.core == core && c.line == line && decide (c.expiry ≤ s.gtc.toNat + 1)) } ∧
    (∀ d, leaseOver s line = true → engineHeld s line = false → Store.find s.slices line = some d →
      let out := { s with slices := Store.del s.slices line }
      (inHbm (128 * line) = true → lineState s line = .owned →
        exec (.sliceEviction line) s = .next (setEly out line (mkEly (elyInc (elyRaw s line)) (elyAgents (elyRaw s line)) 4))) ∧
      (paKind s (128 * line) = .host →
        exec (.sliceEviction line) s = .next (out.emit (.evict 0 (128 * line - 0x8000000000000) (if d.dirty then some d.data else none))))) ∧
    (leaseOver s line = false → exec (.sliceEviction line) s = .next s) ∧
    (∀ rl, Store.find s.reqs id = some r → rl = r.line % 0x40000000 + die * 0x40000000 → reqTurn s id r = true →
      (List.range 8).find? (fun d => r.repl.getLsbD d && !r.locked.contains d) = some die →
      let u := arriveAt s r.line id
      engineHeld u r.line = false → mayServe u r.line id = true →
      engineHeld u rl = false → mayServe u rl id = true → resolve u rl = u → homeWritable u rl = true → leaseOver u rl = true →
      exec (.replicaLock id die) s = .next { setEly (arriveAt u rl id) rl (mkEly 0 0 7) with
        reqs := Store.put s.reqs id { r with locked := r.locked ++ [die] } }) ∧
    (Store.find s.reqs id = some r → r.repl ≠ 0 → (∀ d, d < 8 → r.repl.getLsbD d = true → r.locked.contains d = true) →
      (∀ l ∈ replicaLines r.line r.repl, inWindow s l = false) →
      exec (.replicaUpdate id) s = .next (commitReplicas
        (performAt ((replicaLines r.line r.repl).foldl (fun s l => setEly s l 0) s) id r) r.line r.repl)) ∧
    (∀ e, va < 2 ^ 57 → (s.tlb.any fun e => e.die == die && e.asp == asp && e.vpn == va / 65536) = false →
      s.plat.phase = 3 → resolveWalk s asp va = s → ∀ pa root, Store.find s.aspaces asp = some root → walk s die asp va 4 root = .ok pa e →
        exec (.tableWalk die asp va) s = .next { s with tlb := s.tlb ++ [e] }) ∧
    exec (.refreshManagement stack row) s = .next s

/-- R229: a line whose owner is down, or has another incarnation, counts as not held: EXCLUSIVE and MODIFIED become
UNCACHED, MODIFIED with an entry in the loss log, and OWNED takes the slice's data.  In a retraining window of its channel
nothing is read of a line, and nothing changes (R355). -/
def Claims.LostOwnersGiveWay : Prop :=
  ∀ (s : State) (line : Nat), (inHbm (128 * line) = true → inWindow s line = true → resolve s line = s) ∧
   (onFailedChannel s line = false → inHostBias s line = false → inWindow s line = false →
    pickMask s.picks (pkMedia line) = 0 →
    let e := elyRaw s line
    let b := elyOwner e
    ((agent s b).down = true ∨ (agent s b).inc ≠ elyInc e) → Store.wf 0 s.ely = true →
    (lineState s line = .exclusive → lineState (resolve s line) line = .uncached ∧ (resolve s line).mem = s.mem) ∧
    (lineState s line = .modified → lineState (resolve s line) line = .uncached ∧
      (s.loss.size = 0 → resolve s line = { setEly s line 0 with loss := { s.loss with lost := s.loss.lost + 1 } }) ∧
      (s.loss.size ≠ 0 → (resolve s line).loss.next = s.loss.next + 1)) ∧
    (lineState s line = .owned → lineState (resolve s line) line = .uncached ∧
      ∀ d, Store.find s.slices line = some d →
        resolve s line = setEly { writeMem s (128 * line) (bytesOf d.data) with slices := Store.del s.slices line } line 0))

/-! ## External agents -/

/-- An external agent's request at its home meets nothing that stops it: the agent is not frozen, no region denies it, and
no earlier request, command, window or flip holds the line, and nothing waits at it (R222, R232, R337, R345, R355). -/
def AgentMay (s : State) (a line : Nat) : Prop :=
  agentFrozen s a = false ∧ denied s a (128 * line) = false ∧ s.reqs = [] ∧ s.waits = [] ∧ engineHeld s line = false ∧
  inWindow s line = false ∧ inFlip s line = false ∧ resolve s line = s ∧ inHostBias s line = false ∧
  replicatedLine s line = false ∧ Store.sorted s.reqs = true

/-- The state in which a request about a line has arrived at its home and is answered, or waits: the counter of ids is one on,
and its arrival is noted. -/
def asked (s : State) (line : Nat) : State := { s with nextId := s.nextId + 1, waits := [(line, s.nextId)] }

/-- A read of the line finds its data, every sector sound. -/
def SoundLine (s : State) (line : Nat) : Prop := ∀ k, k < 4 → chkBad s (4 * line + k) = false

/-- R227, R228, R337: how a home answers a read that grants a shared copy, a request for ownership, and a read that grants
nothing, of agent a, whatever the line's state. -/
def ServesAgent (s : State) (a line : Nat) (read own : Option Instr) : Prop :=
  let u := asked s line
  let d : LineData := ofBytes 1024 (memBytes s (128 * line) 128)
  let all := elyAgents (elyRaw s line)
  let up := (List.range 8).filter fun b => all.getLsbD b && !(agent s b).down
  let rest := up.filter (· != a)
  let owner := elyOwner (elyRaw s line)
  let waits := fun (what : ExtWhat) (v : State) => { v with
    reqs := Store.put v.reqs s.nextId ⟨line, none, none, .ext a what, [], [], [], none, 0, []⟩ }
  (∀ i, read = some i →
    ((lineState s line = .uncached ∨ lineState s line = .shared) → SoundLine s line →
      exec i s = .next ((setEly u line (mkEly 0 (all ||| BitVec.ofNat 8 (2 ^ a)) 1)).emit (.reply a line d false))) ∧
    ((lineState s line = .exclusive ∨ lineState s line = .owned ∨ lineState s line = .modified) →
      exec i s = .next (snoop (waits .read u) line owner false false (.recall owner line false)))) ∧
  (∀ i, own = some i →
    (lineState s line = .uncached ∨ lineState s line = .shared ∧ rest = [] → SoundLine s line → leaseOver s line = true →
      exec i s = .next ((setEly u line (mkEly (agent s a).inc (BitVec.ofNat 8 (2 ^ a)) 2)).emit (.reply a line d false))) ∧
    (lineState s line = .shared → rest ≠ [] →
      exec i s = .next (rest.foldl (fun v b => snoop v line b true false (.recall b line true)) (waits .own u))) ∧
    ((lineState s line = .exclusive ∨ lineState s line = .owned ∨ lineState s line = .modified) →
      exec i s = .next (snoop (waits .own u) line owner true false (.recall owner line true))))

/-- R228, R237, R349: a peer whose link is up reads a line shared, or takes it for itself, as ServesAgent says; its notice
makes its EXCLUSIVE line MODIFIED; its writeback or clean eviction makes its line UNCACHED, the data written; of any other
agent they change nothing. In a retraining window of its channel a notice, a writeback or an eviction waits, and nothing changes
(R355).  Which channel holds a line is log entry 15 (DESIGN CHOICE); that a frozen or denied peer gets a poisoned reply to each
of its five messages is log entry 54 (DEDUCED), and that an owner which requests its own line is snooped like any owner is log
entry 52 (DEDUCED); of several links to a frozen peer its entry names the lowest (log entry 93: DESIGN CHOICE). -/
def Claims.PeersAreServed : Prop :=
  ∀ (s : State) (a line : Nat) (d : LineData), a ≠ 0 → a < 8 → linkUp s a = true → inHbm (128 * line) = true →
   (inWindow s line = true → ∀ i ∈ [Instr.dirtyNotice a line, .writeback a line d, .cleanEviction a line], exec i s = .next s) ∧
   (inWindow s line = false →
    (AgentMay s a line → ServesAgent s a line (some (.readShared a line)) (some (.readOwn a line))) ∧
    (agentFrozen s a = true → ∀ i ∈ [Instr.readShared a line, .readOwn a line, .dirtyNotice a line, .writeback a line d,
      .cleanEviction a line], exec i s = .next (s.emit (.reply a line 0 true))) ∧
    (agentFrozen s a = false → denied s a (128 * line) = true →
      ∀ i ∈ [Instr.readShared a line, .readOwn a line, .dirtyNotice a line, .writeback a line d, .cleanEviction a line],
        exec i s = .next ((freezeAgent s a 1 (128 * line)).emit (.reply a line 0 true))) ∧
    (agentFrozen s a = false → denied s a (128 * line) = false →
      let e := elyRaw s line
      let holds := ownerIs s line a
      let shares := lineState s line = .shared ∧ (elyAgents e).getLsbD a = true
      (holds = true → lineState s line = .exclusive → exec (.dirtyNotice a line) s =
        .next ((setEly s line (mkEly (agent s a).inc (BitVec.ofNat 8 (2 ^ a)) 4)).emit (.ack a line))) ∧
      (holds = false → exec (.dirtyNotice a line) s = .next (s.emit (.ack a line))) ∧
      (holds = true → exec (.writeback a line d) s = .next ((setEly
        { writeMem s (128 * line) (bytesOf d) with slices := Store.del s.slices line } line 0).emit (.ack a line))) ∧
      (holds = true → Store.find s.slices line = none → exec (.cleanEviction a line) s =
        .next ((setEly { s with slices := Store.del s.slices line } line 0).emit (.ack a line))) ∧
      (shares → ∀ i ∈ [Instr.writeback a line d, .cleanEviction a line],
        exec i s = .next ((unshare s line a).emit (.ack a line))) ∧
      (holds = false → ¬ shares → ∀ i ∈ [Instr.writeback a line d, .cleanEviction a line],
        exec i s = .next (s.emit (.ack a line)))))

/-- R228, R338, R349, R351: an answer ends the snoop or request it answers.  Of a line of this package, it gives up the
copy that was asked for, or leaves it shared; a line of the peer's own memory comes into the slice.  A peer's recall takes
the slice's copy, or leaves it clean, once the line's leases are over; the answer names the line by its address in the peer's
package.  Which snoop an answer ends, the oldest, is the model's choice (log entry 52: DESIGN CHOICE). -/
def Claims.PeersAnswer : Prop :=
  ∀ (s : State) (a line : Nat) (d : LineData), a ≠ 0 → a < 8 → linkUp s a = true →
    (∀ x, snoopOf s line a = some x → paKind s (128 * line) = .peer a →
      let u := { s with snoops := s.snoops.erase x }
      exec (.data a line d) s = .next { u with slices := Store.put s.slices line ⟨d, x.inv, false⟩ } ∧
      exec (.dataDirty a line d) s = .next { u with slices := Store.put s.slices line ⟨d, x.inv, x.inv⟩ }) ∧
    (∀ x, snoopOf s line a = some x → inHbm (128 * line) = true → inWindow s line = false →
      let u := { s with snoops := s.snoops.erase x }
      exec (.data a line d) s = .next (snooped u line a x none) ∧
      exec (.dataDirty a line d) s = .next (snooped u line a x (some d)) ∧
      exec (.notHeld a line) s = .next (snooped u line a x none)) ∧
    (∀ (u : State) x, (lineState u line = .exclusive ∨ lineState u line = .owned ∨ lineState u line = .modified) →
      elyOwner (elyRaw u line) = a →
      (x.inv = true → snooped u line a x (some d) = setEly
        { writeMem u (128 * line) (bytesOf d) with slices := Store.del u.slices line } line 0) ∧
      (x.inv = false → x.keep = true → lineState u line = .modified → snooped u line a x (some d) = setEly
        { u with slices := Store.put u.slices line ⟨d, false, false⟩ } line
        (mkEly (elyInc (elyRaw u line)) (elyAgents (elyRaw u line)) 3)) ∧
      (x.inv = false → x.keep = false → snooped u line a x (some d) = setEly
        { writeMem u (128 * line) (bytesOf d) with slices := Store.del u.slices line } line
        (mkEly 0 (elyAgents (elyRaw u line)) 1))) ∧
    (∀ (u : State) x, lineState u line = .shared → x.inv = true → (elyAgents (elyRaw u line)).getLsbD a = true →
      snooped u line a x none = unshare u line a) ∧
    (paKind s (128 * line) = .peer a → leaseOver s line = true → engineHeld s line = false →
      (Store.find s.slices line = none → ∀ i ∈ [Instr.recallToShared a line, .recallInvalidate a line],
        exec i s = .next (s.emit (.notHeld a (128 * line % 2 ^ 40)))) ∧
      (∀ x, Store.find s.slices line = some x →
        let gone := Msg.evict a (128 * line % 2 ^ 40) (if x.dirty then some x.data else none)
        exec (.recallToShared a line) s =
          .next ({ s with slices := Store.put s.slices line ⟨x.data, false, false⟩ }.emit gone) ∧
        exec (.recallInvalidate a line) s = .next ({ s with slices := Store.del s.slices line }.emit gone)))

/-- R228, R337 to R339: the host's three reads are served as ServesAgent says, the last one granting nothing; its write of
a line that it holds ends its hold, and of an UNCACHED line is a write of the bytes it enables; its answers and its data
end what was asked of it; its snoops take the slice's copy of a line that it keeps coherent.  Which snoop an answer ends, the
oldest, and what HOST_SNOOP_RESPONSE carries are the model's choices (log entry 52: DESIGN CHOICE), and so is that the host's
address of a line is what the messages about it carry (log entry 52: DESIGN CHOICE), and that a host which requests a line that
it owns is snooped like any owner (log entry 52: DEDUCED). -/
def Obligations.HostIsServed : Prop :=
  ∀ (s : State) (line : Nat) (d : LineData) (en : BitVec 128),
    let addr := s.hdm + 128 * line
    let named := if inHbm (128 * line) then addr else 128 * line - 0x8000000000000
    (s.plat.phase = 3 → inHbm (128 * line) = true → AgentMay s 0 line →
      ServesAgent s 0 line (some (.memrdShared addr)) (some (.memrdAny addr)) ∧
      ((lineState s line = .uncached ∨ lineState s line = .shared) → SoundLine s line →
        exec (.memrdInvalid addr) s = .next ((asked s line).emit
          (.reply 0 line (ofBytes 1024 (memBytes s (128 * line) 128)) false))) ∧
      (ownerIs s line 0 = true → Memory.wf s.mem → Store.wf 0 s.ely = true →
        ∃ t, exec (.memwr addr d en) s = .next t ∧ t.sent = s.sent ++ [.ack 0 line] ∧ t.reqs = s.reqs ∧
          lineState t line = .uncached ∧
          ∀ b, memByte t b = if b / 128 = line then
              (if en.getLsbD (b % 128) = true then d.extractLsb' (8 * (b % 128)) 8
              else match Store.find s.slices line with
                | some x => x.data.extractLsb' (8 * (b % 128)) 8
                | none => memByte s b)
            else memByte s b) ∧
      (lineState s line = .uncached → leaseOver s line = true → Memory.wf s.mem →
        ∃ t, exec (.memwr addr d en) s = .next t ∧ t.sent = s.sent ++ [.ack 0 line] ∧ t.reqs = s.reqs ∧
          ∀ b, memByte t b = if b / 128 = line ∧ en.getLsbD (b % 128) = true then d.extractLsb' (8 * (b % 128)) 8
            else memByte s b)) ∧
    (inHbm (128 * line) = true → inHostBias s line = false → inWindow s line = false → ∀ x dirty, snoopOf s line 0 = some x →
      exec (.hostSnoopResponse line dirty) s = .next (snooped { s with snoops := s.snoops.erase x } line 0 x dirty)) ∧
    (hostLine s line = true → ∀ x own, s.snoops.find? (fun x => x.line == line && x.agent == 0 && x.inv == own) = some x →
      exec (.hostCacheData line own d) s = .next { s with
        snoops := s.snoops.erase x, slices := Store.put s.slices line ⟨d, own, false⟩ }) ∧
    (hostLine s line = true → s.plat.phase = 3 → leaseOver s line = true → engineHeld s line = false →
      (Store.find s.slices line = none → ∀ i ∈ [Instr.snpdata line, .snpinv line],
        exec i s = .next (s.emit (.notHeld 0 named))) ∧
      (∀ x, Store.find s.slices line = some x →
        let gone := Msg.evict 0 named (if x.dirty then some x.data else none)
        exec (.snpdata line) s = .next ({ s with slices := Store.put s.slices line ⟨x.data, false, false⟩ }.emit gone) ∧
        exec (.snpinv line) s = .next ({ s with slices := Store.del s.slices line }.emit gone)))

/-! ## The mailbox -/

/-- The commands that system software gives through the mailbox (R342), but for TELEMETRY, which has its own gate. -/
def mailboxCommand : Instr → Bool
  | .freezeReleaseResume .. | .freezeReleaseEnd .. | .biasSetHost .. | .biasSetDevice .. | .fwStage .. | .fwActivate ..
  | .leaseSet .. | .placementRead .. | .losslogSet .. | .aspaceSet .. | .tlbInval .. | .graphPost .. | .graphRelease ..
  | .preempt .. | .resume .. | .resumeEnd .. | .faultDoneRetry .. | .faultDoneEnd .. | .poolSet .. | .trapbaseSet ..
  | .featClear .. | .protectSet .. | .swarmSet .. | .travEnd .. => true
  | _ => false

/-- R341, R352: in phases 1 and 2 every command returns Busy, and so does, while a background command runs, every command
but RESYNC and DEBUG; in phases 0 and 4 none is answered; an opcode that R342 does not list returns Unsupported.  That
the mailbox takes no other command while a DEBUG access of a range or a RESYNC is under way, one given meanwhile leaving the
state as it is, is the model's choice (log entry 76: DEDUCED). -/
def Claims.MailboxGate : Prop :=
  ∀ (s : State) (i : Instr), (mailboxCommand i = true ∨ (∃ p n, i = .resync p n) ∨ (∃ w, i = .debugRead w) ∨
      (∃ w b, i = .debugWrite w b)) →
    (s.mbox.held = false →
      ((s.plat.phase = 1 ∨ s.plat.phase = 2) → exec i s = .next (returned s .busy [])) ∧
      ((s.plat.phase = 0 ∨ s.plat.phase = 4) → exec i s = .next s) ∧
      (s.plat.phase = 3 → s.mbox.bg ≠ none → mailboxCommand i = true → exec i s = .next (returned s .busy [])) ∧
      (∀ op, (op < 0xC000 ∨ 0xC016 < op) → MailboxFree s → otherCommand s op = returned s .unsupported [])) ∧
    (s.plat.phase = 3 → s.mbox.held = true →
      (mailboxCommand i = true ∨ (∃ p n, i = .resync p n ∧ s.mbox.sync ≠ some (p, n)) ∨ (∃ die c, i = .debugRead (.core die c)) ∨
        (∃ die c b, i = .debugWrite (.core die c) b)) → exec i s = .next s) ∧
    (s.plat.phase = 3 → s.mbox.held = true → ∀ op, otherCommand s op = s)

/-- R155, R220, R231, R239, R241, R319, R322, R328, R342, R345, R349, R350: what each setting command does with legal
values, and that it returns Invalid Input and changes nothing with others; with an invalidation the running copy commands
translate anew what they have still to ask for.  That the pool may be set at any time is log
entry 58 (DEDUCED), and that the TLBs have no limit is log entry 22 (DESIGN CHOICE). -/
def Claims.SettingsTakeEffect : Prop :=
  ∀ (s : State), MailboxFree s →
    let ok := fun (i : Instr) (t : State) => exec i s = .next (returned t .success [])
    let no := fun (i : Instr) => exec i s = .next (returned s .invalidInput [])
    (∀ lam, (1 ≤ lam ∧ lam ≤ 4095 → ok (.leaseSet lam) { s with lam := lam }) ∧
      (¬ (1 ≤ lam ∧ lam ≤ 4095) → no (.leaseSet lam))) ∧
    (∀ base size, base % 16 = 0 → size % 16 = 0 →
      (size = 0 → ok (.losslogSet base size) { s with loss := { s.loss with base := 0, size := 0 } }) ∧
      (size ≠ 0 → inHbm base = true → inHbm (base + size - 1) = true → dieOfPa base = dieOfPa (base + size - 1) →
        ok (.losslogSet base size) { s with loss := { s.loss with base := base, size := size, next := 0 } })) ∧
    (∀ id root, (256 ≤ id ∨ root % 4096 ≠ 0 ∨ inHbm root = false → no (.aspaceSet id root)) ∧
      (id < 256 → root % 4096 = 0 → inHbm root = true →
        ((∀ l ∈ s.launches, l.2.asp ≠ id) → ok (.aspaceSet id root) { s with aspaces := Store.put s.aspaces id root }) ∧
        ((∃ l ∈ s.launches, l.2.asp = id) → exec (.aspaceSet id root) s = .next (returned s .busy [])))) ∧
    ok (.tlbInval .all) (replanCopies { s with tlb := [] }) ∧
    (∀ asp lo hi, asp < 256 → lo ≤ hi → hi < 2 ^ 57 → ok (.tlbInval (.range asp lo hi)) (replanCopies { s with
      tlb := s.tlb.filter fun e => !(e.asp == asp && decide (lo / 65536 ≤ e.vpn) && decide (e.vpn ≤ hi / 65536)) })) ∧
    (∀ (u : State) (c : Copy) id, Store.find u.copies id = some c → c.placed = true → c.state ≠ .running →
      Store.find (replanCopies u).copies id = some { c with
        placed := false, want := [], vmap := c.vmap.filter fun e => c.held.contains e.2.1 }) ∧
    (∀ base, base % 2 ^ 23 = 0 → ok (.poolSet base 0) { s with poolBase := base, poolSize := 0, poolUsed := [] }) ∧
    (∀ base n, base % 2 ^ 23 = 0 → n ≠ 0 → lineRange s base (2 ^ 23 * n) = true → (∀ t ∈ s.teams, t.2.slot = none) →
      ok (.poolSet base n) { s with poolBase := base, poolSize := n, poolUsed := [] }) ∧
    (∀ die cores va, die < 8 → va ≠ 0 → va % 4 = 0 → va < 2 ^ 57 → ∃ t, ok (.trapbaseSet die cores va) t ∧
      t = { s with cores := t.cores } ∧ (Store.wf Core.init s.cores = true → ∀ c, c < 48 → t.core (48 * die + c) =
        if cores.getLsbD c then { s.core (48 * die + c) with trapbase := BitVec.ofNat 57 va } else s.core (48 * die + c))) ∧
    (∀ die cores va, (8 ≤ die ∨ va = 0 ∨ va % 4 ≠ 0 ∨ 2 ^ 57 ≤ va) → no (.trapbaseSet die cores va)) ∧
    (∀ die b, (die < 8 → b.toNat < 8 → ok (.featClear die b) { s with feat := vset s.feat die (vget s.feat die &&& ~~~b) }) ∧
      (8 ≤ die ∨ 8 ≤ b.toNat → no (.featClear die b))) ∧
    (∀ index pa size flags, (index < 16 → pa + size ≤ 2 ^ 52 →
      ok (.protectSet index pa size flags) { s with regions := Store.put s.regions index ⟨pa, size, flags⟩ }) ∧
      (16 ≤ index ∨ 2 ^ 52 < pa + size → no (.protectSet index pa size flags))) ∧
    (∀ pos n table, (swarmOk pos n table = false → no (.swarmSet pos n table)) ∧
      (swarmOk pos n table = true → ∃ t, ok (.swarmSet pos n table) t ∧ t = { s with swarm := some ⟨pos, n, table⟩, links := t.links } ∧
        ∀ i, i < 12 → (table[i]?.getD none = none → (vget t.links i).state = 5) ∧
          (table[i]?.getD none ≠ none → (vget s.links i).state = 5 → (vget t.links i).state = 1))) ∧
    (∀ die stack first count clear, (8 ≤ die ∨ 2 ≤ stack ∨ 500 < count ∨ 24576 < first + count →
        no (.placementRead die stack first count clear)) ∧
      (die < 8 → stack < 2 → count ≤ 500 → first + count ≤ 24576 → ∃ t, exec (.placementRead die stack first count clear) s =
        .next (returned t .success ((List.range count).flatMap fun i =>
          bytesOf (Store.getD 0 s.counts ((die * 0x2000000000 + stack * 0xC00000000) / 0x200000 + first + i)))) ∧
        t = { s with counts := t.counts } ∧ (clear = false → t = s) ∧
        (clear = true → Store.wf 0 s.counts = true → ∀ i, i < count →
          Store.getD 0 t.counts ((die * 0x2000000000 + stack * 0xC00000000) / 0x200000 + first + i) = 0)))

/-- R343, R344, R357, R359: TELEMETRY returns the record of its selector in phases 1 to 3; RESYNC writes its summary where
it fits, once every line of it can be written, and else returns the length it needs; DEBUG returns and replaces the debug
record of a core, and reads and writes a physical range line by line, in ascending order, each line as it is when its turn
comes.  Between which lines, and before the end, other agents act is the schedule's choice (log entry 56: DEDUCED); that RESYNC
goes on as one step once it can, and that nothing else is taken before, is log entry 76 (DEDUCED). -/
def Obligations.SystemIsRead : Prop :=
  ∀ (s : State) (sel pa size die c : Nat) (bs : List Byte),
    let stays := fun (j : Nat) => (pickMask s.picks pkDbg).getLsbD j
    (1 ≤ s.plat.phase → s.plat.phase ≤ 3 → s.mbox.bg = none → s.mbox.held = false →
      (∀ r, telemetryRecord s sel = some r → exec (.telemetry sel) s = .next (returned { s with free := s.free + 2 } .success r)) ∧
      (24 < sel → exec (.telemetry sel) s = .next (returned s .invalidInput []))) ∧
    (s.plat.phase = 3 → (s.mbox.held = false ∨ s.mbox.sync = some (pa, size)) → lineRange s pa size = true →
      (inHbm pa = true ∨ paKind s pa = .host) →
      let holds := fun (u : State) (x : Option (Nat × Nat)) => { u with mbox := { u.mbox with sync := x } }
      (size < (summary s).length → exec (.resync pa size) s =
        .next (returned (dropWriter (holds s none) .mailbox) .invalidInput (leBytes 4 (summary s).length))) ∧
      (∀ u, (summary s).length ≤ size →
        (writeParts s .mailbox pa [(0, summary s)] = (u, true) →
          exec (.resync pa size) s = .next (returned (holds u none) .success [])) ∧
        (writeParts s .mailbox pa [(0, summary s)] = (u, false) →
          exec (.resync pa size) s = .next (holds u (some (pa, size)))))) ∧
    (s.plat.phase = 3 → s.mbox.held = false →
      (die < 8 → c < 48 →
        let k := s.core (48 * die + c)
        let r := ((List.range 4).flatMap fun i => bytesOf (k.bps[i]?.getD 0)) ++ bytesOf k.step ++
          leBytes 8 ((if k.sstr then 2 else 0) + (if k.tstop then 1 else 0))
        exec (.debugRead (.core die c)) s = .next (returned s .success r) ∧
        (∀ r : BitVec 384, bs = bytesOf r → (∀ i, i < 4 → r.extractLsb' (64 * i + 57) 5 = 0) → r.extractLsb' 322 62 = 0 →
          exec (.debugWrite (.core die c) bs) s = .next (returned (s.setCore (48 * die + c) { k with
            bps := (List.range 4).map fun i => r.extractLsb' (64 * i) 64, step := r.extractLsb' 256 64,
            sstr := r.getLsbD 321, tstop := r.getLsbD 320 }) .success []))) ∧
      (8 ≤ die ∨ 48 ≤ c → exec (.debugRead (.core die c)) s = .next (returned s .invalidInput []) ∧
        exec (.debugWrite (.core die c) bs) s = .next (returned s .invalidInput []))) ∧
    (s.plat.phase = 3 → s.mbox.held = false → pa / 128 = (pa + size - 1) / 128 → 1 ≤ size → inHbm (pa / 128 * 128) = true →
      inHbm pa = true → resolve s (pa / 128) = s → lineRepl s (pa / 128) = 0 →
      let ended := fun (u : State) => dropOlds u (2 ^ 42)
      let left := fun (u : State) (run : DbgRun) => { u with mbox := { u.mbox with dbg := some run } }
      (stays 0 = true → exec (.debugRead (.range pa size)) s = .next (left s ⟨pa, size, false, [], 0⟩)) ∧
      (stays 0 = false → homeLine s (pa / 128) = some .mem → exec (.debugRead (.range pa size)) s = .next
        (if stays 1 then left s ⟨pa, size, false, memBytes s pa size, 1⟩
         else returned (ended s) .success (memBytes s pa size))) ∧
      (stays 0 = false → bs.length = size → lineReady s (Writer.id .mailbox) (pa / 128) = true →
        let u := hideRels (homeWrite (dropWriter s .mailbox) pa bs) pa size
        exec (.debugWrite (.range pa size) bs) s = .next
          (if stays 1 then left u ⟨pa, size, true, bs, 1⟩ else returned (ended u) .success []))) ∧
    (∀ d x n, s.mbox.dbg = some d → d.pa = pa → d.n = size → (splitRange 128 pa size).drop d.lines = [(x, n)] →
      inHbm pa = true → inHbm x = true → resolve s (x / 128) = s → lineRepl s (x / 128) = 0 → stays d.lines = false →
      stays (d.lines + 1) = false →
      let ended := fun (u : State) => dropOlds { u with mbox := { u.mbox with dbg := none } } (2 ^ 42)
      (d.write = false → homeLine s (x / 128) = some .mem →
        exec (.debugRead (.range pa size)) s = .next (returned (ended s) .success (d.bytes ++ memBytes s x n))) ∧
      (d.write = true → bs.length = size → d.bytes.length = size → lineReady s (Writer.id .mailbox) (x / 128) = true →
        exec (.debugWrite (.range pa size) bs) s = .next (returned
          (ended (hideRels (homeWrite (dropWriter s .mailbox) x ((d.bytes.drop (x - pa)).take n)) x n)) .success [])))

/-- R340, R341: BIAS_SET begins a background command that flips the pages not yet so biased, one after another; a page
goes to host bias once no peer holds and no lease covers a line of it; what slices hold of it is then in memory, and no slice
holds one; it goes back once the host has given every line, and each line's data is then in memory; the command completes when
its pages have flipped.  Invalid Input for a replicated page, and how a page is known to be one, are the model's (log entries 57
and 49: DEDUCED). -/
def Obligations.PagesFlip : Prop :=
  ∀ (s : State),
    (∀ pa count host, MailboxFree s →
      let i := if host then Instr.biasSetHost pa count else .biasSetDevice pa count
      let pages := (List.range count).map (pa / 65536 + ·)
      let todo := pages.filter fun p => Store.getD false s.hostBias p != host
      (pagesOk pa count = false ∨ host = true ∧ (∃ p ∈ pages, replicatedLine s (512 * p) = true) →
        exec i s = .next (returned s .invalidInput [])) ∧
      (pagesOk pa count = true → (host = true → ∀ p ∈ pages, replicatedLine s (512 * p) = false) →
        exec i s = .next { s with
          mbox := { s.mbox with code := .background, payload := [], bg := some (.bias host todo), bgDone := false },
          flips := match todo with | p :: _ => [⟨p, host⟩] | [] => [] })) ∧
    (∀ page rest, s.mbox.bg = some (.bias true (page :: rest)) → Memory.wf s.mem → Store.wf 0 s.ely = true → Store.sorted s.slices = true →
      (∀ line, line / 512 = page → resolve s line = s ∧ lineBusy s line = false ∧ peersOf s line = [] ∧ leaseOver s line = true) →
      ∃ t, exec (.pageFlip page) s = .next t ∧ t.mbox.bg = some (.bias true rest) ∧
        (∀ a, memByte t a = match (if a / 65536 = page then Store.find s.slices (a / 128) else none) with
          | some x => x.data.extractLsb' (8 * (a % 128)) 8
          | none => memByte s a) ∧
        (∀ line, line / 512 = page → lineState t line = .hostBias ∧ Store.find t.slices line = none) ∧
        (∀ line, line / 512 ≠ page → elyRaw t line = elyRaw s line ∧ Store.find t.slices line = Store.find s.slices line)) ∧
    (∀ page rest, s.mbox.bg = some (.bias false (page :: rest)) → Memory.wf s.mem → Store.wf 0 s.ely = true →
      Store.sorted s.slices = true → Store.wf false s.hostBias = true →
      ∀ data : Nat → LineData, (∀ line, line / 512 = page → lineBusy s line = false ∧ leaseOver s line = true ∧
        ∃ dirty, Store.find s.slices line = some ⟨data line, true, dirty⟩) →
      ∃ t, exec (.pageFlip page) s = .next t ∧ t.mbox.bg = some (.bias false rest) ∧
        (∀ line, line / 512 = page → lineState t line = .uncached ∧ Store.find t.slices line = none) ∧
        (∀ a, memByte t a = if a / 65536 = page then (data (a / 128)).extractLsb' (8 * (a % 128)) 8 else memByte s a)) ∧
    (∀ host, s.mbox.bg = some (.bias host []) →
      exec .backgroundComplete s = .next { s with mbox := { s.mbox with bg := none, bgDone := true } })

/-- R346: FREEZE_RELEASE takes the freeze off the list; resume lets the master go on: a team's groups issue again unless it
is being saved, an engine's frozen commands run again, a peer's failed links attest again; end ends its work: the groups of the
frozen team, or the frozen spawned group, end, saved or resident, an engine's commands complete with status 8 and its traversals
end with status 5, their faults no longer pending, the host function is released, a peer is declared failed, with an event and a
failure notice.  What this model chooses: an engine's entry is about the command that it names by its launch and team, and a
command whose team is out stops where it would have gone on (log entry 37: DEDUCED); a traversal engine is named by the even one
of its two cores (log entry 70: DEDUCED); the id is the place in the freeze list, and entries of one master leave together (log
entry 50: DESIGN CHOICE). -/
def Obligations.FreezesAreReleased : Prop :=
  ∀ (s : State) (id : Nat) (f : Frozen), MailboxFree s → s.frozen[id]? = some f →
    let u := { s with frozen := s.frozen.filter fun g => !f.same g }
    let core := 48 * f.die + f.unit
    (∀ kind, kind ≠ f.kind → exec (.freezeReleaseResume kind id) s = .next (returned s .invalidInput []) ∧
      exec (.freezeReleaseEnd kind id) s = .next (returned s .invalidInput [])) ∧
    (∃ t, exec (.freezeReleaseResume f.kind id) s = .next (returned t .success []) ∧ t.frozen = u.frozen ∧
      (f.kind = 1 → ∀ gid g, s.grp gid = some g → f.names (gid, g) = true → (∀ l, s.launch g.lid = some l → l.pre = .none) →
        (∀ r, s.team (outKey gid g) = some r → r.state = .resident) → t.grp gid = some { g with halted := false }) ∧
      (f.kind = 2 → ∀ n c, Store.find s.copies n = some c → c.core = core → c.lid = f.lid → c.tid = f.team →
        c.state = .frozen → Store.find t.copies n = some (if cmdOut s c.lid c.tid then
          { c with
            state := .stopped 1, vaddr := 0, stampOk := false, srcs := [], placed := false, want := [],
            vmap := c.vmap.filter fun e => c.held.contains e.2.1 } else { c with state := .running })) ∧
      (f.kind = 3 → ∀ n c, Store.find s.attns n = some c → c.core = core → c.lid = f.lid → c.tid = f.team →
        c.state = .frozen → Store.find t.attns n = some (if cmdOut s c.lid c.tid then
          { c with state := .stopped 1, vaddr := 0, started := false, map := none, mapPa := none, stamp := none, stampOk := false, qs := none, got := [] }
          else { c with state := if c.started then .running else .pending })) ∧
      (f.kind = 4 ∨ f.kind = 5 → t = u) ∧
      (f.kind = 6 → f.viol = 3 → ∀ w n, s.swarm = some w → n < 12 → w.table[n]?.getD none = some f.team →
        (vget s.links n).state = 4 → (vget t.links n).state = 2)) ∧
    (∃ t, exec (.freezeReleaseEnd f.kind id) s = .next (returned t .success []) ∧
      (f.kind ≠ 1 → t.frozen = u.frozen) ∧
      (f.kind = 1 →
        let v := ((s.teams.filter fun r => r.1 == f.key && r.2.state == .out).map (·.1)).foldl endSaved u
        t = ((v.groups.filter f.names).map (·.1)).foldl endGroup v) ∧
      (f.kind = 5 → t = u) ∧
      (f.kind = 2 → ∀ n c, Store.find s.copies n = some c → c.core = core → c.lid = f.lid → c.tid = f.team →
        c.state = .frozen → Store.find t.copies n = some
        { c with state := .running, started := true, status := 8, want := [] }) ∧
      (f.kind = 3 → ∀ n c, Store.find s.attns n = some c → c.core = core → c.lid = f.lid → c.tid = f.team →
        c.state = .frozen → Store.find t.attns n = some
        { c with state := .running, started := false, status := 8 }) ∧
      (f.kind = 4 → ∀ n v, Store.find s.travs n = some v → v.core - v.core % 2 = core → v.ending = none →
        Store.find t.travs n = some { v with ending := some 5, fault := none }) ∧
      (f.kind = 4 → ∀ p, p ∈ t.pfaults ↔ p ∈ s.pfaults ∧
        ¬ (p.kind = 2 ∧ ∃ v, Store.find s.travs p.who = some v ∧ v.core - v.core % 2 = core ∧ v.lid = p.lid)) ∧
      (f.kind = 6 → f.team < 8 → (agent t f.team).down = true ∧ t.mbox.events = s.mbox.events ++ [f.team] ∧
        t.sent.getLast? = some (.failure f.team)))

/-- R347: FW_STAGE puts its bytes into the staging area; FW_ACTIVATE checks the staged image's magic, length, security
version, key and signature, against the fused digest of the key in its slot, which is not revoked, and readies it for the next module reset; with commit its security version is the least one
admitted from then on.  SHA-512 and Ed25519 are those of their standards (log entry 89: PRESUMED); where the public key lies in an image the manual does
not say, and the model leaves it open (log entry 40: DESIGN CHOICE). -/
def Claims.FirmwareIsStaged : Prop :=
  ∀ (s : State) (off : Nat) (bs : List Byte) (commit : Bool), MailboxFree s →
    let size := leNat ((List.range 4).map fun i => Store.getD 0 s.fw.staged (0x10 + i))
    let im := (List.range (256 + min size 0x4000000)).map fun i => Store.getD (0 : Byte) s.fw.staged i
    let word := fun (k : Nat) => leNat ((im.drop k).take 4)
    let good := word 0 = 0x51584657 ∧ word 0x10 ≤ 0x4000000 ∧ word 8 ≤ 255 ∧
      (let slot := leNat ((im.drop 0x0C).take 1) % 4
       sha512 (Config.publicKey im) = bytesOf (s.fw.keys[slot]?.getD 0) ∧ s.fw.revoked.getLsbD slot = false) ∧
      Ed.verify Ed.domPh (Config.publicKey im) (sha512 (im.take 0x40 ++ im.drop 0x100)) ((im.drop 0x40).take 64) = true ∧ s.fw.minSvn.toNat ≤ word 8
    (bs.length ≤ 4032 → off + bs.length ≤ 256 + 0x4000000 → exec (.fwStage off bs) s =
      .next (returned { s with fw := { s.fw with staged := Store.putsD 0 s.fw.staged off bs } } .success [])) ∧
    (4032 < bs.length ∨ 256 + 0x4000000 < off + bs.length → exec (.fwStage off bs) s = .next (returned s .invalidInput [])) ∧
    (good → exec (.fwActivate commit) s = .next (returned { s with fw := { s.fw with
      ready := some im, minSvn := if commit then BitVec.ofNat 8 (word 8) else s.fw.minSvn } } .success [])) ∧
    (¬ good → exec (.fwActivate commit) s = .next (returned s .invalidInput []))

/-! ## Pre-emption, faults and chrysalises -/

/-- R330, R331: what stands where in the image of a team, or of a spawned group: its header, each group's record, the registers
that its quota names but for the volatile ones, the scratchpad, ACC, and the commands' records; every other byte of the slot is 0
(R3). -/
def Claims.ImagesHold : Prop :=
  ∀ (s : State) (k pa line : Nat) (t : Team) (l : Launch) (gs : List (Nat × Group)),
    let ps := chrysalis s k t l gs
    let at_ := fun (bs : List Byte) (o n : Nat) => leNat ((bs.drop o).take n)
    (∃ hd, (0, hd) ∈ ps ∧ hd.length = 0x200 ∧ at_ hd 0 2 = 1 ∧ at_ hd 2 1 = t.why % 256 ∧ at_ hd 3 1 = gs.length % 256 ∧
      at_ hd 4 4 = t.tid.getD 0xFFFFFFFF % 2 ^ 32 ∧ at_ hd 8 4 = t.lid % 2 ^ 32 ∧
      at_ hd 0x0C 1 = (if t.why = 2 then 0 else t.fkind % 256) ∧ at_ hd 0x10 8 = (if t.why = 2 then 0 else t.fva % 2 ^ 64) ∧
      at_ hd 0x18 8 = l.kdesc % 2 ^ 64 ∧ at_ hd 0x30 8 = 0x510000 ∧ at_ hd 0x38 8 = 0x5D0000 ∧ at_ hd 0x40 8 = 0x610000 ∧
      (∀ g, g < 32 → t.tid ≠ none → at_ hd (0x100 + 8 * g) 8 =
        if ∃ e ∈ gs, e.2.gidx = g then 0x1000 + 0x28000 * g else 0)) ∧
    (t.tid ≠ none → (0x510000, spadNow s l.desc t 0 l.desc.spq) ∈ ps) ∧
    (∀ e ∈ gs, t.tid ≠ none → let g := e.2
      ∃ r, (0x1000 + 0x28000 * g.gidx, r) ∈ ps ∧
        (∀ n, n < 64 → at_ r (4 * n) 4 = (vget g.s n).toNat) ∧ at_ r 0x548 8 = g.live.toNat ∧ at_ r 0x550 4 = g.mode.toNat ∧
        at_ r 0x556 2 = g.q % 65536 ∧ at_ r 0x558 2 = g.ccopy.toNat ∧ at_ r 0x55A 2 = g.ctrav.toNat ∧
        at_ r 0x55C 2 = g.cattn.toNat ∧ at_ r 0x56C 4 = g.tcause.toNat ∧ at_ r 0x570 4 = g.tinfo.toNat ∧
        ∀ n, n < g.q → (∀ a b, l.desc.vol = some (a, b) → n < a ∨ b < n) →
          ∃ v, (0x1000 + 0x28000 * g.gidx + 0x2000 + 4 * g.width * n, v) ∈ ps ∧
            ∀ i, i < g.width → at_ v (4 * i) 4 = (vRaw s e.1 g n i).toNat) ∧
    (∀ (qs : List (Nat × List Byte)) (o : Nat), o < 128 → (∀ p ∈ qs, 128 * line + o < pa + p.1 ∨ pa + p.1 + p.2.length ≤ 128 * line + o) →
      (slotLine pa qs line)[o]? = some 0)

/-- R325 to R328, R330, R341: PREEMPT halts every group of the launches it names and begins its background command; a
team that a fault halted takes a slot of the pool, or stays halted while there is none; a halted team whose results have
returned is saved whole into its slot, its image as ImagesHold says, and leaves the machine; a launch that migrates has every dirty line of the package
written back first; a launch all of whose teams are out has its record written,
and the command completes when every launch is saved.  That all groups halt in the command's step, and the order of launches, are
the model's choices (log entry 43: DEDUCED, DESIGN CHOICE), and so are what is kept beside the image (log entry 31), the why
bytes rewritten in the headers of teams already out (log entry 71: DEDUCED), and the addresses that the messages carry with which
a migrating launch gives back lines of the host and of peers (log entry 52: DESIGN CHOICE). -/
def Obligations.TeamsAreSaved : Prop :=
  Claims.ImagesHold ∧
  ∀ (s : State) (k area lid : Nat) (sel : PreSel) (migrate : Bool) (t : Team) (l : Launch),
    (MailboxFree s →
      (preLaunches s sel = [] ∨ area % 2 ^ 23 ≠ 0 ∨ (paKind s area).line = false →
        exec (.preempt sel area migrate) s = .next (returned s .invalidInput [])) ∧
      (preLaunches s sel ≠ [] → area % 2 ^ 23 = 0 → (paKind s area).line = true →
        ∃ u, exec (.preempt sel area migrate) s = .next u ∧ SameMem s u ∧
          u.mbox = { s.mbox with
            code := .background, payload := [], bg := some (.preempt (preLaunches s sel) area area), bgDone := false } ∧
          (∀ i ∈ preLaunches s sel, ∀ x, s.launch i = some x → u.launch i = some { x with pre := .saving migrate }) ∧
          (Store.sorted s.groups = true → ∀ gid g, s.grp gid = some g →
            u.grp gid = some (if g.lid ∈ preLaunches s sel then
              { g with
                halted := true, sc := g.sc.stopWait, ln := g.ln.stopWait,
                ctx := { g.ctx with part := g.ctx.part && g.trap.isSome } } else g)))) ∧
    (s.team k = some t → t.state = .halting → t.slot = none → s.launch t.lid = some l → l.pre = .none →
      (freePool s = none → exec (.poolSlotSave k) s = .next (s.updTeam k fun t => { t with state := .awaiting })) ∧
      (∀ i, freePool s = some i → exec (.poolSlotSave k) s = .next
        ({ s with poolUsed := s.poolUsed ++ [i] }.updTeam k fun t =>
          { t with state := .halting, slot := some (s.poolBase + 2 ^ 23 * i) }))) ∧
    (s.team k = some t → (t.state = .halting ∨ t.state = .awaiting) → s.launch t.lid = some l →
      let gs := groupsOf s k
      (∀ c ∈ s.copies, prefetching k c.2 = false) → saveReady s k gs = true → ∀ pa fresh, saveSlot s t l = some (pa, fresh) →
      ∀ u, writtenBack (stopCmds s k) l = some u →
      ∀ v, writeSlot u (.team k) pa (chrysalis u k t l (gs.map fun e => (e.1, e.2.publish))) = (v, true) →
        exec (.chrysalisComplete k []) s = .next (if fresh then nextSlot (teamOut v k t pa gs) else teamOut v k t pa gs)) ∧
    (∀ (v : State) pa gs, t.tid ≠ none → v.team k = some t → t.lid = lid →
      let u := teamOut v k t pa gs
      u.team k = some { t with
        state := .out, slot := some pa, groups := gs.map fun e => e.2.leave, since := v.gtc.toNat, reserving := false } ∧
      (Store.sorted v.groups = true → ∀ e ∈ gs, u.grp e.1 = none) ∧ SameMem v u ∧
      ∀ c ∈ u.l1, ∀ e ∈ v.groups, e.2.lid = lid → c.core ≠ coreOf e.1) ∧
    (∀ rest base next, s.mbox.bg = some (.preempt (lid :: rest) base next) → s.launch lid = some l →
      (∀ g ∈ s.groups, g.2.lid ≠ lid) → (∀ r ∈ s.teams, r.2.lid = lid → r.2.state = .out) →
      (∀ v ∈ s.travs, v.2.lid = lid → travBusy s v.2 = false) →
      ∀ s1, holdTops s lid = (s1, true) → ∀ u, writtenBack (unbin s1 lid) l = some u →
      ∀ x, u.launch lid = some x → let bs := launchBytes u lid x base next
      ∀ v, writeParts u .mailbox 0 ((next, bs) :: whyMarks u lid) = (v, true) →
        let after := next + 2 ^ 23 * ((bs.length + 2 ^ 23 - 1) / 2 ^ 23)
        ∃ w, exec .backgroundComplete s = .next w ∧ w.mbox.bg = some (.preempt rest after after) ∧
          w = { (markWhy (stopTravs v lid) lid).updLaunch lid fun l => { l with pre := .saved } with mbox := w.mbox } ∧
          ∀ n t, Store.find v.travs n = some t → Store.find w.travs n = some (if t.lid = lid then
            { t with stampOk := t.stampb == 0, cuts := t.cuts.map fun c => { c with pa := [] }, begun := false } else t)) ∧
    ((l.pre ≠ .saving true ∨ dirtyLines s = [] → writtenBack s l = some s) ∧
      (l.pre = .saving true → (∃ d ∈ dirtyLines s, leaseOver s d = false) → writtenBack s l = none) ∧
      (∀ u, l.pre = .saving true → writtenBack s l = some u → Store.sorted s.slices = true →
        ∀ line d a addr, Store.find s.slices line = some d → d.dirty = true → engineHeld s line = false →
          (a = 0 ∧ paKind s (128 * line) = .host ∧ addr = 128 * line - 0x8000000000000 ∨
            paKind s (128 * line) = .peer a ∧ addr = 128 * line % 2 ^ 40) →
          Store.find u.slices line = none ∧ Msg.evict a addr (some d.data) ∈ u.sent)) ∧
    (∀ base next, s.mbox.bg = some (.preempt [] base next) →
      exec .backgroundComplete s = .next { s with mbox := { s.mbox with bg := none, bgDone := true } })

/-- R312, R329, R344: FAULT_DONE takes a team's fault, or a traversal's, off the list; retry marks the team as serviced,
which waits for its place from then on, and lets the traversal go on, end ends them, the traversal with status 5; RESUME lets a saved launch's teams enter again,
and its end ends them and places no more; TRAV_END ends a traversal with status 5.  That FAULT_DONE of team id 0xFFFFFFFF takes
every faulted spawned group of the launch is the model's (log entry 44: DEDUCED). -/
def Obligations.FaultsAreServiced : Prop :=
  ∀ (s : State) (lid tid id : Nat) (l : Launch), MailboxFree s →
    let cleared := fun (kind who : Nat) => { s with
      pfaults := s.pfaults.filter fun f => !(f.kind == kind && f.lid == lid && f.who == who) }
    let keys := (s.teams.filter fun t => t.2.lid == lid && ((t.2.why == 1 || t.2.why == 3) && !t.2.serviced) &&
      (if tid = 0xFFFFFFFF then t.2.tid.isNone else t.2.tid == some tid)).map (·.1)
    let u := cleared 1 tid
    (keys = [] → exec (.faultDoneRetry (.team lid tid)) s = .next (returned s .invalidInput []) ∧
      exec (.faultDoneEnd (.team lid tid)) s = .next (returned s .invalidInput [])) ∧
    (keys ≠ [] →
      exec (.faultDoneRetry (.team lid tid)) s = .next (returned
        (keys.foldl (fun s k => s.updTeam k fun t => { t with serviced := true, since := s.gtc.toNat }) u) .success []) ∧
      exec (.faultDoneEnd (.team lid tid)) s = .next (returned (keys.foldl endSaved u) .success [])) ∧
    (∀ t, Store.find s.travs id = some t → t.lid = lid →
      (t.fault ≠ none →
        exec (.faultDoneRetry (.trav id)) s = .next (returned ((cleared 2 id).setTrav id { t with fault := none }) .success []) ∧
        exec (.faultDoneEnd (.trav id)) s = .next (returned
          ((cleared 2 id).setTrav id { t with fault := none, ending := some 5 }) .success [])) ∧
      (t.fault = none → exec (.faultDoneRetry (.trav id)) s = .next (returned s .invalidInput [])) ∧
      (t.ending = none → exec (.travEnd lid id) s = .next (returned
        ((cleared 2 id).setTrav id { t with ending := some 5, fault := none }) .success []))) ∧
    (Store.find s.travs id = none → exec (.travEnd lid id) s = .next (returned s .invalidInput [])) ∧
    (s.launch lid = some l →
      (l.pre ≠ .saved → exec (.resume lid) s = .next (returned s .invalidInput []) ∧
        exec (.resumeEnd lid) s = .next (returned s .invalidInput [])) ∧
      (l.pre = .saved → l.threads = [] →
        ∃ v, exec (.resume lid) s = .next (returned v .success []) ∧
          v.launch lid = some { l with pre := .none, since := s.gtc.toNat, reserving := false } ∧ v.groups = s.groups ∧
          v.travs = s.travs ∧ ∀ k t, s.team k = some t → v.team k = some (if t.lid = lid then
            { t with since := s.gtc.toNat, reserving := false } else t)) ∧
      (l.pre = .saved → (∀ t ∈ s.teams, t.2.lid ≠ lid) →
        ∃ v, exec (.resumeEnd lid) s = .next (returned v .success []) ∧
          v.launch lid = some { l with pre := .none, threads := [], done := l.done + (l.teams - l.next), next := l.teams } ∧
          ∀ n t, Store.find s.travs n = some t → t.lid = lid →
            Store.find v.travs n = some { t with ending := some 5, fault := none }))

/-! ## Identity, links and agents -/

/-- A port that carries SPDM messages: the host's from phase 1 to 3, and a link that attests or is up (R348, R349). -/
def PortOpen (s : State) (p : Port) : Prop :=
  match p with
  | .host => 1 ≤ s.plat.phase ∧ s.plat.phase ≤ 3
  | .link pl => pl < 12 ∧ ((vget s.links pl).state = 2 ∨ (vget s.links pl).state = 3)

/-- An SPDM message: version, code and two parameters, then its contents. -/
def spdmOf (version code p1 p2 : Nat) (bs : List Byte) : List Byte :=
  [BitVec.ofNat 8 version, BitVec.ofNat 8 code, BitVec.ofNat 8 p1, BitVec.ofNat 8 p2] ++ bs

/-- The signature of the module's identity key over a transcript, for a purpose. -/
def signedFor (what : String) (m : List Byte) : List Byte :=
  let name := Ed.ascii what
  let prefix4 := Ed.ascii "dmtf-spdm-v1.2.*" ++ Ed.ascii "dmtf-spdm-v1.2.*" ++ Ed.ascii "dmtf-spdm-v1.2.*" ++
    Ed.ascii "dmtf-spdm-v1.2.*"
  Ed.sign Config.identitySeed (prefix4 ++ List.replicate (36 - name.length) 0 ++ name ++ sha512 m)

/-- The number under which a requester's transcript is kept. -/
def requester (p : Port) : Nat := match p with | .host => 0 | .link pl => pl + 1

/-- The machine with a requester's transcript changed and a reply sent on the port. -/
def answered (s : State) (p : Port) (t : Transcript) (reply : List Byte) : State :=
  ({ s with spdm := Store.put s.spdm (requester p) t } : State).emit (.spdm p reply)

/-- The measurement block of an index: a firmware digest, raw configuration, or the raw security version. -/
def blockOf (s : State) (i : Nat) : List Byte :=
  let v := if i = 1 then sha512 s.fw.running else if i = 2 then s.feat.toList.flatMap bytesOf
    else s.fw.minSvn :: List.replicate 7 0
  let n := v.length
  [BitVec.ofNat 8 i, 1] ++ leBytes 2 (3 + n) ++ [if i = 1 then 1 else if i = 2 then 0x82 else 0x88] ++ leBytes 2 n ++ v

/-- The contents of a capabilities message: flags, and the sizes that the manual does not give. -/
def capsOf (flags : Nat) : List Byte :=
  [0, (Config.spdmSize 2).truncate 8, 0, 0] ++ leBytes 4 flags ++ bytesOf (Config.spdmSize 0) ++ bytesOf (Config.spdmSize 1)

/-- R348: each request is answered on its port and joins its requester's transcript; the capabilities offer certificates,
challenges and signed measurements, no secured session, and the algorithms are Ed25519 and SHA-512; the digest is SHA-512 of the
certificate chain, and the measurements are the running image's digest, FEAT of every die and the least security version;
CHALLENGE and GET_MEASUREMENTS are signed with Ed25519 over what was exchanged.  Over a link that attests the package makes the
same exchange with its peer: the requests go out, and the link comes up when the peer's chain is certified, has the digest that
the peer gave, and its key has signed all that was exchanged; else the link fails and its peer is frozen with viol 3.  The layout
of the messages is the model's, from SPDM 1.2 (log entry 42: PRESUMED); SHA-512 and Ed25519 are by their standards (log entry 89:
PRESUMED); that a link's exchange is made in the event of its CHALLENGE, whose argument is the peer's replies, is log entry 42
(DESIGN CHOICE). -/
def Claims.IdentityIsProved : Prop :=
  ∀ (s : State) (p : Port) (off len index pl : Nat) (nonce : BitVec 256) (t : Transcript),
    Store.find s.spdm (requester p) = some t ∨ Store.find s.spdm (requester p) = none ∧ t = ⟨[], []⟩ →
    let s1 := { s with free := s.free + 1 }
    let s32 := { s with free := s.free + 32 }
    let own := tabulate 32 fun i => (Config.undefWord (s.free + i)).truncate 8
    let digest := sha512 Config.certChain
    (PortOpen s p →
      (let req := spdmOf 0x10 0x84 0 0 []
       let rsp := spdmOf 0x10 0x04 0 0 [0, 1, 0x00, 0x12]
       exec (.getVersion p) s = .next (answered s p ⟨req ++ rsp, []⟩ rsp)) ∧
      (let join := fun k rsp => { t with vca := t.vca ++ Config.spdmRequest s.free k ++ rsp }
       let caps := spdmOf 0x12 0x61 0 0 (capsOf 0x16)
       let algs := spdmOf 0x12 0x63 0 0 ([36, 0, 1, 0, 8, 0, 0, 0, 0, 4, 0, 0, 4, 0, 0, 0] ++ List.replicate 16 0)
       exec (.getCapabilities p) s = .next (answered s1 p (join 1 caps) caps) ∧
       exec (.negotiateAlgorithms p) s = .next (answered s1 p (join 2 algs) algs)) ∧
      (let rsp := spdmOf 0x12 0x01 0 1 digest
       exec (.getDigests p) s = .next (answered s p { t with certs := t.certs ++ spdmOf 0x12 0x81 0 0 [] ++ rsp } rsp)) ∧
      (let part := (Config.certChain.drop off).take len
       let left := Config.certChain.length - off - part.length
       let rsp := if off < Config.certChain.length then spdmOf 0x12 0x02 0 0 (leBytes 2 part.length ++ leBytes 2 left ++ part)
         else spdmOf 0x12 0x7F 1 0 []
       exec (.getCertificate p 0 off len) s = .next (answered s p
         { t with certs := t.certs ++ spdmOf 0x12 0x82 0 0 (leBytes 2 off ++ leBytes 2 len) ++ rsp } rsp)) ∧
      (∀ n blocks, (index = 0 ∧ n = 3 ∧ blocks = []) ∨
          (1 ≤ index ∧ index ≤ 3 ∧ n = 0 ∧ blocks = [blockOf s index]) ∨
          (index = 255 ∧ n = 0 ∧ blocks = [blockOf s 1, blockOf s 2, blockOf s 3]) →
        let req := spdmOf 0x12 0xE0 1 index (bytesOf nonce ++ [0])
        let rsp := spdmOf 0x12 0x60 n 0
          ([BitVec.ofNat 8 blocks.length] ++ leBytes 3 blocks.flatten.length ++ blocks.flatten ++ own ++ [0, 0])
        exec (.getMeasurements p index nonce) s = .next (answered s32 p t
          (rsp ++ signedFor "responder-measurements signing" (t.vca ++ req ++ rsp)))) ∧
      (3 < index → index ≠ 255 → exec (.getMeasurements p index nonce) s =
        .next (answered s p t (spdmOf 0x12 0x7F 1 0 [])))) ∧
    (PortOpen s p →
      let req := spdmOf 0x12 0x83 0 0 (bytesOf nonce)
      let rsp := spdmOf 0x12 0x03 0 1 (digest ++ own ++ [0, 0])
      let u := answered s32 p { t with certs := [] }
        (rsp ++ signedFor "responder-challenge_auth signing" (t.vca ++ t.certs ++ req ++ rsp))
      let stateTo := fun (n : Nat) => vset s.links pl { vget s.links pl with state := n }
      let mine := tabulate 32 fun i => (Config.undefWord (s.free + 32 + i)).truncate 8
      (p = .host → ∀ peer, exec (.challenge .host nonce peer) s = .next u) ∧
      (p = .link pl → (vget s.links pl).state = 3 → ∀ peer, exec (.challenge (.link pl) nonce peer) s = .next u) ∧
      (p = .link pl → (vget s.links pl).state = 2 → ∀ peer,
        let v := (ownRequests peer mine).foldl (fun v m => v.emit (.spdm p m)) { u with free := s.free + 64 }
        (peerGood peer mine = true → exec (.challenge (.link pl) nonce peer) s = .next { v with links := stateTo 3 }) ∧
        (peerGood peer mine = false → ∀ w, s.swarm = some w → exec (.challenge (.link pl) nonce peer) s = .next { v with
          links := stateTo 4,
          frozen := s.frozen ++ [⟨6, pl, 1 + pl / 2, 0, (w.table[pl]?.getD none).getD 0, 0, 3, 0⟩] }))) ∧
    (∀ (peer : List (List Byte)) (mine : List Byte),
      let chain := ((peer.drop 4).dropLast).flatMap certPart
      let auth := peer.getLastD []
      let body := auth.take (auth.length - 64)
      let reqs := ownRequests peer mine
      (reqs.take 4 = [spdmOf 0x10 0x84 0 0 [], spdmOf 0x12 0xE1 0 0 (capsOf 0),
        spdmOf 0x12 0xE3 0 0 ([32, 0, 1, 0, 0, 4, 0, 0, 4, 0, 0, 0] ++ List.replicate 16 0), spdmOf 0x12 0x81 0 0 []] ∧
        reqs.getLast? = some (spdmOf 0x12 0x83 0 0 mine)) ∧
      (peerGood peer mine = true →
        6 ≤ peer.length ∧ (((peer[3]?.getD []).drop 4).take 64) = sha512 chain ∧ (body.drop 4).take 64 = sha512 chain ∧
        ∃ key, Config.chainKey chain = some key ∧ Ed.verify [] key
          (spdmSigned "responder-challenge_auth signing"
            (((reqs.dropLast.zip peer.dropLast).flatMap fun x => x.1 ++ x.2) ++ reqs.getLastD [] ++ body))
          (auth.drop (auth.length - 64)) = true)) ∧
    (¬ PortOpen s p → exec (.getDigests p) s = .next s ∧ exec (.getVersion p) s = .next s ∧
      exec (.getCertificate p 0 off len) s = .next s)

/-- R229, R230, R349, R351: a link goes down, trains and replays; an agent all of whose links have been down for 10 ms is
declared failed, and the others are told; a notice declares it at once and takes its links down; a failed agent is marked
down and a mailbox event posted; a failure of the host ends the swarm; when an agent rejoins its incarnation advances, after a
scrub where it would come back to that of the last scrub, which waits while a retraining window holds a line that names it.  The model's choices are that a down link trains again without
SWARM_SET (log entry 61), that the two recovery phases are part of the declaring step and that no line stays cached from a swarm
that ended (log entry 60), and that the incarnation of the last scrub is remembered, 0 at first (log entry 62). -/
def Obligations.LinksAndAgents : Prop :=
  ∀ (s : State) (pl a : Nat), pl < 12 →
    let l := vget s.links pl
    let link := fun (l : Link) => { s with links := vset s.links pl l }
    let up := l.state ≠ 0 ∧ l.state ≠ 5
    (up → exec (.linkDown pl) s = .next (link { l with state := 0, downAt := s.gtc.toNat }) ∧
      exec (.flitReplay pl) s = .next (link { l with replays := l.replays + 1 })) ∧
    ((l.state = 0 ∨ l.state = 1) → exec (.linkTrainingComplete pl) s = .next (link { l with state := 2 })) ∧
    (1 ≤ a → a < 8 → (agent s a).down = false → linksOf s a ≠ [] →
      ((∀ x ∈ linksOf s a, x.state = 0 ∧ x.downAt + 1000000 ≤ s.gtc.toNat) →
        exec (.agentFailed a) s = .next ((declareFailed s a).emit (.failure a))) ∧
      ((∃ x ∈ linksOf s a, x.state ≠ 0 ∨ s.gtc.toNat < x.downAt + 1000000) → exec (.agentFailed a) s = .next s)) ∧
    (1 ≤ a → a < 8 → agentPresent s a = true → (agent s a).down = false →
      ∃ t, exec (.failureNotice a) s = .next t ∧ (agent t a).down = true ∧
        ∀ w i, s.swarm = some w → i < 12 → w.table[i]?.getD none = some a → (vget t.links i).state = 0) ∧
    (∀ w, s.swarm = some w → ∃ t, exec (.agentFailed 0) s = .next t ∧ exec (.failureNotice 0) s = .next t ∧
      t.swarm = none ∧ (∀ i, i < 12 → (vget t.links i).state = 5) ∧ (agent t 0).down = true) ∧
    (∀ u : State, a < 8 → (declareFailed u a).mbox = { u.mbox with events := u.mbox.events ++ [a] } ∧
      (agent (declareFailed u a) a).down = true ∧
      (∀ d ∈ (declareFailed u a).slices, a ≠ 0 → paKind u (128 * d.1) ≠ .peer a) ∧
      (∀ r ∈ (declareFailed u a).reqs, ∀ what, r.2.kind ≠ .ext a what) ∧ ∀ x ∈ (declareFailed u a).snoops, x.agent ≠ a) ∧
    (1 ≤ a → a < 8 → (agent s a).down = true →
      let held := ∃ e ∈ s.ely, (elyAgents e.2).getLsbD a = true ∧ inWindow s e.1 = true
      ∃ t, exec (.agentRejoin a) s = .next t ∧
        ((agent s a).inc + 1 ≠ (agent s a).scrub → t = { s with
          agents := vset s.agents a { agent s a with inc := (agent s a).inc + 1, down := false } }) ∧
        ((agent s a).inc + 1 = (agent s a).scrub → held → agent t a = agent s a) ∧
        ((agent s a).inc + 1 = (agent s a).scrub → ¬ held →
          agent t a = { agent s a with inc := (agent s a).inc + 1, down := false, scrub := (agent s a).inc }))

/-! ## The platform -/

/-- R336, R337, R347, R352 to R357: power-on leads to the self-heat or to training, and these to mission mode; a module
reset gives the reset state with the firmware, a verified image having taken effect; a trip loses everything but the trip
record; a core's level, a die's throttle, a stack's refresh rate and a channel's windows change as their events say.  What a
reset and a trip keep of the firmware is log entry 59 (DEDUCED), what a function-level reset clears is log entry 51 (DEDUCED),
and sensor readings are free values (log entry 41); that a retraining window counts as over after 100 ticks, told or not, and that
ticks are those of the global counter, is log entry 63 (DEDUCED). -/
def Obligations.PlatformEvents : Prop :=
  ∀ (s : State) (core level die stack ch base : Nat) (temp : BitVec 16),
    let phase := fun (n : Nat) => { s with plat := { s.plat with phase := n } }
    let at_ := fun (n : Nat) (fw : Firmware) (t : Option TripRec) => { State.reset with
      tape := s.tape, free := s.free, cur := s.cur, nextId := s.nextId, fw := fw,
      plat := { State.reset.plat with phase := n, trip := t } }
    let c := s.core core
    let k := 32 * stack + ch
    let x := Store.getD (⟨none, none, 0, false, 0⟩ : Channel) s.plat.channels k
    let put := fun (y : Channel) => { s with plat := { s.plat with channels := Store.putD ⟨none, none, 0, false, 0⟩ s.plat.channels k y } }
    (s.plat.phase = 0 → ∃ t, exec .powerOn s = .next t ∧ t.gtc = 0 ∧
      (t.plat.phase = 1 ↔ ∃ i, i < 24 ∧ (Config.reading (s.free + i)).toInt < -160) ∧ (t.plat.phase ≠ 1 → t.plat.phase = 2)) ∧
    (s.plat.phase = 1 →
      let cold := ∃ i, i < 24 ∧ (Config.reading (s.free + i)).toInt < -160
      let read := { s with free := s.free + 24 }
      (cold → exec .selfHeatEnd s = .next read) ∧
      (¬ cold → exec .selfHeatEnd s = .next { read with plat := { s.plat with phase := 2 } })) ∧
    (s.plat.phase = 2 → exec .trainingComplete s = .next (phase 3)) ∧
    exec .moduleReset s = .next (at_ 0 { s.fw with
      staged := [], ready := none,
      running := match s.fw.ready with | some im => if imageOk s.fw im then im else s.fw.running | none => s.fw.running }
      (if s.plat.phase = 4 then s.plat.trip else none)) ∧
    (1 ≤ s.plat.phase → s.plat.phase ≤ 3 →
      (die < 8 → 1840 < temp.toInt →
        exec (.trip false die temp) s = .next (at_ 4 { s.fw with staged := [] } (some ⟨false, die, temp⟩))) ∧
      (stack < 16 → 1600 < temp.toInt →
        exec (.trip true stack temp) s = .next (at_ 4 { s.fw with staged := [] } (some ⟨true, stack, temp⟩)))) ∧
    (core < 384 →
      exec (.droopEvent core) s = .next (s.setCore core { c with droops := c.droops + 1 }) ∧
      (level ≤ 10 → s.plat.phase = 3 → (s.plat.throttled.getLsbD (core / 48) = false ∨ level = 0) →
        exec (.levelChange core level) s = .next (s.setCore core { c with level := level }))) ∧
    (die < 8 →
      (1600 < temp.toInt → Store.wf Core.init s.cores = true → ∃ t, exec (.junctionThrottle die temp) s = .next t ∧
        t.plat = { s.plat with throttled := s.plat.throttled ||| BitVec.ofNat 8 (2 ^ die) } ∧
        ∀ i, t.core i = if i / 48 = die then { s.core i with level := 0 } else s.core i) ∧
      (temp.toInt < 1520 → exec (.junctionFallsBelow95 die temp) s = .next { s with
        plat := { s.plat with throttled := s.plat.throttled &&& ~~~(BitVec.ofNat 8 (2 ^ die)) } })) ∧
    (stack < 16 → 1360 < temp.toInt → exec (.stackRefreshDouble stack temp) s = .next { s with
      plat := { s.plat with hotStacks := s.plat.hotStacks ||| BitVec.ofNat 16 (2 ^ stack) } }) ∧
    (stack < 16 → ch < 32 →
      (s.plat.phase = 3 → (∀ e ∈ s.plat.channels, e.1 / 32 = stack →
          e.2.window = none ∨ ∃ t, e.2.window = some t ∧ t + 100 ≤ s.gtc.toNat) →
        (x.last = none ∨ ∃ t, x.last = some t ∧ t + 200000000 ≤ s.gtc.toNat) →
        exec (.retrainingWindow stack ch) s = .next (put { x with
          window := some s.gtc.toNat, last := some s.gtc.toNat, windows := (x.windows + 1) % 2 ^ 32 })) ∧
      (x.window ≠ none →
        exec (.retrainingWindowEnd stack ch true) s = .next (put { x with window := none, fails := 0 }) ∧
        (x.fails ≠ 2 → exec (.retrainingWindowEnd stack ch false) s = .next (put { x with window := none, fails := x.fails + 1 })) ∧
        (x.fails = 2 → x.failed = false → exec (.retrainingWindowEnd stack ch false) s = .next (postFault
          (put { x with window := none, fails := 3, failed := true }) ⟨stack / 2, 3, 0, 0, 0, 0, 0⟩)))) ∧
    (s.launches = [] → exec .functionLevelReset s = .next (dropWriter (dropOlds
      { s with mbox := { s.mbox with code := .success, payload := [], bgDone := false, dbg := none, sync := none } } (2 ^ 42))
      .mailbox)) ∧
    (s.launches ≠ [] → exec .functionLevelReset s = .next s) ∧
    (base % 2 ^ 40 = 0 → 1 ≤ s.plat.phase → s.plat.phase ≤ 3 → exec (.hdmDecoderProgram base) s = .next { s with hdm := base })

/-! ## Encoding -/

/-- R53 to R66: a word written out from an instruction's encoding decodes to that instruction; these are the words that the
manual itself spells out, and a word of every lane family. -/
def Obligations.DecodeWords : Prop :=
  let c : Ctx := ⟨false, false, fun _ => some 4⟩
  let m : Mods := ⟨false, 0, false, false⟩
  decodeScalar c 0x0850FFE9 = .ok (.saddi 5 3 (-12) true) ∧
  decodeScalar c 0xA4028001 = .ok (.stgacq 10 0 true) ∧
  decodeScalar c 0xA802C002 = .ok (.stgrel 11 1 false) ∧
  decodeScalar c 0x80000001 = .ok (.lrun 0 true) ∧
  decodeScalar c 0x84000000 = .ok (.lsync false) ∧
  decodeScalar c 0xEC000000 = .ok (.sexit false) ∧
  decodeLane c 0x0CC1014181C20B0000000000 =
    .ok (.ffma ⟨false, 0, true, true⟩ .f32 .rne 4 5 (.v 6) (.v 7)) ∧
  decodeLane c 0x07C000000000010000000007 = .ok (.imovi { m with sw := true } .i32 0 7) ∧
  decodeLane c 0x004040100000008000000000 = .ok (.iadd m .i32 false 1 0 (.u (.k 0))) ∧
  decodeLane c 0x1D4000000000010000000000 = .ok (.lexit false true) ∧
  decodeScalar c 0 = .error (1, 26)

/-- R52 to R67: the word of a well-formed instruction decodes to it, in every context and with every operand at every value
that the encoding admits. -/
def Obligations.EncodedWordsDecode : Prop :=
  ∀ (c : Ctx) (i : Instr) (w : Word), i.wf c = true → encode i = some w → decode c w = .ok i

/-- R67: a word that decodes is the word of the instruction it decodes to, and that instruction is well-formed: no bit of a
word is ignored. -/
def Obligations.DecodedWordsEncode : Prop :=
  ∀ (c : Ctx) (i : Instr) (w : Word), decode c w = .ok i → i.wf c = true ∧ encode i = some w

/-! ## Steps -/

/-- R71: part j of the word at pc, as this step has it: fetched before, put off by the step's picks, or as the home holds it
(the key under which picks put parts off, 64 × 403, is the model's). -/
def partNow (g : Group) (picks : List (Nat × Mask)) (lane : Bool) (pc : Nat) (home : Nat → List Byte) (j : Nat) :
    Option (List Byte) :=
  match (g.str lane).parts.find? fun e => e.1 == pc + 4 * j with
  | some e => some e.2
  | none => if (pickMask picks (64 * 403)).getLsbD j then none else some (home j)

/-- A group with the kept parts of a stream's next word set. -/
def withParts (g : Group) (lane : Bool) (parts : List (Nat × List Byte)) : Group :=
  g.setStr lane { g.str lane with parts := parts }

/-- R29, R33, R52, R53, R71: a stream that may issue, and at whose word no breakpoint fires, fetches the word at its PC in
parts of 4 bytes, each at a time of its own, decodes it once all are there, and takes a step that is the meaning of the
instruction, or of the illegal-instruction trap where there is none; a step adds the debug traps of R324 around it.  An event
on the tape is its meaning, a view makes writes of the scalar stream visible to a block that runs or is queued, and a mailbox
opcode that is none of the table's returns Unsupported.  A scalar word at an address that is no multiple of 4 raises the
illegal-instruction trap, with reason 7: that is the model's reading (log entry 95: DEDUCED).  The model's choices: one step is one word or one event (log entry 5: DESIGN CHOICE); a lane
word that reads an S register which a scalar result from before the block's LRUN has yet to write waits for it (log entry 8:
DEDUCED from R31); the parts of a word kept apart (log entry 77: DEDUCED). -/
def Obligations.StepRunsDecoded : Prop :=
  ∀ (s : State) (g : Group) (gid : Nat) (picks : List (Nat × Mask)) (rest : List Act), s.grp gid = some g →
    Store.sorted s.groups = true →
    let s0 := { s with tape := rest, sent := [], cur := gid, picks := picks }
    let die := dieOf (coreOf gid)
    let asp := aspOf s g
    (∀ (lane : Bool) (pa : Nat → Nat) (home : Nat → List Byte), s.tape = .issue gid lane picks :: rest →
      canIssue s gid g lane = true → (lane = true → converged g = true) →
      let at_ := if lane then g.ctx.lpc else g.spc
      let pc := at_.toNat
      let n := if lane then 3 else 1
      breakSlot s gid g lane at_ = none → (lane = false → pc % 4 = 0) →
      let s1 := keepTrs s0 die asp ((List.range n).map fun j => pc + 4 * j)
      let s2 := (List.range n).foldl (fun s j => resolve s (pa j / 128)) s1
      (∀ j, j < n → (∃ e, translate s1 die asp (pc + 4 * j) .fetch = .ok (pa j) e) ∧ (paKind s1 (pa j)).line = true ∧
        ∃ bad, homeRead s2 (pa j) 4 = some (home j, bad)) →
      let got := (List.range n).filterMap fun j => (partNow g picks lane pc home j).map fun b => (pc + 4 * j, b)
      (got.length < n → step s = .next (s2.updGrp gid fun g => withParts g lane got)) ∧
      (got.length = n →
        let kept := (g.str lane).parts
        let s3 := if kept = [] then s2 else s2.updGrp gid fun g => withParts g lane []
        let g3 := if kept = [] then g else withParts g lane []
        let word := got.flatMap (·.2)
        let i := if lane then orIllegal true (decodeLane (groupCtx g) (ofBytes 96 word))
          else orIllegal false (decodeScalar (groupCtx g) (ofBytes 32 word))
        (lane = true → waitsS g i = true → step s = .next s3) ∧
        (lane = false ∨ waitsS g i = false →
          (∀ t, exec i s3 = .next t → step s = .next (settle g3 gid lane i t)) ∧
          ∀ f, exec i s3 = .fault f → step s = .fault f))) ∧
    (s.tape = .issue gid false picks :: rest → canIssue s gid g false = true → g.spc.toNat % 4 ≠ 0 →
      breakSlot s gid g false g.spc = none →
      let i := Instr.wordNotAnInstruction false 7 0
      ∀ t, exec i s0 = .next t → step s = .next (settle g gid false i t)) ∧
    (∀ i ps, s.tape = .event i ps :: rest → isEvent i = true →
      step s = exec i { s with tape := rest, sent := [], picks := ps }) ∧
    (∀ k block regs aregs, s.tape = .view k block regs aregs :: rest →
      step s = .next (({ s with tape := rest, sent := [] } : State).updGrp k fun g =>
        g.updBlock block (viewScalar g regs aregs))) ∧
    (∀ op, s.tape = .mailbox op :: rest → step s = .next (otherCommand { s with tape := rest, sent := [] } op))

/-- R33, R34, R86, R119: a word whose only effect is an outstanding result leaves every register, flag, counter, array
register and chain of its group as it is when it issues, and every byte of memory, every other group and everything else of
the machine; only the streams' positions, their results and the counter of ids move.  (Where it raises a trap instead, that
is another statement.) -/
def Claims.resultWord : Instr → Bool
  | .sadd .. | .ssub .. | .smul .. | .smulh .. | .sand .. | .sor .. | .sxor .. | .sshl .. | .sshr .. | .ssra ..
  | .smin .. | .smax .. | .smov .. | .saddi .. | .smuli .. | .sandi .. | .sori .. | .sxori .. | .smini .. | .smaxi ..
  | .sshli .. | .sshri .. | .ssrai .. | .slui .. | .smovi .. | .skmov .. | .aget .. | .srnggetLo .. | .srnggetHi ..
  | .srnggetTop .. | .iadd .. | .isub .. | .imul .. | .imulh .. | .imad .. | .iclamp .. | .imin .. | .imax .. | .iabs ..
  | .ineg .. | .iand .. | .ior .. | .ixor .. | .inot .. | .ishl .. | .ishr .. | .isra .. | .ibfx .. | .ibfi .. | .iclz ..
  | .ipopc .. | .ibrev .. | .icmp .. | .isel .. | .imov .. | .imovi .. | .icvt .. | .fadd .. | .fsub .. | .fmul ..
  | .ffma .. | .fmin .. | .fmax .. | .fcmp .. | .frcp .. | .frsq .. | .fsqrt .. | .fexp2 .. | .flog2 .. | .fdiv ..
  | .frnd .. | .fcvt .. | .fclass .. | .lmul .. | .lcvt .. | .pand .. | .por .. | .pxor .. | .pnot .. | .pmov ..
  | .exmget .. | .fxget .. | .xshfl .. | .xbcast .. | .xballot .. | .xvote .. | .xprefix .. | .xreduce .. => true
  | _ => false

def Obligations.ResultWordsChangeNothingElse : Prop :=
  ∀ (i : Instr) (s t : State) (g h : Group), Claims.resultWord i = true → Issues s g →
    Store.sorted s.groups = true → exec i s = .next t → t.grp s.cur = some h → h.trap = none → h.saved = g.saved →
      OnlyGroup s t ∧ SameRegisters g h

/-! ## Reset and invariants -/

/-- R10, R220, R322, R339: after reset the counter is 0, λ is 26, every die has its three features and every page is in
device bias; and, as the model chooses where the manual gives nothing (log entries 1 and 3), every line is UNCACHED, memory
reads as 0 and nothing is queued, resident or in flight.  The invariant of every step holds. -/
def Obligations.ResetState : Prop :=
  let s := State.reset
  s.gtc = 0 ∧ s.lam = 26 ∧ (∀ i, i < 8 → vget s.feat i = 7) ∧ (∀ a, lineState s a = .uncached) ∧
    s.groups = [] ∧ s.teams = [] ∧ s.launches = [] ∧ s.graphs = [] ∧ s.copies = [] ∧ s.attns = [] ∧ s.travs = [] ∧
    s.reqs = [] ∧ s.l1 = [] ∧ s.hostBias = [] ∧ s.frozen = [] ∧ s.plat.phase = 0 ∧ (∀ a, memByte s a = unlisted) ∧ Inv s

/-- R221, R223, R236: every step from every state keeps memory, check values, elytron bits, register files, scratchpads,
ACC, cores, placement counters and host-bias pages in their canonical form, groups, teams and slice lines under keys of
their own, and λ within the values that LEASE_SET admits.  What the canonical forms are is the model's own choice of data: a
list without the entries that read as its default (log entries 1 and 2: DESIGN CHOICE). -/
def Obligations.StepKeepsInvariant : Prop :=
  ∀ s t : State, Inv s → step s = .next t → Inv t

/-- R37: EXM is always a subset of the live mask: every step from a state in which it is one of every resident group's
leads to such a state. -/
def Obligations.StepKeepsMaskLive : Prop :=
  ∀ s t : State, (∀ e ∈ s.groups, e.2.ctx.exm &&& ~~~e.2.live = 0) → step s = .next t →
    ∀ e ∈ t.groups, e.2.ctx.exm &&& ~~~e.2.live = 0

/-! ## Statements of several clauses -/

/-- R33, R86, R94 to R97, R99, R100, R102, R144, R147, R148: the scalar words that compute or load a value write it, with its
shadow, to s[d]; branches and jumps go where they say; some words change a shadow or an array register at once. -/
def Obligations.ScalarResults : Prop :=
  Claims.ScalarRegisterResults ∧ Claims.ScalarImmediateResults ∧ Claims.ScalarConstantResults ∧ Claims.ScalarJumps ∧
    Claims.ScalarShadowWords ∧ Claims.ArrayRegisterWrites

/-- R33, R65, R86, R90, R119: what changes when an outstanding result returns, and that nothing else does. -/
def Obligations.ResultsLand : Prop :=
  Claims.ScalarResultLands ∧ Claims.LaneResultLands ∧ Claims.PredicateAndFlagResultsLand

/-- R10, R88, R91, R92, R319: what SMFS reads and what SMTS writes. -/
def Obligations.SystemRegisters : Prop :=
  Claims.SystemRegisterReads ∧ Claims.SystemRegisterWrites

/-- R103, R247: what SLD and SST do. -/
def Obligations.ScalarMemoryWords : Prop :=
  Claims.ScalarLoads ∧ Claims.ScalarStores

/-- R28 to R32, R93, R104: a lane block from its LRUN to the LSYNC that waits for it. -/
def Obligations.BlocksRun : Prop :=
  Claims.LrunQueuesBlock ∧ Claims.LaneBlocks

/-- R106, R114, R285, R298: TCOPY, ATTN, TVLAYOUT and TASK hand their work to an engine or a walker. -/
def Obligations.CommandsAreGiven : Prop :=
  Claims.TcopyQueuesSlice ∧ Claims.AttnGivesCommand ∧ Claims.TvlayoutSetsSlot ∧ Claims.TaskStartsGraph

/-- R107 to R109, R115, R118, R141, R164, R253, R283: the waits of both streams, and how they end; SNOP and the fences. -/
def Obligations.WaitsEnd : Prop :=
  Claims.CounterWaits ∧ Claims.LaneCounterWait ∧ Claims.MwaitReadsStamp ∧ Claims.FencesAndNop

/-- R42, R110 to R113: barriers, stages and quotas. -/
def Obligations.TeamsSynchronise : Prop :=
  Claims.Barriers ∧ Claims.StageRings ∧ Claims.Quotas

/-- R67, R116, R316 to R319: how a trap is taken, by TRAP, BRK and a word that is none among others, and what a second
one does. -/
def Obligations.TrapsAreTaken : Prop :=
  Claims.TrapWordsEnterHandler ∧ Claims.TrapWaitsForResults ∧ Claims.DoubleTrapEndsTeam

/-- R117, R118, R321: ERET and SEXIT. -/
def Obligations.HandlersAndGroupsEnd : Prop :=
  Claims.EretReturns ∧ Claims.SexitEndsGroups

/-- R29, R38 to R40, R134 to R139: branches, jumps, calls, joins, the entries that they spill and bring back, and the ends of
lanes and blocks. -/
def Obligations.LaneControlFlow : Prop :=
  Claims.LbrcBranches ∧ Claims.LaneJumps ∧ Claims.StackSpills ∧ Claims.LaneEnds

/-- R44 to R46, R140: threads are spawned into bins, and bins become groups. -/
def Obligations.SpawnedGroups : Prop :=
  Claims.SpawnPlacesThreads ∧ Claims.BinsBecomeGroups

/-- R25, R276, R277: the distributor places teams, and reserves for one that waits. -/
def Obligations.TeamsArePlaced : Prop :=
  Claims.TeamPlacementStartsGroups ∧ Claims.TeamBecomesReserving

/-- R122, R123: logic, shifts, counts and bit fields.  That a quota trap names the lowest of several registers is log entry 68
(DEDUCED). -/
def Obligations.LaneBitWords : Prop :=
  Claims.LaneLogicAndShifts ∧ Claims.LaneBitFields

/-- R126 to R128, R147: shadows, predicates, EXM and FX.  That a quota trap names the lowest of several registers is log entry 68
(DEDUCED). -/
def Obligations.LaneShadowAndMaskWords : Prop :=
  Claims.LaneShadowWords ∧ Claims.PredicateMaskAndFlagWords

/-- R129 to R133, R173: shuffles, votes and scans.  That a quota trap names the lowest of several registers is log entry 68
(DEDUCED). -/
def Obligations.LaneExchange : Prop :=
  Claims.LaneShufflesAndVotes ∧ Claims.LaneScans

/-- R189, R192, R193, R195, R196: chains and what MMA adds in them.  That a quota trap names the lowest of several registers is log entry 68
(DEDUCED). -/
def Obligations.MatrixWords : Prop :=
  Claims.MatrixChains ∧ Claims.MatrixMultiply

/-- R301, R303, R306 to R311: the words that start traversals, answer their visits and ask about them.  That a quota trap names the lowest of several registers is log entry 68
(DEDUCED). -/
def Obligations.TraversalInstructions : Prop :=
  Claims.TraversalIds ∧ Claims.TraversalsStart ∧ Claims.TraversalWords

/-- R162, R221, R222, R228, R229, R234, R240, R241, R243: what homes do to atomics, leases, slices, replicas, and
lines of lost owners.  The address that the message of a host line's eviction carries is log entry 52 (DESIGN CHOICE). -/
def Obligations.HomesServe : Prop :=
  Claims.HomesAct ∧ Claims.LostOwnersGiveWay

/-- R228, R237, R338, R349, R351, R355: peers as requesters and as owners.  Poisoned replies to a frozen or denied peer are log
entry 54 (DEDUCED), and that an owner which requests its own line is snooped is log entry 52 (DEDUCED). -/
def Obligations.PeersAndHomes : Prop :=
  Claims.PeersAreServed ∧ Claims.PeersAnswer

/-- R155, R220, R231, R239, R241, R319, R322, R328, R341, R342, R345, R349, R350, R352: when the mailbox answers, and what
its settings do.  That another command given while a DEBUG or RESYNC is under way leaves the state as it is, is log entry 76
(DEDUCED). -/
def Obligations.MailboxSettings : Prop :=
  Claims.MailboxGate ∧ Claims.SettingsTakeEffect

/-- R347, R348: firmware is staged and checked; the module proves what it is.  Where the public key lies in an image is open
(log entry 40: DESIGN CHOICE), and so is the key that a peer's certificate chain certifies (log entry 42: DESIGN CHOICE). -/
def Obligations.FirmwareAndIdentity : Prop :=
  Claims.FirmwareIsStaged ∧ Claims.IdentityIsProved

/-! ## Statements of whole rules -/

/-- R96: SLUI and SMOVI load constants and set exact shadows: their words are op 0x0C and 0x0D in format SU, SLUI writes
imm19 × 2^13 and SMOVI imm19 sign-extended from bit 18, a value from −262,144 to 262,143. -/
def Obligations.ConstantWords : Prop :=
  ∀ (s : State) (g : Group) (d : BitVec 6) (imm : BitVec 19) (sw : Bool),
    let word := fun (op : Nat) => BitVec.ofNat 32 (op * 2 ^ 26 + d.toNat * 2 ^ 20 + imm.toNat * 2 + sw.toNat)
    let lands := fun (i : Instr) (v : W32) =>
      exec i s = .next (scalarAfter s g .plain [wSreg g d v (.itv v.toInt v.toInt)] (g.spc + 4) sw)
    encode (.slui d imm sw) = some (.scalar (word 0x0C)) ∧ encode (.smovi d imm sw) = some (.scalar (word 0x0D)) ∧
    (Issues s g → g.sc.full = false →
      lands (.slui d imm sw) (BitVec.ofNat 32 (imm.toNat * 2 ^ 13)) ∧
      lands (.smovi d imm sw) (BitVec.ofInt 32 imm.toInt)) ∧
    -262144 ≤ imm.toInt ∧ imm.toInt ≤ 262143

/-- R100: SKMOV is op 0x18 in format SR with n in field a; it sets s[d] := k[n] and shadow[d] := [k[n], k[n]]; an a field
above 15 is reason 5. -/
def Obligations.UniformRegisterMove : Prop :=
  ∀ (s : State) (g : Group) (c : Ctx) (d a : BitVec 6) (n : BitVec 4) (sw : Bool),
    let word := fun (a : Nat) => BitVec.ofNat 32 (0x18 * 2 ^ 26 + d.toNat * 2 ^ 20 + a * 2 ^ 14 + sw.toNat)
    let v := vget g.k n.toNat
    encode (.skmov d n sw) = some (.scalar (word n.toNat)) ∧ decode c (.scalar (word n.toNat)) = .ok (.skmov d n sw) ∧
    (Issues s g → g.sc.full = false →
      exec (.skmov d n sw) s = .next (scalarAfter s g .plain [wSreg g d v (.itv v.toInt v.toInt)] (g.spc + 4) sw)) ∧
    (15 < a.toNat → decode c (.scalar (word a.toNat)) = .error (5, 14))

/-! ## Shadows cover their registers -/

/-- A shadow covers a value read as signed (R142). -/
def covers (sh : Shadow) (v : W32) : Prop :=
  match sh with
  | .top => True
  | .itv lo hi => lo ≤ v.toInt ∧ v.toInt ≤ hi

/-- Endpoints made a shadow: TOP where they do not fit, or are the whole range (R142, R144). -/
def between (lo hi : Int) : Shadow :=
  if lo < -2147483648 ∨ 2147483647 < hi ∨ (lo = -2147483648 ∧ hi = 2147483647) then .top else .itv lo hi

/-- The bounds of a shadow, TOP read as F. -/
def bounds (x : Shadow) : Int × Int := match x with | .top => (-2147483648, 2147483647) | .itv lo hi => (lo, hi)

/-- A shadow is not TOP and its lower bound is at least 0. -/
def isNonneg (x : Shadow) : Prop := x ≠ .top ∧ 0 ≤ (bounds x).1

/-- Every shadow that the scalar stream, the running block or a queued one can read covers its register's value, and so does
that of every outstanding write to an S register; a block has 64 of each. -/
def SCovered (g : Group) : Prop :=
  (∀ k, k < 72 → covers (g.sAt k).2 (g.sAt k).1) ∧
  (∀ p ∈ g.sc.out, ∀ k v sh o, PWrite.s k v sh o ∈ p.writes → k < 72 ∧ covers sh v) ∧
  (∀ e ∈ g.pub, e.1 < 72 ∧ covers e.2.2 e.2.1) ∧
  ∀ b, (g.ctx.running = some b ∨ b ∈ g.ctx.queue) → b.sv.length = 64 ∧ b.ssh.length = 64 ∧
    ∀ n, n < 64 → covers (nthD .top b.ssh n) (nthD 0 b.sv n)

/-- R98: the shadows that a branch leaves, by the relation that holds on the path it follows; one register named twice keeps
its shadow, and so does a register whose write is outstanding. -/
def Claims.BranchesRefine : Prop :=
  ∀ (x y : Shadow) (u v : W32) (g : Group) (a b : BitVec 6) (r : Shadow.Rel)
      (picks : List (Nat × Mask)), covers x u → covers y v →
    let al := (bounds x).1
    let ah := (bounds x).2
    let bl := (bounds y).1
    let bh := (bounds y).2
    let cut := fun (lo hi l h : Int) => between (max lo l) (min hi h)
    Shadow.refine .lt x y = (cut al ah (-2147483648) (bh - 1), cut bl bh (al + 1) 2147483647) ∧
    Shadow.refine .ge x y = (cut al ah bl 2147483647, cut bl bh (-2147483648) ah) ∧
    Shadow.refine .eq x y = (cut al ah bl bh, cut bl bh al ah) ∧
    Shadow.refine .ne x y = (x, y) ∧
    (isNonneg y → (Shadow.refine .ltu x y).1 = cut al ah 0 (bh - 1)) ∧
    (¬ isNonneg y → (Shadow.refine .ltu x y).1 = x) ∧
    (isNonneg x → isNonneg y → (Shadow.refine .ltu x y).2 = cut bl bh (al + 1) 2147483647 ∧
      (Shadow.refine .geu x y).1 = cut al ah bl 2147483647) ∧
    (¬ (isNonneg x ∧ isNonneg y) → (Shadow.refine .ltu x y).2 = y ∧ (Shadow.refine .geu x y).1 = x) ∧
    (isNonneg x → (Shadow.refine .geu x y).2 = cut bl bh 0 ah) ∧ (¬ isNonneg x → (Shadow.refine .geu x y).2 = y) ∧
    ((match r with
        | .lt => u.toInt < v.toInt
        | .ge => v.toInt ≤ u.toInt
        | .eq => u = v
        | .ne => u ≠ v
        | .ltu => u.toNat < v.toNat
        | .geu => v.toNat ≤ u.toNat) →
      covers (Shadow.refine r x y).1 u ∧ covers (Shadow.refine r x y).2 v) ∧
    (∀ c, Shadow.SCondRel c true = (match c with | .eq => .eq | .ne => .ne | .lt => .lt | .ge => .ge | .ltn => .ltu | .gen => .geu) ∧
      Shadow.SCondRel c false = (match c with | .eq => .ne | .ne => .eq | .lt => .ge | .ge => .lt | .ltn => .geu | .gen => .ltu)) ∧
    refineS picks g r a.toNat a.toNat x y = g ∧
    (a ≠ b → let h := refineS picks g r a.toNat b.toNat x y
      let was := fun (n : Nat) => sHeld picks g (g.sKey n)
      let new := fun (n : Nat) (sh : Shadow) => if sOut g.sc.out (g.sKey n) = [] then sh else (was n).2
      sHeld picks h (g.sKey a.toNat) = ((was a.toNat).1, new a.toNat (Shadow.refine r x y).1) ∧
      sHeld picks h (g.sKey b.toNat) = ((was b.toNat).1, new b.toNat (Shadow.refine r x y).2) ∧
      ∀ k, k < 72 → k ≠ g.sKey a.toNat → k ≠ g.sKey b.toNat → sHeld picks h k = sHeld picks g k ∧ h.sAt k = g.sAt k)

/-- R144, R145: the row of each integer instruction gives the new shadow from those of its operands, exact endpoints being
kept, clamped to I32, or clamped to N32. -/
def Claims.ShadowRows : Prop :=
  ∀ (x y z : Shadow) (al ah bl bh cl ch : Int) (f : Shadow.Fit),
    let ends := fun (lo hi : Int) => match f with
      | .wrap => between lo hi
      | .satI => between (max (-2147483648) (min lo 2147483647)) (max (-2147483648) (min hi 2147483647))
      | .satN => between (max 0 (min lo 4294967295)) (max 0 (min hi 4294967295))
    let pl := min (min (al * bl) (al * bh)) (min (ah * bl) (ah * bh))
    let ph := max (max (al * bl) (al * bh)) (max (ah * bl) (ah * bh))
    let exact := fun (n : Int) => Shadow.itv n n
    (x = .itv al ah → y = .itv bl bh →
      x.add f y = ends (al + bl) (ah + bh) ∧ x.sub f y = ends (al - bh) (ah - bl) ∧ x.mul f y = ends pl ph ∧
      (z = .itv cl ch → (f ≠ .wrap ∨ between pl ph ≠ .top) → x.mad f y z = ends (pl + cl) (ph + ch)) ∧
      (f = .wrap → between pl ph = .top → x.mad f y z = .top) ∧
      (0 ≤ bl → bh ≤ 31 → 0 ≤ al → x.shr y = between (al / 2 ^ bh.toNat) (ah / 2 ^ bl.toNat)) ∧
      (0 ≤ bl → bh ≤ 31 → x.sra y = between (al / 2 ^ (if 0 ≤ al then bh else bl).toNat)
        (ah / 2 ^ (if 0 ≤ ah then bl else bh).toNat))) ∧
    (x = .top ∨ y = .top → x.add f y = .top ∧ x.sub f y = .top ∧ x.mul f y = .top ∧ x.mad f y z = .top) ∧
    (z = .top → x.mad f y z = .top) ∧
    x.smin y = between (min (bounds x).1 (bounds y).1) (min (bounds x).2 (bounds y).2) ∧
    x.smax y = between (max (bounds x).1 (bounds y).1) (max (bounds x).2 (bounds y).2) ∧
    x.clamp y z = between (min (max (bounds x).1 (bounds y).1) (bounds z).1) (min (max (bounds x).2 (bounds y).2) (bounds z).2) ∧
    (isNonneg x → isNonneg y → x.sand y = .itv 0 (min (bounds x).2 (bounds y).2)) ∧
    (isNonneg x → ¬ isNonneg y → x.sand y = .itv 0 (bounds x).2) ∧
    (¬ isNonneg x → isNonneg y → x.sand y = .itv 0 (bounds y).2) ∧ (¬ isNonneg x → ¬ isNonneg y → x.sand y = .top) ∧
    (∀ n, 0 ≤ n → n ≤ 31 → x.shl (exact n) =
      if x = .top then .top else between ((bounds x).1 * 2 ^ n.toNat) ((bounds x).2 * 2 ^ n.toNat)) ∧
    (∀ n, (n < 0 ∨ 32 ≤ n) → x.shl (exact n) = .itv 0 0 ∧ x.shr (exact n) = .itv 0 0 ∧
      x.sra (exact n) = if x = .top then .top else between ((bounds x).1 / 2 ^ 31) ((bounds x).2 / 2 ^ 31)) ∧
    ((y = .top ∨ y = .itv bl bh ∧ bl ≠ bh) → x.shl y = .top) ∧
    ((y = .top ∨ y = .itv bl bh ∧ bl < bh ∧ (bl < 0 ∨ 31 < bh)) → x.shr y = .top ∧ x.sra y = .top) ∧
    (¬ isNonneg x → (∀ n, y ≠ exact n ∨ 0 ≤ n ∧ n ≤ 31) → x.shr y = .top) ∧
    (x = .top → x.sra y = .top) ∧
    (x.join y = if x = .top ∨ y = .top then .top else between (min (bounds x).1 (bounds y).1) (max (bounds x).2 (bounds y).2))

/-- R142, R144, R145: where the operands' shadows cover their values, the new shadow covers the result: of the scalar words,
and of the lane words of I32 and N32. -/
def Claims.RowsCover : Prop :=
  ∀ (X Y Z : Shadow) (x y z : W32) (ty : Ty) (sat : Bool), covers X x → covers Y y → covers Z z → ty = .i32 ∨ ty = .n32 →
    let f := fitOf ty sat
    let n := fun (v : W32) => typed ty v.toNat
    let lane := fun (ops : List Shadow) (sh : Shadow) (r : Int) => covers (laneShadow ty sat ops sh) (BitVec.ofNat 32 (stored ty sat r))
    let other := fun (ops : List Shadow) (sh : Shadow) (r : Int) => covers (nShadow ty ops sh) (BitVec.ofNat 32 (stored ty false r))
    let far := decide (32 ≤ y.toNat)
    covers (X.add .wrap Y) (x + y) ∧ covers (X.sub .wrap Y) (x - y) ∧ covers (X.mul .wrap Y) (x * y) ∧
    covers (X.sand Y) (x &&& y) ∧ covers (X.shl Y) (if far then 0 else x <<< y.toNat) ∧
    covers (X.shr Y) (if far then 0 else x >>> y.toNat) ∧
    covers (X.sra Y) (if far then (if x.msb then -1 else 0) else x.sshiftRight y.toNat) ∧
    covers (X.smin Y) (BitVec.ofInt 32 (min x.toInt y.toInt)) ∧ covers (X.smax Y) (BitVec.ofInt 32 (max x.toInt y.toInt)) ∧
    lane [X, Y] (X.add f Y) (n x + n y) ∧ lane [X, Y] (X.sub f Y) (n x - n y) ∧ lane [X, Y] (X.mul f Y) (n x * n y) ∧
    lane [X, Y, Z] (X.mad f Y Z) (n x * n y + n z) ∧
    other [X, Y] (X.smin Y) (min (n x) (n y)) ∧ other [X, Y] (X.smax Y) (max (n x) (n y)) ∧
    other [X, Y, Z] (X.clamp Y Z) (min (max (n x) (n y)) (n z)) ∧
    covers (X.join Y) x ∧ covers (X.join Y) y

/-- The scalar words that write S registers from S registers, constants and shadows, and those that branch. -/
def shadowWord : Instr → Bool
  | .sadd .. | .ssub .. | .smul .. | .smulh .. | .sand .. | .sor .. | .sxor .. | .sshl .. | .sshr .. | .ssra ..
  | .smin .. | .smax .. | .smov .. | .saddi .. | .smuli .. | .sandi .. | .sori .. | .sxori .. | .smini .. | .smaxi ..
  | .sshli .. | .sshri .. | .ssrai .. | .slui .. | .smovi .. | .skmov .. | .aget .. | .srnggetLo .. | .srnggetHi ..
  | .srnggetTop .. | .swiden .. | .srange .. | .sb .. | .sj .. | .sjal .. | .sjr .. | .snop .. => true
  | _ => false

/-- R31, R98, R142, R143: every shadow of an S register covers its value, as either stream finds it: the scalar words, the
return of a plain result and the views that a block has of the scalar stream keep that. -/
def Claims.ScalarShadowsCover : Prop :=
  ∀ (s t : State) (g h : Group) (i : Instr) (gid k : Nat) (keep late : Mask) (regs : Mask) (aregs : BitVec 16), SCovered g →
    (∀ picks, k < 72 → covers (sHeld picks g k).2 (sHeld picks g k).1) ∧
    (shadowWord i = true → Issues s g → exec i s = .next t → t.grp s.cur = some h → h.trap = none → h.saved = g.saved →
      SCovered h) ∧
    (∀ p, s.grp gid = some g → g.trap = none → g.sc.out[k]? = some p → p.kind = .plain → p.bad = 0 →
      (∀ w ∈ p.writes, ∃ r v sh o, w = .s r v sh o) →
      exec (.resultReturn gid false k keep late) s = .next t → t.grp gid = some h → SCovered h) ∧
    SCovered (g.updBlock k (viewScalar g regs aregs))

/-- R98, R142 to R145: the new shadow of every integer instruction and of every branch, and that shadows cover. -/
def Obligations.ShadowsCover : Prop :=
  Claims.BranchesRefine ∧ Claims.ShadowRows ∧ Claims.RowsCover ∧ Claims.ScalarShadowsCover

/-! ## Exact results -/

/-- The value of a finite operand. -/
def valueOf (x : Fv) : ℚ :=
  match x with
  | .fin neg m e => (if neg then -1 else 1) * m * 2 ^ e
  | _ => 0

/-- An operand is finite. -/
def IsFinite (x : Fv) : Prop :=
  match x with
  | .fin _ _ _ => True
  | .zero _ => True
  | _ => False

/-- The value of a magnitude pattern of a format, the exponent unbounded above (R165, R169). -/
def magnitude (f : Fmt) (k : Nat) : ℚ :=
  if k < 2 ^ f.mb then k * 2 ^ f.qmin else (2 ^ f.mb + k % 2 ^ f.mb : Nat) * 2 ^ (f.qmin + (k / 2 ^ f.mb : Nat) - 1)

/-- R169: k is X rounded to a grid of magnitudes: the neighbour below or above the exact magnitude, as the mode says. -/
def RoundsTo (grid : Nat → ℚ) (rm : Rm) (X : ℝ) (k : Nat) : Prop :=
  ∃ lo : Nat, (grid lo : ℝ) ≤ |X| ∧ |X| < grid (lo + 1) ∧ (|X| = grid lo → k = lo) ∧
    ((grid lo : ℝ) < |X| →
      let near := fun (tie : Prop) => (k = lo ∨ k = lo + 1) ∧ (2 * |X| < (grid lo : ℝ) + grid (lo + 1) → k = lo) ∧
        ((grid lo : ℝ) + grid (lo + 1) < 2 * |X| → k = lo + 1) ∧ (2 * |X| = (grid lo : ℝ) + grid (lo + 1) → tie)
      match rm with
      | .rz => k = lo
      | .ru => (0 < X → k = lo + 1) ∧ (X < 0 → k = lo)
      | .rd => (0 < X → k = lo) ∧ (X < 0 → k = lo + 1)
      | .rna => near (k = lo + 1)
      | _ => near (k % 2 = 0))

/-- R169, R170, R172: the exact nonzero X rounded once to a format and delivered: the overflow's pattern with of and nx; a tiny
result flushed by ftzo with uf and nx; or the rounded value, nx where it differs from X, uf too where it is tiny then. -/
def Delivered (f : Fmt) (ftzo : Bool) (rm : Rm) (X : ℝ) (overR : Bool → Nat) (r : Nat × BitVec 6) : Prop :=
  ∃ (neg : Bool) (k : Nat), (neg = true ↔ X < 0) ∧ RoundsTo (magnitude f) rm X k ∧
    (f.maxMag < k → r = (overR neg, 20)) ∧
    (k ≤ f.maxMag → k < 2 ^ f.mb → ftzo = true → r = (f.pack neg 0, 24)) ∧
    (k ≤ f.maxMag → (2 ^ f.mb ≤ k ∨ ftzo = false) →
      (|X| = magnitude f k → r = (f.pack neg k, 0)) ∧
      (|X| ≠ magnitude f k → r = (f.pack neg k, if k < 2 ^ f.mb then 24 else 16)))

/-- R169: what an overflow delivers. -/
def overflowed (f : Fmt) (rm : Rm) (neg : Bool) : Nat :=
  f.pack neg (match rm, neg with
    | .rz, _ => f.maxMag
    | .ru, true => f.maxMag
    | .rd, false => f.maxMag
    | _, _ => f.infMag)

/-- R165, R167: the formats' parameters: fraction bits, width, exponent of the last place of a subnormal, and the patterns of
the largest finite value, of infinity and of the canonical NaN. -/
def Claims.Formats : Prop :=
  let is := fun (f : Fmt) (mb w : Nat) (qmin : Int) (big inf nan : Nat) =>
    f.mb = mb ∧ f.w = w ∧ f.qmin = qmin ∧ f.maxMag = big ∧ (f.ieee = true → f.infMag = inf) ∧ f.nan = nan ∧
      ∀ neg mag, f.pack neg mag = (if neg then 2 ^ (w - 1) else 0) + mag
  is fmtF32 23 32 (-149) 0x7F7FFFFF 0x7F800000 0x7FC00000 ∧ is fmtF16 10 16 (-24) 0x7BFF 0x7C00 0x7E00 ∧
    is fmtBF16 7 16 (-133) 0x7F7F 0x7F80 0x7FC0 ∧ is fmtE5M2 2 8 (-16) 0x7B 0x7C 0x7E ∧ is fmtE4M3 3 8 (-9) 0x7E 0 0x7F ∧
    fmtE4M3.ieee = false ∧ fmtE5M2.ieee = true

/-- R165, R170: what a pattern of F32, F16, BF16 or E5M2 reads as. -/
def Claims.PatternsRead : Prop :=
  ∀ (f : Fmt) (daz : Bool) (p : Nat), f = fmtF32 ∨ f = fmtF16 ∨ f = fmtBF16 ∨ f = fmtE5M2 →
    let x := f.read daz p
    let mag := p % 2 ^ (f.w - 1)
    let neg := decide (p / 2 ^ (f.w - 1) % 2 = 1)
    let flushed := mag = 0 ∨ daz = true ∧ mag < 2 ^ f.mb
    (f.infMag < mag → x = .nan (decide (p / 2 ^ (f.mb - 1) % 2 = 0))) ∧ (mag = f.infMag → x = .inf neg) ∧
    (flushed → x = .zero neg) ∧
    (mag < f.infMag → ¬ flushed → ∃ m e, x = .fin neg m e ∧ 0 < m ∧ |valueOf x| = magnitude f mag)

/-- R169 to R172, R175, R178: sums, products, fused sums, quotients and roots of operands as read from F32, F16 or BF16: the
exact result rounded once, or the NaN, infinity or zero of their tables with its flag. -/
def Claims.ArithmeticIsExact : Prop :=
  ∀ (f : Fmt) (v : Fenv) (a b c : Nat), f = fmtF32 ∨ f = fmtF16 ∨ f = fmtBF16 → v.rm ≠ .mode →
    let x := f.read v.daz a
    let y := f.read v.daz b
    let z := f.read v.daz c
    let X : ℝ := valueOf x
    let Y : ℝ := valueOf y
    let Z : ℝ := valueOf z
    let gives := fun (E : ℝ) (r : Nat × BitVec 6) => Delivered f v.ftzo v.rm E (overflowed f v.rm) r
    let nan := fun (sig : Bool) => ((f.nan, if sig then 1 else 0) : Nat × BitVec 6)
    let inf := fun (neg : Bool) => ((f.pack neg f.infMag, 0) : Nat × BitVec 6)
    let zero := fun (neg : Bool) => ((f.pack neg 0, 0) : Nat × BitVec 6)
    let down := v.rm == .rd
    let sign := x.neg != y.neg
    let sum := fun (p q : Fv) (r : Nat × BitVec 6) =>
      (p.isNan = true ∨ q.isNan = true → r = nan (p.isSig || q.isSig)) ∧
      (∀ i j, p = .inf i → q = .inf j → r = if i = j then inf i else nan true) ∧
      (∀ i, p = .inf i → IsFinite q → r = inf i) ∧ (∀ i, IsFinite p → q = .inf i → r = inf i) ∧
      (IsFinite p → IsFinite q → let E : ℝ := (valueOf p : ℝ) + (valueOf q : ℝ)
        (E ≠ 0 → gives E r) ∧ (E = 0 → r = zero (if p.neg = q.neg then p.neg else down)))
    let quotient := fun (p q : Fv) (s : Bool) (r : Nat × BitVec 6) =>
      (p.isNan = true ∨ q.isNan = true → r = nan (p.isSig || q.isSig)) ∧
      (∀ i j, p = .inf i → q = .inf j → r = nan true) ∧ (∀ i j, p = .zero i → q = .zero j → r = nan true) ∧
      (∀ i, p = .inf i → IsFinite q → r = inf s) ∧ (∀ i, IsFinite p → q = .inf i → r = zero s) ∧
      (∀ i, p = .zero i → valueOf q ≠ 0 → r = zero s) ∧
      (∀ i, valueOf p ≠ 0 → q = .zero i → r = (f.pack s f.infMag, 2)) ∧
      (valueOf p ≠ 0 → valueOf q ≠ 0 → gives ((valueOf p : ℝ) / (valueOf q : ℝ)) r)
    sum x y (f.addV v x y) ∧ sum x y.flip (f.addV v x y.flip) ∧
    ((y.isNan = true → y.flip = y) ∧ (∀ i, y = .inf i → y.flip = .inf !i) ∧
      (IsFinite y → IsFinite y.flip ∧ valueOf y.flip = -valueOf y ∧ y.flip.neg = !y.neg)) ∧
    (let r := f.mulV v x y
     (x.isNan = true ∨ y.isNan = true → r = nan (x.isSig || y.isSig)) ∧
     (∀ i j, (x = .zero i ∧ y = .inf j) ∨ (x = .inf i ∧ y = .zero j) → r = nan true) ∧
     (∀ i, (x = .inf i ∧ (valueOf y ≠ 0 ∨ ∃ j, y = .inf j)) ∨ (y = .inf i ∧ valueOf x ≠ 0) → r = inf sign) ∧
     (IsFinite x → IsFinite y → (X * Y ≠ 0 → gives (X * Y) r) ∧ (X * Y = 0 → r = zero sign))) ∧
    (let r := f.fmaV v x y z
     let infinite := (∃ i j, x = .inf i ∧ y = .inf j) ∨ (∃ i, x = .inf i ∧ valueOf y ≠ 0) ∨ ∃ i, y = .inf i ∧ valueOf x ≠ 0
     (x.isNan = true ∨ y.isNan = true → r = nan (x.isSig || y.isSig || z.isSig)) ∧
     (∀ i j, (x = .zero i ∧ y = .inf j) ∨ (x = .inf i ∧ y = .zero j) → r = nan true) ∧
     (infinite ∨ IsFinite x ∧ IsFinite y → z.isNan = true → r = nan z.isSig) ∧
     (infinite → IsFinite z → r = inf sign) ∧ (infinite → ∀ i, z = .inf i → r = if sign = i then inf i else nan true) ∧
     (IsFinite x → IsFinite y → ∀ i, z = .inf i → r = inf i) ∧
     (IsFinite x → IsFinite y → IsFinite z → (X * Y + Z ≠ 0 → gives (X * Y + Z) r) ∧
       (X * Y + Z = 0 → r = zero (if sign = z.neg then sign else down)))) ∧
    quotient x y sign (f.divV v x y) ∧
    ((x.isNan = true → f.rcpV v x = nan x.isSig) ∧ (∀ i, x = .zero i → f.rcpV v x = (f.pack i f.infMag, 2)) ∧
      (∀ i, x = .inf i → f.rcpV v x = zero i) ∧ (X ≠ 0 → gives (1 / X) (f.rcpV v x))) ∧
    ((x.isNan = true → f.sqrtV v x = nan x.isSig ∧ f.rsqV v x = nan x.isSig) ∧
      (X < 0 ∨ x = .inf true → f.sqrtV v x = nan true ∧ f.rsqV v x = nan true) ∧
      (∀ i, x = .zero i → f.sqrtV v x = zero i ∧ f.rsqV v x = (f.pack i f.infMag, 2)) ∧
      (x = .inf false → f.sqrtV v x = inf false ∧ f.rsqV v x = zero false) ∧
      (0 < X → gives (Real.sqrt X) (f.sqrtV v x) ∧ gives (1 / Real.sqrt X) (f.rsqV v x)))

/-- R176, R177, R179, R180: minimum and maximum, the order that FCMP uses, the cases of FEXP2 and FLOG2 whose results are
rational, and rounding to an integral value.  (Where the exact power or logarithm is irrational, the clause says that nx is
raised, and not which pattern.)  That FLOG2 of 1 is +0 in every rounding mode is the model's choice (log entry 97: DESIGN
CHOICE). -/
def Claims.OrdersAndPowers : Prop :=
  ∀ (f : Fmt) (v : Fenv) (a b : Nat), f = fmtF32 ∨ f = fmtF16 ∨ f = fmtBF16 → v.rm ≠ .mode →
    let x := f.read v.daz a
    let y := f.read v.daz b
    let X : ℝ := valueOf x
    let gives := fun (E : ℝ) (r : Nat × BitVec 6) => Delivered f v.ftzo v.rm E (overflowed f v.rm) r
    let nan := fun (sig : Bool) => ((f.nan, if sig then 1 else 0) : Nat × BitVec 6)
    let inf := fun (neg : Bool) => ((f.pack neg f.infMag, 0) : Nat × BitVec 6)
    let zero := fun (neg : Bool) => ((f.pack neg 0, 0) : Nat × BitVec 6)
    let seen := fun (u : Fv) (p : Nat) => if valueOf u = 0 ∧ (∀ i, u ≠ .inf i) then f.pack u.neg 0 else p % 2 ^ f.w
    let below := fun (p q : Fv) => (p = .inf true ∧ q ≠ .inf true) ∨ (q = .inf false ∧ p ≠ .inf false) ∨
      IsFinite p ∧ IsFinite q ∧ valueOf p < valueOf q
    let under := fun (p q : Fv) => below p q ∨ p = .zero true ∧ q = .zero false
    (x.isNan = false → y.isNan = false → (x.less false y = true ↔ below x y)) ∧
    (∀ mx, let r := f.minmax v mx a b
      let fl : BitVec 6 := if x.isSig || y.isSig then 1 else 0
      (x.isNan = true → y.isNan = true → r = (f.nan, fl)) ∧
      (x.isNan = true → y.isNan = false → r = (seen y b, fl)) ∧ (x.isNan = false → y.isNan = true → r = (seen x a, fl)) ∧
      (x.isNan = false → y.isNan = false →
        (under x y → r = (if mx then seen y b else seen x a, 0)) ∧ (under y x → r = (if mx then seen x a else seen y b, 0)) ∧
        (¬ under x y → ¬ under y x → r = (seen x a, 0) ∧ seen x a = seen y b))) ∧
    (let r := f.exp2V v x
     (x.isNan = true → r = nan x.isSig) ∧ (x = .inf true → r = zero false) ∧ (x = .inf false → r = inf false) ∧
     (∀ k : ℤ, IsFinite x → X = k → gives ((2 : ℝ) ^ k) r) ∧
     (IsFinite x → (∀ k : ℤ, X ≠ k) → r.2.getLsbD 4 = true ∧ r.2.getLsbD 0 = false ∧ r.2.getLsbD 1 = false)) ∧
    (let r := f.log2V v x
     (x.isNan = true → r = nan x.isSig) ∧ (∀ i, x = .zero i → r = (f.pack true f.infMag, 2)) ∧
     (X < 0 ∨ x = .inf true → r = nan true) ∧ (x = .inf false → r = inf false) ∧
     (X = 1 → r = zero false) ∧ (∀ k : ℤ, k ≠ 0 → X = (2 : ℝ) ^ k → gives k r) ∧
     (0 < X → (∀ k : ℤ, X ≠ (2 : ℝ) ^ k) →
       r.2.getLsbD 4 = true ∧ r.2.getLsbD 0 = false ∧ r.2.getLsbD 1 = false ∧ r.2.getLsbD 2 = false)) ∧
    (let r := f.rndV v x
     (x.isNan = true → r = nan x.isSig) ∧ (∀ i, x = .inf i → r = inf i) ∧ (∀ i, x = .zero i → r = zero i) ∧
     (X ≠ 0 → ∃ n k : Nat, RoundsTo (fun n => (n : ℚ)) v.rm X n ∧ magnitude f k = n ∧
       ((n : ℝ) = |X| → r = (f.pack x.neg k, 0)) ∧ ((n : ℝ) ≠ |X| → r = (f.pack x.neg k, 16))))

/-- R165, R167, R169 to R172, R175 to R180: every result of the floating arithmetic is exact, rounded once.  That FLOG2 of 1 is
+0 is log entry 97 (DESIGN CHOICE). -/
def Obligations.ExactResults : Prop :=
  Claims.Formats ∧ Claims.PatternsRead ∧ Claims.ArithmeticIsExact ∧ Claims.OrdersAndPowers

/-- The float types, and the format of one: of an element of a packed one. -/
def floats : List Ty := [.f32, .f16, .bf16, .e4m3, .e5m2]

/-- The bounds of an integer type, and the pattern of a value in its register (R125, R183). -/
def intBounds (ty : Ty) : Int × Int :=
  if ty.signed then (-(2 ^ (8 * ty.size - 1)), 2 ^ (8 * ty.size - 1) - 1) else (0, 2 ^ (8 * ty.size) - 1)

/-- R170, R182 to R184: conversions between floating types, from integers and to integers, and of packed types.  That the
integer 0 converts to +0 in every rounding mode is the model's choice (log entry 98: DESIGN CHOICE). -/
def Claims.ConversionsAreExact : Prop :=
  ∀ (ty src : Ty) (v : Fenv) (sat : Bool) (p : Nat), v.rm ≠ .mode →
    let small := fun (t : Ty) => t == .e4m3 || t == .e5m2
    let f := fmtOf ty
    let r := cvtVal ty src v sat p
    let sf := sat || v.f8sat
    let overR := fun (neg : Bool) => match ty with
      | .e4m3 => if sf then f.pack neg 0x7E else 0x7F
      | .e5m2 => f.pack neg (if sf then 0x7B else 0x7C)
      | _ => if sat then f.pack neg f.maxMag else overflowed f v.rm neg
    let x := (fmtOf src).read (v.daz && !small src) p
    let X : ℝ := valueOf x
    let w : BitVec (8 * src.size) := BitVec.ofNat _ p
    let i : Int := if src.signed then w.toInt else w.toNat
    let pat := fun (y : Int) => (BitVec.ofInt (tyW ty) y).toNat
    let half := fun (t : Ty) => match t with | .h2 => Ty.f16 | .b2 => Ty.bf16 | t => t
    (ty ∈ floats → src ∈ floats →
      (x.isNan = true → r = (f.nan, if x.isSig then 1 else 0)) ∧
      (∀ n, x = .inf n → r = match ty with
        | .e4m3 => (if sf then f.pack n 0x7E else 0x7F, 1)
        | .e5m2 => (f.pack n (if sf then 0x7B else 0x7C), 0)
        | _ => (f.pack n (if sat then f.maxMag else f.infMag), 0)) ∧
      (∀ n, x = .zero n → r = (f.pack n 0, 0)) ∧
      (X ≠ 0 → Delivered f (v.ftzo && !small ty) v.rm X overR r)) ∧
    (ty ∈ floats → src.int8c = true →
      (i = 0 → r = (0, 0)) ∧ (i ≠ 0 → Delivered f (v.ftzo && !small ty) v.rm i overR r)) ∧
    (ty.int8c = true → src ∈ floats →
      (x.isNan = true → r = (0, 1)) ∧
      (∀ n, x = .inf n → r = (pat (if n then (intBounds ty).1 else (intBounds ty).2), 1)) ∧
      (IsFinite x → ∃ k : Nat, RoundsTo (fun n => (n : ℚ)) v.rm X k ∧
        let z : Int := if x.neg then -k else k
        (z < (intBounds ty).1 → r = (pat (intBounds ty).1, 1)) ∧ ((intBounds ty).2 < z → r = (pat (intBounds ty).2, 1)) ∧
        ((intBounds ty).1 ≤ z → z ≤ (intBounds ty).2 → ((z : ℝ) = X → r = (pat z, 0)) ∧ ((z : ℝ) ≠ X → r = (pat z, 16))))) ∧
    ((src = .h2 ∨ src = .b2) → (ty = .h2 ∨ ty = .b2) →
      let lo := cvtVal (half ty) (half src) v sat (p % 2 ^ 16)
      let hi := cvtVal (half ty) (half src) v sat (p / 2 ^ 16 % 2 ^ 16)
      r = (lo.1 + 2 ^ 16 * hi.1, lo.2 ||| hi.2)) ∧
    ((src = .h2 ∨ src = .b2) → half ty = ty → r = cvtVal ty (half src) v sat (p % 2 ^ 16)) ∧
    (half src = src → (ty = .h2 ∨ ty = .b2) →
      let one := cvtVal (half ty) src v sat p
      r = (one.1 + 2 ^ 16 * one.1, one.2))

/-- R181: the class of a pattern of F32, F16 or BF16. -/
def Claims.ClassesAreRight : Prop :=
  ∀ (f : Fmt) (p : Nat), f = fmtF32 ∨ f = fmtF16 ∨ f = fmtBF16 →
    let x := f.read false p
    let c := f.classOf p
    (∀ b, x = .nan b → c = 2 ^ (if b then 8 else 9)) ∧ (∀ n, x = .inf n → c = 2 ^ (if n then 0 else 7)) ∧
    (∀ n, x = .zero n → c = 2 ^ (if n then 3 else 4)) ∧
    (valueOf x ≠ 0 → c = 2 ^ (if |valueOf x| < magnitude f (2 ^ f.mb) then (if x.neg then 2 else 5) else if x.neg then 1 else 6))

/-- R185 to R187: LMUL adds the codes of two L6 values; LCVT from L6 rounds the exact power of two of a code; LCVT to L6
rounds 16 + 4 log2 of the magnitude to an integer. -/
def Claims.LogValues : Prop :=
  ∀ (ty : Ty) (v : Fenv) (sat : Bool) (p q : Nat), v.rm ≠ .mode → ty = .f32 ∨ ty = .f16 ∨ ty = .bf16 →
    let a := p % 256
    let b := q % 256
    let f := fmtOf ty
    (let r := l6Mul sat p q
     let m : Int := (a % 32 : Nat) + (b % 32 : Nat) - 16
     let s := (a / 32 + b / 32) % 2
     (64 ≤ a ∨ 64 ≤ b → r = (0x20, 1)) ∧
     (a < 64 → b < 64 →
       ((a = 0x20 ∨ b = 0x20) → r = (0x20, 0)) ∧
       (a ≠ 0x20 → b ≠ 0x20 → (a = 0 ∨ b = 0) → r = (0, 0)) ∧
       (a % 32 ≠ 0 → b % 32 ≠ 0 →
         (31 < m → r = (if sat then 32 * s + 31 else 0x20, 20)) ∧ (m < 1 → r = (0, 24)) ∧
         (1 ≤ m → m ≤ 31 → r = (32 * s + m.toNat, 0))))) ∧
    (let r := l6To ty v p
     (64 ≤ a → r = (f.nan, 1)) ∧ (a = 0x20 → r = (f.nan, 0)) ∧ (a = 0 → r = (0, 0)) ∧
     (a < 64 → a % 32 ≠ 0 → Delivered f v.ftzo v.rm
       ((if a / 32 = 1 then -1 else 1) * (2 : ℝ) ^ ((((a % 32 : Nat) : ℝ) - 16) / 4)) (overflowed f v.rm) r)) ∧
    (let x := f.read v.daz p
     let r := toL6 v sat x
     let X : ℝ := valueOf x
     let t : ℝ := 16 + 4 * Real.logb 2 |X|
     let code := fun (n : Bool) (m : Nat) => (if n then 32 else 0) + m
     (x.isNan = true → r = (0x20, if x.isSig then 1 else 0)) ∧ (∀ n, x = .zero n → r = (0, 0)) ∧
     (∀ n, x = .inf n → r = if sat then (code n 31, 20) else (0x20, 1)) ∧
     (X ≠ 0 → ∃ M : ℤ,
       (t = ⌊t⌋ → M = ⌊t⌋) ∧
       (t ≠ ⌊t⌋ → match v.rm with
         | .rz => M = ⌊t⌋
         | .ru => M = if x.neg then ⌊t⌋ else ⌈t⌉
         | .rd => M = if x.neg then ⌈t⌉ else ⌊t⌋
         | _ => M = round t) ∧
       (31 < M → r = (if sat then code x.neg 31 else 0x20, 20)) ∧ (M < 1 → r = (0, 24)) ∧
       (1 ≤ M → M ≤ 31 → (t = ⌊t⌋ → r = (code x.neg M.toNat, 0)) ∧ (t ≠ ⌊t⌋ → r = (code x.neg M.toNat, 16)))))

/-- R166, R181 to R187: what FCVT, FCLASS, LMUL and LCVT deliver.  That the integer 0 converts to +0 is log entry 98 (DESIGN
CHOICE). -/
def Obligations.ExactConversions : Prop :=
  Claims.ConversionsAreExact ∧ Claims.ClassesAreRight ∧ Claims.LogValues
end

