-- ==== Sys2Proof/Laws/Store.lean ====
section
/-!
SUPPORT. Store.lean: the laws of keyed lists: what each operation leaves at each key, and that it keeps the canonical form.
-/
namespace Sys2Proof.Store

variable {α : Type}

/-- Every key of the list lies above k. -/
def above (k : Nat) (m : List (Nat × α)) : Prop := ∀ e ∈ m, k < e.1

theorem sorted_cons (j : Nat) (x : α) (m : List (Nat × α)) :
    sorted ((j, x) :: m) = true ↔ above j m ∧ sorted m = true := by
  induction m generalizing j x with
  | nil => simp [sorted, above]
  | cons e m ih =>
    obtain ⟨k, y⟩ := e
    simp only [sorted, Bool.and_eq_true, decide_eq_true_eq, ih k y]
    constructor
    · rintro ⟨h, ha, hs⟩
      refine ⟨?_, ha, hs⟩
      intro e he
      rcases List.mem_cons.1 he with rfl | he
      · exact h
      · exact Nat.lt_trans h (ha e he)
    · rintro ⟨h, ha, hs⟩
      exact ⟨h (k, y) (List.mem_cons_self ..), ha, hs⟩

theorem find_above {k : Nat} {m : List (Nat × α)} (h : above k m) {j : Nat} (hj : j ≤ k) : find m j = none := by
  induction m with
  | nil => rfl
  | cons e m ih =>
    obtain ⟨i, x⟩ := e
    have hi : k < i := h (i, x) (List.mem_cons_self ..)
    simp [find, Nat.not_lt.2 (Nat.le_of_lt (Nat.lt_of_le_of_lt hj hi)), Nat.ne_of_gt (Nat.lt_of_le_of_lt hj hi)]

/-- A key reads as what was put there last. -/
@[simp] theorem find_put_self (m : List (Nat × α)) (k : Nat) (v : α) : find (put m k v) k = some v := by
  induction m with
  | nil => simp [put, find]
  | cons e m ih =>
    obtain ⟨j, x⟩ := e
    by_cases h1 : j < k
    · simp [put, h1, find, ih]
    · by_cases h2 : j = k <;> simp [put, h1, h2, find]

/-- Putting at one key leaves every other key alone. -/
theorem find_put_ne (m : List (Nat × α)) (k : Nat) (v : α) {j : Nat} (h : j ≠ k) : find (put m k v) j = find m j := by
  induction m with
  | nil =>
    simp only [put, find]
    split
    · rfl
    · rw [if_neg (Ne.symm h)]
  | cons e m ih =>
    obtain ⟨i, x⟩ := e
    by_cases h1 : i < k
    · simp only [put, if_pos h1, find, ih]
    · by_cases h2 : i = k
      · subst h2
        simp only [put, if_neg h1, if_true, find, if_neg (Ne.symm h)]
      · simp only [put, if_neg h1, if_neg h2, find]
        split
        · rfl
        · next h3 =>
          rw [if_neg (Ne.symm h)]
          have : ¬ i < j := by omega
          have h4 : i ≠ j := by omega
          simp [this, h4]

theorem above_put {i : Nat} {m : List (Nat × α)} (h : above i m) {k : Nat} (hk : i < k) (v : α) :
    above i (put m k v) := by
  induction m with
  | nil => intro e he; simp [put] at he; subst he; exact hk
  | cons e m ih =>
    obtain ⟨j, x⟩ := e
    have hj : i < j := h (j, x) (List.mem_cons_self ..)
    have hm : above i m := fun e he => h e (List.mem_cons_of_mem _ he)
    intro e he
    by_cases h1 : j < k
    · simp [put, h1] at he
      rcases he with rfl | he
      · exact hj
      · exact ih hm e he
    · by_cases h2 : j = k
      · simp [put, h2] at he
        rcases he with rfl | he
        · exact hk
        · exact hm e he
      · simp [put, h1, h2] at he
        rcases he with rfl | rfl | he
        · exact hk
        · exact hj
        · exact hm e he

/-- Putting keeps keys strictly rising. -/
theorem sorted_put {m : List (Nat × α)} (h : sorted m = true) (k : Nat) (v : α) : sorted (put m k v) = true := by
  induction m with
  | nil => rfl
  | cons e m ih =>
    obtain ⟨j, x⟩ := e
    obtain ⟨ha, hs⟩ := (sorted_cons j x m).1 h
    by_cases h1 : j < k
    · simp only [put, if_pos h1]
      exact (sorted_cons ..).2 ⟨above_put ha h1 v, ih hs⟩
    · by_cases h2 : j = k
      · subst h2
        simp only [put, if_neg h1, if_true]
        exact (sorted_cons ..).2 ⟨ha, hs⟩
      · simp only [put, if_neg h1, if_neg h2]
        refine (sorted_cons ..).2 ⟨?_, h⟩
        intro e he
        rcases List.mem_cons.1 he with rfl | he
        · simp only; omega
        · exact Nat.lt_trans (by omega : k < j) (ha e he)

theorem above_del {i : Nat} {m : List (Nat × α)} (h : above i m) (k : Nat) : above i (del m k) := by
  induction m with
  | nil => exact h
  | cons e m ih =>
    obtain ⟨j, x⟩ := e
    have hm : above i m := fun e he => h e (List.mem_cons_of_mem _ he)
    intro e he
    by_cases h1 : j < k
    · simp [del, h1] at he
      rcases he with rfl | he
      · exact h _ (List.mem_cons_self ..)
      · exact ih hm e he
    · by_cases h2 : j = k
      · simp [del, h2] at he
        exact hm e he
      · simp [del, h1, h2] at he
        exact h e (List.mem_cons.2 he)

/-- Removing keeps keys strictly rising. -/
theorem sorted_del {m : List (Nat × α)} (h : sorted m = true) (k : Nat) : sorted (del m k) = true := by
  induction m with
  | nil => rfl
  | cons e m ih =>
    obtain ⟨j, x⟩ := e
    obtain ⟨ha, hs⟩ := (sorted_cons j x m).1 h
    by_cases h1 : j < k
    · simp only [del, if_pos h1]
      exact (sorted_cons ..).2 ⟨above_del ha k, ih hs⟩
    · by_cases h2 : j = k
      · simp only [del, if_neg h1, if_pos h2]; exact hs
      · simp only [del, if_neg h1, if_neg h2]; exact h

/-- A removed key holds nothing, in a list whose keys rise. -/
theorem find_del_self {m : List (Nat × α)} (h : sorted m = true) (k : Nat) : find (del m k) k = none := by
  induction m with
  | nil => rfl
  | cons e m ih =>
    obtain ⟨j, x⟩ := e
    obtain ⟨ha, hs⟩ := (sorted_cons j x m).1 h
    by_cases h1 : j < k
    · simp [del, h1, find, ih hs]
    · by_cases h2 : j = k
      · subst h2
        simp only [del, if_neg h1, if_true]
        exact find_above ha (Nat.le_refl _)
      · simp [del, h1, h2, find]

/-- Removing one key leaves every other key alone. -/
theorem find_del_ne {m : List (Nat × α)} (h : sorted m = true) (k : Nat) {j : Nat} (hj : j ≠ k) :
    find (del m k) j = find m j := by
  induction m with
  | nil => rfl
  | cons e m ih =>
    obtain ⟨i, x⟩ := e
    obtain ⟨ha, hs⟩ := (sorted_cons i x m).1 h
    by_cases h1 : i < k
    · simp only [del, if_pos h1, find, ih hs]
    · by_cases h2 : i = k
      · subst h2
        simp only [del, if_neg h1, if_true, find, if_neg (Ne.symm hj)]
        split
        · rfl
        · next h3 => exact find_above ha (by omega)
      · simp only [del, if_neg h1, if_neg h2]

theorem mem_put {m : List (Nat × α)} {k : Nat} {v : α} {e : Nat × α} (h : e ∈ put m k v) : e = (k, v) ∨ e ∈ m := by
  induction m with
  | nil => simpa [put] using h
  | cons f m ih =>
    obtain ⟨j, x⟩ := f
    by_cases h1 : j < k
    · simp [put, h1] at h
      rcases h with rfl | h
      · exact .inr (List.mem_cons_self ..)
      · exact (ih h).imp id (List.mem_cons_of_mem _)
    · by_cases h2 : j = k
      · simp [put, h2] at h
        exact h.imp id (List.mem_cons_of_mem _)
      · simp [put, h1, h2] at h
        rcases h with rfl | rfl | h
        · exact .inl rfl
        · exact .inr (List.mem_cons_self ..)
        · exact .inr (List.mem_cons_of_mem _ h)

theorem mem_del {m : List (Nat × α)} {k : Nat} {e : Nat × α} (h : e ∈ del m k) : e ∈ m := by
  induction m with
  | nil => exact h
  | cons f m ih =>
    obtain ⟨j, x⟩ := f
    by_cases h1 : j < k
    · simp [del, h1] at h
      rcases h with rfl | h
      · exact List.mem_cons_self ..
      · exact List.mem_cons_of_mem _ (ih h)
    · by_cases h2 : j = k
      · simp [del, h2] at h
        exact List.mem_cons_of_mem _ h
      · simpa [del, h1, h2] using h

section Total
variable [DecidableEq α] {d : α}

theorem wf_iff (m : List (Nat × α)) : wf d m = true ↔ sorted m = true ∧ ∀ e ∈ m, e.2 ≠ d := by
  simp [wf]

/-- The canonical form is kept by a write of one key. -/
theorem wf_putD {m : List (Nat × α)} (h : wf d m = true) (k : Nat) (v : α) : wf d (putD d m k v) = true := by
  obtain ⟨hs, hn⟩ := (wf_iff m).1 h
  unfold putD
  split
  · exact (wf_iff _).2 ⟨sorted_del hs k, fun e he => hn e (mem_del he)⟩
  · next hv =>
    refine (wf_iff _).2 ⟨sorted_put hs k v, fun e he => ?_⟩
    rcases mem_put he with rfl | he
    · exact hv
    · exact hn e he

/-- The canonical form is kept by a write of consecutive keys. -/
theorem wf_putsD {m : List (Nat × α)} (h : wf d m = true) (k : Nat) (vs : List α) : wf d (putsD d m k vs) = true := by
  induction vs generalizing m k with
  | nil => exact h
  | cons v vs ih => exact ih (wf_putD h k v) (k + 1)

/-- A written key reads as what was written. -/
theorem getD_putD_self {m : List (Nat × α)} (h : wf d m = true) (k : Nat) (v : α) : getD d (putD d m k v) k = v := by
  unfold getD putD
  split
  · next hv => rw [find_del_self ((wf_iff m).1 h).1, hv]; rfl
  · simp

/-- Every other key reads as before. -/
theorem getD_putD_ne {m : List (Nat × α)} (h : wf d m = true) (k : Nat) (v : α) {j : Nat} (hj : j ≠ k) :
    getD d (putD d m k v) j = getD d m j := by
  unfold getD putD
  split
  · rw [find_del_ne ((wf_iff m).1 h).1 k hj]
  · rw [find_put_ne m k v hj]

/-- Consecutive keys read as what was written there, every other key as before. -/
theorem getD_putsD {m : List (Nat × α)} (h : wf d m = true) (k : Nat) (vs : List α) (j : Nat) :
    getD d (putsD d m k vs) j = if k ≤ j ∧ j < k + vs.length then (vs[j - k]?).getD d else getD d m j := by
  induction vs generalizing m k with
  | nil =>
    simp only [putsD, List.length_nil, Nat.add_zero]
    rw [if_neg (by omega)]
  | cons v vs ih =>
    simp only [putsD, List.length_cons]
    rw [ih (wf_putD h k v) (k + 1)]
    by_cases hj : j = k
    · subst hj
      rw [if_neg (by omega), if_pos (by omega), getD_putD_self h]
      simp
    · rw [getD_putD_ne h k v hj]
      by_cases h1 : k + 1 ≤ j ∧ j < k + 1 + vs.length
      · rw [if_pos h1, if_pos (by omega)]
        obtain ⟨n, rfl⟩ : ∃ n, j = k + 1 + n := ⟨j - (k + 1), by omega⟩
        have e1 : k + 1 + n - (k + 1) = n := by omega
        have e2 : k + 1 + n - k = n + 1 := by omega
        rw [e1, e2]
        simp
      · rw [if_neg h1, if_neg (by omega)]

/-- The canonical form is kept by a run of writes. -/
theorem wf_foldl_putD {β : Type} {m : List (Nat × α)} (h : wf d m = true) (xs : List β) (key : β → Nat) (val : β → α) :
    wf d (xs.foldl (fun m x => putD d m (key x) (val x)) m) = true := by
  induction xs generalizing m with
  | nil => exact h
  | cons x xs ih => exact ih (wf_putD h ..)

end Total

/-- Changing an entry leaves the others alone and keeps the keys. -/
theorem sorted_adjust {m : List (Nat × α)} (h : sorted m = true) (k : Nat) (f : α → α) : sorted (adjust m k f) = true := by
  unfold adjust
  split
  · exact sorted_put h ..
  · exact h

theorem find_adjust_self (m : List (Nat × α)) (k : Nat) (f : α → α) : find (adjust m k f) k = (find m k).map f := by
  unfold adjust
  split
  · next h => simp [h]
  · next h => simp [h]

theorem find_adjust_ne (m : List (Nat × α)) (k : Nat) (f : α → α) {j : Nat} (h : j ≠ k) :
    find (adjust m k f) j = find m j := by
  unfold adjust
  split
  · exact find_put_ne _ _ _ h
  · rfl

/-- A map of the entries keeps the keys: it reads through. -/
theorem find_map (m : List (Nat × α)) (f : Nat → α → α) (k : Nat) :
    find (m.map fun e => (e.1, f e.1 e.2)) k = (find m k).map (f k) := by
  induction m with
  | nil => rfl
  | cons e m ih =>
    obtain ⟨j, x⟩ := e
    simp only [List.map_cons, find, ih]
    split
    · rfl
    · split
      · next h => subst h; rfl
      · rfl

end Sys2Proof.Store
end

