-- ==== Sys2Proof/Laws/Memory.lean ====
section
/-!
SUPPORT. Memory.lean: the operations over memory, check values, elytron bits, register files, scratchpads and ACC: each
keeps the canonical form, and a read after a write gives what was written, or what was there.
-/
namespace Sys2Proof.Machine

open Sys2Proof

/-! ## Reset -/

/-- Memory at reset is canonical. -/
theorem reset_mem_wf : Memory.wf State.reset.mem := by decide

/-! ## Bytes of HBM and their check values (R236, R237) -/

/-- A sector's seal moves its check value and the mismatch count, and nothing else. -/
theorem sealSector_cases (s : State) (lo hi k : Nat) :
    ∃ chk plat, sealSector s lo hi k = { s with chk := chk, plat := plat } ∧
      (Store.wf 0 s.chk = true → Store.wf 0 chk = true) := by
  unfold sealSector
  split
  · exact ⟨_, s.plat, rfl, fun h => Store.wf_putD h k 0⟩
  · split
    · exact ⟨_, _, rfl, fun h => Store.wf_putD h k 0xFFFF⟩
    · exact ⟨s.chk, s.plat, rfl, id⟩

theorem sealSectors_cases (lo hi : Nat) (ks : List Nat) (s : State) :
    ∃ chk plat, ks.foldl (fun s k => sealSector s lo hi k) s = { s with chk := chk, plat := plat } ∧
      (Store.wf 0 s.chk = true → Store.wf 0 chk = true) := by
  induction ks generalizing s with
  | nil => exact ⟨s.chk, s.plat, rfl, id⟩
  | cons k ks ih =>
    obtain ⟨c, p, h, hw⟩ := sealSector_cases s lo hi k
    obtain ⟨c', p', h', hw'⟩ := ih (sealSector s lo hi k)
    refine ⟨c', p', ?_, fun x => hw' ?_⟩
    · rw [List.foldl_cons, h', h]
    · rw [h]; exact hw x

/-- All that a write of bytes does, of which all or only some are new: memory takes the bytes, and check values, check symbols
and the mismatch count move. -/
theorem writeMemAs_cases (s : State) (whole : Bool) (pa : Nat) (bs : List Byte) :
    ∃ chk ecc plat, writeMemAs s whole pa bs =
        { s with mem := Store.putsD unlisted s.mem pa bs, chk := chk, ecc := ecc, plat := plat } ∧
      (Store.wf 0 s.chk = true → Store.wf 0 chk = true) ∧ (Store.wf 0 s.ecc = true → Store.wf 0 ecc = true) := by
  unfold writeMemAs
  split
  · next h =>
    obtain rfl := List.isEmpty_iff.1 h
    exact ⟨s.chk, s.ecc, s.plat, rfl, id, id⟩
  · dsimp only
    obtain ⟨c, p, h, hw⟩ := sealSectors_cases pa (if whole then pa + bs.length else pa)
      (tabulate ((pa + bs.length - 1) / 32 - pa / 32 + 1) fun i => pa / 32 + i)
      (freshEcc { s with mem := Store.putsD unlisted s.mem pa bs } (pa / 128)
        ((pa + bs.length - 1) / 128 - pa / 128 + 1))
    exact ⟨c, _, p, h, hw, fun x => Store.wf_foldl_putD x _ (fun i => pa / 128 + i) fun _ => 0⟩

/-- All that a write of new bytes does. -/
theorem writeMem_cases (s : State) (pa : Nat) (bs : List Byte) :
    ∃ chk ecc plat, writeMem s pa bs =
        { s with mem := Store.putsD unlisted s.mem pa bs, chk := chk, ecc := ecc, plat := plat } ∧
      (Store.wf 0 s.chk = true → Store.wf 0 chk = true) ∧ (Store.wf 0 s.ecc = true → Store.wf 0 ecc = true) :=
  writeMemAs_cases s true pa bs

/-- A merged write moves memory as a whole one does. -/
theorem writeMemAs_mem (s : State) (whole : Bool) (pa : Nat) (bs : List Byte) :
    (writeMemAs s whole pa bs).mem = Store.putsD unlisted s.mem pa bs := by
  obtain ⟨c, e, p, h, -⟩ := writeMemAs_cases s whole pa bs
  rw [h]

@[simp] theorem writeMem_mem (s : State) (pa : Nat) (bs : List Byte) :
    (writeMem s pa bs).mem = Store.putsD unlisted s.mem pa bs := by
  obtain ⟨c, e, p, h, -⟩ := writeMem_cases s pa bs
  rw [h]

/-- A write keeps memory canonical. -/
theorem writeMem_wf {s : State} (h : Memory.wf s.mem) (pa : Nat) (bs : List Byte) : Memory.wf (writeMem s pa bs).mem := by
  rw [writeMem_mem]; exact Store.wf_putsD h pa bs

/-- A write keeps check values canonical. -/
theorem writeMem_chk_wf {s : State} (h : Store.wf 0 s.chk = true) (pa : Nat) (bs : List Byte) :
    Store.wf 0 (writeMem s pa bs).chk = true := by
  obtain ⟨c, e, p, h', hw, -⟩ := writeMem_cases s pa bs
  rw [h']; exact hw h

/-- A write keeps check symbols canonical. -/
theorem writeMem_ecc_wf {s : State} (h : Store.wf 0 s.ecc = true) (pa : Nat) (bs : List Byte) :
    Store.wf 0 (writeMem s pa bs).ecc = true := by
  obtain ⟨c, e, p, h', -, hw⟩ := writeMem_cases s pa bs
  rw [h']; exact hw h

/-- Read after write: the byte written inside the range, the old byte outside. -/
theorem memByte_writeMem {s : State} (h : Memory.wf s.mem) (pa : Nat) (bs : List Byte) (a : Nat) :
    memByte (writeMem s pa bs) a =
      if pa ≤ a ∧ a < pa + bs.length then bs.getD (a - pa) unlisted else memByte s a := by
  simp only [memByte, writeMem_mem]
  exact Store.getD_putsD h pa bs a

/-- A spoiled line keeps check values canonical, and changes nothing but check values. -/
theorem spoilLine_chk_wf {s : State} (h : Store.wf 0 s.chk = true) (line : Nat) :
    Store.wf 0 (spoilLine s line).chk = true :=
  Store.wf_foldl_putD h _ (fun i => 4 * line + i) fun _ => 0xFFFF

/-! ## Elytron bits (R225) -/

theorem setEly_wf {s : State} (h : Store.wf 0 s.ely = true) (line : Nat) (e : BitVec 16) :
    Store.wf 0 (setEly s line e).ely = true := Store.wf_putD h line e

theorem elyRaw_setEly {s : State} (h : Store.wf 0 s.ely = true) (line : Nat) (e : BitVec 16) (l : Nat) :
    elyRaw (setEly s line e) l = if l = line then e else elyRaw s l := by
  split
  · next hl => rw [hl]; exact Store.getD_putD_self h line e
  · next hl => exact Store.getD_putD_ne h line e hl

/-! ## Register files (R15) -/

theorem vPut_rf_wf {s : State} (h : Store.wf 0 s.rf = true) (gid : Nat) (g : Group) (n : Nat) (lanes : Mask)
    (vals : List W32) : Store.wf 0 (vPut s gid g n lanes vals).rf = true :=
  Store.wf_foldl_putD h _ (rfKey (coreOf gid) g.row0 g.width n) fun l => nthD 0 vals l

theorem undefRf_wf {s : State} (h : Store.wf 0 s.rf = true) (key count : Nat) :
    Store.wf 0 (undefRf s key count).rf = true := Store.wf_putsD h key _

/-! ## Scratchpad (R17) -/

/-- A scratchpad write keeps the canonical form, and changes nothing but the scratchpads. -/
theorem spadWrite_wf {s : State} (h : Store.wf 0 s.spad = true) (d : KDesc) (t : Team) (x : Nat) (bs : List Byte) :
    Store.wf 0 (spadWrite s d t x bs).spad = true := by
  unfold spadWrite
  suffices ∀ (bs : List Byte) (e : List (Nat × Byte) × Nat), Store.wf 0 e.1 = true →
      Store.wf 0 (bs.foldl (fun (e : List (Nat × Byte) × Nat) b => (Store.putD 0 e.1 (spadKey d t e.2) b, e.2 + 1)) e).1 =
        true from this bs (s.spad, x) h
  intro bs
  induction bs with
  | nil => exact fun _ h => h
  | cons b bs ih => exact fun e h => ih _ (Store.wf_putD h _ b)

/-! ## On-chip storage as engines and windows write it (R19, R21) -/

/-- Register files, scratchpads and ACC are in their canonical form. -/
def ChipWf (s : State) : Prop := Store.wf 0 s.rf = true ∧ Store.wf 0 s.spad = true ∧ Store.wf 0 s.acc = true

theorem foldl_chipWf {β : Type} {f : State → β → State} (hf : ∀ s b, ChipWf s → ChipWf (f s b)) (bs : List β) {s : State}
    (h : ChipWf s) : ChipWf (bs.foldl f s) := by
  induction bs generalizing s with
  | nil => exact h
  | cons b bs ih => exact ih (hf s b h)

theorem setWord_chipWf {s : State} (h : ChipWf s) (store w : Nat) (v : W32) : ChipWf (setWord s store w v) := by
  unfold setWord
  split
  · exact ⟨Store.wf_putD h.1 _ _, h.2⟩
  · exact ⟨h.1, h.2.1, Store.wf_putD h.2.2 _ _⟩

theorem putWord_chipWf {s : State} (h : ChipWf s) (src store w : Nat) (new mask : W32) :
    ChipWf (putWord s src store w new mask) := by
  unfold putWord
  split
  · exact h
  · exact setWord_chipWf h store w _

theorem wordsPut_chipWf {s : State} (h : ChipWf s) (src store : Nat) (xs : List (Nat × Byte)) :
    ChipWf (wordsPut s src store xs) :=
  foldl_chipWf (fun _ _ h => putWord_chipWf h _ _ _ _ _) _ h

/-- Words written together keep the canonical form. -/
theorem putWords_chipWf {s : State} (h : ChipWf s) (src store : Nat) (ws : List (Nat × W32)) :
    ChipWf (putWords s src store ws) := by
  unfold putWords
  split
  · exact foldl_chipWf (f := fun s (w : Nat × W32) => setWord s store w.1 w.2)
      (fun _ _ h => setWord_chipWf h _ _ _) ws h
  · exact foldl_chipWf (fun _ _ h => putWord_chipWf h _ _ _ _ _) _ h

/-- Bytes stored into the scratchpad keep the canonical form. -/
theorem spadPutAt_chipWf {s : State} (h : ChipWf s) (src : Nat) (xs : List (Nat × Byte)) :
    ChipWf (spadPutAt s src xs) := by
  refine foldl_chipWf (fun s w h => ?_) _ h
  split
  · exact h
  · have hs := Store.wf_foldl_putD h.2.1 (xs.filter fun x => x.1 / 4 == w) (fun y : Nat × Byte => y.1) fun y => y.2
    exact ⟨h.1, hs, h.2.2⟩

/-- The tiles of an attention command, written out, keep the canonical form (R292). -/
theorem writeOut_chipWf {s : State} (h : ChipWf s) (id : Nat) (c : Attn) (t : Team) (w : Nat) (a : AttnAcc) :
    ChipWf (writeOut s id c t w a) := putWords_chipWf h _ _ _

/-- Bytes written through a core's window keep every store of the core canonical. -/
theorem winWrite_chipWf {s : State} (h : ChipWf s) (src o : Nat) (bs : List Byte) : ChipWf (winWrite s src o bs) := by
  unfold winWrite winShadow
  dsimp only
  split
  · exact wordsPut_chipWf (spadPutAt_chipWf (wordsPut_chipWf h _ _ _) _ _) _ _ _
  · exact wordsPut_chipWf (spadPutAt_chipWf (wordsPut_chipWf h _ _ _) _ _) _ _ _

/-! ## Read after write of the scratchpad (R13, R158) -/

/-- What each of some keys reads as after writes of pairs, one after another: the last pair of the key, or what was there. -/
theorem getD_foldl_putD {α : Type} [DecidableEq α] {d : α} {m : List (Nat × α)} (h : Store.wf d m = true)
    (xs : List (Nat × α)) (k : Nat) :
    Store.getD d (xs.foldl (fun m y => Store.putD d m y.1 y.2) m) k =
      match (xs.filter fun y => y.1 == k).getLast? with
      | some y => y.2
      | none => Store.getD d m k := by
  induction xs generalizing m with
  | nil => rfl
  | cons x xs ih =>
    rw [List.foldl_cons, ih (Store.wf_putD h x.1 x.2)]
    by_cases hx : x.1 = k
    · subst hx
      rw [List.filter_cons_of_pos (by simp)]
      cases hl : xs.filter fun y => y.1 == x.1 with
      | nil => simp [Store.getD_putD_self h]
      | cons y ys => simp [List.getLast?_cons]
    · rw [List.filter_cons_of_neg (by simpa using hx), Store.getD_putD_ne h x.1 x.2 (Ne.symm hx)]

end Sys2Proof.Machine
end

