-- ==== Sys2Proof/Laws/State.lean ====
section
/-!
SUPPORT. State.lean: what each named update of the state leaves: one lemma per field per update, and the reads through
each update of groups, teams, launches and cores.
-/
namespace Sys2Proof.Machine

open Sys2Proof

namespace State

/-! ## setGrp -/

@[simp] theorem setGrp_tape (s : State) (k : Nat) (g : Group) : (s.setGrp k g).tape = s.tape := rfl
@[simp] theorem setGrp_free (s : State) (k : Nat) (g : Group) : (s.setGrp k g).free = s.free := rfl
@[simp] theorem setGrp_cur (s : State) (k : Nat) (g : Group) : (s.setGrp k g).cur = s.cur := rfl
@[simp] theorem setGrp_picks (s : State) (k : Nat) (g : Group) : (s.setGrp k g).picks = s.picks := rfl
@[simp] theorem setGrp_nextId (s : State) (k : Nat) (g : Group) : (s.setGrp k g).nextId = s.nextId := rfl
@[simp] theorem setGrp_teams (s : State) (k : Nat) (g : Group) : (s.setGrp k g).teams = s.teams := rfl
@[simp] theorem setGrp_launches (s : State) (k : Nat) (g : Group) : (s.setGrp k g).launches = s.launches := rfl
@[simp] theorem setGrp_bins (s : State) (k : Nat) (g : Group) : (s.setGrp k g).bins = s.bins := rfl
@[simp] theorem setGrp_rf (s : State) (k : Nat) (g : Group) : (s.setGrp k g).rf = s.rf := rfl
@[simp] theorem setGrp_spad (s : State) (k : Nat) (g : Group) : (s.setGrp k g).spad = s.spad := rfl
@[simp] theorem setGrp_acc (s : State) (k : Nat) (g : Group) : (s.setGrp k g).acc = s.acc := rfl
@[simp] theorem setGrp_olds (s : State) (k : Nat) (g : Group) : (s.setGrp k g).olds = s.olds := rfl
@[simp] theorem setGrp_cores (s : State) (k : Nat) (g : Group) : (s.setGrp k g).cores = s.cores := rfl
@[simp] theorem setGrp_feat (s : State) (k : Nat) (g : Group) : (s.setGrp k g).feat = s.feat := rfl
@[simp] theorem setGrp_copies (s : State) (k : Nat) (g : Group) : (s.setGrp k g).copies = s.copies := rfl
@[simp] theorem setGrp_attns (s : State) (k : Nat) (g : Group) : (s.setGrp k g).attns = s.attns := rfl
@[simp] theorem setGrp_mapCache (s : State) (k : Nat) (g : Group) : (s.setGrp k g).mapCache = s.mapCache := rfl
@[simp] theorem setGrp_travs (s : State) (k : Nat) (g : Group) : (s.setGrp k g).travs = s.travs := rfl
@[simp] theorem setGrp_travId (s : State) (k : Nat) (g : Group) : (s.setGrp k g).travId = s.travId := rfl
@[simp] theorem setGrp_graphs (s : State) (k : Nat) (g : Group) : (s.setGrp k g).graphs = s.graphs := rfl
@[simp] theorem setGrp_disp (s : State) (k : Nat) (g : Group) : (s.setGrp k g).disp = s.disp := rfl
@[simp] theorem setGrp_mem (s : State) (k : Nat) (g : Group) : (s.setGrp k g).mem = s.mem := rfl
@[simp] theorem setGrp_chk (s : State) (k : Nat) (g : Group) : (s.setGrp k g).chk = s.chk := rfl
@[simp] theorem setGrp_ely (s : State) (k : Nat) (g : Group) : (s.setGrp k g).ely = s.ely := rfl
@[simp] theorem setGrp_ecc (s : State) (k : Nat) (g : Group) : (s.setGrp k g).ecc = s.ecc := rfl
@[simp] theorem setGrp_expiry (s : State) (k : Nat) (g : Group) : (s.setGrp k g).expiry = s.expiry := rfl
@[simp] theorem setGrp_l1 (s : State) (k : Nat) (g : Group) : (s.setGrp k g).l1 = s.l1 := rfl
@[simp] theorem setGrp_lam (s : State) (k : Nat) (g : Group) : (s.setGrp k g).lam = s.lam := rfl
@[simp] theorem setGrp_slices (s : State) (k : Nat) (g : Group) : (s.setGrp k g).slices = s.slices := rfl
@[simp] theorem setGrp_reqs (s : State) (k : Nat) (g : Group) : (s.setGrp k g).reqs = s.reqs := rfl
@[simp] theorem setGrp_waits (s : State) (k : Nat) (g : Group) : (s.setGrp k g).waits = s.waits := rfl
@[simp] theorem setGrp_locks (s : State) (k : Nat) (g : Group) : (s.setGrp k g).locks = s.locks := rfl
@[simp] theorem setGrp_snoops (s : State) (k : Nat) (g : Group) : (s.setGrp k g).snoops = s.snoops := rfl
@[simp] theorem setGrp_relTags (s : State) (k : Nat) (g : Group) : (s.setGrp k g).relTags = s.relTags := rfl
@[simp] theorem setGrp_tlb (s : State) (k : Nat) (g : Group) : (s.setGrp k g).tlb = s.tlb := rfl
@[simp] theorem setGrp_aspaces (s : State) (k : Nat) (g : Group) : (s.setGrp k g).aspaces = s.aspaces := rfl
@[simp] theorem setGrp_counts (s : State) (k : Nat) (g : Group) : (s.setGrp k g).counts = s.counts := rfl
@[simp] theorem setGrp_hdm (s : State) (k : Nat) (g : Group) : (s.setGrp k g).hdm = s.hdm := rfl
@[simp] theorem setGrp_hostBias (s : State) (k : Nat) (g : Group) : (s.setGrp k g).hostBias = s.hostBias := rfl
@[simp] theorem setGrp_flips (s : State) (k : Nat) (g : Group) : (s.setGrp k g).flips = s.flips := rfl
@[simp] theorem setGrp_gtc (s : State) (k : Nat) (g : Group) : (s.setGrp k g).gtc = s.gtc := rfl
@[simp] theorem setGrp_agents (s : State) (k : Nat) (g : Group) : (s.setGrp k g).agents = s.agents := rfl
@[simp] theorem setGrp_loss (s : State) (k : Nat) (g : Group) : (s.setGrp k g).loss = s.loss := rfl
@[simp] theorem setGrp_frozen (s : State) (k : Nat) (g : Group) : (s.setGrp k g).frozen = s.frozen := rfl
@[simp] theorem setGrp_regions (s : State) (k : Nat) (g : Group) : (s.setGrp k g).regions = s.regions := rfl
@[simp] theorem setGrp_pfaults (s : State) (k : Nat) (g : Group) : (s.setGrp k g).pfaults = s.pfaults := rfl
@[simp] theorem setGrp_poolBase (s : State) (k : Nat) (g : Group) : (s.setGrp k g).poolBase = s.poolBase := rfl
@[simp] theorem setGrp_poolSize (s : State) (k : Nat) (g : Group) : (s.setGrp k g).poolSize = s.poolSize := rfl
@[simp] theorem setGrp_poolUsed (s : State) (k : Nat) (g : Group) : (s.setGrp k g).poolUsed = s.poolUsed := rfl
@[simp] theorem setGrp_mbox (s : State) (k : Nat) (g : Group) : (s.setGrp k g).mbox = s.mbox := rfl
@[simp] theorem setGrp_fw (s : State) (k : Nat) (g : Group) : (s.setGrp k g).fw = s.fw := rfl
@[simp] theorem setGrp_spdm (s : State) (k : Nat) (g : Group) : (s.setGrp k g).spdm = s.spdm := rfl
@[simp] theorem setGrp_swarm (s : State) (k : Nat) (g : Group) : (s.setGrp k g).swarm = s.swarm := rfl
@[simp] theorem setGrp_links (s : State) (k : Nat) (g : Group) : (s.setGrp k g).links = s.links := rfl
@[simp] theorem setGrp_plat (s : State) (k : Nat) (g : Group) : (s.setGrp k g).plat = s.plat := rfl
@[simp] theorem setGrp_sent (s : State) (k : Nat) (g : Group) : (s.setGrp k g).sent = s.sent := rfl

/-! ## updGrp -/

@[simp] theorem updGrp_tape (s : State) (k : Nat) (f : Group → Group) : (s.updGrp k f).tape = s.tape := rfl
@[simp] theorem updGrp_free (s : State) (k : Nat) (f : Group → Group) : (s.updGrp k f).free = s.free := rfl
@[simp] theorem updGrp_cur (s : State) (k : Nat) (f : Group → Group) : (s.updGrp k f).cur = s.cur := rfl
@[simp] theorem updGrp_picks (s : State) (k : Nat) (f : Group → Group) : (s.updGrp k f).picks = s.picks := rfl
@[simp] theorem updGrp_nextId (s : State) (k : Nat) (f : Group → Group) : (s.updGrp k f).nextId = s.nextId := rfl
@[simp] theorem updGrp_teams (s : State) (k : Nat) (f : Group → Group) : (s.updGrp k f).teams = s.teams := rfl
@[simp] theorem updGrp_launches (s : State) (k : Nat) (f : Group → Group) : (s.updGrp k f).launches = s.launches := rfl
@[simp] theorem updGrp_bins (s : State) (k : Nat) (f : Group → Group) : (s.updGrp k f).bins = s.bins := rfl
@[simp] theorem updGrp_rf (s : State) (k : Nat) (f : Group → Group) : (s.updGrp k f).rf = s.rf := rfl
@[simp] theorem updGrp_spad (s : State) (k : Nat) (f : Group → Group) : (s.updGrp k f).spad = s.spad := rfl
@[simp] theorem updGrp_acc (s : State) (k : Nat) (f : Group → Group) : (s.updGrp k f).acc = s.acc := rfl
@[simp] theorem updGrp_olds (s : State) (k : Nat) (f : Group → Group) : (s.updGrp k f).olds = s.olds := rfl
@[simp] theorem updGrp_cores (s : State) (k : Nat) (f : Group → Group) : (s.updGrp k f).cores = s.cores := rfl
@[simp] theorem updGrp_feat (s : State) (k : Nat) (f : Group → Group) : (s.updGrp k f).feat = s.feat := rfl
@[simp] theorem updGrp_copies (s : State) (k : Nat) (f : Group → Group) : (s.updGrp k f).copies = s.copies := rfl
@[simp] theorem updGrp_attns (s : State) (k : Nat) (f : Group → Group) : (s.updGrp k f).attns = s.attns := rfl
@[simp] theorem updGrp_mapCache (s : State) (k : Nat) (f : Group → Group) : (s.updGrp k f).mapCache = s.mapCache := rfl
@[simp] theorem updGrp_travs (s : State) (k : Nat) (f : Group → Group) : (s.updGrp k f).travs = s.travs := rfl
@[simp] theorem updGrp_travId (s : State) (k : Nat) (f : Group → Group) : (s.updGrp k f).travId = s.travId := rfl
@[simp] theorem updGrp_graphs (s : State) (k : Nat) (f : Group → Group) : (s.updGrp k f).graphs = s.graphs := rfl
@[simp] theorem updGrp_disp (s : State) (k : Nat) (f : Group → Group) : (s.updGrp k f).disp = s.disp := rfl
@[simp] theorem updGrp_mem (s : State) (k : Nat) (f : Group → Group) : (s.updGrp k f).mem = s.mem := rfl
@[simp] theorem updGrp_chk (s : State) (k : Nat) (f : Group → Group) : (s.updGrp k f).chk = s.chk := rfl
@[simp] theorem updGrp_ely (s : State) (k : Nat) (f : Group → Group) : (s.updGrp k f).ely = s.ely := rfl
@[simp] theorem updGrp_ecc (s : State) (k : Nat) (f : Group → Group) : (s.updGrp k f).ecc = s.ecc := rfl
@[simp] theorem updGrp_expiry (s : State) (k : Nat) (f : Group → Group) : (s.updGrp k f).expiry = s.expiry := rfl
@[simp] theorem updGrp_l1 (s : State) (k : Nat) (f : Group → Group) : (s.updGrp k f).l1 = s.l1 := rfl
@[simp] theorem updGrp_lam (s : State) (k : Nat) (f : Group → Group) : (s.updGrp k f).lam = s.lam := rfl
@[simp] theorem updGrp_slices (s : State) (k : Nat) (f : Group → Group) : (s.updGrp k f).slices = s.slices := rfl
@[simp] theorem updGrp_reqs (s : State) (k : Nat) (f : Group → Group) : (s.updGrp k f).reqs = s.reqs := rfl
@[simp] theorem updGrp_waits (s : State) (k : Nat) (f : Group → Group) : (s.updGrp k f).waits = s.waits := rfl
@[simp] theorem updGrp_locks (s : State) (k : Nat) (f : Group → Group) : (s.updGrp k f).locks = s.locks := rfl
@[simp] theorem updGrp_snoops (s : State) (k : Nat) (f : Group → Group) : (s.updGrp k f).snoops = s.snoops := rfl
@[simp] theorem updGrp_relTags (s : State) (k : Nat) (f : Group → Group) : (s.updGrp k f).relTags = s.relTags := rfl
@[simp] theorem updGrp_tlb (s : State) (k : Nat) (f : Group → Group) : (s.updGrp k f).tlb = s.tlb := rfl
@[simp] theorem updGrp_aspaces (s : State) (k : Nat) (f : Group → Group) : (s.updGrp k f).aspaces = s.aspaces := rfl
@[simp] theorem updGrp_counts (s : State) (k : Nat) (f : Group → Group) : (s.updGrp k f).counts = s.counts := rfl
@[simp] theorem updGrp_hdm (s : State) (k : Nat) (f : Group → Group) : (s.updGrp k f).hdm = s.hdm := rfl
@[simp] theorem updGrp_hostBias (s : State) (k : Nat) (f : Group → Group) : (s.updGrp k f).hostBias = s.hostBias := rfl
@[simp] theorem updGrp_flips (s : State) (k : Nat) (f : Group → Group) : (s.updGrp k f).flips = s.flips := rfl
@[simp] theorem updGrp_gtc (s : State) (k : Nat) (f : Group → Group) : (s.updGrp k f).gtc = s.gtc := rfl
@[simp] theorem updGrp_agents (s : State) (k : Nat) (f : Group → Group) : (s.updGrp k f).agents = s.agents := rfl
@[simp] theorem updGrp_loss (s : State) (k : Nat) (f : Group → Group) : (s.updGrp k f).loss = s.loss := rfl
@[simp] theorem updGrp_frozen (s : State) (k : Nat) (f : Group → Group) : (s.updGrp k f).frozen = s.frozen := rfl
@[simp] theorem updGrp_regions (s : State) (k : Nat) (f : Group → Group) : (s.updGrp k f).regions = s.regions := rfl
@[simp] theorem updGrp_pfaults (s : State) (k : Nat) (f : Group → Group) : (s.updGrp k f).pfaults = s.pfaults := rfl
@[simp] theorem updGrp_poolBase (s : State) (k : Nat) (f : Group → Group) : (s.updGrp k f).poolBase = s.poolBase := rfl
@[simp] theorem updGrp_poolSize (s : State) (k : Nat) (f : Group → Group) : (s.updGrp k f).poolSize = s.poolSize := rfl
@[simp] theorem updGrp_poolUsed (s : State) (k : Nat) (f : Group → Group) : (s.updGrp k f).poolUsed = s.poolUsed := rfl
@[simp] theorem updGrp_mbox (s : State) (k : Nat) (f : Group → Group) : (s.updGrp k f).mbox = s.mbox := rfl
@[simp] theorem updGrp_fw (s : State) (k : Nat) (f : Group → Group) : (s.updGrp k f).fw = s.fw := rfl
@[simp] theorem updGrp_spdm (s : State) (k : Nat) (f : Group → Group) : (s.updGrp k f).spdm = s.spdm := rfl
@[simp] theorem updGrp_swarm (s : State) (k : Nat) (f : Group → Group) : (s.updGrp k f).swarm = s.swarm := rfl
@[simp] theorem updGrp_links (s : State) (k : Nat) (f : Group → Group) : (s.updGrp k f).links = s.links := rfl
@[simp] theorem updGrp_plat (s : State) (k : Nat) (f : Group → Group) : (s.updGrp k f).plat = s.plat := rfl
@[simp] theorem updGrp_sent (s : State) (k : Nat) (f : Group → Group) : (s.updGrp k f).sent = s.sent := rfl

/-! ## updTeam -/

@[simp] theorem updTeam_tape (s : State) (k : Nat) (f : Team → Team) : (s.updTeam k f).tape = s.tape := rfl
@[simp] theorem updTeam_free (s : State) (k : Nat) (f : Team → Team) : (s.updTeam k f).free = s.free := rfl
@[simp] theorem updTeam_cur (s : State) (k : Nat) (f : Team → Team) : (s.updTeam k f).cur = s.cur := rfl
@[simp] theorem updTeam_picks (s : State) (k : Nat) (f : Team → Team) : (s.updTeam k f).picks = s.picks := rfl
@[simp] theorem updTeam_nextId (s : State) (k : Nat) (f : Team → Team) : (s.updTeam k f).nextId = s.nextId := rfl
@[simp] theorem updTeam_groups (s : State) (k : Nat) (f : Team → Team) : (s.updTeam k f).groups = s.groups := rfl
@[simp] theorem updTeam_launches (s : State) (k : Nat) (f : Team → Team) : (s.updTeam k f).launches = s.launches := rfl
@[simp] theorem updTeam_bins (s : State) (k : Nat) (f : Team → Team) : (s.updTeam k f).bins = s.bins := rfl
@[simp] theorem updTeam_rf (s : State) (k : Nat) (f : Team → Team) : (s.updTeam k f).rf = s.rf := rfl
@[simp] theorem updTeam_spad (s : State) (k : Nat) (f : Team → Team) : (s.updTeam k f).spad = s.spad := rfl
@[simp] theorem updTeam_acc (s : State) (k : Nat) (f : Team → Team) : (s.updTeam k f).acc = s.acc := rfl
@[simp] theorem updTeam_olds (s : State) (k : Nat) (f : Team → Team) : (s.updTeam k f).olds = s.olds := rfl
@[simp] theorem updTeam_cores (s : State) (k : Nat) (f : Team → Team) : (s.updTeam k f).cores = s.cores := rfl
@[simp] theorem updTeam_feat (s : State) (k : Nat) (f : Team → Team) : (s.updTeam k f).feat = s.feat := rfl
@[simp] theorem updTeam_copies (s : State) (k : Nat) (f : Team → Team) : (s.updTeam k f).copies = s.copies := rfl
@[simp] theorem updTeam_attns (s : State) (k : Nat) (f : Team → Team) : (s.updTeam k f).attns = s.attns := rfl
@[simp] theorem updTeam_mapCache (s : State) (k : Nat) (f : Team → Team) : (s.updTeam k f).mapCache = s.mapCache := rfl
@[simp] theorem updTeam_travs (s : State) (k : Nat) (f : Team → Team) : (s.updTeam k f).travs = s.travs := rfl
@[simp] theorem updTeam_travId (s : State) (k : Nat) (f : Team → Team) : (s.updTeam k f).travId = s.travId := rfl
@[simp] theorem updTeam_graphs (s : State) (k : Nat) (f : Team → Team) : (s.updTeam k f).graphs = s.graphs := rfl
@[simp] theorem updTeam_disp (s : State) (k : Nat) (f : Team → Team) : (s.updTeam k f).disp = s.disp := rfl
@[simp] theorem updTeam_mem (s : State) (k : Nat) (f : Team → Team) : (s.updTeam k f).mem = s.mem := rfl
@[simp] theorem updTeam_chk (s : State) (k : Nat) (f : Team → Team) : (s.updTeam k f).chk = s.chk := rfl
@[simp] theorem updTeam_ely (s : State) (k : Nat) (f : Team → Team) : (s.updTeam k f).ely = s.ely := rfl
@[simp] theorem updTeam_ecc (s : State) (k : Nat) (f : Team → Team) : (s.updTeam k f).ecc = s.ecc := rfl
@[simp] theorem updTeam_expiry (s : State) (k : Nat) (f : Team → Team) : (s.updTeam k f).expiry = s.expiry := rfl
@[simp] theorem updTeam_l1 (s : State) (k : Nat) (f : Team → Team) : (s.updTeam k f).l1 = s.l1 := rfl
@[simp] theorem updTeam_lam (s : State) (k : Nat) (f : Team → Team) : (s.updTeam k f).lam = s.lam := rfl
@[simp] theorem updTeam_slices (s : State) (k : Nat) (f : Team → Team) : (s.updTeam k f).slices = s.slices := rfl
@[simp] theorem updTeam_reqs (s : State) (k : Nat) (f : Team → Team) : (s.updTeam k f).reqs = s.reqs := rfl
@[simp] theorem updTeam_waits (s : State) (k : Nat) (f : Team → Team) : (s.updTeam k f).waits = s.waits := rfl
@[simp] theorem updTeam_locks (s : State) (k : Nat) (f : Team → Team) : (s.updTeam k f).locks = s.locks := rfl
@[simp] theorem updTeam_snoops (s : State) (k : Nat) (f : Team → Team) : (s.updTeam k f).snoops = s.snoops := rfl
@[simp] theorem updTeam_relTags (s : State) (k : Nat) (f : Team → Team) : (s.updTeam k f).relTags = s.relTags := rfl
@[simp] theorem updTeam_tlb (s : State) (k : Nat) (f : Team → Team) : (s.updTeam k f).tlb = s.tlb := rfl
@[simp] theorem updTeam_aspaces (s : State) (k : Nat) (f : Team → Team) : (s.updTeam k f).aspaces = s.aspaces := rfl
@[simp] theorem updTeam_counts (s : State) (k : Nat) (f : Team → Team) : (s.updTeam k f).counts = s.counts := rfl
@[simp] theorem updTeam_hdm (s : State) (k : Nat) (f : Team → Team) : (s.updTeam k f).hdm = s.hdm := rfl
@[simp] theorem updTeam_hostBias (s : State) (k : Nat) (f : Team → Team) : (s.updTeam k f).hostBias = s.hostBias := rfl
@[simp] theorem updTeam_flips (s : State) (k : Nat) (f : Team → Team) : (s.updTeam k f).flips = s.flips := rfl
@[simp] theorem updTeam_gtc (s : State) (k : Nat) (f : Team → Team) : (s.updTeam k f).gtc = s.gtc := rfl
@[simp] theorem updTeam_agents (s : State) (k : Nat) (f : Team → Team) : (s.updTeam k f).agents = s.agents := rfl
@[simp] theorem updTeam_loss (s : State) (k : Nat) (f : Team → Team) : (s.updTeam k f).loss = s.loss := rfl
@[simp] theorem updTeam_frozen (s : State) (k : Nat) (f : Team → Team) : (s.updTeam k f).frozen = s.frozen := rfl
@[simp] theorem updTeam_regions (s : State) (k : Nat) (f : Team → Team) : (s.updTeam k f).regions = s.regions := rfl
@[simp] theorem updTeam_pfaults (s : State) (k : Nat) (f : Team → Team) : (s.updTeam k f).pfaults = s.pfaults := rfl
@[simp] theorem updTeam_poolBase (s : State) (k : Nat) (f : Team → Team) : (s.updTeam k f).poolBase = s.poolBase := rfl
@[simp] theorem updTeam_poolSize (s : State) (k : Nat) (f : Team → Team) : (s.updTeam k f).poolSize = s.poolSize := rfl
@[simp] theorem updTeam_poolUsed (s : State) (k : Nat) (f : Team → Team) : (s.updTeam k f).poolUsed = s.poolUsed := rfl
@[simp] theorem updTeam_mbox (s : State) (k : Nat) (f : Team → Team) : (s.updTeam k f).mbox = s.mbox := rfl
@[simp] theorem updTeam_fw (s : State) (k : Nat) (f : Team → Team) : (s.updTeam k f).fw = s.fw := rfl
@[simp] theorem updTeam_spdm (s : State) (k : Nat) (f : Team → Team) : (s.updTeam k f).spdm = s.spdm := rfl
@[simp] theorem updTeam_swarm (s : State) (k : Nat) (f : Team → Team) : (s.updTeam k f).swarm = s.swarm := rfl
@[simp] theorem updTeam_links (s : State) (k : Nat) (f : Team → Team) : (s.updTeam k f).links = s.links := rfl
@[simp] theorem updTeam_plat (s : State) (k : Nat) (f : Team → Team) : (s.updTeam k f).plat = s.plat := rfl
@[simp] theorem updTeam_sent (s : State) (k : Nat) (f : Team → Team) : (s.updTeam k f).sent = s.sent := rfl

/-! ## updLaunch -/

@[simp] theorem updLaunch_tape (s : State) (k : Nat) (f : Launch → Launch) : (s.updLaunch k f).tape = s.tape := rfl
@[simp] theorem updLaunch_free (s : State) (k : Nat) (f : Launch → Launch) : (s.updLaunch k f).free = s.free := rfl
@[simp] theorem updLaunch_cur (s : State) (k : Nat) (f : Launch → Launch) : (s.updLaunch k f).cur = s.cur := rfl
@[simp] theorem updLaunch_picks (s : State) (k : Nat) (f : Launch → Launch) : (s.updLaunch k f).picks = s.picks := rfl
@[simp] theorem updLaunch_nextId (s : State) (k : Nat) (f : Launch → Launch) : (s.updLaunch k f).nextId = s.nextId := rfl
@[simp] theorem updLaunch_groups (s : State) (k : Nat) (f : Launch → Launch) : (s.updLaunch k f).groups = s.groups := rfl
@[simp] theorem updLaunch_teams (s : State) (k : Nat) (f : Launch → Launch) : (s.updLaunch k f).teams = s.teams := rfl
@[simp] theorem updLaunch_bins (s : State) (k : Nat) (f : Launch → Launch) : (s.updLaunch k f).bins = s.bins := rfl
@[simp] theorem updLaunch_rf (s : State) (k : Nat) (f : Launch → Launch) : (s.updLaunch k f).rf = s.rf := rfl
@[simp] theorem updLaunch_spad (s : State) (k : Nat) (f : Launch → Launch) : (s.updLaunch k f).spad = s.spad := rfl
@[simp] theorem updLaunch_acc (s : State) (k : Nat) (f : Launch → Launch) : (s.updLaunch k f).acc = s.acc := rfl
@[simp] theorem updLaunch_olds (s : State) (k : Nat) (f : Launch → Launch) : (s.updLaunch k f).olds = s.olds := rfl
@[simp] theorem updLaunch_cores (s : State) (k : Nat) (f : Launch → Launch) : (s.updLaunch k f).cores = s.cores := rfl
@[simp] theorem updLaunch_feat (s : State) (k : Nat) (f : Launch → Launch) : (s.updLaunch k f).feat = s.feat := rfl
@[simp] theorem updLaunch_copies (s : State) (k : Nat) (f : Launch → Launch) : (s.updLaunch k f).copies = s.copies := rfl
@[simp] theorem updLaunch_attns (s : State) (k : Nat) (f : Launch → Launch) : (s.updLaunch k f).attns = s.attns := rfl
@[simp] theorem updLaunch_mapCache (s : State) (k : Nat) (f : Launch → Launch) : (s.updLaunch k f).mapCache = s.mapCache := rfl
@[simp] theorem updLaunch_travs (s : State) (k : Nat) (f : Launch → Launch) : (s.updLaunch k f).travs = s.travs := rfl
@[simp] theorem updLaunch_travId (s : State) (k : Nat) (f : Launch → Launch) : (s.updLaunch k f).travId = s.travId := rfl
@[simp] theorem updLaunch_graphs (s : State) (k : Nat) (f : Launch → Launch) : (s.updLaunch k f).graphs = s.graphs := rfl
@[simp] theorem updLaunch_disp (s : State) (k : Nat) (f : Launch → Launch) : (s.updLaunch k f).disp = s.disp := rfl
@[simp] theorem updLaunch_mem (s : State) (k : Nat) (f : Launch → Launch) : (s.updLaunch k f).mem = s.mem := rfl
@[simp] theorem updLaunch_chk (s : State) (k : Nat) (f : Launch → Launch) : (s.updLaunch k f).chk = s.chk := rfl
@[simp] theorem updLaunch_ely (s : State) (k : Nat) (f : Launch → Launch) : (s.updLaunch k f).ely = s.ely := rfl
@[simp] theorem updLaunch_ecc (s : State) (k : Nat) (f : Launch → Launch) : (s.updLaunch k f).ecc = s.ecc := rfl
@[simp] theorem updLaunch_expiry (s : State) (k : Nat) (f : Launch → Launch) : (s.updLaunch k f).expiry = s.expiry := rfl
@[simp] theorem updLaunch_l1 (s : State) (k : Nat) (f : Launch → Launch) : (s.updLaunch k f).l1 = s.l1 := rfl
@[simp] theorem updLaunch_lam (s : State) (k : Nat) (f : Launch → Launch) : (s.updLaunch k f).lam = s.lam := rfl
@[simp] theorem updLaunch_slices (s : State) (k : Nat) (f : Launch → Launch) : (s.updLaunch k f).slices = s.slices := rfl
@[simp] theorem updLaunch_reqs (s : State) (k : Nat) (f : Launch → Launch) : (s.updLaunch k f).reqs = s.reqs := rfl
@[simp] theorem updLaunch_waits (s : State) (k : Nat) (f : Launch → Launch) : (s.updLaunch k f).waits = s.waits := rfl
@[simp] theorem updLaunch_locks (s : State) (k : Nat) (f : Launch → Launch) : (s.updLaunch k f).locks = s.locks := rfl
@[simp] theorem updLaunch_snoops (s : State) (k : Nat) (f : Launch → Launch) : (s.updLaunch k f).snoops = s.snoops := rfl
@[simp] theorem updLaunch_relTags (s : State) (k : Nat) (f : Launch → Launch) : (s.updLaunch k f).relTags = s.relTags := rfl
@[simp] theorem updLaunch_tlb (s : State) (k : Nat) (f : Launch → Launch) : (s.updLaunch k f).tlb = s.tlb := rfl
@[simp] theorem updLaunch_aspaces (s : State) (k : Nat) (f : Launch → Launch) : (s.updLaunch k f).aspaces = s.aspaces := rfl
@[simp] theorem updLaunch_counts (s : State) (k : Nat) (f : Launch → Launch) : (s.updLaunch k f).counts = s.counts := rfl
@[simp] theorem updLaunch_hdm (s : State) (k : Nat) (f : Launch → Launch) : (s.updLaunch k f).hdm = s.hdm := rfl
@[simp] theorem updLaunch_hostBias (s : State) (k : Nat) (f : Launch → Launch) : (s.updLaunch k f).hostBias = s.hostBias := rfl
@[simp] theorem updLaunch_flips (s : State) (k : Nat) (f : Launch → Launch) : (s.updLaunch k f).flips = s.flips := rfl
@[simp] theorem updLaunch_gtc (s : State) (k : Nat) (f : Launch → Launch) : (s.updLaunch k f).gtc = s.gtc := rfl
@[simp] theorem updLaunch_agents (s : State) (k : Nat) (f : Launch → Launch) : (s.updLaunch k f).agents = s.agents := rfl
@[simp] theorem updLaunch_loss (s : State) (k : Nat) (f : Launch → Launch) : (s.updLaunch k f).loss = s.loss := rfl
@[simp] theorem updLaunch_frozen (s : State) (k : Nat) (f : Launch → Launch) : (s.updLaunch k f).frozen = s.frozen := rfl
@[simp] theorem updLaunch_regions (s : State) (k : Nat) (f : Launch → Launch) : (s.updLaunch k f).regions = s.regions := rfl
@[simp] theorem updLaunch_pfaults (s : State) (k : Nat) (f : Launch → Launch) : (s.updLaunch k f).pfaults = s.pfaults := rfl
@[simp] theorem updLaunch_poolBase (s : State) (k : Nat) (f : Launch → Launch) : (s.updLaunch k f).poolBase = s.poolBase := rfl
@[simp] theorem updLaunch_poolSize (s : State) (k : Nat) (f : Launch → Launch) : (s.updLaunch k f).poolSize = s.poolSize := rfl
@[simp] theorem updLaunch_poolUsed (s : State) (k : Nat) (f : Launch → Launch) : (s.updLaunch k f).poolUsed = s.poolUsed := rfl
@[simp] theorem updLaunch_mbox (s : State) (k : Nat) (f : Launch → Launch) : (s.updLaunch k f).mbox = s.mbox := rfl
@[simp] theorem updLaunch_fw (s : State) (k : Nat) (f : Launch → Launch) : (s.updLaunch k f).fw = s.fw := rfl
@[simp] theorem updLaunch_spdm (s : State) (k : Nat) (f : Launch → Launch) : (s.updLaunch k f).spdm = s.spdm := rfl
@[simp] theorem updLaunch_swarm (s : State) (k : Nat) (f : Launch → Launch) : (s.updLaunch k f).swarm = s.swarm := rfl
@[simp] theorem updLaunch_links (s : State) (k : Nat) (f : Launch → Launch) : (s.updLaunch k f).links = s.links := rfl
@[simp] theorem updLaunch_plat (s : State) (k : Nat) (f : Launch → Launch) : (s.updLaunch k f).plat = s.plat := rfl
@[simp] theorem updLaunch_sent (s : State) (k : Nat) (f : Launch → Launch) : (s.updLaunch k f).sent = s.sent := rfl

/-! ## setCore -/

@[simp] theorem setCore_tape (s : State) (k : Nat) (c : Core) : (s.setCore k c).tape = s.tape := rfl
@[simp] theorem setCore_free (s : State) (k : Nat) (c : Core) : (s.setCore k c).free = s.free := rfl
@[simp] theorem setCore_cur (s : State) (k : Nat) (c : Core) : (s.setCore k c).cur = s.cur := rfl
@[simp] theorem setCore_picks (s : State) (k : Nat) (c : Core) : (s.setCore k c).picks = s.picks := rfl
@[simp] theorem setCore_nextId (s : State) (k : Nat) (c : Core) : (s.setCore k c).nextId = s.nextId := rfl
@[simp] theorem setCore_groups (s : State) (k : Nat) (c : Core) : (s.setCore k c).groups = s.groups := rfl
@[simp] theorem setCore_teams (s : State) (k : Nat) (c : Core) : (s.setCore k c).teams = s.teams := rfl
@[simp] theorem setCore_launches (s : State) (k : Nat) (c : Core) : (s.setCore k c).launches = s.launches := rfl
@[simp] theorem setCore_bins (s : State) (k : Nat) (c : Core) : (s.setCore k c).bins = s.bins := rfl
@[simp] theorem setCore_rf (s : State) (k : Nat) (c : Core) : (s.setCore k c).rf = s.rf := rfl
@[simp] theorem setCore_spad (s : State) (k : Nat) (c : Core) : (s.setCore k c).spad = s.spad := rfl
@[simp] theorem setCore_acc (s : State) (k : Nat) (c : Core) : (s.setCore k c).acc = s.acc := rfl
@[simp] theorem setCore_olds (s : State) (k : Nat) (c : Core) : (s.setCore k c).olds = s.olds := rfl
@[simp] theorem setCore_feat (s : State) (k : Nat) (c : Core) : (s.setCore k c).feat = s.feat := rfl
@[simp] theorem setCore_copies (s : State) (k : Nat) (c : Core) : (s.setCore k c).copies = s.copies := rfl
@[simp] theorem setCore_attns (s : State) (k : Nat) (c : Core) : (s.setCore k c).attns = s.attns := rfl
@[simp] theorem setCore_mapCache (s : State) (k : Nat) (c : Core) : (s.setCore k c).mapCache = s.mapCache := rfl
@[simp] theorem setCore_travs (s : State) (k : Nat) (c : Core) : (s.setCore k c).travs = s.travs := rfl
@[simp] theorem setCore_travId (s : State) (k : Nat) (c : Core) : (s.setCore k c).travId = s.travId := rfl
@[simp] theorem setCore_graphs (s : State) (k : Nat) (c : Core) : (s.setCore k c).graphs = s.graphs := rfl
@[simp] theorem setCore_disp (s : State) (k : Nat) (c : Core) : (s.setCore k c).disp = s.disp := rfl
@[simp] theorem setCore_mem (s : State) (k : Nat) (c : Core) : (s.setCore k c).mem = s.mem := rfl
@[simp] theorem setCore_chk (s : State) (k : Nat) (c : Core) : (s.setCore k c).chk = s.chk := rfl
@[simp] theorem setCore_ely (s : State) (k : Nat) (c : Core) : (s.setCore k c).ely = s.ely := rfl
@[simp] theorem setCore_ecc (s : State) (k : Nat) (c : Core) : (s.setCore k c).ecc = s.ecc := rfl
@[simp] theorem setCore_expiry (s : State) (k : Nat) (c : Core) : (s.setCore k c).expiry = s.expiry := rfl
@[simp] theorem setCore_l1 (s : State) (k : Nat) (c : Core) : (s.setCore k c).l1 = s.l1 := rfl
@[simp] theorem setCore_lam (s : State) (k : Nat) (c : Core) : (s.setCore k c).lam = s.lam := rfl
@[simp] theorem setCore_slices (s : State) (k : Nat) (c : Core) : (s.setCore k c).slices = s.slices := rfl
@[simp] theorem setCore_reqs (s : State) (k : Nat) (c : Core) : (s.setCore k c).reqs = s.reqs := rfl
@[simp] theorem setCore_waits (s : State) (k : Nat) (c : Core) : (s.setCore k c).waits = s.waits := rfl
@[simp] theorem setCore_locks (s : State) (k : Nat) (c : Core) : (s.setCore k c).locks = s.locks := rfl
@[simp] theorem setCore_snoops (s : State) (k : Nat) (c : Core) : (s.setCore k c).snoops = s.snoops := rfl
@[simp] theorem setCore_relTags (s : State) (k : Nat) (c : Core) : (s.setCore k c).relTags = s.relTags := rfl
@[simp] theorem setCore_tlb (s : State) (k : Nat) (c : Core) : (s.setCore k c).tlb = s.tlb := rfl
@[simp] theorem setCore_aspaces (s : State) (k : Nat) (c : Core) : (s.setCore k c).aspaces = s.aspaces := rfl
@[simp] theorem setCore_counts (s : State) (k : Nat) (c : Core) : (s.setCore k c).counts = s.counts := rfl
@[simp] theorem setCore_hdm (s : State) (k : Nat) (c : Core) : (s.setCore k c).hdm = s.hdm := rfl
@[simp] theorem setCore_hostBias (s : State) (k : Nat) (c : Core) : (s.setCore k c).hostBias = s.hostBias := rfl
@[simp] theorem setCore_flips (s : State) (k : Nat) (c : Core) : (s.setCore k c).flips = s.flips := rfl
@[simp] theorem setCore_gtc (s : State) (k : Nat) (c : Core) : (s.setCore k c).gtc = s.gtc := rfl
@[simp] theorem setCore_agents (s : State) (k : Nat) (c : Core) : (s.setCore k c).agents = s.agents := rfl
@[simp] theorem setCore_loss (s : State) (k : Nat) (c : Core) : (s.setCore k c).loss = s.loss := rfl
@[simp] theorem setCore_frozen (s : State) (k : Nat) (c : Core) : (s.setCore k c).frozen = s.frozen := rfl
@[simp] theorem setCore_regions (s : State) (k : Nat) (c : Core) : (s.setCore k c).regions = s.regions := rfl
@[simp] theorem setCore_pfaults (s : State) (k : Nat) (c : Core) : (s.setCore k c).pfaults = s.pfaults := rfl
@[simp] theorem setCore_poolBase (s : State) (k : Nat) (c : Core) : (s.setCore k c).poolBase = s.poolBase := rfl
@[simp] theorem setCore_poolSize (s : State) (k : Nat) (c : Core) : (s.setCore k c).poolSize = s.poolSize := rfl
@[simp] theorem setCore_poolUsed (s : State) (k : Nat) (c : Core) : (s.setCore k c).poolUsed = s.poolUsed := rfl
@[simp] theorem setCore_mbox (s : State) (k : Nat) (c : Core) : (s.setCore k c).mbox = s.mbox := rfl
@[simp] theorem setCore_fw (s : State) (k : Nat) (c : Core) : (s.setCore k c).fw = s.fw := rfl
@[simp] theorem setCore_spdm (s : State) (k : Nat) (c : Core) : (s.setCore k c).spdm = s.spdm := rfl
@[simp] theorem setCore_swarm (s : State) (k : Nat) (c : Core) : (s.setCore k c).swarm = s.swarm := rfl
@[simp] theorem setCore_links (s : State) (k : Nat) (c : Core) : (s.setCore k c).links = s.links := rfl
@[simp] theorem setCore_plat (s : State) (k : Nat) (c : Core) : (s.setCore k c).plat = s.plat := rfl
@[simp] theorem setCore_sent (s : State) (k : Nat) (c : Core) : (s.setCore k c).sent = s.sent := rfl

/-! ## emit -/

@[simp] theorem emit_tape (s : State) (m : Msg) : (s.emit m).tape = s.tape := rfl
@[simp] theorem emit_free (s : State) (m : Msg) : (s.emit m).free = s.free := rfl
@[simp] theorem emit_cur (s : State) (m : Msg) : (s.emit m).cur = s.cur := rfl
@[simp] theorem emit_picks (s : State) (m : Msg) : (s.emit m).picks = s.picks := rfl
@[simp] theorem emit_nextId (s : State) (m : Msg) : (s.emit m).nextId = s.nextId := rfl
@[simp] theorem emit_groups (s : State) (m : Msg) : (s.emit m).groups = s.groups := rfl
@[simp] theorem emit_teams (s : State) (m : Msg) : (s.emit m).teams = s.teams := rfl
@[simp] theorem emit_launches (s : State) (m : Msg) : (s.emit m).launches = s.launches := rfl
@[simp] theorem emit_bins (s : State) (m : Msg) : (s.emit m).bins = s.bins := rfl
@[simp] theorem emit_rf (s : State) (m : Msg) : (s.emit m).rf = s.rf := rfl
@[simp] theorem emit_spad (s : State) (m : Msg) : (s.emit m).spad = s.spad := rfl
@[simp] theorem emit_acc (s : State) (m : Msg) : (s.emit m).acc = s.acc := rfl
@[simp] theorem emit_olds (s : State) (m : Msg) : (s.emit m).olds = s.olds := rfl
@[simp] theorem emit_cores (s : State) (m : Msg) : (s.emit m).cores = s.cores := rfl
@[simp] theorem emit_feat (s : State) (m : Msg) : (s.emit m).feat = s.feat := rfl
@[simp] theorem emit_copies (s : State) (m : Msg) : (s.emit m).copies = s.copies := rfl
@[simp] theorem emit_attns (s : State) (m : Msg) : (s.emit m).attns = s.attns := rfl
@[simp] theorem emit_mapCache (s : State) (m : Msg) : (s.emit m).mapCache = s.mapCache := rfl
@[simp] theorem emit_travs (s : State) (m : Msg) : (s.emit m).travs = s.travs := rfl
@[simp] theorem emit_travId (s : State) (m : Msg) : (s.emit m).travId = s.travId := rfl
@[simp] theorem emit_graphs (s : State) (m : Msg) : (s.emit m).graphs = s.graphs := rfl
@[simp] theorem emit_disp (s : State) (m : Msg) : (s.emit m).disp = s.disp := rfl
@[simp] theorem emit_mem (s : State) (m : Msg) : (s.emit m).mem = s.mem := rfl
@[simp] theorem emit_chk (s : State) (m : Msg) : (s.emit m).chk = s.chk := rfl
@[simp] theorem emit_ely (s : State) (m : Msg) : (s.emit m).ely = s.ely := rfl
@[simp] theorem emit_ecc (s : State) (m : Msg) : (s.emit m).ecc = s.ecc := rfl
@[simp] theorem emit_expiry (s : State) (m : Msg) : (s.emit m).expiry = s.expiry := rfl
@[simp] theorem emit_l1 (s : State) (m : Msg) : (s.emit m).l1 = s.l1 := rfl
@[simp] theorem emit_lam (s : State) (m : Msg) : (s.emit m).lam = s.lam := rfl
@[simp] theorem emit_slices (s : State) (m : Msg) : (s.emit m).slices = s.slices := rfl
@[simp] theorem emit_reqs (s : State) (m : Msg) : (s.emit m).reqs = s.reqs := rfl
@[simp] theorem emit_waits (s : State) (m : Msg) : (s.emit m).waits = s.waits := rfl
@[simp] theorem emit_locks (s : State) (m : Msg) : (s.emit m).locks = s.locks := rfl
@[simp] theorem emit_snoops (s : State) (m : Msg) : (s.emit m).snoops = s.snoops := rfl
@[simp] theorem emit_relTags (s : State) (m : Msg) : (s.emit m).relTags = s.relTags := rfl
@[simp] theorem emit_tlb (s : State) (m : Msg) : (s.emit m).tlb = s.tlb := rfl
@[simp] theorem emit_aspaces (s : State) (m : Msg) : (s.emit m).aspaces = s.aspaces := rfl
@[simp] theorem emit_counts (s : State) (m : Msg) : (s.emit m).counts = s.counts := rfl
@[simp] theorem emit_hdm (s : State) (m : Msg) : (s.emit m).hdm = s.hdm := rfl
@[simp] theorem emit_hostBias (s : State) (m : Msg) : (s.emit m).hostBias = s.hostBias := rfl
@[simp] theorem emit_flips (s : State) (m : Msg) : (s.emit m).flips = s.flips := rfl
@[simp] theorem emit_gtc (s : State) (m : Msg) : (s.emit m).gtc = s.gtc := rfl
@[simp] theorem emit_agents (s : State) (m : Msg) : (s.emit m).agents = s.agents := rfl
@[simp] theorem emit_loss (s : State) (m : Msg) : (s.emit m).loss = s.loss := rfl
@[simp] theorem emit_frozen (s : State) (m : Msg) : (s.emit m).frozen = s.frozen := rfl
@[simp] theorem emit_regions (s : State) (m : Msg) : (s.emit m).regions = s.regions := rfl
@[simp] theorem emit_pfaults (s : State) (m : Msg) : (s.emit m).pfaults = s.pfaults := rfl
@[simp] theorem emit_poolBase (s : State) (m : Msg) : (s.emit m).poolBase = s.poolBase := rfl
@[simp] theorem emit_poolSize (s : State) (m : Msg) : (s.emit m).poolSize = s.poolSize := rfl
@[simp] theorem emit_poolUsed (s : State) (m : Msg) : (s.emit m).poolUsed = s.poolUsed := rfl
@[simp] theorem emit_mbox (s : State) (m : Msg) : (s.emit m).mbox = s.mbox := rfl
@[simp] theorem emit_fw (s : State) (m : Msg) : (s.emit m).fw = s.fw := rfl
@[simp] theorem emit_spdm (s : State) (m : Msg) : (s.emit m).spdm = s.spdm := rfl
@[simp] theorem emit_swarm (s : State) (m : Msg) : (s.emit m).swarm = s.swarm := rfl
@[simp] theorem emit_links (s : State) (m : Msg) : (s.emit m).links = s.links := rfl
@[simp] theorem emit_plat (s : State) (m : Msg) : (s.emit m).plat = s.plat := rfl

/-! ## emits -/

@[simp] theorem emits_tape (s : State) (ms : List Msg) : (s.emits ms).tape = s.tape := rfl
@[simp] theorem emits_free (s : State) (ms : List Msg) : (s.emits ms).free = s.free := rfl
@[simp] theorem emits_cur (s : State) (ms : List Msg) : (s.emits ms).cur = s.cur := rfl
@[simp] theorem emits_picks (s : State) (ms : List Msg) : (s.emits ms).picks = s.picks := rfl
@[simp] theorem emits_nextId (s : State) (ms : List Msg) : (s.emits ms).nextId = s.nextId := rfl
@[simp] theorem emits_groups (s : State) (ms : List Msg) : (s.emits ms).groups = s.groups := rfl
@[simp] theorem emits_teams (s : State) (ms : List Msg) : (s.emits ms).teams = s.teams := rfl
@[simp] theorem emits_launches (s : State) (ms : List Msg) : (s.emits ms).launches = s.launches := rfl
@[simp] theorem emits_bins (s : State) (ms : List Msg) : (s.emits ms).bins = s.bins := rfl
@[simp] theorem emits_rf (s : State) (ms : List Msg) : (s.emits ms).rf = s.rf := rfl
@[simp] theorem emits_spad (s : State) (ms : List Msg) : (s.emits ms).spad = s.spad := rfl
@[simp] theorem emits_acc (s : State) (ms : List Msg) : (s.emits ms).acc = s.acc := rfl
@[simp] theorem emits_olds (s : State) (ms : List Msg) : (s.emits ms).olds = s.olds := rfl
@[simp] theorem emits_cores (s : State) (ms : List Msg) : (s.emits ms).cores = s.cores := rfl
@[simp] theorem emits_feat (s : State) (ms : List Msg) : (s.emits ms).feat = s.feat := rfl
@[simp] theorem emits_copies (s : State) (ms : List Msg) : (s.emits ms).copies = s.copies := rfl
@[simp] theorem emits_attns (s : State) (ms : List Msg) : (s.emits ms).attns = s.attns := rfl
@[simp] theorem emits_mapCache (s : State) (ms : List Msg) : (s.emits ms).mapCache = s.mapCache := rfl
@[simp] theorem emits_travs (s : State) (ms : List Msg) : (s.emits ms).travs = s.travs := rfl
@[simp] theorem emits_travId (s : State) (ms : List Msg) : (s.emits ms).travId = s.travId := rfl
@[simp] theorem emits_graphs (s : State) (ms : List Msg) : (s.emits ms).graphs = s.graphs := rfl
@[simp] theorem emits_disp (s : State) (ms : List Msg) : (s.emits ms).disp = s.disp := rfl
@[simp] theorem emits_mem (s : State) (ms : List Msg) : (s.emits ms).mem = s.mem := rfl
@[simp] theorem emits_chk (s : State) (ms : List Msg) : (s.emits ms).chk = s.chk := rfl
@[simp] theorem emits_ely (s : State) (ms : List Msg) : (s.emits ms).ely = s.ely := rfl
@[simp] theorem emits_ecc (s : State) (ms : List Msg) : (s.emits ms).ecc = s.ecc := rfl
@[simp] theorem emits_expiry (s : State) (ms : List Msg) : (s.emits ms).expiry = s.expiry := rfl
@[simp] theorem emits_l1 (s : State) (ms : List Msg) : (s.emits ms).l1 = s.l1 := rfl
@[simp] theorem emits_lam (s : State) (ms : List Msg) : (s.emits ms).lam = s.lam := rfl
@[simp] theorem emits_slices (s : State) (ms : List Msg) : (s.emits ms).slices = s.slices := rfl
@[simp] theorem emits_reqs (s : State) (ms : List Msg) : (s.emits ms).reqs = s.reqs := rfl
@[simp] theorem emits_waits (s : State) (ms : List Msg) : (s.emits ms).waits = s.waits := rfl
@[simp] theorem emits_locks (s : State) (ms : List Msg) : (s.emits ms).locks = s.locks := rfl
@[simp] theorem emits_snoops (s : State) (ms : List Msg) : (s.emits ms).snoops = s.snoops := rfl
@[simp] theorem emits_relTags (s : State) (ms : List Msg) : (s.emits ms).relTags = s.relTags := rfl
@[simp] theorem emits_tlb (s : State) (ms : List Msg) : (s.emits ms).tlb = s.tlb := rfl
@[simp] theorem emits_aspaces (s : State) (ms : List Msg) : (s.emits ms).aspaces = s.aspaces := rfl
@[simp] theorem emits_counts (s : State) (ms : List Msg) : (s.emits ms).counts = s.counts := rfl
@[simp] theorem emits_hdm (s : State) (ms : List Msg) : (s.emits ms).hdm = s.hdm := rfl
@[simp] theorem emits_hostBias (s : State) (ms : List Msg) : (s.emits ms).hostBias = s.hostBias := rfl
@[simp] theorem emits_flips (s : State) (ms : List Msg) : (s.emits ms).flips = s.flips := rfl
@[simp] theorem emits_gtc (s : State) (ms : List Msg) : (s.emits ms).gtc = s.gtc := rfl
@[simp] theorem emits_agents (s : State) (ms : List Msg) : (s.emits ms).agents = s.agents := rfl
@[simp] theorem emits_loss (s : State) (ms : List Msg) : (s.emits ms).loss = s.loss := rfl
@[simp] theorem emits_frozen (s : State) (ms : List Msg) : (s.emits ms).frozen = s.frozen := rfl
@[simp] theorem emits_regions (s : State) (ms : List Msg) : (s.emits ms).regions = s.regions := rfl
@[simp] theorem emits_pfaults (s : State) (ms : List Msg) : (s.emits ms).pfaults = s.pfaults := rfl
@[simp] theorem emits_poolBase (s : State) (ms : List Msg) : (s.emits ms).poolBase = s.poolBase := rfl
@[simp] theorem emits_poolSize (s : State) (ms : List Msg) : (s.emits ms).poolSize = s.poolSize := rfl
@[simp] theorem emits_poolUsed (s : State) (ms : List Msg) : (s.emits ms).poolUsed = s.poolUsed := rfl
@[simp] theorem emits_mbox (s : State) (ms : List Msg) : (s.emits ms).mbox = s.mbox := rfl
@[simp] theorem emits_fw (s : State) (ms : List Msg) : (s.emits ms).fw = s.fw := rfl
@[simp] theorem emits_spdm (s : State) (ms : List Msg) : (s.emits ms).spdm = s.spdm := rfl
@[simp] theorem emits_swarm (s : State) (ms : List Msg) : (s.emits ms).swarm = s.swarm := rfl
@[simp] theorem emits_links (s : State) (ms : List Msg) : (s.emits ms).links = s.links := rfl
@[simp] theorem emits_plat (s : State) (ms : List Msg) : (s.emits ms).plat = s.plat := rfl

/-! ## Reads through updates -/

@[simp] theorem grp_setGrp (s : State) (k : Nat) (g : Group) : (s.setGrp k g).grp k = some g :=
  Store.find_put_self ..
theorem grp_setGrp_ne (s : State) (k : Nat) (g : Group) {j : Nat} (h : j ≠ k) : (s.setGrp k g).grp j = s.grp j :=
  Store.find_put_ne _ _ _ h
theorem grp_updGrp (s : State) (k : Nat) (f : Group → Group) : (s.updGrp k f).grp k = (s.grp k).map f :=
  Store.find_adjust_self ..
theorem grp_updGrp_ne (s : State) (k : Nat) (f : Group → Group) {j : Nat} (h : j ≠ k) : (s.updGrp k f).grp j = s.grp j :=
  Store.find_adjust_ne _ _ _ h
theorem team_updTeam (s : State) (k : Nat) (f : Team → Team) : (s.updTeam k f).team k = (s.team k).map f :=
  Store.find_adjust_self ..
theorem team_updTeam_ne (s : State) (k : Nat) (f : Team → Team) {j : Nat} (h : j ≠ k) :
    (s.updTeam k f).team j = s.team j := Store.find_adjust_ne _ _ _ h
theorem launch_updLaunch (s : State) (k : Nat) (f : Launch → Launch) : (s.updLaunch k f).launch k = (s.launch k).map f :=
  Store.find_adjust_self ..
@[simp] theorem setGrp_team (s : State) (k : Nat) (g : Group) (j : Nat) : (s.setGrp k g).team j = s.team j := rfl
@[simp] theorem setGrp_launch (s : State) (k : Nat) (g : Group) (j : Nat) : (s.setGrp k g).launch j = s.launch j := rfl
@[simp] theorem setGrp_core (s : State) (k : Nat) (g : Group) (j : Nat) : (s.setGrp k g).core j = s.core j := rfl
@[simp] theorem updGrp_team (s : State) (k : Nat) (f : Group → Group) (j : Nat) : (s.updGrp k f).team j = s.team j := rfl
@[simp] theorem updGrp_launch (s : State) (k : Nat) (f : Group → Group) (j : Nat) : (s.updGrp k f).launch j = s.launch j := rfl
@[simp] theorem updGrp_core (s : State) (k : Nat) (f : Group → Group) (j : Nat) : (s.updGrp k f).core j = s.core j := rfl
@[simp] theorem updTeam_grp (s : State) (k : Nat) (f : Team → Team) (j : Nat) : (s.updTeam k f).grp j = s.grp j := rfl
@[simp] theorem updTeam_launch (s : State) (k : Nat) (f : Team → Team) (j : Nat) : (s.updTeam k f).launch j = s.launch j := rfl
@[simp] theorem updTeam_core (s : State) (k : Nat) (f : Team → Team) (j : Nat) : (s.updTeam k f).core j = s.core j := rfl
@[simp] theorem updLaunch_grp (s : State) (k : Nat) (f : Launch → Launch) (j : Nat) : (s.updLaunch k f).grp j = s.grp j := rfl
@[simp] theorem updLaunch_team (s : State) (k : Nat) (f : Launch → Launch) (j : Nat) : (s.updLaunch k f).team j = s.team j := rfl
@[simp] theorem updLaunch_core (s : State) (k : Nat) (f : Launch → Launch) (j : Nat) : (s.updLaunch k f).core j = s.core j := rfl
@[simp] theorem setCore_grp (s : State) (k : Nat) (c : Core) (j : Nat) : (s.setCore k c).grp j = s.grp j := rfl
@[simp] theorem setCore_team (s : State) (k : Nat) (c : Core) (j : Nat) : (s.setCore k c).team j = s.team j := rfl
@[simp] theorem setCore_launch (s : State) (k : Nat) (c : Core) (j : Nat) : (s.setCore k c).launch j = s.launch j := rfl
@[simp] theorem emit_grp (s : State) (m : Msg) (j : Nat) : (s.emit m).grp j = s.grp j := rfl
@[simp] theorem emit_team (s : State) (m : Msg) (j : Nat) : (s.emit m).team j = s.team j := rfl
@[simp] theorem emit_launch (s : State) (m : Msg) (j : Nat) : (s.emit m).launch j = s.launch j := rfl
@[simp] theorem emit_core (s : State) (m : Msg) (j : Nat) : (s.emit m).core j = s.core j := rfl
@[simp] theorem emits_grp (s : State) (ms : List Msg) (j : Nat) : (s.emits ms).grp j = s.grp j := rfl
@[simp] theorem emits_team (s : State) (ms : List Msg) (j : Nat) : (s.emits ms).team j = s.team j := rfl
@[simp] theorem emits_launch (s : State) (ms : List Msg) (j : Nat) : (s.emits ms).launch j = s.launch j := rfl
@[simp] theorem emits_core (s : State) (ms : List Msg) (j : Nat) : (s.emits ms).core j = s.core j := rfl

end State

/-! ## The issuing group -/

/-- A word of a resident group runs its meaning. -/
theorem withCur_next {s : State} {g : Group} (h : s.grp s.cur = some g) (k : Nat → Group → State) :
    withCur s k = .next (k s.cur g) := by simp [withCur, h]

/-- A word with no issuing group stops. -/
theorem withCur_none {s : State} (h : s.grp s.cur = none) (k : Nat → Group → State) :
    withCur s k = .fault .noIssuingGroup := by simp [withCur, h]

/-- Whatever a word leaves, its group's meaning left. -/
theorem withCur_cases {s t : State} {k : Nat → Group → State} (h : withCur s k = .next t) :
    ∃ g, s.grp s.cur = some g ∧ t = k s.cur g := by
  unfold withCur at h
  split at h
  · cases h
  · next g hg => exact ⟨g, hg, by injection h with h; exact h.symm⟩

end Sys2Proof.Machine
end

