-- ==== Sys2Proof/Laws/Ops.lean ====
section
/-!
SUPPORT. Ops.lean: what each shared operation of the words can do, said once: issuing, trapping, entering a trap.
-/
namespace Sys2Proof.Machine

open Sys2Proof

/-- Issuing a scalar word: at the 64th outstanding result nothing changes (R35); else its result is outstanding, and the
stream is at pc. -/
theorem issueSK_cases (s : State) (gid : Nat) (g : Group) (kind : PKind) (ws : List (Nat × W32 × Shadow)) (pc : Va)
    (sw : Bool) :
    (g.sc.full = true ∧ issueSK s gid g kind ws pc sw = s) ∨
    (g.sc.full = false ∧ ∃ p : Pending, p.id = s.nextId ∧ p.kind = kind ∧
      p.writes = (ws.map fun w => .s (g.sKey w.1) w.2.1 w.2.2 false) ∧
      issueSK s gid g kind ws pc sw =
        ({ s with nextId := s.nextId + 1 } : State).setGrp gid (({ g with sc := g.sc.push p } : Group).goS pc sw)) := by
  unfold issueSK
  split
  · next h => exact .inl ⟨h, rfl⟩
  · next h => exact .inr ⟨by simpa using h, _, rfl, rfl, rfl, rfl⟩

/-- Issuing a scalar word moves nothing but its group and the counter of ids. -/
theorem issueSK_frame (s : State) (gid : Nat) (g : Group) (kind : PKind) (ws : List (Nat × W32 × Shadow)) (pc : Va)
    (sw : Bool) : ∃ n gs, issueSK s gid g kind ws pc sw = { s with nextId := n, groups := gs } := by
  obtain ⟨-, h⟩ | ⟨-, p, -, -, -, h⟩ := issueSK_cases s gid g kind ws pc sw
  · exact ⟨s.nextId, s.groups, h⟩
  · exact ⟨_, _, h⟩

/-- A trap outside handler mode on a core with a TRAPBASE: the record is set, both streams stop (the trap of a lane word inside
a part-issued CST or XLDE included), and the trap is entered once no result is outstanding (R316); else the team ends (R317, R319). -/
theorem raiseAt_cases (s : State) (gid : Nat) (g : Group) (lane : Bool) (pc : Va) (c : Cause) (info : W32) (xlde : Bool) :
    ((g.handler = true ∨ (s.core (coreOf gid)).trapbase = 0) ∧
      raiseAt s gid g lane pc c info xlde = doubleTrap s gid g ⟨c.code, info, lane, pc, xlde⟩) ∨
    (g.handler = false ∧ (s.core (coreOf gid)).trapbase ≠ 0 ∧
      raiseAt s gid g lane pc c info xlde = enterTrap (s.setGrp gid
        { g with trap := some ⟨c.code, info, lane, pc, xlde⟩, ctx := { g.ctx with part := g.ctx.part && !lane },
                 sc := g.sc.unwait, ln := g.ln.unwait }) gid) := by
  unfold raiseAt
  split
  · next h => exact .inl ⟨by simpa using h, rfl⟩
  · next h =>
    have h : g.handler = false ∧ ¬(s.core (coreOf gid)).trapbase = 0 := by simpa using h
    exact .inr ⟨h.1, h.2, rfl⟩

/-- Entering a trap moves nothing but groups. -/
theorem enterTrap_frame (s : State) (gid : Nat) : ∃ gs, enterTrap s gid = { s with groups := gs } := by
  unfold enterTrap
  split
  · exact ⟨s.groups, rfl⟩
  · split
    · exact ⟨s.groups, rfl⟩
    · split
      · exact ⟨s.groups, rfl⟩
      · dsimp only
        split
        · exact ⟨_, rfl⟩
        · exact ⟨_, rfl⟩

end Sys2Proof.Machine
end

