-- ==== Sys2Proof/Laws/PerInstr.lean ====
section
/-!
SUPPORT. PerInstr.lean: for each instruction, that it has a word of its own where it is well-formed in some context (R52,
R53): words have one, events and sub-steps are well-formed nowhere.
-/
namespace Sys2Proof.Laws.Coded

open Sys2Proof

/-- A well-formed instruction has a word. -/
def Statement (i : Instr) : Prop := ∀ c : Ctx, i.wf c = true → (encode i).isSome = true

theorem sadd : ∀ x0 x1 x2 x3, Statement (.sadd x0 x1 x2 x3) := fun _ _ _ _ _ _ => rfl
theorem ssub : ∀ x0 x1 x2 x3, Statement (.ssub x0 x1 x2 x3) := fun _ _ _ _ _ _ => rfl
theorem smul : ∀ x0 x1 x2 x3, Statement (.smul x0 x1 x2 x3) := fun _ _ _ _ _ _ => rfl
theorem smulh : ∀ x0 x1 x2 x3, Statement (.smulh x0 x1 x2 x3) := fun _ _ _ _ _ _ => rfl
theorem sand : ∀ x0 x1 x2 x3, Statement (.sand x0 x1 x2 x3) := fun _ _ _ _ _ _ => rfl
theorem sor : ∀ x0 x1 x2 x3, Statement (.sor x0 x1 x2 x3) := fun _ _ _ _ _ _ => rfl
theorem sxor : ∀ x0 x1 x2 x3, Statement (.sxor x0 x1 x2 x3) := fun _ _ _ _ _ _ => rfl
theorem sshl : ∀ x0 x1 x2 x3, Statement (.sshl x0 x1 x2 x3) := fun _ _ _ _ _ _ => rfl
theorem sshr : ∀ x0 x1 x2 x3, Statement (.sshr x0 x1 x2 x3) := fun _ _ _ _ _ _ => rfl
theorem ssra : ∀ x0 x1 x2 x3, Statement (.ssra x0 x1 x2 x3) := fun _ _ _ _ _ _ => rfl
theorem smin : ∀ x0 x1 x2 x3, Statement (.smin x0 x1 x2 x3) := fun _ _ _ _ _ _ => rfl
theorem smax : ∀ x0 x1 x2 x3, Statement (.smax x0 x1 x2 x3) := fun _ _ _ _ _ _ => rfl
theorem smov : ∀ x0 x1 x2, Statement (.smov x0 x1 x2) := fun _ _ _ _ _ => rfl
theorem saddi : ∀ x0 x1 x2 x3, Statement (.saddi x0 x1 x2 x3) := fun _ _ _ _ _ _ => rfl
theorem smuli : ∀ x0 x1 x2 x3, Statement (.smuli x0 x1 x2 x3) := fun _ _ _ _ _ _ => rfl
theorem sandi : ∀ x0 x1 x2 x3, Statement (.sandi x0 x1 x2 x3) := fun _ _ _ _ _ _ => rfl
theorem sori : ∀ x0 x1 x2 x3, Statement (.sori x0 x1 x2 x3) := fun _ _ _ _ _ _ => rfl
theorem sxori : ∀ x0 x1 x2 x3, Statement (.sxori x0 x1 x2 x3) := fun _ _ _ _ _ _ => rfl
theorem smini : ∀ x0 x1 x2 x3, Statement (.smini x0 x1 x2 x3) := fun _ _ _ _ _ _ => rfl
theorem smaxi : ∀ x0 x1 x2 x3, Statement (.smaxi x0 x1 x2 x3) := fun _ _ _ _ _ _ => rfl
theorem sshli : ∀ x0 x1 x2 x3, Statement (.sshli x0 x1 x2 x3) := fun _ _ _ _ _ _ => rfl
theorem sshri : ∀ x0 x1 x2 x3, Statement (.sshri x0 x1 x2 x3) := fun _ _ _ _ _ _ => rfl
theorem ssrai : ∀ x0 x1 x2 x3, Statement (.ssrai x0 x1 x2 x3) := fun _ _ _ _ _ _ => rfl
theorem slui : ∀ x0 x1 x2, Statement (.slui x0 x1 x2) := fun _ _ _ _ _ => rfl
theorem smovi : ∀ x0 x1 x2, Statement (.smovi x0 x1 x2) := fun _ _ _ _ _ => rfl
theorem swiden : ∀ x0 x1 x2 x3, Statement (.swiden x0 x1 x2 x3) := fun _ _ _ _ _ _ => rfl
theorem srange : ∀ x0 x1 x2 x3, Statement (.srange x0 x1 x2 x3) := fun _ _ _ _ _ _ => rfl
theorem srnggetLo : ∀ x0 x1 x2, Statement (.srnggetLo x0 x1 x2) := fun _ _ _ _ _ => rfl
theorem srnggetHi : ∀ x0 x1 x2, Statement (.srnggetHi x0 x1 x2) := fun _ _ _ _ _ => rfl
theorem srnggetTop : ∀ x0 x1 x2, Statement (.srnggetTop x0 x1 x2) := fun _ _ _ _ _ => rfl
theorem sb : ∀ x0 x1 x2 x3 x4, Statement (.sb x0 x1 x2 x3 x4) := fun _ _ _ _ _ _ _ => rfl
theorem sj : ∀ x0 x1, Statement (.sj x0 x1) := fun _ _ _ _ => rfl
theorem sjal : ∀ x0 x1, Statement (.sjal x0 x1) := fun _ _ _ _ => rfl
theorem sjr : ∀ x0 x1, Statement (.sjr x0 x1) := fun _ _ _ _ => rfl
theorem skmov : ∀ x0 x1 x2, Statement (.skmov x0 x1 x2) := fun _ _ _ _ _ => rfl
theorem asetb : ∀ x0 x1 x2, Statement (.asetb x0 x1 x2) := fun _ _ _ _ _ => rfl
theorem asetx : ∀ x0 x1 x2 x3, Statement (.asetx x0 x1 x2 x3) := fun _ _ _ _ _ _ => rfl
theorem aget : ∀ x0 x1 x2 x3, Statement (.aget x0 x1 x2 x3) := fun _ _ _ _ _ _ => rfl
theorem smfs : ∀ x0 x1 x2, Statement (.smfs x0 x1 x2) := fun _ _ _ _ _ => rfl
theorem smts : ∀ x0 x1 x2, Statement (.smts x0 x1 x2) := fun _ _ _ _ _ => rfl
theorem sld : ∀ x0 x1 x2 x3 x4, Statement (.sld x0 x1 x2 x3 x4) := fun _ _ _ _ _ _ _ => rfl
theorem sst : ∀ x0 x1 x2 x3 x4, Statement (.sst x0 x1 x2 x3 x4) := fun _ _ _ _ _ _ _ => rfl
theorem lrun : ∀ x0 x1, Statement (.lrun x0 x1) := fun _ _ _ _ => rfl
theorem lsync : ∀ x0, Statement (.lsync x0) := fun _ _ _ => rfl
theorem tcopy : ∀ x0 x1 x2 x3 x4, Statement (.tcopy x0 x1 x2 x3 x4) := fun _ _ _ _ _ _ _ => rfl
theorem cwait : ∀ x0 x1 x2, Statement (.cwait x0 x1 x2) := fun _ _ _ _ _ => rfl
theorem mwait : ∀ x0 x1 x2 x3 x4, Statement (.mwait x0 x1 x2 x3 x4) := fun _ _ _ _ _ _ _ => rfl
theorem yield : ∀ x0 x1 x2 x3, Statement (.yield x0 x1 x2 x3) := fun _ _ _ _ _ _ => rfl
theorem attn : ∀ x0 x1 x2 x3, Statement (.attn x0 x1 x2 x3) := fun _ _ _ _ _ _ => rfl
theorem tvlayout : ∀ x0 x1 x2, Statement (.tvlayout x0 x1 x2) := fun _ _ _ _ _ => rfl
theorem bar : ∀ x0 x1 x2, Statement (.bar x0 x1 x2) := fun _ _ _ _ _ => rfl
theorem stgacq : ∀ x0 x1 x2, Statement (.stgacq x0 x1 x2) := fun _ _ _ _ _ => rfl
theorem stgrel : ∀ x0 x1 x2, Statement (.stgrel x0 x1 x2) := fun _ _ _ _ _ => rfl
theorem grow : ∀ x0 x1, Statement (.grow x0 x1) := fun _ _ _ _ => rfl
theorem shrink : ∀ x0 x1, Statement (.shrink x0 x1) := fun _ _ _ _ => rfl
theorem task : ∀ x0 x1 x2, Statement (.task x0 x1 x2) := fun _ _ _ _ _ => rfl
theorem sfence : ∀ x0 x1 x2, Statement (.sfence x0 x1 x2) := fun _ _ _ _ _ => rfl
theorem trap : ∀ x0 x1, Statement (.trap x0 x1) := fun _ _ _ _ => rfl
theorem brk : ∀ x0 x1, Statement (.brk x0 x1) := fun _ _ _ _ => rfl
theorem eret : ∀ x0, Statement (.eret x0) := fun _ _ _ => rfl
theorem eretSkip : ∀ x0, Statement (.eretSkip x0) := fun _ _ _ => rfl
theorem sexit : ∀ x0, Statement (.sexit x0) := fun _ _ _ => rfl
theorem snop : ∀ x0, Statement (.snop x0) := fun _ _ _ => rfl
theorem iadd : ∀ x0 x1 x2 x3 x4 x5, Statement (.iadd x0 x1 x2 x3 x4 x5) := fun _ _ _ _ _ _ _ _ => rfl
theorem isub : ∀ x0 x1 x2 x3 x4 x5, Statement (.isub x0 x1 x2 x3 x4 x5) := fun _ _ _ _ _ _ _ _ => rfl
theorem imul : ∀ x0 x1 x2 x3 x4 x5, Statement (.imul x0 x1 x2 x3 x4 x5) := fun _ _ _ _ _ _ _ _ => rfl
theorem imulh : ∀ x0 x1 x2 x3 x4, Statement (.imulh x0 x1 x2 x3 x4) := fun _ _ _ _ _ _ _ => rfl
theorem imad : ∀ x0 x1 x2 x3 x4 x5 x6, Statement (.imad x0 x1 x2 x3 x4 x5 x6) := fun _ _ _ _ _ _ _ _ _ => rfl
theorem iabs : ∀ x0 x1 x2 x3 x4, Statement (.iabs x0 x1 x2 x3 x4) := fun _ _ _ _ _ _ _ => rfl
theorem ineg : ∀ x0 x1 x2 x3 x4, Statement (.ineg x0 x1 x2 x3 x4) := fun _ _ _ _ _ _ _ => rfl
theorem imin : ∀ x0 x1 x2 x3 x4, Statement (.imin x0 x1 x2 x3 x4) := fun _ _ _ _ _ _ _ => rfl
theorem imax : ∀ x0 x1 x2 x3 x4, Statement (.imax x0 x1 x2 x3 x4) := fun _ _ _ _ _ _ _ => rfl
theorem iclamp : ∀ x0 x1 x2 x3 x4 x5, Statement (.iclamp x0 x1 x2 x3 x4 x5) := fun _ _ _ _ _ _ _ _ => rfl
theorem iand : ∀ x0 x1 x2 x3 x4, Statement (.iand x0 x1 x2 x3 x4) := fun _ _ _ _ _ _ _ => rfl
theorem ior : ∀ x0 x1 x2 x3 x4, Statement (.ior x0 x1 x2 x3 x4) := fun _ _ _ _ _ _ _ => rfl
theorem ixor : ∀ x0 x1 x2 x3 x4, Statement (.ixor x0 x1 x2 x3 x4) := fun _ _ _ _ _ _ _ => rfl
theorem inot : ∀ x0 x1 x2 x3, Statement (.inot x0 x1 x2 x3) := fun _ _ _ _ _ _ => rfl
theorem ishl : ∀ x0 x1 x2 x3 x4, Statement (.ishl x0 x1 x2 x3 x4) := fun _ _ _ _ _ _ _ => rfl
theorem ishr : ∀ x0 x1 x2 x3 x4, Statement (.ishr x0 x1 x2 x3 x4) := fun _ _ _ _ _ _ _ => rfl
theorem isra : ∀ x0 x1 x2 x3 x4, Statement (.isra x0 x1 x2 x3 x4) := fun _ _ _ _ _ _ _ => rfl
theorem iclz : ∀ x0 x1 x2 x3, Statement (.iclz x0 x1 x2 x3) := fun _ _ _ _ _ _ => rfl
theorem ipopc : ∀ x0 x1 x2 x3, Statement (.ipopc x0 x1 x2 x3) := fun _ _ _ _ _ _ => rfl
theorem ibrev : ∀ x0 x1 x2 x3, Statement (.ibrev x0 x1 x2 x3) := fun _ _ _ _ _ _ => rfl
theorem ibfx : ∀ x0 x1 x2 x3 x4 x5, Statement (.ibfx x0 x1 x2 x3 x4 x5) := fun _ _ _ _ _ _ _ _ => rfl
theorem ibfi : ∀ x0 x1 x2 x3 x4 x5 x6, Statement (.ibfi x0 x1 x2 x3 x4 x5 x6) := fun _ _ _ _ _ _ _ _ _ => rfl
theorem icmp : ∀ x0 x1 x2 x3 x4 x5, Statement (.icmp x0 x1 x2 x3 x4 x5) := fun _ _ _ _ _ _ _ _ => rfl
theorem isel : ∀ x0 x1 x2 x3 x4 x5, Statement (.isel x0 x1 x2 x3 x4 x5) := fun _ _ _ _ _ _ _ _ => rfl
theorem imov : ∀ x0 x1 x2 x3, Statement (.imov x0 x1 x2 x3) := fun _ _ _ _ _ _ => rfl
theorem imovi : ∀ x0 x1 x2 x3, Statement (.imovi x0 x1 x2 x3) := fun _ _ _ _ _ _ => rfl
theorem icvt : ∀ x0 x1 x2 x3 x4 x5 x6, Statement (.icvt x0 x1 x2 x3 x4 x5 x6) := fun _ _ _ _ _ _ _ _ _ => rfl
theorem vwiden : ∀ x0 x1 x2 x3, Statement (.vwiden x0 x1 x2 x3) := fun _ _ _ _ _ _ => rfl
theorem vrange : ∀ x0 x1 x2 x3, Statement (.vrange x0 x1 x2 x3) := fun _ _ _ _ _ _ => rfl
theorem fadd : ∀ x0 x1 x2 x3 x4 x5, Statement (.fadd x0 x1 x2 x3 x4 x5) := fun _ _ _ _ _ _ _ _ => rfl
theorem fsub : ∀ x0 x1 x2 x3 x4 x5, Statement (.fsub x0 x1 x2 x3 x4 x5) := fun _ _ _ _ _ _ _ _ => rfl
theorem fmul : ∀ x0 x1 x2 x3 x4 x5, Statement (.fmul x0 x1 x2 x3 x4 x5) := fun _ _ _ _ _ _ _ _ => rfl
theorem ffma : ∀ x0 x1 x2 x3 x4 x5 x6, Statement (.ffma x0 x1 x2 x3 x4 x5 x6) := fun _ _ _ _ _ _ _ _ _ => rfl
theorem fmin : ∀ x0 x1 x2 x3 x4, Statement (.fmin x0 x1 x2 x3 x4) := fun _ _ _ _ _ _ _ => rfl
theorem fmax : ∀ x0 x1 x2 x3 x4, Statement (.fmax x0 x1 x2 x3 x4) := fun _ _ _ _ _ _ _ => rfl
theorem fcmp : ∀ x0 x1 x2 x3 x4 x5, Statement (.fcmp x0 x1 x2 x3 x4 x5) := fun _ _ _ _ _ _ _ _ => rfl
theorem frcp : ∀ x0 x1 x2 x3 x4, Statement (.frcp x0 x1 x2 x3 x4) := fun _ _ _ _ _ _ _ => rfl
theorem frsq : ∀ x0 x1 x2 x3 x4, Statement (.frsq x0 x1 x2 x3 x4) := fun _ _ _ _ _ _ _ => rfl
theorem fsqrt : ∀ x0 x1 x2 x3 x4, Statement (.fsqrt x0 x1 x2 x3 x4) := fun _ _ _ _ _ _ _ => rfl
theorem fdiv : ∀ x0 x1 x2 x3 x4 x5, Statement (.fdiv x0 x1 x2 x3 x4 x5) := fun _ _ _ _ _ _ _ _ => rfl
theorem fexp2 : ∀ x0 x1 x2 x3 x4, Statement (.fexp2 x0 x1 x2 x3 x4) := fun _ _ _ _ _ _ _ => rfl
theorem flog2 : ∀ x0 x1 x2 x3 x4, Statement (.flog2 x0 x1 x2 x3 x4) := fun _ _ _ _ _ _ _ => rfl
theorem frnd : ∀ x0 x1 x2 x3 x4, Statement (.frnd x0 x1 x2 x3 x4) := fun _ _ _ _ _ _ _ => rfl
theorem fcvt : ∀ x0 x1 x2 x3 x4 x5 x6, Statement (.fcvt x0 x1 x2 x3 x4 x5 x6) := fun _ _ _ _ _ _ _ _ _ => rfl
theorem fclass : ∀ x0 x1 x2 x3, Statement (.fclass x0 x1 x2 x3) := fun _ _ _ _ _ _ => rfl
theorem lmul : ∀ x0 x1 x2 x3 x4, Statement (.lmul x0 x1 x2 x3 x4) := fun _ _ _ _ _ _ _ => rfl
theorem lcvt : ∀ x0 x1 x2 x3 x4 x5 x6, Statement (.lcvt x0 x1 x2 x3 x4 x5 x6) := fun _ _ _ _ _ _ _ _ _ => rfl
theorem pand : ∀ x0 x1 x2 x3, Statement (.pand x0 x1 x2 x3) := fun _ _ _ _ _ _ => rfl
theorem por : ∀ x0 x1 x2 x3, Statement (.por x0 x1 x2 x3) := fun _ _ _ _ _ _ => rfl
theorem pxor : ∀ x0 x1 x2 x3, Statement (.pxor x0 x1 x2 x3) := fun _ _ _ _ _ _ => rfl
theorem pnot : ∀ x0 x1 x2, Statement (.pnot x0 x1 x2) := fun _ _ _ _ _ => rfl
theorem pmov : ∀ x0 x1 x2, Statement (.pmov x0 x1 x2) := fun _ _ _ _ _ => rfl
theorem exmget : ∀ x0 x1, Statement (.exmget x0 x1) := fun _ _ _ _ => rfl
theorem exmset : ∀ x0 x1, Statement (.exmset x0 x1) := fun _ _ _ _ => rfl
theorem fxget : ∀ x0 x1, Statement (.fxget x0 x1) := fun _ _ _ _ => rfl
theorem fxset : ∀ x0 x1, Statement (.fxset x0 x1) := fun _ _ _ _ => rfl
theorem xshfl : ∀ x0 x1 x2 x3 x4 x5, Statement (.xshfl x0 x1 x2 x3 x4 x5) := fun _ _ _ _ _ _ _ _ => rfl
theorem xbcast : ∀ x0 x1 x2 x3 x4, Statement (.xbcast x0 x1 x2 x3 x4) := fun _ _ _ _ _ _ _ => rfl
theorem xballot : ∀ x0 x1 x2, Statement (.xballot x0 x1 x2) := fun _ _ _ _ _ => rfl
theorem xvote : ∀ x0 x1 x2 x3, Statement (.xvote x0 x1 x2 x3) := fun _ _ _ _ _ _ => rfl
theorem xprefix : ∀ x0 x1 x2 x3 x4 x5 x6, Statement (.xprefix x0 x1 x2 x3 x4 x5 x6) := fun _ _ _ _ _ _ _ _ _ => rfl
theorem xreduce : ∀ x0 x1 x2 x3 x4 x5, Statement (.xreduce x0 x1 x2 x3 x4 x5) := fun _ _ _ _ _ _ _ _ => rfl
theorem lbrc : ∀ x0 x1 x2, Statement (.lbrc x0 x1 x2) := fun _ _ _ _ _ => rfl
theorem ljoin : ∀ x0 x1, Statement (.ljoin x0 x1) := fun _ _ _ _ => rfl
theorem ljmp : ∀ x0 x1 x2, Statement (.ljmp x0 x1 x2) := fun _ _ _ _ _ => rfl
theorem lcall : ∀ x0 x1 x2, Statement (.lcall x0 x1 x2) := fun _ _ _ _ _ => rfl
theorem lret : ∀ x0 x1, Statement (.lret x0 x1) := fun _ _ _ _ => rfl
theorem lexit : ∀ x0 x1, Statement (.lexit x0 x1) := fun _ _ _ _ => rfl
theorem lkill : ∀ x0, Statement (.lkill x0) := fun _ _ _ => rfl
theorem spawn : ∀ x0 x1 x2, Statement (.spawn x0 x1 x2) := fun _ _ _ _ _ => rfl
theorem laneCwait : ∀ x0 x1 x2, Statement (.laneCwait x0 x1 x2) := fun _ _ _ _ _ => rfl
theorem ld : ∀ x0 x1 x2 x3 x4 x5 x6, Statement (.ld x0 x1 x2 x3 x4 x5 x6) := fun _ _ _ _ _ _ _ _ _ => rfl
theorem st : ∀ x0 x1 x2 x3 x4 x5 x6, Statement (.st x0 x1 x2 x3 x4 x5 x6) := fun _ _ _ _ _ _ _ _ _ => rfl
theorem lds : ∀ x0 x1 x2 x3 x4 x5, Statement (.lds x0 x1 x2 x3 x4 x5) := fun _ _ _ _ _ _ _ _ => rfl
theorem sts : ∀ x0 x1 x2 x3 x4 x5, Statement (.sts x0 x1 x2 x3 x4 x5) := fun _ _ _ _ _ _ _ _ => rfl
theorem cst : ∀ x0 x1 x2 x3 x4 x5, Statement (.cst x0 x1 x2 x3 x4 x5) := fun _ _ _ _ _ _ _ _ => rfl
theorem xlde : ∀ x0 x1 x2 x3 x4 x5, Statement (.xlde x0 x1 x2 x3 x4 x5) := fun _ _ _ _ _ _ _ _ => rfl
theorem lfence : ∀ x0 x1 x2 x3, Statement (.lfence x0 x1 x2 x3) := fun _ _ _ _ _ _ => rfl
theorem atomAdd : ∀ x0 x1 x2 x3 x4 x5 x6 x7, Statement (.atomAdd x0 x1 x2 x3 x4 x5 x6 x7) := fun _ _ _ _ _ _ _ _ _ _ => rfl
theorem atomMin : ∀ x0 x1 x2 x3 x4 x5 x6 x7, Statement (.atomMin x0 x1 x2 x3 x4 x5 x6 x7) := fun _ _ _ _ _ _ _ _ _ _ => rfl
theorem atomMax : ∀ x0 x1 x2 x3 x4 x5 x6 x7, Statement (.atomMax x0 x1 x2 x3 x4 x5 x6 x7) := fun _ _ _ _ _ _ _ _ _ _ => rfl
theorem atomAnd : ∀ x0 x1 x2 x3 x4 x5 x6 x7, Statement (.atomAnd x0 x1 x2 x3 x4 x5 x6 x7) := fun _ _ _ _ _ _ _ _ _ _ => rfl
theorem atomOr : ∀ x0 x1 x2 x3 x4 x5 x6 x7, Statement (.atomOr x0 x1 x2 x3 x4 x5 x6 x7) := fun _ _ _ _ _ _ _ _ _ _ => rfl
theorem atomXor : ∀ x0 x1 x2 x3 x4 x5 x6 x7, Statement (.atomXor x0 x1 x2 x3 x4 x5 x6 x7) := fun _ _ _ _ _ _ _ _ _ _ => rfl
theorem atomXchg : ∀ x0 x1 x2 x3 x4 x5 x6 x7, Statement (.atomXchg x0 x1 x2 x3 x4 x5 x6 x7) := fun _ _ _ _ _ _ _ _ _ _ => rfl
theorem atomCas : ∀ x0 x1 x2 x3 x4 x5 x6 x7, Statement (.atomCas x0 x1 x2 x3 x4 x5 x6 x7) := fun _ _ _ _ _ _ _ _ _ _ => rfl
theorem mbegin : ∀ x0 x1, Statement (.mbegin x0 x1) := fun _ _ _ _ => rfl
theorem mend : ∀ x0 x1, Statement (.mend x0 x1) := fun _ _ _ _ => rfl
theorem mma : ∀ x0 x1 x2 x3 x4 x5 x6, Statement (.mma x0 x1 x2 x3 x4 x5 x6) := fun _ _ _ _ _ _ _ _ _ => rfl
theorem mldf : ∀ x0 x1 x2 x3 x4 x5, Statement (.mldf x0 x1 x2 x3 x4 x5) := fun _ _ _ _ _ _ _ _ => rfl
theorem mzero : ∀ x0 x1 x2, Statement (.mzero x0 x1 x2) := fun _ _ _ _ _ => rfl
theorem maccld : ∀ x0 x1 x2 x3 x4, Statement (.maccld x0 x1 x2 x3 x4) := fun _ _ _ _ _ _ _ => rfl
theorem maccst : ∀ x0 x1 x2 x3 x4, Statement (.maccst x0 x1 x2 x3 x4) := fun _ _ _ _ _ _ _ => rfl
theorem tvbegin : ∀ x0 x1 x2 x3 x4 x5, Statement (.tvbegin x0 x1 x2 x3 x4 x5) := fun _ _ _ _ _ _ _ _ => rfl
theorem tvret : ∀ x0 x1 x2, Statement (.tvret x0 x1 x2) := fun _ _ _ _ _ => rfl
theorem tvcut : ∀ x0 x1 x2 x3, Statement (.tvcut x0 x1 x2 x3) := fun _ _ _ _ _ _ => rfl
theorem tvresume : ∀ x0 x1 x2, Statement (.tvresume x0 x1 x2) := fun _ _ _ _ _ => rfl
theorem tvbound : ∀ x0 x1, Statement (.tvbound x0 x1) := fun _ _ _ _ => rfl
theorem tvstat : ∀ x0 x1 x2, Statement (.tvstat x0 x1 x2) := fun _ _ _ _ _ => rfl
theorem wordNotAnInstruction : ∀ x0 x1 x2, Statement (.wordNotAnInstruction x0 x1 x2) := fun _ _ _ _ h => Bool.noConfusion (show false = true from h)
theorem gtcloRead : ∀ x0 x1, Statement (.gtcloRead x0 x1) := fun _ _ _ h => Bool.noConfusion (show false = true from h)
theorem gtchiRead : ∀ x0 x1, Statement (.gtchiRead x0 x1) := fun _ _ _ h => Bool.noConfusion (show false = true from h)
theorem modeWrite : ∀ x0 x1, Statement (.modeWrite x0 x1) := fun _ _ _ h => Bool.noConfusion (show false = true from h)
theorem exmloWrite : ∀ x0 x1, Statement (.exmloWrite x0 x1) := fun _ _ _ h => Bool.noConfusion (show false = true from h)
theorem exmhiWrite : ∀ x0 x1, Statement (.exmhiWrite x0 x1) := fun _ _ _ h => Bool.noConfusion (show false = true from h)
theorem trappcWrite : ∀ x0 x1, Statement (.trappcWrite x0 x1) := fun _ _ _ h => Bool.noConfusion (show false = true from h)
theorem trappcloWrite : ∀ x0 x1, Statement (.trappcloWrite x0 x1) := fun _ _ _ h => Bool.noConfusion (show false = true from h)
theorem trappchiWrite : ∀ x0 x1, Statement (.trappchiWrite x0 x1) := fun _ _ _ h => Bool.noConfusion (show false = true from h)
theorem trapinfoWrite : ∀ x0 x1, Statement (.trapinfoWrite x0 x1) := fun _ _ _ h => Bool.noConfusion (show false = true from h)
theorem gtcTick : Statement (.gtcTick) := fun _ h => Bool.noConfusion (show false = true from h)
theorem resultReturn : ∀ x0 x1 x2 x3 x4, Statement (.resultReturn x0 x1 x2 x3 x4) := fun _ _ _ _ _ _ h => Bool.noConfusion (show false = true from h)
theorem blockStart : ∀ x0, Statement (.blockStart x0) := fun _ _ h => Bool.noConfusion (show false = true from h)
theorem blockRetire : ∀ x0, Statement (.blockRetire x0) := fun _ _ h => Bool.noConfusion (show false = true from h)
theorem trapEntry : ∀ x0, Statement (.trapEntry x0) := fun _ _ h => Bool.noConfusion (show false = true from h)
theorem binTimerExpiry : ∀ x0 x1, Statement (.binTimerExpiry x0 x1) := fun _ _ _ h => Bool.noConfusion (show false = true from h)
theorem spawnedGroupLaunch : ∀ x0, Statement (.spawnedGroupLaunch x0) := fun _ _ h => Bool.noConfusion (show false = true from h)
theorem teamPlacement : ∀ x0 x1 x2 x3, Statement (.teamPlacement x0 x1 x2 x3) := fun _ _ _ _ _ h => Bool.noConfusion (show false = true from h)
theorem teamReserving : ∀ x0, Statement (.teamReserving x0) := fun _ _ h => Bool.noConfusion (show false = true from h)
theorem growGrant : ∀ x0, Statement (.growGrant x0) := fun _ _ h => Bool.noConfusion (show false = true from h)
theorem yieldReactivate : ∀ x0, Statement (.yieldReactivate x0) := fun _ _ h => Bool.noConfusion (show false = true from h)
theorem barrierRelease : ∀ x0 x1, Statement (.barrierRelease x0 x1) := fun _ _ _ h => Bool.noConfusion (show false = true from h)
theorem stagePhaseObserved : ∀ x0, Statement (.stagePhaseObserved x0) := fun _ _ h => Bool.noConfusion (show false = true from h)
theorem mwaitReread : ∀ x0, Statement (.mwaitReread x0) := fun _ _ h => Bool.noConfusion (show false = true from h)
theorem counterWaitMet : ∀ x0 x1, Statement (.counterWaitMet x0 x1) := fun _ _ _ h => Bool.noConfusion (show false = true from h)
theorem engineLineOwnership : ∀ x0, Statement (.engineLineOwnership x0) := fun _ _ h => Bool.noConfusion (show false = true from h)
theorem engineLineRelease : ∀ x0 x1, Statement (.engineLineRelease x0 x1) := fun _ _ _ h => Bool.noConfusion (show false = true from h)
theorem copyCommandComplete : ∀ x0 x1, Statement (.copyCommandComplete x0 x1) := fun _ _ _ h => Bool.noConfusion (show false = true from h)
theorem attnCommandStart : ∀ x0 x1, Statement (.attnCommandStart x0 x1) := fun _ _ _ h => Bool.noConfusion (show false = true from h)
theorem attnKeyBlock : ∀ x0, Statement (.attnKeyBlock x0) := fun _ _ h => Bool.noConfusion (show false = true from h)
theorem attnCommandComplete : ∀ x0, Statement (.attnCommandComplete x0) := fun _ _ h => Bool.noConfusion (show false = true from h)
theorem traversalStep : ∀ x0, Statement (.traversalStep x0) := fun _ _ h => Bool.noConfusion (show false = true from h)
theorem cutApply : ∀ x0, Statement (.cutApply x0) := fun _ _ h => Bool.noConfusion (show false = true from h)
theorem launchEnd : ∀ x0, Statement (.launchEnd x0) := fun _ _ h => Bool.noConfusion (show false = true from h)
theorem openTailWake : ∀ x0 x1, Statement (.openTailWake x0 x1) := fun _ _ _ h => Bool.noConfusion (show false = true from h)
theorem graphEnd : ∀ x0, Statement (.graphEnd x0) := fun _ _ h => Bool.noConfusion (show false = true from h)
theorem l1Fill : ∀ x0 x1, Statement (.l1Fill x0 x1) := fun _ _ _ h => Bool.noConfusion (show false = true from h)
theorem leaseExpiry : ∀ x0 x1, Statement (.leaseExpiry x0 x1) := fun _ _ _ h => Bool.noConfusion (show false = true from h)
theorem homeWritePerform : ∀ x0, Statement (.homeWritePerform x0) := fun _ _ h => Bool.noConfusion (show false = true from h)
theorem sliceEviction : ∀ x0, Statement (.sliceEviction x0) := fun _ _ h => Bool.noConfusion (show false = true from h)
theorem replicaLock : ∀ x0 x1, Statement (.replicaLock x0 x1) := fun _ _ _ h => Bool.noConfusion (show false = true from h)
theorem replicaUpdate : ∀ x0, Statement (.replicaUpdate x0) := fun _ _ h => Bool.noConfusion (show false = true from h)
theorem tableWalk : ∀ x0 x1 x2, Statement (.tableWalk x0 x1 x2) := fun _ _ _ _ h => Bool.noConfusion (show false = true from h)
theorem refreshManagement : ∀ x0 x1, Statement (.refreshManagement x0 x1) := fun _ _ _ h => Bool.noConfusion (show false = true from h)
theorem readShared : ∀ x0 x1, Statement (.readShared x0 x1) := fun _ _ _ h => Bool.noConfusion (show false = true from h)
theorem readOwn : ∀ x0 x1, Statement (.readOwn x0 x1) := fun _ _ _ h => Bool.noConfusion (show false = true from h)
theorem dirtyNotice : ∀ x0 x1, Statement (.dirtyNotice x0 x1) := fun _ _ _ h => Bool.noConfusion (show false = true from h)
theorem writeback : ∀ x0 x1 x2, Statement (.writeback x0 x1 x2) := fun _ _ _ _ h => Bool.noConfusion (show false = true from h)
theorem cleanEviction : ∀ x0 x1, Statement (.cleanEviction x0 x1) := fun _ _ _ h => Bool.noConfusion (show false = true from h)
theorem recallToShared : ∀ x0 x1, Statement (.recallToShared x0 x1) := fun _ _ _ h => Bool.noConfusion (show false = true from h)
theorem recallInvalidate : ∀ x0 x1, Statement (.recallInvalidate x0 x1) := fun _ _ _ h => Bool.noConfusion (show false = true from h)
theorem data : ∀ x0 x1 x2, Statement (.data x0 x1 x2) := fun _ _ _ _ h => Bool.noConfusion (show false = true from h)
theorem dataDirty : ∀ x0 x1 x2, Statement (.dataDirty x0 x1 x2) := fun _ _ _ _ h => Bool.noConfusion (show false = true from h)
theorem notHeld : ∀ x0 x1, Statement (.notHeld x0 x1) := fun _ _ _ h => Bool.noConfusion (show false = true from h)
theorem failureNotice : ∀ x0, Statement (.failureNotice x0) := fun _ _ h => Bool.noConfusion (show false = true from h)
theorem memrdShared : ∀ x0, Statement (.memrdShared x0) := fun _ _ h => Bool.noConfusion (show false = true from h)
theorem memrdAny : ∀ x0, Statement (.memrdAny x0) := fun _ _ h => Bool.noConfusion (show false = true from h)
theorem memrdInvalid : ∀ x0, Statement (.memrdInvalid x0) := fun _ _ h => Bool.noConfusion (show false = true from h)
theorem memwr : ∀ x0 x1 x2, Statement (.memwr x0 x1 x2) := fun _ _ _ _ h => Bool.noConfusion (show false = true from h)
theorem snpdata : ∀ x0, Statement (.snpdata x0) := fun _ _ h => Bool.noConfusion (show false = true from h)
theorem snpinv : ∀ x0, Statement (.snpinv x0) := fun _ _ h => Bool.noConfusion (show false = true from h)
theorem resync : ∀ x0 x1, Statement (.resync x0 x1) := fun _ _ _ h => Bool.noConfusion (show false = true from h)
theorem freezeReleaseResume : ∀ x0 x1, Statement (.freezeReleaseResume x0 x1) := fun _ _ _ h => Bool.noConfusion (show false = true from h)
theorem freezeReleaseEnd : ∀ x0 x1, Statement (.freezeReleaseEnd x0 x1) := fun _ _ _ h => Bool.noConfusion (show false = true from h)
theorem biasSetHost : ∀ x0 x1, Statement (.biasSetHost x0 x1) := fun _ _ _ h => Bool.noConfusion (show false = true from h)
theorem biasSetDevice : ∀ x0 x1, Statement (.biasSetDevice x0 x1) := fun _ _ _ h => Bool.noConfusion (show false = true from h)
theorem pageFlip : ∀ x0, Statement (.pageFlip x0) := fun _ _ h => Bool.noConfusion (show false = true from h)
theorem telemetry : ∀ x0, Statement (.telemetry x0) := fun _ _ h => Bool.noConfusion (show false = true from h)
theorem fwStage : ∀ x0 x1, Statement (.fwStage x0 x1) := fun _ _ _ h => Bool.noConfusion (show false = true from h)
theorem fwActivate : ∀ x0, Statement (.fwActivate x0) := fun _ _ h => Bool.noConfusion (show false = true from h)
theorem leaseSet : ∀ x0, Statement (.leaseSet x0) := fun _ _ h => Bool.noConfusion (show false = true from h)
theorem placementRead : ∀ x0 x1 x2 x3 x4, Statement (.placementRead x0 x1 x2 x3 x4) := fun _ _ _ _ _ _ h => Bool.noConfusion (show false = true from h)
theorem losslogSet : ∀ x0 x1, Statement (.losslogSet x0 x1) := fun _ _ _ h => Bool.noConfusion (show false = true from h)
theorem aspaceSet : ∀ x0 x1, Statement (.aspaceSet x0 x1) := fun _ _ _ h => Bool.noConfusion (show false = true from h)
theorem tlbInval : ∀ x0, Statement (.tlbInval x0) := fun _ _ h => Bool.noConfusion (show false = true from h)
theorem graphPost : ∀ x0 x1 x2 x3, Statement (.graphPost x0 x1 x2 x3) := fun _ _ _ _ _ h => Bool.noConfusion (show false = true from h)
theorem graphRelease : ∀ x0 x1, Statement (.graphRelease x0 x1) := fun _ _ _ h => Bool.noConfusion (show false = true from h)
theorem preempt : ∀ x0 x1 x2, Statement (.preempt x0 x1 x2) := fun _ _ _ _ h => Bool.noConfusion (show false = true from h)
theorem chrysalisComplete : ∀ x0 x1, Statement (.chrysalisComplete x0 x1) := fun _ _ _ h => Bool.noConfusion (show false = true from h)
theorem poolSlotSave : ∀ x0, Statement (.poolSlotSave x0) := fun _ _ h => Bool.noConfusion (show false = true from h)
theorem resume : ∀ x0, Statement (.resume x0) := fun _ _ h => Bool.noConfusion (show false = true from h)
theorem resumeEnd : ∀ x0, Statement (.resumeEnd x0) := fun _ _ h => Bool.noConfusion (show false = true from h)
theorem faultDoneRetry : ∀ x0, Statement (.faultDoneRetry x0) := fun _ _ h => Bool.noConfusion (show false = true from h)
theorem faultDoneEnd : ∀ x0, Statement (.faultDoneEnd x0) := fun _ _ h => Bool.noConfusion (show false = true from h)
theorem poolSet : ∀ x0 x1, Statement (.poolSet x0 x1) := fun _ _ _ h => Bool.noConfusion (show false = true from h)
theorem trapbaseSet : ∀ x0 x1 x2, Statement (.trapbaseSet x0 x1 x2) := fun _ _ _ _ h => Bool.noConfusion (show false = true from h)
theorem featClear : ∀ x0 x1, Statement (.featClear x0 x1) := fun _ _ _ h => Bool.noConfusion (show false = true from h)
theorem debugRead : ∀ x0, Statement (.debugRead x0) := fun _ _ h => Bool.noConfusion (show false = true from h)
theorem debugWrite : ∀ x0 x1, Statement (.debugWrite x0 x1) := fun _ _ _ h => Bool.noConfusion (show false = true from h)
theorem protectSet : ∀ x0 x1 x2 x3, Statement (.protectSet x0 x1 x2 x3) := fun _ _ _ _ _ h => Bool.noConfusion (show false = true from h)
theorem swarmSet : ∀ x0 x1 x2, Statement (.swarmSet x0 x1 x2) := fun _ _ _ _ h => Bool.noConfusion (show false = true from h)
theorem travEnd : ∀ x0 x1, Statement (.travEnd x0 x1) := fun _ _ _ h => Bool.noConfusion (show false = true from h)
theorem backgroundComplete : Statement (.backgroundComplete) := fun _ h => Bool.noConfusion (show false = true from h)
theorem getVersion : ∀ x0, Statement (.getVersion x0) := fun _ _ h => Bool.noConfusion (show false = true from h)
theorem getCapabilities : ∀ x0, Statement (.getCapabilities x0) := fun _ _ h => Bool.noConfusion (show false = true from h)
theorem negotiateAlgorithms : ∀ x0, Statement (.negotiateAlgorithms x0) := fun _ _ h => Bool.noConfusion (show false = true from h)
theorem getDigests : ∀ x0, Statement (.getDigests x0) := fun _ _ h => Bool.noConfusion (show false = true from h)
theorem getCertificate : ∀ x0 x1 x2 x3, Statement (.getCertificate x0 x1 x2 x3) := fun _ _ _ _ _ h => Bool.noConfusion (show false = true from h)
theorem challenge : ∀ x0 x1 x2, Statement (.challenge x0 x1 x2) := fun _ _ _ _ h => Bool.noConfusion (show false = true from h)
theorem getMeasurements : ∀ x0 x1 x2, Statement (.getMeasurements x0 x1 x2) := fun _ _ _ _ h => Bool.noConfusion (show false = true from h)
theorem linkDown : ∀ x0, Statement (.linkDown x0) := fun _ _ h => Bool.noConfusion (show false = true from h)
theorem agentFailed : ∀ x0, Statement (.agentFailed x0) := fun _ _ h => Bool.noConfusion (show false = true from h)
theorem agentRejoin : ∀ x0, Statement (.agentRejoin x0) := fun _ _ h => Bool.noConfusion (show false = true from h)
theorem powerOn : Statement (.powerOn) := fun _ h => Bool.noConfusion (show false = true from h)
theorem moduleReset : Statement (.moduleReset) := fun _ h => Bool.noConfusion (show false = true from h)
theorem selfHeatEnd : Statement (.selfHeatEnd) := fun _ h => Bool.noConfusion (show false = true from h)
theorem trainingComplete : Statement (.trainingComplete) := fun _ h => Bool.noConfusion (show false = true from h)
theorem levelChange : ∀ x0 x1, Statement (.levelChange x0 x1) := fun _ _ _ h => Bool.noConfusion (show false = true from h)
theorem droopEvent : ∀ x0, Statement (.droopEvent x0) := fun _ _ h => Bool.noConfusion (show false = true from h)
theorem junctionThrottle : ∀ x0 x1, Statement (.junctionThrottle x0 x1) := fun _ _ _ h => Bool.noConfusion (show false = true from h)
theorem stackRefreshDouble : ∀ x0 x1, Statement (.stackRefreshDouble x0 x1) := fun _ _ _ h => Bool.noConfusion (show false = true from h)
theorem trip : ∀ x0 x1 x2, Statement (.trip x0 x1 x2) := fun _ _ _ _ h => Bool.noConfusion (show false = true from h)
theorem retrainingWindow : ∀ x0 x1, Statement (.retrainingWindow x0 x1) := fun _ _ _ h => Bool.noConfusion (show false = true from h)
theorem hostSnoopResponse : ∀ x0 x1, Statement (.hostSnoopResponse x0 x1) := fun _ _ _ h => Bool.noConfusion (show false = true from h)
theorem hostCacheData : ∀ x0 x1 x2, Statement (.hostCacheData x0 x1 x2) := fun _ _ _ _ h => Bool.noConfusion (show false = true from h)
theorem linkTrainingComplete : ∀ x0, Statement (.linkTrainingComplete x0) := fun _ _ h => Bool.noConfusion (show false = true from h)
theorem flitReplay : ∀ x0, Statement (.flitReplay x0) := fun _ _ h => Bool.noConfusion (show false = true from h)
theorem retrainingWindowEnd : ∀ x0 x1 x2, Statement (.retrainingWindowEnd x0 x1 x2) := fun _ _ _ _ h => Bool.noConfusion (show false = true from h)
theorem junctionFallsBelow95 : ∀ x0 x1, Statement (.junctionFallsBelow95 x0 x1) := fun _ _ _ h => Bool.noConfusion (show false = true from h)
theorem functionLevelReset : Statement (.functionLevelReset) := fun _ h => Bool.noConfusion (show false = true from h)
theorem hdmDecoderProgram : ∀ x0, Statement (.hdmDecoderProgram x0) := fun _ _ h => Bool.noConfusion (show false = true from h)

end Sys2Proof.Laws.Coded
end

