-- ==== Sys2Proof/Tests/Slice0.lean ====
section
/-!
SUPPORT. Slice0.lean: tests.  Ill-formed terms that WellFormed refuses; words put together from the field tables of
spec/04_encoding.md that decode to their instructions; for the statements, states and operands that meet their hypotheses;
and single steps with results worked out by hand.
-/
namespace Sys2Proof.Tests

open Sys2Proof Sys2Proof.Machine Sys2Proof.Safety

set_option Elab.async false

/-! ## Ill-formed terms (R59 to R66) -/

/-- A context outside handler mode, at width 64, whose array registers hold 4-byte elements. -/
def narrow : Ctx := ⟨false, true, fun _ => some 4⟩
/-- Nothing guarded. -/
def m0 : Mods := ⟨false, 0, false, false⟩

theorem test_wf_pairs : ([
    .sjr 3 false, .asetb 0 1 false, .tcopy 5 0 0 0 false, .attn 7 0 0 false, .tvlayout 9 0 false, .task 63 0 false,
    .mwait .eq none 1 0 false, .mwait .eq none 0 1 false, .yield .ccopy 0 1 false, .xballot m0 (.v 3) 0,
    .xballot m0 (.s 3) 0, .xreduce m0 .i64 .mode .add (.s 1) 0, .tvbegin m0 0 1 0 (.s 0) 0, .tvbegin m0 0 0 0 (.k 1) 0,
    .tvcut m0 0 0 (.s 1), .tvresume m0 0 3] : List Instr).all (fun i => !i.wf narrow) = true := by decide

theorem test_wf_v_pairs : ([
    .iadd m0 .i64 false 1 0 (.v 0), .iadd m0 .i64 false 0 1 (.v 0), .iadd m0 .i64 false 0 0 (.v 1),
    .iadd m0 .n64 false 0 0 (.u (.s 1)), .imad m0 .i64 false 0 0 (.v 0) (.v 1), .imad m0 .i64 false 0 0 (.v 0) (.u (.k 3)),
    .icvt m0 .i64 .i32 .mode false 1 0, .icvt m0 .i32 .i64 .mode false 0 1, .fcvt m0 .f32 .i64 .mode false 0 1,
    .xprefix m0 .i64 .mode .add false 0 1, .xreduce m0 .i64 .mode .add (.v 1) 0, .ibfi m0 .i64 0 0 (.v 1) 0 1] :
      List Instr).all (fun i => !i.wf narrow) = true := by decide

theorem test_wf_types : ([
    .iadd m0 .i16 false 0 0 (.v 0), .iadd m0 .f32 false 0 0 (.v 0), .icvt m0 .f32 .i32 .mode false 0 0,
    .fadd m0 .i32 .mode 0 0 (.v 0), .fcmp m0 .h2 .eq 1 0 (.v 0), .frcp m0 .b2 .mode 0 0, .fcvt m0 .i32 .n8 .mode false 0 0,
    .fcvt m0 .l6 .f32 .mode false 0 0, .lcvt m0 .l6 .l6 .mode false 0 0, .lcvt m0 .f32 .f16 .mode false 0 0,
    .xshfl m0 .n32 .idx 0 0 (.v 0), .xprefix m0 .f32 .mode .and false 0 0, .ld m0 .i16 none 0 0 (.v 0) 0,
    .st m0 .f32 none 0 (.v 0) 0 0, .atomAdd m0 .i8 .relaxed 0 0 (.v 0) 0 0, .mma false false .f32 .mode 0 0 0] :
      List Instr).all (fun i => !i.wf narrow) = true := by decide

theorem test_wf_ranges : ([
    .smfs 0 0x006 false, .smfs 0 0x020 false, .smts 0 0x001 false, .smts 0 0x004 false, .eret false, .eretSkip false,
    .ibfx m0 .i32 0 0 0 0, .ibfx m0 .i32 0 0 0 33, .icmp m0 .i32 .un 1 0 (.v 0), .icmp m0 .i32 .eq 0 0 (.v 0),
    .fcmp m0 .f32 .eq 0 0 (.v 0), .pand m0 0 1 1, .pnot m0 0 1, .exmget m0 0, .spawn m0 253 0,
    .atomCas m0 .i32 .relaxed 0 0 (.v 0) 1 0, .atomCas m0 .i64 .relaxed 0 0 (.v 0) 2 0, .mzero false false 1,
    .mma false false .i8 .mode 0 241 0, .mma false false .i8 .mode 0 0 249, .mldf false false false 241 (.s 0) 0,
    .maccld false false 1 (.s 0) 0, .maccst false false 1 (.s 0) 0, .gtcTick, .wordNotAnInstruction false 1 26] :
      List Instr).all (fun i => !i.wf narrow) = true := by decide

/-! ## Words put together from the field tables (R52 to R66) -/

/-- Format SR (R52). -/
def sr (op d a b fn sw : Nat) : BitVec 32 :=
  BitVec.ofNat 32 (op * 2 ^ 26 + d * 2 ^ 20 + a * 2 ^ 14 + b * 2 ^ 8 + fn * 2 + sw)
/-- Formats SI and SC (R52). -/
def si (op d a imm sw : Nat) : BitVec 32 := BitVec.ofNat 32 (op * 2 ^ 26 + d * 2 ^ 20 + a * 2 ^ 14 + imm * 2 + sw)
/-- Format SU (R52). -/
def su (op d imm sw : Nat) : BitVec 32 := BitVec.ofNat 32 (op * 2 ^ 26 + d * 2 ^ 20 + imm * 2 + sw)
/-- Format SB (R52). -/
def sb (op cond a b off sw : Nat) : BitVec 32 :=
  BitVec.ofNat 32 (op * 2 ^ 26 + cond * 2 ^ 22 + a * 2 ^ 16 + b * 2 ^ 10 + off * 2 + sw)
/-- Format SJ (R52). -/
def sj (op off sw : Nat) : BitVec 32 := BitVec.ofNat 32 (op * 2 ^ 26 + off * 2 + sw)

/-- Each word decodes to its instruction. -/
def readsS (c : Ctx) (xs : List (BitVec 32 × Instr)) : Bool :=
  xs.all fun e => decide ((decodeScalar c e.1).toOption = some e.2)

/-- Decoding at handler mode and width 32, with array registers of any size. -/
def anyH : Ctx := ⟨true, false, fun _ => none⟩

theorem test_decode_salu : readsS narrow [
    (sr 1 63 1 2 0x00 0, .sadd 63 1 2 false), (sr 1 1 62 3 0x01 1, .ssub 1 62 3 true), (sr 1 1 2 61 0x02 0, .smul 1 2 61 false),
    (sr 1 4 5 6 0x03 1, .smulh 4 5 6 true), (sr 1 4 5 6 0x04 0, .sand 4 5 6 false), (sr 1 4 5 6 0x05 1, .sor 4 5 6 true),
    (sr 1 4 5 6 0x06 0, .sxor 4 5 6 false), (sr 1 4 5 6 0x07 1, .sshl 4 5 6 true), (sr 1 4 5 6 0x08 0, .sshr 4 5 6 false),
    (sr 1 4 5 6 0x09 1, .ssra 4 5 6 true), (sr 1 4 5 6 0x0A 0, .smin 4 5 6 false), (sr 1 4 5 6 0x0B 1, .smax 4 5 6 true),
    (sr 1 4 5 0 0x0C 0, .smov 4 5 false)] = true := by decide

theorem test_decode_salu_imm : readsS narrow [
    (si 0x02 4 5 0x1FFF 1, .saddi 4 5 (-1) true), (si 0x03 4 5 0x1000 0, .smuli 4 5 (-4096) false),
    (si 0x04 4 5 0x0FFF 1, .sandi 4 5 4095 true), (si 0x05 4 5 1 0, .sori 4 5 1 false), (si 0x06 4 5 2 1, .sxori 4 5 2 true),
    (si 0x07 4 5 3 0, .smini 4 5 3 false), (si 0x08 4 5 4 1, .smaxi 4 5 4 true), (si 0x09 4 5 31 0, .sshli 4 5 31 false),
    (si 0x0A 4 5 30 1, .sshri 4 5 30 true), (si 0x0B 4 5 29 0, .ssrai 4 5 29 false), (su 0x0C 63 0x7FFFF 1, .slui 63 0x7FFFF true),
    (su 0x0D 1 0x40000 0, .smovi 1 0x40000 false)] = true := by decide

theorem test_decode_scalar_rest : readsS narrow [
    (sr 0x10 1 2 3 0 1, .swiden 1 2 3 true), (sr 0x11 1 2 3 0 0, .srange 1 2 3 false), (sr 0x12 1 2 0 0 1, .srnggetLo 1 2 true),
    (sr 0x12 1 2 0 1 0, .srnggetHi 1 2 false), (sr 0x12 1 2 0 2 1, .srnggetTop 1 2 true),
    (sb 0x14 0 1 2 0x1FF 0, .sb .eq 1 2 (-1) false), (sb 0x14 1 63 2 1 1, .sb .ne 63 2 1 true),
    (sb 0x14 2 1 63 0x100 0, .sb .lt 1 63 (-256) false), (sb 0x14 3 1 2 3 0, .sb .ge 1 2 3 false),
    (sb 0x14 4 1 2 3 0, .sb .ltn 1 2 3 false), (sb 0x14 5 1 2 3 0, .sb .gen 1 2 3 false),
    (sj 0x15 0x1FFFFFF 1, .sj (-1) true), (sj 0x16 0x1000000 0, .sjal 0x1000000 false), (sr 0x17 0 62 0 0 1, .sjr 62 true),
    (sr 0x18 5 15 0 0 0, .skmov 5 15 false), (sr 0x19 15 62 0 0 1, .asetb 15 62 true), (sr 0x19 14 5 6 1 0, .asetx 14 5 6 false),
    (sr 0x19 5 13 0 2 0, .aget 5 13 0 false), (sr 0x19 5 13 0 5 1, .aget 5 13 3 true), (si 0x1A 5 0 0x015 0, .smfs 5 0x015 false),
    (si 0x1B 0 5 0x000 1, .smts 5 0x000 true), (sr 0x1C 5 15 6 0x40 0, .sld 5 15 6 0x40 false),
    (sr 0x1D 5 14 6 0x3F 1, .sst 5 14 6 0x3F true)] = true := by decide

theorem test_decode_commands : readsS narrow [
    (su 0x20 0 0x7FFFF 0, .lrun 0x7FFFF false), (sr 0x21 0 0 0 0 1, .lsync true), (si 0x22 62 5 (31 + 32 * 30) 0, .tcopy 62 5 31 30 false),
    (si 0x23 5 0 0 1, .cwait .ccopy 5 true), (si 0x23 5 0 1 0, .cwait .ctrav 5 false), (si 0x23 5 0 2 0, .cwait .cattn 5 false),
    (si 0x24 2 4 0 0, .mwait .eq none 2 4 false), (si 0x24 2 4 (1 + 4 + 8 * 5) 1, .mwait .ne (some .system) 2 4 true),
    (si 0x24 2 4 (2 + 4) 0, .mwait .gen (some .group) 2 4 false), (si 0x25 5 6 2 1, .yield .cattn 5 6 true),
    (si 0x26 2 5 0x1F 0, .attn 2 5 0x1F false), (si 0x27 2 0 15 1, .tvlayout 2 15 true), (si 0x28 0 5 15 0, .bar 5 15 false),
    (si 0x29 0 5 4095 1, .stgacq 5 4095 true), (si 0x2A 0 5 4094 0, .stgrel 5 4094 false), (si 0x2B 0 0 4093 1, .grow 4093 true),
    (si 0x2C 0 0 1 0, .shrink 1 false), (si 0x2D 2 0 3 1, .task 2 3 true), (sr 0x2E 0 0 0 (1 + 4 * 5) 0, .sfence .acq .system false),
    (sr 0x2E 0 0 0 (2 + 4 * 3) 0, .sfence .rel .device false), (sr 0x2E 0 0 0 3 1, .sfence .full .group true),
    (si 0x38 0 0 0x1FFF 0, .trap 0x1FFF false), (si 0x39 0 0 7 1, .brk 7 true), (sr 0x3B 0 0 0 0 0, .sexit false),
    (sr 0x3C 0 0 0 0 1, .snop true)] = true := by decide

theorem test_decode_handler : readsS anyH [
    (sr 0x3A 0 0 0 0 1, .eret true), (sr 0x3A 0 0 0 1 0, .eretSkip false), (si 0x1A 5 0 0x025 0, .smfs 5 0x025 false),
    (si 0x1B 0 5 0x005 0, .smts 5 0x005 false), (si 0x1B 0 5 0x022 0, .smts 5 0x022 false)] = true ∧
    (decodeScalar narrow (sr 0x3A 0 0 0 0 1)).toOption = none := by decide

/-- A lane word (R53): pg is bits [53:50]. -/
def lw (op d a b c pg ty rm sat nf sw ext imm : Nat) : BitVec 96 :=
  BitVec.ofNat 96 (op * 2 ^ 86 + d * 2 ^ 78 + a * 2 ^ 70 + b * 2 ^ 62 + c * 2 ^ 54 + pg * 2 ^ 50 + ty * 2 ^ 46 + rm * 2 ^ 43 +
    sat * 2 ^ 42 + nf * 2 ^ 41 + sw * 2 ^ 40 + ext * 2 ^ 32 + imm)

/-- Each word decodes to its instruction. -/
def readsL (c : Ctx) (xs : List (BitVec 96 × Instr)) : Bool :=
  xs.all fun e => decide ((decodeLane c e.1).toOption = some e.2)

/-- Guarded by the complement of P2, with nf. -/
def m2 : Mods := ⟨true, 2, true, false⟩
/-- Guarded by P7, with sw. -/
def m7 : Mods := ⟨false, 7, false, true⟩

theorem test_decode_int_arith : readsL narrow [
    (lw 0x001 1 2 3 0 10 0 0 1 1 0 0 0, .iadd m2 .i32 true 1 2 (.v 3)), (lw 0x002 1 2 70 0 7 1 0 0 0 1 0x80 0, .isub m7 .n32 false 1 2 (.u (.k 6))),
    (lw 0x003 2 4 0 0 0 6 0 0 0 0 0x20 0xFFFFFFFF, .imul m0 .i64 false 2 4 (.imm 0xFFFFFFFF)),
    (lw 0x004 2 4 6 0 0 7 0 0 0 0 0 0, .imulh m0 .n64 2 4 (.v 6)), (lw 0x005 1 2 80 79 0 0 0 1 0 0 0xC0 0, .imad m0 .i32 true 1 2 .lid (.u (.k 15))),
    (lw 0x006 255 254 0 0 0 0 0 1 0 0 0 0, .iabs m0 .i32 true 255 254), (lw 0x007 1 2 0 0 0 1 0 0 0 0 0 0, .ineg m0 .n32 false 1 2),
    (lw 0x008 1 2 63 0 0 0 0 0 0 0 0x80 0, .imin m0 .i32 1 2 (.u (.s 63))), (lw 0x009 1 2 3 0 0 0 0 0 0 0 0 0, .imax m0 .i32 1 2 (.v 3)),
    (lw 0x00A 1 2 3 4 0 0 0 0 0 0 0 0, .iclamp m0 .i32 1 2 (.v 3) (.v 4))] = true := by decide

theorem test_decode_int_bits : readsL narrow [
    (lw 0x010 1 2 3 0 0 0 0 0 0 0 0 0, .iand m0 .i32 1 2 (.v 3)), (lw 0x011 1 2 3 0 0 0 0 0 0 0 0 0, .ior m0 .i32 1 2 (.v 3)),
    (lw 0x012 1 2 3 0 0 0 0 0 0 0 0 0, .ixor m0 .i32 1 2 (.v 3)), (lw 0x013 1 2 0 0 0 0 0 0 0 0 0 0, .inot m0 .i32 1 2),
    (lw 0x014 1 2 3 0 0 0 0 0 0 0 0 0, .ishl m0 .i32 1 2 (.v 3)), (lw 0x015 1 2 3 0 0 1 0 0 0 0 0 0, .ishr m0 .n32 1 2 (.v 3)),
    (lw 0x016 1 2 3 0 0 0 0 0 0 0 0 0, .isra m0 .i32 1 2 (.v 3)), (lw 0x017 1 2 0 0 0 0 0 0 0 0 0 0, .iclz m0 .i32 1 2),
    (lw 0x018 1 2 0 0 0 0 0 0 0 0 0 0, .ipopc m0 .i32 1 2), (lw 0x019 1 2 0 0 0 0 0 0 0 0 0 0, .ibrev m0 .i32 1 2),
    (lw 0x01A 1 2 0 0 0 0 0 0 0 0 0 (31 + 256 * 32), .ibfx m0 .i32 1 2 31 32),
    (lw 0x01B 1 2 5 0 0 0 0 0 0 0 0x80 (4 + 256), .ibfi m0 .i32 1 2 (.u (.s 5)) 4 1),
    (lw 0x01C 7 2 3 0 0 1 0 0 0 0 5 0, .icmp m0 .n32 .ge 7 2 (.v 3)), (lw 0x01D 1 2 3 7 0 0 0 0 0 0 0 0, .isel m0 .i32 1 2 (.v 3) 7),
    (lw 0x01E 1 2 0 0 0 0 0 0 0 0 0 0, .imov m0 .i32 1 2), (lw 0x01F 1 0 0 0 0 0 0 0 0 0 0 9, .imovi m0 .i32 1 9),
    (lw 0x020 1 2 0 0 0 2 5 1 0 0 5 0, .icvt m0 .i16 .n8 .rna true 1 2), (lw 0x021 1 0 5 64 0 0 0 0 0 0 0xC0 0, .vwiden m0 1 (.s 5) (.k 0)),
    (lw 0x022 1 0 64 5 0 0 0 0 0 0 0xC0 0, .vrange m0 1 (.k 0) (.s 5))] = true := by decide

theorem test_decode_float : readsL narrow [
    (lw 0x030 1 2 3 0 0 8 2 0 0 0 0 0, .fadd m0 .f32 .rz 1 2 (.v 3)), (lw 0x031 1 2 3 0 0 9 3 0 0 0 0 0, .fsub m0 .f16 .ru 1 2 (.v 3)),
    (lw 0x032 1 2 3 0 0 10 4 0 0 0 0 0, .fmul m0 .bf16 .rd 1 2 (.v 3)), (lw 0x033 1 2 3 4 0 14 0 0 0 0 0 0, .ffma m0 .h2 .mode 1 2 (.v 3) (.v 4)),
    (lw 0x034 1 2 3 0 0 15 0 0 0 0 0 0, .fmin m0 .b2 1 2 (.v 3)), (lw 0x035 1 2 3 0 0 8 0 0 0 0 0 0, .fmax m0 .f32 1 2 (.v 3)),
    (lw 0x036 3 2 3 0 0 8 0 0 0 0 7 0, .fcmp m0 .f32 .ord 3 2 (.v 3)), (lw 0x037 1 2 0 0 0 8 1 0 0 0 0 0, .frcp m0 .f32 .rne 1 2),
    (lw 0x038 1 2 0 0 0 8 0 0 0 0 0 0, .frsq m0 .f32 .mode 1 2), (lw 0x039 1 2 0 0 0 8 0 0 0 0 0 0, .fsqrt m0 .f32 .mode 1 2),
    (lw 0x03A 1 2 0 0 0 8 0 0 0 0 0x20 7, .fdiv m0 .f32 .mode 1 2 (.imm 7)), (lw 0x03B 1 2 0 0 0 8 0 0 0 0 0 0, .fexp2 m0 .f32 .mode 1 2),
    (lw 0x03C 1 2 0 0 0 8 0 0 0 0 0 0, .flog2 m0 .f32 .mode 1 2), (lw 0x03D 1 2 0 0 0 8 0 0 0 0 0 0, .frnd m0 .f32 .mode 1 2),
    (lw 0x03E 1 2 0 0 0 11 0 1 0 0 8 0, .fcvt m0 .e4m3 .f32 .mode true 1 2), (lw 0x03F 1 2 0 0 0 8 0 0 0 0 0 0, .fclass m0 .f32 1 2),
    (lw 0x040 1 2 3 0 0 13 0 1 0 0 0 0, .lmul m0 true 1 2 (.v 3)), (lw 0x041 1 2 0 0 0 13 0 0 0 0 8 0, .lcvt m0 .l6 .f32 .mode false 1 2)] =
    true := by decide

theorem test_decode_masks_and_lanes : readsL narrow [
    (lw 0x050 1 2 3 0 0 0 0 0 0 0 0 0, .pand m0 1 2 3), (lw 0x051 1 2 3 0 0 0 0 0 0 0 0 0, .por m0 1 2 3),
    (lw 0x052 1 2 3 0 0 0 0 0 0 0 0 0, .pxor m0 1 2 3), (lw 0x053 1 2 0 0 0 0 0 0 0 0 0 0, .pnot m0 1 2),
    (lw 0x054 7 0 0 0 0 0 0 0 0 0 0 0, .pmov m0 7 0), (lw 0x055 1 0 0 0 0 0 0 0 0 0 0 0, .exmget m0 1),
    (lw 0x056 0 1 0 0 0 0 0 0 0 0 0 0, .exmset m0 1), (lw 0x057 9 0 0 0 0 0 0 0 0 0 0 0, .fxget m0 9),
    (lw 0x058 0 9 0 0 0 0 0 0 0 0 0 0, .fxset m0 9), (lw 0x060 1 2 0 0 0 0 0 0 0 0 0x23 1, .xshfl m0 .i32 .xor 1 2 (.imm 1)),
    (lw 0x061 2 4 3 0 0 6 0 0 0 0 0 0, .xbcast m0 .i64 2 4 (.v 3)), (lw 0x062 6 1 0 0 0 0 0 0 0 0 0x10 0, .xballot m0 (.s 6) 1),
    (lw 0x063 7 1 0 0 0 0 0 0 0 0 2 0, .xvote m0 .uni (.v 7) 1), (lw 0x064 1 2 0 0 0 8 1 0 0 0 9 0, .xprefix m0 .f32 .rne .min true 1 2),
    (lw 0x065 1 2 0 0 0 0 0 0 0 0 0x15 0, .xreduce m0 .i32 .mode .xor (.s 1) 2)] = true := by decide

theorem test_decode_lane_control : readsL narrow [
    (lw 0x070 0 0 0 0 10 0 0 0 1 0 0 0xFFFF0002, .lbrc m2 (-1) 2), (lw 0x071 0 0 0 0 0 0 0 0 0 1 0 0, .ljoin false true),
    (lw 0x072 0 0 0 0 0 0 0 0 0 0 0 0xFFFFFFFF, .ljmp false false (-1)), (lw 0x073 0 0 0 0 0 0 0 0 1 0 0 3, .lcall true false 3),
    (lw 0x074 0 0 0 0 0 0 0 0 0 0 0 0, .lret false false), (lw 0x075 0 0 0 0 0 0 0 0 0 1 0 0, .lexit false true),
    (lw 0x076 0 0 0 0 7 0 0 0 0 1 0 0, .lkill m7), (lw 0x077 0 252 0 0 0 0 0 0 0 0 0 5, .spawn m0 252 5),
    (lw 0x078 0 0 0 0 0 0 0 0 0 0 0x21 9, .laneCwait m0 .ctrav (.imm 9)), (lw 0x078 0 0 5 0 0 0 0 0 0 0 0x80 0, .laneCwait m0 .ccopy (.u (.s 5)))] =
    true := by decide

theorem test_decode_lane_memory : readsL narrow [
    (lw 0x080 1 2 3 0 0 0 0 0 0 0 0 0xFFFFFFFF, .ld m0 .i32 none 1 2 (.v 3) (-1)),
    (lw 0x080 1 2 5 0 0 1 0 0 0 0 (0x80 + 16 + 2 * 3) 0, .ld m0 .n32 (some .device) 1 2 (.u (.s 5)) 0),
    (lw 0x081 0 15 80 4 0 0 0 0 0 0 (0x80 + 32 + 2 * 1) 0, .st m0 .i32 (some .team) 15 .lid 4 0),
    (lw 0x082 1 2 3 0 0 0 0 0 0 0 0 4, .lds m0 .i32 1 2 (.v 3) 4), (lw 0x083 0 2 3 4 0 0 0 0 0 0 0 4, .sts m0 .i32 2 (.v 3) 4 4),
    (lw 0x084 0 2 64 4 0 0 0 0 0 0 0x80 4, .cst m0 .i32 2 (.k 0) 4 4), (lw 0x085 1 2 5 0 0 0 0 0 0 0 0x80 4, .xlde m0 .i32 1 2 (.s 5) 4),
    (lw 0x086 0 0 0 0 0 0 0 0 0 0 (16 * 3 + 2 * 5) 0, .lfence false false .full .system)] = true := by decide

theorem test_decode_atomics : readsL narrow [
    (lw 0x090 1 2 3 4 0 0 0 0 0 0 0 0, .atomAdd m0 .i32 .relaxed 1 2 (.v 3) 4 0),
    (lw 0x091 1 2 3 4 0 1 0 0 0 0 (16 + 2 * 2) 0, .atomMin m0 .n32 (.acq .pair) 1 2 (.v 3) 4 0),
    (lw 0x092 1 2 3 4 0 0 0 0 0 0 (32 + 2 * 4) 0, .atomMax m0 .i32 (.rel .swarm) 1 2 (.v 3) 4 0),
    (lw 0x093 1 2 3 4 0 0 0 0 0 0 48 0, .atomAnd m0 .i32 (.acqrel .group) 1 2 (.v 3) 4 0),
    (lw 0x094 1 2 3 4 0 0 0 0 0 0 0 8, .atomOr m0 .i32 .relaxed 1 2 (.v 3) 4 8), (lw 0x095 1 2 3 4 0 0 0 0 0 0 0 0, .atomXor m0 .i32 .relaxed 1 2 (.v 3) 4 0),
    (lw 0x096 1 2 3 4 0 0 0 0 0 0 0 0, .atomXchg m0 .i32 .relaxed 1 2 (.v 3) 4 0),
    (lw 0x097 1 2 3 4 0 0 0 0 0 0 0 0, .atomCas m0 .i32 .relaxed 1 2 (.v 3) 4 0)] = true := by decide

theorem test_decode_matrix_and_traversal : readsL narrow [
    (lw 0x0A0 0 0 0 0 0 0 0 0 0 0 0 0, .mbegin false false), (lw 0x0A1 0 0 0 0 0 0 0 0 1 1 0 0, .mend true true),
    (lw 0x0A2 2 240 248 0 0 11 1 0 0 0 0 0, .mma false false .e4m3 .rne 2 240 248), (lw 0x0A3 248 0 5 0 0 0 0 0 0 0 0x81 128, .mldf false false true 248 (.s 5) 128),
    (lw 0x0A4 2 0 0 0 0 0 0 0 0 0 0 0, .mzero false false 2), (lw 0x0A5 2 0 64 0 0 0 0 0 0 0 0x80 16, .maccld false false 2 (.k 0) 16),
    (lw 0x0A6 0 4 5 0 0 0 0 0 0 0 0x80 16, .maccst false false 4 (.s 5) 16),
    (lw 0x0B0 1 2 4 62 0 0 0 0 0 0 0x40 15, .tvbegin m0 1 2 4 (.s 62) 15), (lw 0x0B1 0 2 4 0 0 0 0 0 0 0 0 0, .tvret m0 2 4),
    (lw 0x0B2 0 2 4 66 0 0 0 0 0 0 0x40 0, .tvcut m0 2 4 (.k 2)), (lw 0x0B3 1 2 0 0 0 0 0 0 0 0 0 0, .tvresume m0 1 2),
    (lw 0x0B4 0 2 0 0 0 0 0 0 0 0 0 0, .tvbound m0 2), (lw 0x0B5 1 2 0 0 0 0 0 0 0 0 0 0, .tvstat m0 1 2)] = true := by decide

/-- R67, R68: the reason and the bit of words that are not instructions, lowest bit first among the offending fields. -/
theorem test_decode_refusals :
    (decodeScalar narrow 0, decodeScalar narrow 0xFFFFFFFF, decodeScalar narrow (sr 1 0 0 0 0x0D 0),
      decodeScalar narrow (si 0x22 0 0 (2 ^ 11) 0), decodeScalar narrow (si 0x09 0 0 32 0),
      decodeScalar narrow (sr 0x17 0 1 0 0 0)) =
      (.error (1, 26), .error (1, 26), .error (2, 1), .error (3, 12), .error (5, 1), .error (5, 14)) ∧
    (decodeLane narrow (lw 0x00B 0 0 0 0 0 0 0 0 0 0 0 0), decodeLane narrow (lw 0x021 1 0 5 64 0 0 0 0 0 0 0x80 0),
      decodeLane narrow (lw 0x001 0 0 0 0 0 2 0 0 0 0 0 0), decodeLane narrow (lw 0x075 0 0 0 0 1 0 0 0 0 0 0 0),
      decodeLane narrow (lw 0x030 0 0 0 0 0 8 6 0 0 0 0 0), decodeLane narrow (lw 0x001 0 0 81 0 0 0 0 0 0 0 0x80 0)) =
      (.error (1, 86), .error (3, 38), .error (6, 46), .error (8, 50), .error (4, 43), .error (5, 62)) := ⟨rfl, rfl⟩

/-! ## States and operands that meet the hypotheses of the statements -/

/-- A launch whose group 0, of width 16 and role 3, issues a scalar word. -/
def base : State := placeWord State.reset false []
def g0 : Group := (base.grp 0).getD default
/-- The same group inside a lane block. -/
def l0 : Group := ((placeWord State.reset true []).grp 0).getD default
/-- That machine with another group 0. -/
def on (g : Group) : State := base.setGrp 0 g
/-- S registers from n on. -/
def sset (g : Group) (n : Nat) (vs : List W32) : Group :=
  { g with s := (vs.zipIdx).foldl (fun s e => vset s (n + e.2) e.1) g.s }
/-- In handler mode, for trap address pc. -/
def inH (g : Group) : Group := { g with saved := some (0x10000, g.ctx), tpc := 0x10000 }
/-- An outstanding result. -/
def res (id : Nat) (ws : List PWrite) : Pending := ⟨id, 0x10000, .plain, ws, [], 0, [], 0, 0, [], [], none⟩
/-- Results outstanding in the scalar and in the lane stream. -/
def outS (g : Group) (ps : List Pending) : Group := { g with sc := { g.sc with out := ps } }
def outL (g : Group) (ps : List Pending) : Group := { g with ln := { g.ln with out := ps } }

theorem on_issues (g : Group) : Issues (on g) g := by
  show Store.find (Store.put base.groups 0 g) 0 = some g
  rfl

theorem witness_ScalarResults : Issues (on g0) g0 ∧ g0.sc.full = false ∧ (sRead [] g0 0).2 = .itv 0 0 ∧
    (sRead [] { g0 with ssh := Vector.replicate 64 .top } 0).2 = .top := ⟨on_issues _, rfl, rfl, rfl⟩

/-- SRANGE at both ends of its interval, and just outside each. -/
theorem witness_ScalarShadowWords : sOut g0.sc.out (g0.sKey 1) = [] ∧
    (let at_ := fun (v lo hi : W32) => let g := sset g0 1 [v, lo, hi]
      (decide ((g.sAt (g.sKey 2)).1.toInt ≤ (g.sAt (g.sKey 1)).1.toInt),
        decide ((g.sAt (g.sKey 1)).1.toInt ≤ (g.sAt (g.sKey 3)).1.toInt))
     at_ (-3) (-3) 7 = (true, true) ∧ at_ 7 (-3) 7 = (true, true) ∧ at_ (-4) (-3) 7 = (false, true) ∧
     at_ 8 (-3) 7 = (true, false)) := by decide

/-- Targets of SJR at the ends of what R69 admits. -/
theorem witness_ScalarJumps :
    (let at_ := fun (lo hi : W32) => let g := sset g0 4 [lo, hi]
      let t := sVal [] g 5 ++ sVal [] g 4
      decide (t.toNat % 4 = 0 ∧ t.toNat < 2 ^ 57)
     at_ 0 0 = true ∧ at_ 0xFFFFFFFC 0x1FFFFFF = true ∧ at_ 0 0x2000000 = false ∧ at_ 2 0 = false) ∧
    g0.sc.full = false := by decide

/-- Halves and extents at the ends of what ASETB and ASETX admit. -/
theorem witness_ArrayRegisterWrites :
    (let at_ := fun (v : W32) => decide ((sVal [] (sset g0 5 [v]) 5).toNat < 2 ^ 25)
     at_ 0x1FFFFFF = true ∧ at_ 0x2000000 = false) ∧
    (let at_ := fun (v : W32) => let y := (sVal [] (sset g0 6 [v]) 6).toNat
      decide (y < 2 ^ 13 ∧ y / 8 % 4 ≠ 3 ∧ y % 8 ≤ 3)
     at_ 0 = true ∧ at_ 0x1FF3 = true ∧ at_ 0x2000 = false ∧ at_ 0x18 = false ∧ at_ 4 = false) := by decide

/-- Results of each kind that are outstanding, for S5, V3, P2 and FX. -/
theorem witness_ResultsLand :
    (let g := outS g0 [res 1 [.s 5 9 (.itv 9 9) false]]
     (on g).grp 0 = some g ∧ g.trap = none ∧ g.sc.out[0]? = some (res 1 [.s 5 9 (.itv 9 9) false])) ∧
    (let g := outL l0 [res 1 [.v 255 3 (List.replicate 16 7) .top false]]
     (on g).grp 0 = some g ∧ g.trap = none ∧ Store.wf 0 (on g).rf = true ∧ (List.replicate 16 (7 : W32)).length = g.width ∧
       g.ln.out[0]? = some (res 1 [.v 255 3 (List.replicate 16 7) .top false])) ∧
    (let g := outL l0 [res 1 [.p 7 3 1 false], res 2 [.fxOr (List.replicate 16 32) false]]
     g.width ≤ 64 ∧ g.ln.out[0]? = some (res 1 [.p 7 3 1 false]) ∧
       g.ln.out[1]? = some (res 2 [.fxOr (List.replicate 16 32) false])) := by
  refine ⟨⟨rfl, rfl, rfl⟩, ⟨rfl, rfl, rfl, rfl, rfl⟩, by decide⟩

/-- The system registers of a group with a team, of a spawned one, and of a group in handler mode. -/
theorem witness_SystemRegisters :
    Issues (on g0) g0 ∧ g0.sc.full = false ∧ (∃ k t, g0.tkey = some k ∧ (on g0).team k = some t) ∧
    ({ g0 with tid := none } : Group).tid = none ∧ g0.saved = none ∧ g0.laneIdle = true ∧
    (let g := inH g0
     g.handler = true ∧ (g.tpc.toNat : Int) = ((on g).desc g).sentry + 4 * 0 ∧ g.tpc.toNat % 4 = 0 ∧
     g.saved = some (0x10000, g0.ctx)) ∧
    (let legal := fun (v : W32) => decide (v.toNat < 2 ^ 13) && decide (v.toNat / 64 % 4 = 0) && decide (v.toNat % 8 < 6)
     legal 0 = true ∧ legal 0x1F3D = true ∧ legal 0x2000 = false ∧ legal 6 = false ∧ legal 0x40 = false) := by
  refine ⟨on_issues _, rfl, ⟨teamKey 0 0, bootTeam, rfl, rfl⟩, rfl, rfl, rfl, by decide, by decide⟩

/-- An array register: base, extent, log2 of the element size, mode (R101). -/
def arr (base extent lsz mode : Nat) : ARegVal := BitVec.ofNat 128 (base + extent * 2 ^ 64 + lsz * 2 ^ 96 + mode * 2 ^ 99)
/-- A1 of the scalar stream. -/
def withA (g : Group) (v : ARegVal) : Group := { g with a := vset g.a 1 v }
/-- A1 as the running block sees it. -/
def withLA (g : Group) (v : ARegVal) : Group :=
  { g with ctx := { g.ctx with running := g.ctx.running.map fun b => { b with av := b.av.set 1 v } } }
/-- The leaf of the mapped page. -/
def page1 : TlbEntry := ⟨0, 0, 1, 1, true, true, 0⟩

/-- SLD and SST of the last element of A1, and of the index beyond it at each mode. -/
theorem witness_ScalarMemoryWords :
    (let g := withA (sset g0 2 [63]) (arr 0x10000 64 3 1)
     let s := on g
     g.sc.full = false ∧ g.sc.blocked s = false ∧ aEsz (vget g.a 1) = 8 ∧ aBase (vget g.a 1) % 8 = 0 ∧
     scalarAddress s g 1 2 0 = some 0x101F8 ∧
     translate (keepTrs s 0 0 [0x101F8]) 0 0 0x101F8 .read = .ok 0x101F8 page1 ∧
     translate (keepTrs s 0 0 [0x101F8]) 0 0 0x101F8 .write = .ok 0x101F8 page1 ∧ (paKind s 0x101F8).line = true ∧
     (homeRead (resolve (countLines s 0 0x101F8 1) (0x101F8 / 128)) 0x101F8 8).map (·.2) = some false ∧ s.reqs = [] ∧
     outA (vget g.a 1) 64 = true ∧ aMode (vget g.a 1) = 1 ∧
     insideA (vget g.a 1) ((sRead [] g 2).2.shift 1 1) = true ∧
     insideA (vget g.a 1) ((sRead [] { g with ssh := Vector.replicate 64 .top } 2).2.shift 1 1) = false) ∧
    (let g := withA { sset g0 2 [63] with ssh := Vector.replicate 64 .top } (arr 0x10000 64 2 0)
     scalarAddress (on g) g 1 2 0 = some 0x100FC ∧ scalarAddress (on g) g 1 2 1 = none) := by decide

/-- Room for the eighth block, and none for a ninth. -/
theorem witness_BlocksRun :
    (let room := fun (g : Group) => decide (g.ctx.queue.length + (if g.ctx.running.isSome then 1 else 0) < 8)
     let b : Block := l0.block
     room { g0 with ctx := { g0.ctx with queue := List.replicate 7 b } } = true ∧
     room { g0 with ctx := { g0.ctx with queue := List.replicate 8 b } } = false ∧
     room { l0 with ctx := { l0.ctx with queue := List.replicate 7 b } } = false) ∧
    (let g := { g0 with ctx := { g0.ctx with queue := [l0.block] } }
     (on g).grp 0 = some g ∧ g.ctx.running = none ∧ g.ctx.queue = [l0.block] ∧ g.halted = false ∧ g.tstop = false ∧
       g.trap = none) ∧
    (let g := { l0 with ctx := { l0.ctx with exited := true } }
     (on g).grp 0 = some g ∧ g.ctx.exited = true ∧ g.ln.out = []) ∧
    (let g := { g0 with pub := [(5, 9, .itv 9 9), (63, 8, .itv 8 8)] }
     Issues (on g) g ∧ g.ctx.queue = [] ∧ g.ctx.running = none ∧ g.ln.out = [] ∧
       g.pub = [(5, 9, .itv 9 9)] ++ [(63, 8, .itv 8 8)]) ∧ l0.ctx.running ≠ none :=
  ⟨by decide, ⟨rfl, rfl, rfl, rfl, rfl, rfl⟩, ⟨rfl, rfl, rfl⟩, ⟨on_issues _, rfl, rfl, rfl, rfl⟩, by decide⟩

/-- The 64 bytes at 0x10000 of the mapped page. -/
theorem witness_CommandBlockIsRead :
    (let s := on g0
     Issues s g0 ∧ s.tlb.find? (fun x => x.die == dieOf (coreOf s.cur) && x.asp == aspOf s g0 && x.vpn == 0x10000 / 65536) =
       some page1 ∧ inHbm (128 * (0x10000 / 128)) = true ∧ s.reqs = [] ∧ s.copies = [] ∧ s.flips = [] ∧ s.hostBias = [] ∧
       s.plat.channels = [] ∧ elyRaw s (0x10000 / 128) = 0 ∧ s.relTags = [] ∧ pickMask s.picks (pkMedia (0x10000 / 128)) = 0 ∧ chkBad s (0x10000 / 32) = false ∧
       chkBad s (0x10000 / 32 + 1) = false) :=
  ⟨on_issues _, rfl, by decide, rfl, rfl, rfl, rfl, rfl, by decide, rfl, by decide, by decide, by decide⟩

/-- Reading that block goes on, with the zeros that memory holds there. -/
theorem block_read : BlockRead (on g0) g0 0x10000 ((on g0).setGrp 0 { g0 with sc := { g0.sc with cov := live (on g0) g0.sc.cov, seen := liveRels (on g0) g0.sc.seen } }) 0 :=
  fun _ => rfl

/-- Command addresses at the ends of what is admitted. -/
theorem witness_command_addresses :
    (let bad := fun (lo hi : W32) => let g := sset g0 4 [lo, hi]
      let a : W64 := sVal [] g 5 ++ sVal [] g 4
      (decide (a.toNat % 64 ≠ 0), decide (a.toNat % 128 ≠ 0), decide (2 ^ 57 ≤ a.toNat))
     bad 0xFFFFFF80 0x1FFFFFF = (false, false, false) ∧ bad 32 0 = (true, true, false) ∧ bad 64 0 = (false, true, false) ∧
     bad 0 0x2000000 = (false, false, true)) := by decide

/-- Commands whose block is at 0x10000. -/
def gC : Group := sset g0 4 [0x10000, 0, 1]
/-- What the read of that block leaves. -/
def after (s : State) (g : Group) : State := s.setGrp 0 { g with sc := { g.sc with cov := live s g.sc.cov, seen := liveRels s g.sc.seen } }

theorem witness_CommandsAreGiven :
    Issues (on gC) gC ∧ gC.role = 3 ∧ gC.tid = some 0 ∧ (on gC).team (teamKey 0 0) = some bootTeam ∧
    (sVal [] gC 5 ++ sVal [] gC 4 : W64) = 0x10000 ∧ popCount (sVal [] gC 6) = 1 ∧ (sVal [] gC 6).getLsbD gC.gidx = true ∧
    copiesOf (on gC) gC < 64 ∧ gC.sc.blocked (on gC) = false ∧ BlockRead (on gC) gC 0x10000 (after (on gC) gC) 0 ∧
    (after (on gC) gC).grp 0 = some gC ∧
    pendingCopy ((after (on gC) gC).setGrp 0 (gC.goS (gC.spc + 4) false)) (teamKey 0 0) 0x10000 = none ∧
    hasFeat (on gC) 0 1 = true ∧ hasFeat { on gC with feat := Vector.replicate 8 4 } 0 1 = false ∧
    hasFeat { on gC with feat := Vector.replicate 8 4 } 0 0 = false ∧
    ((on gC).graphs.filter fun x => x.2.die == 0).length < 1024 :=
  by
  refine ⟨on_issues _, rfl, rfl, rfl, ?_, ?_, ?_, ?_, rfl, fun _ => rfl, rfl, ?_, ?_, ?_, ?_, ?_⟩ <;> decide +kernel

/-- A second slice joins the pending command of its block. -/
def cJ : Copy :=
  { lid := 0, tid := 0, core := 0, addr := 0x10000, block := 0, mask := 3, n := 2, mode := 0, parts := [⟨1, 0⟩],
    disagree := false, state := .pending, started := false, status := 0, next := [0, 0], srcs := [], vmap := [], placed := false, want := [], held := [],
    stamp := none, stampOk := false, vaddr := 0, cov := [] }
def gJ : Group := sset g0 4 [0x10000, 0, 3]
def sJ : State := { on gJ with copies := [(7, cJ)] }

theorem witness_TcopyJoins : Issues sJ gJ ∧ BlockRead sJ gJ 0x10000 (after sJ gJ) 0 ∧ popCount (sVal [] gJ 6) = 2 ∧
    pendingCopy ((after sJ gJ).setGrp 0 (gJ.goS (gJ.spc + 4) false)) (teamKey 0 0) 0x10000 = some (7, cJ) :=
  ⟨on_issues _, fun _ => rfl, by decide, by decide +kernel⟩

/-- An ATTN block of zeros, whose tiles lie in the allocation of a group of width 32. -/
def gT : Group := { sset g0 4 [0x10000, 0] with width := 32 }
def dT : KDesc := { bootDesc with width := 32, accq := 64 }
def sT : State := { on gT with launches := [(0, { bootLaunch with desc := dT })] }
def cT : Attn :=
  { lid := 0, tid := 0, gidx := 0, core := 0, block := 0, p0 := 0, ctl := 0, mode := 0, state := .pending, started := false,
    status := 0, next := 0, stale := 0, looks := 0, qs := none, got := [], map := none, acc := none, fined := false, mapPa := none, stamp := none, stampOk := false,
    vaddr := 0, cov := [] }

theorem witness_AttnGivesCommand : Issues sT gT ∧ gT.width ≠ 16 ∧ (attnsOf sT gT).length < 64 ∧
    BlockRead sT gT 0x10000 (after sT gT) 0 ∧ (after sT gT).desc gT = dT ∧ hasFeat sT 0 0 = true ∧
    (cT.tyOk = false ∨ (badTile dT 32 (cT.tiles 32 ++ [cT.zs]) = none ∧ (cT.tiles 32).contains cT.zs = false ∧
      (cT.tiles 32 ++ [cT.zs]).any (touched gT) = false)) :=
  ⟨on_issues _, by decide, by decide, fun _ => rfl, rfl, by decide, by decide +kernel⟩

/-- Counters at the ends of what lets a wait go on, and the continuations of YIELD. -/
theorem witness_WaitsEnd :
    (let near := fun (c t : BitVec 16) => decide ((c - t).toNat < 2 ^ 15)
     near 0 0 = true ∧ near 0x7FFF 0 = true ∧ near 0x8000 0 = false ∧ near 0 1 = false ∧ near 0 0xFFFF = true) ∧
    (let g := { g0 with sc := { g0.sc with wait := some (.cwait .ccopy 0) } }
     Issues (on g) g ∧ g.sc.wait = some (.cwait .ccopy 0) ∧ Awake g ∧ stepped (on g) (on g).cur g = false) ∧
    (let g := { l0 with ln := { l0.ln with wait := some (.cwait .cattn 0) } }
     Issues (on g) g ∧ g.ln.wait = some (.cwait .cattn 0) ∧ Awake g ∧ stepped (on g) (on g).cur g = false) ∧
    g0.laneIdle = true ∧ g0.pub = [] ∧
    (let g := { g0 with sc := { g0.sc with wait := some (.yield .ctrav 0 0x10040) } }
     Issues (on g) g ∧ g.sc.wait = some (.yield .ctrav 0 0x10040) ∧ Awake g ∧ stepped (on g) (on g).cur g = false) ∧
    (let ok := fun (lo hi : W32) => let g := sset g0 6 [lo, hi]
      let t := sVal [] g 7 ++ sVal [] g 6
      decide (t.toNat % 4 = 0 ∧ t.toNat < 2 ^ 57)
     ok 0xFFFFFFFC 0x1FFFFFF = true ∧ ok 1 0 = false ∧ ok 0 0x2000000 = false) :=
  ⟨by decide, ⟨on_issues _, rfl, ⟨rfl, rfl, rfl⟩, rfl⟩, ⟨on_issues _, rfl, ⟨rfl, rfl, rfl⟩, rfl⟩, rfl, rfl,
    ⟨on_issues _, rfl, ⟨rfl, rfl, rfl⟩, rfl⟩, by decide⟩

/-- A stamp of 0 at 0x10008 that an MWAIT of EQ and GEN 0 meets and one of NE 0 does not. -/
def gM : Group := { sset g0 4 [0x10008, 0] with sc := { g0.sc with wait := some (.mwait .eq none 0x10008 0) } }
def sM : State := keepTrs (on gM) 0 (aspOf (on gM) gM) [0x10008]

theorem witness_MwaitReadsStamp : Issues (on gM) gM ∧ (sVal [] gM 5 ++ sVal [] gM 4 : W64) = 0x10008 ∧
    gM.sc.blocked (on gM) = false ∧ Awake gM ∧ stepped (on gM) 0 gM = false ∧
    translate sM 0 (aspOf (on gM) gM) 0x10008 .read = .ok 0x10008 page1 ∧ (paKind sM 0x10008).line = true ∧
    homeRead (resolve sM (0x10008 / 128)) 0x10008 8 = some (List.replicate 8 0, false) ∧
    (resolve sM (0x10008 / 128)).reqs = [] ∧ (resolve sM (0x10008 / 128)).groups = (on gM).groups ∧
    gM.sc.wait = some (.mwait .eq none (sVal [] gM 5 ++ sVal [] gM 4 : W64).toNat (sVal [] gM 7 ++ sVal [] gM 6)) :=
  by
  refine ⟨on_issues _, ?_, rfl, ⟨rfl, rfl, rfl⟩, rfl, ?_, ?_, ?_, rfl, rfl, rfl⟩ <;> decide +kernel

/-- A team whose barrier 15 has its one arrival, and one whose stage 0 of a ring at 0 needs two releases. -/
def tB : Team := setBar bootTeam 15 ⟨1, [0], true, []⟩
def gB : Group := { g0 with arrived := some (15, true), sc := { g0.sc with wait := some (.bar 15) } }
def sB : State := { on gB with teams := [(teamKey 0 0, tB)] }

theorem witness_Barriers :
    (Issues (on g0) g0 ∧ g0.tid = some 0 ∧ (on g0).team (teamKey 0 0) = some bootTeam ∧ g0.arrived = none ∧
      ((on g0).desc g0).groups = 1 ∧ ((on g0).desc g0).pair = false ∧ g0.laneIdle = true ∧ g0.pub = [] ∧ g0.sc.out = [] ∧
      (barAt bootTeam 3).arr = []) ∧
    (let legal := fun (v : W32) => decide (1 ≤ (sVal [] (sset g0 4 [v]) 4).toNat ∧ (sVal [] (sset g0 4 [v]) 4).toNat ≤ 1)
     legal 0 = false ∧ legal 1 = true ∧ legal 2 = false) ∧
    (Issues sB gB ∧ sB.team (teamKey 0 0) = some tB ∧ (barAt tB 15).arr.length = (barAt tB 15).count ∧
      0 < (barAt tB 15).count ∧ Store.sorted sB.groups = true ∧ (∀ k, (sB.core k).step = 0) ∧ gB.lid = tB.lid ∧
      gB.tid = tB.tid ∧ gB.arrived = some (15, (barAt tB 15).phase) ∧ gB.sc.wait = some (.bar 15)) := by
  refine ⟨⟨on_issues _, rfl, rfl, rfl, rfl, rfl, rfl, rfl, rfl, rfl⟩, by decide, on_issues _, rfl, ?_, ?_, rfl, fun _ => rfl,
    rfl, rfl, ?_, rfl⟩ <;> decide +kernel

/-- One stage at 8 of a scratchpad of 12 bytes, which needs `need` releases, has `have_`, and is in phase `ph`. -/
def sR (g : Group) (have_ need : Byte) (ph : Byte) : State :=
  { on g with spad := [(0, 1), (8, have_), (9, need), (11, ph)],
              launches := [(0, { bootLaunch with desc := { bootDesc with spq := 12 } })] }

theorem witness_StageRings :
    Issues (sR g0 0 1 0x80) g0 ∧ ((sR g0 0 1 0x80).desc g0).spq = 12 ∧ ((sR g0 0 1 0x80).desc g0).pair = false ∧
    leNat (spadNow (sR g0 0 1 0x80) ((sR g0 0 1 0x80).desc g0) bootTeam 0 2) = 1 ∧
    (let word := fun h n p => (ofBytes 32 (spadNow (sR g0 h n p) ((sR g0 h n p).desc g0) bootTeam 8 4) : W32)
     let have_ := fun h n => (decide ((word h n 0).toNat % 256 < (word h n 0).toNat / 256 % 256))
     have_ 0 1 = true ∧ have_ 0 2 = true ∧ have_ 254 255 = true ∧ have_ 1 1 = false ∧
     (word 0 1 0x80).getLsbD 31 = true ∧ (word 0 1 0x7F).getLsbD 31 = false) ∧
    (let g := { g0 with sc := { g0.sc with wait := some (.stg 0 0 true) } }
     Issues (sR g 0 1 0x80) g ∧ g.sc.wait = some (.stg 0 0 true) ∧ Awake g ∧ stepped (sR g 0 1 0x80) 0 g = false) :=
  ⟨on_issues _, rfl, rfl, by decide, by decide +kernel, on_issues _, rfl, ⟨rfl, rfl, rfl⟩, rfl⟩

/-- A group of quota 16 that may grow to 20, whose next row is free, and one whose next row another group holds. -/
def gQ (q : Nat) : Group := { g0 with q := q, qmax := 20 }
def sQ (g : Group) : State := (on g).setGrp 1 { g0 with row0 := 4, q := 4, qmax := 4 }

theorem witness_Quotas :
    Issues (on (gQ 16)) (gQ 16) ∧ growFree (on (gQ 16)) 0 (gQ 16) 20 1 = true ∧ growFree (sQ (gQ 16)) 0 (gQ 16) 20 1 = false ∧
    (20 : BitVec 12).toNat ≤ (gQ 16).qmax ∧ ¬ (21 : BitVec 12).toNat ≤ (gQ 16).qmax ∧ (gQ 16).laneIdle = true ∧
    (let g := { gQ 16 with sc := { g0.sc with wait := some (.grow 20 1) } }
     Issues (on g) g ∧ g.sc.wait = some (.grow 20 1) ∧ Awake g ∧ stepped (on g) 0 g = false ∧
       growFree (on g) 0 g 20 1 = true) := by
  refine ⟨on_issues _, ?_, ?_, ?_, ?_, rfl, on_issues _, rfl, ⟨rfl, rfl, rfl⟩, rfl, ?_⟩ <;> decide +kernel

/-- A core whose TRAPBASE is set. -/
def withBase (s : State) : State := s.setCore 0 { Core.init with trapbase := 0x10040 }

theorem witness_TrapsAreTaken :
    (Issues (withBase (on g0)) g0 ∧ g0.saved = none ∧ g0.sc.out = [] ∧ g0.ln.out = [] ∧ g0.pub = [] ∧
      ((withBase (on g0)).core 0).trapbase ≠ 0) ∧
    (let g := outS g0 [res 1 []]
     Issues (withBase (on g)) g ∧ g.sc.out ≠ []) ∧
    (let g := { g0 with trap := some ⟨14, 5, false, 0x10000, false⟩ }
     Issues (withBase (on g)) g ∧ g.trap = some ⟨14, 5, false, 0x10000, false⟩ ∧ g.saved = none ∧ g.sc.out = []) ∧
    (Issues (on (inH g0)) (inH g0) ∧ (inH g0).saved ≠ none ∧ Store.sorted (on (inH g0)).groups = true) ∧
    ((on g0).core 0).trapbase = 0 :=
  ⟨⟨on_issues _, rfl, rfl, rfl, rfl, by decide⟩, ⟨on_issues _, by decide⟩, ⟨on_issues _, rfl, rfl, rfl⟩,
    ⟨on_issues _, by decide, rfl⟩, rfl⟩

/-- ERET from a trap of each stream, its trap address written and not, an XLDE trapped; SEXIT in and out of handler mode. -/
theorem witness_HandlersAndGroupsEnd :
    (Issues (on (inH g0)) (inH g0) ∧ (inH g0).saved = some (0x10000, g0.ctx) ∧ (inH g0).laneIdle = true ∧ (inH g0).pub = [] ∧
      (inH g0).tpcWr = false ∧ (inH g0).tcause.getLsbD 8 = false) ∧
    (let g := { inH g0 with tcause := 0x109, tpcWr := true }
     g.tpcWr = true ∧ g.tcause.getLsbD 8 = true ∧ g.tcause.toNat % 256 = 9) ∧
    (Issues (on g0) g0 ∧ g0.saved = none ∧ g0.laneIdle = true ∧ Store.sorted (on g0).groups = true ∧
      Store.sorted (on g0).teams = true ∧ g0.tkey = some (teamKey 0 0) ∧ (on g0).team (teamKey 0 0) = some bootTeam) ∧
    l0.saved = none ∧ l0.laneIdle = false :=
  ⟨⟨on_issues _, rfl, rfl, rfl, rfl, by decide⟩, by decide, ⟨on_issues _, rfl, rfl, rfl, rfl, rfl, rfl⟩, rfl, rfl⟩

/-- A group whose P1 is set in some lanes, and whose stack holds entries. -/
def pset (g : Group) (v : Mask) : Group := { g with p := vset g.p 1 v }
def held (g : Group) (es : List DivEntry) : Group := { g with ctx := { g.ctx with held := es } }
def m1 : Mods := ⟨false, 1, false, false⟩

theorem witness_LaneControlFlow :
    Issues (on l0) l0 ∧
    (let sides := fun (v : Mask) => let g := pset l0 v
      (decide (g.ctx.exm &&& guardMask [] g m1 = 0), decide (g.ctx.exm &&& ~~~guardMask [] g m1 = 0))
     sides 0 = (true, false) ∧ sides 0xFFFF = (false, true) ∧ sides 0x8000 = (false, false)) ∧
    (let e : DivEntry := ⟨false, 0x10000, 1, 0x10000⟩
     (held l0 (List.replicate 30 e)).ctx.held.length + 2 ≤ 32 ∧ (held l0 (List.replicate 31 e)).ctx.held.length < 32 ∧
       l0.ctx.spilled = 0 ∧ e.rpc ≠ BitVec.ofNat 57 (2 ^ 57 - 1) ∧
       hasRoom (on (held l0 (List.replicate 32 e))) 0 (held l0 (List.replicate 32 e)) 1 = false ∧
       hasRoom (on l0) 0 l0 2 = true) ∧
    (let e : DivEntry := ⟨true, 0x1000C, 1, BitVec.ofNat 57 (2 ^ 57 - 1)⟩
     (held l0 [e]).ctx.held = [e] ∧ e.rpc = BitVec.ofNat 57 (2 ^ 57 - 1)) ∧
    (l0.ctx.held = [] ∧ l0.chain = none ∧ effMask [] l0 m0 = 0xFFFF ∧ l0.live &&& ~~~effMask [] l0 m0 = 0 ∧
      l0.live &&& ~~~effMask [] (pset l0 1) m1 ≠ 0) := by
  refine ⟨on_issues _, ?_, ?_, ?_, ?_⟩ <;> decide +kernel

/-- A kernel with spawn bins, and threads that find no bin open, and none free. -/
def sp (s : State) : State := { s with launches := [(0, { bootLaunch with desc := { bootDesc with spawnq := 1, sq0 := 4, sqmax := 4 },
                                                                            spawn := [⟨0, [(1, 64)]⟩] })] }
def bin (n : Nat) : Bin := ⟨0, n, 0, 0x10000, [⟨[1, 2, 3, 4], none, []⟩], 0, true, n⟩

theorem witness_SpawnedGroups :
    (Issues (sp (on l0)) l0 ∧ (252 : BitVec 8).toNat + 3 < l0.q ∧ effMask [] l0 m0 ≠ 0 ∧ effMask [] (pset l0 0) m1 = 0 ∧
      ((sp (on l0)).desc l0).spawnq ≠ 0 ∧ ((on l0).desc l0).spawnq = 0) ∧
    (∀ k, k ≤ 31 → (k ∈ binsUsed { sp (on l0) with bins := (List.range 31).map bin } 0 ↔ k < 31)) ∧
    (∀ n, n < 32 → n ∈ binsUsed { sp (on l0) with bins := (List.range 32).map bin } 0) ∧
    (let b := { bin 3 with sealed := false }
     ({ sp (on l0) with bins := [b], gtc := 200 } : State).bins = [b] ∧ b.sealed = false ∧
       b.opened + binTicks ((((sp (on l0)).launch b.lid).map Launch.desc).getD default) ≤ 200) ∧
    (let s := { sp (on l0) with bins := [bin 3] }
     oldestBin s 0 = some (bin 3) ∧ (binSlot s (bin 3)).map (·.2) = some (0, 1, 64) ∧ (∀ e ∈ s.launches, e.2.threads = []) ∧
       Store.wf 0 s.rf = true ∧ (bin 3).threads.length ≤ 16) := by
  refine ⟨⟨on_issues _, ?_⟩, ?_, ?_, ?_, ?_⟩ <;> decide +kernel

/-- A launch with one team to place, at the last place of a core that holds it, and one that has waited just long enough
and fits nowhere. -/
def sP (d : KDesc) (now : W64) : State :=
  { State.reset with launches := [(0, { bootLaunch with desc := d, next := 0 })], gtc := now }

theorem witness_TeamsArePlaced :
    (spawnedBack (sP bootDesc 0) 383 63 4032 = none ∧ bootLaunch.dmask = 1) ∧
    (pickBid (sP bootDesc 0) 47 0 0 [(63, 4032)] (bids (sP bootDesc 0))).map (fun b => (b.1, b.2.2)) = some (0, .fresh 0) ∧
    ((keysOf bootDesc 47 ((Cand.fresh 0).asks bootDesc) [(63, 4032)]).map fun x => x.2.1).Nodup ∧
    (let s := fun now => sP { bootDesc with spq := 500000 } now
     launchCand (s 5000) 0 { bootLaunch with desc := { bootDesc with spq := 500000 }, next := 0 } = some (.fresh 0) ∧
       fitsAny (s 5000) (0, { bootLaunch with desc := { bootDesc with spq := 500000 }, next := 0 }, .fresh 0) = false ∧
       bootLaunch.since + 5000 ≤ (s 5000).gtc.toNat ∧ (s 4999).gtc.toNat < bootLaunch.since + 5000) := by
  refine ⟨?_, ?_, ?_, ?_⟩ <;> decide +kernel

/-- Lane words of a group with quota 256, and of one whose quota ends at the register named. -/
theorem witness_lane_words :
    Issues (on l0) l0 ∧ (∀ r ∈ [255, 254, 0], r < l0.q) ∧ effMask [] l0 m0 ≠ 0 ∧ effMask [] (pset l0 0) m1 = 0 ∧
    l0.ln.full = false ∧ l0.width ≤ 64 ∧
    (let g := { l0 with q := 5 }
     ∃ r ∈ [7, 5, 4], g.q ≤ r ∧ ∀ r' ∈ [7, 5, 4], g.q ≤ r' → r ≤ r') ∧
    Ty.i64.int4 = true ∧ Ty.i64.int8c = true ∧ Ty.n8.int8c = true ∧ icondOk .ge = true ∧ Ty.i64.shfl = true ∧
    Ty.f32.scan .max = true ∧ Ty.mma .e4m3 = true ∧ Ty.flt3 .bf16 = true ∧ Ty.flt5 .b2 = true ∧ Ty.fcvt .f32 .n64 = true ∧
    Ty.lcvt .l6 .bf16 = true ∧ 1 ≤ (1 : BitVec 6).toNat ∧ (32 : BitVec 6).toNat ≤ 32 := by
  refine ⟨on_issues _, ?_, ?_, ?_, rfl, ?_, ?_, ?_⟩ <;> decide +kernel

/-- VWIDEN and VRANGE of V3 between S4 and S5: V3 is 0 in every lane, inside [0, 0], outside [1, 2] and [-2, -1]. -/
def block4 (g : Group) (lo hi : W32) : Group :=
  { g with ctx := { g.ctx with running := g.ctx.running.map fun b => { b with sv := (b.sv.set 4 lo).set 5 hi } } }

theorem witness_LaneShadowWords :
    Issues (on l0) l0 ∧ (3 : BitVec 8).toNat < l0.q ∧ vOut l0.ln.out 3 = [] ∧ uBusy l0 (.s 4) = false ∧
    (let in_ := fun (lo hi : W32) => let g := block4 l0 lo hi
      let v := (vRead (on g) 0 g 3 0).toInt
      (decide ((uRead [] g (.s 4)).1.toInt ≤ v), decide (v ≤ (uRead [] g (.s 5)).1.toInt))
     in_ 0 0 = (true, true) ∧ in_ 1 2 = (false, true) ∧ in_ (-2) (-1) = (true, false)) := by
  refine ⟨on_issues _, ?_, rfl, rfl, ?_⟩ <;> decide +kernel

/-- FDIV and FRCP of 0 raise the division flag, which MODE enables in one block and not in the other. -/
def lmode (g : Group) (m : W32) : Group :=
  { g with ctx := { g.ctx with running := g.ctx.running.map fun b => { b with mode := m } } }

theorem witness_FlagWords :
    (let traps := fun (m : W32) => let g := lmode l0 m
      let en : BitVec 6 := (g.lmode.extractLsb' 8 5).zeroExtend 6
      decide ((each1 .f32 (fenv g.lmode .mode) Fmt.rcpV (vVal (on g) 0 g .i32 3 0)).2 &&& en ≠ 0)
     traps 0 = false ∧ traps 0x1F00 = true) ∧
    (each1 .f32 (fenv 0 .mode) Fmt.rcpV 0).2 ≠ 0 ∧ (each1 .f32 (fenv 0 .mode) Fmt.rcpV 0x3F800000).2 = 0 ∧
    ((fmtOf .f32).cmp (fenv 0 .mode) .lt 0x7FC00000 0).2 ≠ 0 ∧ ((fmtOf .f32).cmp (fenv 0 .mode) .lt 0 0).2 = 0 ∧
    hasFeat (on l0) 0 2 = true ∧ hasFeat { on l0 with feat := Vector.replicate 8 3 } 0 2 = false := by decide +kernel

/-- The remainders at and beside half a place. -/
theorem witness_RoundingDirections : (0 : Nat) < 2 ^ 1 ∧ (3 : Nat) < 2 ^ 2 ∧ 2 * 2 = 2 ^ 2 ∧ 2 * 1 < 2 ^ 2 ∧ 2 ^ 2 < 2 * 3 ∧
    Rm.rne ≠ .mode := by decide

/-- The lowest effective lane, scans whose sums raise the overflow flag, and one that raises none. -/
theorem witness_LaneExchange :
    (let g := pset l0 0xF0
     (∀ j, j < 4 → (effMask [] g m1).getLsbD j = false) ∧ (effMask [] g m1).getLsbD 4 = true) ∧
    (scanOne (fenv 0 .mode) .add .f32 0x7F7FFFFF 0x7F7FFFFF).2 ≠ 0 ∧ (scanOne (fenv 0 .mode) .add .f32 0 0).2 = 0 ∧
    (let g := lmode l0 0x1F00
     (g.lmode.extractLsb' 8 5 : BitVec 5) = 0x1F) := by decide +kernel

/-- A1 of a lane block, with elements of 4 bytes: indices by lane number, at both ends and beyond, at each mode. -/
def gL (extent mode : Nat) : Group := withLA l0 (arr 0x10000 extent 2 mode)

theorem settled_on (g : Group) : Settled (on g) := by
  refine ⟨fun _ => rfl, fun _ => rfl, fun line h => ?_⟩
  exfalso
  have : lineState (on g) line = .uncached := rfl
  simp [this] at h

theorem no_sent_writes (g : Group) : NoSentWrites (on g) := fun _ h => nomatch h

theorem witness_lane_memory :
    Issues (on (gL 16 1)) (gL 16 1) ∧ (∀ r ∈ [3, 4], r < (gL 16 1).q) ∧
    aBase (aLane (gL 16 1) 1) % aEsz (aLane (gL 16 1) 1) = 0 ∧ insideA (aLane (gL 16 1) 1) (laneInterval (on (gL 16 1)) (gL 16 1) .lid 0) = true ∧
    (gL 16 1).ln.full = false ∧ (gL 16 1).ln.blocked (on (gL 16 1)) = false ∧ (gL 16 1).ln.held (on (gL 16 1)) = false ∧
    (gL 16 1).width ≤ 64 ∧ effLanes (on (gL 16 1)) (gL 16 1) m0 = List.range 16 ∧
    effLanes (on (pset l0 0)) (pset l0 0) m1 = [] ∧ laneAddress (on (gL 16 1)) (gL 16 1) 1 .lid 0 15 = some 0x1003C ∧
    insideA (aLane (gL 15 1) 1) (laneInterval (on (gL 15 1)) (gL 15 1) .lid 0) = false ∧
    outA (aLane (gL 15 1) 1) (laneIndex (on (gL 15 1)) (gL 15 1) .lid 0 15) = true ∧
    outA (aLane (gL 15 1) 1) (laneIndex (on (gL 15 1)) (gL 15 1) .lid 0 14) = false ∧ aMode (aLane (gL 15 1) 1) = 1 ∧
    laneAddress (on (gL 15 0)) (gL 15 0) 1 .lid 0 15 = none ∧
    aBase (aLane (withLA l0 (arr 0x10002 16 2 1)) 1) % aEsz (aLane (withLA l0 (arr 0x10002 16 2 1)) 1) ≠ 0 := by
  refine ⟨on_issues _, ?_⟩; decide +kernel

/-- The elements of all sixteen lanes can be read and written, each of them 0 and sound. -/
theorem witness_lane_translations :
    (let s := on (gL 16 1)
     let xs := accesses s (gL 16 1) m0 (laneAddress s (gL 16 1) 1 .lid 0)
     xs = (List.range 16).map (fun l => (l, 0x10000 + 4 * l)) ∧ 
     (∀ acc ∈ [Acc.read, .write],
       transLanes (keepTrs s 0 (aspOf s (gL 16 1)) (xs.map (·.2))) 0 (aspOf s (gL 16 1)) acc xs =
         (xs.map fun x => (x.1, x.2, page1)).map (fun p => (p.1, Tr.ok p.2.1 p.2.2))) ∧
     (∀ x ∈ xs, (paKind s x.2).line = true ∧ homeRead s x.2 4 = some ([0, 0, 0, 0], false))) := by decide +kernel

/-- LDS and STS of a scratchpad that the elements just fit, and do not; CST and XLDE from position 0 on. -/
def gS : Group := withLA l0 (arr 0 16 2 0)
def sS (spq : Nat) : State := { on gS with launches := [(0, { bootLaunch with desc := { bootDesc with spq := spq } })] }

theorem witness_ScratchpadWords :
    Issues (sS 64) gS ∧ gS.tkey = some (teamKey 0 0) ∧ (sS 64).team (teamKey 0 0) = some bootTeam ∧
    (let xs := fun q => accesses (sS q) gS m0 (laneAddress (sS q) gS 1 .lid 0)
     (∀ e ∈ xs 64, e.2 + aEsz (aLane gS 1) ≤ ((sS 64).desc gS).spq) ∧
     (15, 60) ∈ xs 63 ∧ ((sS 63).desc gS).spq < 60 + aEsz (aLane gS 1) ∧
     (∀ f ∈ xs 63, f.1 < 15 → f.2 + aEsz (aLane gS 1) ≤ ((sS 63).desc gS).spq)) ∧
    gS.ln.held (sS 64) = false ∧ ({ gS with tid := none } : Group).tkey = none := by
  refine ⟨on_issues _, rfl, rfl, ?_, rfl, rfl⟩; decide +kernel

theorem witness_CompressedWords :
    Issues (on (gL 16 1)) (gL 16 1) ∧ (gL 16 1).ctx.prog = 0 ∧ stopAt (on (gL 16 1)).picks = none ∧
    (let s := on (gL 16 1)
     let xs := accesses s (gL 16 1) m0 (posAddress s (gL 16 1) m0 1 (.s 5) 0)
     (∀ l ∈ effLanes s (gL 16 1) m0, outA (aLane (gL 16 1) 1) (posIndex s (gL 16 1) m0 (.s 5) 0 l) = false) ∧
     xs = (List.range 16).map (fun l => (l, 0x10000 + 4 * l))) := by
  refine ⟨on_issues _, rfl, rfl, ?_⟩; decide +kernel

/-- A group that may use tiles: the last tile of its allocation, and the one beyond it. -/
def gZ : Group := { l0 with chain := none }
def sZ : State := { on gZ with launches := [(0, { bootLaunch with desc := { bootDesc with accq := 1, spq := 1024 } })] }

theorem witness_MatrixWords :
    Issues sZ gZ ∧ MatrixReady sZ gZ bootTeam ∧ gZ.handler = false ∧ gZ.ln.full = false ∧ gZ.ln.blocked sZ = false ∧
    gZ.ln.held sZ = false ∧ tileBeyond (sZ.desc gZ) 16 3 = false ∧ tileBeyond (sZ.desc gZ) 16 4 = true ∧
    touched gZ 3 = false ∧ Ty.mma .i8 = true ∧
    (let t : ChainTile := openTile 3 (List.replicate 64 0) false
     let g := { gZ with chain := some ⟨some (.i8, .rne), [t], 0⟩ }
     touched g 3 = true ∧ t.steps + 1 < 2 ^ 24 ∧ (some (Ty.i8, (fenv g.lmode .mode).rm)) = some (.i8, .rne)) ∧
    (let c : Chain := ⟨some (.i8, .rne), (List.range 8).map fun i => openTile i [] false, 0⟩
     8 ≤ c.tiles.length ∧ (c.tiles.find? fun t => t.tile == 9) = none ∧ c.first ≠ some (.i8, .rz)) ∧
    (inH gZ).handler = true ∧ ({ gZ with role := 0 } : Group).role = 0 ∧
    ({ gZ with ctx := { gZ.ctx with exm := 1 } } : Group).ctx.exm ≠ gZ.all := by
  refine ⟨on_issues _, ⟨.inr rfl, ⟨teamKey 0 0, rfl, rfl⟩, by decide⟩, ?_⟩; decide +kernel

/-- Scratchpad operands at the ends of 1,024 bytes: the last aligned tile and fragment, and beyond. -/
theorem witness_MatrixTiles :
    (let at_ := fun (off : BitVec 32) => ((uRead [] gZ (.k 0)).1.toNat : Int) + off.toInt
     at_ 768 % 16 = 0 ∧ at_ 768 + 4 * 64 ≤ (sZ.desc gZ).spq ∧ ¬ at_ 784 + 4 * 64 ≤ (sZ.desc gZ).spq ∧ at_ 784 % 16 = 0 ∧
     at_ (-16) % 16 = 0 ∧ at_ (-16) < 0 ∧ at_ 8 % 16 ≠ 0 ∧ at_ 0 % 128 = 0 ∧ at_ 0 + 128 * 8 ≤ (sZ.desc gZ).spq ∧
     ¬ at_ 128 + 128 * 8 ≤ (sZ.desc gZ).spq ∧ at_ 64 % 128 ≠ 0) := by decide +kernel

/-- A routine table at 0x10000 whose ENTER is 0x10040, and a record at 0 of a cut with no entry of that table. -/
def gV : Group := { block4 l0 0x10000 0 with p := l0.p }
def sV : State := { sp (on gV) with mem := [(7, 0x80), (10, 1), (0x10000, 0x40), (0x10002, 1)] }
/-- The table as it is read, and what its read leaves. -/
def table : BitVec 512 := ofBytes 512 (memBytes sV 0x10000 64)
def afterL (s : State) (g : Group) : State := s.setGrp 0 { g with ln := { g.ln with cov := live s g.ln.cov, seen := liveRels s g.ln.seen } }

theorem witness_TraversalsStart :
    Issues sV gV ∧ (sV.desc gV).spawnq ≠ 0 ∧ hasFeat sV 0 1 = true ∧ gV.ln.blocked sV = false ∧ gV.ln.full = false ∧
    (uRead [] gV (Uni.next (.s 4))).1 ++ (uRead [] gV (.s 4)).1 = (0x10000 : W64) ∧
    LaneBlockRead sV gV 0x10000 (afterL sV gV) table ∧ (afterL sV gV).grp 0 = some gV ∧ table = 0x10040 ∧ tableBad table = false ∧
    tableBad 0 = true ∧ travRoom (afterL sV gV) 0 gV (effLanes (afterL sV gV) gV m0).length = true ∧
    ((effLanes (afterL sV gV) gV m0).filterMap fun l =>
      (stampOf table (vRead (afterL sV gV) 0 gV 7 l)).map fun va => (l, va)) = [] ∧
    AccessesGo (afterL sV gV) gV .write [] (afterL sV gV) [] := by
  refine ⟨on_issues _, ?_, ?_, rfl, rfl, ?_, fun _ => rfl, rfl, ?_, ?_, ?_, ?_, ?_, fun _ => rfl⟩ <;> decide +kernel

/-- The record at 0 resumes a traversal in lane 0, which P1 guards. -/
def gR : Group := pset gV 1
def sRec : State := { sV with groups := Store.put sV.groups 0 gR }
def page0 : TlbEntry := ⟨0, 0, 0, 0, true, true, 0⟩
def lsR : List RLane := (effLanes sRec gR m1).map fun l =>
  let va := (vRead sRec 0 gR 3 l ++ vRead sRec 0 gR 2 l).toNat
  ⟨l, va, va % 64 == 0, 0, 0, []⟩
def hR := readHeaders (resolve sRec 0) 0 [(0, 0, page0)] lsR
def bR := readBodies (resolve sRec 0) 0 [(0, 0x10000, page1)] hR.1

theorem witness_TvresumeStarts :
    Issues sRec gR ∧ travRoom sRec 0 gR (effLanes sRec gR m1).length = true ∧ gR.ln.blocked sRec = false ∧
    (lsR.filter (·.ok)).flatMap (fun l => pageKeys (4 * l.lane) l.va 64) = [(0, 0)] ∧
    AccessesGo sRec gR .read [(0, 0)] sRec [(0, 0, page0)] ∧ hR.2 = none ∧
    (hR.1.filter (·.ok)).flatMap (fun l => pageKeys (4 * l.lane) (fld l.hdr 8 0 57) 64 ++
      pageKeys (4 * l.lane + 1) (l.va + 64) (16 * (bits l.hdr 0 32).toNat)) = [(0, 0x10000)] ∧
    AccessesGo (resolve sRec 0) gR .read [(0, 0x10000)] (resolve sRec 0) [(0, 0x10000, page1)] ∧ bR.2 = none ∧
    (bR.1.filter (·.ok)).map (·.lane) = [0] ∧ (resolve sRec 0).cur = sRec.cur := by
  refine ⟨on_issues _, ?_, rfl, ?_, fun _ => rfl, ?_, ?_, fun _ => rfl, ?_, ?_, rfl⟩ <;> decide +kernel

/-- Visits that lanes 0 carries, and lane 1 does not; traversals with and without payload. -/
def trav0 : Trav :=
  { lid := 0, oteam := some 0, ogroup := 0, okey := 0, owned := true, core := 0, bins := 0, table := table, taddr := 0x10000,
    payload := 5, tg := 0, held := [], spilled := 0, begun := false, visit := none, waiting := false, ret := none, cuts := [],
    stamp := none, stampOk := true, ending := none, fault := none, cov := [] }
def gW : Group := { pset l0 1 with visits := [⟨0, 3, 0, 9⟩] }
def sW : State := { on gW with travs := [(3, trav0)] }

theorem witness_TraversalWords :
    Issues sW gW ∧ hasFeat sW 0 1 = true ∧ hasFeat { sW with feat := Vector.replicate 8 5 } 0 1 = false ∧
    (∀ l ∈ effLanes sW gW m1, ∃ v ∈ gW.visits, v.lane = l) ∧ (∃ l ∈ effLanes sW gW m0, ∀ v ∈ gW.visits, v.lane ≠ l) ∧
    (((effLanes sW gW m1).foldl (returnLane 0 gW 2 4 (gW.ln.covered sW)) sW).grp 0).isSome = true ∧
    (uRead [] gW (Uni.next (.s 4))).1 ++ (uRead [] gW (.s 4)).1 = (0 : W64) ∧ gW.ln.blocked sW = false ∧
    AccessesGo sW gW .write [(0, 0)] sW [(0, 0, page0)] ∧
    (∃ t, travOf sW gW (BitVec.ofNat 32 3) = some t) := by
  refine ⟨on_issues _, ?_, ?_, ?_, ?_, ?_, ?_, rfl, fun _ => rfl, ⟨trav0, rfl⟩⟩ <;> decide +kernel

/-- A running copy of no bytes, with a line to own, with a line owned, and with every slice written. -/
def copy0 : Copy := { cJ with state := .running, started := true, stampOk := true, n := 1, next := [0], parts := [⟨0, 0⟩] }
def sK (c : Copy) : State := { on gC with copies := [(7, c)] }

theorem copy_to_pad : copy0.toBox = false := by decide +kernel
theorem copy_may (st : Nat) (w h : List Nat) (p : Option Place) :
    let c := { copy0 with status := st, want := w, held := h, stamp := p }
    CopyMay (sK c) 7 c bootLaunch bootTeam :=
  ⟨rfl, rfl, rfl, (rfl : (on gC).team (teamKey 0 0) = some bootTeam), rfl, rfl, .inr rfl, .inl copy_to_pad, rfl⟩

theorem witness_CopyCommandsRun :
    CopyMay (sK copy0) 7 copy0 bootLaunch bootTeam ∧
    (let c := { copy0 with want := [0x200] }
     CopyMay (sK c) 7 c bootLaunch bootTeam ∧ c.want = 0x200 :: [] ∧ resolve (sK c) 0x200 = sK c ∧
       lineReady (sK c) 7 0x200 = true) ∧
    (let c := { copy0 with want := [0x200] }
     let s := { sK c with reqs := [(3, ⟨0x200, none, none, .store 0x10000 [0x5A], [], [], [], none, 0, []⟩)], waits := [(0x200, 3)] }
     CopyMay s 7 c bootLaunch bootTeam ∧ resolve s 0x200 = s ∧ mayServe s 0x200 7 = false) ∧
    (let c := { copy0 with held := [0x200] }
     CopyMay (sK c) 7 c bootLaunch bootTeam ∧ 0x200 ∈ c.held ∧ c.lineDone 0x200 = true ∧ c.replOf 0x200 = 0) ∧
    (let c := { copy0 with status := 3 }
     CopyMay (sK c) 7 c bootLaunch bootTeam ∧ c.status ≠ 0 ∧ c.held = [] ∧ c.want = [] ∧ c.stamp = none) ∧
    (let c := { copy0 with status := 3, stamp := some ⟨0x10000, 0⟩ }
     CopyMay (sK c) 7 c bootLaunch bootTeam ∧
       (engWrite (sK c) (.cmd 7) 0x10000 (leBytes 8 (c.status * 2 ^ 32 + c.seqw)) 0).2 = true) ∧
    (let c := { copy0 with block := BitVec.ofNat 512 (0x10000 + 2 ^ 106 + 16 * 2 ^ 256) }
     c.kind = 4 ∧ c.empty = false ∧ c.held = [] ∧ c.want = [] ∧ c.stamp = none ∧ c.rel = false) ∧
    copy0.rel = false := by
  refine ⟨copy_may 0 [] [] none, ⟨copy_may 0 [0x200] [] none, rfl, rfl, ?_⟩,
    ⟨⟨rfl, rfl, rfl, (rfl : (on gC).team (teamKey 0 0) = some bootTeam), rfl, rfl, .inr rfl, .inl copy_to_pad, rfl⟩, rfl, ?_⟩,
    ⟨copy_may 0 [] [0x200] none, ?_, ?_, ?_⟩,
    ⟨copy_may 3 [] [] none, ?_, rfl, rfl, rfl⟩, ⟨copy_may 3 [] [] (some ⟨0x10000, 0⟩), ?_⟩, ?_, ?_⟩ <;> decide +kernel

/-- A raw copy of one row of 64 bytes into the scratchpad: after its first sector, and after both. -/
def copyD : Copy := { copy0 with block := BitVec.ofNat 512 (0x10000 + 2 ^ 104 + 16 * 2 ^ 256) }
def sD : State := (copyD.boxLines.map (128 * ·)).foldl (fun s va => keepTr s 0 0 va) (sK copyD)
def ranD (prog : List Nat) := runSlices 7 (dieOf copyD.core) 0 bootDesc bootTeam prog sD copyD (List.range copyD.n)

theorem witness_copy_slices :
    (copyD.stampa = 0 ∧ copyD.toBox = false ∧ copyD.kind = 1) ∧ copyD.status = 0 ∧ copyD.allWritten = false ∧ copyD.want = [] ∧
    (ranD [1]).2.2 = .on ∧ (ranD [1]).2.1.allWritten = false ∧ (ranD [2]).2.2 = .on ∧ (ranD [2]).2.1.allWritten = true ∧
    (ranD [2]).2.1.held = [] ∧ (ranD [2]).2.1.stamp = none ∧ (ranD [2]).2.1.rel = false ∧ (ranD [2]).2.1.status = 0 := by
  decide +kernel

/-- An attention command to start, whose checks fail and pass, one in its key blocks, and one that is to end. -/
def attn0 (b : BitVec 512) : Attn := { cT with block := b, core := 0, stampOk := true }
def sA (c : Attn) : State := { sT with attns := [(9, c)] }
def run (c : Attn) : Attn := { c with state := .running, started := true }

theorem witness_attention_starts :
    AttnMay (sA (attn0 0)) 9 false (attn0 0) { bootLaunch with desc := dT } bootTeam :=
  ⟨rfl, .inr ⟨rfl, rfl⟩, rfl, rfl, rfl, rfl, (rfl : (on gT).team (teamKey 0 0) = some bootTeam), rfl⟩

theorem witness_attention_ends :
    AttnMay (sA (run { attn0 0 with status := 1 })) 9 true (run { attn0 0 with status := 1 }) { bootLaunch with desc := dT } bootTeam ∧
    (run { attn0 0 with status := 1 }).status ≠ 0 ∧ (run (attn0 0)).mapPa = none ∧ (run (attn0 0)).stamp = none ∧
    (run (attn0 0)).acc = none ∧ (run (attn0 0)).nkeys ≤ 16 * (run (attn0 0)).next ∧
    (engWrite (sA (run (attn0 0))) (.cmd 9) 0x10000 (leBytes 4 1) 0).2 = true :=
  ⟨⟨rfl, .inl rfl, rfl, rfl, rfl, rfl, (rfl : (on gT).team (teamKey 0 0) = some bootTeam), rfl⟩, by decide, rfl, rfl, rfl,
    by decide +kernel, by decide +kernel⟩

/-- An F16 command of 16 keys whose queries fill the scratchpad, and one whose queries pass its end; its record is at
0x10000, and all its generations are stale. -/
def blockA (q : Nat) : BitVec 512 := BitVec.ofNat 512 (0x10000 + q * 2 ^ 64 + 16 * 2 ^ 96 + 9 * 2 ^ 336 + 8 * 2 ^ 328)
def dA : KDesc := { bootDesc with width := 32, accq := 64, spq := 2048 }
def sB2 (c : Attn) : State := { sA c with launches := [(0, { bootLaunch with desc := dA })], mem := [(0x1001C, 1)] }
def recA : BitVec 256 := BitVec.ofNat 256 (2 ^ 224)
def accA : AttnAcc := loadAcc (sB2 (attn0 (blockA 0))) 9 (attn0 (blockA 0)) bootTeam 32
def cRun : Attn := { run (attn0 (blockA 0)) with map := some recA, acc := some accA }

theorem witness_attention_blocks :
    (attn0 0).bad 16 = true ∧ (attn0 (blockA 0)).bad 16 = false ∧ (attn0 (blockA 0)).q + 128 * 16 ≤ dA.spq ∧
    (attn0 (blockA 128)).bad 16 = false ∧ dA.spq < (attn0 (blockA 128)).q + 128 * 16 ∧ (attn0 (blockA 0)).nkeys ≠ 0 ∧
    engPlace (sB2 (attn0 (blockA 0))) 0 0 0x10000 = .ok 0x10000 0 ∧ (attn0 (blockA 0)).reload = false ∧
    (match engLoad (sB2 (attn0 (blockA 0))) 0 0 0x10000 64 with
      | .ok bs none => (ofBytes 512 bs : BitVec 512).extractLsb' 0 256 == recA && !recordBad (ofBytes 512 bs)
      | _ => false) = true ∧
    AttnMay (sB2 cRun) 9 true cRun { bootLaunch with desc := dA } bootTeam ∧ cRun.status = 0 ∧ 16 * cRun.next < cRun.nkeys ∧
    (match ((List.range 16).foldl (readKey 0 0 16 recA) (sB2 cRun, cRun, BRead.ok [] 0 0 false)).2.2 with
      | .ok keys _ _ later => keys.length == 1 && !later
      | _ => false) = true := by
  refine ⟨?_, ?_, ?_, ?_, ?_, ?_, ?_, ?_, ?_,
    ⟨rfl, .inl rfl, rfl, rfl, rfl, rfl, (rfl : (on gT).team (teamKey 0 0) = some bootTeam), rfl⟩, rfl, ?_, ?_⟩ <;>
  decide +kernel
/-- A node layout of 64 bytes and nothing else, for slot 0; with a reserved bit; with a window that passes its end. -/
def sLay : State := { on gC with mem := [(0x10000, 64)] }

theorem witness_TvlayoutSetsSlot :
    Issues sLay gC ∧ hasFeat sLay 0 1 = true ∧ BlockRead sLay gC 0x10000 (after sLay gC) 64 ∧
    (after sLay gC).grp 0 = some gC ∧
    Lay.reservedBad 64 = false ∧ Lay.valueBad 64 = false ∧ Lay.slot 64 = 0 ∧ Lay.beyond 64 = false ∧
    Lay.valueBad 0 = true ∧ Lay.reservedBad (64 + 2 ^ 511) = true ∧ Lay.beyond (64 + 2 ^ 151) = true ∧
    Lay.beyond (64 + 64 * 2 ^ 144) = false ∧ Lay.slot (64 + 15 * 2 ^ 40) = 15 := by
  refine ⟨on_issues _, ?_, fun _ => rfl, rfl, ?_⟩ <;> decide +kernel

/-- Traversals between visits, whose ENTER and PRUNE are set. -/
def table2 : BitVec 512 := 0x10040 + 0x10080 * 2 ^ 128
def travT (es : List TEntry) : Trav := { trav0 with table := table2, held := es }
def sTrav (t : Trav) : State := { sV with travs := [(3, t)] }
def ent0 : TEntry := TEntry.make false 0 0x10000 0 0 0 0
def entered : TEntry := TEntry.make true 0 0x10000 0 0 0 0
def oldEnt : TEntry := TEntry.make false 0 0x10000 7 0 0 0
/-- The first of them with the layout of sLay. -/
def sTravLay : State := { sTrav (travT [ent0]) with
  launches := sV.launches.map fun l => (l.1, { l.2 with layouts := [(0, 64)] }) }

theorem witness_TraversalsStep :
    (∀ es, TravMay (sTrav (travT es)) 3 (travT es)) ∧
    (travT []).visit = none ∧ (travT []).begun = false ∧ (travT []).stampOk = true ∧ (travT []).cuts = [] ∧
    (travT []).stamp = none ∧ (travT []).spilled = 0 ∧ entered.ent = true ∧ oldEnt.ent = false ∧ (travT []).prune ≠ 0 ∧
    oldEnt.pgen ≠ (travT []).tg ∧ ent0.pgen = (travT []).tg ∧ ((sTrav (travT [])).launch 0).isSome = true ∧
    (((sTrav (travT [])).launch 0).map fun l => Store.find l.layouts ent0.layout) = some none ∧
    TravMay sTravLay 3 (travT [ent0]) ∧ ((sTravLay.launch 0).map fun l => Store.find l.layouts ent0.layout) = some (some 64) ∧
    (match engLoad (keepRange sTravLay 0 0 ent0.node (Lay.nsize 64)) 0 0 ent0.node (Lay.nsize 64) with
      | .ok bs none => bs.length == 64
      | _ => false) = true := by
  refine ⟨fun _ => ⟨rfl, rfl, rfl⟩, rfl, rfl, rfl, rfl, rfl, rfl, ?_, ?_, ?_, ?_, ?_, ?_, ?_, ⟨rfl, rfl, rfl⟩, ?_, ?_⟩ <;> decide +kernel

/-- A PRUNE that has returned; cuts that come while a visit runs and that apply. -/
theorem witness_visits_and_cuts :
    (let t := { travT [oldEnt] with visit := some ⟨2, oldEnt, none, []⟩, ret := some (1, 5) }
     TravMay (sTrav t) 3 t ∧ t.visit = some ⟨2, oldEnt, none, []⟩ ∧ t.held = oldEnt :: []) ∧
    (let t := { travT [oldEnt] with visit := some ⟨2, oldEnt, none, []⟩, cuts := [⟨0, 0, [], false⟩] }
     TravMay (sTrav t) 3 t ∧ t.visit ≠ none ∧ t.cuts = ⟨0, 0, [], false⟩ :: []) ∧
    (let t := { travT [oldEnt] with cuts := [⟨0, 0, [], false⟩] }
     TravMay (sTrav t) 3 t ∧ t.visit = none ∧ t.held.length ≤ 64) :=
  ⟨⟨⟨rfl, rfl, rfl⟩, rfl, rfl⟩, ⟨⟨rfl, rfl, rfl⟩, by decide, rfl⟩, ⟨⟨rfl, rfl, rfl⟩, rfl, by decide⟩⟩

/-- A package in mission mode, whose mailbox is free and whose address space 0 has its root at 0x20000. -/
def up : State := { base with plat := { State.reset.plat with phase := 3 }, aspaces := [(0, 0x20000)] }
/-- A graph of node n at 0x10000, whose line can be written. -/
def graph (st : GraphState) (todo : List (Nat × Nat)) (watched : List Nat) : Graph :=
  ⟨0, 0, 0x10000, 0, st, 0, 0x10000, watched, todo, [], []⟩
def withGraph (gr : Graph) : State := { up with graphs := [(5, gr)], launches := [], teams := [], groups := [] }
/-- Its one launch has ended. -/
def ended : Launch := { bootLaunch with graph := 5, node := 0x10000, done := 1 }
def withLaunch (gr : Graph) : State := { withGraph gr with launches := [(0, ended)] }

theorem node_takes {s v : State} {w : Writer} {gr : Graph} {n : Nat} {ws : List (Nat × List Byte)} {p : Place}
    (h : nodePlace s gr n = .at v p) (hw : (engWrites v w (ws.map fun x => (⟨p.pa + x.1, p.repl⟩, x.2))).2 = true) :
    ∃ u, NodeTakes s w gr n ws u := ⟨_, v, p, h, Prod.ext rfl hw⟩

theorem witness_GraphsRun :
    MailboxFree up ∧ Store.find up.aspaces 0 ≠ none ∧ (up.graphs.filter fun g => g.2.die == 0).length < 1024 ∧
    Store.find up.aspaces 1 = none ∧
    (let gr := graph .running [] []
     let s := withGraph gr
     MailboxFree s ∧ (s.graphs.filter fun g => g.2.die == 0 && g.2.root == 0x10000) = [(5, gr)] ∧
     (∀ x ∈ s.launches, x.2.graph ≠ 5)) ∧
    (let gr := graph .running [] [0x10080]
     (withGraph gr).graph 5 = some gr ∧ 0x10080 ∈ gr.watched) ∧
    (let gr := graph .ending [] []
     (withGraph gr).graph 5 = some gr ∧ ∃ u, NodeTakes (withGraph gr) (.graph 5) gr gr.endNode [codeWord 3] u) ∧
    (let gr := graph .running [] []
     let s := withLaunch gr
     s.launch 0 = some ended ∧ launchOver s 0 ended = true ∧ live s ended.rel = [] ∧ graphOf s ended = gr ∧
     ended.desc.stats = 0 ∧ ∃ u, NodeTakes s (.launch 0) gr ended.node [codeWord 3] u) ∧
    (let s := { withLaunch (graph .running [] []) with graphs := [] }
     s.launch 0 = some ended ∧ launchOver s 0 ended = true ∧ (graphOf s ended).state = .halted ∧
     ∃ u, NodeTakes s (.launch 0) (graphOf s ended) ended.node [codeWord 3] u) := by
  refine ⟨⟨rfl, rfl, rfl⟩, by decide, by decide, rfl, ⟨⟨rfl, rfl, rfl⟩, rfl, nofun⟩, ⟨rfl, by decide⟩, ⟨rfl, node_takes rfl (by decide +kernel)⟩,
    ⟨rfl, by decide, rfl, rfl, rfl, node_takes rfl (by decide +kernel)⟩,
    ⟨rfl, by decide, rfl, node_takes rfl (by decide +kernel)⟩⟩

/-- Nodes that the walker activates: END, JOIN of two arrivals, TEST and WAIT nodes, and one with a bad field. -/
def nodeAt (bytes : List (Nat × Byte)) : State := { withGraph (graph .running [(0, 0x10000)] []) with mem := bytes }
def nodeBits (s : State) : NodeBits := ofBytes 1024 (memBytes s 0x10000 128)

theorem node_read (s u : State) (gr : Graph) (bs : List Byte) (hu : keepRange s gr.die gr.asp 0x10000 128 = u)
    (h : engLoad u gr.die gr.asp 0x10000 128 = .ok bs none) :
    ∀ k, walkerRead s 5 gr 0x10000 0x10000 128 k = k u bs := fun k => by simp only [walkerRead, hu, h]

theorem witness_nodes :
    (let at_ := fun m => let x := nodeBits (nodeAt m)
      (NodeBits.firstBad x == none, x.kind, x.need, x.have_,
        match engLoad (keepRange (nodeAt m) 0 0 0x10000 128) 0 0 0x10000 128 with
        | .ok bs none => bs == memBytes (nodeAt m) 0x10000 128
        | _ => false)
     at_ [(0x10000, 5)] = (true, 5, 0, 0, true) ∧
     at_ [(0x10000, 4), (0x10008, 0x80), (0x10018, 2)] = (true, 4, 2, 0, true) ∧
     at_ [(0x10000, 2), (0x10008, 0x80), (0x10010, 0x80), (0x10019, 1)] = (true, 2, 256, 0, true) ∧
     (at_ [(0x10000, 9)]).1 = false) := by decide +kernel
/-- A package in mission mode with nothing resident: a request waits at its home. -/
def idle : State := { up with groups := [], launches := [], teams := [] }
def home (r : Req) : State := { idle with reqs := [(7, r)] }
def storeReq : Req := ⟨0x200, none, none, .store 0x10000 (List.replicate 32 0x5A), [], [], [], none, 0, []⟩
def atomReq : Req := { storeReq with kind := .atomic .cas false 0x10000 4 0 9 1 0 }
/-- One elytron code at line 0x200. -/
def at_ (e : BitVec 16) (s : State) : State := setEly s 0x200 e

theorem witness_StoresArePerformed :
    (∀ e ∈ [(0 : BitVec 16), mkEly 0 2 1], WriteMay (at_ 0 (home storeReq)) 7 storeReq) ∧ storeReq.kind = .store 0x10000 (List.replicate 32 0x5A) ∧
    0x10000 / 128 = storeReq.line ∧ inHbm (128 * 0x200) = true ∧ lineState (home storeReq) 0x200 = .uncached ∧
    lineState (at_ (mkEly 0 0 1) (home storeReq)) 0x200 = .shared ∧ WriteMay (at_ (mkEly 0 0 1) (home storeReq)) 7 storeReq ∧
    Memory.wf (at_ (mkEly 0 0 1) (home storeReq)).mem ∧ Store.wf 0 (at_ (mkEly 0 0 1) (home storeReq)).ely = true ∧
    Store.wf 0 (at_ (mkEly 0 0 1) (home storeReq)).chk = true ∧ 0x10000 ≤ 32 * 0x800 ∧ 32 * 0x800 + 32 ≤ 0x10000 + 32 := by
  refine ⟨?_, rfl, rfl, ?_, ?_, ?_, ⟨rfl, rfl, ?_, rfl, ?_, rfl, ?_, ?_⟩, ?_, ?_, ?_, ?_, ?_⟩
  · intro e he
    simp only [List.mem_cons, List.not_mem_nil, or_false] at he
    rcases he with rfl | rfl <;> exact ⟨rfl, rfl, by decide +kernel, rfl, by decide +kernel, rfl, by decide +kernel, by decide +kernel⟩
  all_goals
  decide +kernel

/-- A leased line, an OWNED line in its slice, a line of host memory there, a commit to two dies, and a page table. -/
def leased : State := { idle with expiry := [(0x200, 5)] }
def cached : State := { at_ (mkEly 0 2 3) idle with slices := [(0x200, ⟨7, true, true⟩), (2 ^ 44, ⟨7, true, true⟩)] }
def commitReq (locked : List Nat) : Req := { storeReq with repl := 3, locked := locked }
def tables : State :=
  { idle with
    mem := [(0x20000, 1), (0x20001, 0x10), (0x20002, 2), (0x21000, 1), (0x21001, 0x20), (0x21002, 2), (0x22000, 7)]
    tlb := [] }
def badSector : State := { home atomReq with chk := [(0x800, 1)] }

theorem witness_HomesAct :
    WriteMay (home atomReq) 7 atomReq ∧ homeRead (home atomReq) 0x10000 4 = some ([0, 0, 0, 0], false) ∧
    WriteMay badSector 7 atomReq ∧ homeRead badSector 0x10000 4 = some ([0, 0, 0, 0], true) ∧
    (let p := { res 1 [] with kind := .atomic, waiting := [7] }
     p ∈ (outL l0 [p]).ln.out) ∧
    (let u := resolve cached 0x200
     (homeLine u 0x200).isSome = true ∧ hasL1 u 0 0x200 = false) ∧
    homeLine (resolve idle (2 ^ 44)) (2 ^ 44) = none ∧ engineHeld idle (2 ^ 44) = false ∧
    leaseOver leased 0x200 = false ∧ leaseOver cached 0x200 = true ∧ engineHeld cached 0x200 = false ∧
    Store.find cached.slices 0x200 = some ⟨7, true, true⟩ ∧ inHbm (128 * 0x200) = true ∧ lineState cached 0x200 = .owned ∧
    Store.find cached.slices (2 ^ 44) = some ⟨7, true, true⟩ ∧ leaseOver cached (2 ^ 44) = true ∧
    engineHeld cached (2 ^ 44) = false ∧ paKind cached (128 * 2 ^ 44) = .host ∧
    (let r := commitReq [0]
     let s := home r
     let rl := 0x200 + 0x40000000
     Store.find s.reqs 7 = some r ∧ reqTurn s 7 r = true ∧
     (List.range 8).find? (fun d => r.repl.getLsbD d && !r.locked.contains d) = some 1 ∧ engineHeld s rl = false ∧
     homeWritable s rl = true ∧ leaseOver s rl = true) ∧
    (let r := commitReq [0, 1]
     r.repl ≠ 0 ∧ (∀ d, d < 8 → r.repl.getLsbD d = true → r.locked.contains d = true) ∧
     ∀ l ∈ replicaLines r.line r.repl, inWindow (home r) l = false) ∧
    Store.find tables.aspaces 0 = some 0x20000 ∧ walk tables 0 0 0x10000 4 0x20000 = .ok 0x10000 ⟨0, 0, 1, 1, true, false, 0⟩ := by
  refine ⟨⟨rfl, rfl, ?_, rfl, ?_, rfl, ?_, ?_⟩, ?_, ⟨rfl, rfl, ?_, rfl, ?_, rfl, ?_, ?_⟩, ?_⟩ <;> decide +kernel
theorem resolve_home (r : Req) : resolve (home r) 0x40000200 = home r := rfl

/-- An owner that has failed, and one that has rejoined, in each state of a line; both forms of the log. -/
def lost (st : BitVec 3) (size : Nat) : State :=
  { at_ (mkEly 0 2 st) idle with
    agents := vset idle.agents 1 ⟨0, true, 0⟩, loss := ⟨0x30000, size, 0, 0⟩
    slices := [(0x200, ⟨7, true, true⟩)] }
theorem witness_LostOwnersGiveWay :
    (∀ st ∈ [(2 : BitVec 3), 3, 4], ∀ size ∈ [0, 64], onFailedChannel (lost st size) 0x200 = false ∧
      inHostBias (lost st size) 0x200 = false ∧ (agent (lost st size) (elyOwner (elyRaw (lost st size) 0x200))).down = true ∧
      Store.wf 0 (lost st size).ely = true ∧ (lost st size).loss.size = size) ∧
    lineState (lost 2 0) 0x200 = .exclusive ∧ lineState (lost 3 0) 0x200 = .owned ∧ lineState (lost 4 0) 0x200 = .modified ∧
    (let s := at_ (mkEly 1 2 4) idle
     (agent s (elyOwner (elyRaw s 0x200))).inc ≠ elyInc (elyRaw s 0x200)) := by decide +kernel

/-- A swarm of two packages, whose link 0 to package 1 is up; line 0x200 of this package, and one of the other's. -/
def swarm2 : State :=
  { idle with
    swarm := some ⟨0, 2, some 1 :: List.replicate 11 none⟩
    links := vset idle.links 0 ⟨3, 0, 0⟩ }
def theirs : Nat := (0x1010000000000 + 0x10000) / 128

theorem agent_may (a : Nat) (e : BitVec 16) (he : e ∈ [(0 : BitVec 16), mkEly 0 2 1, mkEly 0 6 1, mkEly 0 2 2, mkEly 0 4 4]) :
    AgentMay (at_ e swarm2) a 0x200 := by
  have hr : resolve (at_ e swarm2) 0x200 = at_ e swarm2 := by
    simp only [List.mem_cons, List.not_mem_nil, or_false] at he
    rcases he with rfl | rfl | rfl | rfl | rfl <;> rfl
  have h2 : replicatedLine (at_ e swarm2) 0x200 = false := by
    simp only [List.mem_cons, List.not_mem_nil, or_false] at he
    rcases he with rfl | rfl | rfl | rfl | rfl <;> decide +kernel
  exact ⟨rfl, rfl, rfl, rfl, rfl, rfl, rfl, hr, rfl, h2, rfl⟩

theorem witness_PeersAreServed :
    linkUp swarm2 1 = true ∧ inHbm (128 * 0x200) = true ∧ AgentMay swarm2 1 0x200 ∧ (∀ k, k < 4 → chkBad swarm2 (4 * 0x200 + k) = false) ∧
    leaseOver swarm2 0x200 = true ∧
    ownerIs (at_ (mkEly 0 2 2) swarm2) 0x200 1 = true ∧ lineState (at_ (mkEly 0 2 2) swarm2) 0x200 = .exclusive ∧
    ownerIs (at_ (mkEly 0 4 4) swarm2) 0x200 1 = false ∧ lineState (at_ (mkEly 0 6 1) swarm2) 0x200 = .shared ∧
    (elyAgents (elyRaw (at_ (mkEly 0 6 1) swarm2) 0x200)).getLsbD 1 = true ∧
    agentFrozen { swarm2 with frozen := [⟨6, 0, 0, 0, 1, 0, 1, 0⟩] } 1 = true ∧
    denied { swarm2 with regions := [(0, ⟨0x10000, 128, 0⟩)] } 1 (128 * 0x200) = true := by
  refine ⟨?_, ?_, agent_may 1 0 (by simp), ?_⟩ <;> decide +kernel

theorem witness_PeersAnswer :
    (let x : Snoop := ⟨theirs, 1, true, false⟩
     let s := { swarm2 with snoops := [x] }
     linkUp s 1 = true ∧ snoopOf s theirs 1 = some x ∧ paKind s (128 * theirs) = .peer 1) ∧
    (let x : Snoop := ⟨0x200, 1, true, false⟩
     let s := { at_ (mkEly 0 2 4) swarm2 with snoops := [x] }
     snoopOf s 0x200 1 = some x ∧ inHbm (128 * 0x200) = true ∧ lineState s 0x200 = .modified ∧
       elyOwner (elyRaw s 0x200) = 1) ∧
    (let s := at_ (mkEly 0 6 1) swarm2
     lineState s 0x200 = .shared ∧ (elyAgents (elyRaw s 0x200)).getLsbD 1 = true) ∧
    paKind swarm2 (128 * theirs) = .peer 1 ∧ leaseOver swarm2 theirs = true ∧ engineHeld swarm2 theirs = false ∧
    Store.find swarm2.slices theirs = none ∧
    Store.find ({ swarm2 with slices := [(theirs, ⟨7, true, true⟩)] } : State).slices theirs = some ⟨7, true, true⟩ := by decide +kernel

theorem witness_HostIsServed :
    swarm2.plat.phase = 3 ∧ AgentMay swarm2 0 0x200 ∧ AgentMay (at_ (mkEly 0 2 2) swarm2) 0 0x200 ∧
    ownerIs (at_ (mkEly 0 1 2) swarm2) 0x200 0 = true ∧
    Store.find swarm2.slices 0x200 = none ∧ lineState swarm2 0x200 = .uncached ∧ leaseOver swarm2 0x200 = true ∧
    Memory.wf swarm2.mem ∧ inHostBias swarm2 0x200 = false ∧
    snoopOf { swarm2 with snoops := [⟨0x200, 0, true, false⟩] } 0x200 0 = some ⟨0x200, 0, true, false⟩ ∧
    hostLine swarm2 (2 ^ 44) = true ∧ leaseOver swarm2 (2 ^ 44) = true ∧ engineHeld swarm2 (2 ^ 44) = false := by
  refine ⟨?_, agent_may 0 0 (by simp), agent_may 0 _ (by simp), ?_⟩ <;> decide +kernel
/-- The mailbox in each phase, and while a background command runs; the ends of what the settings admit. -/
def inPhase (n : Nat) : State := { idle with plat := { State.reset.plat with phase := n } }
def busy (b : Background) : State := { idle with mbox := ⟨.background, [], some b, false, none, none, []⟩ }

theorem witness_MailboxSettings :
    (∀ n ∈ [0, 1, 2, 3, 4], (inPhase n).plat.phase = n) ∧ (busy (.bias true [])).mbox.bg ≠ none ∧ (idle.plat.phase = 3 ∧ idle.mbox.bg = none) ∧
    mailboxCommand (.leaseSet 0) = true ∧
    (let legal := fun (lam : Nat) => decide (1 ≤ lam ∧ lam ≤ 4095)
     legal 0 = false ∧ legal 1 = true ∧ legal 4095 = true ∧ legal 4096 = false) ∧
    inHbm 0x30000 = true ∧ inHbm (0x30000 + 64 - 1) = true ∧ dieOfPa 0x30000 = dieOfPa (0x30000 + 64 - 1) ∧
    inHbm 0xFFFFFFFFFF000 = false ∧ (∀ l ∈ idle.launches, l.2.asp ≠ 0) ∧ (∃ l ∈ base.launches, l.2.asp = 0) ∧
    lineRange idle 0x800000 (2 ^ 23 * 2) = true ∧ (∀ t ∈ idle.teams, t.2.slot = none) ∧ Store.wf Core.init idle.cores = true ∧
    swarmOk 0 1 (List.replicate 12 none) = true ∧ swarmOk 0 9 (List.replicate 12 none) = false ∧
    swarmOk 0 2 (some 1 :: List.replicate 11 none) = true ∧ swarmOk 0 2 (List.replicate 12 none) = false ∧
    (vget idle.links 0).state = 5 ∧ Store.wf 0 idle.counts = true := by decide

theorem witness_SystemIsRead :
    (∀ n ∈ [1, 2, 3], 1 ≤ (inPhase n).plat.phase ∧ (inPhase n).plat.phase ≤ 3 ∧ (inPhase n).mbox.bg = none) ∧
    (telemetryRecord idle 0).isSome = true ∧ (telemetryRecord idle 24).isSome = true ∧ lineRange idle 0x30000 4096 = true ∧
    inHbm 0x30000 = true ∧ 16 < (summary idle).length ∧ (summary idle).length ≤ 4096 ∧
    (writeParts idle .mailbox 0x30000 [(0, summary idle)]).2 = true ∧
    (∀ i, i < 4 → (0 : BitVec 384).extractLsb' (64 * i + 57) 5 = 0) ∧ (0 : BitVec 384).extractLsb' 322 62 = 0 ∧
    0x10000 / 128 = (0x10000 + 128 - 1) / 128 ∧ inHbm 0x10000 = true ∧ homeLine idle (0x10000 / 128) = some .mem ∧
    lineReady idle 0 (0x10000 / 128) = true := by decide +kernel

theorem witness_PagesFlip :
    (pagesOk 0x10000 16384 = true ∧ pagesOk 0x10000 16385 = false ∧ pagesOk 0x10000 0 = false ∧ pagesOk 0x8000 1 = false) ∧
    replicatedLine idle (512 * 1) = false ∧
    replicatedLine { idle with tlb := [⟨0, 0, 1, 1, true, false, 3⟩] } (512 * 1) = true ∧
    (busy (.bias true [1])).mbox.bg = some (.bias true [1]) ∧ (busy (.bias false [])).mbox.bg = some (.bias false []) ∧
    Store.wf 0 (busy (.bias true [1])).ely = true ∧ Store.sorted (busy (.bias true [1])).slices = true := by decide +kernel

theorem flip_lines (line : Nat) : let s := busy (.bias true [1])
    resolve s line = s ∧ lineBusy s line = false ∧ peersOf s line = [] ∧ leaseOver s line = true := by
  have h : lineState (busy (.bias true [1])) line = .uncached := rfl
  have h1 : onFailedChannel (busy (.bias true [1])) line = false := rfl
  have h2 : mediaRead (busy (.bias true [1])) line = busy (.bias true [1]) := by
    have : pickMask (busy (.bias true [1])).picks (pkMedia line) = 0 := rfl
    simp [mediaRead, mediaHit, h, this]
  have h3 : inWindow (busy (.bias true [1])) line = false := rfl
  exact ⟨by simp [resolve, channelGone, h, h1, h2, h3], rfl, rfl, rfl⟩

/-- Freezes of each kind. -/
def freeze (k : Nat) : Frozen := ⟨k, 0, 0, 0, if k = 6 then 1 else 0, 0, 3, if k = 1 then teamKey 0 0 else 0⟩
def frost (k : Nat) : State :=
  { idle with
    groups := [(0, { g0 with halted := true })], teams := [(teamKey 0 0, bootTeam)]
    launches := [(0, bootLaunch)], frozen := [freeze k]
    copies := [(7, { copy0 with state := .frozen })], attns := [(9, { cT with core := 0, state := .frozen })]
    travs := [(3, trav0)], swarm := some ⟨0, 2, some 1 :: List.replicate 11 none⟩
    links := vset idle.links 0 ⟨4, 0, 0⟩ }

theorem witness_FreezesAreReleased :
    (∀ k ∈ [1, 2, 3, 4, 5, 6], (frost k).frozen[0]? = some (freeze k) ∧ MailboxFree (frost k)) ∧
    ((frost 1).grp 0).isSome = true ∧ (freeze 1).names (0, g0) = true ∧
    (∀ l, (frost 1).launch 0 = some l → l.pre = .none) ∧ (∀ r, (frost 1).team (outKey 0 g0) = some r → r.state = .resident) ∧
    Store.find (frost 2).copies 7 = some { copy0 with state := .frozen } ∧ copy0.core = 0 ∧
    Store.find (frost 3).attns 9 = some { cT with core := 0, state := .frozen } ∧
    (frost 2).team (teamKey 0 0) = some bootTeam ∧ Store.find (frost 4).travs 3 = some trav0 ∧ trav0.ending = none ∧
    (freeze 6).viol = 3 ∧ (frost 6).swarm.isSome = true ∧ (vget (frost 6).links 0).state = 4 ∧
    (∀ r ∈ (frost 1).teams, r.2.lid ≠ (freeze 1).lid ∨ r.2.state ≠ .out) := by
  refine ⟨?_, rfl, rfl, ?_, ?_, rfl, rfl, rfl, rfl, rfl, rfl, rfl, rfl, rfl, ?_⟩
  · intro k _; exact ⟨rfl, rfl, rfl, rfl⟩
  · rintro l h; cases h; rfl
  · rintro r h; cases h; rfl
  · simp [frost, bootTeam]

theorem witness_FirmwareIsStaged :
    (List.replicate 4032 (0 : Byte)).length ≤ 4032 ∧ 4032 < (List.replicate 4033 (0 : Byte)).length ∧
    (let im := (List.range 256).map fun i => Store.getD (0 : Byte) idle.fw.staged i
     leNat ((im.drop 0).take 4) ≠ 0x51584657) := by decide +kernel
/-- A launch to pre-empt; teams halted by a fault and by a pre-emption; a launch all of whose teams are out. -/
def calm : State := { up with groups := [(0, g0)], launches := [(0, bootLaunch)], teams := [(teamKey 0 0, bootTeam)] }
def halting (slot : Option Nat) : State :=
  { calm with
    groups := [(0, { g0 with halted := true, q := 1 })], poolBase := 0x800000, poolSize := 2
    teams := [(teamKey 0 0, { bootTeam with state := .halting, slot := slot })] }
def gone (lids : List Nat) : State :=
  { up with
    groups := [], launches := [(0, { bootLaunch with pre := .saving false })]
    teams := [(teamKey 0 0, { bootTeam with state := .out, slot := some 0x800000 })]
    mbox := ⟨.background, [], some (.preempt lids 0x800000 0x1000000), false, none, none, []⟩ }

theorem witness_TeamsAreSaved :
    (calm.plat.phase = 3 ∧ calm.mbox.bg = none) ∧ preLaunches calm (.launch 0) = [0] ∧ preLaunches calm (.launch 1) = [] ∧
    preLaunches calm (.dies 1) = [0] ∧ (paKind calm 0x800000).line = true ∧ 0x800000 % 2 ^ 23 = 0 ∧
    Store.sorted calm.groups = true ∧
    ((halting none).team (teamKey 0 0)).map (fun t => (t.state, t.slot)) = some (.halting, none) ∧
    ((halting none).launch 0).map (·.pre) = some .none ∧ freePool (halting none) = some 0 ∧
    freePool { halting none with poolUsed := [0, 1] } = none ∧
    (∀ c ∈ (halting (some 0x800000)).copies, prefetching (teamKey 0 0) c.2 = false) ∧
    saveReady (halting (some 0x800000)) (teamKey 0 0) (groupsOf (halting (some 0x800000)) (teamKey 0 0)) = true ∧
    saveSlot (halting (some 0x800000)) { bootTeam with state := .halting, slot := some 0x800000 } bootLaunch = some (0x800000, false) ∧
    (gone [0]).mbox.bg = some (.preempt [0] 0x800000 0x1000000) ∧ (gone []).mbox.bg = some (.preempt [] 0x800000 0x1000000) ∧
    (∀ g ∈ (gone [0]).groups, g.2.lid ≠ 0) ∧ (∀ r ∈ (gone [0]).teams, r.2.lid = 0 → r.2.state = .out) ∧
    (∀ v ∈ (gone [0]).travs, v.2.lid = 0 → travBusy (gone [0]) v.2 = false) ∧ (holdTops (gone [0]) 0).2 = true ∧
    ((unbin (holdTops (gone [0]) 0).1 0).launch 0).isSome = true := by
  decide +kernel

/-- A dirty line of a peer's memory leaves with a launch that migrates, and holds its save while it is leased. -/
theorem witness_migration :
    (let l := { bootLaunch with pre := .saving true }
     let s := { swarm2 with slices := [(theirs, ⟨7, true, true⟩)] }
     dirtyLines s = [theirs] ∧ (writtenBack s l).isSome = true ∧ Store.sorted s.slices = true ∧
       engineHeld s theirs = false ∧ paKind s (128 * theirs) = .peer 1 ∧
       leaseOver { s with expiry := [(theirs, 5)] } theirs = false ∧
       (writtenBack { s with expiry := [(theirs, 5)] } l).isNone = true) := by decide +kernel

/-- The chrysalis of a team and the record of a launch go into memory. -/
theorem witness_parts_are_written :
    (writeParts (stopCmds (halting (some 0x800000)) (teamKey 0 0)) (.team (teamKey 0 0)) 0x800000 (chrysalis (stopCmds (halting (some 0x800000)) (teamKey 0 0))
      (teamKey 0 0) { bootTeam with state := .halting, slot := some 0x800000 } bootLaunch
      ((groupsOf (halting (some 0x800000)) (teamKey 0 0)).map fun e => (e.1, e.2.publish)))).2 = true ∧
    (writeParts (gone [0]) .mailbox 0 ((0x1000000, launchBytes (gone [0]) 0 bootLaunch 0x800000 0x1000000) :: whyMarks (gone [0]) 0)).2 = true := by
  constructor <;> decide +kernel

/-- A team out because of a fault, a traversal that a fault suspends, a saved launch. -/
def faulted : State :=
  { up with
    groups := [], launches := [(0, bootLaunch)], travs := [(3, { trav0 with fault := some (1, 0x10000) }), (4, trav0)]
    teams := [(teamKey 0 0, { bootTeam with state := .out, slot := some 0x800000, why := 1, fkind := 1 })] }
def saved (ts : List (Nat × Team)) : State := { faulted with launches := [(0, { bootLaunch with pre := .saved })], teams := ts }

theorem witness_FaultsAreServiced :
    (faulted.plat.phase = 3 ∧ faulted.mbox.bg = none) ∧
    (let keys := fun (s : State) (tid : Nat) => (s.teams.filter fun t => t.2.lid == 0 && ((t.2.why == 1 || t.2.why == 3) && !t.2.serviced) &&
      (if tid = 0xFFFFFFFF then t.2.tid.isNone else t.2.tid == some tid)).map (·.1)
     keys faulted 0 = [teamKey 0 0] ∧ keys faulted 1 = []) ∧
    ((Store.find faulted.travs 3).map fun t => (t.lid, t.fault)) = some (0, some (1, 0x10000)) ∧
    ((Store.find faulted.travs 4).map fun t => (t.lid, t.fault, t.ending)) = some (0, none, none) ∧
    (Store.find faulted.travs 5).isNone = true ∧ (faulted.launch 0).map (·.pre) = some .none ∧
    ((saved []).launch 0).map (fun l => (l.pre, l.threads.length)) = some (.saved, 0) ∧
    (∀ t ∈ (saved []).teams, t.2.lid ≠ 0) := by decide +kernel

/-- Ports and links in each of their states. -/
def linked (n t : Nat) : State := { swarm2 with links := vset idle.links 0 ⟨n, 0, t⟩, gtc := 1000000 }
theorem witness_FirmwareAndIdentity :
    PortOpen (inPhase 1) .host ∧ PortOpen idle .host ∧ PortOpen swarm2 (.link 0) ∧ (0 < 12) ∧ (vget (linked 2 0).links 0).state = 2 ∧
    (linked 2 0).swarm = some ⟨0, 2, some 1 :: List.replicate 11 none⟩ :=
  ⟨⟨by decide, by decide⟩, ⟨by decide, by decide⟩, ⟨by decide, .inr rfl⟩, by decide, rfl, rfl⟩

theorem witness_LinksAndAgents :
    ((vget swarm2.links 0).state ≠ 0 ∧ (vget swarm2.links 0).state ≠ 5) ∧ (vget (linked 0 0).links 0).state = 0 ∧
    (vget (linked 1 0).links 0).state = 1 ∧ (agent (linked 0 0) 1).down = false ∧ (linksOf (linked 0 0) 1).length = 1 ∧
    (∀ x ∈ linksOf (linked 0 0) 1, x.state = 0 ∧ x.downAt + 1000000 ≤ (linked 0 0).gtc.toNat) ∧
    (∃ x ∈ linksOf (linked 0 1) 1, x.state ≠ 0 ∨ (linked 0 1).gtc.toNat < x.downAt + 1000000) ∧
    (∃ x ∈ linksOf swarm2 1, x.state ≠ 0) ∧ agentPresent swarm2 1 = true ∧
    (let s := { swarm2 with agents := vset idle.agents 1 ⟨3, true, 0⟩ }
     (agent s 1).down = true ∧ (agent s 1).inc + 1 = (agent s 1).scrub) ∧
    (let s := { swarm2 with agents := vset idle.agents 1 ⟨0, true, 0⟩ }
     (agent s 1).down = true ∧ (agent s 1).inc + 1 ≠ (agent s 1).scrub) := by decide +kernel

/-- Temperatures and times on both sides of each threshold. -/
theorem witness_PlatformEvents :
    (∀ n ∈ [0, 1, 2, 3], (inPhase n).plat.phase = n) ∧
    (let t := fun (n : Int) => (BitVec.ofInt 16 n).toInt
     ((1840 < t 1841 ∧ ¬ 1840 < t 1840) ∧ (1600 < t 1601 ∧ ¬ 1600 < t 1600) ∧ (t 1519 < 1520 ∧ ¬ t 1520 < 1520) ∧
      (1360 < t 1361 ∧ ¬ 1360 < t 1360))) ∧
    idle.plat.throttled.getLsbD (383 / 48) = false ∧ Store.wf Core.init idle.cores = true ∧
    (∀ e ∈ idle.plat.channels, e.1 / 32 = 0 → e.2.window = none) ∧
    (let put := fun (y : Channel) => { idle with plat := { idle.plat with channels := [(0, y)] } }
     let x := fun (y : Channel) => Store.getD (⟨none, none, 0, false, 0⟩ : Channel) (put y).plat.channels 0
     (x ⟨none, none, 0, false, 0⟩).last = none ∧ (x ⟨some 5, some 5, 2, false, 1⟩).window ≠ none ∧
     (x ⟨some 5, some 5, 2, false, 1⟩).fails = 2 ∧ (x ⟨some 5, some 5, 2, false, 1⟩).failed = false ∧
     (x ⟨some 5, some 5, 1, false, 1⟩).fails ≠ 2) ∧
    idle.launches = [] ∧ up.launches ≠ [] ∧ 0x10000000000 % 2 ^ 40 = 0 := by decide +kernel

/-- Well-formed instructions with a word, and a word that decodes. -/
theorem witness_words :
    (let c : Ctx := ⟨false, false, fun _ => some 4⟩
     (Instr.saddi 5 3 (-12) true).wf c = true ∧ encode (.saddi 5 3 (-12) true) = some (.scalar 0x0850FFE9) ∧
     (match decode c (.scalar 0x0850FFE9) with | .ok i => i == .saddi 5 3 (-12) true | _ => false) = true ∧
     (15 : Nat) < (16 : BitVec 6).toNat ∧ g0.sc.full = false) := by decide +kernel

/-- An S group that runs SADDI at 0x10000, and a lane block that runs LEXIT there. -/
def runs (lane : Bool) (code : List Byte) : State := placeWord State.reset lane code
def sWord : List Byte := [0xE9, 0xFF, 0x50, 0x08]
def lWord : List Byte := leBytes 12 0x1D4000000000010000000000

theorem witness_StepRunsDecoded :
    (let s := runs false sWord
     let g := (s.grp 0).getD default
     let s0 := { s with tape := [], sent := [], cur := 0, picks := [] }
     let s1 := keepTrs s0 0 0 [g.spc.toNat]
     let s2 := resolve s1 (0x10000 / 128)
     (match s.tape with | [.issue 0 false []] => true | _ => false) = true ∧
     canIssue s 0 g false = true ∧ breakSlot s 0 g false g.spc = none ∧ aspOf s g = 0 ∧ dieOf (coreOf 0) = 0 ∧
     translate s1 0 0 g.spc.toNat .fetch = .ok 0x10000 ⟨0, 0, 1, 1, true, true, 0⟩ ∧ (paKind s1 0x10000).line = true ∧
     homeRead s2 0x10000 4 = some (sWord, false) ∧ orIllegal false (decodeScalar (groupCtx g) (ofBytes 32 sWord)) = .saddi 5 3 (-12) true) ∧
    (let s := runs true lWord
     let g := (s.grp 0).getD default
     let s0 := { s with tape := [], sent := [], cur := 0, picks := [] }
     let s1 := keepTrs s0 0 0 [0x10000, 0x10004, 0x10008]
     let s2 := resolve (resolve (resolve s1 (0x10000 / 128)) (0x10004 / 128)) (0x10008 / 128)
     canIssue s 0 g true = true ∧ converged g = true ∧ breakSlot s 0 g true g.ctx.lpc = none ∧ g.ctx.lpc = 0x10000 ∧
     (∀ j, j < 3 → translate s1 0 0 (0x10000 + 4 * j) .fetch = .ok (0x10000 + 4 * j) ⟨0, 0, 1, 1, true, true, 0⟩ ∧
       (paKind s1 (0x10000 + 4 * j)).line = true ∧ homeRead s2 (0x10000 + 4 * j) 4 = some ((lWord.drop (4 * j)).take 4, false)) ∧
     orIllegal true (decodeLane (groupCtx g) (ofBytes 96 lWord)) = .lexit false true) ∧
    isEvent .gtcTick = true := by
  refine ⟨?_, ?_, ?_⟩ <;> decide +kernel

/-- The words of ResultWordsChangeNothingElse issue; a step is taken from a state in which both invariants hold. -/
theorem witness_invariants :
    Issues (on g0) g0 ∧ Store.sorted (on g0).groups = true ∧ Inv State.reset ∧ Inv (runs false sWord) ∧
    (∀ e ∈ (runs true lWord).groups, e.2.ctx.exm &&& ~~~e.2.live = 0) ∧
    (match step (runs false sWord) with | .next _ => true | _ => false) = true ∧
    (match exec (.sadd 1 2 3 false) (on g0) with
      | .next t => ((t.grp 0).map fun h => h.trap.isNone && h.saved.isNone) == some true
      | _ => false) = true := by
  refine ⟨on_issues _, ?_, ⟨?_, ?_, ?_, ?_, ?_, ?_, ?_, ?_, ?_, ?_, ?_, ?_, ?_, ?_⟩,
    ⟨?_, ?_, ?_, ?_, ?_, ?_, ?_, ?_, ?_, ?_, ?_, ?_, ?_, ?_⟩, ?_, ?_, ?_⟩ <;> decide +kernel

/-- A block that waits for a scalar result of S5: a word that reads S5 waits, one that reads S6 does not; the result is among
those outstanding.  No pick puts a sampling off. -/
theorem witness_BlockWaits :
    (let b : Block := { l0.block with due := [(1, 5)] }
     let g := { outS l0 [res 1 [.s 5 9 (.itv 9 9) false]] with ctx := { l0.ctx with running := some b, queue := [b] } }
     waitsS g (.iadd m0 .i32 false 1 0 (.u (.s 5))) = true ∧ waitsS g (.iadd m0 .i32 false 1 0 (.u (.s 6))) = false ∧
     g.ctx.queue[0]? = some b ∧ b.due = [(1, 5)] ∧ g.sKey 5 = 5 ∧ 5 < b.sv.length ∧
     g.sc.out[0]? = some (res 1 [.s 5 9 (.itv 9 9) false])) ∧
    deferred (on g0).picks = 0 ∧
    (let g := { g0 with pub := [(5, 9, .itv 9 9)] }
     g.pub = [] ++ (g.sKey 5, 9, .itv 9 9) :: []) := by decide +kernel

/-! ## Hypotheses of the statements about shadows, exact results, order and what a step puts off -/

/-- Shadows of each shape with values that they cover, and values outside; every shadow of group 0 covers its register. -/
theorem witness_ShadowsCover :
    covers .top 0x80000000 ∧ covers (.itv 3 5) 3 ∧ covers (.itv 3 5) 5 ∧ ¬ covers (.itv 3 5) 6 ∧ covers (.itv (-1) (-1)) 0xFFFFFFFF ∧
    isNonneg (.itv 0 0) ∧ ¬ isNonneg (.itv (-1) 7) ∧ ¬ isNonneg .top ∧
    between (-5) 2147483648 = .top ∧ between (-2147483648) 2147483646 ≠ .top ∧ shadowWord (.sadd 1 2 3 false) = true ∧
    SCovered g0 := by
  refine ⟨trivial, ?_, ?_, ?_, ?_, ⟨nofun, ?_⟩, ?_, ?_, ?_, ?_, rfl, ?_, nofun, nofun, ?_⟩
  · show (3 : Int) ≤ (3 : W32).toInt ∧ (3 : W32).toInt ≤ 5; decide
  · show (3 : Int) ≤ (5 : W32).toInt ∧ (5 : W32).toInt ≤ 5; decide
  · show ¬ ((3 : Int) ≤ (6 : W32).toInt ∧ (6 : W32).toInt ≤ 5); decide
  · show (-1 : Int) ≤ (0xFFFFFFFF : W32).toInt ∧ (0xFFFFFFFF : W32).toInt ≤ -1; decide
  · decide
  · rintro ⟨-, h⟩; revert h; decide
  · rintro ⟨h, -⟩; exact h rfl
  · decide
  · decide
  · intro k hk
    have : ∀ k, k < 72 → (match (g0.sAt k).2 with
      | .top => true
      | .itv lo hi => decide (lo ≤ (g0.sAt k).1.toInt ∧ (g0.sAt k).1.toInt ≤ hi)) = true := by decide +kernel
    have h := this k hk
    unfold covers
    split <;> rename_i e
    · trivial
    · rw [e] at h; exact of_decide_eq_true h
  · rintro b (h | h)
    · cases h
    · cases h

/-- A branch whose two shadows change, at a relation that holds. -/
theorem witness_branch_refines : (2 : W32).toInt < (9 : W32).toInt ∧ sOut g0.sc.out (g0.sKey 4) = [] ∧ (4 : BitVec 6) ≠ 5 := by decide

/-- Patterns of each kind in the formats: NaNs, infinities, zeros, subnormals read and flushed, and the ends of the finite ones. -/
theorem witness_ExactResults :
    (fmtF32.read false 0x7FC00000).isNan = true ∧ (fmtF32.read false 0x7F800001).isSig = true ∧
    fmtF32.read false 0xFF800000 = .inf true ∧ fmtF32.read false 0x80000000 = .zero true ∧ fmtF32.read true 1 = .zero false ∧
    fmtF16.infMag < 0x7E00 ∧ 0x7BFF < fmtF16.infMag ∧ (fenv 0 .rne).rm ≠ .mode ∧
    IsFinite (fmtF32.read false 1) ∧ IsFinite (fmtF32.read false 0) ∧ IsFinite (fmtF32.read false 0x7F7FFFFF) ∧
    ¬ IsFinite (fmtF32.read false 0x7F800000) := by
  refine ⟨by decide +kernel, by decide +kernel, by decide +kernel, by decide +kernel, by decide +kernel, by decide +kernel,
    by decide +kernel, by decide, ?_, ?_, ?_, ?_⟩
  · show IsFinite (.fin false 1 (-149)); trivial
  · show IsFinite (.zero false); trivial
  · have h : fmtF32.read false 0x7F7FFFFF = .fin false 0xFFFFFF 104 := by decide +kernel
    rw [h]; trivial
  · show ¬ IsFinite (.inf false); exact id

/-- Sums that are zero and not, and values whose order and signs the clauses tell apart. -/
theorem witness_exact_values :
    valueOf (.fin false 1 0) + valueOf (.fin true 1 0) = 0 ∧ valueOf (.fin false 3 1) = 6 ∧ valueOf (.fin true 1 (-1)) < 0 ∧
    valueOf (.zero true) = 0 ∧ magnitude fmtF32 0x7F7FFFFF < magnitude fmtF32 0x7F800000 ∧ magnitude fmtF16 0x3C00 = 1 := by
  refine ⟨?_, ?_, ?_, ?_, ?_, ?_⟩ <;> norm_num [valueOf, magnitude, fmtF32, fmtF16, Fmt.qmin]

/-- Types that convert, values at the ends of their bounds, and codes of L6 on both sides of each case. -/
theorem witness_ExactConversions :
    (Ty.e4m3 ∈ floats ∧ Ty.f32 ∈ floats ∧ Ty.i64 ∉ floats ∧ Ty.i64.int8c = true ∧ Ty.n8.int8c = true) ∧
    intBounds .i8 = (-128, 127) ∧ intBounds .n16 = (0, 65535) ∧ intBounds .i64 = (-(2 ^ 63), 2 ^ 63 - 1) ∧
    (let m := fun (a b : Nat) => ((a % 32 : Nat) + (b % 32 : Nat) - 16 : Int)
     m 31 31 = 46 ∧ m 1 1 = -14 ∧ m 16 1 = 1 ∧ m 31 16 = 31) ∧ (0x3F < 64 ∧ 64 ≤ 0x40) := by decide

/-- The flags of FCMP: an ordering of a quiet NaN raises nv, an equality does not, and a signalling NaN always does. -/
theorem witness_FcmpFlags :
    (let q := fmtF32.read false 0x7FC00000
     let s := fmtF32.read false 0x7F800001
     q.isNan = true ∧ q.isSig = false ∧ s.isSig = true ∧ (fmtF32.read false 0).isNan = false) ∧
    (∃ l, l < 64 ∧ (effMask [] l0 m0).getLsbD l = true) := by
  refine ⟨by decide +kernel, 0, by decide, by decide +kernel⟩

/-- Traversals that start beside live ones, the next id taken and the counter at its end. -/
theorem witness_TraversalIds :
    (let s := { base with travs := [(1, trav0), (2 ^ 32 - 1, trav0)], travId := 2 ^ 32 - 1 }
     s.travs.length + [trav0, trav0].length < 2 ^ 32 - 1 ∧ (startTravs s [trav0, trav0]).2 = [2, 3]) := by decide +kernel

/-- ENTER, between its return and its end: nodes with no layout, with two children in bounds, with one that lies outside, and with
more children than one layout can have. -/
def lay2 : Lay := BitVec.ofNat 512 (64 + 4 * 2 ^ 48 + 2 * 2 ^ 56)
theorem witness_EnterReturns :
    (let v : TVisit := ⟨0, ent0, some lay2, List.replicate 64 16⟩
     let t := { travT [ent0] with visit := some v, ret := some (3, 7) }
     t.visit = some v ∧ t.ret = some (3, 7) ∧ v.kind = 0 ∧ v.e = ent0 ∧ t.held = ent0 :: [] ∧ t.stampOk = true ∧ t.cuts = [] ∧
       v.lay = some lay2) ∧
    ent0.depth = 0 ∧ (travT []).spilled = 0 := by
  refine ⟨⟨rfl, rfl, rfl, rfl, rfl, rfl, rfl, rfl⟩, ?_, rfl⟩; decide +kernel

/-- A window that has run 100 ticks without its end, and one that has not; a channel whose last window is two seconds old. -/
theorem witness_windows :
    (let s := { idle with gtc := 200000000 }
     s.plat.phase = 3 ∧ (∃ t, (some 199999900 : Option Nat) = some t ∧ t + 100 ≤ s.gtc.toNat) ∧
       (∃ t, (some 0 : Option Nat) = some t ∧ t + 200000000 ≤ s.gtc.toNat) ∧ ¬ 199999901 + 100 ≤ s.gtc.toNat) := by
  refine ⟨rfl, ⟨_, rfl, by decide⟩, ⟨_, rfl, by decide⟩, by decide⟩

/-- A scratchpad in whose words no other group's store is in flight, and bytes that two stores name. -/
theorem witness_ScratchpadBytes :
    Store.wf 0 (sS 64).spad = true ∧ (∀ o ∈ (sS 64).olds, o.store = 1 → o.src = spadSrc 0) ∧
    spadKey ((sS 64).desc gS) bootTeam (4 + 1) = spadKey ((sS 64).desc gS) bootTeam (5 + 0) := by
  refine ⟨by decide, nofun, by decide +kernel⟩

/-- A line that a command waits for is free and its turn has come; a source sector reads; a generation word, two rows and the word
again; a record to keep in a cache with room. -/
theorem witness_engines_read :
    (let s := sK { copy0 with want := [0x200] }
     lineFree s 0x200 = true ∧ mayServe s 0x200 7 = true) ∧
    (copyD.toBox = false ∧ copyD.kind = 1 ∧
      (match (readSector sD 7 (dieOf copyD.core) 0 bootDesc bootTeam copyD (copyD.rowVa 0)).2 with
       | .ok bs none => bs.length == 32
       | _ => false) = true) ∧
    (let r := cRun.rowsSee (sB2 cRun) 0 0 16 15
     (match r.2.2 with
      | .got vis => vis.any fun b => b
      | _ => false) = true ∧
     (match (r.2.1.readSlot r.1 0 0 recA 15 0).2.2 with
      | .got _ => true
      | _ => false) = true) ∧
    Store.sorted (sB2 cRun).mapCache = true := by
  refine ⟨?_, ⟨?_, ?_, ?_⟩, ?_, ?_⟩ <;> decide +kernel

/-- CST and XLDE that an earlier issue left at position 3, and that stop again before position 7. -/
theorem witness_compressed_goes_on :
    (let g := { gL 16 1 with ctx := { (gL 16 1).ctx with prog := 3 } }
     let s := { on g with picks := [(64 * 401, 7)] }
     let left := (effLanes s g m0).drop g.ctx.prog
     Issues s g ∧ left = (List.range 13).map (· + 3) ∧
     (let run := match stopAt s.picks with | some j => left.take (j - g.ctx.prog) | none => left
      run ≠ [] ∧ run.length < left.length) ∧
     deferred s.picks = 0) := by
  refine ⟨on_issues _, ?_, ⟨?_, ?_⟩, ?_⟩ <;> decide +kernel

/-- A lane word one of whose three parts a step puts off, and that word when the others are kept from before; a view, an event
and a mailbox opcode on the tape. -/
theorem witness_step_parts :
    (let g := ((runs true lWord).grp 0).getD default
     let home := fun j => (lWord.drop (4 * j)).take 4
     let got := fun (h : Group) picks => (List.range 3).filterMap fun j => (partNow h picks true 0x10000 home j).map fun b => (0x10000 + 4 * j, b)
     (got g [(64 * 403, 2)]).length < 3 ∧ (got (withParts g true (got g [(64 * 403, 2)])) []).length = 3 ∧
     (withParts g true (got g [(64 * 403, 2)])).ln.parts ≠ []) ∧
    Store.sorted (runs true lWord).groups = true ∧
    ({ base with tape := [.view 0 1 2 0, .mailbox 0xFFFF] } : State).tape = .view 0 1 2 0 :: [.mailbox 0xFFFF] := by
  refine ⟨?_, ?_, rfl⟩ <;> decide +kernel

/-- A TASK node of a running graph that is not active, and one that is; its line can be written. -/
theorem witness_task_nodes :
    (let at_ := fun m => let x := nodeBits (nodeAt m); (NodeBits.firstBad x == none, x.kind, x.code)
     at_ [(0x10000, 1), (0x10020, 1)] = (true, 1, 0) ∧ at_ [(0x10000, 1), (0x10007, 1), (0x10020, 1)] = (true, 1, 1)) ∧
    (∃ u, NodeTakes (nodeAt [(0x10000, 1)]) (.graph 5) (graph .running [(0, 0x10000)] []) 0x10000 [codeWord 1] u) ∧
    live (nodeAt []) (graph .running [(0, 0x10000)] []).cov = [] := by
  refine ⟨?_, node_takes rfl (by decide +kernel), rfl⟩; decide +kernel

/-- The host of a swarm, a requester with no transcript, and TCOPY's slice numbers and masks out of range. -/
theorem witness_more_hosts :
    (∃ w, swarm2.swarm = some w) ∧ Store.find idle.spdm (requester .host) = none ∧
    ((31 : BitVec 5).toNat < 31 + 1 ∧ (1 : Nat) ≤ (1 : BitVec 5).toNat) ∧
    (let mask : W32 := 3
     mask.getLsbD 0 = true ∧ popCount mask ≠ 1 ∧ (2 : W32).getLsbD 0 = false) := by
  refine ⟨⟨_, rfl⟩, rfl, by decide, by decide⟩

/-! ## Witnesses of the clauses on spills, waits and exchanges -/

/-- A kernel whose groups spill at 0x10000, two entries each. -/
def spillOn (g : Group) : State :=
  { on g with launches := [(0, { bootLaunch with desc := { bootDesc with stackb := 0x10000, stackz := 64 } })] }
def entry0 : DivEntry := ⟨true, 0x1000C, 0xFF, 0x10024⟩
/-- The four words of one slot at 0x10000. -/
def slotWords : List (Nat × TlbEntry) := (List.range 4).map fun i => (0x10000 + 8 * i, page1)

theorem slot_words {i pa : Nat} {e : TlbEntry} (h : slotWords[i]? = some (pa, e)) : i < 4 ∧ pa = 0x10000 + 8 * i ∧ e = page1 := by
  have hi : i < 4 := by
    have : slotWords[i]? ≠ none := by simp [h]
    simpa [slotWords] using this
  rw [slotWords, List.getElem?_map, List.getElem?_range hi] at h
  simp only [Option.map_some, Option.some.injEq, Prod.mk.injEq] at h
  exact ⟨hi, h.1.symm, h.2.symm⟩

/-- One entry beyond 32 goes to slot 0. -/
theorem spilled_one (g : Group) (es : List DivEntry) (ha : aspOf (spillOn g) g = 0)
    (hb : (spillArea (spillOn g) 0 g).1 + 32 * g.ctx.spilled = 0x10000)
    (hn : ((((es.reverse ++ g.ctx.held).drop 32).reverse.flatMap fun e =>
      ([e.mask, e.pc.zeroExtend 64, e.rpc.zeroExtend 64, if e.join then 1 else 0] : List W64)).length = 4))
    (ht : ∀ i, i < 4 → translate (keepTrs (spillOn g) 0 0 ((List.range 4).map fun i => 0x10000 + 8 * i)) 0 0
        (0x10000 + 8 * i) .write = .ok (0x10000 + 8 * i) page1 ∧
      (paKind (keepTrs (spillOn g) 0 0 ((List.range 4).map fun i => 0x10000 + 8 * i)) (0x10000 + 8 * i)).line = true) :
    ∃ s1 t, Spilled (spillOn g) g es s1 t := by
  refine ⟨_, _, rfl, slotWords, ?_, ?_, rfl⟩
  · exact hn.symm
  · intro i pa e h
    obtain ⟨hi, rfl, rfl⟩ := slot_words h
    have hc : (spillOn g).cur = 0 := rfl
    simp only [hc, hb, hn, ha]
    exact ht i hi

/-- A push of one entry onto 32, one of two onto 31, and a pop that brings the entry of slot 0 back: zeros. -/
def full (n : Nat) : Group := held (pset l0 0x8000) (List.replicate n entry0)
def part1 : Group := { held l0 [entry0] with ctx := { (held l0 [entry0]).ctx with spilled := 1 } }

theorem witness_StackSpills :
    (Issues (spillOn (full 32)) (full 32) ∧ (full 32).saved = none ∧ (full 32).ctx.held.length = 32 ∧
      (full 32).ctx.spilled < (spillArea (spillOn (full 32)) 0 (full 32)).2 ∧ (full 32).ln.blocked (spillOn (full 32)) = false ∧
      ∃ s1 t, Spilled (spillOn (full 32)) (full 32) [⟨true, 0x1000C, (full 32).ctx.exm, BitVec.ofNat 57 (2 ^ 57 - 1)⟩] s1 t) ∧
    (let g := full 31
     let es : List DivEntry := [⟨true, 0x1006C, g.ctx.exm, 0x1006C⟩, ⟨false, 0x1000C, g.ctx.exm &&& ~~~guardMask [] g m1, 0x1006C⟩]
     Issues (spillOn g) g ∧ sameJoin g 0x1006C = false ∧ g.ctx.exm &&& guardMask [] g m1 ≠ 0 ∧
       g.ctx.exm &&& ~~~guardMask [] g m1 ≠ 0 ∧ 32 < g.ctx.held.length + es.length ∧
       g.ctx.spilled + (g.ctx.held.length + es.length - 32) ≤ (spillArea (spillOn g) 0 g).2 ∧ ∃ s1 t, Spilled (spillOn g) g es s1 t) ∧
    (Issues (spillOn part1) part1 ∧ part1.ctx.held = [entry0] ∧ part1.ctx.spilled ≠ 0 ∧ part1.ln.blocked (spillOn part1) = false ∧
      ∃ s1 b ln, Refilled (spillOn part1) part1 s1 b ln) ∧
    (let s := { spillOn part1 with reqs := [(0, storeReq)] }
     let g := { part1 with ln := { part1.ln with acq := [0] } }
     g.ln.blocked s = true) := by
  refine ⟨⟨on_issues _, rfl, rfl, ?_, ?_, spilled_one _ _ rfl rfl rfl ?_⟩,
    ⟨on_issues _, ?_, ?_, ?_, ?_, ?_, spilled_one _ _ rfl rfl rfl ?_⟩,
    ⟨on_issues _, rfl, ?_, ?_, ⟨_, _, _, fun i => 0x10000 + 8 * i, fun _ => (List.replicate 8 0, []), rfl, ?_, rfl, rfl⟩⟩, ?_⟩
  · decide +kernel
  · decide +kernel
  · decide +kernel
  · decide +kernel
  · decide +kernel
  · decide +kernel
  · decide +kernel
  · decide +kernel
  · decide +kernel
  · decide +kernel
  · decide +kernel
  · intro i hi
    refine ⟨⟨page1, ?_⟩, ?_, ?_⟩ <;> revert i <;> decide +kernel
  · decide +kernel

/-- SHRINK while the lane stream runs; SPAWN whose registers pass the quota; three bins of which one is due. -/
theorem witness_quota_stops :
    (Issues (on l0) l0 ∧ 0 < (4 : Nat) ∧ 4 < l0.q ∧ 4 ≤ l0.qmax ∧ l0.laneIdle = false) ∧
    (let g := { l0 with q := 254 }
     Issues (sp (on g)) g ∧ (254 : Nat) ∈ (List.range 4).map ((252 : BitVec 8).toNat + ·) ∧ g.q ≤ 254 ∧
       (∀ r ∈ (List.range 4).map ((252 : BitVec 8).toNat + ·), g.q ≤ r → 254 ≤ r)) ∧
    (let s := { sp (on l0) with bins := [bin 3, { bin 4 with sealed := false }, bin 5], gtc := 200 }
     s.bins[1]? = some { bin 4 with sealed := false } ∧ s.bins[2]? = some (bin 5) ∧
       (bin 4).opened + binTicks (((s.launch 0).map Launch.desc).getD default) ≤ s.gtc.toNat) := by
  refine ⟨⟨on_issues _, ?_⟩, ⟨rfl, ?_⟩, ?_⟩ <;> decide +kernel

/-- A load whose first line a copy command holds: the line is reserved, and the load waits for it, with lanes and with none. -/
def heldLine (g : Group) : State := { on g with copies := [(7, { copy0 with held := [0x200] })] }

theorem witness_LD_waits :
    (let g := gL 16 1
     let s := heldLine g
     let foot := laneFoot s g 1 .lid 0
     Issues s g ∧ (∀ r ∈ [3], r < g.q) ∧ aBase (aLane g 1) % aEsz (aLane g 1) = 0 ∧
       insideA (aLane g 1) (laneInterval s g .lid 0) = true ∧ g.ln.full = false ∧ g.ln.blocked s = false ∧ g.width ≤ 64 ∧
       effLanes s g m0 ≠ [] ∧ footWaits (reserveFoot s 0 0 foot) 0 0 foot = true ∧ footWaits (reserveFoot (on g) 0 0 foot) 0 0 foot = false ∧
       (let xs := accesses s g m0 (laneAddress s g 1 .lid 0)
        let u := lookedUp s g xs
        transLanes u 0 0 .read xs = (xs.map fun x => (x.1, x.2, page1)).map (fun p => (p.1, Tr.ok p.2.1 p.2.2)) ∧
          footWaits (reserveFoot u 0 0 foot) 0 0 foot = true)) ∧
    (let g := pset (gL 16 1) 0
     let s := heldLine g
     let foot := laneFoot s g 1 .lid 0
     Issues s g ∧ effLanes s g m1 = [] ∧ footWaits (reserveFoot s 0 0 foot) 0 0 foot = true) := by
  refine ⟨⟨rfl, ?_⟩, ⟨rfl, ?_⟩⟩ <;> decide +kernel

/-- CST and XLDE that trap: V3 at quota 3, a base of 2 mod 4, and 16 positions where 15 are inside. -/
theorem witness_compressed_traps :
    (let g := { gL 16 1 with q := 3 }
     Issues (on g) g ∧ (3 : Nat) ∈ [3] ∧ g.q ≤ 3) ∧
    (let g := withLA l0 (arr 0x10002 16 2 1)
     Issues (on g) g ∧ (∀ r ∈ [3], r < g.q) ∧ aBase (aLane g 1) % aEsz (aLane g 1) ≠ 0) ∧
    (let g := gL 15 1
     let s := on g
     Issues s g ∧ aBase (aLane g 1) % aEsz (aLane g 1) = 0 ∧ insideA (aLane g 1) (posInterval s g m0 (.s 5) 0) = false ∧
       aMode (aLane g 1) = 1 ∧ 15 ∈ effLanes s g m0 ∧ outA (aLane g 1) (posIndex s g m0 (.s 5) 0 15) = true ∧
       ∀ j ∈ effLanes s g m0, j < 15 → outA (aLane g 1) (posIndex s g m0 (.s 5) 0 j) = false) := by
  refine ⟨⟨on_issues _, ?_⟩, ⟨on_issues _, ?_⟩, ⟨on_issues _, ?_⟩⟩ <;> decide +kernel

/-- Line 0x200 in a retraining window of its channel. -/
def windowed (s : State) : State :=
  { s with plat := { s.plat with channels := [(32 * stackOfPa (128 * 0x200) + Config.channelOf 0x200 % 32, ⟨some 0, some 0, 0, false, 1⟩)] } }

theorem in_window (s : State) (h : s.gtc = 0) : inWindow (windowed s) 0x200 = true := by
  simp [inWindow, windowed, Store.find, h]

/-- A line in a window is read by nobody; a peer's notice of it waits, and so does the scrub that a rejoin needs. -/
theorem witness_windows_wait :
    (inHbm (128 * 0x200) = true ∧ inWindow (windowed swarm2) 0x200 = true ∧ linkUp (windowed swarm2) 1 = true) ∧
    (let s := windowed { at_ (mkEly 0 2 2) swarm2 with agents := vset idle.agents 1 ⟨3, true, 0⟩ }
     (agent s 1).down = true ∧ (agent s 1).inc + 1 = (agent s 1).scrub ∧
       ∃ e ∈ s.ely, (elyAgents e.2).getLsbD 1 = true ∧ inWindow s e.1 = true) := by
  refine ⟨⟨by decide +kernel, in_window _ rfl, by decide +kernel⟩, by decide +kernel, by decide +kernel,
    (0x200, mkEly 0 2 2), ?_, by decide +kernel, in_window _ rfl⟩
  show (0x200, mkEly 0 2 2) ∈ (at_ (mkEly 0 2 2) swarm2).ely
  decide +kernel

/-- A fill whose home has an older request waiting; a mailbox that a RESYNC holds, and one that a DEBUG range holds; lines that a
command holds; a DEBUG access that stays before its first line. -/
theorem witness_waiting_at_home :
    (let s := { idle with reqs := [(7, storeReq)], waits := [(0x200, 7)] }
     s.plat.phase = 3 ∧ hasL1 s 0 0x200 = false ∧ mayServe (resolve s 0x200) 0x200 (Writer.id (.fill 0)) = false ∧
       homeLineNow idle 0x200 ≠ none ∧ mayServe idle 0x200 (Writer.id (.fill 0)) = true) ∧
    (let s := { idle with mbox := { idle.mbox with sync := some (0x10000, 4096) } }
     s.plat.phase = 3 ∧ s.mbox.held = true ∧ s.mbox.sync ≠ some (0x20000, 4096) ∧ s.mbox.sync = some (0x10000, 4096)) ∧
    (let s := { idle with mbox := { idle.mbox with dbg := some ⟨0x10000, 256, false, [], 1⟩ } }
     s.plat.phase = 3 ∧ s.mbox.held = true) ∧
    (let s := { idle with copies := [(7, { copy0 with held := [0x30000 / 128] })] }
     (writeParts s .mailbox 0x30000 [(0, summary s)]).2 = false) ∧
    (pickMask [(pkDbg, 1)] pkDbg).getLsbD 0 = true ∧ (pickMask [(pkDbg, 2)] pkDbg).getLsbD 0 = false ∧
    (pickMask [(pkDbg, 2)] pkDbg).getLsbD 1 = true ∧ (pickMask [] pkDbg).getLsbD 1 = false := by decide +kernel

/-- A copy that is to translate anew after an invalidation, running and stopped. -/
theorem witness_replans :
    (let c := { copy0 with placed := true, want := [0x200] }
     Store.find (sK c).copies 7 = some c ∧ c.placed = true ∧ c.state = .running) ∧
    (let c := { copy0 with placed := true, state := .stopped 1 }
     Store.find (sK c).copies 7 = some c ∧ c.placed = true ∧ c.state ≠ .running) := by decide +kernel

/-- A command whose block asks for the output, before and after it is normalised; a generation word whose line is held. -/
theorem witness_attention_output :
    (let c : Attn := { run (attn0 0) with ctl := 8 }
     AttnMay (sA c) 9 true c { bootLaunch with desc := dT } bootTeam ∧ c.status = 0 ∧ c.fin = true ∧ c.fined = false ∧
       c.nkeys ≤ 16 * c.next ∧ ({ c with fined := true } : Attn).fined = true ∧
       (engAll (.cmd 9) (sA c) (c.mapPa.toList ++ c.stamp.toList)).2 = true) ∧
    (let c : Attn := { run (attn0 0) with mapPa := some ⟨0x10000, 0⟩, status := 1 }
     let s := { sA c with copies := [(7, { copy0 with held := [0x200] })] }
     AttnMay s 9 true c { bootLaunch with desc := dT } bootTeam ∧ c.status ≠ 0 ∧
       (engAll (.cmd 9) s ((c.mapPa.toList.map fun p => (⟨p.pa + 0x20, p.repl⟩ : Place)) ++ c.stamp.toList)).2 = false) ∧
    (let s := { sB2 cRun with copies := [(7, { copy0 with held := [0x200] })], mem := [] }
     (match (cRun.take s 0 0 rdGen1 0 0x10000 4).2.2 with
      | some (.blocked line) => line == 0x200
      | _ => false) = true) := by
  refine ⟨⟨⟨rfl, .inl rfl, rfl, rfl, rfl, rfl, (rfl : (on gT).team (teamKey 0 0) = some bootTeam), rfl⟩, rfl, ?_, rfl, ?_, rfl, ?_⟩,
    ⟨⟨rfl, .inl rfl, rfl, rfl, rfl, rfl, (rfl : (on gT).team (teamKey 0 0) = some bootTeam), rfl⟩, ?_, ?_⟩, ?_⟩ <;>
  decide +kernel

/-- A pending trap while a CST is part-issued, and once it is not. -/
theorem witness_trap_waits :
    (let t : TrapRec := ⟨14, 5, false, 0x10000, false⟩
     let g := fun (b : Bool) => { l0 with trap := some t, ctx := { l0.ctx with part := b } }
     Issues (on (g true)) (g true) ∧ (g true).trap = some t ∧ (g true).ctx.part = true ∧
       Issues (on (g false)) (g false) ∧ (g false).sc.out = [] ∧ (g false).ln.out = [] ∧ (g false).ctx.part = false ∧ (g false).pub = []) :=
  ⟨on_issues _, rfl, rfl, on_issues _, rfl, rfl, rfl, rfl⟩

/-- A scalar PC that is no multiple of 4, of a group that may issue. -/
theorem witness_misaligned :
    (let s := runs false sWord
     let g := { (s.grp 0).getD default with spc := 0x10002 }
     s.tape.head? = some (.issue 0 false []) ∧ canIssue (s.setGrp 0 g) 0 g false = true ∧ g.spc.toNat % 4 ≠ 0 ∧
       (breakSlot (s.setGrp 0 g) 0 g false g.spc).isNone = true) := by decide +kernel

/-- A slot written whole. -/
theorem witness_slot_written :
    (let s := stopCmds (halting (some 0x800000)) (teamKey 0 0)
     (writeSlot s (.team (teamKey 0 0)) 0x800000 (chrysalis s (teamKey 0 0) { bootTeam with state := .halting, slot := some 0x800000 }
       bootLaunch ((groupsOf (halting (some 0x800000)) (teamKey 0 0)).map fun e => (e.1, e.2.publish)))).2 = true) := by decide +kernel

/-- An image of 256 bytes with no body, security version 3, signed with Ed25519ph by the key of the seed 00, 01, … 1F: FW_ACTIVATE
admits it where the image's public key is that key and its digest is fused in slot 0. -/
def fwKey : List Byte := leBytes 32 0xb83155126486dc1d5f0da59b30d6e46799c04be718dd701dbe10cef3bf07a103
def fwImage : List Byte :=
  leBytes 64 (0x51584657 + 3 * 2 ^ 64) ++
    leBytes 64 0x5ca040e27d40a369760d5ca7d85383ab1beaf95ee862866b0b58a78f7066c7d6e21ddfd54c2f275f884beaa53951d723192ce17b1cb262c958b6c1a037b3f4f ++
    leBytes 128 0
def fused : BitVec 512 :=
  0xf9a1acbb1b2177d3efb75122f915a2a94a23de4b6e9b44661e3a89994755ab7da08abfaeb1be1a3be713e8246b47cdf392b5684969a1bb6e4869acd4ea4242ed
def stagedOn : State := { idle with fw := { idle.fw with staged := Store.putsD 0 [] 0 fwImage, keys := [fused], revoked := 0xE, minSvn := 3 } }

theorem witness_image_admitted (hk : Config.publicKey fwImage = fwKey) :
    (let size := leNat ((List.range 4).map fun i => Store.getD 0 stagedOn.fw.staged (0x10 + i))
     (List.range (256 + min size 0x4000000)).map (fun i => Store.getD (0 : Byte) stagedOn.fw.staged i)) = fwImage ∧
    leNat (fwImage.take 4) = 0x51584657 ∧ leNat ((fwImage.drop 0x10).take 4) ≤ 0x4000000 ∧ leNat ((fwImage.drop 8).take 4) ≤ 255 ∧
    sha512 (Config.publicKey fwImage) = bytesOf (stagedOn.fw.keys[leNat ((fwImage.drop 0x0C).take 1) % 4]?.getD 0) ∧
    stagedOn.fw.revoked.getLsbD 0 = false ∧
    Ed.verify Ed.domPh (Config.publicKey fwImage) (sha512 (fwImage.take 0x40 ++ fwImage.drop 0x100)) ((fwImage.drop 0x40).take 64) = true ∧
    stagedOn.fw.minSvn.toNat ≤ leNat ((fwImage.drop 8).take 4) := by
  rw [hk]; decide +kernel
/-- A peer's replies that pass, where its chain certifies that key, the sizes of CAPABILITIES are 0 and the package's nonce is
zeros; and replies that do not. -/
def chain0 : List Byte := [0x5A, 0x5A, 0x5A, 0x5A]
def replies : List (List Byte) :=
  [spdmOf 0x10 4 0 0 [], spdmOf 0x12 0x61 0 0 (leBytes 16 (6 * 2 ^ 32)), spdmOf 0x12 0x63 0 0 (leBytes 16 (0x400 * 2 ^ 64 + 4 * 2 ^ 96)),
   spdmOf 0x12 1 0 1 (sha512 chain0), spdmOf 0x12 2 0 0 (leBytes 4 4 ++ chain0),
   spdmOf 0x12 3 0 1 (sha512 chain0) ++
     leBytes 64 0x4196441f25308342242212b3e533374242360c613a49c855f39b4c324494e95facd4d8f52f29970c6585086ad94c4c94cc80cfd6a385324f70399d2b82d2e95]

theorem witness_peer_passes (h0 : Config.spdmSize 0 = 0) (h1 : Config.spdmSize 1 = 0) (h2 : Config.spdmSize 2 = 0)
    (hk : Config.chainKey chain0 = some fwKey) (hu : ∀ i, Config.undefWord i = 0) (free : Nat) :
    peerGood replies (tabulate 32 fun i => (Config.undefWord (free + 32 + i)).truncate 8) = true ∧ peerGood [] [] = false := by
  have hn : (tabulate 32 fun i => (Config.undefWord (free + 32 + i)).truncate 8 : List Byte) = zeros 32 := by
    simp only [hu]; rfl
  have hc : (replies.drop 4).dropLast.flatMap certPart = chain0 := by decide +kernel
  rw [hn]
  refine ⟨?_, rfl⟩
  simp only [peerGood, hc, hk, ownRequests, firstRequests, capBody, h0, h1, h2]
  decide +kernel

/-! ## The standards of R347 and R348 -/

/-- The digest of "abc" (FIPS 180-4, its examples), and TEST 3 of RFC 8032, 7.1. -/
theorem test_sha512 : sha512 [0x61, 0x62, 0x63] = (leBytes 64
    0xddaf35a193617abacc417349ae20413112e6fa4e89a97ea20a9eeee64b55d39a2192992a274fc1a836ba3c23a3feebbd454d4423643ce80e2a9ac94fa54ca49f).reverse := by
  decide +kernel

theorem test_ed25519 :
    (let key := (leBytes 32 0xfc51cd8e6218a1a38da47ed00230f0580816ed13ba3303ac5deb911548908025).reverse
     let sig := (leBytes 64
       0x6291d657deec24024827e69c3abe01a30ce548a284743a445e3680d7db5ac3ac18ff9b538d16f290ae67f760984dc6594a7c15e9716ed28dc027beceea1ec40a).reverse
     Ed.verify [] key [0xAF, 0x82] sig = true ∧ Ed.verify [] key [0xAF, 0x83] sig = false) := by decide +kernel

/-- A lane write of 7 to S3 that has landed and that no LSYNC has followed: a scalar read sees it, or the value before. -/
theorem witness_published :
    (let g := { g0 with pub := [(3, 7, .itv 7 7)] }
     g.pub[0]? = some (3, 7, .itv 7 7) ∧ pubSeen [] g 3 = none ∧ pubSeen [(pkPub 0, 1)] g 3 = some 0) := by decide +kernel

end Sys2Proof.Tests
end

section
/-!
PROOFS. ScalarConstants: the fields of a scalar word, what its issue leaves, and the words that load a constant or a uniform
register (R52, R96, R100).
-/
namespace Sys2Proof

/-! ## Fields of a scalar word (R52) -/

/-- Two fields side by side, read as a number. -/
theorem toNat_append_eq_add {m n : Nat} (x : BitVec m) (y : BitVec n) : (x ++ y).toNat = x.toNat * 2 ^ n + y.toNat := by
  rw [BitVec.toNat_append, ← Nat.shiftLeft_add_eq_or_of_lt y.isLt, Nat.shiftLeft_eq]

/-- A cut of a word is a quotient and a remainder of its number. -/
theorem bits_eq_iff {w len : Nat} (x : BitVec w) (lo : Nat) (y : BitVec len) :
    bits x lo len = y ↔ x.toNat / 2 ^ lo % 2 ^ len = y.toNat := by
  rw [bits, BitVec.toNat_eq, BitVec.extractLsb'_toNat, Nat.shiftRight_eq_div_pow]

/-- The fields lie side by side: op [31:26], then [25:20], [19:14], [13:8], [7:1], and sw [0]. -/
theorem SRaw.toWord_toNat (r : SRaw) :
    r.toWord.toNat = r.op.toNat * 2 ^ 26 + r.f1.toNat * 2 ^ 20 + r.f2.toNat * 2 ^ 14 + r.f3.toNat * 2 ^ 8 +
      r.fn.toNat * 2 + r.sw.toNat := by
  simp only [toWord, toNat_append_eq_add, BitVec.toNat_ofBool]
  omega

/-- A scalar word is the word of a number when its fields add up to it. -/
theorem SRaw.toWord_eq_ofNat {r : SRaw} {n : Nat} (h : r.toWord.toNat = n) : r.toWord = BitVec.ofNat 32 n := by
  rw [← h, BitVec.ofNat_toNat, BitVec.setWidth_eq]

/-- Cutting a scalar word gives back the fields it was put together from. -/
@[simp] theorem SRaw.ofWord_toWord (r : SRaw) : SRaw.ofWord r.toWord = r := by
  have hw := r.toWord_toNat
  have hlt := r.sw.toNat_lt
  have hop : bits r.toWord 26 6 = r.op := (bits_eq_iff ..).2 (by omega)
  have hf1 : bits r.toWord 20 6 = r.f1 := (bits_eq_iff ..).2 (by omega)
  have hf2 : bits r.toWord 14 6 = r.f2 := (bits_eq_iff ..).2 (by omega)
  have hf3 : bits r.toWord 8 6 = r.f3 := (bits_eq_iff ..).2 (by omega)
  have hfn : bits r.toWord 1 7 = r.fn := (bits_eq_iff ..).2 (by omega)
  have hsw : bit r.toWord 0 = r.sw := by
    have hpar : r.toWord.toNat % 2 = r.sw.toNat := by omega
    rw [bit, BitVec.getLsbD, Nat.testBit_zero, hpar]
    cases r.sw <;> rfl
  simp only [ofWord, hop, hf1, hf2, hf3, hfn, hsw]

/-- The word of format SU. -/
theorem mkSU_toWord (op d : BitVec 6) (imm : BitVec 19) (sw : Bool) :
    (mkSU op d imm sw).toWord = BitVec.ofNat 32 (op.toNat * 2 ^ 26 + d.toNat * 2 ^ 20 + imm.toNat * 2 + sw.toNat) := by
  refine SRaw.toWord_eq_ofNat ?_
  simp only [SRaw.toWord_toNat, mkSU, bits, BitVec.extractLsb'_toNat, Nat.shiftRight_eq_div_pow]
  omega

/-- The word of format SR with b and fn 0. -/
theorem mkSR_toWord (op d a : BitVec 6) (sw : Bool) :
    (mkSR op d a 0 0 sw).toWord = BitVec.ofNat 32 (op.toNat * 2 ^ 26 + d.toNat * 2 ^ 20 + a.toNat * 2 ^ 14 + sw.toNat) := by
  refine SRaw.toWord_eq_ofNat ?_
  simp [SRaw.toWord_toNat, mkSR]

/-- SKMOV's word decodes to it in every context; the one check of its fields is that a names a uniform register (R67, R100). -/
theorem decode_skmov_word (c : Ctx) (d a : BitVec 6) (sw : Bool) :
    decode c (.scalar (mkSR 0x18 d a 0 0 sw).toWord) =
      if 15 < a.toNat then .error (5, 14) else .ok (.skmov d (a.setWidth 4) sw) := by
  have hform : scalarForm c (mkSR 0x18 d a 0 0 sw) =
      some (sform [(1, 0), (8, 0)] [(14, 15 < a.toNat)] (.skmov d (a.setWidth 4) sw)) := rfl
  simp only [decode, decodeScalar, SRaw.ofWord_toWord, hform, SForm.err, sform]
  by_cases h : 15 < a.toNat
  · simp [firstReason, firstBad, firstFail, h]
  · simp [firstReason, firstBad, firstFail, h]

namespace Machine

open Safety

/-! ## Issue (R33, R86) -/

/-- A scalar word that finds room among the outstanding results issues: its writes are outstanding, the stream is at pc. -/
theorem issueSK_eq_scalarAfter {s : State} {g : Group} (hroom : g.sc.full = false) (kind : PKind)
    (ws : List (Nat × W32 × Shadow)) (pc : Va) (sw : Bool) :
    issueSK s s.cur g kind ws pc sw =
      scalarAfter s g kind (ws.map fun w => .s (g.sKey w.1) w.2.1 w.2.2 false) pc sw := by
  rw [issueSK, if_neg (by simp [hroom])]
  rfl

/-- A constant is issued as one write of its register, with the value itself as both ends of the shadow (R142). -/
theorem setExact_eq_scalarAfter {s : State} {g : Group} (hroom : g.sc.full = false) (d : BitVec 6) (v : W32) (sw : Bool) :
    setExact s s.cur g d v sw = scalarAfter s g .plain [wSreg g d v (.itv v.toInt v.toInt)] (g.spc + 4) sw :=
  issueSK_eq_scalarAfter hroom ..

section Constants

variable {s : State} {g : Group} (hg : Issues s g) (hroom : g.sc.full = false)
include hg hroom

/-- A word of the issuing group whose meaning is a constant leaves the constant as its one outstanding write. -/
theorem withCur_setExact (d : BitVec 6) (f : Group → W32) (sw : Bool) :
    withCur s (fun gid g => setExact s gid g d (f g) sw) =
      .next (scalarAfter s g .plain [wSreg g d (f g) (.itv (f g).toInt (f g).toInt)] (g.spc + 4) sw) := by
  rw [withCur_next hg, setExact_eq_scalarAfter hroom]

/-- SLUI's value: the shift by 13 loses no bit of imm19 (R96). -/
theorem exec_slui (d : BitVec 6) (imm : BitVec 19) (sw : Bool) :
    let v : W32 := BitVec.ofNat 32 (imm.toNat * 2 ^ 13)
    exec (.slui d imm sw) s = .next (scalarAfter s g .plain [wSreg g d v (.itv v.toInt v.toInt)] (g.spc + 4) sw) := by
  have hv : imm.zeroExtend 32 <<< 13 = BitVec.ofNat 32 (imm.toNat * 2 ^ 13) := by
    apply BitVec.eq_of_toNat_eq
    simp [BitVec.toNat_shiftLeft, Nat.shiftLeft_eq]
  exact hv ▸ withCur_setExact hg hroom d (fun _ => imm.zeroExtend 32 <<< 13) sw

/-- SMOVI's value is imm19 read as signed (R96). -/
theorem exec_smovi (d : BitVec 6) (imm : BitVec 19) (sw : Bool) :
    let v : W32 := BitVec.ofInt 32 imm.toInt
    exec (.smovi d imm sw) s = .next (scalarAfter s g .plain [wSreg g d v (.itv v.toInt v.toInt)] (g.spc + 4) sw) :=
  withCur_setExact hg hroom d (fun _ => imm.signExtend 32) sw

/-- SKMOV's value is the uniform register's (R100). -/
theorem exec_skmov (d : BitVec 6) (n : BitVec 4) (sw : Bool) :
    let v := vget g.k n.toNat
    exec (.skmov d n sw) s = .next (scalarAfter s g .plain [wSreg g d v (.itv v.toInt v.toInt)] (g.spc + 4) sw) :=
  withCur_setExact hg hroom d (fun g => vget g.k n.toNat) sw

end Constants

/-- Settles O56: the words are format SU's, the constants are issued with exact shadows, and 19 bits read as signed lie in
-2^18 to 2^18 - 1. -/
theorem constantWords : Obligations.ConstantWords := by
  unfold Obligations.ConstantWords
  intro s g d imm sw word lands
  have hslui : encode (.slui d imm sw) = some (.scalar (word 0x0C)) :=
    congrArg (some ∘ Word.scalar) (mkSU_toWord 0x0C d imm sw)
  have hsmovi : encode (.smovi d imm sw) = some (.scalar (word 0x0D)) :=
    congrArg (some ∘ Word.scalar) (mkSU_toWord 0x0D d imm sw)
  exact ⟨hslui, hsmovi, fun hg hroom => ⟨exec_slui hg hroom d imm sw, exec_smovi hg hroom d imm sw⟩,
    imm.le_toInt, Int.le_of_lt_add_one imm.toInt_lt⟩

/-- Settles O57: both words are SKMOV's of format SR, with a field that names a uniform register in the first alone. -/
theorem uniformRegisterMove : Obligations.UniformRegisterMove := by
  unfold Obligations.UniformRegisterMove
  intro s g c d a n sw word v
  have hword (a : BitVec 6) : (mkSR 0x18 d a 0 0 sw).toWord = word a.toNat := mkSR_toWord 0x18 d a sw
  have hn : (n.setWidth 6).toNat = n.toNat := BitVec.toNat_setWidth_of_le (by decide)
  have hn4 : (n.setWidth 6).setWidth 4 = n := by
    rw [BitVec.setWidth_setWidth_of_le n (by decide), BitVec.setWidth_eq]
  refine ⟨?_, ?_, fun hg hroom => exec_skmov hg hroom d n sw, fun ha => ?_⟩
  · rw [← hn, ← hword]
    rfl
  · rw [← hn, ← hword, decode_skmov_word, if_neg (by omega), hn4]
  · rw [← hword, decode_skmov_word, if_pos ha]

end Machine

end Sys2Proof
end

section
/-!
PROOFS. WordFields: the fields of a word are its bits, and a word is the fields that are read from it (R52, R53).
-/
namespace Sys2Proof

theorem firstBad_eq_none (l : List (Nat × Nat)) : firstBad l = none ↔ ∀ e ∈ l, e.2 = 0 := by
  induction l with
  | nil => simp [firstBad]
  | cons e l ih =>
    obtain ⟨pos, v⟩ := e
    by_cases hv : v = 0 <;> simp [firstBad, hv, ih]

theorem firstFail_eq_none (l : List (Nat × Bool)) : firstFail l = none ↔ ∀ e ∈ l, e.2 = false := by
  induction l with
  | nil => simp [firstFail]
  | cons e l ih =>
    obtain ⟨pos, b⟩ := e
    cases b <;> simp [firstFail, ih]

theorem firstReason_eq_none (l : List (Nat × Option Nat)) : firstReason l = none ↔ ∀ e ∈ l, e.2 = none := by
  induction l with
  | nil => simp [firstReason]
  | cons e l ih =>
    obtain ⟨r, o⟩ := e
    cases o <;> simp [firstReason, ih]

theorem SForm.err_eq_none (f : SForm) : f.err = none ↔
    (∀ e ∈ f.resv, e.2 = 0) ∧ (∀ e ∈ f.sub, e.2 = false) ∧ (∀ e ∈ f.code, e.2 = false) ∧ ∀ e ∈ f.cls, e.2 = false := by
  simp [SForm.err, firstReason_eq_none, firstBad_eq_none, firstFail_eq_none]

theorem bits_append_left {m n : Nat} (x : BitVec m) (y : BitVec n) : bits (x ++ y) n m = x := by
  rw [bits_eq_iff, toNat_append_eq_add]
  have := y.isLt
  have := x.isLt
  rw [Nat.mul_comm, Nat.mul_add_div (Nat.two_pow_pos _), Nat.div_eq_of_lt y.isLt, Nat.add_zero, Nat.mod_eq_of_lt x.isLt]

theorem bits_append_right {m n lo len : Nat} (h : lo + len ≤ n) (x : BitVec m) (y : BitVec n) :
    bits (x ++ y) lo len = bits y lo len := by
  unfold bits
  ext i hi
  simp [BitVec.getElem_extractLsb', BitVec.getLsbD_append, show lo + i < n by omega]


/-- A word is its upper and its lower bits side by side. -/
theorem append_bits {m n : Nat} (x : BitVec (m + n)) : bits x n m ++ bits x 0 n = x := by
  unfold bits
  ext i hi
  by_cases h : i < n
  · simp [BitVec.getElem_append, h, BitVec.getElem_extractLsb', BitVec.getLsbD_eq_getElem hi]
  · simp [BitVec.getElem_append, h, BitVec.getElem_extractLsb', show n + (i - n) = i by omega,
      BitVec.getLsbD_eq_getElem hi]


theorem bits_toNat {w : Nat} (x : BitVec w) (lo len : Nat) : (bits x lo len).toNat = x.toNat / 2 ^ lo % 2 ^ len := by
  rw [bits, BitVec.extractLsb'_toNat, Nat.shiftRight_eq_div_pow]

theorem bit_toNat {w : Nat} (x : BitVec w) (i : Nat) : (bit x i).toNat = x.toNat / 2 ^ i % 2 := by
  rw [bit, BitVec.getLsbD, Nat.toNat_testBit]

/-- Putting the fields of a scalar word together again gives the word. -/
theorem SRaw.toWord_ofWord (w : BitVec 32) : (SRaw.ofWord w).toWord = w := by
  apply BitVec.eq_of_toNat_eq
  have := w.isLt
  simp only [toWord_toNat, ofWord, bits_toNat, bit_toNat]
  omega

theorem LRaw.toWord_toNat (r : LRaw) :
    r.toWord.toNat = r.op.toNat * 2 ^ 86 + r.d.toNat * 2 ^ 78 + r.a.toNat * 2 ^ 70 + r.b.toNat * 2 ^ 62 +
      r.c.toNat * 2 ^ 54 + r.neg.toNat * 2 ^ 53 + r.p.toNat * 2 ^ 50 + r.ty.toNat * 2 ^ 46 + r.rm.toNat * 2 ^ 43 +
      r.sat.toNat * 2 ^ 42 + r.nf.toNat * 2 ^ 41 + r.sw.toNat * 2 ^ 40 + r.sb.toNat * 2 ^ 39 + r.sc.toNat * 2 ^ 38 +
      r.ext.toNat * 2 ^ 32 + r.imm.toNat := by
  simp only [toWord, toNat_append_eq_add, BitVec.toNat_ofBool]
  omega


/-- Cuts of a word that lie side by side make one cut. -/
theorem bits_append_bits {w hi lo m n : Nat} (x : BitVec w) (h : hi = lo + n) :
    bits x hi m ++ bits x lo n = bits x lo (m + n) := by
  subst h
  unfold bits
  ext i hi
  by_cases h : i < n
  · simp [BitVec.getElem_append, h, BitVec.getElem_extractLsb']
  · simp [BitVec.getElem_append, h, BitVec.getElem_extractLsb', show lo + n + (i - n) = lo + i by omega]

theorem bits_one {w : Nat} (x : BitVec w) (lo : Nat) : BitVec.ofBool (bit x lo) = bits x lo 1 := by
  apply BitVec.eq_of_toNat_eq
  rw [BitVec.toNat_ofBool, bit_toNat, bits_toNat, Nat.pow_one]

theorem bits_all {w : Nat} (x : BitVec w) : bits x 0 w = x := by
  simp [bits]

theorem LRaw.toWord_ofWord (w : BitVec 96) : (LRaw.ofWord w).toWord = w := by
  simp (disch := decide) only [toWord, ofWord, bits_one, bits_append_bits]
  exact bits_all w


theorem append_inj {m n : Nat} {x x' : BitVec m} {y y' : BitVec n} : x ++ y = x' ++ y' ↔ x = x' ∧ y = y' := by
  refine ⟨fun h => ?_, fun ⟨hx, hy⟩ => by rw [hx, hy]⟩
  have h := congrArg BitVec.toNat h
  rw [toNat_append_eq_add, toNat_append_eq_add] at h
  have hdiv := congrArg (· / 2 ^ n) h
  have hmod := congrArg (· % 2 ^ n) h
  simp only [Nat.mul_add_mod_of_lt, Nat.mul_add_mod_self_right, Nat.mod_eq_of_lt y.isLt, Nat.mod_eq_of_lt y'.isLt,
    Nat.mul_comm _ (2 ^ n), Nat.mul_add_div (Nat.two_pow_pos n), Nat.div_eq_of_lt y.isLt, Nat.div_eq_of_lt y'.isLt,
    Nat.mul_add_mod] at hdiv hmod
  exact ⟨BitVec.eq_of_toNat_eq hdiv, BitVec.eq_of_toNat_eq hmod⟩

theorem ofBool_inj {b b' : Bool} : BitVec.ofBool b = BitVec.ofBool b' ↔ b = b' := by
  cases b <;> cases b' <;> decide

theorem LRaw.toWord_inj {r r' : LRaw} (h : r.toWord = r'.toWord) : r = r' := by
  cases r
  cases r'
  obtain ⟨h, himm⟩ := append_inj.1 h
  obtain ⟨h, hext⟩ := append_inj.1 h
  obtain ⟨h, hsc⟩ := append_inj.1 h
  obtain ⟨h, hsb⟩ := append_inj.1 h
  obtain ⟨h, hsw⟩ := append_inj.1 h
  obtain ⟨h, hnf⟩ := append_inj.1 h
  obtain ⟨h, hsat⟩ := append_inj.1 h
  obtain ⟨h, hrm⟩ := append_inj.1 h
  obtain ⟨h, hty⟩ := append_inj.1 h
  obtain ⟨h, hp⟩ := append_inj.1 h
  obtain ⟨h, hneg⟩ := append_inj.1 h
  obtain ⟨h, hc⟩ := append_inj.1 h
  obtain ⟨h, hb⟩ := append_inj.1 h
  obtain ⟨h, ha⟩ := append_inj.1 h
  obtain ⟨hop, hd⟩ := append_inj.1 h
  rw [ofBool_inj] at hneg hsat hnf hsw hsb hsc
  rw [mk.injEq]
  exact ⟨hop, hd, ha, hb, hc, hneg, hp, hty, hrm, hsat, hnf, hsw, hsb, hsc, hext, himm⟩

theorem LRaw.ofWord_toWord (r : LRaw) : LRaw.ofWord r.toWord = r := toWord_inj (toWord_ofWord r.toWord)

@[simp] theorem mkSI_op (op d a : BitVec 6) (imm : BitVec 13) (sw : Bool) : (mkSI op d a imm sw).op = op := rfl
@[simp] theorem mkSI_f1 (op d a : BitVec 6) (imm : BitVec 13) (sw : Bool) : (mkSI op d a imm sw).f1 = d := rfl
@[simp] theorem mkSI_f2 (op d a : BitVec 6) (imm : BitVec 13) (sw : Bool) : (mkSI op d a imm sw).f2 = a := rfl
@[simp] theorem mkSI_sw (op d a : BitVec 6) (imm : BitVec 13) (sw : Bool) : (mkSI op d a imm sw).sw = sw := rfl
@[simp] theorem mkSI_imm13 (op d a : BitVec 6) (imm : BitVec 13) (sw : Bool) : (mkSI op d a imm sw).imm13 = imm :=
  append_bits (m := 6) (n := 7) imm
@[simp] theorem mkSU_imm19 (op d : BitVec 6) (imm : BitVec 19) (sw : Bool) : (mkSU op d imm sw).imm19 = imm := by
  have h : (mkSU op d imm sw).imm13 = bits imm 0 13 := bits_append_bits imm rfl
  exact (congrArg (bits imm 13 6 ++ ·) h).trans (append_bits (m := 6) (n := 13) imm)

end Sys2Proof
end

section
/-!
PROOFS. ScalarDecoding: a form's checks pass exactly on the scalar words of well-formed instructions (R52, R54 to R57, R67).
-/
namespace Sys2Proof

@[simp] theorem mkSJ_imm25 (op : BitVec 6) (imm : BitVec 25) (sw : Bool) : (mkSJ op imm sw).imm25 = imm := by
  have h : (mkSJ op imm sw).imm13 = bits imm 0 13 := bits_append_bits imm rfl
  have h' : (mkSJ op imm sw).imm19 = bits imm 0 19 := (congrArg (bits imm 13 6 ++ ·) h).trans (bits_append_bits imm rfl)
  exact (congrArg (bits imm 19 6 ++ ·) h').trans (append_bits (m := 6) (n := 19) imm)

theorem SRaw.imm13_toNat (r : SRaw) : r.imm13.toNat = r.f3.toNat * 2 ^ 7 + r.fn.toNat := toNat_append_eq_add ..
theorem SRaw.imm19_toNat (r : SRaw) : r.imm19.toNat = r.f2.toNat * 2 ^ 13 + r.imm13.toNat := toNat_append_eq_add ..
theorem SRaw.imm25_toNat (r : SRaw) : r.imm25.toNat = r.f1.toNat * 2 ^ 19 + r.imm19.toNat := toNat_append_eq_add ..

theorem mkSR_eq_iff (op d a b : BitVec 6) (fn : BitVec 7) (sw : Bool) (r : SRaw) : mkSR op d a b fn sw = r ↔
    op.toNat = r.op.toNat ∧ d.toNat = r.f1.toNat ∧ a.toNat = r.f2.toNat ∧ b.toNat = r.f3.toNat ∧ fn.toNat = r.fn.toNat ∧
      sw = r.sw := by
  cases r
  simp only [mkSR, SRaw.mk.injEq, BitVec.toNat_inj]

theorem mkSI_eq_iff (op d a : BitVec 6) (imm : BitVec 13) (sw : Bool) (r : SRaw) : mkSI op d a imm sw = r ↔
    op.toNat = r.op.toNat ∧ d.toNat = r.f1.toNat ∧ a.toNat = r.f2.toNat ∧ imm.toNat = r.imm13.toNat ∧ sw = r.sw := by
  rw [show mkSI op d a imm sw = mkSR op d a (bits imm 7 6) (bits imm 0 7) sw from rfl, mkSR_eq_iff, SRaw.imm13_toNat,
    bits_toNat, bits_toNat]
  have := imm.isLt
  simp only [← and_assoc]
  exact and_congr_left fun _ => by omega

theorem mkSU_eq_iff (op d : BitVec 6) (imm : BitVec 19) (sw : Bool) (r : SRaw) : mkSU op d imm sw = r ↔
    op.toNat = r.op.toNat ∧ d.toNat = r.f1.toNat ∧ imm.toNat = r.imm19.toNat ∧ sw = r.sw := by
  rw [show mkSU op d imm sw = mkSR op d (bits imm 13 6) (bits imm 7 6) (bits imm 0 7) sw from rfl, mkSR_eq_iff,
    SRaw.imm19_toNat, SRaw.imm13_toNat, bits_toNat, bits_toNat, bits_toNat]
  have := imm.isLt
  simp only [← and_assoc]
  exact and_congr_left fun _ => by omega

theorem mkSJ_eq_iff (op : BitVec 6) (imm : BitVec 25) (sw : Bool) (r : SRaw) : mkSJ op imm sw = r ↔
    op.toNat = r.op.toNat ∧ imm.toNat = r.imm25.toNat ∧ sw = r.sw := by
  rw [show mkSJ op imm sw = mkSR op (bits imm 19 6) (bits imm 13 6) (bits imm 7 6) (bits imm 0 7) sw from rfl,
      mkSR_eq_iff,
    SRaw.imm25_toNat, SRaw.imm19_toNat, SRaw.imm13_toNat, bits_toNat, bits_toNat, bits_toNat, bits_toNat]
  have := imm.isLt
  simp only [← and_assoc]
  exact and_congr_left fun _ => by omega

theorem mkSB_eq_iff (op : BitVec 6) (cond : BitVec 4) (a b : BitVec 6) (off : BitVec 9) (sw : Bool) (r : SRaw) :
    mkSB op cond a b off sw = r ↔ op.toNat = r.op.toNat ∧ cond = r.sbCond ∧ a = r.sbA ∧ b = r.sbB ∧ off = r.sbOff ∧
      sw = r.sw := by
  rw [mkSB, mkSJ_eq_iff]
  simp only [SRaw.sbCond, SRaw.sbA, SRaw.sbB, SRaw.sbOff, ← BitVec.toNat_inj, toNat_append_eq_add, bits_toNat]
  have := r.imm25.isLt
  simp only [← and_assoc]
  exact and_congr_left fun _ => by omega

/-- The instruction that a form accepts has the word that was read, and is well-formed. -/
def SForm.Sound (c : Ctx) (r : SRaw) (f : SForm) : Prop :=
  f.err = none → f.ins.wf c = true ∧ encodeSRaw f.ins = some r

/-- What a form's fields and checks must be for its instruction to stand. -/
theorem SForm.sound_iff (c : Ctx) (r : SRaw) (f : SForm) : f.Sound c r ↔
    ((∀ e ∈ f.resv, e.2 = 0) → (∀ e ∈ f.sub, e.2 = false) → (∀ e ∈ f.code, e.2 = false) → (∀ e ∈ f.cls, e.2 = false) →
      f.ins.wf c = true ∧ encodeSRaw f.ins = some r) := by
  rw [Sound, err_eq_none]
  exact ⟨fun h h1 h2 h3 h4 => h ⟨h1, h2, h3, h4⟩, fun h ⟨h1, h2, h3, h4⟩ => h h1 h2 h3 h4⟩

/-! ## Codes read and written (R56, R57, R62 to R66) -/

theorem scondOf_code : ∀ {x : BitVec 4}, x.toNat ≤ 5 → (scondOf x).code = x := by decide
theorem ctrOf_code : ∀ {x : BitVec 2}, x.toNat ≠ 3 → (ctrOf x).code = x := by decide
theorem mcmpOf_code : ∀ {x : BitVec 2}, x.toNat ≠ 3 → (mcmpOf x).code = x := by decide
theorem scopeOf_code : ∀ {x : BitVec 3}, x.toNat ≤ 5 → (scopeOf x).code = x := by decide
theorem fordOf_code : ∀ {x : BitVec 2}, x.toNat ≠ 0 → (fordOf x).code = x := by decide

/-- A number written in a wider field is its low field under zeros. -/
theorem zero_append_bits {m n : Nat} {x : BitVec (m + n)} (h : (bits x n m).toNat = 0) : (0 : BitVec m) ++ bits x 0 n = x := by
  have h0 : bits x n m = 0 := BitVec.eq_of_toNat_eq (by rw [h]; simp)
  rw [← h0]
  exact append_bits x

theorem saluForm_sound {c : Ctx} {r : SRaw} (hop : r.op.toNat = 1) : (saluForm r).Sound c r := by
  rw [SForm.sound_iff]
  unfold saluForm
  split
  case h_13 hfn =>
    intro hresv _ _ _
    have hb := hresv _ (List.mem_singleton.2 rfl)
    exact ⟨rfl, congrArg some ((mkSR_eq_iff ..).2 ⟨hop.symm, rfl, rfl, hb.symm, hfn.symm, rfl⟩)⟩
  case h_14 => exact fun _ hsub => absurd (hsub _ (List.mem_singleton.2 rfl)) (by decide)
  all_goals
    next hfn => exact fun _ _ _ _ => ⟨rfl, congrArg some ((mkSR_eq_iff ..).2 ⟨hop.symm, rfl, rfl, rfl, hfn.symm, rfl⟩)⟩

theorem aregForm_sound {c : Ctx} {r : SRaw} (hop : r.op.toNat = 0x19) : (aregForm r).Sound c r := by
  rw [SForm.sound_iff]
  unfold aregForm
  split
  case h_1 hfn =>
    simp only [sform, List.forall_mem_cons, Bool.not_eq_false', decide_eq_false_iff_not]
    rintro ⟨hb, -⟩ - - ⟨ha, hd, -⟩
    exact ⟨ha, congrArg some ((mkSR_eq_iff ..).2 ⟨hop.symm, by grind, rfl, hb.symm, hfn.symm, rfl⟩)⟩
  case h_2 hfn =>
    simp only [sform, List.forall_mem_cons, decide_eq_false_iff_not]
    rintro - - - ⟨hd, -⟩
    exact ⟨rfl, congrArg some ((mkSR_eq_iff ..).2 ⟨hop.symm, by grind, rfl, rfl, hfn.symm, rfl⟩)⟩
  case h_7 => exact fun _ hsub => absurd (hsub _ (List.mem_singleton.2 rfl)) (by decide)
  all_goals
    next hfn =>
    simp only [sform, List.forall_mem_cons, decide_eq_false_iff_not]
    rintro ⟨hb, -⟩ - - ⟨ha, -⟩
    exact ⟨rfl, congrArg some ((mkSR_eq_iff ..).2 ⟨hop.symm, rfl, by grind, hb.symm, hfn.symm, rfl⟩)⟩

theorem scalarForm_sound {c : Ctx} {r : SRaw} {f : SForm} (h : scalarForm c r = some f) : f.Sound c r := by
  unfold scalarForm at h
  split at h
  case h_1 hop => cases h; exact saluForm_sound hop
  case h_22 hop => cases h; exact aregForm_sound hop
  case h_2 hop | h_3 hop | h_4 hop | h_5 hop | h_6 hop | h_7 hop | h_8 hop =>
    cases h; exact fun _ => ⟨rfl, congrArg some ((mkSI_eq_iff ..).2 ⟨hop.symm, rfl, rfl, rfl, rfl⟩)⟩
  case h_12 hop | h_13 hop =>
    cases h; exact fun _ => ⟨rfl, congrArg some ((mkSU_eq_iff ..).2 ⟨hop.symm, rfl, rfl, rfl⟩)⟩
  case h_18 hop | h_19 hop =>
    cases h; exact fun _ => ⟨rfl, congrArg some ((mkSJ_eq_iff ..).2 ⟨hop.symm, rfl, rfl⟩)⟩
  case h_9 hop | h_10 hop | h_11 hop =>
    cases h
    rw [SForm.sound_iff]
    simp only [sform, immOut, List.forall_mem_cons, Bool.not_eq_false', decide_eq_false_iff_not]
    rintro - - - ⟨hi, -⟩
    exact ⟨rfl, congrArg some ((mkSI_eq_iff ..).2 ⟨hop.symm, rfl, rfl, by grind, rfl⟩)⟩
  case h_14 hop | h_15 hop =>
    cases h
    rw [SForm.sound_iff]
    simp only [sform, immOut, List.forall_mem_cons, Bool.not_eq_false', decide_eq_false_iff_not]
    rintro ⟨hfn, -⟩ - - -
    exact ⟨rfl, congrArg some ((mkSR_eq_iff ..).2 ⟨hop.symm, rfl, rfl, rfl, hfn.symm, rfl⟩)⟩
  case h_16 hop =>
    cases h
    rw [SForm.sound_iff]
    simp only [List.forall_mem_cons, decide_eq_false_iff_not]
    rintro ⟨hb, -⟩ ⟨hfn, -⟩ - -
    split
    case h_1 h0 => exact ⟨rfl, congrArg some ((mkSR_eq_iff ..).2 ⟨hop.symm, rfl, rfl, hb.symm, h0.symm, rfl⟩)⟩
    case h_2 h1 => exact ⟨rfl, congrArg some ((mkSR_eq_iff ..).2 ⟨hop.symm, rfl, rfl, hb.symm, h1.symm, rfl⟩)⟩
    case h_3 h0 h1 => exact ⟨rfl, congrArg some ((mkSR_eq_iff ..).2 ⟨hop.symm, rfl, rfl, hb.symm, by grind, rfl⟩)⟩
  case h_17 hop =>
    cases h
    rw [SForm.sound_iff]
    simp only [sform, immOut, List.forall_mem_cons, Bool.not_eq_false', decide_eq_false_iff_not]
    rintro - ⟨hc, -⟩ - -
    exact ⟨rfl, congrArg some ((mkSB_eq_iff ..).2 ⟨hop.symm, scondOf_code (by omega), rfl, rfl, rfl, rfl⟩)⟩
  case h_20 hop =>
    cases h
    rw [SForm.sound_iff]
    simp only [sform, immOut, List.forall_mem_cons, Bool.not_eq_false', decide_eq_false_iff_not]
    rintro ⟨hfn, hb, hd, -⟩ - - ⟨ha, -⟩
    exact ⟨ha, congrArg some ((mkSR_eq_iff ..).2 ⟨hop.symm, hd.symm, rfl, hb.symm, hfn.symm, rfl⟩)⟩
  case h_21 hop =>
    cases h
    rw [SForm.sound_iff]
    simp only [sform, immOut, List.forall_mem_cons, Bool.not_eq_false', decide_eq_false_iff_not]
    rintro ⟨hfn, hb, -⟩ - - ⟨ha, -⟩
    exact ⟨rfl, congrArg some ((mkSR_eq_iff ..).2 ⟨hop.symm, rfl, by grind, hb.symm, hfn.symm, rfl⟩)⟩
  case h_23 hop =>
    cases h
    rw [SForm.sound_iff]
    simp only [sform, immOut, List.forall_mem_cons, Bool.not_eq_false', decide_eq_false_iff_not]
    rintro ⟨ha, -⟩ - - ⟨hn, -⟩
    exact ⟨hn, congrArg some ((mkSI_eq_iff ..).2 ⟨hop.symm, rfl, ha.symm, rfl, rfl⟩)⟩
  case h_24 hop =>
    cases h
    rw [SForm.sound_iff]
    simp only [sform, immOut, List.forall_mem_cons, Bool.not_eq_false', decide_eq_false_iff_not]
    rintro ⟨hd, -⟩ - - ⟨hn, -⟩
    exact ⟨hn, congrArg some ((mkSI_eq_iff ..).2 ⟨hop.symm, hd.symm, rfl, rfl, rfl⟩)⟩
  case h_25 hop | h_26 hop =>
    cases h
    rw [SForm.sound_iff]
    simp only [sform, immOut, List.forall_mem_cons, Bool.not_eq_false', decide_eq_false_iff_not]
    rintro - - - ⟨ha, -⟩
    exact ⟨rfl, congrArg some ((mkSR_eq_iff ..).2 ⟨hop.symm, rfl, by grind, rfl, rfl, rfl⟩)⟩
  case h_27 hop =>
    cases h
    rw [SForm.sound_iff]
    simp only [sform, immOut, List.forall_mem_cons, Bool.not_eq_false', decide_eq_false_iff_not]
    rintro ⟨hd, -⟩ - - -
    exact ⟨rfl, congrArg some ((mkSU_eq_iff ..).2 ⟨hop.symm, hd.symm, rfl, rfl⟩)⟩
  case h_28 hop | h_45 hop | h_46 hop =>
    cases h
    rw [SForm.sound_iff]
    simp only [sform, immOut, List.forall_mem_cons, Bool.not_eq_false', decide_eq_false_iff_not]
    rintro ⟨hfn, hb, ha, hd, -⟩ - - -
    exact ⟨rfl, congrArg some ((mkSR_eq_iff ..).2 ⟨hop.symm, hd.symm, ha.symm, hb.symm, hfn.symm, rfl⟩)⟩
  case h_29 hop =>
    cases h
    rw [SForm.sound_iff]
    simp only [sform, immOut, List.forall_mem_cons, Bool.not_eq_false', decide_eq_false_iff_not]
    rintro ⟨hz, -⟩ - - ⟨hd, -⟩
    refine ⟨hd, congrArg some ((mkSI_eq_iff ..).2 ⟨hop.symm, rfl, rfl, ?_, rfl⟩)⟩
    rw [bits_toNat] at hz
    simp only [toNat_append_eq_add, bits_toNat]
    have := r.imm13.isLt
    grind
  case h_30 hop =>
    cases h
    rw [SForm.sound_iff]
    simp only [sform, immOut, List.forall_mem_cons, Bool.not_eq_false', decide_eq_false_iff_not]
    rintro ⟨hz, ha, -⟩ ⟨hc, -⟩ - -
    exact ⟨rfl, congrArg some ((mkSI_eq_iff ..).2 ⟨hop.symm, rfl, ha.symm, by rw [ctrOf_code (by simpa using hc)]; exact congrArg _ (zero_append_bits (m := 11) (n := 2) hz), rfl⟩)⟩
  case h_31 hop =>
    cases h
    rw [SForm.sound_iff]
    have hi := r.imm13.isLt
    have hbit := bit_toNat r.imm13 2
    simp only [List.forall_mem_cons, Bool.not_eq_false']
    rintro ⟨hsc, hz, -⟩ ⟨hc, -⟩ ⟨hs, -⟩ ⟨ha, hd, -⟩
    have hcmp := mcmpOf_code (x := bits r.imm13 0 2) (by simpa using hc)
    refine ⟨Bool.and_eq_true_iff.2 ⟨hd, ha⟩, ?_⟩
    cases hq : bit r.imm13 2 with
    | false =>
      refine congrArg some ((mkSI_eq_iff ..).2 ⟨hop.symm, rfl, rfl, ?_, rfl⟩)
      simp only [hq, Bool.false_eq_true, if_false, bits_toNat, Bool.toNat_false] at hsc hz hbit
      simp only [toNat_append_eq_add, hcmp, bits_toNat]
      grind
    | true =>
      refine congrArg some ((mkSI_eq_iff ..).2 ⟨hop.symm, rfl, rfl, ?_, rfl⟩)
      simp only [hq, Bool.true_and, decide_eq_false_iff_not, bits_toNat, Bool.toNat_true] at hs hz hbit
      simp only [toNat_append_eq_add, hcmp, scopeOf_code (x := bits r.imm13 3 3) (by rw [bits_toNat]; omega), bits_toNat]
      grind
  case h_32 hop =>
    cases h
    rw [SForm.sound_iff]
    simp only [sform, immOut, List.forall_mem_cons, Bool.not_eq_false', decide_eq_false_iff_not]
    rintro ⟨hz, -⟩ ⟨hc, -⟩ - ⟨ha, -⟩
    exact ⟨ha, congrArg some ((mkSI_eq_iff ..).2 ⟨hop.symm, rfl, rfl, by rw [ctrOf_code (by simpa using hc)]; exact congrArg _ (zero_append_bits (m := 11) (n := 2) hz), rfl⟩)⟩
  case h_33 hop =>
    cases h
    rw [SForm.sound_iff]
    simp only [sform, immOut, List.forall_mem_cons, Bool.not_eq_false', decide_eq_false_iff_not]
    rintro ⟨hz, -⟩ - - ⟨hd, -⟩
    exact ⟨hd, congrArg some ((mkSI_eq_iff ..).2 ⟨hop.symm, rfl, rfl, congrArg _ (zero_append_bits (m := 8) (n := 5)
        hz), rfl⟩)⟩
  case h_34 hop =>
    cases h
    rw [SForm.sound_iff]
    simp only [sform, immOut, List.forall_mem_cons, Bool.not_eq_false', decide_eq_false_iff_not]
    rintro ⟨hz, ha, -⟩ - - ⟨hd, -⟩
    exact ⟨hd, congrArg some ((mkSI_eq_iff ..).2 ⟨hop.symm, rfl, ha.symm, congrArg _ (zero_append_bits (m := 9) (n :=
        4) hz), rfl⟩)⟩
  case h_35 hop | h_36 hop | h_37 hop =>
    cases h
    rw [SForm.sound_iff]
    simp only [sform, immOut, List.forall_mem_cons, Bool.not_eq_false', decide_eq_false_iff_not]
    rintro ⟨hd, -⟩ - - ⟨hi, -⟩
    exact ⟨rfl, congrArg some ((mkSI_eq_iff ..).2 ⟨hop.symm, hd.symm, rfl, by grind, rfl⟩)⟩
  case h_38 hop | h_39 hop =>
    cases h
    rw [SForm.sound_iff]
    simp only [sform, immOut, List.forall_mem_cons, Bool.not_eq_false', decide_eq_false_iff_not]
    rintro ⟨ha, hd, -⟩ - - ⟨hi, -⟩
    exact ⟨rfl, congrArg some ((mkSI_eq_iff ..).2 ⟨hop.symm, hd.symm, ha.symm, by grind, rfl⟩)⟩
  case h_40 hop =>
    cases h
    rw [SForm.sound_iff]
    simp only [sform, immOut, List.forall_mem_cons, Bool.not_eq_false', decide_eq_false_iff_not]
    rintro ⟨hz, ha, -⟩ - - ⟨hd, -⟩
    exact ⟨hd, congrArg some ((mkSI_eq_iff ..).2 ⟨hop.symm, rfl, ha.symm, congrArg _ (zero_append_bits (m := 11) (n :=
        2) hz), rfl⟩)⟩
  case h_41 hop =>
    cases h
    rw [SForm.sound_iff]
    simp only [List.forall_mem_cons, decide_eq_false_iff_not]
    rintro ⟨hz, hb, ha, hd, -⟩ ⟨ho, -⟩ ⟨hs, -⟩ -
    have hord := fordOf_code (x := bits r.fn 0 2) (by simpa using ho)
    refine ⟨rfl, congrArg some ((mkSR_eq_iff ..).2 ⟨hop.symm, hd.symm, ha.symm, hb.symm, ?_, rfl⟩)⟩
    rw [bits_toNat] at hz
    simp only [toNat_append_eq_add, hord, scopeOf_code (x := bits r.fn 2 3) (by omega), bits_toNat]
    have := r.fn.isLt
    grind
  case h_42 hop | h_43 hop =>
    cases h
    rw [SForm.sound_iff]
    simp only [sform, immOut, List.forall_mem_cons, Bool.not_eq_false', decide_eq_false_iff_not]
    rintro ⟨ha, hd, -⟩ - - -
    exact ⟨rfl, congrArg some ((mkSI_eq_iff ..).2 ⟨hop.symm, hd.symm, ha.symm, rfl, rfl⟩)⟩
  case h_44 hop =>
    split at h
    case isFalse => cases h
    case isTrue hh =>
    cases h
    rw [SForm.sound_iff]
    simp only [List.forall_mem_cons, decide_eq_false_iff_not]
    rintro ⟨hb, ha, hd, -⟩ ⟨hfn, -⟩ - -
    split
    case isTrue h0 => exact ⟨hh, congrArg some ((mkSR_eq_iff ..).2 ⟨hop.symm, hd.symm, ha.symm, hb.symm, h0.symm, rfl⟩)⟩
    case isFalse h0 => exact ⟨hh, congrArg some ((mkSR_eq_iff ..).2 ⟨hop.symm, hd.symm, ha.symm, hb.symm, by grind,
        rfl⟩)⟩
  case h_47 => cases h

/-- A word's fields are read as the instruction, and no check of them fails. -/
def SRaw.ReadsAs (c : Ctx) (r : SRaw) (i : Instr) : Prop := ∃ f, scalarForm c r = some f ∧ f.err = none ∧ f.ins = i

@[simp] theorem scondOf_code_self (x : SCond) : scondOf x.code = x := by cases x <;> rfl
@[simp] theorem ctrOf_code_self (x : Ctr) : ctrOf x.code = x := by cases x <;> rfl
@[simp] theorem mcmpOf_code_self (x : MCmp) : mcmpOf x.code = x := by cases x <;> rfl
@[simp] theorem scopeOf_code_self (x : Scope) : scopeOf x.code = x := by cases x <;> rfl
@[simp] theorem fordOf_code_self (x : FOrd) : fordOf x.code = x := by cases x <;> rfl


theorem setWidth_setWidth_self {m n : Nat} (h : m ≤ n) (x : BitVec m) : (x.setWidth n).setWidth m = x := by
  rw [BitVec.setWidth_setWidth_of_le x h, BitVec.setWidth_eq]

theorem toNat_zero_append {m n : Nat} (x : BitVec n) : ((0 : BitVec m) ++ x).toNat = x.toNat := by
  rw [toNat_append_eq_add]
  simp

theorem bits_append_low {m n : Nat} (x : BitVec m) (y : BitVec n) : bits (x ++ y) 0 n = y :=
  (bits_append_right (Nat.le_of_eq (Nat.zero_add n)) x y).trans (bits_all y)

theorem bits_zero_append_high {m n : Nat} (x : BitVec n) : (bits ((0 : BitVec m) ++ x) n m).toNat = 0 := by
  rw [bits_append_left]
  simp

/-- The fields of a fence's fn. -/
theorem fence_fields (ord : FOrd) (sc : Scope) : let x : BitVec 7 := (0 : BitVec 2) ++ sc.code ++ ord.code
    (bits x 5 2).toNat = 0 ∧ bits x 0 2 = ord.code ∧ bits x 2 3 = sc.code := by
  cases ord <;> cases sc <;> decide

theorem encodeSRaw_reads {c : Ctx} {i : Instr} {r : SRaw} (hwf : i.wf c = true) (h : encodeSRaw i = some r) : r.ReadsAs c i := by
  cases i
  case sadd | ssub | smul | smulh | sand | sor | sxor | sshl | sshr | ssra | smin | smax | smov | swiden | srange
      | srnggetLo | srnggetHi | srnggetTop | lsync | sexit | snop =>
    cases h
    exact ⟨_, rfl, rfl, rfl⟩
  case saddi | smuli | sandi | sori | sxori | smini | smaxi | trap | brk =>
    cases h
    exact ⟨_, rfl, rfl, by simp [sform]⟩
  case sshli d a amt sw | sshri d a amt sw | ssrai d a amt sw =>
    cases h
    have hlt := amt.isLt
    exact ⟨_, rfl, by simp [SForm.err_eq_none, sform, immOut]; omega, by simp [sform, setWidth_setWidth_self]⟩
  case bar a n sw | stgacq a n sw | stgrel a n sw | grow n sw | shrink n sw =>
    cases h
    have hlt := n.isLt
    exact ⟨_, rfl, by simp [SForm.err_eq_none, sform, immOut]; omega, by simp [sform, setWidth_setWidth_self]⟩
  case slui d imm sw =>
    cases h
    exact ⟨_, rfl, rfl, congrArg (Instr.slui d · sw) (mkSU_imm19 ..)⟩
  case smovi d imm sw =>
    cases h
    exact ⟨_, rfl, rfl, congrArg (Instr.smovi d · sw) (mkSU_imm19 ..)⟩
  case lrun idx sw =>
    cases h
    exact ⟨_, rfl, rfl, congrArg (Instr.lrun · sw) (mkSU_imm19 ..)⟩
  case sj off sw =>
    cases h
    exact ⟨_, rfl, rfl, congrArg (Instr.sj · sw) (mkSJ_imm25 ..)⟩
  case sjal off sw =>
    cases h
    exact ⟨_, rfl, rfl, congrArg (Instr.sjal · sw) (mkSJ_imm25 ..)⟩
  case sb cond a b off sw =>
    cases h
    obtain ⟨-, hc, ha, hb, ho, -⟩ := (mkSB_eq_iff 0x14 cond.code a b off sw _).1 rfl
    refine ⟨_, rfl, ?_, ?_⟩
    · rw [← hc]
      cases cond <;> rfl
    · rw [← hc, ← ha, ← hb, ← ho, scondOf_code_self]
      rfl
  case sjr a sw =>
    cases h
    have ha : even a = true := hwf
    exact ⟨_, rfl, by simp [SForm.err_eq_none, sform, mkSR, ha], rfl⟩
  case skmov d n sw | asetx n d b sw | sld n d b off sw | sst n d b off sw =>
    cases h
    have hlt := n.isLt
    exact ⟨_, rfl, by simp [SForm.err_eq_none, sform, aregForm, mkSR]; omega, by simp [sform, aregForm, mkSR, setWidth_setWidth_self]⟩
  case asetb n a sw =>
    cases h
    have ha : even a = true := hwf
    have hlt := n.isLt
    exact ⟨_, rfl, by simp [SForm.err_eq_none, sform, aregForm, mkSR, ha]; omega,
      by simp [sform, aregForm, mkSR, setWidth_setWidth_self]⟩
  case aget d n w sw =>
    cases h
    have hlt := n.isLt
    obtain rfl | rfl | rfl | rfl : w = 0 ∨ w = 1 ∨ w = 2 ∨ w = 3 := by clear hwf; revert w; decide
    all_goals
      exact ⟨_, rfl, by simp [SForm.err_eq_none, sform, aregForm, mkSR]; omega,
        by simp [sform, aregForm, mkSR, setWidth_setWidth_self]⟩
  case smfs d n sw =>
    cases h
    have hn : smfsOk c.handler n = true := hwf
    exact ⟨_, rfl, by simp [SForm.err_eq_none, sform, hn], by simp [sform]⟩
  case smts a n sw =>
    cases h
    have hn : smtsOk c.handler n = true := hwf
    exact ⟨_, rfl, by simp [SForm.err_eq_none, sform, hn], by simp [sform]⟩
  case tcopy a b i nm1 sw =>
    cases h
    have ha : even a = true := hwf
    have hi := i.isLt
    have hn := nm1.isLt
    have hv : BitVec.toNat (w := 13) ((0 : BitVec 3) ++ nm1 ++ i) = nm1.toNat * 2 ^ 5 + i.toNat :=
      (toNat_append_eq_add ..).trans (by rw [toNat_zero_append])
    refine ⟨_, rfl, ?_, ?_⟩
    · simp only [SForm.err_eq_none, sform, List.forall_mem_cons, mkSI_imm13, mkSI_f1, bits_toNat, hv, ha]
      simp
      omega
    · simp only [sform, mkSI_imm13, mkSI_f1, mkSI_f2, mkSI_sw, Instr.tcopy.injEq, bits_eq_iff, hv, true_and, and_true]
      omega
  case cwait ctr a sw =>
    cases h
    exact ⟨_, rfl, by simp [SForm.err_eq_none]; cases ctr <;> decide, by simp; cases ctr <;> rfl⟩
  case mwait cmp acq a b sw =>
    obtain ⟨ha, hb⟩ : even a = true ∧ even b = true := Bool.and_eq_true_iff.1 hwf
    cases acq with
    | none =>
      cases h
      exact ⟨_, rfl, by simp [SForm.err_eq_none, ha, hb]; cases cmp <;> decide, by simp; cases cmp <;> decide⟩
    | some sc =>
      cases h
      refine ⟨_, rfl, by simp [SForm.err_eq_none, ha, hb]; cases cmp <;> cases sc <;> decide, by simp; cases cmp <;> cases sc <;> decide⟩
  case yield ctr a b sw =>
    cases h
    have hb : even b = true := hwf
    exact ⟨_, rfl, by simp [SForm.err_eq_none, hb]; cases ctr <;> decide, by simp; cases ctr <;> rfl⟩
  case attn a b ctl sw =>
    cases h
    have ha : even a = true := hwf
    exact ⟨_, rfl, by simp [SForm.err_eq_none, sform, ha]; exact bits_zero_append_high (m := 8) ctl,
      congrArg (Instr.attn a b · sw) ((congrArg (bits · 0 5) (mkSI_imm13 ..)).trans (bits_append_low (m := 8) 0 ctl))⟩
  case tvlayout a n sw =>
    cases h
    have ha : even a = true := hwf
    exact ⟨_, rfl, by simp [SForm.err_eq_none, sform, ha]; exact bits_zero_append_high (m := 9) n,
      congrArg (Instr.tvlayout a · sw) ((congrArg (bits · 0 4) (mkSI_imm13 ..)).trans (bits_append_low (m := 9) 0 n))⟩
  case task a p sw =>
    cases h
    have ha : even a = true := hwf
    exact ⟨_, rfl, by simp [SForm.err_eq_none, sform, ha]; exact bits_zero_append_high (m := 11) p,
      congrArg (Instr.task a · sw) ((congrArg (bits · 0 2) (mkSI_imm13 ..)).trans (bits_append_low (m := 11) 0 p))⟩
  case sfence ord sc sw =>
    cases h
    obtain ⟨hz, ho, hs⟩ := fence_fields ord sc
    refine ⟨_, rfl, ?_, ?_⟩
    · simp only [SForm.err_eq_none, List.forall_mem_cons, mkSR, hz, ho, hs]
      cases ord <;> cases sc <;> decide
    · simp only [mkSR, ho, hs, fordOf_code_self, scopeOf_code_self]
  case eret | eretSkip =>
    cases h
    have hc : c.handler = true := hwf
    refine ⟨_, if_pos hc, rfl, rfl⟩
  all_goals cases h

end Sys2Proof
end

section
/-!
PROOFS. LaneForms: each form of a lane word passes its checks exactly where its instruction is well-formed and has that word (R58 to
R68); one lemma for each way in which an opcode uses the fields.
-/
namespace Sys2Proof

theorem LForm.err_eq_none (f : LForm) : f.err = none ↔
    f.immBad = 0 ∧ f.extBad = 0 ∧ f.scBad = 0 ∧ f.sbBad = 0 ∧ f.satBad = 0 ∧ f.rmBad = 0 ∧ f.tyBad = 0 ∧ f.cBad = 0 ∧
      f.bBad = 0 ∧ f.aBad = 0 ∧ f.dBad = 0 ∧ (∀ e ∈ f.sub, e.2 = false) ∧ (∀ e ∈ f.code, e.2 = false) ∧
      (∀ e ∈ f.tyNo, e.2 = false) ∧ f.clsC = false ∧ f.clsB = false ∧ f.clsA = false ∧ f.clsD = false ∧
      f.pgBad = false := by
  simp only [LForm.err, firstReason_eq_none, firstBad_eq_none, firstFail_eq_none, List.forall_mem_cons]
  simp [and_assoc]

@[simp] theorem flag_eq_zero (b : Bool) : flag b = 0 ↔ b = false := by cases b <;> decide

@[simp] theorem rmOf_code (x : BitVec 3) : (rmOf x).code = x ↔ x.toNat ≤ 5 := by revert x; decide
@[simp] theorem tyOf_code (x : BitVec 4) : (tyOf x).code = x := by revert x; decide

@[simp] theorem uniOf_code (x : BitVec 8) : (uniOf x).code = x ↔ x.toNat < 80 := by revert x; decide
@[simp] theorem uniOf_pairOk : ∀ x : BitVec 8, (uniOf x).pairOk = even x := by decide

theorem LRaw.eq_iff (x y : LRaw) : x = y ↔ x.op.toNat = y.op.toNat ∧ x.d = y.d ∧ x.a = y.a ∧ x.b = y.b ∧ x.c = y.c ∧
    x.neg = y.neg ∧
    x.p = y.p ∧ x.ty = y.ty ∧ x.rm = y.rm ∧ x.sat = y.sat ∧ x.nf = y.nf ∧ x.sw = y.sw ∧ x.sb = y.sb ∧ x.sc = y.sc ∧
    x.ext = y.ext ∧ x.imm = y.imm := by
  cases x
  cases y
  simp only [mk.injEq, BitVec.toNat_inj]


@[simp] theorem LForm.bImm_eq (f : LForm) (r : LRaw) (ty : Ty) (al : BitVec 6) : f.bImm r ty al = { f with
    immBad := if r.ib then 0 else f.immBad, bBad := if r.ib then f.bBad else 0, sbBad := if r.ib then f.sbBad else 0,
    extBad := (r.ext &&& ~~~(if r.ib then al ||| 0x20 else al)).toNat,
    clsB := if r.ib then f.clsB else if r.sb then LRaw.selBad true ty.is64 r.b else !vOk ty r.b } := by
  unfold LForm.bImm
  cases r.ib <;> rfl

theorem toNat_eq_zero_iff {w : Nat} (x : BitVec w) : x.toNat = 0 ↔ 0 = x := by
  rw [eq_comm (b := x), BitVec.toNat_eq]; rfl

/-- A selected operand that passes. -/
theorem selBad_eq_false (lidOk pair : Bool) (x : BitVec 8) : LRaw.selBad lidOk pair x = false ↔
    x.toNat ≤ 80 ∧ (x.toNat = 80 → lidOk = true) ∧ (x.toNat < 80 → pair = true → even x = true) := by
  cases lidOk <;> cases pair <;> simp [LRaw.selBad] <;> grind

@[simp] theorem opB_ok_iff (r : LRaw) (ty : Ty) : r.opB.ok ty = true ↔
    (r.ib = false → r.sb = true → r.b.toNat ≠ 80 → ty.is64 = true → even r.b = true) ∧
    (r.ib = false → r.sb = false → vOk ty r.b = true) := by
  unfold LRaw.opB
  cases r.ib <;> cases r.sb <;> simp [OpB.ok]
  by_cases h : r.b.toNat = 80
  · simp [h]
  · cases ty.is64 <;> simp [h, uniOf_pairOk]

/-- The code of a selected register, or of the lane's number. -/
def selCode (x : BitVec 8) : BitVec 8 := if x.toNat = 80 then x else (uniOf x).code

theorem selCode_eq_iff (x : BitVec 8) : selCode x = x ↔ x.toNat ≤ 80 := by
  unfold selCode
  split
  next h => simp [h]
  next h => rw [uniOf_code]; omega


@[simp] theorem putB_opB (x r : LRaw) : x.putB r.opB = { x with
    b := if r.ib then x.b else if r.sb then selCode r.b else r.b, sb := if r.ib then x.sb else x.sb || r.sb,
    imm := if r.ib then r.imm else x.imm, ext := if r.ib then x.ext ||| 0x20 else x.ext } := by
  unfold LRaw.opB
  cases r.ib <;> cases r.sb <;> simp [LRaw.putB]
  by_cases h : r.b.toNat = 80
  · rw [show r.b = 80 from BitVec.eq_of_toNat_eq h]
    rfl
  · simp [h, selCode]

@[simp] theorem opBs_ok_iff (r : LRaw) (ty : Ty) : r.opBs.ok ty = true ↔
    (r.sb = true → r.b.toNat ≠ 80 → ty.is64 = true → even r.b = true) ∧ (r.sb = false → vOk ty r.b = true) := by
  unfold LRaw.opBs
  cases r.sb <;> simp [OpC.ok]
  by_cases h : r.b.toNat = 80
  · simp [h]
  · cases ty.is64 <;> simp [h, uniOf_pairOk]

@[simp] theorem putBs_opBs (x r : LRaw) : x.putBs r.opBs =
    { x with b := if r.sb then selCode r.b else r.b, sb := x.sb || r.sb } := by
  unfold LRaw.opBs
  cases r.sb <;> simp [LRaw.putBs]
  by_cases h : r.b.toNat = 80
  · rw [show r.b = 80 from BitVec.eq_of_toNat_eq h]
    rfl
  · simp [h, selCode]

@[simp] theorem opC_ok_iff (r : LRaw) (ty : Ty) : r.opC.ok ty = true ↔
    (r.sc = true → r.c.toNat ≠ 80 → ty.is64 = true → even r.c = true) ∧ (r.sc = false → vOk ty r.c = true) := by
  unfold LRaw.opC
  cases r.sc <;> simp [OpC.ok]
  by_cases h : r.c.toNat = 80
  · simp [h]
  · cases ty.is64 <;> simp [h, uniOf_pairOk]

@[simp] theorem putC_opC (x r : LRaw) : x.putC r.opC =
    { x with c := if r.sc then selCode r.c else r.c, sc := x.sc || r.sc } := by
  unfold LRaw.opC
  cases r.sc <;> simp [LRaw.putC]
  by_cases h : r.c.toNat = 80
  · rw [show r.c = 80 from BitVec.eq_of_toNat_eq h]
    rfl
  · simp [h, selCode]



/-! ### What each step of a form sets -/

namespace LForm

@[simp] theorem dV_eq (f : LForm) (r : LRaw) (ty : Ty) : f.dV r ty = { f with dBad := 0, clsD := !vOk ty r.d } := rfl
@[simp] theorem dV1_eq (f : LForm) : f.dV1 = { f with dBad := 0 } := rfl
@[simp] theorem dP_eq (f : LForm) (r : LRaw) : f.dP r = { f with dBad := 0, clsD := decide (7 < r.d.toNat) || r.d.toNat == 0 } := rfl
@[simp] theorem aV_eq (f : LForm) (r : LRaw) (ty : Ty) : f.aV r ty = { f with aBad := 0, clsA := !vOk ty r.a } := rfl
@[simp] theorem aV1_eq (f : LForm) : f.aV1 = { f with aBad := 0 } := rfl
@[simp] theorem aP_eq (f : LForm) (r : LRaw) : f.aP r = { f with aBad := 0, clsA := decide (7 < r.a.toNat) } := rfl
@[simp] theorem aArr_eq (f : LForm) (r : LRaw) : f.aArr r = { f with aBad := 0, clsA := decide (15 < r.a.toNat) } := rfl
@[simp] theorem aPair_eq (f : LForm) (r : LRaw) : f.aPair r = { f with aBad := 0, clsA := !even r.a } := rfl
@[simp] theorem bSel_eq (f : LForm) (r : LRaw) (ty : Ty) : f.bSel r ty = { f with bBad := 0, sbBad := 0, clsB := if r.sb then LRaw.selBad true ty.is64 r.b else !vOk ty r.b } := rfl
@[simp] theorem bUni_eq (f : LForm) (r : LRaw) : f.bUni r = { f with bBad := 0, sbBad := flag (!r.sb), clsB := r.sb && LRaw.selBad false false r.b } := rfl
@[simp] theorem bV1_eq (f : LForm) : f.bV1 = { f with bBad := 0 } := rfl
@[simp] theorem bP_eq (f : LForm) (r : LRaw) : f.bP r = { f with bBad := 0, clsB := decide (7 < r.b.toNat) } := rfl
@[simp] theorem cSel_eq (f : LForm) (r : LRaw) (ty : Ty) : f.cSel r ty = { f with cBad := 0, scBad := 0, clsC := if r.sc then LRaw.selBad true ty.is64 r.c else !vOk ty r.c } := rfl
@[simp] theorem cUni_eq (f : LForm) (r : LRaw) (pair : Bool) : f.cUni r pair = { f with cBad := 0, scBad := flag (!r.sc), clsC := r.sc && LRaw.selBad false pair r.c } := rfl
@[simp] theorem cV_eq (f : LForm) (r : LRaw) (ty : Ty) : f.cV r ty = { f with cBad := 0, clsC := !vOk ty r.c } := rfl
@[simp] theorem cP_eq (f : LForm) (r : LRaw) : f.cP r = { f with cBad := 0, clsC := decide (7 < r.c.toNat) } := rfl
@[simp] theorem imm_eq (f : LForm) : f.imm = { f with immBad := 0 } := rfl
@[simp] theorem ext_eq (f : LForm) (r : LRaw) (al : BitVec 6) : f.ext r al = { f with extBad := (r.ext &&& ~~~al).toNat } := rfl
@[simp] theorem types_eq (f : LForm) (ok : Bool) : f.types ok = { f with tyNo := [(46, !ok)] } := rfl
@[simp] theorem tyResv_eq (f : LForm) (r : LRaw) : f.tyResv r = { f with tyBad := r.ty.toNat, tyNo := [] } := rfl
@[simp] theorem rmOk_eq (f : LForm) (r : LRaw) : f.rmOk r = { f with rmBad := 0, code := f.code ++ [(43, decide (5 < r.rm.toNat))] } := rfl
@[simp] theorem satOk_eq (f : LForm) : f.satOk = { f with satBad := 0 } := rfl
@[simp] theorem subBad_eq (f : LForm) (pos : Nat) (b : Bool) : f.subBad pos b = { f with sub := f.sub ++ [(pos, b)] } := rfl
@[simp] theorem pg0_eq (f : LForm) (r : LRaw) : f.pg0 r = { f with pgBad := r.neg || r.p != 0 } := rfl
@[simp] theorem arr_eq (f : LForm) (c : Ctx) (r : LRaw) (ok : Bool) : f.arr c r ok = { f with tyNo := [(46, !ok || (decide (r.a.toNat ≤ 15) && !arrOk c r.t (r.a.setWidth 4)))] } := rfl
@[simp] theorem ordScope_eq (f : LForm) (r : LRaw) (ordOk plain0 : Bool) : f.ordScope r ordOk plain0 = { f with
    extBad := (r.ext &&& 1).toNat + (if plain0 && r.ordC == 0 then 2 * r.scopeC.toNat else 0),
    sub := [(36, !ordOk)], code := f.code ++ [(33, decide (5 < r.scopeC.toNat))] } := rfl
@[simp] theorem bf_eq (f : LForm) (r : LRaw) : f.bf r = { f with immBad := (r.imm &&& ~~~(0x3F1F#32)).toNat, sub := f.sub ++ [(8, !lenOk (bits r.imm 8 6))] } := rfl
@[simp] theorem cvt_eq (f : LForm) (srcBad dstBad : Bool) : f.cvt srcBad dstBad = { f with tyNo := [(32, srcBad), (46, dstBad)] } := rfl
@[simp] theorem dDst_eq (f : LForm) (r : LRaw) (pair : Bool) : f.dDst r pair = { f with dBad := 0, clsD := (r.sd && decide (63 < r.d.toNat)) || (pair && !even r.d) } := rfl
@[simp] theorem aRun_eq (f : LForm) (r : LRaw) (k : Nat) : f.aRun r k = { f with aBad := 0, clsA := !runOk r.a k } := rfl
@[simp] theorem bRun_eq (f : LForm) (r : LRaw) (k : Nat) : f.bRun r k = { f with bBad := 0, clsB := !runOk r.b k } := rfl
@[simp] theorem dRun_eq (f : LForm) (r : LRaw) (k : Nat) : f.dRun r k = { f with dBad := 0, clsD := !runOk r.d k } := rfl
@[simp] theorem dZ_eq (f : LForm) (r : LRaw) (c : Ctx) : f.dZ r c = { f with dBad := 0, clsD := !zOk c r.d } := rfl
@[simp] theorem aZ_eq (f : LForm) (r : LRaw) (c : Ctx) : f.aZ r c = { f with aBad := 0, clsA := !zOk c r.a } := rfl
@[simp] theorem cCas_eq (f : LForm) (r : LRaw) : f.cCas r = { f with cBad := 0, clsC := !casOk r.t r.c } := rfl
@[simp] theorem lay_eq (f : LForm) (r : LRaw) : f.lay r = { f with immBad := (r.imm &&& ~~~(0xF#32)).toNat } := rfl

end LForm

/-- The checks pass exactly where the instruction is well-formed and its fields are those that were read. -/
def LForm.Exact (c : Ctx) (r : LRaw) (f : LForm) : Prop :=
  f.err = none ↔ f.ins.wf c = true ∧ encodeLRaw f.ins = some r


theorem LForm.exact_iff {c : Ctx} {r : LRaw} {f : LForm} {x : LRaw} {i : Instr} {w : Prop} (hins : f.ins = i)
    (henc : encodeLRaw i = some x) (hwf : i.wf c = true ↔ w) (hop : r.op.toNat = x.op.toNat) : f.Exact c r ↔
    ((f.immBad = 0 ∧ f.extBad = 0 ∧ f.scBad = 0 ∧ f.sbBad = 0 ∧ f.satBad = 0 ∧ f.rmBad = 0 ∧ f.tyBad = 0 ∧ f.cBad = 0 ∧
      f.bBad = 0 ∧ f.aBad = 0 ∧ f.dBad = 0 ∧ (∀ e ∈ f.sub, e.2 = false) ∧ (∀ e ∈ f.code, e.2 = false) ∧
      (∀ e ∈ f.tyNo, e.2 = false) ∧ f.clsC = false ∧ f.clsB = false ∧ f.clsA = false ∧ f.clsD = false ∧
      f.pgBad = false) ↔
    (w ∧ x.d = r.d ∧ x.a = r.a ∧ x.b = r.b ∧ x.c = r.c ∧ x.neg = r.neg ∧ x.p = r.p ∧ x.ty = r.ty ∧ x.rm = r.rm ∧
      x.sat = r.sat ∧ x.nf = r.nf ∧ x.sw = r.sw ∧ x.sb = r.sb ∧ x.sc = r.sc ∧ x.ext = r.ext ∧ x.imm = r.imm)) := by
  rw [Exact, err_eq_none, hins, henc, hwf, Option.some_inj, LRaw.eq_iff, ← hop]
  simp only [true_and]

@[simp] theorem LRaw.base_eq (r : LRaw) (ins : Instr) : r.base ins =
  { immBad := r.imm.toNat, extBad := r.ext.toNat, scBad := flag r.sc, sbBad := flag r.sb, satBad := flag r.sat,
    rmBad := r.rm.toNat, tyBad := 0, cBad := r.c.toNat, bBad := r.b.toNat, aBad := r.a.toNat, dBad := r.d.toNat,
    sub := [], code := [], tyNo := [(46, r.ty.toNat != 0)], clsC := false, clsB := false, clsA := false,
    clsD := false, pgBad := false, ins := ins } := rfl
@[simp] theorem LRaw.t_eq (r : LRaw) : r.t = tyOf r.ty := rfl
@[simp] theorem LRaw.mods_eq (r : LRaw) : r.mods = ⟨r.neg, r.p, r.nf, r.sw⟩ := rfl
@[simp] theorem lraw_eq (op : BitVec 10) (m : Mods) :
    lraw op m = ⟨op, 0, 0, 0, 0, m.neg, m.p, 0, 0, false, m.nf, m.sw, false, false, 0, 0⟩ := rfl
@[simp] theorem LRaw.dat_eq (r : LRaw) (d a : BitVec 8) (ty : Ty) : r.dat d a ty = { r with d := d, a := a, ty := ty.code } := rfl
theorem ext_zero (r : LRaw) : (r.ext &&& ~~~(if r.ib then 0x20 else 0)).toNat = 0 ↔ (if r.ib then 0x20 else 0) = r.ext
    := by
  have h : ∀ x : BitVec 6, (x &&& ~~~(if bit x 5 then 0x20 else 0)).toNat = 0 ↔ (if bit x 5 then 0x20 else 0) = x :=
      by decide
  exact h r.ext

/-- A form that takes also the operand c and the modifiers sat and rm. -/
def LForm.more (f : LForm) (r : LRaw) (c sat rm : Bool) : LForm :=
  let f := if c then f.cSel r r.t else f
  let f := if sat then f.satOk else f
  if rm then f.rmOk r else f

/-- The fields d, a, ty, sat and rm. -/
def LRaw.plain (r : LRaw) (op : BitVec 10) (sat rm : Bool) : LRaw :=
  { (lraw op r.mods).dat r.d r.a r.t with sat := sat && r.sat, rm := if rm then (rmOf r.rm).code else 0 }

/-- A P register's number fills three bits. -/
theorem pField_iff (x : BitVec 8) : x.toNat ≤ 7 ↔ (x.setWidth 3).setWidth 8 = x := by
  revert x; decide

section Shapes
variable {c : Ctx} {r : LRaw} {i : Instr} {op : BitVec 10} {ok : Bool}

theorem dab_exact (cc sat rm : Bool)
    (henc : encodeLRaw i = some (if cc then ((r.plain op sat rm).putB r.opB).putC r.opC else (r.plain op sat rm).putB
        r.opB))
    (hwf : i.wf c = true ↔ ok = true ∧ vOk r.t r.d = true ∧ vOk r.t r.a = true ∧ r.opB.ok r.t = true ∧
      (cc = true → r.opC.ok r.t = true))
    (hop : r.op.toNat = op.toNat) :
    LForm.Exact c r ((((((r.base i).dV r r.t).aV r r.t).bImm r r.t 0).types ok).more r cc sat rm) := by
  have hext := ext_zero r
  cases cc <;> cases sat <;> cases rm
  all_goals
    rw [LForm.exact_iff (by simp [LForm.more]) henc hwf (by simpa [LRaw.plain] using hop)]
    simp [LForm.more, LRaw.plain]
    grind [selCode_eq_iff, selBad_eq_false, toNat_eq_zero_iff]

theorem da_exact (sat rm : Bool) (henc : encodeLRaw i = some (r.plain op sat rm))
    (hwf : i.wf c = true ↔ ok = true ∧ vOk r.t r.d = true ∧ vOk r.t r.a = true) (hop : r.op.toNat = op.toNat) :
    LForm.Exact c r ((((r.base i).dV r r.t).aV r r.t).types ok |>.more r false sat rm) := by
  cases sat <;> cases rm
  all_goals
    rw [LForm.exact_iff (by simp [LForm.more]) henc hwf (by simpa [LRaw.plain] using hop)]
    simp [LForm.more, LRaw.plain]
    grind [toNat_eq_zero_iff]

theorem isel_exact 
    (henc : encodeLRaw i = some (({ (lraw op r.mods).dat r.d r.a r.t with c := (r.c.setWidth 3).setWidth 8 } : LRaw).putB r.opB))
    (hwf : i.wf c = true ↔ ok = true ∧ vOk r.t r.d = true ∧ vOk r.t r.a = true ∧ r.opB.ok r.t = true) (hop :
        r.op.toNat = op.toNat) :
    LForm.Exact c r (((((r.base i).dV r r.t).aV r r.t).bImm r r.t 0).cP r |>.types ok) := by
  have hext := ext_zero r
  have hc := pField_iff r.c
  rw [LForm.exact_iff (by simp) henc hwf (by simpa using hop)]
  simp
  grind [selCode_eq_iff, selBad_eq_false, toNat_eq_zero_iff]

theorem imovi_exact 
    (henc : encodeLRaw i = some ({ (lraw op r.mods).dat r.d 0 r.t with imm := r.imm }))
    (hwf : i.wf c = true ↔ ok = true ∧ vOk r.t r.d = true) (hop : r.op.toNat = op.toNat) :
    LForm.Exact c r (((r.base i).dV r r.t).imm.types ok) := by
  rw [LForm.exact_iff (by simp) henc hwf (by simpa using hop)]
  simp
  grind [selCode_eq_iff, selBad_eq_false, toNat_eq_zero_iff]

end Shapes

/-! ### What the codes in ext say -/

theorem shflOf_code : ∀ x : BitVec 2, (shflOf x).code = x := by decide

theorem and_not_eq_zero_iff {w : Nat} (x m : BitVec w) : (x &&& ~~~m).toNat = 0 ↔ x &&& m = x := by
  rw [toNat_eq_zero_iff, BitVec.eq_of_getElem_eq_iff, BitVec.eq_of_getElem_eq_iff]
  refine forall_congr' fun j => forall_congr' fun hj => ?_
  simp only [BitVec.getElem_and, BitVec.getElem_not, BitVec.ofNat_eq_ofNat, BitVec.getElem_zero]
  cases x[j] <;> cases m[j] <;> decide

/-- pos and len lie at [4:0] and [13:8] of imm32, the rest is 0. -/
theorem bfImm_iff (x : BitVec 32) : (x &&& ~~~(0x3F1F#32)).toNat = 0 ↔ bfImm (bits x 0 5) (bits x 8 6) = x := by
  have h : ((0 : BitVec 18) ++ bits x 8 6 ++ (0 : BitVec 3) ++ bits x 0 5 : BitVec (18 + 6 + 3 + 5)) = x &&& 0x3F1F#32
      := by
    apply BitVec.eq_of_getLsbD_eq
    intro j hj
    simp only [bits, BitVec.getLsbD_append, BitVec.getLsbD_extractLsb', BitVec.getLsbD_and]
    interval_cases j <;> simp
  rw [and_not_eq_zero_iff, ← h]
  rfl

/-- A layout lies at [3:0] of imm32, the rest is 0. -/
theorem lay_iff (x : BitVec 32) : (x &&& ~~~(0xF#32)).toNat = 0 ↔ (0 : BitVec 28) ++ bits x 0 4 = x := by
  have h : ((0 : BitVec 28) ++ bits x 0 4 : BitVec (28 + 4)) = x &&& 0xF#32 := by
    apply BitVec.eq_of_getLsbD_eq
    intro j hj
    simp only [bits, BitVec.getLsbD_append, BitVec.getLsbD_extractLsb', BitVec.getLsbD_and]
    interval_cases j <;> simp
  rw [and_not_eq_zero_iff, ← h]

theorem pDest_iff (x : BitVec 8) : (7 < x.toNat ∨ x.toNat = 0) ↔ ¬ ((x.setWidth 3).setWidth 8 = x ∧ x.setWidth 3 ≠ 0)
    := by
  revert x; decide

theorem aField_iff (x : BitVec 8) : x.toNat ≤ 15 ↔ (x.setWidth 4).setWidth 8 = x := by revert x; decide

theorem icond_ext (r : LRaw) :
    ((r.ext &&& ~~~(if r.ib then 0x2F else 0xF)).toNat = 0 ∧ (bits r.ext 0 4).toNat ≤ 5) ↔
    ((if r.ib then ((0 : BitVec 2) ++ (condOf (bits r.ext 0 4)).code) ||| 0x20 else (0 : BitVec 2) ++ (condOf (bits
        r.ext 0 4)).code) = r.ext ∧
      icondOk (condOf (bits r.ext 0 4)) = true) := by
  have h : ∀ x : BitVec 6, ((x &&& ~~~(if bit x 5 then 0x2F else 0xF)).toNat = 0 ∧ (bits x 0 4).toNat ≤ 5) ↔
    ((if bit x 5 then ((0 : BitVec 2) ++ (condOf (bits x 0 4)).code) ||| 0x20 else (0 : BitVec 2) ++ (condOf (bits x 0
        4)).code) = x ∧
      icondOk (condOf (bits x 0 4)) = true) := by decide
  exact h r.ext

/-- The acquire of a load or the release of a store, with its scope (R61, R64). -/
def LRaw.optScope (r : LRaw) : Option Scope := if r.ordC == 0 then none else some (scopeOf r.scopeC)

/-- FCMP's condition and the mark of the immediate (R61, R66). -/
theorem fcond_ext (r : LRaw) : (r.ext &&& ~~~(if r.ib then 0x2F else 0xF)).toNat = 0 ∧ (bits r.ext 0 4).toNat ≤ 7 ↔
    (if r.ib then ((0 : BitVec 2) ++ (condOf (bits r.ext 0 4)).code) ||| 0x20
      else (0 : BitVec 2) ++ (condOf (bits r.ext 0 4)).code) = r.ext := by
  have h : ∀ x : BitVec 6, (x &&& ~~~(if bit x 5 then 0x2F else 0xF)).toNat = 0 ∧ (bits x 0 4).toNat ≤ 7 ↔
    (if bit x 5 then ((0 : BitVec 2) ++ (condOf (bits x 0 4)).code) ||| 0x20
      else (0 : BitVec 2) ++ (condOf (bits x 0 4)).code) = x := by decide
  exact h r.ext

/-- The source type of a conversion (R61). -/
theorem src_ext (r : LRaw) : (r.ext &&& ~~~0xF).toNat = 0 ↔
    (0 : BitVec 2) ++ bits r.ext 0 4 = r.ext := by
  have h : ∀ x : BitVec 6, (x &&& ~~~0xF).toNat = 0 ↔
    (0 : BitVec 2) ++ bits x 0 4 = x := by decide
  exact h r.ext

/-- XSHFL's mode and the mark of the immediate (R61). -/
theorem shfl_ext (r : LRaw) : (r.ext &&& ~~~(if r.ib then 0x23 else 3)).toNat = 0 ↔
    (if r.ib then ((0 : BitVec 4) ++ bits r.ext 0 2) ||| 0x20 else (0 : BitVec 4) ++ bits r.ext 0 2) = r.ext := by
  have h : ∀ x : BitVec 6, (x &&& ~~~(if bit x 5 then 0x23 else 3)).toNat = 0 ↔
    (if bit x 5 then ((0 : BitVec 4) ++ bits x 0 2) ||| 0x20 else (0 : BitVec 4) ++ bits x 0 2) = x := by decide
  exact h r.ext

/-- The mark of an S destination (R61). -/
theorem ballot_ext (r : LRaw) : (r.ext &&& ~~~0x10).toNat = 0 ↔
    (if r.sd then 0x10 else 0) = r.ext := by
  have h : ∀ x : BitVec 6, (x &&& ~~~0x10).toNat = 0 ↔
    (if bit x 4 then 0x10 else 0) = x := by decide
  exact h r.ext

/-- XVOTE's mode and the mark of an S destination (R61). -/
theorem vote_ext (r : LRaw) : (r.ext &&& ~~~0x13).toNat = 0 ∧ (bits r.ext 0 2).toNat ≠ 3 ↔
    (if r.sd then ((0 : BitVec 4) ++ (voteOf (bits r.ext 0 2)).code) ||| 0x10
      else (0 : BitVec 4) ++ (voteOf (bits r.ext 0 2)).code) = r.ext := by
  have h : ∀ x : BitVec 6, (x &&& ~~~0x13).toNat = 0 ∧ (bits x 0 2).toNat ≠ 3 ↔
    (if bit x 4 then ((0 : BitVec 4) ++ (voteOf (bits x 0 2)).code) ||| 0x10
      else (0 : BitVec 4) ++ (voteOf (bits x 0 2)).code) = x := by decide
  exact h r.ext

/-- XPREFIX's operation and excl (R61). -/
theorem xprefix_ext (r : LRaw) : (r.ext &&& ~~~0xF).toNat = 0 ∧ (bits r.ext 0 3).toNat ≤ 5 ↔
    (0 : BitVec 2) ++ BitVec.ofBool (bit r.ext 3) ++ (xopOf (bits r.ext 0 3)).code = r.ext := by
  have h : ∀ x : BitVec 6, (x &&& ~~~0xF).toNat = 0 ∧ (bits x 0 3).toNat ≤ 5 ↔
    (0 : BitVec 2) ++ BitVec.ofBool (bit x 3) ++ (xopOf (bits x 0 3)).code = x := by decide
  exact h r.ext

/-- XREDUCE's operation and the mark of an S destination (R61). -/
theorem xreduce_ext (r : LRaw) : (r.ext &&& ~~~0x17).toNat = 0 ∧ (bits r.ext 0 3).toNat ≤ 5 ↔
    (if r.sd then ((0 : BitVec 3) ++ (xopOf (bits r.ext 0 3)).code : BitVec 6) ||| (0x10 : BitVec 6)
      else (0 : BitVec 3) ++ (xopOf (bits r.ext 0 3)).code) = r.ext := by
  have h : ∀ x : BitVec 6, (x &&& ~~~0x17).toNat = 0 ∧ (bits x 0 3).toNat ≤ 5 ↔
    (if bit x 4 then ((0 : BitVec 3) ++ (xopOf (bits x 0 3)).code : BitVec 6) ||| (0x10 : BitVec 6)
      else (0 : BitVec 3) ++ (xopOf (bits x 0 3)).code) = x := by decide
  exact h r.ext

/-- A load's acquire and its scope (R61, R64). -/
theorem ld_ext (r : LRaw) : ((r.ext &&& 1).toNat = 0 ∧ (r.ordC = 0 → r.scopeC.toNat = 0)) ∧ (r.ordC = 0 ∨ r.ordC = 1)
    ∧ r.scopeC.toNat ≤ 5 ↔
    (ordOpt 1 r.optScope).1 ++ (ordOpt 1 r.optScope).2 ++ (0 : BitVec 1) = r.ext := by
  have h : ∀ x : BitVec 6, ((x &&& 1).toNat = 0 ∧ ((bits x 4 2) = 0 → (bits x 1 3).toNat = 0)) ∧ ((bits x 4 2) = 0 ∨
      (bits x 4 2) = 1) ∧ (bits x 1 3).toNat ≤ 5 ↔
    (ordOpt 1 (if bits x 4 2 == 0 then none else some (scopeOf (bits x 1 3)))).1 ++ (ordOpt 1 (if bits x 4 2 == 0 then
        none else some (scopeOf (bits x 1 3)))).2 ++ (0 : BitVec 1) = x := by decide
  exact h r.ext

/-- A store's release and its scope (R61, R64). -/
theorem st_ext (r : LRaw) : ((r.ext &&& 1).toNat = 0 ∧ (r.ordC = 0 → r.scopeC.toNat = 0)) ∧ (r.ordC = 0 ∨ r.ordC = 2)
    ∧ r.scopeC.toNat ≤ 5 ↔
    (ordOpt 2 r.optScope).1 ++ (ordOpt 2 r.optScope).2 ++ (0 : BitVec 1) = r.ext := by
  have h : ∀ x : BitVec 6, ((x &&& 1).toNat = 0 ∧ ((bits x 4 2) = 0 → (bits x 1 3).toNat = 0)) ∧ ((bits x 4 2) = 0 ∨
      (bits x 4 2) = 2) ∧ (bits x 1 3).toNat ≤ 5 ↔
    (ordOpt 2 (if bits x 4 2 == 0 then none else some (scopeOf (bits x 1 3)))).1 ++ (ordOpt 2 (if bits x 4 2 == 0 then
        none else some (scopeOf (bits x 1 3)))).2 ++ (0 : BitVec 1) = x := by decide
  exact h r.ext

/-- A fence's ordering and scope (R61, R64). -/
theorem lfence_ext (r : LRaw) : (r.ext &&& 1).toNat = 0 ∧ r.ordC ≠ 0 ∧ r.scopeC.toNat ≤ 5 ↔
    (fordOf r.ordC).code ++ (scopeOf r.scopeC).code ++ (0 : BitVec 1) = r.ext := by
  have h : ∀ x : BitVec 6, (x &&& 1).toNat = 0 ∧ (bits x 4 2) ≠ 0 ∧ (bits x 1 3).toNat ≤ 5 ↔
    (fordOf (bits x 4 2)).code ++ (scopeOf (bits x 1 3)).code ++ (0 : BitVec 1) = x := by decide
  exact h r.ext

/-- An atomic's ordering and scope (R61, R64). -/
theorem atom_ext (r : LRaw) : ((r.ext &&& 1).toNat = 0 ∧ (r.ordC = 0 → r.scopeC.toNat = 0)) ∧ r.scopeC.toNat ≤ 5 ↔
    (aordOf r.ordC r.scopeC).ordCode ++ (aordOf r.ordC r.scopeC).scopeCode ++ (0 : BitVec 1) = r.ext := by
  have h : ∀ x : BitVec 6, ((x &&& 1).toNat = 0 ∧ ((bits x 4 2) = 0 → (bits x 1 3).toNat = 0)) ∧ (bits x 1 3).toNat ≤
      5 ↔
    (aordOf (bits x 4 2) (bits x 1 3)).ordCode ++ (aordOf (bits x 4 2) (bits x 1 3)).scopeCode ++ (0 : BitVec 1) = x
        := by decide
  exact h r.ext

/-- MLDF's fragment (R61). -/
theorem frag_ext (r : LRaw) : (r.ext &&& ~~~1).toNat = 0 ↔
    (0 : BitVec 5) ++ BitVec.ofBool (bit r.ext 0) = r.ext := by
  have h : ∀ x : BitVec 6, (x &&& ~~~1).toNat = 0 ↔
    (0 : BitVec 5) ++ BitVec.ofBool (bit x 0) = x := by decide
  exact h r.ext

theorem sField_iff (x : BitVec 8) : x.toNat ≤ 63 ↔ (x.setWidth 6).setWidth 8 = x := by revert x; decide

theorem putD_dst (x r : LRaw) : x.putD r.dst = { x with
    d := if r.sd then (r.d.setWidth 6).setWidth 8 else r.d, ext := if r.sd then x.ext ||| 0x10 else x.ext } := by
  unfold LRaw.dst
  cases r.sd <;> rfl

theorem i32_is64 : Ty.is64 .i32 = false := rfl
theorem i32_vOk (x : BitVec 8) : vOk .i32 x = true := rfl
theorem l6_is64 (x : BitVec 4) : tyOf x = .l6 → (tyOf x).is64 = false ∧ ∀ n, vOk (tyOf x) n = true := by
  intro h
  rw [h]
  exact ⟨rfl, fun _ => rfl⟩
theorem isL6_iff (x : BitVec 4) : tyOf x = .l6 ↔ Ty.code .l6 = x := by revert x; decide

section Shapes
variable {c : Ctx} {r : LRaw} {i : Instr} {op : BitVec 10} {ok : Bool}

theorem ibfx_exact 
    (henc : encodeLRaw i = some ({ (lraw op r.mods).dat r.d r.a r.t with imm := bfImm (bits r.imm 0 5) (bits r.imm 8 6) }))
    (hwf : i.wf c = true ↔ ok = true ∧ vOk r.t r.d = true ∧ vOk r.t r.a = true ∧ lenOk (bits r.imm 8 6) = true) (hop :
        r.op.toNat = op.toNat) :
    LForm.Exact c r ((((r.base i).dV r r.t).aV r r.t).types ok |>.bf r) := by
  have himm := bfImm_iff r.imm
  rw [LForm.exact_iff rfl henc hwf (by simpa using hop)]
  simp
  grind [selCode_eq_iff, selBad_eq_false, toNat_eq_zero_iff]

theorem ibfi_exact 
    (henc : encodeLRaw i = some (({ (lraw op r.mods).dat r.d r.a r.t with imm := bfImm (bits r.imm 0 5) (bits r.imm 8 6) } : LRaw).putBs r.opBs))
    (hwf : i.wf c = true ↔ ok = true ∧ vOk r.t r.d = true ∧ vOk r.t r.a = true ∧ r.opBs.ok r.t = true ∧ lenOk (bits
        r.imm 8 6) = true) (hop : r.op.toNat = op.toNat) :
    LForm.Exact c r (((((r.base i).dV r r.t).aV r r.t).bSel r r.t).types ok |>.bf r) := by
  have himm := bfImm_iff r.imm
  rw [LForm.exact_iff rfl henc hwf (by simpa using hop)]
  simp
  grind [selCode_eq_iff, selBad_eq_false, toNat_eq_zero_iff]

theorem icmp_exact
    (henc : encodeLRaw i = some (({ (lraw op r.mods).dat ((r.d.setWidth 3).setWidth 8) r.a r.t with
      ext := (0 : BitVec 2) ++ (condOf (bits r.ext 0 4)).code } : LRaw).putB r.opB))
    (hwf : i.wf c = true ↔ ok = true ∧ icondOk (condOf (bits r.ext 0 4)) = true ∧ (r.d.setWidth 3 != 0) = true ∧ vOk
        r.t r.a = true ∧
      r.opB.ok r.t = true) (hop : r.op.toNat = op.toNat) :
    LForm.Exact c r (((((r.base i).dP r).aV r r.t).bImm r r.t 0xF).types ok |>.subBad 32 (decide (5 < (bits r.ext 0
        4).toNat))) := by
  have h1 := icond_ext r
  have h2 := pDest_iff r.d
  rw [LForm.exact_iff (by simp) henc hwf (by simpa using hop)]
  simp
  grind [selCode_eq_iff, selBad_eq_false, toNat_eq_zero_iff]

theorem fcmp_exact
    (henc : encodeLRaw i = some (({ (lraw op r.mods).dat ((r.d.setWidth 3).setWidth 8) r.a r.t with
      ext := (0 : BitVec 2) ++ (condOf (bits r.ext 0 4)).code } : LRaw).putB r.opB))
    (hwf : i.wf c = true ↔ ok = true ∧ (r.d.setWidth 3 != 0) = true ∧ vOk r.t r.a = true ∧ r.opB.ok r.t = true) (hop :
        r.op.toNat = op.toNat) :
    LForm.Exact c r (((((r.base i).dP r).aV r r.t).bImm r r.t 0xF).types ok |>.subBad 32 (decide (7 < (bits r.ext 0
        4).toNat))) := by
  have h1 := fcond_ext r
  have h2 := pDest_iff r.d
  rw [LForm.exact_iff (by simp) henc hwf (by simpa using hop)]
  simp
  grind [selCode_eq_iff, selBad_eq_false, toNat_eq_zero_iff]

theorem cvt_exact {srcBad dstBad : Bool}
    (henc : encodeLRaw i = some ({ (lraw op r.mods).dat r.d r.a r.t with
      rm := (rmOf r.rm).code, sat := r.sat, ext := (0 : BitVec 2) ++ r.src.code }))
    (hwf : i.wf c = true ↔ (srcBad = false ∧ dstBad = false) ∧ vOk r.t r.d = true ∧ vOk r.src r.a = true) (hop :
        r.op.toNat = op.toNat) :
    LForm.Exact c r (((((r.base i).dV r r.t).aV r r.src).ext r 0xF).cvt srcBad dstBad |>.satOk |>.rmOk r) := by
  have h1 := src_ext r
  rw [LForm.exact_iff rfl henc hwf hop]
  simp [LRaw.src]
  grind [selCode_eq_iff, selBad_eq_false, toNat_eq_zero_iff]

theorem lcvt_exact {srcBad dstBad : Bool}
    (henc : encodeLRaw i = some ({ (lraw op r.mods).dat r.d r.a r.t with
      rm := (rmOf r.rm).code, sat := r.sat, ext := (0 : BitVec 2) ++ r.src.code }))
    (hwf : i.wf c = true ↔ srcBad = false ∧ dstBad = false) (hop : r.op.toNat = op.toNat) :
    LForm.Exact c r ((((r.base i).dV1.aV1).ext r 0xF).cvt srcBad dstBad |>.satOk |>.rmOk r) := by
  have h1 := src_ext r
  rw [LForm.exact_iff rfl henc hwf hop]
  simp [LRaw.src]
  grind [selCode_eq_iff, selBad_eq_false, toNat_eq_zero_iff]

theorem range_exact
    (henc : encodeLRaw i = some ({ lraw op r.mods with
      d := r.d, b := (uniOf r.b).code, c := (uniOf r.c).code, sb := true, sc := true }))
    (hwf : i.wf c = true ↔ True) (hop : r.op.toNat = op.toNat) :
    LForm.Exact c r ((((r.base i).dV1).bUni r).cUni r false) := by
  rw [LForm.exact_iff rfl henc hwf hop]
  simp
  grind [selCode_eq_iff, selBad_eq_false, toNat_eq_zero_iff]

theorem lmul_exact
    (henc : encodeLRaw i = some (({ (lraw op r.mods).dat r.d r.a .l6 with sat := r.sat } : LRaw).putB r.opB))
    (hwf : i.wf c = true ↔ True) (hop : r.op.toNat = op.toNat) :
    LForm.Exact c r (((((r.base i).dV1).aV1).bImm r r.t 0).types (r.t == .l6) |>.satOk) := by
  have h1 := ext_zero r
  have h2 := isL6_iff r.ty
  have h3 := l6_is64 r.ty
  rw [LForm.exact_iff (by simp) henc hwf (by simpa using hop)]
  simp
  grind [selCode_eq_iff, selBad_eq_false, toNat_eq_zero_iff]

theorem pred2_exact
    (henc : encodeLRaw i = some ({ lraw op r.mods with d := (r.d.setWidth 3).setWidth 8, a := (r.a.setWidth 3).setWidth 8, b := (r.b.setWidth 3).setWidth 8 }))
    (hwf : i.wf c = true ↔ (r.d.setWidth 3 != 0) = true) (hop : r.op.toNat = op.toNat) :
    LForm.Exact c r ((((r.base i).dP r).aP r).bP r) := by
  have h1 := pDest_iff r.d
  have h2 := pField_iff r.a
  have h3 := pField_iff r.b
  rw [LForm.exact_iff rfl henc hwf hop]
  simp
  grind [selCode_eq_iff, selBad_eq_false, toNat_eq_zero_iff]

theorem pred1_exact
    (henc : encodeLRaw i = some ({ lraw op r.mods with d := (r.d.setWidth 3).setWidth 8, a := (r.a.setWidth 3).setWidth 8 }))
    (hwf : i.wf c = true ↔ (r.d.setWidth 3 != 0) = true) (hop : r.op.toNat = op.toNat) :
    LForm.Exact c r (((r.base i).dP r).aP r) := by
  have h1 := pDest_iff r.d
  have h2 := pField_iff r.a
  rw [LForm.exact_iff rfl henc hwf hop]
  simp
  grind [selCode_eq_iff, selBad_eq_false, toNat_eq_zero_iff]

theorem exmget_exact
    (henc : encodeLRaw i = some ({ lraw op r.mods with d := (r.d.setWidth 3).setWidth 8 }))
    (hwf : i.wf c = true ↔ (r.d.setWidth 3 != 0) = true) (hop : r.op.toNat = op.toNat) :
    LForm.Exact c r ((r.base i).dP r) := by
  have h1 := pDest_iff r.d
  rw [LForm.exact_iff rfl henc hwf hop]
  simp
  grind [selCode_eq_iff, selBad_eq_false, toNat_eq_zero_iff]

theorem exmset_exact
    (henc : encodeLRaw i = some ({ lraw op r.mods with a := (r.a.setWidth 3).setWidth 8 }))
    (hwf : i.wf c = true ↔ True) (hop : r.op.toNat = op.toNat) :
    LForm.Exact c r ((r.base i).aP r) := by
  have h1 := pField_iff r.a
  rw [LForm.exact_iff rfl henc hwf hop]
  simp
  grind [selCode_eq_iff, selBad_eq_false, toNat_eq_zero_iff]

theorem fxget_exact
    (henc : encodeLRaw i = some ({ lraw op r.mods with d := r.d }))
    (hwf : i.wf c = true ↔ True) (hop : r.op.toNat = op.toNat) :
    LForm.Exact c r ((r.base i).dV1) := by
  rw [LForm.exact_iff rfl henc hwf hop]
  simp
  grind [selCode_eq_iff, selBad_eq_false, toNat_eq_zero_iff]

theorem fxset_exact
    (henc : encodeLRaw i = some ({ lraw op r.mods with a := r.a }))
    (hwf : i.wf c = true ↔ True) (hop : r.op.toNat = op.toNat) :
    LForm.Exact c r ((r.base i).aV1) := by
  rw [LForm.exact_iff rfl henc hwf hop]
  simp
  grind [selCode_eq_iff, selBad_eq_false, toNat_eq_zero_iff]

theorem xshfl_exact
    (henc : encodeLRaw i = some (({ (lraw op r.mods).dat r.d r.a r.t with ext := (0 : BitVec 4) ++ (shflOf (bits r.ext 0 2)).code } : LRaw).putB r.opB))
    (hwf : i.wf c = true ↔ ok = true ∧ vOk r.t r.d = true ∧ vOk r.t r.a = true) (hop : r.op.toNat = op.toNat) :
    LForm.Exact c r (((((r.base i).dV r r.t).aV r r.t).bImm r .i32 3).types ok) := by
  have h1 := shfl_ext r
  rw [LForm.exact_iff (by simp) henc hwf (by simpa [i32_is64, i32_vOk, shflOf_code] using hop)]
  simp [i32_is64, i32_vOk, shflOf_code]
  grind [selCode_eq_iff, selBad_eq_false, toNat_eq_zero_iff]

theorem xbcast_exact
    (henc : encodeLRaw i = some (((lraw op r.mods).dat r.d r.a r.t).putB r.opB))
    (hwf : i.wf c = true ↔ ok = true ∧ vOk r.t r.d = true ∧ vOk r.t r.a = true) (hop : r.op.toNat = op.toNat) :
    LForm.Exact c r (((((r.base i).dV r r.t).aV r r.t).bImm r .i32 0).types ok) := by
  have h1 := ext_zero r
  rw [LForm.exact_iff (by simp) henc hwf (by simpa [i32_is64, i32_vOk] using hop)]
  simp [i32_is64, i32_vOk]
  grind [selCode_eq_iff, selBad_eq_false, toNat_eq_zero_iff]

theorem xballot_exact
    (henc : encodeLRaw i = some (({ lraw op r.mods with a := (r.a.setWidth 3).setWidth 8 } : LRaw).putD r.dst))
    (hwf : i.wf c = true ↔ c.w64 = true → even r.d = true) (hop : r.op.toNat = op.toNat) :
    LForm.Exact c r ((((r.base i).aP r).ext r 0x10).dDst r c.w64) := by
  have h1 := pField_iff r.a
  have h2 := ballot_ext r
  have h3 := sField_iff r.d
  rw [LForm.exact_iff rfl henc hwf (by simpa [putD_dst] using hop)]
  simp [putD_dst]
  grind [selCode_eq_iff, selBad_eq_false, toNat_eq_zero_iff]

theorem xvote_exact
    (henc : encodeLRaw i = some (({ lraw op r.mods with a := (r.a.setWidth 3).setWidth 8, ext := (0 : BitVec 4) ++ (voteOf (bits r.ext 0 2)).code } : LRaw).putD r.dst))
    (hwf : i.wf c = true ↔ True) (hop : r.op.toNat = op.toNat) :
    LForm.Exact c r ((((r.base i).aP r).ext r 0x13).dDst r false |>.subBad 32 ((bits r.ext 0 2).toNat == 3)) := by
  have h1 := pField_iff r.a
  have h2 := vote_ext r
  have h3 := sField_iff r.d
  rw [LForm.exact_iff rfl henc hwf (by simpa [putD_dst] using hop)]
  simp [putD_dst]
  grind [selCode_eq_iff, selBad_eq_false, toNat_eq_zero_iff]

theorem xprefix_exact
    (henc : encodeLRaw i = some ({ (lraw op r.mods).dat r.d r.a r.t with
      rm := (rmOf r.rm).code, ext := (0 : BitVec 2) ++ BitVec.ofBool (bit r.ext 3) ++ (xopOf (bits r.ext 0 3)).code }))
    (hwf : i.wf c = true ↔ ok = true ∧ vOk r.t r.d = true ∧ vOk r.t r.a = true) (hop : r.op.toNat = op.toNat) :
    LForm.Exact c r ((((r.base i).dV r r.t).aV r r.t).ext r 0xF |>.types ok |>.subBad 32 (decide (5 < (bits r.ext 0
        3).toNat)) |>.rmOk r) := by
  have h1 := xprefix_ext r
  rw [LForm.exact_iff rfl henc hwf hop]
  simp
  grind [selCode_eq_iff, selBad_eq_false, toNat_eq_zero_iff]

theorem xreduce_exact
    (henc : encodeLRaw i = some (({ (lraw op r.mods).dat 0 r.a r.t with
      rm := (rmOf r.rm).code, ext := (0 : BitVec 3) ++ (xopOf (bits r.ext 0 3)).code } : LRaw).putD r.dst))
    (hwf : i.wf c = true ↔ ok = true ∧ vOk r.t r.a = true ∧ (r.t.is64 = true → even r.d = true)) (hop : r.op.toNat =
        op.toNat) :
    LForm.Exact c r ((((r.base i).aV r r.t).ext r 0x17).dDst r r.t.is64 |>.types ok |>.subBad 32 (decide (5 < (bits
        r.ext 0 3).toNat)) |>.rmOk r) := by
  have h1 := xreduce_ext r
  have h2 := sField_iff r.d
  rw [LForm.exact_iff rfl henc hwf (by simpa [putD_dst] using hop)]
  simp [putD_dst]
  grind [selCode_eq_iff, selBad_eq_false, toNat_eq_zero_iff]

theorem lbrc_exact
    (henc : encodeLRaw i = some ({ lraw op r.mods with imm := bits r.imm 16 16 ++ bits r.imm 0 16 }))
    (hwf : i.wf c = true ↔ True) (hop : r.op.toNat = op.toNat) :
    LForm.Exact c r ((r.base i).imm) := by
  have h1 := append_bits (m := 16) (n := 16) r.imm
  rw [LForm.exact_iff rfl henc hwf hop]
  simp
  grind [selCode_eq_iff, selBad_eq_false, toNat_eq_zero_iff]

theorem bare_exact
    (henc : encodeLRaw i = some (lraw op (noGuard r.nf r.sw)))
    (hwf : i.wf c = true ↔ True) (hop : r.op.toNat = op.toNat) :
    LForm.Exact c r ((r.base i).pg0 r) := by
  rw [LForm.exact_iff rfl henc hwf hop]
  simp [noGuard]
  grind [selCode_eq_iff, selBad_eq_false, toNat_eq_zero_iff]

theorem jump_exact
    (henc : encodeLRaw i = some ({ lraw op (noGuard r.nf r.sw) with imm := r.imm }))
    (hwf : i.wf c = true ↔ True) (hop : r.op.toNat = op.toNat) :
    LForm.Exact c r (((r.base i).imm).pg0 r) := by
  rw [LForm.exact_iff rfl henc hwf hop]
  simp [noGuard]
  grind [selCode_eq_iff, selBad_eq_false, toNat_eq_zero_iff]

theorem lkill_exact
    (henc : encodeLRaw i = some (lraw op r.mods))
    (hwf : i.wf c = true ↔ True) (hop : r.op.toNat = op.toNat) :
    LForm.Exact c r (r.base i) := by
  rw [LForm.exact_iff rfl henc hwf hop]
  simp
  grind [selCode_eq_iff, selBad_eq_false, toNat_eq_zero_iff]

theorem spawn_exact
    (henc : encodeLRaw i = some ({ lraw op r.mods with a := r.a, imm := r.imm }))
    (hwf : i.wf c = true ↔ runOk r.a 4 = true) (hop : r.op.toNat = op.toNat) :
    LForm.Exact c r (((r.base i).imm).aRun r 4) := by
  rw [LForm.exact_iff rfl henc hwf hop]
  simp
  grind [selCode_eq_iff, selBad_eq_false, toNat_eq_zero_iff]

theorem ld_exact
    (henc : encodeLRaw i = some (({ ((lraw op r.mods).dat r.d ((r.a.setWidth 4).setWidth 8) r.t).putOrd (ordOpt 1 r.optScope).1 (ordOpt 1 r.optScope).2 with
      imm := r.imm } : LRaw).putBs r.opBs))
    (hwf : i.wf c = true ↔ ok = true ∧ arrOk c r.t (r.a.setWidth 4) = true ∧ vOk r.t r.d = true) (hop : r.op.toNat =
        op.toNat) :
    LForm.Exact c r (((((r.base i).dV r r.t).aArr r).bSel r .i32).imm |>.ordScope r (r.ordC == 0 || r.ordC == 1) true
        |>.arr c r ok) := by
  have h1 := ld_ext r
  have h2 := aField_iff r.a
  rw [LForm.exact_iff rfl henc hwf (by simpa [i32_is64, i32_vOk, LRaw.putOrd] using hop)]
  simp [i32_is64, i32_vOk, LRaw.putOrd]
  grind [selCode_eq_iff, selBad_eq_false, toNat_eq_zero_iff]

theorem st_exact
    (henc : encodeLRaw i = some (({ ((lraw op r.mods).dat 0 ((r.a.setWidth 4).setWidth 8) r.t).putOrd (ordOpt 2 r.optScope).1 (ordOpt 2 r.optScope).2 with
      imm := r.imm, c := r.c } : LRaw).putBs r.opBs))
    (hwf : i.wf c = true ↔ ok = true ∧ arrOk c r.t (r.a.setWidth 4) = true ∧ vOk r.t r.c = true) (hop : r.op.toNat =
        op.toNat) :
    LForm.Exact c r (((((r.base i).cV r r.t).aArr r).bSel r .i32).imm |>.ordScope r (r.ordC == 0 || r.ordC == 2) true
        |>.arr c r ok) := by
  have h1 := st_ext r
  have h2 := aField_iff r.a
  rw [LForm.exact_iff rfl henc hwf (by simpa [i32_is64, i32_vOk, LRaw.putOrd] using hop)]
  simp [i32_is64, i32_vOk, LRaw.putOrd]
  grind [selCode_eq_iff, selBad_eq_false, toNat_eq_zero_iff]

theorem lds_exact
    (henc : encodeLRaw i = some (({ (lraw op r.mods).dat r.d ((r.a.setWidth 4).setWidth 8) r.t with imm := r.imm } : LRaw).putBs r.opBs))
    (hwf : i.wf c = true ↔ ok = true ∧ arrOk c r.t (r.a.setWidth 4) = true ∧ vOk r.t r.d = true) (hop : r.op.toNat =
        op.toNat) :
    LForm.Exact c r (((((r.base i).dV r r.t).aArr r).bSel r .i32).imm |>.arr c r ok) := by
  have h1 := aField_iff r.a
  rw [LForm.exact_iff rfl henc hwf (by simpa [i32_is64, i32_vOk] using hop)]
  simp [i32_is64, i32_vOk]
  grind [selCode_eq_iff, selBad_eq_false, toNat_eq_zero_iff]

theorem sts_exact
    (henc : encodeLRaw i = some (({ (lraw op r.mods).dat 0 ((r.a.setWidth 4).setWidth 8) r.t with imm := r.imm, c := r.c } : LRaw).putBs r.opBs))
    (hwf : i.wf c = true ↔ ok = true ∧ arrOk c r.t (r.a.setWidth 4) = true ∧ vOk r.t r.c = true) (hop : r.op.toNat =
        op.toNat) :
    LForm.Exact c r (((((r.base i).cV r r.t).aArr r).bSel r .i32).imm |>.arr c r ok) := by
  have h1 := aField_iff r.a
  rw [LForm.exact_iff rfl henc hwf (by simpa [i32_is64, i32_vOk] using hop)]
  simp [i32_is64, i32_vOk]
  grind [selCode_eq_iff, selBad_eq_false, toNat_eq_zero_iff]

theorem cst_exact
    (henc : encodeLRaw i = some (({ (lraw op r.mods).dat 0 ((r.a.setWidth 4).setWidth 8) r.t with c := r.c } : LRaw).putU (uniOf r.b) r.imm))
    (hwf : i.wf c = true ↔ ok = true ∧ arrOk c r.t (r.a.setWidth 4) = true ∧ vOk r.t r.c = true) (hop : r.op.toNat =
        op.toNat) :
    LForm.Exact c r (((((r.base i).cV r r.t).aArr r).bUni r).imm |>.arr c r ok) := by
  have h1 := aField_iff r.a
  rw [LForm.exact_iff rfl henc hwf hop]
  simp [LRaw.putU]
  grind [selCode_eq_iff, selBad_eq_false, toNat_eq_zero_iff]

theorem xlde_exact
    (henc : encodeLRaw i = some (((lraw op r.mods).dat r.d ((r.a.setWidth 4).setWidth 8) r.t).putU (uniOf r.b) r.imm))
    (hwf : i.wf c = true ↔ ok = true ∧ arrOk c r.t (r.a.setWidth 4) = true ∧ vOk r.t r.d = true) (hop : r.op.toNat =
        op.toNat) :
    LForm.Exact c r (((((r.base i).dV r r.t).aArr r).bUni r).imm |>.arr c r ok) := by
  have h1 := aField_iff r.a
  rw [LForm.exact_iff rfl henc hwf hop]
  simp [LRaw.putU]
  grind [selCode_eq_iff, selBad_eq_false, toNat_eq_zero_iff]

theorem lfence_exact
    (henc : encodeLRaw i = some ((lraw op (noGuard r.nf r.sw)).putOrd (fordOf r.ordC).code (scopeOf r.scopeC).code))
    (hwf : i.wf c = true ↔ True) (hop : r.op.toNat = op.toNat) :
    LForm.Exact c r (((r.base i).ordScope r (r.ordC != 0) false).pg0 r) := by
  have h1 := lfence_ext r
  rw [LForm.exact_iff rfl henc hwf hop]
  simp [noGuard, LRaw.putOrd]
  grind [selCode_eq_iff, selBad_eq_false, toNat_eq_zero_iff]

theorem atom_exact
    (henc : encodeLRaw i = some (({ ((lraw op r.mods).dat r.d ((r.a.setWidth 4).setWidth 8) r.t).putOrd
      (aordOf r.ordC r.scopeC).ordCode (aordOf r.ordC r.scopeC).scopeCode with imm := r.imm, c := r.c } : LRaw).putBs r.opBs))
    (hwf : i.wf c = true ↔ ok = true ∧ arrOk c r.t (r.a.setWidth 4) = true ∧ vOk r.t r.d = true ∧ vOk r.t r.c = true)
        (hop : r.op.toNat = op.toNat) :
    LForm.Exact c r ((((((r.base i).dV r r.t).cV r r.t).aArr r).bSel r .i32).imm |>.ordScope r true true |>.arr c r
        ok) := by
  have h1 := atom_ext r
  have h2 := aField_iff r.a
  rw [LForm.exact_iff rfl henc hwf (by simpa [i32_is64, i32_vOk, LRaw.putOrd] using hop)]
  simp [i32_is64, i32_vOk, LRaw.putOrd]
  grind [selCode_eq_iff, selBad_eq_false, toNat_eq_zero_iff]

theorem cas_exact
    (henc : encodeLRaw i = some (({ ((lraw op r.mods).dat r.d ((r.a.setWidth 4).setWidth 8) r.t).putOrd
      (aordOf r.ordC r.scopeC).ordCode (aordOf r.ordC r.scopeC).scopeCode with imm := r.imm, c := r.c } : LRaw).putBs r.opBs))
    (hwf : i.wf c = true ↔ ok = true ∧ arrOk c r.t (r.a.setWidth 4) = true ∧ vOk r.t r.d = true ∧ casOk r.t r.c =
        true) (hop : r.op.toNat = op.toNat) :
    LForm.Exact c r ((((((r.base i).dV r r.t).cCas r).aArr r).bSel r .i32).imm |>.ordScope r true true |>.arr c r ok)
        := by
  have h1 := atom_ext r
  have h2 := aField_iff r.a
  rw [LForm.exact_iff rfl henc hwf (by simpa [i32_is64, i32_vOk, LRaw.putOrd] using hop)]
  simp [i32_is64, i32_vOk, LRaw.putOrd]
  grind [selCode_eq_iff, selBad_eq_false, toNat_eq_zero_iff]

theorem mma_exact {k : Nat}
    (henc : encodeLRaw i = some ({ (lraw op (noGuard r.nf r.sw)).dat r.d r.a r.t with b := r.b, rm := (rmOf r.rm).code }))
    (hwf : i.wf c = true ↔ ok = true ∧ zOk c r.d = true ∧ runOk r.a 16 = true ∧ runOk r.b k = true) (hop : r.op.toNat
        = op.toNat) :
    LForm.Exact c r (((((r.base i).dZ r c).aRun r 16).bRun r k).types ok |>.rmOk r |>.pg0 r) := by
  rw [LForm.exact_iff rfl henc hwf hop]
  simp [noGuard]
  grind [selCode_eq_iff, selBad_eq_false, toNat_eq_zero_iff]

theorem mldf_exact {k : Nat}
    (henc : encodeLRaw i = some (({ lraw op (noGuard r.nf r.sw) with d := r.d, ext := (0 : BitVec 5) ++ BitVec.ofBool (bit r.ext 0) } : LRaw).putU (uniOf r.b) r.imm))
    (hwf : i.wf c = true ↔ runOk r.d k = true) (hop : r.op.toNat = op.toNat) :
    LForm.Exact c r (((((r.base i).dRun r k).bUni r).imm).ext r 1 |>.pg0 r) := by
  have h1 := frag_ext r
  rw [LForm.exact_iff rfl henc hwf hop]
  simp [noGuard, LRaw.putU]
  grind [selCode_eq_iff, selBad_eq_false, toNat_eq_zero_iff]

theorem mzero_exact
    (henc : encodeLRaw i = some ({ lraw op (noGuard r.nf r.sw) with d := r.d }))
    (hwf : i.wf c = true ↔ zOk c r.d = true) (hop : r.op.toNat = op.toNat) :
    LForm.Exact c r (((r.base i).dZ r c).pg0 r) := by
  rw [LForm.exact_iff rfl henc hwf hop]
  simp [noGuard]
  grind [selCode_eq_iff, selBad_eq_false, toNat_eq_zero_iff]

theorem maccld_exact
    (henc : encodeLRaw i = some (({ lraw op (noGuard r.nf r.sw) with d := r.d } : LRaw).putU (uniOf r.b) r.imm))
    (hwf : i.wf c = true ↔ zOk c r.d = true) (hop : r.op.toNat = op.toNat) :
    LForm.Exact c r ((((r.base i).dZ r c).bUni r).imm |>.pg0 r) := by
  rw [LForm.exact_iff rfl henc hwf hop]
  simp [noGuard, LRaw.putU]
  grind [selCode_eq_iff, selBad_eq_false, toNat_eq_zero_iff]

theorem maccst_exact
    (henc : encodeLRaw i = some (({ lraw op (noGuard r.nf r.sw) with a := r.a } : LRaw).putU (uniOf r.b) r.imm))
    (hwf : i.wf c = true ↔ zOk c r.a = true) (hop : r.op.toNat = op.toNat) :
    LForm.Exact c r ((((r.base i).aZ r c).bUni r).imm |>.pg0 r) := by
  rw [LForm.exact_iff rfl henc hwf hop]
  simp [noGuard, LRaw.putU]
  grind [selCode_eq_iff, selBad_eq_false, toNat_eq_zero_iff]

theorem tvbegin_exact
    (henc : encodeLRaw i = some ({ lraw op r.mods with
      d := r.d, a := r.a, b := r.b, c := (uniOf r.c).code, sc := true, imm := (0 : BitVec 28) ++ bits r.imm 0 4 }))
    (hwf : i.wf c = true ↔ even r.a = true ∧ (uniOf r.c).pairOk = true) (hop : r.op.toNat = op.toNat) :
    LForm.Exact c r ((((((r.base i).dV1).aPair r).bV1).cUni r true).lay r |>.tyResv r) := by
  have h1 := lay_iff r.imm
  rw [LForm.exact_iff rfl henc hwf hop]
  simp
  grind [selCode_eq_iff, selBad_eq_false, toNat_eq_zero_iff]

theorem tvret_exact
    (henc : encodeLRaw i = some ({ lraw op r.mods with a := r.a, b := r.b }))
    (hwf : i.wf c = true ↔ True) (hop : r.op.toNat = op.toNat) :
    LForm.Exact c r ((((r.base i).aV1).bV1).tyResv r) := by
  rw [LForm.exact_iff rfl henc hwf hop]
  simp
  grind [selCode_eq_iff, selBad_eq_false, toNat_eq_zero_iff]

theorem tvcut_exact
    (henc : encodeLRaw i = some ({ lraw op r.mods with a := r.a, b := r.b, c := (uniOf r.c).code, sc := true }))
    (hwf : i.wf c = true ↔ (uniOf r.c).pairOk = true) (hop : r.op.toNat = op.toNat) :
    LForm.Exact c r (((((r.base i).aV1).bV1).cUni r true).tyResv r) := by
  rw [LForm.exact_iff rfl henc hwf hop]
  simp
  grind [selCode_eq_iff, selBad_eq_false, toNat_eq_zero_iff]

theorem tvresume_exact
    (henc : encodeLRaw i = some ({ lraw op r.mods with d := r.d, a := r.a }))
    (hwf : i.wf c = true ↔ even r.a = true) (hop : r.op.toNat = op.toNat) :
    LForm.Exact c r ((((r.base i).dV1).aPair r).tyResv r) := by
  rw [LForm.exact_iff rfl henc hwf hop]
  simp
  grind [selCode_eq_iff, selBad_eq_false, toNat_eq_zero_iff]

theorem tvbound_exact
    (henc : encodeLRaw i = some ({ lraw op r.mods with a := r.a }))
    (hwf : i.wf c = true ↔ True) (hop : r.op.toNat = op.toNat) :
    LForm.Exact c r (((r.base i).aV1).tyResv r) := by
  rw [LForm.exact_iff rfl henc hwf hop]
  simp
  grind [selCode_eq_iff, selBad_eq_false, toNat_eq_zero_iff]

theorem tvstat_exact
    (henc : encodeLRaw i = some ({ lraw op r.mods with d := r.d, a := r.a }))
    (hwf : i.wf c = true ↔ True) (hop : r.op.toNat = op.toNat) :
    LForm.Exact c r ((((r.base i).dV1).aV1).tyResv r) := by
  rw [LForm.exact_iff rfl henc hwf hop]
  simp
  grind [selCode_eq_iff, selBad_eq_false, toNat_eq_zero_iff]

end Shapes

/-! ### What well-formedness asks, in the form the shapes take it -/

theorem true_iff_true : true = true ↔ True := iff_true_intro rfl
theorem and2_iff {a b : Bool} : (a && b) = true ↔ a = true ∧ b = true := Bool.and_eq_true_iff
theorem and3_iff {a b c : Bool} : (a && b && c) = true ↔ a = true ∧ b = true ∧ c = true := by
  simp only [Bool.and_eq_true, and_assoc]
theorem and4_iff {a b c d : Bool} : (a && b && c && d) = true ↔ a = true ∧ b = true ∧ c = true ∧ d = true := by
  simp only [Bool.and_eq_true, and_assoc]
theorem and5_iff {a b c d e : Bool} :
    (a && b && c && d && e) = true ↔ a = true ∧ b = true ∧ c = true ∧ d = true ∧ e = true := by
  simp only [Bool.and_eq_true, and_assoc]
theorem and4_noC_iff {a b c d : Bool} {p : Prop} :
    (a && b && c && d) = true ↔ a = true ∧ b = true ∧ c = true ∧ d = true ∧ (false = true → p) := by
  simp [and_assoc]
theorem and5_withC_iff {a b c d e : Bool} :
    (a && b && c && d && e) = true ↔ a = true ∧ b = true ∧ c = true ∧ d = true ∧ (true = true → e = true) := by
  simp [and_assoc]

theorem Ty.single_of_flt5 {t : Ty} : t.flt5 = true → t.is64 = false := by cases t <;> decide
theorem Ty.single_of_flt3 {t : Ty} : t.flt3 = true → t.is64 = false := by cases t <;> decide
theorem vOk_single {t : Ty} (h : t.is64 = false) (x : BitVec 8) : vOk t x = true := by simp [vOk, h]
theorem opB_ok_single {t : Ty} (h : t.is64 = false) (r : LRaw) : r.opB.ok t = true := by simp [h, vOk_single]
theorem opC_ok_single {t : Ty} (h : t.is64 = false) (r : LRaw) : r.opC.ok t = true := by simp [h, vOk_single]

section Single
variable {ok : Bool} (r : LRaw) (hs : ok = true → r.t.is64 = false)
include hs

/-- A type of single registers asks nothing of their numbers. -/
theorem single_abc_iff : ok = true ↔ ok = true ∧ vOk r.t r.d = true ∧ vOk r.t r.a = true ∧ r.opB.ok r.t = true ∧
    (true = true → r.opC.ok r.t = true) :=
  ⟨fun h => ⟨h, vOk_single (hs h) _, vOk_single (hs h) _, opB_ok_single (hs h) r, fun _ => opC_ok_single (hs h) r⟩,
    fun h => h.1⟩

theorem single_ab_iff {p : Prop} : ok = true ↔ ok = true ∧ vOk r.t r.d = true ∧ vOk r.t r.a = true ∧
    r.opB.ok r.t = true ∧ (false = true → p) :=
  ⟨fun h => ⟨h, vOk_single (hs h) _, vOk_single (hs h) _, opB_ok_single (hs h) r, nofun⟩, fun h => h.1⟩

theorem single_a_iff : ok = true ↔ ok = true ∧ vOk r.t r.d = true ∧ vOk r.t r.a = true :=
  ⟨fun h => ⟨h, vOk_single (hs h) _, vOk_single (hs h) _⟩, fun h => h.1⟩

theorem single_cmp_iff {q : Bool} : (ok && q) = true ↔ ok = true ∧ q = true ∧ vOk r.t r.a = true ∧ r.opB.ok r.t = true := by
  rw [Bool.and_eq_true]
  exact ⟨fun h => ⟨h.1, h.2, vOk_single (hs h.1) _, opB_ok_single (hs h.1) r⟩, fun h => ⟨h.1, h.2.1⟩⟩

end Single

/-- The two types of ICVT. -/
theorem icvt_wf_iff {t s d a : Bool} : (t && s && d && a) = true ↔ ((!s) = false ∧ (!t) = false) ∧ d = true ∧ a = true := by
  cases t <;> cases s <;> simp

/-- The two types of FCVT. -/
theorem fcvt_wf_iff {t s : Ty} {d a : Bool} : (t.fcvt s && d && a) = true ↔
    ((s == .l6 || (t != .l6 && !t.fcvt s)) = false ∧ (t == .l6) = false) ∧ d = true ∧ a = true := by
  have h : t.fcvt s = true ↔ (s == .l6 || (t != .l6 && !t.fcvt s)) = false ∧ (t == .l6) = false := by
    cases t <;> cases s <;> decide
  rw [and3_iff, h]

/-- The two types of LCVT. -/
theorem lcvt_wf_iff {t s : Ty} : t.lcvt s = true ↔
    (!t.lcvt s && (!s.lcvtAny || t.lcvtAny)) = false ∧ (!t.lcvt s && !t.lcvtAny) = false := by
  cases t <;> cases s <;> decide

theorem even_setWidth : ∀ x : BitVec 8, even (x.setWidth 6) = even x := by decide

/-- A destination pair. -/
theorem dst_pair_iff (r : LRaw) (w : Bool) :
    (match r.dst with | .v n => !w || even n | .s n => !w || even n) = true ↔ (w = true → even r.d = true) := by
  unfold LRaw.dst
  cases r.sd <;> cases w <;> simp [even_setWidth]

theorem xballot_wf_iff (c : Ctx) (r : LRaw) (m : Mods) (a : BitVec 3) :
    (Instr.xballot m r.dst a).wf c = true ↔ (c.w64 = true → even r.d = true) :=
  dst_pair_iff r c.w64

theorem xreduce_wf_iff (c : Ctx) (r : LRaw) (m : Mods) (rm : Rm) (op : XOp) :
    (Instr.xreduce m r.t rm op r.dst r.a).wf c = true ↔
      r.t.scan op = true ∧ vOk r.t r.a = true ∧ (r.t.is64 = true → even r.d = true) :=
  and3_iff.trans (and_congr_right' (and_congr_right' (dst_pair_iff r r.t.is64)))

/-- The lane CWAIT's counter code and the mark of its immediate (R61). -/
theorem cwait_ext (r : LRaw) : (r.ext &&& ~~~(if r.ib then 0x23 else 3)).toNat = 0 ∧ (bits r.ext 0 2).toNat ≠ 3 ↔
    (if r.ib then (0x8 : BitVec 4) ++ (ctrOf (bits r.ext 0 2)).code else (0 : BitVec 4) ++ (ctrOf (bits r.ext 0
        2)).code) = r.ext := by
  have h : ∀ x : BitVec 6, (x &&& ~~~(if bit x 5 then 0x23 else 3)).toNat = 0 ∧ (bits x 0 2).toNat ≠ 3 ↔
    (if bit x 5 then (0x8 : BitVec 4) ++ (ctrOf (bits x 0 2)).code else (0 : BitVec 4) ++ (ctrOf (bits x 0 2)).code) =
        x := by decide
  exact h r.ext

theorem laneCwait_exact {c : Ctx} {r : LRaw} (hop : r.op.toNat = 0x078) : LForm.Exact c r
    (((r.base (.laneCwait r.mods (ctrOf (bits r.ext 0 2)) (if r.ib then .imm r.imm else .u (uniOf r.b)))).bCw
        r).subBad 32
      ((bits r.ext 0 2).toNat == 3)) := by
  have hext := cwait_ext r
  cases hb : r.ib
  · rw [hb] at hext
    rw [LForm.exact_iff (i := .laneCwait r.mods (ctrOf (bits r.ext 0 2)) (.u (uniOf r.b))) (by simp [LForm.bCw, hb])
        rfl true_iff_true hop]
    simp [LForm.bCw, hb]
    grind [selCode_eq_iff, selBad_eq_false, toNat_eq_zero_iff]
  · rw [hb] at hext
    rw [LForm.exact_iff (i := .laneCwait r.mods (ctrOf (bits r.ext 0 2)) (.imm r.imm)) (by simp [LForm.bCw, hb]) rfl
        true_iff_true hop]
    simp [LForm.bCw, hb]
    grind [selCode_eq_iff, selBad_eq_false, toNat_eq_zero_iff]

theorem laneForm_exact {c : Ctx} {r : LRaw} {f : LForm} (h : laneForm c r = some f) : f.Exact c r := by
  unfold laneForm at h
  split at h
  case h_1 hop | h_2 hop | h_3 hop =>
    cases h
    exact dab_exact false true false rfl and4_noC_iff hop
  case h_4 hop | h_8 hop | h_9 hop | h_11 hop | h_12 hop | h_13 hop | h_15 hop | h_16 hop | h_17 hop =>
    cases h
    exact dab_exact false false false rfl and4_noC_iff hop
  case h_5 hop =>
    cases h
    exact dab_exact true true false rfl and5_withC_iff hop
  case h_6 hop | h_7 hop =>
    cases h
    exact da_exact true false rfl and3_iff hop
  case h_10 hop =>
    cases h
    exact dab_exact true false false rfl and5_withC_iff hop
  case h_14 hop | h_18 hop | h_19 hop | h_20 hop | h_25 hop =>
    cases h
    exact da_exact false false rfl and3_iff hop
  case h_21 hop =>
    cases h
    exact ibfx_exact rfl and4_iff hop
  case h_22 hop =>
    cases h
    exact ibfi_exact rfl and5_iff hop
  case h_23 hop =>
    cases h
    exact icmp_exact rfl and5_iff hop
  case h_24 hop =>
    cases h
    exact isel_exact rfl and4_iff hop
  case h_26 hop =>
    cases h
    exact imovi_exact rfl and2_iff hop
  case h_27 hop =>
    cases h
    exact cvt_exact rfl icvt_wf_iff hop
  case h_28 hop | h_29 hop =>
    cases h
    exact range_exact rfl true_iff_true hop
  case h_30 hop | h_31 hop | h_32 hop =>
    cases h
    exact dab_exact false false true rfl (single_ab_iff r Ty.single_of_flt5) hop
  case h_33 hop =>
    cases h
    exact dab_exact true false true rfl (single_abc_iff r Ty.single_of_flt5) hop
  case h_34 hop | h_35 hop =>
    cases h
    exact dab_exact false false false rfl (single_ab_iff r Ty.single_of_flt5) hop
  case h_36 hop =>
    cases h
    exact fcmp_exact rfl (single_cmp_iff r Ty.single_of_flt3) hop
  case h_37 hop | h_38 hop | h_39 hop | h_41 hop | h_42 hop =>
    cases h
    exact da_exact false true rfl (single_a_iff r Ty.single_of_flt3) hop
  case h_40 hop =>
    cases h
    exact dab_exact false false true rfl (single_ab_iff r Ty.single_of_flt3) hop
  case h_43 hop =>
    cases h
    exact da_exact false true rfl (single_a_iff r Ty.single_of_flt5) hop
  case h_44 hop =>
    cases h
    exact cvt_exact rfl fcvt_wf_iff hop
  case h_45 hop =>
    cases h
    exact da_exact false false rfl (single_a_iff r Ty.single_of_flt3) hop
  case h_46 hop =>
    cases h
    exact lmul_exact rfl true_iff_true hop
  case h_47 hop =>
    cases h
    exact lcvt_exact rfl lcvt_wf_iff hop
  case h_48 hop | h_49 hop | h_50 hop =>
    cases h
    exact pred2_exact rfl Iff.rfl hop
  case h_51 hop | h_52 hop =>
    cases h
    exact pred1_exact rfl Iff.rfl hop
  case h_53 hop =>
    cases h
    exact exmget_exact rfl Iff.rfl hop
  case h_54 hop =>
    cases h
    exact exmset_exact rfl true_iff_true hop
  case h_55 hop =>
    cases h
    exact fxget_exact rfl true_iff_true hop
  case h_56 hop =>
    cases h
    exact fxset_exact rfl true_iff_true hop
  case h_57 hop =>
    cases h
    exact xshfl_exact rfl and3_iff hop
  case h_58 hop =>
    cases h
    exact xbcast_exact rfl and3_iff hop
  case h_59 hop =>
    cases h
    exact xballot_exact rfl (xballot_wf_iff ..) hop
  case h_60 hop =>
    cases h
    exact xvote_exact rfl true_iff_true hop
  case h_61 hop =>
    cases h
    exact xprefix_exact rfl and3_iff hop
  case h_62 hop =>
    cases h
    exact xreduce_exact rfl (xreduce_wf_iff ..) hop
  case h_63 hop =>
    cases h
    exact lbrc_exact rfl true_iff_true hop
  case h_64 hop | h_67 hop | h_68 hop | h_87 hop | h_88 hop =>
    cases h
    exact bare_exact rfl true_iff_true hop
  case h_65 hop | h_66 hop =>
    cases h
    exact jump_exact rfl true_iff_true hop
  case h_69 hop =>
    cases h
    exact lkill_exact rfl true_iff_true hop
  case h_70 hop =>
    cases h
    exact spawn_exact rfl Iff.rfl hop
  case h_71 hop =>
    cases h
    exact laneCwait_exact hop
  case h_72 hop =>
    cases h
    exact ld_exact rfl and3_iff hop
  case h_73 hop =>
    cases h
    exact st_exact rfl and3_iff hop
  case h_74 hop =>
    cases h
    exact lds_exact rfl and3_iff hop
  case h_75 hop =>
    cases h
    exact sts_exact rfl and3_iff hop
  case h_76 hop =>
    cases h
    exact cst_exact rfl and3_iff hop
  case h_77 hop =>
    cases h
    exact xlde_exact rfl and3_iff hop
  case h_78 hop =>
    cases h
    exact lfence_exact rfl true_iff_true hop
  case h_79 hop | h_80 hop | h_81 hop | h_82 hop | h_83 hop | h_84 hop | h_85 hop =>
    cases h
    exact atom_exact rfl and4_iff hop
  case h_86 hop =>
    cases h
    exact cas_exact rfl and4_iff hop
  case h_89 hop =>
    cases h
    exact mma_exact rfl and4_iff hop
  case h_90 hop =>
    cases h
    exact mldf_exact rfl Iff.rfl hop
  case h_91 hop =>
    cases h
    exact mzero_exact rfl Iff.rfl hop
  case h_92 hop =>
    cases h
    exact maccld_exact rfl Iff.rfl hop
  case h_93 hop =>
    cases h
    exact maccst_exact rfl Iff.rfl hop
  case h_94 hop =>
    cases h
    exact tvbegin_exact rfl and2_iff hop
  case h_95 hop =>
    cases h
    exact tvret_exact rfl true_iff_true hop
  case h_96 hop =>
    cases h
    exact tvcut_exact rfl Iff.rfl hop
  case h_97 hop =>
    cases h
    exact tvresume_exact rfl Iff.rfl hop
  case h_98 hop =>
    cases h
    exact tvbound_exact rfl true_iff_true hop
  case h_99 hop =>
    cases h
    exact tvstat_exact rfl true_iff_true hop
  case h_100 => cases h

end Sys2Proof
end

section
/-!
PROOFS. Decoding: decoding gives an encoded instruction back, and a word that decodes is its instruction's (R52 to R68).
-/
namespace Sys2Proof

/-! ### The fields of an instruction's word are read back -/

@[simp] theorem tyOf_code_self (x : Ty) : tyOf x.code = x := by cases x <;> rfl
@[simp] theorem rmOf_code_self (x : Rm) : rmOf x.code = x := by cases x <;> rfl
@[simp] theorem condOf_code_self (x : Cond) : condOf x.code = x := by cases x <;> rfl
@[simp] theorem shflOf_code_self (x : Shfl) : shflOf x.code = x := by cases x <;> rfl
@[simp] theorem voteOf_code_self (x : Vote) : voteOf x.code = x := by cases x <;> rfl
@[simp] theorem xopOf_code_self (x : XOp) : xopOf x.code = x := by cases x <;> rfl
@[simp] theorem aordOf_code_self (x : AOrd) : aordOf x.ordCode x.scopeCode = x := by
  rcases x with _ | s | s | s
  · rfl
  all_goals cases s <;> rfl
@[simp] theorem ordOpt_read (x : Option Scope) :
    (if ((ordOpt 1#2 x).1 == 0#2) = true then none else some (scopeOf (ordOpt 1#2 x).2)) = x ∧
    (if ((ordOpt 2#2 x).1 == 0#2) = true then none else some (scopeOf (ordOpt 2#2 x).2)) = x := by
  cases x
  · exact ⟨rfl, rfl⟩
  · exact ⟨congrArg some (scopeOf_code_self _), congrArg some (scopeOf_code_self _)⟩
@[simp] theorem uniOf_code_self (x : Uni) : uniOf x.code = x := by
  cases x with
  | s n => revert n; decide
  | k n => revert n; decide
theorem uni_code_ne_lid (x : Uni) : x.code.toNat ≠ 80 := by
  cases x with
  | s n => revert n; decide
  | k n => revert n; decide

namespace LRaw
variable (x : LRaw)

@[simp] theorem putB_rest (b : OpB) : (x.putB b).d = x.d ∧ (x.putB b).a = x.a ∧ (x.putB b).neg = x.neg ∧
    (x.putB b).p = x.p ∧ (x.putB b).ty = x.ty ∧ (x.putB b).rm = x.rm ∧ (x.putB b).sat = x.sat ∧ (x.putB b).nf = x.nf ∧
    (x.putB b).sw = x.sw ∧ (x.putB b).c = x.c ∧ (x.putB b).sc = x.sc := by
  cases b <;> simp [putB]

@[simp] theorem putBs_rest (b : OpC) : (x.putBs b).d = x.d ∧ (x.putBs b).a = x.a ∧ (x.putBs b).neg = x.neg ∧
    (x.putBs b).p = x.p ∧ (x.putBs b).ty = x.ty ∧ (x.putBs b).nf = x.nf ∧ (x.putBs b).sw = x.sw ∧
    (x.putBs b).c = x.c ∧ (x.putBs b).ext = x.ext ∧ (x.putBs b).imm = x.imm := by
  cases b <;> simp [putBs]

@[simp] theorem putC_rest (b : OpC) : (x.putC b).d = x.d ∧ (x.putC b).a = x.a ∧ (x.putC b).neg = x.neg ∧
    (x.putC b).p = x.p ∧ (x.putC b).ty = x.ty ∧ (x.putC b).rm = x.rm ∧ (x.putC b).sat = x.sat ∧ (x.putC b).nf = x.nf ∧
    (x.putC b).sw = x.sw ∧ (x.putC b).opB = x.opB := by
  cases b <;> exact ⟨rfl, rfl, rfl, rfl, rfl, rfl, rfl, rfl, rfl, rfl⟩

@[simp] theorem putD_rest (d : Dst) : (x.putD d).a = x.a ∧ (x.putD d).neg = x.neg ∧ (x.putD d).p = x.p ∧
    (x.putD d).ty = x.ty ∧ (x.putD d).rm = x.rm ∧ (x.putD d).nf = x.nf ∧ (x.putD d).sw = x.sw := by
  cases d <;> simp [putD]

@[simp] theorem opB_putB_self (b : OpB) (hsb : x.sb = false) (hib : bit x.ext 5 = false) : (x.putB b).opB = b := by
  have hmark : ∀ e : BitVec 6, bit (e ||| 0x20#6) 5 = true := by decide
  cases b <;> simp [putB, opB, ib, hsb, hib, uni_code_ne_lid, hmark]

@[simp] theorem opBs_putBs_self (b : OpC) (hsb : x.sb = false) : (x.putBs b).opBs = b := by
  cases b <;> simp [putBs, opBs, hsb, uni_code_ne_lid]

@[simp] theorem opC_putC_self (b : OpC) (hsc : x.sc = false) : (x.putC b).opC = b := by
  cases b <;> simp [putC, opC, hsc, uni_code_ne_lid]

@[simp] theorem dst_putD_self (d : Dst) (hsd : bit x.ext 4 = false) : (x.putD d).dst = d := by
  have hmark : ∀ e : BitVec 6, bit (e ||| 0x10#6) 4 = true := by decide
  cases d <;> simp [putD, dst, sd, hsd, hmark, setWidth_setWidth_self]

@[simp] theorem putOrd_read (o : BitVec 2) (s : BitVec 3) : bits (w := 6) (o ++ s ++ 0#1) 4 2 = o ∧
    bits (w := 6) (o ++ s ++ 0#1) 1 3 = s := by
  revert o s; decide

/-- The low bits of ext stay under the mark of an immediate. -/
@[simp] theorem putB_ext_low (b : OpB) : bits (x.putB b).ext 0 4 = bits x.ext 0 4 ∧ bits (x.putB b).ext 0 2 = bits
    x.ext 0 2 := by
  have hmark : ∀ e : BitVec 6, bits (e ||| 0x20#6) 0 4 = bits e 0 4 ∧ bits (e ||| 0x20#6) 0 2 = bits e 0 2 := by decide
  cases b <;> simp [putB, hmark]

@[simp] theorem putD_ext_low (d : Dst) : bits (x.putD d).ext 0 3 = bits x.ext 0 3 ∧ bits (x.putD d).ext 0 2 = bits
    x.ext 0 2 := by
  have hmark : ∀ e : BitVec 6, bits (e ||| 0x10#6) 0 3 = bits e 0 3 ∧ bits (e ||| 0x10#6) 0 2 = bits e 0 2 := by decide
  cases d <;> simp [putD, hmark]

/-- No mark is set in an ext that holds nothing else. -/
@[simp] theorem bit_zero_ext (n : Nat) : bit (0#6) n = false := by simp [bit]
@[simp] theorem ext_fields (c : BitVec 4) : bits (w := 6) (0#2 ++ c) 0 4 = c ∧ bit (w := 6) (0#2 ++ c) 5 = false := by
  revert c; decide
@[simp] theorem ext_mode (c : BitVec 2) : bits (w := 6) (0#4 ++ c) 0 2 = c ∧ bit (w := 6) (0#4 ++ c) 5 = false ∧
    bit (w := 6) (0#4 ++ c) 4 = false := by
  revert c; decide
@[simp] theorem ext_op (c : BitVec 3) : bits (w := 6) (0#3 ++ c) 0 3 = c ∧ bit (w := 6) (0#3 ++ c) 4 = false := by
  revert c; decide
@[simp] theorem ext_excl (e : Bool) (c : BitVec 3) : bits (w := 6) (0#2 ++ BitVec.ofBool e ++ c) 0 3 = c ∧
    bit (w := 6) (0#2 ++ BitVec.ofBool e ++ c) 3 = e := by
  revert e c; decide
@[simp] theorem ext_frag (e : Bool) : bit (w := 6) (0#5 ++ BitVec.ofBool e) 0 = e := by
  revert e; decide
@[simp] theorem ext_cwait (c : BitVec 2) : bits (w := 6) (8#4 ++ c) 0 2 = c ∧ bit (w := 6) (8#4 ++ c) 5 = true := by
  revert c; decide
@[simp] theorem lay_read (c : BitVec 4) : bits (w := 32) (0#28 ++ c) 0 4 = c := bits_append_low 0#28 c
@[simp] theorem halves_read (x y : BitVec 16) : bits (w := 32) (x ++ y) 16 16 = x ∧ bits (w := 32) (x ++ y) 0 16 = y :=
  ⟨bits_append_left x y, bits_append_low x y⟩
@[simp] theorem bfImm_read (pos : BitVec 5) (len : BitVec 6) : bits (bfImm pos len) 0 5 = pos ∧ bits (bfImm pos len) 8
    6 = len := by
  revert pos len; decide

end LRaw

/-- A word's fields are read as the instruction. -/
def LRaw.ReadsAs (c : Ctx) (r : LRaw) (i : Instr) : Prop := ∃ f, laneForm c r = some f ∧ f.ins = i

theorem encodeLRaw_reads {c : Ctx} {i : Instr} {r : LRaw} (h : encodeLRaw i = some r) : r.ReadsAs c i := by
  cases i
  case iadd m ty sat d a b | isub m ty sat d a b | imul m ty sat d a b | imulh m ty d a b | imin m ty d a b
      | imax m ty d a b | iand m ty d a b | ior m ty d a b | ixor m ty d a b | ishl m ty d a b | ishr m ty d a b
      | isra m ty d a b | icmp m ty cond d a b | isel m ty d a b e | fadd m ty rm d a b | fsub m ty rm d a b
      | fmul m ty rm d a b | fmin m ty d a b | fmax m ty d a b | fcmp m ty cond d a b | fdiv m ty rm d a b
      | lmul m sat d a b | xshfl m ty mode d a b | xbcast m ty d a b =>
    cases h
    cases b <;> exact ⟨_, rfl, by simp [setWidth_setWidth_self]⟩
  case imad m ty sat d a b e | iclamp m ty d a b e | ffma m ty rm d a b e =>
    cases h
    cases b <;> cases e <;> exact ⟨_, rfl, by simp⟩
  case ibfi m ty d a b pos len =>
    cases h
    cases b <;> exact ⟨_, rfl, by simp⟩
  case ld m ty o d n b off | st m ty o n b e off =>
    cases h
    cases b <;> exact ⟨_, rfl, by simp [setWidth_setWidth_self, LRaw.ordC, LRaw.scopeC, LRaw.putOrd, -beq_iff_eq]⟩
  case lds m ty d n b off | sts m ty n b e off =>
    cases h
    cases b <;> exact ⟨_, rfl, by simp [setWidth_setWidth_self]⟩
  case atomAdd m ty o d n b e off | atomMin m ty o d n b e off | atomMax m ty o d n b e off | atomAnd m ty o d n b e off
      | atomOr m ty o d n b e off | atomXor m ty o d n b e off | atomXchg m ty o d n b e off
      | atomCas m ty o d n b e off =>
    cases h
    cases b <;> exact ⟨_, rfl, by simp [setWidth_setWidth_self, LRaw.ordC, LRaw.scopeC, LRaw.putOrd]⟩
  case xballot m d a | xvote m mode d a | xreduce m ty rm op d a =>
    cases h
    cases d <;> exact ⟨_, rfl, by simp [setWidth_setWidth_self]⟩
  case laneCwait m ctr t =>
    cases h
    cases t <;> exact ⟨_, rfl, by simp [LForm.bCw, LRaw.ib]⟩
  all_goals cases h
  all_goals exact ⟨_, rfl, by simp [setWidth_setWidth_self, LRaw.src, LRaw.putU, noGuard, LRaw.ordC, LRaw.scopeC,
      LRaw.putOrd]⟩

/-! ### Decoding after encoding, and encoding after decoding -/

theorem encodeSRaw_lane {i : Instr} {r : LRaw} (h : encodeLRaw i = some r) : encodeSRaw i = none := by
  cases i <;> cases h <;> rfl

theorem decodeScalar_toWord {c : Ctx} {i : Instr} {r : SRaw} (hwf : i.wf c = true) (h : encodeSRaw i = some r) :
    decodeScalar c r.toWord = .ok i := by
  obtain ⟨f, hf, herr, rfl⟩ := encodeSRaw_reads hwf h
  simp only [decodeScalar, SRaw.ofWord_toWord, hf, herr]

theorem decodeLane_toWord {c : Ctx} {i : Instr} {r : LRaw} (hwf : i.wf c = true) (h : encodeLRaw i = some r) :
    decodeLane c r.toWord = .ok i := by
  obtain ⟨f, hf, rfl⟩ := encodeLRaw_reads (c := c) h
  have herr : f.err = none := (laneForm_exact hf).2 ⟨hwf, h⟩
  simp only [decodeLane, LRaw.ofWord_toWord, hf, herr]

/-- Settles O27: the fields of an instruction's word are read back as the instruction, and the checks on them pass where
it is well-formed. -/
theorem encodedWordsDecode : Obligations.EncodedWordsDecode := by
  unfold Obligations.EncodedWordsDecode
  intro c i w hwf henc
  unfold encode at henc
  split at henc
  case h_1 r hs =>
    cases henc
    exact decodeScalar_toWord hwf hs
  case h_2 hs =>
    split at henc
    case h_1 r hl =>
      cases henc
      exact decodeLane_toWord hwf hl
    case h_2 => cases henc

theorem encode_of_decodeScalar {c : Ctx} {i : Instr} {w : BitVec 32} (h : decodeScalar c w = .ok i) :
    i.wf c = true ∧ encode i = some (.scalar w) := by
  unfold decodeScalar at h
  split at h
  case h_1 => cases h
  case h_2 f hf =>
    split at h
    case h_1 => cases h
    case h_2 herr =>
      cases h
      obtain ⟨hwf, henc⟩ := scalarForm_sound hf herr
      exact ⟨hwf, by simp only [encode, henc, SRaw.toWord_ofWord]⟩

theorem encode_of_decodeLane {c : Ctx} {i : Instr} {w : BitVec 96} (h : decodeLane c w = .ok i) :
    i.wf c = true ∧ encode i = some (.lane w) := by
  unfold decodeLane at h
  split at h
  case h_1 => cases h
  case h_2 f hf =>
    split at h
    case h_1 => cases h
    case h_2 herr =>
      cases h
      obtain ⟨hwf, henc⟩ := (laneForm_exact hf).1 herr
      exact ⟨hwf, by simp only [encode, encodeSRaw_lane henc, henc, LRaw.toWord_ofWord]⟩

/-- Settles O28: where no check of a word's fields fails they are those of the instruction read, so the word is its
    own. -/
theorem decodedWordsEncode : Obligations.DecodedWordsEncode := by
  unfold Obligations.DecodedWordsEncode
  intro c i w h
  cases w with
  | scalar w => exact encode_of_decodeScalar h
  | lane w => exact encode_of_decodeLane h

end Sys2Proof
end

section
/-!
PROOFS. Masks: masks, lists of lanes and vectors by element, and two writes at one key.
-/
namespace Sys2Proof

/-! ## Masks and lists of lanes -/

theorem getLsbD_lowMask (n l : Nat) : (lowMask n).getLsbD l = (decide (l < 64) && decide (l < n)) := by
  unfold lowMask
  rw [BitVec.getLsbD_ofNat, Nat.testBit_two_pow_sub_one]

theorem getLsbD_laneBit (n l : Nat) : (laneBit n).getLsbD l = (decide (l < 64) && decide (n = l)) := by
  unfold laneBit
  rw [BitVec.getLsbD_ofNat, Nat.testBit_two_pow]

theorem mem_lanesOf {m : Mask} {l : Nat} : l ∈ lanesOf m ↔ m.getLsbD l = true := by
  unfold lanesOf
  simp only [List.mem_filter, List.mem_range, and_iff_right_iff_imp]
  exact BitVec.lt_of_getLsbD

/-- A mask built lane by lane. -/
theorem getLsbD_foldl_laneBit (f : Nat → Bool) (ls : List Nat) (m : Mask) (l : Nat) :
    (ls.foldl (fun m l => if f l then m ||| laneBit l else m) m).getLsbD l =
      (m.getLsbD l || (decide (l < 64) && decide (l ∈ ls) && f l)) := by
  induction ls generalizing m with
  | nil => simp
  | cons n ls ih =>
    rw [List.foldl_cons, ih]
    by_cases hf : f n = true
    · by_cases hn : n = l
      · subst hn
        simp only [hf, if_true, BitVec.getLsbD_or, getLsbD_laneBit, List.mem_cons, true_or, decide_true, Bool.and_true]
        cases m.getLsbD n <;> cases decide (n < 64) <;> simp
      · simp [hf, getLsbD_laneBit, hn, Ne.symm hn]
    · by_cases hn : n = l
      · subst hn; simp [hf]
      · simp [hf, Ne.symm hn]

theorem getLsbD_maskOf (w : Nat) (f : Nat → Bool) (l : Nat) :
    (maskOf w f).getLsbD l = (decide (l < 64) && decide (l < w) && f l) := by
  unfold maskOf
  rw [getLsbD_foldl_laneBit]
  simp

theorem nthD_tabulate {α : Type} (d : α) (n : Nat) (f : Nat → α) (i : Nat) :
    nthD d (tabulate n f) i = if i < n then f i else d := by
  unfold nthD tabulate
  by_cases h : i < n
  · simp [h]
  · simp [h]

@[simp] theorem length_tabulate {α : Type} (n : Nat) (f : Nat → α) : (tabulate n f).length = n := by simp [tabulate]

theorem nthD_setNth {α : Type} (d : α) (xs : List α) (i j : Nat) (x : α) :
    nthD d (setNth xs i x) j = if i = j ∧ i < xs.length then x else nthD d xs j := by
  unfold nthD setNth
  rw [List.getElem?_set]
  by_cases h : i = j
  · subst h
    by_cases hl : i < xs.length
    · simp [hl]
    · simp [hl]
  · simp [h]

@[simp] theorem length_setNth {α : Type} (xs : List α) (i : Nat) (x : α) : (setNth xs i x).length = xs.length := by
  simp [setNth]

namespace Machine

theorem vget_vset {α : Type} {n : Nat} [Inhabited α] (v : Vector α n) (i j : Nat) (x : α) :
    vget (vset v i x) j = if i = j ∧ i < n then x else vget v j := by
  unfold vget vset
  rw [Vector.getElem?_setIfInBounds]
  by_cases h : i = j
  · subst h
    by_cases hl : i < n
    · simp [hl]
    · simp [hl]
  · simp [h]

theorem vget_vset_self {α : Type} {n : Nat} [Inhabited α] (v : Vector α n) {i : Nat} (h : i < n) (x : α) :
    vget (vset v i x) i = x := by
  rw [vget_vset, if_pos ⟨rfl, h⟩]

theorem vget_vset_ne {α : Type} {n : Nat} [Inhabited α] (v : Vector α n) {i j : Nat} (h : i ≠ j) (x : α) :
    vget (vset v i x) j = vget v j := by
  rw [vget_vset, if_neg fun e => h e.1]

end Machine

/-! ## Two writes at one key -/

theorem Store.put_put {α : Type} (m : List (Nat × α)) (k : Nat) (x y : α) :
    Store.put (Store.put m k x) k y = Store.put m k y := by
  induction m with
  | nil => simp [Store.put]
  | cons e m ih =>
    obtain ⟨j, z⟩ := e
    by_cases h1 : j < k
    · simp [Store.put, h1, ih]
    · by_cases h2 : j = k
      · simp [Store.put, h2]
      · simp [Store.put, h1, h2]

namespace Machine.State

@[simp] theorem setGrp_setGrp (s : State) (k : Nat) (g h : Group) : (s.setGrp k g).setGrp k h = s.setGrp k h := by
  simp only [setGrp, Store.put_put]

theorem updGrp_eq {s : State} {k : Nat} {g : Group} (h : s.grp k = some g) (f : Group → Group) :
    s.updGrp k f = s.setGrp k (f g) := by
  unfold grp at h
  simp only [updGrp, setGrp, Store.adjust, h]

end Machine.State

end Sys2Proof
end

section
/-!
PROOFS. ScalarWords: what the scalar words that compute, load, branch or change a shadow leave (R94 to R102, R147, R148).
-/
namespace Sys2Proof

/-! ## Values of the scalar operations, as their rows state them (R94) -/

namespace Machine

/-- The upper half of a product is that of the product at 64 bits. -/
theorem smulhVal_eq (x y : W32) : smulhVal x y = (x.signExtend 64 * y.signExtend 64).extractLsb' 32 32 := by
  have hprod : x.signExtend 64 * y.signExtend 64 = BitVec.ofInt 64 (x.toInt * y.toInt) :=
    (BitVec.ofInt_mul x.toInt y.toInt).symm
  apply BitVec.eq_of_toNat_eq
  rw [hprod, smulhVal, BitVec.extractLsb'_toNat, BitVec.toNat_ofInt, BitVec.toNat_ofInt, Nat.shiftRight_eq_div_pow]
  omega

theorem sshlVal_eq (x y : W32) : sshlVal x y = if y.toNat < 32 then x <<< y.toNat else 0 := by
  unfold sshlVal
  split
  · rfl
  · exact BitVec.shiftLeft_eq_zero (by omega)

theorem sshrVal_eq (x y : W32) : sshrVal x y = if y.toNat < 32 then x >>> y.toNat else 0 := by
  unfold sshrVal
  split
  · rfl
  · exact BitVec.ushiftRight_eq_zero (by omega)

theorem ssraVal_eq (x y : W32) :
    ssraVal x y = if y.toNat < 32 then x.sshiftRight y.toNat else if x.msb then -1 else 0 := by
  unfold ssraVal
  split
  · rfl
  · next h =>
    apply BitVec.eq_of_getLsbD_eq
    intro i hi
    rw [BitVec.getLsbD_sshiftRight, if_neg (by omega)]
    cases hm : x.msb
    · simp [hi]
    · rw [if_pos rfl, decide_eq_false (by omega), Bool.not_false, Bool.true_and]
      exact (BitVec.getLsbD_allOnes.trans (decide_eq_true hi)).symm

theorem sminVal_eq (x y : W32) : sminVal x y = BitVec.ofInt 32 (min x.toInt y.toInt) := by
  unfold sminVal
  split
  · next h => rw [Int.min_eq_left h, BitVec.ofInt_toInt]
  · next h => rw [Int.min_eq_right (by omega), BitVec.ofInt_toInt]

theorem smaxVal_eq (x y : W32) : smaxVal x y = BitVec.ofInt 32 (max x.toInt y.toInt) := by
  unfold smaxVal
  split
  · next h => rw [Int.max_eq_right h, BitVec.ofInt_toInt]
  · next h => rw [Int.max_eq_left (by omega), BitVec.ofInt_toInt]


/-! ## Scalar words that load or compute a value -/

open Safety

section Issue

variable {s : State} {g : Group} (hg : Issues s g) (hroom : g.sc.full = false)
include hg hroom

/-- A word that finds room leaves its writes outstanding, and its stream where it says. -/
theorem withCur_issueS (ws : Group → List (Nat × W32 × Shadow)) (pc : Group → Va) (sw : Bool) :
    withCur s (fun gid g => issueS s gid g (ws g) (pc g) sw) =
      .next (scalarAfter s g .plain ((ws g).map fun w => .s (g.sKey w.1) w.2.1 w.2.2 false) (pc g) sw) := by
  rw [withCur_next hg]
  exact congrArg Host.Outcome.next (issueSK_eq_scalarAfter hroom ..)

/-- A word of two registers leaves its value and its shadow as one outstanding write. -/
theorem withCur_alu2 {d a b : BitVec 6} {sw : Bool} {f : W32 → W32 → W32} {sh : Shadow → Shadow → Shadow} {v : W32}
    (hv : f (sRead s.picks g a.toNat).1 (sRead s.picks g b.toNat).1 = v) :
    withCur s (fun gid g => alu2 s gid g d a b sw f sh) =
      .next (scalarAfter s g .plain [wSreg g d v (sh (sRead s.picks g a.toNat).2 (sRead s.picks g b.toNat).2)]
        (g.spc + 4) sw) :=
  hv ▸ withCur_issueS hg hroom _ (fun g => g.spc + 4) sw

/-- A word of a register and an immediate does the same; the immediate's shadow is exact. -/
theorem withCur_alu1 {d a : BitVec 6} {y : W32} {sw : Bool} {f : W32 → W32 → W32} {sh : Shadow → Shadow → Shadow}
    {v : W32} {n : Int} (hn : y.toInt = n) (hv : f (sRead s.picks g a.toNat).1 y = v) :
    withCur s (fun gid g => alu1 s gid g d a y sw f sh) =
      .next (scalarAfter s g .plain [wSreg g d v (sh (sRead s.picks g a.toNat).2 (.itv n n))] (g.spc + 4) sw) :=
  hv ▸ hn ▸ withCur_issueS hg hroom _ (fun g => g.spc + 4) sw

end Issue

theorem scalarRegisterResults : Claims.ScalarRegisterResults := by
  unfold Claims.ScalarRegisterResults
  intro s g d a b sw hg hroom x y lands
  refine ⟨withCur_alu2 hg hroom rfl, withCur_alu2 hg hroom rfl, withCur_alu2 hg hroom rfl,
    withCur_alu2 hg hroom (smulhVal_eq ..), withCur_alu2 hg hroom rfl, withCur_alu2 hg hroom rfl,
    withCur_alu2 hg hroom rfl, withCur_alu2 hg hroom (sshlVal_eq ..), withCur_alu2 hg hroom (sshrVal_eq ..),
    withCur_alu2 hg hroom (ssraVal_eq ..), withCur_alu2 hg hroom (sminVal_eq ..), withCur_alu2 hg hroom (smaxVal_eq
        ..), ?_⟩
  exact withCur_issueS hg hroom
    (fun g => [(d.toNat, (sRead s.picks g a.toNat).1, (sRead s.picks g a.toNat).2)]) (fun g => g.spc + 4) sw

theorem toInt_signExtend_imm (imm : BitVec 13) : (imm.signExtend 32).toInt = imm.toInt :=
  BitVec.toInt_signExtend_of_le (by decide)

/-- A shift amount, read as signed at 32 bits, is itself. -/
theorem toInt_zeroExtend_amt (amt : BitVec 5) : (amt.zeroExtend 32).toInt = amt.toNat := by
  revert amt; decide

theorem toNat_zeroExtend_amt (amt : BitVec 5) : (amt.zeroExtend 32).toNat = amt.toNat := by
  revert amt; decide

theorem scalarImmediateResults : Claims.ScalarImmediateResults := by
  unfold Claims.ScalarImmediateResults
  intro s g d a imm amt sw hg hroom x y Y A lands
  have hi := toInt_signExtend_imm imm
  have ha := toInt_zeroExtend_amt amt
  have hn := toNat_zeroExtend_amt amt
  exact ⟨withCur_alu1 hg hroom hi rfl, withCur_alu1 hg hroom hi rfl, withCur_alu1 hg hroom hi rfl,
    withCur_alu1 hg hroom hi rfl, withCur_alu1 hg hroom hi rfl, withCur_alu1 hg hroom hi (hi ▸ sminVal_eq ..),
    withCur_alu1 hg hroom hi (hi ▸ smaxVal_eq ..), withCur_alu1 hg hroom ha (by rw [sshlVal, hn]),
    withCur_alu1 hg hroom ha (by rw [sshrVal, hn]), withCur_alu1 hg hroom ha (by rw [ssraVal, hn])⟩

theorem scalarConstantResults : Claims.ScalarConstantResults := by
  unfold Claims.ScalarConstantResults
  intro s g d a imm n w sw hg hroom lands sh
  have exact (f : Group → W32) := withCur_setExact hg hroom d f sw
  refine ⟨exec_slui hg hroom d imm sw, exec_smovi hg hroom d imm sw, exec_skmov hg hroom d n sw,
    exact (fun g => bits (vget g.a n.toNat) (32 * w.toNat) 32), ?_⟩
  have hlo := exact (fun g => BitVec.ofInt 32 (sRead s.picks g a.toNat).2.lower)
  have hhi := exact (fun g => BitVec.ofInt 32 (sRead s.picks g a.toNat).2.upper)
  have htop := exact (fun g => if (sRead s.picks g a.toNat).2.isTop then 1 else 0)
  cases hsh : sh with
  | top =>
    rw [show (sRead s.picks g a.toNat).2 = .top from hsh] at hlo hhi htop
    exact ⟨hlo, hhi, htop⟩
  | itv lo hi =>
    rw [show (sRead s.picks g a.toNat).2 = .itv lo hi from hsh] at hlo hhi htop
    exact ⟨hlo, hhi, htop⟩

/-! ## Shadows (R147) -/

theorem sPut_spc (g : Group) (k : Nat) (v : W32) (sh : Shadow) : (g.sPut k v sh).spc = g.spc := by
  unfold Group.sPut
  split <;> rfl

theorem shPut_spc (picks : List (Nat × Mask)) (g : Group) (k : Nat) (sh : Shadow) : (shPut picks g k sh).spc = g.spc
    := by
  unfold shPut
  split
  · rfl
  · exact sPut_spc ..

/-- A word that changes a shadow goes on at the next word. -/
theorem setGrp_shPut (s : State) (g : Group) (k : Nat) (sh : Shadow) (sw : Bool) :
    s.setGrp s.cur ((shPut s.picks g k sh).nextS sw) = scalarOn s (shPut s.picks g k sh) (g.spc + 4) sw := by
  rw [Group.nextS, shPut_spc]
  rfl

theorem scalarShadowWords : Claims.ScalarShadowWords := by
  unfold Claims.ScalarShadowWords
  intro s g d a b sw hg hd ha hb k x lo hi shadowed
  have hidle : ¬ (sBusy g d.toNat || sBusy g a.toNat || sBusy g b.toNat) = true := by
    simp [sBusy, hd, ha, hb]
  refine ⟨?_, ?_, ?_, ?_, ?_⟩
  · change execSwiden d a b sw s = _
    rw [execSwiden, withCur_next hg, if_neg hidle]
    exact congrArg Host.Outcome.next (setGrp_shPut ..)
  · intro h1 h2
    change execSrange d a b sw s = _
    rw [execSrange, withCur_next hg, if_neg hidle]
    refine congrArg Host.Outcome.next ((if_neg ?_).trans (setGrp_shPut ..))
    exact not_or.2 ⟨Int.not_lt.2 h1, Int.not_lt.2 h2⟩
  · intro h
    change execSrange d a b sw s = _
    rw [execSrange, withCur_next hg, if_neg hidle]
    exact congrArg Host.Outcome.next (if_pos h)
  · intro hp
    simp only [x, sHeld, shPut, hp]
    exact ⟨trivial, fun _ => trivial⟩
  · intro i v sh0 hp hi
    have hat : nthD default g.pub i = (k, v, sh0) := by simp [nthD, hi]
    have hheld : sHeld s.picks g k = (v, sh0) := by simp only [sHeld, hp, hat]
    exact ⟨hheld, fun sh => by simp only [shPut, hp, hheld, setNth]⟩

/-! ## Branches and jumps (R97, R99) -/

/-- Four times a signed offset, added to an address. -/
theorem signExtend_shiftLeft_two {n : Nat} (x : BitVec n) : x.signExtend 57 <<< 2 = BitVec.ofInt 57 (4 * x.toInt) := by
  rw [BitVec.ofInt_mul, BitVec.shiftLeft_eq_mul_twoPow, BitVec.mul_comm]
  rfl

theorem condHolds_eq (c : SCond) (x y : W32) : condHolds c x y =
    match c with
    | .eq => x == y
    | .ne => x != y
    | .lt => x.slt y
    | .ge => y.sle x
    | .ltn => x.ult y
    | .gen => y.ule x := by
  cases c <;> rfl

theorem bits_eq_zero_iff {n : Nat} (x : BitVec n) (lo w : Nat) : bits x lo w = 0 ↔ x.toNat / 2 ^ lo % 2 ^ w = 0 := by
  rw [bits_eq_iff, BitVec.ofNat_eq_ofNat, BitVec.toNat_ofNat, Nat.zero_mod]

theorem codeTarget_iff (t : W64) : codeTarget t = true ↔ t.toNat % 4 = 0 ∧ t.toNat < 2 ^ 57 := by
  have := t.isLt
  simp only [codeTarget, Bool.and_eq_true, beq_iff_eq, bits_eq_zero_iff]
  omega

theorem scalarJumps : Claims.ScalarJumps := by
  unfold Claims.ScalarJumps
  intro s g c a b off9 off sw hg x y taken target ret
  refine ⟨?_, ?_, ?_, ?_, ?_⟩
  · change execSb c a b off9 sw s = _
    have ht : condHolds c x.1 y.1 = taken := condHolds_eq ..
    rw [execSb, withCur_next hg, ← signExtend_shiftLeft_two, ← ht]
    rfl
  · change execSj off sw s = _
    rw [execSj, withCur_next hg, signExtend_shiftLeft_two]
    rfl
  · intro hroom
    rw [← signExtend_shiftLeft_two]
    exact withCur_issueS hg hroom
      (fun g => [(62, bits ((g.spc + 4).zeroExtend 64) 0 32, _), (63, bits ((g.spc + 4).zeroExtend 64) 32 32, _)])
      (fun g => g.spc + (off.signExtend 57 <<< 2)) sw
  · intro h1 h2
    change execSjr a sw s = _
    have htrunc : target.truncate 57 = BitVec.ofNat 57 target.toNat := by
      apply BitVec.eq_of_toNat_eq
      simp
    rw [execSjr, withCur_next hg, ← htrunc]
    exact congrArg Host.Outcome.next (if_pos ((codeTarget_iff _).2 ⟨h1, h2⟩))
  · intro h
    change execSjr a sw s = _
    rw [execSjr, withCur_next hg]
    exact congrArg Host.Outcome.next (if_neg (mt (codeTarget_iff _).1 h))

/-! ## Array registers (R102) -/

/-- The bits of a word above the lower of its two parts. -/
theorem bits_append_above {m n : Nat} (x : BitVec m) (y : BitVec n) (lo len : Nat) :
    bits (x ++ y) (n + lo) len = bits x lo len := by
  unfold bits
  ext i hi
  simp [BitVec.getElem_extractLsb', BitVec.getLsbD_append, show ¬ n + lo + i < n by omega,
    show n + lo + i - n = lo + i by omega]

theorem arrayRegisterWrites : Claims.ArrayRegisterWrites := by
  unfold Claims.ArrayRegisterWrites
  intro s g n a b sw hg x y hi old
  have hpair : (sPair s.picks g a.toNat).toNat = hi.toNat * 2 ^ 32 + x.toNat := toNat_append_eq_add ..
  have hx := x.isLt
  have hbase : bits (sPair s.picks g a.toNat) 57 7 = 0 ↔ hi.toNat < 2 ^ 25 := by
    have := hi.isLt
    rw [bits_eq_zero_iff, hpair]
    omega
  have hext : (bits y 13 19 != 0 || bits y 3 2 == 3 || decide (3 < (bits y 0 3).toNat)) = true ↔
      ¬ (y.toNat < 2 ^ 13 ∧ y.toNat / 8 % 4 ≠ 3 ∧ y.toNat % 8 ≤ 3) := by
    have := y.isLt
    have h3 : bits y 3 2 = 3 ↔ y.toNat / 2 ^ 3 % 2 ^ 2 = 3 := bits_eq_iff ..
    have h0 : (bits y 0 3).toNat = y.toNat / 2 ^ 0 % 2 ^ 3 := (bits_eq_iff ..).1 rfl ▸ rfl
    simp only [Bool.or_eq_true, bne_iff_ne, ne_eq, bits_eq_zero_iff, beq_iff_eq, h3, h0, decide_eq_true_eq]
    omega
  refine ⟨?_, ?_, ?_, ?_⟩
  · intro h
    refine ⟨setBase old (sPair s.picks g a.toNat), ?_, ?_, ?_, ?_⟩
    · exact (bits_append_right (by decide) ..).trans (bits_append_low hi x)
    · exact (bits_append_right (by decide) ..).trans (bits_append_left hi x)
    · exact bits_append_left ..
    · change execAsetb n a sw s = _
      rw [execAsetb, withCur_next hg]
      exact congrArg Host.Outcome.next (if_neg (by simpa using hbase.2 h))
  · intro h
    change execAsetb n a sw s = _
    rw [execAsetb, withCur_next hg]
    exact congrArg Host.Outcome.next (if_pos (bne_iff_ne.2 (mt hbase.1 (by omega))))
  · intro h
    refine ⟨y ++ x ++ bits old 0 64, ?_, ?_, ?_, ?_⟩
    · exact bits_append_low ..
    · exact (bits_append_above (y ++ x) (bits old 0 64) 0 32).trans (bits_append_low y x)
    · exact (bits_append_above (y ++ x) (bits old 0 64) 32 32).trans (bits_append_left y x)
    · change execAsetx n a b sw s = _
      rw [execAsetx, withCur_next hg]
      exact congrArg Host.Outcome.next (if_neg (mt hext.1 (not_not.2 h)))
  · intro h
    change execAsetx n a b sw s = _
    rw [execAsetx, withCur_next hg]
    exact congrArg Host.Outcome.next (if_pos (hext.2 h))

end Machine

/-- Settles O34: each word's meaning is one of a few shared ones, with the value and the shadow of its row. -/
theorem scalarResults : Obligations.ScalarResults := by
  unfold Obligations.ScalarResults
  exact ⟨Machine.scalarRegisterResults, Machine.scalarImmediateResults, Machine.scalarConstantResults,
    Machine.scalarJumps, Machine.scalarShadowWords, Machine.arrayRegisterWrites⟩

end Sys2Proof
end

section
/-!
PROOFS. Landing: what a returning result changes (R33, R86, R90, R119).
-/
namespace Sys2Proof

namespace Machine

open Safety

/-! ## What a returning result does (R33, R86) -/

/-- A result that reads nothing and waits for nothing lands. -/
theorem exec_resultReturn {s : State} {g : Group} {gid k : Nat} {lane : Bool} {p : Pending} (keep late : Mask)
    (hg : s.grp gid = some g) (hp : (g.str lane).out[k]? = some p) (hk : p.kind.reads = false) (hw : p.waiting = []) :
    exec (.resultReturn gid lane k keep late) s = .next (returnGood s gid g lane keep p) := by
  change execResultReturn gid lane k keep late s = _
  have hread : readMore s gid g lane late p = (s, ⟨p, [], [], []⟩) := by simp [readMore, hk]
  simp only [execResultReturn, done, returnResult, hg, Option.bind_some, hp, Option.map_some, hread, hk, Bool.false_and,
    hw, List.isEmpty_nil]
  rfl

/-- With no trap pending nothing is entered. -/
theorem enterTrap_idle {s : State} {gid : Nat} {g : Group} (hg : s.grp gid = some g) (ht : g.trap = none) :
    enterTrap s gid = s := by
  simp [enterTrap, hg, ht]

/-- The plain result of one write that met no other. -/
def onePending (id : Nat) (pc : Va) (w : PWrite) : Pending := ⟨id, pc, .plain, [w], [], 0, [], 0, 0, [], [], none⟩

/-- Its write lands, and the blocks that wait for it see the register. -/
theorem returnGood_one {s : State} {g : Group} {gid id : Nat} {lane : Bool} {pc : Va} {w : PWrite} (keep : Mask)
    (hw : w.met = none) :
    returnGood s gid g lane keep (onePending id pc w) =
      enterTrap (leave (landWrite (s.setGrp gid (dropOut g lane id)) gid keep 0 lane w) gid lane id) gid := by
  have hnote : noteLanded (dropOut g lane id) lane [w] = dropOut g lane id := by simp [noteLanded, hw]
  simp only [returnGood, onePending, landing, hnote, landAll, List.foldl_cons, List.foldl_nil]
  rfl

theorem dropOut_scalar (g : Group) (id : Nat) :
    dropOut g false id = { g with sc := { g.sc with out := g.sc.out.filter fun p => p.id != id } } := rfl
theorem dropOut_lane (g : Group) (id : Nat) :
    dropOut g true id = { g with ln := { g.ln with out := g.ln.out.filter fun p => p.id != id } } := rfl

/-! ## S registers by key (R317) -/

theorem sPut_trap (g : Group) (k : Nat) (v : W32) (sh : Shadow) : (g.sPut k v sh).trap = g.trap := by
  unfold Group.sPut
  split <;> rfl

theorem sPut_saved (g : Group) (k : Nat) (v : W32) (sh : Shadow) : (g.sPut k v sh).saved = g.saved := by
  unfold Group.sPut
  split <;> rfl

theorem sPut_ctx (g : Group) (k : Nat) (v : W32) (sh : Shadow) : (g.sPut k v sh).ctx = g.ctx := by
  unfold Group.sPut
  split <;> rfl

theorem sPut_pub (g : Group) (k : Nat) (v : W32) (sh : Shadow) : (g.sPut k v sh).pub = g.pub := by
  unfold Group.sPut
  split <;> rfl

/-- A register reads as what was put there. -/
theorem sAt_sPut_self (g : Group) {k : Nat} (h : k < 72) (v : W32) (sh : Shadow) : (g.sPut k v sh).sAt k = (v, sh) := by
  unfold Group.sPut Group.sAt
  by_cases hk : k < 64
  · simp only [if_pos hk, vget_vset_self _ hk]
  · simp only [if_neg hk, vget_vset_self _ (show k - 64 < 8 by omega)]

/-- A put at one key leaves every other register alone. -/
theorem sAt_sPut_ne (g : Group) {k j : Nat} (h : j ≠ k) (v : W32) (sh : Shadow) : (g.sPut k v sh).sAt j = g.sAt j := by
  unfold Group.sPut Group.sAt
  by_cases hk : k < 64 <;> by_cases hj : j < 64
  · simp only [if_pos hk, if_pos hj, vget_vset_ne _ (Ne.symm h)]
  · simp only [if_pos hk, if_neg hj]
  · simp only [if_neg hk, if_pos hj]
  · simp only [if_neg hk, if_neg hj, vget_vset_ne _ (show k - 64 ≠ j - 64 by omega)]

/-- Where a register reads depends on no stream, block or list of lane writes. -/
theorem sAt_congr {g h : Group} (hs : h.s = g.s) (hss : h.ssh = g.ssh) (hh : h.hs = g.hs) (hhs : h.hsh = g.hsh) (k : Nat) :
    h.sAt k = g.sAt k := by
  simp only [Group.sAt, hs, hss, hh, hhs]

/-! ## Blocks that wait for a result (R31) -/

/-- A block that waits for nothing stays as it is when a result lands. -/
theorem dueLands_none {b : Block} (g : Group) (id : Nat) (h : b.due = []) :
    ({ (b.due.filter fun e => e.1 == id).foldl (fun b e =>
        Block.see e.2 (g.sAt (g.sKey e.2)).1 (g.sAt (g.sKey e.2)).2 b) b with due := b.due.filter fun e => e.1 != id } : Block) = b := by
  cases b
  cases h
  rfl

theorem scalarResultLands : Claims.ScalarResultLands := by
  unfold Claims.ScalarResultLands
  intro s g gid k id key pc v sh keep late hg htrap hp
  let g2 : Group := { (dropOut g false id).sPut key v sh with pub := g.pub.filter fun e => e.1 != key }
  have hland : landWrite (s.setGrp gid (dropOut g false id)) gid keep 0 false (.s key v sh false) = s.setGrp gid g2 :=
      by
    simp only [landWrite, State.grp_setGrp, BitVec.and_zero]
    simp [State.setGrp_setGrp, g2, dropOut_scalar]
  have hret : exec (.resultReturn gid false k keep late) s = .next (s.setGrp gid (g2.dueLands id)) := by
    rw [exec_resultReturn keep late hg hp rfl rfl]
    refine congrArg Host.Outcome.next ((returnGood_one (pc := pc) keep rfl).trans ?_)
    rw [hland, leave, if_neg (by simp), State.updGrp_eq (State.grp_setGrp ..), State.setGrp_setGrp]
    refine enterTrap_idle (State.grp_setGrp ..) ?_
    exact (sPut_trap ..).trans htrap
  have hctx : g2.ctx = g.ctx := sPut_ctx ..
  have hblock (b : Block) (hb : b.due = []) := dueLands_none g2 id hb
  refine ⟨g2.dueLands id, hret, ⟨(g2.dueLands id).ctx, rfl, ?_, ?_, ?_, ?_⟩, ?_, ?_⟩
  · simp only [Group.dueLands, Group.mapBlocks, hctx]
  · intro b hb hdue
    simp only [Group.dueLands, Group.mapBlocks, hctx, hb, Option.map_some]
    exact congrArg some (hblock b hdue)
  · intro i b hb hdue
    simp only [Group.dueLands, Group.mapBlocks, hctx, List.getElem?_map, hb, Option.map_some]
    exact congrArg some (hblock b hdue)
  · intro i b n hb hdue hkey hsk hn
    have hsaved : g2.saved = g.saved := sPut_saved ..
    have hkey2 : g2.sKey n = key := by
      rw [← hsk, Group.sKey, Group.sKey, Group.handler, Group.handler, hsaved]
    have hat : g2.sAt key = (v, sh) := sAt_sPut_self _ (by omega) v sh
    refine ⟨{ Block.see n v sh b with due := [] }, ?_, rfl, rfl, fun m => ?_⟩
    · simp [Group.dueLands, Group.mapBlocks, hctx, hb, hdue, hkey2, hat]
    · refine (nthD_setNth 0 b.sv n m v).trans ?_
      by_cases hm : m = n
      · rw [if_pos ⟨hm.symm, hn⟩, if_pos hm]
      · rw [if_neg fun e => hm e.1.symm, if_neg hm]
  · intro hkey
    exact sAt_sPut_self _ (by omega) v sh
  · intro j hj
    exact sAt_sPut_ne _ hj v sh

/-! ## V registers and their words (R15) -/

/-- The words of one register of a group are distinct. -/
theorem rfKey_inj {core row0 width n l l' : Nat} (h : rfKey core row0 width n l = rfKey core row0 width n l') : l = l' := by
  unfold rfKey at h
  omega

/-- Words written one by one at distinct keys. -/
theorem getD_foldl_putD_key {α : Type} [DecidableEq α] {d : α} {m : List (Nat × α)} (h : Store.wf d m = true)
    (key : Nat → Nat) (hinj : ∀ i j, key i = key j → i = j) (val : Nat → α) (ls : List Nat) (j : Nat) :
    Store.getD d (ls.foldl (fun m l => Store.putD d m (key l) (val l)) m) (key j) =
      if j ∈ ls then val j else Store.getD d m (key j) := by
  induction ls generalizing m with
  | nil => simp
  | cons l ls ih =>
    rw [List.foldl_cons, ih (Store.wf_putD h ..)]
    by_cases hj : j ∈ ls
    · simp [hj]
    · by_cases hl : j = l
      · subst hl
        simp [hj, Store.getD_putD_self h]
      · simp [hj, hl, Store.getD_putD_ne h _ _ (fun e => hl (hinj _ _ e))]

/-- Words written elsewhere leave a key alone. -/
theorem getD_foldl_putD_other {α : Type} [DecidableEq α] {d : α} {m : List (Nat × α)} (h : Store.wf d m = true)
    (key : Nat → Nat) (val : Nat → α) (ls : List Nat) {k : Nat} (hk : ∀ l ∈ ls, key l ≠ k) :
    Store.getD d (ls.foldl (fun m l => Store.putD d m (key l) (val l)) m) k = Store.getD d m k := by
  induction ls generalizing m with
  | nil => rfl
  | cons l ls ih =>
    rw [List.foldl_cons, ih (Store.wf_putD h ..) (fun l' hl' => hk l' (List.mem_cons_of_mem _ hl')),
      Store.getD_putD_ne h _ _ (Ne.symm (hk l (List.mem_cons_self ..)))]

/-- Lanes below the width, of two registers of one group, have distinct words. -/
theorem rfKey_ne {core row0 width n n' l l' : Nat} (hl : l < width) (hl' : l' < width) (h : n ≠ n') :
    rfKey core row0 width n l ≠ rfKey core row0 width n' l' := by
  unfold rfKey
  intro e
  have e : n * width + l = n' * width + l' := by omega
  have hn : n = n' := by
    have h1 : (n * width + l) / width = n := by
      rw [Nat.mul_comm, Nat.mul_add_div (by omega), Nat.div_eq_of_lt hl, Nat.add_zero]
    have h2 : (n' * width + l') / width = n' := by
      rw [Nat.mul_comm, Nat.mul_add_div (by omega), Nat.div_eq_of_lt hl', Nat.add_zero]
    rw [← h1, ← h2, e]
  exact h hn

/-- Lanes of a group's register write: those of the mask below the width. -/
theorem mem_lanes_all {g : Group} {m : Mask} {l : Nat} (hw : g.width ≤ 64) :
    l ∈ lanesOf (m &&& g.all) ↔ m.getLsbD l = true ∧ l < g.width := by
  rw [mem_lanesOf, BitVec.getLsbD_and, Group.all, getLsbD_lowMask]
  simp only [Bool.and_eq_true, decide_eq_true_eq]
  exact and_congr_right fun _ => ⟨fun h => h.2, fun h => ⟨Nat.lt_of_lt_of_le h hw, h⟩⟩

/-- What a register reads as after a write of some lanes of a register. -/
theorem vRaw_vPut {s : State} (hwf : Store.wf 0 s.rf = true) (gid : Nat) {g : Group} (hw : g.width ≤ 64) (r : Nat)
    (lanes : Mask) (vals : List W32) (n l : Nat) (hl : l < g.width) :
    vRaw (vPut s gid g r lanes vals) gid g n l =
      if n = r ∧ lanes.getLsbD l = true then nthD 0 vals l else vRaw s gid g n l := by
  unfold vRaw vPut
  by_cases hn : n = r
  · subst hn
    refine (getD_foldl_putD_key hwf (rfKey (coreOf gid) g.row0 g.width n) (fun _ _ e => rfKey_inj e) _ _ l).trans ?_
    simp only [mem_lanes_all hw, hl, and_true, true_and]
  · rw [if_neg fun e => hn e.1]
    refine getD_foldl_putD_other hwf (rfKey (coreOf gid) g.row0 g.width r) _ _ fun l' hl' => ?_
    exact rfKey_ne ((mem_lanes_all hw).1 hl').2 hl (Ne.symm hn)

/-- Where no write has landed before, no lane is kept (R34). -/
theorem none_kept (keep lanes : Mask) : lanes &&& ~~~(keep &&& 0) = lanes := by
  have h0 : keep &&& 0 = 0#64 := BitVec.and_zero
  rw [h0, BitVec.not_zero, BitVec.and_allOnes]

/-- Elements changed one by one, each once. -/
theorem vget_foldl_vset {α : Type} {n : Nat} [Inhabited α] (f : Nat → α → α) {ls : List Nat} (hls : ls.Nodup)
    (v : Vector α n) (j : Nat) :
    vget (ls.foldl (fun v l => vset v l (f l (vget v l))) v) j = if j ∈ ls ∧ j < n then f j (vget v j) else vget v j
        := by
  induction ls generalizing v with
  | nil => simp
  | cons l ls ih =>
    obtain ⟨hl, hls⟩ := List.nodup_cons.1 hls
    rw [List.foldl_cons, ih hls, vget_vset]
    by_cases hj : j = l
    · subst hj
      by_cases hn : j < n
      · simp [hl, hn]
      · simp [hn]
    · simp [hj, Ne.symm hj]

theorem laneResultLands : Claims.LaneResultLands := by
  unfold Claims.LaneResultLands
  intro s g gid k id r pc lanes vals sh keep late hg htrap hr hwf hlen hw hp
  let d := dropOut g true id
  let t1 := vPut (s.setGrp gid d) gid d r lanes vals
  let h : Group := { d with vsh := vset d.vsh r (if vFlight t1 gid d r then .top else sh) }
  have hland : landWrite (s.setGrp gid d) gid keep 0 true (.v r lanes vals sh false) = t1.setGrp gid h := by
    simp only [landWrite, State.grp_setGrp, Bool.false_or, none_kept]
    rfl
  have hret : exec (.resultReturn gid true k keep late) s = .next (t1.setGrp gid h) := by
    rw [exec_resultReturn keep late hg hp rfl rfl]
    refine congrArg Host.Outcome.next ((returnGood_one (pc := pc) keep rfl).trans ?_)
    rw [hland, leave, if_pos rfl]
    exact enterTrap_idle (State.grp_setGrp ..) htrap
  refine ⟨t1.setGrp gid h, h, hret, ?_, ?_, ?_, ?_⟩
  · simp only [t1, vPut, clearOlds, State.setGrp, Store.put_put]
  · intro o
    have hword (w : Nat) : w ∈ (lanesOf (lanes &&& d.all)).map (rfKey (coreOf gid) d.row0 d.width r) ↔
        ∃ l, l < g.width ∧ lanes.getLsbD l = true ∧ w = rfKey (coreOf gid) g.row0 g.width r l := by
      simp only [List.mem_map, mem_lanes_all (g := d) hw]
      exact exists_congr fun l => ⟨fun ⟨⟨h1, h2⟩, h3⟩ => ⟨h2, h1, h3.symm⟩, fun ⟨h1, h2, h3⟩ => ⟨⟨h2, h1⟩, h3.symm⟩⟩
    change o ∈ s.olds.filter _ ↔ _
    simp only [List.mem_filter, Bool.not_eq_true', Bool.and_eq_false_iff, beq_eq_false_iff_ne, ne_eq,
      List.contains_eq_mem, decide_eq_false_iff_not, hword, not_and_or, stRf]
  · rfl
  · intro n l hl
    exact vRaw_vPut (g := d) hwf gid hw r lanes vals n l hl

theorem predicateAndFlagResultsLand : Claims.PredicateAndFlagResultsLand := by
  unfold Claims.PredicateAndFlagResultsLand
  intro s g gid k id pc r lanes vals fs keep late hg htrap hw x
  let d := dropOut g true id
  have hret {w : PWrite} (h : Group) (hmet : w.met = none) (hp : g.ln.out[k]? = some (onePending id pc w))
      (hland : landWrite (s.setGrp gid d) gid keep 0 true w = s.setGrp gid h) (ht : h.trap = none) :
      exec (.resultReturn gid true k keep late) s = .next (s.setGrp gid h) := by
    rw [exec_resultReturn keep late hg hp rfl rfl]
    refine congrArg Host.Outcome.next ((returnGood_one keep hmet).trans ?_)
    rw [hland, leave, if_pos rfl]
    exact enterTrap_idle (State.grp_setGrp ..) ht
  refine ⟨fun hp hr => ?_, fun hp => ?_⟩
  · let m := lanes &&& g.all
    refine ⟨vset g.p r ((vget g.p r &&& ~~~m) ||| (vals &&& m)), hret _ rfl hp ?_ htrap, ?_, ?_⟩
    · simp only [landWrite, State.grp_setGrp, none_kept, State.setGrp_setGrp]
      rfl
    · exact fun n hn => vget_vset_ne _ (Ne.symm hn) _
    · intro l
      rw [vget_vset_self _ hr, BitVec.getLsbD_or, BitVec.getLsbD_and, BitVec.getLsbD_and, BitVec.getLsbD_not]
      by_cases hl : lanes.getLsbD l = true ∧ l < g.width
      · have hm : m.getLsbD l = true := mem_lanesOf.1 ((mem_lanes_all hw).2 hl)
        simp [hm, if_pos hl]
      · have hm : m.getLsbD l = false :=
          Bool.eq_false_iff.2 fun h => hl ((mem_lanes_all hw).1 (mem_lanesOf.2 h))
        rw [hm, if_neg hl, Bool.not_false, Bool.and_true, Bool.and_false, Bool.or_false]
        exact Bool.and_eq_left_iff_imp.2 fun h => decide_eq_true (BitVec.lt_of_getLsbD h)
  · refine ⟨(List.range g.width).foldl (fun v l => vset v l (vget v l ||| nthD 0 fs l)) g.fx, hret _ rfl hp ?_ htrap,
      ?_⟩
    · have hkept (l : Nat) : (keep &&& 0).getLsbD l = false := by simp
      simp only [landWrite, State.grp_setGrp, State.setGrp_setGrp, hkept]
      rfl
    · intro l hl
      rw [vget_foldl_vset (fun l x => x ||| nthD 0 fs l) List.nodup_range]
      simp [hl]

/-- Settles O35: a plain result lands by one write, and its group is what is left of it. -/
theorem resultsLand : Obligations.ResultsLand := by
  unfold Obligations.ResultsLand
  exact ⟨scalarResultLands, laneResultLands, predicateAndFlagResultsLand⟩

end Machine

end Sys2Proof
end

section
/-!
PROOFS. SystemRegisters: what SMFS reads and SMTS writes (R88 to R92, R319).
-/
namespace Sys2Proof

namespace Machine

open Safety

/-! ## SMFS (R88, R92) -/

/-- A read of a system register moves at most the latch of GTCHI. -/
theorem sysLatch_cases (s : State) (g : Group) (num : Nat) : ∃ l, sysLatch s g num = { g with latch := l } := by
  unfold sysLatch
  split
  · exact ⟨_, rfl⟩
  · split
    · exact ⟨_, rfl⟩
    · exact ⟨g.latch, rfl⟩

/-- SMFS leaves the register's value outstanding, in a group whose latch is as the read leaves it. -/
theorem withCur_smfsGo {s : State} {g : Group} (hg : Issues s g) (hroom : g.sc.full = false) {num : Nat}
    (hgate : ¬ ((num = 4 ∨ num = 5) ∧ ¬ g.handler = true ∧ ¬ g.laneIdle = true)) (d : BitVec 6) (sw : Bool) {v : W32}
    (hv : sysVal s s.cur g num = v) :
    withCur s (fun gid g => smfsGo s gid g d num sw) =
      .next (scalarAfter s (sysLatch s g num) (sysKind g num) [wSreg g d v (.itv v.toInt v.toInt)] (g.spc + 4) sw) := by
  rw [withCur_next hg, smfsGo, if_neg hgate, if_neg (by simp [hroom]), hv]
  obtain ⟨l, hl⟩ := sysLatch_cases s g num
  rw [hl]
  exact congrArg Host.Outcome.next (issueSK_eq_scalarAfter (g := { g with latch := l }) hroom ..)

/-- TRAPPC's word offset, where the trap address has one that its field holds (R319). -/
theorem trappcVal_eq {s : State} {g : Group} {off : Int} (hlo : -1073741824 < off) (hhi : off < 1073741824)
    (hunit : 0 < (trapBaseUnit s g).2)
    (htpc : (g.tpc.toNat : Int) = (trapBaseUnit s g).1 + (trapBaseUnit s g).2 * off) :
    trappcVal s g = BitVec.ofBool (bit g.tcause 8) ++ BitVec.ofInt 31 off := by
  have hne : ((trapBaseUnit s g).2 : Int) ≠ 0 := by omega
  have hd : (g.tpc.toNat : Int) - (trapBaseUnit s g).1 = (trapBaseUnit s g).2 * off := by omega
  have hmod : (g.tpc.toNat - (trapBaseUnit s g).1 : Int) % (trapBaseUnit s g).2 = 0 := by
    rw [hd, Int.mul_emod_right]
  have hdiv : (g.tpc.toNat - (trapBaseUnit s g).1 : Int) / (trapBaseUnit s g).2 = off := by
    rw [hd, Int.mul_ediv_cancel_left _ hne]
  simp only [trappcVal, hmod, hdiv, ne_eq, not_true_eq_false, if_false]
  rw [if_neg (by omega)]

theorem systemRegisterReads : Claims.SystemRegisterReads := by
  unfold Claims.SystemRegisterReads
  intro s g d sw hg hroom lands lo hi hiKind
  have go {num : Nat} (hnum : ¬ (num = 4 ∨ num = 5)) {v : W32} (hv : sysVal s s.cur g num = v) :=
    withCur_smfsGo hg hroom (mt And.left hnum) d sw hv
  have hkind : sysKind g 0x015 = hiKind := by
    simp only [sysKind, hiKind]
    by_cases h : g.latch = none <;> simp [h]
  have hlo := go (num := 0x014) (by decide) rfl
  have hhi := go (num := 0x015) (by decide) rfl
  rw [hkind] at hhi
  have exm {num : Nat} {v : W32} (hidle : g.handler = true ∨ g.laneIdle = true) (hv : sysVal s s.cur g num = v) :=
    withCur_smfsGo hg hroom (fun h => h.2.elim fun h1 h2 => hidle.elim h1 h2) d sw hv
  refine ⟨hlo, hhi, hlo, hhi, go (num := 0) (by decide) rfl, go (num := 1) (by decide) ?_, go (num := 2) (by decide)
      rfl,
    go (num := 3) (by decide) rfl, go (num := 8) (by decide) ?_, go (num := 9) (by decide) ?_,
    go (num := 10) (by decide) ?_, go (num := 0x011) (by decide) rfl, go (num := 0x012) (by decide) rfl,
    go (num := 0x013) (by decide) rfl, ?_, ?_, ?_, ?_, ?_⟩
  · exact (BitVec.ofNat_toNat ..).symm
  · exact (BitVec.ofNat_toNat ..).symm
  · exact (BitVec.ofNat_toNat ..).symm
  · exact (BitVec.ofNat_toNat ..).symm
  · intro k t hk ht
    refine go (num := 0x010) (by decide) ?_
    simp only [sysVal, wlocVal, hk, Option.bind_some, ht]
  · intro hk
    refine go (num := 0x010) (by decide) ?_
    simp only [sysVal, wlocVal, Group.tkey, hk, Option.map_none, Option.bind_none]
  · intro hh
    refine ⟨?_, go (num := 0x025) (by decide) ?_, go (num := 0x021) (by decide) rfl, go (num := 0x022) (by decide) rfl,
      go (num := 0x023) (by decide) rfl, go (num := 0x024) (by decide) rfl⟩
    · intro off h1 h2 htpc
      refine go (num := 0x020) (by decide) (trappcVal_eq h1 h2 ?_ ?_)
      · unfold trapBaseUnit
        split <;> exact Nat.succ_pos _
      · rw [htpc]
        unfold trapBaseUnit bit
        split <;> rfl
    · refine (BitVec.ofNat_toNat ..).symm.trans (congrArg (BitVec.ofNat 32) ?_)
      have := g.tpc.isLt
      rw [bits_toNat]
      omega
  · intro hs hidle
    have hseen : exmSeen g = g.ctx.exm := by simp only [exmSeen, hs]
    exact ⟨exm (num := 4) (.inr hidle) (hseen ▸ rfl), exm (num := 5) (.inr hidle) (hseen ▸ rfl)⟩
  · intro pc c hs
    have hseen : exmSeen g = c.exm := by simp only [exmSeen, hs]
    have hh : g.handler = true := by simp [Group.handler, hs]
    exact ⟨exm (num := 4) (.inl hh) (hseen ▸ rfl), exm (num := 5) (.inl hh) (hseen ▸ rfl)⟩

/-! ## SMTS (R92, R319) -/

section Write

variable {s : State} {g : Group}

/-- The three fields of MODE that a write must leave clear, or in range (R92). -/
theorem mode_bad_iff (v : W32) : (bits v 13 19 != 0 || bits v 6 2 != 0 || decide (6 ≤ (bits v 0 3).toNat)) = false ↔
    (decide (v.toNat < 2 ^ 13) && decide (v.toNat / 64 % 4 = 0) && decide (v.toNat % 8 < 6)) = true := by
  have := v.isLt
  simp only [Bool.or_eq_false_iff, bne_eq_false_iff_eq, bits_eq_zero_iff, decide_eq_false_iff_not, bits_toNat,
    Bool.and_eq_true, decide_eq_true_eq]
  omega

theorem writeMode_legal {v : W32}
    (h : (decide (v.toNat < 2 ^ 13) && decide (v.toNat / 64 % 4 = 0) && decide (v.toNat % 8 < 6)) = true) (sw : Bool) :
    writeMode s s.cur g v sw = scalarOn s { g with mode := v } (g.spc + 4) sw := by
  rw [writeMode, (mode_bad_iff v).2 h, if_neg (by decide)]
  rfl

theorem writeMode_illegal {v : W32}
    (h : (decide (v.toNat < 2 ^ 13) && decide (v.toNat / 64 % 4 = 0) && decide (v.toNat % 8 < 6)) = false) (sw : Bool) :
    writeMode s s.cur g v sw = raiseS s s.cur g .operand 14 := by
  rw [writeMode, if_pos]
  · rfl
  · exact Bool.of_not_eq_false fun hbad => Bool.eq_false_iff.1 h ((mode_bad_iff v).1 hbad)

/-- A trap address that is a multiple of 4 is taken. -/
theorem setTpc_aligned {pc : Va} (h : pc.toNat % 4 = 0) (sw : Bool) :
    setTpc s s.cur g pc sw = scalarOn s { g with tpc := pc, tpcWr := true } (g.spc + 4) sw := by
  have hz : bits pc 0 2 = 0 := (bits_eq_zero_iff ..).2 (by omega)
  rw [setTpc, hz, if_neg (by decide)]
  rfl

end Write

theorem systemRegisterWrites : Claims.SystemRegisterWrites := by
  unfold Claims.SystemRegisterWrites
  intro s g a sw hg v legal on
  refine ⟨fun h => ?_, fun h => ?_, ?_, ?_⟩
  · have hrun := (withCur_next hg fun gid g => writeMode s gid g (sVal s.picks g a.toNat) sw).trans
      (congrArg Host.Outcome.next (writeMode_legal h sw))
    exact ⟨hrun, hrun⟩
  · have hrun := (withCur_next hg fun gid g => writeMode s gid g (sVal s.picks g a.toNat) sw).trans
      (congrArg Host.Outcome.next (writeMode_illegal h sw))
    exact ⟨hrun, hrun⟩
  · intro pc c hs lo hi
    have hh : g.handler = true := by simp [Group.handler, hs]
    have both {k : Nat → Group → W32 → State} {h : Group} (hk : k s.cur g v = scalarOn s h (g.spc + 4) sw) :
        withCur s (fun gid g => inHandler s gid g (k gid g (sVal s.picks g a.toNat))) = .next (scalarOn s h (g.spc +
            4) sw) ∧
        withCur s (fun gid g => k gid g (sVal s.picks g a.toNat)) = .next (scalarOn s h (g.spc + 4) sw) := by
      rw [withCur_next hg, withCur_next hg, inHandler, if_pos hh]
      exact ⟨congrArg Host.Outcome.next hk, congrArg Host.Outcome.next hk⟩
    have hexm (up : Bool) : writeExm s s.cur g up v sw = scalarOn s (if up then hi else lo) (g.spc + 4) sw := by
      simp only [writeExm, hs]
      cases up <;> rfl
    obtain ⟨h1, h2⟩ := both (k := fun gid g v => writeExm s gid g false v sw) (hexm false)
    obtain ⟨h3, h4⟩ := both (k := fun gid g v => writeExm s gid g true v sw) (hexm true)
    obtain ⟨h5, h6⟩ := both (k := fun gid g v => writeTrapinfo s gid g v sw) (h := { g with tinfo := v }) rfl
    refine ⟨h1, h2, h3, h4, h5, h6, ?_, ?_, ?_⟩
    · intro hv lo
      refine both (k := fun gid g v => writeTrappclo s gid g v sw) (setTpc_aligned ?_ sw)
      have := toNat_append_eq_add (bits g.tpc 32 25) v
      omega
    · intro hv ht hi
      have hz : bits v 25 7 = 0 := (bits_eq_zero_iff ..).2 (by have := v.isLt; omega)
      refine both (k := fun gid g v => writeTrappchi s gid g v sw) ?_
      rw [writeTrappchi, hz, if_neg (by decide)]
      refine setTpc_aligned ?_ sw
      have := toNat_append_eq_add (bits v 0 25) (bits g.tpc 0 32)
      rw [bits_toNat g.tpc] at this
      omega
    · intro d lane at_ hat off
      have htpc : BitVec.ofInt 57 ((trapBaseUnit s g).1 + (trapBaseUnit s g).2 * (bits v 0 31).toInt) = BitVec.ofInt
          57 at_ := by
        by_cases hl : bit g.tcause 8 = true
        · rw [show trapBaseUnit s g = (d.lbase, 12) from if_pos hl, show at_ = _ from if_pos hl]
          rfl
        · rw [show trapBaseUnit s g = (d.sentry, 4) from if_neg hl, show at_ = _ from if_neg hl]
          rfl
      refine both (k := fun gid g v => writeTrappc s gid g v sw) ?_
      simp only [writeTrappc, htpc]
      refine setTpc_aligned ?_ sw
      rw [BitVec.toNat_ofInt]
      omega
  · intro hs i hi
    have hh : ¬ g.handler = true := by simp [Group.handler, hs]
    have trap (k : Nat → Group → State) :
        withCur s (fun gid g => inHandler s gid g (k gid g)) = .next (raiseS s s.cur g .illegal 0x501) := by
      rw [withCur_next hg, inHandler, if_neg hh]
      rfl
    simp only [List.mem_cons, List.not_mem_nil, or_false] at hi
    obtain rfl | rfl | rfl | rfl | rfl | rfl := hi
    · exact trap fun gid g => writeExm s gid g false (sVal s.picks g a.toNat) sw
    · exact trap fun gid g => writeExm s gid g true (sVal s.picks g a.toNat) sw
    · exact trap fun gid g => writeTrappc s gid g (sVal s.picks g a.toNat) sw
    · exact trap fun gid g => writeTrappclo s gid g (sVal s.picks g a.toNat) sw
    · exact trap fun gid g => writeTrappchi s gid g (sVal s.picks g a.toNat) sw
    · exact trap fun gid g => writeTrapinfo s gid g (sVal s.picks g a.toNat) sw

/-- Settles O36: SMFS and SMTS are one read and one write each, and what differs is the register's value. -/
theorem systemRegisters : Obligations.SystemRegisters := by
  unfold Obligations.SystemRegisters
  exact ⟨systemRegisterReads, systemRegisterWrites⟩

end Machine

end Sys2Proof
end

section
/-!
PROOFS. Blocks: LRUN, the start and end of a lane block, LSYNC (R28 to R32, R93, R104).
-/
namespace Sys2Proof

namespace Machine

open Safety

/-! ## LRUN (R31, R93, R104) -/

/-- A register that no unseen lane write names is the register itself. -/
theorem newestS_unseen {g : Group} {n : Nat} (h : ∀ e ∈ g.pub, e.1 ≠ g.sKey n) : newestS g n = g.sAt (g.sKey n) := by
  have hnone : g.pub.filter (fun e => e.1 == g.sKey n) = [] := by
    simpa [List.filter_eq_nil_iff] using h
  simp only [newestS, hnone, List.getLast?_nil]

/-- A register that a lane write names is what the last of them wrote. -/
theorem newestS_last {g : Group} {n : Nat} {v : W32} {sh : Shadow} {xs ys : List (Nat × W32 × Shadow)}
    (hpub : g.pub = xs ++ (g.sKey n, v, sh) :: ys) (hys : ∀ e ∈ ys, e.1 ≠ g.sKey n) : newestS g n = (v, sh) := by
  have hnone : ys.filter (fun e => e.1 == g.sKey n) = [] := by
    simpa [List.filter_eq_nil_iff] using hys
  simp [newestS, hpub, hnone]

theorem lrunQueuesBlock : Claims.LrunQueuesBlock := by
  unfold Claims.LrunQueuesBlock
  intro s g idx sw hg n
  refine ⟨fun hn => ?_, fun hn => ?_⟩
  · refine ⟨captureBlock s g (BitVec.ofNat 57 ((s.desc g).lbase + 12 * idx.toNat)), rfl, rfl, ?_, ?_, ?_, ?_, ?_, rfl,
      rfl,
      rfl, ?_⟩
    · intro r hr hpub
      have hnew := newestS_unseen hpub
      exact ⟨(nthD_tabulate ..).trans ((if_pos hr).trans (by rw [hnew])), (nthD_tabulate ..).trans ((if_pos hr).trans
          (by rw [hnew]))⟩
    · intro r hr v sh xs ys hpub hys
      have hnew := newestS_last hpub hys
      exact ⟨(nthD_tabulate ..).trans ((if_pos hr).trans (by rw [hnew])), (nthD_tabulate ..).trans ((if_pos hr).trans
          (by rw [hnew]))⟩
    · intro r hr
      simp [captureBlock, nthD, vget, hr]
    · intro p hp k v sh o hw
      simp only [captureBlock, dueOf, List.mem_flatMap, List.mem_filterMap]
      exact ⟨p, hp, _, hw, rfl⟩
    · intro e he
      simp only [captureBlock, dueOf, List.mem_flatMap, List.mem_filterMap] at he
      obtain ⟨p, hp, w, -, hw⟩ := he
      refine ⟨p, hp, ?_⟩
      cases w <;> cases hw
      rfl
    · change execLrun idx sw s = _
      rw [execLrun, withCur_next hg, if_neg (Nat.not_le.2 hn)]
      rfl
  · change execLrun idx sw s = _
    rw [execLrun, withCur_next hg, if_pos hn]

/-! ## Blocks and LSYNC (R29, R30) -/

theorem publish_spc (g : Group) : g.publish.spc = g.spc := by
  have h (es : List (Nat × W32 × Shadow)) (g : Group) : (es.foldl (fun g e => g.sPut e.1 e.2.1 e.2.2) g).spc = g.spc
      := by
    induction es generalizing g with
    | nil => rfl
    | cons e es ih => rw [List.foldl_cons, ih, sPut_spc]
  exact h g.pub g

theorem laneIdle_iff (g : Group) : g.laneIdle = true ↔ g.ctx.queue = [] ∧ g.ctx.running = none ∧ g.ln.out = [] := by
  simp [Group.laneIdle, and_assoc]

theorem laneBlocks : Claims.LaneBlocks := by
  unfold Claims.LaneBlocks
  intro s gid g sw
  refine ⟨?_, ?_, ?_, ?_⟩
  · intro hg b q hrun hq hh ht htrap
    change execBlockStart gid s = _
    rw [execBlockStart, done, State.updGrp_eq hg]
    simp only [hrun, hq, hh, ht, htrap, Bool.false_or, Option.isSome_none]
    rfl
  · intro hg hex hout
    change execBlockRetire gid s = _
    rw [execBlockRetire, done, State.updGrp_eq hg]
    simp only [hex, hout, List.isEmpty_nil, Bool.and_self, if_true]
  · intro hg hq hrun hout h
    refine ⟨?_, publish_spc g, rfl, ?_⟩
    · change execLsync sw s = _
      rw [execLsync, withCur_next hg, if_pos ((laneIdle_iff g).2 ⟨hq, hrun, hout⟩)]
      rfl
    · intro k v sh ws hpub hk
      change (g.pub.foldl (fun g e => g.sPut e.1 e.2.1 e.2.2) g).sAt k = _
      rw [hpub, List.foldl_append]
      exact sAt_sPut_self _ hk v sh
  · intro hg hbusy
    change execLsync sw s = _
    rw [execLsync, withCur_next hg, if_neg]
    intro hidle
    obtain ⟨h1, h2, h3⟩ := (laneIdle_iff g).1 hidle
    exact hbusy.elim (· h1) (·.elim (· h2) (· h3))

/-- Settles O38: what a block captures is read off register by register; its start, its retirement and LSYNC are one update
of the group each. -/
theorem blocksRun : Obligations.BlocksRun := by
  unfold Obligations.BlocksRun
  exact ⟨lrunQueuesBlock, laneBlocks⟩

end Machine

end Sys2Proof
end

section
/-!
PROOFS. MemoryFrame: what meeting a line's reading, and keeping translations, may move (R229, R238, R241).
-/
namespace Sys2Proof

namespace Machine

/-! ## What reading a line at its home may move (R229, R238, R356) -/

/-- The state without what meeting a line's reading may move: memory and its checks, elytron bits, slices, the loss log,
the platform's counts, the free values and the picks. -/
def offMem (s : State) : State :=
  { s with mem := [], chk := [], ely := [], ecc := [], slices := [], loss := ⟨0, 0, 0, 0⟩, plat := State.reset.plat,
           free := 0, picks := [] }

theorem offMem_setEly (s : State) (line : Nat) (e : BitVec 16) : offMem (setEly s line e) = offMem s := rfl

theorem offMem_writeMem (s : State) (pa : Nat) (bs : List Byte) : offMem (writeMem s pa bs) = offMem s := by
  obtain ⟨c, e, p, h, -⟩ := writeMem_cases s pa bs
  rw [h]
  rfl

theorem offMem_logLoss (s : State) (line kind a : Nat) (inc : BitVec 2) :
    offMem (logLoss s line kind a inc) = offMem s := by
  unfold logLoss
  dsimp only
  split
  · rfl
  · exact offMem_writeMem s _ _

theorem offMem_uncorrectable (s : State) (line : Nat) : offMem (uncorrectable s line) = offMem s :=
  offMem_logLoss _ line 2 0 _

theorem offMem_mediaHit (s : State) (line : Nat) : offMem (mediaHit s line) = offMem s := by
  unfold mediaHit
  dsimp only
  split
  · rfl
  · split <;> split
    · exact offMem_uncorrectable (countCorr _ _) line
    · exact offMem_uncorrectable _ line
    · rfl
    · rfl

theorem offMem_mediaRead (s : State) (line : Nat) : offMem (mediaRead s line) = offMem s := by
  unfold mediaRead
  split
  case h_5 => rfl
  all_goals exact offMem_mediaHit s line

theorem offMem_channelGone (s : State) (line : Nat) : offMem (channelGone s line) = offMem s := by
  unfold channelGone
  split
  · exact offMem_uncorrectable _ line
  · rfl

/-- Meeting a line's reading moves only those. -/
theorem offMem_resolve (s : State) (line : Nat) : offMem (resolve s line) = offMem s := by
  have h : offMem (channelGone (mediaRead s line) line) = offMem s :=
    (offMem_channelGone _ line).trans (offMem_mediaRead s line)
  unfold resolve
  split
  · rfl
  · dsimp only
    split
    · split <;> exact h
    · split
      · split
        · exact (offMem_writeMem _ _ _).trans h
        · exact h
      · exact h
    · split
      · exact (offMem_logLoss _ line 1 _ _).trans h
      · exact h
    · exact h

theorem offMem_foldl_resolve {α : Type} (key : α → Nat) (ls : List α) (s : State) :
    offMem (ls.foldl (fun s x => resolve s (key x)) s) = offMem s := by
  induction ls generalizing s with
  | nil => rfl
  | cons x ls ih => exact (ih _).trans (offMem_resolve s _)

theorem resolve_groups (s : State) (line : Nat) : (resolve s line).groups = s.groups :=
  (congrArg State.groups (offMem_resolve s line) :)

theorem foldl_resolve_groups {α : Type} (key : α → Nat) (ls : List α) (s : State) :
    (ls.foldl (fun s x => resolve s (key x)) s).groups = s.groups :=
  (congrArg State.groups (offMem_foldl_resolve key ls s) :)

/-- Keeping a translation moves those, and the translations kept. -/
theorem offMem_keepTr (s : State) (die asp va : Nat) :
    ∃ tlb, offMem (keepTr s die asp va) = { offMem s with tlb := tlb } := by
  have hw : offMem (resolveWalk s asp va) = offMem s := by
    unfold resolveWalk
    split
    · rfl
    · exact offMem_foldl_resolve id _ s
  unfold keepTr
  split
  · exact ⟨s.tlb, rfl⟩
  · dsimp only
    split
    · exact ⟨s.tlb, hw⟩
    · split
      · next e _ =>
        exact ⟨(resolveWalk s asp va).tlb ++ [e],
          (congrArg (fun u : State => { u with tlb := (resolveWalk s asp va).tlb ++ [e] }) hw :)⟩
      · exact ⟨s.tlb, hw⟩

theorem offMem_keepTrs (die asp : Nat) (vas : List Nat) (s : State) :
    ∃ tlb, offMem (keepTrs s die asp vas) = { offMem s with tlb := tlb } := by
  induction vas generalizing s with
  | nil => exact ⟨s.tlb, rfl⟩
  | cons va vas ih =>
    obtain ⟨t, ht⟩ := offMem_keepTr s die asp va
    obtain ⟨t', ht'⟩ := ih (keepTr s die asp va)
    exact ⟨t', ht'.trans (by rw [ht])⟩

theorem keepTrs_groups (s : State) (die asp : Nat) (vas : List Nat) : (keepTrs s die asp vas).groups = s.groups := by
  obtain ⟨t, ht⟩ := offMem_keepTrs die asp vas s
  exact (congrArg State.groups ht :)

/-! ## The picks that are not about a line's reading stay as they are -/

theorem writeMem_picks (s : State) (pa : Nat) (bs : List Byte) : (writeMem s pa bs).picks = s.picks := by
  obtain ⟨c, e, p, h, -⟩ := writeMem_cases s pa bs
  rw [h]

theorem logLoss_picks (s : State) (line kind a : Nat) (inc : BitVec 2) : (logLoss s line kind a inc).picks = s.picks
    := by
  unfold logLoss
  dsimp only
  split
  · rfl
  · exact writeMem_picks s _ _

theorem uncorrectable_picks (s : State) (line : Nat) : (uncorrectable s line).picks = s.picks :=
  logLoss_picks _ line 2 0 _

/-- The pick of another key is not touched where a line's own is dropped. -/
theorem pickMask_filter_ne {picks : List (Nat × Mask)} {key j : Nat} (h : key ≠ j) :
    pickMask (picks.filter fun e => e.1 != j) key = pickMask picks key := by
  unfold pickMask
  rw [List.find?_filter]
  congr 3
  funext e
  by_cases he : e.1 = key
  · simp [he, h]
  · simp [he]

theorem pickMask_mediaHit (s : State) (line : Nat) {key : Nat} (h : key < 2 ^ 50) :
    pickMask (mediaHit s line).picks key = pickMask s.picks key := by
  have hk : pickMask (s.picks.filter fun e => e.1 != pkMedia line) key = pickMask s.picks key :=
    pickMask_filter_ne (by unfold pkMedia; omega)
  unfold mediaHit
  dsimp only
  split
  · rfl
  · split <;> split
    · rw [uncorrectable_picks]; exact hk
    · rw [uncorrectable_picks]; exact hk
    · exact hk
    · exact hk

theorem pickMask_mediaRead (s : State) (line : Nat) {key : Nat} (h : key < 2 ^ 50) :
    pickMask (mediaRead s line).picks key = pickMask s.picks key := by
  unfold mediaRead
  split
  case h_5 => rfl
  all_goals exact pickMask_mediaHit s line h

theorem channelGone_picks (s : State) (line : Nat) : (channelGone s line).picks = s.picks := by
  unfold channelGone
  split
  · exact uncorrectable_picks _ line
  · rfl

theorem pickMask_resolve (s : State) (line : Nat) {key : Nat} (h : key < 2 ^ 50) :
    pickMask (resolve s line).picks key = pickMask s.picks key := by
  have hm : pickMask (channelGone (mediaRead s line) line).picks key = pickMask s.picks key := by
    rw [channelGone_picks]
    exact pickMask_mediaRead s line h
  unfold resolve
  split
  · rfl
  · dsimp only
    split
    · split <;> exact hm
    · split
      · split
        · refine Eq.trans ?_ hm
          exact congrArg (pickMask · key) (writeMem_picks _ _ _)
        · exact hm
      · exact hm
    · split
      · exact (congrArg (pickMask · key) (logLoss_picks _ _ _ _ _)).trans hm
      · exact hm
    · exact hm

theorem pickMask_foldl_resolve {α : Type} (f : α → Nat) (ls : List α) (s : State) {key : Nat} (h : key < 2 ^ 50) :
    pickMask (ls.foldl (fun s x => resolve s (f x)) s).picks key = pickMask s.picks key := by
  induction ls generalizing s with
  | nil => rfl
  | cons x ls ih => exact (ih _).trans (pickMask_resolve s _ h)

theorem pickMask_keepTr (s : State) (die asp va : Nat) {key : Nat} (h : key < 2 ^ 50) :
    pickMask (keepTr s die asp va).picks key = pickMask s.picks key := by
  have hw : pickMask (resolveWalk s asp va).picks key = pickMask s.picks key := by
    unfold resolveWalk
    split
    · rfl
    · exact pickMask_foldl_resolve id _ s h
  unfold keepTr
  split
  · rfl
  · dsimp only
    split
    · exact hw
    · split <;> exact hw

theorem pickMask_keepTrs (die asp : Nat) (vas : List Nat) (s : State) {key : Nat} (h : key < 2 ^ 50) :
    pickMask (keepTrs s die asp vas).picks key = pickMask s.picks key := by
  induction vas generalizing s with
  | nil => rfl
  | cons va vas ih => exact (ih _).trans (pickMask_keepTr s die asp va h)

end Machine

end Sys2Proof
end

section
/-!
PROOFS. Fetching: a stream's step: its word is fetched in parts, decoded and run (R29, R52, R71); the words of the manual; reset.
-/
namespace Sys2Proof

/-- Putting back what a key holds changes nothing. -/
theorem Store.put_find {α : Type} {m : List (Nat × α)} {k : Nat} {v : α} (h : Store.find m k = some v) :
    Store.put m k v = m := by
  induction m with
  | nil => simp [Store.find] at h
  | cons e m ih =>
    obtain ⟨j, x⟩ := e
    by_cases h1 : j < k
    · simp only [Store.find, if_pos h1] at h
      simp [Store.put, h1, ih h]
    · by_cases h2 : j = k
      · subst h2
        simp [Store.find] at h
        simp [Store.put, h]
      · simp [Store.find, h1, h2] at h

namespace Machine

open Safety

/-! ## Fetching a word (R29, R71) -/

/-- The parts of a word that are there, each with its address. -/
theorem fetchParts_eq {s : State} {gid : Nat} {g : Group} {lane : Bool} {picks : List (Nat × Mask)} {pc n : Nat}
    {pa : Nat → Nat} {home : Nat → List Byte} (k : State → List Byte → State ⊕ (State × Instr))
    (hp : pickMask s.picks pkParts = pickMask picks pkParts)
    (hr : ∀ j, j < n → ∃ bad, homeRead s (pa j) 4 = some (home j, bad)) :
    fetchParts s gid g lane (((List.range n).map fun j => pc + 4 * j).zip ((List.range n).map pa)) k =
      let got := (List.range n).filterMap fun j =>
        (partNow g picks lane pc home j).map fun b => (pc + 4 * j, b)
      if got.length < n then .inl (setParts s gid lane got)
      else k (if (g.str lane).parts.isEmpty then s else setParts s gid lane []) (got.flatMap (·.2)) := by
  have hpart : ∀ j ∈ List.range n, fetchPart s (g.str lane).parts j (pc + 4 * j) (pa j) =
      partNow g picks lane pc home j := by
    intro j hj
    obtain ⟨bad, hb⟩ := hr j (List.mem_range.1 hj)
    unfold fetchPart partNow
    rw [hp, hb]
    rfl
  have hgot : ((((List.range n).map fun j => pc + 4 * j).zip ((List.range n).map pa)).mapIdx fun i p =>
      (p.1, fetchPart s (g.str lane).parts i p.1 p.2)) =
      (List.range n).map fun j => (pc + 4 * j, fetchPart s (g.str lane).parts j (pc + 4 * j) (pa j)) :=
    List.ext_getElem (by simp) fun i _ _ => by simp
  have hmap : ((List.range n).filterMap fun j =>
      (fetchPart s (g.str lane).parts j (pc + 4 * j) (pa j)).map fun b => (pc + 4 * j, b)) =
      (List.range n).filterMap fun j => (partNow g picks lane pc home j).map fun b => (pc + 4 * j, b) :=
    List.filterMap_congr fun j hj => by rw [hpart j hj]
  unfold fetchParts
  simp only [hgot, List.filterMap_map, Function.comp_def, hmap, List.length_zip, List.length_map, List.length_range,
    Nat.min_self]

/-- A word whose parts translate and can be read is fetched part by part. -/
theorem fetchBytes_eq {s : State} {gid : Nat} {g : Group} {lane : Bool} {pc : Va} {n : Nat} {pa : Nat → Nat}
    {home : Nat → List Byte} (k : State → List Byte → State ⊕ (State × Instr)) :
    let die := dieOf (coreOf gid)
    let vas := (List.range n).map fun j => pc.toNat + 4 * j
    let s1 := keepTrs s die (aspOf s g) vas
    let s2 := (List.range n).foldl (fun s j => resolve s (pa j / 128)) s1
    (∀ j, j < n → (∃ e, translate s1 die (aspOf s g) (pc.toNat + 4 * j) .fetch = .ok (pa j) e) ∧
      (paKind s1 (pa j)).line = true ∧ ∃ bad, homeRead s2 (pa j) 4 = some (home j, bad)) →
    fetchBytes s gid g lane pc (4 * n) k = fetchParts s2 gid g lane (vas.zip ((List.range n).map pa)) k := by
  intro die vas s1 s2 h
  have hv : tabulate (4 * n / 4) (fun i => pc.toNat + 4 * i) = vas := by
    rw [Nat.mul_div_cancel_left n (by decide)]
    rfl
  have hgood : firstBad (vas.map fun va => (va, translate s1 die (aspOf s g) va .fetch)) = none := by
    refine List.find?_eq_none.2 fun t ht => ?_
    obtain ⟨va, hva, rfl⟩ := List.mem_map.1 ht
    obtain ⟨j, hj, rfl⟩ := List.mem_map.1 hva
    obtain ⟨⟨e, he⟩, -⟩ := h j (List.mem_range.1 hj)
    simp [he]
  have hpas : (pasOf (vas.map fun va => (va, translate s1 die (aspOf s g) va .fetch))).map (·.1) =
      (List.range n).map pa := by
    unfold pasOf
    rw [List.filterMap_map, List.filterMap_map, List.map_filterMap, ← List.filterMap_eq_map]
    refine List.filterMap_congr fun j hj => ?_
    obtain ⟨⟨e, he⟩, -⟩ := h j (List.mem_range.1 hj)
    simp [he]
  have hline : ((List.range n).map pa).find? (fun p => !(paKind s1 p).line) = none := by
    refine List.find?_eq_none.2 fun p hp => ?_
    obtain ⟨j, hj, rfl⟩ := List.mem_map.1 hp
    simp [(h j (List.mem_range.1 hj)).2.1]
  have hfold : ((List.range n).map pa).foldl (fun s p => resolve s (p / 128)) s1 = s2 := List.foldl_map
  have hread : ((List.range n).map pa).find? (fun p => (homeRead s2 p 4).isNone) = none := by
    refine List.find?_eq_none.2 fun p hp => ?_
    obtain ⟨j, hj, rfl⟩ := List.mem_map.1 hp
    obtain ⟨bad, hb⟩ := (h j (List.mem_range.1 hj)).2.2
    simp [hb]
  unfold fetchBytes
  simp only [hv]
  dsimp only [vas, s1, s2, die] at hgood hpas hline hfold hread ⊢
  rw [hgood]
  simp only [hpas, hline, hfold, hread]

end Machine

namespace Machine

open Safety

/-! ## A step of a stream (R29, R33, R67) -/

/-- With no pop due nothing happens before a lane word. -/
theorem beforeLane_converged {s : State} {gid : Nat} {g : Group} (hg : s.grp gid = some g) (hc : converged g = true) :
    beforeLane s gid g = s := by
  have hset : s.setGrp gid g = s := by
    unfold State.grp at hg
    simp only [State.setGrp, Store.put_find hg]
  unfold beforeLane
  rw [reconverge]
  unfold converged at hc
  split
  · exact hset
  · next t rest hh =>
    rw [hh] at hc
    rw [if_neg (by simpa using hc)]
    exact hset

section Prepare
variable {s s' : State} {gid : Nat} {g : Group} {lane : Bool} {picks : List (Nat × Mask)}
  (hg : s.grp gid = some g) (hi : canIssue s gid g lane = true) (hc : lane = true → converged g = true)
include hg hi hc

/-- Nothing stands before the fetch of a stream that may issue, with no pop due. -/
theorem prepare_ready : (if lane then beforeLane s gid g else s) = s ∧ (lane && !converged g) = false := by
  cases lane
  · exact ⟨rfl, rfl⟩
  · exact ⟨beforeLane_converged hg (hc rfl), by simp [hc rfl]⟩

/-- A word that is not there yet does not issue. -/
theorem prepare_inl (hf : fetchWord { s with cur := gid, picks := picks } gid g lane = .inl s') :
    prepare s gid lane picks = .inl s' := by
  obtain ⟨hb, hn⟩ := prepare_ready hg hi hc
  simp only [prepare, hg, hi, hb, hn, hf, Bool.not_true, Bool.false_or, Bool.false_eq_true, if_false]

/-- A word that is there issues, unless it waits for a register. -/
theorem prepare_inr {i : Instr} (hf : fetchWord { s with cur := gid, picks := picks } gid g lane = .inr (s', i)) :
    prepare s gid lane picks = if lane && waitsS g i then .inl s' else .inr (s', i) := by
  obtain ⟨hb, hn⟩ := prepare_ready hg hi hc
  simp only [prepare, hg, hi, hb, hn, hf, Bool.not_true, Bool.false_or, Bool.false_eq_true, if_false]

end Prepare

/-- A word that is prepared takes the step that its instruction means. -/
theorem issueStep_exec {s s3 : State} {gid : Nat} {g3 : Group} {lane : Bool} {picks : List (Nat × Mask)} {i : Instr}
    (hp : prepare s gid lane picks = .inr (s3, i)) (hg : s3.grp gid = some g3) :
    (∀ t, exec i s3 = .next t → issueStep s gid lane picks = .next (settle g3 gid lane i t)) ∧
    ∀ f, exec i s3 = .fault f → issueStep s gid lane picks = .fault f := by
  constructor
  · intro t ht
    simp only [issueStep, hp, ht, hg]
  · intro f hf
    simp only [issueStep, hp, hf]

/-- A word at which no breakpoint fires is fetched in its parts and decoded. -/
theorem fetchWord_eq {s : State} {gid : Nat} {g : Group} {lane : Bool}
    (hb : breakSlot s gid g lane (if lane then g.ctx.lpc else g.spc) = none)
    (ha : lane = false → (if lane then g.ctx.lpc else g.spc).toNat % 4 = 0) :
    fetchWord s gid g lane =
      fetchBytes s gid g lane (if lane then g.ctx.lpc else g.spc) (4 * if lane then 3 else 1) fun s bs => .inr (s,
        if lane then orIllegal true (decodeLane (groupCtx g) (ofBytes 96 bs))
        else orIllegal false (decodeScalar (groupCtx g) (ofBytes 32 bs))) := by
  cases lane
  · have hz := ha rfl
    simp only [Bool.false_eq_true, if_false] at hb hz ⊢
    simp only [fetchWord, Bool.false_eq_true, if_false, hb, hz]
    rfl
  · simp only [if_true] at hb ⊢
    simp only [fetchWord, if_true, hb]

/-- The stream fetches its word's parts, and issues the instruction that they decode to. -/
theorem step_issue {s : State} {g : Group} {gid : Nat} {picks : List (Nat × Mask)} {rest : List Act}
    (hg : s.grp gid = some g) (lane : Bool) {pa : Nat → Nat} {home : Nat → List Byte}
    (ht : s.tape = .issue gid lane picks :: rest) (hi : canIssue s gid g lane = true)
    (hc : lane = true → converged g = true) :
    let s0 := { s with tape := rest, sent := [], cur := gid, picks := picks }
    let die := dieOf (coreOf gid)
    let asp := aspOf s g
    let at_ := if lane then g.ctx.lpc else g.spc
    let pc := at_.toNat
    let n := if lane then 3 else 1
    breakSlot s gid g lane at_ = none → (lane = false → pc % 4 = 0) →
    let s1 := keepTrs s0 die asp ((List.range n).map fun j => pc + 4 * j)
    let s2 := (List.range n).foldl (fun s j => resolve s (pa j / 128)) s1
    (∀ j, j < n → (∃ e, translate s1 die asp (pc + 4 * j) .fetch = .ok (pa j) e) ∧ (paKind s1 (pa j)).line = true ∧
      ∃ bad, homeRead s2 (pa j) 4 = some (home j, bad)) →
    let got := (List.range n).filterMap fun j => (partNow g picks lane pc home j).map fun b => (pc + 4 * j, b)
    (got.length < n → step s = .next (s2.updGrp gid fun g => withParts g lane got)) ∧
    (got.length = n →
      let kept := (g.str lane).parts
      let s3 := if kept = [] then s2 else s2.updGrp gid fun g => withParts g lane []
      let g3 := if kept = [] then g else withParts g lane []
      let word := got.flatMap (·.2)
      let i := if lane then orIllegal true (decodeLane (groupCtx g) (ofBytes 96 word))
        else orIllegal false (decodeScalar (groupCtx g) (ofBytes 32 word))
      (lane = true → waitsS g i = true → step s = .next s3) ∧
      (lane = false ∨ waitsS g i = false →
        (∀ t, exec i s3 = .next t → step s = .next (settle g3 gid lane i t)) ∧
        ∀ f, exec i s3 = .fault f → step s = .fault f)) := by
  intro s0 die asp at_ pc n hb ha s1 s2 hread got
  have hstep : step s = issueStep { s with tape := rest, sent := [] } gid lane picks := by
    simp only [step, nextAct, ht]
  have hs2 : s2.grp gid = some g := by
    have : s2.groups = s.groups :=
      (foldl_resolve_groups (fun j => pa j / 128) _ s1).trans (keepTrs_groups s0 die asp _)
    unfold State.grp at hg ⊢
    rw [this, hg]
  have hpick : pickMask s2.picks pkParts = pickMask picks pkParts :=
    (pickMask_foldl_resolve (fun j => pa j / 128) _ s1 (by decide)).trans
      (pickMask_keepTrs die asp _ s0 (by decide))
  have hfetch : fetchWord s0 gid g lane =
      if got.length < n then .inl (setParts s2 gid lane got)
      else .inr (if (g.str lane).parts.isEmpty then s2 else setParts s2 gid lane [],
        if lane then orIllegal true (decodeLane (groupCtx g) (ofBytes 96 (got.flatMap (·.2))))
        else orIllegal false (decodeScalar (groupCtx g) (ofBytes 32 (got.flatMap (·.2))))) :=
    (fetchWord_eq (s := s0) hb ha).trans ((fetchBytes_eq _ hread).trans
      (fetchParts_eq _ hpick fun j hj => (hread j hj).2.2))
  constructor
  · intro hlt
    rw [if_pos hlt] at hfetch
    rw [hstep, issueStep, prepare_inl (s := { s with tape := rest, sent := [] }) hg hi hc hfetch]
    rfl
  · intro hn kept s3 g3 word i
    rw [if_neg (by omega)] at hfetch
    have hs3 : (if (g.str lane).parts.isEmpty then s2 else setParts s2 gid lane []) = s3 := by
      by_cases hk : kept = []
      · simp [s3, kept, List.isEmpty_iff]
        rfl
      · simp [s3, kept, List.isEmpty_iff]
        rfl
    rw [hs3] at hfetch
    have hg3 : s3.grp gid = some g3 := by
      by_cases hk : kept = []
      · simp only [s3, g3, if_pos hk, hs2]
      · simp only [s3, g3, if_neg hk, State.grp_updGrp, hs2, Option.map_some]
    constructor
    · intro hl hw
      have hw' : (lane && waitsS g i) = true := by simp [hl, hw]
      rw [hstep, issueStep, prepare_inr (s := { s with tape := rest, sent := [] }) hg hi hc hfetch, if_pos hw']
    · intro hw
      rw [hstep]
      refine issueStep_exec ?_ hg3
      have hw' : ¬ (lane && waitsS g i) = true := by
        rcases hw with h | h <;> simp [h]
      rw [prepare_inr (s := { s with tape := rest, sent := [] }) hg hi hc hfetch, if_neg hw']

/-- A scalar word at an address that is no multiple of 4 is none. -/
theorem step_misaligned {s : State} {g : Group} {gid : Nat} {picks : List (Nat × Mask)} {rest : List Act}
    (hg : s.grp gid = some g) (ht : s.tape = .issue gid false picks :: rest) (hi : canIssue s gid g false = true)
    (ha : g.spc.toNat % 4 ≠ 0) (hb : breakSlot s gid g false g.spc = none) (t : State)
    (he : exec (.wordNotAnInstruction false 7 0) { s with tape := rest, sent := [], cur := gid, picks := picks } =
      .next t) :
    step s = .next (settle g gid false (.wordNotAnInstruction false 7 0) t) := by
  have hstep : step s = issueStep { s with tape := rest, sent := [] } gid false picks := by
    simp only [step, nextAct, ht]
  have hfetch : fetchWord { s with tape := rest, sent := [], cur := gid, picks := picks } gid g false =
      .inr ({ s with tape := rest, sent := [], cur := gid, picks := picks }, .wordNotAnInstruction false 7 0) := by
    have hb' : breakSlot { s with tape := rest, sent := [], cur := gid, picks := picks } gid g false g.spc = none := hb
    simp only [fetchWord, Bool.false_eq_true, if_false, hb', bne_iff_ne, ne_eq, ha, not_false_eq_true, if_true]
  rw [hstep]
  refine (issueStep_exec (s3 := { s with tape := rest, sent := [], cur := gid, picks := picks }) (g3 := g) ?_ hg).1 t he
  rw [prepare_inr (s := { s with tape := rest, sent := [] }) hg hi (by simp) hfetch]
  rfl

/-- Settles O29. -/
theorem stepRunsDecoded : Obligations.StepRunsDecoded := by
  intro s g gid picks rest hg hs s0 die asp
  refine ⟨?_, ?_, ?_, ?_, ?_⟩
  · intro lane pa home ht hi hc
    exact step_issue hg lane ht hi hc
  · intro ht hi ha hb i t he
    exact step_misaligned hg ht hi ha hb t he
  · intro i ps ht hi
    simp only [step, nextAct, ht, hi, if_true]
  · intro k block regs aregs ht
    simp only [step, nextAct, ht]
    rfl
  · intro op ht
    simp only [step, nextAct, ht]

end Machine

/-- Settles O26. -/
theorem decodeWords : Obligations.DecodeWords := by
  unfold Obligations.DecodeWords
  decide

/-- Settles O31. -/
theorem resetState : Obligations.ResetState := by
  have inv : Safety.Inv Machine.State.reset := by constructor <;> decide
  exact ⟨rfl, rfl, by decide, fun a => rfl, rfl, rfl, rfl, rfl, rfl, rfl, rfl, rfl, rfl, rfl, rfl, rfl, fun a => rfl,
      inv⟩

end Sys2Proof
end

section
/-!
PROOFS. Ends: how a trap is taken, and how groups and teams end (R117, R118, R316 to R321).
-/
namespace Sys2Proof

namespace Store

/-- Removing a key that holds nothing changes nothing. -/
theorem del_of_find_none {α : Type} {m : List (Nat × α)} {k : Nat} (h : find m k = none) : del m k = m := by
  induction m with
  | nil => rfl
  | cons e m ih =>
    obtain ⟨j, x⟩ := e
    by_cases h1 : j < k
    · simp only [find, if_pos h1] at h
      simp [del, h1, ih h]
    · by_cases h2 : j = k
      · simp [find, h2] at h
      · simp [del, h1, h2]

/-- A listed key holds its entry, in a list whose keys rise. -/
theorem find_of_mem {α : Type} {m : List (Nat × α)} (hs : sorted m = true) {k : Nat} {v : α} (h : (k, v) ∈ m) :
    find m k = some v := by
  induction m with
  | nil => cases h
  | cons e m ih =>
    obtain ⟨j, x⟩ := e
    obtain ⟨ha, hs⟩ := (sorted_cons j x m).1 hs
    rcases List.mem_cons.1 h with h | h
    · cases h
      simp [find]
    · have := ha _ h
      simp only [find, if_pos this]
      exact ih hs h

theorem mem_of_find {α : Type} {m : List (Nat × α)} {k : Nat} {v : α} (h : find m k = some v) : (k, v) ∈ m := by
  induction m with
  | nil => simp [find] at h
  | cons e m ih =>
    obtain ⟨j, x⟩ := e
    by_cases h1 : j < k
    · simp only [find, if_pos h1] at h
      exact List.mem_cons_of_mem _ (ih h)
    · by_cases h2 : j = k
      · subst h2
        simp [find] at h
        simp [h]
      · simp [find, h1, h2] at h

theorem sorted_foldl_del {α : Type} {m : List (Nat × α)} (hs : sorted m = true) (ks : List Nat) :
    sorted (ks.foldl del m) = true := by
  induction ks generalizing m with
  | nil => exact hs
  | cons k ks ih => exact ih (sorted_del hs k)

/-- What is left when some keys are removed. -/
theorem find_foldl_del {α : Type} {m : List (Nat × α)} (hs : sorted m = true) (ks : List Nat) (j : Nat) :
    find (ks.foldl del m) j = if j ∈ ks then none else find m j := by
  induction ks generalizing m with
  | nil => simp
  | cons k ks ih =>
    rw [List.foldl_cons, ih (sorted_del hs k)]
    by_cases hk : j = k
    · subst hk
      simp [find_del_self hs]
    · simp [hk, find_del_ne hs k hk]

end Store

namespace Machine

open Safety

/-! ## The end of groups (R118, R317) -/

theorem reap_groups (s : State) (k : Nat) : (reap s k).groups = s.groups := by
  unfold reap
  split
  · rfl
  · split <;> rfl

theorem reap_mem (s : State) (k : Nat) : (reap s k).mem = s.mem := by
  unfold reap
  split
  · rfl
  · split <;> rfl

theorem reap_pfaults (s : State) (k : Nat) : (reap s k).pfaults = s.pfaults := by
  unfold reap
  split
  · rfl
  · split <;> rfl

/-- A team that is still there after a reap is as it was. -/
theorem reap_team {s : State} (hs : Store.sorted s.teams = true) {k j : Nat} {t : Team} (h : (reap s k).team j = some t) :
    s.team j = some t := by
  unfold reap at h
  split at h
  · exact h
  · split at h
    · by_cases hj : j = k
      · subst hj
        have hn : Store.find (Store.del s.teams j) j = some t := h
        rw [Store.find_del_self hs] at hn
        cases hn
      · have hn : Store.find (Store.del s.teams k) j = some t := h
        rwa [Store.find_del_ne hs k hj] at hn
    · exact h

theorem endGroup_groups (s : State) (gid : Nat) : (endGroup s gid).groups = Store.del s.groups gid := by
  unfold endGroup
  split
  · next h => exact (Store.del_of_find_none h).symm
  · dsimp only
    split
    · rfl
    · rw [reap_groups]
      rfl

theorem endGroup_mem (s : State) (gid : Nat) : (endGroup s gid).mem = s.mem := by
  unfold endGroup
  split
  · rfl
  · dsimp only
    split
    · rfl
    · rw [reap_mem]
      rfl

theorem endGroup_pfaults (s : State) (gid : Nat) : (endGroup s gid).pfaults = s.pfaults := by
  unfold endGroup
  split
  · rfl
  · dsimp only
    split
    · rfl
    · rw [reap_pfaults]
      rfl

/-- A team that is still there when one of its groups has ended counts it. -/
theorem endGroup_ended {s : State} {gid : Nat} {g : Group} (hg : s.grp gid = some g) (hs : Store.sorted s.teams = true)
    {k : Nat} {t : Team} (hk : g.tkey = some k) (ht : (endGroup s gid).team k = some t) : g.gidx ∈ t.ended := by
  unfold endGroup at ht
  simp only [hg, hk] at ht
  have h := reap_team (Store.sorted_adjust hs k _) ht
  rw [State.team_updTeam] at h
  obtain ⟨x, -, rfl⟩ := Option.map_eq_some_iff.1 h
  simp

theorem foldl_endGroup_groups (ks : List Nat) (s : State) : (ks.foldl endGroup s).groups = ks.foldl Store.del s.groups
    := by
  induction ks generalizing s with
  | nil => rfl
  | cons k ks ih => rw [List.foldl_cons, List.foldl_cons, ih, endGroup_groups]

theorem foldl_endGroup_mem (ks : List Nat) (s : State) : (ks.foldl endGroup s).mem = s.mem := by
  induction ks generalizing s with
  | nil => rfl
  | cons k ks ih => rw [List.foldl_cons, ih, endGroup_mem]

theorem foldl_endGroup_pfaults (ks : List Nat) (s : State) : (ks.foldl endGroup s).pfaults = s.pfaults := by
  induction ks generalizing s with
  | nil => rfl
  | cons k ks ih => rw [List.foldl_cons, ih, endGroup_pfaults]

/-- The keys of the groups that end with a group. -/
def teamKeys (s : State) (gid : Nat) (g : Group) : List Nat :=
  match g.tid with
  | none => [gid]
  | some _ => (s.groups.filter fun e => e.2.lid == g.lid && e.2.tid == g.tid).map (·.1)

theorem endTeamOf_eq (s : State) (gid : Nat) (g : Group) : endTeamOf s gid g = (teamKeys s gid g).foldl endGroup s := by
  unfold endTeamOf teamKeys
  cases g.tid <;> rfl

/-- Those of the team, or the spawned group alone. -/
theorem mem_teamKeys {s : State} (hs : Store.sorted s.groups = true) {gid : Nat} {g : Group} (hg : s.grp gid = some g)
    {k : Nat} {h : Group} (hk : s.grp k = some h) :
    k ∈ teamKeys s gid g ↔ g.tid ≠ none ∧ h.lid = g.lid ∧ h.tid = g.tid ∨ k = gid := by
  unfold teamKeys
  cases ht : g.tid with
  | none => simp
  | some t =>
    constructor
    · intro hm
      obtain ⟨e, he, rfl⟩ := List.mem_map.1 hm
      obtain ⟨he, hc⟩ := List.mem_filter.1 he
      have : e.2 = h := Option.some.inj ((Store.find_of_mem hs he).symm.trans hk)
      simp only [this, Bool.and_eq_true, beq_iff_eq] at hc
      exact .inl ⟨by simp, hc⟩
    · rintro (⟨-, h1, h2⟩ | rfl)
      · exact List.mem_map.2 ⟨(k, h), List.mem_filter.2 ⟨Store.mem_of_find hk, by simp [h1, h2]⟩, rfl⟩
      · obtain rfl : g = h := Option.some.inj (hg.symm.trans hk)
        exact List.mem_map.2 ⟨(k, g), List.mem_filter.2 ⟨Store.mem_of_find hk, by simp [ht]⟩, rfl⟩

/-- The groups of a team end together, and no other. -/
theorem grp_endTeamOf {s : State} (hs : Store.sorted s.groups = true) {gid : Nat} {g : Group} (hg : s.grp gid = some g)
    {k : Nat} {h : Group} (hk : s.grp k = some h) :
    if g.tid ≠ none ∧ h.lid = g.lid ∧ h.tid = g.tid ∨ k = gid then (endTeamOf s gid g).grp k = none
    else (endTeamOf s gid g).grp k = some h := by
  have hf : (endTeamOf s gid g).grp k = if k ∈ teamKeys s gid g then none else s.grp k := by
    unfold State.grp
    rw [endTeamOf_eq, foldl_endGroup_groups, Store.find_foldl_del hs]
  rw [hf]
  simp only [mem_teamKeys hs hg hk]
  split
  · rfl
  · exact hk

theorem endTeamOf_mem (s : State) (gid : Nat) (g : Group) : (endTeamOf s gid g).mem = s.mem := by
  rw [endTeamOf_eq, foldl_endGroup_mem]

theorem endTeamOf_pfaults (s : State) (gid : Nat) (g : Group) : (endTeamOf s gid g).pfaults = s.pfaults := by
  rw [endTeamOf_eq, foldl_endGroup_pfaults]

/-- What ends with a group leaves it out. -/
theorem endTeamOf_self {s : State} (hs : Store.sorted s.groups = true) {gid : Nat} {g : Group} (hg : s.grp gid = some g) :
    (endTeamOf s gid g).grp gid = none := by
  have := grp_endTeamOf hs hg hg
  rwa [if_pos (.inr rfl)] at this

/-! ## Traps (R316) -/

/-- With no lane write unseen by the scalar stream there is none to show it. -/
theorem publish_nil {g : Group} (h : g.pub = []) : g.publish = g := by
  unfold Group.publish
  rw [h]
  cases g
  cases h
  rfl

theorem opened_none {g : Group} (h : g.saved = none) : g.handler = false := by simp [Group.handler, h]
theorem opened_some {g : Group} (h : g.saved ≠ none) : g.handler = true := by
  cases hs : g.saved with
  | none => exact absurd hs h
  | some x => simp [Group.handler, hs]

/-- Entering the pending trap of a group with no result outstanding at an instruction boundary. -/
theorem enterTrap_now {s : State} {gid : Nat} {g : Group} {t : TrapRec} (hg : s.grp gid = some g) (ht : g.trap = some t)
    (hsc : g.sc.out = []) (hln : g.ln.out = []) (hp : g.ctx.part = false) (hpub : g.pub = []) :
    enterTrap s gid =
      let u := s.setGrp gid (inHandlerMode s gid g t.lane t.pc t.cause t.info t.xlde)
      if (s.core (gid / 64)).tstop && (t.cause == 11 || t.cause == 12 || t.cause == 13) then teamStop u gid g true
          else u := by
  have hd : (!g.drained || g.ctx.part) = false := by simp [Group.drained, hsc, hln, hp]
  have hpub' : g = { g with pub := [] } := by
    cases g
    cases hpub
    rfl
  unfold enterTrap
  simp only [hg, ht, hd, publish_nil hpub]
  rw [hpub']
  rfl

/-- The trap of a word that finds its group ready enters handler mode. -/
theorem raiseAt_enters {s : State} {gid : Nat} {g : Group} {lane : Bool} (pc : Va) (c : Cause) (info : W32)
    (hs : g.saved = none) (hb : (s.core (gid / 64)).trapbase ≠ 0) (hsc : g.sc.out = []) (hln : g.ln.out = [])
    (hp : (g.ctx.part && !lane) = false) (hpub : g.pub = []) :
    raiseAt s gid g lane pc c info =
      let u := s.setGrp gid
        (inHandlerMode s gid { g with ctx := { g.ctx with part := false } } lane pc c.code info false)
      if (s.core (gid / 64)).tstop && (c.code == 11 || c.code == 12 || c.code == 13) then teamStop u gid g true else u
          := by
  have hh : (g.handler || (s.core (coreOf gid)).trapbase == 0) = false := by
    simpa [opened_none hs, coreOf] using hb
  unfold raiseAt
  simp only [hh]
  rw [if_neg (by decide)]
  simp only [hp]
  refine (enterTrap_now (State.grp_setGrp ..) rfl ?_ ?_ rfl ?_).trans ?_
  · exact hsc
  · exact hln
  · exact hpub
  · simp only [State.setGrp_setGrp]
    rfl

end Machine

namespace Machine

open Safety

theorem part_off {g : Group} (h : g.ctx.part = false) : { g with ctx := { g.ctx with part := false } } = g := by
  obtain ⟨ctx⟩ : ∃ c, g.ctx = c := ⟨_, rfl⟩
  have hc : { g.ctx with part := false } = g.ctx := by rw [← h]
  rw [hc]

theorem illegalInfo_scalar (r b : Nat) : illegalInfo false r b = BitVec.ofNat 32 (r * 256 + b) := by simp [illegalInfo]
theorem illegalInfo_lane (r b : Nat) : illegalInfo true r b = BitVec.ofNat 32 (r * 256 + 128 + b) := by simp
    [illegalInfo]

/-- TRAP and BRK stop the team only for a debug cause. -/
theorem trapWordsEnterHandler : Claims.TrapWordsEnterHandler := by
  intro s g code reason pos sw hg hs hsc hln hpub hb
  refine ⟨fun hp => ⟨?_, ?_, ?_⟩, ?_⟩
  · change execTrap code sw s = _
    rw [execTrap, withCur_next hg, raiseS, raiseAt_enters g.spc .trap _ hs hb hsc hln (by simp [hp]) hpub, part_off hp]
    exact congrArg Host.Outcome.next (if_neg (by simp [Cause.code]))
  · change execBrk code sw s = _
    rw [execBrk, withCur_next hg, raiseS, raiseAt_enters g.spc .brk _ hs hb hsc hln (by simp [hp]) hpub, part_off hp]
    have hd : ((s.core (s.cur / 64)).tstop && (Cause.brk.code == 11 || Cause.brk.code == 12 || Cause.brk.code == 13)) =
        (s.core (s.cur / 64)).tstop := Bool.and_true _
    simp only [hd]
    rfl
  · change execWordNotAnInstruction false reason pos s = _
    rw [execWordNotAnInstruction, withCur_next hg, raise, if_neg (by decide), raiseS, illegalInfo_scalar,
      raiseAt_enters g.spc .illegal _ hs hb hsc hln (by simp [hp]) hpub, part_off hp]
    exact congrArg Host.Outcome.next (if_neg (by simp [Cause.code]))
  · change execWordNotAnInstruction true reason pos s = _
    rw [execWordNotAnInstruction, withCur_next hg, raise, if_pos rfl, raiseL, illegalInfo_lane,
      raiseAt_enters g.ctx.lpc .illegal _ hs hb hsc hln (by simp) hpub]
    exact congrArg Host.Outcome.next (if_neg (by simp [Cause.code]))

/-- A trap that cannot be entered yet stays pending. -/
theorem enterTrap_later {s : State} {gid : Nat} {g : Group} (hg : s.grp gid = some g)
    (h : g.sc.out ≠ [] ∨ g.ln.out ≠ [] ∨ g.ctx.part = true) : enterTrap s gid = s := by
  have hd : (!g.drained || g.ctx.part) = true := by
    rcases h with h | h | h
    · simp [Group.drained, h]
    · simp [Group.drained, h]
    · simp [h]
  unfold enterTrap
  simp only [hg, hd]
  split
  · rfl
  · rfl

theorem trapWaitsForResults : Claims.TrapWaitsForResults := by
  intro s g code sw hg hs hb
  refine ⟨fun h => ?_, fun t ht => ⟨fun h => ?_, fun hsc hln hp hpub => ?_⟩⟩
  · have hh : (g.handler || (s.core (coreOf s.cur)).trapbase == 0) = false := by
      simpa [opened_none hs, coreOf] using hb
    have hpart : (g.ctx.part && !false) = g.ctx.part := by simp
    change execTrap code sw s = _
    rw [execTrap, withCur_next hg, raiseS, raiseAt]
    simp only [hh, hpart]
    rw [if_neg (by decide)]
    refine congrArg Host.Outcome.next (enterTrap_later (State.grp_setGrp ..) ?_)
    exact h
  · exact congrArg Host.Outcome.next (enterTrap_later hg h)
  · exact congrArg Host.Outcome.next (enterTrap_now hg ht hsc hln hp hpub)

theorem doubleTrapEndsTeam : Claims.DoubleTrapEndsTeam := by
  intro s g code sw hg hd hs
  have hh : (g.handler || (s.core (coreOf s.cur)).trapbase == 0) = true := by
    rcases hd with h | h
    · simp [opened_some h]
    · simp [coreOf, h]
  have he : exec (.trap code sw) s = .next (raiseS s s.cur g .trap (code.signExtend 32)) := by
    change execTrap code sw s = _
    rw [execTrap, withCur_next hg]
  refine ⟨_, he.trans (congrArg Host.Outcome.next (if_pos hh)), ?_, ?_, ?_, ?_⟩
  · exact endTeamOf_pfaults _ _ _
  · exact endTeamOf_mem _ _ _
  · exact endTeamOf_self (s := postFault s _) hs hg
  · intro k h hk
    exact grp_endTeamOf (s := postFault s _) hs hg hk

theorem sexitEndsGroups : Claims.SexitEndsGroups := by
  intro s g sw hg hs ht
  refine ⟨fun ho hi => ?_, fun ho hi => ?_, fun ho => ?_⟩
  · have he : exec (.sexit sw) s = .next (endGroup s s.cur) := by
      change execSexit sw s = _
      rw [execSexit, withCur_next hg]
      simp only [opened_none ho, hi]
      rfl
    refine ⟨_, he, endGroup_mem _ _, ?_, fun k hk => ?_, fun k x hk hx => endGroup_ended hg ht hk hx⟩
    · unfold State.grp
      rw [endGroup_groups, Store.find_del_self hs]
    · unfold State.grp
      rw [endGroup_groups, Store.find_del_ne hs _ hk]
  · change execSexit sw s = _
    rw [execSexit, withCur_next hg]
    simp only [opened_none ho, hi]
    rfl
  · have he : exec (.sexit sw) s = .next (endTeamOf s s.cur g) := by
      change execSexit sw s = _
      rw [execSexit, withCur_next hg]
      exact congrArg Host.Outcome.next (if_pos (opened_some ho))
    refine ⟨_, he, endTeamOf_mem _ _ _, ?_⟩
    intro k h hk
    exact grp_endTeamOf hs hg hk

/-- Settles O42: a trap is entered at once where nothing is outstanding, and is pending else; a second one ends the team. -/
theorem trapsAreTaken : Obligations.TrapsAreTaken :=
  ⟨trapWordsEnterHandler, trapWaitsForResults, doubleTrapEndsTeam⟩

/-! ## ERET (R117, R321) -/

/-- With no lane write unseen, LSYNC brings the lanes' accesses alone. -/
theorem lsynced_nil (s : State) {g : Group} (h : g.pub = []) : lsynced s g = laneSeen s g := by
  unfold lsynced
  rw [publish_nil h]
  rfl

theorem eretReturns : Claims.EretReturns := by
  intro s g sw hg
  have he : exec (.eret sw) s = .next (eretGo s s.cur g false) := by
    change execEret sw s = _
    rw [execEret, withCur_next hg]
  have hes : exec (.eretSkip sw) s = .next (eretGo s s.cur g true) := by
    change execEretSkip sw s = _
    rw [execEretSkip, withCur_next hg]
  constructor
  · intro ho
    have h : ∀ skip, eretGo s s.cur g skip = raiseS s s.cur g .illegal 0x11A := by
      intro skip
      simp only [eretGo, opened_none ho]
      rfl
    exact ⟨he.trans (congrArg _ (h false)), hes.trans (congrArg _ (h true))⟩
  · intro spc c ho hi hpub lane back
    have hgo : ∀ skip, eretGo s s.cur g skip = trapReturn s s.cur (laneSeen s g) skip := by
      intro skip
      have hh : g.handler = true := opened_some (by rw [ho]; simp)
      simp only [eretGo, hh, hi, lsynced_nil s hpub]
      rfl
    have hret : ∀ skip, trapReturn s s.cur (laneSeen s g) skip =
        back (if skip then g.tpc + (if lane then 12 else 4) else g.tpc)
          (if g.tpcWr || skip then 0
           else if lane && bits g.tcause 0 8 == 9 && g.txlde then (bits g.tinfo 8 7).toNat else c.prog) := by
      intro skip
      have ho' : (laneSeen s g).saved = some (spc, c) := ho
      simp only [trapReturn, ho']
      rfl
    have hcause : (bits g.tcause 0 8 == 9) = decide (g.tcause.toNat % 256 = 9) := by
      rw [Bool.eq_iff_iff, beq_iff_eq, decide_eq_true_eq, ← BitVec.toNat_inj]
      simp [bits]
    refine ⟨?_, fun hw hc => ?_, fun hw hl hc => ?_, fun hw => ?_⟩
    · refine hes.trans (congrArg _ ((hgo true).trans ((hret true).trans ?_)))
      simp
    · refine he.trans (congrArg _ ((hgo false).trans ((hret false).trans ?_)))
      have : (lane && bits g.tcause 0 8 == 9 && g.txlde) = false := by
        rw [hcause]
        by_cases hl : lane = true
        · simp [show ¬ g.tcause.toNat % 256 = 9 from fun h => hc ⟨hl, h⟩]
        · simp [hl]
      simp only [hw, this, Bool.or_self, Bool.false_eq_true, if_false]
    · refine he.trans (congrArg _ ((hgo false).trans ((hret false).trans ?_)))
      have hinfo : (bits g.tinfo 8 7).toNat = g.tinfo.toNat / 256 % 128 := by
        simp [bits, Nat.shiftRight_eq_div_pow]
      simp only [hw, hl, hcause, hc, hinfo, Bool.or_self, Bool.true_and, decide_true, Bool.false_eq_true, if_false]
    · refine he.trans (congrArg _ ((hgo false).trans ((hret false).trans ?_)))
      simp [hw]

/-- Settles O43: ERET restores what the trap set aside; SEXIT ends its group, or in handler mode its team. -/
theorem handlersAndGroupsEnd : Obligations.HandlersAndGroupsEnd := ⟨eretReturns, sexitEndsGroups⟩

end Machine

end Sys2Proof
end

section
/-!
PROOFS. Waits: the end of a wait; barriers, stages and quotas (R48, R110 to R113).
-/
namespace Sys2Proof

namespace Machine

open Safety

/-! ## The end of a wait (R107 to R113) -/

/-- A group that is not single-stepped takes no single-step trap. -/
theorem stepTrap_off {s : State} {gid : Nat} {g : Group} (hg : s.grp gid = some g) (h : stepped s gid g = false)
    (lane : Bool) : stepTrap s gid lane = s := by
  unfold stepTrap
  simp only [hg, h, Bool.not_false, Bool.true_or, if_true]

theorem endWait_scalar {s : State} {gid : Nat} {g : Group} (hg : s.grp gid = some g) (h : stepped s gid g = false)
    (pc : Va) : endWait s gid false pc = s.setGrp gid (wokenS g pc) := by
  unfold endWait
  simp only [hg]
  refine (stepTrap_off (State.grp_setGrp ..) ?_ _).trans ?_
  · exact h
  · simp only [beq_iff_eq]
    rfl

theorem endWait_lane {s : State} {gid : Nat} {g : Group} (hg : s.grp gid = some g) (h : stepped s gid g = false)
    (pc : Va) : endWait s gid true pc = s.setGrp gid { g with
      ctx := { g.ctx with lpc := pc }, ln := ({ g.ln with wait := none, wsw := false } : Stream).mark g.ln.wsw,
      noBp := if g.noBp = some true then none else g.noBp } := by
  unfold endWait
  simp only [hg]
  refine (stepTrap_off (State.grp_setGrp ..) ?_ _).trans ?_
  · exact h
  · simp only [beq_iff_eq]
    rfl

theorem mayWake_iff (g : Group) : mayWake g = true ↔ Awake g := by
  simp [mayWake, Awake, and_assoc]

theorem counterMet_iff (c t : BitVec 16) : counterMet c t = true ↔ (c - t).toNat < 2 ^ 15 := by
  have := (c - t).isLt
  simp only [counterMet, Bool.not_eq_true', BitVec.msb_eq_decide, decide_eq_false_iff_not]
  omega

theorem counterMet_not (c t : BitVec 16) : ¬ counterMet c t = true ↔ 2 ^ 15 ≤ (c - t).toNat := by
  rw [counterMet_iff]
  omega

theorem truncate_eq_low (x : W32) : (x.truncate 16 : BitVec 16) = x.extractLsb' 0 16 :=
  BitVec.setWidth_eq_extractLsb' (by decide)

theorem counter_eq (g : Group) (ctr : Ctr) :
    counter g ctr = match ctr with | .ccopy => g.ccopy | .ctrav => g.ctrav | .cattn => g.cattn := by
  cases ctr <;> rfl

/-- A counter that is there wakes its waiting stream. -/
theorem exec_counterWaitMet {s : State} {gid : Nat} {g : Group} {lane : Bool} {ctr : Ctr} {u : BitVec 16}
    (hg : s.grp gid = some g) (hw : (g.str lane).wait = some (.cwait ctr u)) (ha : Awake g)
    (hm : counterMet (counter g ctr) u = true) :
    exec (.counterWaitMet gid lane) s = .next (endWait s gid lane (if lane then g.ctx.lpc + 12 else g.spc + 4)) := by
  change execCounterWaitMet gid lane s = _
  simp only [execCounterWaitMet, hg, hw, (mayWake_iff g).2 ha, hm, Bool.and_self, if_true]
  rfl

theorem counterWaits : Claims.CounterWaits := by
  intro s g ctr a b sw hg counter t target
  have hc : Machine.counter g ctr = counter := counter_eq g ctr
  have ht : ((sVal s.picks g a.toNat).truncate 16 : BitVec 16) = t := truncate_eq_low _
  refine ⟨fun h => ?_, fun h => ?_, fun u hw ha hst h => ?_, fun hi hpub => ?_, fun u pc hw ha hst h => ?_⟩
  · change execCwait ctr a sw s = _
    rw [execCwait, withCur_next hg]
    simp only [hc, ht]
    exact congrArg Host.Outcome.next (if_pos ((counterMet_iff _ _).2 h))
  · change execCwait ctr a sw s = _
    rw [execCwait, withCur_next hg]
    simp only [hc, ht]
    exact congrArg Host.Outcome.next (if_neg ((counterMet_not _ _).2 h))
  · rw [exec_counterWaitMet (lane := false) hg hw ha (by rw [hc]; exact (counterMet_iff _ _).2 h)]
    exact congrArg Host.Outcome.next (endWait_scalar hg hst _)
  · intro h
    have hy : exec (.yield ctr a b sw) s = .next (
        if !codeTarget target then raiseS s s.cur g .illegal (illegalInfo false 7 0)
        else if counterMet counter t then s.setGrp s.cur (h.goS (target.truncate 57) sw)
          else s.setGrp s.cur (h.waitS (.yield ctr t (target.truncate 57)) sw)) := by
      change execYield ctr a b sw s = _
      rw [execYield, withCur_next hg]
      have hc' : Machine.counter (laneSeen s g) ctr = counter := counter_eq _ ctr
      simp only [hi, ht, lsynced_nil s hpub, hc']
      rfl
    have htr : target.truncate 57 = BitVec.ofNat 57 target.toNat := (BitVec.ofNat_toNat ..).symm
    refine ⟨fun hn => ?_, fun h1 h2 hm => ?_, fun h1 h2 hm => ?_⟩
    · have hct : (!codeTarget target) = true := by
        rw [Bool.not_eq_true', ← Bool.not_eq_true]
        exact mt (codeTarget_iff _).1 hn
      exact hy.trans (congrArg Host.Outcome.next (if_pos hct))
    · have hct : ¬ (!codeTarget target) = true := by simp [(codeTarget_iff target).2 ⟨h1, h2⟩]
      rw [hy, if_neg hct, if_pos ((counterMet_iff _ _).2 hm), htr]
      rfl
    · have hct : ¬ (!codeTarget target) = true := by simp [(codeTarget_iff target).2 ⟨h1, h2⟩]
      rw [hy, if_neg hct, if_neg ((counterMet_not _ _).2 hm), htr]
      rfl
  · have hm : counterMet (Machine.counter g ctr) u = true := by rw [hc]; exact (counterMet_iff _ _).2 h
    change execYieldReactivate s.cur s = _
    have hg' : s.grp s.cur = some g := hg
    simp only [execYieldReactivate, hg', hw, (mayWake_iff g).2 ha, hm, Bool.and_self, if_true]
    exact congrArg Host.Outcome.next (endWait_scalar hg hst _)

theorem laneCounterWait : Claims.LaneCounterWait := by
  intro s g m ctr x u hg counter goes
  have hc : Machine.counter g ctr = counter := counter_eq g ctr
  have hgo : ∀ (tg : Tgt) (v : W32), (match tg with | .u r => (uRead s.picks g r).1 | .imm x => x) = v →
      goes (.laneCwait m ctr tg) (v.extractLsb' 0 16) := by
    intro tg v hv
    have he : exec (.laneCwait m ctr tg) s = .next (if counterMet counter (v.extractLsb' 0 16) then
        s.setGrp s.cur (g.nextL m.sw) else s.setGrp s.cur (g.waitL (.cwait ctr (v.extractLsb' 0 16)) m.sw)) := by
      change execLaneCwait m ctr tg s = _
      rw [execLaneCwait, withCur_next hg]
      simp only [hc, ← hv, truncate_eq_low] <;> rfl
    refine ⟨fun h => ?_, fun h => ?_⟩
    · rw [he, if_pos ((counterMet_iff _ _).2 h)]
      rfl
    · rw [he, if_neg ((counterMet_not _ _).2 h)]
      rfl
  refine ⟨hgo (.imm x) x rfl, hgo (.u u) _ rfl, fun t hw ha hst h => ?_⟩
  rw [exec_counterWaitMet (lane := true) hg hw ha (by rw [hc]; exact (counterMet_iff _ _).2 h)]
  exact congrArg Host.Outcome.next (endWait_lane hg hst _)

/-- A scalar word of the issuing group has issued in a state that the word has changed. -/
theorem setGrp_goS {u : State} {c : Nat} (h : u.cur = c) (g : Group) (pc : Va) (sw : Bool) :
    u.setGrp c (g.goS pc sw) = scalarOn u g pc sw := by
  subst h
  rfl

theorem setGrp_goL {u : State} {c : Nat} (h : u.cur = c) (g : Group) (pc : Va) (sw : Bool) :
    u.setGrp c (g.goL pc sw) = laneOn u g pc sw := by
  subst h
  rfl

/-! ## Fences (R115, R164, R253) -/

theorem fencesAndNop : Claims.FencesAndNop := by
  intro s g ord sc nf sw hg u fenced
  have hu : Machine.fenced s s.cur ord = u := by
    simp only [Machine.fenced, u, beq_iff_eq]
  have hcur : u.cur = s.cur := by
    simp only [u]
    split <;> rfl
  have hf : ∀ lane, fenced (g.str lane) (fenceStream s s.cur g lane ord sc) := by
    intro lane
    have hkeep : (fun p : Pending => if (p.kind == PKind.plain) = true then p else { p with acq := some (wider p.acq sc) }) =
        fun p => if p.kind = PKind.plain then p else { p with acq := some (wider p.acq sc) } := by
      funext p
      simp only [beq_iff_eq]
    have hacq : ∀ i ids, i ∈ (g.str lane).acq → pendingId s i = true →
        i ∈ live s (live s (g.str lane).acq ++ ids) := fun i ids hi hp =>
      List.mem_filter.2 ⟨List.mem_append_left _ (List.mem_filter.2 ⟨hi, hp⟩), hp⟩
    cases ord with
    | acq =>
      refine ⟨rfl, by simp, fun _ => ⟨?_, rfl, fun i hi => List.mem_append_right _ hi, fun i hi hp => ?_⟩, fun _ => rfl,
        by simp⟩
      · simp only [fenceStream, acquireReads, hkeep]
      · exact List.mem_append_left _ (hacq i _ hi hp)
    | rel => exact ⟨rfl, fun _ => ⟨rfl, rfl, rfl⟩, by simp, by simp, fun _ => rfl⟩
    | full =>
      refine ⟨rfl, by simp, fun _ => ⟨?_, rfl, fun i hi => ?_, fun i hi hp => ?_⟩, by simp, fun _ => rfl⟩
      · simp only [fenceStream, acquireReads, hkeep]
      · exact List.mem_append_right _ (List.mem_append_left _ hi)
      · exact List.mem_append_left _ (hacq i _ hi hp)
  refine ⟨?_, ⟨_, hf false, ?_⟩, ⟨_, hf true, ?_⟩⟩
  · change execSnop sw s = _
    rw [execSnop, withCur_next hg]
    rfl
  · change execSfence ord sc sw s = _
    rw [execSfence, withCur_next hg, hu]
    exact congrArg Host.Outcome.next (setGrp_goS hcur _ _ _)
  · change execLfence nf sw ord sc s = _
    rw [execLfence, withCur_next hg, hu]
    exact congrArg Host.Outcome.next (setGrp_goL hcur _ _ _)

/-! ## Quotas (R42, R113) -/

/-- What a group receives with its quota: undefined registers and rows, with TOP shadows. -/
theorem receive_cases (s : State) (gid : Nat) (g : Group) (n1 n2 : Nat) :
    ∃ rf free vsh, receive s gid g n1 n2 = ({ s with rf := rf, free := free } : State).setGrp gid { g with vsh := vsh } := by
  unfold receive undefRows
  split
  · exact ⟨_, _, _, rfl⟩
  · exact ⟨_, _, _, rfl⟩

theorem quotas : Claims.Quotas := by
  intro s g q sw hg n
  have hgrow : exec (.grow q sw) s = .next (
      if n = g.q then s.setGrp s.cur (g.nextS sw)
      else if n = 0 ∨ g.qmax < n ∨ n < g.q then raiseS s s.cur g .quota (quotaInfo 2 n)
      else if growFree s s.cur g n s.nextId then growTo s s.cur (g.nextS sw) n
      else ({ s with nextId := s.nextId + 1 } : State).setGrp s.cur (g.waitS (.grow n s.nextId) sw)) := by
    change execGrow q sw s = _
    rw [execGrow, withCur_next hg]
  have hshr : exec (.shrink q sw) s = .next (
      if n = g.q then s.setGrp s.cur (g.nextS sw)
      else if n = 0 ∨ g.qmax < n ∨ g.q < n then raiseS s s.cur g .quota (quotaInfo 2 n)
      else if !g.laneIdle then s
      else s.setGrp s.cur (({ g with q := n } : Group).nextS sw)) := by
    change execShrink q sw s = _
    rw [execShrink, withCur_next hg]
  refine ⟨fun h => ⟨?_, ?_⟩, fun h hb => ?_, fun h hb => ?_, fun h1 h2 hf => ?_, fun h1 h2 hf => ?_, fun h0 h1 h2 hi
      => ?_,
    fun h0 h1 h2 hi => ?_, fun m seq hw ha hst hf => ?_⟩
  · rw [hgrow, if_pos h]
    rfl
  · rw [hshr, if_pos h]
    rfl
  · rw [hgrow, if_neg h, if_pos hb]
    rfl
  · rw [hshr, if_neg h, if_pos hb]
    rfl
  · rw [hgrow, if_neg (by omega), if_neg (by omega), if_pos hf]
    rfl
  · rw [hgrow, if_neg (by omega), if_neg (by omega), if_neg (by simp [hf])]
    rfl
  · rw [hshr, if_neg (by omega), if_neg (by omega), if_neg (by simp [hi])]
    rfl
  · rw [hshr, if_neg (by omega), if_neg (by omega), if_pos (by simp [hi])]
  · have hg' : s.grp s.cur = some g := hg
    obtain ⟨rf, free, vsh, hr⟩ := receive_cases s s.cur { g with q := m } g.q m
    have he : exec (.growGrant s.cur) s = .next (endWait (growTo s s.cur g m) s.cur false (g.spc + 4)) := by
      change execGrowGrant s.cur s = _
      simp only [execGrowGrant, hg', hw, (mayWake_iff g).2 ha, hf, Bool.and_self, if_true]
      rfl
    have hend : endWait (growTo s s.cur g m) s.cur false (g.spc + 4) =
        ({ s with rf := rf, free := free } : State).setGrp s.cur (wokenS { g with q := m, vsh := vsh } (g.spc + 4)) := by
      rw [growTo, hr]
      refine (endWait_scalar (State.grp_setGrp ..) ?_ _).trans ?_
      · exact hst
      · rw [State.setGrp_setGrp]
    rw [hend] at he
    exact ⟨_, _, he, State.grp_setGrp .., rfl, rfl, rfl, rfl, rfl, rfl, rfl, rfl, fun k hk => State.grp_setGrp_ne _ _
        _ hk⟩

end Machine

namespace Machine

open Safety

/-! ## Barriers (R110) -/

theorem barAt_setBar (t : Team) {n : Nat} (hn : n < 16) (b : Barrier) : barAt (setBar t n b) n = b := by
  unfold barAt setBar
  simp only
  rw [nthD_tabulate, if_pos hn, if_pos rfl]

theorem stepped_off {s : State} (h : ∀ k, (s.core k).step = 0) (gid : Nat) (g : Group) : stepped s gid g = false := by
  unfold stepped
  rw [h]
  simp [bit]

/-- One group leaves a barrier whose phase is over. -/
def leaveOne (cov : List Nat) (s : State) (e : Nat × Group) : State :=
  endWait (s.updGrp e.1 fun g => { g with arrived := none, sc := g.sc.gain s cov }) e.1 false (e.2.spc + 4)

/-- The group once it has left. -/
def leftBar (s : State) (cov : List Nat) (g : Group) : Group :=
  wokenS { g with arrived := none, sc := g.sc.gain s cov } (g.spc + 4)

theorem leaveOne_eq {s : State} {e : Nat × Group} (hg : s.grp e.1 = some e.2) (hst : ∀ k, (s.core k).step = 0)
    (cov : List Nat) : leaveOne cov s e = s.setGrp e.1 (leftBar s cov e.2) := by
  unfold leaveOne
  rw [State.updGrp_eq hg]
  refine (endWait_scalar (State.grp_setGrp ..) ?_ _).trans ?_
  · exact stepped_off hst _ _
  · rw [State.setGrp_setGrp]
    rfl

/-- Groups that leave one after another: each goes on, and the others are as before. -/
theorem foldl_leaveOne (cov : List Nat) (es : List (Nat × Group)) (s : State) (hst : ∀ k, (s.core k).step = 0)
    (hes : ∀ e ∈ es, s.grp e.1 = some e.2) (hd : (es.map (·.1)).Nodup) :
    (es.foldl (leaveOne cov) s).mem = s.mem ∧ (es.foldl (leaveOne cov) s).teams = s.teams ∧
      (∀ e ∈ es, ∃ u, (es.foldl (leaveOne cov) s).grp e.1 = some (leftBar u cov e.2)) ∧
      ∀ k, k ∉ es.map (·.1) → (es.foldl (leaveOne cov) s).grp k = s.grp k := by
  induction es generalizing s with
  | nil => simp
  | cons e es ih =>
    rw [List.map_cons, List.nodup_cons] at hd
    have hone := leaveOne_eq (hes e (List.mem_cons_self ..)) hst cov
    have hne : ∀ x ∈ es, x.1 ≠ e.1 := fun x hx h => hd.1 (h ▸ List.mem_map_of_mem hx)
    obtain ⟨hm, ht, hin, hout⟩ := ih (s.setGrp e.1 (leftBar s cov e.2)) hst
      (fun x hx => (State.grp_setGrp_ne _ _ _ (hne x hx)).trans (hes x (List.mem_cons_of_mem _ hx))) hd.2
    rw [List.foldl_cons, hone]
    refine ⟨hm, ht, fun x hx => ?_, fun k hk => ?_⟩
    · rcases List.mem_cons.1 hx with rfl | hx
      · exact ⟨s, (hout _ hd.1).trans (State.grp_setGrp ..)⟩
      · exact hin x hx
    · rw [List.map_cons, List.mem_cons, not_or] at hk
      exact (hout k hk.2).trans (State.grp_setGrp_ne _ _ _ hk.1)

theorem nodup_keys {α : Type} {m : List (Nat × α)} (h : Store.sorted m = true) : (m.map (·.1)).Nodup := by
  induction m with
  | nil => simp
  | cons e m ih =>
    obtain ⟨ha, hs⟩ := (Store.sorted_cons e.1 e.2 m).1 h
    rw [List.map_cons, List.nodup_cons]
    refine ⟨fun hm => ?_, ih hs⟩
    obtain ⟨x, hx, he⟩ := List.mem_map.1 hm
    have := ha x hx
    omega

theorem barriers : Claims.Barriers := by
  intro s g a n sw tid t hg ht hteam c b
  have hk : g.tkey = some (teamKey g.lid tid) := by simp [Group.tkey, ht]
  have hn : n.toNat < 16 := n.isLt
  have hbar : ∀ ha : g.arrived = none, exec (.bar a n sw) s = .next (
      if c < 1 ∨ (s.desc g).groups < c then raiseS s s.cur g .operand (opInfo 14)
      else if !g.laneIdle then s
      else barArrive s s.cur g (teamKey g.lid tid) t n.toNat c sw) := by
    intro ha
    change execBar a n sw s = _
    rw [execBar, withCur_next hg]
    simp only [hk, hteam, ha]
    rfl
  refine ⟨fun ha hc => ?_, fun ha h1 h2 hi hpub hout hpair hb => ?_, fun hlen hpos hs hst => ?_⟩
  · rw [hbar ha, if_pos hc]
    rfl
  · intro h
    have hfull : (!b.arr.isEmpty && b.arr.length == b.count) = false := by
      rcases hb with hb | ⟨hb, hl⟩
      · simp [hb]
      · have : ¬ b.arr.length = b.count := by omega
        simp [this]
    have hcount : (!b.arr.isEmpty && b.count != c) = false := by
      rcases hb with hb | ⟨hb, -⟩
      · simp [hb]
      · simp [hb]
    have hrel : teamRelease s (laneSeen s g) = true := by
      have hr : (laneSeen s g).sc.reads = [] := by
        change List.map _ (List.filter _ g.sc.out) = []
        rw [hout]
        rfl
      have hf : farScope s (laneSeen s g) .team = false := by
        have : (s.desc (laneSeen s g)).pair = false := hpair
        simp [farScope, this]
      simp [teamRelease, hr, hf]
    rw [hbar ha, if_neg (by omega), if_neg (by simp [hi])]
    have hb' : barAt t n.toNat = b := rfl
    simp only [barArrive, hb', hfull, hcount, lsynced_nil s hpub, hrel]
    rfl
  · have hrel : exec (.barrierRelease (teamKey g.lid tid) n.toNat) s = .next
        (leaveBar (s.updTeam (teamKey g.lid tid) fun t => setBar t n.toNat ⟨0, [], !b.phase, b.cov⟩) t.lid t.tid
          n.toNat b.phase b.cov) := by
      change execBarrierRelease (teamKey g.lid tid) n.toNat s = _
      simp only [execBarrierRelease, hteam]
      exact congrArg Host.Outcome.next (if_pos ⟨hn, hlen, hpos⟩)
    let leaves : Nat × Group → Bool := fun e => e.2.lid == t.lid && e.2.tid == t.tid &&
      e.2.arrived == some (n.toNat, b.phase) && e.2.sc.wait == some (.bar n.toNat)
    obtain ⟨hm, htm, hin, hout⟩ := foldl_leaveOne b.cov (s.groups.filter leaves)
      (s.updTeam (teamKey g.lid tid) fun t => setBar t n.toNat ⟨0, [], !b.phase, b.cov⟩) hst
      (fun e he => Store.find_of_mem hs (List.mem_filter.1 he).1)
      ((List.Sublist.map _ List.filter_sublist).nodup (nodup_keys hs))
    refine ⟨_, hrel, ?_, hm, fun k h hk' => ?_⟩
    · have : ∀ u : State, u.teams = (s.updTeam (teamKey g.lid tid) fun t => setBar t n.toNat
          ⟨0, [], !b.phase, b.cov⟩).teams → (u.team (teamKey g.lid tid)).map (fun t => barAt t n.toNat) =
            some ⟨0, [], !b.phase, b.cov⟩ := by
        intro u hu
        have hteam' := State.team_updTeam s (teamKey g.lid tid) fun t => setBar t n.toNat ⟨0, [], !b.phase, b.cov⟩
        unfold State.team at hteam' ⊢
        rw [hu, hteam']
        unfold State.team at hteam
        rw [hteam]
        exact congrArg some (barAt_setBar t hn _)
      exact this _ htm
    · have hleaves : leaves (k, h) = true ↔ h.lid = t.lid ∧ h.tid = t.tid ∧ h.arrived = some (n.toNat, b.phase) ∧
          h.sc.wait = some (.bar n.toNat) := by
        simp [leaves, and_assoc]
      by_cases hl : leaves (k, h) = true
      · obtain ⟨u, hu⟩ := hin (k, h) (List.mem_filter.2 ⟨Store.mem_of_find hk', hl⟩)
        refine ⟨_, hu, ?_⟩
        rw [if_pos (hleaves.1 hl)]
        exact ⟨rfl, rfl, rfl, rfl⟩
      · refine ⟨h, ?_, ?_⟩
        · refine (hout k fun hmem => hl ?_).trans hk'
          obtain ⟨e, he, rfl⟩ := List.mem_map.1 hmem
          obtain ⟨hes, hel⟩ := List.mem_filter.1 he
          obtain rfl : e.2 = h := Option.some.inj ((Store.find_of_mem hs hes).symm.trans hk')
          exact hel
        · rw [if_neg (mt hleaves.2 hl)]

/-! ## Stage rings (R111, R112) -/

theorem readSpad_cases (s : State) (me : Nat) (ws : List Nat) : ∃ o, readSpad s me ws = { s with olds := o } := by
  unfold readSpad
  split
  · exact ⟨s.olds, rfl⟩
  · suffices ∀ (f : State → Nat → List OldWord) (ws : List Nat) (s : State),
        ∃ o, ws.foldl (fun s w => { s with olds := f s w }) s = { s with olds := o } from this _ ws s
    intro f ws
    induction ws with
    | nil => exact fun s => ⟨s.olds, rfl⟩
    | cons w ws ih => exact fun s => ih { s with olds := f s w }

/-- The base of a ring: the operand with its low three bits clear. -/
theorem toNat_and_ring (v : W32) : (v &&& 0xFFFFFFF8#32).toNat = 8 * (v.toNat / 8) := by
  have hmask : ∀ i : Fin 32, (0xFFFFFFF8#32)[i] = decide (3 ≤ i.val) := by decide
  have h : v &&& 0xFFFFFFF8#32 = (v >>> 3) <<< 3 := by
    ext i hi
    have := hmask ⟨i, hi⟩
    simp only [Fin.getElem_fin] at this
    rw [BitVec.getElem_and, this]
    by_cases h3 : 3 ≤ i
    · simp [h3, show 3 + (i - 3) = i by omega, show ¬ i < 3 by omega, BitVec.getLsbD_eq_getElem hi]
    · simp [h3, show i < 3 by omega]
  have := v.isLt
  rw [h]
  simp only [BitVec.toNat_shiftLeft, BitVec.toNat_ushiftRight, Nat.shiftLeft_eq, Nat.shiftRight_eq_div_pow]
  omega

/-- An arrival that is counted: have goes up, or starts the next phase at 0 when it reaches need. -/
theorem arrive_counts {w : W32} {need have_ : Nat} (hh : w.toNat % 256 = have_) (hn : w.toNat / 256 % 256 = need)
    (hlt : have_ < need) : ∃ x, arrive w = some x ∧ (x.toNat % 256 = if have_ + 1 = need then 0 else have_ + 1) ∧
      (x.getLsbD 31 = if have_ + 1 = need then !w.getLsbD 31 else w.getLsbD 31) ∧
      ∀ i, 8 ≤ i → i < 31 → x.getLsbD i = w.getLsbD i := by
  have hneed : (bits w 8 8).toNat = need := by
    simp [bits, Nat.shiftRight_eq_div_pow, hn]
  have hhave : (bits w 0 8).toNat = have_ := by
    simp [bits, hh]
  have hguard : ¬ (need = 0 ∨ need ≤ have_) := by omega
  unfold arrive
  simp only [hneed, hhave, if_neg hguard]
  by_cases hlast : have_ + 1 = need
  · refine ⟨_, if_pos hlast, ?_, ?_, ?_⟩
    · rw [if_pos hlast]
      have hz : ((w ^^^ 0x80000000#32) &&& 0xFFFFFF00#32).extractLsb' 0 8 = 0#8 := by
        have hmask : ∀ i : Fin 8, (0xFFFFFF00#32).getLsbD i = false := by decide
        ext i hi
        have := hmask ⟨i, hi⟩
        simp only at this
        simp [this]
      have := congrArg BitVec.toNat hz
      simpa using this
    · rw [if_pos hlast]
      simp
    · intro i h1 h2
      have hm : ∀ i : Fin 32, (0xFFFFFF00#32).getLsbD i = decide (8 ≤ i.val) := by decide
      have hx : ∀ i : Fin 32, (0x80000000#32).getLsbD i = decide (i.val = 31) := by decide
      have h3 := hm ⟨i, by omega⟩
      have h4 := hx ⟨i, by omega⟩
      simp only at h3 h4
      rw [BitVec.getLsbD_and, BitVec.getLsbD_xor, h3, h4]
      simp [h1, show i ≠ 31 by omega]
  · have hw : (w + 1#32).toNat = w.toNat + 1 := by
      have := w.isLt
      rw [BitVec.toNat_add]
      simp
      omega
    have hbit : ∀ i, 8 ≤ i → (w + 1#32).getLsbD i = w.getLsbD i := by
      intro i hi
      have hdiv : (w.toNat + 1) / 2 ^ 8 = w.toNat / 2 ^ 8 := by omega
      obtain ⟨j, rfl⟩ : ∃ j, i = j + 8 := ⟨i - 8, by omega⟩
      rw [BitVec.getLsbD, BitVec.getLsbD, hw, Nat.testBit_add, Nat.testBit_add, hdiv]
    refine ⟨_, if_neg hlast, ?_, ?_, fun i hi _ => hbit i hi⟩
    · rw [if_neg hlast]
      change (w + 1#32).toNat % 256 = _
      omega
    · rw [if_neg hlast]
      exact hbit 31 (by decide)

theorem stageRings : Claims.StageRings := by
  intro s g a st sw tid t hg ht hteam v x d at_ me word nst saw
  have hk : g.tkey = some (teamKey g.lid tid) := by simp [Group.tkey, ht]
  have hx : (sVal s.picks g a.toNat &&& 0xFFFFFFF8#32).toNat = x := toNat_and_ring v
  have hacq : exec (.stgacq a st sw) s = .next (
      if d.spq < at_ + 4 then raiseS s s.cur g .operand (opInfo 1)
      else if nst ≤ st.toNat then raiseS s s.cur g .operand (opInfo 1)
      else if bits v 1 2 != 0 then raiseS s s.cur g .operand (opInfo 14)
      else if bit word 31 == bit v 0 then stagePass s s.cur g t x st.toNat sw
      else s.setGrp s.cur (g.waitS (.stg x st.toNat (bit v 0)) sw)) := by
    change execStgacq a st sw s = _
    rw [execStgacq, withCur_next hg]
    simp only [inTeam, hk, hteam, hx]
    rfl
  have hrel : exec (.stgrel a st sw) s = .next (
      if d.spq < at_ + 4 then raiseS s s.cur g .operand (opInfo 1)
      else if nst ≤ st.toNat then raiseS s s.cur g .operand (opInfo 1)
      else if bits v 0 3 != 0 then raiseS s s.cur g .operand (opInfo 14)
      else if !g.laneIdle then s
      else if !teamRelease s (lsynced s g) then s
      else
        match arrive word with
        | none => raiseS s s.cur (lsynced s g) .operand (opInfo 1)
        | some w =>
          let u := spadWrite (saw at_ (released s s.cur)) d t at_ (bytesOf w)
          (u.updTeam (teamKey g.lid tid) fun t => addRing t at_ ((lsynced s g).sc.covered u)).setGrp s.cur
            ((lsynced s g).nextS sw)) := by
    change execStgrel a st sw s = _
    rw [execStgrel, withCur_next hg]
    simp only [inTeam, hk, hteam, hx]
    rfl
  refine ⟨fun hbad => ⟨?_, ?_⟩, fun h1 h2 => ⟨fun hv => ?_, fun need have_ phase hh hn hp hv hlt hi hpub hout hpair =>
      ?_⟩,
    fun y k ph hw ha hst hph => ?_⟩
  · rw [hacq]
    split
    · rfl
    · next h => rw [if_pos (hbad.resolve_left h)]; rfl
  · rw [hrel]
    split
    · rfl
    · next h => rw [if_pos (hbad.resolve_left h)]; rfl
  · have hb : ¬ (bits v 1 2 != 0) = true := by
      simp only [bne_iff_ne, ne_eq, not_not]
      rw [bits_eq_zero_iff]
      exact hv
    have hcur : (saw at_ s).cur = s.cur := by
      obtain ⟨o, ho⟩ := readSpad_cases s me (spadWords d t at_ 4)
      exact (congrArg State.cur ho :)
    rw [hacq, if_neg (by omega), if_neg (by omega), if_neg hb]
    simp only [beq_iff_eq, bit]
    split
    · exact congrArg Host.Outcome.next (setGrp_goS hcur _ _ _)
    · rfl
  · obtain ⟨w, hw, hlow, h31, hmid⟩ := arrive_counts hh hn hlt
    rw [hp] at h31
    refine ⟨w, hlow, h31, hmid, ?_⟩
    intro h
    have hb : ¬ (bits v 0 3 != 0) = true := by
      simp only [bne_iff_ne, ne_eq, not_not]
      rw [bits_eq_zero_iff]
      simpa using hv
    have hready : teamRelease s (laneSeen s g) = true := by
      have hr : (laneSeen s g).sc.reads = [] := by
        change List.map _ (List.filter _ g.sc.out) = []
        rw [hout]
        rfl
      have hf : farScope s (laneSeen s g) .team = false := by
        have : (s.desc (laneSeen s g)).pair = false := hpair
        simp [farScope, this]
      simp [teamRelease, hr, hf]
    have hcov : (laneSeen s g).sc.covered (spadWrite (saw at_ (released s s.cur)) d t at_ (bytesOf w)) =
        (laneSeen s g).sc.covered s := by
      obtain ⟨o, ho⟩ := readSpad_cases (released s s.cur) me (spadWords d t at_ 4)
      have ho' : saw at_ (released s s.cur) = { released s s.cur with olds := o } := ho
      rw [ho']
      rfl
    rw [hrel, if_neg (by omega), if_neg (by omega), if_neg hb, if_neg (by simp [hi]), lsynced_nil s hpub,
      if_neg (by simp [hready]), hw]
    simp only [hcov]
    rfl
  · have hg' : s.grp s.cur = some g := hg
    have hph' : (bit (stageWord s (spadSrc s.cur) (s.desc g) t y k) 31 == ph) = true := by
      rw [beq_iff_eq]
      exact hph
    obtain ⟨o, ho⟩ := readSpad_cases s me (spadWords d t (y + 8 + 4 * k) 4)
    have hsaw : stageSeen s s.cur (s.desc g) t y k = { s with olds := o } := ho
    have hsaw' : saw (y + 8 + 4 * k) s = { s with olds := o } := ho
    change execStagePhaseObserved s.cur s = _
    simp only [execStagePhaseObserved, hg', hw, hk, Option.bind_some, hteam, (mayWake_iff g).2 ha, hph', Bool.and_self,
      if_true, hsaw, hsaw']
    refine congrArg Host.Outcome.next ((endWait_scalar (State.grp_setGrp ..) ?_ _).trans ?_)
    · exact hst
    · rw [State.setGrp_setGrp]
      rfl

/-- Settles O41: a barrier's release wakes its groups one after another; a stage word's arithmetic; quotas. -/
theorem teamsSynchronise : Obligations.TeamsSynchronise := ⟨barriers, stageRings, quotas⟩

end Machine

end Sys2Proof
end

section
/-!
PROOFS. Accesses: what an access and a waiting word read, which does not depend on the groups (R107 to R109, R151, R242).
-/
namespace Sys2Proof

namespace Machine

open Safety

/-! ## Accesses whose translations are good (R151, R242) -/

/-- An access whose addresses all translate, into permitted regions, goes on. -/
theorem translated_ok {s : State} {gid : Nat} {g : Group} {acc : Acc} {xs : List (Nat × Nat)}
    {ps : List (Nat × Nat × TlbEntry)} (k : State → List (Nat × Nat × TlbEntry) → State) :
    let die := dieOf (coreOf gid)
    let s1 := keepTrs s die (aspOf s g) (xs.map (·.2))
    transLanes s1 die (aspOf s g) acc xs = ps.map (fun p => (p.1, .ok p.2.1 p.2.2)) →
    (∀ p ∈ ps, (paKind s1 p.2.1).line = true) → translated s gid g acc xs k = k s1 ps := by
  intro die s1 ht hl
  have hgood : ∀ {f : Nat × Tr → Bool} {t : Nat × Tr},
      (ps.map fun p : Nat × Nat × TlbEntry => (p.1, Tr.ok p.2.1 p.2.2)).find? f = some t →
      ∃ p : Nat × Nat × TlbEntry, t = (p.1, Tr.ok p.2.1 p.2.2) := by
    intro f t h
    obtain ⟨p, -, hp⟩ := List.mem_map.1 (List.mem_of_find?_eq_some h)
    exact ⟨p, hp.symm⟩
  have hline : ps.find? (fun p => !(paKind s1 p.2.1).line) = none :=
    List.find?_eq_none.2 fun p hp => by simp [hl p hp]
  unfold translated
  dsimp only [die, s1] at ht hline ⊢
  simp only [ht]
  split
  · next h =>
    obtain ⟨p, hp⟩ := hgood h
    cases hp
  · split
    · next h =>
      obtain ⟨p, hp⟩ := hgood h
      cases hp
    · simp only [List.filterMap_map, Function.comp_def, Prod.mk.eta, List.filterMap_some, hline]

/-- One address. -/
theorem scalarPa_ok {s : State} {gid : Nat} {g : Group} {acc : Acc} {va pa : Nat} {e : TlbEntry}
    (k : State → Nat → TlbEntry → State) :
    let die := dieOf (coreOf gid)
    let s1 := keepTrs s die (aspOf s g) [va]
    translate s1 die (aspOf s g) va acc = .ok pa e → (paKind s1 pa).line = true → scalarPa s gid g acc va k = k s1 pa
        e := by
  intro die s1 ht hl
  refine translated_ok (xs := [(0, va)]) (ps := [(0, pa, e)]) _ ?_ ?_
  · simp only [transLanes, List.map_cons, List.map_nil]
    exact congrArg (fun t => [(0, t)]) ht
  · intro p hp
    rw [List.mem_singleton] at hp
    subst hp
    exact hl

/-- Nothing waits at the home of a line that a local read finds readable. -/
theorem homeRead_some {s : State} {pa n : Nat} {x : List Byte × Bool} (h : homeRead s pa n = some x) (id : Nat) :
    homeReadFor s id pa n = some x ∧ homeReadNow s pa n = some x := by
  unfold homeRead homeLine at h
  cases hf : firstWaiting s (pa / 128) with
  | some i => simp [hf] at h
  | none =>
    simp only [hf, Option.isSome_none, Bool.false_eq_true, if_false] at h
    have hm : mayServe s (pa / 128) id = true := by simp [mayServe, hf]
    exact ⟨by rw [homeReadFor, if_pos hm]; exact h, h⟩

/-- A read at the point of coherence of what the home gives, with no write of the core before it. -/
theorem coherentRead_ok {s : State} {core pa n : Nat} {bs : List Byte} {bad : Bool} (id : Nat)
    (h : homeRead s pa n = some (bs, bad)) (hw : ∀ r ∈ s.reqs, ¬ (r.2.core = some core ∧ r.2.line = pa / 128)) :
    coherentRead s core id pa n = some (bs, bad, []) := by
  have hb : writeBefore s core id (pa / 128) = false := by
    refine List.any_eq_false.2 fun r hr => ?_
    have := hw r hr
    by_cases hc : r.2.core = some core
    · have hl : ¬ r.2.line = pa / 128 := fun h => this ⟨hc, h⟩
      simp [hl]
    · simp [hc]
  rw [coherentRead, hb, (homeRead_some h id).1]
  rfl

/-! ## Reading at a line's home does not depend on the groups -/

/-- The state with other groups. -/
def withGroups (gs : List (Nat × Group)) (s : State) : State := { s with groups := gs }

theorem countCorr_withGroups (gs : List (Nat × Group)) (s : State) (pa : Nat) :
    countCorr (withGroups gs s) pa = withGroups gs (countCorr s pa) := rfl

theorem sealSector_withGroups (gs : List (Nat × Group)) (s : State) (lo hi k : Nat) :
    sealSector (withGroups gs s) lo hi k = withGroups gs (sealSector s lo hi k) := by
  unfold sealSector
  rw [apply_ite (withGroups gs), apply_ite (withGroups gs)]
  rfl

theorem foldl_withGroups {α : Type} {gs : List (Nat × Group)} {f : State → α → State}
    (hf : ∀ s x, f (withGroups gs s) x = withGroups gs (f s x)) (xs : List α) (s : State) :
    xs.foldl f (withGroups gs s) = withGroups gs (xs.foldl f s) := by
  induction xs generalizing s with
  | nil => rfl
  | cons x xs ih => rw [List.foldl_cons, hf, ih, List.foldl_cons]

theorem writeMem_withGroups (gs : List (Nat × Group)) (s : State) (pa : Nat) (bs : List Byte) :
    writeMem (withGroups gs s) pa bs = withGroups gs (writeMem s pa bs) := by
  unfold writeMem writeMemAs
  rw [apply_ite (withGroups gs)]
  refine if_congr Iff.rfl rfl ?_
  dsimp only
  rw [← foldl_withGroups (gs := gs) fun s k => sealSector_withGroups gs s pa (if true then pa + bs.length else pa) k]
  rfl

theorem logLoss_withGroups (gs : List (Nat × Group)) (s : State) (line kind a : Nat) (inc : BitVec 2) :
    logLoss (withGroups gs s) line kind a inc = withGroups gs (logLoss s line kind a inc) := by
  unfold logLoss
  dsimp only
  rw [apply_ite (withGroups gs)]
  refine if_congr Iff.rfl rfl ?_
  rw [writeMem_withGroups]
  rfl

theorem uncorrectable_withGroups (gs : List (Nat × Group)) (s : State) (line : Nat) :
    uncorrectable (withGroups gs s) line = withGroups gs (uncorrectable s line) := by
  unfold uncorrectable
  dsimp only
  rw [← logLoss_withGroups]
  rfl

theorem mediaHit_withGroups (gs : List (Nat × Group)) (s : State) (line : Nat) :
    mediaHit (withGroups gs s) line = withGroups gs (mediaHit s line) := by
  unfold mediaHit
  dsimp only
  rw [apply_ite (withGroups gs), apply_ite (withGroups gs), ← uncorrectable_withGroups, apply_ite (withGroups gs)]
  rfl

theorem mediaRead_withGroups (gs : List (Nat × Group)) (s : State) (line : Nat) :
    mediaRead (withGroups gs s) line = withGroups gs (mediaRead s line) := by
  have h : lineState (withGroups gs s) line = lineState s line := rfl
  unfold mediaRead
  rw [h]
  split
  case h_5 => rfl
  all_goals exact mediaHit_withGroups gs s line

theorem channelGone_withGroups (gs : List (Nat × Group)) (s : State) (line : Nat) :
    channelGone (withGroups gs s) line = withGroups gs (channelGone s line) := by
  unfold channelGone
  dsimp only
  rw [apply_ite (withGroups gs), ← uncorrectable_withGroups]
  rfl

theorem resolve_withGroups (gs : List (Nat × Group)) (s : State) (line : Nat) :
    resolve (withGroups gs s) line = withGroups gs (resolve s line) := by
  have h : channelGone (mediaRead (withGroups gs s) line) line = withGroups gs (channelGone (mediaRead s line) line)
      := by
    rw [mediaRead_withGroups, channelGone_withGroups]
  unfold resolve
  rw [h, apply_ite (withGroups gs)]
  refine if_congr Iff.rfl rfl ?_
  generalize channelGone (mediaRead s line) line = u
  have hl : lineState (withGroups gs u) line = lineState u line := rfl
  have hs : Store.find (withGroups gs u).slices line = Store.find u.slices line := rfl
  dsimp only
  rw [hl, hs]
  split
  · rw [apply_ite (withGroups gs)]
    rfl
  · rw [apply_ite (withGroups gs)]
    refine if_congr Iff.rfl ?_ rfl
    split
    · next d _ =>
      exact congrArg (fun w : State => setEly { w with slices := Store.del u.slices line } line 0)
        (writeMem_withGroups gs u (128 * line) (bytesOf d.data))
    · rfl
  · rw [apply_ite (withGroups gs), ← logLoss_withGroups]
    rfl
  · rfl

end Machine

/-- What every entry is asked reads the same once an entry that answers alike has taken another's place. -/
theorem Store.any_put {α : Type} {m : List (Nat × α)} {k : Nat} {v w : α} (h : Store.find m k = some v)
    (f : Nat × α → Bool) (hf : f (k, w) = f (k, v)) : (Store.put m k w).any f = m.any f := by
  induction m with
  | nil => simp [Store.find] at h
  | cons e m ih =>
    obtain ⟨j, x⟩ := e
    by_cases h1 : j < k
    · simp only [Store.find, if_pos h1] at h
      simp [Store.put, h1, ih h]
    · by_cases h2 : j = k
      · subst h2
        simp [Store.find] at h
        simp [Store.put, h, hf]
      · simp [Store.find, h1, h2] at h

namespace Machine

open Safety

/-! ## Translations and readings see of the groups only what they have outstanding -/

/-- The groups gs have outstanding what those of s have. -/
def SameOut (gs : List (Nat × Group)) (s : State) : Prop :=
  ∀ f : Pending → Bool, gs.any (fun e => (e.2.sc.out ++ e.2.ln.out).any f) =
    s.groups.any fun e => (e.2.sc.out ++ e.2.ln.out).any f

theorem SameOut.of_setGrp {s : State} {k : Nat} {g h : Group} (hg : s.grp k = some g) (hs : h.sc.out = g.sc.out)
    (hl : h.ln.out = g.ln.out) : SameOut (Store.put s.groups k h) s := fun f =>
  Store.any_put hg _ (by simp only [hs, hl])

theorem SameOut.congr {gs : List (Nat × Group)} {s t : State} (h : SameOut gs s) (ht : t.groups = s.groups) :
    SameOut gs t := fun f => by rw [ht]; exact h f

section
variable {gs : List (Nat × Group)} {s : State} (h : SameOut gs s)
include h

theorem firstWaiting_withGroups (line : Nat) : firstWaiting (withGroups gs s) line = firstWaiting s line := by
  have hr : ∀ id, readWaits (withGroups gs s) line id = readWaits s line id := fun id => h _
  have hw : ∀ id, stillWaits (withGroups gs s) line id = stillWaits s line id := by
    intro id
    unfold stillWaits
    rw [hr]
    rfl
  unfold firstWaiting
  simp only [hw]
  rfl

theorem homeRead_withGroups (pa n : Nat) : homeRead (withGroups gs s) pa n = homeRead s pa n := by
  unfold homeRead homeLine
  rw [firstWaiting_withGroups h]
  rfl

theorem walk_withGroups (die asp va level tbl : Nat) :
    walk (withGroups gs s) die asp va level tbl = walk s die asp va level tbl := by
  induction level generalizing tbl with
  | zero =>
    unfold walk
    simp only [homeRead_withGroups h]
  | succ l ih =>
    unfold walk
    simp only [homeRead_withGroups h, ih]

theorem translate_withGroups (die asp va : Nat) (acc : Acc) :
    translate (withGroups gs s) die asp va acc = translate s die asp va acc := by
  unfold translate
  simp only [walk_withGroups h]
  rfl

theorem pendingId_withGroups (id : Nat) : pendingId (withGroups gs s) id = pendingId s id := by
  have := h fun p => p.id == id
  simp only [List.any_append] at this
  unfold pendingId
  exact congrArg₂ (· || ·) rfl this

theorem live_withGroups (ids : List Nat) : live (withGroups gs s) ids = live s ids :=
  congrArg (List.filter · ids) (funext (pendingId_withGroups h))

theorem liveRels_withGroups (rs : List Rel) : liveRels (withGroups gs s) rs = liveRels s rs := by
  unfold liveRels
  simp only [funext (pendingId_withGroups h)]

omit h in
theorem walkLines_withGroups (va level tbl : Nat) : walkLines (withGroups gs s) va level tbl = walkLines s va level
    tbl := by
  induction level generalizing tbl with
  | zero =>
    unfold walkLines
    rfl
  | succ l ih =>
    unfold walkLines
    simp only [ih]
    rfl

theorem keepTr_withGroups (die asp va : Nat) : keepTr (withGroups gs s) die asp va = withGroups gs (keepTr s die asp
    va) := by
  have hw : resolveWalk (withGroups gs s) asp va = withGroups gs (resolveWalk s asp va) := by
    unfold resolveWalk
    have hf : Store.find (withGroups gs s).aspaces asp = Store.find s.aspaces asp := rfl
    rw [hf]
    split
    · rfl
    · rw [walkLines_withGroups]
      exact foldl_withGroups (resolve_withGroups gs) _ _
  have hk : SameOut gs (resolveWalk s asp va) := h.congr (by
    unfold resolveWalk
    split
    · rfl
    · exact foldl_resolve_groups id _ s)
  unfold keepTr
  rw [hw, apply_ite (withGroups gs)]
  refine if_congr Iff.rfl rfl ?_
  have hf : Store.find (withGroups gs (resolveWalk s asp va)).aspaces asp = Store.find (resolveWalk s asp va).aspaces
      asp := rfl
  dsimp only
  rw [hf]
  split
  · rfl
  · rw [walk_withGroups hk]
    split <;> rfl

theorem keepTrs_withGroups (die asp : Nat) (vas : List Nat) :
    keepTrs (withGroups gs s) die asp vas = withGroups gs (keepTrs s die asp vas) := by
  induction vas generalizing s with
  | nil => rfl
  | cons va vas ih =>
    have hk : SameOut gs (keepTr s die asp va) := h.congr (keepTrs_groups s die asp [va])
    unfold keepTrs at ih ⊢
    rw [List.foldl_cons, keepTr_withGroups h, ih hk, List.foldl_cons]

end

/-! ## MWAIT (R108) -/

/-- Keeping translations and meeting a line's reading leave cores as they are. -/
theorem resolve_keepTrs_cores (s : State) (die asp : Nat) (vas : List Nat) (line : Nat) :
    (resolve (keepTrs s die asp vas) line).cores = s.cores := by
  obtain ⟨t, ht⟩ := offMem_keepTrs die asp vas s
  exact (congrArg State.cores (offMem_resolve (keepTrs s die asp vas) line) :).trans (congrArg State.cores ht :)

theorem mcmpHolds_iff (c : MCmp) (x v : W64) : mcmpHolds c x v = true ↔
    match c with | .eq => x = v | .ne => x ≠ v | .gen => v.toNat ≤ x.toNat := by
  cases c <;> simp [mcmpHolds]

/-- The group once its stamp meets the condition. -/
def stamped (s : State) (gid : Nat) (g : Group) (acq : Option Scope) (pa : Nat) : Group :=
  wokenS { g with sc := { g.sc.gain s (acqCover gid g acq (relsRead s pa 8 [])) with
    seen := liveRels s (g.sc.seen ++ relsRead s pa 8 []) } } (g.spc + 4)

/-- One reading of a stamp that can be read. -/
theorem mwaitRead_eq {s : State} {gid : Nat} {g : Group} {cmp : MCmp} {acq : Option Scope} {addr pa : Nat} {v : W64}
    {e : TlbEntry} {bs : List Byte} (hg : s.grp gid = some g) (hst : stepped s gid g = false) :
    let die := dieOf (coreOf gid)
    let s1 := keepTrs s die (aspOf s g) [addr]
    let s2 := resolve s1 (pa / 128)
    translate s1 die (aspOf s g) addr .read = .ok pa e → (paKind s1 pa).line = true →
    homeRead s2 pa 8 = some (bs, false) →
    (∀ r ∈ s2.reqs, ¬ (r.2.core = some (coreOf gid) ∧ r.2.line = pa / 128)) →
    mwaitRead s gid cmp acq addr v =
      if mcmpHolds cmp (ofBytes 64 bs) v then s2.setGrp gid (stamped s2 gid g acq pa) else s2 := by
  intro die s1 s2 ht hl hr hq
  unfold mwaitRead
  simp only [hg]
  refine (scalarPa_ok _ ht hl).trans ?_
  have hc : coherentRead (resolve s1 (pa / 128)) (coreOf gid) (resolve s1 (pa / 128)).nextId pa 8 = some (bs, false,
      []) :=
    coherentRead_ok _ hr hq
  simp only [s1, die] at hc ⊢
  simp only [hc, Bool.false_eq_true, if_false]
  refine if_congr Iff.rfl ?_ rfl
  refine (endWait_scalar (State.grp_setGrp ..) ?_ _).trans ?_
  · have hcores : s2.cores = s.cores := resolve_keepTrs_cores s die (aspOf s g) [addr] (pa / 128)
    unfold stepped State.core at hst ⊢
    change (bit (Store.getD Core.init s2.cores (coreOf gid)).step (gid % 64) && !g.handler) = false
    rw [hcores]
    exact hst
  · rw [State.setGrp_setGrp]
    rfl

theorem mwaitReadsStamp : Claims.MwaitReadsStamp := by
  intro s g cmp acq a b sw hg addr v meets die
  have hex : exec (.mwait cmp acq a b sw) s = .next (
      if addr % 8 != 0 then raiseS s s.cur g .operand (opInfo 20)
      else if g.sc.blocked s then s
      else mwaitRead (s.setGrp s.cur (waitingS g (.mwait cmp acq addr v) sw)) s.cur cmp acq addr v) := by
    change execMwait cmp acq a b sw s = _
    rw [execMwait, withCur_next hg] <;> rfl
  refine ⟨fun ha => ?_, ?_⟩
  · rw [hex, if_pos (by simpa using ha)]
    rfl
  · intro ha hb hh hts htr hst pa e bs s1 s2 ht hl hr hq hgs x rels more
    rw [if_neg (by simpa using ha), if_neg (by simp [hb])] at hex
    have hmeets : meets x v ↔ mcmpHolds cmp x v = true := by
      rw [mcmpHolds_iff] <;> cases cmp <;> rfl
    have hsame : SameOut (Store.put s.groups s.cur (waitingS g (.mwait cmp acq addr v) sw)) s :=
      SameOut.of_setGrp hg rfl rfl
    have hsame1 := hsame.congr (keepTrs_groups s die (aspOf s g) [addr])
    have hsame2 : SameOut (Store.put s.groups s.cur (waitingS g (.mwait cmp acq addr v) sw)) s2 := hsame.congr hgs
    have hk : keepTrs (s.setGrp s.cur (waitingS g (.mwait cmp acq addr v) sw)) die (aspOf s g) [addr] =
        withGroups (Store.put s.groups s.cur (waitingS g (.mwait cmp acq addr v) sw)) s1 :=
      keepTrs_withGroups hsame die (aspOf s g) [addr]
    have hk2 : resolve (keepTrs (s.setGrp s.cur (waitingS g (.mwait cmp acq addr v) sw)) die (aspOf s g) [addr]) (pa /
        128) =
        withGroups (Store.put s.groups s.cur (waitingS g (.mwait cmp acq addr v) sw)) s2 := by
      rw [hk]
      exact resolve_withGroups _ s1 (pa / 128)
    have hread := mwaitRead_eq (s := s.setGrp s.cur (waitingS g (.mwait cmp acq addr v) sw)) (cmp := cmp) (acq := acq)
      (v := v) (pa := pa) (e := e) (bs := bs) (State.grp_setGrp ..) hst
      (by
        refine (congrArg (fun u => translate u die (aspOf s g) addr .read) hk).trans ?_
        exact (translate_withGroups hsame1 die (aspOf s g) addr .read).trans ht)
      (by
        refine (congrArg (fun u => (paKind u pa).line) hk).trans ?_
        exact hl)
      (by
        refine (congrArg (fun u => homeRead u pa 8) hk2).trans ?_
        exact (homeRead_withGroups hsame2 pa 8).trans hr)
      (by
        intro r hrq
        refine hq r ?_
        have hreqs := (congrArg State.reqs hk2 :)
        exact hreqs ▸ hrq)
    have hstate : resolve (keepTrs (s.setGrp s.cur (waitingS g (.mwait cmp acq addr v) sw)) (dieOf (coreOf s.cur))
        (aspOf (s.setGrp s.cur (waitingS g (.mwait cmp acq addr v) sw)) (waitingS g (.mwait cmp acq addr v) sw)) [addr])
        (pa / 128) = withGroups (Store.put s.groups s.cur (waitingS g (.mwait cmp acq addr v) sw)) s2 := hk2
    simp only [hstate] at hread
    have hother : ∀ k, k ≠ s.cur →
        (withGroups (Store.put s.groups s.cur (waitingS g (.mwait cmp acq addr v) sw)) s2).grp k = s.grp k :=
      fun k hk => Store.find_put_ne _ _ _ hk
    refine ⟨fun hm => ?_, fun hm => ?_, fun hm hw => ?_⟩
    · refine ⟨_, hex.trans (congrArg Host.Outcome.next (hread.trans (if_pos (hmeets.1 hm)))), ?_, rfl, fun k hk => ?_⟩
      · refine (State.grp_setGrp ..).trans (congrArg some ?_)
        unfold stamped Stream.gain
        simp only [live_withGroups hsame2, liveRels_withGroups hsame2]
        rfl
      · exact (State.grp_setGrp_ne _ _ _ hk).trans (hother k hk)
    · refine ⟨_, hex.trans (congrArg Host.Outcome.next (hread.trans (if_neg (mt hmeets.2 hm)))), ?_, rfl⟩
      exact Store.find_put_self ..
    · have hg' : s.grp s.cur = some g := hg
      have he : exec (.mwaitReread s.cur) s = .next (mwaitRead s s.cur cmp acq addr v) := by
        change execMwaitReread s.cur s = _
        simp only [execMwaitReread, hg', Option.bind_some, hh, hts, htr, hw]
        rfl
      refine ⟨_, he.trans (congrArg Host.Outcome.next ((mwaitRead_eq hg' hst ht hl hr hq).trans (if_pos (hmeets.1
          hm)))),
        State.grp_setGrp .., rfl⟩

/-- Settles O40: a counter's wait, a stamp's wait as one reading decides it, and the fences. -/
theorem waitsEnd : Obligations.WaitsEnd := ⟨counterWaits, laneCounterWait, mwaitReadsStamp, fencesAndNop⟩

end Machine

end Sys2Proof
end

section
/-!
PROOFS. CommandBlocks: a command block that is not read; what a scalar store sends (R103, R222).
-/
namespace Sys2Proof

namespace Machine

open Safety

/-! ## A block at whose line a fill already waits is not read (R222) -/

/-- A group in slot 0 whose address space maps page 0, and a fill of line 0 that waits at its home. -/
def fillWaits : State :=
  { State.reset with
    groups := [(0, default)], tlb := [⟨0, 0, 0, 0, true, true, 0⟩], waits := [(0, Writer.id (.fill 0))] }

/-- The word's reading is held back behind the fill: the order of arrival stays as it is. -/
theorem fillWaits_readBlock : (readBlock fillWaits 0 default false 0 fun _ _ => State.reset).waits =
    [(0, Writer.id (.fill 0))] := by decide

/-- Refutes O1: a fill that waits at the line's home comes before the reading (R222), and no hypothesis excludes it. -/
theorem not_commandBlockIsRead : ¬ Obligations.CommandBlockIsRead := by
  intro h
  have hread := h fillWaits default 0 ⟨0, 0, 0, 0, true, true, 0⟩ rfl rfl (by decide) rfl rfl (by decide) rfl rfl rfl
      rfl
    rfl rfl (by decide) (by decide) (by decide) (by decide) fun _ _ => State.reset
  have hwaits := fillWaits_readBlock.symm.trans (congrArg State.waits hread)
  exact absurd hwaits (by decide)

/-! ## What a scalar store sends -/

/-- An SST of an element whose address translates sends its request, with the bytes of its register as the state after
    the
translation gives them. -/
theorem exec_sst {s : State} {g : Group} {d : BitVec 6} {n : BitVec 4} {b : BitVec 6} {off : BitVec 7} {sw : Bool}
    (hg : Issues s g) (hb : g.sc.blocked s = false) :
    let a := vget g.a n.toNat
    let x := sRead s.picks g b.toNat
    let checked := !insideA a (x.2.shift off.toInt off.toInt)
    let i := x.1.toInt + off.toInt
    let die := dieOf (coreOf s.cur)
    ¬ (aEsz a = 8 ∧ d.toNat % 2 = 1) → aBase a % aEsz a = 0 → ¬ (checked = true ∧ outA a i = true ∧ aMode a = 1) →
    ∀ va pa e, scalarAddress s g n b off = some va →
      let s1 := keepTrs s die (aspOf s g) [va]
      translate s1 die (aspOf s g) va .write = .ok pa e → (paKind s1 pa).line = true →
      let v := if aEsz a = 8 then (sPair s1.picks g d.toNat).toNat else (sVal s1.picks g d.toNat).toNat
      let s2 := countLines s1 die pa 1
      exec (.sst d n b off sw) s = .next (sendReqs (s2.setGrp s.cur (g.goS (g.spc + 4) sw)) s.cur false
        [mkReq s2 s.cur g false (.store pa (leBytes (aEsz a) v)) (replMask e) none]) := by
  intro a x checked i die hodd hbase htrap va pa e hva s1 ht hl v s2
  have h1 : ¬ (aEsz a == 8 && d.toNat % 2 == 1) = true := by simpa using hodd
  have h2 : ¬ (aBase a % aEsz a != 0) = true := by simpa using hbase
  have h3 : ¬ (checked && outA a i && aMode a == 1) = true := by simpa [and_assoc] using htrap
  have hva' : (modeIndex a checked i).map (eltAddr a) = some va := hva
  change execSst d n b off sw s = _
  rw [execSst, withCur_next hg, scalarAccess, if_neg h1, if_neg h2, if_neg h3]
  have hb' : ¬ g.sc.blocked s = true := by simp [hb]
  rw [if_neg hb']
  simp only [a, checked, i, x] at hva'
  rw [hva']
  exact congrArg Host.Outcome.next (scalarPa_ok _ ht hl)

end Machine

end Sys2Proof
end

section
/-!
PROOFS. ScalarStores: a scalar store whose translation drops a pick (R34, R103, R238).
-/
namespace Sys2Proof

namespace Machine

open Safety

/-! ## Reading a register with very many results outstanding (R34)

The picks name the i-th outstanding write of a register by its key plus i, and a pick about the reading of a line by
2^50 plus the line: with 2^50 results outstanding the two meet.  A store's translation reads a table line and drops
    the pick
about it, so what the store takes of its register is not what the picks said before. -/

theorem pickVal_append {α : Type} (picks : List (Nat × Mask)) (k l : Nat) (xs ys : List α) (i : Nat) (c : α) :
    pickVal picks k l i c (xs ++ ys) = pickVal picks k l (i + xs.length) (pickVal picks k l i c xs) ys := by
  induction xs generalizing i c with
  | nil => rfl
  | cons x xs ih =>
    rw [List.cons_append, pickVal, ih, List.length_cons, Nat.add_assoc, Nat.add_comm 1]
    rfl

theorem pickVal_replicate_self {α : Type} (picks : List (Nat × Mask)) (k l : Nat) (x : α) (n i : Nat) :
    pickVal picks k l i x (List.replicate n x) = x := by
  induction n generalizing i with
  | zero => rfl
  | succ n ih => rw [List.replicate_succ, pickVal, ite_self, ih]

/-- A pick of one of many equal outstanding writes gives their value. -/
theorem pickVal_replicate_hit {α : Type} {picks : List (Nat × Mask)} {k l : Nat} (x c : α) {j n : Nat} (hj : j < n)
    (h : pickBit picks k j l = true) : pickVal picks k l 0 c (List.replicate n x) = x := by
  obtain ⟨m, rfl⟩ : ∃ m, n = j + (m + 1) := ⟨n - j - 1, by omega⟩
  rw [List.replicate_add, pickVal_append, List.length_replicate, Nat.zero_add, List.replicate_succ, pickVal, if_pos h,
    pickVal_replicate_self]

/-- With no picks the register itself is read. -/
theorem pickVal_nil {α : Type} (k l : Nat) (xs : List α) (i : Nat) (c : α) : pickVal [] k l i c xs = c := by
  induction xs generalizing i with
  | nil => rfl
  | cons x xs ih => exact ih (i + 1)

/-- A result that writes 1 to S0. -/
def oneToS0 : Pending := plainPending 0 0 [.s 0 1 .top false]

theorem sKnown_replicate (n k : Nat) :
    sKnown (List.replicate n oneToS0) k = if k = 0 then List.replicate n 1 else [] := by
  have hf : (List.replicate n oneToS0).filter (fun p => p.unsampled == 0) = List.replicate n oneToS0 :=
    List.filter_replicate_of_pos (by decide)
  unfold sKnown
  rw [hf]
  unfold sOut
  induction n with
  | zero => simp
  | succ n ih =>
    rw [List.replicate_succ, List.flatMap_cons, ih (List.filter_replicate_of_pos (by decide))]
    by_cases hk : k = 0
    · simp [hk, oneToS0, plainPending, List.replicate_succ]
    · simp [oneToS0, plainPending, hk, Ne.symm hk]

/-- The array register through which it stores: one element of 4 bytes at 0. -/
def oneElement : ARegVal := BitVec.ofNat 128 (2 ^ 64 + 2 * 2 ^ 96)

/-- The group that stores S0 through A0 at index S1, with n such results outstanding. -/
def storing (n : Nat) : Group :=
  { (default : Group) with
    a := vset (default : Group).a 0 oneElement, sc := { (default : Group).sc with out := List.replicate n oneToS0 } }

/-- Its machine: three tables that map the first page, the first of them in line 0, and a pick about that line. -/
def storingOn (n : Nat) : State :=
  { State.reset with
    groups := [(0, storing n)], aspaces := [(0, 0)], picks := [(2 ^ 50, 1)],
    mem := [(0, 1), (1, 0x10), (0x1000, 1), (0x1001, 0x20), (0x2000, 7)] }

/-- What the translation keeps. -/
def storingPage : TlbEntry := ⟨0, 0, 0, 0, true, false, 0⟩

theorem sVal_storing_before {n : Nat} (hn : 2 ^ 50 ≤ n) : sVal (storingOn n).picks (storing n) 0 = 1 := by
  have hk : sKnown (storing n).sc.out 0 = List.replicate n 1 := sKnown_replicate n 0
  change pickVal [(2 ^ 50, 1)] (pkS 0) 0 0 _ (sKnown (storing n).sc.out 0) = 1
  rw [hk]
  exact pickVal_replicate_hit 1 _ (j := 2 ^ 50 - 64 * 256) (by omega) (by decide)

theorem sVal_storing_after (n : Nat) : sVal [] (storing n) 0 = 0 := pickVal_nil _ _ _ _ _


/-- Of the number of its results a translation sees no more than that there are some. -/
theorem storing_sameOut {n : Nat} (hn : n ≠ 0) : SameOut [(0, storing n)] (storingOn 1) := by
  intro f
  change (List.any [(0, storing n)] _) = List.any [(0, storing 1)] _
  simp only [List.any_cons, List.any_nil, Bool.or_false, storing, List.any_append, List.any_replicate, hn, if_false,
    one_ne_zero]

theorem storing_keepTrs {n : Nat} (hn : n ≠ 0) :
    keepTrs (storingOn n) 0 0 [0] = withGroups [(0, storing n)] (keepTrs (storingOn 1) 0 0 [0]) :=
  keepTrs_withGroups (storing_sameOut hn) 0 0 [0]

/-- The machine with one such result, once its translation has been looked up. -/
theorem storing_one_evaluates : (keepTrs (storingOn 1) 0 0 [0]).picks = [] ∧
    translate (keepTrs (storingOn 1) 0 0 [0]) 0 0 0 .write = .ok 0 storingPage ∧
    (paKind (keepTrs (storingOn 1) 0 0 [0]) 0).line = true := by decide +kernel

theorem storing_translate {n : Nat} (hn : n ≠ 0) :
    translate (keepTrs (storingOn n) 0 0 [0]) 0 0 0 .write = .ok 0 storingPage := by
  have hs : SameOut [(0, storing n)] (keepTrs (storingOn 1) 0 0 [0]) :=
    (storing_sameOut hn).congr (keepTrs_groups (storingOn 1) 0 0 [0])
  rw [storing_keepTrs hn, translate_withGroups hs]
  exact storing_one_evaluates.2.1

theorem storing_paKind {n : Nat} (hn : n ≠ 0) : (paKind (keepTrs (storingOn n) 0 0 [0]) 0).line = true := by
  rw [storing_keepTrs hn]
  exact storing_one_evaluates.2.2

/-- Its index is 0, within the array. -/
theorem storing_index (n : Nat) : (sRead (storingOn n).picks (storing n) 1).1 = 0 := by
  have hk : sKnown (storing n).sc.out 1 = [] := (sKnown_replicate n 1).trans (if_neg (by decide))
  change pickVal _ _ 0 0 _ (sKnown (storing n).sc.out 1) = 0
  rw [hk]
  rfl

theorem storing_address (n : Nat) : scalarAddress (storingOn n) (storing n) 0 1 0 = some 0 := by
  have hm : ∀ checked, (modeIndex oneElement checked 0).map (eltAddr oneElement) = some 0 := by decide
  change (modeIndex oneElement _ ((sRead (storingOn n).picks (storing n) 1).1.toInt + 0)).map (eltAddr oneElement) = _
  rw [storing_index]
  exact hm _

theorem storing_inside (n : Nat) : outA oneElement ((sRead (storingOn n).picks (storing n) 1).1.toInt + 0) = false := by
  rw [storing_index]
  decide

/-- A lone request that is sent stands under the id it was given. -/
theorem find_sendReqs (s : State) (gid : Nat) (lane : Bool) (r : Req) :
    Store.find (sendReqs s gid lane [r]).reqs s.nextId = some r :=
  Store.find_put_self ..

/-- Refutes O37: with so many results outstanding that the key of one of them (R34) is that of a pick about a table line
(R238), the store's translation drops the pick, and the bytes that it sends are not those of the register as it was read
before. -/
theorem not_scalarMemoryWords : ¬ Obligations.ScalarMemoryWords := by
  intro hO
  obtain ⟨-, h⟩ := hO
  obtain ⟨n, hn⟩ : ∃ n, 2 ^ 50 ≤ n := ⟨_, Nat.le_refl _⟩
  have h0 : n ≠ 0 := by rintro rfl; exact absurd hn (by decide)
  have hdie : dieOf (coreOf (storingOn n).cur) = 0 := by simp [dieOf, coreOf, storingOn, State.reset]
  have hasp : aspOf (storingOn n) (storing n) = 0 := rfl
  have helt : vget (storing n).a (0 : BitVec 4).toNat = oneElement := rfl
  have hodd : ¬ (aEsz (vget (storing n).a (0 : BitVec 4).toNat) = 8 ∧ (0 : BitVec 6).toNat % 2 = 1) := by rw [helt]; decide
  have hbase : aBase (vget (storing n).a (0 : BitVec 4).toNat) % aEsz (vget (storing n).a (0 : BitVec 4).toNat) = 0 :=
      by
    rw [helt]; decide
  have hin : ∀ c : Bool, ¬ (c = true ∧ outA (vget (storing n).a (0 : BitVec 4).toNat) ((sRead (storingOn n).picks
      (storing n)
      (1 : BitVec 6).toNat).1.toInt + (0 : BitVec 7).toInt) = true ∧ aMode (vget (storing n).a (0 : BitVec 4).toNat) =
          1) := fun _ hc =>
    absurd (hc.2.1.symm.trans (storing_inside n)) (by decide)
  have hclaim := (h (storingOn n) (storing n) 0 0 1 0 false rfl rfl hodd hbase (hin _)).2 0 0 storingPage
    (storing_address n)
  have hexec := exec_sst (s := storingOn n) (g := storing n) (d := 0) (n := 0) (b := 1) (off := 0) (sw := false) rfl rfl
    hodd hbase (hin _) 0 0 storingPage (storing_address n)
  rw [hdie, hasp] at hclaim hexec
  have hsent := Host.Outcome.next.inj ((hexec (storing_translate h0) (storing_paKind h0)).symm.trans
    (hclaim (storing_translate h0) (storing_paKind h0)).1)
  have hreq := congrArg (fun t : State => Store.find t.reqs (countLines (keepTrs (storingOn n) 0 0 [0]) 0 0 1).nextId)
      hsent
  have hbytes := congrArg Req.kind (Option.some.inj ((find_sendReqs ..).symm.trans (hreq.trans (find_sendReqs ..))))
  have hsize : aEsz (vget (storing n).a (0 : BitVec 4).toNat) = 4 := by rw [helt]; decide
  rw [hsize, if_neg (by decide), if_neg (by decide)] at hbytes
  change ReqKind.store 0 (leBytes 4 (sVal (keepTrs (storingOn n) 0 0 [0]).picks (storing n) 0).toNat) =
      .store 0 (leBytes 4 (sVal (storingOn n).picks (storing n) 0).toNat) at hbytes
  have hpicks : (keepTrs (storingOn n) 0 0 [0]).picks = [] :=
    (congrArg State.picks (storing_keepTrs h0)).trans storing_one_evaluates.1
  rw [hpicks, sVal_storing_before hn, sVal_storing_after] at hbytes
  exact absurd hbytes (by decide)
end Machine

end Sys2Proof
end

section
/-!
PROOFS. Commands: commands and nodes given to engines and walkers (R106, R114, R285, R298).
-/
namespace Sys2Proof

namespace Machine

open Safety

/-! ## Work given to engines and walkers (R106, R114, R285, R298) -/

theorem inTeam_eq {s : State} {gid : Nat} {g : Group} {tid : Nat} {t : Team} (htid : g.tid = some tid)
    (ht : s.team (teamKey g.lid tid) = some t) (lane : Bool) (k : Nat → Team → State) :
    inTeam s gid g lane k = k (teamKey g.lid tid) t := by
  have hk : g.tkey = some (teamKey g.lid tid) := by simp [Group.tkey, htid]
  unfold inTeam
  simp only [hk, ht]

/-- No command block lies there. -/
theorem blockAddrBad_iff (addr : W64) : blockAddrBad addr = true ↔ addr.toNat % 64 ≠ 0 ∨ 2 ^ 57 ≤ addr.toNat := by
  have h : bits addr 57 7 = 0 ↔ addr.toNat < 2 ^ 57 := by
    rw [bits_eq_zero_iff]
    have := addr.isLt
    omega
  simp only [blockAddrBad, Bool.or_eq_true, bne_iff_ne, ne_eq, h, Nat.not_lt]

theorem roleCopy_iff (g : Group) : roleCopy g = true ↔ g.role = 0 ∨ g.role = 3 := by simp [roleCopy]

theorem roleMatrix_iff (g : Group) : roleMatrix g = true ↔ g.role = 1 ∨ g.role = 3 := by simp [roleMatrix]

theorem tabulate_const {α : Type} (n : Nat) (x : α) : (tabulate n fun _ => x) = List.replicate n x := by
  simp [tabulate, List.map_const']

theorem tcopyQueuesSlice : Claims.TcopyQueuesSlice := by
  intro s g a b i nm1 sw tid t hg hrole htid ht addr mask n
  have hr : ¬ (!roleCopy g) = true := by simpa using (roleCopy_iff g).2 hrole
  have hgood : addr.toNat % 64 = 0 → addr.toNat < 2 ^ 57 → ¬ blockAddrBad (sPair s.picks g a.toNat) = true := fun h1
      h2 =>
    fun h => ((blockAddrBad_iff addr).1 h).elim (fun h => h h1) fun h => absurd h2 (Nat.not_lt.2 h)
  refine ⟨fun h => ?_, fun h1 h2 => ⟨fun h => ?_, fun h hm => ?_, fun h hm hp => ?_⟩,
    fun h1 h2 hin hm hp hroom hb u h block hread hh => ?_⟩
  · change execTcopy a b i nm1 sw s = _
    rw [execTcopy, withCur_next hg, if_neg hr, inTeam_eq htid ht]
    exact congrArg Host.Outcome.next (if_pos ((blockAddrBad_iff addr).2 h))
  · change execTcopy a b i nm1 sw s = _
    rw [execTcopy, withCur_next hg, if_neg hr, inTeam_eq htid ht]
    exact congrArg Host.Outcome.next ((if_neg (hgood h1 h2)).trans (if_pos h))
  · change execTcopy a b i nm1 sw s = _
    rw [execTcopy, withCur_next hg, if_neg hr, inTeam_eq htid ht]
    have hm' : (!bit (sVal s.picks g b.toNat) g.gidx) = true := by simpa [bit] using hm
    exact congrArg Host.Outcome.next ((if_neg (hgood h1 h2)).trans ((if_neg (Nat.not_le.2 h)).trans (if_pos hm')))
  · change execTcopy a b i nm1 sw s = _
    rw [execTcopy, withCur_next hg, if_neg hr, inTeam_eq htid ht]
    have hm' : ¬ (!bit (sVal s.picks g b.toNat) g.gidx) = true := by simpa [bit] using hm
    exact congrArg Host.Outcome.next ((if_neg (hgood h1 h2)).trans ((if_neg (Nat.not_le.2 h)).trans
      ((if_neg hm').trans (if_pos hp))))
  · intro w end_ cov w'
    have hm' : ¬ (!bit (sVal s.picks g b.toNat) g.gidx) = true := by simpa [bit] using hm
    have hroom' : ¬ (decide (64 ≤ copiesOf s g) || g.sc.blocked s) = true := by simpa [hb] using hroom
    have hexec : exec (.tcopy a b i nm1 sw) s = .next (queueSlice w s.cur (h.nextS sw) (teamKey g.lid tid) t addr.toNat
        i.toNat n mask block) := by
      change execTcopy a b i nm1 sw s = _
      rw [execTcopy, withCur_next hg, if_neg hr, inTeam_eq htid ht]
      refine congrArg Host.Outcome.next ((if_neg (hgood h1 h2)).trans ((if_neg (Nat.not_le.2 hin)).trans
        ((if_neg hm').trans ((if_neg (fun h => h hp)).trans ((if_neg hroom').trans ((hread _).trans ?_))))))
      simp only [hh]
      rfl
    rw [hexec]
    unfold queueSlice
    refine ⟨fun id c hp => ?_, fun hp => ?_⟩
    · simp only [w'] at hp
      simp only [hp]
      rfl
    · simp only [w'] at hp
      simp only [hp, tabulate_const]
      rfl

/-- Tiles of a block that pass its checks, or of a type that is none (R285 step 7). -/
theorem attnTiles_good {s : State} {gid : Nat} {g : Group} {c : Attn} {k : State}
    (h : c.tyOk = false ∨ (badTile (s.desc g) g.width (c.tiles g.width ++ [c.zs]) = none ∧
      ¬ (g.width = 64 ∧ (c.zo % 2 = 1 ∨ c.zs % 2 = 1)) ∧ (c.tiles g.width).contains c.zs = false ∧
      (c.tiles g.width ++ [c.zs]).any (touched g) = false)) : attnTiles s gid g c k = k := by
  unfold attnTiles
  rcases h with h | ⟨hbad, hodd, hin, htouched⟩
  · exact if_pos (by simp [h])
  · by_cases hty : c.tyOk = true
    · have hodd' : ¬ (g.width == 64 && (c.zo % 2 == 1 || c.zs % 2 == 1)) = true := by simpa using hodd
      dsimp only
      rw [if_neg (by simp [hty]), hbad]
      exact (if_neg hodd').trans ((if_neg (by simpa using hin)).trans (if_neg (by rw [htouched]; exact Bool.false_ne_true)))
    · exact if_pos (by simpa using hty)

theorem attnGivesCommand : Claims.AttnGivesCommand := by
  intro s g a b ctl sw tid t hg htid ht addr
  have hr : (g.role = 1 ∨ g.role = 3) → ¬ (!roleMatrix g) = true := fun h => by simpa using (roleMatrix_iff g).2 h
  refine ⟨fun h => ?_, fun hrole hf => ?_, fun hrole hf h1 h2 hw hroom hb u h block hread hh => ?_⟩
  · change execAttn a b ctl sw s = _
    rw [execAttn, withCur_next hg, if_pos (by simpa using mt (roleMatrix_iff g).1 h)]
  · change execAttn a b ctl sw s = _
    rw [execAttn, withCur_next hg, if_neg (hr hrole), inTeam_eq htid ht]
    exact congrArg Host.Outcome.next (if_pos (by simp [hf]))
  · intro c tiles htiles
    have hgood : ¬ blockAddrBad (sPair s.picks g a.toNat) = true :=
      fun h => ((blockAddrBad_iff addr).1 h).elim (fun h => h h1) fun h => absurd h2 (Nat.not_lt.2 h)
    have hroom' : ¬ (decide (64 ≤ (attnsOf s g).length) || g.sc.blocked s) = true := by simpa [hb] using hroom
    change execAttn a b ctl sw s = _
    rw [execAttn, withCur_next hg, if_neg (hr hrole), inTeam_eq htid ht]
    refine congrArg Host.Outcome.next ((if_neg (by simp [hf])).trans ((if_neg hgood).trans ((if_neg hw).trans
      ((if_neg hroom').trans ((hread _).trans ?_)))))
    simp only [hh]
    exact attnTiles_good htiles

theorem tvlayoutSetsSlot : Claims.TvlayoutSetsSlot := by
  intro s g a n sw hg addr
  refine ⟨fun hf => ?_, fun hf h1 h2 hb u h x hread hh hres hval hslot hbey => ?_⟩
  · change execTvlayout a n sw s = _
    rw [execTvlayout, withCur_next hg]
    exact congrArg Host.Outcome.next (if_pos (by simp [hf]))
  · have hgood : ¬ blockAddrBad (sPair s.picks g a.toNat) = true :=
      fun h => ((blockAddrBad_iff addr).1 h).elim (fun h => h h1) fun h => absurd h2 (Nat.not_lt.2 h)
    change execTvlayout a n sw s = _
    rw [execTvlayout, withCur_next hg]
    refine congrArg Host.Outcome.next ((if_neg (by simp [hf])).trans ((if_neg hgood).trans ((if_neg (by simp
        [hb])).trans
      ((hread _).trans ?_))))
    simp only [hh, hres, hval, hslot, hbey, bne_self_eq_false, Bool.or_self, Bool.false_eq_true, if_false]
    rfl

theorem taskStartsGraph : Claims.TaskStartsGraph := by
  intro s g a p sw hg addr die
  have haddr : (sPair s.picks g a.toNat).toNat = addr.toNat := rfl
  refine ⟨fun h => ?_, fun h hb hroom => ?_⟩
  · change execTask a p sw s = _
    rw [execTask, withCur_next hg]
    exact congrArg Host.Outcome.next (if_pos (by simpa [haddr] using h))
  · intro gr
    change execTask a p sw s = _
    have ha : ¬ ((sPair s.picks g a.toNat).toNat % 128 != 0) = true := by simpa [haddr] using h
    rw [execTask, withCur_next hg]
    refine congrArg Host.Outcome.next ((if_neg ha).trans ((if_neg (by simp [hb])).trans ?_))
    have hpost : postGraph ((released s s.cur).setGrp s.cur (g.nextS sw)) die (aspOf s g) addr.toNat p.toNat
        (g.sc.covered s) = some (walkOne { scalarOn (released s s.cur) g (g.spc + 4) sw with
          graphs := Store.put s.graphs s.nextId gr, nextId := s.nextId + 1 } s.nextId) :=
      if_neg (Nat.not_le.2 hroom)
    simp only [addr] at hpost
    simp only [die] at hpost
    rw [sPair, hpost]

/-- Settles O39: each word's checks pass, and its block, once read, gives the work. -/
theorem commandsAreGiven : Obligations.CommandsAreGiven :=
  ⟨tcopyQueuesSlice, attnGivesCommand, tvlayoutSetsSlot, taskStartsGraph⟩

end Machine

end Sys2Proof
end

section
/-!
PROOFS. LaneIssue: the quota check, and how a lane word issues (R33, R35, R41, R119).
-/
namespace Sys2Proof

namespace Machine

open Safety

/-! ## The quota check (R41) -/

theorem foldl_overQuota_some (q : Nat) (regs : List Nat) (m : Nat) :
    regs.foldl (fun r n => if n < q then r else match r with | none => some n | some m => some (min m n)) (some m) =
      some ((regs.filter fun n => decide (q ≤ n)).foldl min m) := by
  induction regs generalizing m with
  | nil => rfl
  | cons n regs ih =>
    rw [List.foldl_cons]
    by_cases h : n < q
    · rw [if_pos h, ih, List.filter_cons_of_neg (by simpa using h)]
    · rw [if_neg h, List.filter_cons_of_pos (by simpa using Nat.not_lt.1 h)]
      exact ih _

/-- The register that the check names is the lowest of those at or above the quota. -/
theorem overQuota_eq (q : Nat) (regs : List Nat) : overQuota q regs = (regs.filter fun n => decide (q ≤ n)).min? := by
  unfold overQuota
  induction regs with
  | nil => rfl
  | cons n regs ih =>
    rw [List.foldl_cons]
    by_cases h : n < q
    · rw [if_pos h, ih, List.filter_cons_of_neg (by simpa using h)]
    · rw [if_neg h, List.filter_cons_of_pos (by simpa using Nat.not_lt.1 h)]
      exact foldl_overQuota_some q regs n

theorem inQuota_within {s : State} {gid : Nat} {g : Group} {regs : List Nat} {k : State} (h : ∀ r ∈ regs, r < g.q) :
    inQuota s gid g regs k = k := by
  have hnone : overQuota g.q regs = none := by
    rw [overQuota_eq, List.filter_eq_nil_iff.2 fun r hr => by simpa using h r hr]
    rfl
  rw [inQuota, hnone]

theorem inQuota_beyond {s : State} {gid : Nat} {g : Group} {regs : List Nat} {k : State} {r : Nat} (hr : r ∈ regs)
    (hq : g.q ≤ r) (hmin : ∀ r' ∈ regs, g.q ≤ r' → r ≤ r') :
    inQuota s gid g regs k = raiseL s gid g .quota (BitVec.ofNat 32 (1 + 256 * r)) := by
  have hsome : overQuota g.q regs = some r := by
    rw [overQuota_eq, List.min?_eq_some_iff]
    refine ⟨List.mem_filter.2 ⟨hr, by simpa using hq⟩, fun r' hr' => ?_⟩
    obtain ⟨hm, hq'⟩ := List.mem_filter.1 hr'
    exact hmin r' hm (by simpa using hq')
  rw [inQuota, hsome]
  exact congrArg (fun n => raiseL s gid g .quota (BitVec.ofNat 32 (1 + n))) (Nat.mul_comm r 256)

/-- A word that begins with the quota check takes the quota trap as R41 says. -/
theorem quotaTrap_of {s : State} {g : Group} {i : Instr} {regs : List Nat} {k : State}
    (h : exec i s = .next (inQuota s s.cur g regs k)) : QuotaTrap s g i regs := fun _ hr hq hmin =>
  h.trans (congrArg Host.Outcome.next (inQuota_beyond hr hq hmin))

/-! ## How lane words issue (R33, R35, R119) -/

theorem issueL_nil (s : State) (g : Group) (sw : Bool) :
    issueL s s.cur g [] sw = laneOn s g (g.ctx.lpc + 12) sw := rfl

theorem issueL_room {s : State} {g : Group} {ws : List PWrite} (sw : Bool) (hw : ws ≠ []) (hroom : g.ln.full = false) :
    issueL s s.cur g ws sw = laneAfter s g ws sw := by
  have he : ¬ (plainPending 0 0 ws).writes.isEmpty = true := by simpa [plainPending] using hw
  have hf : ¬ g.ln.full = true := by simp [hroom]
  rw [issueL, issueP, if_neg he, if_neg hf]
  rfl

theorem wV_eq_laneWrites (g : Group) (ty : Ty) (d : BitVec 8) (eff : Mask) (sh : Shadow) (val : Nat → Nat) :
    wV g ty d eff sh val = laneWrites g ty d eff sh val := by
  simp only [wV, laneWrites, partialSh, tabulate, beq_iff_eq, Nat.mul_zero, Nat.pow_zero, Nat.div_one, Nat.mul_one]

theorem laneWrites_ne_nil (g : Group) (ty : Ty) (d : BitVec 8) (eff : Mask) (sh : Shadow) (val : Nat → Nat) :
    laneWrites g ty d eff sh val ≠ [] := by
  unfold laneWrites
  dsimp only
  split <;> exact List.cons_ne_nil _ _

/-- Of the values of a V destination only the W-bit patterns are written (R119). -/
theorem laneWrites_congr (g : Group) {ty : Ty} (d : BitVec 8) (eff : Mask) (sh : Shadow) {f val : Nat → Nat}
    (h : ∀ l, f l % 2 ^ tyW ty = val l % 2 ^ tyW ty) : laneWrites g ty d eff sh f = laneWrites g ty d eff sh val := by
  have hword : ∀ k, 32 * k + 32 ≤ tyW ty →
      (fun l => (BitVec.ofNat 32 (f l / 2 ^ (32 * k)) : W32)) = fun l => BitVec.ofNat 32 (val l / 2 ^ (32 * k)) := by
    intro k hk
    funext l
    have hpart : ∀ x : Nat, x / 2 ^ (32 * k) % 2 ^ 32 = x % 2 ^ tyW ty / 2 ^ (32 * k) % 2 ^ 32 := fun x => by
      conv_rhs => rw [show tyW ty = 32 * k + (tyW ty - 32 * k) by omega, Nat.pow_add, Nat.mod_mul_right_div_self,
        Nat.mod_mod_of_dvd _ (Nat.pow_dvd_pow 2 (by omega))]
    exact BitVec.eq_of_toNat_eq (by rw [BitVec.toNat_ofNat, BitVec.toNat_ofNat, hpart, h l, ← hpart])
  unfold laneWrites
  dsimp only
  by_cases h64 : ty.is64 = true
  · have hw : tyW ty = 64 := if_pos h64
    rw [if_pos h64, if_pos h64, hword 0 (by omega), hword 1 (by omega)]
  · have hw : tyW ty = 32 := if_neg h64
    rw [if_neg h64, if_neg h64, hword 0 (by omega)]

/-- A lane word that is laneV completes as R119 says. -/
theorem laneWord_of {s : State} {g : Group} {m : Mods} {i : Instr} {regs : List Nat} {ty : Ty} {d : BitVec 8}
    {sh : Shadow} {f val : Nat → Nat} (h : exec i s = .next (laneV s s.cur g m regs ty d sh f))
    (hval : ∀ l, f l % 2 ^ tyW ty = val l % 2 ^ tyW ty) : LaneWord s g m i regs ty d sh val := by
  refine ⟨quotaTrap_of h, fun hq heff => ?_, fun hq heff hroom => ?_⟩
  · rw [h, laneV, inQuota_within hq]
    dsimp only
    rw [if_pos (by simpa using heff)]
    rfl
  · rw [h, laneV, inQuota_within hq]
    dsimp only
    rw [if_neg (by simpa using heff), wV_eq_laneWrites, laneWrites_congr g d _ sh hval,
      issueL_room m.sw (laneWrites_ne_nil _ _ _ _ _ _) hroom]

/-- A lane word that is laneP completes as R119 says. -/
theorem lanePredicateWord_of {s : State} {g : Group} {m : Mods} {i : Instr} {regs : List Nat} {d : BitVec 3}
    {f val : Nat → Bool} (h : exec i s = .next (laneP s s.cur g m regs d f)) (hval : ∀ l, l < 64 → f l = val l) :
    LanePredicateWord s g m i regs d val := by
  refine ⟨quotaTrap_of h, fun hq heff => ?_, fun hq heff hroom hw => ⟨maskOf g.width f, fun l hl => ?_, ?_⟩⟩
  · rw [h, laneP, inQuota_within hq]
    dsimp only
    rw [if_pos (by simpa using heff)]
    rfl
  · rw [getLsbD_maskOf, decide_eq_true hl, decide_eq_true (Nat.lt_of_lt_of_le hl hw),
      hval l (Nat.lt_of_lt_of_le hl hw)]
    rfl
  · rw [h, laneP, inQuota_within hq]
    dsimp only
    rw [if_neg (by simpa using heff)]
    exact congrArg Host.Outcome.next (issueL_room m.sw (List.cons_ne_nil _ _) hroom)

end Machine

end Sys2Proof
end

section
/-!
PROOFS. LaneIntegers: integer lane words: exact values, compares, moves and conversions, patterns and bit fields (R120 to R125).
-/
namespace Sys2Proof

namespace Machine

open Safety

/-! ## Typed values and stored results (R120, R125) -/

/-- A pattern read by its signedness, as a bit vector's value. -/
theorem rdN_eq (signed : Bool) {n : Nat} (hn : 0 < n) (v : Nat) :
    rdN signed n v = if signed then (BitVec.ofNat n v).toInt else ((v % 2 ^ n : Nat) : Int) := by
  unfold rdN
  cases signed
  · simp
  · have h2 : 2 ^ n = 2 * 2 ^ (n - 1) := by
      rw [← Nat.pow_succ']
      exact congrArg _ (Nat.succ_pred_eq_of_pos hn).symm
    have hc : (2 ^ (n - 1) ≤ v % 2 ^ n) ↔ ¬ 2 * (v % 2 ^ n) < 2 ^ n := by omega
    simp only [Bool.true_and, decide_eq_true_eq, if_true, BitVec.toInt_eq_toNat_cond, BitVec.toNat_ofNat, hc, ite_not]
    push_cast
    rfl

theorem tyW_pos (ty : Ty) : 0 < tyW ty := by
  unfold tyW
  split <;> decide

theorem rd_eq_typed (ty : Ty) (v : Nat) : rd ty v = typed ty v := rdN_eq ty.signed (tyW_pos ty) v

/-- An integer kept modulo 2^n. -/
theorem toNat_ofInt_eq (n : Nat) (x : Int) : (x % 2 ^ n).toNat = (BitVec.ofInt n x).toNat := by
  rw [BitVec.toNat_ofInt]
  norm_cast

theorem wr_eq_stored (ty : Ty) (sat : Bool) (x : Int) : wr ty sat x = stored ty sat x := by
  unfold wr stored clampTo tyMin tyMax
  exact toNat_ofInt_eq _ _

/-! ## Integer arithmetic (R121) -/

section
variable {s : State} {g : Group} (hg : Issues s g) {m : Mods} {i : Instr} {ty : Ty} {sat : Bool} {d a : BitVec 8}
  {b : OpB} {c : OpC} {sh : Shadow} {k : Nat → Group → State}
  {e : Host.Outcome State Fault Refusal} (hi : exec i s = e) (he : e = withCur s k)
include hg hi he

/-- A word that acts for the issuing group as laneV does. -/
theorem laneWord_cur {regs : List Nat} {f val : Nat → Nat} (hk : k s.cur g = laneV s s.cur g m regs ty d sh f)
    (hval : ∀ l, f l % 2 ^ tyW ty = val l % 2 ^ tyW ty) : LaneWord s g m i regs ty d sh val :=
  laneWord_of (hi.trans (he.trans ((withCur_next hg k).trans (congrArg Host.Outcome.next hk)))) hval

/-- A word that acts for the issuing group as laneP does. -/
theorem lanePredicateWord_cur {regs : List Nat} {p : BitVec 3} {f val : Nat → Bool}
    (hk : k s.cur g = laneP s s.cur g m regs p f) (hval : ∀ l, l < 64 → f l = val l) :
    LanePredicateWord s g m i regs p val :=
  lanePredicateWord_of (hi.trans (he.trans ((withCur_next hg k).trans (congrArg Host.Outcome.next hk)))) hval

theorem laneWord_exact1 {f : Int → Int} (hk : k s.cur g = laneZ1 s s.cur g m ty sat d a f) :
    LaneWord s g m i (vRegs ty d ++ vRegs ty a) ty d .top
      (fun l => stored ty sat (f (typed ty (vVal s s.cur g ty a l)))) :=
  laneWord_cur hg hi he hk fun l => by rw [wr_eq_stored, rd_eq_typed]

theorem laneWord_exact2 {f : Int → Int → Int} (hk : k s.cur g = laneZ2 s s.cur g m ty sat d a b sh f) :
    LaneWord s g m i (vRegs ty d ++ vRegs ty a ++ bRegs ty b) ty d sh
      (fun l => stored ty sat (f (typed ty (vVal s s.cur g ty a l)) (typed ty (bVal s s.cur g ty b l)))) :=
  laneWord_cur hg hi he hk fun l => by rw [wr_eq_stored, rd_eq_typed, rd_eq_typed]

theorem laneWord_exact3 {f : Int → Int → Int → Int} (hk : k s.cur g = laneZ3 s s.cur g m ty sat d a b c sh f) :
    LaneWord s g m i (vRegs ty d ++ vRegs ty a ++ bRegs ty b ++ cRegs ty c) ty d sh
      (fun l => stored ty sat (f (typed ty (vVal s s.cur g ty a l)) (typed ty (bVal s s.cur g ty b l))
        (typed ty (cVal s s.cur g ty c l)))) :=
  laneWord_cur hg hi he hk fun l => by rw [wr_eq_stored, rd_eq_typed, rd_eq_typed, rd_eq_typed]
end

/-- Settles O2: each word is one of exact values of two, three or one operand, stored as R120 says. -/
theorem laneArithmetic : Obligations.LaneArithmetic := by
  intro s g m ty sat d a b c hg _ x y z A B C r1 r2 f
  have habs : ∀ v : Int, (if v < 0 then -v else v) = v.natAbs := fun v => by split <;> omega
  simp only [habs]
  exact ⟨laneWord_exact2 hg (e := execIadd m ty sat d a b s) rfl rfl rfl,
    laneWord_exact2 hg (e := execIsub m ty sat d a b s) rfl rfl rfl,
    laneWord_exact2 hg (e := execImul m ty sat d a b s) rfl rfl rfl,
    laneWord_exact2 (f := fun x y => x * y / 2 ^ tyW ty) hg (e := execImulh m ty d a b s) rfl rfl rfl,
    laneWord_exact3 (f := fun x y z => x * y + z) hg (e := execImad m ty sat d a b c s) rfl rfl rfl,
    laneWord_exact1 (f := fun x => (x.natAbs : Int)) hg (e := execIabs m ty sat d a s) rfl rfl rfl,
    laneWord_exact1 (f := fun x => -x) hg (e := execIneg m ty sat d a s) rfl rfl rfl,
    laneWord_exact2 hg (e := execImin m ty d a b s) rfl rfl rfl,
    laneWord_exact2 hg (e := execImax m ty d a b s) rfl rfl rfl,
    laneWord_exact3 (f := fun x y z => min (max x y) z) hg (e := execIclamp m ty d a b c s) rfl rfl rfl⟩

end Machine

namespace Machine

open Safety

/-! ## Compares, moves and conversions (R124, R125) -/

/-- A bit vector extended as its type's signedness says. -/
theorem toNat_extend (signed : Bool) {n w : Nat} (hn : 0 < n) (hw : n ≤ w) (r : BitVec n) :
    ((if signed then r.signExtend w else r.zeroExtend w) : BitVec w).toNat = (rdN signed n r.toNat % 2 ^ w).toNat := by
  rw [rdN_eq signed hn, BitVec.ofNat_toNat, BitVec.setWidth_eq]
  cases signed
  · have h1 : r.toNat < 2 ^ n := r.isLt
    have h2 : 2 ^ n ≤ 2 ^ w := Nat.pow_le_pow_right (by decide) hw
    have h3 : (r.toNat : Int) % 2 ^ w = ((r.toNat % 2 ^ w : Nat) : Int) := by norm_cast
    simp only [Bool.false_eq_true, if_false, BitVec.zeroExtend_eq_setWidth, BitVec.toNat_setWidth]
    rw [Nat.mod_eq_of_lt h1, h3]
    rfl
  · simp only [if_true]
    rw [toNat_ofInt_eq]
    rfl

/-- A value within a type's range is read back from its bits. -/
theorem rdN_ofInt (signed : Bool) {n : Nat} (hn : 0 < n) {x : Int} (hlo : tyMin signed n ≤ x) (hhi : x ≤ tyMax signed n) :
    rdN signed n (BitVec.ofInt n x).toNat = x := by
  rw [rdN_eq signed hn, BitVec.ofNat_toNat, BitVec.setWidth_eq]
  cases signed
  · simp only [tyMin, tyMax, Bool.false_eq_true, if_false] at hlo hhi ⊢
    rw [← toNat_ofInt_eq, Int.emod_eq_of_lt hlo (by omega)]
    have h2 : x.toNat < 2 ^ n := by zify; rw [Int.toNat_of_nonneg hlo]; push_cast; omega
    rw [Nat.mod_eq_of_lt h2, Int.toNat_of_nonneg hlo]
  · simp only [tyMin, tyMax, if_true] at hlo hhi ⊢
    exact BitVec.toInt_ofInt_eq_self hn hlo (by omega)

theorem clampTo_range {signed : Bool} {n : Nat} (x : Int) :
    tyMin signed n ≤ clampTo signed n x ∧ clampTo signed n x ≤ tyMax signed n := by
  have h : tyMin signed n ≤ tyMax signed n := by
    have : (0 : Int) < 2 ^ (n - 1) ∧ (0 : Int) < 2 ^ n := ⟨by positivity, by positivity⟩
    unfold tyMin tyMax
    cases signed <;> simp <;> omega
  unfold clampTo
  omega

theorem size_of_int8c {ty : Ty} (h : ty.int8c = true) : 0 < tyBits ty ∧ tyBits ty ≤ tyW ty := by
  cases ty <;> first | exact absurd h (by decide) | decide

/-- What a conversion gives: the exact value wrapped or clamped to the type's bits, then extended. -/
theorem icvtVal_eq {ty src : Ty} (hty : ty.int8c = true) (hsrc : src.int8c = true) (sat : Bool) (v : Nat) :
    icvtVal ty src sat v =
      (let n := tyBits ty
       let x : BitVec (tyBits src) := BitVec.ofNat _ v
       let exact : Int := if src.signed then x.toInt else x.toNat
       let r : BitVec n := BitVec.ofInt n (if sat then clampTo ty.signed n exact else exact)
       ((if ty.signed then r.signExtend (tyW ty) else r.zeroExtend (tyW ty)) : BitVec (tyW ty)).toNat) := by
  obtain ⟨hn, hw⟩ := size_of_int8c hty
  obtain ⟨hs, -⟩ := size_of_int8c hsrc
  have hx : rdN src.signed (tyBits src) v =
      if src.signed then (BitVec.ofNat (tyBits src) v).toInt else (BitVec.ofNat (tyBits src) v).toNat := by
    rw [rdN_eq _ hs, BitVec.toNat_ofNat]
  dsimp only
  rw [toNat_extend ty.signed hn hw, icvtVal, hx]
  cases sat
  · simp only [Bool.false_eq_true, if_false, toNat_ofInt_eq]
  · simp only [if_true, rdN_ofInt ty.signed hn (clampTo_range _).1 (clampTo_range _).2]

/-- Settles O3: the words are those of a V or a P destination with the values of R124 and R125. -/
theorem laneComparesAndMoves : Obligations.LaneComparesAndMoves := by
  intro s g m ty src cond p c rm sat d a b imm hg hty hsrc x y A r1 top
  refine ⟨fun _ hc => ?_, laneWord_cur hg (e := execIsel m ty d a b c s) rfl rfl rfl fun _ => rfl,
    laneWord_cur hg (e := execImov m ty d a s) rfl rfl rfl fun _ => rfl,
    laneWord_cur hg (e := execImovi m ty d imm s) rfl rfl rfl fun _ => rfl,
    laneWord_cur hg (e := execIcvt m ty src rm sat d a s) rfl rfl rfl fun l =>
      congrArg (· % 2 ^ tyW ty) (icvtVal_eq hty hsrc sat _)⟩
  refine lanePredicateWord_cur hg (e := execIcmp m ty cond p a b s) rfl rfl rfl fun l _ => ?_
  rw [rd_eq_typed, rd_eq_typed]
  cases cond
  case un => exact absurd hc (by decide)
  case ord => exact absurd hc (by decide)
  case ne => exact Bool.eq_iff_iff.2 (by simp [icmpHolds, x, y])
  case eq => exact Bool.eq_iff_iff.2 (by simp [icmpHolds, x, y])
  all_goals rfl

end Machine

namespace Machine

open Safety

/-! ## Patterns of W bits (R122) -/

theorem vVal_lt (s : State) (gid : Nat) (g : Group) (ty : Ty) (n : BitVec 8) (l : Nat) :
    vVal s gid g ty n l < 2 ^ tyW ty := by
  have h0 := (vRead s gid g n.toNat l).isLt
  have h1 := (vRead s gid g (n.toNat + 1) l).isLt
  unfold vVal tyW
  split <;> omega

theorem shl_pattern (w x y : Nat) : shlPat w x y = (BitVec.ofNat w x <<< (y % 2 ^ 32)).toNat := by
  rw [BitVec.toNat_shiftLeft, BitVec.toNat_ofNat, Nat.shiftLeft_eq, Nat.mod_mul_mod]
  unfold shlPat shAmt
  split
  · next h =>
    obtain ⟨k, hk⟩ := Nat.exists_eq_add_of_le h
    rw [hk, Nat.pow_add, ← Nat.mul_assoc, Nat.mul_right_comm, Nat.mul_mod_left]
  · rfl

theorem shr_pattern (w x y : Nat) : shrPat w x y = (BitVec.ofNat w x >>> (y % 2 ^ 32)).toNat := by
  rw [BitVec.toNat_ushiftRight, BitVec.toNat_ofNat, Nat.shiftRight_eq_div_pow]
  unfold shrPat shAmt
  split
  · next h =>
    have hw : 0 < 2 ^ w := Nat.two_pow_pos w
    exact (Nat.div_eq_of_lt (Nat.lt_of_lt_of_le (Nat.mod_lt x hw) (Nat.pow_le_pow_right (by decide) h))).symm
  · rfl

/-- An arithmetic shift of a negative pattern shifts its complement. -/
theorem neg_shift {w t n : Nat} (ht : t < 2 ^ w) :
    (2 ^ w - 1 - t + 2 ^ w * (2 ^ n - 1)) / 2 ^ n = 2 ^ w - 1 - t / 2 ^ n := by
  have hn : 0 < 2 ^ n := Nat.two_pow_pos n
  have hle : 2 ^ w ≤ 2 ^ n * 2 ^ w := Nat.le_mul_of_pos_left _ hn
  have he : 2 ^ w - 1 - t + 2 ^ w * (2 ^ n - 1) = 2 ^ n * 2 ^ w - (t + 1) := by
    rw [Nat.mul_sub_one, Nat.mul_comm (2 ^ w)]
    omega
  rw [he, Nat.mul_sub_div _ _ _ (by omega)]
  omega

theorem sra_pattern {w : Nat} (hw : 0 < w) (x y : Nat) :
    sraPat w x y = ((BitVec.ofNat w x).sshiftRight (y % 2 ^ 32)).toNat := by
  have hlt : x % 2 ^ w < 2 ^ w := Nat.mod_lt x (Nat.two_pow_pos w)
  have hmin : ∀ t, t < 2 ^ w → t / 2 ^ (if w ≤ shAmt y then w else shAmt y) = t / 2 ^ (y % 2 ^ 32) := by
    intro t ht
    split
    · next h =>
      exact (Nat.div_eq_of_lt ht).trans
        (Nat.div_eq_of_lt (Nat.lt_of_lt_of_le ht (Nat.pow_le_pow_right (by decide) h))).symm
    · rfl
  have hmsb : (BitVec.ofNat w x).msb = decide (2 ^ (w - 1) ≤ x % 2 ^ w) := by
    rw [BitVec.msb_eq_decide, BitVec.toNat_ofNat]
  unfold sraPat
  dsimp only
  by_cases h : 2 ^ (w - 1) ≤ x % 2 ^ w
  · rw [if_pos h, BitVec.sshiftRight_eq_of_msb_true (hmsb.trans (decide_eq_true h)), BitVec.toNat_not,
      BitVec.toNat_ushiftRight, BitVec.toNat_not, BitVec.toNat_ofNat, Nat.shiftRight_eq_div_pow]
    have ht : 2 ^ w - 1 - x % 2 ^ w < 2 ^ w := by omega
    rw [← hmin _ ht, ← neg_shift ht]
    congr 1
    omega
  · rw [if_neg h, BitVec.sshiftRight_eq_of_msb_false (hmsb.trans (decide_eq_false h)), BitVec.toNat_ushiftRight,
      BitVec.toNat_ofNat, Nat.shiftRight_eq_div_pow, hmin _ hlt]

theorem clz_pattern {w x : Nat} (hx : x < 2 ^ w) : clzPat w x = if x = 0 then w else w - 1 - x.log2 := by
  induction w with
  | zero => simp [clzPat]
  | succ w ih =>
    unfold clzPat
    by_cases h : 2 ^ w ≤ x
    · have hne : x ≠ 0 := by have := Nat.two_pow_pos w; omega
      have hlog : x.log2 = w := (Nat.log2_eq_iff hne).2 ⟨h, hx⟩
      rw [if_pos h, if_neg hne, hlog]
      omega
    · rw [if_neg h, ih (Nat.lt_of_not_le h)]
      by_cases h0 : x = 0
      · simp [h0, Nat.add_comm]
      · have hlog : x.log2 < w := (Nat.log2_lt h0).2 (Nat.lt_of_not_le h)
        rw [if_neg h0, if_neg h0]
        omega

theorem popcount_pattern (w x : Nat) : popNat w x = ((List.range w).filter fun i => x.testBit i).length := by
  induction w generalizing x with
  | zero => rfl
  | succ w ih =>
    rw [popNat, ih, List.range_succ_eq_map, List.filter_cons, List.filter_map, Nat.testBit_zero]
    have hcomp : ((fun i => x.testBit i) ∘ Nat.succ) = fun i => (x / 2).testBit i := funext fun i => by
      simp [Nat.testBit_succ]
    rw [hcomp]
    rcases Nat.mod_two_eq_zero_or_one x with h | h <;> simp [h, Nat.add_comm]

theorem brevPat_succ (w x : Nat) : brevPat (w + 1) x = brevPat w x * 2 + x / 2 ^ w % 2 := by
  simp [brevPat, List.range_succ]

theorem testBit_brevPat (w x i : Nat) : (brevPat w x).testBit i = (decide (i < w) && x.testBit (w - 1 - i)) := by
  induction w generalizing i with
  | zero => simp [brevPat]
  | succ w ih =>
    rw [brevPat_succ, Nat.mul_comm]
    cases i with
    | zero =>
      rw [Nat.testBit_zero, Nat.mul_add_mod, Nat.mod_mod, Nat.testBit_eq_decide_div_mod_eq]
      simp
    | succ i =>
      have hdiv : (2 * brevPat w x + x / 2 ^ w % 2) / 2 = brevPat w x := by omega
      rw [Nat.testBit_succ, hdiv, ih]
      simp only [Nat.add_lt_add_iff_right, Nat.add_sub_cancel]
      congr 2
      omega

theorem brev_pattern (w x : Nat) : brevPat w x = (BitVec.ofNat w x).reverse.toNat := by
  refine Nat.eq_of_testBit_eq fun i => ?_
  rw [testBit_brevPat, BitVec.testBit_toNat, BitVec.getLsbD_reverse, BitVec.getMsbD, BitVec.getLsbD_ofNat]
  by_cases h : i < w
  · simp [h, show w - 1 - i < w by omega]
  · simp [h]

/-! ## The words (R122) -/

/-- ISHR's shadow (R145). -/
theorem shr_shadow (ty : Ty) (A B : Shadow) :
    (if B.farShift then laneShadow ty false [] (A.shr B) else nShadow ty [A, B] (A.shr B)) =
      if ty.is64 then .top else if B.farShift then .itv 0 0
        else if !ty.signed && !(A.nonneg && B.nonneg) then .top else A.shr B := by
  by_cases hf : B.farShift = true
  · simp [hf, laneShadow, Shadow.shr]
  · simp [hf, nShadow]

theorem laneLogicAndShifts : Claims.LaneLogicAndShifts := by
  intro s g m ty d a b hg _ x y n A B r1 r2 is64
  have hx : ∀ l, (x l).toNat = vVal s s.cur g ty a l := fun l => by
    rw [BitVec.toNat_ofNat, Nat.mod_eq_of_lt (vVal_lt ..)]
  refine ⟨laneWord_cur hg (e := execIand m ty d a b s) rfl rfl rfl fun l => ?_,
    laneWord_cur hg (e := execIor m ty d a b s) rfl rfl rfl fun l => ?_,
    laneWord_cur hg (e := execIxor m ty d a b s) rfl rfl rfl fun l => ?_,
    laneWord_cur hg (e := execInot m ty d a s) rfl rfl rfl fun l => ?_,
    laneWord_cur hg (e := execIshl m ty d a b s) rfl rfl rfl fun l => congrArg (· % _) (shl_pattern ..),
    ?_,
    laneWord_cur hg (e := execIsra m ty d a b s) rfl rfl rfl fun l => congrArg (· % _) (sra_pattern (tyW_pos ty) ..),
    laneWord_cur hg (e := execIclz m ty d a s) rfl rfl rfl fun l => ?_,
    laneWord_cur hg (e := execIpopc m ty d a s) rfl rfl rfl fun l => ?_,
    laneWord_cur hg (e := execIbrev m ty d a s) rfl rfl rfl fun l => congrArg (· % _) (brev_pattern ..)⟩
  · rw [BitVec.toNat_and, BitVec.toNat_ofNat, BitVec.toNat_ofNat, ← Nat.and_mod_two_pow, Nat.mod_mod]
  · rw [BitVec.toNat_or, BitVec.toNat_ofNat, BitVec.toNat_ofNat, ← Nat.or_mod_two_pow, Nat.mod_mod]
  · rw [BitVec.toNat_xor, BitVec.toNat_ofNat, BitVec.toNat_ofNat, ← Nat.xor_mod_two_pow, Nat.mod_mod]
  · rw [BitVec.toNat_not, hx]
  · rw [← shr_shadow]
    exact laneWord_cur hg (e := execIshr m ty d a b s) rfl rfl rfl fun l => congrArg (· % _) (shr_pattern ..)
  · rw [clz_pattern (vVal_lt ..), hx]
  · rw [popcount_pattern]
    simp only [← BitVec.testBit_toNat, hx]

/-! ## Bit fields (R123) -/

/-- Bits that lie below W are those of the pattern's W low bits. -/
theorem mod_div_mod {pos n w : Nat} (h : pos + n ≤ w) (x : Nat) : x % 2 ^ w / 2 ^ pos % 2 ^ n = x / 2 ^ pos % 2 ^ n := by
  obtain ⟨k, rfl⟩ := Nat.exists_eq_add_of_le h
  rw [Nat.add_assoc, Nat.pow_add, Nat.mod_mul_right_div_self, Nat.mod_mod_of_dvd _ (Nat.pow_dvd_pow 2 (by omega))]

theorem bfx_pattern (ty : Ty) {pos len : Nat} (hpos : pos < tyW ty) (hlen : 1 ≤ len) (x : Nat) :
    bfxPat ty pos len x =
      (let f := (BitVec.ofNat (tyW ty) x).extractLsb' pos (min len (tyW ty - pos))
       ((if ty.signed then f.signExtend (tyW ty) else f.zeroExtend (tyW ty)) : BitVec (tyW ty)).toNat) := by
  have hn : 0 < min len (tyW ty - pos) := by omega
  have hle : pos + min len (tyW ty - pos) ≤ tyW ty := by omega
  unfold bfxPat
  dsimp only
  generalize min len (tyW ty - pos) = n at hn hle ⊢
  have hf : ((BitVec.ofNat (tyW ty) x).extractLsb' pos n).toNat = x / 2 ^ pos % 2 ^ n := by
    rw [BitVec.extractLsb'_toNat, BitVec.toNat_ofNat, Nat.shiftRight_eq_div_pow, mod_div_mod hle]
  have hlt : x / 2 ^ pos % 2 ^ n < 2 ^ n := Nat.mod_lt _ (Nat.two_pow_pos n)
  have hpow : 2 ^ n ≤ 2 ^ tyW ty := Nat.pow_le_pow_right (by decide) (by omega)
  cases ty.signed
  · rw [if_neg (by simp), if_neg (by simp), BitVec.zeroExtend_eq_setWidth, BitVec.toNat_setWidth, hf,
      Nat.mod_eq_of_lt (Nat.lt_of_lt_of_le hlt hpow)]
  · rw [if_pos rfl, BitVec.toNat_signExtend, BitVec.toNat_setWidth, hf, BitVec.msb_eq_decide, hf,
      Nat.mod_eq_of_lt (Nat.lt_of_lt_of_le hlt hpow), Bool.true_and]
    split
    · exact Nat.add_sub_assoc hpow _
    · rfl

theorem bfi_bits {w pos len : Nat} (hpos : pos ≤ w) (x y i : Nat) :
    (x - x / 2 ^ pos % 2 ^ len * 2 ^ pos + y % 2 ^ len * 2 ^ pos).testBit i =
      if pos ≤ i ∧ i < pos + len then y.testBit (i - pos) else x.testBit i := by
  have hlo : x % 2 ^ pos < 2 ^ pos := Nat.mod_lt _ (Nat.two_pow_pos pos)
  have hx : x = 2 ^ pos * (2 ^ len * (x / 2 ^ pos / 2 ^ len) + x / 2 ^ pos % 2 ^ len) + x % 2 ^ pos := by
    rw [Nat.div_add_mod, Nat.div_add_mod]
  have hr : x - x / 2 ^ pos % 2 ^ len * 2 ^ pos + y % 2 ^ len * 2 ^ pos =
      2 ^ pos * (2 ^ len * (x / 2 ^ pos / 2 ^ len) + y % 2 ^ len) + x % 2 ^ pos := by
    rw [Nat.mul_add, Nat.mul_comm (y % 2 ^ len), Nat.mul_comm (x / 2 ^ pos % 2 ^ len)]
    rw [Nat.mul_add] at hx
    omega
  rw [hr, Nat.testBit_two_pow_mul_add _ hlo, Nat.testBit_two_pow_mul_add _ (Nat.mod_lt _ (Nat.two_pow_pos len)),
    Nat.testBit_mod_two_pow, Nat.testBit_mod_two_pow, Nat.testBit_div_two_pow, Nat.testBit_div_two_pow]
  by_cases h1 : i < pos
  · simp [h1, show ¬ pos ≤ i by omega]
  · by_cases h2 : i - pos < len
    · simp [h1, h2, show pos ≤ i ∧ i < pos + len by omega]
    · simp [h1, h2, show ¬ i < pos + len by omega, show i - pos - len + len + pos = i by omega]

theorem laneBitFields : Claims.LaneBitFields := by
  intro s g m ty d a b pos len hg _ h1 _ x y n r1
  have hpos : pos.toNat < tyW ty := by
    have := pos.isLt
    unfold tyW
    split <;> omega
  refine ⟨laneWord_cur hg (e := execIbfx m ty d a pos len s) rfl rfl rfl fun l =>
      congrArg (· % _) (bfx_pattern ty hpos h1 _),
    fun l => BitVec.ofNat _ (bfiPat ty pos.toNat len.toNat (vVal s s.cur g ty a l) (cVal s s.cur g ty b l)),
    fun l i hi => ?_, laneWord_cur hg (e := execIbfi m ty d a b pos len s) rfl rfl rfl fun l => ?_⟩
  · have hn : n ≤ tyW ty - pos.toNat := Nat.min_le_right _ _
    rw [BitVec.getLsbD_ofNat, decide_eq_true hi, Bool.true_and, bfiPat, bfi_bits (Nat.le_of_lt hpos),
        BitVec.getLsbD_ofNat,
      BitVec.getLsbD_ofNat, decide_eq_true hi, Bool.true_and]
    by_cases h : pos.toNat ≤ i ∧ i < pos.toNat + n
    · rw [if_pos h, if_pos h, decide_eq_true (by omega), Bool.true_and]
    · rw [if_neg h, if_neg h]
  · rw [BitVec.toNat_ofNat, Nat.mod_mod]

/-- Settles O47: the patterns of the model are the bit vectors' operations. -/
theorem laneBitWords : Obligations.LaneBitWords := ⟨laneLogicAndShifts, laneBitFields⟩

end Machine

end Sys2Proof
end

section
/-!
PROOFS. LaneMasks: shadows, predicates, EXM and FX (R126 to R128, R147).
-/
namespace Sys2Proof

namespace Machine

open Safety

/-! ## Shadows of V registers (R147) -/

/-- The first lane of a mask at which something holds. -/
theorem find?_lanesOf_eq_some {m : Mask} {p : Nat → Bool} {l : Nat} :
    (lanesOf m).find? p = some l ↔ m.getLsbD l = true ∧ p l = true ∧ ∀ j, j < l → m.getLsbD j = true → p j = false := by
  rw [lanesOf, List.find?_filter, List.find?_range_eq_some]
  simp only [decide_eq_true_eq, List.mem_range, Bool.not_eq_true', Bool.and_eq_true]
  constructor
  · rintro ⟨⟨hm, hp⟩, -, hj⟩
    exact ⟨hm, hp, fun j hjl hmj => by simpa [hmj] using hj j hjl⟩
  · rintro ⟨hm, hp, hj⟩
    refine ⟨⟨hm, hp⟩, BitVec.lt_of_getLsbD hm, fun j hjl => ?_⟩
    cases hmj : m.getLsbD j
    · rfl
    · simpa [hmj] using hj j hjl hmj

theorem find?_lanesOf_eq_none {m : Mask} {p : Nat → Bool} :
    (lanesOf m).find? p = none ↔ ∀ l, m.getLsbD l = true → p l = false := by
  simp only [List.find?_eq_none, mem_lanesOf, Bool.not_eq_true]

theorem laneShadowWords : Claims.LaneShadowWords := by
  intro s g m d lo hi hg hd hv hlo hhi l h eff old v flown on
  have hq : ∀ r ∈ [d.toNat], r < g.q := fun r hr => by rwa [List.mem_singleton.1 hr]
  have hidle : ¬ (vBusy g d.toNat || uBusy g lo || uBusy g hi) = true := by simp [vBusy, hv, hlo, hhi]
  have hout : ∀ i, (decide (v i < l) || decide (h < v i)) = false ↔ l ≤ v i ∧ v i ≤ h := fun i => by simp
  have hvrange : exec (.vrange m d lo hi) s = .next
      (match (lanesOf eff).find? fun i => decide (v i < l) || decide (h < v i) with
       | some i => raiseL s s.cur g .range (BitVec.ofNat 32 i)
       | none =>
         let sh := if vFlight s s.cur g d.toNat then .top
           else if eff == g.live then Shadow.norm l h
           else if eff != 0 then Shadow.join old (Shadow.norm l h) else old
         s.setGrp s.cur (({ g with vsh := vset g.vsh d.toNat sh } : Group).nextL m.sw)) := by
    change execVrange m d lo hi s = _
    rw [execVrange, withCur_next hg, inQuota_within hq, if_neg hidle] <;> rfl
  refine ⟨?_, fun hin => ?_, fun i hi64 hi hbad hlow => ?_⟩
  · change execVwiden m d lo hi s = _
    rw [execVwiden, withCur_next hg, inQuota_within hq, if_neg hidle]
    rfl
  · refine hvrange.trans ?_
    rw [find?_lanesOf_eq_none.2 fun i hi => (hout i).2 (hin i (BitVec.lt_of_getLsbD hi) hi)]
    have hsh : (if eff == g.live then Shadow.norm l h else if eff != 0 then Shadow.join old (Shadow.norm l h) else
        old) =
        if eff = g.live then Shadow.norm l h else if eff = 0 then old else old.join (Shadow.norm l h) := by
      simp only [beq_iff_eq, bne_iff_ne, ne_eq, ite_not]
    dsimp only
    rw [hsh]
    rfl
  · have hfind := find?_lanesOf_eq_some (p := fun i => decide (v i < l) || decide (h < v i)).2
      ⟨hi, by simpa using hbad, fun j hj hjm => (hout j).2 (hlow j hj hjm)⟩
    rw [hvrange, hfind]

/-! ## Predicates, EXM and FX (R126 to R128) -/

theorem predicateMaskAndFlagWords : Claims.PredicateMaskAndFlagWords := by
  intro s g m d a b v hg x y gm eff
  refine ⟨lanePredicateWord_cur hg (e := execPand m d a b s) rfl rfl rfl fun l _ => BitVec.getLsbD_and,
    lanePredicateWord_cur hg (e := execPor m d a b s) rfl rfl rfl fun l _ => BitVec.getLsbD_or,
    lanePredicateWord_cur hg (e := execPxor m d a b s) rfl rfl rfl fun l _ => BitVec.getLsbD_xor,
    fun _ => lanePredicateWord_cur hg (e := execPnot m d a s) rfl rfl rfl fun l hl => ?_,
    lanePredicateWord_cur hg (e := execPmov m d a s) rfl rfl rfl fun l _ => rfl,
    lanePredicateWord_cur hg (e := execExmget m d s) rfl rfl rfl fun l _ => rfl, ?_,
    laneWord_cur hg (e := execFxget m v s) rfl rfl rfl fun l => rfl, ?_⟩
  · rw [BitVec.getLsbD_not, decide_eq_true hl, Bool.true_and]
  · change execExmset m a s = _
    rw [execExmset, withCur_next hg]
    rfl
  · have hexec : exec (.fxset m v) s = .next (inQuota s s.cur g [v.toNat] (issueL s s.cur g (if eff == 0 then [] else
        [.fxSet eff (tabulate g.width fun l => (vRead s s.cur g v.toNat l).truncate 6) [] false]) m.sw)) := by
      change execFxset m v s = _
      rw [execFxset, withCur_next hg]
    have hq : v.toNat < g.q → ∀ r ∈ [v.toNat], r < g.q := fun h r hr => by rwa [List.mem_singleton.1 hr]
    refine ⟨quotaTrap_of hexec, fun h heff => ?_, fun h heff hroom => ?_⟩
    · rw [hexec, inQuota_within (hq h), if_pos (by simpa using heff), issueL_nil]
    · rw [hexec, inQuota_within (hq h), if_neg (by simpa using heff), issueL_room m.sw (List.cons_ne_nil _ _) hroom]
      simp only [BitVec.truncate_eq_setWidth, BitVec.setWidth_eq_extractLsb' (Nat.le_of_ble_eq_true rfl : 6 ≤ 32),
          tabulate]

/-- Settles O48: the shadow words, and the words of predicates, masks and flags. -/
theorem laneShadowAndMaskWords : Obligations.LaneShadowAndMaskWords := ⟨laneShadowWords, predicateMaskAndFlagWords⟩

end Machine

end Sys2Proof
end

section
/-!
PROOFS. LaneFloats: words that raise flags, and rounding (R168, R169, R172 to R187).
-/
namespace Sys2Proof

namespace Machine

open Safety

/-! ## Words that raise flags (R172, R173) -/

theorem getLsbD_foldl_or {α : Type} (f : α → BitVec 6) (xs : List α) (z : BitVec 6) (k : Nat) :
    (xs.foldl (fun r x => r ||| f x) z).getLsbD k = true ↔ z.getLsbD k = true ∨ ∃ x ∈ xs, (f x).getLsbD k = true := by
  induction xs generalizing z with
  | nil => simp
  | cons x xs ih => simp [ih, or_assoc]

section
variable {s : State} {g : Group} {m : Mods} {eff : Mask} {fl : Nat → BitVec 6} {ws : List PWrite}

/-- The flags that a word raises, lane by lane. -/
def laneFlags (g : Group) (eff : Mask) (fl : Nat → BitVec 6) : List (BitVec 6) :=
  (List.range g.width).map fun l => if eff.getLsbD l then fl l else 0

/-- No lane raises an enabled flag, or the word raises none: it issues. -/
theorem flagged_issues (h : m.nf = true ∨ ∀ l, eff.getLsbD l = true → fl l &&& trapEnables g.lmode = 0) :
    flagged s s.cur g m eff fl ws = issueL s s.cur g (ws ++ fxWrite m.nf (laneFlags g eff fl))
      (m.sw || trapEnables g.lmode != 0) := by
  have hnone : (if m.nf then none else arithTrap (trapEnables g.lmode) ((lanesOf eff).map fun l => (l, fl l))) = none
      := by
    rcases h with h | h
    · rw [if_pos h]
    · have hfind : ((lanesOf eff).map fun l => (l, fl l)).find? (fun r => r.2 &&& trapEnables g.lmode != 0) = none := by
        rw [List.find?_map, Option.map_eq_none_iff, find?_lanesOf_eq_none]
        exact fun l hl => by simp [h l hl]
      rw [arithTrap, hfind, ite_self]
  unfold flagged
  simp only [hnone]
  rfl

/-- The lowest lane that raises an enabled flag traps, with all the enabled flags raised. -/
theorem flagged_traps {l : Nat} (hnf : m.nf = false) (hl : eff.getLsbD l = true) (hen : fl l &&& trapEnables g.lmode ≠ 0)
    (hlow : ∀ j, j < l → eff.getLsbD j = true → fl j &&& trapEnables g.lmode = 0) :
    flagged s s.cur g m eff fl ws = raiseL s s.cur g .arithmetic (BitVec.ofNat 32
      ((((lanesOf eff).map fun l => (l, fl l)).foldl (fun f r => f ||| (r.2 &&& trapEnables g.lmode)) 0).toNat * 256 +
          l)) := by
  have hfind : ((lanesOf eff).map fun l => (l, fl l)).find? (fun r => r.2 &&& trapEnables g.lmode != 0) = some (l, fl
      l) := by
    rw [List.find?_map, Option.map_eq_some_iff]
    exact ⟨l, find?_lanesOf_eq_some.2 ⟨hl, by simpa using hen, fun j hj hjm => by simp [hlow j hj hjm]⟩, rfl⟩
  unfold flagged
  simp only [hnf, Bool.false_eq_true, if_false, arithTrap, hfind]
  rfl

theorem fxWrite_eq (nf : Bool) (fs : List (BitVec 6)) :
    fxWrite nf fs = if nf = true ∨ ∀ x ∈ fs, x = 0 then [] else [.fxOr fs false] := by
  simp only [fxWrite, Bool.or_eq_true, List.all_eq_true, beq_iff_eq]

/-- A word that is `flagged` within its quota check issues as R172 and R173 say. -/
theorem flagIssue_of {i : Instr} {regs : List Nat} (hws : ws ≠ [])
    (h : exec i s = .next (inQuota s s.cur g regs
      (flagged s s.cur g m (effMask s.picks g m) fl (if effMask s.picks g m == 0 then [] else ws)))) :
    FlagIssue s g m i regs ws fl := by
  refine ⟨quotaTrap_of h, fun hq heff => ?_, fun hq heff htraps hroom => ?_, fun hq hnf l _ hl hen hlow => ?_⟩
  · have hno : ∀ l, (effMask s.picks g m).getLsbD l ≠ true := fun l => by simp [heff]
    have hflags : fxWrite m.nf (laneFlags g (effMask s.picks g m) fl) = [] := by
      rw [fxWrite_eq, if_pos]
      exact Or.inr fun x hx => by
        obtain ⟨l, -, rfl⟩ := List.mem_map.1 hx
        exact if_neg (hno l)
    rw [h, inQuota_within hq, flagged_issues (.inr fun l hl => absurd hl (hno l)), hflags, if_pos (by simpa using heff)]
    rfl
  · have hclear : m.nf = true ∨ ∀ l, (effMask s.picks g m).getLsbD l = true → fl l &&& trapEnables g.lmode = 0 := by
      cases hnf : m.nf
      · refine .inr fun l hl => Decidable.byContradiction fun hen => htraps ⟨hnf, l, BitVec.lt_of_getLsbD hl, hl, hen⟩
      · exact .inl rfl
    rw [h, inQuota_within hq, flagged_issues hclear, if_neg (by simpa using heff),
      issueL_room _ (List.append_ne_nil_of_left_ne_nil hws _) hroom, fxWrite_eq]
    rfl
  · refine ⟨((lanesOf (effMask s.picks g m)).map fun l => (l, fl l)).foldl
      (fun f r => f ||| (r.2 &&& trapEnables g.lmode)) 0, fun k _ => ?_, ?_⟩
    · rw [getLsbD_foldl_or fun r : Nat × BitVec 6 => r.2 &&& trapEnables g.lmode]
      simp only [List.mem_map, mem_lanesOf]
      constructor
      · rintro (hz | ⟨_, ⟨j, hj, rfl⟩, hk⟩)
        · exact absurd hz (by simp)
        · exact ⟨j, BitVec.lt_of_getLsbD hj, hj, hk⟩
      · rintro ⟨j, -, hj, hk⟩
        exact .inr ⟨_, ⟨j, hj, rfl⟩, hk⟩
    · rw [h, inQuota_within hq, flagged_traps hnf hl hen hlow]

/-- An effective lane is one of the group's. -/
theorem lt_width_of_effMask {l : Nat} (h : (effMask s.picks g m).getLsbD l = true) : l < g.width := by
  have hall : g.all.getLsbD l = true := by
    rw [effMask, BitVec.getLsbD_and] at h
    exact (Bool.and_eq_true _ _ ▸ h).2
  rw [Group.all, getLsbD_lowMask] at hall
  exact of_decide_eq_true (Bool.and_eq_true _ _ ▸ hall).2

/-- A word that is `laneF` issues as R172 and R173 say, with f's patterns and flags. -/
theorem flagWord_of {i : Instr} {regs : List Nat} {ty : Ty} {d : BitVec 8} {f val : Nat → Fres}
    (h : exec i s = .next (laneF s s.cur g m regs ty d f)) (hval : ∀ l, f l = val l) :
    FlagWord s g m i regs ty d val := by
  obtain rfl : f = val := funext hval
  intro _
  have hat : (fun l => nthD ((0 : Nat), (0 : BitVec 6)) (tabulate g.width fun l =>
      if (effMask s.picks g m).getLsbD l then f l else (0, 0)) l) =
      fun l => if (effMask s.picks g m).getLsbD l then f l else (0, 0) := by
    funext l
    rw [nthD_tabulate]
    split
    · rfl
    · next hl => rw [if_neg fun he => hl (lt_width_of_effMask he)]
  refine flagIssue_of (laneWrites_ne_nil _ _ _ _ _ _) (h.trans ?_)
  rw [laneF]
  simp only [wV_eq_laneWrites, congrFun hat]
end

/-! ## Arithmetic (R168, R172 to R178) -/

section
variable {s : State} {g : Group} (hg : Issues s g) {m : Mods} {i : Instr} {ty : Ty} {rm : Rm} {d a : BitVec 8}
  {b : OpB} {c : OpC} {k : Nat → Group → State} {e : Host.Outcome State Fault Refusal} (hi : exec i s = e)
  (he : e = withCur s k)
include hg hi he

/-- A word that acts for the issuing group as laneF does. -/
theorem flagWord_cur {regs : List Nat} {dt : Ty} {f val : Nat → Fres} (hk : k s.cur g = laneF s s.cur g m regs dt d f)
    (hval : ∀ l, f l = val l) : FlagWord s g m i regs dt d val :=
  flagWord_of (hi.trans (he.trans ((withCur_next hg k).trans (congrArg Host.Outcome.next hk)))) hval

theorem flagWord_two (hty : ty.flt5 = true) {op : Fmt → Fenv → Fv → Fv → Fres}
    (hk : k s.cur g = laneF2 s s.cur g m ty rm d a b op) :
    FlagWord s g m i ([d.toNat, a.toNat] ++ bRegs .i32 b) .i32 d (fun l =>
      each2 ty (fenv g.lmode rm) op (vVal s s.cur g .i32 a l) (bVal s s.cur g .i32 b l)) :=
  flagWord_cur hg hi he hk fun l => by cases ty <;> first | exact absurd hty (by decide) | rfl

theorem flagWord_one (hty : ty.flt5 = true) {op : Fmt → Fenv → Fv → Fres}
    (hk : k s.cur g = laneF1 s s.cur g m ty rm d a op) :
    FlagWord s g m i [d.toNat, a.toNat] .i32 d (fun l => each1 ty (fenv g.lmode rm) op (vVal s s.cur g .i32 a l)) :=
  flagWord_cur hg hi he hk fun l => by cases ty <;> first | exact absurd hty (by decide) | rfl

theorem flagWord_minMax (hty : ty.flt5 = true) {mx : Bool} (hk : k s.cur g = laneMinMax s s.cur g m ty mx d a b) :
    FlagWord s g m i ([d.toNat, a.toNat] ++ bRegs .i32 b) .i32 d (fun l => packed2
      (((elements ty (vVal s s.cur g .i32 a l)).zip (elements ty (bVal s s.cur g .i32 b l))).map fun e =>
        (fmtOf ty).minmax (fenv g.lmode .mode) mx e.1 e.2)) :=
  flagWord_cur hg hi he hk fun l => by cases ty <;> first | exact absurd hty (by decide) | rfl
end

/-- Settles O4: each word applies its operation to the elements of its operands. -/
theorem floatArithmetic : Obligations.FloatArithmetic := by
  intro s g m ty rm d a b c hg hty v x y z r1 r2 w both
  refine ⟨flagWord_two hg (e := execFadd m ty rm d a b s) rfl rfl hty rfl,
    flagWord_two hg (e := execFsub m ty rm d a b s) rfl rfl hty rfl,
    flagWord_two hg (e := execFmul m ty rm d a b s) rfl rfl hty rfl,
    flagWord_cur hg (e := execFfma m ty rm d a b c s) rfl rfl rfl fun l => ?_,
    flagWord_minMax hg (e := execFmin m ty d a b s) rfl rfl hty rfl,
    flagWord_minMax hg (e := execFmax m ty d a b s) rfl rfl hty rfl,
    flagWord_one hg (e := execFrnd m ty rm d a s) rfl rfl hty rfl,
    fun _ => ⟨flagWord_two hg (e := execFdiv m ty rm d a b s) rfl rfl hty rfl,
      flagWord_one hg (e := execFrcp m ty rm d a s) rfl rfl hty rfl,
      flagWord_one hg (e := execFrsq m ty rm d a s) rfl rfl hty rfl,
      flagWord_one hg (e := execFsqrt m ty rm d a s) rfl rfl hty rfl,
      flagWord_one hg (e := execFexp2 m ty rm d a s) rfl rfl hty rfl,
      flagWord_one hg (e := execFlog2 m ty rm d a s) rfl rfl hty rfl⟩⟩
  cases ty <;> first | exact absurd hty (by decide) | rfl

/-- A second quota check of the same registers finds nothing. -/
theorem inQuota_inQuota (s : State) (gid : Nat) (g : Group) (regs : List Nat) (k : State) :
    inQuota s gid g regs (inQuota s gid g regs k) = inQuota s gid g regs k := by
  unfold inQuota
  cases overQuota g.q regs <;> rfl

/-! ## Compares and conversions (R177, R181 to R187) -/

theorem isNan_of_isSig {x : Fv} (h : x.isSig = true) : x.isNan = true := by
  cases x with
  | nan b => rfl
  | inf | zero | fin => exact absurd h Bool.false_ne_true

section
variable (f : Fmt) (v : Fenv) (c : Cond) (a b : Nat)

/-- The relation that FCMP finds. -/
theorem cmp_fst : (f.cmp v c a b).1 =
    if (f.read v.daz a).isNan || (f.read v.daz b).isNan then decide (c = .ne ∨ c = .un)
    else match c with
      | .eq => !(f.read v.daz a).less false (f.read v.daz b) && !(f.read v.daz b).less false (f.read v.daz a)
      | .ne => (f.read v.daz a).less false (f.read v.daz b) || (f.read v.daz b).less false (f.read v.daz a)
      | .lt => (f.read v.daz a).less false (f.read v.daz b)
      | .le => !(f.read v.daz b).less false (f.read v.daz a)
      | .gt => (f.read v.daz b).less false (f.read v.daz a)
      | .ge => !(f.read v.daz a).less false (f.read v.daz b)
      | .un => false
      | .ord => true := by
  unfold Fmt.cmp
  dsimp only
  by_cases hn : ((f.read v.daz a).isNan || (f.read v.daz b).isNan) = true
  · rw [if_pos hn, if_pos hn]
    cases c <;> rfl
  · rw [if_neg hn, if_neg hn] <;> cases c <;> rfl

/-- The flags that FCMP raises. -/
theorem cmp_snd : (f.cmp v c a b).2 =
    if ((f.read v.daz a).isSig || (f.read v.daz b).isSig) ||
      ((match c with | .lt | .le | .gt | .ge => true | _ => false) &&
        ((f.read v.daz a).isNan || (f.read v.daz b).isNan)) then 1 else 0 := by
  unfold Fmt.cmp
  dsimp only
  by_cases hn : ((f.read v.daz a).isNan || (f.read v.daz b).isNan) = true
  · rw [if_pos hn, hn]
    cases c <;> simp [fxNv]
  · have hs : ((f.read v.daz a).isSig || (f.read v.daz b).isSig) = false := by
      simp only [Bool.or_eq_true, not_or, Bool.or_eq_false_iff] at hn ⊢
      exact ⟨Bool.eq_false_iff.2 (mt isNan_of_isSig hn.1), Bool.eq_false_iff.2 (mt isNan_of_isSig hn.2)⟩
    rw [if_neg hn, hs, Bool.eq_false_iff.2 hn]
    cases c <;> rfl
end

/-- Settles O5: FCMP by its relation and NaNs, the conversions by their values, the l6 words behind their feature. -/
theorem floatComparesAndConversions : Obligations.FloatComparesAndConversions := by
  intro s g m ty src cond p rm sat d a b hg eff v w x y r1 r2 xv yv nan sig ordering
  have hl6 : ∀ {regs : List Nat} {j : State}, hasFeat s s.cur 2 = true → (withL6 s s.cur g regs j) = inQuota s s.cur g regs j :=
    fun h => by rw [withL6, if_pos h]
  refine ⟨fun hty hw => ⟨maskOf g.width fun l => ((fmtOf ty).cmp w cond (x l) (y l)).1, fun l hl => ?_, ?_⟩,
    fun _ => laneWord_cur hg (e := execFclass m ty d a s) rfl rfl rfl fun _ => rfl,
    fun _ => flagWord_cur hg (e := execFcvt m ty src rm sat d a s) rfl rfl rfl fun _ => rfl,
    fun hf => ⟨flagWord_cur hg (e := execLmul m sat d a b s) rfl rfl ?_ fun _ => rfl,
      fun _ => flagWord_cur hg (e := execLcvt m ty src rm sat d a s) rfl rfl ?_ fun _ => rfl⟩,
    fun hf => ⟨fun hq => ?_, fun hq => ?_⟩⟩
  · rw [getLsbD_maskOf, decide_eq_true (Nat.lt_of_lt_of_le hl hw), decide_eq_true hl]
    exact cmp_fst (fmtOf ty) w cond (x l) (y l)
  · refine flagIssue_of (List.cons_ne_nil _ _) ?_
    change execFcmp m ty cond p a b s = _
    rw [execFcmp, withCur_next hg, (funext fun l => (cmp_snd (fmtOf ty) w cond (x l) (y l)).symm :
      (fun l => if sig l || (ordering && nan l) then (1 : BitVec 6) else 0) = _)]
    rfl
  · exact (hl6 hf).trans (inQuota_inQuota ..)
  · exact (hl6 hf).trans (inQuota_inQuota ..)
  · change execLmul m sat d a b s = _
    rw [execLmul, withCur_next hg]
    exact congrArg Host.Outcome.next ((inQuota_within hq).trans (if_neg (by simp [hf])))
  · change execLcvt m ty src rm sat d a s = _
    rw [execLcvt, withCur_next hg]
    exact congrArg Host.Outcome.next ((inQuota_within hq).trans (if_neg (by simp [hf])))

end Machine

namespace Machine

open Safety

/-! ## Rounding (R169) -/

/-- Settles O6: each direction reads off the definition; at a tie the kept integer's parity decides. -/
theorem roundingDirections : Obligations.RoundingDirections := by
  intro rm neg n rem sh hrem hsh hmode up
  have hhalf : 2 ^ sh = 2 * 2 ^ (sh - 1) := by
    rw [← Nat.pow_succ']
    exact congrArg _ (Nat.succ_pred_eq_of_pos hsh).symm
  have hpos : 0 < 2 ^ (sh - 1) := Nat.two_pow_pos _
  have hrne : rm = .rne → (up = true ↔ 2 ^ (sh - 1) < rem ∨ (rem = 2 ^ (sh - 1) ∧ n % 2 = 1)) := by
    rintro rfl
    simp [up, roundUp]
  have hrna : rm = .rna → (up = true ↔ 2 ^ (sh - 1) ≤ rem) := by
    rintro rfl
    simp [up, roundUp]
  refine ⟨fun h0 => ?_, ?_, ?_, ?_, ?_, fun hr htie => ?_, fun hr htie => (hrna hr).2 (by omega)⟩
  · cases rm with
    | mode => exact absurd rfl hmode
    | rz => rfl
    | ru => simp [up, roundUp, h0]
    | rd => simp [up, roundUp, h0]
    | rne => exact Bool.eq_false_iff.2 fun h => by have := (hrne rfl).1 h; omega
    | rna => exact Bool.eq_false_iff.2 fun h => by have := (hrna rfl).1 h; omega
  · rintro rfl
    rfl
  · rintro rfl h0
    simp [up, roundUp, h0]
  · rintro rfl h0
    simp [up, roundUp, h0]
  · rintro (rfl | rfl)
    · exact ⟨fun h => Bool.eq_false_iff.2 fun hu => by have := (hrne rfl).1 hu; omega, fun h => (hrne rfl).2 (by omega)⟩
    · exact ⟨fun h => Bool.eq_false_iff.2 fun hu => by have := (hrna rfl).1 hu; omega, fun h => (hrna rfl).2 (by omega)⟩
  · by_cases hu : up = true
    · rw [if_pos hu]
      have := (hrne hr).1 hu
      omega
    · rw [if_neg hu]
      have : ¬ _ := mt (hrne hr).2 hu
      omega

end Machine

end Sys2Proof
end

section
/-!
PROOFS. LaneCrossing: shuffles, votes, scans and reductions (R129 to R133).
-/
namespace Sys2Proof

namespace Machine

open Safety

/-! ## Uniform results (R129) -/

theorem lowBit_eq {fuel n l : Nat} (hl : l < fuel) (h : n.testBit l = true) (hlow : ∀ j, j < l → n.testBit j = false) :
    lowBit fuel n = l := by
  induction fuel generalizing n l with
  | zero => exact absurd hl (Nat.not_lt_zero l)
  | succ f ih =>
    unfold lowBit
    cases l with
    | zero =>
      rw [Nat.testBit_zero, decide_eq_true_eq] at h
      exact if_pos h
    | succ l =>
      have h0 := hlow 0 (Nat.succ_pos l)
      rw [Nat.testBit_zero, decide_eq_false_iff_not] at h0
      rw [if_neg h0, ih (Nat.lt_of_succ_lt_succ hl) (by rwa [Nat.testBit_succ] at h), Nat.add_comm]
      exact fun j hj => by simpa [Nat.testBit_succ] using hlow (j + 1) (Nat.succ_lt_succ hj)

/-- A uniform result's registers, for the quota check. -/
theorem uniWrites_s (g : Group) (n : BitVec 6) (eff : Mask) (ws : List W32) :
    uniWrites g (.s n) eff ws =
      ws.mapIdx fun j v => .s (g.sKey (n.toNat + j)) v (Shadow.exact v) false := by
  simp only [uniWrites, wS, List.mapIdx_eq_zipIdx_map]
  exact (List.map_eq_flatMap ..).symm

/-- The words of a uniform result in the effective lanes of V registers. -/
theorem uniWrites_v (g : Group) (n : BitVec 8) {eff : Mask} (heff : eff ≠ 0) (ws : List W32) :
    uniWrites g (.v n) eff ws =
      ws.mapIdx fun j v => .v (n.toNat + j) eff (List.replicate g.width v)
        (if eff = g.live then Shadow.exact v else (vShadow g (n.toNat + j)).join (Shadow.exact v)) false := by
  simp only [uniWrites, beq_iff_eq, if_neg heff, tabulate_const, partialSh]

/-- A word that issues a uniform result within its quota check completes as R129 says. -/
theorem uniformWord_of {s : State} {g : Group} {m : Mods} {sw : Bool} {i : Instr} {regs : List Nat} {d : Dst}
    {ws : List W32} {more : List PWrite} (hws : ws ≠ []) (hmore : effMask s.picks g m = 0 → more = [])
    (h : exec i s = .next (inQuota s s.cur g (dstRegs ws.length d ++ regs)
      (issueL s s.cur g (uniWrites g d (effMask s.picks g m) ws ++ more) sw))) :
    UniformWord s g m sw i regs d Shadow.exact ws more := by
  cases d with
  | s n =>
    refine ⟨quotaTrap_of h, fun hq hroom => ?_⟩
    rw [h, dstRegs, List.nil_append, inQuota_within hq, uniWrites_s, issueL_room _ _ hroom]
    exact List.append_ne_nil_of_left_ne_nil (by simpa using hws) _
  | v n =>
    have hregs : dstRegs ws.length (.v n) = (List.range ws.length).map (n.toNat + ·) := rfl
    rw [hregs] at h
    refine ⟨quotaTrap_of h, fun hq heff => ?_, fun hq heff hroom => ?_⟩
    · have hnil : uniWrites g (.v n) (effMask s.picks g m) ws ++ more = [] := by
        rw [hmore heff, uniWrites, if_pos (by simpa using heff), List.append_nil]
      rw [h, inQuota_within hq, hnil, issueL_nil]
    · rw [h, inQuota_within hq, uniWrites_v g n heff, issueL_room _ _ hroom]
      exact List.append_ne_nil_of_left_ne_nil (by simpa using hws) _

/-! ## Shuffles and votes (R130 to R132) -/

theorem laneShufflesAndVotes : Claims.LaneShufflesAndVotes := by
  intro s g m ty mode vote d a b dst p hg _ eff src k regs t low exact
  refine ⟨laneWord_cur hg (e := execXshfl m ty mode d a b s) rfl rfl rfl fun l => congrArg (· % _) ?_, fun l hl => ?_,
      ?_, ?_⟩
  · cases mode with
    | idx => rfl
    | xor => rfl
    | up =>
      simp only [shflFrom]
      split <;> rfl
    | down =>
      simp only [shflFrom]
      split <;> rfl
  · have hword := laneWord_cur hg (i := .xbcast m ty d a b) (e := execXbcast m ty d a b s) rfl rfl rfl fun _ => rfl
    by_cases heff : eff = 0
    · exact ⟨hword.1, hword.2.1, fun _ h => absurd heff h⟩
    · obtain ⟨h64, hbit, hlow⟩ := hl.resolve_left heff
      have hl' : lowBit 64 eff.toNat = l := lowBit_eq h64 (by rwa [BitVec.testBit_toNat])
        fun j hj => by rw [BitVec.testBit_toNat, hlow j hj]
      exact hl' ▸ hword
  · refine uniformWord_of (by split <;> exact List.cons_ne_nil _ _) (fun _ => rfl) ?_
    change execXballot m dst p s = _
    rw [execXballot, withCur_next hg, List.append_nil, List.append_nil]
    rfl
  · have hword : UniformWord s g m m.sw (.xvote m vote dst p) [] dst exact [if voteResult vote t eff then 1 else 0] []
      := by
      refine uniformWord_of (List.cons_ne_nil _ _) (fun _ => rfl) ?_
      change execXvote m vote dst p s = _
      rw [execXvote, withCur_next hg, List.append_nil, List.append_nil]
      rfl
    cases vote with
    | all => simpa only [voteResult, beq_iff_eq] using hword
    | any => simpa only [voteResult, bne_iff_ne, ne_eq, ite_not] using hword
    | uni => simpa only [voteResult, Bool.or_eq_true, beq_iff_eq] using hword

end Machine

namespace Machine

open Safety

/-! ## Scans over a list of lanes (R133) -/

theorem scanStep_eq (v : Fenv) (op : XOp) (ty : Ty) (x y : Nat) : scanStep v op ty x y = scanOne v op ty x y := by
  cases op <;> simp only [scanStep, scanOne, wr_eq_stored, rd_eq_typed] <;> rfl

theorem wr_tyMax (ty : Ty) : wr ty false (tyMax ty.signed (tyW ty)) =
    if ty.signed then 2 ^ (tyW ty - 1) - 1 else 2 ^ tyW ty - 1 := by
  cases ty <;> rfl

theorem wr_tyMin (ty : Ty) : wr ty false (tyMin ty.signed (tyW ty)) = if ty.signed then 2 ^ (tyW ty - 1) else 0 := by
  cases ty <;> rfl

/-- The identity of a scan over no lanes. -/
theorem scanIdentity_eq (v : Fenv) (op : XOp) (ty : Ty) : scanIdentity op ty = scanOver v op ty [] := by
  cases op with
  | min => exact if_congr Iff.rfl rfl (wr_tyMax ty)
  | max => exact if_congr Iff.rfl rfl (wr_tyMin ty)
  | add | or | xor | and => rfl

section
variable (v : Fenv) (op : XOp) (ty : Ty) (x : Nat → Nat)

/-- What lane l of a scan of the values x over some lanes gets. -/
def scanEntry (lanes : List Nat) (l : Nat) : ScanLane :=
  let below := (lanes.filter fun j => decide (j < l)).map x
  ⟨l, scanOver v op ty below, scanOver v op ty (below ++ [x l]),
    if below = [] then 0 else (scanOne v op ty (scanOver v op ty below) (x l)).2⟩

theorem scanOver_append {xs : List Nat} (h : xs ≠ []) (y : Nat) :
    scanOver v op ty (xs ++ [y]) = (scanOne v op ty (scanOver v op ty xs) y).1 := by
  obtain ⟨z, zs, rfl⟩ := List.exists_cons_of_ne_nil h
  simp only [List.cons_append, scanOver, List.foldl_append, List.foldl_cons, List.foldl_nil]

/-- Of lanes in ascending order those before a lane are the lower ones. -/
theorem filter_lt_of_pairwise {pre suf : List Nat} {l : Nat} (h : (pre ++ l :: suf).Pairwise (· < ·)) :
    (pre ++ l :: suf).filter (fun j => decide (j < l)) = pre := by
  obtain ⟨-, hsuf, hcross⟩ := List.pairwise_append.1 h
  rw [List.filter_append, List.filter_eq_self.2 fun j hj => by simpa using hcross j hj l (List.mem_cons_self ..),
    List.filter_eq_nil_iff.2, List.append_nil]
  intro j hj
  rcases List.mem_cons.1 hj with rfl | hj
  · simp
  · simpa using Nat.le_of_lt (List.rel_of_pairwise_cons hsuf hj)

theorem scanFrom_eq {pre suf : List Nat} (hpre : pre ≠ []) (h : (pre ++ suf).Pairwise (· < ·)) :
    scanFrom v op ty (scanOver v op ty (pre.map x)) (suf.map fun l => (l, x l)) =
      suf.map (scanEntry v op ty x (pre ++ suf)) := by
  induction suf generalizing pre with
  | nil => rfl
  | cons l suf ih =>
    have hne : pre.map x ≠ [] := by simpa using hpre
    have happ : pre ++ l :: suf = (pre ++ [l]) ++ suf := by simp
    rw [List.map_cons, scanFrom, List.map_cons]
    refine congrArg₂ List.cons ?_ ?_
    · simp only [scanEntry, filter_lt_of_pairwise h, if_neg hne, scanOver_append v op ty hne, scanStep_eq]
    · rw [scanStep_eq, ← scanOver_append v op ty hne]
      have hstep := ih (pre := pre ++ [l]) (by simp) (happ ▸ h)
      rw [List.map_append] at hstep
      rw [happ]
      exact hstep

/-- A scan gives each lane its entry. -/
theorem scan_eq {lanes : List Nat} (h : lanes.Pairwise (· < ·)) :
    scan v op ty (lanes.map fun l => (l, x l)) = lanes.map (scanEntry v op ty x lanes) := by
  cases lanes with
  | nil => rfl
  | cons l suf =>
    rw [List.map_cons, scan, List.map_cons]
    refine congrArg₂ List.cons ?_ (scanFrom_eq v op ty x (pre := [l]) (List.cons_ne_nil _ _) h)
    have hf := filter_lt_of_pairwise (pre := []) h
    simp only [List.nil_append] at hf
    simp only [scanEntry, hf, List.map_nil, scanIdentity_eq v]
    rfl

theorem scanAt_scan {lanes : List Nat} (h : lanes.Pairwise (· < ·)) (l : Nat) :
    scanAt (scan v op ty (lanes.map fun l => (l, x l))) l =
      if l ∈ lanes then scanEntry v op ty x lanes l else ⟨l, 0, 0, 0⟩ := by
  have hfind : lanes.find? (fun j => j == l) = if l ∈ lanes then some l else none := by
    split
    · next hl =>
      obtain ⟨j, hj⟩ := Option.isSome_iff_exists.1 (List.find?_isSome (p := fun j => j == l).2 ⟨l, hl,
          beq_self_eq_true l⟩)
      have hjl : (j == l) = true := List.find?_some (p := fun j => j == l) hj
      rw [hj, beq_iff_eq.1 hjl]
    · next hl =>
      refine List.find?_eq_none.2 fun j hj hb => hl ?_
      rwa [← beq_iff_eq.1 hb]
  rw [scanAt, scan_eq v op ty x h, List.find?_map]
  have hc : ((fun e : ScanLane => e.lane == l) ∘ scanEntry v op ty x lanes) = fun j => j == l := rfl
  rw [hc, hfind]
  split <;> rfl

end

theorem lanesOf_pairwise (m : Mask) : (lanesOf m).Pairwise (· < ·) := List.pairwise_lt_range.filter _


/-! ## XPREFIX and XREDUCE (R133) -/

section
variable (s : State) (g : Group) (m : Mods) (ty : Ty) (rm : Rm) (op : XOp) (a : BitVec 8)

/-- The entry of an effective lane in a word's scan. -/
def wordEntry (l : Nat) : ScanLane :=
  scanEntry (fenv g.lmode rm) op ty (fun l => vVal s s.cur g ty a l) (lanesOf (effMask s.picks g m)) l

theorem laneScan_eq : laneScan s s.cur g m ty rm op a =
    (lanesOf (effMask s.picks g m)).map (wordEntry s g m ty rm op a) :=
  scan_eq _ op ty _ (lanesOf_pairwise _)

theorem scanAt_laneScan (l : Nat) : scanAt (laneScan s s.cur g m ty rm op a) l =
    if (effMask s.picks g m).getLsbD l then wordEntry s g m ty rm op a l else ⟨l, 0, 0, 0⟩ := by
  refine (scanAt_scan _ op ty _ (lanesOf_pairwise _) l).trans ?_
  simp only [mem_lanesOf]
  rfl

/-- What a reduction gives is the last lane's value. -/
theorem laneScan_last : (((laneScan s s.cur g m ty rm op a).getLast?).map (·.after)).getD (scanIdentity op ty) =
    scanOver (fenv g.lmode rm) op ty ((lanesOf (effMask s.picks g m)).map fun l => vVal s s.cur g ty a l) := by
  rw [laneScan_eq]
  rcases List.eq_nil_or_concat (lanesOf (effMask s.picks g m)) with h | ⟨pre, l, h⟩
  · rw [h]
    exact scanIdentity_eq _ op ty
  · have hf := filter_lt_of_pairwise (suf := []) (l := l) (by
      have hp := lanesOf_pairwise (effMask s.picks g m)
      rw [h, List.concat_eq_append] at hp
      exact hp)
    have he : (wordEntry s g m ty rm op a l).after = scanOver (fenv g.lmode rm) op ty
        ((pre ++ [l]).map fun l => vVal s s.cur g ty a l) := by
      simp only [wordEntry, scanEntry, h, List.concat_eq_append, hf, List.map_append, List.map_cons, List.map_nil]
    rw [h, List.concat_eq_append, List.map_append, List.map_cons, List.map_nil, List.getLast?_concat]
    exact he

/-- An integer step raises no flag. -/
theorem scanOne_int {ty : Ty} (h : ty ≠ .f32) (v : Fenv) (op : XOp) (x y : Nat) : (scanOne v op ty x y).2 = 0 := by
  cases op <;> simp only [scanOne, if_neg h]

end

theorem foldl_or_zero {f : Nat → BitVec 6} (ls : List Nat) (h : ∀ l ∈ ls, f l = 0) : ls.foldl (fun r l => r ||| f l) 0 = 0 := by
  refine BitVec.eq_of_getLsbD_eq fun k _ => (Bool.eq_false_iff.2 fun hk => ?_).trans BitVec.getLsbD_zero.symm
  rcases (getLsbD_foldl_or f ls 0 k).1 hk with hz | ⟨l, hl, hb⟩
  · simp at hz
  · simp [h l hl] at hb

/-- The same flags from every lane of a mask that has one. -/
theorem foldl_or_const {eff : Mask} {l : Nat} (hl : eff.getLsbD l = true) (c en : BitVec 6) :
    ((lanesOf eff).map fun l => (l, c)).foldl (fun f r => f ||| (r.2 &&& en)) 0 = c &&& en := by
  refine BitVec.eq_of_getLsbD_eq fun k _ => Bool.eq_iff_iff.2 ?_
  rw [getLsbD_foldl_or fun r : Nat × BitVec 6 => r.2 &&& en]
  constructor
  · rintro (hz | ⟨r, hr, hk⟩)
    · simp at hz
    · obtain ⟨j, -, rfl⟩ := List.mem_map.1 hr
      exact hk
  · exact fun hk => .inr ⟨(l, c), List.mem_map.2 ⟨l, mem_lanesOf.2 hl, rfl⟩, hk⟩

/-- The FX write of flags that every effective lane raises alike. -/
theorem fxWrite_const (s : State) (g : Group) (m : Mods) (c : BitVec 6) :
    fxWrite m.nf (laneFlags g (effMask s.picks g m) fun _ => c) =
      if m.nf = true ∨ effMask s.picks g m = 0 ∨ c = 0 ∨ g.width = 0 then []
      else [.fxOr ((List.range g.width).map fun l => if (effMask s.picks g m).getLsbD l then c else 0) false] := by
  have hlanes : effMask s.picks g m ≠ 0 → ∃ l, (effMask s.picks g m).getLsbD l = true := fun h =>
    Classical.byContradiction fun hn => h (BitVec.eq_of_getLsbD_eq fun l _ => by
      simpa using fun hl => hn ⟨l, hl⟩)
  rw [fxWrite_eq]
  refine if_congr (or_congr_right ?_) rfl rfl
  simp only [laneFlags, List.forall_mem_map, List.mem_range]
  constructor
  · intro h
    by_cases heff : effMask s.picks g m = 0
    · exact .inl heff
    · obtain ⟨l, hl⟩ := hlanes heff
      exact .inr (.inl (by simpa [hl] using h l (lt_width_of_effMask hl)))
  · rintro (h | h | h) l hlt
    · simp [h]
    · simp [h]
    · exact absurd hlt (by omega)

theorem laneScans : Claims.LaneScans := by
  intro s g m ty rm op excl d a dst hg _ hw v eff en x lanes below flagsAt all r ws i scanned f32 sw
  have hprefix : exec (.xprefix m ty rm op excl d a) s = .next (inQuota s s.cur g (vRegs ty d ++ vRegs ty a)
      (Machine.scanned s s.cur g m ty eff (fun l => (scanAt (laneScan s s.cur g m ty rm op a) l).flags)
        (if eff == 0 then [] else wV g ty d eff .top fun l =>
          if excl then (scanAt (laneScan s s.cur g m ty rm op a) l).before
          else (scanAt (laneScan s s.cur g m ty rm op a) l).after))) := by
    change execXprefix m ty rm op excl d a s = _
    rw [execXprefix, withCur_next hg]
  have hval : (fun l => if excl then (scanAt (laneScan s s.cur g m ty rm op a) l).before
      else (scanAt (laneScan s s.cur g m ty rm op a) l).after) = fun l => if eff.getLsbD l then scanned l else 0 := by
    funext l
    rw [scanAt_laneScan]
    by_cases hl : eff.getLsbD l = true
    · rw [if_pos hl, if_pos hl]
      rfl
    · rw [if_neg hl, if_neg hl]
      exact ite_self _
  have hflags : (fun l => (scanAt (laneScan s s.cur g m ty rm op a) l).flags) =
      fun l => if eff.getLsbD l then flagsAt l else 0 := by
    funext l
    rw [scanAt_laneScan]
    split <;> rfl
  have hreduce : exec i s = .next (inQuota s s.cur g (dRegs ty dst ++ vRegs ty a)
      (Machine.scanned s s.cur g m ty eff (fun _ => all) (uniWrites g dst eff ws))) := by
    have hfold : (laneScan s s.cur g m ty rm op a).foldl (fun f e => f ||| e.flags) 0 = all := by
      rw [laneScan_eq, List.foldl_map]
      rfl
    change execXreduce m ty rm op dst a s = _
    rw [execXreduce, withCur_next hg]
    dsimp only
    rw [laneScan_last, hfold]
    rfl
  have hregs : dRegs ty dst = dstRegs ws.length dst := by
    cases dst with
    | s n => rfl
    | v n => by_cases h : ty.is64 = true <;> simp [dRegs, dstRegs, ws, vRegs, runRegs, tabulate, h, List.range_succ]
  have hzero : ty ≠ .f32 → all = 0 := fun h => by
    have hl : ∀ l, flagsAt l = 0 := fun l => by
      simp only [flagsAt, scanOne_int h, ite_self]
    exact foldl_or_zero lanes fun l _ => hl l
  refine ⟨fun hf => ?_, fun hf => ?_, fun hclear => ?_, fun hnf hen hq l hl64 hl hlow => ?_⟩
  · intro _
    refine flagIssue_of (laneWrites_ne_nil _ _ _ _ _ _) (hprefix.trans ?_)
    rw [Machine.scanned, if_pos (of_decide_eq_true hf), hflags, hval, wV_eq_laneWrites]
    simp only [apply_ite Prod.fst, apply_ite Prod.snd]
    rfl
  · refine laneWord_of (hprefix.trans ?_) fun l => rfl
    rw [Machine.scanned, if_neg (of_decide_eq_false hf), hval]
    rfl
  · refine uniformWord_of (by unfold ws; split <;> exact List.cons_ne_nil _ _) (fun heff => if_pos (.inr (.inl heff))) ?_
    rw [hreduce, hregs]
    refine congrArg (fun t => Host.Outcome.next (inQuota s s.cur g (dstRegs ws.length dst ++ vRegs ty a) t)) ?_
    by_cases hf : ty = .f32
    · have hf32 : f32 = true := decide_eq_true hf
      have hquiet : m.nf = true ∨ ∀ l, eff.getLsbD l = true → all &&& trapEnables g.lmode = 0 := by
        rcases hclear with h | h | h
        · exact .inl h
        · exact .inr fun l hl => absurd hl (by simp [h])
        · exact .inr fun _ _ => h
      rw [Machine.scanned, if_pos hf, flagged_issues hquiet, fxWrite_const]
      simp only [sw, hf32, Bool.true_and]
      rfl
    · have h0 := hzero hf
      have hsw : sw = m.sw := by simp [sw, f32, hf]
      rw [Machine.scanned, if_neg hf, if_pos (.inr (.inr (.inl h0))), List.append_nil, hsw]
  · have hf : ty = .f32 := Decidable.byContradiction fun h => hen ((congrArg (· &&& en) (hzero h)).trans
      BitVec.zero_and)
    rw [hreduce, inQuota_within hq, Machine.scanned, if_pos hf]
    refine congrArg Host.Outcome.next ((flagged_traps hnf hl hen fun j hj hjm => ?_).trans ?_)
    · rw [hlow j hj] at hjm
      exact absurd hjm Bool.false_ne_true
    · rw [foldl_or_const hl]
      rfl

/-- Settles O49: shuffles and votes, scans and reductions. -/
theorem laneExchange : Obligations.LaneExchange := ⟨laneShufflesAndVotes, laneScans⟩

end Machine

end Sys2Proof
end

section
/-!
PROOFS. ResultWords: what a word with an outstanding result changes when it issues (R33, R34).
-/
namespace Sys2Proof

namespace Machine

open Safety

/-! ## What a word with a result leaves as it is (R33, R34) -/

/-- Where t is not a trap taken or pending, only the issuing group's streams and the counter of ids have moved. -/
def Keeps (s : State) (g : Group) (t : State) : Prop :=
  ∀ h, t.grp s.cur = some h → h.trap = none → h.saved = g.saved → OnlyGroup s t ∧ SameRegisters g h

/-- What a stop of the debugger's, or its end, makes of a group (R324). -/
def stoppedWith (gid : Nat) (g : Group) (on : Bool) (k : Nat) (h : Group) : Group :=
  if k != gid && h.lid == g.lid && h.tid == g.tid && g.tid.isSome then
    if on then { h with tstop := true, sc := h.sc.unwait, ln := h.ln.unwait } else { h with tstop := false }
  else h

theorem teamStop_grp (s : State) (gid : Nat) (g : Group) (on : Bool) : (teamStop s gid g on).grp gid = s.grp gid := by
  have hmap : teamStop s gid g on = { s with groups := s.groups.map fun e => (e.1, stoppedWith gid g on e.1 e.2) } := by
    unfold teamStop stoppedWith
    refine congrArg (fun gs => { s with groups := gs }) (List.map_congr_left fun e _ => ?_)
    split <;> rfl
  have hself : stoppedWith gid g on gid = id := funext fun h => if_neg (by simp)
  rw [hmap]
  refine (Store.find_map s.groups (stoppedWith gid g on) gid).trans ?_
  rw [hself, Option.map_id]
  rfl

/-- A pending trap is still pending, or has been taken. -/
theorem enterTrap_pending {s : State} {gid : Nat} {g : Group} {t : TrapRec} (hg : s.grp gid = some g)
    (ht : g.trap = some t) {h : Group} (hh : (enterTrap s gid).grp gid = some h) : h.trap ≠ none ∨ h.saved ≠ none := by
  unfold enterTrap at hh
  simp only [hg, ht] at hh
  split at hh
  · obtain rfl : g = h := Option.some.inj (hg.symm.trans hh)
    exact .inl (by simp [ht])
  · refine .inr ?_
    split at hh
    · rw [teamStop_grp, State.grp_setGrp] at hh
      obtain rfl := Option.some.inj hh
      exact Option.some_ne_none _
    · rw [State.grp_setGrp] at hh
      obtain rfl := Option.some.inj hh
      exact Option.some_ne_none _

/-- A trap that is raised is taken or pending, or has ended the group. -/
theorem keeps_raise {s : State} {g : Group} (hs : Store.sorted s.groups = true) (hg : Issues s g) (lane : Bool) (pc : Va)
    (c : Cause) (info : W32) (xlde : Bool) : Keeps s g (raiseAt s s.cur g lane pc c info xlde) := by
  intro h hh htrap hsaved
  exfalso
  unfold raiseAt at hh
  dsimp only at hh
  split at hh
  · unfold doubleTrap at hh
    have hend : ∀ f, (endTeamOf (postFault s f) s.cur g).grp s.cur = none := fun f => by
      have := grp_endTeamOf (s := postFault s f) hs (gid := s.cur) (g := g) hg hg
      rwa [if_pos (.inr rfl)] at this
    exact absurd ((hend _).symm.trans hh) (by simp)
  · next hnot =>
    have hsave : g.saved = none := by
      simp only [Bool.or_eq_true, not_or, Group.handler] at hnot
      simpa using hnot.1
    rcases enterTrap_pending (State.grp_setGrp ..) rfl hh with h1 | h1
    · exact h1 htrap
    · exact h1 (hsaved.trans hsave)

theorem keeps_self (s : State) {g : Group} (hg : Issues s g) : Keeps s g s := by
  intro h hh _ _
  obtain rfl : g = h := Option.some.inj (hg.symm.trans hh)
  exact ⟨⟨rfl, fun _ _ => rfl⟩, rfl⟩

theorem keeps_issueS (s : State) (g : Group) (ws : List (Nat × W32 × Shadow)) (pc : Va) (sw : Bool) (hg : Issues s g) :
    Keeps s g (issueS s s.cur g ws pc sw) := by
  unfold issueS issueSK
  split
  · exact keeps_self s hg
  · intro h hh _ _
    rw [State.grp_setGrp] at hh
    obtain rfl := Option.some.inj hh
    exact ⟨⟨rfl, fun k hk => State.grp_setGrp_ne _ _ _ hk⟩, rfl⟩

theorem keeps_issueL (s : State) (g : Group) (ws : List PWrite) (sw : Bool) (hg : Issues s g) :
    Keeps s g (issueL s s.cur g ws sw) := by
  unfold issueL issueP
  split
  · intro h hh _ _
    rw [State.grp_setGrp] at hh
    obtain rfl := Option.some.inj hh
    exact ⟨⟨rfl, fun k hk => State.grp_setGrp_ne _ _ _ hk⟩, rfl⟩
  · split
    · exact keeps_self s hg
    · intro h hh _ _
      rw [State.grp_setGrp] at hh
      obtain rfl := Option.some.inj hh
      exact ⟨⟨rfl, fun k hk => State.grp_setGrp_ne _ _ _ hk⟩, rfl⟩

section
variable {s : State} {g : Group} (hs : Store.sorted s.groups = true) (hg : Issues s g)
include hs hg

theorem keeps_inQuota {regs : List Nat} {t : State} (h : Keeps s g t) : Keeps s g (inQuota s s.cur g regs t) := by
  unfold inQuota
  split
  · exact keeps_raise hs hg _ _ _ _ _
  · exact h

theorem keeps_laneV (m : Mods) (regs : List Nat) (ty : Ty) (d : BitVec 8) (sh : Shadow) (f : Nat → Nat) :
    Keeps s g (laneV s s.cur g m regs ty d sh f) := keeps_inQuota hs hg (keeps_issueL _ _ _ _ hg)

theorem keeps_laneP (m : Mods) (regs : List Nat) (d : BitVec 3) (f : Nat → Bool) :
    Keeps s g (laneP s s.cur g m regs d f) := keeps_inQuota hs hg (keeps_issueL _ _ _ _ hg)

theorem keeps_flagged (m : Mods) (eff : Mask) (fl : Nat → BitVec 6) (ws : List PWrite) :
    Keeps s g (flagged s s.cur g m eff fl ws) := by
  unfold flagged
  dsimp only
  split
  · exact keeps_raise hs hg _ _ _ _ _
  · exact keeps_issueL _ _ _ _ hg

theorem keeps_laneF (m : Mods) (regs : List Nat) (ty : Ty) (d : BitVec 8) (f : Nat → Fres) :
    Keeps s g (laneF s s.cur g m regs ty d f) := keeps_inQuota hs hg (keeps_flagged hs hg _ _ _ _)

theorem keeps_withL6 {regs : List Nat} {t : State} (h : Keeps s g t) : Keeps s g (withL6 s s.cur g regs t) := by
  refine keeps_inQuota hs hg ?_
  split
  · exact h
  · exact keeps_raise hs hg _ _ _ _ _

theorem keeps_scanned (m : Mods) (ty : Ty) (eff : Mask) (fl : Nat → BitVec 6) (ws : List PWrite) :
    Keeps s g (scanned s s.cur g m ty eff fl ws) := by
  unfold scanned
  split
  · exact keeps_flagged hs hg _ _ _ _
  · exact keeps_issueL _ _ _ _ hg

omit hs in
theorem keeps_cur {e : Host.Outcome State Fault Refusal} {k : Nat → Group → State} {t : State} (h : e = .next t)
    (he : e = withCur s k) (hk : Keeps s g (k s.cur g)) : Keeps s g t := by
  rw [he, withCur_next hg] at h
  exact Host.Outcome.next.inj h ▸ hk
end

/-- Each of the words issues its result, or stalls, or raises a trap. -/
theorem resultWord_keeps {i : Instr} {s t : State} {g : Group} (hi : Claims.resultWord i = true) (hg : Issues s g)
    (hs : Store.sorted s.groups = true) (h : exec i s = .next t) : Keeps s g t := by
  cases i with
  | sadd d a b sw => exact keeps_cur hg (e := execSadd d a b sw s) h rfl (keeps_issueS _ _ _ _ _ hg)
  | ssub d a b sw => exact keeps_cur hg (e := execSsub d a b sw s) h rfl (keeps_issueS _ _ _ _ _ hg)
  | smul d a b sw => exact keeps_cur hg (e := execSmul d a b sw s) h rfl (keeps_issueS _ _ _ _ _ hg)
  | smulh d a b sw => exact keeps_cur hg (e := execSmulh d a b sw s) h rfl (keeps_issueS _ _ _ _ _ hg)
  | sand d a b sw => exact keeps_cur hg (e := execSand d a b sw s) h rfl (keeps_issueS _ _ _ _ _ hg)
  | sor d a b sw => exact keeps_cur hg (e := execSor d a b sw s) h rfl (keeps_issueS _ _ _ _ _ hg)
  | sxor d a b sw => exact keeps_cur hg (e := execSxor d a b sw s) h rfl (keeps_issueS _ _ _ _ _ hg)
  | sshl d a b sw => exact keeps_cur hg (e := execSshl d a b sw s) h rfl (keeps_issueS _ _ _ _ _ hg)
  | sshr d a b sw => exact keeps_cur hg (e := execSshr d a b sw s) h rfl (keeps_issueS _ _ _ _ _ hg)
  | ssra d a b sw => exact keeps_cur hg (e := execSsra d a b sw s) h rfl (keeps_issueS _ _ _ _ _ hg)
  | smin d a b sw => exact keeps_cur hg (e := execSmin d a b sw s) h rfl (keeps_issueS _ _ _ _ _ hg)
  | smax d a b sw => exact keeps_cur hg (e := execSmax d a b sw s) h rfl (keeps_issueS _ _ _ _ _ hg)
  | smov d a sw => exact keeps_cur hg (e := execSmov d a sw s) h rfl (keeps_issueS _ _ _ _ _ hg)
  | saddi d a imm sw => exact keeps_cur hg (e := execSaddi d a imm sw s) h rfl (keeps_issueS _ _ _ _ _ hg)
  | smuli d a imm sw => exact keeps_cur hg (e := execSmuli d a imm sw s) h rfl (keeps_issueS _ _ _ _ _ hg)
  | sandi d a imm sw => exact keeps_cur hg (e := execSandi d a imm sw s) h rfl (keeps_issueS _ _ _ _ _ hg)
  | sori d a imm sw => exact keeps_cur hg (e := execSori d a imm sw s) h rfl (keeps_issueS _ _ _ _ _ hg)
  | sxori d a imm sw => exact keeps_cur hg (e := execSxori d a imm sw s) h rfl (keeps_issueS _ _ _ _ _ hg)
  | smini d a imm sw => exact keeps_cur hg (e := execSmini d a imm sw s) h rfl (keeps_issueS _ _ _ _ _ hg)
  | smaxi d a imm sw => exact keeps_cur hg (e := execSmaxi d a imm sw s) h rfl (keeps_issueS _ _ _ _ _ hg)
  | sshli d a amt sw => exact keeps_cur hg (e := execSshli d a amt sw s) h rfl (keeps_issueS _ _ _ _ _ hg)
  | sshri d a amt sw => exact keeps_cur hg (e := execSshri d a amt sw s) h rfl (keeps_issueS _ _ _ _ _ hg)
  | ssrai d a amt sw => exact keeps_cur hg (e := execSsrai d a amt sw s) h rfl (keeps_issueS _ _ _ _ _ hg)
  | slui d imm sw => exact keeps_cur hg (e := execSlui d imm sw s) h rfl (keeps_issueS _ _ _ _ _ hg)
  | smovi d imm sw => exact keeps_cur hg (e := execSmovi d imm sw s) h rfl (keeps_issueS _ _ _ _ _ hg)
  | skmov d k sw => exact keeps_cur hg (e := execSkmov d k sw s) h rfl (keeps_issueS _ _ _ _ _ hg)
  | aget d n w sw => exact keeps_cur hg (e := execAget d n w sw s) h rfl (keeps_issueS _ _ _ _ _ hg)
  | srnggetLo d a sw => exact keeps_cur hg (e := execSrnggetLo d a sw s) h rfl (keeps_issueS _ _ _ _ _ hg)
  | srnggetHi d a sw => exact keeps_cur hg (e := execSrnggetHi d a sw s) h rfl (keeps_issueS _ _ _ _ _ hg)
  | srnggetTop d a sw => exact keeps_cur hg (e := execSrnggetTop d a sw s) h rfl (keeps_issueS _ _ _ _ _ hg)
  | iadd m ty sat d a b => exact keeps_cur hg (e := execIadd m ty sat d a b s) h rfl (keeps_laneV hs hg _ _ _ _ _ _)
  | isub m ty sat d a b => exact keeps_cur hg (e := execIsub m ty sat d a b s) h rfl (keeps_laneV hs hg _ _ _ _ _ _)
  | imul m ty sat d a b => exact keeps_cur hg (e := execImul m ty sat d a b s) h rfl (keeps_laneV hs hg _ _ _ _ _ _)
  | imulh m ty d a b => exact keeps_cur hg (e := execImulh m ty d a b s) h rfl (keeps_laneV hs hg _ _ _ _ _ _)
  | imad m ty sat d a b c => exact keeps_cur hg (e := execImad m ty sat d a b c s) h rfl (keeps_laneV hs hg _ _ _ _ _ _)
  | iclamp m ty d a b c => exact keeps_cur hg (e := execIclamp m ty d a b c s) h rfl (keeps_laneV hs hg _ _ _ _ _ _)
  | imin m ty d a b => exact keeps_cur hg (e := execImin m ty d a b s) h rfl (keeps_laneV hs hg _ _ _ _ _ _)
  | imax m ty d a b => exact keeps_cur hg (e := execImax m ty d a b s) h rfl (keeps_laneV hs hg _ _ _ _ _ _)
  | iabs m ty sat d a => exact keeps_cur hg (e := execIabs m ty sat d a s) h rfl (keeps_laneV hs hg _ _ _ _ _ _)
  | ineg m ty sat d a => exact keeps_cur hg (e := execIneg m ty sat d a s) h rfl (keeps_laneV hs hg _ _ _ _ _ _)
  | iand m ty d a b => exact keeps_cur hg (e := execIand m ty d a b s) h rfl (keeps_laneV hs hg _ _ _ _ _ _)
  | ior m ty d a b => exact keeps_cur hg (e := execIor m ty d a b s) h rfl (keeps_laneV hs hg _ _ _ _ _ _)
  | ixor m ty d a b => exact keeps_cur hg (e := execIxor m ty d a b s) h rfl (keeps_laneV hs hg _ _ _ _ _ _)
  | inot m ty d a => exact keeps_cur hg (e := execInot m ty d a s) h rfl (keeps_laneV hs hg _ _ _ _ _ _)
  | ishl m ty d a b => exact keeps_cur hg (e := execIshl m ty d a b s) h rfl (keeps_laneV hs hg _ _ _ _ _ _)
  | ishr m ty d a b => exact keeps_cur hg (e := execIshr m ty d a b s) h rfl (keeps_laneV hs hg _ _ _ _ _ _)
  | isra m ty d a b => exact keeps_cur hg (e := execIsra m ty d a b s) h rfl (keeps_laneV hs hg _ _ _ _ _ _)
  | ibfx m ty d a pos len => exact keeps_cur hg (e := execIbfx m ty d a pos len s) h rfl (keeps_laneV hs hg _ _ _ _ _ _)
  | ibfi m ty d a b pos len => exact keeps_cur hg (e := execIbfi m ty d a b pos len s) h rfl (keeps_laneV hs hg _ _ _
      _ _ _)
  | iclz m ty d a => exact keeps_cur hg (e := execIclz m ty d a s) h rfl (keeps_laneV hs hg _ _ _ _ _ _)
  | ipopc m ty d a => exact keeps_cur hg (e := execIpopc m ty d a s) h rfl (keeps_laneV hs hg _ _ _ _ _ _)
  | ibrev m ty d a => exact keeps_cur hg (e := execIbrev m ty d a s) h rfl (keeps_laneV hs hg _ _ _ _ _ _)
  | icmp m ty cond d a b => exact keeps_cur hg (e := execIcmp m ty cond d a b s) h rfl (keeps_laneP hs hg _ _ _ _)
  | isel m ty d a b c => exact keeps_cur hg (e := execIsel m ty d a b c s) h rfl (keeps_laneV hs hg _ _ _ _ _ _)
  | imov m ty d a => exact keeps_cur hg (e := execImov m ty d a s) h rfl (keeps_laneV hs hg _ _ _ _ _ _)
  | imovi m ty d imm => exact keeps_cur hg (e := execImovi m ty d imm s) h rfl (keeps_laneV hs hg _ _ _ _ _ _)
  | icvt m ty src rm sat d a => exact keeps_cur hg (e := execIcvt m ty src rm sat d a s) h rfl (keeps_laneV hs hg _ _
      _ _ _ _)
  | fadd m ty rm d a b => exact keeps_cur hg (e := execFadd m ty rm d a b s) h rfl (keeps_laneF hs hg _ _ _ _ _)
  | fsub m ty rm d a b => exact keeps_cur hg (e := execFsub m ty rm d a b s) h rfl (keeps_laneF hs hg _ _ _ _ _)
  | fmul m ty rm d a b => exact keeps_cur hg (e := execFmul m ty rm d a b s) h rfl (keeps_laneF hs hg _ _ _ _ _)
  | ffma m ty rm d a b c => exact keeps_cur hg (e := execFfma m ty rm d a b c s) h rfl (keeps_laneF hs hg _ _ _ _ _)
  | fmin m ty d a b => exact keeps_cur hg (e := execFmin m ty d a b s) h rfl (keeps_laneF hs hg _ _ _ _ _)
  | fmax m ty d a b => exact keeps_cur hg (e := execFmax m ty d a b s) h rfl (keeps_laneF hs hg _ _ _ _ _)
  | fcmp m ty cond d a b => exact keeps_cur hg (e := execFcmp m ty cond d a b s) h rfl (keeps_inQuota hs hg
      (keeps_flagged hs hg _ _ _ _))
  | frcp m ty rm d a => exact keeps_cur hg (e := execFrcp m ty rm d a s) h rfl (keeps_laneF hs hg _ _ _ _ _)
  | frsq m ty rm d a => exact keeps_cur hg (e := execFrsq m ty rm d a s) h rfl (keeps_laneF hs hg _ _ _ _ _)
  | fsqrt m ty rm d a => exact keeps_cur hg (e := execFsqrt m ty rm d a s) h rfl (keeps_laneF hs hg _ _ _ _ _)
  | fexp2 m ty rm d a => exact keeps_cur hg (e := execFexp2 m ty rm d a s) h rfl (keeps_laneF hs hg _ _ _ _ _)
  | flog2 m ty rm d a => exact keeps_cur hg (e := execFlog2 m ty rm d a s) h rfl (keeps_laneF hs hg _ _ _ _ _)
  | fdiv m ty rm d a b => exact keeps_cur hg (e := execFdiv m ty rm d a b s) h rfl (keeps_laneF hs hg _ _ _ _ _)
  | frnd m ty rm d a => exact keeps_cur hg (e := execFrnd m ty rm d a s) h rfl (keeps_laneF hs hg _ _ _ _ _)
  | fcvt m ty src rm sat d a => exact keeps_cur hg (e := execFcvt m ty src rm sat d a s) h rfl (keeps_laneF hs hg _ _
      _ _ _)
  | fclass m ty d a => exact keeps_cur hg (e := execFclass m ty d a s) h rfl (keeps_laneV hs hg _ _ _ _ _ _)
  | lmul m sat d a b => exact keeps_cur hg (e := execLmul m sat d a b s) h rfl (keeps_withL6 hs hg (keeps_laneF hs hg
      _ _ _ _ _))
  | lcvt m ty src rm sat d a => exact keeps_cur hg (e := execLcvt m ty src rm sat d a s) h rfl (keeps_withL6 hs hg
      (keeps_laneF hs hg _ _ _ _ _))
  | pand m d a b => exact keeps_cur hg (e := execPand m d a b s) h rfl (keeps_laneP hs hg _ _ _ _)
  | por m d a b => exact keeps_cur hg (e := execPor m d a b s) h rfl (keeps_laneP hs hg _ _ _ _)
  | pxor m d a b => exact keeps_cur hg (e := execPxor m d a b s) h rfl (keeps_laneP hs hg _ _ _ _)
  | pnot m d a => exact keeps_cur hg (e := execPnot m d a s) h rfl (keeps_laneP hs hg _ _ _ _)
  | pmov m d a => exact keeps_cur hg (e := execPmov m d a s) h rfl (keeps_laneP hs hg _ _ _ _)
  | exmget m d => exact keeps_cur hg (e := execExmget m d s) h rfl (keeps_laneP hs hg _ _ _ _)
  | fxget m d => exact keeps_cur hg (e := execFxget m d s) h rfl (keeps_laneV hs hg _ _ _ _ _ _)
  | xshfl m ty mode d a b => exact keeps_cur hg (e := execXshfl m ty mode d a b s) h rfl (keeps_laneV hs hg _ _ _ _ _ _)
  | xbcast m ty d a b => exact keeps_cur hg (e := execXbcast m ty d a b s) h rfl (keeps_laneV hs hg _ _ _ _ _ _)
  | xballot m d a => exact keeps_cur hg (e := execXballot m d a s) h rfl (keeps_inQuota hs hg (keeps_issueL _ _ _ _ hg))
  | xvote m mode d a => exact keeps_cur hg (e := execXvote m mode d a s) h rfl (keeps_inQuota hs hg (keeps_issueL _ _
      _ _ hg))
  | xprefix m ty rm op excl d a => exact keeps_cur hg (e := execXprefix m ty rm op excl d a s) h rfl (keeps_inQuota hs
      hg (keeps_scanned hs hg _ _ _ _ _))
  | xreduce m ty rm op d a => exact keeps_cur hg (e := execXreduce m ty rm op d a s) h rfl (keeps_inQuota hs hg
      (keeps_scanned hs hg _ _ _ _ _))
  | _ => exact absurd hi Bool.false_ne_true

/-- Settles O30: what each word keeps, where no trap is raised. -/
theorem resultWordsChangeNothingElse : Obligations.ResultWordsChangeNothingElse :=
  fun _ _ _ _ h hi hg hs he hh htrap hsaved => resultWord_keeps hi hg hs he h hh htrap hsaved

end Machine

end Sys2Proof
end

section
/-!
PROOFS. LaneControl: branches, jumps, calls, joins, the spill area and the ends of lanes and blocks (R38 to R40, R134 to R139).
-/
namespace Sys2Proof

namespace Machine

open Safety

/-! ## The divergence stack with room (R38, R134 to R137) -/

theorem sameJoin_iff (g : Group) (rpc : Va) : sameJoin g rpc = true ↔
    g.ctx.held.head? = some ⟨true, rpc, (g.ctx.held.head?.getD default).mask, rpc⟩ := by
  unfold sameJoin
  cases g.ctx.held with
  | nil => simp
  | cons e rest =>
    obtain ⟨j, p, m, r⟩ := e
    simp [and_assoc]

theorem pushDiv_full {s : State} {gid : Nat} {g : Group} {es : List DivEntry} (k : State → Group → State)
    (h : hasRoom s gid g es.length = false) : pushDiv s gid g es k = raiseL s gid g .overflow (if g.handler then 32
        else 0) :=
  if_pos (by simp [h])

/-- A push that spills nothing. -/
theorem pushDiv_room {s : State} {gid : Nat} {g : Group} {es : List DivEntry} (k : State → Group → State)
    (hlen : g.ctx.held.length + es.length ≤ 32) (hsp : g.ctx.spilled = 0) :
    pushDiv s gid g es k = k s { g with ctx := { g.ctx with held := es.reverse ++ g.ctx.held } } := by
  have hroom : hasRoom s gid g es.length = true := by
    unfold hasRoom spillsOf
    split
    · simpa using hlen
    · simp [hsp, show g.ctx.held.length + es.length - 32 = 0 by omega]
  have hn : (es.reverse ++ g.ctx.held).length - 32 = 0 := by
    rw [List.length_append, List.length_reverse]
    omega
  unfold pushDiv
  rw [if_neg (by simp [hroom])]
  dsimp only
  rw [if_pos hn, hn, Nat.sub_zero, List.take_length, Nat.add_zero]

/-- The entries of a branch whose sides part. -/
def branchEntries (g : Group) (t : Mask) (tgt nxt rpc : Va) : List DivEntry :=
  (if sameJoin g rpc then [] else [⟨true, rpc, g.ctx.exm, rpc⟩]) ++
    (if tgt = rpc ∨ nxt = rpc then [] else [⟨false, nxt, g.ctx.exm &&& ~~~t, rpc⟩])

theorem length_branchEntries (g : Group) (t : Mask) (tgt nxt rpc : Va) : (branchEntries g t tgt nxt rpc).length =
    (if sameJoin g rpc then 0 else 1) + if tgt = rpc ∨ nxt = rpc then 0 else 1 := by
  unfold branchEntries
  rw [List.length_append]
  congr 1 <;> split <;> rfl

theorem branch_parts {s : State} {gid : Nat} {g : Group} {t : Mask} (tgt nxt rpc : Va) (sw : Bool)
    (ht : g.ctx.exm &&& t ≠ 0) (ho : g.ctx.exm &&& ~~~t ≠ 0) : branch s gid g t tgt nxt rpc sw =
      pushDiv s gid g (branchEntries g t tgt nxt rpc) fun s h =>
        s.setGrp gid (if tgt = rpc then h.goExm (g.ctx.exm &&& ~~~t) nxt sw else h.goExm (g.ctx.exm &&& t) tgt sw) := by
  unfold branch branchEntries
  dsimp only
  rw [if_neg (by simpa using ht), if_neg (by simpa using ho)]
  simp only [Bool.or_eq_true, beq_iff_eq]

theorem lbrcBranches : Claims.LbrcBranches := by
  intro s g m tgt rpc hg pc target join next taken other joined
  have hexec : exec (.lbrc m tgt rpc) s = .next (branch s s.cur g (guardMask s.picks g m) target next join m.sw) := by
    change execLbrc m tgt rpc s = _
    rw [execLbrc, withCur_next hg]
    rfl
  refine ⟨fun h => ?_, fun h1 h2 => ?_, fun h1 h2 h3 => ?_, fun h1 h2 h3 h4 => ?_⟩
  · exact hexec.trans (congrArg Host.Outcome.next (if_pos (by simpa [taken] using h)))
  · exact hexec.trans (congrArg Host.Outcome.next ((if_neg (by simpa [taken] using h1)).trans
      (if_pos (by simpa [other] using h2))))
  · rw [hexec, branch_parts target next join m.sw h1 h2, pushDiv_full]
    rw [length_branchEntries]
    exact h3
  · have hlen : (branchEntries g (guardMask s.picks g m) target next join).length ≤ 2 := by
      rw [length_branchEntries]
      split <;> split <;> omega
    have hjoined : (if sameJoin g join then [] else [⟨true, join, g.ctx.exm, join⟩] : List DivEntry) ++ g.ctx.held =
        joined := by
      unfold joined
      by_cases hj : sameJoin g join = true
      · rw [if_pos hj, if_pos ((sameJoin_iff g join).1 hj)]
        rfl
      · rw [if_neg hj, if_neg (mt (sameJoin_iff g join).2 hj)]
        rfl
    have hheld : (branchEntries g (guardMask s.picks g m) target next join).reverse ++ g.ctx.held =
        if target = join ∨ next = join then joined else ⟨false, next, other, join⟩ :: joined := by
      rw [← hjoined]
      unfold branchEntries
      split <;> split <;> rfl
    rw [hexec, branch_parts target next join m.sw h1 h2, pushDiv_room _ (by omega) h4, hheld]
    refine congrArg Host.Outcome.next ?_
    by_cases ht : target = join
    · rw [if_pos ht, if_pos ht, if_pos (.inl ht)]
      rfl
    · rw [if_neg ht, if_neg ht]
      by_cases hn : next = join
      · rw [if_pos hn, if_pos (.inr hn)]
        rfl
      · rw [if_neg hn, if_neg (by simp [ht, hn])]
        rfl

/-- A pop while nothing is spilled. -/
theorem popDiv_held {s : State} {gid : Nat} {g : Group} {e : DivEntry} {rest : List DivEntry}
    (k : State → Group → DivEntry → State) (h : g.ctx.held = e :: rest) (hsp : g.ctx.spilled = 0) :
    popDiv s gid g k = k s { g with ctx := { g.ctx with held := rest } } e := by
  unfold popDiv
  simp only [h, hsp, if_true]

theorem popTo_empty {s : State} {gid : Nat} {g : Group} (call : Bool) (why : W32) (sw : Bool) (h : g.ctx.held = []) :
    popTo s gid g call why sw = raiseL s gid g .convergence why := by
  unfold popTo
  simp only [h]

theorem popTo_other {s : State} {gid : Nat} {g : Group} {e : DivEntry} {rest : List DivEntry} {call : Bool} (why : W32)
    (sw : Bool) (h : g.ctx.held = e :: rest) (hc : e.isCall ≠ call) :
    popTo s gid g call why sw = raiseL s gid g .convergence why := by
  unfold popTo
  simp only [h]
  exact if_pos (by simpa using hc)

theorem popTo_same {s : State} {gid : Nat} {g : Group} {e : DivEntry} {rest : List DivEntry} {call : Bool} (why : W32)
    (sw : Bool) (h : g.ctx.held = e :: rest) (hc : e.isCall = call) : popTo s gid g call why sw =
      popDiv s gid g fun s g e => s.setGrp gid (g.goExm (e.mask &&& g.live) e.pc sw) := by
  unfold popTo
  simp only [h]
  exact if_neg (by simpa using hc)

theorem isCall_iff (e : DivEntry) : e.isCall = true ↔ e.rpc = BitVec.ofNat 57 (2 ^ 57 - 1) := beq_iff_eq

theorem exec_ljoin {s : State} {g : Group} (hg : Issues s g) (nf sw : Bool) :
    exec (.ljoin nf sw) s = .next (popTo s s.cur g false 2 sw) := by
  change execLjoin nf sw s = _
  rw [execLjoin, withCur_next hg]

theorem exec_lret {s : State} {g : Group} (hg : Issues s g) (nf sw : Bool) :
    exec (.lret nf sw) s = .next (popTo s s.cur g true 3 sw) := by
  change execLret nf sw s = _
  rw [execLret, withCur_next hg]

theorem exec_lcall {s : State} {g : Group} (hg : Issues s g) (nf sw : Bool) (off : BitVec 32) :
    exec (.lcall nf sw off) s = .next (pushDiv s s.cur g [⟨true, g.ctx.lpc + 12, g.ctx.exm, callRpc⟩] fun u h =>
      u.setGrp s.cur (h.goL (laneTarget g.ctx.lpc off.toInt) sw)) := by
  change execLcall nf sw off s = _
  rw [execLcall, withCur_next hg]

theorem laneJumps : Claims.LaneJumps := by
  intro s g nf sw off hg pc target call
  refine ⟨?_, fun h => ?_, fun h1 h2 => ?_, fun h => ⟨?_, ?_⟩, fun e rest h => ⟨fun hc => ?_, fun hc => ?_, fun hc hsp
      => ?_,
    fun hc hsp => ?_⟩⟩
  · change execLjmp nf sw off s = _
    rw [execLjmp, withCur_next hg]
    rfl
  · rw [exec_lcall hg, pushDiv_full]
    rwa [List.length_singleton]
  · have hcall : callRpc = call := rfl
    rw [exec_lcall hg, pushDiv_room _ (by rw [List.length_singleton]; omega) h2, hcall]
    rfl
  · rw [exec_ljoin hg, popTo_empty _ _ _ h]
  · rw [exec_lret hg, popTo_empty _ _ _ h]
  · rw [exec_ljoin hg, popTo_other _ _ h (by simpa using (isCall_iff e).2 hc)]
  · rw [exec_lret hg, popTo_other _ _ h (mt (isCall_iff e).1 hc)]
  · rw [exec_ljoin hg, popTo_same _ _ h (Bool.eq_false_iff.2 (mt (isCall_iff e).1 hc)), popDiv_held _ h hsp]
    rfl
  · rw [exec_lret hg, popTo_same _ _ h ((isCall_iff e).2 hc), popDiv_held _ h hsp]
    rfl

theorem laneEnds : Claims.LaneEnds := by
  intro s g m nf sw hg pc eff left
  have hexit : exec (.lexit nf sw) s = .next (if g.ctx.depth != 0 then raiseL s s.cur g .convergence 1
      else if g.chain.isSome then raiseL s s.cur g .chain 7
      else s.setGrp s.cur (({ g with ctx := { g.ctx with exited := true } } : Group).nextL sw)) := by
    change execLexit nf sw s = _
    rw [execLexit, withCur_next hg]
  have hkill : exec (.lkill m) s = .next (s.setGrp s.cur ((killLanes g eff).nextL m.sw)) := by
    change execLkill m s = _
    rw [execLkill, withCur_next hg]
  have hdepth : (g.ctx.depth != 0) = true ↔ g.ctx.held ≠ [] ∨ g.ctx.spilled ≠ 0 := by
    rw [bne_iff_ne, ← List.length_eq_zero_iff.ne, LaneCtx.depth]
    omega
  refine ⟨fun h1 h2 h3 => ?_, fun h => ?_, fun h => ?_, fun h1 h2 => ?_⟩
  · rw [hexit, if_neg (fun hd => by rcases hdepth.1 hd with h | h <;> contradiction), if_neg (by simp [h3])]
    rfl
  · rw [hexit, if_pos (hdepth.2 h)]
  · have hc : ¬ (g.live &&& ~~~eff == 0 && eff != 0) = true := by
      simp only [Bool.and_eq_true, beq_iff_eq, bne_iff_ne]
      rintro ⟨h1, h2⟩
      exact h.elim (fun h => h h1) h2
    rw [hkill, killLanes]
    dsimp only
    rw [if_neg hc]
    rfl
  · have hc : (g.live &&& ~~~eff == 0 && eff != 0) = true := by
      simp only [Bool.and_eq_true, beq_iff_eq, bne_iff_ne]
      exact ⟨h1, h2⟩
    rw [hkill, killLanes]
    dsimp only
    rw [if_pos hc]
    exact congrArg (fun l => Host.Outcome.next (laneOn s { g with live := l, ctx := { g.ctx with
      exm := g.ctx.exm &&& ~~~eff, held := [], spilled := 0, exited := true } } (pc + 12) m.sw)) h1

end Machine

namespace Machine

open Safety

/-! ## The spill area (R39) -/

/-- The accesses of consecutive doublewords that all translate, as the word's stores or loads take them. -/
def atWords (pas : List (Nat × TlbEntry)) : List (Nat × Nat × TlbEntry) := pas.mapIdx fun i x => (i, x.1, x.2)

theorem translated_words {s : State} {gid : Nat} {g : Group} {acc : Acc} {base n : Nat} {pas : List (Nat × TlbEntry)}
    (k : State → List (Nat × Nat × TlbEntry) → State) :
    let die := dieOf (coreOf gid)
    let s1 := keepTrs s die (aspOf s g) ((List.range n).map fun i => base + 8 * i)
    pas.length = n →
    (∀ i pa e, pas[i]? = some (pa, e) →
      translate s1 die (aspOf s g) (base + 8 * i) acc = .ok pa e ∧ (paKind s1 pa).line = true) →
    translated s gid g acc (tabulate n fun i => (i, base + 8 * i)) k = k s1 (atWords pas) := by
  intro die s1 hlen hpas
  have haddr : (tabulate n fun i => (i, base + 8 * i)).map (·.2) = (List.range n).map fun i => base + 8 * i := by
    rw [tabulate, List.map_map]
    rfl
  have hstate : keepTrs s die (aspOf s g) ((tabulate n fun i => (i, base + 8 * i)).map (·.2)) = s1 := by rw [haddr]
  rw [← hstate]
  refine translated_ok k ?_ ?_
  · rw [hstate]
    refine List.ext_getElem? fun i => ?_
    by_cases hi : i < n
    · have hget : pas[i]? = some pas[i] := List.getElem?_eq_getElem (hlen ▸ hi)
      have ht := (hpas i pas[i].1 pas[i].2 hget).1
      simp [transLanes, tabulate, atWords, hi, hlen, ht, die]
    · simp [transLanes, tabulate, atWords, hi, hlen]
  · rw [hstate]
    intro p hp
    obtain ⟨i, hi, rfl⟩ := List.mem_mapIdx.1 hp
    exact (hpas i _ _ (List.getElem?_eq_getElem hi)).2

theorem map_atWords {β : Type} (pas : List (Nat × TlbEntry)) (f : Nat × Nat × TlbEntry → β) :
    (atWords pas).map f = pas.mapIdx fun i x => f (i, x.1, x.2) := by
  simp only [atWords, List.mapIdx_eq_zipIdx_map, List.map_map]
  rfl

section
variable {s : State} {g : Group} {es : List DivEntry} (hs : g.saved = none) (hdeep : 32 < g.ctx.held.length + es.length)
  (harea : g.ctx.spilled + (g.ctx.held.length + es.length - 32) ≤ (spillArea s s.cur g).2)
include hs harea

theorem hasRoom_spill : hasRoom s s.cur g es.length = true := by
  unfold hasRoom spillsOf
  rw [if_neg (by simp [Group.handler, hs])]
  simpa using harea

include hdeep

theorem pushDiv_blocked (k : State → Group → State) (hb : g.ln.blocked s = true) : pushDiv s s.cur g es k = s := by
  have hlen : (es.reverse ++ g.ctx.held).length = g.ctx.held.length + es.length := by
    rw [List.length_append, List.length_reverse, Nat.add_comm]
  unfold pushDiv
  rw [if_neg (by simp [hasRoom_spill hs harea])]
  exact (if_neg (by omega)).trans (if_pos hb)

/-- A push whose spilled entries' stores have been sent goes on from there. -/
theorem pushDiv_spilled (k : State → Group → State) (hb : g.ln.blocked s = false) {s1 t : State} {h : Group}
    (hsp : Spilled s g es s1 t) (ht : t.grp s.cur = some h) : pushDiv s s.cur g es k = k t h := by
  obtain ⟨rfl, pas, hlen, hpas, rfl⟩ := hsp
  have hheld : (es.reverse ++ g.ctx.held).length = g.ctx.held.length + es.length := by
    rw [List.length_append, List.length_reverse, Nat.add_comm]
  have hkeep : (es.reverse ++ g.ctx.held).length - ((es.reverse ++ g.ctx.held).length - 32) = 32 := by omega
  have hout : (es.reverse ++ g.ctx.held).length - 32 = ((es.reverse ++ g.ctx.held).drop 32).reverse.length := by
    rw [List.length_reverse, List.length_drop]
  unfold pushDiv
  rw [if_neg (by simp [hasRoom_spill hs harea])]
  dsimp only
  rw [if_neg (by omega), if_neg (by simp [hb]), hkeep, hout]
  refine (translated_words _ hlen hpas).trans ?_
  rw [map_atWords]
  split
  · next h' hh' =>
    obtain rfl : h' = h := Option.some.inj (hh'.symm.trans ht)
    rfl
  · next hnone => exact absurd (hnone.symm.trans ht) (by simp)
end

/-! ## Spilled entries come back (R39) -/

theorem popDiv_blocked {s : State} {g : Group} {e : DivEntry} {rest : List DivEntry} (k : State → Group → DivEntry → State)
    (h : g.ctx.held = e :: rest) (hsp : g.ctx.spilled ≠ 0) (hb : g.ln.blocked s = true) : popDiv s s.cur g k = s := by
  unfold popDiv
  simp only [h]
  exact (if_neg hsp).trans (if_pos hb)

/-- A pop after which the newest spilled entry has been read back. -/
theorem popDiv_refilled {s : State} {g : Group} {e : DivEntry} {rest : List DivEntry} (k : State → Group → DivEntry → State)
    (h : g.ctx.held = e :: rest) (hsp : g.ctx.spilled ≠ 0) (hb : g.ln.blocked s = false) {s1 : State} {b : DivEntry}
    {ln : Stream} (hr : Refilled s g s1 b ln) : popDiv s s.cur g k =
      k s1 { g with ln := ln, ctx := { g.ctx with held := rest ++ [b], spilled := g.ctx.spilled - 1 } } e := by
  obtain ⟨pa, w, rfl, hread, rfl, rfl⟩ := hr
  choose! en hen using fun i (hi : i < 4) => (hread i hi).1
  have hwords := translated_words (s := s) (gid := s.cur) (g := g) (acc := .read)
    (base := (spillArea s s.cur g).1 + 32 * (g.ctx.spilled - 1)) (n := 4)
    (pas := (List.range 4).map fun i => (pa i, en i))
  unfold popDiv
  simp only [h]
  rw [if_neg hsp, if_neg (by simp [hb])]
  rw [hwords _ (by simp) fun i p e' hi => ?_]
  · have hps : atWords ((List.range 4).map fun i => (pa i, en i)) = (List.range 4).map fun i => (i, pa i, en i) := rfl
    have hrs : ((List.range 4).map fun i => (i, pa i, en i)).map (fun p : Nat × Nat × TlbEntry =>
        (p, plainRead ((List.range 4).foldl (fun u i => resolve u (pa i / 128)) (keepTrs s (dieOf (coreOf s.cur))
            (aspOf s g)
          ((List.range 4).map fun i => (spillArea s s.cur g).1 + 32 * (g.ctx.spilled - 1) + 8 * i)))
          (coreOf s.cur) (s.cur, true) ((List.range 4).foldl (fun u i => resolve u (pa i / 128))
          (keepTrs s (dieOf (coreOf s.cur)) (aspOf s g)
          ((List.range 4).map fun i => (spillArea s s.cur g).1 + 32 * (g.ctx.spilled - 1) + 8 * i))).nextId p.1 p.2.1
              8)) =
        (List.range 4).map fun i => ((i, pa i, en i), some ((w i).1, false, (w i).2)) := by
      rw [List.map_map]
      refine List.map_congr_left fun i hi => ?_
      exact congrArg (Prod.mk _) (hread i (List.mem_range.1 hi)).2.2
    rw [hps, List.foldl_map, hrs]
    rfl
  · have hi4 : i < 4 := by
      by_contra hn
      simp [hn] at hi
    simp only [List.getElem?_map, List.getElem?_range hi4, Option.map_some, Option.some.injEq, Prod.mk.injEq] at hi
    obtain ⟨rfl, rfl⟩ := hi
    exact ⟨hen i hi4, (hread i hi4).2.1⟩

/-- A word that pops as its kind says (R135, R137). -/
theorem exec_pop {s : State} {g : Group} {e : DivEntry} {rest : List DivEntry} (hg : Issues s g)
    (h : g.ctx.held = e :: rest) (nf sw : Bool) :
    exec (if e.rpc = BitVec.ofNat 57 (2 ^ 57 - 1) then .lret nf sw else .ljoin nf sw) s =
      .next (popDiv s s.cur g fun u h e => u.setGrp s.cur (h.goExm (e.mask &&& h.live) e.pc sw)) := by
  by_cases hc : e.rpc = BitVec.ofNat 57 (2 ^ 57 - 1)
  · rw [if_pos hc, exec_lret hg, popTo_same _ _ h ((isCall_iff e).2 hc)]
  · rw [if_neg hc, exec_ljoin hg, popTo_same _ _ h (Bool.eq_false_iff.2 (mt (isCall_iff e).1 hc))]

theorem stackSpills : Claims.StackSpills := by
  intro s g m nf sw off tgt rpc hg d pc far call
  refine ⟨fun t ht => ?_, fun l ht hl => ?_, fun hs hlen harea => ?_, fun hs hlen => ?_, fun e rest h hsp => ⟨fun hb
      => ?_,
    fun s1 b ln hb hr => ?_⟩⟩
  · simp only [spillArea, ht]
    rfl
  · simp only [spillArea, ht, hl]
    rfl
  · have hdeep : 32 < g.ctx.held.length + [(⟨true, pc + 12, g.ctx.exm, call⟩ : DivEntry)].length := by
      rw [List.length_singleton]
      omega
    have harea' : g.ctx.spilled + (g.ctx.held.length + [(⟨true, pc + 12, g.ctx.exm, call⟩ : DivEntry)].length - 32) ≤
        (spillArea s s.cur g).2 := by
      rw [List.length_singleton]
      omega
    have hcall : callRpc = call := rfl
    refine ⟨fun hb => ?_, fun s1 t h hb hspill ht => ?_⟩
    · rw [exec_lcall hg, hcall, pushDiv_blocked hs hdeep harea' _ hb]
    · rw [exec_lcall hg, hcall, pushDiv_spilled hs hdeep harea' _ hb hspill ht]
      rfl
  · intro taken other join es h1 h2 hdeep harea
    have hexec : exec (.lbrc m tgt rpc) s = .next (pushDiv s s.cur g es fun u h => u.setGrp s.cur
        (if far tgt.toInt = join then h.goExm other (pc + 12) m.sw else h.goExm taken (far tgt.toInt) m.sw)) := by
      change execLbrc m tgt rpc s = _
      rw [execLbrc, withCur_next hg]
      exact congrArg Host.Outcome.next (branch_parts _ _ _ m.sw h1 h2)
    have hlen' : g.ctx.spilled + (g.ctx.held.length + es.length - 32) ≤ (spillArea s s.cur g).2 := harea
    refine ⟨fun hb => ?_, fun s1 t h hb hspill ht => ?_⟩
    · rw [hexec, pushDiv_blocked hs hdeep hlen' _ hb]
    · rw [hexec, pushDiv_spilled hs hdeep hlen' _ hb hspill ht]
      rfl
  · exact (exec_pop hg h nf sw).trans (congrArg Host.Outcome.next (popDiv_blocked _ h hsp hb))
  · exact (exec_pop hg h nf sw).trans (congrArg Host.Outcome.next (popDiv_refilled _ h hsp hb hr))

/-- Settles O44: branches and jumps on a stack with room, what a full stack spills and brings back, and the ends. -/
theorem laneControlFlow : Obligations.LaneControlFlow := ⟨lbrcBranches, laneJumps, stackSpills, laneEnds⟩

end Machine

end Sys2Proof
end

section
/-!
PROOFS. Placing: spawned threads, spawned groups and the placing of teams (R25, R44 to R46, R276, R277).
-/
namespace Sys2Proof

namespace Machine
open Host

/-! ## SPAWN and bins -/

theorem lanesOf_zero : lanesOf 0 = [] :=
  List.eq_nil_iff_forall_not_mem.2 fun _ h => by simpa using mem_lanesOf.1 h

theorem placeThreads_nil (core lid : Nat) (entry : Va) (s : State) : placeThreads core lid entry s [] = (0, s) := rfl

theorem binAdmits_iff (b : Bin) (core lid : Nat) (entry : Va) (ticks now : Nat) :
    b.admits core lid entry ticks now = true ↔
      b.core = core ∧ b.lid = lid ∧ b.entry = entry ∧ b.sealed = false ∧ now ≤ b.opened + ticks := by
  simp only [Bin.admits, Bool.and_eq_true, beq_iff_eq, Bool.not_eq_true', decide_eq_true_eq, and_assoc]

/-- A map that changes only the elements that a test admits, of a list with one such element. -/
theorem map_if_single {α : Type} {p : α → Bool} {f : α → α} {xs ys : List α} {b : α} (hb : p b = true)
    (hother : ∀ x ∈ xs ++ ys, ¬ p x = true) :
    (xs ++ b :: ys).map (fun x => if p x then f x else x) = xs ++ f b :: ys := by
  have keep : ∀ zs : List α, (∀ x ∈ zs, ¬ p x = true) → zs.map (fun x => if p x then f x else x) = zs := fun zs h =>
    (List.map_congr_left fun x hx => if_neg (h x hx)).trans (List.map_id zs)
  rw [List.map_append, List.map_cons, if_pos hb, keep xs fun x hx => hother x (List.mem_append_left _ hx),
    keep ys fun x hx => hother x (List.mem_append_right _ hx)]

theorem find?_range_first {p : Nat → Bool} {n m : Nat} (hn : n < m) (hp : p n = true) (hlow : ∀ k < n, p k = false) :
    (List.range m).find? p = some n := by
  rw [List.find?_range_eq_some]
  exact ⟨hp, List.mem_range.2 hn, fun k hk => by simp [hlow k hk]⟩

theorem binPut_open {s : State} {core lid : Nat} {entry : Va} {t : Thread} {xs ys : List Bin} {b : Bin}
    (hbins : s.bins = xs ++ b :: ys)
    (hb : b.admits core lid entry (binTicks (((s.launch lid).map Launch.desc).getD default)) s.gtc.toNat = true)
    (hother : ∀ x ∈ xs ++ ys,
      ¬ x.admits core lid entry (binTicks (((s.launch lid).map Launch.desc).getD default)) s.gtc.toNat = true) :
    binPut s core lid entry t = some { s with
      bins := xs ++ b.add (((s.launch lid).map Launch.desc).getD default).width s.nextId t :: ys, nextId := s.nextId + 1 } := by
  have hany : (s.bins.any fun b =>
      b.admits core lid entry (binTicks (((s.launch lid).map Launch.desc).getD default)) s.gtc.toNat) = true :=
    List.any_eq_true.2 ⟨b, by simp [hbins], hb⟩
  rw [binPut]
  refine (if_pos hany).trans ?_
  rw [hbins]
  exact congrArg (fun l => some { s with bins := l, nextId := s.nextId + 1 }) (map_if_single
    (p := fun b => b.admits core lid entry (binTicks (((s.launch lid).map Launch.desc).getD default)) s.gtc.toNat)
    (f := fun b => b.add (((s.launch lid).map Launch.desc).getD default).width s.nextId t) hb hother)

theorem binPut_none_open {s : State} {core lid : Nat} {entry : Va} {t : Thread}
    (hno : ∀ x ∈ s.bins,
      ¬ x.admits core lid entry (binTicks (((s.launch lid).map Launch.desc).getD default)) s.gtc.toNat = true) :
    binPut s core lid entry t = ((List.range 32).find? fun n => !(binsUsed s core).contains n).map fun n =>
      { s with
        bins := s.bins ++ [(⟨core, n, lid, entry, [], s.gtc.toNat, false, 0⟩ : Bin).add
          (((s.launch lid).map Launch.desc).getD default).width s.nextId t],
        nextId := s.nextId + 1 } := by
  rw [binPut]
  exact if_neg fun h => by
    obtain ⟨x, hx, hp⟩ := List.any_eq_true.1 h
    exact hno x hx hp

end Machine
open Machine Host

theorem spawnPlacesThreads : Claims.SpawnPlacesThreads := by
  intro s g m a entry hg
  have hex : exec (.spawn m a entry) s = .next (inQuota s s.cur g (runRegs a 4) _) :=
    (show execSpawn m a entry s = _ by rw [execSpawn, withCur_next hg])
  refine ⟨quotaTrap_of hex, fun hq => ?_⟩
  have hin : ∀ r ∈ runRegs a 4, r < g.q := by
    intro r hr
    obtain ⟨i, hi, rfl⟩ := List.mem_map.1 hr
    have := List.mem_range.1 hi
    omega
  rw [inQuota_within hin] at hex
  intro eff d core va ts gone
  refine ⟨fun he => ?_, fun he hs => ?_, fun hs n u hp => ?_, fun t lid => ?_⟩
  · rw [hex, if_neg fun h => h.2 he]
    simp only [show effMask s.picks g m = 0 from he, lanesOf_zero, List.drop_nil, List.map_nil, List.isEmpty_nil,
        if_true, placeThreads_nil]
    rfl
  · rw [hex, if_pos ⟨hs, he⟩]
    rfl
  · rw [hex, if_neg fun h => hs h.1]
    refine (congrArg (fun r : Nat × State => Outcome.next (if r.1 = ts.length then r.2.setGrp s.cur gone else
      r.2.setGrp s.cur { g with ctx := { g.ctx with prog := g.ctx.prog + r.1 } })) hp).trans ?_
    dsimp only
    split <;> rfl
  · intro w ticks admits
    have hadm : ∀ b : Bin, b.admits core lid va (binTicks (((s.launch lid).map Launch.desc).getD default)) s.gtc.toNat
        = true ↔
        admits b := fun b => binAdmits_iff ..
    refine ⟨fun xs b ys hb ha hother => ?_, fun hno => ⟨fun n hn hfree => ?_, fun hfull => ?_⟩⟩
    · rw [binPut_open hb ((hadm b).2 ha) fun x hx h => hother x hx ((hadm x).1 h), Bin.add, List.length_append]
      rfl
    · rw [binPut_none_open fun x hx h => hno x hx ((hadm x).1 h),
        find?_range_first hn (by simpa using hfree n (le_refl n)) fun k hk => by simpa using (hfree k (by omega)).2 hk]
      rfl
    · rw [binPut_none_open fun x hx h => hno x hx ((hadm x).1 h), List.find?_eq_none.2 fun n hn => by
        simpa using hfull n (List.mem_range.1 hn)]
      rfl
end Sys2Proof
namespace Sys2Proof
namespace Machine
open Host

/-! ## Spawned groups start -/

theorem vget_replicate {α : Type} {n : Nat} [Inhabited α] (x : α) {i : Nat} (h : i < n) :
    vget (Vector.replicate n x) i = x := by
  simp [vget, h]

theorem vget_vtab {α : Type} {n : Nat} [Inhabited α] (f : Nat → α) {i : Nat} (h : i < n) : vget (vtab n f) i = f i := by
  simp [vget, vtab, h]

theorem nthD_map {α β : Type} (f : α → β) (d : α) (xs : List α) (i : Nat) : nthD (f d) (xs.map f) i = f (nthD d xs i) := by
  simp only [nthD, List.getElem?_map]
  cases xs[i]? <;> rfl

/-- V registers that receive undefined contents: their words are of the register file, and their shadows TOP. -/
def undefGroup (g : Group) (n1 n2 : Nat) : Group :=
  { g with vsh := (List.range (n2 - n1)).foldl (fun v i => vset v (n1 + i) .top) g.vsh }

theorem receive_eq (s : State) (gid : Nat) (g : Group) (n1 n2 : Nat) :
    ∃ rf free, receive s gid g n1 n2 = { s.setGrp gid (undefGroup g n1 n2) with rf := rf, free := free } ∧
      (Store.wf 0 s.rf = true → Store.wf 0 rf = true) := by
  unfold receive undefRows
  split
  · exact ⟨_, _, rfl, fun h => Store.wf_putsD h ..⟩
  · exact ⟨_, _, rfl, fun h => Store.wf_putsD (Store.wf_putsD h ..) ..⟩

theorem vget_undefGroup_top {g : Group} {n1 n2 : Nat} (h : ∀ n, n < 256 → vget g.vsh n = .top) {n : Nat} (hn : n < 256) :
    vget (undefGroup g n1 n2).vsh n = .top := by
  have keep : ∀ (is : List Nat) (v : Vector Shadow 256), vget v n = .top →
      vget (is.foldl (fun v i => vset v (n1 + i) .top) v) n = .top := by
    intro is
    induction is with
    | nil => exact fun v hv => hv
    | cons i is ih =>
      intro v hv
      refine ih _ ?_
      rw [vget_vset]
      split <;> simp_all
  exact keep _ _ (h n hn)

/-- Register Vi of a spawned group takes the threads' words, and their shadow. -/
def threadReg (gid : Nat) (g : Group) (ts : List Thread) (s : State) (i : Nat) : State :=
  (vPut s gid g i g.live (ts.map fun t => nthD 0 t.words i)).updGrp gid fun g => { g with vsh := vset g.vsh i (wordShadow ts i) }

theorem threadRegs_eq (s : State) (gid : Nat) (g : Group) (ts : List Thread) :
    threadRegs s gid g ts = (List.range (min 4 g.q)).foldl (threadReg gid g ts) s := rfl

/-- What the threads' registers leave as it is. -/
theorem foldl_threadReg_frame (gid : Nat) (g : Group) (ts : List Thread) (is : List Nat) (s : State) :
    (is.foldl (threadReg gid g ts) s).mem = s.mem ∧ (is.foldl (threadReg gid g ts) s).bins = s.bins ∧
      (is.foldl (threadReg gid g ts) s).launches = s.launches ∧
      ∀ k, k ≠ gid → (is.foldl (threadReg gid g ts) s).grp k = s.grp k := by
  induction is generalizing s with
  | nil => exact ⟨rfl, rfl, rfl, fun _ _ => rfl⟩
  | cons i is ih =>
    obtain ⟨hm, hb, hl, hg⟩ := ih (threadReg gid g ts s i)
    exact ⟨hm, hb, hl, fun k hk => (hg k hk).trans (State.grp_updGrp_ne _ _ _ hk)⟩

theorem foldl_threadReg_grp (gid : Nat) (g : Group) (ts : List Thread) (is : List Nat) {s : State} {h : Group}
    (hs : s.grp gid = some h) : (is.foldl (threadReg gid g ts) s).grp gid =
      some { h with vsh := is.foldl (fun v i => vset v i (wordShadow ts i)) h.vsh } := by
  induction is generalizing s h with
  | nil => exact hs
  | cons i is ih =>
    refine ih (h := { h with vsh := vset h.vsh i (wordShadow ts i) }) ?_
    rw [threadReg, State.grp_updGrp]
    exact congrArg (Option.map _) hs

theorem foldl_threadReg_vRaw (gid : Nat) {g : Group} (ts : List Thread) (hw : g.width ≤ 64) (is : List Nat) {s : State}
    (hwf : Store.wf 0 s.rf = true) (n : Nat) {l : Nat} (hl : l < g.width) (hlive : g.live.getLsbD l = true) :
    vRaw (is.foldl (threadReg gid g ts) s) gid g n l =
      if n ∈ is then nthD 0 (ts.map fun t => nthD 0 t.words n) l else vRaw s gid g n l := by
  induction is generalizing s with
  | nil => simp
  | cons i is ih =>
    have hput : vRaw (threadReg gid g ts s i) gid g n l =
        if n = i ∧ g.live.getLsbD l = true then nthD 0 (ts.map fun t => nthD 0 t.words i) l else vRaw s gid g n l :=
      vRaw_vPut hwf gid hw i g.live _ n l hl
    rw [List.foldl_cons, ih (s := threadReg gid g ts s i) (Store.wf_foldl_putD hwf ..), hput]
    by_cases hn : n = i
    · subst hn
      simp [hlive]
    · simp [hn]

end Machine

namespace Machine
open Host

theorem sealBin_bins (s : State) (core num i : Nat) (b : Bin) (h : s.bins[i]? = some b) :
    (sealBin s core num).bins[i]? = some
      (if b.core = core ∧ b.num = num ∧ b.sealed = false ∧
          b.opened + binTicks (((s.launch b.lid).map Launch.desc).getD default) ≤ s.gtc.toNat
       then { b with sealed := true, seq := s.nextId } else b) := by
  rw [sealBin, List.getElem?_map, h]
  simp only [Option.map_some, Bool.and_eq_true, beq_iff_eq, Bool.not_eq_true', decide_eq_true_eq, and_assoc]

theorem spawnedLaunch_of_no_threads {s : State} {core : Nat} (hl : (launchBin s core).launches = s.launches)
    (hno : ∀ e ∈ s.launches, e.2.threads = []) : spawnedLaunch s core = launchBin s core := by
  have hnil : (launchBin s core).launches.filter (fun l => !l.2.threads.isEmpty) = [] :=
    List.filter_eq_nil_iff.2 fun e he => by simp [hno e (hl ▸ he)]
  rw [spawnedLaunch, hnil]
  rfl

/-- The group of the threads' bin, once it has received its registers and their words. -/
def spawnedWith (s : State) (l : Launch) (lid slot row0 : Nat) (entry : Va) (ts : List Thread) : Group :=
  let g := (spawnGroup s l lid slot row0 entry ts).1
  { undefGroup g 0 g.q with
    vsh := (List.range (min 4 g.q)).foldl (fun v i => vset v i (wordShadow ts i)) (undefGroup g 0 g.q).vsh }

theorem spawnedWith_vsh (s : State) (l : Launch) (lid slot row0 : Nat) (entry : Va) (ts : List Thread) {n : Nat}
    (hn : n < 256) : vget (spawnedWith s l lid slot row0 entry ts).vsh n =
      if n < 4 ∧ n < l.desc.sq0 then wordShadow ts n else .top := by
  refine (vget_foldl_vset (fun i _ => wordShadow ts i) List.nodup_range _ n).trans ?_
  have htop : vget (undefGroup (spawnGroup s l lid slot row0 entry ts).1 0 (spawnGroup s l lid slot row0 entry
      ts).1.q).vsh n
      = .top := vget_undefGroup_top (fun n hn => vget_replicate _ hn) hn
  rw [htop]
  simp only [List.mem_range, lt_min_iff, hn, and_true]
  rfl

/-- The uniform registers that a spawned group receives (R25). -/
def spawnK (l : Launch) (lid : Nat) (entry : Va) (n : Nat) : W32 :=
  if n < 8 then nthD 0 l.args n
  else if n < 10 then 0xFFFFFFFF
  else if n = 10 then BitVec.ofNat 32 l.teams
  else if n = 11 then BitVec.ofNat 32 lid
  else if n = 12 then bits entry 0 32
  else 0

theorem spawnedWith_k (s : State) (l : Launch) (lid slot row0 : Nat) (entry : Va) (ts : List Thread) {n : Nat}
    (hn : n < 16) : vget (spawnedWith s l lid slot row0 entry ts).k n = spawnK l lid entry n := by
  have hk : (spawnedWith s l lid slot row0 entry ts).k = vtab 16 (spawnK l lid entry) := rfl
  rw [hk, vget_vtab _ hn]

theorem placeSpawned_spec (s : State) (core : Nat) (l : Launch) (lid slot gslot row0 : Nat) (entry : Va) (ts : List
    Thread) :
    let u := placeSpawned s core l lid slot gslot row0 entry ts
    let gid := 64 * core + gslot
    (u.mem = s.mem ∧ u.bins = s.bins ∧ u.launches = s.launches ∧ ∀ k, k ≠ gid → u.grp k = s.grp k) ∧
      u.grp gid = some (spawnedWith s l lid slot row0 entry ts) ∧
      (Store.wf 0 s.rf = true → ts.length ≤ l.desc.width → l.desc.width ≤ 64 → ∀ j n, j < ts.length → n < 4 → n <
          l.desc.sq0 →
        vRaw u gid (spawnedWith s l lid slot row0 entry ts) n j = nthD 0 (nthD ⟨[], none, []⟩ ts j).words n) := by
  intro u gid
  set g := (spawnGroup s l lid slot row0 entry ts).1
  obtain ⟨rf, free, hrec, hwf⟩ := receive_eq (spawnGroup s l lid slot row0 entry ts).2 gid g 0 g.q
  set r := receive (spawnGroup s l lid slot row0 entry ts).2 gid g 0 g.q
  have hu : u = (List.range (min 4 g.q)).foldl (threadReg gid g ts) r := rfl
  have hself : r.grp gid = some (undefGroup g 0 g.q) := by
    rw [hrec]
    exact State.grp_setGrp (s := s) ..
  have hother : ∀ k, k ≠ gid → r.grp k = s.grp k := fun k hk => by
    rw [hrec]
    exact State.grp_setGrp_ne s _ _ hk
  obtain ⟨hm, hb, hl, hk⟩ := foldl_threadReg_frame gid g ts (List.range (min 4 g.q)) r
  refine ⟨⟨?_, ?_, ?_, fun k h => ?_⟩, ?_, fun hrf hlen hw j n hj hn4 hnq => ?_⟩
  · exact hu ▸ hm.trans (by rw [hrec]; rfl)
  · exact hu ▸ hb.trans (by rw [hrec]; rfl)
  · exact hu ▸ hl.trans (by rw [hrec]; rfl)
  · exact hu ▸ (hk k h).trans (hother k h)
  · exact hu ▸ foldl_threadReg_grp gid g ts _ hself
  · have hlive : g.live.getLsbD j = true := by
      change (lowMask ts.length).getLsbD j = true
      simp only [getLsbD_lowMask, hj, decide_true, Bool.and_true, decide_eq_true_eq]
      omega
    have hrfr : Store.wf 0 r.rf = true := by
      rw [hrec]
      exact hwf hrf
    have hjw : j < g.width := Nat.lt_of_lt_of_le hj hlen
    have hv := foldl_threadReg_vRaw gid ts hw (List.range (min 4 g.q)) hrfr n hjw hlive
    rw [if_pos (List.mem_range.2 (lt_min hn4 (show n < g.q from hnq)))] at hv
    exact hu ▸ hv.trans (nthD_map (fun t : Thread => nthD 0 t.words n) ⟨[], none, []⟩ ts j)

theorem launchBin_eq {s : State} {core : Nat} {b : Bin} {l : Launch} {i slot row0 : Nat} (hb : oldestBin s core = some b)
    (hs : binSlot s b = some (l, i, slot, row0)) : launchBin s core =
      placeSpawned { s with bins := s.bins.filter fun x => !(x.core == core && x.num == b.num) } core l b.lid i slot row0
        b.entry b.threads := by
  simp only [launchBin, hb, hs]

end Machine
open Machine Host

theorem binsBecomeGroups : Claims.BinsBecomeGroups := by
  intro s core num
  refine ⟨⟨sealBin s core num, rfl, rfl, by simp [sealBin], fun i b h => sealBin_bins s core num i b h⟩, ?_⟩
  intro b l i slot row0 hb hs hno hwf hlen hw
  obtain ⟨⟨hm, hbins, hl, hk⟩, hgrp, hv⟩ := placeSpawned_spec
    { s with bins := s.bins.filter fun x => !(x.core == core && x.num == b.num) } core l b.lid i slot row0 b.entry b.threads
  rw [← launchBin_eq hb hs] at hm hbins hl hk hgrp hv
  refine ⟨launchBin s core, _, congrArg Outcome.next (spawnedLaunch_of_no_threads hl hno), hgrp, ⟨rfl, rfl, rfl, rfl,
      rfl, rfl, rfl, rfl⟩,
    ⟨rfl, rfl, rfl, rfl, rfl, rfl, rfl⟩, ⟨fun n hn => ?_, ?_, ?_, ?_, ?_, ?_, fun n h1 h2 => ?_⟩, ⟨rfl, rfl, rfl, rfl,
        rfl, rfl, rfl, rfl, rfl, rfl, rfl, rfl⟩, ⟨rfl, fun n hn => ?_⟩,
    hbins, hm, hk, fun j n hj hn hq => hv hwf hlen hw j n hj hn hq⟩
  · rw [spawnedWith_k _ _ _ _ _ _ _ (by omega), spawnK, if_pos hn]
  iterate 5 · exact spawnedWith_k _ _ _ _ _ _ _ (by decide)
  · rw [spawnedWith_k _ _ _ _ _ _ _ h2]
    simp [spawnK, show ¬ n < 8 by omega, show ¬ n < 10 by omega, show n ≠ 10 by omega, show n ≠ 11 by omega, show n ≠
        12 by omega]
  · exact spawnedWith_vsh _ _ _ _ _ _ _ hn

/-- Settles O45: threads are placed lane by lane, and a sealed bin's lanes are its threads. -/
theorem spawnedGroups : Obligations.SpawnedGroups := ⟨spawnPlacesThreads, binsBecomeGroups⟩

namespace Machine
open Host

/-! ## Teams are placed (R25, R276, R277) -/

theorem placeTeam_fresh {s : State} {core spbase accbase lid tid : Nat} {l : Launch} {places : List (Nat × Nat)}
    (hback : ∀ slot row0, places = [(slot, row0)] → spawnedBack s core slot row0 = none)
    (hb : pickBid s core spbase accbase places (bids s) = some (lid, l, .fresh tid)) :
    placeTeam s core spbase accbase places = placeFresh s (lid, l, .fresh tid) tid core spbase accbase places := by
  unfold placeTeam
  split
  · rename_i k t ix slot row0 rest h
    split at h
    · rename_i slot' row0' heq
      rw [hback _ _ heq] at h
      cases h
    · cases h
  · rw [hb]

/-- The record of a team that is placed. -/
def newTeam (lid tid core spbase accbase : Nat) : Team :=
  { lid := lid, tid := some tid, state := .resident, core := core, spbase := spbase, accbase := accbase, ended := [],
    bars := [], rings := [], why := 0, fkind := 0, fmaster := 0, fva := 0, slot := none, groups := [], serviced :=
        false,
    owed := [], since := 0, reserving := false }

/-- A new team's group starts. -/
def startAt (l : Launch) (lid tid : Nat) (s : State) (x : Nat × Nat × Nat) : State :=
  receive (startGroup s l lid tid x.1 x.2.2).2 x.2.1 (startGroup s l lid tid x.1 x.2.2).1 0
    (startGroup s l lid tid x.1 x.2.2).1.q

/-- The group of R25, once its registers hold undefined contents, when undefined contents start at `s.free`. -/
def startedGroup (s : State) (l : Launch) (lid tid gidx row0 : Nat) : Group :=
  undefGroup (startGroup s l lid tid gidx row0).1 0 (startGroup s l lid tid gidx row0).1.q

theorem startAt_spec (l : Launch) (lid tid : Nat) (s : State) (x : Nat × Nat × Nat) :
    let u := startAt l lid tid s x
    (u.mem = s.mem ∧ u.teams = s.teams ∧ u.launches = s.launches ∧ ∀ k, k ≠ x.2.1 → u.grp k = s.grp k) ∧
      u.grp x.2.1 = some (startedGroup s l lid tid x.1 x.2.2) := by
  intro u
  obtain ⟨rf, free, hrec, -⟩ := receive_eq (startGroup s l lid tid x.1 x.2.2).2 x.2.1 (startGroup s l lid tid x.1
      x.2.2).1 0
    (startGroup s l lid tid x.1 x.2.2).1.q
  have hu : u = _ := hrec
  refine ⟨⟨by rw [hu]; rfl, by rw [hu]; rfl, by rw [hu]; rfl, fun k hk => ?_⟩, ?_⟩
  · rw [hu]
    exact State.grp_setGrp_ne s _ _ hk
  · rw [hu]
    exact State.grp_setGrp (s := s) ..

theorem foldl_startAt (l : Launch) (lid tid : Nat) (keys : List (Nat × Nat × Nat)) (s : State) :
    let u := keys.foldl (startAt l lid tid) s
    (u.mem = s.mem ∧ u.teams = s.teams ∧ u.launches = s.launches) ∧
      (∀ k, k ∉ keys.map (fun x => x.2.1) → u.grp k = s.grp k) ∧
      ((keys.map fun x => x.2.1).Nodup → ∀ x ∈ keys, ∃ v, u.grp x.2.1 = some (startedGroup v l lid tid x.1 x.2.2)) := by
  induction keys generalizing s with
  | nil => exact ⟨⟨rfl, rfl, rfl⟩, fun _ _ => rfl, fun _ _ h => by cases h⟩
  | cons y ys ih =>
    obtain ⟨⟨hm, ht, hl, hk⟩, hself⟩ := startAt_spec l lid tid s y
    obtain ⟨⟨hm', ht', hl'⟩, hk', hg'⟩ := ih (startAt l lid tid s y)
    refine ⟨⟨hm'.trans hm, ht'.trans ht, hl'.trans hl⟩, fun k h => ?_, fun hnd x hx => ?_⟩
    · rw [List.map_cons, List.mem_cons, not_or] at h
      exact (hk' k h.2).trans (hk k h.1)
    · rw [List.map_cons, List.nodup_cons] at hnd
      rcases List.mem_cons.1 hx with rfl | hx
      · exact ⟨s, (hk' _ hnd.1).trans hself⟩
      · exact hg' hnd.2 x hx

/-- The uniform registers that a group of a team receives (R25). -/
def startK (l : Launch) (lid tid gidx n : Nat) : W32 :=
  if n < 8 then nthD 0 l.args n
  else if n = 8 then BitVec.ofNat 32 tid
  else if n = 9 then BitVec.ofNat 32 gidx
  else if n = 10 then BitVec.ofNat 32 l.teams
  else if n = 11 then BitVec.ofNat 32 lid
  else 0

theorem startedGroup_k (s : State) (l : Launch) (lid tid gidx row0 : Nat) {n : Nat} (hn : n < 16) :
    vget (startedGroup s l lid tid gidx row0).k n = startK l lid tid gidx n := by
  have hk : (startedGroup s l lid tid gidx row0).k = vtab 16 (startK l lid tid gidx) := rfl
  rw [hk, vget_vtab _ hn]

theorem startedGroup_vsh (s : State) (l : Launch) (lid tid gidx row0 : Nat) {n : Nat} (hn : n < 256) :
    vget (startedGroup s l lid tid gidx row0).vsh n = .top :=
  vget_undefGroup_top (fun _ hn => vget_replicate _ hn) hn

/-- The role field of a group index in a role map (R25). -/
theorem rolemap_field (x : W64) (i : Nat) :
    (x >>> (2 * i)).truncate 2 = BitVec.ofNat 2 (x.toNat / 2 ^ (2 * i) % 4) := by
  apply BitVec.eq_of_toNat_eq
  simp [BitVec.toNat_setWidth, Nat.shiftRight_eq_div_pow]

end Machine
open Machine Host

theorem teamPlacementStartsGroups : Claims.TeamPlacementStartsGroups := by
  intro s core spbase accbase lid tid l places hback hpick keys hnd
  set s1 := undefStorage { s with teams := Store.put s.teams (teamKey lid tid) (newTeam lid tid core spbase accbase) } l.desc
    (newTeam lid tid core spbase accbase)
  obtain ⟨⟨hm, ht, hl⟩, -, hg⟩ := foldl_startAt l lid tid keys s1
  refine ⟨reserveSlots (keys.foldl (startAt l lid tid) s1) (lid, l, .fresh tid) core places (tid + 1),
    congrArg Outcome.next (placeTeam_fresh hback hpick), hm, ?_, ?_, fun gidx gid row0 hx => ?_⟩
  · change (Store.find (keys.foldl (startAt l lid tid) s1).teams (teamKey lid tid)).map _ = _
    rw [ht]
    change (Store.find (Store.put s.teams _ _) _).map _ = _
    rw [Store.find_put_self]
    rfl
  · rw [reserveSlots, State.launch_updLaunch, State.launch, hl]
    change ((Store.find s.launches lid).map _).map _ = _
    rw [Option.map_map]
    rfl
  · obtain ⟨v, hv⟩ := hg hnd _ hx
    refine ⟨_, hv, ⟨rfl, rfl, rfl, rfl, rfl⟩, ?_, ⟨rfl, rfl, rfl, rfl, rfl, rfl, rfl, rfl⟩,
      ⟨rfl, rfl, fun n hn => startedGroup_vsh _ _ _ _ _ _ hn, rfl, rfl, rfl, rfl, rfl, rfl, rfl, rfl, rfl⟩,
      ⟨fun n hn => ?_, ?_, ?_, ?_, ?_, fun n h1 h2 => ?_⟩, rfl, rfl, rfl, rfl⟩
    · intro role
      have hr : (startedGroup v l lid tid gidx row0).role = BitVec.ofNat 2 role := rolemap_field ..
      have hlt : (BitVec.ofNat 2 role).toNat = role := by
        rw [BitVec.toNat_ofNat]
        exact Nat.mod_eq_of_lt (Nat.mod_lt _ (by decide))
      refine ⟨hr, ?_⟩
      rw [← hlt, ← hr]
      rfl
    · rw [startedGroup_k _ _ _ _ _ _ (by omega), startK, if_pos hn]
    iterate 4 · exact startedGroup_k _ _ _ _ _ _ (by decide)
    · rw [startedGroup_k _ _ _ _ _ _ h2]
      simp [startK, show ¬ n < 8 by omega, show n ≠ 8 by omega, show n ≠ 9 by omega, show n ≠ 10 by omega, show n ≠ 11
          by omega]

theorem teamBecomesReserving : Claims.TeamBecomesReserving := by
  intro s lid l c hl hc since
  have hex : exec (.teamReserving lid) s = .next (if (decide (s.gtc.toNat < since + 5000) || fitsAny s (lid, l, c)) =
      true then s else
      match (generalizing := false) c with
      | .fresh _ => s.updLaunch lid fun l => { l with reserving := true }
      | .back k _ => s.updTeam k fun t => { t with reserving := true }) := by
    change Outcome.next (teamReserve s lid) = _
    cases c <;> simp only [teamReserve, hl, hc] <;> rfl
  refine ⟨fun hs hf => ?_, fun hs => ?_⟩
  · rw [hex, if_neg (by simp [hf, hs])] <;> rfl
  · rw [hex, if_pos (by simp [hs])]

/-- Settles O46: the groups of a placed team are started one after another under keys of their own. -/
theorem teamsArePlaced : Obligations.TeamsArePlaced := ⟨teamPlacementStartsGroups, teamBecomesReserving⟩

end Sys2Proof
end

section
/-!
PROOFS. Platform: power, reset, clocks and windows, links and agents (R229, R230, R336, R347 to R356).
-/
namespace Sys2Proof

namespace Machine
open Host

/-! ## Power, reset, clocks and windows (R352 to R356) -/

theorem someCold_iff (n : Nat) : someCold n = true ↔ ∃ i, i < 24 ∧ (Config.reading (n + i)).toInt < -160 := by
  simp only [someCold, List.any_eq_true, List.mem_range, decide_eq_true_eq]

theorem setCore_core (s : State) (c : Nat) (x : Core) (h : Store.wf Core.init s.cores = true) (i : Nat) :
    (s.setCore c x).core i = if i = c then x else s.core i := by
  by_cases hi : i = c
  · subst hi
    exact (Store.getD_putD_self h ..).trans (if_pos rfl).symm
  · exact (Store.getD_putD_ne h _ _ hi).trans (if_neg hi).symm

/-- Cores of a die changed one after another, each from what it is. -/
def changeCores (f : Core → Core) (base : Nat) (cs : List Nat) (s : State) : State :=
  cs.foldl (fun s c => s.setCore (base + c) (f (s.core (base + c)))) s

theorem changeCores_frame (f : Core → Core) (base : Nat) (cs : List Nat) (s : State) :
    changeCores f base cs s = { s with cores := (changeCores f base cs s).cores } := by
  induction cs generalizing s with
  | nil => rfl
  | cons c cs ih => exact ih (s.setCore (base + c) (f (s.core (base + c))))

theorem changeCores_core (f : Core → Core) (base : Nat) {cs : List Nat} (hnd : cs.Nodup) {s : State}
    (h : Store.wf Core.init s.cores = true) (i : Nat) :
    (changeCores f base cs s).core i = if ∃ c ∈ cs, i = base + c then f (s.core i) else s.core i := by
  induction cs generalizing s with
  | nil => simp [changeCores]
  | cons c cs ih =>
    obtain ⟨hc, hnd⟩ := List.nodup_cons.1 hnd
    refine (ih hnd (s := s.setCore (base + c) (f (s.core (base + c)))) (Store.wf_putD h ..)).trans ?_
    rw [setCore_core _ _ _ h]
    by_cases hi : i = base + c
    · subst hi
      simp [hc]
    · simp [hi]

theorem openWindow_eq {s : State} {stack ch : Nat} (hs : stack < 16) (hc : ch < 32) (hp : s.plat.phase = 3)
    (hopen : ∀ e ∈ s.plat.channels, e.1 / 32 = stack →
      e.2.window = none ∨ ∃ t, e.2.window = some t ∧ t + 100 ≤ s.gtc.toNat)
    (hlast : (channel s (chanKey stack ch)).last = none ∨
      ∃ t, (channel s (chanKey stack ch)).last = some t ∧ t + 200000000 ≤ s.gtc.toNat) :
    openWindow s stack ch = setChannel s (chanKey stack ch) { channel s (chanKey stack ch) with
      window := some s.gtc.toNat, last := some s.gtc.toNat,
      windows := ((channel s (chanKey stack ch)).windows + 1) % 2 ^ 32 } := by
  have hsoon : (match (channel s (chanKey stack ch)).last with
      | some t => decide (s.gtc.toNat < t + 200000000) | none => false) = false := by
    rcases hlast with h | ⟨t, h, ht⟩
    · rw [h]
    · rw [h]
      exact decide_eq_false (by omega)
  have htaken : (s.plat.channels.any fun x => x.1 / 32 == stack &&
      (match x.2.window with | some t => decide (s.gtc.toNat < t + 100) | none => false)) = false := by
    refine List.any_eq_false.2 fun e he => ?_
    by_cases hk : e.1 / 32 = stack
    · rcases hopen e he hk with h | ⟨t, h, ht⟩
      · simp [h]
      · simp [h, show ¬ s.gtc.toNat < t + 100 by omega]
    · simp [hk]
  rw [openWindow]
  refine if_neg ?_
  rintro (h | h | h | h | h)
  · omega
  · omega
  · exact h hp
  · exact Bool.false_ne_true (hsoon.symm.trans h)
  · exact Bool.false_ne_true (htaken.symm.trans h)

theorem closeWindow_open {s : State} {stack ch : Nat} (hs : stack < 16) (hc : ch < 32)
    (hw : (channel s (chanKey stack ch)).window ≠ none) (ok : Bool) :
    closeWindow s stack ch ok =
      if ok then setChannel s (chanKey stack ch) { channel s (chanKey stack ch) with window := none, fails := 0 }
      else if (channel s (chanKey stack ch)).fails = 2 ∧ !(channel s (chanKey stack ch)).failed then
        postFault (setChannel s (chanKey stack ch) { channel s (chanKey stack ch) with window := none, fails := 3, failed := true })
          { die := stack / 2, kind := 3, lid := 0, who := 0, detail := 0, addr := 0, info := 0 }
      else setChannel s (chanKey stack ch) { channel s (chanKey stack ch) with
        window := none, fails := (channel s (chanKey stack ch)).fails + 1 } := by
  rw [closeWindow]
  refine if_neg ?_
  rintro (h | h | h)
  · omega
  · omega
  · exact hw (Option.isNone_iff_eq_none.1 h)

end Machine
open Machine Host

/-- Settles O25: each event changes the field that its clause names; the channels' windows open and close one by one. -/
theorem platformEvents : Obligations.PlatformEvents := by
  intro s core level die stack ch base temp phase at_ c k x put
  refine ⟨fun h0 => ⟨_, congrArg Outcome.next (if_neg (not_not.2 h0)), rfl, ?_, ?_⟩, fun h1 => ⟨fun hcold => ?_, fun
      hcold => ?_⟩,
    fun h2 => congrArg Outcome.next (if_pos h2), rfl, fun hlo hhi => ⟨fun hd ht => ?_, fun hs ht => ?_⟩,
    fun hcore => ⟨congrArg Outcome.next (if_neg (by omega)), fun hl hp ht => congrArg Outcome.next (if_neg ?_)⟩,
    fun hd => ⟨fun ht hwf => ?_, fun ht => congrArg Outcome.next (if_neg (by omega))⟩,
    fun hs ht => congrArg Outcome.next (if_neg (by omega)),
    fun hs hc => ⟨fun hp hopen hlast => congrArg Outcome.next (openWindow_eq hs hc hp hopen hlast), fun hw => ⟨?_, ?_,
        ?_⟩⟩,
    fun hl => ?_, fun hl => ?_, fun hb hlo hhi => congrArg Outcome.next (if_pos ⟨hb, by omega, by omega⟩)⟩
  · refine Iff.trans ?_ (someCold_iff s.free)
    dsimp only
    split <;> simp_all
  · dsimp only
    split <;> simp_all
  · refine congrArg Outcome.next ((if_neg (not_not.2 h1)).trans ?_)
    rw [(someCold_iff s.free).2 hcold, if_pos rfl, ← h1]
  · refine congrArg Outcome.next ((if_neg (not_not.2 h1)).trans ?_)
    rw [if_neg fun h => hcold ((someCold_iff s.free).1 h)]
  · refine congrArg Outcome.next (if_neg ?_)
    simp [hd, ht, show s.plat.phase ≠ 0 by omega, show s.plat.phase ≠ 4 by omega]
  · refine congrArg Outcome.next (if_neg ?_)
    simp [hs, ht, show s.plat.phase ≠ 0 by omega, show s.plat.phase ≠ 4 by omega]
  · rintro (h | h | h | ⟨h, h'⟩)
    · omega
    · omega
    · exact h hp
    · exact ht.elim (fun e => Bool.false_ne_true (e.symm.trans h)) h'
  · refine ⟨changeCores (fun c => { c with level := 0 }) (48 * die) (List.range 48)
      { s with plat := { s.plat with throttled := s.plat.throttled ||| BitVec.ofNat 8 (2 ^ die) } },
      congrArg Outcome.next (if_neg (by omega)), ?_, fun i => ?_⟩
    · rw [changeCores_frame]
    · refine (changeCores_core _ _ List.nodup_range (by exact hwf) i).trans ?_
      have hi : (∃ c ∈ List.range 48, i = 48 * die + c) ↔ i / 48 = die := by
        simp only [List.mem_range]
        exact ⟨fun ⟨c, hc, e⟩ => by omega, fun e => ⟨i % 48, by omega, by omega⟩⟩
      simp only [hi]
      rfl
  · exact congrArg Outcome.next ((closeWindow_open hs hc hw true).trans (if_pos rfl))
  · intro hf
    exact congrArg Outcome.next ((closeWindow_open hs hc hw false).trans
      ((if_neg Bool.false_ne_true).trans (if_neg fun h => hf h.1)))
  · intro hf hfailed
    exact congrArg Outcome.next ((closeWindow_open hs hc hw false).trans
      ((if_neg Bool.false_ne_true).trans (if_pos ⟨hf, by
        have hx : (channel s (chanKey stack ch)).failed = false := hfailed
        rw [hx]
        rfl⟩)))
  · exact congrArg Outcome.next (if_neg (by simp [hl]))
  · exact congrArg Outcome.next (if_pos (by simpa using hl))

namespace Machine
open Host

/-! ## Links and agents (R229, R230, R349, R351) -/

theorem offMem_giveBack (s : State) (line : Nat) (data : Option LineData) : offMem (giveBack s line data) = offMem s
    := by
  unfold giveBack
  split
  · exact (offMem_writeMem s _ _ :)
  · exact (offMem_writeMem s _ _ :)
  · rfl

/-- What an answer to a snoop may do to the line's elytron bits, its data and its slice copy. -/
theorem snooped_cases (s : State) (line a : Nat) (x : Snoop) (data : Option LineData) :
    ∃ e, snooped s line a x data = s ∨ snooped s line a x data = setEly s line e ∨
      snooped s line a x data = setEly (giveBack s line data) line e ∨
      ∃ d, data = some d ∧
        snooped s line a x data = setEly { s with slices := Store.put s.slices line ⟨d, false, false⟩ } line e := by
  unfold snooped
  dsimp only
  cases lineState s line
  case shared =>
    dsimp only
    split
    · exact ⟨_, .inr (.inl rfl)⟩
    · exact ⟨0, .inl rfl⟩
  case exclusive =>
    dsimp only
    split
    · exact ⟨0, .inl rfl⟩
    · split <;> exact ⟨_, .inr (.inr (.inl rfl))⟩
  case owned =>
    dsimp only
    split
    · exact ⟨0, .inl rfl⟩
    · split
      · exact ⟨_, .inr (.inr (.inl rfl))⟩
      · cases x.keep <;> cases data
        case true.none => exact ⟨0, .inl rfl⟩
        all_goals exact ⟨_, .inr (.inr (.inl rfl))⟩
  case modified =>
    dsimp only
    split
    · exact ⟨0, .inl rfl⟩
    · split
      · exact ⟨_, .inr (.inr (.inl rfl))⟩
      · cases x.keep <;> cases data
        case false.some => exact ⟨_, .inr (.inr (.inl rfl))⟩
        case true.some => exact ⟨_, .inr (.inr (.inr ⟨_, rfl, rfl⟩))⟩
        all_goals exact ⟨_, .inr (.inl rfl)⟩
  all_goals exact ⟨0, .inl rfl⟩

theorem offMem_snooped (s : State) (line a : Nat) (x : Snoop) (data : Option LineData) :
    offMem (snooped s line a x data) = offMem s := by
  obtain ⟨e, h | h | h | ⟨d, -, h⟩⟩ := snooped_cases s line a x data <;> rw [h]
  · rfl
  · exact offMem_giveBack s line data
  · rfl

theorem writeMem_slices (s : State) (pa : Nat) (bs : List Byte) : (writeMem s pa bs).slices = s.slices := by
  obtain ⟨c, e, p, h, -⟩ := writeMem_cases s pa bs
  rw [h]

theorem logLoss_slices (s : State) (line kind a : Nat) (inc : BitVec 2) : (logLoss s line kind a inc).slices =
    s.slices := by
  unfold logLoss
  dsimp only
  split
  · rfl
  · exact writeMem_slices s _ _

theorem mediaHit_slices (s : State) (line : Nat) : (mediaHit s line).slices = s.slices := by
  unfold mediaHit
  dsimp only
  split
  · rfl
  · split <;> split
    · exact logLoss_slices _ line 2 0 _
    · exact logLoss_slices _ line 2 0 _
    · rfl
    · rfl

theorem channelGone_mediaRead_slices (s : State) (line : Nat) : (channelGone (mediaRead s line) line).slices =
    s.slices := by
  have hm : (mediaRead s line).slices = s.slices := by
    unfold mediaRead
    split
    case h_5 => rfl
    all_goals exact mediaHit_slices s line
  unfold channelGone
  split
  · exact (logLoss_slices _ line 2 0 _).trans hm
  · exact hm

/-- Meeting a line's reading takes at most that line's copy out of the slices. -/
theorem resolve_slices (s : State) (line : Nat) :
    (resolve s line).slices = s.slices ∨ (resolve s line).slices = Store.del s.slices line := by
  have h := channelGone_mediaRead_slices s line
  unfold resolve
  split
  · exact .inl rfl
  · dsimp only
    split
    · split <;> exact .inl h
    · split
      · split
        · exact .inr (congrArg (Store.del · line) h)
        · exact .inl h
      · exact .inl h
    · split
      · exact .inl ((logLoss_slices _ line 1 _ _).trans h)
      · exact .inl h
    · exact .inl h

theorem giveBack_slices (s : State) (line : Nat) (data : Option LineData) :
    (giveBack s line data).slices = Store.del s.slices line := by
  unfold giveBack
  split
  · exact congrArg (Store.del · line) (writeMem_slices s _ _)
  · exact congrArg (Store.del · line) (writeMem_slices s _ _)
  · rfl

/-- An answer without data takes at most that line's copy out of the slices. -/
theorem snooped_none_slices (s : State) (line a : Nat) (x : Snoop) :
    (snooped s line a x none).slices = s.slices ∨ (snooped s line a x none).slices = Store.del s.slices line := by
  obtain ⟨e, h | h | h | ⟨d, hd, h⟩⟩ := snooped_cases s line a x none
  · exact .inl (congrArg State.slices h)
  · exact .inl ((congrArg State.slices h).trans rfl)
  · exact .inr ((congrArg State.slices h).trans (giveBack_slices s line none))
  · cases hd

theorem mem_of_kept_or_del {t s : List (Nat × SliceLine)} {line : Nat} (h : t = s ∨ t = Store.del s line)
    {d : Nat × SliceLine} (hd : d ∈ t) : d ∈ s := by
  rcases h with rfl | rfl
  · exact hd
  · exact Store.mem_del hd

/-- An outstanding snoop of a failed agent counts as not held. -/
def forgetSnoop (a : Nat) (s : State) (x : Snoop) : State :=
  if inHbm (128 * x.line) && !inHostBias (resolve s x.line) x.line && !inWindow (resolve s x.line) x.line then
    snooped (resolve s x.line) x.line a x none
  else resolve s x.line

theorem forgetAgent_eq (s : State) (a : Nat) : forgetAgent s a = (s.snoops.filter fun x => x.agent == a).foldl
    (forgetSnoop a)
    { s with
      snoops := s.snoops.filter fun x => x.agent != a,
      reqs := s.reqs.filter fun r => match r.2.kind with | .ext b _ => b != a | _ => true,
      slices := s.slices.filter fun d => paKind s (128 * d.1) != .peer a } := rfl

theorem forgetSnoop_frame (a : Nat) (s : State) (x : Snoop) :
    offMem (forgetSnoop a s x) = offMem s ∧ ∀ d ∈ (forgetSnoop a s x).slices, d ∈ s.slices := by
  have hr := resolve_slices s x.line
  unfold forgetSnoop
  split
  · exact ⟨(offMem_snooped ..).trans (offMem_resolve ..), fun d hd =>
      mem_of_kept_or_del hr (mem_of_kept_or_del (snooped_none_slices _ _ a x) hd)⟩
  · exact ⟨offMem_resolve .., fun d hd => mem_of_kept_or_del hr hd⟩

theorem foldl_forgetSnoop_frame (a : Nat) (xs : List Snoop) (s : State) :
    offMem (xs.foldl (forgetSnoop a) s) = offMem s ∧ ∀ d ∈ (xs.foldl (forgetSnoop a) s).slices, d ∈ s.slices := by
  induction xs generalizing s with
  | nil => exact ⟨rfl, fun _ h => h⟩
  | cons x xs ih =>
    obtain ⟨h1, h2⟩ := forgetSnoop_frame a s x
    obtain ⟨h3, h4⟩ := ih (forgetSnoop a s x)
    exact ⟨h3.trans h1, fun d hd => h2 d (h4 d hd)⟩

/-- What a failed agent leaves of the machine outside memory and its lines. -/
theorem offMem_declareFailed (s : State) (a : Nat) : offMem (declareFailed s a) =
    offMem { s with
      agents := vset s.agents a { agent s a with down := true }, mbox := { s.mbox with events := s.mbox.events ++ [a] },
      snoops := s.snoops.filter fun x => x.agent != a,
      reqs := s.reqs.filter fun r => match r.2.kind with | .ext b _ => b != a | _ => true } := by
  rw [declareFailed, forgetAgent_eq]
  exact (foldl_forgetSnoop_frame a _ _).1

theorem declareFailed_slices (s : State) (a : Nat) :
    ∀ d ∈ (declareFailed s a).slices, d ∈ s.slices ∧ paKind s (128 * d.1) ≠ .peer a := by
  intro d hd
  rw [declareFailed, forgetAgent_eq] at hd
  obtain ⟨h1, h2⟩ := List.mem_filter.1 ((foldl_forgetSnoop_frame a _ _).2 d hd)
  exact ⟨h1, by simpa using (show (paKind s (128 * d.1) != .peer a) = true from h2)⟩

theorem declareFailed_agent (s : State) {a : Nat} (ha : a < 8) : (agent (declareFailed s a) a).down = true := by
  have h : (declareFailed s a).agents = vset s.agents a { agent s a with down := true } :=
    (congrArg State.agents (offMem_declareFailed s a) :)
  rw [agent, h, vget_vset_self _ ha]

theorem declareFailed_links (s : State) (a : Nat) : (declareFailed s a).links = s.links :=
  (congrArg State.links (offMem_declareFailed s a) :)

theorem declareFailed_swarm (s : State) (a : Nat) : (declareFailed s a).swarm = s.swarm :=
  (congrArg State.swarm (offMem_declareFailed s a) :)

end Machine

namespace Machine
open Host

/-! ## What reading a line may count (R237, R238, R356) -/

/-- The platform's record without what reading and merging of lines count. -/
def platBase (s : State) : Platform := { s.plat with corr := [], merge := [], dead := [] }

theorem platBase_sealSector (s : State) (lo hi k : Nat) : platBase (sealSector s lo hi k) = platBase s := by
  unfold sealSector
  split
  · rfl
  · split <;> rfl

theorem platBase_foldl_sealSector (lo hi : Nat) (ks : List Nat) (s : State) :
    platBase (ks.foldl (fun s k => sealSector s lo hi k) s) = platBase s := by
  induction ks generalizing s with
  | nil => rfl
  | cons k ks ih => exact (ih _).trans (platBase_sealSector s lo hi k)

theorem platBase_writeMemAs (s : State) (whole : Bool) (pa : Nat) (bs : List Byte) :
    platBase (writeMemAs s whole pa bs) = platBase s := by
  unfold writeMemAs
  split
  · rfl
  · exact platBase_foldl_sealSector ..

theorem platBase_writeMem (s : State) (pa : Nat) (bs : List Byte) : platBase (writeMem s pa bs) = platBase s :=
  platBase_writeMemAs s true pa bs

theorem platBase_logLoss (s : State) (line kind a : Nat) (inc : BitVec 2) :
    platBase (logLoss s line kind a inc) = platBase s := by
  unfold logLoss
  dsimp only
  split
  · rfl
  · exact platBase_writeMem s _ _

theorem platBase_mediaHit (s : State) (line : Nat) : platBase (mediaHit s line) = platBase s := by
  unfold mediaHit
  dsimp only
  split
  · rfl
  · split <;> split
    · exact platBase_logLoss _ line 2 0 _
    · exact platBase_logLoss _ line 2 0 _
    · rfl
    · rfl

theorem platBase_channelGone_mediaRead (s : State) (line : Nat) :
    platBase (channelGone (mediaRead s line) line) = platBase s := by
  have hm : platBase (mediaRead s line) = platBase s := by
    unfold mediaRead
    split
    case h_5 => rfl
    all_goals exact platBase_mediaHit s line
  unfold channelGone
  split
  · exact (platBase_logLoss _ line 2 0 _).trans hm
  · exact hm

theorem platBase_resolve (s : State) (line : Nat) : platBase (resolve s line) = platBase s := by
  have h := platBase_channelGone_mediaRead s line
  unfold resolve
  split
  · rfl
  · dsimp only
    split
    · split <;> exact h
    · split
      · split
        · exact (platBase_writeMem _ _ _).trans h
        · exact h
      · exact h
    · split
      · exact (platBase_logLoss _ line 1 _ _).trans h
      · exact h
    · exact h

theorem inWindow_congr {s t : State} (hp : platBase t = platBase s) (hg : t.gtc = s.gtc) (line : Nat) :
    inWindow t line = inWindow s line := by
  have hc : t.plat.channels = s.plat.channels := (congrArg Platform.channels hp :)
  simp only [inWindow, hc, hg]

theorem inWindow_resolve (s : State) (l line : Nat) : inWindow (resolve s l) line = inWindow s line :=
  inWindow_congr (platBase_resolve s l) (congrArg State.gtc (offMem_resolve s l) :) line

theorem foldl_resolve_inWindow (ls : List Nat) (s : State) (line : Nat) :
    inWindow (ls.foldl resolve s) line = inWindow s line := by
  induction ls generalizing s with
  | nil => rfl
  | cons l ls ih => exact (ih _).trans (inWindow_resolve s l line)

theorem foldl_resolve_agents (ls : List Nat) (s : State) : (ls.foldl resolve s).agents = s.agents :=
  (congrArg State.agents (offMem_foldl_resolve id ls s) :)

/-- The lines that name an agent as a holder. -/
def linesNaming (s : State) (a : Nat) : List Nat := (s.ely.filter fun e => (elyAgents e.2).getLsbD a).map (·.1)

theorem linesNaming_any (s : State) (a : Nat) : (linesNaming s a).any (inWindow s) = true ↔
    ∃ e ∈ s.ely, (elyAgents e.2).getLsbD a = true ∧ inWindow s e.1 = true := by
  simp only [linesNaming, List.any_map, List.any_eq_true, List.mem_filter, Function.comp_apply, and_assoc]

theorem vset_vset {α : Type} {n : Nat} (v : Vector α n) (i : Nat) (x y : α) : vset (vset v i x) i y = vset v i y := by
  unfold vset
  ext j hj
  simp only [Vector.getElem_setIfInBounds]
  split <;> rfl

theorem scrub_eq (s : State) (a : Nat) : scrub s a =
    let u := (linesNaming s a).foldl resolve s
    if (linesNaming s a).any (inWindow s) then (u, false)
    else ({ u with agents := vset s.agents a { agent s a with scrub := (agent s a).inc } }, true) := by
  have hany : (linesNaming s a).any (inWindow ((linesNaming s a).foldl resolve s)) = (linesNaming s a).any (inWindow
      s) :=
    congrArg (linesNaming s a).any (funext fun line => foldl_resolve_inWindow _ s line)
  have hag := foldl_resolve_agents (linesNaming s a) s
  change (if (linesNaming s a).any (inWindow ((linesNaming s a).foldl resolve s)) then _ else _) = _
  rw [hany]
  dsimp only
  split
  · rfl
  · have ha : agent ((linesNaming s a).foldl resolve s) a = agent s a := congrArg (vget · a) hag
    refine congrArg (fun x => ({ (linesNaming s a).foldl resolve s with agents := x }, true)) ?_
    change vset ((linesNaming s a).foldl resolve s).agents a { agent ((linesNaming s a).foldl resolve s) a with
      scrub := (agent ((linesNaming s a).foldl resolve s) a).inc } = _
    rw [ha, hag]

/-- A rejoin: the incarnation advances, once the lines that name the agent are scrubbed where they must be. -/
theorem agentRejoins_eq {s : State} {a : Nat} (h1 : 1 ≤ a) (h8 : a < 8) (hd : (agent s a).down = true) :
    agentRejoins s a =
      let u := (linesNaming s a).foldl resolve s
      if (agent s a).inc + 1 = (agent s a).scrub then
        if (linesNaming s a).any (inWindow s) then u
        else
          let x := { agent s a with inc := (agent s a).inc + 1, down := false, scrub := (agent s a).inc }
          { u with agents := vset s.agents a x }
      else { s with agents := vset s.agents a { agent s a with inc := (agent s a).inc + 1, down := false } } := by
  have hgo : ¬(a = 0 ∨ 8 ≤ a ∨ (!(agent s a).down) = true) := by
    simp only [hd, Bool.not_true, Bool.false_eq_true, or_false]
    omega
  rw [agentRejoins, if_neg hgo]
  dsimp only
  by_cases he : (agent s a).inc + 1 = (agent s a).scrub
  · rw [if_pos (by simpa using he), if_pos he, scrub_eq]
    dsimp only
    by_cases hw : (linesNaming s a).any (inWindow s) = true
    · rw [if_pos hw, if_pos hw]
    · rw [if_neg hw, if_neg hw]
      have hset : ∀ x : Agent, agent ({ (linesNaming s a).foldl resolve s with agents := vset s.agents a x } : State) a = x :=
        fun x => vget_vset_self _ h8 x
      dsimp only
      rw [hset, vset_vset]
  · rw [if_neg (by simpa using he), if_neg he]

theorem agentFails_eq {s : State} {a : Nat} (h1 : 1 ≤ a) (h8 : a < 8) (hd : (agent s a).down = false)
    (hl : linksOf s a ≠ []) : agentFails s a =
      if (linksOf s a).all fun l => l.state == 0 && decide (l.downAt + 1000000 ≤ s.gtc.toNat) then
        (declareFailed s a).emit (.failure a)
      else s := by
  rw [agentFails, if_neg (by omega), if_neg (by simp [hd, hl]; omega)]

theorem hostFails_swarm (s : State) : (hostFails s).swarm = none := by
  rw [hostFails, declareFailed_swarm]

theorem hostFails_links (s : State) {i : Nat} (hi : i < 12) : (vget (hostFails s).links i).state = 5 := by
  rw [hostFails, declareFailed_links, vget_vtab _ hi]

theorem hostFails_agent (s : State) : (agent (hostFails s) 0).down = true := by
  rw [hostFails]
  exact declareFailed_agent _ (by decide)

theorem setLinks_vget {s : State} {w : Swarm} (hw : s.swarm = some w) {a i : Nat} (hi : i < 12) (f : Link → Link) :
    vget (setLinks s a f).links i = if w.table[i]?.getD none = some a then f (vget s.links i) else vget s.links i := by
  simp only [setLinks, hw]
  rw [vget_vtab _ hi]
  simp only [beq_iff_eq, nthD]

end Machine
end Sys2Proof
namespace Sys2Proof
open Machine Host

/-- Settles O24: a failed agent's lines and snoops are forgotten one by one, which touches no link or swarm. -/
theorem linksAndAgents : Obligations.LinksAndAgents := by
  intro s pl a hpl l link up
  have hpl' : ¬ 12 ≤ pl := by omega
  refine ⟨fun hup => ⟨?_, ?_⟩, fun hst => ?_, fun h1 h8 hd hl => ⟨fun hall => ?_, fun hex => ?_⟩, fun h1 h8 hp hd =>
      ?_, fun w hw => ?_,
    fun u h8 => ⟨?_, declareFailed_agent u h8, fun d hd _ => (declareFailed_slices u a d hd).2, ?_, ?_⟩, ?_⟩
  · exact congrArg Outcome.next ((if_neg hpl').trans (congrArg link (if_neg (by
      have h := hup; simp only [up] at h; tauto))))
  · exact congrArg Outcome.next ((if_neg hpl').trans (congrArg link (if_neg (by
      have h := hup; simp only [up] at h; tauto))))
  · exact congrArg Outcome.next ((if_neg hpl').trans (congrArg link (if_pos hst)))
  · exact congrArg Outcome.next ((agentFails_eq h1 h8 hd hl).trans (if_pos (List.all_eq_true.2 fun x hx => by
      simpa using hall x hx)))
  · refine congrArg Outcome.next ((agentFails_eq h1 h8 hd hl).trans (if_neg fun h => ?_))
    obtain ⟨x, hx, hst⟩ := hex
    have := List.all_eq_true.1 h x hx
    simp only [Bool.and_eq_true, beq_iff_eq, decide_eq_true_eq] at this
    omega
  · refine ⟨declareFailed (setLinks s a fun l => if l.state = 0 then l else { l with state := 0, downAt := s.gtc.toNat }) a,
      congrArg Outcome.next ?_, declareFailed_agent _ h8, fun w i hw hi ht => ?_⟩
    · rw [failureNotice, if_neg (by omega), if_neg (by simp [hp, hd]; omega)]
    · rw [declareFailed_links, setLinks_vget hw hi, if_pos ht]
      split
      · assumption
      · rfl
  · have hsome : s.swarm.isSome = true := by rw [hw]; rfl
    refine ⟨hostFails s, congrArg Outcome.next ?_, congrArg Outcome.next ?_, ?_, fun i hi => ?_, ?_⟩
    · rw [agentFails, if_pos rfl, if_pos hsome]
    · rw [failureNotice, if_pos rfl, if_pos hsome]
    · exact hostFails_swarm s
    · exact hostFails_links s hi
    · exact hostFails_agent s
  · exact (congrArg State.mbox (offMem_declareFailed u a) :)
  · intro r hr what hk
    have h : (declareFailed u a).reqs = _ := (congrArg State.reqs (offMem_declareFailed u a) :)
    rw [h] at hr
    have := (List.mem_filter.1 hr).2
    rw [hk] at this
    simp at this
  · intro x hx
    have h : (declareFailed u a).snoops = _ := (congrArg State.snoops (offMem_declareFailed u a) :)
    rw [h] at hx
    simpa using (List.mem_filter.1 hx).2
  · intro h1 h8 hd held
    refine ⟨agentRejoins s a, rfl, fun hne => ?_, fun he hheld => ?_, fun he hheld => ?_⟩
    · rw [agentRejoins_eq h1 h8 hd, if_neg hne]
    · rw [agentRejoins_eq h1 h8 hd, if_pos he, if_pos ((linesNaming_any s a).2 hheld)]
      exact congrArg (vget · a) (foldl_resolve_agents ..)
    · rw [agentRejoins_eq h1 h8 hd, if_pos he, if_neg fun h => hheld ((linesNaming_any s a).1 h)]
      exact vget_vset_self _ h8 _

end Sys2Proof
end

section
/-!
PROOFS. Mailbox: the gate, the setting commands, firmware and identity, TELEMETRY, RESYNC and DEBUG (R341 to R348, R357, R359).
-/
namespace Sys2Proof

namespace Machine
open Host

/-! ## The mailbox (R341, R342, R352) -/

theorem command_busy {s : State} (always : Bool) (k : State → State) (h : s.plat.phase = 1 ∨ s.plat.phase = 2) :
    command s always k = busy s := by
  rcases h with h | h <;> simp only [command, h]

theorem command_off {s : State} (always : Bool) (k : State → State) (h : s.plat.phase = 0 ∨ s.plat.phase = 4) :
    command s always k = s := by
  rcases h with h | h <;> simp only [command, h]

theorem command_ready {s : State} (always : Bool) (k : State → State) (h : s.plat.phase = 3) :
    command s always k = if s.mbox.held then s else if s.mbox.bg.isSome && !always then busy s else k s := by
  simp only [command, h]

theorem command_held {s : State} (always : Bool) (k : State → State) (h : s.plat.phase = 3) (hh : s.mbox.held = true) :
    command s always k = s := by
  rw [command_ready always k h, if_pos hh]

theorem command_free {s : State} (always : Bool) (k : State → State) (h : MailboxFree s) : command s always k = k s := by
  obtain ⟨h3, hb, hh⟩ := h
  rw [command_ready always k h3, if_neg (by simp [hh]), if_neg (by simp [hb])]

theorem dbg_none_of_held {s : State} (h : s.mbox.held = false) : s.mbox.dbg = none := by
  simp only [Mailbox.held, Bool.or_eq_false_iff, Option.isSome_eq_false_iff, Option.isNone_iff_eq_none] at h
  exact h.1

theorem sync_none_of_held {s : State} (h : s.mbox.held = false) : s.mbox.sync = none := by
  simp only [Mailbox.held, Bool.or_eq_false_iff, Option.isSome_eq_false_iff, Option.isNone_iff_eq_none] at h
  exact h.2

theorem mailboxCommand_exec {i : Instr} (h : mailboxCommand i = true) : ∃ k, ∀ s, exec i s = .next (command s false k) := by
  cases i <;> cases h <;> exact ⟨_, fun _ => rfl⟩

theorem exec_resync_command {s : State} {p n : Nat} (h : s.mbox.sync ≠ some (p, n)) :
    exec (.resync p n) s = .next (command s true fun s => resync s p n) :=
  congrArg Outcome.next (if_neg (by simpa using h))

theorem debugRange_command {s : State} (p n : Nat) (write : Bool) (bs : List Byte) (h : s.mbox.dbg = none) :
    ∃ k, debugRange s p n write bs = command s true k := by
  rw [debugRange, h]
  exact ⟨_, rfl⟩

/-- Every command of the mailbox goes through its gate while no DEBUG or RESYNC is under way. -/
theorem mailbox_exec {s : State} {i : Instr} (hi : mailboxCommand i = true ∨ (∃ p n, i = .resync p n) ∨
    (∃ w, i = .debugRead w) ∨ (∃ w b, i = .debugWrite w b)) (h : s.mbox.held = false) :
    ∃ always k, exec i s = .next (command s always k) := by
  have hd := dbg_none_of_held h
  rcases hi with hi | ⟨p, n, rfl⟩ | ⟨w, rfl⟩ | ⟨w, b, rfl⟩
  · obtain ⟨k, hk⟩ := mailboxCommand_exec hi
    exact ⟨false, k, hk s⟩
  · exact ⟨true, _, exec_resync_command (by rw [sync_none_of_held h]; exact nofun)⟩
  · cases w with
    | core die c => exact ⟨true, _, rfl⟩
    | range p n =>
      obtain ⟨k, hk⟩ := debugRange_command p n false [] hd
      exact ⟨true, k, congrArg Outcome.next hk⟩
  · cases w with
    | core die c => exact ⟨true, _, rfl⟩
    | range p n =>
      by_cases hb : b.length = n
      · obtain ⟨k, hk⟩ := debugRange_command p n true b hd
        exact ⟨true, k, congrArg Outcome.next ((if_pos hb).trans hk)⟩
      · exact ⟨true, _, congrArg Outcome.next (if_neg hb)⟩

end Machine
open Machine Host

theorem mailboxGate : Claims.MailboxGate := by
  intro s i hi
  refine ⟨fun hh => ⟨fun hp => ?_, fun hp => ?_, fun hp hbg hm => ?_, fun op hop hf => ?_⟩, fun hp hh hc => ?_, fun hp
      hh op => ?_⟩
  · obtain ⟨a, k, hk⟩ := mailbox_exec hi hh
    exact hk.trans (congrArg Outcome.next (command_busy a k hp))
  · obtain ⟨a, k, hk⟩ := mailbox_exec hi hh
    exact hk.trans (congrArg Outcome.next (command_off a k hp))
  · obtain ⟨k, hk⟩ := mailboxCommand_exec hm
    rw [hk, command_ready false k hp, if_neg (by simp [hh]), if_pos (by simpa [Option.isSome_iff_ne_none] using hbg)]
    rfl
  · rw [otherCommand, if_neg (by omega), command_free _ _ hf]
    rfl
  · rcases hc with hc | ⟨p, n, rfl, hs⟩ | ⟨die, c, rfl⟩ | ⟨die, c, b, rfl⟩
    · obtain ⟨k, hk⟩ := mailboxCommand_exec hc
      rw [hk, command_held false k hp hh]
    · rw [exec_resync_command hs, command_held _ _ hp hh]
    · exact congrArg Outcome.next (command_held _ _ hp hh)
    · exact congrArg Outcome.next (command_held _ _ hp hh)
  · rw [otherCommand]
    split
    · rfl
    · exact command_held _ _ hp hh

namespace Machine
open Host

/-! ## The setting commands -/

theorem check_ok {s : State} {ok : Bool} (k : State → State) (h : ok = true) : check s ok k = returned (k s) .success [] :=
  if_pos h

theorem check_bad {s : State} {ok : Bool} (k : State → State) (h : ok = false) :
    check s ok k = returned s .invalidInput [] :=
  if_neg (by simp [h])

theorem find_replanCopies {s : State} {c : Copy} {id : Nat} (hc : Store.find s.copies id = some c) (hp : c.placed = true)
    (hs : c.state ≠ .running) : Store.find (replanCopies s).copies id = some { c with
      placed := false, want := [], vmap := c.vmap.filter fun e => c.held.contains e.2.1 } := by
  have hr : (c.state == .running) = false := by simpa using hs
  refine (Store.find_map s.copies (fun k (x : Copy) => if x.placed then x.replan (x.state == .running &&
    (match x.want with | l :: _ => s.waits.contains (l, k) | [] => false)) else x) id).trans ?_
  rw [hc]
  simp only [Option.map_some, hp, if_true, hr, Bool.false_and, Copy.replan, Bool.false_eq_true, if_false,
    List.contains_nil, Bool.or_false]

theorem featMask_ok (die : Nat) (b : W64) : (decide (die < 8) && b >>> 3 == 0) = true ↔ die < 8 ∧ b.toNat < 8 := by
  rw [Bool.and_eq_true, decide_eq_true_eq, beq_iff_eq, BitVec.toNat_eq]
  simp only [BitVec.toNat_ushiftRight, Nat.shiftRight_eq_div_pow]
  exact and_congr_right fun _ => by simp [Nat.div_eq_zero_iff]

end Machine
open Machine Host

theorem settingsTakeEffect : Claims.SettingsTakeEffect := by
  intro s hf ok no
  have good : ∀ (b : Bool) (k : State → State), b = true →
      command s false (fun s => check s b k) = returned (k s) .success [] := fun b k h =>
    (command_free _ _ hf).trans (check_ok k h)
  have bad : ∀ (b : Bool) (k : State → State), b = false →
      command s false (fun s => check s b k) = returned s .invalidInput [] := fun b k h =>
    (command_free _ _ hf).trans (check_bad k h)
  refine ⟨fun lam => ⟨fun h => congrArg Outcome.next (good _ _ (by simp [h])), fun h => congrArg Outcome.next (bad _ _ (by simp; omega))⟩,
    fun base size hb hs => ⟨fun h0 => ?_, fun h0 h1 h2 h3 => ?_⟩,
    fun id root => ⟨fun h => ?_, fun hi hr hh => ⟨fun hno => ?_, fun hex => ?_⟩⟩,
    ?_, fun asp lo hi ha hl hh => ?_, fun u c id hc hp hst => ?_, fun base hb => ?_, fun base n hb hn hl hno => ?_,
    fun die cores va hd h0 h4 h57 => ?_, fun die cores va h => ?_, fun die b => ⟨fun hd hb => ?_, fun h => ?_⟩,
    fun index pa size flags => ⟨fun hi hp => congrArg Outcome.next (good _ _ (by simp [hi]; omega)), fun h => congrArg Outcome.next (bad _ _ (by simp; omega))⟩,
    fun pos n table => ⟨fun h => ?_, fun h => ?_⟩,
    fun die stack first count clear => ⟨fun h => ?_, fun hd hs hc hfc => ?_⟩⟩
  · refine congrArg Outcome.next ((good _ _ (by simp [hb, hs, h0])).trans ?_)
    rw [if_pos h0]
  · refine congrArg Outcome.next ((good _ _ (by simp [hb, hs, h1, h2, h3])).trans ?_)
    rw [if_neg h0]
  · exact congrArg Outcome.next ((command_free _ _ hf).trans (if_pos (by simpa using h)))
  · refine congrArg Outcome.next ((command_free _ _ hf).trans ((if_neg (by simp [hr, hh]; omega)).trans (if_neg ?_)))
    simpa using hno
  · refine congrArg Outcome.next ((command_free _ _ hf).trans ((if_neg (by simp [hr, hh]; omega)).trans (if_pos ?_)))
    simpa using hex
  · refine congrArg Outcome.next ((good _ _ rfl).trans ?_)
    have hnil : s.tlb.filter (fun e => !TlbScope.names .all e) = [] := List.filter_eq_nil_iff.2 fun e _ => by
      simp [TlbScope.names]
    rw [hnil]
  · exact congrArg Outcome.next (good _ _ (by simp [TlbScope.ok, ha, hl]; omega))
  · exact find_replanCopies hc hp hst
  · exact congrArg Outcome.next (good _ _ (by simpa [slotSize] using hb))
  · refine congrArg Outcome.next ((good _ _ (by simpa [slotSize] using ⟨hb, .inr hl⟩)).trans ?_)
    have hnil : (List.range n).filter (fun i => s.teams.any fun t => t.2.slot == some (base + slotSize * i)) = [] := by
      refine List.filter_eq_nil_iff.2 fun i _ h => ?_
      obtain ⟨t, ht, he⟩ := List.any_eq_true.1 h
      simp [hno t ht] at he
    rw [hnil]
  · have hok : (decide (die < 8) && decide (va != 0) && va % 4 == 0 && decide (va < 2 ^ 57)) = true := by
      simp only [hd, h4, h57, bne_iff_ne, ne_eq, h0, not_false_eq_true, decide_true, Bool.and_self, beq_self_eq_true]
    refine ⟨_, congrArg Outcome.next (good _ _ hok), changeCores_frame (fun x => { x with trapbase := BitVec.ofNat 57 va }) ..,
      fun hwf c hc => ?_⟩
    refine (changeCores_core (fun x => { x with trapbase := BitVec.ofNat 57 va }) (48 * die) (List.nodup_range.filter _) hwf _).trans ?_
    have hiff : (∃ x ∈ (List.range 48).filter fun c => cores.getLsbD c, 48 * die + c = 48 * die + x) ↔ cores.getLsbD c
        = true := by
      simp only [List.mem_filter, List.mem_range]
      exact ⟨fun ⟨x, hx, e⟩ => by obtain rfl : c = x := by omega
                                  exact hx.2, fun h => ⟨c, ⟨hc, h⟩, rfl⟩⟩
    simp only [hiff]
  · refine congrArg Outcome.next (bad _ _ ?_)
    rw [Bool.eq_false_iff]
    intro hok
    simp only [Bool.and_eq_true, decide_eq_true_eq, bne_iff_ne, beq_iff_eq] at hok
    omega
  · exact congrArg Outcome.next (good _ _ ((featMask_ok die b).2 ⟨hd, hb⟩))
  · refine congrArg Outcome.next (bad _ _ (Bool.eq_false_iff.2 fun hok => ?_))
    have := (featMask_ok die b).1 hok
    omega
  · exact congrArg Outcome.next (bad _ _ h)
  · refine ⟨_, congrArg Outcome.next (good _ _ h), rfl, fun i hi => ⟨fun hn => ?_, fun hn hs => ?_⟩⟩
    · dsimp only
      rw [vget_vtab _ hi, nthD, hn]
      rfl
    · dsimp only
      rw [vget_vtab _ hi, nthD]
      cases ha : table[i]?.getD none with
      | none => exact absurd ha hn
      | some a =>
        rw [relink]
        simp [hs]
  · exact congrArg Outcome.next ((command_free _ _ hf).trans (if_pos h))
  · let keys := (List.range count).map fun i => (die * 0x2000000000 + stack * 0xC00000000) / 0x200000 + first + i
    let cleared : State := if clear then
      { s with counts := keys.foldl (fun (m : List (Nat × W64)) k => Store.putD 0 m k 0) s.counts } else s
    have hpay : keys.flatMap (fun k => bytesOf (Store.getD 0 s.counts k)) = (List.range count).flatMap fun i =>
        bytesOf (Store.getD 0 s.counts ((die * 0x2000000000 + stack * 0xC00000000) / 0x200000 + first + i)) :=
      List.flatMap_map ..
    refine ⟨cleared, congrArg Outcome.next ((command_free _ _ hf).trans ((if_neg (by omega)).trans
      (congrArg (returned cleared .success) hpay))), ?_, fun h => if_neg (by simp [h]), fun h hwf i hi => ?_⟩
    · simp only [cleared]
      split <;> rfl
    · have hk : (die * 0x2000000000 + stack * 0xC00000000) / 0x200000 + first + i ∈ keys :=
        List.mem_map.2 ⟨i, List.mem_range.2 hi, rfl⟩
      simp only [cleared, h, if_true]
      exact (getD_foldl_putD_key hwf id (fun _ _ e => e) (fun _ => 0) keys _).trans (if_pos hk)


/-- Settles O54: the gate comes before every command, and each setting is its check and its field. -/
theorem mailboxSettings : Obligations.MailboxSettings := ⟨mailboxGate, settingsTakeEffect⟩

namespace Machine
open Host

/-! ## Firmware and identity (R347, R348) -/

theorem tabulate_eq_range {α : Type} (n : Nat) (f : Nat → α) : tabulate n f = (List.range n).map f := rfl

theorem portOpen_iff (s : State) (p : Port) : portOpen s p = true ↔ PortOpen s p := by
  cases p with
  | host =>
    simp only [portOpen, PortOpen, Bool.or_eq_true, beq_iff_eq]
    omega
  | link pl => simp only [portOpen, PortOpen, Bool.and_eq_true, Bool.or_eq_true, decide_eq_true_eq, beq_iff_eq]

theorem spdmReply_closed {s : State} {p : Port} (h : ¬ PortOpen s p) (f : Transcript → Transcript) (body : List Byte) :
    spdmReply s p f body = s :=
  if_neg fun e => h ((portOpen_iff s p).1 e)

theorem portNum_eq (p : Port) : portNum p = requester p := by cases p <;> rfl

theorem transcript_eq {s : State} {p : Port} {t : Transcript}
    (h : Store.find s.spdm (requester p) = some t ∨ Store.find s.spdm (requester p) = none ∧ t = ⟨[], []⟩) :
    transcript s p = t := by
  rw [transcript, portNum_eq]
  rcases h with h | ⟨h, rfl⟩ <;> rw [h] <;> rfl

/-- A reply on an open port, when the requester's transcript is t. -/
theorem spdmReply_open {s u : State} {p : Port} {t : Transcript} (ho : PortOpen s p) (ht : transcript s p = t)
    (hu : ∃ n, u = { s with free := n }) (f : Transcript → Transcript) (body : List Byte) :
    spdmReply u p f body = answered u p (f t) body := by
  obtain ⟨n, rfl⟩ := hu
  have ho' : portOpen { s with free := n } p = true := (portOpen_iff s p).2 ho ▸ (by cases p <;> rfl)
  rw [spdmReply, if_pos ho', answered, ← portNum_eq, ← ht]
  rfl

theorem imageOk_iff (f : Firmware) (im : List Byte) : imageOk f im = true ↔
    let word := fun (k : Nat) => leNat ((im.drop k).take 4)
    word 0 = 0x51584657 ∧ word 0x10 ≤ 0x4000000 ∧ word 8 ≤ 255 ∧
      (let slot := leNat ((im.drop 0x0C).take 1) % 4
       sha512 (Config.publicKey im) = bytesOf (f.keys[slot]?.getD 0) ∧ f.revoked.getLsbD slot = false) ∧
      Ed.verify Ed.domPh (Config.publicKey im) (sha512 (im.take 0x40 ++ im.drop 0x100)) ((im.drop 0x40).take 64) =
          true ∧
      f.minSvn.toNat ≤ word 8 := by
  simp only [imageOk, keyOk, signatureOk, Bool.and_eq_true, beq_iff_eq, decide_eq_true_eq, Bool.not_eq_true', and_assoc]
  exact Iff.rfl

theorem exec_fwActivate {s : State} (hf : MailboxFree s) (commit : Bool) : exec (.fwActivate commit) s =
    .next (check s (imageOk s.fw (stagedImage s.fw)) fun s' => { s' with fw := { s'.fw with
      ready := some (stagedImage s.fw),
      minSvn := if commit then BitVec.ofNat 8 (imageField (stagedImage s.fw) 8 4) else s.fw.minSvn } }) :=
  congrArg Outcome.next (command_free _ _ hf)

theorem certReply_zero (off len : Nat) : certReply 0 off len =
    let part := (Config.certChain.drop off).take len
    let left := Config.certChain.length - off - part.length
    if off < Config.certChain.length then spdmOf 0x12 0x02 0 0 (leBytes 2 part.length ++ leBytes 2 left ++ part)
    else spdmOf 0x12 0x7F 1 0 [] := by
  unfold certReply
  dsimp only
  by_cases h : off < Config.certChain.length
  · rw [if_pos ⟨rfl, h⟩, if_pos h]
    rfl
  · rw [if_neg fun e => h e.2, if_neg h]
    rfl

theorem leBytes_byte (x : BitVec 8) : leBytes 8 x.toNat = x :: List.replicate 7 0 := by
  rw [leBytes, Nat.div_eq_of_lt x.isLt, BitVec.ofNat_toNat, BitVec.setWidth_eq]
  rfl

theorem measureBlock_eq (s : State) {i : Nat} (h1 : 1 ≤ i) (h3 : i ≤ 3) : measureBlock s i = some (blockOf s i) := by
  have hi : i = 1 ∨ i = 2 ∨ i = 3 := by omega
  rcases hi with rfl | rfl | rfl
  · rfl
  · rfl
  · rw [measureBlock, measurement, Option.map_some, leBytes_byte]
    rfl

theorem measureBlock_none (s : State) {i : Nat} (h : i = 0 ∨ 3 < i) : measureBlock s i = none := by
  have hm : measurement s i = none := by
    unfold measurement
    split <;> first | omega | rfl
  rw [measureBlock, hm]
  rfl

theorem measure_eq {s : State} {p : Port} {t : Transcript} (ho : PortOpen s p) (ht : transcript s p = t) {index n : Nat}
    {blocks : List (List Byte)} (nonce : BitVec 256) (hm : measured s index = some (n, blocks)) :
    measure s p index nonce =
      let req := spdmOf 0x12 0xE0 1 index (bytesOf nonce ++ [0])
      let rsp := spdmOf 0x12 0x60 n 0
        ([BitVec.ofNat 8 blocks.length] ++ leBytes 3 blocks.flatten.length ++ blocks.flatten ++ ownNonce s.free ++ [0,
            0])
      answered { s with free := s.free + 32 } p t
        (rsp ++ signedFor "responder-measurements signing" (t.vca ++ req ++ rsp)) := by
  rw [measure, hm]
  refine (spdmReply_open ho ht ⟨_, rfl⟩ _ _).trans ?_
  rw [ht]
  rfl

theorem foldl_emit_frame (f : List Byte → Msg) (ms : List (List Byte)) (s : State) :
    (ms.foldl (fun v m => v.emit (f m)) s).links = s.links ∧ (ms.foldl (fun v m => v.emit (f m)) s).frozen = s.frozen ∧
      (ms.foldl (fun v m => v.emit (f m)) s).swarm = s.swarm := by
  induction ms generalizing s with
  | nil => exact ⟨rfl, rfl, rfl⟩
  | cons m ms ih => exact ih (s.emit (f m))

/-- The exchange over a link that attests. -/
theorem attested_link {s : State} {pl : Nat} (hpl : pl < 12) (hst : (vget s.links pl).state = 2) (peer : List (List Byte)) :
    attested s (.link pl) peer =
      let v := (ownRequests peer (ownNonce s.free)).foldl (fun v m => v.emit (.spdm (.link pl) m)) { s with free := s.free + 32 }
      if peerGood peer (ownNonce s.free) then
        { v with links := vset s.links pl { vget s.links pl with state := 3 } }
      else { v with
        links := vset s.links pl { vget s.links pl with state := 4 },
        frozen := s.frozen ++ [⟨6, pl, 1 + pl / 2, 0, (match s.swarm with | some w => (nthD none w.table pl).getD 0 | none => 0), 0, 3, 0⟩] } := by
  obtain ⟨hl, hf, hs⟩ := foldl_emit_frame (.spdm (.link pl)) (ownRequests peer (ownNonce s.free)) { s with free := s.free + 32 }
  rw [attested, if_neg (by omega)]
  dsimp only
  rw [hl, hf, hs]
  split <;> rfl

/-- What the peer's replies show when they pass: lengths, digests, and the signature over all that was exchanged. -/
theorem peerGood_signed {peer : List (List Byte)} {mine : List Byte} (h : peerGood peer mine = true) :
    let chain := ((peer.drop 4).dropLast).flatMap certPart
    let auth := peer.getLastD []
    let body := auth.take (auth.length - 64)
    let reqs := ownRequests peer mine
    6 ≤ peer.length ∧ (((peer[3]?.getD []).drop 4).take 64) = sha512 chain ∧ (body.drop 4).take 64 = sha512 chain ∧
      ∃ key, Config.chainKey chain = some key ∧ Ed.verify [] key
        (spdmSigned "responder-challenge_auth signing"
          (((reqs.dropLast.zip peer.dropLast).flatMap fun x => x.1 ++ x.2) ++ reqs.getLastD [] ++ body))
        (auth.drop (auth.length - 64)) = true := by
  intro chain auth body reqs
  simp only [peerGood, Bool.and_eq_true, decide_eq_true_eq, beq_iff_eq] at h
  obtain ⟨⟨⟨⟨⟨⟨⟨⟨⟨⟨⟨⟨⟨hlen, -⟩, -⟩, -⟩, -⟩, -⟩, -⟩, -⟩, hdig⟩, -⟩, -⟩, -⟩, hauth⟩, hkey⟩ := h
  refine ⟨hlen, hdig, hauth, ?_⟩
  split at hkey
  · next key hk => exact ⟨key, hk, hkey⟩
  · cases hkey

end Machine
open Machine Host

theorem firmwareIsStaged : Claims.FirmwareIsStaged := by
  intro s off bs commit hf size im word good
  have him : stagedImage s.fw = im := rfl
  have hex := exec_fwActivate hf commit
  have hok := imageOk_iff s.fw im
  rw [him] at hex
  clear_value im
  refine ⟨fun h1 h2 => ?_, fun h => ?_, fun h => ?_, fun h => ?_⟩
  · refine congrArg Outcome.next ((command_free _ _ hf).trans (check_ok _ ?_))
    simp only [Bool.and_eq_true, decide_eq_true_eq]
    exact ⟨h1, h2⟩
  · refine congrArg Outcome.next ((command_free _ _ hf).trans (check_bad _ ?_))
    rw [Bool.eq_false_iff]
    intro e
    simp only [Bool.and_eq_true, decide_eq_true_eq] at e
    have he : off + bs.length ≤ 256 + 0x4000000 := e.2
    omega
  · rw [hex, check_ok _ (hok.2 h)]
    rfl
  · rw [hex, check_bad _ (Bool.eq_false_iff.2 fun e => h (hok.1 e))]

theorem identityIsProved : Claims.IdentityIsProved := by
  intro s p off len index pl nonce t ht s1 s32 own digest
  have htr := transcript_eq ht
  refine ⟨fun ho => ⟨?_, ⟨?_, ?_⟩, ?_, ?_, fun n blocks hb => ?_, fun h3 h255 => ?_⟩, fun ho => ?_, fun peer mine =>
      ?_, fun hc => ⟨?_, ?_, ?_⟩⟩
  · exact congrArg Outcome.next (spdmReply_open ho htr ⟨_, rfl⟩ _ _)
  · exact congrArg Outcome.next (spdmReply_open ho htr ⟨_, rfl⟩ _ _)
  · exact congrArg Outcome.next (spdmReply_open ho htr ⟨_, rfl⟩ _ _)
  · exact congrArg Outcome.next (spdmReply_open ho htr ⟨_, rfl⟩ _ _)
  · refine congrArg Outcome.next ((spdmReply_open ho htr ⟨_, rfl⟩ _ _).trans ?_)
    rw [certReply_zero]
    rfl
  · have hm : measured s index = some (n, blocks) := by
      rcases hb with ⟨rfl, rfl, rfl⟩ | ⟨h1, h3, rfl, rfl⟩ | ⟨rfl, rfl, rfl⟩
      · rfl
      · rw [measured, if_neg (by omega), if_neg (by omega), measureBlock_eq s h1 h3]
        rfl
      · have h4 : List.range 4 = [0, 1, 2, 3] := rfl
        rw [measured, if_neg (by decide), if_pos rfl, h4]
        simp only [List.filterMap_cons, List.filterMap_nil, measureBlock_none s (.inl rfl), measureBlock_eq s (le_refl
            1) (by decide),
          measureBlock_eq s (show 1 ≤ 2 by decide) (by decide), measureBlock_eq s (show 1 ≤ 3 by decide) (by decide)]
    exact congrArg Outcome.next (measure_eq ho htr nonce hm)
  · have hm : measured s index = none := by
      rw [measured, if_neg (by omega), if_neg h255, measureBlock_none s (.inr h3)]
      rfl
    refine congrArg Outcome.next ?_
    rw [Machine.measure, hm]
    exact spdmReply_open ho htr ⟨_, rfl⟩ _ _
  · intro req rsp u stateTo own2
    have hu : challenge s p nonce = u := by
      rw [challenge]
      refine (spdmReply_open ho htr ⟨_, rfl⟩ _ _).trans ?_
      rw [htr]
      rfl
    refine ⟨fun h peer => ?_, fun h h3 peer => ?_, fun h h2 peer => ?_⟩
    · subst h
      exact congrArg Outcome.next hu
    · subst h
      refine congrArg Outcome.next ?_
      rw [hu, attested]
      exact if_pos (.inr (by
        have : (vget u.links pl).state = 3 := h3
        omega))
    · subst h
      have ha := attested_link (s := u) ho.1 h2 peer
      refine ⟨fun hg => congrArg Outcome.next ?_, fun hg w hw => congrArg Outcome.next ?_⟩
      · rw [hu]
        exact ha.trans (if_pos hg)
      · rw [hu]
        refine ha.trans ((if_neg fun e => Bool.false_ne_true (hg.symm.trans e)).trans ?_)
        have hsw : u.swarm = some w := hw
        rw [hsw]
        rfl
  · intro chain auth body reqs
    exact ⟨⟨rfl, List.getLast?_concat⟩, fun h => peerGood_signed h⟩
  · exact congrArg Outcome.next (spdmReply_closed hc _ _)
  · exact congrArg Outcome.next (spdmReply_closed hc _ _)
  · exact congrArg Outcome.next (spdmReply_closed hc _ _)

/-- Settles O55: staging and checking of images, then the transcript's replies one by one. -/
theorem firmwareAndIdentity : Obligations.FirmwareAndIdentity := ⟨firmwareIsStaged, identityIsProved⟩

namespace Machine
open Host

/-! ## Engines' writes of one line -/

theorem engWrite_ready {s : State} {w : Writer} {pa : Nat} {bs : List Byte} (hr : resolve s (pa / 128) = s)
    (hl : lineReady s w.id (pa / 128) = true) :
    engWrite s w pa bs 0 = (hideRels (homeWrite (dropWriter s w) pa bs) pa bs.length, true) := by
  have hready : engReady s w pa 0 = (s, true) := by
    rw [engReady]
    dsimp only
    rw [if_pos (by rfl), hr, if_pos hl]
  have hput : ∀ u : State, engPut u ⟨pa, 0⟩ bs = hideRels (homeWrite u pa bs) pa bs.length := fun u => by
    have hpa : 128 * (pa / 128) + pa % 128 = pa := Nat.div_add_mod ..
    simp only [engPut, replicaLines, beq_self_eq_true, if_true, List.foldl_cons, List.foldl_nil, hpa]
  simp only [engWrite, engWrites, List.map_cons, List.map_nil, engAll, hready, List.foldl_cons, List.foldl_nil, hput]

theorem mem_splitAt {u f va n x k : Nat} (h : (x, k) ∈ splitAt u f va n) : va ≤ x ∧ x + k ≤ va + n := by
  induction f generalizing va n with
  | zero => cases h
  | succ f ih =>
    rw [splitAt] at h
    split at h
    · cases h
    · rcases List.mem_cons.1 h with h | h
      · obtain ⟨rfl, rfl⟩ := Prod.mk.inj h
        omega
      · have := ih h
        omega

theorem splitRange_one {pa n : Nat} (h1 : 1 ≤ n) (h : pa / 128 = (pa + n - 1) / 128) : splitRange 128 pa n = [(pa, n)] := by
  have hk : min n (128 - pa % 128) = n := by omega
  rw [splitRange, splitAt, if_neg (by omega), hk]
  dsimp only
  rw [Nat.sub_self]
  cases n / 128 <;> simp [splitAt]

theorem paKind_hbm (s : State) {pa : Nat} (h : inHbm pa = true) : paKind s pa = .hbm (dieOfPa pa) := by
  rw [paKind, if_pos h]

/-! ## TELEMETRY, RESYNC and DEBUG (R343, R344, R357, R359) -/

/-- A write at a line's home moves memory, its marks, the line's copy and what is sent. -/
theorem homeWrite_frame (s : State) (pa : Nat) (bs : List Byte) : ∃ mem chk ecc plat ely slices sent, homeWrite s pa
    bs =
    { s with mem := mem, chk := chk, ecc := ecc, plat := plat, ely := ely, slices := slices, sent := sent } := by
  have ht : ∃ sent, tellDirty s (pa / 128) = { s with sent := sent } := by
    unfold tellDirty
    split
    · split <;> exact ⟨_, rfl⟩
    · exact ⟨_, rfl⟩
  obtain ⟨sent, ht⟩ := ht
  obtain ⟨c, e, p, hw, -⟩ := writeMemAs_cases s true pa bs
  rw [homeWrite, homeWriteAs]
  dsimp only
  rw [ht, hw]
  split <;> exact ⟨_, _, _, _, _, _, _, rfl⟩

theorem homeWrite_picks (s : State) (pa : Nat) (bs : List Byte) : (homeWrite s pa bs).picks = s.picks := by
  obtain ⟨_, _, _, _, _, _, _, h⟩ := homeWrite_frame s pa bs
  rw [h]

theorem homeWrite_mbox (s : State) (pa : Nat) (bs : List Byte) : (homeWrite s pa bs).mbox = s.mbox := by
  obtain ⟨_, _, _, _, _, _, _, h⟩ := homeWrite_frame s pa bs
  rw [h]

/-- The locks' end moves elytron bits, locks and the arrival order alone. -/
theorem foldl_setEly_eq (ls : List Nat) (e : BitVec 16) (s : State) :
    ∃ ely, ls.foldl (fun s l => setEly s l e) s = { s with ely := ely } := by
  induction ls generalizing s with
  | nil => exact ⟨s.ely, rfl⟩
  | cons l ls ih =>
    obtain ⟨y, hy⟩ := ih (setEly s l e)
    exact ⟨y, hy⟩

theorem dropWriter_eq (s : State) (w : Writer) :
    ∃ ely locks waits, dropWriter s w = { s with ely := ely, locks := locks, waits := waits } := by
  unfold dropWriter unlock
  dsimp only
  obtain ⟨y, hy⟩ := foldl_setEly_eq (((s.locks.filter fun x => x.2 == w.id).map (·.1)).filter fun l =>
    s.locks.contains (l, w.id)) 0 s
  rw [hy]
  exact ⟨_, _, _, rfl⟩

theorem dropWriter_picks (s : State) (w : Writer) : (dropWriter s w).picks = s.picks := by
  obtain ⟨e, l, x, h⟩ := dropWriter_eq s w
  rw [h]

theorem dropWriter_mbox (s : State) (w : Writer) : (dropWriter s w).mbox = s.mbox := by
  obtain ⟨e, l, x, h⟩ := dropWriter_eq s w
  rw [h]

/-- Without a DEBUG access under way there is none to end. -/
theorem noDbg_eq {s : State} (h : s.mbox.dbg = none) : { s with mbox := { s.mbox with dbg := none } } = s := by
  rw [← h]

theorem debugLine_mem {s : State} {pa n : Nat} (hh : inHbm pa = true) (hr : resolve s (pa / 128) = s)
    (hm : homeLine s (pa / 128) = some .mem) : debugLine s pa n = (s, some (memBytes s pa n)) := by
  rw [debugLine, paKind_hbm s hh]
  dsimp only
  rw [hr, hm]
  rfl

theorem debugPut_ready {s : State} {pa : Nat} {bs : List Byte} (hh : inHbm pa = true) (hr : resolve s (pa / 128) = s)
    (hp : lineRepl s (pa / 128) = 0) (hl : lineReady s (Writer.id .mailbox) (pa / 128) = true) :
    debugPut s pa bs = (hideRels (homeWrite (dropWriter s .mailbox) pa bs) pa bs.length, true) := by
  rw [debugPut, paKind_hbm s hh, if_neg (by simp), hp, engWrite_ready hr hl]

/-- The end of a DEBUG access of HBM. -/
theorem debugEnd_hbm (s : State) {d : DbgRun} (hh : inHbm d.pa = true) : debugEnd s d =
    returned (dropOlds { s with mbox := { s.mbox with dbg := none } } (2 ^ 42)) .success (if d.write then [] else d.bytes) := by
  have hk : (paKind (dropOlds { s with mbox := { s.mbox with dbg := none } } dbgSrc) d.pa == .window) = false := by
    rw [paKind_hbm _ hh]
    rfl
  rw [debugEnd]
  dsimp only
  rw [hk, Bool.and_false]
  rfl

/-- A DEBUG access with one part left, which this step makes. -/
theorem debugGo_last {s : State} {d : DbgRun} {x n : Nat} (h : (pickMask s.picks pkDbg).getLsbD d.lines = false) :
    debugGo [(x, n)] s d =
      if d.write then
        match debugPut s x ((d.bytes.drop (x - d.pa)).take n) with
        | (s, true) => debugGo [] s { d with lines := d.lines + 1 }
        | (s, false) => { s with mbox := { s.mbox with dbg := some d } }
      else
        match debugLine s x n with
        | (s, some bs) => debugGo [] s { d with bytes := d.bytes ++ bs, lines := d.lines + 1 }
        | (s, none) => { s with mbox := { s.mbox with dbg := some d } } := by
  rw [debugGo]
  dsimp only
  rw [if_neg (by simp [h])] <;> rfl

theorem debugGo_stays {s : State} {d : DbgRun} {cs : List (Nat × Nat)} (h : (pickMask s.picks pkDbg).getLsbD d.lines = true) :
    debugGo cs s d = { s with mbox := { s.mbox with dbg := some d } } := by
  cases cs <;> exact if_pos h

/-- The last part of a DEBUG read of HBM: the step makes it, and ends the access unless the picks keep it. -/
theorem debugGo_read {s : State} {d : DbgRun} {x n : Nat} (hw : d.write = false) (hd : inHbm d.pa = true) (hx : inHbm x = true)
    (hr : resolve s (x / 128) = s) (hm : homeLine s (x / 128) = some .mem)
    (h : (pickMask s.picks pkDbg).getLsbD d.lines = false) :
    debugGo [(x, n)] s d =
      if (pickMask s.picks pkDbg).getLsbD (d.lines + 1) then
        { s with mbox := { s.mbox with dbg := some { d with bytes := d.bytes ++ memBytes s x n, lines := d.lines + 1 } } }
      else returned (dropOlds { s with mbox := { s.mbox with dbg := none } } (2 ^ 42)) .success
        (d.bytes ++ memBytes s x n) := by
  rw [debugGo_last h, if_neg (by simp [hw]), debugLine_mem hx hr hm]
  dsimp only
  rw [debugGo]
  refine if_congr Iff.rfl rfl ?_
  refine (debugEnd_hbm s (by exact hd)).trans ?_
  simp only [hw, Bool.false_eq_true, if_false]

/-- The last part of a DEBUG write of HBM, when its line may be written. -/
theorem debugGo_write {s : State} {d : DbgRun} {x n : Nat} (hw : d.write = true) (hd : inHbm d.pa = true) (hx : inHbm x = true)
    (hr : resolve s (x / 128) = s) (hp : lineRepl s (x / 128) = 0)
    (hl : lineReady s (Writer.id .mailbox) (x / 128) = true) (hn : x - d.pa + n ≤ d.bytes.length)
    (h : (pickMask s.picks pkDbg).getLsbD d.lines = false) :
    let u := hideRels (homeWrite (dropWriter s .mailbox) x ((d.bytes.drop (x - d.pa)).take n)) x n
    debugGo [(x, n)] s d =
      if (pickMask s.picks pkDbg).getLsbD (d.lines + 1) then
        { u with mbox := { u.mbox with dbg := some { d with lines := d.lines + 1 } } }
      else returned (dropOlds { u with mbox := { u.mbox with dbg := none } } (2 ^ 42)) .success [] := by
  intro u
  have hlen : ((d.bytes.drop (x - d.pa)).take n).length = n := by
    rw [List.length_take, List.length_drop]
    omega
  have hbit : (pickMask u.picks pkDbg).getLsbD (d.lines + 1) = (pickMask s.picks pkDbg).getLsbD (d.lines + 1) :=
    congrArg (fun p => (pickMask p pkDbg).getLsbD (d.lines + 1))
      ((homeWrite_picks (dropWriter s .mailbox) x _).trans (dropWriter_picks s .mailbox))
  rw [debugGo_last h, if_pos hw, debugPut_ready hx hr hp hl, hlen]
  change debugGo [] u _ = _
  rw [debugGo]
  refine if_congr (iff_of_eq (congrArg (· = true) hbit)) rfl ?_
  refine (debugEnd_hbm u (by exact hd)).trans ?_
  simp only [hw, if_true]

theorem debugRange_go {s : State} {d : DbgRun} (hd : s.mbox.dbg = some d) (bs : List Byte) :
    debugRange s d.pa d.n d.write bs = debugGo ((splitRange 128 d.pa d.n).drop d.lines) s d := by
  simp only [debugRange, hd, and_self, if_true]

theorem debugRange_begin {s : State} {pa n : Nat} {write : Bool} (bs : List Byte) (hp : s.plat.phase = 3)
    (hh : s.mbox.held = false) (h1 : 1 ≤ n) (hl : pa / 128 = (pa + n - 1) / 128) (hm : inHbm pa = true) :
    debugRange s pa n write bs = debugGo [(pa, n)] s ⟨pa, n, write, bs, 0⟩ := by
  have hlt : pa < 0x10000000000 := by
    simp only [inHbm, Bool.and_eq_true, decide_eq_true_eq] at hm
    exact hm.1
  have hok : debugRangeOk s pa n = true := by
    rw [debugRangeOk, splitRange_one h1 hl]
    simp only [List.all_cons, List.all_nil, Bool.and_true, paKind_hbm s hm, Bool.and_eq_true, decide_eq_true_eq]
    omega
  simp only [debugRange, dbg_none_of_held hh]
  rw [command_ready _ _ hp, if_neg (by simp [hh]), if_neg (by simp), if_pos hok, splitRange_one h1 hl]

theorem debugRecord_eq (k : Core) : debugRecord k = ((List.range 4).flatMap fun i => bytesOf (k.bps[i]?.getD 0)) ++
    bytesOf k.step ++ leBytes 8 ((if k.sstr then 2 else 0) + (if k.tstop then 1 else 0)) :=
  congrArg (· ++ _ ++ _) (List.flatMap_map ..)

theorem debugCore_eq (k : Core) (r : BitVec 384) (h : ∀ i, i < 4 → r.extractLsb' (64 * i + 57) 5 = 0)
    (h' : r.extractLsb' 322 62 = 0) : debugCore k r = some { k with
      bps := (List.range 4).map fun i => r.extractLsb' (64 * i) 64, step := r.extractLsb' 256 64,
      sstr := r.getLsbD 321, tstop := r.getLsbD 320 } := by
  have hany : ((List.range 4).any fun i => bits r (64 * i + 57) 5 != 0) = false :=
    List.any_eq_false.2 fun i hi => by simpa [bits] using h i (List.mem_range.1 hi)
  have htop : (bits r 322 62 != 0) = false := by simpa [bits] using h'
  rw [debugCore, hany, htop]
  rfl

theorem telemetryRecord_none {s : State} {sel : Nat} (h : 24 < sel) : telemetryRecord s sel = none := by
  rw [telemetryRecord]
  dsimp only
  rw [if_neg (by omega), if_neg (by omega), if_neg (by omega)]

theorem length_leBytes (n v : Nat) : (leBytes n v).length = n := by
  induction n generalizing v with
  | zero => rfl
  | succ n ih => rw [leBytes, List.length_cons, ih]

theorem leNat_leBytes (n v : Nat) : leNat (leBytes n v) = v % 256 ^ n := by
  induction n generalizing v with
  | zero => simp [leBytes, leNat, Nat.mod_one]
  | succ n ih =>
    have h : 256 ^ (n + 1) = 2 ^ 8 * 256 ^ n := Nat.pow_succ'
    rw [leBytes, leNat, ih, BitVec.toNat_ofNat, h, Nat.mod_mul] <;> rfl

theorem ofBytes_bytesOf {w : Nat} (x : BitVec w) (h : w % 8 = 0) : ofBytes w (bytesOf x) = x := by
  have hw : 256 ^ (w / 8) = 2 ^ w := by
    rw [show 256 = 2 ^ 8 from rfl, ← Nat.pow_mul, Nat.mul_div_cancel' (Nat.dvd_of_mod_eq_zero h)]
  rw [ofBytes, bytesOf, leNat_leBytes, hw, Nat.mod_eq_of_lt x.isLt, BitVec.ofNat_toNat, BitVec.setWidth_eq]

section
variable {s u : State} {pa size : Nat} (hk : (∃ d, paKind s pa = .hbm d) ∨ paKind s pa = .host)
  (hl : lineRange s pa size = true)
include hk hl

theorem resync_short (h : size < (summary s).length) : resync s pa size =
    returned (dropWriter { s with mbox := { s.mbox with sync := none } } .mailbox) .invalidInput
      (leBytes 4 (summary s).length) := by
  rcases hk with ⟨d, e⟩ | e <;>
    simp only [resync, e, hl, Bool.not_true, Bool.or_self, Bool.false_eq_true, if_false, h, if_true] <;> rfl

theorem resync_written (h : (summary s).length ≤ size) (hw : writeParts s .mailbox pa [(0, summary s)] = (u, true)) :
    resync s pa size = returned { u with mbox := { u.mbox with sync := none } } .success [] := by
  rcases hk with ⟨d, e⟩ | e <;>
    simp only [resync, e, hl, Bool.not_true, Bool.or_self, Bool.false_eq_true, if_false, Nat.not_lt.2 h, hw] <;> rfl

theorem resync_waits (h : (summary s).length ≤ size) (hw : writeParts s .mailbox pa [(0, summary s)] = (u, false)) :
    resync s pa size = { u with mbox := { u.mbox with sync := some (pa, size) } } := by
  rcases hk with ⟨d, e⟩ | e <;>
    simp only [resync, e, hl, Bool.not_true, Bool.or_self, Bool.false_eq_true, if_false, Nat.not_lt.2 h, hw]

end

end Machine
open Machine Host

/-- Settles O19: a record is read at once, and a range line by line. -/
theorem systemIsRead : Obligations.SystemIsRead := by
  intro s sel pa size die c bs stays
  refine ⟨fun hlo hhi hbg hh => ⟨fun r hr => ?_, fun hs => ?_⟩, fun hp hg hl hk => ?_, fun hp hh => ⟨fun hd hc => ?_,
      fun h => ?_⟩,
    fun hp hh hsame h1 _ hm hr hrep => ?_, fun d x n hd hpa hn hdrop hm hx hr hrep hs hs' => ?_⟩
  · refine congrArg Outcome.next ?_
    rw [telemetry, if_neg (by simp [hh]; omega), if_neg (by simp [hbg]), hr]
    rfl
  · refine congrArg Outcome.next ?_
    rw [telemetry, if_neg (by simp [hh]; omega), if_neg (by simp [hbg]), telemetryRecord_none hs]
    rfl
  · have hex : exec (.resync pa size) s = .next (resync s pa size) := by
      refine congrArg Outcome.next ?_
      split
      · rfl
      · next h =>
        rcases hg with hg | hg
        · rw [command_ready _ _ hp, if_neg (by simp [hg]), if_neg (by simp)]
        · exact absurd (by simp [hg]) h
    have hkind : (∃ d, paKind s pa = .hbm d) ∨ paKind s pa = .host := hk.imp (fun h => ⟨_, paKind_hbm s h⟩) id
    refine ⟨fun hsz => ?_, fun u hsz => ⟨fun hw => ?_, fun hw => ?_⟩⟩
    · rw [hex, resync_short hkind hl hsz]
    · rw [hex, resync_written hkind hl hsz hw]
    · rw [hex, resync_waits hkind hl hsz hw]
  · refine ⟨congrArg Outcome.next ?_, fun r hb hres htop => congrArg Outcome.next ?_⟩
    · change command s true _ = _
      rw [command_ready _ _ hp, if_neg (by simp [hh]), if_neg (by simp), if_neg (by omega), debugRecord_eq]
      rfl
    · have h48 : bs.length = 48 := by rw [hb, bytesOf, length_leBytes]
      have hr : ofBytes 384 bs = r := by rw [hb, ofBytes_bytesOf r (by decide)]
      change command s true _ = _
      rw [command_ready _ _ hp, if_neg (by simp [hh]), if_neg (by simp), if_neg (by omega), hr, debugCore_eq _ r hres
          htop]
      rfl
  · refine ⟨congrArg Outcome.next ?_, congrArg Outcome.next ?_⟩
    · change command s true _ = _
      rw [command_ready _ _ hp, if_neg (by simp [hh]), if_neg (by simp), if_pos h]
      rfl
    · change command s true _ = _
      rw [command_ready _ _ hp, if_neg (by simp [hh]), if_neg (by simp), if_pos (by omega)]
      rfl
  · intro ended left
    have hdbg := dbg_none_of_held hh
    refine ⟨fun h0 => congrArg Outcome.next ?_, fun h0 hl => congrArg Outcome.next ?_, fun h0 hb hl => congrArg
        Outcome.next ?_⟩
    · exact (debugRange_begin [] hp hh h1 hsame hm).trans (debugGo_stays h0)
    · refine (debugRange_begin [] hp hh h1 hsame hm).trans ((debugGo_read rfl hm hm hr hl h0).trans ?_)
      rw [noDbg_eq hdbg]
      rfl
    · have hlen : pa - pa + size ≤ bs.length := by omega
      have htake : (bs.drop (pa - pa)).take size = bs := by
        rw [Nat.sub_self, List.drop_zero, ← hb, List.take_length]
      refine (if_pos hb).trans ((debugRange_begin bs hp hh h1 hsame hm).trans
        ((debugGo_write rfl hm hm hr hrep hl hlen h0).trans ?_))
      dsimp only
      rw [htake]
      have hu : (hideRels (homeWrite (dropWriter s .mailbox) pa bs) pa size).mbox.dbg = none := by
        rw [← hdbg]
        exact congrArg Mailbox.dbg ((homeWrite_mbox ..).trans (dropWriter_mbox ..))
      rw [noDbg_eq hu]
  · intro ended
    subst hpa hn
    have hmem : (x, n) ∈ splitRange 128 d.pa d.n := List.mem_of_mem_drop (by rw [hdrop]; exact List.mem_singleton_self _)
    obtain ⟨hlo, hhi⟩ := mem_splitAt hmem
    refine ⟨fun hw hl => congrArg Outcome.next ?_, fun hw hb hlen hl => congrArg Outcome.next ?_⟩
    · have hgo := debugRange_go hd []
      rw [hw, hdrop, debugGo_read hw hm hx hr hl hs, if_neg (by simpa using hs')] at hgo
      exact hgo
    · have hgo := debugRange_go hd bs
      rw [hw, hdrop, debugGo_write hw hm hx hr hrep hl (by omega) hs, if_neg (by simpa using hs')] at hgo
      exact (if_pos hb).trans hgo

end Sys2Proof
end

section
/-!
PROOFS. Background: page flips, freezes released, faults serviced (R312, R329, R340, R344, R346).
-/
namespace Sys2Proof

namespace Machine
open Host

/-! ## Bytes of a line's data -/

theorem getElem?_leBytes (n v i : Nat) : (leBytes n v)[i]? = if i < n then some (BitVec.ofNat 8 (v / 256 ^ i)) else
    none := by
  induction n generalizing v i with
  | zero => simp [leBytes]
  | succ n ih =>
    cases i with
    | zero => simp [leBytes]
    | succ i =>
      rw [leBytes, List.getElem?_cons_succ, ih, Nat.div_div_eq_div_mul, ← Nat.pow_succ']
      simp only [Nat.succ_lt_succ_iff]

theorem getElem?_bytesOf {w : Nat} (x : BitVec w) (i : Nat) :
    (bytesOf x)[i]? = if i < w / 8 then some (x.extractLsb' (8 * i) 8) else none := by
  rw [bytesOf, getElem?_leBytes]
  refine if_congr Iff.rfl (congrArg some ?_) rfl
  apply BitVec.eq_of_toNat_eq
  rw [BitVec.toNat_ofNat, BitVec.extractLsb'_toNat, Nat.shiftRight_eq_div_pow, Nat.pow_mul]

theorem length_bytesOf {w : Nat} (x : BitVec w) : (bytesOf x).length = w / 8 := length_leBytes ..

/-- A line written whole reads as its data, and every other byte as before. -/
theorem memByte_writeLine {s : State} (h : Memory.wf s.mem) (line : Nat) (d : LineData) (a : Nat) :
    memByte (writeMem s (128 * line) (bytesOf d)) a =
      if a / 128 = line then d.extractLsb' (8 * (a % 128)) 8 else memByte s a := by
  rw [memByte_writeMem h, length_bytesOf, List.getD_eq_getElem?_getD, getElem?_bytesOf]
  by_cases ha : a / 128 = line
  · have hi : a - 128 * line = a % 128 := by omega
    rw [if_pos (by omega), if_pos ha, hi, if_pos (by omega)]
    rfl
  · rw [if_neg (by omega), if_neg ha]

/-! ## A page's lines are given back (R340) -/

/-- What a line gives back to memory: the bytes of its copy in the slice. -/
def heldByte (s : State) (a : Nat) : Byte :=
  match Store.find s.slices (a / 128) with
  | some x => x.data.extractLsb' (8 * (a % 128)) 8
  | none => memByte s a

/-- A line is given back, and its elytron bits are set. -/
def release (e : BitVec 16) (s : State) (line : Nat) : State := setEly (giveBack s line none) line e

theorem giveBack_absent {s : State} {line : Nat} (h : Store.find s.slices line = none) :
    giveBack s line none = { s with slices := Store.del s.slices line } := by
  simp only [giveBack, h]

theorem giveBack_present {s : State} {line : Nat} {d : SliceLine} (h : Store.find s.slices line = some d) :
    giveBack s line none = { writeMem s (128 * line) (bytesOf d.data) with slices := Store.del s.slices line } := by
  simp only [giveBack, h, writeMem_slices]

theorem release_frame (e : BitVec 16) (s : State) (line : Nat) : ∃ mem chk ecc plat ely, release e s line =
    { s with mem := mem, chk := chk, ecc := ecc, plat := plat, ely := ely, slices := Store.del s.slices line } := by
  cases hf : Store.find s.slices line with
  | none =>
    rw [release, giveBack_absent hf]
    exact ⟨_, _, _, _, _, rfl⟩
  | some d =>
    obtain ⟨c, x, p, h, -⟩ := writeMem_cases s (128 * line) (bytesOf d.data)
    rw [release, giveBack_present hf, h]
    exact ⟨_, _, _, _, _, rfl⟩

theorem release_mem_wf (e : BitVec 16) {s : State} (h : Memory.wf s.mem) (line : Nat) : Memory.wf (release e s line).mem := by
  cases hf : Store.find s.slices line with
  | none =>
    rw [release, giveBack_absent hf]
    exact h
  | some d =>
    rw [release, giveBack_present hf]
    exact writeMem_wf h ..

theorem release_memByte (e : BitVec 16) {s : State} (h : Memory.wf s.mem) (line a : Nat) :
    memByte (release e s line) a = if a / 128 = line then heldByte s a else memByte s a := by
  have hb : memByte (release e s line) a = memByte (giveBack s line none) a := rfl
  rw [hb]
  cases hf : Store.find s.slices line with
  | none =>
    rw [giveBack_absent hf]
    change memByte s a = _
    by_cases ha : a / 128 = line
    · rw [if_pos ha, heldByte, ha, hf]
    · rw [if_neg ha]
  | some d =>
    rw [giveBack_present hf]
    change memByte (writeMem s (128 * line) (bytesOf d.data)) a = _
    rw [memByte_writeLine h]
    by_cases ha : a / 128 = line
    · rw [if_pos ha, if_pos ha, heldByte, ha, hf]
    · rw [if_neg ha, if_neg ha]

theorem giveBack_ely (s : State) (line : Nat) (data : Option LineData) : (giveBack s line data).ely = s.ely := by
  have hw : ∀ bs, (writeMem s (128 * line) bs).ely = s.ely := fun bs => by
    obtain ⟨c, x, p, h, -⟩ := writeMem_cases s (128 * line) bs
    rw [h]
  unfold giveBack
  split
  · exact hw _
  · exact hw _
  · rfl

/-- The lines of a page, given back one after another. -/
theorem foldl_release (e : BitVec 16) (ls : List Nat) {s : State} (hm : Memory.wf s.mem) (he : Store.wf 0 s.ely = true)
    (hs : Store.sorted s.slices = true) (hnd : ls.Nodup) :
    let t := ls.foldl (release e) s
    (∃ mem chk ecc plat ely slices, t =
      { s with mem := mem, chk := chk, ecc := ecc, plat := plat, ely := ely, slices := slices }) ∧
      (∀ a, memByte t a = if a / 128 ∈ ls then heldByte s a else memByte s a) ∧
      (∀ line, elyRaw t line = if line ∈ ls then e else elyRaw s line) ∧
      (∀ line, Store.find t.slices line = if line ∈ ls then none else Store.find s.slices line) := by
  induction ls generalizing s with
  | nil => exact ⟨⟨_, _, _, _, _, _, rfl⟩, by simp, by simp, by simp⟩
  | cons l ls ih =>
    obtain ⟨hl, hnd⟩ := List.nodup_cons.1 hnd
    obtain ⟨m, c, x, p, y, hrel⟩ := release_frame e s l
    have hslices : (release e s l).slices = Store.del s.slices l := by rw [hrel]
    have hely : ∀ line, elyRaw (release e s l) line = if line = l then e else elyRaw s line := fun line => by
      have h := elyRaw_setEly (s := giveBack s l none) (by rw [giveBack_ely]; exact he) l e line
      rw [release, h]
      simp only [elyRaw, giveBack_ely]
    have hwely : Store.wf 0 (release e s l).ely = true := Store.wf_putD (by rw [giveBack_ely]; exact he) _ _
    have hsl : Store.sorted (release e s l).slices = true := by
      rw [hslices]
      exact Store.sorted_del hs l
    obtain ⟨⟨m', c', x', p', y', z', ht⟩, hmem, hel, hfind⟩ := ih (release_mem_wf e hm l) hwely hsl hnd
    have hheld : ∀ a, a / 128 ≠ l → heldByte (release e s l) a = heldByte s a := fun a ha => by
      rw [heldByte, heldByte, hslices, Store.find_del_ne hs l ha, release_memByte e hm, if_neg ha]
    refine ⟨⟨m', c', x', p', y', z', by rw [List.foldl_cons, ht, hrel]⟩, fun a => ?_, fun line => ?_, fun line => ?_⟩
    · rw [List.foldl_cons, hmem, release_memByte e hm]
      by_cases ha : a / 128 = l
      · simp [ha, hl]
      · simp only [hheld a ha, List.mem_cons, ha, if_false, false_or]
    · rw [List.foldl_cons, hel, hely]
      by_cases ha : line = l
      · simp [ha]
      · simp [ha]
    · rw [List.foldl_cons, hfind, hslices]
      by_cases ha : line = l
      · subst ha
        simp [hl, Store.find_del_self hs]
      · simp [ha, Store.find_del_ne hs l ha]

theorem mem_pageLines (page line : Nat) : line ∈ pageLines page ↔ line / 512 = page := by
  simp only [pageLines, List.mem_map, List.mem_range]
  exact ⟨fun ⟨i, hi, e⟩ => by omega, fun h => ⟨line % 512, by omega, by omega⟩⟩

theorem nodup_pageLines (page : Nat) : (pageLines page).Nodup :=
  List.Nodup.map (fun i j h => by simpa using h) List.nodup_range

theorem lineBusy_false {s : State} {line : Nat} (h : lineBusy s line = false) :
    engineHeld s line = false ∧ inWindow s line = false := by
  simp only [lineBusy, Bool.or_eq_false_iff] at h
  exact ⟨h.1.1.1, h.1.1.2⟩

theorem foldl_fixed {α β : Type} {f : α → β → α} {a : α} (bs : List β) (h : ∀ b ∈ bs, f a b = a) : bs.foldl f a = a := by
  induction bs with
  | nil => rfl
  | cons b bs ih =>
    rw [List.foldl_cons, h b (List.mem_cons_self ..)]
    exact ih fun c hc => h c (List.mem_cons_of_mem _ hc)

theorem flipToHost_free {s : State} {page : Nat} (h : ∀ line, line / 512 = page → resolve s line = s ∧
    lineBusy s line = false ∧ peersOf s line = [] ∧ leaseOver s line = true) :
    let u := (pageLines page).foldl (release (mkEly 0 0 6)) s
    flipToHost s page = (some { u with hostBias := Store.putD false u.hostBias page true }, u) := by
  have hres : (pageLines page).foldl resolve s = s := foldl_fixed _ fun l hl => (h l ((mem_pageLines ..).1 hl)).1
  have hheld : ((pageLines page).filter fun l => !(peersOf s l).isEmpty) = [] := List.filter_eq_nil_iff.2 fun l hl => by
    simp [(h l ((mem_pageLines ..).1 hl)).2.2.1]
  have h1 : ((pageLines page).any fun l => engineHeld s l || inWindow s l) = false := List.any_eq_false.2 fun l hl => by
    obtain ⟨a, b⟩ := lineBusy_false (h l ((mem_pageLines ..).1 hl)).2.1
    simp [a, b]
  have h2 : ((pageLines page).any fun l => lineBusy s l || !leaseOver s l) = false := List.any_eq_false.2 fun l hl => by
    obtain ⟨-, a, -, b⟩ := h l ((mem_pageLines ..).1 hl)
    simp [a, b]
  rw [flipToHost]
  dsimp only
  rw [hres, h1, if_neg (by simp), hheld, if_neg (by simp), h2, if_neg (by simp)]
  generalize pageLines page = ls
  rfl

theorem flipToDevice_free {s : State} {page : Nat} (h : ∀ line, line / 512 = page → lineBusy s line = false ∧
    leaseOver s line = true ∧ ((Store.find s.slices line).map (·.own)).getD false = true) :
    let u := (pageLines page).foldl (release 0) { s with hostBias := Store.putD false s.hostBias page false }
    flipToDevice s page = (some u, u) := by
  have hneed : ((pageLines page).filter fun l => !(((Store.find s.slices l).map (·.own)).getD false)) = [] :=
    List.filter_eq_nil_iff.2 fun l hl => by simp [(h l ((mem_pageLines ..).1 hl)).2.2]
  have h1 : ((pageLines page).any fun l => engineHeld s l || inWindow s l) = false := List.any_eq_false.2 fun l hl => by
    obtain ⟨a, b⟩ := lineBusy_false (h l ((mem_pageLines ..).1 hl)).1
    simp [a, b]
  have h2 : ((pageLines page).any fun l => lineBusy s l || !leaseOver s l) = false := List.any_eq_false.2 fun l hl => by
    obtain ⟨a, b, -⟩ := h l ((mem_pageLines ..).1 hl)
    simp [a, b]
  rw [flipToDevice]
  dsimp only
  rw [h1, if_neg (by simp), hneed, if_neg (by simp), h2, if_neg (by simp)]
  generalize pageLines page = ls
  rfl

theorem startFlip_eq (s : State) : ∃ flips, startFlip s = { s with flips := flips } := by
  unfold startFlip
  split <;> exact ⟨_, rfl⟩

theorem pageFlip_eq {s u v : State} {page : Nat} {rest : List Nat} {host : Bool}
    (hbg : s.mbox.bg = some (.bias host (page :: rest)))
    (hf : (if host then flipToHost s page else flipToDevice s page) = (some u, v)) :
    pageFlip s page = startFlip { u with mbox := { u.mbox with bg := some (.bias host rest) } } := by
  simp only [pageFlip, hbg, hf, bne_self_eq_false, Bool.false_eq_true, if_false]

theorem biasSet_bad {s : State} {host : Bool} {pa count : Nat} (h : pagesOk pa count = false ∨ host = true ∧
    ∃ p ∈ (List.range count).map (pa / 65536 + ·), replicatedLine s (512 * p) = true) :
    biasSet s host pa count = invalid s := by
  refine if_pos ?_
  rcases h with h | ⟨rfl, p, hp, hr⟩
  · simp [h]
  · have : (((List.range count).map fun i => pa / 65536 + i).any (pageReplicated s)) = true :=
      List.any_eq_true.2 ⟨p, hp, hr⟩
    simp [this]

theorem biasSet_good {s : State} {host : Bool} {pa count : Nat} (hok : pagesOk pa count = true)
    (h : host = true → ∀ p ∈ (List.range count).map (pa / 65536 + ·), replicatedLine s (512 * p) = false) :
    let todo := ((List.range count).map (pa / 65536 + ·)).filter fun p => Store.getD false s.hostBias p != host
    biasSet s host pa count = startFlip
      { s with mbox := { s.mbox with code := .background, payload := [], bg := some (.bias host todo), bgDone := false } } := by
  refine if_neg ?_
  have hany : (host && ((List.range count).map fun i => pa / 65536 + i).any (pageReplicated s)) = false := by
    cases host with
    | false => rfl
    | true =>
      refine List.any_eq_false.2 fun p hp => ?_
      rw [pageReplicated, h rfl p hp]
      exact Bool.false_ne_true
  rw [hok, hany]
  simp

end Machine
open Machine Host

/-- Settles O20: a page's lines are given back one after another, each keeping the others' bytes. -/
theorem pagesFlip : Obligations.PagesFlip := by
  intro s
  refine ⟨fun pa count host hf => ?_, fun page rest hbg hm he hs h => ?_, fun page rest hbg hm he hs hb data h => ?_,
    fun host hbg => ?_⟩
  · intro i pages todo
    have hex : exec i s = .next (biasSet s host pa count) := by
      cases host <;> exact congrArg Outcome.next (command_free _ _ hf)
    refine ⟨fun hbad => ?_, fun hok hno => ?_⟩
    · rw [hex, biasSet_bad hbad]
      rfl
    · rw [hex, biasSet_good hok hno]
      change Outcome.next (startFlip { s with mbox := { s.mbox with
        code := .background, payload := [], bg := some (.bias host todo), bgDone := false } }) = _
      clear_value todo
      cases todo <;> rfl
  · have hflip := flipToHost_free h
    have hfold := foldl_release (mkEly 0 0 6) (pageLines page) hm he hs (nodup_pageLines page)
    dsimp only at hflip hfold
    generalize (pageLines page).foldl (release (mkEly 0 0 6)) s = u at hflip hfold
    obtain ⟨⟨m, c, x, p, y, z, ht⟩, hmem, hel, hfind⟩ := hfold
    obtain ⟨fl, hst⟩ := startFlip_eq { u with
      hostBias := Store.putD false u.hostBias page true, mbox := { u.mbox with bg := some (.bias true rest) } }
    have hpf := (pageFlip_eq (host := true) hbg ((if_pos rfl).trans hflip)).trans hst
    have hex : exec (.pageFlip page) s = .next (pageFlip s page) := rfl
    rw [hpf] at hex
    refine ⟨_, hex, rfl, fun a => ?_, fun line hl => ⟨?_, ?_⟩,
      fun line hl => ⟨?_, ?_⟩⟩
    · refine (hmem a).trans ?_
      have hiff : a / 128 ∈ pageLines page ↔ a / 65536 = page := by
        rw [mem_pageLines]
        omega
      by_cases ha : a / 65536 = page
      · rw [if_pos (hiff.2 ha), if_pos ha, heldByte] <;> rfl
      · rw [if_neg fun e => ha (hiff.1 e), if_neg ha]
    · have hput : Store.getD false (Store.putD false u.hostBias page true) (line / 512) = true := by
        rw [hl, Store.getD, Store.putD, if_neg (by decide), Store.find_put_self]
        rfl
      exact if_pos hput
    · exact (hfind line).trans (if_pos ((mem_pageLines ..).2 hl))
    · exact (hel line).trans (if_neg fun e => hl ((mem_pageLines ..).1 e))
    · exact (hfind line).trans (if_neg fun e => hl ((mem_pageLines ..).1 e))
  · have hown : ∀ line, line / 512 = page → lineBusy s line = false ∧ leaseOver s line = true ∧
        ((Store.find s.slices line).map (·.own)).getD false = true := fun line hl => by
      obtain ⟨h1, h2, d, h3⟩ := h line hl
      exact ⟨h1, h2, by rw [h3]; rfl⟩
    have hflip := flipToDevice_free hown
    have hfold := foldl_release 0 (pageLines page)
      (s := { s with hostBias := Store.putD false s.hostBias page false }) hm he hs (nodup_pageLines page)
    dsimp only at hflip hfold
    generalize (pageLines page).foldl (release 0) { s with hostBias := Store.putD false s.hostBias page false } = u
      at hflip hfold
    obtain ⟨⟨m, c, x, p, y, z, ht⟩, hmem, hel, hfind⟩ := hfold
    obtain ⟨fl, hst⟩ := startFlip_eq { u with mbox := { u.mbox with bg := some (.bias false rest) } }
    have hpf := (pageFlip_eq (host := false) hbg ((if_neg Bool.false_ne_true).trans hflip)).trans hst
    have hex : exec (.pageFlip page) s = .next (pageFlip s page) := rfl
    rw [hpf] at hex
    refine ⟨_, hex, rfl, fun line hl => ⟨?_, ?_⟩, fun a => ?_⟩
    · have hbias : Store.getD false u.hostBias (line / 512) = false := by
        rw [ht, hl]
        exact Store.getD_putD_self hb page false
      have hely : elyRaw u line = 0 := (hel line).trans (if_pos ((mem_pageLines ..).2 hl))
      refine (if_neg fun e => Bool.false_ne_true (hbias.symm.trans e)).trans ?_
      refine (congrArg (fun e => LState.ofCode (bits e 0 3)) hely).trans ?_
      rfl
    · exact (hfind line).trans (if_pos ((mem_pageLines ..).2 hl))
    · refine (hmem a).trans ?_
      have hiff : a / 128 ∈ pageLines page ↔ a / 65536 = page := by
        rw [mem_pageLines]
        omega
      by_cases ha : a / 65536 = page
      · obtain ⟨-, -, d, hd⟩ := h (a / 128) (by omega)
        rw [if_pos (hiff.2 ha), if_pos ha, heldByte]
        simp only [hd]
      · rw [if_neg fun e => ha (hiff.1 e), if_neg ha]
        rfl
  · refine congrArg Outcome.next ?_
    rw [backgroundStep, hbg]

namespace Machine
open Host

/-! ## FREEZE_RELEASE (R346) -/

theorem frozenAt_ne {s : State} {f : Frozen} {kind id : Nat} (h : s.frozen[id]? = some f) (hk : kind ≠ f.kind) :
    frozenAt s kind id = none := by
  rw [frozenAt, h, Option.filter_some, if_neg]
  simpa using fun e => hk e.symm

theorem frozenAt_self {s : State} {f : Frozen} {id : Nat} (h : s.frozen[id]? = some f) : frozenAt s f.kind id = some f := by
  rw [frozenAt, h, Option.filter_some, if_pos (by simp)]

theorem exec_freezeResume {s : State} {f : Frozen} {id : Nat} (hf : MailboxFree s) (h : s.frozen[id]? = some f) :
    exec (.freezeReleaseResume f.kind id) s = .next (returned (releaseResume s f) .success []) := by
  refine congrArg Outcome.next ((command_free _ _ hf).trans ?_)
  rw [frozenAt_self h]
  rfl

theorem exec_freezeEnd {s : State} {f : Frozen} {id : Nat} (hf : MailboxFree s) (h : s.frozen[id]? = some f) :
    exec (.freezeReleaseEnd f.kind id) s = .next (returned (releaseEnd s f) .success []) := by
  refine congrArg Outcome.next ((command_free _ _ hf).trans ?_)
  rw [frozenAt_self h]
  rfl

theorem setLinks_frozen (s : State) (a : Nat) (f : Link → Link) : (setLinks s a f).frozen = s.frozen := by
  unfold setLinks
  split <;> rfl

theorem setLinks_mbox (s : State) (a : Nat) (f : Link → Link) : (setLinks s a f).mbox = s.mbox := by
  unfold setLinks
  split <;> rfl

theorem releaseResume_frozen (s : State) (f : Frozen) : (releaseResume s f).frozen = (unfreeze s f).frozen := by
  unfold releaseResume
  dsimp only
  split
  · rfl
  · rfl
  · rfl
  · split
    · exact setLinks_frozen ..
    · rfl
  · rfl

/-- A group of a frozen team that is neither being saved nor of a saved launch issues again. -/
theorem thaw_grp {s : State} {f : Frozen} {gid : Nat} {g : Group} (hg : s.grp gid = some g) (hn : f.names (gid, g) = true)
    (hl : ∀ l, s.launch g.lid = some l → l.pre = .none) (ht : ∀ r, s.team (outKey gid g) = some r → r.state =
        .resident) :
    (thaw (unfreeze s f) f).grp gid = some { g with halted := false } := by
  have hmap : ∀ (p : Nat × Group → Bool) (h : Group → Group) (xs : List (Nat × Group)),
      Store.find (xs.map fun e => if p e then (e.1, h e.2) else e) gid =
        (Store.find xs gid).map fun g => if p (gid, g) then h g else g := fun p h xs => by
    rw [← Store.find_map xs (fun k g => if p (k, g) then h g else g)]
    congr 1
    refine List.map_congr_left fun e _ => ?_
    split <;> rfl
  refine (hmap _ (fun g => { g with halted := false }) s.groups).trans ?_
  rw [show Store.find s.groups gid = some g from hg, Option.map_some]
  refine congrArg some (if_pos ?_)
  have hl' : ((((unfreeze s f).launch g.lid).map (·.pre)).getD .none) = .none := by
    change ((s.launch g.lid).map (·.pre)).getD .none = .none
    cases h : s.launch g.lid with
    | none => rfl
    | some l => exact hl l h
  have ht' : ∀ r, (unfreeze s f).team (outKey gid g) = some r → r.state = .resident := ht
  simp only [hn, hl', bne_self_eq_false, Bool.false_or, Bool.true_and, Bool.not_eq_true']
  split
  · next r h => simp [ht' r h]
  · rfl

theorem Copy.stop_eq (c : Copy) : Copy.stop c 1 0 = { c with
    state := .stopped 1, vaddr := 0, stampOk := false, srcs := [], placed := false, want := [],
    vmap := c.vmap.filter fun e => c.held.contains e.2.1 } := by
  simp only [Copy.stop, Copy.replan, Bool.false_eq_true, if_false, List.contains_nil, Bool.or_false]

theorem ofCopy_iff (f : Frozen) (c : Copy) : f.ofCopy c = true ↔
    f.kind = 2 ∧ c.core = 48 * f.die + f.unit ∧ c.lid = f.lid ∧ c.tid = f.team ∧ c.state = .frozen := by
  simp only [Frozen.ofCopy, Bool.and_eq_true, beq_iff_eq, and_assoc]

theorem ofAttn_iff (f : Frozen) (c : Attn) : f.ofAttn c = true ↔
    f.kind = 3 ∧ c.core = 48 * f.die + f.unit ∧ c.lid = f.lid ∧ c.tid = f.team ∧ c.state = .frozen := by
  simp only [Frozen.ofAttn, Bool.and_eq_true, beq_iff_eq, and_assoc]

theorem thawEngine_copy {s : State} {f : Frozen} {n : Nat} {c : Copy} (hc : Store.find s.copies n = some c)
    (ho : f.ofCopy c = true) : Store.find (thawEngine (unfreeze s f) f).copies n = some
      (if cmdOut s c.lid c.tid then Copy.stop c 1 0 else { c with state := .running }) := by
  refine (Store.find_map s.copies (fun _ (c : Copy) => if f.ofCopy c then
    (if cmdOut (unfreeze s f) c.lid c.tid then Copy.stop c 1 0 else { c with state := .running }) else c) n).trans ?_
  rw [hc, Option.map_some, if_pos ho]
  rfl

theorem thawEngine_attn {s : State} {f : Frozen} {n : Nat} {c : Attn} (hc : Store.find s.attns n = some c)
    (ho : f.ofAttn c = true) : Store.find (thawEngine (unfreeze s f) f).attns n = some
      (if cmdOut s c.lid c.tid then Attn.stop c 1 0
       else { c with state := if c.started then .running else .pending }) := by
  refine (Store.find_map s.attns (fun _ (c : Attn) => if f.ofAttn c then
    (if cmdOut (unfreeze s f) c.lid c.tid then Attn.stop c 1 0
     else { c with state := if c.started then .running else .pending }) else c) n).trans ?_
  rw [hc, Option.map_some, if_pos ho]
  rfl

theorem releaseEnd_copies {s : State} {f : Frozen} (hk : f.kind = 2) {n : Nat} {c : Copy} (hc : Store.find s.copies n = some c)
    (ho : f.ofCopy c = true) : Store.find (releaseEnd s f).copies n = some
      { c with state := .running, started := true, status := 8, want := [] } := by
  simp only [releaseEnd, hk]
  refine (Store.find_map s.copies (fun _ (c : Copy) => if f.ofCopy c then
    { c with state := .running, started := true, status := 8, want := [] } else c) n).trans ?_
  rw [hc, Option.map_some, if_pos ho]

theorem releaseEnd_attns {s : State} {f : Frozen} (hk : f.kind = 3) {n : Nat} {c : Attn} (hc : Store.find s.attns n = some c)
    (ho : f.ofAttn c = true) : Store.find (releaseEnd s f).attns n = some
      { c with state := .running, started := false, status := 8 } := by
  simp only [releaseEnd, hk]
  refine (Store.find_map s.attns (fun _ (c : Attn) => if f.ofAttn c then
    { c with state := .running, started := false, status := 8 } else c) n).trans ?_
  rw [hc, Option.map_some, if_pos ho]

theorem tveCore_eq (c : Nat) : tveCore c = c - c % 2 := by
  rw [tveCore]
  omega

theorem releaseEnd_travs {s : State} {f : Frozen} (hk : f.kind = 4) {n : Nat} {v : Trav} (hv : Store.find s.travs n = some v)
    (hc : v.core - v.core % 2 = 48 * f.die + f.unit) (he : v.ending = none) :
    Store.find (releaseEnd s f).travs n = some { v with ending := some 5, fault := none } := by
  simp only [releaseEnd, hk]
  refine (Store.find_map s.travs (fun _ (t : Trav) => if tveCore t.core == 48 * f.die + f.unit then
    { t with ending := some (t.ending.getD 5), fault := none } else t) n).trans ?_
  rw [hv, Option.map_some, if_pos (by rw [tveCore_eq, hc]; exact beq_self_eq_true _), he]
  rfl

theorem releaseEnd_pfaults {s : State} {f : Frozen} (hk : f.kind = 4) (p : PFault) : p ∈ (releaseEnd s f).pfaults ↔
    p ∈ s.pfaults ∧ ¬(p.kind = 2 ∧ ∃ v, Store.find s.travs p.who = some v ∧ v.core - v.core % 2 = 48 * f.die + f.unit ∧
      v.lid = p.lid) := by
  simp only [releaseEnd, hk, List.mem_filter]
  refine and_congr Iff.rfl ?_
  rw [Bool.not_eq_true', ← Bool.not_eq_true, Bool.and_eq_true, beq_iff_eq]
  refine not_congr (and_congr Iff.rfl ?_)
  change (match Store.find s.travs p.who with | some t => _ | none => _) = true ↔ _
  cases Store.find s.travs p.who with
  | none => simp
  | some v => simp [tveCore_eq]

theorem releaseEnd_agent (s : State) {f : Frozen} (hk : f.kind = 6) : releaseEnd s f =
    (declareFailed (setLinks (unfreeze s f) f.team fun l => { l with state := 0, downAt := s.gtc.toNat }) f.team).emit
      (.failure f.team) := by
  simp only [releaseEnd, hk]
  rfl

theorem declareFailed_frozen (s : State) (a : Nat) : (declareFailed s a).frozen = s.frozen :=
  (congrArg State.frozen (offMem_declareFailed s a) :)

theorem declareFailed_events (s : State) (a : Nat) : (declareFailed s a).mbox.events = s.mbox.events ++ [a] :=
  (congrArg (fun u : State => u.mbox.events) (offMem_declareFailed s a) :)

theorem releaseEnd_frozen (s : State) (f : Frozen) (hk : f.kind ≠ 1) : (releaseEnd s f).frozen = (unfreeze s f).frozen
    := by
  by_cases h6 : f.kind = 6
  · rw [releaseEnd_agent s h6]
    exact (declareFailed_frozen ..).trans (setLinks_frozen ..)
  · unfold releaseEnd
    dsimp only
    split
    · contradiction
    · rfl
    · rfl
    · rfl
    · contradiction
    · rfl

end Machine
open Machine Host

/-- Settles O21: each kind of master has its own entry to resume or to end. -/
theorem freezesAreReleased : Obligations.FreezesAreReleased := by
  intro s id f hf hid u core
  refine ⟨fun kind hk => ⟨?_, ?_⟩, ⟨releaseResume s f, exec_freezeResume hf hid, releaseResume_frozen s f, ?_, ?_, ?_,
      ?_, ?_⟩,
    ⟨releaseEnd s f, exec_freezeEnd hf hid, ?_, ?_, ?_, ?_, ?_, ?_, ?_, ?_⟩⟩
  · refine congrArg Outcome.next ((command_free _ _ hf).trans ?_)
    rw [frozenAt_ne hid hk]
    rfl
  · refine congrArg Outcome.next ((command_free _ _ hf).trans ?_)
    rw [frozenAt_ne hid hk]
    rfl
  · intro hk gid g hg hn hl ht
    simp only [releaseResume, hk]
    exact thaw_grp hg hn hl ht
  · intro hk n c hc h1 h2 h3 h4
    simp only [releaseResume, hk]
    rw [thawEngine_copy hc ((ofCopy_iff f c).2 ⟨hk, h1, h2, h3, h4⟩), Copy.stop_eq]
  · intro hk n c hc h1 h2 h3 h4
    simp only [releaseResume, hk]
    exact thawEngine_attn hc ((ofAttn_iff f c).2 ⟨hk, h1, h2, h3, h4⟩)
  · rintro (hk | hk) <;> simp only [releaseResume, hk] <;> rfl
  · intro hk hv w n hw hn ha hst
    simp only [releaseResume, hk, hv, if_true]
    rw [setLinks_vget (s := unfreeze s f) hw hn, if_pos ha]
    exact congrArg Link.state (if_pos hst)
  · exact releaseEnd_frozen s f
  · intro hk
    simp only [releaseEnd, hk]
    rfl
  · intro hk
    simp only [releaseEnd, hk]
    rfl
  · exact fun hk n c hc h1 h2 h3 h4 => releaseEnd_copies hk hc ((ofCopy_iff f c).2 ⟨hk, h1, h2, h3, h4⟩)
  · exact fun hk n c hc h1 h2 h3 h4 => releaseEnd_attns hk hc ((ofAttn_iff f c).2 ⟨hk, h1, h2, h3, h4⟩)
  · exact fun hk n v hv hc he => releaseEnd_travs hk hv hc he
  · exact fun hk p => releaseEnd_pfaults hk p
  · intro hk h8
    have h6 := releaseEnd_agent s hk
    rw [h6]
    refine ⟨declareFailed_agent _ h8, ?_, List.getLast?_concat⟩
    refine (declareFailed_events ..).trans ?_
    rw [setLinks_mbox]
    rfl

namespace Machine
open Host

/-! ## FAULT_DONE, RESUME and TRAV_END (R312, R329, R344) -/

theorem faultDone_team_none {s : State} {lid tid : Nat} (e : Bool) (h : faultKeys s lid tid = []) :
    faultDone s e (.team lid tid) = none := by
  simp only [faultDone, h]

theorem faultDone_team_some {s : State} {lid tid : Nat} {ks : List Nat} (h : faultKeys s lid tid = ks) (hne : ks ≠ [])
    (e : Bool) : faultDone s e (.team lid tid) = some (if e then ks.foldl endSaved (clearFaults s 1 lid tid)
      else ks.foldl (fun s k => s.updTeam k fun t => { t with serviced := true, since := s.gtc.toNat })
        (clearFaults s 1 lid tid)) := by
  cases ks with
  | nil => exact absurd rfl hne
  | cons k ks => simp only [faultDone, h]

theorem faultDone_trav_some {s : State} {id : Nat} {t : Trav} (h : Store.find s.travs id = some t) (hf : t.fault ≠ none)
    (e : Bool) : faultDone s e (.trav id) = some ((clearFaults s 2 t.lid id).setTrav id
      { t with fault := none, ending := if e then some 5 else t.ending }) := by
  have hs : faultTrav s id = some t := by
    rw [faultTrav, h, Option.filter_some, if_pos (by simpa [Option.isSome_iff_ne_none] using hf)]
  simp only [faultDone, hs, Option.map_some]

theorem faultDone_trav_none {s : State} {id : Nat} {t : Trav} (h : Store.find s.travs id = some t) (hf : t.fault = none)
    (e : Bool) : faultDone s e (.trav id) = none := by
  have hs : faultTrav s id = none := by
    rw [faultTrav, h, Option.filter_some, if_neg (by simp [hf])]
  simp only [faultDone, hs, Option.map_none]

theorem isSaved_iff {s : State} {lid : Nat} {l : Launch} (h : s.launch lid = some l) : isSaved s lid = true ↔ l.pre = .saved := by
  simp only [isSaved, h, beq_iff_eq]

theorem rebin_empty {s : State} {lid : Nat} {l : Launch} (h : s.launch lid = some l) (hp : l.pre = .none)
    (ht : l.threads = []) : rebin s lid = s.updLaunch lid fun l => { l with threads := [] } := by
  simp only [rebin, h, hp, ht, List.foldl_nil, bne_self_eq_false, Bool.false_eq_true, if_false]

theorem resumeLaunch_empty {s : State} {lid : Nat} {l : Launch} (h : s.launch lid = some l) (ht : l.threads = []) :
    resumeLaunch s lid =
      (State.updLaunch (State.updLaunch { s with teams := s.teams.map fun (t : Nat × Team) =>
          (t.1, if t.2.lid == lid then { t.2 with since := s.gtc.toNat, reserving := false } else t.2) } lid
        fun l => { l with pre := .none, since := s.gtc.toNat, reserving := false }) lid fun l => { l with threads := [] }) := by
  have hl : (State.updLaunch { s with teams := s.teams.map fun (t : Nat × Team) =>
      (t.1, if t.2.lid == lid then { t.2 with since := s.gtc.toNat, reserving := false } else t.2) } lid
      fun l => { l with pre := .none, since := s.gtc.toNat, reserving := false }).launch lid =
      some { l with pre := .none, since := s.gtc.toNat, reserving := false } := by
    rw [State.launch_updLaunch]
    exact congrArg (Option.map _) h
  exact rebin_empty hl rfl ht

theorem endLaunch_empty {s : State} {lid : Nat} (h : ∀ t ∈ s.teams, t.2.lid ≠ lid) : endLaunch s lid =
    State.updLaunch { s with
      travs := s.travs.map fun (t : Nat × Trav) =>
        (t.1, if t.2.lid == lid then { t.2 with ending := some 5, fault := none } else t.2),
      pfaults := s.pfaults.filter fun f => !(f.kind == 2 && f.lid == lid) } lid fun l =>
        { l with pre := .none, threads := [], done := l.done + (l.teams - l.next), next := l.teams } := by
  have hnil : s.teams.filter (fun t => t.2.lid == lid) = [] := List.filter_eq_nil_iff.2 fun t ht => by simp [h t ht]
  rw [endLaunch]
  dsimp only
  rw [hnil]
  rfl

end Machine
open Machine Host

/-- Settles O23: each service finds its team or traversal and marks or ends it. -/
theorem faultsAreServiced : Obligations.FaultsAreServiced := by
  intro s lid tid id l hf cleared keys u
  have retry : ∀ w x, faultDone s false w = some x → exec (.faultDoneRetry w) s = .next (returned x .success []) :=
      fun w x h =>
    congrArg Outcome.next ((command_free _ _ hf).trans (by rw [h]; rfl))
  have ends : ∀ w x, faultDone s true w = some x → exec (.faultDoneEnd w) s = .next (returned x .success []) := fun w
      x h =>
    congrArg Outcome.next ((command_free _ _ hf).trans (by rw [h]; rfl))
  refine ⟨fun hk => ⟨?_, ?_⟩, fun hk => ⟨?_, ?_⟩, fun t ht hl => ⟨fun hft => ⟨?_, ?_⟩, fun hft => ?_, fun he => ?_⟩,
      fun hn => ?_,
    fun hl => ⟨fun hp => ⟨?_, ?_⟩, fun hp hth => ?_, fun hp hno => ?_⟩⟩
  · exact congrArg Outcome.next ((command_free _ _ hf).trans (by rw [faultDone_team_none false hk]; rfl))
  · exact congrArg Outcome.next ((command_free _ _ hf).trans (by rw [faultDone_team_none true hk]; rfl))
  · exact retry _ _ (faultDone_team_some rfl hk false)
  · exact ends _ _ (faultDone_team_some rfl hk true)
  · rw [retry _ _ (faultDone_trav_some ht hft false), hl]
    rfl
  · rw [ends _ _ (faultDone_trav_some ht hft true), hl]
    rfl
  · exact congrArg Outcome.next ((command_free _ _ hf).trans (by rw [faultDone_trav_none ht hft]; rfl))
  · refine congrArg Outcome.next ((command_free _ _ hf).trans ?_)
    simp only [travEnd, ht, hl, he, bne_self_eq_false, Option.isSome_none, Bool.or_self, Bool.false_eq_true, if_false]
    rfl
  · refine congrArg Outcome.next ((command_free _ _ hf).trans ?_)
    simp only [travEnd, hn]
    rfl
  · exact congrArg Outcome.next ((command_free _ _ hf).trans (check_bad _ (Bool.eq_false_iff.2 fun e => hp
      ((isSaved_iff hl).1 e))))
  · exact congrArg Outcome.next ((command_free _ _ hf).trans (check_bad _ (Bool.eq_false_iff.2 fun e => hp
      ((isSaved_iff hl).1 e))))
  · have hsaved := (isSaved_iff hl).2 hp
    refine ⟨_, congrArg Outcome.next ((command_free _ _ hf).trans (check_ok _ hsaved)), ?_⟩
    rw [resumeLaunch_empty hl hth]
    refine ⟨?_, rfl, rfl, fun k t ht => ?_⟩
    · rw [State.launch_updLaunch, State.launch_updLaunch]
      change ((s.launch lid).map _).map _ = _
      rw [hl]
      simp only [Option.map_some, hth]
    · refine (Store.find_map s.teams (fun _ (t : Team) =>
        if t.lid == lid then { t with since := s.gtc.toNat, reserving := false } else t) k).trans ?_
      rw [show Store.find s.teams k = some t from ht]
      simp only [Option.map_some, beq_iff_eq]
  · have hsaved := (isSaved_iff hl).2 hp
    refine ⟨_, congrArg Outcome.next ((command_free _ _ hf).trans (check_ok _ hsaved)), ?_, fun n t ht htl => ?_⟩
    · rw [endLaunch_empty hno, State.launch_updLaunch]
      change (s.launch lid).map _ = _
      rw [hl]
      rfl
    · rw [endLaunch_empty hno]
      refine (Store.find_map s.travs (fun _ (t : Trav) =>
        if t.lid == lid then { t with ending := some 5, fault := none } else t) n).trans ?_
      rw [ht, Option.map_some, if_pos (by simp [htl])]

end Sys2Proof
end

section
/-!
PROOFS. Coherence: stores and atomics at their home, the host and peers as requesters and owners, lost owners (R221, R222, R227, R228, R237, R337 to R339, R349).
-/
namespace Sys2Proof

namespace Machine
open Host

/-! ## A store at its home (R222, R228, R237, R247) -/

/-- What a write's seals leave at a sector that none of them is about. -/
theorem sealSector_chk_ne {s : State} (h : Store.wf 0 s.chk = true) (lo hi : Nat) {j k : Nat} (hk : k ≠ j) :
    Store.getD 0 (sealSector s lo hi j).chk k = Store.getD 0 s.chk k := by
  unfold sealSector
  split
  · exact Store.getD_putD_ne h j 0 hk
  · split
    · exact Store.getD_putD_ne h j 0xFFFF hk
    · rfl

theorem sealSector_chk_covered {s : State} (h : Store.wf 0 s.chk = true) {lo hi k : Nat} (hk : lo ≤ 32 * k ∧ 32 * k + 32 ≤ hi) :
    Store.getD 0 (sealSector s lo hi k).chk k = 0 := by
  unfold sealSector
  rw [if_pos hk]
  exact Store.getD_putD_self h k 0

theorem sealSector_chk_wf {s : State} (h : Store.wf 0 s.chk = true) (lo hi k : Nat) :
    Store.wf 0 (sealSector s lo hi k).chk = true := by
  obtain ⟨c, p, hs, hw⟩ := sealSector_cases s lo hi k
  rw [hs]; exact hw h

/-- The seals of a write leave a sector that it covers whole with its right check value. -/
theorem sealSectors_chk_covered {lo hi k : Nat} (hk : lo ≤ 32 * k ∧ 32 * k + 32 ≤ hi) (ks : List Nat) {s : State}
    (h : Store.wf 0 s.chk = true) (hs : k ∈ ks ∨ Store.getD 0 s.chk k = 0) :
    Store.getD 0 (ks.foldl (fun s k => sealSector s lo hi k) s).chk k = 0 := by
  induction ks generalizing s with
  | nil => simpa using hs
  | cons j ks ih =>
    refine ih (sealSector_chk_wf h lo hi j) ?_
    by_cases hj : k = j
    · subst hj; exact .inr (sealSector_chk_covered h hk)
    · refine hs.imp (fun hm => ?_) fun hz => (sealSector_chk_ne h lo hi hj).trans hz
      exact (List.mem_cons.1 hm).resolve_left hj

/-- A sector that a write of new bytes covers whole has its right check value (R237). -/
theorem chkBad_writeMem {s : State} (h : Store.wf 0 s.chk = true) {pa k : Nat} {bs : List Byte}
    (hk : pa ≤ 32 * k ∧ 32 * k + 32 ≤ pa + bs.length) : chkBad (writeMem s pa bs) k = false := by
  have hne : bs.isEmpty = false := by cases bs <;> simp_all; omega
  unfold chkBad writeMem writeMemAs
  simp only [hne, Bool.false_eq_true, if_false, if_true, bne_eq_false_iff_eq]
  refine sealSectors_chk_covered hk _ (by exact h) (.inl (List.mem_map.2 ⟨k - pa / 32, List.mem_range.2 ?_, ?_⟩)) <;> omega

theorem writeMem_ely (s : State) (pa : Nat) (bs : List Byte) : (writeMem s pa bs).ely = s.ely := by
  obtain ⟨c, e, p, h, -⟩ := writeMem_cases s pa bs
  rw [h]

theorem lineState_congr {s t : State} (he : t.ely = s.ely) (hb : t.hostBias = s.hostBias) (line : Nat) :
    lineState t line = lineState s line := by
  unfold lineState inHostBias elyRaw
  rw [he, hb]

theorem lineState_hostBias {s : State} {line : Nat} (h : lineState s line ≠ .hostBias) : inHostBias s line = false := by
  unfold lineState at h
  split at h
  · exact absurd rfl h
  · next hb => exact Bool.not_eq_true _ ▸ hb

/-- The elytron bits 0 make a line outside host bias UNCACHED. -/
theorem lineState_setEly_zero {s : State} (he : Store.wf 0 s.ely = true) {line : Nat} (hb : inHostBias s line = false) :
    lineState (setEly s line 0) line = .uncached := by
  unfold lineState
  rw [elyRaw_setEly he, if_pos rfl, show inHostBias (setEly s line 0) line = inHostBias s line from rfl, hb]
  rfl

/-- A write at a line of HBM that is UNCACHED or SHARED goes to memory, and a SHARED line's elytron bits are cleared. -/
theorem homeWrite_hbm {s : State} {pa : Nat} (bs : List Byte) (hh : inHbm (128 * (pa / 128)) = true) :
    (lineState s (pa / 128) = .uncached → homeWrite s pa bs = writeMem s pa bs) ∧
    (lineState s (pa / 128) = .shared → homeWrite s pa bs = setEly (writeMem s pa bs) (pa / 128) 0) := by
  constructor <;> intro h <;> unfold homeWrite homeWriteAs <;> simp only [paKind_hbm s hh, h] <;> rfl

/-- A write that may be performed, of a home that serves it now, is performed. -/
theorem performReq_ready {s : State} {id : Nat} {r : Req} (h : WriteMay s id r) : performReq s id r = performAt s id r := by
  obtain ⟨-, hrepl, hturn, hheld, hserve, hres, hwr, hlease⟩ := h
  unfold performReq
  simp only [hrepl, hturn, hheld, hserve, hres, hwr, hlease, bne_self_eq_false, Bool.not_true, Bool.or_self,
    Bool.false_eq_true, if_false]

theorem exec_homeWritePerform_ready {s : State} {id : Nat} {r : Req} (h : WriteMay s id r) (hk : ∀ a w, r.kind ≠ .ext a w) :
    exec (.homeWritePerform id) s = .next (performAt s id r) := by
  refine congrArg Outcome.next ?_
  unfold homePerform
  rw [h.1]
  dsimp only
  cases hr : r.kind with
  | ext a w => exact absurd hr (hk a w)
  | store pa bs => exact performReq_ready h
  | atomic op sg pa size data new pend lane => exact performReq_ready h

/-- Settles O17: the write goes to memory alone, and its seals reach each sector that it covers. -/
theorem storesArePerformed : Obligations.StoresArePerformed := by
  unfold Obligations.StoresArePerformed
  intro s id pa bs r hmay hkind hline hh hst hm he
  rw [← hline] at hh hst ⊢
  have hex := exec_homeWritePerform_ready hmay fun a w hr => by rw [hkind] at hr; cases hr
  have hperf : performAt s id r = afterWrite (homeWrite s pa bs) id r := by unfold performAt; rw [hkind]
  obtain ⟨hu, hsh⟩ := homeWrite_hbm (s := s) bs hh
  have hmem : (homeWrite s pa bs).mem = (writeMem s pa bs).mem := by
    rcases hst with h | h
    · rw [hu h]
    · rw [hsh h]; rfl
  have hchk : (homeWrite s pa bs).chk = (writeMem s pa bs).chk := by
    rcases hst with h | h
    · rw [hu h]
    · rw [hsh h]; rfl
  have hbyte (a : Nat) : memByte (performAt s id r) a =
      if pa ≤ a ∧ a < pa + bs.length then (bs[a - pa]?).getD 0 else memByte s a := by
    rw [hperf]
    refine (show _ = memByte (writeMem s pa bs) a from congrArg (Store.getD unlisted · a) hmem).trans ?_
    rw [memByte_writeMem hm]
    split
    · next hi => rw [List.getD_eq_getElem?_getD, List.getElem?_eq_getElem (by omega)]; rfl
    · rfl
  refine ⟨_, hex, ?_, hbyte, fun a ha => ?_, fun h => ?_, fun k hw hlo hhi => ?_⟩
  · rw [hperf]
    obtain ⟨mem, chk, ecc, plat, ely, slices, sent, hf⟩ := homeWrite_frame s pa bs
    rw [hf]; rfl
  · rw [hbyte, if_neg (by omega)]
  · rw [hperf]
    have hb := lineState_hostBias (s := s) (line := pa / 128) (by rw [h]; simp)
    rw [hsh h]
    refine lineState_setEly_zero (s := writeMem s pa bs) ?_ ?_
    · rw [writeMem_ely]; exact he
    · obtain ⟨c, e, p, hf, -⟩ := writeMem_cases s pa bs
      rw [hf]; exact hb
  · rw [hperf]
    exact (show _ = chkBad (writeMem s pa bs) k from congrArg (Store.getD 0 · k != 0) hchk).trans
      (chkBad_writeMem hw ⟨hlo, hhi⟩)

end Machine

namespace Machine
open Host

/-! ## What meeting a line's reading depends on -/

/-- The state u with what meeting a line's reading moves or depends on taken from s. -/
def onMem (u s : State) : State :=
  { u with mem := s.mem, chk := s.chk, ely := s.ely, ecc := s.ecc, slices := s.slices, loss := s.loss, plat := s.plat,
           free := s.free, picks := s.picks, gtc := s.gtc, agents := s.agents, hostBias := s.hostBias }

theorem sealSector_onMem (u s : State) (lo hi k : Nat) : sealSector (onMem u s) lo hi k = onMem u (sealSector s lo hi
    k) := by
  unfold sealSector
  rw [apply_ite (onMem u), apply_ite (onMem u)]
  rfl

theorem foldl_sealSector_onMem (u : State) (lo hi : Nat) (ks : List Nat) (s : State) :
    ks.foldl (fun s k => sealSector s lo hi k) (onMem u s) = onMem u (ks.foldl (fun s k => sealSector s lo hi k) s) :=
        by
  induction ks generalizing s with
  | nil => rfl
  | cons k ks ih => rw [List.foldl_cons, sealSector_onMem, ih, List.foldl_cons]

theorem writeMem_onMem (u s : State) (pa : Nat) (bs : List Byte) : writeMem (onMem u s) pa bs = onMem u (writeMem s pa
    bs) := by
  unfold writeMem writeMemAs
  rw [apply_ite (onMem u)]
  refine if_congr Iff.rfl rfl ?_
  dsimp only
  rw [← foldl_sealSector_onMem]
  rfl

theorem logLoss_onMem (u s : State) (line kind a : Nat) (inc : BitVec 2) :
    logLoss (onMem u s) line kind a inc = onMem u (logLoss s line kind a inc) := by
  unfold logLoss
  dsimp only
  rw [apply_ite (onMem u)]
  refine if_congr Iff.rfl rfl ?_
  rw [writeMem_onMem]
  rfl

theorem uncorrectable_onMem (u s : State) (line : Nat) :
    uncorrectable (onMem u s) line = onMem u (uncorrectable s line) := by
  unfold uncorrectable
  dsimp only
  rw [← logLoss_onMem]
  rfl

theorem mediaHit_onMem (u s : State) (line : Nat) : mediaHit (onMem u s) line = onMem u (mediaHit s line) := by
  unfold mediaHit
  dsimp only
  rw [apply_ite (onMem u), apply_ite (onMem u), ← uncorrectable_onMem, apply_ite (onMem u)]
  rfl

theorem mediaRead_onMem (u s : State) (line : Nat) : mediaRead (onMem u s) line = onMem u (mediaRead s line) := by
  have h : lineState (onMem u s) line = lineState s line := rfl
  unfold mediaRead
  rw [h]
  split
  case h_5 => rfl
  all_goals exact mediaHit_onMem u s line

theorem channelGone_onMem (u s : State) (line : Nat) : channelGone (onMem u s) line = onMem u (channelGone s line) := by
  unfold channelGone
  dsimp only
  rw [apply_ite (onMem u), ← uncorrectable_onMem]
  rfl

theorem resolve_onMem (u s : State) (line : Nat) : resolve (onMem u s) line = onMem u (resolve s line) := by
  have h : channelGone (mediaRead (onMem u s) line) line = onMem u (channelGone (mediaRead s line) line) := by
    rw [mediaRead_onMem, channelGone_onMem]
  unfold resolve
  rw [h, apply_ite (onMem u)]
  refine if_congr Iff.rfl rfl ?_
  generalize channelGone (mediaRead s line) line = v
  have hl : lineState (onMem u v) line = lineState v line := rfl
  have hs : Store.find (onMem u v).slices line = Store.find v.slices line := rfl
  dsimp only
  rw [hl, hs]
  split
  · rw [apply_ite (onMem u)]
    rfl
  · rw [apply_ite (onMem u)]
    refine if_congr Iff.rfl ?_ rfl
    split
    · next d _ =>
      exact congrArg (fun w : State => setEly { w with slices := Store.del v.slices line } line 0)
        (writeMem_onMem u v (128 * line) (bytesOf d.data))
    · rfl
  · rw [apply_ite (onMem u), ← logLoss_onMem]
    rfl
  · rfl

/-- A line that meets nothing when it is read meets nothing after a change of what the reading does not depend on. -/
theorem resolve_same {u s : State} {line : Nat} (h : resolve s line = s) (hu : onMem u s = u) : resolve u line = u := by
  rw [← hu, resolve_onMem, h]

/-! ## How a home serves an external agent (R227, R228, R337) -/

/-- The request of an external agent. -/
def extReq (line a : Nat) (what : ExtWhat) : Req := ⟨line, none, none, .ext a what, [], [], [], none, 0, []⟩

/-- A request that nothing stops is recorded and noted at its home. -/
def askedBy (s : State) (a line : Nat) (what : ExtWhat) : State :=
  { asked s line with reqs := Store.put s.reqs s.nextId (extReq line a what) }

theorem tableRepl_congr {s t : State} (h : t.mem = s.mem) (line level tbl : Nat) :
    tableRepl t line level tbl = tableRepl s line level tbl := by
  have hb (pa n : Nat) : memBytes t pa n = memBytes s pa n := by unfold memBytes memByte; rw [h]
  induction level generalizing tbl with
  | zero => unfold tableRepl; simp only [hb]
  | succ l ih => unfold tableRepl; simp only [hb, ih]

section
variable {s : State} {a line : Nat} (h : AgentMay s a line)
include h

theorem replicatedLine_asked (what : ExtWhat) : replicatedLine (askedBy s a line what) line = false := by
  obtain ⟨-, -, hr, -, -, -, -, -, -, hrep, -⟩ := h
  unfold replicatedLine lineRepl at hrep ⊢
  rw [hr] at hrep
  have hreqs : (askedBy s a line what).reqs = [(s.nextId, extReq line a what)] := by
    change Store.put s.reqs _ _ = _
    rw [hr]; rfl
  rw [hreqs]
  simp only [List.foldl_cons, List.foldl_nil, tableRepl_congr (t := askedBy s a line what) (s := s) rfl,
    show (extReq line a what).repl = 0 from rfl, BitVec.or_zero, ite_self] at hrep ⊢
  exact hrep

theorem extArrive_asked (what : ExtWhat) :
    extArrive s a line what = extTurn (askedBy s a line what) s.nextId (extReq line a what) a what := by
  obtain ⟨hf, hd, hr, hw, he, hwin, hfl, hres, hb, -, -⟩ := h
  let v : State := { s with reqs := Store.put s.reqs s.nextId (extReq line a what), nextId := s.nextId + 1 }
  have hfind : Store.find v.reqs s.nextId = some (extReq line a what) := by
    change Store.find (Store.put s.reqs _ _) _ = _
    rw [hr]; simp [Store.find, Store.put]
  have hearly : v.reqs = [(s.nextId, extReq line a what)] := by
    change Store.put s.reqs _ _ = _
    rw [hr]; rfl
  have hwait : v.waits = [] := hw
  have hserve : mayServe v line s.nextId = true := by
    simp only [mayServe, firstWaiting, hwait, List.find?_nil, Option.map_none]
  have harr : arriveAt v line s.nextId = askedBy s a line what := by
    simp only [arriveAt, hwait, List.contains_nil, Bool.false_eq_true, if_false, List.filter_nil, List.nil_append]
    rfl
  have hf' : agentFrozen v a = false := hf
  have he' : engineHeld v line = false := he
  have hwin' : inWindow v line = false := hwin
  have hfl' : inFlip v line = false := hfl
  have hb' : inHostBias v line = false := hb
  have hserved : serveExt v s.nextId (extReq line a what) a what =
      extTurn (askedBy s a line what) s.nextId (extReq line a what) a what := by
    unfold serveExt
    simp only [show (extReq line a what).line = line from rfl]
    rw [hearly, if_neg (by simp)]
    simp only [hf', he', hwin', hfl', hb', hserve, Bool.and_false, Bool.or_self, Bool.true_or, Bool.not_true,
      Bool.false_and, Bool.false_eq_true, if_false]
    rw [resolve_same (u := v) hres rfl, harr]
  have hgo : extArrive s a line what = homePerform v s.nextId := by
    unfold extArrive
    simp only [hf, hd, Bool.false_eq_true, if_false]
    rfl
  rw [hgo, homePerform, hfind]
  exact hserved

/-- The answer to a request whose line is sound ends it. -/
theorem answer_asked (hs : SoundLine s line) (what : ExtWhat) (grant : Option (BitVec 16)) :
    answer (askedBy s a line what) s.nextId a line (memLine (askedBy s a line what) line) grant =
      ((match grant with | some e => setEly (asked s line) line e | none => asked s line) : State).emit
        (.reply a line (ofBytes 1024 (memBytes s (128 * line) 128)) false) := by
  have hd : dropReq (askedBy s a line what) s.nextId = asked s line := by
    have hr := h.2.2.1
    unfold dropReq askedBy asked
    rw [hr]
    simp [Store.put, Store.del]
  have hbad : (memLine (askedBy s a line what) line).2 = false := by
    simp only [memLine, List.any_eq_false, List.mem_range]
    intro k hk
    rw [show chkBad (askedBy s a line what) (4 * line + k) = chkBad s (4 * line + k) from rfl, hs k hk]
    simp
  unfold answer
  simp only [hd, hbad, Bool.false_eq_true, if_false]
  cases grant <;> rfl

theorem extTurn_asked (what : ExtWhat) (hw : ∀ d en, what ≠ .write d en) :
    extTurn (askedBy s a line what) s.nextId (extReq line a what) a what =
      (match what with
        | .peek => extPeek (askedBy s a line what) s.nextId a line
        | .read => extRead (askedBy s a line what) s.nextId a line
        | .own => extOwn (askedBy s a line what) s.nextId a line
        | .write _ _ => askedBy s a line what) := by
  have hrep' := replicatedLine_asked h what
  obtain ⟨-, -, -, -, -, -, -, -, hb, -, -⟩ := h
  have hb' : inHostBias (askedBy s a line what) line = false := hb
  unfold extTurn
  simp only [show (extReq line a what).line = line from rfl, hb', hrep', Bool.false_eq_true, if_false]
  cases what with
  | write d en => exact absurd rfl (hw d en)
  | _ => rfl

/-- Whatever the line's state, a read and a request for ownership are served as R228 says. -/
theorem servesAgent_of {read own : Option Instr} (hread : ∀ i, read = some i → exec i s = .next (extArrive s a line .read))
    (hown : ∀ i, own = some i → exec i s = .next (extArrive s a line .own)) : ServesAgent s a line read own := by
  have hR : extArrive s a line .read = extRead (askedBy s a line .read) s.nextId a line :=
    (extArrive_asked h _).trans (extTurn_asked h .read (by simp))
  have hO : extArrive s a line .own = extOwn (askedBy s a line .own) s.nextId a line :=
    (extArrive_asked h _).trans (extTurn_asked h .own (by simp))
  have hst (what : ExtWhat) : lineState (askedBy s a line what) line = lineState s line := rfl
  have hlease (what : ExtWhat) : leaseOver (askedBy s a line what) line = leaseOver s line := rfl
  have hothers (what : ExtWhat) : others (askedBy s a line what) line a =
      (((List.range 8).filter fun b => (elyAgents (elyRaw s line)).getLsbD b && !(agent s b).down).filter (· != a)) :=
          rfl
  unfold ServesAgent
  dsimp only
  refine ⟨fun i hi => ⟨fun hs hsound => ?_, fun hs => ?_⟩, fun i hi => ⟨fun hs hsound hl => ?_, fun hs hrest => ?_,
      fun hs => ?_⟩⟩
  · rw [hread i hi, hR]
    refine congrArg Outcome.next ?_
    have hans := answer_asked h hsound .read (some (addSharer (askedBy s a line .read) line a))
    unfold extRead
    rcases hs with hs | hs <;> simp only [hst, hs] <;> exact hans
  · rw [hread i hi, hR]
    refine congrArg Outcome.next ?_
    unfold extRead
    rcases hs with hs | hs | hs <;> simp only [hst, hs] <;> rfl
  · rw [hown i hi, hO]
    refine congrArg Outcome.next ?_
    have hans := answer_asked h hsound .own (some (ownedBy (askedBy s a line .own) a 2))
    unfold extOwn
    rcases hs with hs | ⟨hs, hrest⟩
    · simp only [hst, hs, hlease, hl, if_true]
      exact hans
    · simp only [hst, hs, hothers, hrest, hlease, hl, if_true, List.isEmpty_nil, Bool.not_true, Bool.false_eq_true,
        if_false]
      exact hans
  · rw [hown i hi, hO]
    refine congrArg Outcome.next ?_
    have hne : ((((List.range 8).filter fun b => (elyAgents (elyRaw s line)).getLsbD b && !(agent s b).down).filter
        (· != a)).isEmpty) = false := by
      rw [List.isEmpty_eq_false_iff]; exact hrest
    unfold extOwn
    simp only [hst, hs, hothers, hne, Bool.not_false, if_true]
    rfl
  · rw [hown i hi, hO]
    refine congrArg Outcome.next ?_
    unfold extOwn
    rcases hs with hs | hs | hs <;> simp only [hst, hs] <;> rfl

end

end Machine

namespace Machine
open Host

/-! ## Peers as requesters (R228, R237, R349, R355) -/

theorem peerReq_up {s : State} {a : Nat} (hl : linkUp s a = true) (ha : a ≠ 0) (k : State → State) : peerReq s a k = k s := by
  unfold peerReq
  rw [if_pos (by rw [hl]; simpa using ha)]

section
variable {s : State} {a line : Nat} (hl : linkUp s a = true) (ha : a ≠ 0)
include hl ha

theorem notice_waits (k : State → State) (hh : inHbm (128 * line) = true) (hw : inWindow s line = true) :
    notice s a line k = s := by
  unfold notice
  rw [peerReq_up hl ha, if_pos (by rw [hh, hw]; rfl)]

theorem notice_frozen (k : State → State) (hw : inWindow s line = false) (hf : agentFrozen s a = true) :
    notice s a line k = s.emit (.reply a line 0 true) := by
  unfold notice
  rw [peerReq_up hl ha, if_neg (by rw [hw]; simp), if_pos hf]

theorem notice_denied (k : State → State) (hw : inWindow s line = false) (hf : agentFrozen s a = false)
    (hd : denied s a (128 * line) = true) :
    notice s a line k = (freezeAgent s a 1 (128 * line)).emit (.reply a line 0 true) := by
  unfold notice
  rw [peerReq_up hl ha, if_neg (by rw [hw]; simp), if_neg (by rw [hf]; simp), if_pos hd]

theorem notice_taken (k : State → State) (hw : inWindow s line = false) (hf : agentFrozen s a = false)
    (hd : denied s a (128 * line) = false) : notice s a line k = (k s).emit (.ack a line) := by
  unfold notice
  rw [peerReq_up hl ha, if_neg (by rw [hw]; simp), if_neg (by rw [hf]; simp), if_neg (by rw [hd]; simp)]

end

theorem extArrive_frozen {s : State} {a : Nat} (line : Nat) (what : ExtWhat) (hf : agentFrozen s a = true) :
    extArrive s a line what = refuse s a line what := by
  unfold extArrive
  rw [if_pos hf]

theorem extArrive_denied {s : State} {a line : Nat} (what : ExtWhat) (hf : agentFrozen s a = false)
    (hd : denied s a (128 * line) = true) :
    extArrive s a line what = refuse (freezeAgent s a 1 (128 * line)) a line what := by
  unfold extArrive
  rw [if_neg (by rw [hf]; simp), if_pos hd]

/-- A SHARED line has no owner. -/
theorem ownerIs_shared {s : State} {line : Nat} (h : lineState s line = .shared) (a : Nat) : ownerIs s line a = false := by
  unfold ownerIs
  simp only [h, Bool.false_and]

/-- A holder's data is written to the line and its copy leaves the slice. -/
theorem giveBack_data (s : State) (line : Nat) (d : LineData) : giveBack s line (some d) =
    { writeMem s (128 * line) (bytesOf d) with slices := Store.del s.slices line } := by
  simp only [giveBack, writeMem_slices]

theorem peersAreServed : Claims.PeersAreServed := by
  unfold Claims.PeersAreServed
  intro s a line d ha _ hl hh
  have hmem : ∀ i, i ∈ [Instr.dirtyNotice a line, .writeback a line d, .cleanEviction a line] →
      ∃ k, exec i s = .next (notice s a line k) := by
    intro i hi
    simp only [List.mem_cons, List.not_mem_nil, or_false] at hi
    rcases hi with rfl | rfl | rfl <;> exact ⟨_, rfl⟩
  have hfive : ∀ i, i ∈ [Instr.readShared a line, .readOwn a line, .dirtyNotice a line, .writeback a line d,
      .cleanEviction a line] →
      (∃ what, (∀ u, refuse u a line what = u.emit (.reply a line 0 true)) ∧ exec i s = .next (extArrive s a line
          what)) ∨
        ∃ k, exec i s = .next (notice s a line k) := by
    intro i hi
    rcases List.mem_cons.1 hi with rfl | hi
    · exact .inl ⟨.read, fun _ => rfl, congrArg Outcome.next (peerReq_up hl ha _)⟩
    rcases List.mem_cons.1 hi with rfl | hi
    · exact .inl ⟨.own, fun _ => rfl, congrArg Outcome.next (peerReq_up hl ha _)⟩
    · exact .inr (hmem i hi)
  refine ⟨fun hw i hi => ?_, fun hw => ⟨fun h => servesAgent_of h ?_ ?_, fun hf i hi => ?_, fun hf hd i hi => ?_,
    fun hf hd => ⟨fun ho hst => ?_, fun ho => ?_, fun ho => ?_, fun ho hs => ?_, fun hsh i hi => ?_, fun ho hns i hi
        => ?_⟩⟩⟩
  · obtain ⟨k, hk⟩ := hmem i hi
    rw [hk, notice_waits hl ha k hh hw]
  · rintro i ⟨⟩
    exact congrArg Outcome.next (peerReq_up hl ha _)
  · rintro i ⟨⟩
    exact congrArg Outcome.next (peerReq_up hl ha _)
  · obtain ⟨what, hr, h⟩ | ⟨k, hk⟩ := hfive i hi
    · rw [h, extArrive_frozen line what hf, hr]
    · rw [hk, notice_frozen hl ha k hw hf]
  · obtain ⟨what, hr, h⟩ | ⟨k, hk⟩ := hfive i hi
    · rw [h, extArrive_denied what hf hd, hr]
    · rw [hk, notice_denied hl ha k hw hf hd]
  · refine congrArg Outcome.next ((notice_taken hl ha _ hw hf hd).trans ?_)
    rw [if_pos (by rw [ho, hst]; rfl)]
    rfl
  · refine congrArg Outcome.next ((notice_taken hl ha _ hw hf hd).trans ?_)
    rw [if_neg (by rw [ho]; simp)]
  · refine congrArg Outcome.next ((notice_taken hl ha _ hw hf hd).trans ?_)
    rw [if_pos ho, giveBack_data]
  · refine congrArg Outcome.next ((notice_taken hl ha _ hw hf hd).trans ?_)
    rw [if_pos ho, giveBack_absent hs]
  · obtain ⟨hst, hag⟩ := hsh
    have hgo (data : Option LineData) : holderGives s a line data = (unshare s line a).emit (.ack a line) := by
      refine (notice_taken hl ha _ hw hf hd).trans ?_
      rw [if_neg (by rw [ownerIs_shared hst]; simp), if_pos (by rw [hst, hag]; rfl)]
    simp only [List.mem_cons, List.not_mem_nil, or_false] at hi
    rcases hi with rfl | rfl <;> exact congrArg Outcome.next (hgo _)
  · have hgo (data : Option LineData) : holderGives s a line data = s.emit (.ack a line) := by
      refine (notice_taken hl ha _ hw hf hd).trans ?_
      rw [if_neg (by rw [ho]; simp), if_neg (by simpa using hns)]
    simp only [List.mem_cons, List.not_mem_nil, or_false] at hi
    rcases hi with rfl | rfl <;> exact congrArg Outcome.next (hgo _)

/-! ## Answers, snoops and recalls (R228, R338, R349, R351) -/

theorem homeAnswer_some {s : State} {a line : Nat} {x : Snoop} (hx : snoopOf s line a = some x) (hw : inWindow s line = false)
    (data : Option LineData) : homeAnswer s a line data = snooped (dropSnoop s x) line a x data := by
  unfold homeAnswer
  simp only [hw, hx, Bool.false_eq_true, if_false]

theorem peerAnswer_hbm {s : State} {a line : Nat} (hl : linkUp s a = true) (ha : a ≠ 0) (hh : inHbm (128 * line) = true)
    (dirty : Bool) (data : Option LineData) :
    peerAnswer s a line dirty data = homeAnswer s a line (if dirty then data else none) := by
  unfold peerAnswer
  rw [peerReq_up hl ha]
  simp only [paKind_hbm s hh]

theorem peerAnswer_peer {s : State} {a line : Nat} {x : Snoop} (hl : linkUp s a = true) (ha : a ≠ 0)
    (hk : paKind s (128 * line) = .peer a) (hx : snoopOf s line a = some x) (dirty : Bool) (d : LineData) :
    peerAnswer s a line dirty (some d) = sliceFill (dropSnoop s x) line x.inv (dirty && x.inv) d := by
  unfold peerAnswer
  rw [peerReq_up hl ha]
  simp only [hk, hx, if_true]

/-- The owner's answer about a line that must be given up, or may be kept shared. -/
theorem snooped_owner {u : State} {line a : Nat} {x : Snoop}
    (hst : lineState u line = .exclusive ∨ lineState u line = .owned ∨ lineState u line = .modified)
    (ho : elyOwner (elyRaw u line) = a) (d : LineData) :
    (x.inv = true → snooped u line a x (some d) = setEly (giveBack u line (some d)) line 0) ∧
    (x.inv = false → x.keep = true → lineState u line = .modified → snooped u line a x (some d) = setEly
      { u with slices := Store.put u.slices line ⟨d, false, false⟩ } line
      (mkEly (elyInc (elyRaw u line)) (elyAgents (elyRaw u line)) 3)) ∧
    (x.inv = false → x.keep = false → snooped u line a x (some d) = setEly (giveBack u line (some d)) line
      (mkEly 0 (elyAgents (elyRaw u line)) 1)) := by
  have hne : (elyOwner (elyRaw u line) != a) = false := by rw [ho]; simp
  refine ⟨fun hi => ?_, fun hi hk hm => ?_, fun hi hk => ?_⟩
  · unfold snooped
    dsimp only
    rw [hne, hi]
    rcases hst with h | h | h <;> rw [h] <;> rfl
  · unfold snooped
    simp only [hm, hne, hi, hk, Bool.false_eq_true, if_false]
  · rcases hst with h | h | h <;> unfold snooped <;> simp only [h, hne, hi, hk, Bool.false_eq_true, if_false]

theorem snooped_shared {u : State} {line a : Nat} {x : Snoop} (hst : lineState u line = .shared) (hi : x.inv = true)
    (ha : (elyAgents (elyRaw u line)).getLsbD a = true) : snooped u line a x none = unshare u line a := by
  unfold snooped
  simp only [hst, hi, ha, Bool.and_self, if_true]

theorem giveUp_ready {s : State} {line : Nat} (hl : leaseOver s line = true) (he : engineHeld s line = false) (a : Nat) (inv : Bool) :
    (Store.find s.slices line = none → giveUp s a line inv = s.emit (.notHeld a (askAddr s line))) ∧
    (∀ d, Store.find s.slices line = some d → giveUp s a line inv =
      ({ s with slices := if inv then Store.del s.slices line else Store.put s.slices line ⟨d.data, false, false⟩ } : State).emit
        (.evict a (askAddr s line) (if d.dirty then some d.data else none))) := by
  constructor
  · intro hf
    unfold giveUp
    simp only [hl, he, Bool.not_true, Bool.or_self, Bool.false_eq_true, if_false, hf]
  · intro d hf
    unfold giveUp
    simp only [hl, he, Bool.not_true, Bool.or_self, Bool.false_eq_true, if_false, hf]
    rfl

theorem paKind_peer {s : State} {pa a : Nat} (h : paKind s pa = .peer a) : inHbm pa = false ∧ pa < 0x1080000000000 := by
  unfold paKind at h
  split at h
  · cases h
  · next hb =>
    refine ⟨by simpa using hb, ?_⟩
    split at h
    · split at h <;> cases h
    · split at h
      · next hp => exact hp.2
      · split at h <;> cases h

theorem paKind_host {s : State} {pa : Nat} (h : paKind s pa = .host) : inHbm pa = false ∧ 0x8000000000000 ≤ pa := by
  unfold paKind at h
  split at h
  · cases h
  · next hb =>
    refine ⟨by simpa using hb, ?_⟩
    split at h
    · split at h <;> cases h
    · split at h
      · dsimp only at h
        split at h <;> cases h
      · split at h
        · next hp => exact hp.1
        · cases h

theorem askAddr_peer {s : State} {line a : Nat} (h : paKind s (128 * line) = .peer a) :
    askAddr s line = 128 * line % 2 ^ 40 := by
  obtain ⟨hh, hlt⟩ := paKind_peer h
  unfold askAddr
  rw [if_neg (by rw [hh]; simp), if_neg (by omega)] <;> rfl

theorem peersAnswer : Claims.PeersAnswer := by
  unfold Claims.PeersAnswer
  intro s a line d ha _ hl
  refine ⟨fun x hx hk => ⟨?_, ?_⟩, fun x hx hh hw => ⟨?_, ?_, ?_⟩, fun u x hst ho => ?_, fun u x hst hi hag =>
      snooped_shared hst hi hag,
    fun hk hlease he => ⟨fun hf i hi => ?_, fun x hf => ⟨?_, ?_⟩⟩⟩
  · exact congrArg Outcome.next (peerAnswer_peer hl ha hk hx false d)
  · exact congrArg Outcome.next ((peerAnswer_peer hl ha hk hx true d).trans (by rw [Bool.true_and]; rfl))
  · exact congrArg Outcome.next ((peerAnswer_hbm hl ha hh false (some d)).trans (homeAnswer_some hx hw none))
  · exact congrArg Outcome.next ((peerAnswer_hbm hl ha hh true (some d)).trans (homeAnswer_some hx hw (some d)))
  · exact congrArg Outcome.next ((peerAnswer_hbm hl ha hh false none).trans (homeAnswer_some hx hw none))
  · have h := snooped_owner hst ho (x := x) d
    rw [giveBack_data] at h
    exact h
  all_goals
    have hgo (inv : Bool) : recalled s a line inv = giveUp s a line inv := by
      unfold recalled
      rw [peerReq_up hl ha, if_pos (by rw [hk]; exact beq_self_eq_true _)]
    obtain ⟨hnone, hsome⟩ := giveUp_ready hlease he a true
    obtain ⟨hnone', hsome'⟩ := giveUp_ready hlease he a false
    rw [askAddr_peer hk] at hnone hsome hnone' hsome'
  · simp only [List.mem_cons, List.not_mem_nil, or_false] at hi
    rcases hi with rfl | rfl
    · exact congrArg Outcome.next ((hgo false).trans (hnone' hf))
    · exact congrArg Outcome.next ((hgo true).trans (hnone hf))
  · exact congrArg Outcome.next ((hgo false).trans (hsome' x hf))
  · exact congrArg Outcome.next ((hgo true).trans (hsome x hf))

/-- Settles O53: a peer's request meets its gate, then the line's state decides. -/
theorem peersAndHomes : Obligations.PeersAndHomes := ⟨peersAreServed, peersAnswer⟩

end Machine

namespace Machine
open Host

/-! ## The bytes that the host writes (R237, R337) -/

theorem getLastD_bounds {i : Nat} {is : List Nat} (h : (i :: is).Pairwise (· < ·)) :
    is.getLastD i ∈ i :: is ∧ ∀ x ∈ i :: is, i ≤ x ∧ x ≤ is.getLastD i := by
  induction is generalizing i with
  | nil => exact ⟨by simp, by simp⟩
  | cons j js ih =>
    obtain ⟨hij, hjs⟩ := List.pairwise_cons.1 h
    obtain ⟨hm, hb⟩ := ih hjs
    have hlt := hij j (List.mem_cons_self ..)
    rw [List.getLastD_cons]
    refine ⟨List.mem_cons_of_mem _ hm, fun x hx => ?_⟩
    have hj := hb j (List.mem_cons_self ..)
    rcases List.mem_cons.1 hx with rfl | hx
    · omega
    · have := hb x hx
      omega

/-- The places of a sector that the host's write enables. -/
def enabledIn (en : BitVec 128) (k : Nat) : List Nat := (List.range 32).filter fun i => en.getLsbD (32 * k + i)

theorem mem_enabledIn {en : BitVec 128} {k i : Nat} : i ∈ enabledIn en k ↔ i < 32 ∧ en.getLsbD (32 * k + i) = true := by
  unfold enabledIn
  rw [List.mem_filter, List.mem_range]

theorem memByte_writeMemAs {s : State} (h : Memory.wf s.mem) (whole : Bool) (pa : Nat) (bs : List Byte) (a : Nat) :
    memByte (writeMemAs s whole pa bs) a =
      if pa ≤ a ∧ a < pa + bs.length then bs.getD (a - pa) unlisted else memByte s a := by
  simp only [memByte, writeMemAs_mem]
  exact Store.getD_putsD h pa bs a

theorem length_tabulate {α : Type} (n : Nat) (f : Nat → α) : (tabulate n f).length = n := by simp [tabulate]

theorem getD_tabulate {α : Type} {n i : Nat} (f : Nat → α) (d : α) (h : i < n) : (tabulate n f).getD i d = f i := by
  simp [tabulate, List.getD_eq_getElem?_getD, List.getElem?_range h]

/-- What a byte of the line reads as once the host has written the enabled bytes of sector k. -/
def mergedByte (s : State) (line : Nat) (data : LineData) (en : BitVec 128) (k b : Nat) : Byte :=
  if b / 128 = line ∧ b % 128 / 32 = k ∧ en.getLsbD (b % 128) = true then data.extractLsb' (8 * (b % 128)) 8 else
      memByte s b

theorem mergeSector_memByte {s : State} (h : Memory.wf s.mem) (line : Nat) (data : LineData) (en : BitVec 128) (k : Nat)
    (hk : k < 4) (b : Nat) : memByte (mergeSector s (128 * line) data en k) b = mergedByte s line data en k b := by
  unfold mergeSector mergedByte
  have hmem : ∀ i, i ∈ (List.range 32).filter (fun i => en.getLsbD (32 * k + i)) ↔ i < 32 ∧ en.getLsbD (32 * k + i) =
      true :=
    fun i => mem_enabledIn
  have hsort : ((List.range 32).filter (fun i => en.getLsbD (32 * k + i))).Pairwise (· < ·) :=
      List.pairwise_lt_range.filter _
  have hoff (hb : b / 128 = line) (hs : b % 128 / 32 = k) : 32 * k + b % 32 = b % 128 := by omega
  cases hl : (List.range 32).filter (fun i => en.getLsbD (32 * k + i)) with
  | nil =>
    rw [if_neg]
    rintro ⟨hb, hs, he⟩
    have := (hmem (b % 32)).2 ⟨Nat.mod_lt _ (by decide), by rw [hoff hb hs]; exact he⟩
    rw [hl] at this
    exact absurd this List.not_mem_nil
  | cons i is =>
    rw [hl] at hmem hsort
    obtain ⟨hlast, hbound⟩ := getLastD_bounds hsort
    obtain ⟨hlast32, -⟩ := (hmem _).1 hlast
    obtain ⟨-, hilast⟩ := hbound i (List.mem_cons_self ..)
    dsimp only
    rw [memByte_writeMemAs h, length_tabulate]
    by_cases hin : 128 * line + (32 * k + i) ≤ b ∧ b < 128 * line + (32 * k + i) + (32 * k + is.getLastD i + 1 - (32 *
        k + i))
    · have hb : b / 128 = line := by omega
      have hs : b % 128 / 32 = k := by omega
      have hj : 32 * k + i + (b - (128 * line + (32 * k + i))) = b % 128 := by omega
      have hj' : 128 * line + (32 * k + i) + (b - (128 * line + (32 * k + i))) = b := by omega
      rw [if_pos hin, getD_tabulate _ _ (by omega), hj, hj']
      by_cases he : en.getLsbD (b % 128) = true
      · rw [if_pos he, if_pos ⟨hb, hs, he⟩]; rfl
      · rw [if_neg he, if_neg fun h => he h.2.2]
    · rw [if_neg hin, if_neg]
      rintro ⟨hb, hs, he⟩
      have := hbound _ ((hmem (b % 32)).2 ⟨Nat.mod_lt _ (by decide), by rw [hoff hb hs]; exact he⟩)
      omega

theorem mergeSector_frame {s : State} (h : Memory.wf s.mem) (base : Nat) (data : LineData) (en : BitVec 128) (k : Nat) :
    ∃ mem chk ecc plat, mergeSector s base data en k = { s with mem := mem, chk := chk, ecc := ecc, plat := plat } ∧
      Memory.wf mem := by
  unfold mergeSector
  split
  · exact ⟨s.mem, _, _, _, rfl, h⟩
  · dsimp only
    generalize tabulate _ _ = bs
    obtain ⟨c, e, p, hw, -⟩ := writeMemAs_cases s (List.length (_ :: _) == _) (base + (32 * k + _)) bs
    exact ⟨_, c, e, p, hw, Store.wf_putsD h _ bs⟩

theorem mergeSectors_spec (line : Nat) (data : LineData) (en : BitVec 128) (ks : List Nat) (hk : ∀ k ∈ ks, k < 4) {s : State}
    (h : Memory.wf s.mem) :
    ∃ mem chk ecc plat, ks.foldl (fun s k => mergeSector s (128 * line) data en k) s =
        { s with mem := mem, chk := chk, ecc := ecc, plat := plat } ∧
      ∀ b, Store.getD unlisted mem b = if b / 128 = line ∧ b % 128 / 32 ∈ ks ∧ en.getLsbD (b % 128) = true then
        data.extractLsb' (8 * (b % 128)) 8 else memByte s b := by
  induction ks generalizing s with
  | nil => exact ⟨s.mem, s.chk, s.ecc, s.plat, rfl, fun b => by simp [memByte]⟩
  | cons k ks ih =>
    obtain ⟨m, c, e, p, hs, hm⟩ := mergeSector_frame h (128 * line) data en k
    have hb := mergeSector_memByte h line data en k (hk k (List.mem_cons_self ..))
    obtain ⟨m', c', e', p', hs', hb'⟩ := ih (s := mergeSector s (128 * line) data en k)
      (fun k hm => hk k (List.mem_cons_of_mem _ hm)) (by rw [hs]; exact hm)
    refine ⟨m', c', e', p', ?_, fun b => ?_⟩
    · rw [List.foldl_cons, hs', hs]
    · rw [hb', hb, mergedByte]
      by_cases h1 : b / 128 = line <;> by_cases h2 : en.getLsbD (b % 128) = true <;> by_cases h3 : b % 128 / 32 ∈ ks <;>
        by_cases h4 : b % 128 / 32 = k <;> simp [h1, h2, h3, h4, List.mem_cons]

/-- The host's write over a line changes the bytes that it enables, and no elytron bits, slice or request. -/
theorem mergeBytes_spec {s : State} (h : Memory.wf s.mem) (line : Nat) (data : LineData) (en : BitVec 128) :
    ∃ mem chk ecc plat tags, mergeBytes s line data en =
        { s with mem := mem, chk := chk, ecc := ecc, plat := plat, relTags := tags } ∧
      ∀ b, Store.getD unlisted mem b = if b / 128 = line ∧ en.getLsbD (b % 128) = true then
        data.extractLsb' (8 * (b % 128)) 8 else memByte s b := by
  obtain ⟨m, c, e, p, hs, hb⟩ := mergeSectors_spec line data en (List.range 4) (fun k hk => List.mem_range.1 hk) h
  refine ⟨m, c, e, p, _, by rw [mergeBytes, hs]; rfl, fun b => (hb b).trans ?_⟩
  have : b % 128 / 32 ∈ List.range 4 := List.mem_range.2 (by omega)
  simp only [this, true_and]

/-! ## The host is served (R228, R337 to R339) -/

/-- The reply or acknowledgement of a request that nothing stops leaves no request behind. -/
theorem dropReq_asked {s : State} {a line : Nat} (h : AgentMay s a line) (what : ExtWhat) :
    Store.del (askedBy s a line what).reqs s.nextId = s.reqs := by
  have hr := h.2.2.1
  unfold askedBy
  rw [hr]
  simp [Store.put, Store.del]

/-- A host's request at the host's address of a line of HBM arrives there. -/
theorem hostReq_arrives {s : State} {line : Nat} (hp : s.plat.phase = 3) (hh : inHbm (128 * line) = true) (what : ExtWhat) :
    hostReq s (s.hdm + 128 * line) what = extArrive s 0 line what := by
  have hlt : 128 * line < 2 ^ 40 := by simp [inHbm] at hh; omega
  have hl : (s.hdm + 128 * line - s.hdm) / 128 = line := by omega
  unfold hostReq
  rw [if_neg (by omega), hl]
  simp only [hp]

theorem extArrive_write {s : State} {line : Nat} (h : AgentMay s 0 line) (d : LineData) (en : BitVec 128) :
    extArrive s 0 line (.write d en) = extWrite (askedBy s 0 line (.write d en)) s.nextId line d en := by
  rw [extArrive_asked h]
  have hrep := replicatedLine_asked h (.write d en)
  obtain ⟨-, -, -, -, -, -, -, -, hb, -, -⟩ := h
  have hb' : inHostBias (askedBy s 0 line (.write d en)) line = false := hb
  unfold extTurn
  simp only [show (extReq line 0 (.write d en)).line = line from rfl, hb', hrep, Bool.false_eq_true, if_false,
      Bool.false_and]

theorem askAddr_host {s : State} {line : Nat} (h : hostLine s line = true) :
    askAddr s line = if inHbm (128 * line) then s.hdm + 128 * line else 128 * line - 0x8000000000000 := by
  unfold askAddr
  by_cases hh : inHbm (128 * line) = true
  · rw [if_pos hh, if_pos hh]
  · rw [if_neg hh, if_neg hh, if_pos]
    unfold hostLine at h
    rw [Bool.not_eq_true] at hh
    rw [hh, Bool.false_and, Bool.or_false, beq_iff_eq] at h
    exact (paKind_host h).2

/-- A line gives back its copy: memory has it, and the slice none. -/
theorem giveBack_none_spec {s : State} (h : Memory.wf s.mem) (line : Nat) :
    ∃ mem chk ecc plat, giveBack s line none =
        { s with mem := mem, chk := chk, ecc := ecc, plat := plat, slices := Store.del s.slices line } ∧ Memory.wf mem ∧
      ∀ b, Store.getD unlisted mem b = if b / 128 = line then heldByte s b else memByte s b := by
  have hb := release_memByte 0 h line
  have hw := release_mem_wf 0 h line
  cases hf : Store.find s.slices line with
  | none =>
    rw [release, giveBack_absent hf] at hb hw
    exact ⟨_, _, _, _, giveBack_absent hf, hw, hb⟩
  | some d =>
    obtain ⟨c, e, p, hs, -⟩ := writeMem_cases s (128 * line) (bytesOf d.data)
    have hg := giveBack_present hf
    rw [hs] at hg
    rw [release, hg] at hb hw
    exact ⟨_, c, e, p, hg, hw, hb⟩

theorem del_absent {α : Type} {m : List (Nat × α)} {k : Nat} (h : Store.find m k = none) : Store.del m k = m := by
  induction m with
  | nil => rfl
  | cons e m ih =>
    obtain ⟨i, x⟩ := e
    rw [Store.find] at h
    rw [Store.del]
    split
    · next hi => rw [ih (by rwa [if_pos hi] at h)]
    · next hi =>
      rw [if_neg hi] at h
      split
      · next he => rw [if_pos he] at h; cases h
      · rfl

theorem extWrite_owner {s : State} {id line : Nat} {d : LineData} {en : BitVec 128} (ho : ownerIs s line 0 = true) :
    extWrite s id line d en =
      (dropReq (setEly (mergeBytes (giveBack s line none) line d en) line 0) id).emit (.ack 0 line) := by
  unfold extWrite
  rw [if_pos ho]
  cases hf : Store.find s.slices line with
  | none => rw [giveBack_absent hf, del_absent hf]
  | some x => rw [giveBack_present hf]

/-- A writeback of the host: the slice's copy is in memory, under the bytes that the host enables. -/
theorem hostWriteback {s : State} {line : Nat} (hmay : AgentMay s 0 line) (ho : ownerIs s line 0 = true) (hm : Memory.wf s.mem)
    (he : Store.wf 0 s.ely = true) (d : LineData) (en : BitVec 128) :
    let t := extArrive s 0 line (.write d en)
    t.sent = s.sent ++ [.ack 0 line] ∧ t.reqs = s.reqs ∧ lineState t line = .uncached ∧
      ∀ b, memByte t b = if b / 128 = line then
          (if en.getLsbD (b % 128) = true then d.extractLsb' (8 * (b % 128)) 8
            else match Store.find s.slices line with
              | some x => x.data.extractLsb' (8 * (b % 128)) 8
              | none => memByte s b)
        else memByte s b := by
  dsimp only
  have hdrop := dropReq_asked hmay (.write d en)
  rw [extArrive_write hmay]
  have ho' : ownerIs (askedBy s 0 line (.write d en)) line 0 = true := ho
  rw [extWrite_owner ho']
  have hb : inHostBias s line = false := hmay.2.2.2.2.2.2.2.2.1
  obtain ⟨m, c, e, p, hfr, hmw, hmb⟩ := giveBack_none_spec (s := askedBy s 0 line (.write d en)) hm line
  rw [hfr]
  obtain ⟨m', c', e', p', tags, hmerge, hbyte⟩ := mergeBytes_spec
    (s := { askedBy s 0 line (.write d en) with
      mem := m, chk := c, ecc := e, plat := p, slices := Store.del (askedBy s 0 line (.write d en)).slices line }) hmw line d en
  rw [hmerge]
  refine ⟨rfl, hdrop, (lineState_congr (s := setEly s line 0) rfl rfl line).trans (lineState_setEly_zero he hb),
    fun b => (hbyte b).trans ?_⟩
  rw [show memByte { askedBy s 0 line (.write d en) with
    mem := m, chk := c, ecc := e, plat := p, slices := Store.del (askedBy s 0 line (.write d en)).slices line } b = Store.getD unlisted m b from rfl, hmb]
  by_cases hb : b / 128 = line
  · subst hb
    simp only [true_and, if_true, heldByte] <;> rfl
  · simp only [hb, false_and, if_false] <;> rfl

/-- A host's write of an UNCACHED line is a write of the bytes that it enables. -/
theorem hostWrite_uncached {s : State} {line : Nat} (hmay : AgentMay s 0 line) (hst : lineState s line = .uncached)
    (hl : leaseOver s line = true) (hm : Memory.wf s.mem) (d : LineData) (en : BitVec 128) :
    let t := extArrive s 0 line (.write d en)
    t.sent = s.sent ++ [.ack 0 line] ∧ t.reqs = s.reqs ∧
      ∀ b, memByte t b = if b / 128 = line ∧ en.getLsbD (b % 128) = true then d.extractLsb' (8 * (b % 128)) 8
        else memByte s b := by
  dsimp only
  have hdrop := dropReq_asked hmay (.write d en)
  have hst' : lineState (askedBy s 0 line (.write d en)) line = .uncached := hst
  have hl' : leaseOver (askedBy s 0 line (.write d en)) line = true := hl
  have ho : ownerIs (askedBy s 0 line (.write d en)) line 0 = false := by
    unfold ownerIs
    simp only [hst', Bool.false_and]
  have hholds : hostHolds (askedBy s 0 line (.write d en)) line = false := by
    unfold hostHolds
    rw [ho, hst']
    rfl
  rw [extArrive_write hmay]
  obtain ⟨m', c', e', p', tags, hmerge, hbyte⟩ := mergeBytes_spec (s := askedBy s 0 line (.write d en)) hm line d en
  unfold extWrite
  rw [if_neg (by rw [ho]; simp), if_neg (by rw [hholds]; simp)]
  simp only [hst', hl', if_true, hmerge]
  exact ⟨rfl, hdrop, hbyte⟩

/-- Settles O18: the host's requests arrive as any agent's, and the line's state decides. -/
theorem hostIsServed : Obligations.HostIsServed := by
  unfold Obligations.HostIsServed
  intro s line d en
  dsimp only
  refine ⟨fun hp hh hmay => ⟨servesAgent_of hmay ?_ ?_, fun hst hs => ?_, fun ho hm he => ?_, fun hst hl hm => ?_⟩,
    fun hh hb hw x dirty hx => ?_, fun hline x own hx => ?_, fun hline hp hlease he => ?_⟩
  · rintro i ⟨⟩
    exact congrArg Outcome.next (hostReq_arrives hp hh .read)
  · rintro i ⟨⟩
    exact congrArg Outcome.next (hostReq_arrives hp hh .own)
  · refine congrArg Outcome.next ((hostReq_arrives hp hh .peek).trans ((extArrive_asked hmay _).trans
      ((extTurn_asked hmay .peek (by simp)).trans ?_)))
    have hans := answer_asked hmay hs .peek none
    have hst' : lineState (askedBy s 0 line .peek) line = lineState s line := rfl
    dsimp only
    unfold extPeek
    rcases hst with h | h <;> simp only [hst', h] <;> exact hans
  · exact ⟨_, congrArg Outcome.next (hostReq_arrives hp hh (.write d en)), hostWriteback hmay ho hm he d en⟩
  · exact ⟨_, congrArg Outcome.next (hostReq_arrives hp hh (.write d en)), hostWrite_uncached hmay hst hl hm d en⟩
  · refine congrArg Outcome.next ?_
    rw [if_pos (by rw [hh, hb]; rfl)]
    exact homeAnswer_some hx hw dirty
  · refine congrArg Outcome.next ?_
    unfold hostCacheData
    rw [if_neg (by unfold hostLine at hline; rw [hline]; simp), hx]
    rfl
  · have hgo (inv : Bool) : hostSnoop s line inv = giveUp s 0 line inv := by
      unfold hostSnoop
      rw [if_pos (by rw [hline, hp]; rfl)]
    obtain ⟨hnone, hsome⟩ := giveUp_ready hlease he 0 true
    obtain ⟨hnone', hsome'⟩ := giveUp_ready hlease he 0 false
    rw [askAddr_host hline] at hnone hsome hnone' hsome'
    refine ⟨fun hf i hi => ?_, fun x hf => ⟨?_, ?_⟩⟩
    · simp only [List.mem_cons, List.not_mem_nil, or_false] at hi
      rcases hi with rfl | rfl
      · exact congrArg Outcome.next ((hgo false).trans (hnone' hf))
      · exact congrArg Outcome.next ((hgo true).trans (hnone hf))
    · exact congrArg Outcome.next ((hgo false).trans (hsome' x hf))
    · exact congrArg Outcome.next ((hgo true).trans (hsome x hf))

end Machine

namespace Machine
open Host

/-! ## Atomics at the home, and what their results take (R162, R251, R252) -/

theorem mem_also {id : Nat} {ids l : List Nat} {j : Nat} (h : j ∈ l) : j ∈ also id ids l := by
  unfold also
  split
  · exact List.mem_append_left _ h
  · exact h

/-- What a read has returned goes to every cover that holds the read: a group keeps its results, and its covers grow. -/
theorem grp_coverFollows {s : State} {gid : Nat} {g : Group} (hg : s.grp gid = some g) (id : Nat) (ids : List Nat) :
    ∃ h, (coverFollows s id ids).grp gid = some h ∧ h.ln.out = g.ln.out ∧ ∀ j ∈ g.ln.cov, j ∈ h.ln.cov := by
  unfold coverFollows
  split
  · exact ⟨g, hg, rfl, fun _ h => h⟩
  · dsimp only
    refine ⟨g.mapCov (also id ids) (also id (replPending s ids)), ?_, rfl, fun j hj => mem_also hj⟩
    refine (Store.find_map s.groups (fun _ (g : Group) => g.mapCov (also id ids) (also id (replPending s ids)))
        gid).trans ?_
    rw [show Store.find s.groups gid = some g from hg, Option.map_some]

theorem mem_acqCover {gid : Nat} {g : Group} {sc : Scope} {rs : List Rel} {e : Rel} (he : e ∈ rs) (hm : e.meets sc gid g = true)
    {j : Nat} (hj : j ∈ e.cover) : j ∈ acqCover gid g (some sc) rs :=
  List.mem_flatMap.2 ⟨e, List.mem_filter.2 ⟨he, hm⟩, hj⟩

/-- An atomic's result takes the old value of its lane, and an acquire takes the covers of the releases it returned. -/
theorem atomReport_lane (u : State) {gid : Nat} {g : Group} {p : Pending} (hg : u.grp gid = some g) (hp : p ∈ g.ln.out)
    (id x lane : Nat) (rs : List Rel) :
    ∃ h, (atomReport u (some (gid, true)) p.id id lane (some x) rs).grp gid = some h ∧
      ({ p with waiting := p.waiting.filter (· != id), unsampled := p.unsampled &&& ~~~laneBit lane } : Pending).setElt lane x
        ∈ h.ln.out ∧
      ∀ sc, (g.ln.out.find? fun q => q.id == p.id).bind (·.acq) = some sc → ∀ e ∈ rs, e.meets sc gid g = true →
        ∀ j ∈ e.cover, pendingId u j = true → j ∈ h.ln.cov := by
  have hr : atomReport u (some (gid, true)) p.id id lane (some x) rs =
      coverFollows (u.setGrp gid (g.setStr true { g.ln.gain u
        (acqCover gid g ((g.ln.out.find? fun q => q.id == p.id).bind (·.acq)) rs) with
          out := g.ln.out.map fun q => if q.id == p.id then atomReturn id lane (some x) q else q,
          seen := liveRels u (g.ln.seen ++ rs) })) p.id
        (acqCover gid g ((g.ln.out.find? fun q => q.id == p.id).bind (·.acq)) rs) := by
    unfold atomReport
    simp only [Option.bind_some, hg, Option.map_some]
    rfl
  rw [hr]
  obtain ⟨h, hh, hout, hcov⟩ := grp_coverFollows (State.grp_setGrp u gid (g.setStr true { g.ln.gain u
    (acqCover gid g ((g.ln.out.find? fun q => q.id == p.id).bind (·.acq)) rs) with
      out := g.ln.out.map fun q => if q.id == p.id then atomReturn id lane (some x) q else q,
      seen := liveRels u (g.ln.seen ++ rs) })) p.id
    (acqCover gid g ((g.ln.out.find? fun q => q.id == p.id).bind (·.acq)) rs)
  refine ⟨h, hh, ?_, fun sc hsc e he hm j hj hpend => hcov j ?_⟩
  · rw [hout]
    refine List.mem_map.2 ⟨p, hp, ?_⟩
    rw [if_pos (beq_self_eq_true _)]
    rfl
  · rw [hsc]
    exact List.mem_filter.2 ⟨List.mem_append_right _ (mem_acqCover he hm hj), hpend⟩

theorem performAt_atomic {s : State} {id : Nat} {r : Req} {op : AtomOp} {sg : Bool} {pa size data new pend lane : Nat}
    (hk : r.kind = .atomic op sg pa size data new pend lane) :
    (∀ bs, homeReadNow s pa size = some (bs, false) → performAt s id r = atomReport
      (afterWrite (homeWrite s pa (leBytes size (atomNew op sg size (leNat bs) data new))) id r)
      r.src pend id lane (some (leNat bs)) (relsRead s pa size [])) ∧
    (∀ bs, homeReadNow s pa size = some (bs, true) → performAt s id r = atomReport (dropReq s id) r.src pend id lane
        none []) := by
  constructor <;> intro bs h <;> unfold performAt <;> rw [hk] <;> dsimp only <;> rw [h]

/-! ## Leases, slices, replicas and walks (R221, R222, R234, R240, R241) -/

theorem l1Fill_asks {s : State} {core line : Nat} (hc : core < 384) (hp : s.plat.phase = 3) (hl : hasL1 s core line = false) :
    let u := resolve s line
    let w := Writer.id (.fill core)
    (homeLineNow u line ≠ none → mayServe u line w = true → hasL1 u core line = false →
      l1Fill s core line = { leaveLine u line w with
        expiry := Store.putD 0 u.expiry line (max (u.gtc.toNat + u.lam) (Store.getD 0 u.expiry line)),
        l1 := (u.l1.filter fun c => !(c.core == core && c.line == line)) ++ [⟨core, line, u.gtc.toNat + u.lam⟩] }) ∧
    ((homeLineNow u line = none ∨ mayServe u line w = false) → l1Fill s core line = arriveAt (askRead u line) line w)
        := by
  have hask : l1Fill s core line = askFill s core line := if_neg (by omega)
  refine ⟨fun hn hm h => ?_, fun h => ?_⟩
  · have hsome : (homeLineNow (resolve s line) line).isSome = true := Option.isSome_iff_ne_none.2 hn
    rw [hask, askFill]
    dsimp only
    rw [if_neg (by rw [hl]; simp), if_pos (by rw [hsome, hm]; rfl), fillL1]
    dsimp only
    rw [if_neg (by rw [h, hm, ← Option.not_isSome, hsome]; simp)]
  · rw [hask, askFill]
    dsimp only
    rw [if_neg (by rw [hl]; simp), if_neg]
    rcases h with h | h <;> rw [h] <;> simp

theorem evict_over {s : State} {line : Nat} {d : SliceLine} (hl : leaseOver s line = true) (he : engineHeld s line = false)
    (hd : Store.find s.slices line = some d) :
    (inHbm (128 * line) = true → lineState s line = .owned → evict s line =
      setEly { s with slices := Store.del s.slices line } line
        (mkEly (elyInc (elyRaw s line)) (elyAgents (elyRaw s line)) 4)) ∧
    (paKind s (128 * line) = .host → evict s line = ({ s with slices := Store.del s.slices line } : State).emit
      (.evict 0 (128 * line - 0x8000000000000) (if d.dirty then some d.data else none))) := by
  constructor
  · intro hh hst
    simp only [evict, hl, he, Bool.not_true, Bool.or_self, Bool.false_eq_true, if_false, hd, paKind_hbm s hh, hst]
  · intro hk
    obtain ⟨hh, hle⟩ := paKind_host hk
    have ha : askAddr s line = 128 * line - 0x8000000000000 := by
      unfold askAddr
      rw [if_neg (by rw [hh]; simp), if_pos hle]
    simp only [evict, hl, he, Bool.not_true, Bool.or_self, Bool.false_eq_true, if_false, hd, hk, ha]

theorem evict_leased {s : State} {line : Nat} (hl : leaseOver s line = false) : evict s line = s := by
  unfold evict
  rw [if_pos (by rw [hl]; rfl)]

theorem arriveAt_reqs (s : State) (line id : Nat) : (arriveAt s line id).reqs = s.reqs := by
  unfold arriveAt
  split <;> rfl

theorem lockReplica_ready {s : State} {id die : Nat} {r : Req} (ht : reqTurn s id r = true)
    (hnext : (List.range 8).find? (fun d => r.repl.getLsbD d && !r.locked.contains d) = some die) :
    let rl := r.line % 0x40000000 + die * 0x40000000
    let u := arriveAt s r.line id
    engineHeld u r.line = false → mayServe u r.line id = true → engineHeld u rl = false → mayServe u rl id = true →
    resolve u rl = u → homeWritable u rl = true → leaseOver u rl = true →
    lockReplica s id r die = { setEly (arriveAt u rl id) rl (mkEly 0 0 7) with
      reqs := Store.put s.reqs id { r with locked := r.locked ++ [die] } } := by
  intro rl u h1 h2 h3 h4 h5 h6 h7
  have hreqs : (arriveAt u rl id).reqs = s.reqs := (arriveAt_reqs ..).trans (arriveAt_reqs ..)
  unfold lockReplica
  dsimp only
  rw [if_neg (by rw [hnext, ht]; simp), if_neg (by rw [h1, h2]; simp), if_neg (by rw [h3, h4]; simp), h5,
    if_neg (by rw [h6]; simp), if_neg (by rw [h7]; simp), hreqs]

theorem updateReplicas_locked {s : State} {id : Nat} {r : Req} (hr : r.repl ≠ 0)
    (hlock : ∀ d, d < 8 → r.repl.getLsbD d = true → r.locked.contains d = true)
    (hw : ∀ l ∈ replicaLines r.line r.repl, inWindow s l = false) :
    updateReplicas s id r = commitReplicas
      (performAt ((replicaLines r.line r.repl).foldl (fun s l => setEly s l 0) s) id r) r.line r.repl := by
  have hall : ((List.range 8).all fun d => !r.repl.getLsbD d || r.locked.contains d) = true := by
    rw [List.all_eq_true]
    intro d hd
    cases hb : r.repl.getLsbD d
    · rfl
    · rw [hlock d (List.mem_range.1 hd) hb]; rfl
  have hany : (replicaLines r.line r.repl).any (inWindow s) = false := by
    rw [List.any_eq_false]
    intro l hl
    rw [hw l hl]
    simp
  unfold updateReplicas
  dsimp only
  rw [if_neg]
  rw [hall, hany, beq_false_of_ne hr]
  simp

theorem tableWalk_found {s : State} {die asp va pa root : Nat} {e : TlbEntry} (hva : va < 2 ^ 57)
    (ht : (s.tlb.any fun e => e.die == die && e.asp == asp && e.vpn == va / 65536) = false) (hp : s.plat.phase = 3)
    (hr : resolveWalk s asp va = s) (hroot : Store.find s.aspaces asp = some root) (hw : walk s die asp va 4 root =
        .ok pa e) :
    tableWalk s die asp va = { s with tlb := s.tlb ++ [e] } := by
  have hfind : (s.tlb.find? fun e => e.die == die && e.asp == asp && e.vpn == va / 65536) = none := by
    rw [List.find?_eq_none]
    exact List.any_eq_false.1 ht
  have htr : translate s die asp va .read = .ok (routed e die pa .read) e := by
    unfold translate
    rw [if_neg (by omega), hfind, hroot]
    dsimp only
    rw [hw]
    rfl
  have hkeep : keepTr s die asp va = { s with tlb := s.tlb ++ [e] } := by
    unfold keepTr
    rw [if_neg (by rw [ht, decide_eq_false (by omega)]; simp), hr]
    dsimp only
    rw [hroot]
    dsimp only
    rw [hw]
  unfold tableWalk
  rw [if_neg (by rw [hp]; simp), htr]
  exact hkeep

theorem homesAct : Claims.HomesAct := by
  unfold Claims.HomesAct
  intro s id line core die asp va stack row r
  refine ⟨fun op sg pa size data new pend lane hmay hk => ?_, fun u gid g p x lane rs hg hp => atomReport_lane u hg hp
      id x lane rs,
    fun hc hp hl => ?_, rfl, fun d hl he hd => ?_, fun hl => congrArg Outcome.next (evict_leased hl), ?_, ?_, ?_, rfl⟩
  · have hex := exec_homeWritePerform_ready hmay fun a w hr => by rw [hk] at hr; cases hr
    obtain ⟨hgood, hbad⟩ := performAt_atomic (s := s) (id := id) hk
    exact ⟨fun bs h => hex.trans (congrArg Outcome.next (hgood bs h)), fun bs h => hex.trans (congrArg Outcome.next
        (hbad bs h))⟩
  · obtain ⟨hserved, hwaits⟩ := l1Fill_asks hc hp hl
    exact ⟨fun hn hm h => congrArg Outcome.next (hserved hn hm h), fun h => congrArg Outcome.next (hwaits h)⟩
  · obtain ⟨hown, hhost⟩ := evict_over hl he hd
    exact ⟨fun hh hst => congrArg Outcome.next (hown hh hst), fun hk => congrArg Outcome.next (hhost hk)⟩
  · intro rl hfind hrl ht hnext u h1 h2 h3 h4 h5 h6 h7
    subst hrl
    have h := lockReplica_ready ht hnext h1 h2 h3 h4 h5 h6 h7
    refine congrArg Outcome.next ?_
    rw [hfind]
    exact h
  · intro hfind hr hlock hw
    refine congrArg Outcome.next ?_
    rw [hfind]
    exact updateReplicas_locked hr hlock hw
  · intro e hva ht hp hr pa root hroot hw
    exact congrArg Outcome.next (tableWalk_found hva ht hp hr hroot hw)

/-! ## Lines of lost owners (R229, R355) -/

theorem resolve_inWindow {s : State} {line : Nat} (hh : inHbm (128 * line) = true) (hw : inWindow s line = true) :
    resolve s line = s := by
  unfold resolve
  rw [if_pos (by rw [hh, hw]; rfl)]

theorem mediaRead_nothing {s : State} {line : Nat} (h : pickMask s.picks (pkMedia line) = 0) : mediaRead s line = s := by
  have hm : mediaHit s line = s := by
    unfold mediaHit
    rw [h]
    rfl
  unfold mediaRead
  split
  case h_5 => rfl
  all_goals exact hm

theorem channelGone_sound {s : State} {line : Nat} (h : onFailedChannel s line = false) : channelGone s line = s := by
  unfold channelGone
  rw [if_neg (by rw [h]; simp)]

/-- A line outside a window, whose reading meets no error, whose owner is lost. -/
theorem resolve_lost {s : State} {line : Nat} (hf : onFailedChannel s line = false) (hw : inWindow s line = false)
    (hp : pickMask s.picks (pkMedia line) = 0)
    (hl : (agent s (elyOwner (elyRaw s line))).down = true ∨
      (agent s (elyOwner (elyRaw s line))).inc ≠ elyInc (elyRaw s line)) :
    (lineState s line = .exclusive → resolve s line = setEly s line 0) ∧
    (lineState s line = .modified → resolve s line =
      logLoss (setEly s line 0) line 1 (elyOwner (elyRaw s line)) (elyInc (elyRaw s line))) ∧
    (lineState s line = .owned → (∀ d, Store.find s.slices line = some d → resolve s line =
        setEly { writeMem s (128 * line) (bytesOf d.data) with slices := Store.del s.slices line } line 0) ∧
      (Store.find s.slices line = none → resolve s line = setEly s line 0)) := by
  have hlost : ((agent s (elyOwner (elyRaw s line))).down ||
      (agent s (elyOwner (elyRaw s line))).inc != elyInc (elyRaw s line)) = true := by
    rw [Bool.or_eq_true, bne_iff_ne]
    exact hl
  have hin : channelGone (mediaRead s line) line = s := by rw [mediaRead_nothing hp, channelGone_sound hf]
  refine ⟨fun h => ?_, fun h => ?_, fun h => ⟨fun d hd => ?_, fun hd => ?_⟩⟩ <;> unfold resolve <;>
    rw [if_neg (by rw [hw]; simp), hin] <;> dsimp only <;> rw [h] <;> dsimp only <;> rw [if_pos hlost]
  all_goals rw [hd]

theorem logLoss_full {s : State} (h : s.loss.size = 0) (line kind a : Nat) (inc : BitVec 2) :
    logLoss s line kind a inc = { s with loss := { s.loss with lost := s.loss.lost + 1 } } := by
  unfold logLoss
  dsimp only
  rw [if_pos h]

theorem logLoss_next {s : State} (h : s.loss.size ≠ 0) (line kind a : Nat) (inc : BitVec 2) :
    (logLoss s line kind a inc).loss.next = s.loss.next + 1 := by
  unfold logLoss
  dsimp only
  rw [if_neg h]

theorem logLoss_lineState (s : State) (line kind a : Nat) (inc : BitVec 2) (l : Nat) :
    lineState (logLoss s line kind a inc) l = lineState s l := by
  by_cases h : s.loss.size = 0
  · rw [logLoss_full h]; rfl
  · unfold logLoss
    dsimp only
    rw [if_neg h]
    refine lineState_congr ?_ ?_ l
    · exact writeMem_ely s _ _
    · obtain ⟨c, e, p, hw, -⟩ := writeMem_cases s (s.loss.base + 16 * (s.loss.next % (s.loss.size / 16)))
        (leBytes 8 (line * 128) ++ leBytes 8 (s.gtc.toNat % 2 ^ 48 * 2 ^ 16 + kind * 2 ^ 8 + a * 4 + inc.toNat))
      rw [hw]

theorem lostOwnersGiveWay : Claims.LostOwnersGiveWay := by
  unfold Claims.LostOwnersGiveWay
  intro s line
  refine ⟨resolve_inWindow, fun hf hb hw hp => ?_⟩
  intro e b hl he
  obtain ⟨hex, hmod, hown⟩ := resolve_lost hf hw hp hl
  have hunc := lineState_setEly_zero he hb
  refine ⟨fun h => ?_, fun h => ⟨?_, fun hz => ?_, fun hz => ?_⟩, fun h => ⟨?_, fun d hd => (hown h).1 d hd⟩⟩
  · rw [hex h]
    exact ⟨hunc, rfl⟩
  · rw [hmod h, logLoss_lineState]
    exact hunc
  · rw [hmod h]
    exact logLoss_full (s := setEly s line 0) hz ..
  · rw [hmod h]
    exact logLoss_next (s := setEly s line 0) hz ..
  · cases hd : Store.find s.slices line with
    | none =>
      rw [(hown h).2 hd]
      exact hunc
    | some d =>
      rw [(hown h).1 d hd]
      obtain ⟨c, x, p, hw', -⟩ := writeMem_cases s (128 * line) (bytesOf d.data)
      rw [hw']
      exact hunc

/-- Settles O52: each act of a home is one function of the model with its guards met. -/
theorem homesServe : Obligations.HomesServe := ⟨homesAct, lostOwnersGiveWay⟩

end Machine

end Sys2Proof
end

section
/-!
PROOFS. Saves: images, and how halted teams and launches are saved (R326 to R335).
-/
namespace Sys2Proof

namespace Machine
open Host

/-! ## Fields of images (R330 to R332) -/

/-- The number that n bytes at an offset make. -/
def fieldAt (bs : List Byte) (o n : Nat) : Nat := leNat ((bs.drop o).take n)

theorem fieldAt_skip {a b : List Byte} {k o : Nat} (h : a.length = k) (hk : k ≤ o) (n : Nat) :
    fieldAt (a ++ b) o n = fieldAt b (o - k) n := by
  unfold fieldAt
  rw [List.drop_append, h, List.drop_of_length_le (by omega), List.nil_append]

theorem fieldAt_leBytes_skip {b : List Byte} {k o : Nat} (v n : Nat) (hk : k ≤ o) :
    fieldAt (leBytes k v ++ b) o n = fieldAt b (o - k) n := fieldAt_skip (length_leBytes k v) hk n

theorem fieldAt_leBytes (b : List Byte) (n v : Nat) : fieldAt (leBytes n v ++ b) 0 n = v % 256 ^ n := by
  unfold fieldAt
  rw [List.drop_zero, List.take_append_of_le_length (by rw [length_leBytes]),
    List.take_of_length_le (by rw [length_leBytes]), leNat_leBytes]

theorem leBytes_split (k m v : Nat) : leBytes (k + m) v = leBytes k v ++ leBytes m (v / 256 ^ k) := by
  induction k generalizing v with
  | zero => simp [leBytes]
  | succ k ih => rw [Nat.add_right_comm, leBytes, leBytes, ih, List.cons_append, Nat.div_div_eq_div_mul, ←
      Nat.pow_succ']

theorem fieldAt_bytesOf {w : Nat} (hw : w % 8 = 0) (x : BitVec w) (b : List Byte) : fieldAt (bytesOf x ++ b) 0 (w / 8) = x.toNat := by
  rw [bytesOf, fieldAt_leBytes, show 256 = 2 ^ 8 from rfl, ← Nat.pow_mul, Nat.mul_div_cancel' (Nat.dvd_of_mod_eq_zero
      hw),
    Nat.mod_eq_of_lt x.isLt]

theorem length_flatMap_const {α : Type} {f : α → List Byte} {k : Nat} (l : List α) (h : ∀ x ∈ l, (f x).length = k) :
    (l.flatMap f).length = k * l.length := by
  induction l with
  | nil => rfl
  | cons x l ih =>
    rw [List.flatMap_cons, List.length_append, h x (List.mem_cons_self ..),
      ih fun y hy => h y (List.mem_cons_of_mem _ hy), List.length_cons, Nat.mul_succ, Nat.add_comm]

/-- A field of one of several pieces of the same length. -/
theorem fieldAt_flatMap {α : Type} {f : α → List Byte} {k : Nat} (l : List α) (hf : ∀ x ∈ l, (f x).length = k) (b : List Byte)
    {n : Nat} (hn : n < l.length) : fieldAt (l.flatMap f ++ b) (k * n) k = fieldAt (f l[n]) 0 k := by
  induction l generalizing n with
  | nil => exact absurd hn (Nat.not_lt_zero _)
  | cons x l ih =>
    have hx := hf x (List.mem_cons_self ..)
    rw [List.flatMap_cons, List.append_assoc]
    cases n with
    | zero =>
      rw [Nat.mul_zero]
      simp only [fieldAt, List.drop_zero, List.getElem_cons_zero]
      rw [List.take_append_of_le_length (by omega)]
    | succ n =>
      rw [fieldAt_skip hx (by rw [Nat.mul_succ]; omega), Nat.mul_succ, Nat.add_sub_cancel]
      exact ih (fun y hy => hf y (List.mem_cons_of_mem _ hy)) (Nat.lt_of_succ_lt_succ hn)

theorem fieldAt_flatMap_bytesOf {w : Nat} (hw : w % 8 = 0) (l : List (BitVec w)) (b : List Byte) {n : Nat} (hn : n < l.length) :
    fieldAt (l.flatMap bytesOf ++ b) (w / 8 * n) (w / 8) = (l[n]).toNat := by
  rw [fieldAt_flatMap l (fun x _ => length_bytesOf x) b hn]
  have h := fieldAt_bytesOf hw l[n] []
  rwa [List.append_nil] at h

theorem length_shBytes (x : Shadow) : (shBytes x).length = 8 := by
  cases x <;> simp only [shBytes, List.length_append, length_leBytes, length_bytesOf]

theorem length_zeros (n : Nat) : (zeros n).length = n := length_tabulate ..

/-! ## The header of a saved team (R330) -/

/-- The header's words that place the records of the groups. -/
def groupOffsets (team : Bool) (gs : List Group) : List Byte :=
  (List.range 32).flatMap fun g =>
    leBytes 8 (if team then (if gs.any fun x => x.gidx == g then gOff g else 0) else (if g = 0 then gOff 0 else 0))

/-- The header's words of the barriers. -/
def barrierWords (t : Team) : List Byte :=
  (List.range 16).flatMap fun j =>
    leBytes 8 ((if (barAt t j).arr.isEmpty then 0 else (barAt t j).count) * 65536 + (barAt t j).arr.length * 256 +
      (if (barAt t j).phase then 1 else 0))

theorem length_barrierWords (t : Team) : (barrierWords t).length = 0x80 := length_flatMap_const _ fun _ _ =>
    length_leBytes ..

theorem length_groupOffsets (team : Bool) (gs : List Group) : (groupOffsets team gs).length = 0x100 :=
  length_flatMap_const _ fun _ _ => length_leBytes ..

theorem headBytes_eq (s : State) (k : Nat) (t : Team) (l : Launch) (gs : List Group) : headBytes s k t l gs =
    leBytes 2 1 ++ (leBytes 1 t.why ++ (leBytes 1 gs.length ++ (leBytes 4 (t.tid.getD 0xFFFFFFFF) ++ (leBytes 4 t.lid ++
    (leBytes 1 (if t.why != 2 then t.fkind else 0) ++ (leBytes 3 (if t.why != 2 then t.fmaster else 0) ++
    (leBytes 8 (if t.why != 2 then t.fva else 0) ++ (leBytes 8 l.kdesc ++
    (leBytes 4 (if t.tid.isSome then (teamCopies s k false).length else 0) ++
    (leBytes 4 (if t.tid.isSome then (teamAttns s k).length else 0) ++
    (leBytes 8 (if t.tid.isSome then (teamCopies s k true).length else 0) ++ (leBytes 8 spOff ++ (leBytes 8 accOff ++
    (leBytes 8 cmdOff ++ (barrierWords t ++ (zeros 0x38 ++ groupOffsets t.tid.isSome gs)))))))))))))))) := by
  unfold headBytes
  simp only [List.append_assoc]
  rfl

theorem length_headBytes (s : State) (k : Nat) (t : Team) (l : Launch) (gs : List Group) : (headBytes s k t l
    gs).length = 0x200 := by
  rw [headBytes_eq]
  simp only [List.length_append, length_leBytes, length_barrierWords, length_groupOffsets, length_zeros]

theorem headBytes_fields (s : State) (k : Nat) (t : Team) (l : Launch) (gs : List Group) :
    let hd := headBytes s k t l gs
    fieldAt hd 0 2 = 1 ∧ fieldAt hd 2 1 = t.why % 256 ∧ fieldAt hd 3 1 = gs.length % 256 ∧
      fieldAt hd 4 4 = t.tid.getD 0xFFFFFFFF % 2 ^ 32 ∧ fieldAt hd 8 4 = t.lid % 2 ^ 32 ∧
      fieldAt hd 0x0C 1 = (if t.why = 2 then 0 else t.fkind % 256) ∧
      fieldAt hd 0x10 8 = (if t.why = 2 then 0 else t.fva % 2 ^ 64) ∧
      fieldAt hd 0x18 8 = l.kdesc % 2 ^ 64 ∧ fieldAt hd 0x30 8 = 0x510000 ∧ fieldAt hd 0x38 8 = 0x5D0000 ∧
      fieldAt hd 0x40 8 = 0x610000 := by
  dsimp only
  rw [headBytes_eq]
  have hkind (x : Nat) : (if t.why != 2 then x else 0) % 256 = if t.why = 2 then 0 else x % 256 := by
    by_cases h : t.why = 2 <;> simp [h]
  have hva (x : Nat) : (if t.why != 2 then x else 0) % 2 ^ 64 = if t.why = 2 then 0 else x % 2 ^ 64 := by
    by_cases h : t.why = 2 <;> simp [h]
  refine ⟨?_, ?_, ?_, ?_, ?_, ?_, ?_, ?_, ?_, ?_, ?_⟩ <;>
    simp (disch := decide) only [fieldAt_leBytes_skip, fieldAt_leBytes, Nat.reduceSub, Nat.reducePow]
  · exact hkind _
  · exact hva _
  all_goals rfl

/-- A group's record is placed in the header's word of its index. -/
theorem headBytes_group (s : State) (k : Nat) (t : Team) (l : Launch) (gs : List Group) (ht : t.tid.isSome = true) {g : Nat}
    (hg : g < 32) : fieldAt (headBytes s k t l gs) (0x100 + 8 * g) 8 =
      if ∃ e ∈ gs, e.gidx = g then 0x1000 + 0x28000 * g else 0 := by
  have hlen : (headBytes s k t l gs).length = 0x200 := length_headBytes ..
  obtain ⟨a, ha, hal⟩ : ∃ a, headBytes s k t l gs = a ++ groupOffsets true gs ∧ a.length = 0x100 := by
    refine ⟨(headBytes s k t l gs).take 0x100, ?_, by rw [List.length_take, hlen]; rfl⟩
    have hdrop : (headBytes s k t l gs).drop 0x100 = groupOffsets true gs := by
      rw [headBytes_eq, ht]
      simp only [← List.append_assoc]
      refine List.drop_left' ?_
      simp only [List.length_append, length_leBytes, length_barrierWords, length_zeros]
    rw [← hdrop, List.take_append_drop]
  rw [ha, fieldAt_skip hal (by omega), Nat.add_sub_cancel_left]
  have h := fieldAt_flatMap (List.range 32) (f := fun g =>
    leBytes 8 (if true = true then (if gs.any fun x => x.gidx == g then gOff g else 0) else (if g = 0 then gOff 0 else
        0)))
    (fun _ _ => length_leBytes ..) [] (n := g) (by rw [List.length_range]; exact hg)
  rw [List.append_nil, List.getElem_range] at h
  refine h.trans ?_
  have hb := fieldAt_leBytes [] 8 (if gs.any (fun x => x.gidx == g) then gOff g else 0)
  rw [List.append_nil] at hb
  rw [if_pos rfl, hb]
  by_cases he : ∃ e ∈ gs, e.gidx = g
  · rw [if_pos he, if_pos]
    · exact Nat.mod_eq_of_lt (by unfold gOff; omega)
    · obtain ⟨e, hm, hi⟩ := he
      exact List.any_eq_true.2 ⟨e, hm, beq_iff_eq.2 hi⟩
  · have hnone : ¬ gs.any (fun x => x.gidx == g) = true := fun h => by
      obtain ⟨e, hm, hi⟩ := List.any_eq_true.1 h
      exact he ⟨e, hm, beq_iff_eq.1 hi⟩
    rw [if_neg he, if_neg hnone, Nat.zero_mod]

/-! ## The record of a group (R331) -/

/-- What a group's record holds before its scalar PC. -/
def recordRegs (g : Group) : List Byte :=
  (g.s.toList.flatMap bytesOf) ++ ((g.ssh.toList.flatMap shBytes) ++ ((g.hs.toList.flatMap bytesOf) ++
    ((g.hsh.toList.flatMap shBytes) ++ (zeros 0xA0 ++ ((g.a.toList.flatMap bytesOf) ++
    (tabulate 8 fun n => g.pRaw n).flatMap bytesOf)))))

theorem length_recordRegs (g : Group) : (recordRegs g).length = 0x540 := by
  have h32 (l : List (BitVec 32)) : (l.flatMap bytesOf).length = 4 * l.length := length_flatMap_const _ fun x _ =>
      length_bytesOf x
  have h64 (l : List (BitVec 64)) : (l.flatMap bytesOf).length = 8 * l.length := length_flatMap_const _ fun x _ =>
      length_bytesOf x
  have h128 (l : List (BitVec 128)) : (l.flatMap bytesOf).length = 16 * l.length :=
    length_flatMap_const _ fun x _ => length_bytesOf x
  have hsh (l : List Shadow) : (l.flatMap shBytes).length = 8 * l.length := length_flatMap_const _ fun x _ =>
      length_shBytes x
  have ha := h128 g.a.toList
  unfold recordRegs
  simp only [List.length_append, h32, h64, hsh, ha, length_zeros, Vector.length_toList, length_tabulate]

/-- What a group's record holds after its trap registers. -/
def recordRest (i : Nat) (g : Group) : List Byte :=
  leBytes 4 0 ++ (leBytes 8 (if g.chain.isSome then chainOff i else 0) ++ ((g.fx.toList.map fun f => f.zeroExtend 8) ++
    (leBytes 8 g.tpc.toNat ++ (zeros 0x38 ++ (ctxBytes g.interrupted.2 ++ (zeros 0x600 ++
    ((g.vsh.toList.flatMap shBytes) ++ zeros 0x600)))))))

/-- The words of a group's record from its scalar PC on, up to its trap registers. -/
theorem groupBytes_eq (s : State) (i : Nat) (g : Group) : ∃ low, low < 65536 ∧ groupBytes s i g =
    recordRegs g ++ (leBytes 8 g.interrupted.1.toNat ++ (leBytes 8 g.live.toNat ++ (leBytes 4 g.mode.toNat ++
    (leBytes 2 low ++ (leBytes 2 g.q ++ (leBytes 2 g.ccopy.toNat ++ (leBytes 2 g.ctrav.toNat ++
    (leBytes 2 g.cattn.toNat ++ (leBytes 2 (yieldOf g).2.2.1 ++ (leBytes 8 ((yieldOf g).2.2.2 + (yieldOf g).2.1) ++
    (leBytes 4 (trappcVal s g).toNat ++ (leBytes 4 g.tcause.toNat ++ (leBytes 4 g.tinfo.toNat ++ recordRest i
        g))))))))))))) := by
  have hy : (yieldOf g).1 ≤ 1 := by unfold yieldOf; split <;> simp
  have hb (b : Bool) : (if b then 1 else 0) ≤ 1 := by cases b <;> simp
  have hpair (x y : Nat) (hx : x < 65536) : leBytes 4 (y * 65536 + x) = leBytes 2 x ++ leBytes 2 y := by
    have hm : leBytes 2 (y * 65536 + x) = leBytes 2 x := by
      have h1 : (y * 65536 + x) % 256 = x % 256 := by omega
      have h2 : (y * 65536 + x) / 256 % 256 = x / 256 % 256 := by omega
      have he (a c : Nat) (h : a % 256 = c % 256) : BitVec.ofNat 8 a = BitVec.ofNat 8 c := BitVec.eq_of_toNat_eq (by
          simpa using h)
      simp only [leBytes, he _ _ h1, he _ _ h2]
    rw [leBytes_split 2 2, hm]
    congr 2
    omega
  have hlow : g.role.toNat * 256 + (if g.chain.isSome then 1 else 0) * 8 + (yieldOf g).1 * 4 + (if g.handler then 1
      else 0) < 65536 := by
    have := g.role.isLt
    have := hb g.chain.isSome
    have := hb g.handler
    omega
  refine ⟨_, hlow, ?_⟩
  unfold groupBytes recordRegs recordRest
  dsimp only
  rw [show g.q * 65536 + g.role.toNat * 256 + (if g.chain.isSome then 1 else 0) * 8 + (yieldOf g).1 * 4 + (if
      g.handler then 1 else 0) =
    g.q * 65536 + (g.role.toNat * 256 + (if g.chain.isSome then 1 else 0) * 8 + (yieldOf g).1 * 4 + (if g.handler then
        1 else 0)) by
      omega, hpair _ _ hlow, hpair _ _ g.ccopy.isLt, hpair _ _ g.cattn.isLt]
  simp only [List.append_assoc]
  rfl

theorem groupBytes_fields (s : State) (i : Nat) (g : Group) :
    let r := groupBytes s i g
    (∀ n, n < 64 → fieldAt r (4 * n) 4 = (vget g.s n).toNat) ∧ fieldAt r 0x548 8 = g.live.toNat ∧
      fieldAt r 0x550 4 = g.mode.toNat ∧ fieldAt r 0x556 2 = g.q % 65536 ∧ fieldAt r 0x558 2 = g.ccopy.toNat ∧
      fieldAt r 0x55A 2 = g.ctrav.toNat ∧ fieldAt r 0x55C 2 = g.cattn.toNat ∧ fieldAt r 0x56C 4 = g.tcause.toNat ∧
      fieldAt r 0x570 4 = g.tinfo.toNat := by
  dsimp only
  obtain ⟨low, -, hr⟩ := groupBytes_eq s i g
  rw [hr]
  refine ⟨fun n hn => ?_, ?_, ?_, ?_, ?_, ?_, ?_, ?_, ?_⟩
  · have hlen : n < g.s.toList.length := by rw [Vector.length_toList]; exact hn
    unfold recordRegs
    rw [List.append_assoc]
    refine (fieldAt_flatMap_bytesOf (w := 32) rfl g.s.toList _ hlen).trans ?_
    rw [vget, Vector.getElem_toList, Vector.getElem?_eq_getElem hn]
    rfl
  all_goals
    rw [fieldAt_skip (length_recordRegs g) (by decide)]
    simp (disch := decide) only [fieldAt_leBytes_skip, fieldAt_leBytes, Nat.reduceSub]
  · exact Nat.mod_eq_of_lt g.live.isLt
  · exact Nat.mod_eq_of_lt g.mode.isLt
  · rfl
  · exact Nat.mod_eq_of_lt g.ccopy.isLt
  · exact Nat.mod_eq_of_lt g.ctrav.isLt
  · exact Nat.mod_eq_of_lt g.cattn.isLt
  · exact Nat.mod_eq_of_lt g.tcause.isLt
  · exact Nat.mod_eq_of_lt g.tinfo.isLt

/-! ## The parts of an image, and its zeros (R3, R43, R330) -/

/-- A part replaces the bytes of the line that it covers, and no others. -/
theorem getElem?_overlay {img bs : List Byte} {a b o : Nat} (hl : img.length = 128) (hab : a < b) (hb : b ≤ 128)
    (hbs : bs.length = b - a) (ho : o < a ∨ b ≤ o) : (img.take a ++ bs ++ img.drop b)[o]? = img[o]? := by
  rw [List.append_assoc]
  rcases ho with ho | ho
  · rw [List.getElem?_append_left (by rw [List.length_take]; omega), List.getElem?_take, if_pos ho]
  · rw [List.getElem?_append_right (by rw [List.length_take]; omega), List.length_take,
      List.getElem?_append_right (by omega), hbs, List.getElem?_drop]
    congr 1
    omega

/-- A byte of a slot that none of the parts lists is 0. -/
theorem slotLine_unlisted {pa line o : Nat} (ho : o < 128) (qs : List (Nat × List Byte))
    (h : ∀ p ∈ qs, 128 * line + o < pa + p.1 ∨ pa + p.1 + p.2.length ≤ 128 * line + o) : (slotLine pa qs line)[o]? =
        some 0 := by
  unfold slotLine
  suffices ∀ img : List Byte, img.length = 128 → img[o]? = some 0 →
      (qs.foldl (fun img p =>
        let a := max (pa + p.1) (128 * line)
        let b := min (pa + p.1 + p.2.length) (128 * line + 128)
        if b ≤ a then img
        else img.take (a - 128 * line) ++ (p.2.drop (a - pa - p.1)).take (b - a) ++ img.drop (b - 128 * line))
            img)[o]? = some 0 from
    this _ (length_zeros _) (by rw [zeros, tabulate, List.getElem?_map, List.getElem?_range ho]; rfl)
  induction qs with
  | nil => exact fun _ _ h => h
  | cons p qs ih =>
    intro img hl hz
    have hp := h p (List.mem_cons_self ..)
    rw [List.foldl_cons]
    dsimp only
    refine ih (fun q hq => h q (List.mem_cons_of_mem _ hq)) _ ?_ ?_
    · split
      · exact hl
      · simp only [List.length_append, List.length_take, List.length_drop, hl]
        omega
    · split
      · exact hz
      · rw [getElem?_overlay hl (by omega) (by omega) (by simp only [List.length_take, List.length_drop]; omega) (by omega)]
        exact hz

theorem mem_savedRegs {d : KDesc} {g : Group} {n : Nat} (hn : n < g.q) (hv : ∀ a b, d.vol = some (a, b) → n < a ∨ b < n) :
    n ∈ savedRegs d g := by
  refine List.mem_filter.2 ⟨List.mem_range.2 hn, ?_⟩
  cases h : d.vol with
  | none => rfl
  | some v => simpa using hv v.1 v.2 h

theorem imagesHold : Claims.ImagesHold := by
  unfold Claims.ImagesHold
  intro s k pa line t l gs
  dsimp only
  refine ⟨⟨headBytes s k t l (gs.map (·.2)), ?_, length_headBytes .., ?_⟩, fun ht => ?_, fun e he ht => ?_,
    fun qs o ho h => slotLine_unlisted ho qs h⟩
  · exact List.mem_append_left _ (List.mem_cons_self ..)
  · have hfields := headBytes_fields s k t l (gs.map (·.2))
    unfold fieldAt at hfields
    rw [List.length_map] at hfields
    obtain ⟨h0, h2, h3, h4, h8, hc, h10, h18, h30, h38, h40⟩ := hfields
    refine ⟨h0, h2, h3, h4, h8, hc, h10, h18, h30, h38, h40, fun g hg ht => ?_⟩
    have hgroup := headBytes_group s k t l (gs.map (·.2)) (Option.isSome_iff_ne_none.2 ht) hg
    unfold fieldAt at hgroup
    refine hgroup.trans ?_
    refine if_congr ⟨?_, ?_⟩ rfl rfl
    · rintro ⟨x, hx, hi⟩
      obtain ⟨e, he, rfl⟩ := List.mem_map.1 hx
      exact ⟨e, he, hi⟩
    · rintro ⟨e, he, hi⟩
      exact ⟨e.2, List.mem_map.2 ⟨e, he, rfl⟩, hi⟩
  · refine List.mem_append_right _ ?_
    rw [if_pos (Option.isSome_iff_ne_none.2 ht)]
    exact List.mem_cons_self ..
  · have hi : (if t.tid.isSome = true then e.2.gidx else 0) = e.2.gidx := if_pos (Option.isSome_iff_ne_none.2 ht)
    have hfields := groupBytes_fields s e.2.gidx e.2
    unfold fieldAt at hfields
    obtain ⟨hs, hlive, hmode, hq, hcc, hct, hca, htc, hti⟩ := hfields
    refine ⟨groupBytes s e.2.gidx e.2, ?_, hs, hlive, hmode, hq, hcc, hct, hca, htc, hti, fun n hn hv =>
      ⟨(tabulate e.2.width fun ln => vRaw s e.1 e.2 n ln).flatMap bytesOf, ?_, fun i hi' => ?_⟩⟩
    · refine List.mem_append_left _ (List.mem_cons_of_mem _ (List.mem_flatMap.2 ⟨e, he, ?_⟩))
      refine List.mem_append_left _ ?_
      rw [hi]
      exact List.mem_cons_self ..
    · refine List.mem_append_left _ (List.mem_cons_of_mem _ (List.mem_flatMap.2 ⟨e, he, ?_⟩))
      refine List.mem_append_left _ (List.mem_cons_of_mem _ (List.mem_map.2 ⟨n, mem_savedRegs hn hv, ?_⟩))
      rw [hi]
      rfl
    · have hlen : i < (tabulate e.2.width fun ln => vRaw s e.1 e.2 n ln).length := by rw [length_tabulate]; exact hi'
      have h := fieldAt_flatMap_bytesOf (w := 32) rfl _ [] hlen
      rw [List.append_nil] at h
      unfold fieldAt at h
      refine h.trans ?_
      simp only [tabulate, List.getElem_map, List.getElem_range]

end Machine

namespace Machine
open Host

/-! ## PREEMPT halts launches (R161, R326) -/

/-- A group as a halt for a save leaves it. -/
def haltGroup (g : Group) : Group :=
  { g with
    halted := true, sc := g.sc.stopWait, ln := g.ln.stopWait, ctx := { g.ctx with part := g.ctx.part && g.trap.isSome } }

theorem stopWait_stopWait (x : Stream) : x.stopWait.stopWait = x.stopWait := by
  have hnone (y : Stream) (h : y.wait = none) : y.stopWait = y.unwait := by unfold Stream.stopWait; rw [h]
  cases hw : x.wait with
  | none => rw [hnone x hw]; exact hnone _ rfl
  | some w =>
    cases w with
    | yield c t k =>
      have hx : x.stopWait = x := by unfold Stream.stopWait; rw [hw]
      rw [hx, hx]
    | _ =>
      have hx : x.stopWait = x.unwait := by unfold Stream.stopWait; rw [hw]
      rw [hx]; exact hnone _ rfl

theorem haltGroup_haltGroup (g : Group) : haltGroup (haltGroup g) = haltGroup g := by
  unfold haltGroup
  simp only [stopWait_stopWait, Bool.and_assoc, Bool.and_self]

/-- One group of a launch is recorded and halted. -/
def haltOne (s : State) (e : Nat × Group) : State :=
  let k := outKey e.1 e.2
  let s := if (s.team k).isSome then s else { s with teams := Store.put s.teams k (spawnTeam e.1 e.2) }
  s.updGrp e.1 haltGroup

theorem foldl_haltOne (es : List (Nat × Group)) (s : State) : ∃ teams, es.foldl haltOne s =
    { s with teams := teams, groups := es.foldl (fun gs e => Store.adjust gs e.1 haltGroup) s.groups } := by
  induction es generalizing s with
  | nil => exact ⟨s.teams, rfl⟩
  | cons e es ih =>
    obtain ⟨ts, h⟩ := ih (haltOne s e)
    have h1 : ∃ teams, haltOne s e = { s with teams := teams, groups := Store.adjust s.groups e.1 haltGroup } := by
      unfold haltOne
      dsimp only
      split <;> exact ⟨_, rfl⟩
    obtain ⟨ts1, h1⟩ := h1
    exact ⟨ts, by rw [List.foldl_cons, h, h1]; rfl⟩

theorem sorted_foldl_adjust {α β : Type} {m : List (Nat × α)} (h : Store.sorted m = true) (es : List (Nat × β)) (f : α → α) :
    Store.sorted (es.foldl (fun m e => Store.adjust m e.1 f) m) = true := by
  induction es generalizing m with
  | nil => exact h
  | cons e es ih => exact ih (Store.sorted_adjust h e.1 f)

/-- An idempotent change under several keys, one after another. -/
theorem find_foldl_adjust {α β : Type} {f : α → α} (hf : ∀ x, f (f x) = f x) (es : List (Nat × β)) (m : List (Nat × α)) (k : Nat) :
    Store.find (es.foldl (fun m e => Store.adjust m e.1 f) m) k =
      if ∃ e ∈ es, e.1 = k then (Store.find m k).map f else Store.find m k := by
  induction es generalizing m with
  | nil => simp
  | cons e es ih =>
    rw [List.foldl_cons, ih]
    by_cases hk : e.1 = k
    · subst hk
      rw [Store.find_adjust_self, if_pos (⟨e, List.mem_cons_self .., rfl⟩ : ∃ x ∈ e :: es, x.1 = e.1)]
      split
      · cases Store.find m e.1 with
        | none => rfl
        | some x => exact congrArg some (hf x)
      · rfl
    · rw [Store.find_adjust_ne _ _ _ (Ne.symm hk)]
      refine if_congr ⟨?_, ?_⟩ rfl rfl
      · rintro ⟨x, hx, he⟩
        exact ⟨x, List.mem_cons_of_mem _ hx, he⟩
      · rintro ⟨x, hx, he⟩
        rcases List.mem_cons.1 hx with rfl | hx
        · exact absurd he hk
        · exact ⟨x, hx, he⟩

/-- A team of a launch as a halt for a save leaves it. -/
def haltRecord (lid : Nat) (t : Team) : Team :=
  if t.lid == lid && t.state != .out then
    { t with why := whyPre t.why, state := if t.slot.isSome then t.state else .halting }
  else t

theorem haltLaunch_eq (s : State) (migrate : Bool) (lid : Nat) : haltLaunch s migrate lid =
    State.updLaunch { (s.groups.filter fun g => g.2.lid == lid).foldl haltOne s with
      teams := ((s.groups.filter fun g => g.2.lid == lid).foldl haltOne s).teams.map fun t => (t.1, haltRecord lid t.2) } lid
      fun l => { l with pre := .saving migrate } := rfl

theorem haltLaunch_frame (s : State) (migrate : Bool) (lid : Nat) : ∃ teams, haltLaunch s migrate lid =
    { s with
      teams := teams, launches := Store.adjust s.launches lid fun l => { l with pre := .saving migrate }
      groups := (s.groups.filter fun g => g.2.lid == lid).foldl (fun gs e => Store.adjust gs e.1 haltGroup) s.groups } := by
  obtain ⟨ts, h⟩ := foldl_haltOne (s.groups.filter fun g => g.2.lid == lid) s
  rw [haltLaunch_eq, h]
  exact ⟨_, rfl⟩

theorem haltLaunch_grp {s : State} (hs : Store.sorted s.groups = true) (migrate : Bool) (lid : Nat) {gid : Nat} {g : Group}
    (hg : s.grp gid = some g) : (haltLaunch s migrate lid).grp gid = some (if g.lid = lid then haltGroup g else g) := by
  obtain ⟨ts, h⟩ := haltLaunch_frame s migrate lid
  have hfind : Store.find s.groups gid = some g := hg
  rw [h]
  refine (find_foldl_adjust haltGroup_haltGroup _ s.groups gid).trans ?_
  rw [hfind]
  have hiff : (∃ e ∈ s.groups.filter (fun g => g.2.lid == lid), e.1 = gid) ↔ g.lid = lid := by
    constructor
    · rintro ⟨e, he, rfl⟩
      obtain ⟨hm, hl⟩ := List.mem_filter.1 he
      have := Store.find_of_mem hs hm
      rw [hfind, Option.some.injEq] at this
      rw [this]
      exact beq_iff_eq.1 hl
    · intro hl
      exact ⟨(gid, g), List.mem_filter.2 ⟨Store.mem_of_find hfind, beq_iff_eq.2 hl⟩, rfl⟩
  by_cases hl : g.lid = lid
  · rw [if_pos (hiff.2 hl), if_pos hl]; rfl
  · rw [if_neg fun h => hl (hiff.1 h), if_neg hl]

theorem haltLaunch_sorted {s : State} (hs : Store.sorted s.groups = true) (migrate : Bool) (lid : Nat) :
    Store.sorted (haltLaunch s migrate lid).groups = true := by
  obtain ⟨ts, h⟩ := haltLaunch_frame s migrate lid
  rw [h]
  exact sorted_foldl_adjust hs _ haltGroup

/-- Halting several launches, one after another. -/
theorem foldl_haltLaunch (migrate : Bool) (lids : List Nat) (s : State) :
    (∃ teams launches groups, lids.foldl (fun s i => haltLaunch s migrate i) s =
      { s with teams := teams, launches := launches, groups := groups }) ∧
    (∀ i, (lids.foldl (fun s i => haltLaunch s migrate i) s).launch i =
      if i ∈ lids then (s.launch i).map fun l => { l with pre := .saving migrate } else s.launch i) ∧
    (Store.sorted s.groups = true → ∀ gid g, s.grp gid = some g → (lids.foldl (fun s i => haltLaunch s migrate i)
        s).grp gid =
      some (if g.lid ∈ lids then haltGroup g else g)) := by
  induction lids generalizing s with
  | nil => exact ⟨⟨_, _, _, rfl⟩, fun i => by simp, fun _ gid g hg => by simpa using hg⟩
  | cons lid lids ih =>
    obtain ⟨⟨ts, ls, gs, hfr⟩, hl, hgr⟩ := ih (haltLaunch s migrate lid)
    obtain ⟨ts1, h1⟩ := haltLaunch_frame s migrate lid
    have hlaunch (i : Nat) : (haltLaunch s migrate lid).launch i =
        if i = lid then (s.launch i).map fun l => { l with pre := .saving migrate } else s.launch i := by
      rw [h1]
      by_cases hi : i = lid
      · subst hi
        rw [if_pos rfl]
        exact Store.find_adjust_self ..
      · rw [if_neg hi]
        exact Store.find_adjust_ne _ _ _ hi
    refine ⟨⟨ts, ls, gs, by rw [List.foldl_cons, hfr, h1]⟩, fun i => ?_, fun hs gid g hg => ?_⟩
    · rw [List.foldl_cons, hl, hlaunch]
      by_cases hi : i = lid
      · rw [if_pos hi, if_pos (List.mem_cons.2 (.inl hi))]
        split
        · cases s.launch i <;> rfl
        · rfl
      · rw [if_neg hi]
        exact if_congr (by rw [List.mem_cons, or_iff_right hi]) rfl rfl
    · rw [List.foldl_cons, hgr (haltLaunch_sorted hs migrate lid) gid _ (haltLaunch_grp hs migrate lid hg)]
      have hlid : (if g.lid = lid then haltGroup g else g).lid = g.lid := by split <;> rfl
      rw [hlid]
      by_cases hi : g.lid = lid
      · rw [if_pos hi, if_pos (List.mem_cons.2 (.inl hi)), haltGroup_haltGroup, ite_self]
      · rw [if_neg hi]
        exact congrArg some (if_congr (by rw [List.mem_cons, or_iff_right hi]) rfl rfl)

/-! ## Saving a halted team (R327, R328) -/

theorem poolSlotSave_halting {s : State} {k : Nat} {t : Team} {l : Launch} (ht : s.team k = some t) (hst : t.state = .halting)
    (hslot : t.slot = none) (hl : s.launch t.lid = some l) (hpre : l.pre = .none) :
    (freePool s = none → poolSlotSave s k = s.updTeam k fun t => { t with state := .awaiting }) ∧
    (∀ i, freePool s = some i → poolSlotSave s k = ({ s with poolUsed := s.poolUsed ++ [i] } : State).updTeam k fun t =>
      { t with state := .halting, slot := some (s.poolBase + slotSize * i) }) := by
  constructor
  · intro hf
    simp only [poolSlotSave, ht, hst, hslot, hl, hpre, hf, Option.map_some, Option.getD_some]
    rfl
  · intro i hf
    simp only [poolSlotSave, ht, hst, hslot, hl, hpre, hf, Option.map_some, Option.getD_some]
    rfl

/-- A command that no team's PREFETCH runs in ends none. -/
theorem endPrefetches_none {s : State} {k : Nat} (h : ∀ c ∈ s.copies, prefetching k c.2 = false) : endPrefetches s k = s := by
  have : (s.copies.filter fun c => prefetching k c.2) = [] := List.filter_eq_nil_iff.2 fun c hc => by rw [h c hc]; simp
  unfold endPrefetches
  rw [this]
  rfl

theorem chrysalisComplete_saved {s u v : State} {k pa : Nat} {t : Team} {l : Launch} {fresh : Bool} (ht : s.team k = some t)
    (hst : t.state = .halting ∨ t.state = .awaiting) (hl : s.launch t.lid = some l)
    (hpre : ∀ c ∈ s.copies, prefetching k c.2 = false) (hready : saveReady s k (groupsOf s k) = true)
    (hslot : saveSlot s t l = some (pa, fresh)) (hback : writtenBack (stopCmds s k) l = some u)
    (hw : writeSlot u (.team k) pa (chrysalis u k t l ((groupsOf s k).map fun e => (e.1, e.2.publish))) = (v, true)) :
    chrysalisComplete s k [] = if fresh then nextSlot (teamOut v k t pa (groupsOf s k)) else teamOut v k t pa
        (groupsOf s k) := by
  have hstate : (t.state == .halting || t.state == .awaiting) = true := by rcases hst with h | h <;> rw [h] <;> rfl
  unfold chrysalisComplete
  simp only [List.foldl_nil, endPrefetches_none hpre, ite_self, ht, hl, hstate, hready, Bool.not_true, Bool.or_self,
    Bool.false_eq_true, if_false, hslot, hback, hw]

theorem foldl_del_fst {α β : Type} (m : List (Nat × α)) (es : List (Nat × β)) :
    es.foldl (fun m e => Store.del m e.1) m = (es.map (·.1)).foldl Store.del m := by
  rw [List.foldl_map]

theorem teamOut_spec {v : State} {k lid : Nat} {t : Team} (pa : Nat) (gs : List (Nat × Group)) (htid : t.tid ≠ none)
    (hlid : t.lid = lid) :
    let u := teamOut v k t pa gs
    u.team k = some { t with
      state := .out, slot := some pa, groups := gs.map fun e => e.2.leave, since := v.gtc.toNat, reserving := false } ∧
    (Store.sorted v.groups = true → ∀ e ∈ gs, u.grp e.1 = none) ∧ Safety.SameMem v u ∧
    ∀ c ∈ u.l1, ∀ e ∈ v.groups, e.2.lid = lid → c.core ≠ coreOf e.1 := by
  have hsome : t.tid.isSome = true := Option.isSome_iff_ne_none.2 htid
  unfold teamOut
  dsimp only
  refine ⟨?_, fun hs e he => ?_, fun _ => rfl, fun c hc e he hl hcore => ?_⟩
  · rw [if_pos hsome]
    exact Store.find_put_self ..
  · change Store.find (gs.foldl (fun m e => Store.del m e.1) v.groups) e.1 = none
    rw [foldl_del_fst, Store.find_foldl_del hs, if_pos (List.mem_map.2 ⟨e, he, rfl⟩)]
  · have hn := (List.mem_filter.1 hc).2
    rw [Bool.not_eq_true', ← Bool.not_eq_true, List.contains_iff_mem] at hn
    refine hn (List.mem_map.2 ⟨e, List.mem_filter.2 ⟨he, ?_⟩, hcore.symm⟩)
    rw [hl, hlid]
    exact beq_self_eq_true _

/-! ## Lines given back, and the launch's record (R327, R335) -/

/-- A copy leaves its slice, or stays; nothing enters, what was sent stays sent, and no lease, command or owner changes. -/
theorem evict_frame (s : State) (line : Nat) : ∃ ely sent, evict s line = s ∨ evict s line =
    { s with slices := Store.del s.slices line, ely := ely, sent := s.sent ++ sent } := by
  unfold evict
  dsimp only
  split
  · exact ⟨[], [], .inl rfl⟩
  · split
    · exact ⟨[], [], .inl rfl⟩
    · split
      · exact ⟨_, [], .inr (by rw [List.append_nil]; rfl)⟩
      · exact ⟨_, _, .inr rfl⟩
      · exact ⟨_, _, .inr rfl⟩
      · exact ⟨_, _, .inr rfl⟩
      · exact ⟨[], [], .inl rfl⟩

theorem evict_away {s : State} {line a addr : Nat} {d : SliceLine} (hl : leaseOver s line = true) (he : engineHeld s line = false)
    (hd : Store.find s.slices line = some d) (hdirty : d.dirty = true)
    (hk : a = 0 ∧ paKind s (128 * line) = .host ∧ addr = 128 * line - 0x8000000000000 ∨
      paKind s (128 * line) = .peer a ∧ addr = 128 * line % 2 ^ 40) :
    evict s line = ({ s with slices := Store.del s.slices line } : State).emit (.evict a addr (some d.data)) := by
  rcases hk with ⟨ha, hk, haddr⟩ | ⟨hk, haddr⟩
  · rw [(evict_over hl he hd).2 hk, if_pos hdirty, ha, haddr]
  · unfold evict
    rw [if_neg (by rw [hl, he]; simp), hd]
    dsimp only
    rw [hk]
    dsimp only
    rw [askAddr_peer hk, if_pos hdirty, haddr]

/-- Every line of a list leaves its slice: a dirty line of host or peer memory among them is given back. -/
theorem foldl_evict_away {line a addr : Nat} {d : SliceLine} (hdirty : d.dirty = true) (ls : List Nat) :
    ∀ s : State, Store.sorted s.slices = true → leaseOver s line = true → engineHeld s line = false →
      (a = 0 ∧ paKind s (128 * line) = .host ∧ addr = 128 * line - 0x8000000000000 ∨
        paKind s (128 * line) = .peer a ∧ addr = 128 * line % 2 ^ 40) →
      (Store.find s.slices line = some d ∧ line ∈ ls ∨
        Store.find s.slices line = none ∧ Msg.evict a addr (some d.data) ∈ s.sent) →
      Store.find (ls.foldl evict s).slices line = none ∧ Msg.evict a addr (some d.data) ∈ (ls.foldl evict s).sent := by
  induction ls with
  | nil =>
    intro s _ _ _ _ h
    exact h.resolve_left fun h => List.not_mem_nil h.2
  | cons l ls ih =>
    intro s hs hl he hk h
    rw [List.foldl_cons]
    by_cases hline : l = line ∧ Store.find s.slices line = some d
    · obtain ⟨rfl, hd⟩ := hline
      rw [evict_away hl he hd hdirty hk]
      exact ih _ (Store.sorted_del hs l) hl he hk (.inr ⟨Store.find_del_self hs l, List.mem_append_right _
          (List.mem_singleton.2 rfl)⟩)
    · obtain ⟨ely, sent, hev | hev⟩ := evict_frame s l
      · rw [hev]
        refine ih s hs hl he hk (h.imp (fun h => ⟨h.1, ?_⟩) id)
        exact (List.mem_cons.1 h.2).resolve_left fun hx => hline ⟨hx.symm, h.1⟩
      · rw [hev]
        refine ih _ (Store.sorted_del hs l) hl he hk ?_
        rcases h with ⟨hd, hm⟩ | ⟨hd, hm⟩
        · have hne : line ≠ l := fun hx => hline ⟨hx.symm, hd⟩
          exact .inl ⟨(Store.find_del_ne hs l hne).trans hd, (List.mem_cons.1 hm).resolve_left hne⟩
        · refine .inr ⟨?_, List.mem_append_left _ hm⟩
          by_cases hne : line = l
          · subst hne; exact Store.find_del_self hs line
          · exact (Store.find_del_ne hs l hne).trans hd

theorem mem_dirtyLines {s : State} {line : Nat} {d : SliceLine} (hd : Store.find s.slices line = some d) (hdirty : d.dirty = true)
    (he : engineHeld s line = false) : line ∈ dirtyLines s :=
  List.mem_map.2 ⟨(line, d), List.mem_filter.2 ⟨Store.mem_of_find hd, by rw [hdirty, he]; rfl⟩, rfl⟩

theorem writtenBack_migrating {s : State} {l : Launch} (hp : l.pre = .saving true) : writtenBack s l =
    if (dirtyLines s).all (leaseOver s) then some ((dirtyLines s).foldl evict s) else none := by
  simp only [writtenBack, hp]

theorem writtenBack_spec (s : State) (l : Launch) :
    (l.pre ≠ .saving true ∨ dirtyLines s = [] → writtenBack s l = some s) ∧
    (l.pre = .saving true → (∃ d ∈ dirtyLines s, leaseOver s d = false) → writtenBack s l = none) ∧
    (∀ u, l.pre = .saving true → writtenBack s l = some u → Store.sorted s.slices = true →
      ∀ line d a addr, Store.find s.slices line = some d → d.dirty = true → engineHeld s line = false →
        (a = 0 ∧ paKind s (128 * line) = .host ∧ addr = 128 * line - 0x8000000000000 ∨
          paKind s (128 * line) = .peer a ∧ addr = 128 * line % 2 ^ 40) →
        Store.find u.slices line = none ∧ Msg.evict a addr (some d.data) ∈ u.sent) := by
  refine ⟨fun h => ?_, fun hp ⟨d, hd, hl⟩ => ?_, fun u hp hu hs line d a addr hd hdirty he hk => ?_⟩
  · by_cases hp : l.pre = .saving true
    · have hnil := h.resolve_left (not_not_intro hp)
      rw [writtenBack_migrating hp, hnil]
      rfl
    · unfold writtenBack
      split
      · next hp' => exact absurd hp' hp
      · rfl
  · rw [writtenBack_migrating hp, if_neg]
    intro hall
    rw [List.all_eq_true.1 hall d hd] at hl
    cases hl
  · rw [writtenBack_migrating hp] at hu
    split at hu
    · next hall =>
      have hmem := mem_dirtyLines hd hdirty he
      obtain rfl := Option.some.inj hu
      exact foldl_evict_away hdirty _ s hs (List.all_eq_true.1 hall line hmem) he hk (.inl ⟨hd, hmem⟩)
    · cases hu

theorem foldl_dropWriter_travs {α : Type} (f : α → Writer) (xs : List α) (s : State) :
    (xs.foldl (fun s i => dropWriter s (f i)) s).travs = s.travs := by
  induction xs generalizing s with
  | nil => rfl
  | cons x xs ih =>
    obtain ⟨e, l, w, h⟩ := dropWriter_eq s (f x)
    rw [List.foldl_cons, ih, h]

/-- A traversal that a save has brought between steps: what it asks for is asked anew (R314). -/
def pausedTrav (t : Trav) : Trav :=
  { t with stampOk := t.stampb == 0, cuts := t.cuts.map fun c => { c with pa := [] }, begun := false }

theorem find_stopTravs {s : State} {n : Nat} {t : Trav} (h : Store.find s.travs n = some t) (lid : Nat) :
    Store.find (stopTravs s lid).travs n = some (if t.lid = lid then pausedTrav t else t) := by
  unfold stopTravs
  dsimp only
  rw [foldl_dropWriter_travs (fun i => .trav i)]
  refine (Store.find_map s.travs (fun _ (t : Trav) => if t.lid == lid then pausedTrav t else t) n).trans ?_
  rw [h, Option.map_some]
  simp only [beq_iff_eq]

theorem saveLaunch_saved {s s1 u v : State} {lid base next : Nat} {rest : List Nat} {l x : Launch} (hl : s.launch lid = some l)
    (hg : ∀ g ∈ s.groups, g.2.lid ≠ lid) (ht : ∀ r ∈ s.teams, r.2.lid = lid → r.2.state = .out)
    (hv : ∀ v ∈ s.travs, v.2.lid = lid → travBusy s v.2 = false) (hh : holdTops s lid = (s1, true))
    (hu : writtenBack (unbin s1 lid) l = some u) (hx : u.launch lid = some x)
    (hw : writeParts u .mailbox 0 ((next, launchBytes u lid x base next) :: whyMarks u lid) = (v, true)) :
    saveLaunch s (lid :: rest) base next =
      { (markWhy (stopTravs v lid) lid).updLaunch lid fun l => { l with pre := .saved } with
        mbox := { ((markWhy (stopTravs v lid) lid).updLaunch lid fun l => { l with pre := .saved }).mbox with
          bg := some (.preempt rest (next + slotSize * (((launchBytes u lid x base next).length + slotSize - 1) /
              slotSize))
            (next + slotSize * (((launchBytes u lid x base next).length + slotSize - 1) / slotSize))) } } := by
  have hg' : (s.groups.any fun g => g.2.lid == lid) = false := by
    rw [List.any_eq_false]
    exact fun g hm => by simpa using hg g hm
  have ht' : (s.teams.any fun t => t.2.lid == lid && t.2.state != .out) = false := by
    rw [List.any_eq_false]
    intro r hm
    by_cases hr : r.2.lid = lid
    · rw [ht r hm hr]; simp
    · simp [hr]
  have hv' : (s.travs.any fun t => t.2.lid == lid && travBusy s t.2) = false := by
    rw [List.any_eq_false]
    intro r hm
    by_cases hr : r.2.lid = lid
    · rw [hv r hm hr]; simp
    · simp [hr]
  unfold saveLaunch
  simp only [hl, hg', ht', hv', Bool.or_self, Bool.false_eq_true, if_false, hh, hu, hx, Option.getD_some, hw]

/-- Settles O22: the image part by part; a save's steps by the guards that they meet. -/
theorem teamsAreSaved : Obligations.TeamsAreSaved := by
  unfold Obligations.TeamsAreSaved
  refine ⟨imagesHold, fun s k area lid sel migrate t l => ⟨fun hf => ⟨fun h => ?_, fun hne ha hp => ?_⟩,
    fun ht hst hslot hl hpre => ?_, fun ht hst hl => ?_, fun v pa gs htid hteam hlid => teamOut_spec pa gs htid hlid,
    fun rest base next hbg hl hg ht hv => ?_, writtenBack_spec s l, fun base next hbg => ?_⟩⟩
  · refine congrArg Outcome.next ((command_free _ _ hf).trans (if_pos ?_))
    rcases h with h | h | h
    · rw [h]; rfl
    · rw [areaOk, beq_false_of_ne (show area % slotSize ≠ 0 from h)]; simp
    · rw [areaOk, h]; simp
  · obtain ⟨⟨ts, ls, gs, hfr⟩, hlaunch, hgrp⟩ := foldl_haltLaunch migrate (preLaunches s sel) s
    have hgo : exec (.preempt sel area migrate) s = .next (preemptGo s (preLaunches s sel) area migrate) := by
      refine congrArg Outcome.next ((command_free _ _ hf).trans (if_neg ?_))
      rw [areaOk, hp, List.isEmpty_eq_false_iff.2 hne, show area % slotSize = 0 from ha]
      simp
    refine ⟨_, hgo, ?_, ?_, fun i hi x hx => ?_, fun hs gid g hg => ?_⟩
    · intro b
      unfold preemptGo
      rw [hfr]
      rfl
    · unfold preemptGo
      rw [hfr]
    · refine (hlaunch i).trans ?_
      rw [if_pos hi, hx]
      rfl
    · exact hgrp hs gid g hg
  · obtain ⟨hnone, hsome⟩ := poolSlotSave_halting ht hst hslot hl hpre
    exact ⟨fun h => congrArg Outcome.next (hnone h), fun i h => congrArg Outcome.next (hsome i h)⟩
  · intro gs hpre hready pa fresh hs u hback v hw
    exact congrArg Outcome.next (chrysalisComplete_saved ht hst hl hpre hready hs hback hw)
  · intro s1 hh u hu x hx bs v hw after
    have hgo : backgroundStep s = saveLaunch s (lid :: rest) base next := by rw [backgroundStep, hbg]
    exact ⟨_, congrArg Outcome.next (hgo.trans (saveLaunch_saved hl hg ht hv hh hu hx hw)), rfl, rfl,
      fun n t h => find_stopTravs h lid⟩
  · refine congrArg Outcome.next ?_
    rw [backgroundStep, hbg]
    rfl

end Machine

end Sys2Proof
end

section
/-!
PROOFS. Graphs: task graphs, their walker and the ends of launches (R266 to R274, R280).
-/
namespace Sys2Proof

namespace Machine
open Host

/-! ## Writes of a node's line (R271, R272) -/

theorem codeAt_zero (code : Nat) : codeAt code 0 = codeWord code := by
  rw [codeAt, codeWord, Nat.add_zero]

theorem nodeWrites_takes {s u : State} {w : Writer} {gr : Graph} {n : Nat} {ws : List (Nat × List Byte)}
    (h : NodeTakes s w gr n ws u) (id : Nat) (k : State → State) : nodeWrites s w id gr n ws k = k u := by
  obtain ⟨v, p, hp, hw⟩ := h
  unfold nodeWrites
  rw [hp]
  dsimp only
  rw [nodeParts, hw]

/-! ## Graphs posted, released and ended (R266, R272, R273) -/

theorem postGraph_room {s : State} {die : Nat} (h : (s.graphs.filter fun g => g.2.die == die).length < 1024)
    (asp root prio : Nat) (cov : List Nat) : postGraph s die asp root prio cov = some (walkOne { s with
      graphs := Store.put s.graphs s.nextId ⟨die, asp, root, prio, .running, 0, 0, [], [(0, root)], [], cov⟩
      nextId := s.nextId + 1 } s.nextId) := if_neg (by omega)

theorem graphIdle_iff {s : State} {id : Nat} : graphIdle s id = true ↔ ∀ x ∈ s.launches, x.2.graph ≠ id := by
  unfold graphIdle
  simp only [Bool.not_eq_true', List.any_eq_false, beq_iff_eq, ne_eq]

theorem graphRelease_one {s : State} {die root id : Nat} {gr : Graph}
    (h : (s.graphs.filter fun g => g.2.die == die && g.2.root == root) = [(id, gr)]) : graphRelease s die root =
      if releasable s id gr then success (dropWriter { s with graphs := Store.del s.graphs id } (.graph id)) else busy s := by
  unfold graphRelease
  dsimp only
  rw [h, List.find?_cons]
  cases releasable s id gr <;> rfl

theorem releasable_halted {s : State} {id : Nat} {gr : Graph} (h : gr.state = .halted ∨ gr.state = .running ∧ gr.todo = [] ∧
    (∀ x ∈ s.launches, x.2.graph ≠ id)) : releasable s id gr = true := by
  unfold releasable
  rcases h with h | ⟨h, ht, hl⟩
  · rw [h]; rfl
  · rw [h, ht, graphIdle_iff.2 hl]; rfl

theorem releasable_busy {s : State} {id : Nat} {gr : Graph} (h : gr.state = .ending ∨ gr.state = .running ∧ gr.todo ≠ []) :
    releasable s id gr = false := by
  unfold releasable
  rcases h with h | ⟨h, ht⟩
  · rw [h]; rfl
  · rw [h, List.isEmpty_eq_false_iff.2 ht]; rfl

theorem graphEnd_idle {s : State} {id : Nat} {gr : Graph} (hg : s.graph id = some gr) (hl : ∀ x ∈ s.launches, x.2.graph ≠ id) :
    (gr.state = .running → gr.todo = [] → gr.watched = [] → graphEnd s id = { s with graphs := Store.del s.graphs id }) ∧
    (∀ u, gr.state = .ending → NodeTakes s (.graph id) gr gr.endNode [codeWord 3] u →
      graphEnd s id = { u with graphs := Store.del u.graphs id }) := by
  have hidle : (!graphIdle s id) = false := by rw [graphIdle_iff.2 hl]; rfl
  constructor
  · intro hst ht hw
    unfold graphEnd
    rw [hg]
    dsimp only
    rw [hidle, hst, ht, hw]
    rfl
  · intro u hst htake
    unfold graphEnd
    rw [hg]
    dsimp only
    rw [hidle, hst]
    exact nodeWrites_takes htake id _

/-- An ended launch without statistics is removed, and its node done (R280). -/
theorem launchEnd_over {s u : State} {lid : Nat} {l : Launch} (hl : s.launch lid = some l) (ho : launchOver s lid l = true)
    (hrel : live s l.rel = []) (hstats : l.desc.stats = 0)
    (htake : NodeTakes s (.launch lid) (graphOf s l) l.node [codeWord 3] u) :
    launchEnd s lid = launchDone { u with launches := Store.del u.launches lid } l (graphOf s l) := by
  obtain ⟨v, p, hp, hw⟩ := htake
  unfold launchEnd
  rw [hl]
  dsimp only
  rw [if_neg (by rw [ho, hrel]; simp), if_pos hstats]
  dsimp only
  rw [hp]
  dsimp only
  rw [List.nil_append, nodeParts, codeAt_zero, hw]

/-! ## The walker's operations (R270) -/

section
variable {s u : State} {id n : Nat} {gr : Graph} {rest : List (Nat × Nat)} {bs : List Byte}
  (hread : ∀ k, walkerRead s id gr n n 128 k = k u bs)
include hread

theorem activate_bad {off : Nat} (h : NodeBits.firstBad (ofBytes 1024 bs) = some off) :
    activate s id gr n = failNode u id gr n 0x81 off 0 := by
  unfold activate
  rw [hread]
  dsimp only
  rw [h]

theorem activate_active (h : NodeBits.firstBad (ofBytes 1024 bs) = none) (hk : NodeBits.kind (ofBytes 1024 bs) = 1)
    (hc : NodeBits.code (ofBytes 1024 bs) = 1 ∨ NodeBits.code (ofBytes 1024 bs) = 2) :
    activate s id gr n = failNode u id gr n 0x87 0 0 := by
  unfold activate
  rw [hread]
  dsimp only
  rw [h]
  dsimp only
  rw [hk]
  exact if_pos (by rcases hc with hc | hc <;> rw [hc] <;> rfl)

theorem activate_task {v : State} (h : NodeBits.firstBad (ofBytes 1024 bs) = none) (hk : NodeBits.kind (ofBytes 1024 bs) = 1)
    (h1 : NodeBits.code (ofBytes 1024 bs) ≠ 1) (h2 : NodeBits.code (ofBytes 1024 bs) ≠ 2)
    (htake : NodeTakes u (.graph id) gr n [codeWord 1] v) : activate s id gr n =
      dispatchOn ((didOp v id [(3, n)]).updGraph id fun g => { g with dparts := [(32, bs)] }) id n := by
  unfold activate
  rw [hread]
  dsimp only
  rw [h]
  dsimp only
  rw [hk]
  refine (if_neg (by rw [beq_false_of_ne h1, beq_false_of_ne h2]; simp)).trans ?_
  exact nodeWrites_takes htake id _

theorem activate_end (h : NodeBits.firstBad (ofBytes 1024 bs) = none) (hk : NodeBits.kind (ofBytes 1024 bs) = 5) :
    activate s id gr n = u.updGraph id fun g => { g with state := .ending, endNode := n, todo := [], watched := [] } := by
  unfold activate
  rw [hread]
  dsimp only
  rw [h]
  dsimp only
  rw [hk] <;> rfl

theorem activate_join {v : State} (h : NodeBits.firstBad (ofBytes 1024 bs) = none) (hk : NodeBits.kind (ofBytes 1024 bs) = 4)
    (htake : NodeTakes u (.graph id) gr n
      (if NodeBits.have_ (ofBytes 1024 bs) + 1 = NodeBits.need (ofBytes 1024 bs) then [(0x1C, [0, 0]), codeWord 3]
        else [(0x1C, leBytes 2 (NodeBits.have_ (ofBytes 1024 bs) + 1)), codeWord 1]) v) :
    activate s id gr n =
      didOp v id (if NodeBits.have_ (ofBytes 1024 bs) + 1 = NodeBits.need (ofBytes 1024 bs) then [(1, n)] else []) := by
  unfold activate
  rw [hread]
  dsimp only
  rw [h]
  dsimp only
  rw [hk]
  by_cases hn : NodeBits.have_ (ofBytes 1024 bs) + 1 = NodeBits.need (ofBytes 1024 bs)
  · rw [if_pos hn] at htake
    rw [if_pos hn, if_pos hn]
    exact nodeWrites_takes htake id _
  · rw [if_neg hn] at htake
    rw [if_neg hn, if_neg hn]
    exact nodeWrites_takes htake id _

theorem activate_cond {v w : State} {ws : List Byte} (h : NodeBits.firstBad (ofBytes 1024 bs) = none)
    (hk : NodeBits.kind (ofBytes 1024 bs) = 2 ∨ NodeBits.kind (ofBytes 1024 bs) = 3)
    (hcond : ∀ k, walkerRead u id gr n (NodeBits.addr (ofBytes 1024 bs)) 4 k = k v ws)
    (htake : NodeTakes v (.graph id) gr n [codeWord 3] w) : activate s id gr n =
      didOp w id (acts [if leNat ws = 0 then NodeBits.next1 (ofBytes 1024 bs) else NodeBits.next0 (ofBytes 1024 bs)])
          := by
  unfold activate
  rw [hread]
  dsimp only
  rw [h]
  dsimp only
  rcases hk with hk | hk <;> rw [hk] <;> exact (hcond _).trans (nodeWrites_takes htake id _)

end

theorem acts_one (n : Nat) : acts [n] = if n = 0 then [] else [(0, n)] := by
  by_cases h : n = 0 <;> simp [acts, h]

theorem walkOne_activates {s : State} {id n : Nat} {gr : Graph} {rest : List (Nat × Nat)} (hg : s.graph id = some gr)
    (hst : gr.state = .running) (hcov : live s gr.cov = []) (htodo : gr.todo = (0, n) :: rest) :
    walkOne s id = activate s id gr n := by
  unfold walkOne
  rw [hg]
  dsimp only
  rw [hst, htodo]
  dsimp only
  rw [hcov]
  rfl

/-- Settles O16: the walker's operation by the node's kind; the rest is one guard each. -/
theorem graphsRun : Obligations.GraphsRun := by
  unfold Obligations.GraphsRun
  intro s id n die asp root prio lid gr l
  refine ⟨fun h0 h4 => congrArg Outcome.next (if_neg (by omega)), fun h => congrArg Outcome.next (if_pos h),
    fun hf hd hp hr hr57 ha hlen => ?_, fun hf h => ?_, fun hf hone => ⟨fun h => ?_, fun h => ?_⟩, fun hg hst hw => ?_,
    fun hg hl => ?_, fun hl ho hrel => ?_, fun hg hst hcov rest bs u htodo hread => ?_⟩
  · intro g
    refine congrArg Outcome.next ((command_free _ _ hf).trans ?_)
    rw [if_neg (by
      rw [Option.isNone_iff_eq_none]
      rintro (h | h | h | h | h)
      · omega
      · omega
      · exact h hr
      · omega
      · exact ha h), postGraph_room hlen]
    rfl
  · refine congrArg Outcome.next ((command_free _ _ hf).trans (if_pos ?_))
    rw [Option.isNone_iff_eq_none]
    exact h
  · refine congrArg Outcome.next ((command_free _ _ hf).trans ?_)
    rw [graphRelease_one hone, if_pos (releasable_halted h)]
    rfl
  · refine congrArg Outcome.next ((command_free _ _ hf).trans ?_)
    rw [graphRelease_one hone, releasable_busy h]
    rfl
  · refine congrArg Outcome.next ?_
    unfold openTailWake
    rw [hg]
    exact if_pos (by rw [hst, List.contains_iff_mem.2 hw]; rfl)
  · obtain ⟨hrun, hend⟩ := graphEnd_idle hg hl
    exact ⟨fun h1 h2 h3 => congrArg Outcome.next (hrun h1 h2 h3), fun u h1 h2 => congrArg Outcome.next (hend u h1 h2)⟩
  · intro dropped u hgr hstats htake
    subst hgr
    refine congrArg Outcome.next ((launchEnd_over hl ho hrel hstats htake).trans ?_)
    unfold launchDone
    simp only [beq_iff_eq]
    rfl
  · intro x
    have hgo := walkOne_activates hg hst hcov htodo
    refine ⟨fun off h => hgo.trans (activate_bad hread h), fun h hk hc => hgo.trans (activate_active hread h hk hc),
      fun v h hk h1 h2 htake => hgo.trans (activate_task hread h hk h1 h2 htake), fun h hk => hgo.trans (activate_end
          hread h hk),
      fun v h hk htake => hgo.trans (activate_join hread h hk htake), fun v w ws h hk hcond htake => ?_⟩
    exact (hgo.trans (activate_cond hread h hk hcond htake)).trans (congrArg (didOp w id) (acts_one _))

end Machine

end Sys2Proof
end

section
/-!
PROOFS. Traversals: steps, returns, cuts and ends of traversals (R304 to R308, R312).
-/
namespace Sys2Proof

namespace Machine
open Host

/-! ## A traversal between steps (R302, R358) -/

theorem keepRange_zero (s : State) (die asp va : Nat) : keepRange s die asp va 0 = s := by
  unfold keepRange pagesOf resolveRange
  simp [splitRange, splitAt, keepTrs]

/-- What a range's translations and lines meet moves no launch. -/
theorem keepRange_launches (s : State) (die asp va n : Nat) : (keepRange s die asp va n).launches = s.launches := by
  obtain ⟨tlb, h⟩ := offMem_keepTrs die asp (pagesOf va n) s
  have hk : (keepTrs s die asp (pagesOf va n)).launches = s.launches := (congrArg State.launches h :)
  have hr (ps : List (Nat × Nat)) (u : State) : (ps.foldl (fun s p =>
      match translate s die asp (p.1 % 2 ^ 57) .read with
      | .ok pa _ => if (paKind s pa).line then resolve s (pa / 128) else s
      | _ => s) u).launches = u.launches := by
    induction ps generalizing u with
    | nil => rfl
    | cons p ps ih =>
      rw [List.foldl_cons, ih]
      split
      · split
        · exact (congrArg State.launches (offMem_resolve u _) :)
        · rfl
      · rfl
  exact (hr _ _).trans hk

theorem cutPlaces_placed (t : Trav) (s : State) {cs : List Cut} (h : ∀ c ∈ cs, c.pa ≠ []) : cutPlaces t s cs = (s, .ok cs) := by
  induction cs with
  | nil => rfl
  | cons c cs ih =>
    have hc : c.pa.isEmpty = false := List.isEmpty_eq_false_iff.2 (h c (List.mem_cons_self ..))
    rw [cutPlaces, hc]
    simp only [Bool.false_eq_true, if_false, ih fun d hd => h d (List.mem_cons_of_mem _ hd)]

theorem travPlaces_placed (s : State) {t : Trav} (h : TravPlaced t) : travPlaces s t = (s, .ok t) := by
  obtain ⟨hst, hc⟩ := h
  unfold travPlaces travStamp
  rw [if_pos hst]
  dsimp only
  rw [cutPlaces_placed t s hc]

theorem refill_full (s : State) {n : Nat} {t : Trav} (h : t.spilled = 0 ∨ 64 ≤ t.held.length) : refill s n t = .ok t := by
  cases n with
  | zero => rfl
  | succ n => rw [refill, if_pos h]

/-- The topmost entries of a traversal that holds 64, or has none spilled, are held already. -/
theorem holdTop_held (s : State) (id : Nat) {t : Trav} (hl : t.held.length ≤ 64) (h : t.spilled = 0 ∨ t.held.length = 64) :
    holdTop s id t = (s, .ok t) := by
  have hk : min t.spilled (64 - t.held.length) = 0 := by omega
  unfold holdTop trim
  rw [if_pos hl]
  dsimp only
  rw [hk, Nat.mul_zero, keepRange_zero, refill_full s (by omega)]

theorem readyTrav_held (s : State) (id : Nat) {t : Trav} (hp : TravPlaced t) (hl : t.held.length ≤ 64)
    (h : t.spilled = 0 ∨ t.held.length = 64) (k : State → Trav → State) : readyTrav s id t k = k s t := by
  unfold readyTrav
  rw [travPlaces_placed s hp]
  dsimp only
  rw [holdTop_held s id hl h]

/-! ## Ends of traversals (R107, R312) -/

theorem del_put {α : Type} (m : List (Nat × α)) (k : Nat) (v : α) : Store.del (Store.put m k v) k = Store.del m k := by
  induction m with
  | nil => simp [Store.put, Store.del]
  | cons e m ih =>
    obtain ⟨j, x⟩ := e
    by_cases h1 : j < k
    · simp only [Store.put, if_pos h1, Store.del, ih]
    · by_cases h2 : j = k
      · subst h2
        simp only [Store.put, Store.del, lt_irrefl, if_false, if_true]
      · simp only [Store.put, if_neg h1, if_neg h2, Store.del, lt_irrefl, if_false, if_true]

theorem foldl_setEly_setTravs (ls : List Nat) (s : State) (ts : List (Nat × Trav)) :
    ls.foldl (fun s l => setEly s l 0) { s with travs := ts } = { ls.foldl (fun s l => setEly s l 0) s with travs := ts } := by
  induction ls generalizing s with
  | nil => rfl
  | cons l ls ih => exact ih (setEly s l 0)

theorem dropWriter_setTravs (s : State) (w : Writer) (ts : List (Nat × Trav)) :
    dropWriter { s with travs := ts } w = { dropWriter s w with travs := ts } := by
  unfold dropWriter unlock
  dsimp only
  rw [foldl_setEly_setTravs]

theorem homeWrite_groups (s : State) (pa : Nat) (bs : List Byte) : (homeWrite s pa bs).groups = s.groups := by
  obtain ⟨_, _, _, _, _, _, _, h⟩ := homeWrite_frame s pa bs
  rw [h]

theorem grp_mapTeamGroups {u : State} {gid k : Nat} {g : Group} (hg : u.grp gid = some g) (hk : g.tkey = some k)
    (f : Group → Group) : (mapTeamGroups u k f).grp gid = some (f g) := by
  have hfind : Store.find (u.groups.map fun (e : Nat × Group) => if e.2.tkey == some k then (e.1, f e.2) else e) gid =
      some (f g) := by
    have hmap : (u.groups.map fun (e : Nat × Group) => if e.2.tkey == some k then (e.1, f e.2) else e) =
        u.groups.map fun e => (e.1, if e.2.tkey == some k then f e.2 else e.2) :=
      List.map_congr_left fun e _ => by split <;> rfl
    rw [hmap]
    refine (Store.find_map u.groups (fun _ g => if g.tkey == some k then f g else g) gid).trans ?_
    rw [show Store.find u.groups gid = some g from hg, Option.map_some, if_pos (by rw [hk]; exact beq_self_eq_true _)]
  have hfold (P : State → Group → State) (hP : ∀ s x, (P s x).groups = s.groups) (gs : List Group) (s : State) :
      (gs.foldl P s).groups = s.groups := by
    induction gs generalizing s with
    | nil => rfl
    | cons x gs ih => rw [List.foldl_cons, ih, hP]
  unfold mapTeamGroups
  dsimp only
  split
  · exact hfind
  · split
    · exact hfind
    · refine (congrArg (Store.find · gid) (hfold _ (fun s x => ?_) _ _)).trans hfind
      split
      · rfl
      · exact homeWrite_groups ..

theorem countTrav_group {u : State} {t : Trav} {gid tid : Nat} {g : Group} (ho : t.owned = true) (ht : t.oteam = some tid)
    (hg : u.grp gid = some g) (hk : g.tkey = some (teamKey t.lid tid)) (hi : g.gidx = t.ogroup) :
    (countTrav u t).grp gid = some (g.countTravs u) := by
  unfold countTrav
  rw [if_neg (by rw [ho]; simp), ht]
  dsimp only
  rw [grp_mapTeamGroups hg hk, if_pos (beq_iff_eq.2 hi)]

/-- A team that has ended is removed once nothing of it is left. -/
def reapOwner (s : State) (t : Trav) : State :=
  match t.oteam with
  | some tid => reap s (teamKey t.lid tid)
  | none => s

theorem closeTrav_bare {s : State} {t : Trav} (hst : t.stamp = none) (hc : t.cuts = []) (ho : savedOwner s t = none)
    (id status : Nat) : closeTrav s id t status = reapOwner (countTrav { dropWriter s (.trav id) with
      travs := Store.del (dropWriter s (.trav id)).travs id } t) t := by
  unfold closeTrav reapOwner
  rw [ho, hst]
  dsimp only [List.append_nil, engAll, List.foldl_nil]
  rw [hc]
  dsimp only [deadCuts, List.foldl_nil]
  cases t.oteam <;> rfl

/-- A traversal without a stamp, a cut or a saved owner ends at once. -/
theorem endTrav_bare {s : State} {id : Nat} {t : Trav} (hp : TravPlaced t) (hcov : live s t.cov = []) (hst : t.stamp = none)
    (hc : t.cuts = []) (ho : savedOwner s t = none) (status : Nat) : endTrav s id t status =
      reapOwner (countTrav { dropWriter s (.trav id) with travs := Store.del s.travs id } t) t := by
  have hclose := closeTrav_bare (s := (s.setTrav id { t with ending := some status }).setTrav id { t with ending := some status })
    (t := { t with ending := some status }) hst hc ho id status
  have hdrop : dropWriter ((s.setTrav id { t with ending := some status }).setTrav id { t with ending := some status }) (.trav id) =
      { dropWriter s (.trav id) with
        travs := Store.put (Store.put s.travs id { t with ending := some status }) id { t with ending := some status } } :=
    dropWriter_setTravs s (.trav id) _
  rw [hdrop] at hclose
  dsimp only at hclose
  rw [del_put, del_put] at hclose
  have hlive : live (s.setTrav id { t with ending := some status }) t.cov = [] := hcov
  unfold endTrav
  dsimp only
  rw [if_neg (by rw [hlive]; simp), travPlaces_placed _ (t := { t with ending := some status }) hp]
  exact hclose

/-! ## A step without a visit (R304, R305) -/

section
variable {s : State} {id : Nat} {t : Trav} (h : TravMay s id t)
include h

theorem travMay_parts : engineFrozen s 4 (tveCore t.core) = false ∧ t.fault = none ∧ t.ending = none ∧
    ((s.launch t.lid).map (·.pre)).getD .none = .none := by
  have hm := h.2.1
  unfold travMay travFree at hm
  simp only [Bool.and_eq_true, Bool.not_eq_true', Option.isNone_iff_eq_none, beq_iff_eq] at hm
  obtain ⟨⟨⟨h1, h2⟩, h3⟩, h4⟩ := hm
  exact ⟨h1, h2, h3, h4⟩

theorem travReturns_may : travReturns s t = true := by
  obtain ⟨h1, h2, h3, h4⟩ := travMay_parts h
  unfold travReturns travFree
  rw [h1, h2, h3, h4]
  rfl

theorem travStep_next (hv : t.visit = none) (hc : ∀ c ∈ t.cuts, c.arrived = false) (hb : t.begun = false) (hp :
    TravPlaced t)
    (hl : t.held.length ≤ 64) (hs : t.spilled = 0 ∨ t.held.length = 64) :
    travStep s id = stepTrav s id t := by
  obtain ⟨-, -, hend, -⟩ := travMay_parts h
  obtain ⟨hfind, hmay, hcov⟩ := h
  have hany : t.cuts.any (·.arrived) = false := List.any_eq_false.2 fun c hm => by rw [hc c hm]; simp
  unfold travStep
  rw [hfind]
  dsimp only
  rw [hend]
  dsimp only
  rw [hv, hb, hany, hmay, hcov]
  exact readyTrav_held s id hp hl hs _

theorem travStep_returns {v : TVisit} {r u : W32} (hv : t.visit = some v) (hr : t.ret = some (r, u)) (hp : TravPlaced t) :
    travStep s id = match retVisit s id t v r u with
      | (s, .ok t) => s.setTrav id { t with visit := none, ret := none, waiting := false }
      | (s, .error x) => stopTrav s id t x := by
  have hret := travReturns_may h
  obtain ⟨-, -, hend, -⟩ := travMay_parts h
  obtain ⟨hfind, -, hcov⟩ := h
  have happ : travStep s id = applyReturn s id := by
    unfold travStep
    rw [hfind]
    dsimp only
    rw [hend]
    dsimp only
    rw [hv, hr, hcov]
    rfl
  rw [happ]
  unfold applyReturn
  rw [hfind]
  dsimp only
  rw [hv, hr]
  dsimp only
  rw [hret, travPlaces_placed s hp]
  rfl

theorem cutApply_marks {c : Cut} {rest : List Cut} (hc : t.cuts = c :: rest) (hv : t.visit ≠ none ∨ t.begun = true)
    (ha : c.arrived = false) : cutApply s id = s.setTrav id { t with cuts := { c with arrived := true } :: rest } := by
  obtain ⟨hfind, hmay, -⟩ := h
  have hvb : (t.visit.isSome || t.begun) = true := by
    rcases hv with hv | hv
    · rw [Option.isSome_iff_ne_none.2 hv]; rfl
    · rw [hv, Bool.or_true]
  unfold cutApply
  rw [hfind]
  dsimp only
  rw [if_neg (by rw [hmay]; simp), if_pos hvb, hc, List.takeWhile_cons_of_neg (by rw [ha]; simp)]
  refine congrArg (fun cs => s.setTrav id { t with cuts := cs }) ?_
  rw [List.mapIdx_cons, List.length_nil, if_pos rfl]
  refine congrArg (_ :: ·) (List.ext_getElem (by simp) fun i h1 h2 => ?_)
  rw [List.getElem_mapIdx, if_neg (by simp)]

theorem cutApply_applies {c : Cut} {rest : List Cut} (hc : t.cuts = c :: rest) (hv : t.visit = none) (hb : t.begun = false)
    (hp : TravPlaced t) (hl : t.held.length ≤ 64) (hs : t.spilled = 0 ∨ t.held.length = 64) :
    cutApply s id = applyCut s id t c := by
  obtain ⟨hfind, hmay, hcov⟩ := h
  unfold cutApply
  rw [hfind]
  dsimp only
  have hvb : (t.visit.isSome || t.begun) = false := by rw [hv, hb]; rfl
  rw [if_neg (by rw [hmay]; simp), if_neg (by rw [hvb]; simp), hc]
  dsimp only
  rw [hcov]
  exact readyTrav_held s id hp hl hs _

end

theorem stepTrav_held {s : State} {id : Nat} {t : Trav} {e : TEntry} {rest : List TEntry} (hh : t.held = e :: rest)
    (hb : t.begun = false) :
    (e.ent = true → stepTrav s id t = placeVisit s id { t with held := rest } ⟨1, e, none, []⟩) ∧
    (e.ent = false → t.prune ≠ 0 → e.pgen ≠ t.tg → stepTrav s id t = placeVisit s id t ⟨2, e, none, []⟩) ∧
    (e.ent = false → (t.prune = 0 ∨ e.pgen = t.tg) → stepTrav s id t = stepEnter s id t e) := by
  refine ⟨fun he => ?_, fun he hp hg => ?_, fun he hg => ?_⟩ <;> unfold stepTrav <;> rw [hh] <;> dsimp only
  · exact if_pos he
  · rw [if_neg (by rw [he]; simp), if_pos]
    rw [hb, bne_iff_ne.2 hp, bne_iff_ne.2 hg]
    rfl
  · rw [if_neg (by rw [he]; simp), if_neg]
    rcases hg with hg | hg <;> rw [hg] <;> simp

theorem stepEnter_layout {s : State} {id : Nat} {t : Trav} {l : Launch} (hl : s.launch t.lid = some l) (e : TEntry) :
    (Store.find l.layouts e.layout = none → stepEnter s id t e = placeVisit s id t ⟨0, e, none, []⟩) ∧
    (∀ x bs, Store.find l.layouts e.layout = some x →
      engLoad (keepRange s (dieOf t.core) l.asp e.node (Lay.nsize x)) (dieOf t.core) l.asp e.node (Lay.nsize x) = .ok
          bs none →
      stepEnter s id t e = placeVisit (keepRange s (dieOf t.core) l.asp e.node (Lay.nsize x)) id { t with begun := true }
        ⟨0, e, some x, bs⟩) := by
  have hasp : travAsp s t = l.asp := by unfold travAsp; rw [hl]; rfl
  constructor
  · intro hf
    unfold stepEnter
    rw [hl, Option.map_some, Option.bind_some, hf]
  · intro x bs hf hload
    have hasp' (s1 : State) (h : s1.launches = s.launches) : travAsp s1 { t with begun := true } = l.asp := by
      refine Eq.trans ?_ hasp
      unfold travAsp State.launch
      rw [h]
    unfold stepEnter
    rw [hl, Option.map_some, Option.bind_some, hf]
    dsimp only
    rw [hasp' s rfl, hasp' _ (keepRange_launches ..), hload]

/-! ## Returns of visits (R304, R306) -/

/-- Entries that fit are pushed one on another. -/
theorem pushTs_room (id : Nat) (s : State) (es : List TEntry) (t : Trav) (hl : t.held.length + es.length ≤ 64)
    (hz : t.spilled + t.held.length + es.length ≤ 64 + t.zs) :
    pushTs id s t es = (s, .ok { t with held := es.reverse ++ t.held }) := by
  induction es generalizing t with
  | nil => rfl
  | cons e es ih =>
    rw [List.length_cons] at hl hz
    have hpush : pushT s id t e = (s, .ok { t with held := e :: t.held }) := by
      unfold pushT
      rw [if_neg (by unfold Trav.h; omega)]
      dsimp only
      rw [if_neg (by rw [List.length_cons]; omega)]
    rw [pushTs, hpush]
    dsimp only
    rw [ih { t with held := e :: t.held } (by rw [List.length_cons]; omega)
      (by change t.spilled + (e :: t.held).length + es.length ≤ 64 + t.zs; rw [List.length_cons]; omega)]
    simp

/-- Without a spill area, a stack that would pass 64 entries ends the traversal. -/
theorem pushTs_over (id : Nat) (s : State) (es : List TEntry) (t : Trav) (hs : t.spilled = 0) (hz : t.zs = 0)
    (hh : t.held.length ≤ 64) (hl : 64 < t.held.length + es.length) : pushTs id s t es = (s, .error (.ends 2)) := by
  induction es generalizing t with
  | nil => simp at hl; omega
  | cons e es ih =>
    rw [List.length_cons] at hl
    by_cases hfull : t.held.length = 64
    · have hpush : pushT s id t e = (s, .error (.ends 2)) := by
        unfold pushT
        rw [if_pos (by unfold Trav.h; omega)]
      rw [pushTs, hpush]
    · have hpush : pushT s id t e = (s, .ok { t with held := e :: t.held }) := by
        unfold pushT
        rw [if_neg (by unfold Trav.h; omega)]
        dsimp only
        rw [if_neg (by rw [List.length_cons]; omega)]
      rw [pushTs, hpush]
      exact ih { t with held := e :: t.held } hs hz (by rw [List.length_cons]; omega) (by rw [List.length_cons]; omega)

theorem stopTrav_ends (s : State) (id : Nat) (t : Trav) (status : Nat) : stopTrav s id t (.ends status) = endTrav s id
    t status := rfl

theorem inNodes_iff (t : Trav) (x : Int) : t.inNodes x = true ↔ (t.nbase : Int) ≤ x ∧ x ≤ t.nbase + 0xFFFFFFF0 := by
  simp [Trav.inNodes]

theorem childOf_eq (x : Lay) (nbase at_ v : Nat) : childOf x nbase at_ v =
    if x.rel then (at_ : Int) + (if v < 2 ^ (8 * x.pbytes - 1) then (v : Int) else v - 2 ^ (8 * x.pbytes))
    else if x.pbytes = 8 then (v : Int) else nbase + v := by
  unfold childOf
  refine if_congr Iff.rfl (congrArg (_ + ·) ?_) rfl
  by_cases h : v < 2 ^ (8 * x.pbytes - 1)
  · rw [if_pos h, if_neg (by omega)]
  · rw [if_neg h, if_pos (by omega)]

/-- The children that an ENTER's result selects, of a node as read. -/
def selected (x : Lay) (node : List Byte) (r : W32) : List Nat :=
  (List.range (countOf x node)).filter fun i => bit r i && ptrOf x node i != 0

/-- What is held once the top entry has been entered: it is popped, or stays as entered for its LEAVE. -/
def enteredHeld (t : Trav) : List TEntry :=
  if t.leave = 0 then t.held.drop 1
  else (t.held.head?.map fun e => ⟨e.w0 ||| 0x8000000000000000, e.w1⟩).toList ++ t.held.drop 1

theorem retEnter_node (s : State) (id : Nat) (t : Trav) {v : TVisit} {x : BitVec 512} (hx : v.lay = some x) (r u : W32) :
    retEnter s id t v r u =
      if 32 < countOf x v.node ∨ ∃ i, i < countOf x v.node ∧ Lay.nsize x < Lay.poff x + i * Lay.pstride x + Lay.pbytes
          x then
        (s, .error (.ends 4))
      else if ∃ i ∈ selected x v.node r, childOf x t.nbase v.e.node (ptrOf x v.node i) % 16 ≠ 0 ∨
          t.inNodes (childOf x t.nbase v.e.node (ptrOf x v.node i)) = false then (s, .error (.ends 4))
      else
        if selected x v.node r = [] then (s, .ok { t with held := enteredHeld t })
        else if v.e.depth = 255 then (s, .error (.ends 4))
        else pushTs id s { t with held := enteredHeld t } ((if t.ord then (selected x v.node r).reverse else selected x v.node r).map fun i =>
          TEntry.make false (Lay.clayout x) (childOf x t.nbase v.e.node (ptrOf x v.node i)).toNat t.tg i
              (v.e.depth.toNat + 1) u) := by
  have hsel : ((List.range (countOf x v.node)).filter fun i => bit r i && ptrOf x v.node i != 0) = selected x v.node r
      := rfl
  unfold retEnter
  rw [hx]
  dsimp only
  rw [hsel]
  have hheld : (if t.leave = 0 then { t with held := t.held.drop 1 }
      else { t with held := match t.held with | e :: es => ⟨e.w0 ||| 0x8000000000000000, e.w1⟩ :: es | [] => [] }) =
        ({ t with held := enteredHeld t } : Trav) := by
    unfold enteredHeld
    split
    · rfl
    · cases t.held <;> rfl
  by_cases h1 : 32 < countOf x v.node
  · rw [if_pos h1, if_pos (.inl h1)]
  rw [if_neg h1]
  by_cases h2 : ∃ i, i < countOf x v.node ∧ Lay.nsize x < Lay.poff x + i * Lay.pstride x + Lay.pbytes x
  · have hbad : ((List.range (countOf x v.node)).any fun i =>
        decide (Lay.nsize x < Lay.poff x + i * Lay.pstride x + Lay.pbytes x)) = true := by
      obtain ⟨i, hi, hb⟩ := h2
      exact List.any_eq_true.2 ⟨i, List.mem_range.2 hi, decide_eq_true hb⟩
    rw [if_pos hbad, if_pos (Or.inr h2)]
  rw [if_neg (by
    intro h
    obtain ⟨i, hi, hb⟩ := List.any_eq_true.1 h
    exact h2 ⟨i, List.mem_range.1 hi, of_decide_eq_true hb⟩), if_neg (not_or.2 ⟨h1, h2⟩)]
  have hany : (((selected x v.node r).map fun i => (i, childOf x t.nbase v.e.node (ptrOf x v.node i))).any fun c =>
      c.2 % 16 != 0 || !t.inNodes c.2) = true ↔ ∃ i ∈ selected x v.node r,
        childOf x t.nbase v.e.node (ptrOf x v.node i) % 16 ≠ 0 ∨
          t.inNodes (childOf x t.nbase v.e.node (ptrOf x v.node i)) = false := by
    simp only [List.any_map, List.any_eq_true, Function.comp, Bool.or_eq_true, bne_iff_ne, Bool.not_eq_true']
  refine if_congr hany rfl ?_
  have hmap (es : List Nat) (f : Nat × Int → TEntry) : ((es.map fun i => (i, childOf x t.nbase v.e.node (ptrOf x
      v.node i))).map f) =
      es.map fun i => f (i, childOf x t.nbase v.e.node (ptrOf x v.node i)) := List.map_map
  refine if_congr (by rw [List.isEmpty_iff, List.map_eq_nil_iff]) (congrArg (fun t => (s, Except.ok t)) hheld)
    (if_congr beq_iff_eq rfl ?_)
  refine (congrArg (fun t' : Trav => pushTs id s t' (((if t'.ord then
    ((selected x v.node r).map fun i => (i, childOf x t.nbase v.e.node (ptrOf x v.node i))).reverse else
    (selected x v.node r).map fun i => (i, childOf x t.nbase v.e.node (ptrOf x v.node i))).map fun c =>
      TEntry.make false (Lay.clayout x) c.2.toNat t'.tg c.1 (v.e.depth.toNat + 1) u))) hheld).trans ?_
  refine congrArg (pushTs id s { t with held := enteredHeld t }) ?_
  change List.map _ (if t.ord then _ else _) = _
  split
  · rw [← List.map_reverse, hmap]
  · rw [hmap]

theorem retPrune_cons {t : Trav} {e : TEntry} {rest : List TEntry} (hh : t.held = e :: rest) (r u : W32) : retPrune t r u =
    { t with held := if r.getLsbD 0 then
        TEntry.make e.ent e.layout e.node t.tg e.cursor.toNat e.depth.toNat u :: rest else rest } := by
  unfold retPrune bit
  rw [hh]
  dsimp only
  split <;> rfl

section
variable {s : State} {id : Nat} {t : Trav} {v : TVisit} {r u : W32} (h : TravMay s id t) (hv : t.visit = some v)
  (hr : t.ret = some (r, u)) (hp : TravPlaced t)
include h hv hr hp

theorem travStep_error {x : TStop} (he : retVisit s id t v r u = (s, .error x)) : travStep s id = stopTrav s id t x := by
  rw [travStep_returns h hv hr hp, he]

theorem travStep_ok {t' : Trav} (he : retVisit s id t v r u = (s, .ok t')) :
    travStep s id = s.setTrav id { t' with visit := none, ret := none, waiting := false } := by
  rw [travStep_returns h hv hr hp, he]

theorem enterReturns {e : TEntry} {rest : List TEntry} (hk : v.kind = 0) (hve : v.e = e) (hh : t.held = e :: rest) :
    EnterReturns s id t v r u e rest := by
  have hret : retVisit s id t v r u = retEnter s id t v r u := by
    unfold retVisit
    rw [hk] <;> rfl
  unfold EnterReturns
  refine ⟨fun hlay => ?_, fun lay hx => ?_⟩
  · refine congrArg Outcome.next ((travStep_error h hv hr hp (hret.trans ?_)).trans (stopTrav_ends ..))
    unfold retEnter
    rw [hlay]
  · intro x field cnt ptr child beyond sel astray base pushed
    have hcnt : countOf lay v.node = cnt := by
      unfold countOf
      simp only [Bool.and_eq_true]
      rfl
    have hchild (i : Nat) : childOf lay t.nbase v.e.node (ptrOf lay v.node i) = child i := by
      rw [hve]
      exact childOf_eq lay t.nbase e.node (ptr i)
    have hsel : selected lay v.node r = sel := by
      unfold selected
      rw [hcnt]
      rfl
    have hastray : (∃ i ∈ sel, child i % 16 ≠ 0 ∨ t.inNodes (child i) = false) ↔ astray := by
      refine exists_congr fun i => and_congr Iff.rfl (or_congr Iff.rfl ?_)
      rw [← Bool.not_eq_true, inNodes_iff, not_and_or, not_le, not_le]
    have hheld : enteredHeld t = base := by
      unfold enteredHeld
      rw [hh]
      rfl
    have hlen : pushed.length = sel.length := by
      change (List.map _ (if t.ord then sel.reverse else sel)).length = _
      rw [List.length_map]
      split
      · rw [List.length_reverse]
      · rfl
    have hnode := retEnter_node s id t hx r u
    simp only [hcnt, hchild, hsel, hheld, hastray] at hnode
    have hends (status : Nat) (he : retEnter s id t v r u = (s, .error (.ends status))) :
        exec (.traversalStep id) s = .next (endTrav s id t status) :=
      congrArg Outcome.next ((travStep_error h hv hr hp (hret.trans he)).trans (stopTrav_ends ..))
    refine ⟨fun hbad => hends 4 (hnode.trans ?_), fun hgood => ?_⟩
    · rcases hbad with hb | hb
      · exact if_pos hb
      · rw [if_pos hb, ite_self]
    · obtain ⟨hb, ha⟩ := not_or.1 hgood
      rw [if_neg hb, if_neg ha] at hnode
      refine ⟨fun hs hd => hends 4 (hnode.trans ?_), fun hs => ⟨fun hl hz => ?_, fun hz hsp hrest hl => ?_⟩⟩
      · rw [if_neg hs, if_pos (by rw [hve]; exact hd)]
      · have hok : retEnter s id t v r u = (s, .ok { t with held := pushed.reverse ++ base }) := by
          by_cases hnil : sel = []
          · have hp0 : pushed = [] := List.length_eq_zero_iff.1 (by rw [hlen, hnil]; rfl)
            rw [hnode, if_pos hnil, hp0]
            rfl
          · rw [hnode, if_neg hnil, if_neg (by rw [hve]; exact hs.resolve_left hnil), hve]
            refine pushTs_room id s pushed { t with held := base } ?_ ?_
            · rw [hlen]; exact hl
            · rw [hlen]; exact hz
        exact congrArg Outcome.next (travStep_ok h hv hr hp (hret.trans hok))
      · have hbase : base.length ≤ 64 := by
          change (if t.leave = 0 then rest else _ :: rest).length ≤ 64
          split
          · omega
          · rw [List.length_cons]; omega
        have hnil : sel ≠ [] := fun hnil => by rw [hnil, List.length_nil] at hl; omega
        refine hends 2 ?_
        rw [hnode, if_neg hnil, if_neg (by rw [hve]; exact hs.resolve_left hnil), hve]
        exact pushTs_over id s pushed { t with held := base } hsp hz hbase (by rw [hlen]; exact hl)

end

/-- Settles O15: the branches of a step, of a return and of a cut, each by its guard. -/
theorem traversalsStep : Obligations.TraversalsStep := by
  unfold Obligations.TraversalsStep
  intro s id t h
  have hcov := h.2.2
  refine ⟨fun hv hc hb hp hl => ⟨fun hh hsp hst hcuts ho => ?_, fun e rest hh hs => ?_⟩,
    fun u gid g tid ho ht hg hk hi => countTrav_group ho ht hg hk hi, fun v r u e rest hv hr hk hve hh hp =>
      enterReturns h hv hr hp hk hve hh, fun v r u e rest hv hr hk hh hp => ?_,
    fun c rest hc => ⟨fun hv ha => congrArg Outcome.next (cutApply_marks h hc hv ha), fun hv hb hp hl hs =>
      congrArg Outcome.next (cutApply_applies h hc hv hb hp hl hs)⟩, fun e v hve => ?_⟩
  · have hgo : travStep s id = endTrav s id t 0 := by
      refine (travStep_next h hv hc hb hp hl (.inl hsp)).trans ?_
      unfold stepTrav
      rw [hh]
    refine congrArg Outcome.next ((hgo.trans (endTrav_bare hp hcov hst hcuts ho 0)).trans ?_)
    unfold reapOwner
    cases t.oteam <;> rfl
  · have hgo := travStep_next h hv hc hb hp hl hs
    obtain ⟨hent, hprune, henter⟩ := stepTrav_held (s := s) (id := id) hh hb
    refine ⟨fun he => congrArg Outcome.next (hgo.trans (hent he)), fun he hp hg => congrArg Outcome.next (hgo.trans
        (hprune he hp hg)),
      fun he hg l hl => ?_⟩
    obtain ⟨hnone, hsome⟩ := stepEnter_layout (s := s) (id := id) (t := t) hl e
    exact ⟨fun hf => congrArg Outcome.next ((hgo.trans (henter he hg)).trans (hnone hf)),
      fun x bs hf hload => congrArg Outcome.next ((hgo.trans (henter he hg)).trans (hsome x bs hf hload))⟩
  · have hret : retVisit s id t v r u = (s, .ok (retPrune t r u)) := by
      unfold retVisit
      rw [hk] <;> rfl
    refine congrArg Outcome.next ((travStep_ok h hv hr hp hret).trans ?_)
    rw [retPrune_cons hh]
  · unfold Trav.thread
    rw [hve]
    refine congrArg (fun w => [_, _, w, _]) (BitVec.eq_of_toNat_eq ?_)
    simp only [toNat_append_eq_add, BitVec.toNat_ofNat]
    have := e.depth.isLt
    have := e.cursor.isLt
    omega

end Machine

end Sys2Proof
end

section
/-!
PROOFS. TraversalWords: ids and starts of traversals, returns, bounds and cuts (R300 to R311).
-/
namespace Sys2Proof

/-- Only the entry that is replaced leaves the list. -/
theorem Store.mem_put_of_mem {α : Type} {m : List (Nat × α)} {k : Nat} {x : α} (h : Store.find m k = some x) (v : α)
    {e : Nat × α} (he : e ∈ m) : e ∈ Store.put m k v ∨ e = (k, x) := by
  induction m with
  | nil => cases he
  | cons d m ih =>
    obtain ⟨j, y⟩ := d
    by_cases h1 : j < k
    · rw [Store.find, if_pos h1] at h
      rw [Store.put, if_pos h1]
      rcases List.mem_cons.1 he with rfl | he
      · exact .inl List.mem_cons_self
      · exact (ih h he).imp_left (List.mem_cons_of_mem _)
    · by_cases h2 : j = k
      · subst h2
        rw [Store.find, if_neg h1, if_pos rfl] at h
        rw [Store.put, if_neg h1, if_pos rfl]
        rcases List.mem_cons.1 he with rfl | he
        · exact .inr (by rw [Option.some.inj h])
        · exact .inl (List.mem_cons_of_mem _ he)
      · rw [Store.find, if_neg h1, if_neg h2] at h
        cases h

theorem Store.mem_keys_put {α : Type} (m : List (Nat × α)) (k : Nat) (v : α) (j : Nat) :
    j ∈ (Store.put m k v).map (·.1) ↔ j ∈ m.map (·.1) ∨ j = k := by
  induction m with
  | nil => simp [Store.put]
  | cons d m ih =>
    rw [Store.put]
    split
    · rw [List.map_cons, List.mem_cons, ih, List.map_cons, List.mem_cons, or_assoc]
    · split
      · next h => simp [h, or_comm]
      · simp only [List.map_cons, List.mem_cons, or_comm]

namespace Machine

open Host

/-! ## The ids of traversals (R300) -/

/-- Values of the counter less than 2^32 − 1 apart give different ids. -/
theorem travIdAt_inj {n i j : Nat} (hi : i < 4294967295) (hj : j < 4294967295) (h : travIdAt (n + i) = travIdAt (n + j)) :
    i = j := by
  unfold travIdAt at h
  omega

/-- While not every id is taken, the next value of the counter gives a free one. -/
theorem travIdAt_freeCount {s : State} (n : Nat) (h : (idsTaken s).toFinset.card < 4294967295) :
    travIdAt (freeCount s n) ∉ idsTaken s := by
  unfold freeCount
  dsimp only
  rcases hf : ((List.range ((idsTaken s).length + 1)).map fun i => n + i).find? fun k =>
      !(idsTaken s).contains (travIdAt k) with _ | k
  · have hall : ∀ i, i < (idsTaken s).length + 1 → travIdAt (n + i) ∈ idsTaken s := fun i hi => by
      have := List.find?_eq_none.1 hf (n + i) (List.mem_map_of_mem (List.mem_range.2 hi))
      simpa using this
    have hle : (Finset.range (min ((idsTaken s).length + 1) 4294967295)).card ≤ (idsTaken s).toFinset.card := by
      refine Finset.card_le_card_of_injOn (fun i => travIdAt (n + i)) (fun i hi => ?_) (fun i hi j hj hij => ?_)
      · exact List.mem_toFinset.2 (hall i (by have := Finset.mem_range.1 hi; omega))
      · have hi := Finset.mem_range.1 hi
        have hj := Finset.mem_range.1 hj
        exact travIdAt_inj (by omega) (by omega) hij
    have := List.toFinset_card_le (idsTaken s)
    rw [Finset.card_range] at hle
    omega
  · simpa using List.find?_some hf

/-- One traversal that starts. -/
def startTrav (s : State) (t : Trav) : State :=
  let id := travIdAt (freeCount s s.travId)
  ((({ s with travId := freeCount s s.travId + 1 } : State).setTrav id t).updLaunch t.lid fun l =>
    { l with tids := l.tids ++ [id] })

theorem startTravs_concat (s : State) (ts : List Trav) (t : Trav) :
    startTravs s (ts ++ [t]) = (startTrav (startTravs s ts).1 t,
      (startTravs s ts).2 ++ [travIdAt (freeCount (startTravs s ts).1 (startTravs s ts).1.travId)]) := by
  unfold startTravs
  rw [List.foldl_append]
  rfl

theorem startTrav_frame (s : State) (t : Trav) :
    startTrav s t = { s with
      travs := (startTrav s t).travs, travId := (startTrav s t).travId, launches := (startTrav s t).launches } := rfl

theorem mem_idsTaken_startTrav (s : State) (t : Trav) (id : Nat) :
    id ∈ idsTaken (startTrav s t) ↔ id ∈ idsTaken s ∨ id = travIdAt (freeCount s s.travId) := by
  have htravs : id ∈ (startTrav s t).travs.map (·.1) ↔ id ∈ s.travs.map (·.1) ∨ id = travIdAt (freeCount s s.travId) :=
    Store.mem_keys_put _ _ _ _
  have hlaunch : (startTrav s t).launches = Store.adjust s.launches t.lid fun l : Launch =>
    { l with tids := l.tids ++ [travIdAt (freeCount s s.travId)] } := rfl
  unfold idsTaken
  rw [List.mem_append, List.mem_append, htravs, hlaunch]
  unfold Store.adjust
  rcases hf : Store.find s.launches t.lid with _ | l
  · dsimp only
    tauto
  · dsimp only
    rw [List.mem_flatMap, List.mem_flatMap]
    constructor
    · rintro ((h | h) | ⟨e, he, hid⟩)
      · exact .inl (.inl h)
      · exact .inr h
      · rcases Store.mem_put he with rfl | he
        · rcases List.mem_append.1 hid with hid | hid
          · exact .inl (.inr ⟨_, Store.mem_of_find hf, hid⟩)
          · exact .inr (List.mem_singleton.1 hid)
        · exact .inl (.inr ⟨e, he, hid⟩)
    · rintro ((h | ⟨e, he, hid⟩) | h)
      · exact .inl (.inl h)
      · rcases Store.mem_put_of_mem hf _ he with he | rfl
        · exact .inr ⟨e, he, hid⟩
        · exact .inr ⟨_, Store.mem_of_find (Store.find_put_self _ _ _), List.mem_append_left _ hid⟩
      · exact .inl (.inr h)

theorem length_startTravs (s : State) (ts : List Trav) : (startTravs s ts).2.length = ts.length := by
  induction ts using List.reverseRecOn with
  | nil => rfl
  | append_singleton ts t ih => rw [startTravs_concat, List.length_append, List.length_append, ih]; rfl

theorem startTravs_frame (s : State) (ts : List Trav) :
    (startTravs s ts).1 = { s with
      travs := (startTravs s ts).1.travs, travId := (startTravs s ts).1.travId,
      launches := (startTravs s ts).1.launches } := by
  induction ts using List.reverseRecOn with
  | nil => rfl
  | append_singleton ts t ih =>
    rw [startTravs_concat, startTrav_frame]
    dsimp only
    rw [ih]

theorem mem_idsTaken_startTravs (s : State) (ts : List Trav) (id : Nat) :
    id ∈ idsTaken (startTravs s ts).1 ↔ id ∈ idsTaken s ∨ id ∈ (startTravs s ts).2 := by
  induction ts using List.reverseRecOn with
  | nil => simp [startTravs]
  | append_singleton ts t ih =>
    rw [startTravs_concat]
    dsimp only
    rw [mem_idsTaken_startTrav, ih, List.mem_append, List.mem_singleton, or_assoc]

/-- The id that the next traversal gets after some have started names none. -/
theorem travIdAt_startTravs {s : State} {ts : List Trav} (h : (idsTaken s).length + ts.length < 4294967295) :
    travIdAt (freeCount (startTravs s ts).1 (startTravs s ts).1.travId) ∉ idsTaken (startTravs s ts).1 := by
  refine travIdAt_freeCount _ (Nat.lt_of_le_of_lt ?_ h)
  have hsub : (idsTaken (startTravs s ts).1).toFinset ⊆ (idsTaken s ++ (startTravs s ts).2).toFinset := fun id hid => by
    rw [List.mem_toFinset, List.mem_append]
    exact (mem_idsTaken_startTravs s ts id).1 (List.mem_toFinset.1 hid)
  refine (Finset.card_le_card hsub).trans ((List.toFinset_card_le _).trans ?_)
  rw [List.length_append, length_startTravs]

theorem nodup_startTravs {s : State} {ts : List Trav} (h : (idsTaken s).length + ts.length < 4294967295) :
    (startTravs s ts).2.Nodup := by
  induction ts using List.reverseRecOn with
  | nil => exact List.nodup_nil
  | append_singleton ts t ih =>
    rw [List.length_append] at h
    have hlt : (idsTaken s).length + ts.length < 4294967295 := by omega
    rw [startTravs_concat, List.nodup_append]
    refine ⟨ih hlt, List.nodup_singleton _, fun x hx y hy hxy => ?_⟩
    have hfree := travIdAt_startTravs hlt
    rw [List.mem_singleton.1 hy] at hxy
    exact hfree (hxy ▸ (mem_idsTaken_startTravs s ts x).2 (.inr hx))

theorem find_startTravs_other (s : State) (ts : List Trav) {id : Nat} (h : id ∉ (startTravs s ts).2) :
    Store.find (startTravs s ts).1.travs id = Store.find s.travs id := by
  induction ts using List.reverseRecOn with
  | nil => rfl
  | append_singleton ts t ih =>
    rw [startTravs_concat] at h ⊢
    obtain ⟨hold, hnew⟩ := not_or.1 (mt List.mem_append.2 h)
    exact (Store.find_put_ne _ _ _ fun he => hnew (List.mem_singleton.2 he)).trans (ih hold)

theorem find_startTravs {s : State} {ts : List Trav} (h : (idsTaken s).length + ts.length < 4294967295) {j id : Nat}
    {t : Trav} (hid : (startTravs s ts).2[j]? = some id) (ht : ts[j]? = some t) :
    Store.find (startTravs s ts).1.travs id = some t := by
  induction ts using List.reverseRecOn with
  | nil => cases ht
  | append_singleton ts t' ih =>
    rw [List.length_append] at h
    have hlt : (idsTaken s).length + ts.length < 4294967295 := by omega
    rw [startTravs_concat] at hid ⊢
    by_cases hj : j < ts.length
    · rw [List.getElem?_append_left hj] at ht
      rw [List.getElem?_append_left (by rw [length_startTravs]; exact hj)] at hid
      refine (Store.find_put_ne _ _ _ fun he => travIdAt_startTravs hlt ?_).trans (ih hlt hid ht)
      exact he ▸ (mem_idsTaken_startTravs s ts id).2 (.inr (List.mem_of_getElem? hid))
    · have hlen : j < (ts ++ [t']).length := (List.getElem?_eq_some_iff.1 ht).1
      have hj : j = ts.length := by rw [List.length_append, List.length_singleton] at hlen; omega
      subst hj
      rw [List.getElem?_concat_length] at ht
      rw [← length_startTravs s ts, List.getElem?_concat_length] at hid
      rw [← Option.some.inj hid, ← Option.some.inj ht]
      exact Store.find_put_self _ _ _

theorem find_startTravs_launches (s : State) (ts : List Trav) (lid : Nat) :
    Store.find (startTravs s ts).1.launches lid = (Store.find s.launches lid).map fun l =>
      { l with tids := l.tids ++ ((ts.zip (startTravs s ts).2).filter fun p => p.1.lid == lid).map (·.2) } := by
  induction ts using List.reverseRecOn with
  | nil => simp [startTravs]
  | append_singleton ts t ih =>
    rw [startTravs_concat]
    dsimp only
    rw [List.zip_append (length_startTravs s ts).symm, List.filter_append, List.map_append]
    by_cases hl : t.lid = lid
    · subst hl
      refine (Store.find_adjust_self _ _ _).trans ?_
      refine (congrArg (Option.map _) ih).trans ?_
      simp [Function.comp_def]
    · refine (Store.find_adjust_ne _ _ _ (Ne.symm hl)).trans (ih.trans ?_)
      simp [hl]

/-- An id that a traversal gets is one that the counter gives, and named none before. -/
theorem mem_startTravs {s : State} {ts : List Trav} (h : (idsTaken s).length + ts.length < 4294967295) {id : Nat}
    (hid : id ∈ (startTravs s ts).2) : (∃ k, id = travIdAt k) ∧ id ∉ idsTaken s := by
  induction ts using List.reverseRecOn with
  | nil => cases hid
  | append_singleton ts t ih =>
    rw [List.length_append] at h
    have hlt : (idsTaken s).length + ts.length < 4294967295 := by omega
    rw [startTravs_concat] at hid
    rcases List.mem_append.1 hid with hid | hid
    · exact ih hlt hid
    · rw [List.mem_singleton.1 hid]
      exact ⟨⟨_, rfl⟩, fun hm => travIdAt_startTravs hlt ((mem_idsTaken_startTravs s ts _).2 (.inl hm))⟩

theorem traversalIds : Claims.TraversalIds := by
  unfold Claims.TraversalIds
  intro s ts h r
  refine ⟨length_startTravs s ts, nodup_startTravs h, startTravs_frame s ts, ?_, fun id => find_startTravs_other s ts,
    find_startTravs_launches s ts⟩
  intro j id t hid ht
  obtain ⟨⟨k, hk⟩, hfree⟩ := mem_startTravs h (List.mem_of_getElem? hid)
  unfold travIdAt at hk
  obtain ⟨htravs, hlaunches⟩ := not_or.1 (mt List.mem_append.2 hfree)
  refine ⟨by omega, by omega, ?_, fun p hp hmem => hlaunches (List.mem_flatMap.2 ⟨p, hp, hmem⟩),
    find_startTravs h hid ht⟩
  rcases hf : Store.find s.travs id with _ | t'
  · rfl
  · exact absurd (List.mem_map_of_mem (f := (·.1)) (Store.mem_of_find hf)) htravs

end Machine

namespace Machine

open Host Safety

/-! ## Starting traversals (R301, R303, R310) -/

theorem lanesOf_eq_nil_iff (m : Mask) : lanesOf m = [] ↔ m = 0 := by
  refine ⟨fun h => BitVec.eq_of_getLsbD_eq fun l hl => ?_, fun h => h ▸ lanesOf_zero⟩
  have hnot := List.filter_eq_nil_iff.1 h l (List.mem_range.2 hl)
  simpa using hnot

/-- A word that gives each effective lane a value issues with no result where there is no such lane. -/
theorem issueL_values {s : State} {gid : Nat} (hc : s.cur = gid) (g o : Group) (d : BitVec 8) (eff : Mask) (f : Nat → Nat)
    (sw : Bool) (hroom : o.ln.full = false) :
    issueL s gid o (if eff == 0 then [] else wV g .i32 d eff .top f) sw =
      if lanesOf eff = [] then laneOn s o (o.ctx.lpc + 12) sw
      else laneAfter s o (laneWrites g .i32 d eff .top f) sw := by
  subst hc
  by_cases h : eff = 0
  · rw [if_pos (by simp [h]), if_pos ((lanesOf_eq_nil_iff eff).2 h)]
    rfl
  · rw [if_neg (by simpa using h), if_neg (mt (lanesOf_eq_nil_iff eff).1 h), wV_eq_laneWrites,
      issueL_room sw (laneWrites_ne_nil _ _ _ _ _ _) hroom]

theorem startTravs_cur (s : State) (ts : List Trav) : (startTravs s ts).1.cur = s.cur := by
  rw [startTravs_frame]

theorem newTrav_fresh (s : State) (g : Group) (table : BitVec 512) (taddr : Nat) (payload : W32) (tg : BitVec 8)
    (held : List TEntry) (stamp : Option Place) (e : Option Nat) (cov : List Nat) :
    FreshTrav s g table taddr payload tg held stamp (newTrav s.cur g table taddr payload tg held stamp e cov) :=
  ⟨rfl, rfl, rfl, rfl, rfl, rfl, rfl, rfl, rfl, rfl, rfl, rfl, rfl, rfl, rfl, rfl, rfl, rfl, rfl⟩

/-- The traversal that a lane of a TVBEGIN starts is at its root, or ends at once. -/
theorem beginLane_spec (s v : State) (h : Group) (a b : BitVec 8) (lay : BitVec 4) (table : BitVec 512) (taddr : Nat)
    (ps : List (Nat × Nat × TlbEntry)) (l : Nat) :
    let root := (vRead v s.cur h (a.toNat + 1) l ++ vRead v s.cur h a.toNat l).toNat
    let t := beginLane v s.cur h a b lay table taddr ps l
    FreshTrav s h table taddr (vRead v s.cur h b.toNat l) 0 [TEntry.make false lay.toNat root 0 0 0 0] (placeOf ps l)
        t ∧
      t.ending = if root % 16 ≠ 0 ∨ t.inNodes root = false then some 4 else none := by
  intro root t
  have hnew := newTrav_fresh s h table taddr (vRead v s.cur h b.toNat l) 0 [TEntry.make false lay.toNat root 0 0 0 0]
    (placeOf ps l) none (h.ln.covered v)
  generalize hn : newTrav s.cur h table taddr (vRead v s.cur h b.toNat l) 0 [TEntry.make false lay.toNat root 0 0 0 0]
    (placeOf ps l) none (h.ln.covered v) = n at hnew
  have ht : t = if root % 16 != 0 || !n.inNodes root then { n with ending := some 4 } else n := by rw [← hn]; rfl
  have hnone : n.ending = none := by rw [← hn]; rfl
  by_cases hbad : root % 16 ≠ 0 ∨ n.inNodes root = false
  · rw [ht, if_pos (by simpa using hbad)]
    exact ⟨hnew, (if_pos hbad).symm⟩
  · rw [ht, if_neg (by simpa using hbad)]
    exact ⟨hnew, hnone.trans (if_neg hbad).symm⟩

/-- The traversal that a lane of a TVRESUME starts has its record's entries, or ends at once. -/
theorem resumeLane_spec (s : State) (h : Group) (cov : List Nat) (ps : List (Nat × Nat × TlbEntry)) (l : RLane) :
    let t := resumeLane s.cur h cov ps l
    FreshTrav s h l.table (fld l.hdr 8 0 57) (bits l.hdr 128 32) (bits l.hdr 160 8) l.es.reverse (placeOf ps l.lane) t ∧
      t.ending = if l.es = [] then some 0 else if 64 + t.zs < l.es.length then some 2 else none := by
  intro t
  have hnew := newTrav_fresh s h l.table (fld l.hdr 8 0 57) (bits l.hdr 128 32) (bits l.hdr 160 8) l.es.reverse
    (placeOf ps l.lane) none cov
  generalize hn : newTrav s.cur h l.table (fld l.hdr 8 0 57) (bits l.hdr 128 32) (bits l.hdr 160 8) l.es.reverse
    (placeOf ps l.lane) none cov = n at hnew
  have ht : t = if l.es.isEmpty then { n with ending := some 0 }
      else if 64 + n.zs < l.es.length then { n with ending := some 2 } else n := by rw [← hn]; rfl
  have hnone : n.ending = none := by rw [← hn]; rfl
  by_cases hnil : l.es = []
  · rw [ht, if_pos (by rw [hnil]; rfl)]
    exact ⟨hnew, (if_pos hnil).symm⟩
  · rw [ht, if_neg (by simpa using hnil)]
    by_cases hover : 64 + n.zs < l.es.length
    · rw [if_pos hover]
      exact ⟨hnew, ((if_neg hnil).trans (if_pos hover)).symm⟩
    · rw [if_neg hover]
      exact ⟨hnew, hnone.trans ((if_neg hnil).trans (if_neg hover)).symm⟩

/-- Once its checks pass, a TVRESUME starts the traversals of its good lanes. -/
theorem resumeGo_starts {s v w : State} {h : Group} (m : Mods) (d : BitVec 8) (eff : Mask) (ls : List RLane)
    {rs : List (Nat × Nat × TlbEntry)} (hv : v.cur = s.cur) (hw : w.cur = s.cur) (hroom : h.ln.full = false)
    (hgo : AccessesGo v h .write
      ((ls.filter (·.ok)).filterMap fun l => (stampOf l.table (bits l.hdr 128 32)).map fun va => (l.lane, va)) w rs) :
    let go := ls.filter (·.ok)
    let r := startTravs (released w s.cur) (go.map (resumeLane s.cur h (h.ln.covered w) rs))
    let o := { h with travq := h.travq ++ r.2 }
    resumeGo v s.cur h m d eff ls =
      if lanesOf eff = [] then laneOn r.1 o (h.ctx.lpc + 12) m.sw
      else laneAfter r.1 o (laneWrites h .i32 d eff .top (fun l =>
        if go.any (·.lane == l) then idOf (go.map (·.lane)) r.2 l else 0)) m.sw := by
  intro go r o
  have hr : r.1.cur = s.cur := (startTravs_cur _ _).trans hw
  have ht := hgo fun s' ps => 
    let (s, ids) := startTravs (released s' s.cur) (go.map (resumeLane s.cur h (h.ln.covered s') ps))
    let id := fun l => if go.any fun x => x.lane == l then idOf (go.map (·.lane)) ids l else 0
    let ws := if eff == 0 then [] else wV h .i32 d eff .top id
    issueL s v.cur { h with travq := h.travq ++ ids } ws m.sw
  rw [hv] at ht
  exact ht.trans (issueL_values hr h o d eff _ m.sw hroom)

/-- Past the checks of R303 and R310. -/
theorem tvChecks_pass {s : State} {g : Group} {regs : List Nat} (k : State) (hq : ∀ r ∈ regs, r < g.q)
    (hs : (s.desc g).spawnq ≠ 0) (hf : hasFeat s s.cur 1 = true) : tvChecks s s.cur g regs k = k := by
  unfold tvChecks
  rw [inQuota_within hq, if_neg hs, if_neg (by simp [hf])]

theorem tvChecks_noSlots {s : State} {g : Group} {regs : List Nat} (k : State) (hq : ∀ r ∈ regs, r < g.q)
    (hs : (s.desc g).spawnq = 0) : tvChecks s s.cur g regs k = raiseL s s.cur g .quota 4 := by
  unfold tvChecks
  rw [inQuota_within hq, if_pos hs]
  rfl

theorem tvChecks_noFeature {s : State} {g : Group} {regs : List Nat} (k : State) (hq : ∀ r ∈ regs, r < g.q)
    (hs : (s.desc g).spawnq ≠ 0) (hf : hasFeat s s.cur 1 = false) :
    tvChecks s s.cur g regs k = raiseL s s.cur g .feature 1 := by
  unfold tvChecks
  rw [inQuota_within hq, if_neg hs, if_pos (by simp [hf])]

/-- What a TVBEGIN does with its table. -/
def beginWith (gid : Nat) (m : Mods) (d a b : BitVec 8) (lay : BitVec 4) (taddr : Nat) (s : State) (table : BitVec
    512) :
    State :=
  match s.grp gid with
  | none => s
  | some g =>
    if tableBad table then raiseL s gid g .operand (opInfo cBit)
    else if !travRoom s gid g (lanesOf (effMask s.picks g m)).length then s
    else
      translated s gid g .write ((lanesOf (effMask s.picks g m)).filterMap fun l =>
        (stampOf table (vRead s gid g b.toNat l)).map fun va => (l, va)) fun s' ps =>
          let r := startTravs (released s' gid) ((lanesOf (effMask s.picks g m)).map
            (beginLane s' gid g a b lay table taddr ps))
          issueL r.1 gid { g with travq := g.travq ++ r.2 }
            (if effMask s.picks g m == 0 then [] else
              wV g .i32 d (effMask s.picks g m) .top (idOf (lanesOf (effMask s.picks g m)) r.2)) m.sw

theorem exec_tvbegin {s : State} {g : Group} (hg : Issues s g) (m : Mods) (d a b : BitVec 8) (c : Uni) (lay : BitVec 4) :
    exec (.tvbegin m d a b c lay) s = .next (tvChecks s s.cur g ([d.toNat, b.toNat] ++ (List.range 2).map (a.toNat + ·))
      (if blockAddrBad (uPair s.picks g c) then raiseL s s.cur g .operand (opInfo cBit)
       else if g.ln.blocked s || g.ln.full then s
       else readBlock s s.cur g true (uPair s.picks g c).toNat
        (beginWith s.cur m d a b lay (uPair s.picks g c).toNat))) := by
  change execTvbegin m d a b c lay s = _
  rw [execTvbegin, withCur_next hg]
  rfl

theorem beginWith_bad {s : State} {gid : Nat} {g : Group} (hg : s.grp gid = some g) (m : Mods) (d a b : BitVec 8)
    (lay : BitVec 4) (taddr : Nat) {table : BitVec 512} (ht : tableBad table = true) :
    beginWith gid m d a b lay taddr s table = raiseL s gid g .operand 54 := by
  unfold beginWith
  rw [hg]
  exact if_pos ht

theorem beginWith_starts {s u v : State} {h : Group} (hh : u.grp s.cur = some h) (m : Mods) (d a b : BitVec 8)
    (lay : BitVec 4) (taddr : Nat) {table : BitVec 512} (ht : tableBad table = false) (hu : u.cur = s.cur)
    (hroom : travRoom u s.cur h (effLanes u h m).length = true) {ps : List (Nat × Nat × TlbEntry)}
    (hgo : AccessesGo u h .write ((effLanes u h m).filterMap fun l =>
      (stampOf table (vRead u s.cur h b.toNat l)).map fun va => (l, va)) v ps) (hv : v.cur = s.cur)
    (hfull : h.ln.full = false) :
    let r := startTravs (released v s.cur) ((effLanes u h m).map (beginLane v s.cur h a b lay table taddr ps))
    let o := { h with travq := h.travq ++ r.2 }
    beginWith s.cur m d a b lay taddr u table =
      if effLanes u h m = [] then laneOn r.1 o (h.ctx.lpc + 12) m.sw
      else laneAfter r.1 o (laneWrites h .i32 d (effMask u.picks h m) .top (idOf (effLanes u h m) r.2)) m.sw := by
  intro r o
  have hr : r.1.cur = s.cur := (startTravs_cur _ _).trans hv
  have hroom' : ¬ (!travRoom u u.cur h (lanesOf (effMask u.picks h m)).length) = true := by
    rw [hu, Bool.not_eq_true', Bool.not_eq_false]
    exact hroom
  rw [← hu] at hgo
  have hgo' := hgo fun s' ps =>
    let r := startTravs (released s' u.cur) ((lanesOf (effMask u.picks h m)).map
      (beginLane s' u.cur h a b lay table taddr ps))
    issueL r.1 u.cur { h with travq := h.travq ++ r.2 }
      (if effMask u.picks h m == 0 then [] else
        wV h .i32 d (effMask u.picks h m) .top (idOf (lanesOf (effMask u.picks h m)) r.2)) m.sw
  have hissue := issueL_values hr h o d (effMask u.picks h m) (idOf (effLanes u h m) r.2) m.sw hfull
  rw [hu] at hgo'
  unfold beginWith
  rw [hh]
  dsimp only
  rw [ht, if_neg Bool.false_ne_true, ← hu, if_neg hroom', hu]
  exact hgo'.trans hissue

end Machine

namespace Machine

open Host Safety

/-- The lanes of a TVRESUME before their records are read. -/
def resumeLanes (s : State) (g : Group) (m : Mods) (a : BitVec 8) : List RLane :=
  (effLanes s g m).map fun l =>
    ⟨l, (vPair s s.cur g a l).toNat, (vPair s s.cur g a l).toNat % 64 == 0, 0, 0, []⟩

/-- What a TVRESUME does once its headers are translated. -/
def resumeRead (gid : Nat) (g : Group) (m : Mods) (d : BitVec 8) (eff : Mask) (ls : List RLane) (s : State)
    (ps : List (Nat × Nat × TlbEntry)) : State :=
  let s := ps.foldl (fun s p => resolve s (p.2.1 / 128)) s
  let cov := ps.flatMap fun p => acqCover gid g (some .system) (relsRead s p.2.1 8 [])
  match readHeaders s gid ps ls with
  | (_, some (.blocked line)) => askRead s line
  | (_, some (.outside pa)) => freezeTeam s gid g 2 pa
  | (_, some _) => s
  | (ls, none) =>
    translated s gid g .read ((ls.filter (·.ok)).flatMap fun l =>
      pageKeys (4 * l.lane) (fld l.hdr 8 0 57) 64 ++ pageKeys (4 * l.lane + 1) (l.va + 64) (16 * (bits l.hdr 0
          32).toNat))
      fun s ps =>
        let s := ps.foldl (fun s p => resolve s (p.2.1 / 128)) s
        match readBodies s gid ps ls with
        | (_, some (some _, .blocked line)) => askFill s (coreOf gid) line
        | (_, some (none, .blocked line)) => askRead s line
        | (_, some (some l, .ok _ (some pa))) => integrity s gid g true g.ctx.lpc pa (integInfo 0 l)
        | (_, some (_, .outside pa)) => freezeTeam s gid g 2 pa
        | (_, some _) => s
        | (ls, none) =>
          resumeGo (s.setGrp gid { g with ln := g.ln.gain s cov }) gid { g with ln := g.ln.gain s cov } m d eff ls

theorem exec_tvresume {s : State} {g : Group} (hg : Issues s g) (m : Mods) (d a : BitVec 8) :
    exec (.tvresume m d a) s = .next (tvChecks s s.cur g (d.toNat :: (List.range 2).map (a.toNat + ·))
      (if g.ln.blocked s || g.ln.full || !travRoom s s.cur g (effLanes s g m).length then s
       else translated s s.cur g .read (((resumeLanes s g m a).filter (·.ok)).flatMap fun l =>
          pageKeys (4 * l.lane) l.va 64) (resumeRead s.cur g m d (effMask s.picks g m) (resumeLanes s g m a)))) := by
  change execTvresume m d a s = _
  rw [execTvresume, withCur_next hg]
  rfl

theorem resumeRead_starts {s : State} {gid : Nat} {g : Group} (m : Mods) (d : BitVec 8) (eff : Mask)
    {ls ls1 ls2 : List RLane} {ps qs : List (Nat × Nat × TlbEntry)} {v : State}
    (hh : readHeaders (ps.foldl (fun s p => resolve s (p.2.1 / 128)) s) gid ps ls = (ls1, none))
    (hgo : ∀ k, translated (ps.foldl (fun s p => resolve s (p.2.1 / 128)) s) gid g .read
      ((ls1.filter (·.ok)).flatMap fun l => pageKeys (4 * l.lane) (fld l.hdr 8 0 57) 64 ++
        pageKeys (4 * l.lane + 1) (l.va + 64) (16 * (bits l.hdr 0 32).toNat)) k = k v qs)
    (hb : readBodies (qs.foldl (fun s p => resolve s (p.2.1 / 128)) v) gid qs ls1 = (ls2, none)) :
    let v := qs.foldl (fun s p => resolve s (p.2.1 / 128)) v
    let found := ps.flatMap fun p => acqCover gid g (some .system)
      (relsRead (ps.foldl (fun s p => resolve s (p.2.1 / 128)) s) p.2.1 8 [])
    let h := { g with ln := { g.ln with
      cov := live v (g.ln.cov ++ found), acq := live v g.ln.acq ++ replPending v found } }
    resumeRead gid g m d eff ls s ps = resumeGo (v.setGrp gid h) gid h m d eff ls2 := by
  intro v found h
  unfold resumeRead
  dsimp only
  rw [hh]
  dsimp only
  refine (hgo _).trans ?_
  rw [hb]
  rfl

theorem traversalsStart : Claims.TraversalsStart := by
  unfold Claims.TraversalsStart
  intro s g m d a b c lay hg taddr begins resumes index
  have hbegin : exec begins s = _ := exec_tvbegin hg m d a b c lay
  have hresume : exec resumes s = _ := exec_tvresume hg m d a
  refine ⟨quotaTrap_of hbegin, quotaTrap_of hresume, fun hd hb ha => ?_⟩
  have hpair : ∀ r ∈ (List.range 2).map (a.toNat + ·), r < g.q := fun r hr => by
    obtain ⟨k, hk, rfl⟩ := List.mem_map.1 hr
    have := List.mem_range.1 hk
    omega
  have hq1 : ∀ r ∈ [d.toNat, b.toNat] ++ (List.range 2).map (a.toNat + ·), r < g.q := fun r hr => by
    rcases List.mem_append.1 hr with hr | hr
    · rcases List.mem_pair.1 hr with rfl | rfl
      · exact hd
      · exact hb
    · exact hpair r hr
  have hq2 : ∀ r ∈ d.toNat :: (List.range 2).map (a.toNat + ·), r < g.q := fun r hr => by
    rcases List.mem_cons.1 hr with rfl | hr
    · exact hd
    · exact hpair r hr
  refine ⟨fun hs i hi => ?_, fun hs hf i hi => ?_, fun hs hf => ?_⟩
  · rcases List.mem_pair.1 hi with rfl | rfl
    · exact hbegin.trans (congrArg Outcome.next (tvChecks_noSlots _ hq1 hs))
    · exact hresume.trans (congrArg Outcome.next (tvChecks_noSlots _ hq2 hs))
  · rcases List.mem_pair.1 hi with rfl | rfl
    · exact hbegin.trans (congrArg Outcome.next (tvChecks_noFeature _ hq1 hs hf))
    · exact hresume.trans (congrArg Outcome.next (tvChecks_noFeature _ hq2 hs hf))
  rw [tvChecks_pass _ hq1 hs hf] at hbegin
  rw [tvChecks_pass _ hq2 hs hf] at hresume
  refine ⟨fun hbad => hbegin.trans (congrArg Outcome.next (if_pos ((blockAddrBad_iff taddr).2 hbad))), ?_, ?_⟩
  · intro h1 h2 hbl hfull u h table hread hu hh
    have hgood : ¬ blockAddrBad (uPair s.picks g c) = true :=
      fun h => ((blockAddrBad_iff taddr).1 h).elim (fun h => h h1) fun h => absurd h2 (Nat.not_lt.2 h)
    have hbegin := hbegin.trans (congrArg Outcome.next ((if_neg hgood).trans ((if_neg (by simp [hbl, hfull])).trans
      (hread _))))
    refine ⟨fun ht => hbegin.trans (congrArg Outcome.next (beginWith_bad hh m d a b lay _ ht)), ?_⟩
    intro ht hroom v ps hgo hv hfull'
    refine ⟨(effLanes u h m).map (beginLane v s.cur h a b lay table taddr.toNat ps), List.length_map _, ?_, ?_⟩
    · intro j l hl root
      refine ⟨_, by rw [List.getElem?_map, hl]; rfl, ?_⟩
      exact beginLane_spec s v h a b lay table taddr.toNat ps l
    · exact hbegin.trans (congrArg Outcome.next (beginWith_starts hh m d a b lay taddr.toNat ht hu hroom hgo hv hfull'))
  · intro hbl hfull hroom ls u ps ls1 v qs ls2 w rs hgo1 u1 hhead hu1 hgo2 v' hbody hv' found h go hcur hgo3 hw
    have hroom' : ¬ (g.ln.blocked s || g.ln.full || !travRoom s s.cur g (effLanes s g m).length) = true := by
      rw [hbl, hfull, hroom]
      exact Bool.false_ne_true
    have hgo2' : ∀ k, translated u1 s.cur g .read ((ls1.filter (·.ok)).flatMap fun l =>
        pageKeys (4 * l.lane) (fld l.hdr 8 0 57) 64 ++
          pageKeys (4 * l.lane + 1) (l.va + 64) (16 * (bits l.hdr 0 32).toNat)) k = k v qs := hu1 ▸ hgo2
    refine ⟨go.map (resumeLane s.cur h (h.ln.covered w) rs), List.length_map _, fun j l hl =>
      ⟨_, by rw [List.getElem?_map, hl]; rfl, resumeLane_spec s h _ rs l⟩, ?_⟩
    exact hresume.trans (congrArg Outcome.next ((if_neg hroom').trans ((hgo1 _).trans
      ((resumeRead_starts m d _ hhead hgo2' hbody).trans
        (resumeGo_starts m d _ ls2 (v := v'.setGrp s.cur h) hcur hw hfull hgo3)))))

end Machine

namespace Machine

open Host Safety

/-! ## Visits, bounds, payloads and cuts (R306 to R309, R311) -/

theorem travOf_isSome_iff {s : State} {g : Group} {w : W32} :
    (travOf s g w).isSome = true ↔ ∃ t, Store.find s.travs w.toNat = some t ∧ t.lid = g.lid := by
  unfold travOf
  rcases Store.find s.travs w.toNat with _ | t
  · simp
  · by_cases h : t.lid = g.lid <;> simp [h]

/-- The bound of a traversal counts up once for each lane that names it (R307). -/
def boundUp (g : Group) (named : Nat → W32) (s : State) (l : Nat) : State :=
  if (travOf s g (named l)).isSome then
    { s with travs := Store.adjust s.travs (named l).toNat fun t => { t with tg := t.tg + 1 } }
  else s

theorem boundUp_frame (g : Group) (named : Nat → W32) (ls : List Nat) (s : State) :
    ls.foldl (boundUp g named) s = { s with travs := (ls.foldl (boundUp g named) s).travs } := by
  induction ls generalizing s with
  | nil => rfl
  | cons l ls ih =>
    have h : boundUp g named s l = { s with travs := (boundUp g named s l).travs } := by
      unfold boundUp
      split <;> rfl
    rw [List.foldl_cons, ih, h]

/-- The lanes' words name the same traversals throughout (R307). -/
theorem foldl_bound (s : State) (gid : Nat) (g : Group) (n : Nat) (ls : List Nat) (ts : List (Nat × Trav)) :
    ls.foldl (fun s l => boundUp g (fun l => vRead s gid g n l) s l) ({ s with travs := ts } : State) =
      ls.foldl (boundUp g fun l => vRead s gid g n l) { s with travs := ts } := by
  induction ls generalizing ts with
  | nil => rfl
  | cons l ls ih =>
    have h : boundUp g (fun l => vRead s gid g n l) { s with travs := ts } l =
        { s with travs := (boundUp g (fun l => vRead s gid g n l) { s with travs := ts } l).travs } := by
      unfold boundUp
      split <;> rfl
    rw [List.foldl_cons, List.foldl_cons, h, ← ih]
    exact congrArg (List.foldl _ · ls) h

theorem find_boundUp (g : Group) (named : Nat → W32) (s : State) (l id : Nat) :
    Store.find (boundUp g named s l).travs id = (Store.find s.travs id).map fun t =>
      if t.lid = g.lid then { t with tg := t.tg + BitVec.ofNat 8 (if (named l).toNat == id then 1 else 0) } else t := by
  have hzero : ∀ t : Trav, { t with tg := t.tg + BitVec.ofNat 8 0 } = t := fun t => by
    rw [show t.tg + BitVec.ofNat 8 0 = t.tg from BitVec.add_zero _]
  unfold boundUp
  by_cases hid : (named l).toNat = id
  · subst hid
    split
    · next h =>
      obtain ⟨t, ht, hl⟩ := travOf_isSome_iff.1 h
      rw [Store.find_adjust_self, ht]
      simp [hl]
    · next h =>
      rcases ht : Store.find s.travs (named l).toNat with _ | t
      · rfl
      · have hl : t.lid ≠ g.lid := fun hl => h (travOf_isSome_iff.2 ⟨t, ht, hl⟩)
        simp [hl]
  · have hsame : Store.find (if (travOf s g (named l)).isSome then
        { s with travs := Store.adjust s.travs (named l).toNat fun t => { t with tg := t.tg + 1 } }
        else s).travs id = Store.find s.travs id := by
      split
      · exact Store.find_adjust_ne _ _ _ (Ne.symm hid)
      · rfl
    rw [hsame, if_neg (by simpa using hid)]
    rcases Store.find s.travs id with _ | t
    · rfl
    · simp [hzero]

theorem find_boundUps (g : Group) (named : Nat → W32) (ls : List Nat) (s : State) (id : Nat) :
    Store.find (ls.foldl (boundUp g named) s).travs id = (Store.find s.travs id).map fun t =>
      if t.lid = g.lid then { t with tg := t.tg + BitVec.ofNat 8 (ls.filter fun l => (named l).toNat == id).length } else t := by
  induction ls generalizing s with
  | nil =>
    rw [List.foldl_nil]
    rcases Store.find s.travs id with _ | t
    · rfl
    · simp
  | cons l ls ih =>
    rw [List.foldl_cons, ih, find_boundUp]
    rcases Store.find s.travs id with _ | t
    · rfl
    · by_cases hl : t.lid = g.lid
      · by_cases hid : (named l).toNat = id
        · simp [hl, hid, BitVec.add_assoc, BitVec.ofNat_add, Nat.add_comm]
        · simp [hl, hid]
      · simp [hl]

theorem visitOf_isNone_iff (g : Group) (l : Nat) : (visitOf g l).isNone = true ↔ ∀ v ∈ g.visits, v.lane ≠ l := by
  unfold visitOf
  rw [Option.isNone_iff_eq_none, List.find?_eq_none]
  simp

/-- A word whose lanes' values are found behind other checks than the quota's. -/
theorem inQuota_laneV (s : State) (gid : Nat) (g : Group) (m : Mods) (regs : List Nat) (ty : Ty) (d : BitVec 8) (sh :
    Shadow)
    (f : Nat → Nat) : inQuota s gid g regs (laneV s gid g m [] ty d sh f) = laneV s gid g m regs ty d sh f := rfl

theorem tvFeat_pass {s : State} {g : Group} (regs : List Nat) (k : State) (hf : hasFeat s s.cur 1 = true) :
    tvFeat s s.cur g regs k = inQuota s s.cur g regs k := by
  unfold tvFeat
  rw [if_neg (by simp [hf])]

theorem tvFeat_noFeature {s : State} {g : Group} {regs : List Nat} (k : State) (hq : ∀ r ∈ regs, r < g.q)
    (hf : hasFeat s s.cur 1 = false) : tvFeat s s.cur g regs k = raiseL s s.cur g .feature 1 := by
  unfold tvFeat
  rw [inQuota_within hq, if_pos (by simp [hf])]

theorem killLanes_exited (g : Group) (eff : Mask) :
    (killLanes g eff).ctx.exited = (g.ctx.exited || (g.live &&& ~~~eff == 0 && eff != 0)) := by
  unfold killLanes
  dsimp only
  split
  · next h => rw [h, Bool.or_true]
  · next h => rw [Bool.eq_false_of_not_eq_true h, Bool.or_false]

theorem killLanes_exm (g : Group) (eff : Mask) : (killLanes g eff).ctx.exm = g.ctx.exm &&& ~~~eff := by
  unfold killLanes
  dsimp only
  split <;> rfl

theorem killLanes_lpc (g : Group) (eff : Mask) : (killLanes g eff).ctx.lpc = g.ctx.lpc := by
  unfold killLanes
  dsimp only
  split <;> rfl

theorem traversalWords : Claims.TraversalWords := by
  unfold Claims.TraversalWords
  intro s g m d a b c hg eff lanes pc named base
  have hbound : exec (.tvbound m a) s = .next (tvFeat s s.cur g [a.toNat]
      (({ s with travs := (lanes.foldl (boundUp g fun l => vRead s s.cur g a.toNat l) s).travs } : State).setGrp s.cur
        (g.nextL m.sw))) := by
    change execTvbound m a s = _
    rw [execTvbound, withCur_next hg, ← boundUp_frame]
    refine congrArg (fun t : State => Outcome.next (tvFeat s s.cur g [a.toNat] (t.setGrp s.cur (g.nextL m.sw)))) ?_
    exact foldl_bound s s.cur g a.toNat lanes s.travs
  have hret : exec (.tvret m a b) s = .next (tvFeat s s.cur g [a.toNat, b.toNat]
      (if lanes.any fun l => (visitOf g l).isNone then raiseL s s.cur g .operand (opInfo 0)
       else (lanes.foldl (returnLane s.cur g a b (g.ln.covered s)) (released s s.cur)).updGrp s.cur fun g =>
         (killLanes { g with visits := g.visits.filter fun v => !eff.getLsbD v.lane } eff).nextL m.sw)) := by
    change execTvret m a b s = _
    rw [execTvret, withCur_next hg]
    rfl
  have hcut : exec (.tvcut m a b c) s = .next (tvFeat s s.cur g [a.toNat, b.toNat]
      (if blockAddrBad base then raiseL s s.cur g .operand (opInfo cBit)
       else if g.ln.blocked s then s
       else translated s s.cur g .write ((lanes.mapIdx fun j l => (j, l, base.toNat + 4096 * j)).flatMap fun r =>
           (2 * r.1, r.2.2) ::
             (if 65536 < r.2.2 % 65536 + 4096 then [(2 * r.1 + 1, r.2.2 - r.2.2 % 65536 + 65536)] else []))
         fun u ps =>
           ((lanes.mapIdx fun j l => (j, l, base.toNat + 4096 * j)).foldl
             (fun w r => takeCut g w (cutOf w s.cur g a b ps r.2.1 r.1 r.2.2)) u).setGrp s.cur (g.nextL m.sw))) := by
    change execTvcut m a b c s = _
    rw [execTvcut, withCur_next hg]
    rfl
  have hstat : exec (.tvstat m d a) s = .next (tvFeat s s.cur g [d.toNat, a.toNat]
      (laneV s s.cur g m [] .i32 d .top fun l =>
        match travOf s g (vRead s s.cur g a.toNat l) with
        | some t => t.payload.toNat
        | none => 0xFFFFFFFF)) := by
    change execTvstat m d a s = _
    rw [execTvstat, withCur_next hg] <;> rfl
  have hpair : a.toNat < g.q → b.toNat < g.q → ∀ r ∈ [a.toNat, b.toNat], r < g.q := fun ha hb r hr => by
    rcases List.mem_pair.1 hr with rfl | rfl
    · exact ha
    · exact hb
  have hone : a.toNat < g.q → ∀ r ∈ [a.toNat], r < g.q := fun ha r hr => List.mem_singleton.1 hr ▸ ha
  refine ⟨fun hf => ⟨fun ha => hbound.trans (congrArg Outcome.next (tvFeat_noFeature _ (hone ha) hf)), fun ha hb =>
    ⟨hret.trans (congrArg Outcome.next (tvFeat_noFeature _ (hpair ha hb) hf)),
      hcut.trans (congrArg Outcome.next (tvFeat_noFeature _ (hpair ha hb) hf))⟩⟩, fun hf => ?_⟩
  rw [tvFeat_pass _ _ hf] at hbound hret hcut hstat
  refine ⟨?_, quotaTrap_of hbound, ?_, quotaTrap_of hret, quotaTrap_of hcut, fun ha hb => ?_⟩
  · refine laneWord_of (hstat.trans (congrArg Outcome.next (inQuota_laneV ..))) fun l => ?_
    congr 1
    rcases hfind : Store.find s.travs (vRead s s.cur g a.toNat l).toNat with _ | t
    · simp only [named, travOf, hfind, Option.filter_none]
    · by_cases hl : t.lid = g.lid
      · simp only [named, travOf, hfind, hl, Option.filter_some, beq_self_eq_true, if_true]
      · simp only [named, travOf, hfind, beq_eq_false_iff_ne.2 hl, if_neg hl, Option.filter_some, Bool.false_eq_true,
          if_false]
  · exact fun ha => ⟨_, hbound.trans (congrArg Outcome.next (inQuota_within (hone ha))),
      fun id => find_boundUps g _ lanes s id⟩
  rw [inQuota_within (hpair ha hb)] at hret hcut
  refine ⟨?_, ?_, fun hbad => hcut.trans (congrArg Outcome.next (if_pos ((blockAddrBad_iff base).2 hbad))), ?_, ?_⟩
  · rintro ⟨l, hl, hno⟩
    exact hret.trans (congrArg Outcome.next (if_pos (List.any_eq_true.2 ⟨l, hl, (visitOf_isNone_iff g l).2 hno⟩)))
  · intro hall u h hh
    have hnone : ¬ (lanes.any fun l => (visitOf g l).isNone) = true := fun hany => by
      obtain ⟨l, hl, hno⟩ := List.any_eq_true.1 hany
      obtain ⟨v, hv, hvl⟩ := hall l hl
      exact (visitOf_isNone_iff g l).1 hno v hv hvl
    refine ⟨_, hret.trans (congrArg Outcome.next (if_neg hnone)), rfl, fun k hk => Store.find_adjust_ne _ _ _ hk, ?_⟩
    refine ⟨(killLanes { h with visits := h.visits.filter fun v => !eff.getLsbD v.lane } eff).nextL m.sw, ?_, rfl,
      killLanes_exm _ _, congrArg (· + 12) (killLanes_lpc _ _), rfl, killLanes_exited _ _⟩
    exact (Store.find_adjust_self _ _ _).trans (congrArg _ hh)
  · intro h1 h2 hbl recs u ps hgo v
    have hgood : ¬ blockAddrBad base = true :=
      fun h => ((blockAddrBad_iff base).1 h).elim (fun h => h h1) fun h => absurd h2 (Nat.not_lt.2 h)
    exact hcut.trans (congrArg Outcome.next ((if_neg hgood).trans ((if_neg (by simp [hbl])).trans (hgo _))))
  · intro u x t ht
    exact if_pos (by rw [ht]; rfl)

/-- Settles O51: the ids that start are free and distinct, and each word does what its lanes' operands name. -/
theorem traversalInstructions : Obligations.TraversalInstructions := ⟨traversalIds, traversalsStart, traversalWords⟩

end Machine

end Sys2Proof
end

section
/-!
PROOFS. LaneMemory: lane stores, compressed words and atomics whose translation drops a pick (R21, R34, R157 to R162, R238).
-/
namespace Sys2Proof

namespace Machine

open Host Safety

/-! ## A lane's register whose word another writer's store is in flight (R21, R34)

The picks name the values that a word of storage has held by a key that grows with the word's number, and a pick about
    the
reading of a line by 2^50 plus the line: in a register file large enough the two meet.  A lane access's translation
    reads a table
line and drops the pick about it, so what the access takes of its register is not what the picks said before. -/

/-- A group of one lane in the row whose first word has the key of line 0's pick. -/
def flying : Group :=
  { (default : Group) with
    width := 1, q := 1, row0 := 5 * 2 ^ 40, live := 1, a := vset (default : Group).a 0 oneElement,
    ctx := { (default : Group).ctx with exm := 1 } }

/-- Its machine: an engine's write to V0 is in flight, what V0 held was 1, and a pick about line 0 stands, where a
    table is. -/
def flyingOn : State :=
  { State.reset with
    groups := [(0, flying)], aspaces := [(0, 0)], picks := [(2 ^ 50, 1)], olds := [⟨0, 5 * 2 ^ 46, 1, 1⟩],
    mem := [(0, 1), (1, 0x10), (0x1000, 1), (0x1001, 0x20), (0x2000, 7)] }

theorem flying_issues : Issues flyingOn flying := rfl

/-- What the request with an id asks for, once a word has issued. -/
def sentKind (id : Nat) (r : Outcome State Fault Refusal) : Option ReqKind :=
  match r with
  | .next t => (Store.find t.reqs id).map (·.kind)
  | _ => none

/-- No guard, no flags, no switch. -/
def bare : Mods := ⟨false, 0, false, false⟩

/-- What the model computes of the machine: its lane, the access and its translation, and what the register held
    before it. -/
theorem flying_evaluates : effLanes flyingOn flying bare = [0] ∧
    accesses flyingOn flying bare (laneAddress flyingOn flying 0 .lid 0) = [(0, 0)] ∧
    Translates flyingOn flying .write [(0, 0)] [(0, 0, storingPage)] ∧ (lookedUp flyingOn flying [(0, 0)]).nextId = 1 ∧
    obFlags flyingOn flying bare (laneAddress flyingOn flying 0 .lid 0) = [] ∧
    vVal flyingOn flyingOn.cur flying .i32 0 0 = 1 := by
  unfold Translates
  decide +kernel

theorem flying_ready (regs : List Nat) (hregs : ∀ r ∈ regs, r < 1) : LaneReady flyingOn flying bare regs 0 .lid 0 := by
  have heval : LaneReady flyingOn flying bare [] 0 .lid 0 := by
    unfold LaneReady
    decide +kernel
  obtain ⟨-, hrest⟩ := heval
  exact ⟨fun r hr => hregs r (by simpa [cRegs] using hr), hrest⟩

/-- A store, an atomic and a compressed store that take the register after the translation. -/
theorem flying_sends :
    sentKind 1 (exec (.st bare .i32 none 0 .lid 0 0) flyingOn) = some (.store 0 [0, 0, 0, 0]) ∧
    sentKind 2 (exec (.atomAdd bare .i32 .relaxed 0 0 .lid 0 0) flyingOn) =
      some (.atomic .add Ty.i32.signed 0 4 0 0 1 0) ∧
    sentKind 1 (exec (.cst bare .i32 0 (.s 0) 0 0) flyingOn) = some (.store 0 [0, 0, 0, 0]) := by decide +kernel

theorem sentKind_sendReqs {s : State} {id : Nat} (h : s.nextId = id) (gid : Nat) (lane : Bool) (r : Req) :
    sentKind id (.next (sendReqs s gid lane [r])) = some r.kind := by
  subst h
  exact congrArg (Option.map (·.kind)) (find_sendReqs s gid lane r)

/-- Refutes O8: the translation drops the pick that shows what the lane's register held, and the bytes that the store
    sends are
not those of the register as it was read before. -/
theorem not_laneStores : ¬ Obligations.LaneStores := by
  intro h
  obtain ⟨-, haccesses, htranslates, hnext, hflags, hbefore⟩ := flying_evaluates
  obtain ⟨hst, -⟩ := flying_sends
  have hclaim := h flyingOn flying bare .i32 none 0 .lid 0 0 flying_issues (flying_ready _ (by decide))
  dsimp only at hclaim
  rw [haccesses, hflags] at hclaim
  obtain ⟨s1, hs1, hexec, -⟩ := hclaim [(0, 0, storingPage)] htranslates
  have hid : s1.nextId = 1 := by rw [hs1]; exact hnext
  rw [List.map_cons, List.map_nil, hbefore] at hexec
  have hkind := congrArg (sentKind 1) hexec
  rw [hst, if_pos rfl, if_neg (by decide), sentKind_sendReqs (s := laneOn _ _ _ _) hid] at hkind
  exact absurd hkind (by decide)

/-- Refutes O11: the operand that the atomic sends is not that of its register as it was read before the translation. -/
theorem not_atomicWords : ¬ Obligations.AtomicWords := by
  intro h
  obtain ⟨hlanes, haccesses, htranslates, -⟩ := flying_evaluates
  obtain ⟨-, hatomic, -⟩ := flying_sends
  have hclaim := (h flyingOn flying bare .i32 .relaxed 0 0 .lid 0 0 flying_issues rfl).1
    (flying_ready _ (by decide))
  dsimp only at hclaim
  rw [haccesses] at hclaim
  obtain ⟨t, -, -, hexec, -, -, -, -, -, hreqs⟩ := hclaim.2 [(0, 0, storingPage)] (by rw [hlanes]; decide)
    htranslates
  have hkind := congrArg (sentKind 2) hexec
  rw [hatomic] at hkind
  change _ = (Store.find t.reqs 2).map (·.kind) at hkind
  rw [hreqs] at hkind
  exact absurd hkind (by decide +kernel)

/-- Refutes O10: the bytes that a compressed store sends are not those of its register as it was read before the
translation. -/
theorem not_compressedWords : ¬ Obligations.CompressedWords := by
  intro h
  obtain ⟨-, -, -, hnext, -, hbefore⟩ := flying_evaluates
  obtain ⟨-, -, hsent⟩ := flying_sends
  obtain ⟨-, -, hclaim⟩ := h flyingOn flying bare .i32 0 0 0 (.s 0) 0 flying_issues rfl (by decide)
  have hcst := (hclaim (by decide) (by decide +kernel) (by decide) (by decide +kernel) (by decide +kernel)).1
  obtain ⟨s1, g, hs1, -, hexec, -⟩ := hcst [(0, 0, storingPage)] (by decide) (by unfold Translates; decide +kernel)
  have hid : s1.nextId = 1 := by
    rw [hs1]
    exact hnext
  have hkind := congrArg (sentKind 1) hexec
  rw [hsent] at hkind
  change some _ = sentKind 1 (.next (sendReqs (if _ = [] then s1 else _) flyingOn.cur true [mkReq _ _ _ _
    (.store _ (leBytes _ (vVal flyingOn flyingOn.cur flying .i32 0 0))) _ _])) at hkind
  rw [if_pos (by decide +kernel), sentKind_sendReqs hid, hbefore] at hkind
  exact absurd hkind (by decide)

end Machine

end Sys2Proof
end

section
/-!
PROOFS. AttentionCommands: attention commands: their start, key blocks and end (R287 to R294).
-/
namespace Sys2Proof

namespace Machine

open Host Safety

/-! ## Attention commands: whose turn it is, and their start (R290 to R294, R358) -/

theorem withAttn_may {s : State} {id : Nat} {started : Bool} {c : Attn} {l : Launch} {t : Team}
    (h : AttnMay s id started c l t) (k : Attn → Launch → Team → State) : withAttn s id started k = k c l t := by
  obtain ⟨hc, hrun, hst, hf, hturn, hcov, ht, hl⟩ := h
  have hr : (c.state == .running || (!started && c.state == .pending)) = true := by
    rcases hrun with h | ⟨h1, h2⟩
    · rw [h]; rfl
    · rw [h1, h2]; rfl
  unfold withAttn
  rw [hc]
  dsimp only
  rw [hr, hst, hf, hturn, hcov, ht, hl, bne_self_eq_false]
  rfl

theorem pickMask_keepRange (s : State) (die asp va n : Nat) {key : Nat} (h : key < 2 ^ 50) :
    pickMask (keepRange s die asp va n).picks key = pickMask s.picks key := by
  have hfold : ∀ (ps : List (Nat × Nat)) (u : State), pickMask (ps.foldl (fun s p =>
      match translate s die asp (p.1 % 2 ^ 57) .read with
      | .ok pa _ => if (paKind s pa).line then resolve s (pa / 128) else s
      | _ => s) u).picks key = pickMask u.picks key := by
    intro ps
    induction ps with
    | nil => exact fun _ => rfl
    | cons p ps ih =>
      intro u
      refine (ih _).trans ?_
      dsimp only
      split
      · split
        · exact pickMask_resolve u _ h
        · rfl
      · rfl
  exact (hfold _ _).trans (pickMask_keepTrs die asp _ s h)

theorem cacheMap_frame (s : State) (die pa : Nat) (m : BitVec 256) :
    cacheMap s die pa m = { s with mapCache := (cacheMap s die pa m).mapCache } := by
  unfold cacheMap
  dsimp only
  split
  · split <;> rfl
  · rfl

/-- Q is read early as the picks said before the step. -/
theorem earlyQ_eq {s u : State} (hp : pickMask u.picks pkQ = pickMask s.picks pkQ) (id : Nat) (d : KDesc) (t : Team)
    (c : Attn) : c.earlyQ u id d t =
      if (pickMask s.picks pkQ).getLsbD 0 = true ∧ c.qs = none then
        { c with qs := some ((List.range (mRows d.width)).map fun r => canonBytes u id d t (c.q + 128 * r) 0 128) }
      else c := by
  unfold Attn.earlyQ Attn.readQ
  rw [hp]
  by_cases hb : (pickMask s.picks pkQ).getLsbD 0 = true
  · rw [if_pos hb]
    rcases hq : c.qs with _ | qs
    · rw [if_neg (by simp), if_pos ⟨hb, rfl⟩]
      rfl
    · rw [if_pos (by simp), if_neg (by simp)]
  · rw [if_neg hb, if_neg fun h => hb h.1]

/-- A command whose status is set starts without a record (R291). -/
theorem attnMap_status {s : State} {id : Nat} {c : Attn} (asp : Nat) (k : State → Attn → State)
    (h : c.status = 1 ∨ c.status = 6) : attnMap s id c asp k = k s c := by
  unfold attnMap
  rcases h with h | h <;> simp [h]

theorem attnMap_placed {s : State} {id : Nat} {c : Attn} {asp pa : Nat} {repl : BitVec 8} (k : State → Attn → State)
    (hm : c.mapPa = none) (hn : c.nkeys ≠ 0) (hs : c.status = 0)
    (hp : engPlace (keepTr s (dieOf c.core) asp c.map_) (dieOf c.core) asp c.map_ = .ok pa repl) :
    attnMap s id c asp k = k (keepTr s (dieOf c.core) asp c.map_) { c with mapPa := some ⟨pa, repl⟩ } := by
  unfold attnMap
  rw [if_neg (by simp [hm, hn, hs]), attnPlace, hp]

/-- A record that is good, or makes the command end with status 4 (R287, R291). -/
def Attn.withRecord (c : Attn) (bad : Bool) (m : BitVec 256) : Attn :=
  if bad then { c with status := 4 } else { c with map := some m }

theorem readRecord_cached {s : State} {id : Nat} {c : Attn} {l : Launch} {pa : Nat} {m : BitVec 256}
    (k : State → Attn → State) (hr : c.reload = false)
    (hm : Store.find s.mapCache (mapKey (dieOf c.core) pa) = some m) :
    readRecord s id c l pa true k = k s (c.withRecord (recordBad (m.zeroExtend 512)) m) := by
  unfold readRecord
  dsimp only
  rw [hr, if_pos (by rfl), hm]
  rfl

theorem readRecord_read {s : State} {id : Nat} {c : Attn} {l : Launch} {pa : Nat} {bs : List Byte}
    (k : State → Attn → State)
    (hb : engLoad (keepRange s (dieOf c.core) l.asp c.map_ 64) (dieOf c.core) l.asp c.map_ 64 = .ok bs none) :
    readRecord s id c l pa false k =
      k (cacheMap (keepRange s (dieOf c.core) l.asp c.map_ 64) (dieOf c.core) pa (bits (ofBytes 512 bs : BitVec 512) 0
          256))
        (c.withRecord (recordBad (ofBytes 512 bs)) (bits (ofBytes 512 bs : BitVec 512) 0 256)) := by
  unfold readRecord
  dsimp only
  rw [if_neg (by simp)]
  dsimp only
  rw [hb]
  rfl

end Machine

namespace Machine

open Host Safety

/-- The status that a command's first checks give (R291): codes 1 and 6, in this order. -/
def firstStatus (c : Attn) (d : KDesc) : Nat :=
  if c.bad (mRows d.width) then 1 else if d.spq < c.q + 128 * mRows d.width then 6 else 0

/-- A command that has started, its tile taken. -/
def startedAttn (s : State) (id : Nat) (d : KDesc) (t : Team) (c : Attn) : State :=
  s.setAttn id (({ c with started := true, acc := some (loadAcc s id c t d.width) } : Attn).earlyQ s id d t)

/-- What a start does once its translations are made. -/
def startGo (id : Nat) (cached : Bool) (l : Launch) (t : Team) (s : State) (c : Attn) : State :=
  if c.status != 0 then s.setAttn id { c with started := true }
  else
    match c.mapPa with
    | some p => readRecord s id c l p.pa cached fun s c => startedAttn s id l.desc t c
    | none =>
      let s := startedAttn s id l.desc t c
      if c.init && c.next == 0 then writeTiles s id c t l.desc.width (loadAcc s id c t l.desc.width) else s

theorem attnStamp_made {s : State} {id : Nat} {c : Attn} (asp : Nat) (k : State → Attn → State) (h : c.stampOk = true) :
    attnStamp s id c asp k = k s c := if_pos h

theorem attnStart_eq {s : State} {id : Nat} {c : Attn} {l : Launch} {t : Team} (h : AttnMay s id false c l t)
    (hs : c.status = 0) (hok : c.stampOk = true) (cached : Bool) :
    attnStart s id cached = attnMap s id { c with state := .running, status := firstStatus c l.desc } l.asp
      (startGo id cached l t) := by
  have hcheck : (if c.status != 0 then ({ c with state := .running } : Attn)
      else if c.bad (mRows l.desc.width) then { c with state := .running, status := 1 }
      else if l.desc.spq < c.q + 128 * mRows l.desc.width then { c with state := .running, status := 6 }
      else { c with state := .running }) = { c with state := .running, status := firstStatus c l.desc } := by
    unfold firstStatus
    rw [if_neg (by simp [hs])]
    split
    · rfl
    · split
      · rfl
      · rw [← hs]
  unfold attnStart
  rw [withAttn_may h]
  exact (congrArg (fun c => attnStamp s id c l.asp fun s c => attnMap s id c l.asp (startGo id cached l t))
      hcheck).trans
    (attnStamp_made _ _ hok)

theorem attnStart_failed {s : State} {id : Nat} {c : Attn} {l : Launch} {t : Team} (h : AttnMay s id false c l t)
    (hs : c.status = 0) (hok : c.stampOk = true) (cached : Bool) {n : Nat} (hn : n = 1 ∨ n = 6)
    (hstat : firstStatus c l.desc = n) :
    attnStart s id cached = s.setAttn id { c with state := .running, status := n, started := true } := by
  rw [attnStart_eq h hs hok, hstat, attnMap_status _ _ hn]
  exact if_pos (by rcases hn with rfl | rfl <;> rfl)

theorem attnStart_placed {s : State} {id : Nat} {c : Attn} {l : Launch} {t : Team} (h : AttnMay s id false c l t)
    (hs : c.status = 0) (hok : c.stampOk = true) (cached : Bool) (hstat : firstStatus c l.desc = 0) (hn : c.nkeys ≠ 0)
    (hm : c.mapPa = none) {pa : Nat} {repl : BitVec 8}
    (hp : engPlace (keepTr s (dieOf c.core) l.asp c.map_) (dieOf c.core) l.asp c.map_ = .ok pa repl) :
    attnStart s id cached = readRecord (keepTr s (dieOf c.core) l.asp c.map_) id
      { c with state := .running, mapPa := some ⟨pa, repl⟩ } l pa cached fun s c => startedAttn s id l.desc t c := by
  have hc : ({ c with state := .running, status := firstStatus c l.desc } : Attn) = { c with state := .running } := by
    rw [hstat, ← hs]
  rw [attnStart_eq h hs hok, hc]
  exact (attnMap_placed (c := { c with state := .running }) _ hm hn hs hp).trans (if_neg (by simp [hs]))

/-- A started command reads Q early as the picks said before the step. -/
theorem startedAttn_eq {s u : State} (hp : pickMask u.picks pkQ = pickMask s.picks pkQ) (id : Nat) (d : KDesc) (t : Team)
    (c : Attn) :
    let c2 : Attn := { c with started := true, acc := some (loadAcc u id c t d.width) }
    startedAttn u id d t c = u.setAttn id (
      if (pickMask s.picks pkQ).getLsbD 0 = true ∧ c.qs = none then
        { c2 with qs := some ((List.range (mRows d.width)).map fun r => canonBytes u id d t (c.q + 128 * r) 0 128) }
      else c2) := by
  intro c2
  exact congrArg (u.setAttn id) (earlyQ_eq hp id d t c2)

theorem loadAcc_mapCache (s : State) (x : List (Nat × BitVec 256)) (id : Nat) (c : Attn) (t : Team) (w : Nat) :
    loadAcc { s with mapCache := x } id c t w = loadAcc s id c t w := rfl

theorem canonBytes_mapCache (s : State) (x : List (Nat × BitVec 256)) (me : Nat) (d : KDesc) (t : Team) (y b n : Nat) :
    canonBytes { s with mapCache := x } me d t y b n = canonBytes s me d t y b n := rfl

theorem attn_starts (s : State) (id : Nat) (c : Attn) (l : Launch) (t : Team) (h : AttnMay s id false c l t) :
    let w := l.desc.width
    let rows := if w = 16 then 8 else if w = 32 then 16 else 32
    let die := dieOf c.core
    let qRows := fun (u : State) => (List.range rows).map fun r => canonBytes u id l.desc t (c.q + 128 * r) 0 128
    let early := fun (u : State) (c : Attn) =>
      if (pickMask s.picks pkQ).getLsbD 0 = true ∧ c.qs = none then { c with qs := some (qRows u) } else c
    ∀ cached, c.status = 0 → c.stampOk = true →
      let c1 := { c with state := CmdState.running }
      (c.bad rows = true → exec (.attnCommandStart id cached) s = .next (s.setAttn id { c1 with status := 1, started := true })) ∧
      (c.bad rows = false → l.desc.spq < c.q + 128 * rows →
        exec (.attnCommandStart id cached) s = .next (s.setAttn id { c1 with status := 6, started := true })) ∧
      (c.bad rows = false → c.q + 128 * rows ≤ l.desc.spq → c.nkeys ≠ 0 → c.mapPa = none →
        ∀ pa repl, engPlace (keepTr s die l.asp c.map_) die l.asp c.map_ = .ok pa repl →
          let s1 := keepTr s die l.asp c.map_
          let s2 := keepRange s1 die l.asp c.map_ 64
          let c2 := { c1 with mapPa := some ⟨pa, repl⟩, started := true }
          (∀ m, cached = true → c.reload = false → Store.find s.mapCache (mapKey die pa) = some m →
            let c2 := { c2 with acc := some (loadAcc s1 id c t w) }
            exec (.attnCommandStart id cached) s = .next (s1.setAttn id
              (early s1 (if recordBad (m.zeroExtend 512) then { c2 with status := 4 } else { c2 with map := some m })))) ∧
          (∀ bs, cached = false → engLoad s2 die l.asp c.map_ 64 = .ok bs none →
            let c2 := { c2 with acc := some (loadAcc s2 id c t w) }
            let r : BitVec 512 := ofBytes 512 bs
            exec (.attnCommandStart id cached) s = .next ((cacheMap s2 die pa (r.extractLsb' 0 256)).setAttn id
              (early s2 (if recordBad r then { c2 with status := 4 } else { c2 with map := some (r.extractLsb' 0 256) }))))) := by
  intro w rows die qRows early cached hs hok c1
  have hexec : ∀ u, attnStart s id cached = u → exec (.attnCommandStart id cached) s = .next u := fun u hu =>
    congrArg Outcome.next hu
  refine ⟨fun hbad => hexec _ (attnStart_failed h hs hok cached (.inl rfl) (if_pos hbad)), fun hgood hq =>
    hexec _ (attnStart_failed h hs hok cached (.inr rfl) ((if_neg (Bool.eq_false_iff.1 hgood)).trans (if_pos hq))), ?_⟩
  intro hgood hq hn hm pa repl hp s1 s2 c2
  have hstat : firstStatus c l.desc = 0 := (if_neg (Bool.eq_false_iff.1 hgood)).trans (if_neg (Nat.not_lt.2 hq))
  have hstart := attnStart_placed h hs hok cached hstat hn hm hp
  have hpick1 : pickMask s1.picks pkQ = pickMask s.picks pkQ := pickMask_keepTr s _ _ _ (by decide)
  have hpick2 : pickMask s2.picks pkQ = pickMask s.picks pkQ := (pickMask_keepRange s1 _ _ _ _ (by decide)).trans hpick1
  refine ⟨fun m hc hr hmap => hexec _ ?_, fun bs hc hb => hexec _ ?_⟩
  · subst hc
    obtain ⟨tlb, hkeep⟩ := offMem_keepTr s die l.asp c.map_
    have hmap' : Store.find s1.mapCache (mapKey die pa) = some m :=
      (congrArg (fun u : State => Store.find u.mapCache (mapKey die pa)) hkeep).trans hmap
    refine hstart.trans ((readRecord_cached (c := { c with state := .running, mapPa := some ⟨pa, repl⟩ }) _ hr hmap').trans
      ((startedAttn_eq hpick1 id l.desc t _).trans ?_))
    refine congrArg (s1.setAttn id) ?_
    unfold Attn.withRecord
    split <;> rfl
  · subst hc
    obtain ⟨x, hx⟩ : ∃ x, cacheMap s2 die pa (bits (ofBytes 512 bs : BitVec 512) 0 256) = { s2 with mapCache := x } :=
      ⟨_, cacheMap_frame ..⟩
    have hgo : ∀ u : State, u = { s2 with mapCache := x } →
        startedAttn u id l.desc t (({ c with state := .running, mapPa := some ⟨pa, repl⟩ } : Attn).withRecord
          (recordBad (ofBytes 512 bs)) (bits (ofBytes 512 bs : BitVec 512) 0 256)) =
        u.setAttn id (early s2 (
          let c2 := { c2 with acc := some (loadAcc s2 id c t w) }
          if recordBad (ofBytes 512 bs) then { c2 with status := 4 }
          else { c2 with map := some (bits (ofBytes 512 bs : BitVec 512) 0 256) })) := by
      rintro u rfl
      refine (startedAttn_eq (u := { s2 with mapCache := x }) hpick2 id l.desc t _).trans (congrArg (State.setAttn _ id) ?_)
      simp only [loadAcc_mapCache, canonBytes_mapCache]
      unfold Attn.withRecord
      split <;> rfl
    exact hstart.trans ((readRecord_read (c := { c with state := .running, mapPa := some ⟨pa, repl⟩ }) _ hb).trans
      (hgo _ hx))

end Machine

/-- A removal leaves one entry less of those that f holds of. -/
theorem Store.length_filter_del {α : Type} {m : List (Nat × α)} (hs : Store.sorted m = true) {k : Nat} {v : α}
    (h : (k, v) ∈ m) (f : Nat × α → Bool) (hf : f (k, v) = true) :
    ((Store.del m k).filter f).length + 1 = (m.filter f).length := by
  induction m with
  | nil => cases h
  | cons e m ih =>
    obtain ⟨j, x⟩ := e
    obtain ⟨ha, hs'⟩ := (Store.sorted_cons j x m).1 hs
    rcases List.mem_cons.1 h with he | h
    · cases he
      rw [Store.del, if_neg (Nat.lt_irrefl _), if_pos rfl, List.filter_cons_of_pos hf, List.length_cons]
    · rw [Store.del, if_pos (ha _ h), List.filter_cons, List.filter_cons]
      split
      · rw [List.length_cons, List.length_cons, ih hs' h]
      · exact ih hs' h

/-- A put adds at most one entry to those under other keys. -/
theorem Store.length_filter_put {α : Type} {m : List (Nat × α)} (hs : Store.sorted m = true) (k : Nat) (v : α)
    (f : Nat × α → Bool) :
    ((Store.put m k v).filter f).length ≤ (m.filter fun e => f e && e.1 != k).length + 1 := by
  have hcons : ∀ (m : List (Nat × α)), (∀ e ∈ m, k < e.1) →
      (((k, v) :: m).filter f).length ≤ (m.filter fun e => f e && e.1 != k).length + 1 := by
    intro m ha
    have hm : (m.filter fun e => f e && e.1 != k) = m.filter f := List.filter_congr fun e he => by
      rw [bne_iff_ne.2 (Nat.ne_of_gt (ha e he)), Bool.and_true]
    rw [hm, List.filter_cons]
    split
    · exact Nat.le_refl _
    · exact Nat.le_succ _
  induction m with
  | nil => exact hcons [] (by simp)
  | cons e m ih =>
    obtain ⟨j, x⟩ := e
    obtain ⟨ha, hs'⟩ := (Store.sorted_cons j x m).1 hs
    rw [Store.put]
    split
    · next hj =>
      have hne : (f (j, x) && j != k) = f (j, x) := by rw [bne_iff_ne.2 (Nat.ne_of_lt hj), Bool.and_true]
      rw [List.filter_cons, List.filter_cons, hne]
      split
      · exact Nat.succ_le_succ (ih hs')
      · exact ih hs'
    · split
      · next hj =>
        subst hj
        have hm : ((j, x) :: m).filter (fun e => f e && e.1 != j) = m.filter fun e => f e && e.1 != j :=
          List.filter_cons_of_neg (by simp)
        rw [hm]
        exact hcons m fun e he => ha e he
      · next h1 h2 =>
        refine hcons _ fun e he => ?_
        have hj : k < j := by omega
        rcases List.mem_cons.1 he with rfl | he
        · exact hj
        · exact Nat.lt_trans hj (ha e he)

namespace Machine

open Host Safety

/-- The cache holds the record, and no more than it did or than it may (R294). -/
theorem cacheMap_holds {u : State} {pa : Nat} (die : Nat) (m : BitVec 256) (hs : Store.sorted u.mapCache = true)
    (hpa : pa < 2 ^ 52) :
    let held := fun (u : State) => (u.mapCache.filter fun e => e.1 / 2 ^ 52 == die).length
    Store.find (cacheMap u die pa m).mapCache (mapKey die pa) = some m ∧
      (held u ≤ 4096 → held (cacheMap u die pa m) ≤ 4096) := by
  intro held
  have hput : ∀ (c : List (Nat × BitVec 256)), Store.sorted c = true →
      ((Store.put c (mapKey die pa) m).filter fun e => e.1 / 2 ^ 52 == die).length ≤
        (c.filter fun e => e.1 / 2 ^ 52 == die && e.1 != mapKey die pa).length + 1 :=
    fun c hc => Store.length_filter_put hc _ _ _
  unfold cacheMap
  dsimp only
  split
  · next e es hmine =>
    split
    · next hfull =>
      refine ⟨Store.find_put_self _ _ _, fun hle => (hput _ (Store.sorted_del hs _)).trans ?_⟩
      obtain ⟨hmem, hf⟩ := List.mem_filter.1 (hmine ▸ List.mem_cons_self : e ∈ _)
      have hdel := Store.length_filter_del hs hmem (fun e => e.1 / 2 ^ 52 == die && e.1 != mapKey die pa) hf
      rw [hdel]
      refine Nat.le_trans (List.Sublist.length_le ?_) hle
      exact List.monotone_filter_right _ fun e he => (Bool.and_eq_true_iff.1 he).1
    · next hroom =>
      refine ⟨Store.find_put_self _ _ _, fun _ => (hput _ hs).trans ?_⟩
      omega
  · next hmine =>
    refine ⟨Store.find_put_self _ _ _, fun _ => (hput _ hs).trans ?_⟩
    rw [hmine]
    simp

/-! ## What the engine reads of a key block (R288) -/

section
variable {P : State → Attn → Prop} (hs : ∀ {s c} die asp va n, P s c → P (keepRange s die asp va n) c)
  (hc : ∀ {s c} g, P s c → P s { c with got := g })

theorem foldl_keeps {α β : Type} {f : State × Attn × β → α → State × Attn × β}
    (hf : ∀ r a, P r.1 r.2.1 → P (f r a).1 (f r a).2.1) (as : List α) {r : State × Attn × β} (h : P r.1 r.2.1) :
    P (as.foldl f r).1 (as.foldl f r).2.1 := by
  induction as generalizing r with
  | nil => exact h
  | cons a as ih => exact ih (hf r a h)

include hs hc

/-- A read of a block only meets what reading its range meets, and keeps what it read. -/
theorem take_keeps {s : State} {c : Attn} (h : P s c) (die asp what j va n : Nat) :
    P (c.take s die asp what j va n).1 (c.take s die asp what j va n).2.1 := by
  unfold Attn.take
  split
  · exact h
  · split
    · exact h
    · dsimp only
      split
      · exact hc _ (hs _ _ _ _ h)
      · exact hs _ _ _ _ h

theorem takeRow_keeps {s : State} {c : Attn} (h : P s c) (die asp j va : Nat) :
    P (c.takeRow s die asp j va).1 (c.takeRow s die asp j va).2.1 := by
  refine foldl_keeps (fun r i hr => ?_) _ h
  split
  · exact take_keeps hs hc hr ..
  · exact hr
  · exact take_keeps hs hc hr ..

theorem rowsSee_keeps {s : State} {c : Attn} (h : P s c) (die asp m j : Nat) :
    P (c.rowsSee s die asp m j).1 (c.rowsSee s die asp m j).2.1 := by
  refine foldl_keeps (fun e r he => ?_) _ h
  obtain ⟨s, c, f⟩ := e
  split
  · next h' =>
    obtain ⟨rfl, rfl, rfl⟩ := by simpa using h'
    split
    · exact he
    · split
      · exact he
      · have hread := take_keeps hs hc he die asp rdMask j (c.mask + r * c.mstride + j / 8) 1
        split <;> next hx => rw [hx] at hread; exact hread
  · exact he

theorem readSlot_keeps {s : State} {c : Attn} (h : P s c) (die asp : Nat) (rec : BitVec 256) (j slot : Nat) :
    P (c.readSlot s die asp rec j slot).1 (c.readSlot s die asp rec j slot).2.1 := by
  have h1 := take_keeps hs hc h die asp rdGen1 j (mapBase rec 2 + 4 * slot) 4
  unfold Attn.readSlot
  split
  · next hx => rw [hx] at h1; exact h1
  · next s1 c1 g1 hx =>
    rw [hx] at h1
    have h2 := takeRow_keeps hs hc h1 die asp j (mapBase rec 0 + 128 * slot)
    have h3 := takeRow_keeps hs hc h2 die asp j (mapBase rec 1 + 128 * slot)
    dsimp only at h1 h2 h3 ⊢
    generalize (c1.takeRow s1 die asp j (mapBase rec 0 + 128 * slot)).2.2 = o2
    generalize Attn.takeRow _ _ _ _ _ (mapBase rec 1 + 128 * slot) = y at h3 ⊢
    obtain ⟨s3, c3, o3⟩ := y
    rcases o3 with _ | ⟨vb, _ | _⟩ | _ | _ | _ <;> rcases o2 with _ | ⟨kb, _ | _⟩ | _ | _ | _
    any_goals exact h3
    have h4 := take_keeps hs hc h3 die asp rdGen2 j (mapBase rec 2 + 4 * slot) 4
    dsimp only at h4 ⊢
    split <;> next hy => rw [hy] at h4; exact h4
  · next hx => rw [hx] at h1; exact h1

theorem readKey_keeps {e : State × Attn × BRead} (h : P e.1 e.2.1) (die asp m : Nat) (rec : BitVec 256) (j : Nat) :
    P (readKey die asp m rec e j).1 (readKey die asp m rec e j).2.1 := by
  unfold readKey
  split
  · exact h
  · have h1 := rowsSee_keeps hs hc h die asp m j
    split
    · next hx => rw [hx] at h1; exact h1
    · next hx => rw [hx] at h1; exact h1
    · next s1 c1 vis hx =>
      rw [hx] at h1
      split
      · exact h1
      · have h2 := readSlot_keeps hs hc h1 die asp rec j (slotOf rec (c1.p0.toNat + j)).1
        dsimp only
        split
        · next hy => rw [hy] at h2; exact h2
        · next hy => rw [hy] at h2; exact h2
        · next hy =>
          rw [hy] at h2
          split <;> exact h2

end

end Machine

namespace Machine

open Host Safety

/-- A key that a row sees: its slot is read, and its rows are used unless it is stale (R288). -/
theorem readKey_got {s s1 s2 : State} {c0 c1 c2 : Attn} {die asp rows j : Nat} {rec : BitVec 256} {vis : List Bool}
    {g1 kb vb g2 : List Byte} (keys : List (Nat × List Bool × List Byte × List Byte)) (st lk : Nat) (later : Bool)
    (hvis : c0.rowsSee s die asp rows j = (s1, c1, .got vis)) (hany : (vis.any fun b => b) = true)
    (hslot : c1.readSlot s1 die asp rec j (slotOf rec (c1.p0.toNat + j)).1 = (s2, c2, .got (g1, kb, vb, g2))) :
    readKey die asp rows rec (s, c0, .ok keys st lk later) j = (s2, c2,
      if staleGen (slotOf rec (c1.p0.toNat + j)).2 (leNat g1) (leNat g2) then .ok keys (st + 1) (lk + 1) later
      else .ok (keys ++ [(j, vis, kb, vb)]) st (lk + 1) later) := by
  unfold readKey
  dsimp only
  rw [hvis]
  dsimp only
  rw [if_neg (by simpa using hany), hslot]
  dsimp only
  split <;> rfl

theorem rowsSee_attn {s s1 : State} {c c1 : Attn} {die asp m j : Nat} {x : Found (List Bool)}
    (h : c.rowsSee s die asp m j = (s1, c1, x)) : c1 = { c with got := c1.got } := by
  have hk := rowsSee_keeps (P := fun _ x => x = { c with got := x.got }) (fun _ _ _ _ h => h)
    (fun g h => by rw [h]) (s := s) (c := c) rfl die asp m j
  rw [h] at hk
  exact hk

theorem slotOf_eq (rec : BitVec 256) (p : Nat) :
    slotOf rec p =
      (if p < (rec.extractLsb' 192 32).toNat then p
        else (rec.extractLsb' 192 32).toNat + p % (rec.extractLsb' 224 32).toNat,
       if p < (rec.extractLsb' 192 32).toNat then 0 else p / (rec.extractLsb' 224 32).toNat) := by
  unfold slotOf mapSink mapWin bits
  dsimp only
  split <;> rfl

/-- The reads of a key block leave the picks but for those about lines, and all of the command but what it has read. -/
theorem readKeys_keep {s s1 : State} {c c1 : Attn} {die asp m : Nat} {rec : BitVec 256} {js : List Nat} {x y : BRead}
    (h : js.foldl (readKey die asp m rec) (s, c, x) = (s1, c1, y)) :
    pickMask s1.picks pkQ = pickMask s.picks pkQ ∧ c1 = { c with got := c1.got } := by
  have hk := foldl_keeps (P := fun u x => pickMask u.picks pkQ = pickMask s.picks pkQ ∧ x = { c with got := x.got })
    (f := readKey die asp m rec)
    (fun e j he => readKey_keeps (P := fun u x => pickMask u.picks pkQ = pickMask s.picks pkQ ∧ x = { c with got := x.got })
      (fun _ _ _ _ h => ⟨(pickMask_keepRange _ _ _ _ _ (by decide)).trans h.1, h.2⟩)
      (fun g h => ⟨h.1, by rw [h.2]⟩) he die asp m rec j) js (r := (s, c, x)) ⟨rfl, rfl⟩
  rw [h] at hk
  exact hk

/-- What a key block's step does with what it has read. -/
def keysRead (id : Nat) (d : KDesc) (t : Team) (v : Fenv) (js : List Nat) (a : AttnAcc) (s : State) (c : Attn) : BRead
    → State
  | .stop r => attnStop s id c r
  | .ok _ _ _ true => s.setAttn id (c.earlyQ s id d t)
  | .ok keys st lk false =>
    let c := c.readQ s id d t
    let a := attnBlock c v js ((c.qs.getD []).map (c.elts v)) keys a
    (writeTiles s id c t d.width a).setAttn id
      { c with next := c.next + 1, stale := c.stale + st, looks := c.looks + lk, acc := some a, got := [] }

theorem attnKeys_reads {s : State} {id : Nat} {c : Attn} {l : Launch} {t : Team} (h : AttnMay s id true c l t)
    {rec : BitVec 256} {a : AttnAcc} (hm : c.map = some rec) (ha : c.acc = some a) (hs : c.status = 0)
    (hn : 16 * c.next < c.nkeys) {s1 : State} {c' : Attn} {x : BRead}
    (hread : (c.blockKeys c.next).foldl (readKey (dieOf c.core) l.asp (mRows l.desc.width) rec) (s, c, .ok [] 0 0
        false) =
      (s1, c', x)) :
    attnKeys s id = keysRead id l.desc t (fenv c.mode .mode) (c.blockKeys c.next) a s1 c' x := by
  have hjs : ¬ (c.status != 0 || (c.blockKeys c.next).isEmpty) = true := by
    have hlen : (c.blockKeys c.next).length ≠ 0 := by
      unfold Attn.blockKeys tabulate
      rw [List.length_map, List.length_range]
      omega
    simp only [hs, bne_self_eq_false, Bool.false_or, List.isEmpty_iff]
    exact fun hnil => hlen (by rw [hnil]; rfl)
  have hgo : attnKeys s id = (fun y : State × Attn × BRead =>
      keysRead id l.desc t (fenv c.mode .mode) (c.blockKeys c.next) a y.1 y.2.1 y.2.2)
        ((c.blockKeys c.next).foldl (readKey (dieOf c.core) l.asp (mRows l.desc.width) rec) (s, c, .ok [] 0 0 false))
            := by
    unfold attnKeys
    rw [withAttn_may h, hm, ha]
    dsimp only
    rw [if_neg hjs]
    generalize (c.blockKeys c.next).foldl (readKey (dieOf c.core) l.asp (mRows l.desc.width) rec) (s, c, .ok [] 0 0
        false) = y
    obtain ⟨u, c1, ⟨keys, st, lk, _ | _⟩ | r⟩ := y <;> rfl
  rw [hgo, hread]

theorem readQ_eq (u : State) (id : Nat) (d : KDesc) (t : Team) (c : Attn) :
    c.readQ u id d t = { c with
      qs := some (c.qs.getD ((List.range (mRows d.width)).map fun r => canonBytes u id d t (c.q + 128 * r) 0 128)) } := by
  unfold Attn.readQ
  rcases hq : c.qs with _ | qs
  · rfl
  · rw [if_pos (by rfl), Option.getD_some, ← hq]

theorem attn_keyBlock (s : State) (id : Nat) (c : Attn) (l : Launch) (t : Team) :
    let w := l.desc.width
    let rows := if w = 16 then 8 else if w = 32 then 16 else 32
    let die := dieOf c.core
    let qRows := fun (u : State) => (List.range rows).map fun r => canonBytes u id l.desc t (c.q + 128 * r) 0 128
    let early := fun (u : State) (c : Attn) =>
      if (pickMask s.picks pkQ).getLsbD 0 = true ∧ c.qs = none then { c with qs := some (qRows u) } else c
    AttnMay s id true c l t → ∀ rec a, c.map = some rec → c.acc = some a → c.status = 0 → 16 * c.next < c.nkeys →
      let js := (List.range (min 16 (c.nkeys - 16 * c.next))).map (16 * c.next + ·)
      ∀ s1 c' keys st lk,
        (js.foldl (readKey die l.asp rows rec) (s, c, .ok [] 0 0 false) = (s1, c', .ok keys st lk true) →
          exec (.attnKeyBlock id) s = .next (s1.setAttn id (early s1 c'))) ∧
        (js.foldl (readKey die l.asp rows rec) (s, c, .ok [] 0 0 false) = (s1, c', .ok keys st lk false) →
          let v := fenv c.mode .mode
          let qs := c'.qs.getD (qRows s1)
          let b := attnBlock c v js (qs.map (c.elts v)) keys a
          exec (.attnKeyBlock id) s = .next ((writeTiles s1 id c t w b).setAttn id
            { c' with qs := some qs, got := [], next := c.next + 1, stale := c.stale + st, looks := c.looks + lk, acc := some b })) := by
  intro w rows die qRows early h rec a hm ha hs hn js s1 c' keys st lk
  refine ⟨fun hread => congrArg Outcome.next ?_, fun hread => congrArg Outcome.next ?_⟩
  · obtain ⟨hp, hc'⟩ := readKeys_keep hread
    refine (attnKeys_reads h hm ha hs hn hread).trans (congrArg (s1.setAttn id) ((earlyQ_eq hp id l.desc t c').trans
        ?_))
    rw [show c'.q = c.q by rw [hc']; rfl]
    rfl
  · obtain ⟨-, hc'⟩ := readKeys_keep hread
    refine (attnKeys_reads h hm ha hs hn hread).trans ?_
    unfold keysRead
    rw [readQ_eq, hc']
    rfl

/-! ## Completion (R291, R292) -/

theorem attnEnd_finishes {s : State} {id : Nat} {c : Attn} {l : Launch} {t : Team} (h : AttnMay s id true c l t)
    (hdone : c.status ≠ 0 ∨ c.nkeys ≤ 16 * c.next) (hs : c.status = 0) (hf : c.fin = true) (hn : c.fined = false) :
    attnEnd s id = (match c.acc with
      | none => s
      | some a =>
        let f := finish c (fenv c.mode .mode) a
        addStats (writeOut s id c t l.desc.width f.1) c.lid c.tensor f.2).setAttn id { c with fined := true } := by
  unfold attnEnd
  rw [withAttn_may h, if_neg (by omega), if_pos (by simp [hs, hf, hn])]
  unfold attnFinish
  rcases c.acc <;> rfl

/-- The lines that the end of a command writes. -/
def endPlaces (c : Attn) : List Place := (c.mapPa.toList.map fun p => ⟨p.pa + 0x20, p.repl⟩) ++ c.stamp.toList

/-- The end of a command whose lines can be written. -/
def attnClose (s : State) (id : Nat) (c : Attn) : State :=
  let s := attnStats (dropWriter s (.cmd id)) c
  let s := (c.mapPa.toList.map fun p => (⟨p.pa + 0x20, p.repl⟩ : Place)).foldl
    (fun s p => engPut s p (addedCounts s ⟨p.pa - 0x20, p.repl⟩ c)) s
  let word := min c.stale 0xFFFFFF * 2 ^ 40 + c.status * 2 ^ 32 + c.seqw
  closeAttn (c.stamp.toList.foldl (fun s p => engPut s p (leBytes 8 word)) s) id c

theorem attnEnd_ends {s : State} {id : Nat} {c : Attn} {l : Launch} {t : Team} (h : AttnMay s id true c l t)
    (hdone : c.status ≠ 0 ∨ c.nkeys ≤ 16 * c.next) (hf : c.status ≠ 0 ∨ c.fin = false ∨ c.fined = true)
    (ht : t.state ≠ .out) {u : State} {ok : Bool} (hall : engAll (.cmd id) s (endPlaces c) = (u, ok)) :
    attnEnd s id = if ok then attnClose u id c else u := by
  have hnot : ¬ (decide (c.status = 0) && c.fin && !c.fined) = true := by
    simp only [Bool.and_eq_true, decide_eq_true_eq, Bool.not_eq_true', not_and, Bool.not_eq_false]
    intro h0
    rcases hf with h | h | h
    · exact absurd h0.1 h
    · exact absurd h0.2 (by rw [h]; exact Bool.false_ne_true)
    · exact h
  have hout : ¬ (t.state == .out) = true := by simpa using ht
  have hslot : slotPlaces t [] = [] := by unfold slotPlaces; split <;> rfl
  have hgo : attnEnd s id = (fun r : State × Bool => bif r.2 then attnClose r.1 id c else r.1)
      (engAll (.cmd id) s (endPlaces c)) := by
    unfold attnEnd
    rw [withAttn_may h, if_neg (by omega), if_neg hnot, if_neg hout, hslot]
    dsimp only
    rw [List.append_nil]
    unfold endPlaces attnClose
    generalize c.mapPa = o1
    generalize c.stamp = o2
    rcases o1 with _ | p <;> rcases o2 with _ | q <;> dsimp only [Option.toList, List.map, List.append]
    all_goals split <;> next heq => rw [heq] <;> rfl
  rw [hgo, hall]
  cases ok <;> rfl

end Machine

namespace Machine

open Host Safety

theorem homeWrite_teams (s : State) (pa : Nat) (bs : List Byte) : (homeWrite s pa bs).teams = s.teams := by
  obtain ⟨_, _, _, _, _, _, _, h⟩ := homeWrite_frame s pa bs
  rw [h]

/-- The groups that a team's record holds change with those that are resident. -/
theorem team_mapTeamGroups {u : State} {k : Nat} {t : Team} (ht : u.team k = some t) (f : Group → Group) :
    (mapTeamGroups u k f).team k = some { t with groups := t.groups.map f } := by
  have hfold (P : State → Group → State) (hP : ∀ s x, (P s x).teams = s.teams) (gs : List Group) (s : State) :
      (gs.foldl P s).teams = s.teams := by
    induction gs generalizing s with
    | nil => rfl
    | cons x gs ih => rw [List.foldl_cons, ih, hP]
  have hfind : Store.find (Store.adjust u.teams k fun t => { t with groups := t.groups.map f }) k =
      some { t with groups := t.groups.map f } := by
    rw [Store.find_adjust_self, show Store.find u.teams k = some t from ht]
    rfl
  unfold mapTeamGroups
  dsimp only
  split
  · next hn => cases ht.symm.trans hn
  · split
    · exact hfind
    · refine (congrArg (Store.find · k) (hfold _ (fun s x => ?_) _ _)).trans hfind
      split
      · rfl
      · exact homeWrite_teams ..

/-- Settles O14: a start's checks, the reads of a key block, and what the end writes. -/
theorem attentionCommandsRun : Obligations.AttentionCommandsRun := by
  unfold Obligations.AttentionCommandsRun
  intro s id c l t w rows die k count qRows early
  refine ⟨attn_starts s id c l t, fun u pa m hs hpa => cacheMap_holds die m hs hpa, ?_, ?_, attn_keyBlock s id c l t,
      ?_,
    fun u => rfl, fun u gid g hg hk hi => ?_, fun u t' ht => ?_⟩
  · intro rec s1 s2 c0 c1 c2 j vis g1 kb vb g2 keys st lk later hvis hany p sink win slot gen hslot
    have hp : c1.p0 = c0.p0 := by rw [rowsSee_attn hvis]
    have hso : slotOf rec (c1.p0.toNat + j) = (slot, gen) := by rw [slotOf_eq, hp]
    have hkey := readKey_got keys st lk later hvis hany (by rw [hso]; exact hslot)
    rw [hso] at hkey
    refine hkey.trans ?_
    by_cases hstale : leNat g1 ≠ gen ∨ leNat g2 ≠ leNat g1 ∨ leNat g1 = 0xFFFFFFFF
    · rw [if_pos hstale, if_pos (by simpa [staleGen, or_assoc] using hstale)]
    · rw [if_neg hstale, if_neg (by simpa [staleGen, and_assoc] using hstale)]
  · intro rec c0 c1 j slot s1 x hx
    refine ⟨fun hn => ?_, fun line hl => ?_⟩
    · subst hn
      unfold Attn.readSlot
      rw [show mapBase rec 2 = (rec.extractLsb' 128 57).toNat from rfl, hx]
    · subst hl
      unfold Attn.readSlot
      rw [show mapBase rec 2 = (rec.extractLsb' 128 57).toNat from rfl, hx]
  · intro h hdone
    refine ⟨fun hs hf hn => congrArg Outcome.next ((attnEnd_finishes h hdone hs hf hn).trans ?_), ?_⟩
    · rfl
    · intro hf ht counts stats add mark u
      refine ⟨fun hall => congrArg Outcome.next (attnEnd_ends h hdone hf ht hall), fun hall =>
        congrArg Outcome.next ((attnEnd_ends h hdone hf ht hall).trans ?_)⟩
      have hstats : attnStats (dropWriter u (.cmd id)) c = stats (dropWriter u (.cmd id)) := by
        unfold attnStats
        simp only [stats]
        rcases c.acc <;> rfl
      have hadd : ∀ v, counts.foldl (fun s p => engPut s p (addedCounts s ⟨p.pa - 0x20, p.repl⟩ c)) v =
          counts.foldl add v := by
        intro v
        simp only [counts]
        rcases c.mapPa with _ | p
        · rfl
        · simp only [Option.toList, List.map_cons, List.map_nil, List.foldl_cons, List.foldl_nil, add, addedCounts,
            Nat.add_sub_cancel]
      change closeAttn (c.stamp.toList.foldl mark (counts.foldl
        (fun s p => engPut s p (addedCounts s ⟨p.pa - 0x20, p.repl⟩ c)) (attnStats (dropWriter u (.cmd id)) c))) id c
            = _
      rw [hstats, hadd]
  · exact (grp_mapTeamGroups hg hk count).trans (congrArg some (if_pos (beq_iff_eq.2 hi)))
  · rw [team_mapTeamGroups ht]
    rfl

end Machine

end Sys2Proof
end

section
/-!
PROOFS. CopyCommands: copy commands: lines, steps and ends (R213 to R219, R232).
-/
namespace Sys2Proof

namespace Machine

open Host Safety

/-! ## Copy commands (R213 to R219, R232) -/

/-- A command whose translations are made goes on at once. -/
theorem withCopy_may {s : State} {id : Nat} {c : Copy} {l : Launch} {t : Team} (h : CopyMay s id c l t)
    (k : State → Copy → KDesc → Team → State) : withCopy s id k = k s c l.desc t := by
  obtain ⟨hc, hrun, hf, ht, hl, hst, hstamp, hplaced, hcov⟩ := h
  have hset : s.setCopy id c = s := congrArg (fun x => { s with copies := x }) (Store.put_find hc)
  have hchecked : c.checked l.desc = c := if_pos hst
  have hlines : (!c.toBox || c.status != 0 || c.empty || c.placed) = true := by
    rcases hplaced with h | h | h | h <;> simp [h]
  unfold withCopy
  rw [hc]
  dsimp only
  rw [hrun, hf, if_neg (by decide), readyCopy, ht, hl]
  dsimp only
  rw [hchecked, placeStamp, if_pos hstamp, placeLines, if_pos hlines, hset, hcov]
  rfl

theorem exec_ownership {s : State} {id : Nat} {c : Copy} {l : Launch} {t : Team} (h : CopyMay s id c l t) :
    exec (.engineLineOwnership id) s = .next (ownLine s id c) := congrArg Outcome.next (withCopy_may h _)

theorem ownLine_turn {s : State} {id n : Nat} {c : Copy} {rest : List Nat} (hw : c.want = n :: rest)
    (hr : resolve s n = s) (hfree : lineFree s n = true) (hserve : mayServe s n id = true) :
    ownLine s id c = (if inHbm (128 * n) && !inHostBias s n then setEly s n 5 else s).setCopy id
      { c with want := rest, held := c.held ++ [n] } := by
  unfold ownLine
  rw [hw]
  dsimp only
  rw [hr, hfree, hserve, if_neg (by decide)]

theorem ownLine_waits {s : State} {id n : Nat} {c : Copy} {rest : List Nat} (hw : c.want = n :: rest)
    (hr : resolve s n = s) (hno : lineFree s n = false ∨ mayServe s n id = false) :
    ownLine s id c = askWrite (arriveAt s n id) n := by
  unfold ownLine
  rw [hw]
  dsimp only
  rw [hr, if_pos (by rcases hno with h | h <;> simp [h])]

theorem commitReplicas_zero (s : State) (line : Nat) : commitReplicas s line 0 = s := by
  unfold commitReplicas replicaLines
  rw [if_pos (by rfl), List.filter_cons_of_neg (by simp)]
  rfl

theorem unlock_nil (s : State) (w : Nat) : unlock s w [] = s := by
  have h : ∀ xs : List (Nat × Nat), (xs.filter fun x => !(x.2 == w && ([] : List Nat).contains x.1)) = xs := fun xs =>
    List.filter_eq_self.2 fun x _ => by simp
  unfold unlock
  rw [h, h]
  rfl

theorem dropLine_zero {s : State} {id n : Nat} {c : Copy} (hr : c.replOf n = 0) :
    dropLine s id c n = ((if inHbm (128 * n) && !inHostBias s n then setEly s n 0 else s).setCopy id
      { c with held := c.held.filter (· != n) }, { c with held := c.held.filter (· != n) }, true) := by
  have hothers : (replicaLines n (0 : BitVec 8)).filter (fun l => l != n) = [] := by
    unfold replicaLines
    rw [if_pos (by rfl), List.filter_cons_of_neg (by simp)]
    rfl
  unfold dropLine
  dsimp only
  rw [hr, hothers]
  dsimp only [lockLines]
  rw [List.any_nil, if_neg Bool.false_ne_true, commitReplicas_zero, unlock_nil]

/-- Waiting for lines and locking them leaves the scratchpad as it is. -/
theorem resolve_spad (s : State) (line : Nat) : (resolve s line).spad = s.spad :=
  (congrArg State.spad (offMem_resolve s line) :)

theorem arriveAt_spad (s : State) (line id : Nat) : (arriveAt s line id).spad = s.spad := by
  unfold arriveAt
  split <;> rfl

theorem lockLines_spad (w : Nat) (ls : List Nat) (s : State) (h : (lockLines w s ls).2 = true) :
    (lockLines w s ls).1.spad = s.spad := by
  induction ls generalizing s with
  | nil => rfl
  | cons l ls ih =>
    unfold lockLines at h ⊢
    split
    · next hc =>
      rw [if_pos hc] at h
      exact ih s h
    · next hc =>
      rw [if_neg hc] at h
      dsimp only at h ⊢
      split
      · next hr =>
        rw [if_pos hr] at h
        exact (ih _ h).trans ((arriveAt_spad _ _ _).trans (resolve_spad s l))
      · next hr =>
        rw [if_neg hr] at h
        cases h

theorem engReady_spad {s : State} {w : Writer} {pa : Nat} {repl : BitVec 8} (h : (engReady s w pa repl).2 = true) :
    (engReady s w pa repl).1.spad = s.spad := by
  unfold engReady at h ⊢
  dsimp only at h ⊢
  split
  · next hr =>
    rw [if_pos hr] at h
    split
    · exact resolve_spad s _
    · next hn =>
      rw [if_neg hn] at h
      cases h
  · next hr =>
    rw [if_neg hr] at h
    split
    · next hn =>
      rw [if_pos hn] at h
      cases h
    · next hn =>
      rw [if_neg hn] at h
      exact (lockLines_spad _ _ _ (Bool.and_eq_true_iff.1 h).1).trans (arriveAt_spad _ _ _)

theorem engAll_spad {w : Writer} (ps : List Place) {s u : State} (h : engAll w s ps = (u, true)) : u.spad = s.spad := by
  induction ps generalizing s with
  | nil => rw [← (Prod.mk.inj h).1]
  | cons p ps ih =>
    have hready := engReady_spad (s := s) (w := w) (pa := p.pa) (repl := p.repl)
    unfold engAll at h
    split at h
    · next s1 h1 =>
      rw [h1] at hready
      exact (ih h).trans (hready rfl)
    · cases h

theorem dropWriter_spad (s : State) (w : Writer) : (dropWriter s w).spad = s.spad := by
  obtain ⟨e, l, x, h⟩ := dropWriter_eq s w
  rw [h]

end Machine

namespace Machine

open Host Safety

/-- The status with which a command ends (R213). -/
def endStatus (s : State) (c : Copy) (d : KDesc) (t : Team) : Nat :=
  if c.status = 0 ∧ c.rel = true ∧ t.ended.length < d.groups ∧ c.ringStep s d t = none then 7 else c.status

theorem endStatus_congr {s u : State} (h : u.spad = s.spad) (c : Copy) (d : KDesc) {t : Team} (ht : t.state ≠ .out) :
    endStatus u c d t = endStatus s c d t := by
  have hspad : ∀ x n, teamSpad u d t x n = teamSpad s d t x n := fun x n => by
    unfold teamSpad
    split
    · next h _ => exact absurd h ht
    · unfold spadNow
      rw [h]
  unfold endStatus Copy.ringStep
  simp only [hspad]

/-- A command that holds no line writes its stamp and ends. -/
theorem finishCopy_bare {s : State} {id : Nat} {c : Copy} {d : KDesc} {t : Team} (hset : s.setCopy id c = s)
    (hh : c.held = []) (hw : c.want = []) (ht : t.state ≠ .out) {u : State} {ok : Bool}
    (hall : engAll (.cmd id) s c.stamp.toList = (u, ok)) :
    finishCopy s id c d t = if ok then
      closeCopy (c.stamp.toList.foldl (fun v p => engPut v p (leBytes 8 (endStatus s c d t * 2 ^ 32 + c.seqw)))
        (dropWriter u (.cmd id))) id c d t (endStatus s c d t)
      else u := by
  have hc : { c with want := [] } = c := by rw [← hw]
  have hoffs : c.slotOffs t = [] := if_neg (by simpa using ht)
  have hslot : slotPlaces t [] = [] := by unfold slotPlaces; split <;> rfl
  have hstatus : ∀ v, (if c.status = 0 ∧ c.rel = true ∧ t.ended.length < d.groups ∧ (c.ringStep v d t).isNone = true
      then 7
      else c.status) = endStatus v c d t := fun v => by
    unfold endStatus
    simp only [Option.isNone_iff_eq_none]
  have hgo : finishCopy s id c d t = (fun r : State × Bool => bif r.2 then
      closeCopy (c.stamp.toList.foldl
        (fun v p => engPut v p (leBytes 8 (endStatus (dropWriter r.1 (.cmd id)) c d t * 2 ^ 32 + c.seqw)))
        (dropWriter r.1 (.cmd id))) id c d t (endStatus (dropWriter r.1 (.cmd id)) c d t) else r.1)
      (engAll (.cmd id) s c.stamp.toList) := by
    unfold finishCopy
    rw [hset, hc, hh]
    dsimp only [dropLines]
    rw [hoffs, hslot, List.append_nil]
    simp only [hstatus]
    generalize c.stamp = o
    rcases o with _ | p <;> dsimp only [Option.toList]
    all_goals split <;> next heq => rw [heq] <;> rfl
  rw [hgo, hall]
  cases ok
  · rfl
  · have hst : endStatus (dropWriter u (.cmd id)) c d t = endStatus s c d t :=
      endStatus_congr ((dropWriter_spad u _).trans (engAll_spad _ hall)) c d ht
    dsimp only [cond_true]
    rw [hst]
    rfl

end Machine

namespace Machine

open Host Safety

theorem setCopy_same {s : State} {id : Nat} {c : Copy} (h : Store.find s.copies id = some c) : s.setCopy id c = s :=
  congrArg (fun x => { s with copies := x }) (Store.put_find h)

theorem copyAsp {s : State} {lid : Nat} {l : Launch} (h : s.launch lid = some l) :
    ((s.launch lid).map (·.asp)).getD 0 = l.asp := by rw [h]; rfl

theorem copyMay_launch {s : State} {id : Nat} {c : Copy} {l : Launch} {t : Team} (h : CopyMay s id c l t) :
    s.launch c.lid = some l := by
  obtain ⟨-, -, -, -, hl, -⟩ := h
  exact hl

theorem copyMay_same {s : State} {id : Nat} {c : Copy} {l : Launch} {t : Team} (h : CopyMay s id c l t) :
    s.setCopy id c = s := by
  obtain ⟨hc, -⟩ := h
  exact setCopy_same hc

/-- A step that has nothing left to write ends its command. -/
theorem copyStep_ends {s : State} {id : Nat} {c : Copy} {l : Launch} {t : Team} (h : CopyMay s id c l t) (prog : List Nat)
    (hdone : c.status ≠ 0 ∨ c.empty = true ∨ c.kind ≠ 4 ∧ c.allWritten = true) :
    copyStep s id prog = finishCopy s id c l.desc t := by
  have hd : (c.status != 0 || c.empty || c.kind != 4 && c.allWritten) = true := by
    rcases hdone with h | h | ⟨h1, h2⟩
    · simp [h]
    · simp [h]
    · simp [h1, h2]
  unfold copyStep
  rw [withCopy_may h]
  exact if_pos hd

/-- A prefetch asks for its lines and ends. -/
theorem copyStep_prefetches {s : State} {id : Nat} {c : Copy} {l : Launch} {t : Team} (h : CopyMay s id c l t)
    (prog : List Nat) (hs : c.status = 0) (he : c.empty = false) (hk : c.kind = 4) :
    copyStep s id prog = finishCopy (prefetch (keepTrs s (dieOf c.core) l.asp (c.boxLines.map (128 * ·))) c (dieOf
        c.core) l.asp)
      id c l.desc t := by
  have hd : ¬ (c.status != 0 || c.empty || c.kind != 4 && c.allWritten) = true := by simp [hs, he, hk]
  unfold copyStep
  rw [withCopy_may h]
  dsimp only
  rw [if_neg hd, if_pos hk, copyAsp (copyMay_launch h)]

/-- Reading sources changes of a command only what it has read. -/
theorem readSectors_n (id die asp : Nat) (d : KDesc) (t : Team) (as : List Nat) (s : State) (c : Copy) :
    (readSectors id die asp d t s c as).2.1.n = c.n := by
  induction as generalizing s c with
  | nil => rfl
  | cons a as ih =>
    unfold readSectors
    split
    · exact ih _ _
    all_goals rfl

theorem readAhead_n (s : State) (id die asp : Nat) (d : KDesc) (t : Team) (c : Copy) (i j : Nat) :
    (readAhead s id die asp d t c i j).2.n = c.n := by
  have hfold : ∀ (as : List Nat) (r : State × Copy), (as.foldl (fun (r : State × Copy) a =>
      if r.2.srcs.any fun x => x.num == a / 32 then r
      else
        match readSectors id die asp d t r.1 r.2 [a] with
        | (s, c, .on) => (s, c)
        | _ => r) r).2.n = r.2.n := by
    intro as
    induction as with
    | nil => exact fun _ => rfl
    | cons a as ih =>
      intro r
      refine (ih _).trans ?_
      dsimp only
      split
      · rfl
      · have hn := readSectors_n id die asp d t [a] r.1 r.2
        split
        · next heq => rw [heq] at hn; exact hn
        · rfl
  unfold readAhead
  split
  · rfl
  · split
    · rfl
    · exact hfold _ _

theorem readAheads_n (id die asp : Nat) (d : KDesc) (t : Team) (es : List Nat) (r : State × Copy) :
    (es.foldl (fun r e => readAhead r.1 id die asp d t r.2 (e % 32) (e / 32)) r).2.n = r.2.n := by
  induction es generalizing r with
  | nil => rfl
  | cons e es ih => exact (ih _).trans (readAhead_n _ _ _ _ _ _ _ _ _)

/-- A step reads ahead, and writes the sectors that it names. -/
theorem copyStep_writes {s : State} {id : Nat} {c : Copy} {l : Launch} {t : Team} (h : CopyMay s id c l t)
    (prog : List Nat) (hs : c.status = 0) (he : c.empty = false) (hk : c.kind ≠ 4) (hw : c.allWritten = false) :
    let r := (prog.drop c.n).foldl (fun r e => readAhead r.1 id (dieOf c.core) l.asp l.desc t r.2 (e % 32) (e / 32))
      (keepTrs s (dieOf c.core) l.asp (c.boxLines.map (128 * ·)), c)
    ∀ u c', runSlices id (dieOf c.core) l.asp l.desc t (prog.take c.n) r.1 r.2 (List.range c.n) = (u, c', .on) →
      copyStep s id prog = u.setCopy id c' := by
  intro r u c' hrun
  have hd : ¬ (c.status != 0 || c.empty || c.kind != 4 && c.allWritten) = true := by simp [hs, he, hk, hw]
  unfold copyStep
  rw [withCopy_may h]
  dsimp only
  rw [if_neg hd, if_neg hk, copyAsp (copyMay_launch h)]
  have hn := readAheads_n id (dieOf c.core) l.asp l.desc t (prog.drop c.n)
    (keepTrs s (dieOf c.core) l.asp (c.boxLines.map (128 * ·)), c)
  rw [hn]
  split
  · next heq => cases hrun.symm.trans heq; rfl
  all_goals (next heq => cases hrun.symm.trans heq)

end Machine

namespace Machine

open Host Safety

theorem closeCopy_eq (u : State) (id : Nat) (c : Copy) (l : Launch) (t : Team) (status : Nat) :
    closeCopy u id c l.desc t status =
      reap (c.parts.foldl (fun s p => countCopies s p.gidx (teamKey c.lid c.tid))
        { ringDone (c.topShadows (dropOlds u id)) c l t status with
          copies := Store.del (ringDone (c.topShadows (dropOlds u id)) c l t status).copies id }) (teamKey c.lid c.tid) := by
  unfold closeCopy ringDone
  rfl

/-- A row that is copied as it is goes into the scratchpad, and counts nothing (R202, R210). -/
theorem sectorWrite_spad (s : State) (id : Nat) (d : KDesc) (t : Team) {c : Copy} (p : Part32) (hb : c.toBox = false)
    (hk : c.kind = 1) :
    sectorWrite s id d t c [p] = (spadPut s id d t (c.chip + p.row * c.rowBytes + p.off)
      ((List.range p.len).map fun i => c.srcByte (((c.rowVa p.row + p.off) % 2 ^ 57 + i) % 2 ^ 57)), .on) := by
  have hcanon : ¬ c.canon = true := by simp [Copy.canon, hk]
  have hpay : payload d t c p =
      ((List.range p.len).map fun i => c.srcByte (((c.rowVa p.row + p.off) % 2 ^ 57 + i) % 2 ^ 57), ⟨0, 0, 0⟩) := by
    unfold payload srcRuns
    rw [hb, if_neg (by simp [hcanon]), if_neg Bool.false_ne_true, if_neg hcanon]
    rfl
  have hdst : c.dstAt p = c.chip + p.row * c.rowBytes + p.off := by
    unfold Copy.dstAt
    rw [hb, if_neg Bool.false_ne_true, if_neg hcanon]
  have hxs : [p].map (fun p => (c.dstAt p, payload d t c p)) = [(c.chip + p.row * c.rowBytes + p.off,
      ((List.range p.len).map fun i => c.srcByte (((c.rowVa p.row + p.off) % 2 ^ 57 + i) % 2 ^ 57), ⟨0, 0, 0⟩))] := by
    rw [List.map_cons, List.map_nil, hpay, hdst]
  unfold sectorWrite
  dsimp only
  rw [hxs, hb]
  dsimp only [List.foldl_cons, List.foldl_nil]
  rw [if_neg Bool.false_ne_true, if_neg (by omega), if_pos hk]
  rfl

/-- Settles O13: the lines that a command owns and releases, its steps, and its end. -/
theorem copyCommandsRun : Obligations.CopyCommandsRun := by
  unfold Obligations.CopyCommandsRun
  intro s id c l t h k die key word
  have hexec : ∀ prog u, copyStep s id prog = u → exec (.copyCommandComplete id prog) s = .next u := fun prog u hu =>
    congrArg Outcome.next hu
  refine ⟨fun n rest hw hr hfree hserve => (exec_ownership h).trans (congrArg Outcome.next (ownLine_turn hw hr hfree
      hserve)),
    fun n rest hw hr hno => (exec_ownership h).trans (congrArg Outcome.next (ownLine_waits hw hr hno)), ?_, ?_, ?_, ?_,
    fun u status => closeCopy_eq u id c l t status, ?_, ?_, ?_, ?_, ?_⟩
  · intro n hn hdone hr
    refine congrArg Outcome.next ((withCopy_may h _).trans ?_)
    rw [if_pos (by rw [List.contains_iff_mem.2 hn, hdone]; rfl), dropLine_zero hr]
  · intro prog u c' hs he hk hw s1 r hrun
    refine hexec _ _ (copyStep_writes h prog hs he hk hw u c' hrun)
  · intro prog hdone hh hw ht status
    have hstep := copyStep_ends h prog hdone
    refine ⟨fun hst => ?_, ?_⟩
    · have hall : engAll (.cmd id) s c.stamp.toList = (s, true) := by rw [hst]; rfl
      refine hexec _ _ (hstep.trans ((finishCopy_bare (copyMay_same h) hh hw ht hall).trans ?_))
      rw [hst]
      rfl
    · intro p hst w
      rcases hall : engAll (.cmd id) s [p] with ⟨u, _ | _⟩
      · have hw1 : w = (u, false) := by
          simp only [w, engWrite, engWrites, List.map_cons, List.map_nil]
          rw [hall]
        have hall' : engAll (.cmd id) s c.stamp.toList = (u, false) := by rw [hst]; exact hall
        rw [hw1]
        exact ⟨fun hf => absurd hf Bool.false_ne_true, fun _ =>
          hexec _ _ (hstep.trans (finishCopy_bare (copyMay_same h) hh hw ht hall'))⟩
      · have hw1 : w = (engPut (dropWriter u (.cmd id)) p (word status), true) := by
          simp only [w, engWrite, engWrites, List.map_cons, List.map_nil]
          rw [hall]
          rfl
        have hall' : engAll (.cmd id) s c.stamp.toList = (u, true) := by rw [hst]; exact hall
        rw [hw1]
        refine ⟨fun _ => hexec _ _ (hstep.trans ((finishCopy_bare (copyMay_same h) hh hw ht hall').trans ?_)),
          fun hf => absurd hf.symm Bool.false_ne_true⟩
        rw [hst]
        rfl
  · intro prog hs he hk hh hrel hw hst ht
    refine hexec _ _ ((copyStep_prefetches h prog hs he hk).trans ?_)
    generalize prefetch (keepTrs s die l.asp (c.boxLines.map (128 * ·))) c die l.asp = u
    have hset : (u.setCopy id c).setCopy id c = u.setCopy id c := setCopy_same (Store.find_put_self _ _ _)
    have hall : engAll (.cmd id) (u.setCopy id c) c.stamp.toList = (u.setCopy id c, true) := by rw [hst]; rfl
    have hstatus : endStatus (u.setCopy id c) c l.desc t = 0 := (if_neg (by simp [hrel])).trans hs
    have hagain : finishCopy u id c l.desc t = finishCopy (u.setCopy id c) id c l.desc t := by
      unfold finishCopy
      rw [hset]
    rw [hagain, finishCopy_bare hset hh hw ht hall, hstatus, hst]
    rfl
  · intro u gid gidx g hg hk hi ended
    exact (grp_mapTeamGroups hg hk _).trans (congrArg some (if_pos (beq_iff_eq.2 hi)))
  · intro u gidx t' ht'
    refine (congrArg (Option.map (·.groups)) (team_mapTeamGroups ht' _)).trans (congrArg some ?_)
    refine List.map_congr_left fun g _ => ?_
    by_cases hi : g.gidx = gidx
    · rw [if_pos hi, if_pos (beq_iff_eq.2 hi)]
      rfl
    · rw [if_neg hi, if_neg (mt beq_iff_eq.1 hi)]
  · intro p a ha x hx hnum
    have hnot := (List.mem_filter.1 ha).2
    rw [Bool.not_eq_true', List.any_eq_false] at hnot
    exact hnot x hx (beq_iff_eq.2 hnum)
  · intro a bs u hb hr
    rw [readSectors, hr]
    rfl
  · exact fun p hb hk => sectorWrite_spad s id l.desc t p hb hk

end Machine

end Sys2Proof
end

section
/-!
PROOFS. LaneLoads: lane loads and the scratchpad words (R149 to R153, R157, R158).
-/
namespace Sys2Proof

namespace Machine

open Host Safety

/-! ## What a bounded lane access asks for (R149, R151) -/

section
variable {s : State} {g : Group} {m : Mods} {regs : List Nat} {n : BitVec 4} {b : OpC} {off : BitVec 32}

/-- The index of a footprint where it is one for all lanes (R152). -/
def laneUniform (s : State) (g : Group) (b : OpC) (off : BitVec 32) : Option Int :=
  match b with
  | .u _ => some (laneIndex s g b off 0)
  | _ => none

/-- An access of a lane word whose checks have passed. -/
def laneAcc (s : State) (g : Group) (m : Mods) (n : BitVec 4) (b : OpC) (off : BitVec 32) : LAccess :=
  ⟨aLane g n, laneInterval s g b off, effMask s.picks g m,
    (effLanes s g m).map fun l => (l, laneAddress s g n b off l), laneUniform s g b off⟩

theorem accessing_map (ls : List Nat) (at_ : Nat → Option Nat) :
    accessing (ls.map fun l => (l, at_ l)) = ls.filterMap fun l => (at_ l).map fun va => (l, va) :=
  List.filterMap_map ..

theorem laneAcc_accessing : accessing (laneAcc s g m n b off).spots = accesses s g m (laneAddress s g n b off) :=
  accessing_map _ _

theorem laneAcc_foot : (laneAcc s g m n b off).foot = laneFoot s g n b off := by
  cases b <;> rfl

/-- The checks of a lane access are those of its operand, its base and the TRAP mode, in this order. -/
theorem laneAccess_eq (k : LAccess → State) :
    laneAccess s s.cur g m regs n b off k =
      inQuota s s.cur g (regs ++ cRegs .i32 b)
        (if aBase (aLane g n) % aEsz (aLane g n) ≠ 0 then raiseL s s.cur g .operand 70
         else
           match trapLane (aLane g n) (laneInterval s g b off) ((effLanes s g m).map fun l => (l, laneIndex s g b off
               l)) with
           | some l => raiseL s s.cur g .bounds (boundsInfo false n.toNat l)
           | none => k (laneAcc s g m n b off)) := by
  have hspots : spots (aLane g n) (laneInterval s g b off) ((effLanes s g m).map fun l => (l, laneIndex s g b off l)) =
      (laneAcc s g m n b off).spots := List.map_map ..
  unfold laneAcc at hspots ⊢
  dsimp only at hspots
  rw [← hspots]
  unfold laneAccess
  simp only [bne_iff_ne]
  cases b <;> rfl

theorem trapLane_none {a : ARegVal} {iv : Shadow} {ls : List Nat} {ix : Nat → Int}
    (h : insideA a iv = false → aMode a = 1 → ∀ l ∈ ls, outA a (ix l) = false) :
    trapLane a iv (ls.map fun l => (l, ix l)) = none := by
  unfold trapLane
  split
  · next hc =>
    obtain ⟨hin, hmode⟩ : insideA a iv = false ∧ aMode a = 1 := by simpa using hc
    rw [List.find?_map, Option.map_map, Option.map_eq_none_iff, List.find?_eq_none]
    exact fun l hl => by simp [h hin hmode l hl]
  · rfl

/-- The trap names the lowest lane that offends (R151). -/
theorem trapLane_some {a : ARegVal} {iv : Shadow} {ls : List Nat} {ix : Nat → Int} {l : Nat} (hin : insideA a iv = false)
    (hmode : aMode a = 1) (hsorted : ls.Pairwise (· < ·)) (hl : l ∈ ls) (hout : outA a (ix l) = true)
    (hlow : ∀ j ∈ ls, j < l → outA a (ix j) = false) : trapLane a iv (ls.map fun l => (l, ix l)) = some l := by
  have hc : (!insideA a iv && aMode a == 1) = true := by simp [hin, hmode]
  unfold trapLane
  rw [if_pos hc, List.find?_map, Option.map_map]
  obtain ⟨p, q, rfl⟩ := List.append_of_mem hl
  have hp : ∀ j ∈ p, ¬ ((fun e : Nat × Int => outA a e.2) ∘ fun l => (l, ix l)) j = true := fun j hj => by
    have hj' : j < l := (List.pairwise_append.1 hsorted).2.2 j hj l (List.mem_cons_self ..)
    simp [hlow j (List.mem_append_left _ hj) hj']
  rw [List.find?_append, List.find?_eq_none.2 hp, Option.none_or, List.find?_cons_of_pos (by simpa using hout)]
  rfl

theorem effLanes_sorted : (effLanes s g m).Pairwise (· < ·) := List.pairwise_lt_range.filter _

theorem laneAccess_misaligned {k : LAccess → State} (hq : ∀ r ∈ regs ++ cRegs .i32 b, r < g.q)
    (hbase : aBase (aLane g n) % aEsz (aLane g n) ≠ 0) :
    laneAccess s s.cur g m regs n b off k = raiseL s s.cur g .operand 70 := by
  rw [laneAccess_eq, inQuota_within hq, if_pos hbase]

theorem laneAccess_traps {k : LAccess → State} {l : Nat} (hq : ∀ r ∈ regs ++ cRegs .i32 b, r < g.q)
    (hbase : aBase (aLane g n) % aEsz (aLane g n) = 0) (hin : insideA (aLane g n) (laneInterval s g b off) = false)
    (hmode : aMode (aLane g n) = 1) (hl : l ∈ effLanes s g m) (hout : outA (aLane g n) (laneIndex s g b off l) = true)
    (hlow : ∀ j ∈ effLanes s g m, j < l → outA (aLane g n) (laneIndex s g b off j) = false) :
    laneAccess s s.cur g m regs n b off k =
      raiseL s s.cur g .bounds (BitVec.ofNat 32 (n.toNat * 256 + l)) := by
  rw [laneAccess_eq, inQuota_within hq, if_neg (by simpa using hbase),
    trapLane_some hin hmode effLanes_sorted hl hout hlow]
  simp only [boundsInfo, Bool.false_eq_true, if_false, Nat.zero_add]

theorem laneAccess_ready {k : LAccess → State} (h : LaneReady s g m regs n b off) :
    laneAccess s s.cur g m regs n b off k = k (laneAcc s g m n b off) := by
  obtain ⟨hq, hbase, htrap, -, -, -⟩ := h
  rw [laneAccess_eq, inQuota_within hq, if_neg (by simpa using hbase), trapLane_none htrap]

/-! ### The lanes that offend -/

theorem getLsbD_offending (ls : List Nat) (at_ : Nat → Option Nat) (l : Nat) :
    (offending (ls.map fun l => (l, at_ l))).getLsbD l = (decide (l < 64) && decide (l ∈ ls) && (at_ l).isNone) := by
  unfold offending
  rw [List.foldl_map]
  exact (getLsbD_foldl_laneBit (fun l => (at_ l).isNone) ls 0 l).trans (by simp)

/-- The flags of a lane access are those of the lanes that offend. -/
theorem laneAcc_flags (hw : g.width ≤ 64) :
    obWrite m.nf g.width (offending (laneAcc s g m n b off).spots) = obFlags s g m (laneAddress s g n b off) := by
  have hbit : ∀ l, l < g.width → (offending (laneAcc s g m n b off).spots).getLsbD l =
      ((effMask s.picks g m).getLsbD l && (laneAddress s g n b off l).isNone) := fun l hl => by
    refine (getLsbD_offending _ _ l).trans ?_
    have h64 : l < 64 := by omega
    simp [effLanes, h64]
  have hlist : tabulate g.width (fun l => if (offending (laneAcc s g m n b off).spots).getLsbD l then fxOb else 0) =
      (List.range g.width).map fun l =>
        if (effMask s.picks g m).getLsbD l && (laneAddress s g n b off l).isNone then (32 : BitVec 6) else 0 := by
    refine List.map_congr_left fun l hl => ?_
    rw [hbit l (List.mem_range.1 hl)]
    rfl
  have hall : ∀ f : Nat → Bool, ((List.range g.width).map fun l => if f l then (32 : BitVec 6) else 0).all (· == 0) =
      !(List.range g.width).any f := fun f => by
    rw [List.all_map, List.any_eq_not_all_not, Bool.not_not]
    refine List.all_congr rfl fun l => ?_
    cases h : f l <;> simp [h]
  unfold obWrite fxWrite obFlags
  rw [hlist, hall]

end
end Machine

namespace Machine

open Host Safety

/-! ## A load that reads all its elements at issue (R157, R248) -/

/-- The lanes of elements, as a list of them gives them. -/
theorem getLsbD_eltLanes (es : List LoadElt) (l : Nat) :
    (eltLanes es).getLsbD l = (decide (l < 64) && es.any (·.lane == l)) := by
  have h : eltLanes es = (es.map (·.lane)).foldl (fun m l => if true then m ||| laneBit l else m) 0 := by
    rw [List.foldl_map]
    rfl
  rw [h, getLsbD_foldl_laneBit (fun _ => true), Bool.eq_iff_iff]
  simp [List.mem_map]

/-- The value in element l of the words written, low word first. -/
def putElt (l v : Nat) (ws : List PWrite) : List PWrite :=
  ws.mapIdx fun i w =>
    if i = 0 then w.setLane l (BitVec.ofNat 32 v)
    else if i = 1 then w.setLane l (BitVec.ofNat 32 (v / 2 ^ 32))
    else w

theorem setElt_eq (p : Pending) (l v : Nat) : p.setElt l v = { p with writes := putElt l v p.writes } := rfl

/-- The writes of a load whose elements are these lanes' values. -/
def putElts (val : Nat → Nat) (es : List LoadElt) (ws : List PWrite) : List PWrite :=
  es.foldl (fun ws e => putElt e.lane (val e.lane) ws) ws

/-- A function's value replaced at one number. -/
def setAt (f : Nat → Nat) (l v : Nat) (j : Nat) : Nat := if j = l then v else f j

theorem set_tabulate {α : Type} (n l : Nat) (f g : Nat → α) (x : α) (h : ∀ j, g j = if j = l then x else f j) :
    setNth (tabulate n f) l x = tabulate n g := by
  unfold setNth tabulate
  refine List.ext_getElem (by simp) fun j h1 h2 => ?_
  rw [List.getElem_set, List.getElem_map, List.getElem_range, List.getElem_map, List.getElem_range, h]
  by_cases hj : l = j
  · rw [if_pos hj, if_pos hj.symm]
  · rw [if_neg hj, if_neg (Ne.symm hj)]

/-- An element's value goes into its lane of the register, or of the pair, and of nothing else. -/
theorem putElt_wV (g : Group) (ty : Ty) (d : BitVec 8) (eff : Mask) (sh : Shadow) (f : Nat → Nat) (l v : Nat)
    {fs : List PWrite} (hfs : ∀ w ∈ fs, ∀ x, w.setLane l x = w) :
    putElt l v (wV g ty d eff sh f ++ fs) = wV g ty d eff sh (setAt f l v) ++ fs := by
  have hword : ∀ k : Nat, setNth (tabulate g.width fun l => (BitVec.ofNat 32 (f l / k) : W32)) l (BitVec.ofNat 32 (v /
      k)) =
      tabulate g.width fun j => BitVec.ofNat 32 (setAt f l v j / k) := fun k =>
    set_tabulate _ _ _ _ _ fun j => by
      unfold setAt
      split <;> rfl
  have hlow := hword 1
  simp only [Nat.div_one] at hlow
  have hid : ∀ (ws : List PWrite) (h : ∀ w ∈ ws, ∀ x, w.setLane l x = w) (p : Nat → Bool) (x : Nat → W32),
      (ws.mapIdx fun i w => if p i then w.setLane l (x i) else w) = ws := fun ws h p x => by
    refine List.ext_getElem (by simp) fun i h1 h2 => ?_
    rw [List.getElem_mapIdx]
    split
    · exact h _ (List.getElem_mem _) _
    · rfl
  have hv : ∀ r ls vs sh o x, (PWrite.v r ls vs sh o).setLane l x = .v r ls (setNth vs l x) sh o := fun _ _ _ _ _ _ =>
      rfl
  unfold wV
  by_cases h64 : ty.is64 = true
  · rw [if_pos h64, if_pos h64]
    have htail := hid fs hfs (fun _ => false) fun _ => 0
    simp only [Bool.false_eq_true, if_false] at htail
    simp only [putElt, List.cons_append, List.nil_append, List.mapIdx_cons, if_pos, hv, hlow, hword, Nat.zero_add,
      Nat.succ_ne_zero, if_false, Nat.reduceAdd, Nat.reduceEqDiff, Nat.add_eq_right]
    rw [htail]
  · rw [if_neg h64, if_neg h64]
    have htail := hid fs hfs (fun i => i + 1 = 1) fun _ => BitVec.ofNat 32 (v / 2 ^ 32)
    simp only [decide_eq_true_eq] at htail
    simp only [putElt, List.cons_append, List.nil_append, List.mapIdx_cons, if_pos, hv, hlow, Nat.succ_ne_zero,
      if_false]
    rw [htail]

theorem putElts_wV (g : Group) (ty : Ty) (d : BitVec 8) (eff : Mask) (sh : Shadow) (val : Nat → Nat) (es : List LoadElt)
    {fs : List PWrite} (hfs : ∀ w ∈ fs, ∀ l x, w.setLane l x = w) (f : Nat → Nat) :
    putElts val es (wV g ty d eff sh f ++ fs) =
      wV g ty d eff sh (fun l => if es.any (·.lane == l) then val l else f l) ++ fs := by
  unfold putElts
  induction es generalizing f with
  | nil => rfl
  | cons e es ih =>
    rw [List.foldl_cons, putElt_wV _ _ _ _ _ _ _ _ fun w hw x => hfs w hw _ x, ih]
    congr 2
    funext l
    rw [List.any_cons]
    unfold setAt
    by_cases hl : l = e.lane
    · subst hl
      simp
    · have hl' : (e.lane == l) = false := by simpa using Ne.symm hl
      rw [if_neg hl, hl', Bool.false_or]

section
variable {s : State} {g : Group} {lane : Bool} {p : Pending}

/-- What a reading gives of elements that can all be read, with no mismatch. -/
theorem sampleElts_reads {gid : Nat} (val : Nat → Nat) (es : List LoadElt)
    (h : ∀ e ∈ es, ∃ bs ids, readElt s (coreOf gid) (gid, lane) p.kind p.id e = some (bs, false, ids) ∧
      extend e.signed bs = val e.lane) :
    ∃ c r, sampleElts s gid g lane es p =
      ⟨{ p with writes := putElts val es p.writes, unsampled := p.unsampled &&& ~~~eltLanes es }, [], c, r⟩ := by
  suffices hgen : ∀ (es : List LoadElt), (∀ e ∈ es, ∃ bs ids, readElt s (coreOf gid) (gid, lane) p.kind p.id e =
      some (bs, false, ids) ∧ extend e.signed bs = val e.lane) → ∀ (q : Pending) c r, ∃ c' r' u,
      es.foldl (fun r e =>
        match readElt s (coreOf gid) (gid, lane) p.kind p.id e with
        | none => { r with res := { r.res with unsampled := r.res.unsampled ||| laneBit e.lane } }
        | some (bs, bad, ids) =>
          let rels := if p.kind == .scratch then [] else relsRead s e.pa e.size ids
          { res := { r.res.setElt e.lane (extend e.signed bs) with unsampled := r.res.unsampled &&& ~~~laneBit e.lane },
            bad := if bad then r.bad ++ [e] else r.bad,
            cov := r.cov ++ ids ++ acqCover gid g p.acq rels, rels := r.rels ++ rels }) (⟨q, [], c, r⟩ : Sampled) =
        (⟨{ q with writes := putElts val es q.writes, unsampled := u }, [], c', r'⟩ : Sampled) ∧
      ∀ l, u.getLsbD l = (q.unsampled.getLsbD l && !es.any (·.lane == l)) by
    obtain ⟨c, r, u, heq, hu⟩ := hgen es h p [] []
    refine ⟨c, r, heq.trans ?_⟩
    have hmask : u = p.unsampled &&& ~~~eltLanes es := BitVec.eq_of_getLsbD_eq fun l hl => by
      rw [hu, BitVec.getLsbD_and, BitVec.getLsbD_not, getLsbD_eltLanes]
      simp [hl]
    rw [hmask]
  intro es
  induction es with
  | nil => exact fun _ q c r => ⟨c, r, q.unsampled, rfl, fun l => by simp⟩
  | cons e es ih =>
    intro hes q c r
    obtain ⟨bs, ids, hread, hval⟩ := hes e (List.mem_cons_self ..)
    rw [List.foldl_cons, hread]
    obtain ⟨c', r', u, heq, hu⟩ := ih (fun e he => hes e (List.mem_cons_of_mem _ he))
      { q with writes := putElt e.lane (val e.lane) q.writes, unsampled := q.unsampled &&& ~~~laneBit e.lane }
      (c ++ ids ++ acqCover gid g p.acq (if p.kind == .scratch then [] else relsRead s e.pa e.size ids))
      (r ++ if p.kind == .scratch then [] else relsRead s e.pa e.size ids)
    refine ⟨c', r', u, ?_, fun l => ?_⟩
    · dsimp only [setElt_eq]
      rw [hval]
      exact heq
    · rw [hu, BitVec.getLsbD_and, BitVec.getLsbD_not, getLsbD_laneBit, List.any_cons, beq_eq_decide]
      by_cases hl : l < 64
      · simp [hl, Bool.and_assoc]
      · rw [BitVec.getLsbD_of_ge _ _ (Nat.le_of_not_lt hl)]
        rfl

/-- A result of elements that a reading takes one by one. -/
def PKind.byElement (k : PKind) : Prop := k = .load ∨ k = .homeLoad ∨ k = .scratch

/-- A reading that takes every element leaves nothing for later. -/
theorem sampleSome_reads {gid : Nat} (val : Nat → Nat) (hk : p.kind.byElement) (hu : p.unsampled = eltLanes p.elts)
    (hlanes : ∀ e ∈ p.elts, e.lane < 64)
    (h : ∀ e ∈ p.elts, ∃ bs ids, readElt s (coreOf gid) (gid, lane) p.kind p.id e = some (bs, false, ids) ∧
      extend e.signed bs = val e.lane) :
    ∃ c r, sampleSome s gid g lane (BitVec.allOnes 64) p =
      ⟨{ p with writes := putElts val p.elts p.writes, unsampled := 0 }, [], c, r⟩ := by
  have hall : p.elts.filter (fun e => (p.unsampled &&& BitVec.allOnes 64).getLsbD e.lane) = p.elts := by
    refine List.filter_eq_self.2 fun e he => ?_
    rw [BitVec.and_allOnes, hu, getLsbD_eltLanes]
    simp only [hlanes e he, decide_true, Bool.true_and]
    exact List.any_eq_true.2 ⟨e, he, by simp⟩
  have hsome : sampleSome s gid g lane (BitVec.allOnes 64) p = (sampleElts s gid g lane p.elts p).hold := by
    have hmain : sampleSome s gid g lane (BitVec.allOnes 64) p = (sampleElts s gid g lane
        (p.elts.filter fun e => (p.unsampled &&& BitVec.allOnes 64).getLsbD e.lane) p).hold := by
      unfold sampleSome
      obtain h | h | h := hk <;> rw [h]
    rw [hmain, hall]
  obtain ⟨c, r, heq⟩ := sampleElts_reads (g := g) val p.elts h
  have hzero : p.unsampled &&& ~~~eltLanes p.elts = 0 := by
    rw [hu]
    exact BitVec.eq_of_getLsbD_eq fun l hl => by simp
  rw [hzero] at heq
  refine ⟨c, r, hsome.trans ?_⟩
  rw [heq]
  rfl

/-- Reading the scratchpad changes nothing but the notes of stores in flight (R250). -/
theorem afterRead_olds (s : State) (gid : Nat) (g : Group) (old new : Pending) :
    ∃ os, afterRead s gid g old new = { s with olds := os } := by
  unfold afterRead
  split
  · exact ⟨s.olds, rfl⟩
  · exact readSpad_cases s _ _

/-- A result all of whose elements have been read. -/
def readRes (s : State) (g : Group) (p : Pending) (ws : List PWrite) : Pending :=
  { p with id := s.nextId, pc := g.ctx.lpc, writes := ws, unsampled := 0 }

/-- Nothing is asked for where nothing is still to be read. -/
theorem askElts_read {q : Pending} (hq : q.unsampled = 0) (u : State) (core : Nat) (lanes : Mask) :
    askElts u core lanes q = u := by
  unfold askElts
  split
  · rfl
  · rw [List.filter_eq_nil_iff.2 fun e _ => by simp [hq]]
    rfl

/-- How a load of the lane stream issues when its reading takes all of it and meets no mismatch. -/
theorem issueLoad_good {gid : Nat} {q : Pending} {c : List Nat} {r : List Rel} {u : State} (next : Bool → Group → Group)
    (hroom : g.ln.full = false) (hres : resolveElts s p.kind p.elts = s)
    (hread : sampleSome s gid g true (~~~deferred s.picks)
      { p with id := s.nextId, pc := g.ctx.lpc, unsampled := eltLanes p.elts } = ⟨q, [], c, r⟩)
    (hafter : afterRead s gid g { p with id := s.nextId, pc := g.ctx.lpc, unsampled := eltLanes p.elts } q = u)
    (hq : q.unsampled = 0) :
    issueLoad s gid g true p next =
      ({ u with nextId := u.nextId + 1 } : State).setGrp gid (next false (g.setStr true (Stream.load u g.ln ⟨q, [], c, r⟩))) := by
  have hfull : ¬ (g.str true).full = true := by simp [Group.str, hroom]
  have hot : ∀ (b : Bool) (f : LoadElt → Bool), (b && p.elts.any fun e => q.unsampled.getLsbD e.lane && f e) = false :=
    fun b f => by simp [hq]
  unfold issueLoad
  rw [if_neg hfull]
  dsimp only
  rw [hres, if_pos rfl, hread]
  dsimp only
  rw [hafter, askElts_read hq, hot]
  rfl

/-- How a load of the lane stream issues when every element can be read. -/
theorem issueLoad_reads {ws : List PWrite} (val : Nat → Nat) (next : Bool → Group → Group)
    (hk : p.kind.byElement) (hw : p.writes = ws) (hroom : g.ln.full = false) (hd : deferred s.picks = 0)
    (hres : resolveElts s p.kind p.elts = s) (hlanes : ∀ e ∈ p.elts, e.lane < 64)
    (hnext : ∀ h, ∃ sw, next false h = h.nextL sw)
    (h : ∀ e ∈ p.elts, ∃ bs ids, readElt s (coreOf s.cur) (s.cur, true) p.kind s.nextId e = some (bs, false, ids) ∧
      extend e.signed bs = val e.lane) :
    ∃ t h q, issueLoad s s.cur g true p next = t ∧ LaneIssued s t g h ∧ q.unsampled = 0 ∧
      Newest g h (putElts val p.elts ws) q := by
  subst hw
  have hall : ~~~deferred s.picks = BitVec.allOnes 64 := by rw [hd]; rfl
  obtain ⟨c, r, hread⟩ := sampleSome_reads (s := s) (g := g) (lane := true) (gid := s.cur)
    (p := { p with id := s.nextId, pc := g.ctx.lpc, unsampled := eltLanes p.elts }) val hk rfl hlanes h
  obtain ⟨os, hos⟩ := afterRead_olds s s.cur g { p with id := s.nextId, pc := g.ctx.lpc, unsampled := eltLanes p.elts }
    (readRes s g p (putElts val p.elts p.writes))
  generalize hu : ({ s with olds := os } : State) = u at hos
  obtain ⟨sw, hsw⟩ := hnext (g.setStr true (Stream.load u g.ln ⟨readRes s g p (putElts val p.elts p.writes), [], c, r⟩))
  have heq : issueLoad s s.cur g true p next = ({ u with nextId := u.nextId + 1 } : State).setGrp s.cur
      ((g.setStr true (Stream.load u g.ln ⟨readRes s g p (putElts val p.elts p.writes), [], c, r⟩)).nextL sw) := by
    rw [← hsw]
    exact issueLoad_good next hroom hres ((congrArg (sampleSome s s.cur g true · _) hall).trans hread) hos rfl
  have hlast : (Stream.load u g.ln ⟨readRes s g p (putElts val p.elts p.writes), [], c, r⟩).out.getLast? =
      some (markOvl (g.ln.out.flatMap (·.writes)) (readRes s g p (putElts val p.elts p.writes))) :=
          List.getLast?_concat ..
  generalize Stream.load u g.ln ⟨readRes s g p (putElts val p.elts p.writes), [], c, r⟩ = y at heq hlast
  have hissued : LaneIssued s (({ u with nextId := u.nextId + 1 } : State).setGrp s.cur ((g.setStr true y).nextL sw)) g
      ((g.setStr true y).nextL sw) := by
    subst hu
    exact ⟨⟨Store.find_put_self .., fun k hk => Store.find_put_ne _ _ _ hk, fun _ => rfl, rfl, rfl, rfl, rfl⟩, rfl,
        rfl, rfl⟩
  have hnewest : Newest g ((g.setStr true y).nextL sw) (putElts val p.elts p.writes)
      (markOvl (g.ln.out.flatMap (·.writes)) (readRes s g p (putElts val p.elts p.writes))) := ⟨hlast, rfl⟩
  exact ⟨_, _, _, heq, hissued, rfl, hnewest⟩

end
end Machine

namespace Machine

open Host Safety

/-! ## Bytes stored into the scratchpad (R13, R21) -/

/-- What was there last: the last of some bytes with a key, or what lay there before. -/
def lastByte (put : List (Nat × Byte)) (m : List (Nat × Byte)) (key : Nat) : Byte :=
  match (put.filter fun y => y.1 == key).getLast? with
  | some y => y.2
  | none => Store.getD 0 m key

theorem lastByte_none {put : List (Nat × Byte)} (m : List (Nat × Byte)) {key : Nat}
    (h : put.filter (fun y => y.1 == key) = []) : lastByte put m key = Store.getD 0 m key := by
  rw [lastByte, h]
  rfl

theorem lastByte_append (xs ys m m' : List (Nat × Byte)) (key : Nat) (h : Store.getD 0 m' key = lastByte xs m key) :
    lastByte (xs ++ ys) m key = lastByte ys m' key := by
  unfold lastByte at h ⊢
  rw [List.filter_append, List.getLast?_append]
  cases (ys.filter fun y => y.1 == key).getLast? with
  | none => rw [Option.none_or]; exact h.symm
  | some y => rfl

/-- Bytes put one after another. -/
theorem getD_foldl_bytes (ys : List (Nat × Byte)) {m : List (Nat × Byte)} (h : Store.wf 0 m = true) (key : Nat) :
    Store.getD 0 (ys.foldl (fun sp y => Store.putD 0 sp y.1 y.2) m) key = lastByte ys m key := by
  induction ys generalizing m with
  | nil => rfl
  | cons y ys ih =>
    have hone : Store.getD 0 (Store.putD 0 m y.1 y.2) key = lastByte [y] m key := by
      by_cases hy : y.1 = key
      · subst hy
        rw [Store.getD_putD_self h, lastByte, List.filter_cons_of_pos (by simp)]
        rfl
      · rw [Store.getD_putD_ne h _ _ (Ne.symm hy), lastByte_none m]
        exact List.filter_eq_nil_iff.2 fun z hz => by rw [List.mem_singleton.1 hz]; simpa using hy
    rw [List.foldl_cons, ih (Store.wf_putD h ..)]
    exact (lastByte_append [y] ys m _ key hone).symm

/-- Every store in flight to the scratchpad is of one writer. -/
def OwnStores (src : Nat) (s : State) : Prop := ∀ o ∈ s.olds, o.store = 1 → o.src = src

/-- The scratchpad holds these bytes over what it held before, in which every store in flight is of one writer. -/
def Holds (src : Nat) (s : State) (put : List (Nat × Byte)) (t : State) : Prop :=
  OwnStores src t ∧ Store.wf 0 t.spad = true ∧ ∀ key, Store.getD 0 t.spad key = lastByte put s.spad key

theorem Holds.refl {src : Nat} {s : State} (h : OwnStores src s) (hw : Store.wf 0 s.spad = true) : Holds src s [] s :=
  ⟨h, hw, fun _ => rfl⟩

theorem Holds.trans {src : Nat} {s t u : State} {xs ys : List (Nat × Byte)} (h : Holds src s xs t) (h' : Holds src t ys u) :
    Holds src s (xs ++ ys) u :=
  ⟨h'.1, h'.2.1, fun key => (h'.2.2 key).trans (lastByte_append _ _ _ _ key (h.2.2 key)).symm⟩

section
variable {src : Nat} {s : State}

theorem OwnStores.givesWay (h : OwnStores src s) (w : Nat) : givesWay s src stSpad w = false := by
  have hany : (s.olds.any fun o => o.store == stSpad && o.word == w && o.src != src) = false :=
    List.any_eq_false.2 fun o ho => by
      by_cases hs : o.store = stSpad
      · simp [h o ho hs]
      · simp [hs]
  rw [Machine.givesWay, hany, Bool.false_and]

theorem OwnStores.noteWord (h : OwnStores src s) (w : Nat) (now new mask : W32) :
    OwnStores src (noteWord s src stSpad w now new mask) := by
  have hover : OwnStores src (overNotes s src stSpad w new mask) := fun o ho => by
    obtain ⟨o', ho', rfl⟩ := List.mem_map.1 ho
    intro hst
    by_cases hc : (o'.store == stSpad && o'.word == w && o'.src != src) = true
    · rw [if_pos hc] at hst ⊢
      exact h o' ho' hst
    · rw [if_neg hc] at hst ⊢
      exact h o' ho' hst
  suffices hfold : ∀ (ws : List (Nat × W32)) (os : List OldWord), (∀ o ∈ os, o.store = 1 → o.src = src) →
      ∀ o ∈ ws.foldl (fun os w => if os.contains ⟨stSpad, w.1, w.2, src⟩ then os else os ++ [⟨stSpad, w.1, w.2, src⟩])
          os,
        o.store = 1 → o.src = src from hfold _ _ hover
  intro ws
  induction ws with
  | nil => exact fun _ h => h
  | cons w ws ih =>
    intro os hos
    refine ih _ fun o ho hst => ?_
    dsimp only at ho
    split at ho
    · exact hos o ho hst
    · rcases List.mem_append.1 ho with ho | ho
      · exact hos o ho hst
      · rw [List.mem_singleton.1 ho]

/-- The bytes of a list that lie in some words, each word's together, are the bytes with a key in their order. -/
theorem filter_flatMap_word (xs : List (Nat × Byte)) (key : Nat) (ws : List Nat) (hn : ws.Nodup)
    (hw : ∀ x ∈ xs, x.1 = key → key / 4 ∈ ws) :
    (ws.flatMap fun w => xs.filter fun x => x.1 / 4 == w).filter (fun y => y.1 == key) = xs.filter fun y => y.1 == key
        := by
  have hother : ∀ w, w ≠ key / 4 → (xs.filter fun x => x.1 / 4 == w).filter (fun y => y.1 == key) = [] := fun w hne =>
    List.filter_eq_nil_iff.2 fun x hx hk => by
      obtain ⟨-, hxw⟩ := List.mem_filter.1 hx
      rw [beq_iff_eq] at hxw hk
      exact hne (hxw.symm.trans (by rw [hk]))
  have hnone : ∀ vs : List Nat, key / 4 ∉ vs →
      (vs.flatMap fun w => xs.filter fun x => x.1 / 4 == w).filter (fun y => y.1 == key) = [] := fun vs hv => by
    rw [List.filter_flatMap, List.flatMap_eq_nil_iff]
    exact fun w hwv => hother w fun h => hv (h ▸ hwv)
  by_cases hmem : key / 4 ∈ ws
  · obtain ⟨p, q, rfl⟩ := List.append_of_mem hmem
    obtain ⟨-, hq, hpq⟩ := List.nodup_append.1 hn
    have hp : key / 4 ∉ p := fun h => hpq _ h _ (List.mem_cons_self ..) rfl
    have hq' : key / 4 ∉ q := (List.nodup_cons.1 hq).1
    have hself : (xs.filter fun x => x.1 / 4 == key / 4).filter (fun y => y.1 == key) = xs.filter fun y => y.1 == key
        := by
      rw [List.filter_filter]
      refine List.filter_congr fun x _ => ?_
      by_cases hx : x.1 = key
      · simp [hx]
      · simp [hx]
    rw [List.flatMap_append, List.flatMap_cons, List.filter_append, List.filter_append, hnone p hp, hnone q hq', hself,
      List.nil_append, List.append_nil]
  · rw [hnone ws hmem]
    exact (List.filter_eq_nil_iff.2 fun x hx hk => hmem (hw x hx (by simpa using hk))).symm

theorem nodup_eraseDups (xs : List Nat) : xs.eraseDups.Nodup := by
  induction h : xs.length using Nat.strong_induction_on generalizing xs with
  | _ n ih =>
    cases xs with
    | nil => simp
    | cons x xs =>
      rw [List.eraseDups_cons, List.nodup_cons]
      refine ⟨fun hx => ?_, ih _ ?_ _ rfl⟩
      · have := List.mem_eraseDups.1 hx
        simp at this
      · subst h
        exact Nat.lt_succ_of_le (List.length_filter_le ..)

/-- The bytes that a writer stores are there, where no other writer's store is in flight. -/
theorem spadPutAt_holds (xs : List (Nat × Byte)) (h : OwnStores src s) (hw : Store.wf 0 s.spad = true) :
    Holds src s xs (spadPutAt s src xs) := by
  have hstep : ∀ (ws : List Nat) (u : State) (put : List (Nat × Byte)), Holds src s put u →
      Holds src s (put ++ ws.flatMap fun w => xs.filter fun x => x.1 / 4 == w)
        (ws.foldl (fun s w =>
          if givesWay s src stSpad w then s
          else
            let now := spadWord s w
            let ys := xs.filter fun x => x.1 / 4 == w
            let s := { s with spad := ys.foldl (fun sp y => Store.putD 0 sp y.1 y.2) s.spad }
            noteWord s src stSpad w now (spadWord s w) (wordMask (ys.map (·.1)) w)) u) := by
    intro ws
    induction ws with
    | nil => exact fun u put hu => (List.append_nil put).symm ▸ hu
    | cons w ws ih =>
      intro u put hu
      rw [List.foldl_cons, List.flatMap_cons, ← List.append_assoc, if_neg (by simp [hu.1.givesWay w])]
      refine ih _ _ (hu.trans ⟨OwnStores.noteWord ?_ _ _ _ _, ?_, fun key => getD_foldl_bytes _ hu.2.1 key⟩)
      · exact hu.1
      · exact Store.wf_foldl_putD hu.2.1 _ _ _
  obtain ⟨hown, hwf, hread⟩ := hstep ((xs.map fun x => x.1 / 4).eraseDups) s [] (Holds.refl h hw)
  refine ⟨hown, hwf, fun key => (hread key).trans ?_⟩
  rw [List.nil_append, lastByte, filter_flatMap_word xs key _ (nodup_eraseDups _)]
  · rfl
  · exact fun x hx hk => List.mem_eraseDups.2 (List.mem_map.2 ⟨x, hx, by rw [hk]⟩)

/-- R13: the same of elements of the team's scratchpad, in their order. -/
theorem foldl_spadPut_holds (k : KDesc) (tm : Team) (xs : List (Nat × List Byte)) (h : OwnStores src s)
    (hw : Store.wf 0 s.spad = true) :
    Holds src s (xs.flatMap fun x => x.2.mapIdx fun i b => (spadKey k tm (x.1 + i), b))
      (xs.foldl (fun s x => spadPut s src k tm x.1 x.2) s) := by
  induction xs generalizing s with
  | nil => exact Holds.refl h hw
  | cons x xs ih =>
    have hx : Holds src s _ (spadPut s src k tm x.1 x.2) := spadPutAt_holds _ h hw
    exact hx.trans (ih hx.1 hx.2.1)

theorem spadWrite_spad (k : KDesc) (tm : Team) (x : Nat) (bs : List Byte) :
    (spadWrite s k tm x bs).spad =
      (bs.mapIdx fun i b => (spadKey k tm (x + i), b)).foldl (fun sp y => Store.putD 0 sp y.1 y.2) s.spad := by
  have hfold : ∀ (bs : List Byte) (m : List (Nat × Byte)) (x : Nat),
      (bs.foldl (fun (e : List (Nat × Byte) × Nat) b => (Store.putD 0 e.1 (spadKey k tm e.2) b, e.2 + 1)) (m, x)).1 =
        (bs.mapIdx fun i b => (spadKey k tm (x + i), b)).foldl (fun sp y => Store.putD 0 sp y.1 y.2) m := by
    intro bs
    induction bs with
    | nil => exact fun _ _ => rfl
    | cons b bs ih =>
      intro m x
      rw [List.foldl_cons, List.mapIdx_cons, List.foldl_cons, ih]
      simp only [Nat.add_zero, Nat.add_assoc, Nat.add_comm 1]
  exact hfold bs s.spad x

end

/-- R13, R158: what the scratchpad holds after stores. -/
theorem scratchpadBytes : Claims.ScratchpadBytes := by
  intro s gid k tm xs hw put reads
  refine ⟨fun hown => ?_, fun x bs hxs key => ?_⟩
  · exact (foldl_spadPut_holds (src := spadSrc gid) (s := s.updGrp gid fun g =>
      { g with ln := { g.ln with out := g.ln.out.map (readFirst s gid g k tm xs) } }) k tm xs hown hw).2.2
  · subst hxs
    rw [spadWrite_spad]
    exact (getD_foldl_bytes _ hw key).trans (congrArg (lastByte · s.spad key) (List.append_nil _).symm)

end Machine

namespace Machine

open Host Safety

/-! ## LDS and STS (R158) -/

section
variable {s : State} {g : Group} {key : Nat} {tm : Team} {m : Mods} {regs : List Nat} {n : BitVec 4} {b : OpC}
  {off : BitVec 32}

/-- The lowest lane whose element ends beyond the scratchpad quota. -/
theorem beyondSpad_some {d : KDesc} {e : Nat} {xs : List (Nat × Nat)} {x : Nat × Nat} (hx : x ∈ xs)
    (hsorted : (xs.map (·.1)).Pairwise (· < ·)) (hout : d.spq < x.2 + e)
    (hlow : ∀ y ∈ xs, y.1 < x.1 → y.2 + e ≤ d.spq) : beyondSpad d e xs = some x.1 := by
  obtain ⟨p, q, rfl⟩ := List.append_of_mem hx
  have hp : ∀ y ∈ p, ¬ decide (d.spq < y.2 + e) = true := fun y hy => by
    rw [List.map_append, List.map_cons] at hsorted
    have hlt : y.1 < x.1 :=
      (List.pairwise_append.1 hsorted).2.2 _ (List.mem_map_of_mem hy) _ (List.mem_cons_self ..)
    simpa using hlow y (List.mem_append_left _ hy) hlt
  rw [beyondSpad, List.find?_append, List.find?_eq_none.2 hp, Option.none_or, List.find?_cons_of_pos (by simpa using
      hout)]
  rfl

theorem beyondSpad_none {d : KDesc} {e : Nat} {xs : List (Nat × Nat)} (h : ∀ x ∈ xs, x.2 + e ≤ d.spq) :
    beyondSpad d e xs = none := by
  rw [beyondSpad, Option.map_eq_none_iff, List.find?_eq_none]
  exact fun x hx => by simpa using h x hx

/-- The lanes of accesses ascend. -/
theorem accesses_lanes (at_ : Nat → Option Nat) :
    (accesses s g m at_).map (·.1) = (effLanes s g m).filter fun l => (at_ l).isSome := by
  unfold accesses
  induction effLanes s g m with
  | nil => rfl
  | cons l ls ih => cases h : at_ l <;> simp [h, ih]

theorem accesses_sorted (at_ : Nat → Option Nat) : ((accesses s g m at_).map (·.1)).Pairwise (· < ·) := by
  rw [accesses_lanes]
  exact effLanes_sorted.filter _

theorem accesses_lane_lt {at_ : Nat → Option Nat} {e : Nat × Nat} (he : e ∈ accesses s g m at_) : e.1 < 64 := by
  have hm : e.1 ∈ (effLanes s g m).filter fun l => (at_ l).isSome := accesses_lanes (s := s) (g := g) (m := m) at_ ▸
    List.mem_map_of_mem he
  exact List.mem_range.1 (List.mem_filter.1 (List.mem_filter.1 hm).1).1

theorem accesses_address {at_ : Nat → Option Nat} {e : Nat × Nat} (he : e ∈ accesses s g m at_) : at_ e.1 = some e.2 := by
  obtain ⟨l, -, hl⟩ := List.mem_filterMap.1 he
  obtain ⟨va, hva, rfl⟩ := Option.map_eq_some_iff.1 hl
  exact hva

theorem spadAccess_role (k : Team → LAccess → State) (hk : g.tkey = none) :
    spadAccess s s.cur g m regs n b off k = raiseL s s.cur g .role 3 := by
  have htid : g.tid = none := Option.map_eq_none_iff.1 hk
  unfold spadAccess inTeam
  rw [hk]
  have hinfo : roleInfo g = 3 := by simp [roleInfo, Group.spawned, htid]
  rw [hinfo]
  rfl

theorem spadAccess_ready (k : Team → LAccess → State) (hk : g.tkey = some key) (ht : s.team key = some tm)
    (hr : LaneReady s g m regs n b off)
    (hin : ∀ e ∈ accesses s g m (laneAddress s g n b off), e.2 + aEsz (aLane g n) ≤ (s.desc g).spq) :
    spadAccess s s.cur g m regs n b off k = k tm (laneAcc s g m n b off) := by
  unfold spadAccess inTeam
  rw [hk]
  dsimp only
  rw [ht]
  dsimp only
  rw [laneAccess_ready hr, laneAcc_accessing, beyondSpad_none (e := aEsz (laneAcc s g m n b off).arr) hin]

theorem spadAccess_beyond (k : Team → LAccess → State) (hk : g.tkey = some key) (ht : s.team key = some tm)
    (hr : LaneReady s g m regs n b off) {e : Nat × Nat} (he : e ∈ accesses s g m (laneAddress s g n b off))
    (hout : (s.desc g).spq < e.2 + aEsz (aLane g n))
    (hlow : ∀ f ∈ accesses s g m (laneAddress s g n b off), f.1 < e.1 → f.2 + aEsz (aLane g n) ≤ (s.desc g).spq) :
    spadAccess s s.cur g m regs n b off k =
      raiseL s s.cur g .bounds (BitVec.ofNat 32 (2 ^ 16 + n.toNat * 256 + e.1)) := by
  unfold spadAccess inTeam
  rw [hk]
  dsimp only
  rw [ht]
  dsimp only
  rw [laneAccess_ready hr, laneAcc_accessing,
    beyondSpad_some (e := aEsz (laneAcc s g m n b off).arr) he (accesses_sorted _) hout hlow]
  rfl

theorem laneReady_mono {regs' : List Nat} (h : LaneReady s g m regs n b off) (hsub : ∀ r ∈ regs', r ∈ regs) :
    LaneReady s g m regs' n b off := by
  obtain ⟨hq, hrest⟩ := h
  refine ⟨fun r hr => hq r ?_, hrest⟩
  rcases List.mem_append.1 hr with hr | hr
  · exact List.mem_append_left _ (hsub r hr)
  · exact List.mem_append_right _ hr

/-- The flag write of a lane access has no element. -/
theorem obFlags_setLane (at_ : Nat → Option Nat) : ∀ w ∈ obFlags s g m at_, ∀ l x, w.setLane l x = w := by
  intro w hw l x
  unfold obFlags at hw
  dsimp only at hw
  split at hw
  · exact absurd hw List.not_mem_nil
  · rw [List.mem_singleton.1 hw]
    rfl

theorem laneAcc_eff_ne_zero (h : effLanes s g m ≠ []) : ¬ ((laneAcc s g m n b off).eff == 0) = true := by
  intro h0
  rw [beq_iff_eq] at h0
  exact h ((lanesOf_eq_nil_iff _).2 h0)

theorem obWrite_issue {at_ : Nat → Option Nat} (hroom : g.ln.full = false) (sw : Bool) :
    issueL s s.cur g (obFlags s g m at_) sw =
      if obFlags s g m at_ = [] then laneOn s g (g.ctx.lpc + 12) sw else laneAfter s g (obFlags s g m at_) sw := by
  by_cases h : obFlags s g m at_ = []
  · rw [if_pos h, h]
    rfl
  · rw [if_neg h, issueL_room sw h hroom]

theorem spadPutAt_mem (s : State) (src : Nat) (xs : List (Nat × Byte)) : (spadPutAt s src xs).mem = s.mem := by
  unfold spadPutAt
  induction (xs.map fun x => x.1 / 4).eraseDups generalizing s with
  | nil => rfl
  | cons w ws ih =>
    rw [List.foldl_cons, ih]
    split <;> rfl

theorem spadStore_mem (s : State) (gid : Nat) (d : KDesc) (t : Team) (xs : List (Nat × List Byte)) :
    (spadStore s gid d t xs).mem = s.mem := by
  have hfold : ∀ u : State, (xs.foldl (fun s x => spadPut s (spadSrc gid) d t x.1 x.2) u).mem = u.mem := by
    induction xs with
    | nil => exact fun _ => rfl
    | cons x xs ih => exact fun u => (ih _).trans (spadPutAt_mem u _ _)
  exact hfold _

/-- A load of the lanes of a word, all of which can be read, writes their values, and its flags. -/
theorem issueLoad_lanes {p : Pending} {xs : List (Nat × Nat)} {ty : Ty} {d : BitVec 8} {eff : Mask} {fs : List PWrite}
    (val : Nat → Nat) (next : Bool → Group → Group) (hk : p.kind.byElement)
    (hw : p.writes = wV g ty d eff .top (fun _ => 0) ++ fs)
    (he : p.elts = xs.map fun e => (⟨e.1, e.2, ty.size, ty.signed⟩ : LoadElt))
    (hfs : ∀ w ∈ fs, ∀ l x, w.setLane l x = w) (hroom : g.ln.full = false) (hd : deferred s.picks = 0)
    (hres : resolveElts s p.kind p.elts = s) (hlanes : ∀ e ∈ xs, e.1 < 64) (hnext : ∀ h, ∃ sw, next false h = h.nextL
        sw)
    (h : ∀ e ∈ xs, ∃ bs ids, readElt s (coreOf s.cur) (s.cur, true) p.kind s.nextId ⟨e.1, e.2, ty.size, ty.signed⟩ =
      some (bs, false, ids) ∧ extend ty.signed bs = val e.1) :
    ∃ t h q, issueLoad s s.cur g true p next = t ∧ LaneIssued s t g h ∧ q.unsampled = 0 ∧
      Newest g h (laneWrites g ty d eff .top (fun l => if xs.any (·.1 == l) then val l else 0) ++ fs) q := by
  have hmem : ∀ e ∈ p.elts, ∃ x ∈ xs, e = ⟨x.1, x.2, ty.size, ty.signed⟩ := fun e h => by
    rw [he] at h
    obtain ⟨x, hx, rfl⟩ := List.mem_map.1 h
    exact ⟨x, hx, rfl⟩
  obtain ⟨t, h', q, heq, hissued, hread, hnew⟩ := issueLoad_reads (s := s) (g := g) val next hk hw hroom hd hres
    (fun e he => by
      obtain ⟨x, hx, rfl⟩ := hmem e he
      exact hlanes x hx) hnext
    (fun e he => by
      obtain ⟨x, hx, rfl⟩ := hmem e he
      exact h x hx)
  refine ⟨t, h', q, heq, hissued, hread, ?_⟩
  have hany : ∀ l, p.elts.any (·.lane == l) = xs.any (·.1 == l) := fun l => by
    rw [he, List.any_map]
    rfl
  rw [putElts_wV _ _ _ _ _ _ _ hfs, wV_eq_laneWrites] at hnew
  simp only [hany] at hnew
  exact hnew

end

/-- The element of the scratchpad that LDS reads for a lane, extended by its type. -/
def spadValue (s : State) (k : KDesc) (tm : Team) (ty : Ty) (at_ : Nat → Option Nat) (l : Nat) : Nat :=
  match at_ l with
  | some x => extend ty.signed (spadBytes s (spadSrc s.cur) k tm x ty.size)
  | none => 0

/-- R158: the role, the quota, what LDS reads and STS writes. -/
theorem scratchpadAccesses : Claims.ScratchpadAccesses := by
  intro s g key tm m ty d c n b off hg h8 heven at_ xs k ob
  have hlds : exec (.lds m ty d n b off) s = .next (spadAccess s s.cur g m (vRegs ty d) n b off fun _ x =>
      if g.ln.blocked s || g.ln.full then s
      else if x.eff == 0 then s.setGrp s.cur (g.nextL m.sw)
      else
        let ws := wV g ty d x.eff .top (fun _ => 0) ++ obWrite m.nf g.width (offending x.spots)
        let es := (accessing x.spots).map fun e => (⟨e.1, e.2, ty.size, ty.signed⟩ : LoadElt)
        issueLoad s s.cur g true { plainPending 0 0 ws with kind := .scratch, elts := es, eff := x.eff }
          (fun _ g => g.nextL m.sw)) := by
    change execLds m ty d n b off s = _
    rw [execLds, withCur_next hg]
  have hsts : exec (.sts m ty n b c off) s = .next (spadAccess s s.cur g m (vRegs ty c) n b off fun t x =>
      if g.ln.blocked s || g.ln.held s || g.ln.full then s
      else
        let xs := (accessing x.spots).map fun e => (e.2, leBytes ty.size (vVal s s.cur g ty c e.1))
        spadStore (issueL s s.cur g (obWrite m.nf g.width (offending x.spots)) m.sw) s.cur (s.desc g) t xs) := by
    change execSts m ty n b c off s = _
    rw [execSts, withCur_next hg]
  refine ⟨fun hk => ⟨hlds.trans (congrArg Outcome.next (spadAccess_role _ hk)),
    hsts.trans (congrArg Outcome.next (spadAccess_role _ hk))⟩, fun hk ht => ⟨fun hr e he hout hlow => ?_, fun hin =>
        ⟨?_, ?_⟩⟩⟩
  · exact ⟨hlds.trans (congrArg Outcome.next (spadAccess_beyond _ hk ht
        (laneReady_mono hr fun r hr => List.mem_append_left _ hr) he hout hlow)),
      hsts.trans (congrArg Outcome.next (spadAccess_beyond _ hk ht
        (laneReady_mono hr fun r hr => List.mem_append_right _ hr) he hout hlow))⟩
  · intro hr hne hd
    obtain ⟨-, -, -, hroom, hblocked, hwidth⟩ := id hr
    rw [hlds, spadAccess_ready _ hk ht hr hin, if_neg (by simp [hroom, hblocked]), if_neg (laneAcc_eff_ne_zero hne)]
    dsimp only
    rw [laneAcc_accessing, laneAcc_flags hwidth]
    have hdesc : descTeam s s.cur = some (k, tm) := by
      unfold descTeam
      rw [hg]
      change (g.tkey.bind s.team).map _ = _
      rw [hk]
      change (s.team key).map _ = _
      rw [ht]
      rfl
    obtain ⟨t, h, q, heq, hissued, hread, hnew⟩ := issueLoad_lanes (s := s) (g := g) (xs := xs) (p := { plainPending 0 0
        (wV g ty d (laneAcc s g m n b off).eff .top (fun _ => 0) ++ obFlags s g m (laneAddress s g n b off)) with
        kind := .scratch, elts := xs.map fun e => (⟨e.1, e.2, ty.size, ty.signed⟩ : LoadElt), eff := (laneAcc s g m n b off).eff })
      (spadValue s k tm ty at_) (fun _ g => g.nextL m.sw) (.inr (.inr rfl)) rfl rfl (obFlags_setLane _) hroom hd rfl
      (fun e he => accesses_lane_lt he) (fun h => ⟨m.sw, rfl⟩)
      (fun e he => ⟨spadBytes s (spadSrc s.cur) k tm e.2 ty.size, [], congrArg (Option.map _) hdesc, by
        simp only [spadValue, at_, accesses_address he]⟩)
    refine ⟨t, h, q, congrArg Outcome.next heq, hissued, hread, ?_⟩
    have hval : (fun l => if xs.any (·.1 == l) then spadValue s k tm ty at_ l else 0) =
        fun l => match at_ l with
          | some x => if xs.any (·.1 == l) then extend ty.signed (spadBytes s (spadSrc s.cur) k tm x ty.size) else 0
          | none => 0 := by
      funext l
      cases hat : at_ l with
      | none => simp [spadValue, hat]
      | some x => simp [spadValue, hat]
    exact (congrArg (fun f => Newest g h (laneWrites g ty d (effMask s.picks g m) .top f ++ ob) q) hval).mp hnew
  · intro hr hheld
    obtain ⟨-, -, -, hroom, hblocked, hwidth⟩ := id hr
    refine ⟨?_, fun a => ?_⟩
    · rw [hsts, spadAccess_ready _ hk ht hr hin, if_neg (by simp [hroom, hblocked, hheld])]
      dsimp only
      rw [laneAcc_accessing, laneAcc_flags hwidth, obWrite_issue hroom]
    · have hmem : ∀ u : State, u.mem = s.mem → (spadStore u s.cur k tm
          (xs.map fun e => (e.2, leBytes ty.size (vVal s s.cur g ty c e.1)))).mem = s.mem := fun u hu =>
        (spadStore_mem u ..).trans hu
      refine congrArg (fun mem => Store.getD unlisted mem a) (hmem _ ?_)
      split <;> rfl

/-- Settles O9: what the scratchpad words do, and what the scratchpad holds after stores. -/
theorem scratchpadWords : Obligations.ScratchpadWords := ⟨scratchpadAccesses, scratchpadBytes⟩

end Machine

namespace Machine

open Host Safety

/-! ## What a settled machine's lookups change (R153, R221, R241)

No reading of HBM meets an error and no line has a lost owner: asking for lines, and looking translations up, then
    leave the
lines themselves alone. -/

/-- Lines have been asked for, and L1 copies, translations and counts have changed; nothing else has. -/
def Asks (s t : State) : Prop :=
  t = { s with tlb := t.tlb, snoops := t.snoops, sent := t.sent, waits := t.waits, expiry := t.expiry, l1 := t.l1,
               counts := t.counts }

theorem Asks.refl (s : State) : Asks s s := rfl

theorem Asks.trans {s t u : State} (h : Asks s t) (h' : Asks t u) : Asks s u := by
  unfold Asks at *
  rw [h'] at *
  rw [h]

section
variable {s t : State}

theorem Asks.settled (h : Asks s t) (hs : Settled s) : Settled t := by
  rw [h]
  exact hs

theorem Asks.noSentWrites (h : Asks s t) (hs : NoSentWrites s) : NoSentWrites t := by
  rw [h]
  exact hs

theorem Asks.homeLineNow (h : Asks s t) (line : Nat) : homeLineNow t line = homeLineNow s line := by
  rw [h]
  rfl

theorem Asks.stillWaits (h : Asks s t) (line id : Nat) : stillWaits t line id = stillWaits s line id := by
  rw [h]
  rfl

theorem Asks.srcRead (h : Asks s t) (pa n : Nat) (src : LineSrc) : srcRead t pa n src = srcRead s pa n src := by
  rw [h]
  rfl

theorem Asks.foldl {α : Type} {f : State → α → State} (hf : ∀ u x, Settled u → Asks u (f u x)) (hs : Settled s) (xs : List α) :
    Asks s (xs.foldl f s) := by
  induction xs generalizing s with
  | nil => exact .refl s
  | cons x xs ih => exact (hf s x hs).trans (ih ((hf s x hs).settled hs))

theorem resolve_settled (hs : Settled s) (line : Nat) : resolve s line = s := by
  obtain ⟨hchan, hpick, hlost⟩ := hs
  have hhit : mediaHit s line = s := by
    unfold mediaHit
    rw [if_pos (by rw [hpick]; rfl)]
  have hread : mediaRead s line = s := by
    unfold mediaRead
    split
    · exact hhit
    · exact hhit
    · exact hhit
    · exact hhit
    · rfl
  have hgone : channelGone s line = s := by
    unfold channelGone
    rw [if_neg (by simp [hchan])]
  have hkept : lineState s line = .exclusive ∨ lineState s line = .owned ∨ lineState s line = .modified →
      ((agent s (elyOwner (elyRaw s line))).down || (agent s (elyOwner (elyRaw s line))).inc != elyInc (elyRaw s
          line)) = false :=
    fun h => by
      obtain ⟨hdown, hinc⟩ := hlost line h
      rw [hdown, hinc]
      simp
  unfold resolve
  split
  · rfl
  · rw [hread, hgone]
    dsimp only
    split
    · next hl =>
      rw [hkept (.inl hl)]
      rfl
    · next hl =>
      rw [hkept (.inr (.inl hl))]
      rfl
    · next hl =>
      rw [hkept (.inr (.inr hl))]
      rfl
    · rfl

theorem foldl_resolve_settled {α : Type} (key : α → Nat) (hs : Settled s) (xs : List α) :
    xs.foldl (fun s x => resolve s (key x)) s = s := by
  induction xs with
  | nil => rfl
  | cons x xs ih => rw [List.foldl_cons, resolve_settled hs, ih]

theorem keepTr_asks (hs : Settled s) (die asp va : Nat) : Asks s (keepTr s die asp va) := by
  have hwalk : resolveWalk s asp va = s := by
    unfold resolveWalk
    split
    · rfl
    · exact foldl_resolve_settled id hs _
  unfold keepTr
  split
  · rfl
  · rw [hwalk]
    dsimp only
    split
    · rfl
    · split <;> rfl

theorem keepTrs_asks (hs : Settled s) (die asp : Nat) (vas : List Nat) : Asks s (keepTrs s die asp vas) :=
  Asks.foldl (fun _ va hu => keepTr_asks hu die asp va) hs vas

theorem snoop_asks (line a : Nat) (inv keep : Bool) (m : Msg) : Asks s (snoop s line a inv keep m) := by
  unfold snoop
  split <;> rfl

theorem askRead_asks (hs : Settled s) (line : Nat) : Asks s (askRead s line) := by
  unfold askRead
  rw [resolve_settled hs]
  dsimp only
  split
  · rfl
  · split
    · split
      · rfl
      · split
        · exact snoop_asks ..
        · exact snoop_asks ..
        · exact snoop_asks ..
        · rfl
    · exact snoop_asks ..
    · exact snoop_asks ..
    · rfl

theorem arriveAt_asks (line id : Nat) : Asks s (arriveAt s line id) := by
  unfold arriveAt
  split <;> rfl

theorem fillL1_asks (core line : Nat) : Asks s (fillL1 s core line) := by
  unfold fillL1
  dsimp only
  split <;> rfl

theorem askFill_asks (hs : Settled s) (core line : Nat) : Asks s (askFill s core line) := by
  unfold askFill
  dsimp only
  rw [resolve_settled hs]
  split
  · rfl
  · split
    · exact fillL1_asks ..
    · exact (askRead_asks hs line).trans (arriveAt_asks ..)

theorem reserve_asks (hs : Settled s) (core asp : Nat) (b : Nat × Nat) : Asks s (reserve s core asp b) := by
  unfold reserve
  have hkeep : Asks s (if 64 < footLines b then s
      else keepTrs s (dieOf core) asp ((List.range (footLines b)).map fun i => 128 * (b.1 / 128 + i))) := by
    split
    · rfl
    · exact keepTrs_asks hs ..
  dsimp only
  generalize (if 64 < footLines b then s
      else keepTrs s (dieOf core) asp ((List.range (footLines b)).map fun i => 128 * (b.1 / 128 + i))) = u at hkeep
  have hwalks := hkeep.trans
    (Asks.foldl (fun _ line hu => askRead_asks hu line) (hkeep.settled hs) (footWalks u core asp b))
  exact hwalks.trans (Asks.foldl (fun _ l hu => askFill_asks hu core l) (hwalks.settled hs) _)

theorem reserveFoot_asks (hs : Settled s) (core asp : Nat) (foot : Option (Nat × Nat)) :
    Asks s (reserveFoot s core asp foot) := by
  cases foot with
  | none => rfl
  | some b => exact reserve_asks hs core asp b

/-! ### Readable lines stay so while others are filled -/

/-- The same, and nothing has joined the orders of arrival. -/
def Fills (s t : State) : Prop := Asks s t ∧ ∀ w ∈ t.waits, w ∈ s.waits

theorem Fills.refl (s : State) : Fills s s := ⟨rfl, fun _ h => h⟩

theorem Fills.trans {u : State} (h : Fills s t) (h' : Fills t u) : Fills s u := ⟨h.1.trans h'.1, fun w hw => h.2 w (h'.2 w hw)⟩

/-- What a local read finds at a home it finds there still. -/
theorem Fills.homeRead (h : Fills s t) {pa n : Nat} {x : List Byte × Bool} (hx : homeRead s pa n = some x) :
    homeRead t pa n = some x := by
  obtain ⟨hasks, hwaits⟩ := h
  unfold Machine.homeRead homeLine at hx ⊢
  cases hf : firstWaiting s (pa / 128) with
  | some i => simp [hf] at hx
  | none =>
    have hft : firstWaiting t (pa / 128) = none := by
      unfold firstWaiting at hf ⊢
      rw [Option.map_eq_none_iff, List.find?_eq_none] at hf ⊢
      intro w hw
      rw [hasks.stillWaits]
      exact hf w (hwaits w hw)
    simp only [hf, hft, Option.isSome_none, Bool.false_eq_true, if_false, hasks.homeLineNow] at hx ⊢
    obtain ⟨src, hsrc, rfl⟩ := Option.map_eq_some_iff.1 hx
    rw [hsrc, Option.map_some, hasks.srcRead]

theorem countLines_fills (die pa n : Nat) : Fills s (countLines s die pa n) := by
  unfold countLines
  split
  · exact .refl s
  · exact ⟨rfl, fun _ h => h⟩

theorem Fills.foldl {α : Type} {f : State → α → State} (hf : ∀ u x, Fills u (f u x)) (xs : List α) : Fills s (xs.foldl f s) := by
  induction xs generalizing s with
  | nil => exact .refl s
  | cons x xs ih => exact (hf s x).trans (ih)

theorem countFoot_fills (die asp : Nat) (acc : Acc) (b : Nat × Nat) : Fills s (countFoot s die asp acc b) :=
  Fills.foldl (fun u i => by
    dsimp only
    split
    · exact countLines_fills ..
    · exact .refl u) _

theorem countAccess_fills (core asp : Nat) (acc : Acc) (foot : Option (Nat × Nat)) (ps : List (Nat × Nat × TlbEntry)) :
    Fills s (countAccess s core asp acc foot ps) := by
  unfold countAccess
  split
  · exact .refl s
  · split
    · exact countFoot_fills ..
    · exact Fills.foldl (fun u l => countLines_fills ..) _

/-- A line that can be read is filled at once. -/
theorem askFill_fills (hs : Settled s) (core : Nat) {pa n : Nat} {x : List Byte × Bool} (hx : Machine.homeRead s pa n = some x) :
    Fills s (askFill s core (pa / 128)) := by
  have hleave : Fills s (leaveLine s (pa / 128) (Writer.id (.fill core))) :=
    ⟨rfl, fun w hw => (List.mem_filter.1 hw).1⟩
  unfold askFill
  dsimp only
  rw [resolve_settled hs]
  split
  · exact hleave
  · have hserve : ((homeLineNow s (pa / 128)).isSome && mayServe s (pa / 128) (Writer.id (.fill core))) = true := by
      unfold Machine.homeRead homeLine at hx
      cases hf : firstWaiting s (pa / 128) with
      | some i => simp [hf] at hx
      | none =>
        simp only [hf, Option.isSome_none, Bool.false_eq_true, if_false] at hx
        obtain ⟨src, hsrc, -⟩ := Option.map_eq_some_iff.1 hx
        simp [hsrc, mayServe, hf]
    rw [if_pos hserve]
    unfold fillL1
    dsimp only
    split
    · exact .refl s
    · exact hleave.trans ⟨rfl, fun w hw => hw⟩

theorem fillLines_fills (hs : Settled s) (core : Nat) {ps : List (Nat × Nat × TlbEntry)} {n : Nat}
    (hx : ∀ p ∈ ps, ∃ x, Machine.homeRead s p.2.1 n = some x) : Fills s (fillLines s core ps) := by
  have hlines : ∀ l ∈ linesOf ps, ∃ pa x, l = pa / 128 ∧ Machine.homeRead s pa n = some x := fun l hl => by
    obtain ⟨p, hp, rfl⟩ := List.mem_map.1 (List.mem_eraseDups.1 hl)
    obtain ⟨x, hx⟩ := hx p hp
    exact ⟨p.2.1, x, rfl, hx⟩
  unfold fillLines
  clear hx
  generalize linesOf ps = ls at hlines ⊢
  induction ls generalizing s with
  | nil => exact .refl s
  | cons l ls ih =>
    obtain ⟨pa, x, rfl, hx⟩ := hlines l (List.mem_cons_self ..)
    have hone := askFill_fills hs core hx
    refine hone.trans (ih (hone.1.settled hs) fun l hl => ?_)
    obtain ⟨pa', x', rfl, hx'⟩ := hlines l (List.mem_cons_of_mem _ hl)
    exact ⟨pa', x', rfl, hone.homeRead hx'⟩

/-- A core that has sent no write that is not performed reads what the home gives. -/
theorem plainRead_ok {core pa n : Nat} {bs : List Byte} {bad : Bool} (src : Nat × Bool) (before lane : Nat)
    (h : Machine.homeRead s pa n = some (bs, bad)) (hw : ∀ r ∈ s.reqs, r.2.core ≠ some core) :
    plainRead s core src before lane pa n = some (bs, bad, []) := by
  have hnone : coreWrites s core pa n = [] := List.filter_eq_nil_iff.2 fun r hr => by simp [hw r hr]
  obtain ⟨hfor, hnow⟩ := homeRead_some h (Writer.id (.fill core))
  have hbase : (if hasL1 s core (pa / 128) then homeReadNow s pa n else homeReadFor s (Writer.id (.fill core)) pa n) =
      some (bs, bad) := by
    split
    · exact hnow
    · exact hfor
  unfold plainRead ownUnsent sentWrites
  rw [hnone]
  simp only [List.filter_nil, List.any_nil, Bool.or_false, Bool.false_eq_true, if_false, lastOver, List.foldl_nil,
      hbase]
  rfl

end
end Machine

namespace Machine

open Host Safety

/-! ## LD (R149 to R153, R157) -/

section
variable {s : State} {g : Group} {m : Mods} {ty : Ty} {acq : Option Scope} {d : BitVec 8} {n : BitVec 4} {b : OpC}
  {off : BitVec 32}

/-- LD.ACQ at PAIR or wider reads at the point of coherence (R163). -/
def wideAcq (acq : Option Scope) : Bool :=
  match acq with
  | some sc => Scope.wide sc
  | none => false

/-- A load of the lanes once its lines are there. -/
def ldIssue (s : State) (g : Group) (m : Mods) (ty : Ty) (acq : Option Scope) (d : BitVec 8) (x : LAccess)
    (ps : List (Nat × Nat × TlbEntry)) (asp : Nat) (u : State) : State :=
  let u := countAccess u (coreOf s.cur) asp .read x.foot ps
  let u := if wideAcq acq then u else fillLines u (coreOf s.cur) ps
  issueLoad u s.cur g true
    { plainPending 0 0 (wV g ty d x.eff .top (fun _ => 0) ++ obWrite m.nf g.width (offending x.spots)) with
      kind := if wideAcq acq then .homeLoad else .load, elts := loadElts ty ps, eff := x.eff, acq := acq }
    (fun hot g => g.nextL (m.sw || hot))

/-- It reserves its footprint first (R153). -/
def ldGo (s : State) (g : Group) (m : Mods) (ty : Ty) (acq : Option Scope) (d : BitVec 8) (x : LAccess)
    (foot : Option (Nat × Nat)) (ps : List (Nat × Nat × TlbEntry)) (t : State) (asp : Nat) : State :=
  let u := reserveFoot t (coreOf s.cur) asp foot
  if footWaits u (coreOf s.cur) asp foot then u else ldIssue s g m ty acq d x ps asp u

/-- Of the machine, what tells the address space of the stream that issues. -/
def issuer (s : State) : List (Nat × Launch) × Nat := (s.launches, s.cur)

theorem Asks.issuer {t : State} (h : Asks s t) : issuer t = issuer s := by
  rw [h]
  rfl

theorem resolve_issuer (s : State) (line : Nat) : issuer (resolve s line) = issuer s :=
  (congrArg issuer (offMem_resolve s line) :)

theorem askRead_issuer (s : State) (line : Nat) : issuer (askRead s line) = issuer s := by
  refine Eq.trans ?_ (resolve_issuer s line)
  unfold askRead
  dsimp only
  generalize resolve s line = u
  split
  · rfl
  · split
    · split
      · rfl
      · split
        · exact (snoop_asks ..).issuer
        · exact (snoop_asks ..).issuer
        · exact (snoop_asks ..).issuer
        · rfl
    · exact (snoop_asks ..).issuer
    · exact (snoop_asks ..).issuer
    · rfl

theorem askFill_issuer (s : State) (core line : Nat) : issuer (askFill s core line) = issuer s := by
  unfold askFill
  dsimp only
  split
  · rfl
  · split
    · exact (fillL1_asks core line).issuer.trans (resolve_issuer s line)
    · exact (arriveAt_asks line _).issuer.trans ((askRead_issuer _ line).trans (resolve_issuer s line))

theorem foldl_issuer {α : Type} {f : State → α → State} (hf : ∀ u x, issuer (f u x) = issuer u) (xs : List α)
    (s : State) : issuer (xs.foldl f s) = issuer s := by
  induction xs generalizing s with
  | nil => rfl
  | cons x xs ih => exact (ih _).trans (hf s x)

theorem keepTrs_issuer (s : State) (die asp : Nat) (vas : List Nat) : issuer (keepTrs s die asp vas) = issuer s := by
  obtain ⟨tlb, h⟩ := offMem_keepTrs die asp vas s
  exact (congrArg issuer h :)

theorem reserveFoot_issuer (s : State) (core asp : Nat) (foot : Option (Nat × Nat)) :
    issuer (reserveFoot s core asp foot) = issuer s := by
  cases foot with
  | none => rfl
  | some b =>
    refine (foldl_issuer (fun u l => askFill_issuer u core l) _ _).trans ((foldl_issuer askRead_issuer _ _).trans ?_)
    split
    · rfl
    · exact keepTrs_issuer ..

theorem aspOf_congr {u : State} (h : issuer u = issuer s) (g : Group) : aspOf u g = aspOf s g := by
  have hl : u.launches = s.launches := congrArg Prod.fst h
  unfold aspOf State.launch
  rw [hl]

theorem setGrp_nextL {u : State} (h : u.cur = s.cur) (sw : Bool) :
    u.setGrp s.cur (g.nextL sw) = laneOn u g (g.ctx.lpc + 12) sw := by
  rw [← h]
  rfl

theorem exec_ld (hg : Issues s g) :
    exec (.ld m ty acq d n b off) s = .next (laneAccess s s.cur g m (vRegs ty d) n b off fun x =>
      let foot := if wideAcq acq then none else x.foot
      if g.ln.blocked s || g.ln.full then s
      else if x.eff == 0 then
        let u := reserveFoot s (coreOf s.cur) (aspOf s g) foot
        if footWaits u (coreOf s.cur) (aspOf u g) foot then u else u.setGrp s.cur (g.nextL m.sw)
      else
        translated s s.cur g .read (accessing x.spots) fun t ps =>
          let u := reserveFoot t (coreOf s.cur) (aspOf t g) foot
          if footWaits u (coreOf s.cur) (aspOf u g) foot then u
          else
            let u := countAccess u (coreOf s.cur) (aspOf u g) .read x.foot ps
            let u := if wideAcq acq then u else fillLines u (coreOf s.cur) ps
            issueLoad u s.cur g true
              { plainPending 0 0 (wV g ty d x.eff .top (fun _ => 0) ++ obWrite m.nf g.width (offending x.spots)) with
                kind := if wideAcq acq then .homeLoad else .load, elts := loadElts ty ps, eff := x.eff, acq := acq }
              (fun hot g => g.nextL (m.sw || hot))) := by
  change execLd m ty acq d n b off s = _
  unfold execLd
  rw [withCur_next hg]
  cases acq <;> rfl

/-- Once its footprint is reserved a load waits, or goes on. -/
theorem exec_ld_ready (hg : Issues s g) (hr : LaneReady s g m (vRegs ty d) n b off) :
    exec (.ld m ty acq d n b off) s = .next (
      let foot := if wideAcq acq then none else laneFoot s g n b off
      if effLanes s g m = [] then
        let u := reserveFoot s (coreOf s.cur) (aspOf s g) foot
        if footWaits u (coreOf s.cur) (aspOf s g) foot then u else laneOn u g (g.ctx.lpc + 12) m.sw
      else
        translated s s.cur g .read (accesses s g m (laneAddress s g n b off)) fun t ps =>
          ldGo s g m ty acq d (laneAcc s g m n b off) foot ps t (aspOf t g)) := by
  obtain ⟨-, -, -, hroom, hblocked, hwidth⟩ := id hr
  have hasp : ∀ (t : State) foot, aspOf (reserveFoot t (coreOf s.cur) (aspOf t g) foot) g = aspOf t g := fun t foot =>
    aspOf_congr (reserveFoot_issuer ..) g
  rw [exec_ld hg, laneAccess_ready hr]
  dsimp only
  rw [if_neg (by simp [hroom, hblocked]), laneAcc_foot, laneAcc_accessing]
  simp only [hasp]
  by_cases he : effLanes s g m = []
  · have h0 : ((laneAcc s g m n b off).eff == 0) = true := by
      rw [beq_iff_eq]
      exact (lanesOf_eq_nil_iff _).1 he
    rw [if_pos h0, if_pos he]
    have hcur : ∀ foot, (reserveFoot s (coreOf s.cur) (aspOf s g) foot).cur = s.cur := fun foot =>
      congrArg Prod.snd (reserveFoot_issuer ..)
    rw [setGrp_nextL (hcur _)]
  · rw [if_neg (laneAcc_eff_ne_zero he), if_neg he]
    unfold ldGo ldIssue
    rw [laneAcc_foot]

theorem loadElts_eq (ty : Ty) (ps : List (Nat × Nat × TlbEntry)) :
    loadElts ty ps = (ps.map fun p => (p.1, p.2.1)).map fun e => (⟨e.1, e.2, ty.size, ty.signed⟩ : LoadElt) := by
  rw [List.map_map]
  rfl

theorem any_lane {α : Type} (xs : List (Nat × α)) (l : Nat) : xs.any (·.1 == l) = (xs.map (·.1)).any (· == l) := by
  rw [List.any_map]
  rfl

/-- A load whose lines are there, and whose elements the homes give, has them. -/
theorem ldIssue_reads {u : State} {asp : Nat} {ps : List (Nat × Nat × TlbEntry)} {bytes : Nat → List Byte}
    (hask : Asks s u) (hs : Settled s) (hn : NoSentWrites s) (hd : deferred s.picks = 0)
    (hr : LaneReady s g m (vRegs ty d) n b off) (hps : ∀ p ∈ ps, p.1 < 64)
    (hx : ∀ p ∈ ps, homeRead u p.2.1 ty.size = some (bytes p.1, false)) :
    ∃ t h q, ldIssue s g m ty acq d (laneAcc s g m n b off) ps asp u = t ∧ LaneIssued s t g h ∧ q.unsampled = 0 ∧
      Newest g h (laneWrites g ty d (effMask s.picks g m) .top
        (fun l => if ps.any (·.1 == l) then extend ty.signed (bytes l) else 0) ++
          obFlags s g m (laneAddress s g n b off)) q := by
  obtain ⟨-, -, -, hroom, -, hwidth⟩ := hr
  have hfills : ∃ v, Fills u v ∧ v = (if wideAcq acq then countAccess u (coreOf s.cur) asp .read (laneAcc s g m n b
      off).foot ps
      else fillLines (countAccess u (coreOf s.cur) asp .read (laneAcc s g m n b off).foot ps) (coreOf s.cur) ps) := by
    have hcount : Fills u (countAccess u (coreOf s.cur) asp .read (laneAcc s g m n b off).foot ps) :=
        countAccess_fills ..
    refine ⟨_, ?_, rfl⟩
    split
    · exact hcount
    · exact hcount.trans (fillLines_fills ((hask.trans hcount.1).settled hs) _ fun p hp => ⟨_, hcount.homeRead (hx p
        hp)⟩)
  obtain ⟨v, hfill, hv⟩ := hfills
  have hsv : Asks s v := hask.trans hfill.1
  have hres : ∀ (k : PKind) (es : List LoadElt), resolveElts v k es = v := fun k es => by
    unfold resolveElts
    split
    · rfl
    · exact foldl_resolve_settled (fun e : LoadElt => e.pa / 128) (hsv.settled hs) es
  have hcur : v.cur = s.cur := by rw [hsv]
  have hreqs : v.reqs = s.reqs := by rw [hsv]
  have hpicks : v.picks = s.picks := by rw [hsv]
  obtain ⟨t, h, q, heq, hissued, hread, hnew⟩ := issueLoad_lanes (s := v) (g := g) (xs := ps.map fun p : Nat × Nat ×
      TlbEntry => (p.1, p.2.1))
    (ty := ty) (d := d) (eff := effMask s.picks g m) (fs := obFlags s g m (laneAddress s g n b off))
    (p := { plainPending 0 0 (wV g ty d (effMask s.picks g m) .top (fun _ => 0) ++ obFlags s g m (laneAddress s g n b off)) with
      kind := if wideAcq acq then .homeLoad else .load, elts := loadElts ty ps, eff := effMask s.picks g m, acq := acq })
    (fun l => extend ty.signed (bytes l)) (fun hot g => g.nextL (m.sw || hot))
    (by
      change (if wideAcq acq then PKind.homeLoad else .load).byElement
      split
      · exact .inr (.inl rfl)
      · exact .inl rfl)
    rfl (loadElts_eq ty ps) (obFlags_setLane _) hroom (by rw [hpicks]; exact hd) (hres _ _)
    (fun e he => by
      obtain ⟨p, hp, rfl⟩ := List.mem_map.1 he
      exact hps p hp)
    (fun h => ⟨m.sw || false, rfl⟩)
    (fun e he => by
      obtain ⟨p, hp, rfl⟩ := List.mem_map.1 he
      refine ⟨bytes p.1, [], ?_, rfl⟩
      have hhome := hfill.homeRead (hx p hp)
      have hw : ∀ r ∈ v.reqs, r.2.core ≠ some (coreOf v.cur) := by
        rw [hreqs, hcur]
        exact hn
      change readElt v (coreOf v.cur) (v.cur, true) (if wideAcq acq then PKind.homeLoad else .load) _ _ = _
      split
      · exact coherentRead_ok _ hhome fun r hr hc => hw r hr hc.1
      · exact plainRead_ok _ _ _ hhome hw)
  refine ⟨t, h, q, ?_, ?_, hread, ?_⟩
  · rw [← heq, hcur]
    unfold ldIssue
    dsimp only
    rw [laneAcc_flags hwidth, hv]
    rfl
  · obtain ⟨⟨hown, hothers, hmem, hspad, hrf, hacc, hgrp⟩, hrest⟩ := hissued
    rw [hsv] at hown hothers hmem hspad hrf hacc
    exact ⟨⟨hown, hothers, hmem, hspad, hrf, hacc, hgrp⟩, hrest⟩
  · have hany : ∀ l, (ps.map fun p => (p.1, p.2.1)).any (·.1 == l) = ps.any (·.1 == l) := fun l => by
      rw [List.any_map]
      rfl
    simp only [hany] at hnew
    exact hnew

/-- The lanes of a translation are those of its accesses. -/
theorem translates_lanes {acc : Acc} {xs : List (Nat × Nat)} {ps : List (Nat × Nat × TlbEntry)}
    (h : Translates s g acc xs ps) : ps.map (·.1) = xs.map (·.1) := by
  have hmap := congrArg (List.map (·.1)) h.1
  rw [List.map_map, transLanes, List.map_map] at hmap
  exact hmap.symm

theorem paKind_lookedUp (xs : List (Nat × Nat)) (pa : Nat) : paKind (lookedUp s g xs) pa = paKind s pa := by
  obtain ⟨tlb, h⟩ := offMem_keepTrs (dieOf (coreOf s.cur)) (aspOf s g) (xs.map (·.2)) s
  exact (congrArg (fun u => paKind u pa) h :)

end

/-- Settles O7: the traps of LD, its footprint, and what it writes. -/
theorem laneLoads : Obligations.LaneLoads := by
  unfold Obligations.LaneLoads
  intro s g m ty acq d n b off hg h8 heven i at_ xs core foot
  have hfoot : foot = if wideAcq acq then none else laneFoot s g n b off := by cases acq <;> rfl
  refine ⟨quotaTrap_of (exec_ld hg), fun hq => ⟨fun hbase => ?_, fun hbase hin hmode l hl hout hlow => ?_⟩, fun hr =>
      ?_⟩
  · exact (exec_ld hg).trans (congrArg Outcome.next (laneAccess_misaligned hq hbase))
  · exact (exec_ld hg).trans (congrArg Outcome.next (laneAccess_traps hq hbase hin hmode hl hout hlow))
  · have hexec := exec_ld_ready (acq := acq) hg hr
    have hasp : aspOf (lookedUp s g xs) g = aspOf s g := aspOf_congr (keepTrs_issuer ..) g
    have hgo : ∀ ps, effLanes s g m ≠ [] → Translates s g .read xs ps →
        exec i s = .next (ldGo s g m ty acq d (laneAcc s g m n b off) foot ps (lookedUp s g xs) (aspOf s g)) :=
      fun ps hne ht => by
      have hok := translated_ok (s := s) (gid := s.cur) (g := g) (acc := .read) (xs := xs) (ps := ps)
        (fun t ps => ldGo s g m ty acq d (laneAcc s g m n b off) foot ps t (aspOf t g)) ht.1
        fun p hp => (congrArg PaKind.line (paKind_lookedUp xs p.2.1)).trans (ht.2 p hp)
      rw [hfoot] at hok ⊢
      exact hexec.trans (congrArg Outcome.next ((if_neg hne).trans (hok.trans (congrArg (ldGo s g m ty acq d _ _ ps _)
          hasp))))
    refine ⟨fun hnil => ?_, ?_, ?_⟩
    · rw [hfoot]
      exact hexec.trans (congrArg Outcome.next (if_pos hnil))
    · intro ps hne ht u hw
      exact (hgo ps hne ht).trans (congrArg Outcome.next (if_pos hw))
    · intro ps bytes hne hd hs hn ht u hw hx
      have hask : Asks s u := by
        have hkeep : Asks s (lookedUp s g xs) := keepTrs_asks hs ..
        exact hkeep.trans (reserveFoot_asks (hkeep.settled hs) ..)
      have hlanes : ∀ p ∈ ps, p.1 < 64 := fun p hp => by
        have hm : p.1 ∈ xs.map (·.1) := translates_lanes ht ▸ List.mem_map_of_mem hp
        obtain ⟨e, he, hp1⟩ := List.mem_map.1 hm
        exact hp1 ▸ accesses_lane_lt he
      obtain ⟨t, h, q, heq, hissued, hread, hnew⟩ := ldIssue_reads (acq := acq) (asp := aspOf s g) hask hs hn hd hr
          hlanes hx
      refine ⟨t, h, q, (hgo ps hne ht).trans (congrArg Outcome.next ((if_neg ?_).trans heq)), hissued, hread, ?_⟩
      · exact fun h => Bool.false_ne_true (hw.symm.trans h)
      · have hany : ∀ l, ps.any (·.1 == l) = xs.any (·.1 == l) := fun l => by
          rw [any_lane, any_lane, translates_lanes ht]
        simp only [hany] at hnew
        exact hnew

end Machine

end Sys2Proof
end

section
/-!
PROOFS. MatrixTiles: fragments wider than a mask (R189, R199).
-/
namespace Sys2Proof

namespace Machine

open Host Safety

/-! ## A fragment wider than a mask (R189, R199)

MLDF reads the words that a mask of 64 lanes names; of a group of more lanes it leaves the others 0. -/

/-- A group of 65 lanes that may run matrix words. -/
def broad : Group :=
  { (default : Group) with
    width := 65, q := 16, role := 1, tid := some 0, live := BitVec.allOnes 64,
    ctx := { (default : Group).ctx with exm := BitVec.allOnes 64 } }

def broadTeam : Team := default

/-- Its machine: the scratchpad holds a byte where the word of lane 64 lies, in a row's third chunk. -/
def broadOn : State :=
  { State.reset with
    groups := [(0, broad)], teams := [(teamKey 0 0, broadTeam)],
    launches := [(0, { (default : Launch) with desc := { (default : KDesc) with spq := 4096 } })], spad := [(128, 1)] }

/-- Word l of the first write of the newest result of the lane stream of group 0, once a word has issued. -/
def newestWord (l : Nat) (r : Outcome State Fault Refusal) : Option W32 :=
  match r with
  | .next t => (t.grp 0).bind fun g => g.ln.out.getLast?.bind fun p => p.writes.head?.bind fun w =>
      match w with
      | .v _ _ xs _ _ => xs[l]?
      | _ => none
  | _ => none

theorem broad_issues : Issues broadOn broad := rfl

theorem broad_ready : MatrixReady broadOn broad broadTeam := ⟨.inl rfl, ⟨teamKey 0 0, rfl, rfl⟩, rfl⟩

/-- The word leaves the lane 0. -/
theorem broad_mldf : newestWord 64 (exec (.mldf false false false 0 (.s 0) 0) broadOn) = some 0 := by decide +kernel

theorem markOvl_writes (os ws : List PWrite) (p : Pending) :
    (markOvl os { p with writes := ws }).writes = ws.map fun w => if os.any (PWrite.same w) then w.overlap else w := rfl

/-- Refutes O12: of a group of 65 lanes MLDF leaves lane 64 as it is, and not the word of its place in the row. -/
theorem not_matrixTiles : ¬ Obligations.MatrixTiles := by
  intro h
  obtain ⟨-, -, -, -, hmldf⟩ := h broadOn broad broadTeam false false false 0 (.s 0) 0 broad_issues broad_ready
    (by decide +kernel) (by decide +kernel) (by decide +kernel) (fun _ => rfl)
  obtain ⟨t, g, p, hexec, ⟨⟨hown, -⟩, -⟩, -, -, hlast, hwrites⟩ := (hmldf (by decide +kernel)).2 (by decide +kernel)
    (by decide +kernel) (by decide +kernel)
  have hword := broad_mldf
  rw [hexec] at hword
  change ((t.grp 0).bind _) = _ at hword
  rw [show t.grp 0 = some g from hown] at hword
  change (g.ln.out.getLast?.bind _) = _ at hword
  rw [hlast] at hword
  change (p.writes.head?.bind _) = _ at hword
  rw [hwrites, markOvl_writes] at hword
  exact absurd hword (by decide +kernel)

end Machine

end Sys2Proof
end

section
/-!
PROOFS. MatrixWords: chains, and what MMA adds in them (R189, R192 to R196).
-/
namespace Sys2Proof

namespace Machine

open Host Safety

/-! ## Chains (R192, R193, R196) -/

theorem roleInfo_eq (g : Group) : roleInfo g = if g.tid = none then 3 else g.role.zeroExtend 32 := by
  unfold roleInfo Group.spawned
  cases g.tid with
  | none => rfl
  | some t =>
    refine (if_neg Bool.false_ne_true).trans ((BitVec.eq_of_toNat_eq ?_).trans (if_neg (Option.some_ne_none t)).symm)
    simp

theorem role_lt (r : BitVec 2) (h : r = 0 ∨ r = 2) : ¬ (r = 1 ∨ r = 3) := by
  rcases h with rfl | rfl <;> decide

section
variable {s : State} {g : Group}

theorem allLanes_all (k : State) (h : g.ctx.exm = g.all) : allLanes s s.cur g k = k :=
  if_pos (by rw [h]; exact beq_self_eq_true _)

theorem allLanes_missing (k : State) (h : g.ctx.exm ≠ g.all) :
    allLanes s s.cur g k = raiseL s s.cur g .convergence 4 := if_neg (by simpa using h)

/-- MEND's writes of the touched tiles. -/
theorem issueL_tiles (g' : Group) (c : Chain) (f : ChainTile → List W32) (sw : Bool) (hroom : g'.ln.full = false) :
    issueL s s.cur g' ((c.tiles.map fun t => (t.tile, f t)).map fun x => PWrite.z x.1 x.2) sw =
      if c.tiles = [] then laneOn s g' (g'.ctx.lpc + 12) sw
      else laneAfter s g' ((c.tiles.map fun t => (t.tile, f t)).map fun x => .z x.1 x.2) sw := by
  by_cases h : c.tiles = []
  · rw [if_pos h, h]
    rfl
  · rw [if_neg h, issueL_room sw (by simpa using h) hroom]

end

theorem matrixChains : Claims.MatrixChains := by
  intro s g nf sw hg info
  have hinfo : info = roleInfo g := (roleInfo_eq g).symm
  have hbegin : exec (.mbegin nf sw) s = .next (if !roleMatrix g then raiseL s s.cur g .role (roleInfo g)
      else allLanes s s.cur g
        (if g.handler then raiseL s s.cur g .chain 8
         else if g.chain.isSome then raiseL s s.cur g .chain 1
         else s.setGrp s.cur (({ g with chain := some ⟨none, [], g.lmode⟩ } : Group).nextL sw))) := by
    change execMbegin nf sw s = _
    rw [execMbegin, withCur_next hg]
  have hend : exec (.mend nf sw) s = .next (if !roleMatrix g then raiseL s s.cur g .role (roleInfo g)
      else allLanes s s.cur g
        (match g.chain with
         | none => raiseL s s.cur g .chain 2
         | some c =>
           if g.ln.full then s
           else
             let r := c.tiles.map fun t => (t.tile, endTile c.first (fenv g.lmode .mode) t)
             let s := issueL s s.cur { g with chain := none } (r.map fun x => .z x.1 x.2.1) sw
             addStats s g.lid 255 (Stat.sum (r.map fun x => x.2.2)))) := by
    change execMend nf sw s = _
    rw [execMend, withCur_next hg] <;> rfl
  rw [hbegin, hend, hinfo]
  refine ⟨fun hr => ?_, fun hr => ⟨fun hx => ?_, fun hx => ?_⟩⟩
  · have hno : (!roleMatrix g) = true := by
      rw [Bool.not_eq_true', ← Bool.not_eq_true, roleMatrix_iff]
      exact role_lt _ hr
    rw [if_pos hno, if_pos hno]
    exact ⟨rfl, rfl⟩
  · have hyes : ¬ (!roleMatrix g) = true := by simp [(roleMatrix_iff g).2 hr]
    rw [if_neg hyes, if_neg hyes, allLanes_missing _ hx, allLanes_missing _ hx]
    exact ⟨rfl, rfl⟩
  · have hyes : ¬ (!roleMatrix g) = true := by simp [(roleMatrix_iff g).2 hr]
    rw [if_neg hyes, if_neg hyes, allLanes_all _ hx, allLanes_all _ hx]
    refine ⟨fun hh => ?_, fun hh hc => ?_, fun hh hc => ?_, fun hc => ?_, fun c hc hroom => ?_⟩
    · rw [if_pos hh]
    · rw [if_neg (by simp [hh]), if_pos (Option.isSome_iff_ne_none.2 hc)]
    · rw [if_neg (by simp [hh]), if_neg (by simp [hc])]
      rfl
    · rw [hc]
    · rw [hc]
      dsimp only
      rw [if_neg (by simp [hroom])]
      refine congrArg (fun t => Outcome.next (addStats t g.lid 255 _)) ?_
      have htiles := issueL_tiles (s := s) { g with chain := none } c
        (fun t => (endTile c.first (fenv g.lmode .mode) t).1) sw hroom
      simp only [List.map_map] at htiles ⊢
      exact htiles

/-! ## MMA (R192, R193, R195) -/

theorem mRows_eq (w : Nat) : mRows w = if w = 16 then 8 else if w = 32 then 16 else 32 := rfl

theorem runRegs_eq (n : BitVec 8) (k : Nat) : runRegs n k = (List.range k).map (n.toNat + ·) := rfl

theorem beq_tile (g : Group) {c : Chain} (hc : g.chain = some c) (tile : Nat) :
    touched g tile = (c.tiles.find? fun t => t.tile == tile).isSome := by
  unfold touched
  rw [hc, Bool.eq_iff_iff]
  simp

section
variable {s : State} {g : Group} {tm : Team} {nf sw : Bool} {ty : Ty} {rm : Rm} {d a b : BitVec 8} {c : Chain}

/-- MMA once its role, quotas and feature let it run. -/
def mmaRun (s : State) (g : Group) (tm : Team) (sw : Bool) (ty : Ty) (rm : Rm) (d a b : BitVec 8) (c : Chain) : State :=
  match mmaChainTrap (some c) d.toNat ty (fenv g.lmode rm).rm with
  | some why => raiseL s s.cur g .chain (BitVec.ofNat 32 why)
  | none =>
    let v := fenv g.lmode rm
    let w := g.width
    let old := (c.tiles.find? fun t => t.tile == d.toNat).getD (openTile d.toNat (zRead s g tm d.toNat) v.daz)
    let r := mmaTile ty v (nCols w) (fragRows s s.cur g a.toNat (mRows w) false) (fragRows s s.cur g b.toNat (nCols w)
        true) old
    let tiles := if touched g d.toNat then c.tiles.map fun x => if x.tile == d.toNat then r.1 else x else c.tiles ++ [r.1]
    addStats (s.setGrp s.cur (({ g with chain := some { c with first := some (ty, v.rm), tiles := tiles } } : Group).nextL sw))
      g.lid 255 r.2

theorem exec_mma (hg : Issues s g) (hready : MatrixReady s g tm) (hc : g.chain = some c) :
    exec (.mma nf sw ty rm d a b) s = .next (inQuota s s.cur g (runRegs a 16 ++ runRegs b (bRun g.width))
      (if tileBeyond (s.desc g) g.width d.toNat then raiseL s s.cur g .quota (quotaInfo 3 d.toNat)
       else if ty == .l6 && !hasFeat s s.cur 2 then raiseL s s.cur g .feature 2
       else mmaRun s g tm sw ty rm d a b c)) := by
  obtain ⟨hrole, ⟨key, hkey, ht⟩, hall⟩ := hready
  have hyes : ¬ (!roleMatrix g) = true := by simp [(roleMatrix_iff g).2 hrole]
  change execMma nf sw ty rm d a b s = _
  rw [execMma, withCur_next hg]
  dsimp only
  unfold matrixRole inTeam tileQuota
  rw [if_neg hyes, hkey]
  dsimp only
  rw [ht]
  dsimp only
  rw [allLanes_all _ hall, hc]
  rfl

theorem mmaRun_traps {why : Nat} (h : mmaChainTrap (some c) d.toNat ty (fenv g.lmode rm).rm = some why) :
    mmaRun s g tm sw ty rm d a b c = raiseL s s.cur g .chain (BitVec.ofNat 32 why) := by
  unfold mmaRun
  rw [h]

theorem mmaRun_adds (h : mmaChainTrap (some c) d.toNat ty (fenv g.lmode rm).rm = none) (hc : g.chain = some c)
    (r : ChainTile × Stat)
    (hr : r = mmaTile ty (fenv g.lmode rm) (nCols g.width) (fragRows s s.cur g a.toNat (mRows g.width) false)
      (fragRows s s.cur g b.toNat (nCols g.width) true)
      ((c.tiles.find? fun t => t.tile == d.toNat).getD (openTile d.toNat (zRead s g tm d.toNat) (fenv g.lmode
          rm).daz))) :
    mmaRun s g tm sw ty rm d a b c = addStats (laneOn s { g with chain := some { c with
      first := some (ty, (fenv g.lmode rm).rm),
      tiles := if (c.tiles.find? fun t => t.tile == d.toNat).isSome then c.tiles.map fun x => if x.tile = d.toNat then r.1 else x
        else c.tiles ++ [r.1] } } (g.ctx.lpc + 12) sw) g.lid 255 r.2 := by
  subst hr
  unfold mmaRun
  rw [h]
  dsimp only
  rw [beq_tile g hc]
  simp only [beq_iff_eq]
  rfl

end
end Machine

namespace Machine

/-! ## What a pattern reads as (R165, R170) -/

/-- The magnitude part of a pattern, and its sign. -/
def Fmt.magOf (f : Fmt) (p : Nat) : Nat := p % 2 ^ (f.eb + f.mb)
def Fmt.signOf (f : Fmt) (p : Nat) : Bool := decide (p / 2 ^ (f.eb + f.mb) % 2 = 1)

section
variable (f : Fmt) (daz : Bool) (p : Nat)

theorem mod_w_mod : p % 2 ^ f.w % 2 ^ (f.eb + f.mb) = f.magOf p :=
  Nat.mod_mod_of_dvd _ (Nat.pow_dvd_pow 2 (by unfold Fmt.w; omega))

theorem sign_eq : decide (2 ^ (f.eb + f.mb) ≤ p % 2 ^ f.w) = f.signOf p := by
  have hw : 2 ^ f.w = 2 ^ (f.eb + f.mb) * 2 := by rw [Fmt.w, Nat.add_assoc, Nat.add_comm 1, Nat.pow_succ]
  have hpos : 0 < 2 ^ (f.eb + f.mb) := Nat.two_pow_pos _
  have hdiv : p % 2 ^ f.w / 2 ^ (f.eb + f.mb) = p / 2 ^ (f.eb + f.mb) % 2 := by
    rw [hw, Nat.mod_mul_right_div_self]
  unfold Fmt.signOf
  rw [← hdiv, decide_eq_decide]
  have hlt : p % 2 ^ f.w / 2 ^ (f.eb + f.mb) < 2 := by rw [hdiv]; exact Nat.mod_lt _ (by decide)
  rw [Nat.le_iff_lt_or_eq]
  constructor
  · intro h
    have h1 : 1 ≤ p % 2 ^ f.w / 2 ^ (f.eb + f.mb) := (Nat.le_div_iff_mul_le hpos).2 (by omega)
    omega
  · intro h
    have h1 : 1 * 2 ^ (f.eb + f.mb) ≤ p % 2 ^ f.w := (Nat.le_div_iff_mul_le hpos).1 (by omega)
    omega

/-- Reading goes by the magnitude. -/
theorem read_eq : f.read daz p =
    if f.maxMag < f.magOf p then
      if f.ieee && f.magOf p == f.infMag then .inf (f.signOf p)
      else .nan (f.ieee && f.magOf p % 2 ^ f.mb / 2 ^ (f.mb - 1) % 2 == 0)
    else if f.magOf p = 0 then .zero (f.signOf p)
    else if f.magOf p < 2 ^ f.mb then (if daz then .zero (f.signOf p) else .fin (f.signOf p) (f.magOf p) f.qmin)
    else .fin (f.signOf p) (2 ^ f.mb + f.magOf p % 2 ^ f.mb) (f.qmin + (f.magOf p / 2 ^ f.mb : Nat) - 1) := by
  unfold Fmt.read
  dsimp only
  rw [mod_w_mod, sign_eq]
  have hsub : f.magOf p / 2 ^ f.mb = 0 ↔ f.magOf p < 2 ^ f.mb := Nat.div_eq_zero_iff_lt (Nat.two_pow_pos _)
  simp only [hsub]
  by_cases h : f.magOf p < 2 ^ f.mb
  · simp only [h, if_true, Nat.mod_eq_of_lt h]
  · simp only [h, if_false]

theorem read_nan (h : f.maxMag < f.magOf p) (hi : f.ieee = true → f.magOf p ≠ f.infMag) :
    f.read daz p = .nan (f.ieee && f.magOf p % 2 ^ f.mb / 2 ^ (f.mb - 1) % 2 == 0) := by
  rw [read_eq, if_pos h, if_neg]
  intro hc
  obtain ⟨hi', hm⟩ := Bool.and_eq_true_iff.1 hc
  exact hi hi' (by simpa using hm)

theorem read_inf (h : f.maxMag < f.magOf p) (hi : f.ieee = true) (hm : f.magOf p = f.infMag) :
    f.read daz p = .inf (f.signOf p) := by
  rw [read_eq, if_pos h, if_pos (by simp [hi, hm])]

theorem read_zero (h : f.magOf p = 0 ∨ daz = true ∧ f.magOf p < 2 ^ f.mb) (hfin : f.magOf p ≤ f.maxMag) :
    f.read daz p = .zero (f.signOf p) := by
  rw [read_eq, if_neg (Nat.not_lt.2 hfin)]
  by_cases h0 : f.magOf p = 0
  · rw [if_pos h0]
  · obtain ⟨hd, hlt⟩ := h.resolve_left h0
    rw [if_neg h0, if_pos hlt, if_pos hd]

/-- The integer and the exponent of a finite pattern. -/
def Fmt.sigOf (f : Fmt) (p : Nat) : Nat :=
  if f.magOf p < 2 ^ f.mb then f.magOf p else 2 ^ f.mb + f.magOf p % 2 ^ f.mb
def Fmt.expOf (f : Fmt) (p : Nat) : Int :=
  if f.magOf p < 2 ^ f.mb then f.qmin else f.qmin + (f.magOf p / 2 ^ f.mb : Nat) - 1

theorem read_fin (h : ¬ (f.magOf p = 0 ∨ daz = true ∧ f.magOf p < 2 ^ f.mb)) (hfin : f.magOf p ≤ f.maxMag) :
    f.read daz p = .fin (f.signOf p) (f.sigOf p) (f.expOf p) := by
  obtain ⟨h0, hd⟩ := not_or.1 h
  rw [read_eq, if_neg (Nat.not_lt.2 hfin), if_neg h0]
  unfold Fmt.sigOf Fmt.expOf
  by_cases hlt : f.magOf p < 2 ^ f.mb
  · rw [if_pos hlt, if_neg (fun hz => hd ⟨hz, hlt⟩), if_pos hlt, if_pos hlt]
  · rw [if_neg hlt, if_neg hlt, if_neg hlt]

theorem sigOf_pos (h : f.magOf p ≠ 0) : 0 < f.sigOf p := by
  unfold Fmt.sigOf
  split
  · omega
  · have := Nat.two_pow_pos f.mb
    omega

theorem sigOf_lt : f.sigOf p < 2 ^ (f.mb + 1) := by
  have := Nat.mod_lt (f.magOf p) (Nat.two_pow_pos f.mb)
  unfold Fmt.sigOf
  rw [Nat.pow_succ]
  split <;> omega

theorem qmin_le_expOf : f.qmin ≤ f.expOf p := by
  unfold Fmt.expOf
  split
  · exact Int.le_refl _
  · next h =>
    have h1 : 1 ≤ f.magOf p / 2 ^ f.mb := (Nat.le_div_iff_mul_le (Nat.two_pow_pos _)).2 (by omega)
    omega

end

/-! ### The four IEEE-like formats -/

/-- F32, F16, BF16 or E5M2: the top exponent holds infinity and NaNs. -/
def Fmt.IsIeee (f : Fmt) : Prop := f = fmtF32 ∨ f = fmtF16 ∨ f = fmtBF16 ∨ f = fmtE5M2

theorem Fmt.IsIeee.ieee {f : Fmt} (h : f.IsIeee) : f.ieee = true := by
  rcases h with rfl | rfl | rfl | rfl <;> rfl

theorem Fmt.IsIeee.maxMag {f : Fmt} (h : f.IsIeee) : f.maxMag + 1 = f.infMag := by
  rcases h with rfl | rfl | rfl | rfl <;> rfl

theorem Fmt.IsIeee.infMag_lt {f : Fmt} (h : f.IsIeee) : f.infMag < 2 ^ (f.eb + f.mb) := by
  rcases h with rfl | rfl | rfl | rfl <;> decide

theorem Fmt.IsIeee.mb_pos {f : Fmt} (h : f.IsIeee) : 0 < f.mb := by
  rcases h with rfl | rfl | rfl | rfl <;> decide

theorem Fmt.IsIeee.sub_le {f : Fmt} (h : f.IsIeee) : 2 ^ f.mb ≤ f.maxMag := by
  rcases h with rfl | rfl | rfl | rfl <;> decide

end Machine

namespace Machine

open Host Safety

/-! ## Exact products (R165, R195) -/

/-- The unit of the operands' exact values, as a power of 1/2: R195's for the 8-bit formats, 150 for the 16-bit ones. -/
def mmaUnit : Ty → Nat
  | .e4m3 | .e5m2 => 16
  | _ => 150

/-- A floating type of MMA. -/
def MmaFloat (ty : Ty) : Prop := ty = .e4m3 ∨ ty = .e5m2 ∨ ty = .f16 ∨ ty = .bf16

theorem signOf_eq (f : Fmt) (p : Nat) : f.signOf p = signOf f.eb f.mb p := by
  rw [signOf, beq_eq_decide]
  rfl

/-- The exact value of a finite pattern. -/
theorem exactVal_eq (f : Fmt) (u p : Nat) (hb : f.bias = 2 ^ (f.eb - 1) - 1) (hu : f.bias + f.mb ≤ u + 1) :
    exactVal f.eb f.mb u p = scaled (f.signOf p) (f.sigOf p) (f.expOf p) (-(u : Int)) := by
  have hfrac : p % 2 ^ f.mb = f.magOf p % 2 ^ f.mb :=
    (Nat.mod_mod_of_dvd _ (Nat.pow_dvd_pow 2 (by omega))).symm
  have hexp : p / 2 ^ f.mb % 2 ^ f.eb = f.magOf p / 2 ^ f.mb := by
    rw [Fmt.magOf, Nat.add_comm, Nat.pow_add, Nat.mod_mul_right_div_self]
  unfold exactVal scaled expOf fracOf
  dsimp only
  rw [hfrac, hexp, ← signOf_eq, ← hb]
  unfold Fmt.sigOf Fmt.expOf Fmt.qmin
  by_cases hlt : f.magOf p < 2 ^ f.mb
  · have h0 : f.magOf p / 2 ^ f.mb = 0 := Nat.div_eq_of_lt hlt
    have he : ((1 - (f.bias : Int) - f.mb) - -(u : Int)).toNat = max 0 1 + u - f.bias - f.mb := by omega
    rw [if_pos hlt, if_pos hlt, if_pos h0, h0, he, Nat.mod_eq_of_lt hlt]
  · have h1 : 1 ≤ f.magOf p / 2 ^ f.mb := (Nat.le_div_iff_mul_le (Nat.two_pow_pos _)).2 (by omega)
    have he : ((1 - (f.bias : Int) - f.mb + (f.magOf p / 2 ^ f.mb : Nat) - 1) - -(u : Int)).toNat =
        max (f.magOf p / 2 ^ f.mb) 1 + u - f.bias - f.mb := by omega
    rw [if_neg hlt, if_neg hlt, if_neg (Nat.one_le_iff_ne_zero.1 h1), he]

theorem exactVal_zero (f : Fmt) (u p : Nat) (h : f.magOf p = 0) : exactVal f.eb f.mb u p = 0 := by
  have hfrac : p % 2 ^ f.mb = 0 := by
    rw [← Nat.mod_mod_of_dvd p (Nat.pow_dvd_pow 2 (by omega : f.mb ≤ f.eb + f.mb))]
    exact (congrArg (· % 2 ^ f.mb) h).trans (Nat.zero_mod _)
  have hexp : p / 2 ^ f.mb % 2 ^ f.eb = 0 := by
    rw [← Nat.mod_mul_right_div_self, ← Nat.pow_add, Nat.add_comm]
    exact (congrArg (· / 2 ^ f.mb) h).trans (Nat.zero_div _)
  unfold exactVal expOf fracOf
  dsimp only
  rw [hexp, hfrac]
  simp

theorem scaled_mul (s t : Bool) (m n : Nat) (e e' u : Int) (he : -u ≤ e) (he' : -u ≤ e') :
    scaled (s != t) (m * n) (e + e') (-(2 * u)) = scaled s m e (-u) * scaled t n e' (-u) := by
  have hexp : (e + e' - -(2 * u)).toNat = (e - -u).toNat + (e' - -u).toNat := by omega
  unfold scaled
  dsimp only
  rw [hexp, pow_add, Nat.cast_mul]
  cases s <;> cases t
  · simp only [bne_self_eq_false, Bool.false_eq_true, if_false]
    ring
  · simp only [bne_self_eq_false, Bool.false_eq_true, if_false, if_true, show (false != true) = true from rfl]
    ring
  · simp only [bne_self_eq_false, Bool.false_eq_true, if_false, if_true, show (true != false) = true from rfl]
    ring
  · simp only [bne_self_eq_false, Bool.false_eq_true, if_false, if_true]
    ring

/-- What an operand of MMA reads as. -/
inductive MmaReads (ty : Ty) (daz : Bool) (x : Nat) : Fv → Prop
  | nan (b : Bool) : mmaNan ty x = true → MmaReads ty daz x (.nan b)
  | inf : mmaNan ty x = false → mmaInf ty x = true → mmaZero ty daz x = false → MmaReads ty daz x (.inf (mmaNeg ty x))
  | zero : mmaNan ty x = false → mmaInf ty x = false → mmaZero ty daz x = true → MmaReads ty daz x (.zero (mmaNeg ty x))
  | fin (m : Nat) (e : Int) : mmaNan ty x = false → mmaInf ty x = false → mmaZero ty daz x = false →
      -(mmaUnit ty : Int) ≤ e →
      exactVal (fmtOf ty).eb (fmtOf ty).mb (mmaUnit ty) x = scaled (mmaNeg ty x) m e (-(mmaUnit ty : Int)) →
      MmaReads ty daz x (.fin (mmaNeg ty x) m e)

theorem mmaReads_ieee {ty : Ty} {daz : Bool} {x : Nat} (f : Fmt) (hty : fmtOf ty = f) (hi : f.ieee = true)
    (hmax : f.maxMag + 1 = f.infMag) (hb : f.bias = 2 ^ (f.eb - 1) - 1) (hu : f.bias + f.mb ≤ mmaUnit ty + 1)
    (hsub : 2 ^ f.mb ≤ f.maxMag)
    (hnan : mmaNan ty x = decide (f.infMag < f.magOf x)) (hinf : mmaInf ty x = decide (f.magOf x = f.infMag))
    (hzero : mmaZero ty daz x = decide (f.magOf x = 0 ∨ daz = true ∧ f.magOf x < 2 ^ f.mb))
    (hneg : mmaNeg ty x = f.signOf x) : MmaReads ty daz x (f.read daz x) := by
  have hpos : 0 < 2 ^ f.mb := Nat.two_pow_pos _
  rcases Nat.lt_trichotomy f.infMag (f.magOf x) with h | h | h
  · rw [read_nan f daz x (by omega) fun _ => by omega]
    exact .nan _ (by simp [hnan, h])
  · rw [read_inf f daz x (by omega) hi h.symm, ← hneg]
    refine .inf (by simp [hnan, h]) (by simp [hinf, h]) ?_
    rw [hzero, decide_eq_false_iff_not]
    omega
  · by_cases hz : f.magOf x = 0 ∨ daz = true ∧ f.magOf x < 2 ^ f.mb
    · rw [read_zero f daz x hz (by omega), ← hneg]
      exact .zero (by simp [hnan]; omega) (by simp [hinf]; omega) (by simp [hzero, hz])
    · rw [read_fin f daz x hz (by omega), ← hneg]
      refine .fin _ _ (by simp [hnan]; omega) (by simp [hinf]; omega) (by simp [hzero, hz]) ?_ ?_
      · have := qmin_le_expOf f x
        unfold Fmt.qmin at this
        omega
      · rw [hty, exactVal_eq f _ x hb hu, hneg]


theorem mmaReads_e4m3 (x : Nat) (hx : x < 256) : MmaReads .e4m3 false x (fmtE4M3.read false x) := by
  have hmag : fmtE4M3.magOf x = x % 128 := rfl
  have hneg : mmaNeg .e4m3 x = fmtE4M3.signOf x := by
    unfold mmaNeg Fmt.signOf
    rw [decide_eq_decide]
    change 128 ≤ x ↔ x / 128 % 2 = 1
    omega
  have hlt := Nat.mod_lt x (show 128 > 0 by decide)
  have hmax : fmtE4M3.maxMag = 126 := rfl
  by_cases h : x % 128 = 127
  · rw [read_nan fmtE4M3 false x (by omega) fun h => absurd h Bool.false_ne_true]
    exact .nan _ (by simp [mmaNan, h])
  · by_cases hz : x % 128 = 0
    · rw [read_zero fmtE4M3 false x (.inl hz) (by omega), ← hneg]
      exact .zero (by simp [mmaNan, h]) rfl (by simp [mmaZero, hz])
    · have hnz : ¬ (fmtE4M3.magOf x = 0 ∨ false = true ∧ fmtE4M3.magOf x < 2 ^ fmtE4M3.mb) := by simp [hmag, hz]
      rw [read_fin fmtE4M3 false x hnz (by omega), ← hneg]
      refine .fin _ _ (by simp [mmaNan, h]) rfl (by simp [mmaZero, hz]) ?_ ?_
      · have hq := qmin_le_expOf fmtE4M3 x
        have hmin : fmtE4M3.qmin = -9 := rfl
        change -((16 : Nat) : Int) ≤ _
        omega
      · rw [hneg]
        exact exactVal_eq fmtE4M3 16 x rfl (by decide)

/-- A byte read as E5M2. -/
theorem mmaReads_e5m2 (x : Nat) (hx : x < 256) : MmaReads .e5m2 false x (fmtE5M2.read false x) := by
  have hmag : fmtE5M2.magOf x = x % 128 := rfl
  refine mmaReads_ieee fmtE5M2 rfl rfl rfl rfl (by decide) (by decide) rfl ?_ ?_ ?_
  · exact beq_eq_decide ..
  · simp [mmaZero, hmag, beq_eq_decide]
  · unfold mmaNeg Fmt.signOf
    rw [decide_eq_decide]
    change 128 ≤ x ↔ x / 128 % 2 = 1
    omega

/-- A half word read as F16 or BF16. -/
theorem mmaReads_half {ty : Ty} (hty : ty = .f16 ∨ ty = .bf16) (daz : Bool) (x : Nat) (hx : x < 65536) :
    MmaReads ty daz x ((fmtOf ty).read daz x) := by
  have hsign : ∀ f : Fmt, f.eb + f.mb = 15 → decide (0x8000 ≤ x) = f.signOf x := fun f hf => by
    unfold Fmt.signOf
    rw [hf, decide_eq_decide]
    omega
  have hzero : ∀ m : Nat, 0 < m → (if daz then decide (x % 0x8000 < m) else x % 0x8000 == 0) =
      decide (x % 0x8000 = 0 ∨ daz = true ∧ x % 0x8000 < m) := fun m hm => by
    cases daz with
    | false => simp [beq_eq_decide]
    | true =>
      simp only [if_pos, true_and, decide_eq_decide]
      omega
  rcases hty with rfl | rfl
  · exact mmaReads_ieee fmtF16 rfl rfl rfl rfl (by decide) (by decide) rfl (beq_eq_decide ..) (hzero 0x400 (by decide))
      (hsign fmtF16 rfl)
  · exact mmaReads_ieee fmtBF16 rfl rfl rfl rfl (by decide) (by decide) rfl (beq_eq_decide ..) (hzero 0x80 (by decide))
      (hsign fmtBF16 rfl)

/-! ### A product -/

/-- The product of two operands as read; none: NaN. -/
def operandProduct (x y : Fv) : Option Fv := if x.isNan || y.isNan then none else x.mul y

/-- What a product of two operands is, and what it makes of a sum. -/
inductive MmaProduct (ty : Ty) (daz : Bool) (x y : Nat) : Option Fv → Prop
  | nan : mmaSpec ty daz x y = 3 → MmaProduct ty daz x y none
  | inf (n : Bool) : mmaSpec ty daz x y = (if n then 2 else 1) → MmaProduct ty daz x y (some (.inf n))
  | zero (n : Bool) : mmaSpec ty daz x y = 0 → mmaProd ty daz x y = 0 → (mmaZero ty daz x || mmaZero ty daz y) = true →
      (mmaNeg ty x != mmaNeg ty y) = n → MmaProduct ty daz x y (some (.zero n))
  | fin (n : Bool) (m : Nat) (e : Int) : mmaSpec ty daz x y = 0 →
      mmaProd ty daz x y = scaled n m e (-(2 * (mmaUnit ty : Int))) → (mmaZero ty daz x || mmaZero ty daz y) = false →
      MmaProduct ty daz x y (some (.fin n m e))

theorem mmaProd_float {ty : Ty} (hty : MmaFloat ty) {daz : Bool} {x y : Nat}
    (hz : (mmaZero ty daz x || mmaZero ty daz y) = false) : mmaProd ty daz x y =
      exactVal (fmtOf ty).eb (fmtOf ty).mb (mmaUnit ty) x * exactVal (fmtOf ty).eb (fmtOf ty).mb (mmaUnit ty) y := by
  unfold mmaProd
  rw [hz, if_neg Bool.false_ne_true]
  rcases hty with rfl | rfl | rfl | rfl <;> rfl

/-- An infinity times what is neither 0 nor a NaN. -/
theorem mmaSpec_inf {ty : Ty} {daz : Bool} {x y : Nat} (hx : mmaNan ty x = false) (hy : mmaNan ty y = false)
    (hz : (mmaZero ty daz x || mmaZero ty daz y) = false) (hi : (mmaInf ty x || mmaInf ty y) = true) :
    mmaSpec ty daz x y = if mmaNeg ty x != mmaNeg ty y then 2 else 1 := by
  obtain ⟨hzx, hzy⟩ := Bool.or_eq_false_iff.1 hz
  unfold mmaSpec
  rw [if_neg (by simp [hx, hy, hzx, hzy]), if_pos hi]
  cases mmaNeg ty x <;> cases mmaNeg ty y <;> rfl

theorem mmaProduct_of_reads {ty : Ty} (hty : MmaFloat ty) {daz : Bool} {x y : Nat} {u v : Fv} (hx : MmaReads ty daz x u)
    (hy : MmaReads ty daz y v) : MmaProduct ty daz x y (operandProduct u v) := by
  have hzero : ∀ {x y}, (mmaZero ty daz x || mmaZero ty daz y) = true → mmaProd ty daz x y = 0 := fun h => if_pos h
  cases hx with
  | nan b hn => exact .nan (by simp [mmaSpec, hn])
  | inf hn hi hz =>
    cases hy with
    | nan b hn' => exact .nan (by simp [mmaSpec, hn'])
    | inf hn' hi' hz' =>
      exact .inf _ (mmaSpec_inf hn hn' (by simp [hz, hz']) (by simp [hi, hi']))
    | zero hn' hi' hz' => exact .nan (by simp [mmaSpec, hi, hz'])
    | fin m e hn' hi' hz' he hv =>
      exact .inf _ (mmaSpec_inf hn hn' (by simp [hz, hz']) (by simp [hi, hi']))
  | zero hn hi hz =>
    cases hy with
    | nan b hn' => exact .nan (by simp [mmaSpec, hn'])
    | inf hn' hi' hz' => exact .nan (by simp [mmaSpec, hi', hz])
    | zero hn' hi' hz' => exact .zero _ (by simp [mmaSpec, hn, hi, hn', hi']) (hzero (by simp [hz])) (by simp [hz]) rfl
    | fin m e hn' hi' hz' he hv =>
      exact .zero _ (by simp [mmaSpec, hn, hi, hn', hi']) (hzero (by simp [hz])) (by simp [hz]) rfl
  | fin m e hn hi hz he hv =>
    cases hy with
    | nan b hn' => exact .nan (by simp [mmaSpec, hn'])
    | inf hn' hi' hz' =>
      exact .inf _ (mmaSpec_inf hn hn' (by simp [hz, hz']) (by simp [hi, hi']))
    | zero hn' hi' hz' =>
      exact .zero _ (by simp [mmaSpec, hn, hi, hn', hi']) (hzero (by simp [hz'])) (by simp [hz']) rfl
    | fin m' e' hn' hi' hz' he' hv' =>
      have hnz : (mmaZero ty daz x || mmaZero ty daz y) = false := by simp [hz, hz']
      refine .fin _ _ _ (by simp [mmaSpec, hn, hi, hn', hi']) ?_ hnz
      rw [mmaProd_float hty hnz, hv, hv']
      exact (scaled_mul _ _ _ _ _ _ _ he he').symm

end Machine

namespace Machine

open Host Safety

/-! ## Sums of products (R195) -/

section
variable (ty : Ty) (daz : Bool)

theorem mmaSum_cons (p : Nat × Nat) (ps : List (Nat × Nat)) :
    mmaSum ty daz (p :: ps) =
      (if mmaSpec ty daz p.1 p.2 = 0 then mmaProd ty daz p.1 p.2 else 0) + mmaSum ty daz ps := by
  unfold mmaSum
  by_cases h : mmaSpec ty daz p.1 p.2 = 0
  · rw [if_pos h, List.filter_cons_of_pos (by simpa using h), List.map_cons, List.sum_cons]
  · rw [if_neg h, List.filter_cons_of_neg (by simpa using h), Int.zero_add]

theorem mmaSpecs_cons (spec : Nat) (p : Nat × Nat) (ps : List (Nat × Nat)) :
    mmaSpecs ty daz spec (p :: ps) = mmaSpecs ty daz (specJoin spec (mmaSpec ty daz p.1 p.2)) ps := rfl

end

theorem specJoin_zero (a : Nat) : specJoin a 0 = a := by
  unfold specJoin
  split
  · next h => exact h.symm
  · exact if_pos (.inl rfl)

theorem specJoin_three {a : Nat} : specJoin a 3 = 3 := by
  unfold specJoin
  split
  · rfl
  · split
    · next h => exact h.resolve_left (by decide)
    · rfl

/-- What one product adds to a tile's entry: its value where it has one, and else what it makes of the sum. -/
def mmaStep (ty : Ty) (x : Int) (spec : Nat) (p : Nat × Nat) : Int × Nat :=
  (x + (if mmaSpec ty false p.1 p.2 = 0 then mmaProd ty false p.1 p.2 else 0), specJoin spec (mmaSpec ty false p.1 p.2))

/-- What an exact product does to an entry's sum. -/
def addProd (r : Prod) (a : Int × Nat) : Int × Nat :=
  match r with
  | .nan => (a.1, specJoin a.2 3)
  | .inf n => (a.1, specJoin a.2 (if n then 2 else 1))
  | .fin x => (a.1 + x, a.2)

theorem addProd_fin {ty : Ty} {p q : Nat} {v : Int} (hs : mmaSpec ty false p q = 0) (hv : mmaProd ty false p q = v) (x : Int)
    (spec : Nat) : addProd (.fin v) (x, spec) = mmaStep ty x spec (p, q) := by
  unfold mmaStep
  rw [hs, if_pos rfl, hv, specJoin_zero]
  rfl

theorem addProd_prodF {ty : Ty} (hty : ty = .e4m3 ∨ ty = .e5m2) {p q : Nat} (hp : p < 256) (hq : q < 256) (x : Int)
    (spec : Nat) :
    addProd (prodF ((fmtOf ty).read false p) ((fmtOf ty).read false q)) (x, spec) = mmaStep ty x spec (p, q) := by
  have hreads : ∀ n, n < 256 → MmaReads ty false n ((fmtOf ty).read false n) := fun n hn => by
    rcases hty with rfl | rfl
    · exact mmaReads_e4m3 n hn
    · exact mmaReads_e5m2 n hn
  have hfloat : MmaFloat ty := by
    rcases hty with rfl | rfl
    · exact .inl rfl
    · exact .inr (.inl rfl)
  have hunit : -(2 * (mmaUnit ty : Int)) = -32 := by rcases hty with rfl | rfl <;> rfl
  have hprod := mmaProduct_of_reads hfloat (hreads p hp) (hreads q hq)
  have hF : ∀ u v, prodF u v = match operandProduct u v with
      | none => .nan
      | some (.inf n) => .inf n
      | some (.fin n m e) => .fin (scaled n m e (-32))
      | some _ => .fin 0 := fun u v => by
    unfold prodF operandProduct
    split
    · rfl
    · cases u.mul v with
      | none => rfl
      | some w => cases w <;> rfl
  rw [hF]
  generalize operandProduct _ _ = r at hprod
  cases hprod with
  | nan hs =>
    unfold mmaStep
    rw [hs, if_neg (by decide), Int.add_zero]
    rfl
  | inf n hs =>
    unfold mmaStep
    rw [hs, if_neg (by cases n <;> decide), Int.add_zero]
    rfl
  | zero n hs hv hz hn => exact addProd_fin hs hv x spec
  | fin n m e hs hv hz => exact addProd_fin hs (hv.trans (by rw [hunit])) x spec

theorem addProd_i8 (p q : Byte) (x : Int) (spec : Nat) :
    addProd (.fin (p.toInt * q.toInt * 2 ^ 32)) (x, spec) = mmaStep .i8 x spec (p.toNat, q.toNat) := by
  refine addProd_fin (by simp [mmaSpec, mmaNan, mmaInf]) ?_ x spec
  unfold mmaProd
  rw [BitVec.ofNat_toNat, BitVec.ofNat_toNat, BitVec.setWidth_eq, BitVec.setWidth_eq]
  split
  · next h =>
    have hz : p = 0 ∨ q = 0 := by
      rcases Bool.or_eq_true_iff.1 h with h | h
      · exact .inl (BitVec.eq_of_toNat_eq (beq_iff_eq.1 h))
      · exact .inr (BitVec.eq_of_toNat_eq (beq_iff_eq.1 h))
    rcases hz with rfl | rfl <;> simp
  · rfl

theorem addProd_l6 (p q : Nat) (x : Int) (spec : Nat) : addProd (prodL6 p q) (x, spec) = mmaStep .l6 x spec (p, q) := by
  unfold prodL6
  by_cases hn : 64 ≤ p ∨ 64 ≤ q ∨ p = 32 ∨ q = 32
  · have hspec : mmaSpec .l6 false p q = 3 := if_pos (by
      simp only [mmaNan, Bool.or_eq_true, decide_eq_true_eq, beq_iff_eq]
      tauto)
    rw [if_pos hn]
    unfold mmaStep
    rw [hspec, if_neg (by decide), Int.add_zero]
    rfl
  · obtain ⟨hp, hq, hp', hq'⟩ : p < 64 ∧ q < 64 ∧ p ≠ 32 ∧ q ≠ 32 := by omega
    have hnan : ∀ n, n < 64 → n ≠ 32 → mmaNan .l6 n = false := fun n h h' => by simp [mmaNan]; omega
    have hspec : mmaSpec .l6 false p q = 0 := by
      simp [mmaSpec, hnan p hp hp', hnan q hq hq', mmaInf]
    rw [if_neg hn]
    by_cases hz : p = 0 ∨ q = 0
    · rw [if_pos hz]
      refine addProd_fin hspec (if_pos ?_) x spec
      rcases hz with rfl | rfl <;> simp [mmaZero]
    · obtain ⟨hzp, hzq⟩ := not_or.1 hz
      rw [if_neg hz]
      refine addProd_fin hspec ?_ x spec
      have hsign : (mmaNeg .l6 p == mmaNeg .l6 q) = (p / 32 == q / 32) := by
        unfold mmaNeg
        rw [Bool.eq_iff_iff, beq_iff_eq, beq_iff_eq, decide_eq_decide]
        omega
      have hroot : ∀ k, k < 4 → (([0x1000000, 0x1306FE1, 0x16A09E6, 0x1AE89FA] : List Int)[k]?.getD 0) = l6Root k := by
        decide
      have ht : ∀ t : Nat, ((((t : Int) - 32) % 4).toNat = t % 4) ∧ ((((t : Int) - 32) / 4 + 8).toNat = t / 4) := fun
          t => by
        omega
      obtain ⟨hm, hd⟩ := ht (p % 32 + q % 32)
      rw [Nat.cast_add] at hm hd
      unfold mmaProd
      rw [if_neg (by simp [mmaZero, hzp, hzq])]
      dsimp only
      rw [hsign, hroot _ (Nat.mod_lt _ (by decide)), hm, hd]

/-- Each product of two bytes. -/
theorem addProd_prodOf {ty : Ty} (hty : ty ∈ [Ty.e4m3, .e5m2, .i8, .l6]) (p q : Byte) (x : Int) (spec : Nat) :
    addProd (prodOf ty p q) (x, spec) = mmaStep ty x spec (p.toNat, q.toNat) := by
  simp only [List.mem_cons, List.not_mem_nil, or_false] at hty
  rcases hty with rfl | rfl | rfl | rfl
  · exact addProd_prodF (.inl rfl) p.isLt q.isLt x spec
  · exact addProd_prodF (.inr rfl) p.isLt q.isLt x spec
  · exact addProd_i8 p q x spec
  · exact addProd_l6 p.toNat q.toNat x spec

/-- The sum of an entry with the products of a row and a column of bytes. -/
theorem addProds_eq {ty : Ty} (hty : ty ∈ [Ty.e4m3, .e5m2, .i8, .l6]) (x : Int) (spec : Nat) (xs ys : List Byte) :
    addProds ty (x, spec) xs ys =
      (x + mmaSum ty false ((xs.map (·.toNat)).zip (ys.map (·.toNat))),
        mmaSpecs ty false spec ((xs.map (·.toNat)).zip (ys.map (·.toNat)))) := by
  have hfold : addProds ty (x, spec) xs ys = (xs.zip ys).foldl (fun a p => addProd (prodOf ty p.1 p.2) a) (x, spec) :=
      rfl
  rw [hfold, List.zip_map]
  clear hfold
  induction xs.zip ys generalizing x spec with
  | nil => simp [mmaSum, mmaSpecs]
  | cons p ps ih =>
    rw [List.foldl_cons, addProd_prodOf hty]
    unfold mmaStep
    rw [ih, List.map_cons, mmaSum_cons, mmaSpecs_cons]
    exact Prod.ext (Int.add_assoc ..) rfl

theorem map_mapIdx {α β γ : Type} (g : β → γ) (f : Nat → α → β) (xs : List α) :
    (xs.mapIdx f).map g = xs.mapIdx fun i x => g (f i x) :=
  List.ext_getElem (by simp) fun i h1 h2 => by simp

/-- A tile of an exact chain after a row product. -/
theorem mmaTile_exact {ty : Ty} (hty : ty ∈ [Ty.e4m3, .e5m2, .i8, .l6]) (v : Fenv) (n : Nat) (ra rb : List (List Byte))
    (t : ChainTile) :
    let bytes := fun e => ((ra[e / n]?.getD []).map (·.toNat)).zip ((rb[e % n]?.getD []).map (·.toNat))
    (mmaTile ty v n ra rb t).1 = { t with
      steps := t.steps + 1
      sum := t.sum.mapIdx fun e x => x + mmaSum ty false (bytes e)
      spec := t.sum.mapIdx fun e _ => mmaSpecs ty false (t.spec[e]?.getD 0) (bytes e) } := by
  have hexact : exactMma ty = true := by
    simp only [List.mem_cons, List.not_mem_nil, or_false] at hty
    rcases hty with rfl | rfl | rfl | rfl <;> rfl
  have hfst : ∀ e x, (addProds ty (x, nthD 0 t.spec e) (nthD [] ra (e / n)) (nthD [] rb (e % n))) = _ := fun e x =>
    addProds_eq hty x _ _ _
  unfold mmaTile
  rw [if_pos hexact]
  simp only [hfst, map_mapIdx]
  rfl

end Machine

namespace Machine

open Host Safety

/-! ## Sums of 16-bit products, rounded once (R169, R195) -/

/-- The elements of a row of bytes, two by two. -/
theorem halves_eq (r : List Byte) : halves r = rowHalves r := by
  induction r using halves.induct with
  | case1 a b rest ih =>
    have hlen : (a :: b :: rest).length / 2 = rest.length / 2 + 1 := by
      simp only [List.length_cons]
      omega
    unfold halves rowHalves
    rw [hlen, List.range_succ_eq_map, List.map_cons, List.map_map, ih]
    refine congrArg (List.cons _) (List.map_congr_left fun k _ => ?_)
    have h0 : 2 * (k + 1) = 2 * k + 1 + 1 := by omega
    simp only [Function.comp_apply, Nat.succ_eq_add_one, h0, List.getElem!_cons_succ]
  | case2 r hr =>
    have hlen : r.length / 2 = 0 := by
      cases r with
      | nil => rfl
      | cons a r =>
        cases r with
        | nil => exact Nat.div_eq_of_lt (by simp)
        | cons b r => exact absurd rfl (hr a b r)
    unfold rowHalves
    rw [hlen]
    unfold halves
    split
    · exact absurd rfl (hr _ _ _)
    · rfl

theorem rowHalves_lt (r : List Byte) : ∀ x ∈ rowHalves r, x < 65536 := by
  intro x hx
  obtain ⟨k, -, rfl⟩ := List.mem_map.1 hx
  have h1 := (r[2 * k]!).isLt
  have h2 := (r[2 * k + 1]!).isLt
  omega

section
variable {ty : Ty} {daz : Bool}

/-- What a product makes of a sum is one of four. -/
theorem mmaSpec_le (x y : Nat) : mmaSpec ty daz x y ≤ 3 := by
  unfold mmaSpec
  split
  · exact Nat.le_refl 3
  · split
    · split <;> decide
    · decide

theorem specJoin_le {a b : Nat} (ha : a ≤ 3) (hb : b ≤ 3) : specJoin a b ≤ 3 := by
  unfold specJoin
  split
  · exact hb
  · split
    · exact ha
    · exact Nat.le_refl 3

theorem specJoin_eq_zero {a b : Nat} : specJoin a b = 0 ↔ a = 0 ∧ b = 0 := by
  unfold specJoin
  split
  · next h => simp [h]
  · next h =>
    split
    · simp [h]
    · simp [h]

theorem mmaSpecs_le {spec : Nat} (h : spec ≤ 3) (ps : List (Nat × Nat)) : mmaSpecs ty daz spec ps ≤ 3 := by
  induction ps generalizing spec with
  | nil => exact h
  | cons p ps ih => exact ih (specJoin_le h (mmaSpec_le _ _))

theorem mmaSpecs_eq_zero {spec : Nat} {ps : List (Nat × Nat)} :
    mmaSpecs ty daz spec ps = 0 ↔ spec = 0 ∧ ∀ p ∈ ps, mmaSpec ty daz p.1 p.2 = 0 := by
  induction ps generalizing spec with
  | nil => simp [mmaSpecs]
  | cons p ps ih =>
    rw [mmaSpecs_cons, ih, specJoin_eq_zero, List.forall_mem_cons, and_assoc]

/-- A product that is a zero of a sign. -/
def mmaZeroIs (ty : Ty) (daz : Bool) (n : Bool) (p : Nat × Nat) : Bool :=
  (mmaZero ty daz p.1 || mmaZero ty daz p.2) && (mmaNeg ty p.1 != mmaNeg ty p.2) == n

/-- What one product does to an exact sum. -/
theorem esum_add {p : Nat × Nat} {r : Option Fv} (hunit : -(2 * (mmaUnit ty : Int)) = esumScale)
    (h : MmaProduct ty daz p.1 p.2 r) (a : ESum) :
    (a.add r).x = a.x + (if mmaSpec ty daz p.1 p.2 = 0 then mmaProd ty daz p.1 p.2 else 0) ∧
    (a.add r).spec = specJoin a.spec (mmaSpec ty daz p.1 p.2) ∧
    (mmaSpec ty daz p.1 p.2 = 0 → ∀ n, (a.add r).zneg = some n ↔ a.zneg = some n ∧ mmaZeroIs ty daz n p = true) := by
  cases h with
  | nan hs =>
    rw [hs, if_neg (by decide)]
    exact ⟨(Int.add_zero _).symm, specJoin_three.symm, fun h => absurd h (by decide)⟩
  | inf n hs =>
    have hne : ¬ mmaSpec ty daz p.1 p.2 = 0 := by rw [hs]; cases n <;> decide
    rw [if_neg hne, hs]
    refine ⟨(Int.add_zero _).symm, rfl, fun h => absurd h ?_⟩
    cases n <;> decide
  | zero n hs hv hz hn =>
    rw [hs, if_pos rfl, hv, specJoin_zero]
    refine ⟨(Int.add_zero _).symm, rfl, fun _ k => ?_⟩
    unfold mmaZeroIs
    rw [hz, hn, Bool.true_and, beq_iff_eq]
    change (if a.zneg == some n then some n else none) = some k ↔ _
    by_cases hzn : a.zneg = some n
    · rw [if_pos (by simp [hzn]), hzn]
      simp
    · rw [if_neg (by simpa using hzn)]
      constructor
      · intro h
        exact absurd h (by simp)
      · rintro ⟨h, rfl⟩
        exact absurd h hzn
  | fin n m e hs hv hz =>
    rw [hs, if_pos rfl, hv, specJoin_zero, hunit]
    refine ⟨rfl, rfl, fun _ k => ?_⟩
    unfold mmaZeroIs
    rw [hz, Bool.false_and]
    constructor
    · intro h
      exact absurd h (by simp [ESum.add])
    · rintro ⟨-, h⟩
      exact absurd h Bool.false_ne_true

/-- An exact sum with the products of a list of operands. -/
theorem esum_foldl (hunit : -(2 * (mmaUnit ty : Int)) = esumScale) (prod : Nat × Nat → Option Fv) (ps : List (Nat ×
    Nat))
    (h : ∀ p ∈ ps, MmaProduct ty daz p.1 p.2 (prod p)) (a : ESum) :
    (ps.foldl (fun a p => a.add (prod p)) a).x = a.x + mmaSum ty daz ps ∧
    (ps.foldl (fun a p => a.add (prod p)) a).spec = mmaSpecs ty daz a.spec ps ∧
    ((∀ p ∈ ps, mmaSpec ty daz p.1 p.2 = 0) → ∀ n, (ps.foldl (fun a p => a.add (prod p)) a).zneg = some n ↔
      a.zneg = some n ∧ ps.all (mmaZeroIs ty daz n) = true) := by
  induction ps generalizing a with
  | nil => exact ⟨(Int.add_zero _).symm, rfl, fun _ n => by simp⟩
  | cons p ps ih =>
    obtain ⟨hx, hspec, hz⟩ := esum_add hunit (h p (List.mem_cons_self ..)) a
    obtain ⟨ihx, ihspec, ihz⟩ := ih (fun q hq => h q (List.mem_cons_of_mem _ hq)) (a.add (prod p))
    rw [List.foldl_cons]
    refine ⟨?_, ?_, fun hall n => ?_⟩
    · rw [ihx, hx, mmaSum_cons, Int.add_assoc]
    · rw [ihspec, hspec, mmaSpecs_cons]
    · obtain ⟨hp, hps⟩ := List.forall_mem_cons.1 hall
      rw [ihz hps, hz hp, List.all_cons, Bool.and_eq_true, and_assoc]

end

/-! ### The entry that a sum starts with -/

/-- What a sum starts with: its special value, its exact value, and whether it is a zero of a sign. -/
def startSpec (z : Nat) : Nat :=
  if 0x7F800000 < z % 2 ^ 31 then 3 else if z % 2 ^ 31 == 0x7F800000 then (if z < 2 ^ 31 then 1 else 2) else 0
def startValue (z : Nat) : Int :=
  if z % 2 ^ 31 == 0x7F800000 || decide (0x7F800000 < z % 2 ^ 31) then 0 else exactVal 8 23 300 z

theorem startSpec_le (z : Nat) : startSpec z ≤ 3 := by
  unfold startSpec
  split
  · decide
  · split
    · split <;> decide
    · decide

theorem esum_start (z : Nat) (hz : z < 2 ^ 32) :
    (ESum.start (fmtF32.read false z)).spec = startSpec z ∧ (ESum.start (fmtF32.read false z)).x = startValue z ∧
    (startSpec z = 0 → ∀ n, (ESum.start (fmtF32.read false z)).zneg = some n ↔ z = if n then 2 ^ 31 else 0) := by
  have hmag : fmtF32.magOf z = z % 2 ^ 31 := rfl
  have hinf : fmtF32.infMag = 0x7F800000 := rfl
  have hmax : fmtF32.maxMag = 0x7F7FFFFF := rfl
  have hsign : fmtF32.signOf z = decide (2 ^ 31 ≤ z) := by
    unfold Fmt.signOf
    rw [decide_eq_decide]
    change z / 2 ^ 31 % 2 = 1 ↔ _
    omega
  have hspecial : 0x7F800000 ≤ z % 2 ^ 31 → startValue z = 0 := fun h => if_pos (by
    rw [Bool.or_eq_true, beq_iff_eq, decide_eq_true_eq]
    omega)
  have hfinite : z % 2 ^ 31 < 0x7F800000 → startSpec z = 0 ∧ startValue z = exactVal 8 23 300 z := fun h =>
    ⟨(if_neg (by omega)).trans (if_neg (by rw [beq_iff_eq]; omega)), if_neg (by
      rw [Bool.or_eq_true, beq_iff_eq, decide_eq_true_eq]
      omega)⟩
  rcases Nat.lt_trichotomy 0x7F800000 (z % 2 ^ 31) with h | h | h
  · have hs : startSpec z = 3 := if_pos h
    rw [read_nan fmtF32 false z (by omega) fun _ => by omega, hspecial (by omega), hs]
    exact ⟨rfl, rfl, fun h => absurd h (by decide)⟩
  · have hs : startSpec z = if z < 2 ^ 31 then 1 else 2 := (if_neg (by omega)).trans (if_pos (by rw [beq_iff_eq, h]))
    rw [read_inf fmtF32 false z (by omega) rfl (by omega), hspecial (by omega), hs, hsign]
    by_cases hlow : z < 2 ^ 31
    · rw [decide_eq_false (by omega), if_pos hlow]
      exact ⟨rfl, rfl, fun h => absurd h (by decide)⟩
    · rw [decide_eq_true (by omega), if_neg hlow]
      exact ⟨rfl, rfl, fun h => absurd h (by decide)⟩
  · obtain ⟨hs, hv⟩ := hfinite h
    rw [hs, hv]
    by_cases h0 : z % 2 ^ 31 = 0
    · rw [read_zero fmtF32 false z (.inl h0) (by omega), hsign]
      refine ⟨rfl, (exactVal_zero fmtF32 300 z h0).symm, fun _ n => ?_⟩
      change some (decide (2 ^ 31 ≤ z)) = some n ↔ _
      rw [Option.some_inj]
      cases n
      · simp only [decide_eq_false_iff_not, Bool.false_eq_true, if_false]
        omega
      · simp only [decide_eq_true_eq, if_true]
        omega
    · rw [read_fin fmtF32 false z (by rw [hmag]; simpa using h0) (by omega)]
      refine ⟨rfl, ?_, fun _ n => ?_⟩
      · exact (Int.zero_add _).trans (exactVal_eq fmtF32 300 z rfl (by decide)).symm
      · have hno : z ≠ if n then 2 ^ 31 else 0 := by
          cases n
          · simp only [Bool.false_eq_true, if_false]
            omega
          · simp only [if_true]
            omega
        exact ⟨fun h => absurd h (by simp [ESum.start, ESum.add]), fun h => absurd h hno⟩

/-- A 16-bit chain's entry after a row product. -/
theorem fmaRow_eq {ty : Ty} (hty : ty = .f16 ∨ ty = .bf16) (v : Fenv) (z : W32) (xs ys : List Nat)
    (hxs : ∀ x ∈ xs, x < 65536) (hys : ∀ y ∈ ys, y < 65536) :
    (fmaRow ty v z xs ys).1.1 = mmaRound ty v z.toNat (xs.zip ys) := by
  have hunit : -(2 * (mmaUnit ty : Int)) = esumScale := by rcases hty with rfl | rfl <;> rfl
  have hfloat : MmaFloat ty := by
    rcases hty with rfl | rfl
    · exact .inr (.inr (.inl rfl))
    · exact .inr (.inr (.inr rfl))
  have hprods : ∀ p ∈ xs.zip ys, MmaProduct ty v.daz p.1 p.2
      (operandProduct ((fmtOf ty).read v.daz p.1) ((fmtOf ty).read v.daz p.2)) := fun p hp =>
    mmaProduct_of_reads hfloat (mmaReads_half hty v.daz _ (hxs _ (List.of_mem_zip hp).1))
      (mmaReads_half hty v.daz _ (hys _ (List.of_mem_zip hp).2))
  obtain ⟨hs0, hx0, hz0⟩ := esum_start z.toNat z.isLt
  obtain ⟨hx, hs, hz⟩ := esum_foldl hunit _ _ hprods (ESum.start (fmtF32.read false z.toNat))
  rw [hx0] at hx
  rw [hs0] at hs
  have hrow : fmaRow ty v z xs ys = ((xs.zip ys).foldl (fun a p => a.add
      (operandProduct ((fmtOf ty).read v.daz p.1) ((fmtOf ty).read v.daz p.2))) (ESum.start (fmtF32.read false
          z.toNat))).give v := rfl
  rw [hrow]
  generalize (xs.zip ys).foldl _ _ = a at hx hs hz
  have hle : a.spec ≤ 3 := hs ▸ mmaSpecs_le (startSpec_le _) _
  have hround : mmaRound ty v z.toNat (xs.zip ys) =
      if a.spec = 3 then 0x7FC00000 else if a.spec = 1 then 0x7F800000 else if a.spec = 2 then 0xFF800000
      else if a.x = 0 then
        (if (z.toNat == 2 ^ 31 && (xs.zip ys).all (mmaZeroIs ty v.daz true)) ||
          (!(z.toNat == 0 && (xs.zip ys).all (mmaZeroIs ty v.daz false)) && v.rm == .rd) then 0x80000000 else 0)
      else (fmtF32.fin v (decide (a.x < 0)) a.x.natAbs (-300) false).1 := by
    rw [hx, hs]
    rfl
  rw [hround]
  unfold ESum.give
  by_cases h3 : a.spec = 3
  · rw [if_pos h3, if_pos h3]
    rfl
  · rw [if_neg h3, if_neg h3]
    by_cases hne : a.spec = 0
    · rw [if_neg (show ¬ a.spec ≠ 0 by omega), if_neg (show ¬ a.spec = 1 by omega), if_neg (show ¬ a.spec = 2 by omega)]
      by_cases ha : a.x = 0
      · rw [if_pos ha, if_pos ha]
        obtain ⟨hstart, hall⟩ := mmaSpecs_eq_zero.1 (hs.symm.trans hne)
        have hzneg := fun n => (hz hall n).trans (and_congr (hz0 hstart n) Iff.rfl)
        have htrue : (z.toNat == 2 ^ 31 && (xs.zip ys).all (mmaZeroIs ty v.daz true)) = decide (a.zneg = some true) :=
            by
          rw [Bool.eq_iff_iff, Bool.and_eq_true, beq_iff_eq, decide_eq_true_eq, hzneg]
          rfl
        have hfalse : (z.toNat == 0 && (xs.zip ys).all (mmaZeroIs ty v.daz false)) = decide (a.zneg = some false) := by
          rw [Bool.eq_iff_iff, Bool.and_eq_true, beq_iff_eq, decide_eq_true_eq, hzneg]
          rfl
        rw [htrue, hfalse]
        cases a.zneg with
        | none => cases h : v.rm == .rd <;> rfl
        | some n => cases n <;> rfl
      · rw [if_neg ha, if_neg ha]
        rfl
    · rw [if_pos hne]
      rcases (by omega : a.spec = 1 ∨ a.spec = 2) with h | h <;> rw [h] <;> rfl

/-- A tile of a 16-bit chain after a row product. -/
theorem mmaTile_half {ty : Ty} (hty : ty = .f16 ∨ ty = .bf16) (v : Fenv) (n : Nat) (ra rb : List (List Byte))
    (t : ChainTile) :
    let words := fun e => (rowHalves (ra[e / n]?.getD [])).zip (rowHalves (rb[e % n]?.getD []))
    (mmaTile ty v n ra rb t).1 = { t with
      steps := t.steps + 1, zr := t.zr.mapIdx fun e z => BitVec.ofNat 32 (mmaRound ty v z.toNat (words e)) } := by
  have hno : ¬ exactMma ty = true := by rcases hty with rfl | rfl <;> decide
  have hrow : ∀ (rs : List (List Byte)) i, nthD [] (rs.map halves) i = rowHalves (rs[i]?.getD []) := fun rs i => by
    rw [nthD, List.getElem?_map, ← halves_eq]
    cases rs[i]? <;> rfl
  unfold mmaTile
  rw [if_neg hno]
  simp only [hrow, map_mapIdx]
  refine congrArg (fun zr => ({ t with steps := t.steps + 1, zr := zr } : ChainTile)) ?_
  refine congrArg (fun f => t.zr.mapIdx f) (funext fun e => funext fun z => congrArg (BitVec.ofNat 32) ?_)
  exact fmaRow_eq hty v z _ _ (rowHalves_lt _) (rowHalves_lt _)

/-! ## What MMA does (R193, R195) -/

theorem mmaChainTrap_eq (c : Chain) (tile : Nat) (ty : Ty) (rm : Rm) :
    mmaChainTrap (some c) tile ty rm =
      if (c.tiles.find? fun t => t.tile == tile) = none ∧ 8 ≤ c.tiles.length then some 3
      else if c.first ≠ none ∧ c.first ≠ some (ty, rm) then some 4
      else if ∃ t, (c.tiles.find? fun t => t.tile == tile) = some t ∧ 2 ^ 24 ≤ t.steps + 1 then some 5
      else none := by
  unfold mmaChainTrap
  dsimp only
  generalize (c.tiles.find? fun t => t.tile == tile) = old
  generalize c.first = first
  cases first <;> cases old <;> simp

theorem matrixMultiply : Claims.MatrixMultiply := by
  intro s g tm nf sw ty rm d a b c hg hready hmma hc w cols rows run v i old ra rb
  have hexec : exec i s = .next (inQuota s s.cur g run
      (if tileBeyond (s.desc g) g.width d.toNat then raiseL s s.cur g .quota (quotaInfo 3 d.toNat)
       else if ty == .l6 && !hasFeat s s.cur 2 then raiseL s s.cur g .feature 2
       else mmaRun s g tm sw ty rm d a b c)) := exec_mma hg hready hc
  refine ⟨quotaTrap_of hexec, fun hq htile hfeat => ?_, ?_⟩
  · have hrun : exec i s = .next (mmaRun s g tm sw ty rm d a b c) := by
      rw [hexec, inQuota_within hq, if_neg (by rw [htile]; exact Bool.false_ne_true), if_neg]
      intro h
      obtain ⟨hl6, hno⟩ := Bool.and_eq_true_iff.1 h
      rw [hfeat (by simpa using hl6)] at hno
      exact Bool.false_ne_true hno
    have hadds : mmaChainTrap (some c) d.toNat ty v.rm = none → ∀ t, old.getD (openTile d.toNat (zRead s g tm d.toNat)
        v.daz) = t →
        exec i s = .next (addStats (laneOn s { g with chain := some { c with
          first := some (ty, v.rm),
          tiles := if old.isSome then c.tiles.map fun x => if x.tile = d.toNat then (mmaTile ty v cols ra rb t).1 else x
            else c.tiles ++ [(mmaTile ty v cols ra rb t).1] } } (g.ctx.lpc + 12) sw) g.lid 255 (mmaTile ty v cols ra rb t).2) := by
      rintro htrap t rfl
      exact hrun.trans (congrArg Outcome.next (mmaRun_adds htrap hc _ rfl))
    have htrap := mmaChainTrap_eq c d.toNat ty v.rm
    refine ⟨fun hnone hfull => ?_, fun hroom hfirst hother => ?_, fun hfirst => ⟨fun t ht hsteps => ?_, fun hnone
        hroom => ?_⟩⟩
    · exact hrun.trans (congrArg Outcome.next (mmaRun_traps (htrap.trans (if_pos ⟨hnone, hfull⟩))))
    · exact hrun.trans (congrArg Outcome.next
        (mmaRun_traps (htrap.trans ((if_neg hroom).trans (if_pos ⟨hfirst, hother⟩)))))
    · have hok : mmaChainTrap (some c) d.toNat ty v.rm = none := by
        rw [htrap, if_neg, if_neg, if_neg]
        · rintro ⟨t', ht', h⟩
          cases Option.some_inj.1 (ht.symm.trans ht')
          omega
        · rintro ⟨h1, h2⟩
          exact hfirst.elim h1 h2
        · rintro ⟨h, -⟩
          exact Option.some_ne_none t (ht.symm.trans h)
      have h := hadds hok t (by rw [ht]; rfl)
      rw [ht] at h
      exact h
    · have hok : mmaChainTrap (some c) d.toNat ty v.rm = none := by
        rw [htrap, if_neg, if_neg, if_neg]
        · rintro ⟨t', ht', -⟩
          exact Option.some_ne_none t' (ht'.symm.trans hnone)
        · rintro ⟨h1, h2⟩
          exact hfirst.elim h1 h2
        · rintro ⟨-, h⟩
          omega
      have h := hadds hok _ (congrArg (Option.getD · _) hnone)
      rw [hnone] at h
      exact h
  · intro t bytes words
    refine ⟨fun hty => mmaTile_exact hty v cols ra rb t, fun hty => mmaTile_half ?_ v cols ra rb t⟩
    simpa using hty

/-- Settles O50: chains, and what MMA adds in them. -/
theorem matrixWords : Obligations.MatrixWords := ⟨matrixChains, matrixMultiply⟩

end Machine

end Sys2Proof
end

section
/-!
PROOFS. ExactResults: results exact, rounded once (R165 to R180).
-/
namespace Sys2Proof

namespace Machine

/-! ## Rounding (R169)

An exact magnitude X lies at or above m × 2^e and below (m + 1) × 2^e, and above m × 2^e just where a lower part is
    left over
(the sticky bit).  Cut at 2^q it lies between two neighbours of a grid. -/

/-- X has the integer part m in units of 2^e; more of it is left over when sticky. -/
def Between (X : ℝ) (m : Nat) (e : ℤ) (sticky : Bool) : Prop :=
  (m : ℝ) * 2 ^ e ≤ X ∧ X < ((m : ℝ) + 1) * 2 ^ e ∧ (sticky = true ↔ X ≠ (m : ℝ) * 2 ^ e)

theorem Between.exact (m : Nat) (e : ℤ) : Between ((m : ℝ) * 2 ^ e) m e false := by
  have h : (0 : ℝ) < 2 ^ e := by positivity
  refine ⟨le_refl _, ?_, by simp⟩
  nlinarith

section
variable {grid : Nat → ℚ} {X : ℝ}

/-- A value on the grid is kept. -/
theorem roundsTo_exact (rm : Rm) {lo : Nat} (hlo : |X| = grid lo) (hup : grid lo < grid (lo + 1)) :
    RoundsTo grid rm X lo := by
  refine ⟨lo, hlo.ge, ?_, fun _ => rfl, fun h => absurd hlo (ne_of_gt h)⟩
  rw [hlo]
  exact_mod_cast hup

/-- The part of X below the cut, in units of 2^e, against half a place. -/
theorem cut_compare {n rem sh : Nat} {e : ℤ} {sticky : Bool} (hsh : 0 < sh) (hX : Between |X| (n * 2 ^ sh + rem) e sticky) :
    (rem < 2 ^ (sh - 1) ↔ 2 * |X| < (2 * n + 1) * 2 ^ (e + sh)) ∧
    (2 ^ (sh - 1) < rem ∨ rem = 2 ^ (sh - 1) ∧ sticky = true ↔ (2 * n + 1) * 2 ^ (e + sh) < 2 * |X|) := by
  obtain ⟨hlow, hhigh, hsticky⟩ := hX
  have hpos : (0 : ℝ) < 2 ^ e := by positivity
  have hhalf : (2 : ℝ) ^ sh = 2 * 2 ^ (sh - 1) := by
    rw [← pow_succ', Nat.sub_add_cancel hsh]
  have hmid : (2 * (n : ℝ) + 1) * 2 ^ (e + sh) = 2 * ((n * 2 ^ sh + 2 ^ (sh - 1) : ℝ) * 2 ^ e) := by
    rw [zpow_add₀ (by norm_num), zpow_natCast, hhalf]
    ring
  push_cast at hlow hhigh hsticky
  rw [hmid]
  have hlt : rem < 2 ^ (sh - 1) ↔ |X| < (n * 2 ^ sh + 2 ^ (sh - 1) : ℝ) * 2 ^ e := by
    constructor
    · intro h
      have h' : (rem : ℝ) + 1 ≤ 2 ^ (sh - 1) := by exact_mod_cast h
      refine lt_of_lt_of_le hhigh (mul_le_mul_of_nonneg_right ?_ hpos.le)
      linarith
    · intro h
      have h' : (n * 2 ^ sh + rem : ℝ) < n * 2 ^ sh + 2 ^ (sh - 1) :=
        lt_of_mul_lt_mul_right (lt_of_le_of_lt hlow h) hpos.le
      have h'' : (rem : ℝ) < 2 ^ (sh - 1) := by linarith
      exact_mod_cast h''
  have heq : rem = 2 ^ (sh - 1) → (n * 2 ^ sh + rem : ℝ) * 2 ^ e = (n * 2 ^ sh + 2 ^ (sh - 1) : ℝ) * 2 ^ e := fun h =>
      by
    rw [h]
    push_cast
    rfl
  refine ⟨hlt.trans (by constructor <;> intro h <;> linarith), ?_⟩
  constructor
  · rintro (h | ⟨h, hs⟩)
    · have h' : (2 : ℝ) ^ (sh - 1) < rem := by exact_mod_cast h
      have : (n * 2 ^ sh + 2 ^ (sh - 1) : ℝ) * 2 ^ e < (n * 2 ^ sh + rem : ℝ) * 2 ^ e :=
        mul_lt_mul_of_pos_right (by linarith) hpos
      linarith
    · have hne := hsticky.1 hs
      rw [heq h] at hne hlow
      have := lt_of_le_of_ne hlow (Ne.symm hne)
      linarith
  · intro h
    have hge : 2 ^ (sh - 1) ≤ rem := by
      by_contra hc
      have := hlt.1 (Nat.lt_of_not_le hc)
      linarith
    rcases Nat.lt_or_eq_of_le hge with hgt | hq
    · exact .inl hgt
    · refine .inr ⟨hq.symm, hsticky.2 fun hX => ?_⟩
      rw [hX, heq hq.symm] at h
      exact lt_irrefl _ h

/-- To nearest, a tie going to the even neighbour. -/
theorem near_even {lo n rem half : Nat} {sticky : Bool} (heven : lo % 2 = n % 2) :
    let k := lo + if decide (half < rem) || (rem == half && (sticky || n % 2 == 1)) then 1 else 0
    (k = lo ∨ k = lo + 1) ∧ (rem < half → k = lo) ∧ (half < rem ∨ rem = half ∧ sticky = true → k = lo + 1) ∧
      (rem = half ∧ sticky = false → k % 2 = 0) := by
  intro k
  refine ⟨?_, fun h => ?_, ?_, ?_⟩
  · simp only [k]
    split
    · exact .inr rfl
    · exact .inl rfl
  · have hne : (rem == half) = false := by simpa using h.ne
    simp only [k, decide_eq_false (by omega : ¬ half < rem), hne]
    rfl
  · rintro (h | ⟨h, hs⟩)
    · simp only [k, decide_eq_true h]
      rfl
    · simp [k, h, hs]
  · rintro ⟨h, hs⟩
    subst h
    subst hs
    simp only [k, lt_irrefl, decide_false, beq_self_eq_true, Bool.false_or, Bool.true_and, beq_iff_eq]
    split <;> omega

/-- What is kept of a value cut between two neighbours of a grid: the one that the mode says. -/
theorem roundsTo_cut (rm : Rm) {neg : Bool} {lo n rem sh : Nat} {e : ℤ} {sticky : Bool} (hneg : neg = true ↔ X < 0)
    (hX0 : X ≠ 0) (hsh : 0 < sh) (hrem : rem < 2 ^ sh) (hX : Between |X| (n * 2 ^ sh + rem) e sticky)
    (hlo : (grid lo : ℝ) = n * 2 ^ (e + sh)) (hup : (grid (lo + 1) : ℝ) = (n + 1) * 2 ^ (e + sh))
    (heven : lo % 2 = n % 2) :
    RoundsTo grid rm X (lo + if roundUp rm neg n rem sh sticky then 1 else 0) ∧
      ((rem != 0 || sticky) = true ↔ |X| ≠ grid (lo + if roundUp rm neg n rem sh sticky then 1 else 0)) := by
  obtain ⟨hlt, hgt⟩ := cut_compare hsh hX
  obtain ⟨hlow, hhigh, hsticky⟩ := hX
  have hpos : (0 : ℝ) < 2 ^ e := by positivity
  have hgridlo : (grid lo : ℝ) = (n * 2 ^ sh : ℝ) * 2 ^ e := by
    rw [hlo, zpow_add₀ (by norm_num), zpow_natCast]
    ring
  have hgridup : (grid (lo + 1) : ℝ) = ((n + 1) * 2 ^ sh : ℝ) * 2 ^ e := by
    rw [hup, zpow_add₀ (by norm_num), zpow_natCast]
    ring
  have hmid : (grid lo : ℝ) + grid (lo + 1) = (2 * n + 1) * 2 ^ (e + sh) := by
    rw [hlo, hup]
    ring
  push_cast at hlow hhigh hsticky
  have hge : (grid lo : ℝ) ≤ |X| := by
    rw [hgridlo]
    refine le_trans (mul_le_mul_of_nonneg_right ?_ hpos.le) hlow
    have : (0 : ℝ) ≤ rem := Nat.cast_nonneg _
    linarith
  have hltup : |X| < grid (lo + 1) := by
    rw [hgridup]
    refine lt_of_lt_of_le hhigh (mul_le_mul_of_nonneg_right ?_ hpos.le)
    have : (rem : ℝ) + 1 ≤ 2 ^ sh := by exact_mod_cast hrem
    linarith
  have hinexact : (rem != 0 || sticky) = true ↔ (grid lo : ℝ) < |X| := by
    rw [Bool.or_eq_true, bne_iff_ne, hsticky]
    constructor
    · intro h
      refine lt_of_le_of_ne hge fun heq => ?_
      have hz : rem = 0 := by
        by_contra hr
        have h1 : (1 : ℝ) ≤ rem := by exact_mod_cast Nat.one_le_iff_ne_zero.2 hr
        have : (n * 2 ^ sh : ℝ) * 2 ^ e < (n * 2 ^ sh + rem : ℝ) * 2 ^ e := mul_lt_mul_of_pos_right (by linarith) hpos
        rw [hgridlo] at heq
        linarith
      rcases h with h | h
      · exact h hz
      · refine h ?_
        rw [← heq, hgridlo, hz]
        push_cast
        ring
    · intro h
      by_contra hc
      obtain ⟨hz, hX⟩ := not_or.1 hc
      rw [not_not] at hz hX
      rw [hX, hgridlo, hz] at h
      push_cast at h
      linarith
  have hhalf : 0 < 2 ^ (sh - 1) := Nat.two_pow_pos _
  have hexact : (grid lo : ℝ) = |X| → roundUp rm neg n rem sh sticky = false := fun h => by
    have hno : ¬ (rem != 0 || sticky) = true := fun hc => absurd (hinexact.1 hc) (by rw [h]; exact lt_irrefl _)
    obtain ⟨hz, hs⟩ := Bool.or_eq_false_iff.1 (Bool.not_eq_true _ ▸ hno)
    have hz' : rem = 0 := by simpa using hz
    subst hz'
    subst hs
    cases rm <;> simp [roundUp] <;> omega
  refine ⟨⟨lo, hge, hltup, fun h => ?_, fun h => ?_⟩, ?_⟩
  · rw [hexact h.symm]
    rfl
  · have hin : (rem != 0 || sticky) = true := hinexact.2 h
    rw [hmid, ← hlt, ← hgt]
    have hfalse : X < 0 ↔ neg = true := hneg.symm
    have htrue : 0 < X ↔ neg = false := by
      have hX : 0 < X ↔ ¬ X < 0 := ⟨fun h => not_lt.2 h.le, fun h => lt_of_le_of_ne (not_lt.1 h) (Ne.symm hX0)⟩
      rw [hX, ← hneg, Bool.not_eq_true]
    have htie : 2 * |X| = (2 * n + 1) * 2 ^ (e + sh) → rem = 2 ^ (sh - 1) ∧ sticky = false := fun h => by
      have h1 : ¬ rem < 2 ^ (sh - 1) := fun hc => absurd (hlt.1 hc) (by rw [h]; exact lt_irrefl _)
      have h2 : ¬ (2 ^ (sh - 1) < rem ∨ rem = 2 ^ (sh - 1) ∧ sticky = true) := fun hc =>
        absurd (hgt.1 hc) (by rw [h]; exact lt_irrefl _)
      obtain ⟨h3, h4⟩ := not_or.1 h2
      have hr : rem = 2 ^ (sh - 1) := by omega
      exact ⟨hr, by simpa using fun hs => h4 ⟨hr, hs⟩⟩
    cases rm with
    | rz => rfl
    | ru =>
      refine ⟨fun h => ?_, fun h => ?_⟩
      · rw [roundUp, htrue.1 h, hin]
        rfl
      · rw [roundUp, hfalse.1 h]
        rfl
    | rd =>
      refine ⟨fun h => ?_, fun h => ?_⟩
      · rw [roundUp, htrue.1 h]
        rfl
      · rw [roundUp, hfalse.1 h, hin]
        rfl
    | rna =>
      refine ⟨?_, fun h => ?_, fun h => ?_, fun h => ?_⟩
      · split
        · exact .inr rfl
        · exact .inl rfl
      · rw [roundUp, decide_eq_false (by omega)]
        rfl
      · rw [roundUp, decide_eq_true (by omega)]
        rfl
      · obtain ⟨hr, -⟩ := htie h
        rw [roundUp, decide_eq_true (by omega)]
        rfl
    | rne =>
      obtain ⟨h1, h2, h3, h4⟩ := near_even heven (rem := rem) (half := 2 ^ (sh - 1)) (sticky := sticky)
      exact ⟨h1, h2, h3, fun h => h4 (htie h)⟩
    | mode =>
      obtain ⟨h1, h2, h3, h4⟩ := near_even heven (rem := rem) (half := 2 ^ (sh - 1)) (sticky := sticky)
      exact ⟨h1, h2, h3, fun h => h4 (htie h)⟩
  · rw [hinexact]
    constructor
    · intro h
      split
      · exact ne_of_lt hltup
      · exact ne_of_gt h
    · intro h
      refine lt_of_le_of_ne hge fun heq => h ?_
      rw [hexact heq]
      exact heq.symm

end
end Machine

namespace Machine

/-! ## Rounding to a format, and delivery (R169, R170) -/

theorem bitLen_pos {m : Nat} (hm : 0 < m) : 0 < bitLen m := by
  unfold bitLen
  rw [if_neg hm.ne']
  exact Nat.succ_pos _

theorem lt_two_pow_bitLen (m : Nat) : m < 2 ^ bitLen m := by
  unfold bitLen
  split
  · omega
  · exact Nat.lt_log2_self

theorem two_pow_bitLen_le {m : Nat} (hm : 0 < m) : 2 ^ (bitLen m - 1) ≤ m := by
  unfold bitLen
  rw [if_neg hm.ne', Nat.add_sub_cancel]
  exact Nat.log2_self_le hm.ne'

section
variable (f : Fmt)

/-- The magnitude pattern of n in units of 2^q, where n has as many bits as the format has there. -/
theorem magnitude_grid {q : ℤ} {n : Nat} (hq : f.qmin ≤ q) (hn : n ≤ 2 ^ (f.mb + 1)) (hn' : q = f.qmin ∨ 2 ^ f.mb ≤ n) :
    (magnitude f ((q - f.qmin).toNat * 2 ^ f.mb + n) : ℝ) = n * 2 ^ q := by
  obtain ⟨d, rfl⟩ : ∃ d : Nat, q = f.qmin + d := ⟨(q - f.qmin).toNat, by omega⟩
  have hd : (f.qmin + (d : ℤ) - f.qmin).toNat = d := by omega
  rw [hd]
  have hpow : 2 ^ (f.mb + 1) = 2 * 2 ^ f.mb := by rw [pow_succ, mul_comm]
  have hpos : 0 < 2 ^ f.mb := Nat.two_pow_pos _
  rw [hpow] at hn
  unfold magnitude
  by_cases hsub : d * 2 ^ f.mb + n < 2 ^ f.mb
  · have hd0 : d = 0 := by
      by_contra h
      have : 1 * 2 ^ f.mb ≤ d * 2 ^ f.mb := Nat.mul_le_mul_right _ (Nat.one_le_iff_ne_zero.2 h)
      omega
    subst hd0
    rw [if_pos hsub]
    push_cast
    simp
  · rw [if_neg hsub]
    have hge : 2 ^ f.mb ≤ n := by
      rcases hn' with h | h
      · have hd0 : d = 0 := by omega
        subst hd0
        omega
      · exact h
    rcases Nat.lt_or_eq_of_le hn with hlt | heq
    · have hdiv : (d * 2 ^ f.mb + n) / 2 ^ f.mb = d + 1 := by
        rw [Nat.add_comm, Nat.add_mul_div_right _ _ hpos, Nat.div_eq_of_lt_le (by omega : 1 * 2 ^ f.mb ≤ n) (by omega)]
        omega
      have hmod : (d * 2 ^ f.mb + n) % 2 ^ f.mb = n - 2 ^ f.mb := by
        have h := Nat.div_add_mod (d * 2 ^ f.mb + n) (2 ^ f.mb)
        rw [hdiv, Nat.mul_comm, Nat.add_mul] at h
        omega
      rw [hdiv, hmod, Nat.add_sub_cancel' hge]
      have he : f.qmin + ((d + 1 : Nat) : ℤ) - 1 = f.qmin + d := by push_cast; ring
      rw [he]
      push_cast
      rfl
    · have hdiv : (d * 2 ^ f.mb + n) / 2 ^ f.mb = d + 2 := by
        rw [heq, ← Nat.add_mul, Nat.mul_div_cancel _ hpos]
      have hmod : (d * 2 ^ f.mb + n) % 2 ^ f.mb = 0 := by
        rw [heq, ← Nat.add_mul, Nat.mul_mod_left]
      rw [hdiv, hmod, Nat.add_zero, heq]
      have he : f.qmin + ((d + 2 : Nat) : ℤ) - 1 = f.qmin + d + 1 := by push_cast; ring
      rw [he, zpow_add₀ (by norm_num) (f.qmin + d) 1, zpow_one]
      push_cast
      ring

/-- The unit that a format rounds to. -/
def Fmt.unitOf (f : Fmt) (m : Nat) (e : ℤ) : ℤ := max (e + bitLen m - 1 - f.mb) f.qmin

theorem round_unitOf (rm : Rm) (neg : Bool) (m : Nat) (e : ℤ) (sticky : Bool) :
    f.round rm neg m e sticky =
      if f.unitOf m e ≤ e then
        ⟨(f.unitOf m e - f.qmin).toNat * 2 ^ f.mb + m * 2 ^ (e - f.unitOf m e).toNat, sticky⟩
      else
        let sh := (f.unitOf m e - e).toNat
        ⟨(f.unitOf m e - f.qmin).toNat * 2 ^ f.mb + m / 2 ^ sh +
          (if roundUp rm neg (m / 2 ^ sh) (m % 2 ^ sh) sh sticky then 1 else 0), m % 2 ^ sh != 0 || sticky⟩ := rfl

/-- R169: an exact value is rounded to one of its neighbours among the patterns, and counts as inexact where it is not
    the
one. -/
theorem round_roundsTo (hmb : 0 < f.mb) (rm : Rm) {neg : Bool} {m : Nat} {e : ℤ} {sticky : Bool} {X : ℝ} (hm : 0 < m)
    (hX0 : X ≠ 0) (hneg : neg = true ↔ X < 0) (hX : Between |X| m e sticky) (hprec : sticky = true → e < f.unitOf m e) :
    RoundsTo (magnitude f) rm X (f.round rm neg m e sticky).mag ∧
      ((f.round rm neg m e sticky).inexact = true ↔ |X| ≠ magnitude f (f.round rm neg m e sticky).mag) := by
  have hqmin : f.qmin ≤ f.unitOf m e := le_max_right _ _
  have htop : e + bitLen m - 1 - f.mb ≤ f.unitOf m e := le_max_left _ _
  have hcase : f.unitOf m e = f.qmin ∨ f.unitOf m e = e + bitLen m - 1 - f.mb := by
    unfold Fmt.unitOf
    omega
  have hlen := bitLen_pos hm
  have hmlt := lt_two_pow_bitLen m
  have hmle := two_pow_bitLen_le hm
  have hstep : ∀ {q : ℤ} {n : Nat}, f.qmin ≤ q → n < 2 ^ (f.mb + 1) → (q = f.qmin ∨ 2 ^ f.mb ≤ n) →
      (magnitude f ((q - f.qmin).toNat * 2 ^ f.mb + n + 1) : ℝ) = (n + 1) * 2 ^ q := fun {q n} hq hn hn' => by
    have h := magnitude_grid f hq (Nat.succ_le_of_lt hn) (hn'.imp_right fun h => Nat.le_succ_of_le h)
    push_cast at h
    exact h
  rw [round_unitOf]
  generalize f.unitOf m e = q at *
  by_cases hqe : q ≤ e
  · rw [if_pos hqe]
    have hs : sticky = false := by
      rw [← Bool.not_eq_true]
      exact fun h => absurd (hprec h) (not_lt.2 hqe)
    subst hs
    obtain ⟨d, rfl⟩ : ∃ d : Nat, e = q + d := ⟨(e - q).toNat, by omega⟩
    have hd : (q + (d : ℤ) - q).toNat = d := by omega
    rw [hd]
    have hXeq : |X| = (m : ℝ) * 2 ^ (q + (d : ℤ)) := by
      by_contra h
      exact Bool.false_ne_true (hX.2.2.2 h)
    have hn : m * 2 ^ d < 2 ^ (f.mb + 1) := by
      calc m * 2 ^ d < 2 ^ bitLen m * 2 ^ d := Nat.mul_lt_mul_of_pos_right hmlt (Nat.two_pow_pos _)
        _ = 2 ^ (bitLen m + d) := (pow_add ..).symm
        _ ≤ 2 ^ (f.mb + 1) := Nat.pow_le_pow_right (by decide) (by omega)
    have hn' : q = f.qmin ∨ 2 ^ f.mb ≤ m * 2 ^ d := by
      rcases hcase with h | h
      · exact .inl h
      · right
        calc 2 ^ f.mb = 2 ^ (bitLen m - 1) * 2 ^ d := by rw [← pow_add]; congr 1; omega
          _ ≤ m * 2 ^ d := Nat.mul_le_mul_right _ hmle
    have hgrid := magnitude_grid f hqmin hn.le hn'
    have hval : (((m * 2 ^ d : Nat)) : ℝ) * 2 ^ q = |X| := by
      rw [hXeq, zpow_add₀ (by norm_num), zpow_natCast]
      push_cast
      ring
    refine ⟨roundsTo_exact rm (hval.symm.trans hgrid.symm) ?_, ?_⟩
    · have hpos : (0 : ℝ) < 2 ^ q := by positivity
      have h : (magnitude f ((q - f.qmin).toNat * 2 ^ f.mb + m * 2 ^ d) : ℝ) <
          magnitude f ((q - f.qmin).toNat * 2 ^ f.mb + m * 2 ^ d + 1) := by
        rw [hgrid, hstep hqmin hn hn']
        linarith
      exact_mod_cast h
    · rw [hgrid, hval]
      simp
  · rw [if_neg hqe]
    dsimp only
    obtain ⟨sh, rfl⟩ : ∃ sh : Nat, q = e + sh := ⟨(q - e).toNat, by omega⟩
    have hsh : (e + (sh : ℤ) - e).toNat = sh := by omega
    rw [hsh]
    have hshpos : 0 < sh := by omega
    have hn : m / 2 ^ sh < 2 ^ (f.mb + 1) := by
      rw [Nat.div_lt_iff_lt_mul (Nat.two_pow_pos _), ← pow_add]
      exact lt_of_lt_of_le hmlt (Nat.pow_le_pow_right (by decide) (by omega))
    have hn' : e + (sh : ℤ) = f.qmin ∨ 2 ^ f.mb ≤ m / 2 ^ sh := by
      rcases hcase with h | h
      · exact .inl h
      · right
        rw [Nat.le_div_iff_mul_le (Nat.two_pow_pos _), ← pow_add]
        exact le_trans (Nat.pow_le_pow_right (by decide) (by omega)) hmle
    have hXcut : Between |X| (m / 2 ^ sh * 2 ^ sh + m % 2 ^ sh) e sticky := by
      rw [Nat.mul_comm, Nat.div_add_mod]
      exact hX
    refine roundsTo_cut rm hneg hX0 hshpos (Nat.mod_lt _ (Nat.two_pow_pos _)) hXcut (magnitude_grid f hqmin hn.le hn')
      (hstep hqmin hn hn') ?_
    have hbase : (2 ^ f.mb) % 2 = 0 := by
      obtain ⟨k, hk⟩ := Nat.exists_eq_succ_of_ne_zero hmb.ne'
      rw [hk, Nat.succ_eq_add_one, pow_succ, Nat.mul_mod_left]
    rw [Nat.add_mod, Nat.mul_mod, hbase, Nat.mul_zero, Nat.zero_mod, Nat.zero_add, Nat.mod_mod]

/-- R169, R170: what is delivered of an exact value. -/
theorem deliver_delivered (hmb : 0 < f.mb) (ftzo : Bool) (rm : Rm) {neg : Bool} {m : Nat} {e : ℤ} {sticky : Bool} {X : ℝ}
    (overR : Bool → Nat) (hm : 0 < m) (hX0 : X ≠ 0) (hneg : neg = true ↔ X < 0) (hX : Between |X| m e sticky)
    (hprec : sticky = true → e < f.unitOf m e) :
    Delivered f ftzo rm X overR (f.deliver ftzo rm neg m e sticky (overR neg)) := by
  obtain ⟨hround, hinexact⟩ := round_roundsTo f hmb rm hm hX0 hneg hX hprec
  unfold Fmt.deliver
  generalize f.round rm neg m e sticky = r at *
  refine ⟨neg, r.mag, hneg, hround, fun h => if_pos h, fun hle hsub hf => ?_, fun hle hkept => ?_⟩
  · rw [if_neg (not_lt.2 hle), if_pos hsub, if_pos hf]
    rfl
  · have hres : (if f.maxMag < r.mag then ((overR neg, fxOf ||| fxNx) : Fres)
        else if r.mag < 2 ^ f.mb then
          if ftzo then (f.pack neg 0, fxUf ||| fxNx)
          else (f.pack neg r.mag, if r.inexact then fxUf ||| fxNx else 0)
        else (f.pack neg r.mag, if r.inexact then fxNx else 0)) =
        (f.pack neg r.mag, if r.inexact then (if r.mag < 2 ^ f.mb then 24 else 16) else 0) := by
      rw [if_neg (not_lt.2 hle)]
      by_cases hsub : r.mag < 2 ^ f.mb
      · have hf : ¬ ftzo = true := by
          rcases hkept with h | h
          · omega
          · simp [h]
        rw [if_pos hsub, if_neg hf, if_pos hsub]
        rfl
      · rw [if_neg hsub, if_neg hsub]
        rfl
    refine ⟨fun h => hres.trans ?_, fun h => hres.trans ?_⟩
    · rw [if_neg fun hi => hinexact.1 hi h]
    · rw [if_pos (hinexact.2 h)]

end

theorem overflow_eq (f : Fmt) (rm : Rm) (neg : Bool) : f.overflow rm neg = overflowed f rm neg := by
  cases rm <;> cases neg <;> rfl

/-- The same with R169's overflow. -/
theorem fin_delivered (f : Fmt) (hmb : 0 < f.mb) (v : Fenv) {neg : Bool} {m : Nat} {e : ℤ} {sticky : Bool} {X : ℝ}
    (hm : 0 < m) (hX0 : X ≠ 0) (hneg : neg = true ↔ X < 0) (hX : Between |X| m e sticky)
    (hprec : sticky = true → e < f.unitOf m e) :
    Delivered f v.ftzo v.rm X (overflowed f v.rm) (f.fin v neg m e sticky) := by
  unfold Fmt.fin
  rw [overflow_eq]
  exact deliver_delivered f hmb v.ftzo v.rm (overflowed f v.rm) hm hX0 hneg hX hprec

end Machine

namespace Machine

/-! ## Formats and patterns (R165, R167, R170) -/

theorem formats : Claims.Formats := by
  refine ⟨?_, ?_, ?_, ?_, ⟨rfl, rfl, rfl, by decide, fun h => absurd h Bool.false_ne_true, by decide, fun _ _ => rfl⟩, rfl, rfl⟩ <;>
    exact ⟨rfl, rfl, rfl, by decide, fun _ => by decide, by decide, fun _ _ => rfl⟩

theorem abs_valueOf (neg : Bool) (m : Nat) (e : ℤ) : |valueOf (.fin neg m e)| = (m : ℚ) * 2 ^ e := by
  have h : (0 : ℚ) ≤ (m : ℚ) * 2 ^ e := by positivity
  unfold valueOf
  dsimp only
  cases neg
  · rw [if_neg Bool.false_ne_true, one_mul, abs_of_nonneg h]
  · rw [if_pos rfl, neg_one_mul, neg_mul, abs_neg, abs_of_nonneg h]

theorem magnitude_magOf (f : Fmt) (p : Nat) : magnitude f (f.magOf p) = (f.sigOf p : ℚ) * 2 ^ f.expOf p := by
  unfold magnitude Fmt.sigOf Fmt.expOf
  by_cases h : f.magOf p < 2 ^ f.mb
  · rw [if_pos h, if_pos h, if_pos h]
  · rw [if_neg h, if_neg h, if_neg h]

theorem w_sub_one (f : Fmt) : f.w - 1 = f.eb + f.mb := by
  unfold Fmt.w
  omega

theorem quietBit (f : Fmt) (hmb : 0 < f.mb) (p : Nat) :
    f.magOf p % 2 ^ f.mb / 2 ^ (f.mb - 1) % 2 = p / 2 ^ (f.mb - 1) % 2 := by
  have hpow : 2 ^ f.mb = 2 ^ (f.mb - 1) * 2 := by rw [← pow_succ, Nat.sub_add_cancel hmb]
  rw [Fmt.magOf, Nat.mod_mod_of_dvd _ (Nat.pow_dvd_pow 2 (by omega)), hpow, Nat.mod_mul_right_div_self, Nat.mod_mod]

theorem patternsRead : Claims.PatternsRead := by
  intro f daz p hf x mag neg flushed
  have hi : f.IsIeee := hf
  have hmax := hi.maxMag
  have hmag : mag = f.magOf p := by simp only [mag, w_sub_one]; rfl
  have hneg : neg = f.signOf p := by simp only [neg, w_sub_one]; rfl
  have hsub := hi.sub_le
  simp only [flushed, hmag, hneg, x]
  refine ⟨fun h => ?_, fun h => read_inf f daz p (by omega) hi.ieee h, fun h => ?_, fun hlt h => ?_⟩
  · rw [read_nan f daz p (by omega) fun _ => by omega, hi.ieee, Bool.true_and, quietBit f hi.mb_pos, beq_eq_decide]
  · exact read_zero f daz p h (by omega)
  · rw [read_fin f daz p h (by omega)]
    exact ⟨_, _, rfl, sigOf_pos f p fun h0 => h (.inl h0), (abs_valueOf ..).trans (magnitude_magOf f p).symm⟩

/-! ## What an operand can be -/

/-- A finite nonzero value as an operand of a format gives it. -/
def Fv.Fits (f : Fmt) : Fv → Prop
  | .fin _ m e => 0 < m ∧ m < 2 ^ (f.mb + 1) ∧ f.qmin ≤ e
  | _ => True

theorem read_fits {f : Fmt} (hi : f.IsIeee) (daz : Bool) (p : Nat) : (f.read daz p).Fits f := by
  have hmax := hi.maxMag
  rcases Nat.lt_trichotomy f.infMag (f.magOf p) with h | h | h
  · rw [read_nan f daz p (by omega) fun _ => by omega]
    trivial
  · rw [read_inf f daz p (by omega) hi.ieee h.symm]
    trivial
  · by_cases hz : f.magOf p = 0 ∨ daz = true ∧ f.magOf p < 2 ^ f.mb
    · rw [read_zero f daz p hz (by omega)]
      trivial
    · rw [read_fin f daz p hz (by omega)]
      exact ⟨sigOf_pos f p fun h0 => hz (.inl h0), sigOf_lt f p, qmin_le_expOf f p⟩

section
variable (neg : Bool) (m : Nat) (e : ℤ)

theorem valueOf_fin : (valueOf (.fin neg m e) : ℝ) = (if neg then -1 else 1) * m * 2 ^ e := by
  unfold valueOf
  cases neg <;> push_cast <;> simp

theorem abs_valueOf_real : |(valueOf (.fin neg m e) : ℝ)| = (m : ℝ) * 2 ^ e := by
  rw [← Rat.cast_abs, abs_valueOf]
  push_cast
  rfl

theorem valueOf_ne_zero (hm : 0 < m) : (valueOf (.fin neg m e) : ℝ) ≠ 0 := by
  rw [← abs_pos, abs_valueOf_real]
  have : (0 : ℝ) < m := by exact_mod_cast hm
  positivity

theorem valueOf_neg_iff (hm : 0 < m) : neg = true ↔ (valueOf (.fin neg m e) : ℝ) < 0 := by
  have hm' : (0 : ℝ) < m := by exact_mod_cast hm
  have h : (0 : ℝ) < (m : ℝ) * 2 ^ e := by positivity
  rw [valueOf_fin]
  cases neg
  · simp only [Bool.false_eq_true, if_false, false_iff, not_lt]
    linarith
  · simp only [if_true, neg_one_mul, neg_mul, neg_lt_zero, true_iff]
    linarith

end

theorem valueOf_zero (neg : Bool) : (valueOf (.zero neg) : ℝ) = 0 := Rat.cast_zero

/-- A finite nonzero value is delivered as it is. -/
theorem fin_gives (f : Fmt) (hmb : 0 < f.mb) (v : Fenv) {neg : Bool} {m : Nat} {e : ℤ} (hm : 0 < m) :
    Delivered f v.ftzo v.rm (valueOf (.fin neg m e)) (overflowed f v.rm) (f.fin v neg m e false) := by
  refine fin_delivered f hmb v hm (valueOf_ne_zero neg m e hm) (valueOf_neg_iff neg m e hm) ?_ fun h => absurd h
      Bool.false_ne_true
  rw [abs_valueOf_real]
  exact Between.exact m e

end Machine

namespace Machine

/-! ## Sums and products (R171, R175) -/

theorem isFinite_cases {x : Fv} (h : IsFinite x) : (∃ n, x = .zero n) ∨ ∃ n m e, x = .fin n m e := by
  cases x with
  | nan b => exact h.elim
  | inf b => exact h.elim
  | zero n => exact .inl ⟨n, rfl⟩
  | fin n m e => exact .inr ⟨n, m, e, rfl⟩

/-- A finite value that is not written as a zero is not 0. -/
def Fv.Pos : Fv → Prop
  | .fin _ m _ => 0 < m
  | _ => True

theorem Fv.Fits.pos {f : Fmt} {x : Fv} (h : x.Fits f) : x.Pos := by
  cases x with
  | fin n m e => exact h.1
  | _ => trivial

/-- A value that is not 0. -/
theorem valueOf_ne_zero_iff {x : Fv} (hx : x.Pos) : valueOf x ≠ 0 ↔ ∃ n m e, x = .fin n m e := by
  cases x with
  | fin n m e =>
    have h := valueOf_ne_zero n m e hx
    exact ⟨fun _ => ⟨n, m, e, rfl⟩, fun _ h0 => h (by rw [h0]; exact Rat.cast_zero)⟩
  | _ => simp [valueOf]

theorem valueOf_real_ne_zero {x : Fv} : (valueOf x : ℝ) ≠ 0 ↔ valueOf x ≠ 0 := Rat.cast_ne_zero

section
variable (f : Fmt) (hmb : 0 < f.mb) (v : Fenv)

theorem nanRes_eq (nv : Bool) : f.nanRes nv = (f.nan, if nv then 1 else 0) := rfl

theorem scaled_value (n : Bool) (m : Nat) {e q : ℤ} (h : q ≤ e) :
    (scaled n m e q : ℝ) * 2 ^ q = (valueOf (.fin n m e) : ℝ) := by
  obtain ⟨d, rfl⟩ : ∃ d : Nat, e = q + d := ⟨(e - q).toNat, by omega⟩
  have hd : (q + (d : ℤ) - q).toNat = d := by omega
  rw [valueOf_fin, zpow_add₀ (by norm_num), zpow_natCast]
  unfold scaled
  dsimp only
  rw [hd]
  cases n
  · simp only [Bool.false_eq_true, if_false]
    push_cast
    ring
  · simp only [if_true]
    push_cast
    ring

include hmb in
/-- An integer in units of 2^q is delivered as it is. -/
theorem int_gives {t q : ℤ} (ht : t ≠ 0) : Delivered f v.ftzo v.rm ((t : ℝ) * 2 ^ q) (overflowed f v.rm)
    (f.fin v (decide (t < 0)) t.natAbs q false) := by
  have hq : (0 : ℝ) < 2 ^ q := by positivity
  have ht' : (t : ℝ) ≠ 0 := by exact_mod_cast ht
  refine fin_delivered f hmb v (Int.natAbs_pos.2 ht) (mul_ne_zero ht' hq.ne') ?_ ?_ fun h => absurd h Bool.false_ne_true
  · rw [decide_eq_true_eq, mul_neg_iff]
    constructor
    · intro h
      exact .inr ⟨by exact_mod_cast h, hq⟩
    · rintro (⟨-, h⟩ | ⟨h, -⟩)
      · exact absurd h (not_lt.2 hq.le)
      · exact_mod_cast h
  · have habs : |(t : ℝ) * 2 ^ q| = (t.natAbs : ℝ) * 2 ^ q := by
      rw [abs_mul, abs_of_pos hq, Nat.cast_natAbs, Int.cast_abs]
    rw [habs]
    exact Between.exact _ _

include hmb in
/-- The sum of finite values: exact, rounded once; of an exact zero the sign is that of both, or the mode's. -/
theorem sum_finite {x y : Fv} (hx : x.Pos) (hy : y.Pos) (hfx : IsFinite x) (hfy : IsFinite y) :
    let E : ℝ := (valueOf x : ℝ) + (valueOf y : ℝ)
    (E ≠ 0 → Delivered f v.ftzo v.rm E (overflowed f v.rm) (f.sum v x y)) ∧
      (E = 0 → f.sum v x y = (f.pack (if x.neg = y.neg then x.neg else v.rm == .rd) 0, 0)) := by
  intro E
  rcases isFinite_cases hfx with ⟨a, rfl⟩ | ⟨n, m, e, rfl⟩
  · rcases isFinite_cases hfy with ⟨b, rfl⟩ | ⟨n', m', e', rfl⟩
    · have hE : E = 0 := by simp only [E, valueOf_zero, add_zero]
      refine ⟨fun h => absurd hE h, fun _ => ?_⟩
      change f.zeroRes (if a == b then a else v.rm == .rd) = _
      simp only [beq_iff_eq]
      rfl
    · have hE : E = (valueOf (.fin n' m' e') : ℝ) := by simp only [E, valueOf_zero, zero_add]
      rw [hE]
      exact ⟨fun _ => fin_gives f hmb v hy, fun h => absurd h (valueOf_ne_zero n' m' e' hy)⟩
  · rcases isFinite_cases hfy with ⟨b, rfl⟩ | ⟨n', m', e', rfl⟩
    · have hE : E = (valueOf (.fin n m e) : ℝ) := by simp only [E, valueOf_zero, add_zero]
      rw [hE]
      exact ⟨fun _ => fin_gives f hmb v hx, fun h => absurd h (valueOf_ne_zero n m e hx)⟩
    · have hE : ((scaled n m e (min e e') + scaled n' m' e' (min e e') : ℤ) : ℝ) * 2 ^ min e e' = E := by
        push_cast
        rw [add_mul, scaled_value n m (min_le_left e e'), scaled_value n' m' (min_le_right e e')]
      have hq : (0 : ℝ) < 2 ^ min e e' := by positivity
      change (_ → Delivered _ _ _ _ _ (if scaled n m e (min e e') + scaled n' m' e' (min e e') = 0 then
        f.zeroRes (v.rm == .rd) else f.fin v _ _ (min e e') false)) ∧ (_ → (if
          scaled n m e (min e e') + scaled n' m' e' (min e e') = 0 then _ else _) = _)
      rw [← hE]
      refine ⟨fun h => ?_, fun h => ?_⟩
      · have ht : scaled n m e (min e e') + scaled n' m' e' (min e e') ≠ 0 := fun h0 => h (by rw [h0]; simp)
        rw [if_neg ht]
        exact int_gives f hmb v ht
      · have ht : scaled n m e (min e e') + scaled n' m' e' (min e e') = 0 := by
          rcases mul_eq_zero.1 h with h | h
          · exact_mod_cast h
          · exact absurd h hq.ne'
        rw [if_pos ht]
        have hsigns : ¬ (Fv.fin n m e).neg = (Fv.fin n' m' e').neg := fun hs => by
          change n = n' at hs
          subst hs
          rw [hE] at h
          have h1 : (0 : ℝ) < m := by exact_mod_cast hx
          have h2 : (0 : ℝ) < m' := by exact_mod_cast hy
          have h3 : (0 : ℝ) < (m : ℝ) * 2 ^ e := by positivity
          have h4 : (0 : ℝ) < (m' : ℝ) * 2 ^ e' := by positivity
          simp only [E, valueOf_fin] at h
          cases n
          · simp only [Bool.false_eq_true, if_false, one_mul] at h
            linarith
          · simp only [if_true] at h
            linarith
        rw [if_neg hsigns]
        rfl

theorem isNan_false_of_finite {x : Fv} (h : IsFinite x) : x.isNan = false := by
  rcases isFinite_cases h with ⟨a, rfl⟩ | ⟨n, m, e, rfl⟩ <;> rfl

/-- What x + y is, of any values (R171). -/
structure SumOf (f : Fmt) (v : Fenv) (p q : Fv) (r : Fres) : Prop where
  nan : p.isNan = true ∨ q.isNan = true → r = (f.nan, if p.isSig || q.isSig then 1 else 0)
  infs : ∀ i j, p = .inf i → q = .inf j → r = if i = j then (f.pack i f.infMag, 0) else (f.nan, 1)
  left : ∀ i, p = .inf i → IsFinite q → r = (f.pack i f.infMag, 0)
  right : ∀ i, IsFinite p → q = .inf i → r = (f.pack i f.infMag, 0)
  finite : IsFinite p → IsFinite q →
    let E : ℝ := (valueOf p : ℝ) + (valueOf q : ℝ)
    (E ≠ 0 → Delivered f v.ftzo v.rm E (overflowed f v.rm) r) ∧
      (E = 0 → r = (f.pack (if p.neg = q.neg then p.neg else v.rm == .rd) 0, 0))

include hmb in
theorem addV_sum {x y : Fv} (hx : x.Pos) (hy : y.Pos) : SumOf f v x y (f.addV v x y) where
  nan h := if_pos (by simpa using h)
  infs i j hi hj := by
    subst hi hj
    change (if i == j then f.infRes i 0 else f.nanRes true) = _
    simp only [beq_iff_eq]
    rfl
  left i hi hq := by
    subst hi
    rcases isFinite_cases hq with ⟨a, rfl⟩ | ⟨n, m, e, rfl⟩ <;> rfl
  right i hp hi := by
    subst hi
    rcases isFinite_cases hp with ⟨a, rfl⟩ | ⟨n, m, e, rfl⟩ <;> rfl
  finite hp hq := by
    have hsum : f.addV v x y = f.sum v x y := by
      rcases isFinite_cases hp with ⟨a, rfl⟩ | ⟨n, m, e, rfl⟩ <;>
        rcases isFinite_cases hq with ⟨b, rfl⟩ | ⟨n', m', e', rfl⟩ <;> rfl
    rw [hsum]
    exact sum_finite f hmb v hx hy hp hq

theorem flip_pos {x : Fv} (hx : x.Pos) : x.flip.Pos := by
  cases x with
  | fin n m e => exact hx
  | _ => trivial

theorem flip_finite {x : Fv} (h : IsFinite x) : IsFinite x.flip ∧ valueOf x.flip = -valueOf x ∧ x.flip.neg = !x.neg := by
  rcases isFinite_cases h with ⟨a, rfl⟩ | ⟨n, m, e, rfl⟩
  · exact ⟨trivial, by simp [valueOf, Fv.flip], rfl⟩
  · refine ⟨trivial, ?_, rfl⟩
    cases n <;> simp [valueOf, Fv.flip]

/-! ### Products -/

theorem mul_fin (n n' : Bool) (m m' : Nat) (e e' : ℤ) :
    (valueOf (.fin (n != n') (m * m') (e + e')) : ℝ) = valueOf (.fin n m e) * valueOf (.fin n' m' e') := by
  simp only [valueOf_fin]
  rw [zpow_add₀ (by norm_num)]
  cases n <;> cases n' <;> push_cast <;> simp <;> ring

/-- The exact product of finite values: of a sign, and finite. -/
theorem mul_finite {x y : Fv} (hx : x.Pos) (hy : y.Pos) (hfx : IsFinite x) (hfy : IsFinite y) :
    ∃ p, x.mul y = some p ∧ p.Pos ∧ IsFinite p ∧ p.neg = (x.neg != y.neg) ∧
      (valueOf p : ℝ) = valueOf x * valueOf y := by
  rcases isFinite_cases hfx with ⟨a, rfl⟩ | ⟨n, m, e, rfl⟩ <;>
    rcases isFinite_cases hfy with ⟨b, rfl⟩ | ⟨n', m', e', rfl⟩
  · exact ⟨.zero (a != b), rfl, trivial, trivial, rfl, by simp [valueOf]⟩
  · exact ⟨.zero (a != n'), rfl, trivial, trivial, rfl, by simp [valueOf]⟩
  · exact ⟨.zero (n != b), rfl, trivial, trivial, rfl, by simp [valueOf]⟩
  · exact ⟨.fin (n != n') (m * m') (e + e'), rfl, Nat.mul_pos hx hy, trivial, rfl, mul_fin ..⟩

/-- An infinity times what is neither 0 nor a NaN. -/
def InfProduct (x y : Fv) : Prop :=
  (∃ i j, x = .inf i ∧ y = .inf j) ∨ (∃ i, x = .inf i ∧ valueOf y ≠ 0) ∨ ∃ i, y = .inf i ∧ valueOf x ≠ 0

theorem mul_infinite {x y : Fv} (hx : x.Pos) (hy : y.Pos) (h : InfProduct x y) :
    x.mul y = some (.inf (x.neg != y.neg)) ∧ x.isNan = false ∧ y.isNan = false := by
  rcases h with ⟨i, j, rfl, rfl⟩ | ⟨i, rfl, h⟩ | ⟨i, rfl, h⟩
  · exact ⟨rfl, rfl, rfl⟩
  · obtain ⟨n, m, e, rfl⟩ := (valueOf_ne_zero_iff hy).1 h
    exact ⟨rfl, rfl, rfl⟩
  · obtain ⟨n, m, e, rfl⟩ := (valueOf_ne_zero_iff hx).1 h
    exact ⟨rfl, rfl, rfl⟩

theorem mul_zero_inf {x y : Fv} {i j : Bool} (h : (x = .zero i ∧ y = .inf j) ∨ (x = .inf i ∧ y = .zero j)) :
    x.mul y = none ∧ x.isNan = false ∧ y.isNan = false := by
  rcases h with ⟨rfl, rfl⟩ | ⟨rfl, rfl⟩ <;> exact ⟨rfl, rfl, rfl⟩

theorem mulV_none {x y : Fv} (hx : x.isNan = false) (hy : y.isNan = false) (h : x.mul y = none) :
    f.mulV v x y = f.nanRes true := by
  unfold Fmt.mulV
  simp only [hx, hy, h, Bool.or_self, Bool.false_eq_true, if_false]

theorem mulV_some {x y p : Fv} (hx : x.isNan = false) (hy : y.isNan = false) (h : x.mul y = some p) :
    f.mulV v x y = f.give v p := by
  unfold Fmt.mulV
  simp only [hx, hy, h, Bool.or_self, Bool.false_eq_true, if_false]

theorem fmaV_none {x y z : Fv} (hx : x.isNan = false) (hy : y.isNan = false) (h : x.mul y = none) :
    f.fmaV v x y z = f.nanRes true := by
  unfold Fmt.fmaV
  simp only [hx, hy, h, Bool.or_self, Bool.false_eq_true, if_false]

theorem fmaV_some {x y z p : Fv} (hx : x.isNan = false) (hy : y.isNan = false) (h : x.mul y = some p) :
    f.fmaV v x y z = if z.isNan then f.nanRes z.isSig else f.addV v p z := by
  unfold Fmt.fmaV
  simp only [hx, hy, h, Bool.or_self, Bool.false_eq_true, if_false]

end
end Machine

namespace Machine

/-! ## Quotients and roots (R178) -/

theorem isqrtBits_spec (n : Nat) : ∀ i r : Nat, r * r ≤ n → n < (r + 2 ^ i) * (r + 2 ^ i) →
    isqrtBits i r n * isqrtBits i r n ≤ n ∧ n < (isqrtBits i r n + 1) * (isqrtBits i r n + 1)
  | 0, _, hle, hlt => ⟨hle, hlt⟩
  | i + 1, r, hle, hlt => by
    have hpow : r + 2 ^ (i + 1) = r + 2 ^ i + 2 ^ i := by rw [pow_succ]; ring
    rw [isqrtBits]
    by_cases h : (r + 2 ^ i) * (r + 2 ^ i) ≤ n
    · rw [if_pos h]
      exact isqrtBits_spec n i _ h (hpow ▸ hlt)
    · rw [if_neg h]
      exact isqrtBits_spec n i _ hle (Nat.lt_of_not_le h)

/-- The floor of the square root. -/
theorem isqrt_spec (n : Nat) : isqrt n * isqrt n ≤ n ∧ n < (isqrt n + 1) * (isqrt n + 1) := by
  refine isqrtBits_spec n _ 0 (Nat.zero_le _) ?_
  rw [Nat.zero_add, ← pow_add]
  exact lt_of_lt_of_le (lt_two_pow_bitLen n) (Nat.pow_le_pow_right (by decide) (by omega))

theorem isqrt_ge {n k : Nat} (h : k * k ≤ n) : k ≤ isqrt n := by
  by_contra hc
  have h1 := (isqrt_spec n).2
  have h2 : (isqrt n + 1) * (isqrt n + 1) ≤ k * k := Nat.mul_self_le_mul_self (by omega)
  omega

theorem le_bitLen {m k : Nat} (h : 2 ^ k ≤ m) : k + 1 ≤ bitLen m := by
  have h1 := lt_of_le_of_lt h (lt_two_pow_bitLen m)
  have h2 := (Nat.pow_lt_pow_iff_right (a := 2) (by decide)).1 h1
  omega

/-- A significand of more bits than the format has is cut. -/
theorem lt_unitOf (f : Fmt) {m k : Nat} {e : ℤ} (h : 2 ^ k ≤ m) (hk : f.mb < k) : e < f.unitOf m e := by
  have h1 := le_bitLen h
  unfold Fmt.unitOf
  omega

/-- An exact quotient lies between its integer part and the next integer, at the integer part only if nothing is left.
    -/
theorem between_quotient (a b : Nat) (hb : 0 < b) (e : ℤ) :
    Between ((a : ℝ) / b * 2 ^ e) (a / b) e (a % b != 0) := by
  have hpos : (0 : ℝ) < 2 ^ e := by positivity
  have hb' : (0 : ℝ) < b := by exact_mod_cast hb
  have hdiv : ((a / b : Nat) : ℝ) * b + (a % b : Nat) = a := by exact_mod_cast Nat.div_add_mod' a b
  have hmod : ((a % b : Nat) : ℝ) < b := by exact_mod_cast Nat.mod_lt a hb
  have hq : (a : ℝ) / b = (a / b : Nat) + (a % b : Nat) / b := by
    rw [eq_comm, ← hdiv]
    field_simp
  have hfrac : ((a % b : Nat) : ℝ) / b < 1 := (div_lt_one hb').2 hmod
  have hfrac0 : (0 : ℝ) ≤ ((a % b : Nat) : ℝ) / b := by positivity
  rw [hq]
  refine ⟨mul_le_mul_of_nonneg_right (by linarith) hpos.le, mul_lt_mul_of_pos_right (by linarith) hpos, ?_⟩
  rw [bne_iff_ne, ne_eq, ne_eq, mul_left_inj' hpos.ne', add_eq_left, div_eq_zero_iff]
  constructor
  · rintro h (h0 | h0)
    · exact h (by exact_mod_cast h0)
    · exact hb'.ne' h0
  · exact fun h h0 => h (.inl (by exact_mod_cast h0))

/-- An exact root lies between its integer part and the next integer. -/
theorem between_root {q : ℝ} {r : Nat} (hlow : (r : ℝ) * r ≤ q) (hhigh : q < (r + 1) * (r + 1)) (e : ℤ) {sticky : Bool}
    (hsticky : sticky = true ↔ q ≠ (r : ℝ) * r) : Between (Real.sqrt q * 2 ^ e) r e sticky := by
  have hpos : (0 : ℝ) < 2 ^ e := by positivity
  have hr : (0 : ℝ) ≤ r := Nat.cast_nonneg r
  have hq : 0 ≤ q := le_trans (mul_nonneg hr hr) hlow
  refine ⟨mul_le_mul_of_nonneg_right (Real.le_sqrt_of_sq_le (by rw [sq]; exact hlow)) hpos.le,
    mul_lt_mul_of_pos_right ((Real.sqrt_lt' (by linarith)).2 (by rw [sq]; exact hhigh)) hpos, ?_⟩
  rw [hsticky, not_iff_not, mul_left_inj' hpos.ne', Real.sqrt_eq_iff_mul_self_eq hq hr, eq_comm]

section
variable (f : Fmt) (hmb : 0 < f.mb) (hbig : f.mb < 24) (v : Fenv)

include hmb hbig in
/-- R178: a quotient of finite nonzero values, of which the divisor has the format's precision. -/
theorem quotient_gives {n n' : Bool} {m m' : Nat} {e e' : ℤ} (hm : 0 < m) (hm' : 0 < m') (hlt : m' < 2 ^ (f.mb + 1)) :
    Delivered f v.ftzo v.rm ((valueOf (.fin n m e) : ℝ) / valueOf (.fin n' m' e')) (overflowed f v.rm)
      (f.fin v (n != n') (m * 2 ^ 64 / m') (e - e' - 64) (m * 2 ^ 64 % m' != 0)) := by
  have hx := valueOf_ne_zero n m e hm
  have hy := valueOf_ne_zero n' m' e' hm'
  have hge : 2 ^ (f.mb + 1) ≤ m * 2 ^ 64 / m' := by
    rw [Nat.le_div_iff_mul_le hm']
    calc 2 ^ (f.mb + 1) * m' ≤ 2 ^ (f.mb + 1) * 2 ^ (f.mb + 1) := Nat.mul_le_mul_left _ hlt.le
      _ = 2 ^ (f.mb + 1 + (f.mb + 1)) := (pow_add ..).symm
      _ ≤ 1 * 2 ^ 64 := by rw [Nat.one_mul]; exact Nat.pow_le_pow_right (by decide) (by omega)
      _ ≤ m * 2 ^ 64 := Nat.mul_le_mul_right _ hm
  refine fin_delivered f hmb v (lt_of_lt_of_le (Nat.two_pow_pos _) hge) (div_ne_zero hx hy) ?_ ?_
    fun _ => lt_unitOf f hge (by omega)
  · rw [div_neg_iff, ← valueOf_neg_iff n m e hm, ← valueOf_neg_iff n' m' e' hm']
    have hpos : ∀ {b : Bool} {k : Nat} {q : ℤ}, 0 < k → ((0 : ℝ) < valueOf (.fin b k q) ↔ b = false) := fun {b k q} hk => by
      rw [← Bool.not_eq_true, valueOf_neg_iff b k q hk, not_lt]
      exact ⟨le_of_lt, fun h => lt_of_le_of_ne h (valueOf_ne_zero b k q hk).symm⟩
    rw [hpos hm, hpos hm']
    cases n <;> cases n' <;> simp
  · have habs : |(valueOf (.fin n m e) : ℝ) / valueOf (.fin n' m' e')| =
        ((m * 2 ^ 64 : Nat) : ℝ) / m' * 2 ^ (e - e' - 64) := by
      rw [abs_div, abs_valueOf_real, abs_valueOf_real, zpow_sub₀ (by norm_num), zpow_sub₀ (by norm_num)]
      push_cast
      have : (m' : ℝ) ≠ 0 := by exact_mod_cast hm'.ne'
      field_simp
      norm_num
    rw [habs]
    exact between_quotient _ _ hm' _

/-- What p / q is, of any values, with the sign s (R178). -/
structure QuotientOf (f : Fmt) (v : Fenv) (p q : Fv) (s : Bool) (r : Fres) : Prop where
  nan : p.isNan = true ∨ q.isNan = true → r = (f.nan, if p.isSig || q.isSig then 1 else 0)
  infs : ∀ i j, p = .inf i → q = .inf j → r = (f.nan, 1)
  zeros : ∀ i j, p = .zero i → q = .zero j → r = (f.nan, 1)
  left : ∀ i, p = .inf i → IsFinite q → r = (f.pack s f.infMag, 0)
  right : ∀ i, IsFinite p → q = .inf i → r = (f.pack s 0, 0)
  zero : ∀ i, p = .zero i → valueOf q ≠ 0 → r = (f.pack s 0, 0)
  byZero : ∀ i, valueOf p ≠ 0 → q = .zero i → r = (f.pack s f.infMag, 2)
  finite : valueOf p ≠ 0 → valueOf q ≠ 0 →
    Delivered f v.ftzo v.rm ((valueOf p : ℝ) / (valueOf q : ℝ)) (overflowed f v.rm) r

include hmb hbig in
theorem divV_quotient {x y : Fv} (hx : x.Pos) (hy : y.Fits f) : QuotientOf f v x y (x.neg != y.neg) (f.divV v x y) where
  nan h := if_pos (by simpa using h)
  infs i j hi hj := by subst hi hj; rfl
  zeros i j hi hj := by subst hi hj; rfl
  left i hi hq := by
    subst hi
    rcases isFinite_cases hq with ⟨a, rfl⟩ | ⟨n, m, e, rfl⟩ <;> rfl
  right i hp hi := by
    subst hi
    rcases isFinite_cases hp with ⟨a, rfl⟩ | ⟨n, m, e, rfl⟩ <;> rfl
  zero i hi hq := by
    subst hi
    obtain ⟨n, m, e, rfl⟩ := (valueOf_ne_zero_iff hy.pos).1 hq
    rfl
  byZero i hp hi := by
    subst hi
    obtain ⟨n, m, e, rfl⟩ := (valueOf_ne_zero_iff hx).1 hp
    rfl
  finite hp hq := by
    obtain ⟨n, m, e, rfl⟩ := (valueOf_ne_zero_iff hx).1 hp
    obtain ⟨n', m', e', rfl⟩ := (valueOf_ne_zero_iff hy.pos).1 hq
    exact quotient_gives f hmb hbig v hx hy.1 hy.2.1

theorem valueOf_one : (valueOf (.fin false 1 0) : ℝ) = 1 := by
  rw [valueOf_fin]
  norm_num

theorem sqrt_zpow_two_mul (d : ℤ) : Real.sqrt ((2 : ℝ) ^ (2 * d)) = 2 ^ d := by
  have h : (0 : ℝ) ≤ 2 ^ d := by positivity
  rw [two_mul, zpow_add₀ (by norm_num), Real.sqrt_mul_self h]

/-- √(m × 2^e) from an integer whose exponent is even. -/
theorem sqrt_split {m k : Nat} {e d : ℤ} (h : e - k = 2 * d) :
    Real.sqrt ((m : ℝ) * 2 ^ e) = Real.sqrt ((m * 2 ^ k : Nat) : ℝ) * 2 ^ d := by
  have he : (m : ℝ) * 2 ^ e = ((m * 2 ^ k : Nat) : ℝ) * 2 ^ (2 * d) := by
    rw [← h, zpow_sub₀ (by norm_num)]
    push_cast
    field_simp
    norm_num
  rw [he, Real.sqrt_mul (by positivity), sqrt_zpow_two_mul]

include hmb hbig in
/-- R178: the root of a positive value, from its significand and a shift that makes the exponent even. -/
theorem root_gives {m k : Nat} {e d : ℤ} (hm : 0 < m) (hk : 80 ≤ k) (hd : e - k = 2 * d) :
    Delivered f v.ftzo v.rm (Real.sqrt ((m : ℝ) * 2 ^ e)) (overflowed f v.rm)
      (f.fin v false (isqrt (m * 2 ^ k)) d (isqrt (m * 2 ^ k) * isqrt (m * 2 ^ k) != m * 2 ^ k)) := by
  rw [sqrt_split hd]
  obtain ⟨hlow, hhigh⟩ := isqrt_spec (m * 2 ^ k)
  have hge : 2 ^ 40 ≤ isqrt (m * 2 ^ k) := isqrt_ge <|
    calc 2 ^ 40 * 2 ^ 40 = 1 * 2 ^ 80 := by norm_num
      _ ≤ m * 2 ^ k := Nat.mul_le_mul hm (Nat.pow_le_pow_right (by decide) hk)
  have hpos : (0 : ℝ) < Real.sqrt ((m * 2 ^ k : Nat) : ℝ) * 2 ^ d := by
    have : (0 : ℝ) < ((m * 2 ^ k : Nat) : ℝ) := by exact_mod_cast Nat.mul_pos hm (Nat.two_pow_pos _)
    positivity
  refine fin_delivered f hmb v (lt_of_lt_of_le (Nat.two_pow_pos 40) hge) hpos.ne' ?_ ?_ fun _ => lt_unitOf f hge (by
      omega)
  · exact iff_of_false Bool.false_ne_true (not_lt.2 hpos.le)
  · rw [abs_of_pos hpos]
    refine between_root (by exact_mod_cast hlow) (by exact_mod_cast hhigh) d ?_
    rw [bne_iff_ne, ne_comm]
    exact_mod_cast Iff.rfl

include hmb hbig in
/-- R178: the reciprocal root of a positive value. -/
theorem reciprocalRoot_gives {m k : Nat} {e d : ℤ} (hm : 0 < m) (hlt : m < 2 ^ 24) (hk : 160 ≤ k) (hd : -(k + e) = 2 * d) :
    Delivered f v.ftzo v.rm (1 / Real.sqrt ((m : ℝ) * 2 ^ e)) (overflowed f v.rm)
      (f.fin v false (isqrt (2 ^ k / m)) d (isqrt (2 ^ k / m) * isqrt (2 ^ k / m) * m != 2 ^ k)) := by
  have hm' : (0 : ℝ) < m := by exact_mod_cast hm
  have hX : 1 / Real.sqrt ((m : ℝ) * 2 ^ e) = Real.sqrt ((2 ^ k : ℝ) / m) * 2 ^ d := by
    have he : ((2 : ℝ) ^ k / m) * 2 ^ (2 * d) = ((m : ℝ) * 2 ^ e)⁻¹ := by
      rw [← hd, neg_add, zpow_add₀ (by norm_num), zpow_neg, zpow_neg, zpow_natCast]
      field_simp
    rw [one_div, ← Real.sqrt_inv, ← he, Real.sqrt_mul (by positivity), sqrt_zpow_two_mul]
  rw [hX]
  obtain ⟨hlow, hhigh⟩ := isqrt_spec (2 ^ k / m)
  rw [Nat.le_div_iff_mul_le hm] at hlow
  rw [Nat.div_lt_iff_lt_mul hm] at hhigh
  have hge : 2 ^ 40 ≤ isqrt (2 ^ k / m) := isqrt_ge <| by
    rw [Nat.le_div_iff_mul_le hm]
    calc 2 ^ 40 * 2 ^ 40 * m ≤ 2 ^ 40 * 2 ^ 40 * 2 ^ 24 := Nat.mul_le_mul_left _ hlt.le
      _ = 2 ^ 104 := by norm_num
      _ ≤ 2 ^ k := Nat.pow_le_pow_right (by decide) (by omega)
  have hpos : (0 : ℝ) < Real.sqrt ((2 ^ k : ℝ) / m) * 2 ^ d := by positivity
  refine fin_delivered f hmb v (lt_of_lt_of_le (Nat.two_pow_pos 40) hge) hpos.ne' ?_ ?_ fun _ => lt_unitOf f hge (by
      omega)
  · exact iff_of_false Bool.false_ne_true (not_lt.2 hpos.le)
  · rw [abs_of_pos hpos]
    refine between_root ?_ ?_ d ?_
    · rw [le_div_iff₀ hm']
      exact_mod_cast hlow
    · rw [div_lt_iff₀ hm']
      exact_mod_cast hhigh
    · rw [bne_iff_ne, ne_comm, ne_eq, ne_eq, not_iff_not, div_eq_iff hm'.ne']
      exact_mod_cast Iff.rfl

/-- What the root and the reciprocal root of x are (R178). -/
structure RootsOf (f : Fmt) (v : Fenv) (x : Fv) (r s : Fres) : Prop where
  nan : x.isNan = true → r = (f.nan, if x.isSig then 1 else 0) ∧ s = (f.nan, if x.isSig then 1 else 0)
  neg : (valueOf x : ℝ) < 0 ∨ x = .inf true → r = (f.nan, 1) ∧ s = (f.nan, 1)
  zero : ∀ i, x = .zero i → r = (f.pack i 0, 0) ∧ s = (f.pack i f.infMag, 2)
  inf : x = .inf false → r = (f.pack false f.infMag, 0) ∧ s = (f.pack false 0, 0)
  pos : 0 < (valueOf x : ℝ) → Delivered f v.ftzo v.rm (Real.sqrt (valueOf x)) (overflowed f v.rm) r ∧
    Delivered f v.ftzo v.rm (1 / Real.sqrt (valueOf x)) (overflowed f v.rm) s

theorem isNan_iff {x : Fv} : x.isNan = true ↔ ∃ b, x = .nan b := by
  cases x <;> simp [Fv.isNan]

include hmb hbig in
theorem roots {x : Fv} (hx : x.Fits f) : RootsOf f v x (f.sqrtV v x) (f.rsqV v x) where
  nan h := by
    obtain ⟨b, rfl⟩ := isNan_iff.1 h
    exact ⟨rfl, rfl⟩
  neg h := by
    rcases h with h | rfl
    · obtain ⟨n, m, e, rfl⟩ := (valueOf_ne_zero_iff hx.pos).1 (by exact_mod_cast h.ne)
      obtain rfl := (valueOf_neg_iff n m e hx.1).2 h
      exact ⟨rfl, rfl⟩
    · exact ⟨rfl, rfl⟩
  zero i hi := by subst hi; exact ⟨rfl, rfl⟩
  inf hi := by subst hi; exact ⟨rfl, rfl⟩
  pos h := by
    obtain ⟨n, m, e, rfl⟩ := (valueOf_ne_zero_iff hx.pos).1 (by exact_mod_cast h.ne')
    obtain ⟨hm, hlt, -⟩ := hx
    obtain rfl : n = false := by
      rw [← Bool.not_eq_true, valueOf_neg_iff n m e hm, not_lt]
      exact h.le
    have hlt' : m < 2 ^ 24 := lt_of_lt_of_le hlt (Nat.pow_le_pow_right (by decide) (by omega))
    have hX : (valueOf (.fin false m e) : ℝ) = (m : ℝ) * 2 ^ e := by
      rw [valueOf_fin, if_neg Bool.false_ne_true, one_mul]
    rw [hX]
    unfold Fmt.sqrtV Fmt.rsqV
    dsimp only
    rw [if_neg Bool.false_ne_true, if_neg Bool.false_ne_true]
    by_cases he : e % 2 = 0
    · simp only [if_pos he]
      exact ⟨root_gives f hmb hbig v hm (le_refl 80) (by push_cast; omega),
        reciprocalRoot_gives f hmb hbig v hm hlt' (le_refl 160) (by push_cast; omega)⟩
    · simp only [if_neg he]
      exact ⟨root_gives f hmb hbig v hm (by decide : 80 ≤ 81) (by push_cast; omega),
        reciprocalRoot_gives f hmb hbig v hm hlt' (by decide : 160 ≤ 161) (by push_cast; omega)⟩

end
end Machine

namespace Machine

/-! ## The arithmetic of F32, F16 and BF16 -/

section
variable (f : Fmt) (hmb : 0 < f.mb) (hbig : f.mb < 24) (v : Fenv)

/-- What x × y is, of any values (R171). -/
structure ProductOf (f : Fmt) (v : Fenv) (x y : Fv) (r : Fres) : Prop where
  nan : x.isNan = true ∨ y.isNan = true → r = (f.nan, if x.isSig || y.isSig then 1 else 0)
  zeroInf : ∀ i j, (x = .zero i ∧ y = .inf j) ∨ (x = .inf i ∧ y = .zero j) → r = (f.nan, 1)
  inf : ∀ i, (x = .inf i ∧ (valueOf y ≠ 0 ∨ ∃ j, y = .inf j)) ∨ (y = .inf i ∧ valueOf x ≠ 0) →
    r = (f.pack (x.neg != y.neg) f.infMag, 0)
  finite : IsFinite x → IsFinite y →
    ((valueOf x : ℝ) * (valueOf y : ℝ) ≠ 0 →
      Delivered f v.ftzo v.rm ((valueOf x : ℝ) * (valueOf y : ℝ)) (overflowed f v.rm) r) ∧
    ((valueOf x : ℝ) * (valueOf y : ℝ) = 0 → r = (f.pack (x.neg != y.neg) 0, 0))

include hmb in
theorem give_finite {p : Fv} (hp : p.Pos) (hfin : IsFinite p) :
    ((valueOf p : ℝ) ≠ 0 → Delivered f v.ftzo v.rm (valueOf p) (overflowed f v.rm) (f.give v p)) ∧
      ((valueOf p : ℝ) = 0 → f.give v p = (f.pack p.neg 0, 0)) := by
  rcases isFinite_cases hfin with ⟨a, rfl⟩ | ⟨n, m, e, rfl⟩
  · exact ⟨fun h => absurd (valueOf_zero a) h, fun _ => rfl⟩
  · exact ⟨fun _ => fin_gives f hmb v hp, fun h => absurd h (valueOf_ne_zero n m e hp)⟩

include hmb in
theorem mulV_product {x y : Fv} (hx : x.Pos) (hy : y.Pos) : ProductOf f v x y (f.mulV v x y) where
  nan h := if_pos (by simpa using h)
  zeroInf i j h := by
    obtain ⟨hmul, hnx, hny⟩ := mul_zero_inf h
    exact mulV_none f v hnx hny hmul
  inf i h := by
    have hinf : InfProduct x y := by
      rcases h with ⟨rfl, h | ⟨j, rfl⟩⟩ | ⟨rfl, h⟩
      · exact .inr (.inl ⟨i, rfl, h⟩)
      · exact .inl ⟨i, j, rfl, rfl⟩
      · exact .inr (.inr ⟨i, rfl, h⟩)
    obtain ⟨hmul, hnx, hny⟩ := mul_infinite hx hy hinf
    exact mulV_some f v hnx hny hmul
  finite hfx hfy := by
    obtain ⟨p, hmul, hp, hfin, hneg, hval⟩ := mul_finite hx hy hfx hfy
    rw [mulV_some f v (isNan_false_of_finite hfx) (isNan_false_of_finite hfy) hmul, ← hval, ← hneg]
    exact give_finite f hmb v hp hfin

/-- What x × y + z is, of any values (R171, R175). -/
structure FusedOf (f : Fmt) (v : Fenv) (x y z : Fv) (r : Fres) : Prop where
  nan : x.isNan = true ∨ y.isNan = true → r = (f.nan, if x.isSig || y.isSig || z.isSig then 1 else 0)
  zeroInf : ∀ i j, (x = .zero i ∧ y = .inf j) ∨ (x = .inf i ∧ y = .zero j) → r = (f.nan, 1)
  addendNan : InfProduct x y ∨ IsFinite x ∧ IsFinite y → z.isNan = true → r = (f.nan, if z.isSig then 1 else 0)
  inf : InfProduct x y → IsFinite z → r = (f.pack (x.neg != y.neg) f.infMag, 0)
  infs : InfProduct x y → ∀ i, z = .inf i → r = if (x.neg != y.neg) = i then (f.pack i f.infMag, 0) else (f.nan, 1)
  addendInf : IsFinite x → IsFinite y → ∀ i, z = .inf i → r = (f.pack i f.infMag, 0)
  finite : IsFinite x → IsFinite y → IsFinite z →
    ((valueOf x : ℝ) * (valueOf y : ℝ) + (valueOf z : ℝ) ≠ 0 →
      Delivered f v.ftzo v.rm ((valueOf x : ℝ) * (valueOf y : ℝ) + (valueOf z : ℝ)) (overflowed f v.rm) r) ∧
    ((valueOf x : ℝ) * (valueOf y : ℝ) + (valueOf z : ℝ) = 0 →
      r = (f.pack (if (x.neg != y.neg) = z.neg then (x.neg != y.neg) else v.rm == .rd) 0, 0))

/-- With a product, and an addend that is no NaN, a fused sum is the sum of the two. -/
theorem fmaV_addV {x y z p : Fv} (hx : x.isNan = false) (hy : y.isNan = false) (h : x.mul y = some p) (hz : z.isNan = false) :
    f.fmaV v x y z = f.addV v p z := by
  rw [fmaV_some f v hx hy h, hz, if_neg Bool.false_ne_true]

theorem fmaV_nan {x y z p : Fv} (hx : x.isNan = false) (hy : y.isNan = false) (h : x.mul y = some p) (hz : z.isNan = true) :
    f.fmaV v x y z = (f.nan, if z.isSig then 1 else 0) := by
  rw [fmaV_some f v hx hy h, hz, if_pos rfl]
  rfl

include hmb in
theorem fmaV_fused {x y z : Fv} (hx : x.Pos) (hy : y.Pos) (hz : z.Pos) : FusedOf f v x y z (f.fmaV v x y z) where
  nan h := if_pos (by simpa using h)
  zeroInf i j h := by
    obtain ⟨hmul, hnx, hny⟩ := mul_zero_inf h
    exact fmaV_none f v hnx hny hmul
  addendNan h hnz := by
    rcases h with h | ⟨hfx, hfy⟩
    · obtain ⟨hmul, hnx, hny⟩ := mul_infinite hx hy h
      exact fmaV_nan f v hnx hny hmul hnz
    · obtain ⟨p, hmul, -⟩ := mul_finite hx hy hfx hfy
      exact fmaV_nan f v (isNan_false_of_finite hfx) (isNan_false_of_finite hfy) hmul hnz
  inf h hfz := by
    obtain ⟨hmul, hnx, hny⟩ := mul_infinite hx hy h
    rw [fmaV_addV f v hnx hny hmul (isNan_false_of_finite hfz)]
    exact (addV_sum f hmb v (x := .inf _) trivial hz).left _ rfl hfz
  infs h i hi := by
    subst hi
    obtain ⟨hmul, hnx, hny⟩ := mul_infinite hx hy h
    rw [fmaV_addV f v hnx hny hmul rfl, (addV_sum f hmb v (x := .inf _) trivial hz).infs _ i rfl rfl]
    split
    next h => rw [h]
    next => rfl
  addendInf hfx hfy i hi := by
    subst hi
    obtain ⟨p, hmul, hp, hfin, -, -⟩ := mul_finite hx hy hfx hfy
    rw [fmaV_addV f v (isNan_false_of_finite hfx) (isNan_false_of_finite hfy) hmul rfl]
    exact (addV_sum f hmb v hp hz).right i hfin rfl
  finite hfx hfy hfz := by
    obtain ⟨p, hmul, hp, hfin, hneg, hval⟩ := mul_finite hx hy hfx hfy
    rw [fmaV_addV f v (isNan_false_of_finite hfx) (isNan_false_of_finite hfy) hmul (isNan_false_of_finite hfz),
      ← hval, ← hneg]
    exact (addV_sum f hmb v hp hz).finite hfin hfz

end

theorem mb_lt_of_arithmetic {f : Fmt} (h : f = fmtF32 ∨ f = fmtF16 ∨ f = fmtBF16) : f.IsIeee ∧ f.mb < 24 := by
  rcases h with rfl | rfl | rfl
  · exact ⟨.inl rfl, by decide⟩
  · exact ⟨.inr (.inl rfl), by decide⟩
  · exact ⟨.inr (.inr (.inl rfl)), by decide⟩

theorem flip_inf_or_nan (y : Fv) : (y.isNan = true → y.flip = y) ∧ ∀ i, y = .inf i → y.flip = .inf !i := by
  cases y <;> simp [Fv.isNan, Fv.flip]

theorem arithmeticIsExact : Claims.ArithmeticIsExact := by
  intro f v a b c hf hrm x y z X Y Z gives nan inf zero down sign sum quotient
  obtain ⟨hi, hbig⟩ := mb_lt_of_arithmetic hf
  have hmb := hi.mb_pos
  have hx : x.Fits f := read_fits hi v.daz a
  have hy : y.Fits f := read_fits hi v.daz b
  have hz : z.Fits f := read_fits hi v.daz c
  have hsum : ∀ {p q : Fv}, p.Pos → q.Pos → sum p q (f.addV v p q) := fun hp hq => by
    obtain ⟨h1, h2, h3, h4, h5⟩ := addV_sum f hmb v hp hq
    exact ⟨h1, h2, h3, h4, h5⟩
  have hquot : ∀ {p : Fv}, p.Pos → ∀ {q : Fv}, q.Fits f → quotient p q (p.neg != q.neg) (f.divV v p q) := fun hp q hq => by
    obtain ⟨h1, h2, h3, h4, h5, h6, h7, h8⟩ := divV_quotient f hmb hbig v hp hq
    exact ⟨h1, h2, h3, h4, h5, h6, h7, h8⟩
  refine ⟨hsum hx.pos hy.pos, hsum hx.pos (flip_pos hy.pos), ⟨(flip_inf_or_nan y).1, (flip_inf_or_nan y).2,
      flip_finite⟩, ?_, ?_,
    hquot hx.pos hy, ?_, ?_⟩
  · obtain ⟨h1, h2, h3, h4⟩ := mulV_product f hmb v hx.pos hy.pos
    exact ⟨h1, h2, h3, h4⟩
  · obtain ⟨h1, h2, h3, h4, h5, h6, h7⟩ := fmaV_fused f hmb v hx.pos hy.pos hz.pos
    exact ⟨h1, h2, h3, h4, h5, h6, h7⟩
  · obtain ⟨h1, h2, h3, h4, h5, h6, h7, h8⟩ := divV_quotient f hmb hbig v (x := .fin false 1 0) Nat.one_pos hx
    have hone : valueOf (.fin false 1 0) ≠ 0 := by
      have := valueOf_ne_zero false 1 0 Nat.one_pos
      exact_mod_cast this
    refine ⟨fun h => h1 (.inr h), fun i hi => ?_, fun i hi => ?_, fun h => ?_⟩
    · refine (h7 i hone hi).trans ?_
      rw [hi]
      cases i <;> rfl
    · refine (h5 i trivial hi).trans ?_
      rw [hi]
      cases i <;> rfl
    · have h := h8 hone (valueOf_real_ne_zero.1 h)
      rw [valueOf_one] at h
      exact h
  · obtain ⟨h1, h2, h3, h4, h5⟩ := roots f hmb hbig v hx
    exact ⟨h1, h2, h3, h4, h5⟩

end Machine

namespace Machine

/-! ## Orders (R176, R177) -/

theorem magnitude_split (f : Fmt) (k : Nat) : ∃ (q : ℤ) (n : Nat), f.qmin ≤ q ∧ n < 2 ^ (f.mb + 1) ∧
    (q = f.qmin ∨ 2 ^ f.mb ≤ n) ∧ k = (q - f.qmin).toNat * 2 ^ f.mb + n := by
  have hpos := Nat.two_pow_pos f.mb
  have hpow : 2 ^ (f.mb + 1) = 2 * 2 ^ f.mb := by rw [pow_succ, mul_comm]
  by_cases h : k < 2 ^ f.mb
  · refine ⟨f.qmin, k, le_refl _, by omega, .inl rfl, ?_⟩
    rw [sub_self, Int.toNat_zero, Nat.zero_mul, Nat.zero_add]
  · have hd : 1 ≤ k / 2 ^ f.mb := (Nat.le_div_iff_mul_le hpos).2 (by omega)
    have hmod := Nat.mod_lt k hpos
    refine ⟨f.qmin + (k / 2 ^ f.mb - 1 : Nat), 2 ^ f.mb + k % 2 ^ f.mb, by omega, by omega, .inr (by omega), ?_⟩
    have htn : (f.qmin + ((k / 2 ^ f.mb - 1 : Nat) : ℤ) - f.qmin).toNat = k / 2 ^ f.mb - 1 := by omega
    rw [htn, ← Nat.add_assoc, ← Nat.succ_mul, Nat.succ_eq_add_one, Nat.sub_add_cancel hd, Nat.div_add_mod']

/-- A larger pattern has the larger magnitude. -/
theorem magnitude_strictMono (f : Fmt) : StrictMono (magnitude f) := by
  refine strictMono_nat_of_lt_succ fun k => ?_
  obtain ⟨q, n, hq, hn, hn', rfl⟩ := magnitude_split f k
  have h1 := magnitude_grid f hq hn.le hn'
  have h2 := magnitude_grid f hq (Nat.succ_le_of_lt hn) (hn'.imp_right fun h => Nat.le_succ_of_le h)
  have hpos : (0 : ℝ) < 2 ^ q := by positivity
  have h : (magnitude f ((q - f.qmin).toNat * 2 ^ f.mb + n) : ℝ) <
      magnitude f ((q - f.qmin).toNat * 2 ^ f.mb + (n + 1)) := by
    rw [h1, h2]
    push_cast
    linarith
  exact_mod_cast h

theorem pack_mod (f : Fmt) (p : Nat) : p % 2 ^ f.w = f.pack (f.signOf p) (f.magOf p) := by
  have hw : f.w = f.eb + f.mb + 1 := by unfold Fmt.w; omega
  have h2 : p / 2 ^ (f.eb + f.mb) % 2 < 2 := Nat.mod_lt _ (by decide)
  rw [hw, Nat.mod_pow_succ]
  change p % 2 ^ (f.eb + f.mb) + _ = (if decide (p / 2 ^ (f.eb + f.mb) % 2 = 1) then 2 ^ (f.eb + f.mb) else 0) +
    p % 2 ^ (f.eb + f.mb)
  simp only [decide_eq_true_eq]
  split
  next h => rw [h, Nat.mul_one, Nat.add_comm]
  next h => rw [show p / 2 ^ (f.eb + f.mb) % 2 = 0 by omega, Nat.mul_zero, Nat.add_comm]

/-- An operand that is no NaN comes before another (R177). -/
def Fv.Below (p q : Fv) : Prop :=
  (p = .inf true ∧ q ≠ .inf true) ∨ (q = .inf false ∧ p ≠ .inf false) ∨ IsFinite p ∧ IsFinite q ∧ valueOf p < valueOf q

/-- The order in which −0 comes before +0 (R176). -/
def Fv.Under (p q : Fv) : Prop := p.Below q ∨ p = .zero true ∧ q = .zero false

theorem valueOf_sign (n : Bool) {m : Nat} (e : ℤ) (hm : 0 < m) :
    (n = true → valueOf (.fin n m e) < 0) ∧ (n = false → 0 < valueOf (.fin n m e)) := by
  have h : (0 : ℚ) < (m : ℚ) * 2 ^ e := by
    have : (0 : ℚ) < m := by exact_mod_cast hm
    positivity
  constructor <;> rintro rfl <;> simp only [valueOf, Bool.false_eq_true, if_false, if_true, mul_assoc] <;> linarith

theorem scaled_lt (n n' : Bool) (m m' : Nat) (e e' : ℤ) :
    scaled n m e (min e e') < scaled n' m' e' (min e e') ↔ valueOf (.fin n m e) < valueOf (.fin n' m' e') := by
  have h1 := scaled_value n m (min_le_left e e')
  have h2 := scaled_value n' m' (min_le_right e e')
  have hpos : (0 : ℝ) < 2 ^ min e e' := by positivity
  rw [← Rat.cast_lt (K := ℝ), ← h1, ← h2, mul_lt_mul_iff_left₀ hpos, Int.cast_lt]

/-- R177: the order that the compares use. -/
theorem less_iff_below {x y : Fv} (hx : x.Pos) (hy : y.Pos) (hnx : x.isNan = false) (hny : y.isNan = false) :
    x.less false y = true ↔ x.Below y := by
  unfold Fv.Below
  cases x with
  | nan b => exact Bool.noConfusion (hnx : true = false)
  | inf a =>
    cases y with
    | nan b => exact Bool.noConfusion (hny : true = false)
    | inf b => cases a <;> cases b <;> simp [Fv.less, IsFinite]
    | _ => cases a <;> simp [Fv.less, IsFinite]
  | zero a =>
    cases y with
    | nan b => exact Bool.noConfusion (hny : true = false)
    | inf b => cases b <;> simp [Fv.less, IsFinite]
    | zero b => simp [Fv.less, IsFinite, valueOf]
    | fin n m e =>
      obtain ⟨hneg, hpos⟩ := valueOf_sign n e hy
      cases n
      · simpa [Fv.less, IsFinite, valueOf] using hpos rfl
      · simpa [Fv.less, IsFinite, valueOf] using (hneg rfl).le
  | fin n m e =>
    cases y with
    | nan b => exact Bool.noConfusion (hny : true = false)
    | inf b => cases b <;> simp [Fv.less, IsFinite]
    | zero b =>
      obtain ⟨hneg, hpos⟩ := valueOf_sign n e hx
      cases n
      · simpa [Fv.less, IsFinite, valueOf] using (hpos rfl).le
      · simpa [Fv.less, IsFinite, valueOf] using hneg rfl
    | fin n' m' e' =>
      have h : (Fv.fin n m e).less false (.fin n' m' e') = true ↔ valueOf (.fin n m e) < valueOf (.fin n' m' e') := by
        rw [← scaled_lt]
        exact decide_eq_true_iff
      rw [h]
      simp [IsFinite]

theorem less_true (x y : Fv) : x.less true y = true ↔ x.less false y = true ∨ x = .zero true ∧ y = .zero false := by
  cases x <;> cases y <;> simp [Fv.less]

/-- R176: the order that minimum and maximum use. -/
theorem less_iff_under {x y : Fv} (hx : x.Pos) (hy : y.Pos) (hnx : x.isNan = false) (hny : y.isNan = false) :
    x.less true y = true ↔ x.Under y := by
  rw [less_true, less_iff_below hx hy hnx hny]
  rfl

theorem Fv.Under.asymm {x y : Fv} (h : x.Under y) : ¬ y.Under x := by
  unfold Fv.Under Fv.Below at *
  rcases h with (⟨rfl, h⟩ | ⟨rfl, h⟩ | ⟨hx, hy, hlt⟩) | ⟨rfl, rfl⟩
  · simp [IsFinite, h]
  · simp [IsFinite, h]
  · rintro ((⟨rfl, -⟩ | ⟨rfl, -⟩ | ⟨-, -, hgt⟩) | ⟨rfl, rfl⟩)
    · exact hy
    · exact hx
    · exact lt_asymm hlt hgt
    · exact lt_irrefl _ hlt
  · simp [IsFinite, valueOf]

section
variable (f : Fmt) (hi : f.IsIeee) (daz : Bool)

/-- The pattern of an operand as read: a zero of its sign where it reads as one. -/
def Fmt.seen (f : Fmt) (u : Fv) (p : Nat) : Nat :=
  if valueOf u = 0 ∧ (∀ i, u ≠ .inf i) then f.pack u.neg 0 else p % 2 ^ f.w

include hi in
theorem patOf_seen (p : Nat) (hnan : (f.read daz p).isNan = false) : f.patOf daz p = f.seen (f.read daz p) p := by
  have hfits := read_fits hi daz p
  unfold Fmt.patOf Fmt.seen
  cases h : f.read daz p with
  | nan b =>
    rw [h] at hnan
    exact Bool.noConfusion (hnan : true = false)
  | inf b => simp
  | zero b => simp [valueOf, Fv.neg]
  | fin n m e =>
    rw [h] at hfits
    have hv : valueOf (.fin n m e) ≠ 0 := valueOf_real_ne_zero.1 (valueOf_ne_zero n m e hfits.1)
    simp [hv]

include hi in
/-- What a pattern reads as, and the pattern that reads so. -/
theorem read_cases (p : Nat) (hnan : (f.read daz p).isNan = false) :
    (f.read daz p = .inf (f.signOf p) ∧ f.magOf p = f.infMag) ∨ f.read daz p = .zero (f.signOf p) ∨
      ∃ m e, f.read daz p = .fin (f.signOf p) m e ∧ 0 < m ∧ |valueOf (f.read daz p)| = magnitude f (f.magOf p) := by
  have hmax := hi.maxMag
  rcases Nat.lt_trichotomy f.infMag (f.magOf p) with h | h | h
  · rw [read_nan f daz p (by omega) fun _ => by omega] at hnan
    exact Bool.noConfusion (hnan : true = false)
  · exact .inl ⟨read_inf f daz p (by omega) hi.ieee h.symm, h.symm⟩
  · by_cases hz : f.magOf p = 0 ∨ daz = true ∧ f.magOf p < 2 ^ f.mb
    · exact .inr (.inl (read_zero f daz p hz (by omega)))
    · have hr := read_fin f daz p hz (by omega)
      refine .inr (.inr ⟨_, _, hr, sigOf_pos f p fun h0 => hz (.inl h0), ?_⟩)
      rw [hr]
      exact (abs_valueOf ..).trans (magnitude_magOf f p).symm

include hi in
/-- Operands of which neither comes before the other have one pattern as read. -/
theorem seen_eq_of_not_under {a b : Nat} (hna : (f.read daz a).isNan = false) (hnb : (f.read daz b).isNan = false)
    (h1 : ¬ (f.read daz a).Under (f.read daz b)) (h2 : ¬ (f.read daz b).Under (f.read daz a)) :
    f.seen (f.read daz a) a = f.seen (f.read daz b) b := by
  have hpa := (read_fits hi daz a).pos
  have hpb := (read_fits hi daz b).pos
  rw [← patOf_seen f hi daz a hna, ← patOf_seen f hi daz b hnb]
  unfold Fv.Under Fv.Below at h1 h2
  unfold Fmt.patOf
  rcases read_cases f hi daz a hna with ⟨ha, hma⟩ | ha | ⟨m, e, ha, hm, hva⟩
  · rcases read_cases f hi daz b hnb with ⟨hb, hmb⟩ | hb | ⟨m', e', hb, hm', hvb⟩
    · have hs : f.signOf a = f.signOf b := by
        rw [ha, hb] at h1 h2
        revert h1 h2
        cases f.signOf a <;> cases f.signOf b <;> simp [IsFinite]
      rw [ha, hb]
      change a % 2 ^ f.w = b % 2 ^ f.w
      rw [pack_mod, pack_mod, hs, hma, hmb]
    · rw [ha, hb] at h1 h2
      revert h1 h2
      cases f.signOf a <;> simp [IsFinite]
    · rw [ha, hb] at h1 h2
      revert h1 h2
      cases f.signOf a <;> simp [IsFinite]
  · rcases read_cases f hi daz b hnb with ⟨hb, hmb⟩ | hb | ⟨m', e', hb, hm', hvb⟩
    · rw [ha, hb] at h1 h2
      revert h1 h2
      cases f.signOf b <;> simp [IsFinite]
    · have hs : f.signOf a = f.signOf b := by
        rw [ha, hb] at h1 h2
        revert h1 h2
        cases f.signOf a <;> cases f.signOf b <;> simp [IsFinite]
      rw [ha, hb, hs]
    · rw [ha, hb] at h1 h2
      obtain ⟨hneg, hpos⟩ := valueOf_sign (f.signOf b) e' hm'
      cases hs : f.signOf b
      · exact absurd (.inl (.inr (.inr ⟨trivial, trivial, hpos hs⟩))) h1
      · exact absurd (.inl (.inr (.inr ⟨trivial, trivial, hneg hs⟩))) h2
  · rcases read_cases f hi daz b hnb with ⟨hb, hmb⟩ | hb | ⟨m', e', hb, hm', hvb⟩
    · rw [ha, hb] at h1 h2
      revert h1 h2
      cases f.signOf b <;> simp [IsFinite]
    · rw [ha, hb] at h1 h2
      obtain ⟨hneg, hpos⟩ := valueOf_sign (f.signOf a) e hm
      cases hs : f.signOf a
      · exact absurd (.inl (.inr (.inr ⟨trivial, trivial, hpos hs⟩))) h2
      · exact absurd (.inl (.inr (.inr ⟨trivial, trivial, hneg hs⟩))) h1
    · have hval : valueOf (f.read daz a) = valueOf (f.read daz b) := by
        refine le_antisymm (not_lt.1 fun h => h2 (.inl (.inr (.inr ⟨?_, ?_, h⟩))))
          (not_lt.1 fun h => h1 (.inl (.inr (.inr ⟨?_, ?_, h⟩)))) <;> simp [ha, hb, IsFinite]
      have hmag : f.magOf a = f.magOf b := (magnitude_strictMono f).injective (by rw [← hva, ← hvb, hval])
      rw [ha, hb] at hval
      obtain ⟨hnega, hposa⟩ := valueOf_sign (f.signOf a) e hm
      obtain ⟨hnegb, hposb⟩ := valueOf_sign (f.signOf b) e' hm'
      rw [← hval] at hnegb hposb
      have hs : f.signOf a = f.signOf b := by
        cases hsa : f.signOf a <;> cases hsb : f.signOf b
        · rfl
        · exact absurd (hposa hsa) (not_lt.2 (hnegb hsb).le)
        · exact absurd (hposb hsb) (not_lt.2 (hnega hsa).le)
        · rfl
      rw [ha, hb]
      change a % 2 ^ f.w = b % 2 ^ f.w
      rw [pack_mod, pack_mod, hs, hmag]

end

/-- What the minimum and the maximum are (R176). -/
structure MinmaxOf (f : Fmt) (v : Fenv) (mx : Bool) (a b : Nat) (r : Fres) : Prop where
  nans : (f.read v.daz a).isNan = true → (f.read v.daz b).isNan = true →
    r = (f.nan, if (f.read v.daz a).isSig || (f.read v.daz b).isSig then 1 else 0)
  left : (f.read v.daz a).isNan = true → (f.read v.daz b).isNan = false →
    r = (f.seen (f.read v.daz b) b, if (f.read v.daz a).isSig || (f.read v.daz b).isSig then 1 else 0)
  right : (f.read v.daz a).isNan = false → (f.read v.daz b).isNan = true →
    r = (f.seen (f.read v.daz a) a, if (f.read v.daz a).isSig || (f.read v.daz b).isSig then 1 else 0)
  ordered : (f.read v.daz a).isNan = false → (f.read v.daz b).isNan = false →
    ((f.read v.daz a).Under (f.read v.daz b) →
      r = (if mx then f.seen (f.read v.daz b) b else f.seen (f.read v.daz a) a, 0)) ∧
    ((f.read v.daz b).Under (f.read v.daz a) →
      r = (if mx then f.seen (f.read v.daz a) a else f.seen (f.read v.daz b) b, 0)) ∧
    (¬ (f.read v.daz a).Under (f.read v.daz b) → ¬ (f.read v.daz b).Under (f.read v.daz a) →
      r = (f.seen (f.read v.daz a) a, 0) ∧ f.seen (f.read v.daz a) a = f.seen (f.read v.daz b) b)

theorem isSig_of_not_nan {x : Fv} (h : x.isNan = false) : x.isSig = false := by
  cases x with
  | nan b => exact Bool.noConfusion (h : true = false)
  | _ => rfl

theorem minmax_minmaxOf {f : Fmt} (hi : f.IsIeee) (v : Fenv) (mx : Bool) (a b : Nat) : MinmaxOf f v mx a b (f.minmax v mx a b) where
  nans ha hb := by
    unfold Fmt.minmax
    simp only [ha, hb, Bool.and_self, if_true]
    rfl
  left ha hb := by
    unfold Fmt.minmax
    simp only [ha, hb, Bool.and_false, Bool.false_eq_true, if_false, if_true, patOf_seen f hi v.daz b hb]
    rfl
  right ha hb := by
    unfold Fmt.minmax
    simp only [ha, hb, Bool.and_true, Bool.false_eq_true, if_false, if_true, patOf_seen f hi v.daz a ha]
    rfl
  ordered ha hb := by
    have hunder := less_iff_under (read_fits hi v.daz b).pos (read_fits hi v.daz a).pos hb ha
    have hres : f.minmax v mx a b = (if (Fv.less true (f.read v.daz b) (f.read v.daz a)) != mx then f.seen (f.read
        v.daz b) b
        else f.seen (f.read v.daz a) a, 0) := by
      unfold Fmt.minmax
      simp only [ha, hb, Bool.and_self, Bool.false_eq_true, if_false, isSig_of_not_nan ha, isSig_of_not_nan hb,
          Bool.or_self,
        patOf_seen f hi v.daz b hb, patOf_seen f hi v.daz a ha]
      split <;> rfl
    rw [hres]
    refine ⟨fun h => ?_, fun h => ?_, fun h1 h2 => ?_⟩
    · rw [Bool.eq_false_of_not_eq_true (hunder.not.2 h.asymm)]
      cases mx <;> rfl
    · rw [hunder.2 h]
      cases mx <;> rfl
    · have heq := seen_eq_of_not_under f hi v.daz ha hb h1 h2
      rw [← heq, ite_self]
      exact ⟨rfl, rfl⟩

end Machine

namespace Machine

/-! ## Powers of two (R179) -/

section
variable (f : Fmt) (v : Fenv)

theorem round_inexact_of_sticky (rm : Rm) (neg : Bool) (m : Nat) (e : ℤ) : (f.round rm neg m e true).inexact = true :=
    by
  rw [round_unitOf]
  split
  · rfl
  · exact Bool.or_true _

/-- What is left over raises nx, and neither nv nor dz. -/
theorem fin_sticky_flags (neg : Bool) (m : Nat) (e : ℤ) :
    (f.fin v neg m e true).2 = 20 ∨ (f.fin v neg m e true).2 = 24 ∨ (f.fin v neg m e true).2 = 16 := by
  have h := round_inexact_of_sticky f v.rm neg m e
  unfold Fmt.fin Fmt.deliver
  dsimp only
  rw [h]
  split
  · exact .inl rfl
  · split
    · split <;> exact .inr (.inl rfl)
    · exact .inr (.inr rfl)

/-- nx is raised, and neither nv nor dz. -/
def RaisesNx (r : Fres) : Prop := r.2.getLsbD 4 = true ∧ r.2.getLsbD 0 = false ∧ r.2.getLsbD 1 = false

theorem fin_sticky_nx (neg : Bool) (m : Nat) (e : ℤ) : RaisesNx (f.fin v neg m e true) := by
  unfold RaisesNx
  rcases fin_sticky_flags f v neg m e with h | h | h <;> rw [h] <;> decide

/-- Without overflow of is not raised. -/
theorem fin_no_overflow {neg : Bool} {m : Nat} {e : ℤ} (h : (f.round v.rm neg m e true).mag ≤ f.maxMag) :
    (f.fin v neg m e true).2.getLsbD 2 = false := by
  have hs := round_inexact_of_sticky f v.rm neg m e
  have hflags : (f.fin v neg m e true).2 = 24 ∨ (f.fin v neg m e true).2 = 16 := by
    unfold Fmt.fin Fmt.deliver
    dsimp only
    rw [if_neg (Nat.not_lt.2 h), hs]
    split
    · split <;> exact .inl rfl
    · exact .inr rfl
  rcases hflags with h | h <;> rw [h] <;> decide

theorem unitOf_one (k : ℤ) : f.unitOf 1 k = max (k - f.mb) f.qmin := by
  have h : bitLen 1 = 1 := by decide
  unfold Fmt.unitOf
  rw [h]
  congr 1
  push_cast
  ring

/-- A power of two far beyond the format overflows. -/
theorem fin_huge (hmb : f.mb < 24) (hq : -150 < f.qmin ∧ f.qmin < 0) (hmax : f.maxMag < 4000 * 2 ^ f.mb) (neg sticky : Bool) {k : ℤ} (hk : 5000 ≤ k) :
    f.fin v neg 1 k sticky = (f.overflow v.rm neg, fxOf ||| fxNx) := by
  have hu : f.unitOf 1 k = k - f.mb := by
    rw [unitOf_one]
    omega
  have hmag : f.maxMag < (f.round v.rm neg 1 k sticky).mag := by
    rw [round_unitOf, hu, if_pos (by omega)]
    have h1 : 4000 ≤ (k - f.mb - f.qmin).toNat := by omega
    have h2 := Nat.mul_le_mul_right (2 ^ f.mb) h1
    dsimp only
    omega
  unfold Fmt.fin Fmt.deliver
  exact if_pos hmag

/-- A power of two far below the format rounds as any of them. -/
theorem round_tiny (rm : Rm) (hq : -150 < f.qmin ∧ f.qmin < 0) (sticky : Bool) {k : ℤ} (hk : k ≤ -5000) :
    f.round rm false 1 k sticky = ⟨if rm = .ru then 1 else 0, true⟩ := by
  have hu : f.unitOf 1 k = f.qmin := by
    rw [unitOf_one]
    omega
  rw [round_unitOf, hu, if_neg (by omega), sub_self, Int.toNat_zero, Nat.zero_mul]
  obtain ⟨sh, hsh⟩ : ∃ sh, (f.qmin - k).toNat = sh + 2 := ⟨(f.qmin - k).toNat - 2, by omega⟩
  rw [hsh]
  have hpow : 2 ≤ 2 ^ (sh + 1) := by
    have := Nat.two_pow_pos sh
    rw [pow_succ]
    omega
  have hlt : 1 < 2 ^ (sh + 2) := by
    rw [pow_succ]
    omega
  dsimp only
  rw [Nat.div_eq_of_lt hlt, Nat.mod_eq_of_lt hlt]
  have h1 : ¬ 2 ^ (sh + 1) ≤ 1 := by omega
  have h2 : ¬ 2 ^ (sh + 1) < 1 := by omega
  have h3 : ¬ 1 = 2 ^ (sh + 1) := by omega
  cases rm <;> simp [roundUp, h1, h2, h3]

theorem fin_tiny (hq : -150 < f.qmin ∧ f.qmin < 0) (sticky : Bool) {k : ℤ} (hk : k ≤ -5000) :
    f.fin v false 1 k sticky = f.fin v false 1 (-5000) true := by
  unfold Fmt.fin Fmt.deliver
  rw [round_tiny f v.rm hq sticky hk, round_tiny f v.rm hq true (le_refl _)]

/-- What FEXP2 gives (R179). -/
structure Exp2Of (f : Fmt) (v : Fenv) (x : Fv) (r : Fres) : Prop where
  nan : x.isNan = true → r = (f.nan, if x.isSig then 1 else 0)
  negInf : x = .inf true → r = (f.pack false 0, 0)
  posInf : x = .inf false → r = (f.pack false f.infMag, 0)
  integer : ∀ k : ℤ, IsFinite x → (valueOf x : ℝ) = k → Delivered f v.ftzo v.rm ((2 : ℝ) ^ k) (overflowed f v.rm) r
  other : IsFinite x → (∀ k : ℤ, (valueOf x : ℝ) ≠ k) → RaisesNx r

variable (hi : f = fmtF32 ∨ f = fmtF16 ∨ f = fmtBF16)

include hi in
theorem ranges : f.mb < 24 ∧ (-150 < f.qmin ∧ f.qmin < 0) ∧ f.maxMag < 4000 * 2 ^ f.mb := by
  rcases hi with rfl | rfl | rfl <;> decide

/-- An exact power of two is delivered as it is. -/
theorem power_gives (hmb : 0 < f.mb) (k : ℤ) :
    Delivered f v.ftzo v.rm ((2 : ℝ) ^ k) (overflowed f v.rm) (f.fin v false 1 k false) := by
  have h := fin_gives f hmb v (neg := false) (m := 1) (e := k) Nat.one_pos
  rw [valueOf_fin, if_neg Bool.false_ne_true, Nat.cast_one, one_mul, one_mul] at h
  exact h

include hi in
theorem fin_clamped (k : ℤ) :
    f.fin v false 1 (max (-5000) (min k 5000)) false = f.fin v false 1 k false ∧
    (k < -5000 → f.fin v false 1 (-5000) true = f.fin v false 1 k false) ∧
    (5000 < k → f.fin v false 1 5000 false = f.fin v false 1 k false) := by
  obtain ⟨hmb, hq, hmax⟩ := ranges f hi
  have hlow : k < -5000 → f.fin v false 1 (-5000) true = f.fin v false 1 k false := fun h =>
    (fin_tiny f v hq false h.le).symm
  have hhigh : 5000 < k → f.fin v false 1 5000 false = f.fin v false 1 k false := fun h => by
    rw [fin_huge f v hmb hq hmax false false h.le, fin_huge f v hmb hq hmax false false (le_refl _)]
  refine ⟨?_, hlow, hhigh⟩
  rcases lt_or_ge k (-5000) with h | h
  · rw [show max (-5000) (min k 5000) = -5000 by omega, fin_tiny f v hq false (le_refl _), hlow h]
  · rcases lt_or_ge 5000 k with h' | h'
    · rw [show max (-5000) (min k 5000) = 5000 by omega, hhigh h']
    · rw [show max (-5000) (min k 5000) = k by omega]

/-- A finite operand of a fraction is q / 2^sh. -/
theorem valueOf_div (n : Bool) (m sh : Nat) {e : ℤ} (h : e = -sh) :
    (valueOf (.fin n m e) : ℝ) = ((if n then -(m : ℤ) else m : ℤ) : ℝ) / 2 ^ sh := by
  rw [valueOf_fin, h, zpow_neg, zpow_natCast]
  cases n <;> push_cast <;> simp <;> ring

theorem valueOf_scaled (n : Bool) (m : Nat) {e : ℤ} (h : 0 ≤ e) : (valueOf (.fin n m e) : ℝ) = scaled n m e 0 := by
  rw [← scaled_value n m h, zpow_zero, mul_one]

include hi in
theorem exp2V_exp2Of (hmb : 0 < f.mb) (x : Fv) : Exp2Of f v x (f.exp2V v x) where
  nan h := by
    obtain ⟨b, rfl⟩ := isNan_iff.1 h
    rfl
  negInf h := by subst h; rfl
  posInf h := by subst h; rfl
  integer k hfin hk := by
    have hres : f.exp2V v x = f.fin v false 1 k false := by
      rcases isFinite_cases hfin with ⟨a, rfl⟩ | ⟨n, m, e, rfl⟩
      · rw [valueOf_zero] at hk
        obtain rfl : k = 0 := by exact_mod_cast hk.symm
        rfl
      · unfold Fmt.exp2V
        by_cases he : 0 ≤ e
        · rw [valueOf_scaled n m he, Int.cast_inj] at hk
          simp only [if_pos he, hk]
          clear he
          obtain ⟨-, hlow, hhigh⟩ := fin_clamped f v hi k
          split
          next h => exact hlow h
          next => split
                  next h => exact hhigh h
                  next => rfl
        · obtain ⟨sh, hsh⟩ : ∃ sh : Nat, e = -sh := ⟨(-e).toNat, by omega⟩
          have hsh' : (-e).toNat = sh := by omega
          rw [valueOf_div n m sh hsh, div_eq_iff (by positivity)] at hk
          have hq : (if n then -(m : ℤ) else m : ℤ) = k * 2 ^ sh := by exact_mod_cast hk
          have hpos : (2 : ℤ) ^ sh ≠ 0 := by positivity
          simp only [if_neg he, hsh', hq, Int.mul_emod_left, Int.toNat_zero, if_true, Int.mul_ediv_cancel _ hpos]
          exact (fin_clamped f v hi k).1
    rw [hres]
    exact power_gives f v hmb k
  other hfin hk := by
    rcases isFinite_cases hfin with ⟨a, rfl⟩ | ⟨n, m, e, rfl⟩
    · exact absurd (by rw [valueOf_zero, Int.cast_zero]) (hk 0)
    · unfold Fmt.exp2V
      by_cases he : 0 ≤ e
      · exact absurd (valueOf_scaled n m he) (hk _)
      · obtain ⟨sh, hsh⟩ : ∃ sh : Nat, e = -sh := ⟨(-e).toNat, by omega⟩
        have hsh' : (-e).toNat = sh := by omega
        have hr : ((if n then -(m : ℤ) else m : ℤ) % 2 ^ sh).toNat ≠ 0 := fun h0 => by
          have hdvd : (if n then -(m : ℤ) else m : ℤ) % 2 ^ sh = 0 := by
            have := Int.emod_nonneg (if n then -(m : ℤ) else m : ℤ) (show (2 : ℤ) ^ sh ≠ 0 by positivity)
            omega
          obtain ⟨k, hq⟩ := Int.dvd_of_emod_eq_zero hdvd
          refine hk k ?_
          rw [valueOf_div n m sh hsh, div_eq_iff (by positivity), hq]
          push_cast
          ring
        simp only [if_neg he, hsh', if_neg hr]
        generalize exp2Fix _ = y
        generalize (if n then -(m : ℤ) else m : ℤ) / 2 ^ sh = k
        split
        · exact fin_sticky_nx f v false 1 (-5000)
        · split
          · exact fin_sticky_nx f v false 1 5000
          · exact fin_sticky_nx f v false y _

end
end Machine

namespace Machine

/-! ## Logarithms (R179) -/

/-- A value is a power of two just where its significand is one. -/
theorem isPow_iff {m : Nat} (hm : 0 < m) (e k : ℤ) : (m : ℝ) * 2 ^ e = 2 ^ k ↔ m = 2 ^ m.log2 ∧ k = e + m.log2 := by
  have hne : ∀ j : ℤ, (2 : ℝ) ^ j ≠ 0 := fun j => zpow_ne_zero j (by norm_num)
  constructor
  · intro h
    have hm' : (m : ℝ) = 2 ^ (k - e) := by
      rw [zpow_sub₀ (by norm_num), eq_div_iff (hne e), h]
    have hj : 0 ≤ k - e := by
      by_contra hc
      have h1 : (1 : ℝ) ≤ m := by exact_mod_cast hm
      have h2 : (2 : ℝ) ^ (k - e) < 1 := zpow_lt_one_of_neg₀ (by norm_num) (by omega)
      linarith
    obtain ⟨j, hj⟩ := Int.eq_ofNat_of_zero_le hj
    rw [hj, zpow_natCast] at hm'
    have hpow : m = 2 ^ j := by exact_mod_cast hm'
    have hlog : m.log2 = j := by rw [hpow, Nat.log2_two_pow]
    exact ⟨by rw [hlog]; exact hpow, by omega⟩
  · rintro ⟨h, rfl⟩
    rw [zpow_add₀ (by norm_num), zpow_natCast, mul_comm]
    congr 1
    exact_mod_cast h

theorem logBits_lt (w : Nat) : ∀ n y acc : Nat, logBits w n y acc < (acc + 1) * 2 ^ n
  | 0, _, acc => by rw [logBits]; omega
  | n + 1, y, acc => by
    have hpow : (acc + 1) * 2 ^ (n + 1) = (2 * acc + 1 + 1) * 2 ^ n := by rw [pow_succ]; ring
    rw [logBits, hpow]
    split
    · exact logBits_lt w n _ _
    · exact lt_of_lt_of_le (logBits_lt w n _ _) (Nat.mul_le_mul_right _ (by omega))

theorem bitLen_le {m k : Nat} (h : m < 2 ^ k) : bitLen m ≤ k := by
  unfold bitLen
  split
  · omega
  · next h0 =>
    have := (Nat.log2_lt h0).2 h
    omega

section
variable (f : Fmt) (v : Fenv)

/-- A rounded magnitude is at most the pattern above its binade. -/
theorem round_mag_le (rm : Rm) (neg : Bool) (m : Nat) (e : ℤ) (sticky : Bool) :
    (f.round rm neg m e sticky).mag ≤ (f.unitOf m e - f.qmin).toNat * 2 ^ f.mb + 2 ^ (f.mb + 1) := by
  have htop : e + bitLen m - 1 - f.mb ≤ f.unitOf m e := le_max_left _ _
  have hlt := lt_two_pow_bitLen m
  rw [round_unitOf]
  generalize f.unitOf m e = q at *
  by_cases hq : q ≤ e
  · rw [if_pos hq]
    have h : m * 2 ^ (e - q).toNat ≤ 2 ^ (f.mb + 1) := by
      calc m * 2 ^ (e - q).toNat ≤ 2 ^ bitLen m * 2 ^ (e - q).toNat := Nat.mul_le_mul_right _ hlt.le
        _ = 2 ^ (bitLen m + (e - q).toNat) := (pow_add ..).symm
        _ ≤ 2 ^ (f.mb + 1) := Nat.pow_le_pow_right (by decide) (by omega)
    dsimp only
    omega
  · rw [if_neg hq]
    have h : m / 2 ^ (q - e).toNat < 2 ^ (f.mb + 1) := by
      rw [Nat.div_lt_iff_lt_mul (Nat.two_pow_pos _), ← pow_add]
      exact lt_of_lt_of_le hlt (Nat.pow_le_pow_right (by decide) (by omega))
    dsimp only
    split <;> omega

/-- A value below 2^9 does not overflow F32, F16 or BF16. -/
theorem round_small (hf : f = fmtF32 ∨ f = fmtF16 ∨ f = fmtBF16) (rm : Rm) (neg : Bool) {m : Nat} {e : ℤ} (sticky : Bool)
    (h : e + bitLen m ≤ 9) : (f.round rm neg m e sticky).mag ≤ f.maxMag := by
  refine (round_mag_le f rm neg m e sticky).trans ?_
  have hq : (f.unitOf m e - f.qmin).toNat ≤ (8 - f.mb - f.qmin).toNat := by
    unfold Fmt.unitOf
    omega
  refine (Nat.add_le_add_right (Nat.mul_le_mul_right _ hq) _).trans ?_
  rcases hf with rfl | rfl | rfl <;> decide

theorem read_exp_le {f : Fmt} (hf : f = fmtF32 ∨ f = fmtF16 ∨ f = fmtBF16) (daz : Bool) (p : Nat) {n : Bool} {m : Nat} {e : ℤ}
    (h : f.read daz p = .fin n m e) : e ≤ 220 := by
  obtain ⟨hi, -⟩ := mb_lt_of_arithmetic hf
  have hmax := hi.maxMag
  rcases Nat.lt_trichotomy f.infMag (f.magOf p) with h' | h' | h'
  · rw [read_nan f daz p (by omega) fun _ => by omega] at h
    exact Fv.noConfusion h
  · rw [read_inf f daz p (by omega) hi.ieee h'.symm] at h
    exact Fv.noConfusion h
  · by_cases hz : f.magOf p = 0 ∨ daz = true ∧ f.magOf p < 2 ^ f.mb
    · rw [read_zero f daz p hz (by omega)] at h
      exact Fv.noConfusion h
    · rw [read_fin f daz p hz (by omega)] at h
      injection h with _ _ he
      have hdiv : f.magOf p / 2 ^ f.mb ≤ f.maxMag / 2 ^ f.mb := Nat.div_le_div_right (by omega)
      have hrange : f.qmin ≤ 0 ∧ f.qmin + (f.maxMag / 2 ^ f.mb : Nat) - 1 ≤ 220 := by
        rcases hf with rfl | rfl | rfl <;> decide
      rw [← he]
      unfold Fmt.expOf
      split <;> omega

/-- What FLOG2 gives (R179). -/
structure Log2Of (f : Fmt) (v : Fenv) (x : Fv) (r : Fres) : Prop where
  nan : x.isNan = true → r = (f.nan, if x.isSig then 1 else 0)
  zero : ∀ i, x = .zero i → r = (f.pack true f.infMag, 2)
  neg : (valueOf x : ℝ) < 0 ∨ x = .inf true → r = (f.nan, 1)
  inf : x = .inf false → r = (f.pack false f.infMag, 0)
  one : (valueOf x : ℝ) = 1 → r = (f.pack false 0, 0)
  power : ∀ k : ℤ, k ≠ 0 → (valueOf x : ℝ) = (2 : ℝ) ^ k → Delivered f v.ftzo v.rm k (overflowed f v.rm) r
  other : 0 < (valueOf x : ℝ) → (∀ k : ℤ, (valueOf x : ℝ) ≠ (2 : ℝ) ^ k) → RaisesNx r ∧ r.2.getLsbD 2 = false

theorem log2V_pow {m : Nat} {e k : ℤ} (h : m = 2 ^ m.log2 ∧ k = e + m.log2) :
    f.log2V v (.fin false m e) = if k = 0 then f.zeroRes false else f.fin v (decide (k < 0)) k.natAbs 0 false := by
  unfold Fmt.log2V
  dsimp only
  rw [if_neg Bool.false_ne_true, if_pos h.1, ← h.2]

theorem log2V_other {m : Nat} {e : ℤ} (h : m ≠ 2 ^ m.log2) : ∃ l : Nat, l < 2 ^ 140 ∧ f.log2V v (.fin false m e) =
    if 0 ≤ (e + m.log2) * 2 ^ 140 + (l : ℤ) then f.fin v false ((e + m.log2) * 2 ^ 140 + (l : ℤ)).natAbs (-140) true
    else f.fin v true (((e + m.log2) * 2 ^ 140 + (l : ℤ)).natAbs - 1) (-140) true := by
  refine ⟨logBits 320 140 (m * 2 ^ 320 / 2 ^ m.log2) 0, ?_, ?_⟩
  · have h := logBits_lt 320 140 (m * 2 ^ 320 / 2 ^ m.log2) 0
    rwa [Nat.zero_add, Nat.one_mul] at h
  · unfold Fmt.log2V
    dsimp only
    rw [if_neg Bool.false_ne_true, if_neg h]

theorem pos_fin {x : Fv} (hx : x.Pos) (h : 0 < (valueOf x : ℝ)) : ∃ m e, x = .fin false m e ∧ 0 < m ∧
    (valueOf x : ℝ) = (m : ℝ) * 2 ^ e := by
  obtain ⟨n, m, e, rfl⟩ := (valueOf_ne_zero_iff hx).1 (by exact_mod_cast h.ne')
  obtain rfl : n = false := by
    rw [← Bool.not_eq_true, valueOf_neg_iff n m e hx, not_lt]
    exact h.le
  exact ⟨m, e, rfl, hx, by rw [valueOf_fin, if_neg Bool.false_ne_true, one_mul]⟩

theorem log2V_log2Of (hf : f = fmtF32 ∨ f = fmtF16 ∨ f = fmtBF16) {x : Fv} (hx : x.Fits f)
    (hexp : ∀ n m e, x = .fin n m e → e ≤ 220) : Log2Of f v x (f.log2V v x) where
  nan h := by
    obtain ⟨b, rfl⟩ := isNan_iff.1 h
    rfl
  zero i h := by subst h; rfl
  neg h := by
    rcases h with h | rfl
    · obtain ⟨n, m, e, rfl⟩ := (valueOf_ne_zero_iff hx.pos).1 (by exact_mod_cast h.ne)
      obtain rfl := (valueOf_neg_iff n m e hx.1).2 h
      rfl
    · rfl
  inf h := by subst h; rfl
  one h := by
    obtain ⟨m, e, rfl, hm, hv⟩ := pos_fin hx.pos (h ▸ one_pos)
    rw [log2V_pow f v ((isPow_iff hm e 0).1 (by rw [← hv, h, zpow_zero])), if_pos rfl]
    rfl
  power k hk h := by
    obtain ⟨m, e, rfl, hm, hv⟩ := pos_fin hx.pos (by rw [h]; positivity)
    rw [log2V_pow f v ((isPow_iff hm e k).1 (by rw [← hv, h])), if_neg hk]
    have := int_gives f (mb_lt_of_arithmetic hf).1.mb_pos v (q := 0) hk
    rwa [zpow_zero, mul_one] at this
  other hpos h := by
    obtain ⟨m, e, rfl, hm, hv⟩ := pos_fin hx.pos hpos
    have hne : m ≠ 2 ^ m.log2 := fun hp => h (e + m.log2) (by rw [hv]; exact (isPow_iff hm e _).2 ⟨hp, rfl⟩)
    obtain ⟨l, hl, hres⟩ := log2V_other f v hne (e := e)
    obtain ⟨-, hlt, hq⟩ := hx
    have he := hexp _ _ _ rfl
    have hrange : -150 < f.qmin ∧ f.mb < 24 := by
      rcases hf with rfl | rfl | rfl <;> decide
    have hlog : m.log2 < f.mb + 1 := (Nat.log2_lt hm.ne').2 hlt
    have ht : ((e + m.log2) * 2 ^ 140 + (l : ℤ)).natAbs < 2 ^ 149 := by omega
    have hlen : ∀ {t : Nat}, t < 2 ^ 149 → (-140 : ℤ) + bitLen t ≤ 9 := fun ht => by
      have := bitLen_le ht
      omega
    rw [hres]
    split
    · exact ⟨fin_sticky_nx f v _ _ _, fin_no_overflow f v (round_small f hf v.rm _ _ (hlen ht))⟩
    · exact ⟨fin_sticky_nx f v _ _ _, fin_no_overflow f v (round_small f hf v.rm _ _ (hlen (by omega)))⟩

end
end Machine

namespace Machine

/-! ## Integral values (R180) -/

/-- The grid of the integers. -/
def integers (n : Nat) : ℚ := n

/-- What is kept of a finite value is one of the integers next to it. -/
theorem roundInt_roundsTo (rm : Rm) (neg : Bool) {m : Nat} (e : ℤ) (hm : 0 < m) :
    RoundsTo integers rm (valueOf (.fin neg m e)) (roundInt rm neg m e).1 ∧
      ((roundInt rm neg m e).2 = true ↔ |(valueOf (.fin neg m e) : ℝ)| ≠ ((roundInt rm neg m e).1 : ℝ)) := by
  have hgrid : ∀ n : Nat, (integers n : ℝ) = n := fun n => Rat.cast_natCast n
  have habs := abs_valueOf_real neg m e
  unfold roundInt
  by_cases he : 0 ≤ e
  · obtain ⟨d, rfl⟩ := Int.eq_ofNat_of_zero_le he
    rw [if_pos he, Int.toNat_natCast]
    rw [zpow_natCast] at habs
    have hX : |(valueOf (.fin neg m (d : ℤ)) : ℝ)| = ((m * 2 ^ d : Nat) : ℝ) := by
      rw [habs]
      push_cast
      rfl
    refine ⟨roundsTo_exact rm (hX.trans (hgrid _).symm) ?_, ?_⟩
    · exact Nat.cast_lt.2 (Nat.lt_succ_self _)
    · exact iff_of_false Bool.false_ne_true (fun h => h hX)
  · obtain ⟨sh, hsh⟩ : ∃ sh : Nat, e = -sh := ⟨(-e).toNat, by omega⟩
    have htn : (-e).toNat = sh := by omega
    rw [if_neg he, htn]
    dsimp only
    have hcut : Between |(valueOf (.fin neg m e) : ℝ)| (m / 2 ^ sh * 2 ^ sh + m % 2 ^ sh) e false := by
      rw [habs, Nat.mul_comm, Nat.div_add_mod]
      exact Between.exact m e
    have hzero : e + sh = 0 := by omega
    obtain ⟨h1, h2⟩ := roundsTo_cut (grid := integers) (lo := m / 2 ^ sh) rm (valueOf_neg_iff neg m e hm)
        (valueOf_ne_zero neg m e hm)
      (by omega : 0 < sh) (Nat.mod_lt _ (Nat.two_pow_pos _)) hcut (by rw [hzero, hgrid, zpow_zero, mul_one])
      (by rw [hzero, hgrid, zpow_zero, mul_one, Nat.cast_succ]) rfl
    rw [hgrid, Bool.or_false] at h2
    exact ⟨h1, h2⟩

section
variable (f : Fmt) (hi : f = fmtF32 ∨ f = fmtF16 ∨ f = fmtBF16)

include hi in
/-- An integer of the format's precision has a pattern. -/
theorem integer_magnitude (rm : Rm) (neg : Bool) {m : Nat} (d : Nat) (hm : 0 < m) (hlt : m < 2 ^ (f.mb + 1)) :
    magnitude f (f.round rm neg (m * 2 ^ d) 0 false).mag = ((m * 2 ^ d : Nat) : ℚ) := by
  have hmb := (mb_lt_of_arithmetic hi).1.mb_pos
  have hq : f.qmin < 0 := (ranges f hi).2.1.2
  have hpos : 0 < m * 2 ^ d := Nat.mul_pos hm (Nat.two_pow_pos d)
  have hlen : bitLen (m * 2 ^ d) ≤ f.mb + 1 + d := bitLen_le <| by
    rw [pow_add]
    exact Nat.mul_lt_mul_of_pos_right hlt (Nat.two_pow_pos d)
  have hexact : (f.round rm neg (m * 2 ^ d) 0 false).inexact = false := by
    have hu : f.unitOf (m * 2 ^ d) 0 ≤ d := by
      unfold Fmt.unitOf
      omega
    rw [round_unitOf]
    split
    · rfl
    · obtain ⟨sh, hsh⟩ : ∃ sh : Nat, (f.unitOf (m * 2 ^ d) 0 - 0).toNat = sh ∧ sh ≤ d := ⟨_, rfl, by omega⟩
      dsimp only
      rw [hsh.1, Bool.or_false, bne_eq_false_iff_eq]
      exact Nat.mod_eq_zero_of_dvd ((Nat.pow_dvd_pow 2 hsh.2).trans (Dvd.intro_left m rfl))
  obtain ⟨-, h⟩ := round_roundsTo f hmb rm hpos (valueOf_ne_zero neg (m * 2 ^ d) 0 hpos) (valueOf_neg_iff neg _ 0 hpos)
    (by rw [abs_valueOf_real]; exact Between.exact _ 0) (fun h => absurd h Bool.false_ne_true)
  rw [hexact, abs_valueOf_real, zpow_zero, mul_one] at h
  have heq : ((m * 2 ^ d : Nat) : ℝ) = magnitude f (f.round rm neg (m * 2 ^ d) 0 false).mag := by
    by_contra hne
    exact Bool.false_ne_true (h.2 hne)
  exact_mod_cast heq.symm

/-- The integer kept of an operand is one of the format's precision, or a multiple of a power of two. -/
theorem roundInt_fits (rm : Rm) (neg : Bool) {m : Nat} {e : ℤ} (hm : 0 < m) (hlt : m < 2 ^ (f.mb + 1))
    (hr : (roundInt rm neg m e).1 ≠ 0) (hmb : 0 < f.mb) :
    ∃ m' d, (roundInt rm neg m e).1 = m' * 2 ^ d ∧ 0 < m' ∧ m' < 2 ^ (f.mb + 1) := by
  by_cases he : 0 ≤ e
  · refine ⟨m, e.toNat, ?_, hm, hlt⟩
    unfold roundInt
    rw [if_pos he]
  · refine ⟨(roundInt rm neg m e).1, 0, (Nat.mul_one _).symm, Nat.pos_of_ne_zero hr, ?_⟩
    unfold roundInt
    rw [if_neg he]
    dsimp only
    have hhalf : m / 2 ^ (-e).toNat ≤ m / 2 := Nat.div_le_div_left (by
      calc 2 = 2 ^ 1 := rfl
        _ ≤ 2 ^ (-e).toNat := Nat.pow_le_pow_right (by decide) (by omega)) (by decide)
    have hpow : 2 ≤ 2 ^ f.mb := by
      calc 2 = 2 ^ 1 := rfl
        _ ≤ 2 ^ f.mb := Nat.pow_le_pow_right (by decide) hmb
    rw [pow_succ] at hlt ⊢
    split <;> omega

/-- What FRND gives (R180). -/
structure RndOf (f : Fmt) (v : Fenv) (x : Fv) (r : Fres) : Prop where
  nan : x.isNan = true → r = (f.nan, if x.isSig then 1 else 0)
  inf : ∀ i, x = .inf i → r = (f.pack i f.infMag, 0)
  zero : ∀ i, x = .zero i → r = (f.pack i 0, 0)
  finite : (valueOf x : ℝ) ≠ 0 → ∃ n k : Nat, RoundsTo integers v.rm (valueOf x) n ∧ magnitude f k = n ∧
    ((n : ℝ) = |(valueOf x : ℝ)| → r = (f.pack x.neg k, 0)) ∧ ((n : ℝ) ≠ |(valueOf x : ℝ)| → r = (f.pack x.neg k, 16))

theorem magnitude_zero : magnitude f 0 = 0 := by
  unfold magnitude
  rw [if_pos (Nat.two_pow_pos _), Nat.cast_zero, zero_mul]

include hi in
theorem rndV_rndOf (v : Fenv) {x : Fv} (hx : x.Fits f) : RndOf f v x (f.rndV v x) where
  nan h := by
    obtain ⟨b, rfl⟩ := isNan_iff.1 h
    rfl
  inf i h := by subst h; rfl
  zero i h := by subst h; rfl
  finite h := by
    obtain ⟨n, m, e, rfl⟩ := (valueOf_ne_zero_iff hx.pos).1 (by exact_mod_cast h)
    obtain ⟨hm, hlt, -⟩ := hx
    obtain ⟨hround, hexact⟩ := roundInt_roundsTo v.rm n e hm
    obtain ⟨k, hk, hres⟩ : ∃ k, magnitude f k = (roundInt v.rm n m e).1 ∧
        f.rndV v (.fin n m e) = (f.pack n k, if (roundInt v.rm n m e).2 then fxNx else 0) := by
      unfold Fmt.rndV
      by_cases hz : (roundInt v.rm n m e).1 = 0
      · exact ⟨0, by rw [hz, Nat.cast_zero, magnitude_zero], if_pos hz⟩
      · obtain ⟨m', d, heq, hm', hlt'⟩ := roundInt_fits f v.rm n hm hlt hz (mb_lt_of_arithmetic hi).1.mb_pos
        refine ⟨_, ?_, if_neg hz⟩
        rw [heq]
        exact integer_magnitude f hi .rne n d hm' hlt'
    refine ⟨_, k, hround, hk, fun h => ?_, fun h => ?_⟩
    · rw [hres, if_neg fun h' => hexact.1 h' h.symm]
      rfl
    · rw [hres, if_pos (hexact.2 (Ne.symm h))]
      rfl

end

/-! ## Exact results -/

theorem ordersAndPowers : Claims.OrdersAndPowers := by
  intro f v a b hf hrm x y X gives nan inf zero seen below under
  obtain ⟨hi, hbig⟩ := mb_lt_of_arithmetic hf
  have hmb := hi.mb_pos
  have hx : x.Fits f := read_fits hi v.daz a
  have hy : y.Fits f := read_fits hi v.daz b
  refine ⟨less_iff_below hx.pos hy.pos, fun mx => ?_, ?_, ?_, ?_⟩
  · obtain ⟨h1, h2, h3, h4⟩ := minmax_minmaxOf hi v mx a b
    refine ⟨h1, h2, h3, h4⟩
  · obtain ⟨h1, h2, h3, h4, h5⟩ := exp2V_exp2Of f v hf hmb x
    exact ⟨h1, h2, h3, h4, h5⟩
  · obtain ⟨h1, h2, h3, h4, h5, h6, h7⟩ := log2V_log2Of f v hf hx fun n m e h => read_exp_le hf v.daz a h
    refine ⟨h1, h2, h3, h4, h5, h6, fun hpos h => ?_⟩
    obtain ⟨⟨hnx, hnv, hdz⟩, hof⟩ := h7 hpos h
    exact ⟨hnx, hnv, hdz, hof⟩
  · obtain ⟨h1, h2, h3, h4⟩ := rndV_rndOf f hf v hx
    exact ⟨h1, h2, h3, h4⟩

/-- Settles O59: an exact value is cut between two neighbours of the format's grid, and each operation delivers the
    exact value
so cut; roots, quotients and logarithms keep more places than a format has and a sticky bit. -/
theorem exactResults : Obligations.ExactResults :=
  ⟨formats, patternsRead, arithmeticIsExact, ordersAndPowers⟩

end Machine

end Sys2Proof
end

section
/-!
PROOFS. ExactConversions: conversions, classes and L6 (R181 to R187).
-/
namespace Sys2Proof

namespace Machine

/-! ## Conversions (R170, R182 to R184) -/

/-- A finite nonzero value as a pattern of any format gives it. -/
theorem read_pos (f : Fmt) (daz : Bool) (p : Nat) : (f.read daz p).Pos := by
  rw [read_eq]
  have := Nat.two_pow_pos f.mb
  split
  · split <;> trivial
  · split
    · trivial
    · next h0 => split
                 · split
                   · trivial
                   · exact Nat.pos_of_ne_zero h0
                 · exact Nat.add_pos_left this _

/-- What a conversion to a floating type gives of a value (R182). -/
structure ToFloat (ty : Ty) (v : Fenv) (sat : Bool) (x : Fv) (r : Fres) : Prop where
  nan : x.isNan = true → r = ((fmtOf ty).nan, if x.isSig then 1 else 0)
  zero : ∀ n, x = .zero n → r = ((fmtOf ty).pack n 0, 0)
  finite : valueOf x ≠ 0 → Delivered (fmtOf ty) (cvtFtz ty v) v.rm (valueOf x) (cvtOver ty v sat) r

theorem fmtOf_mb_pos (ty : Ty) : 0 < (fmtOf ty).mb := by
  cases ty <;> decide

theorem cvtTo_toFloat (ty : Ty) (v : Fenv) (sat : Bool) {x : Fv} (hx : x.Pos) : ToFloat ty v sat x (cvtTo ty v sat x) where
  nan h := by
    obtain ⟨b, rfl⟩ := isNan_iff.1 h
    rfl
  zero n h := by subst h; rfl
  finite h := by
    obtain ⟨n, m, e, rfl⟩ := (valueOf_ne_zero_iff hx).1 h
    exact deliver_delivered _ (fmtOf_mb_pos ty) _ _ (cvtOver ty v sat) hx (valueOf_ne_zero n m e hx) (valueOf_neg_iff
        n m e hx)
      (by rw [abs_valueOf_real]; exact Between.exact m e) fun h => absurd h Bool.false_ne_true

/-- The floating types whose conversions saturate by F8SAT too, and ignore DAZ and FTZO. -/
def isF8 (t : Ty) : Bool := t == .e4m3 || t == .e5m2

theorem cvtFtz_eq (ty : Ty) (v : Fenv) : cvtFtz ty v = (v.ftzo && !isF8 ty) := by
  obtain ⟨rm, daz, ftzo, f8sat⟩ := v
  cases ftzo <;> cases ty <;> rfl

theorem cvtRead_eq (src : Ty) (v : Fenv) (p : Nat) : cvtRead src v p = (fmtOf src).read (v.daz && !isF8 src) p := by
  obtain ⟨rm, daz, ftzo, f8sat⟩ := v
  cases daz <;> cases src <;> rfl

/-- An exact integer as a value. -/
theorem intFv_value (i : ℤ) : (intFv i).Pos ∧ (valueOf (intFv i) : ℝ) = i ∧ (i ≠ 0 → valueOf (intFv i) ≠ 0) := by
  unfold intFv
  by_cases h : i = 0
  · subst h
    exact ⟨trivial, by rw [if_pos rfl, valueOf_zero, Int.cast_zero], fun h => absurd rfl h⟩
  · have hpos : 0 < i.natAbs := Int.natAbs_pos.2 h
    rw [if_neg h]
    refine ⟨hpos, ?_, fun _ => valueOf_real_ne_zero.1 (valueOf_ne_zero _ _ _ hpos)⟩
    rw [valueOf_fin, zpow_zero, mul_one, Nat.cast_natAbs, Int.cast_abs]
    by_cases hn : i < 0
    · have hn' : (i : ℝ) < 0 := by exact_mod_cast hn
      rw [decide_eq_true hn, if_pos rfl, abs_of_neg hn']
      ring
    · have hn' : (0 : ℝ) ≤ i := by exact_mod_cast not_lt.1 hn
      rw [decide_eq_false hn, if_neg Bool.false_ne_true, abs_of_nonneg hn', one_mul]

/-- A magnitude with the sign of a value. -/
def Fv.signed (x : Fv) (k : Nat) : ℤ := if x.neg then -(k : ℤ) else k

/-- What a conversion to an integer of n bits gives of a value (R183). -/
structure ToInt (lo hi : Int) (rm : Rm) (x : Fv) (r : Int × BitVec 6) : Prop where
  nan : x.isNan = true → r = (0, 1)
  inf : ∀ b, x = .inf b → r = (if b then lo else hi, 1)
  finite : IsFinite x → ∃ k : Nat, RoundsTo integers rm (valueOf x) k ∧
    (x.signed k < lo → r = (lo, 1)) ∧ (hi < x.signed k → r = (hi, 1)) ∧
    (lo ≤ x.signed k → x.signed k ≤ hi → ((x.signed k : ℝ) = valueOf x → r = (x.signed k, 0)) ∧
      ((x.signed k : ℝ) ≠ valueOf x → r = (x.signed k, 16)))

/-- The values of an integer of n bits. -/
def intLo (signed : Bool) (n : Nat) : Int := if signed then -(2 ^ (n - 1)) else 0
def intHi (signed : Bool) (n : Nat) : Int := if signed then 2 ^ (n - 1) - 1 else 2 ^ n - 1

theorem intLo_nonpos (signed : Bool) (n : Nat) : intLo signed n ≤ 0 := by
  have : (0 : ℤ) < 2 ^ (n - 1) := by positivity
  unfold intLo
  split <;> omega

theorem intHi_nonneg (signed : Bool) (n : Nat) : 0 ≤ intHi signed n := by
  have h1 : (0 : ℤ) < 2 ^ (n - 1) := by positivity
  have h2 : (0 : ℤ) < 2 ^ n := by positivity
  unfold intHi
  split <;> omega

theorem signed_eq_iff {x : Fv} {k : Nat} {X : ℝ} (hneg : x.neg = true ↔ X < 0) : (x.signed k : ℝ) = X ↔ |X| = k := by
  unfold Fv.signed
  have hk : (0 : ℝ) ≤ k := Nat.cast_nonneg k
  by_cases h : X < 0
  · rw [hneg.2 h, if_pos rfl, abs_of_neg h]
    push_cast
    constructor <;> intro h' <;> linarith
  · have hf : x.neg = false := Bool.eq_false_of_not_eq_true fun ht => h (hneg.1 ht)
    rw [hf, if_neg Bool.false_ne_true, abs_of_nonneg (not_lt.1 h)]
    push_cast
    exact eq_comm

theorem roundsTo_zero (rm : Rm) : RoundsTo integers rm 0 0 := by
  refine roundsTo_exact rm ?_ (Nat.cast_lt.2 Nat.zero_lt_one)
  rw [abs_zero]
  exact Rat.cast_zero.symm.trans (congrArg Rat.cast (Nat.cast_zero (R := ℚ)).symm)

theorem cvtInt_fin (signed : Bool) (n : Nat) (rm : Rm) (b : Bool) (m : Nat) (e : ℤ) :
    let z := (Fv.fin b m e).signed (roundInt rm b m e).1
    cvtInt signed n rm (.fin b m e) =
      if z < intLo signed n then (intLo signed n, 1)
      else if intHi signed n < z then (intHi signed n, 1)
      else (z, if (roundInt rm b m e).2 then 16 else 0) := rfl

theorem cvtInt_toInt (signed : Bool) (n : Nat) (rm : Rm) {x : Fv} (hx : x.Pos) :
    ToInt (intLo signed n) (intHi signed n) rm x (cvtInt signed n rm x) where
  nan h := by
    obtain ⟨b, rfl⟩ := isNan_iff.1 h
    rfl
  inf b h := by subst h; rfl
  finite h := by
    have hlo := intLo_nonpos signed n
    have hhi := intHi_nonneg signed n
    rcases isFinite_cases h with ⟨a, rfl⟩ | ⟨b, m, e, rfl⟩
    · have hz : (Fv.zero a).signed 0 = 0 := by
        unfold Fv.signed
        split <;> rfl
      refine ⟨0, by rw [valueOf_zero]; exact roundsTo_zero rm, ?_⟩
      rw [hz]
      refine ⟨fun h => absurd h (by omega), fun h => absurd h (by omega), fun _ _ => ⟨fun _ => rfl, fun h => absurd ?_
          h⟩⟩
      rw [valueOf_zero, Int.cast_zero]
    · obtain ⟨hround, hexact⟩ := roundInt_roundsTo rm b e hx
      have hsign := signed_eq_iff (x := .fin b m e) (k := (roundInt rm b m e).1) (valueOf_neg_iff b m e hx)
      refine ⟨_, hround, ?_⟩
      rw [cvtInt_fin]
      generalize (Fv.fin b m e).signed (roundInt rm b m e).1 = z at *
      refine ⟨fun h => if_pos h, fun h => ?_, fun h1 h2 => ?_⟩
      · rw [if_neg (show ¬ z < intLo signed n by omega), if_pos h]
      · rw [if_neg (show ¬ z < intLo signed n by omega), if_neg (show ¬ intHi signed n < z by omega)]
        refine ⟨fun h => ?_, fun h => ?_⟩
        · rw [if_neg fun ht => hexact.1 ht (hsign.1 h)]
        · rw [if_pos (hexact.2 fun ht => h (hsign.2 ht))]

end Machine

namespace Machine

/-- What an overflow of a conversion delivers (R182). -/
theorem cvtOver_eq (ty : Ty) (v : Fenv) (sat neg : Bool) : ty ∈ floats →
    cvtOver ty v sat neg = match ty with
      | .e4m3 => if sat || v.f8sat then (fmtOf ty).pack neg 0x7E else 0x7F
      | .e5m2 => (fmtOf ty).pack neg (if sat || v.f8sat then 0x7B else 0x7C)
      | _ => if sat then (fmtOf ty).pack neg (fmtOf ty).maxMag else overflowed (fmtOf ty) v.rm neg := by
  intro h
  rw [← overflow_eq]
  simp only [floats, List.mem_cons, List.not_mem_nil, or_false] at h
  rcases h with rfl | rfl | rfl | rfl | rfl
  · rfl
  · rfl
  · rfl
  · rfl
  · change (if sat || v.f8sat then _ else _) = _
    dsimp only
    split <;> rfl

theorem cvtTo_inf (ty : Ty) (v : Fenv) (sat n : Bool) : ty ∈ floats →
    cvtTo ty v sat (.inf n) = match ty with
      | .e4m3 => (if sat || v.f8sat then (fmtOf ty).pack n 0x7E else 0x7F, 1)
      | .e5m2 => ((fmtOf ty).pack n (if sat || v.f8sat then 0x7B else 0x7C), 0)
      | _ => ((fmtOf ty).pack n (if sat then (fmtOf ty).maxMag else (fmtOf ty).infMag), 0) := by
  intro h
  simp only [floats, List.mem_cons, List.not_mem_nil, or_false] at h
  have hsplit : ∀ (b : Bool) (f : Fmt) (x y : Nat), (if b then f.pack n x else f.pack n y) = f.pack n (if b then x
      else y) :=
    fun b f x y => (apply_ite (f.pack n) (b = true) x y).symm
  rcases h with rfl | rfl | rfl | rfl | rfl
  · exact congrArg (·, 0) (hsplit _ _ _ _)
  · exact congrArg (·, 0) (hsplit _ _ _ _)
  · exact congrArg (·, 0) (hsplit _ _ _ _)
  · rfl
  · exact congrArg (·, 0) (hsplit _ _ _ _)

theorem floats_plain {ty : Ty} (h : ty ∈ floats) : packed ty = false ∧ ty.int8c = false := by
  simp only [floats, List.mem_cons, List.not_mem_nil, or_false] at h
  rcases h with rfl | rfl | rfl | rfl | rfl <;> exact ⟨rfl, rfl⟩

theorem int8c_plain {ty : Ty} (h : ty.int8c = true) : packed ty = false := by
  revert h
  cases ty <;> decide

/-- A conversion of types that are not packed is that of one element. -/
theorem cvtVal_plain {ty src : Ty} (ht : packed ty = false) (hs : packed src = false) (v : Fenv) (sat : Bool) (p : Nat) :
    cvtVal ty src v sat p = cvtElt ty src v sat p := by
  unfold cvtVal
  rw [ht, hs]
  rfl

theorem int8c_size_pos {ty : Ty} (h : ty.int8c = true) : 0 < 8 * ty.size := by
  revert h
  cases ty <;> decide

/-- The integer that a pattern reads as (R125). -/
theorem rdN_bitVec {src : Ty} (h : src.int8c = true) (p : Nat) : rdN src.signed (tyBits src) p =
    if src.signed then (BitVec.ofNat (8 * src.size) p).toInt else ((BitVec.ofNat (8 * src.size) p).toNat : ℤ) := by
  rw [tyBits, rdN_eq src.signed (int8c_size_pos h), BitVec.toNat_ofNat]

theorem intBounds_eq (ty : Ty) : intBounds ty = (intLo ty.signed (tyBits ty), intHi ty.signed (tyBits ty)) := by
  unfold intBounds intLo intHi tyBits
  cases ty.signed <;> rfl

/-- The element types of a packed one, and other types as they are (R168). -/
def halfOf (t : Ty) : Ty :=
  match t with
  | .h2 => .f16
  | .b2 => .bf16
  | t => t

/-- An element of a packed type converts as one of its element type. -/
theorem cvtElt_half (ty src : Ty) (v : Fenv) (sat : Bool) (p : Nat) :
    cvtElt ty src v sat p = cvtElt (halfOf ty) (halfOf src) v sat p := by
  have hsrc : cvtElt ty src v sat p = cvtElt ty (halfOf src) v sat p := by cases src <;> rfl
  rw [hsrc]
  cases ty <;> rfl

theorem packed_halfOf (t : Ty) : packed (halfOf t) = false := by
  cases t <;> rfl

theorem packed_iff (t : Ty) : packed t = true ↔ t = .h2 ∨ t = .b2 := by
  cases t <;> decide

theorem packed_of_half {t : Ty} (h : halfOf t = t) : packed t = false := h ▸ packed_halfOf t

theorem cvtVal_half (ty src : Ty) (v : Fenv) (sat : Bool) (p : Nat) :
    cvtVal (halfOf ty) (halfOf src) v sat p = cvtElt ty src v sat p := by
  rw [cvtVal_plain (packed_halfOf ty) (packed_halfOf src), ← cvtElt_half]

theorem conversionsAreExact : Claims.ConversionsAreExact := by
  intro ty src v sat p hrm small f r sf overR x X w i pat half
  have hover : ty ∈ floats → cvtOver ty v sat = overR := fun h => funext fun neg => cvtOver_eq ty v sat neg h
  have hftz : cvtFtz ty v = (v.ftzo && !small ty) := cvtFtz_eq ty v
  have hread : cvtRead src v p = x := cvtRead_eq src v p
  refine ⟨fun ht hs => ?_, fun ht hs => ?_, fun ht hs => ?_, fun hs ht => ?_, fun hs ht => ?_, fun hs ht => ?_⟩
  · obtain ⟨hpt, hit⟩ := floats_plain ht
    obtain ⟨hps, his⟩ := floats_plain hs
    have hr : r = cvtTo ty v sat x := by
      refine (cvtVal_plain hpt hps v sat p).trans ?_
      unfold cvtElt
      rw [his, hit, ← hread]
      rfl
    obtain ⟨h1, h2, h3⟩ := cvtTo_toFloat ty v sat (read_pos _ _ p : x.Pos)
    rw [hr]
    refine ⟨h1, fun n hn => ?_, h2, fun hX => ?_⟩
    · rw [hn]
      exact cvtTo_inf ty v sat n ht
    · have := h3 (valueOf_real_ne_zero.1 hX)
      rwa [hover ht, hftz] at this
  · obtain ⟨hpt, hit⟩ := floats_plain ht
    have hi : rdN src.signed (tyBits src) p = i := rdN_bitVec hs p
    have hr : r = cvtTo ty v sat (intFv i) := by
      refine (cvtVal_plain hpt (int8c_plain hs) v sat p).trans ?_
      unfold cvtElt
      rw [hs, hit, hi]
      rfl
    obtain ⟨hpos, hval, hne⟩ := intFv_value i
    obtain ⟨h1, h2, h3⟩ := cvtTo_toFloat ty v sat hpos
    rw [hr]
    refine ⟨fun h0 => ?_, fun h0 => ?_⟩
    · rw [h0]
      rfl
    · have := h3 (hne h0)
      rwa [hover ht, hftz, hval] at this
  · obtain ⟨hps, his⟩ := floats_plain hs
    have hpat : ∀ z : ℤ, (z % 2 ^ tyW ty).toNat = pat z := fun z => (BitVec.toNat_ofInt z).symm
    have hr : r = (pat (cvtInt ty.signed (tyBits ty) v.rm x).1, (cvtInt ty.signed (tyBits ty) v.rm x).2) := by
      refine (cvtVal_plain (int8c_plain ht) hps v sat p).trans ?_
      unfold cvtElt
      rw [his, ht, ← hread, ← hpat]
      rfl
    have hb := intBounds_eq ty
    have hlo : (intBounds ty).1 = intLo ty.signed (tyBits ty) := congrArg Prod.fst hb
    have hhi : (intBounds ty).2 = intHi ty.signed (tyBits ty) := congrArg Prod.snd hb
    obtain ⟨h1, h2, h3⟩ := cvtInt_toInt ty.signed (tyBits ty) v.rm (read_pos _ _ p : x.Pos)
    rw [hr, hlo, hhi]
    refine ⟨fun h => ?_, fun n h => ?_, fun h => ?_⟩
    · rw [h1 h, ← hpat, Int.zero_emod]
      rfl
    · rw [h2 n h]
    · obtain ⟨k, hk, hless, hmore, hin⟩ := h3 h
      refine ⟨k, hk, fun h => ?_, fun h => ?_, fun ha hb => ⟨fun h => ?_, fun h => ?_⟩⟩
      · rw [hless h]
      · rw [hmore h]
      · rw [(hin ha hb).1 h]
        rfl
      · rw [(hin ha hb).2 h]
        rfl
  · have hres : r = (let lo := cvtElt ty src v sat (p % 65536)
        let hi := cvtElt ty src v sat (p / 65536 % 65536)
        (lo.1 + 65536 * hi.1, lo.2 ||| hi.2)) := by
      simp only [r, cvtVal, (packed_iff src).2 hs, (packed_iff ty).2 ht, Bool.and_self, if_true]
    rw [hres, ← cvtVal_half, ← cvtVal_half]
    rfl
  · have hpt : packed ty = false := packed_of_half ht
    have hres : r = cvtElt ty src v sat (p % 65536) := by
      simp only [r, cvtVal, (packed_iff src).2 hs, hpt, Bool.and_false, Bool.false_eq_true, if_false, if_true]
    have hht : halfOf ty = ty := ht
    rw [hres, ← cvtVal_half, hht]
    rfl
  · have hps : packed src = false := packed_of_half hs
    have hres : r = ((cvtElt ty src v sat p).1 + 65536 * (cvtElt ty src v sat p).1, (cvtElt ty src v sat p).2) := by
      simp only [r, cvtVal, (packed_iff ty).2 ht, hps, Bool.false_and, Bool.false_eq_true, if_false, if_true]
    have hhs : halfOf src = src := hs
    rw [hres, ← cvtVal_half, hhs]
    rfl

/-! ## Classes (R181) -/

theorem classesAreRight : Claims.ClassesAreRight := by
  intro f p hf x c
  obtain ⟨hi, -⟩ := mb_lt_of_arithmetic hf
  have hc : ∀ y, f.read false p = y → c = match y with
      | .nan b => if b then 2 ^ 8 else 2 ^ 9
      | .inf n => if n then 2 ^ 0 else 2 ^ 7
      | .zero n => if n then 2 ^ 3 else 2 ^ 4
      | .fin n _ _ => if f.magOf p < 2 ^ f.mb then (if n then 2 ^ 2 else 2 ^ 5) else (if n then 2 ^ 1 else 2 ^ 6) := by
    intro y hy
    subst hy
    rfl
  refine ⟨fun b h => ?_, fun n h => ?_, fun n h => ?_, fun h => ?_⟩
  · rw [hc _ h]
    cases b <;> rfl
  · rw [hc _ h]
    cases n <;> rfl
  · rw [hc _ h]
    cases n <;> rfl
  · obtain ⟨n, m, e, hx⟩ := (valueOf_ne_zero_iff (read_pos f false p)).1 h
    have hnan : (f.read false p).isNan = false := by rw [hx]; rfl
    rcases read_cases f hi false p hnan with ⟨hr, -⟩ | hr | ⟨m', e', hr, -, habs⟩
    · exact Fv.noConfusion (hx.symm.trans hr)
    · exact Fv.noConfusion (hx.symm.trans hr)
    · have hneg : x.neg = f.signOf p := congrArg Fv.neg hr
      have hlt : |valueOf x| < magnitude f (2 ^ f.mb) ↔ f.magOf p < 2 ^ f.mb := by
        rw [habs]
        exact (magnitude_strictMono f).lt_iff_lt
      rw [hc _ hr, hneg]
      dsimp only
      by_cases h : f.magOf p < 2 ^ f.mb
      · rw [if_pos h, if_pos (hlt.2 h)]
        cases f.signOf p <;> rfl
      · rw [if_neg h, if_neg fun hx => h (hlt.1 hx)]
        cases f.signOf p <;> rfl

end Machine

namespace Machine

/-! ## L6 (R185 to R187) -/

section
variable (sat : Bool) (p q : Nat)

theorem l6Mul_nan (h : 64 ≤ p % 256 ∨ 64 ≤ q % 256) : l6Mul sat p q = (0x20, 1) := by
  unfold l6Mul
  exact if_pos h

theorem l6Mul_special (ha : p % 256 < 64) (hb : q % 256 < 64) (h : p % 256 = 0x20 ∨ q % 256 = 0x20) :
    l6Mul sat p q = (0x20, 0) := by
  unfold l6Mul
  dsimp only
  rw [if_neg (show ¬ (64 ≤ p % 256 ∨ 64 ≤ q % 256) by omega), if_pos h]

theorem l6Mul_zero (ha : p % 256 < 64) (hb : q % 256 < 64) (hap : p % 256 ≠ 0x20) (hbq : q % 256 ≠ 0x20)
    (h : p % 256 = 0 ∨ q % 256 = 0) : l6Mul sat p q = (0, 0) := by
  unfold l6Mul
  dsimp only
  rw [if_neg (show ¬ (64 ≤ p % 256 ∨ 64 ≤ q % 256) by omega),
    if_neg (show ¬ (p % 256 = 0x20 ∨ q % 256 = 0x20) by omega), if_pos h]

/-- The product of two codes of magnitude. -/
theorem l6Mul_codes (ha : p % 256 < 64) (hb : q % 256 < 64) (hap : p % 256 % 32 ≠ 0) (hbq : q % 256 % 32 ≠ 0) :
    let m : Int := (p % 256 % 32 : Nat) + (q % 256 % 32 : Nat) - 16
    let s := (p % 256 / 32 + q % 256 / 32) % 2
    (31 < m → l6Mul sat p q = (if sat then 32 * s + 31 else 0x20, 20)) ∧ (m < 1 → l6Mul sat p q = (0, 24)) ∧
      (1 ≤ m → m ≤ 31 → l6Mul sat p q = (32 * s + m.toNat, 0)) := by
  intro m s
  have hres : l6Mul sat p q = if 31 < m then (if sat then s * 32 + 31 else 0x20, 20) else if m < 1 then (0, 24)
      else (s * 32 + m.toNat, 0) := by
    unfold l6Mul
    dsimp only
    rw [if_neg (show ¬ (64 ≤ p % 256 ∨ 64 ≤ q % 256) by omega),
      if_neg (show ¬ (p % 256 = 0x20 ∨ q % 256 = 0x20) by omega), if_neg (show ¬ (p % 256 = 0 ∨ q % 256 = 0) by omega)]
    rfl
  rw [hres, Nat.mul_comm s 32]
  refine ⟨fun h => if_pos h, fun h => ?_, fun h1 h2 => ?_⟩
  · rw [if_neg (show ¬ 31 < m by omega), if_pos h]
  · rw [if_neg (show ¬ 31 < m by omega), if_neg (show ¬ m < 1 by omega)]

end

/-! ### From L6 -/

/-- The fourth root of n, cut off. -/
theorem isqrt_isqrt (n : Nat) : isqrt (isqrt n) ^ 4 ≤ n ∧ n < (isqrt (isqrt n) + 1) ^ 4 := by
  obtain ⟨h1, h2⟩ := isqrt_spec n
  obtain ⟨h3, h4⟩ := isqrt_spec (isqrt n)
  have hp : ∀ a : Nat, a ^ 4 = a * a * (a * a) := fun a => by ring
  rw [hp, hp]
  exact ⟨(Nat.mul_le_mul h3 h3).trans h1, h2.trans_le (Nat.mul_le_mul h4 h4)⟩

theorem two_pow_not_fourth {k j : Nat} (h : j ^ 4 = 2 ^ k) : k % 4 = 0 := by
  obtain ⟨i, -, rfl⟩ := (Nat.dvd_prime_pow Nat.prime_two).1 (Dvd.intro (j ^ 3) (by rw [← h]; ring))
  rw [← pow_mul] at h
  have := Nat.pow_right_injective (le_refl 2) h
  omega

/-- 2^(k/4) in units of 2^-60 lies above root4 k and below the next integer, where k is no multiple of 4. -/
theorem root4_between {k : Nat} (hk : k % 4 ≠ 0) (e : ℤ) :
    Between ((2 : ℝ) ^ ((k : ℝ) / 4 + 60) * 2 ^ e) (root4 k) e true ∧ 2 ^ 60 ≤ root4 k := by
  have hpos : (0 : ℝ) < 2 ^ e := by positivity
  obtain ⟨hlow, hhigh⟩ := isqrt_isqrt (2 ^ (k + 240))
  have hy : ((2 : ℝ) ^ ((k : ℝ) / 4 + 60)) ^ 4 = 2 ^ (k + 240) := by
    rw [← Real.rpow_natCast, ← Real.rpow_mul (by norm_num), ← Real.rpow_natCast]
    congr 1
    push_cast
    ring
  have hy0 : (0 : ℝ) ≤ (2 : ℝ) ^ ((k : ℝ) / 4 + 60) := by positivity
  change root4 k ^ 4 ≤ _ at hlow
  change _ < (root4 k + 1) ^ 4 at hhigh
  have hlow' : (root4 k : ℝ) ≤ (2 : ℝ) ^ ((k : ℝ) / 4 + 60) := by
    refine le_of_pow_le_pow_left₀ (by decide : 4 ≠ 0) hy0 ?_
    rw [hy]
    exact_mod_cast hlow
  have hhigh' : (2 : ℝ) ^ ((k : ℝ) / 4 + 60) < root4 k + 1 := by
    refine lt_of_pow_lt_pow_left₀ 4 (add_nonneg (Nat.cast_nonneg _) zero_le_one) ?_
    rw [hy]
    exact_mod_cast hhigh
  have hne : (2 : ℝ) ^ ((k : ℝ) / 4 + 60) ≠ root4 k := fun h => by
    rw [h] at hy
    obtain ⟨K, hK⟩ : ∃ K, K = k + 240 := ⟨_, rfl⟩
    rw [← hK] at hy
    have := two_pow_not_fourth (Nat.cast_injective (R := ℝ) (by push_cast; exact hy))
    omega
  refine ⟨⟨mul_le_mul_of_nonneg_right hlow' hpos.le, mul_lt_mul_of_pos_right hhigh' hpos, ?_⟩, ?_⟩
  · rw [ne_eq, mul_left_inj' hpos.ne']
    simpa using hne
  · refine isqrt_ge (isqrt_ge ?_)
    calc 2 ^ 60 * 2 ^ 60 * (2 ^ 60 * 2 ^ 60) = 2 ^ 240 := by norm_num
      _ ≤ 2 ^ (k + 240) := Nat.pow_le_pow_right (by decide) (by omega)

theorem l6To_code (ty : Ty) (v : Fenv) (p : Nat) (ha : p % 256 < 64) (hap : p % 256 % 32 ≠ 0) :
    let t : Int := (p % 256 % 32 : Nat) - 16
    l6To ty v p = if (t % 4).toNat = 0 then (fmtOf ty).fin v (p % 256 / 32 == 1) 1 (t / 4) false
      else (fmtOf ty).fin v (p % 256 / 32 == 1) (root4 (t % 4).toNat) (t / 4 - 60) true := by
  intro t
  unfold l6To
  dsimp only
  rw [if_neg (show ¬ 64 ≤ p % 256 by omega), if_neg (show ¬ p % 256 = 0x20 by omega), if_neg (show ¬ p % 256 = 0 by
      omega)]

/-- R186: a code of magnitude gives the exact power of two, rounded once. -/
theorem l6To_gives {ty : Ty} (hmb : 0 < (fmtOf ty).mb) (hbig : (fmtOf ty).mb < 24) (v : Fenv) (p : Nat) (ha : p % 256 < 64)
    (hap : p % 256 % 32 ≠ 0) : Delivered (fmtOf ty) v.ftzo v.rm
      ((if p % 256 / 32 = 1 then -1 else 1) * (2 : ℝ) ^ ((((p % 256 % 32 : Nat) : ℝ) - 16) / 4)) (overflowed (fmtOf
          ty) v.rm)
      (l6To ty v p) := by
  have hsign : ∀ y : ℝ, 0 < y → ((p % 256 / 32 == 1) = true ↔ (if p % 256 / 32 = 1 then (-1 : ℝ) else 1) * y < 0) ∧
      (if p % 256 / 32 = 1 then (-1 : ℝ) else 1) * y ≠ 0 ∧ |(if p % 256 / 32 = 1 then (-1 : ℝ) else 1) * y| = y := fun
          y hy => by
    rw [beq_iff_eq]
    split
    next h =>
      rw [neg_one_mul, abs_neg, abs_of_pos hy]
      exact ⟨iff_of_true h (by linarith), neg_ne_zero.2 hy.ne', rfl⟩
    next h =>
      rw [one_mul, abs_of_pos hy]
      exact ⟨iff_of_false h (not_lt.2 hy.le), hy.ne', rfl⟩
  have hpow : (0 : ℝ) < (2 : ℝ) ^ ((((p % 256 % 32 : Nat) : ℝ) - 16) / 4) := by positivity
  obtain ⟨hneg, hne, habs⟩ := hsign _ hpow
  rw [l6To_code ty v p ha hap]
  have ht : ((((p % 256 % 32 : Nat) : ℝ) - 16) / 4) = ((((p % 256 % 32 : Nat) : ℤ) - 16 : ℤ) : ℝ) / 4 := by push_cast; rfl
  rw [ht] at hneg hne habs ⊢
  generalize (((p % 256 % 32 : Nat) : ℤ) - 16 : ℤ) = t at *
  obtain ⟨k, hk⟩ : ∃ k : Nat, t % 4 = k := ⟨(t % 4).toNat, by omega⟩
  have hsum : (t : ℝ) / 4 = (k : ℝ) / 4 + (t / 4 : ℤ) := by
    have h : t = k + 4 * (t / 4) := by omega
    have h' : (t : ℝ) = k + 4 * ((t / 4 : ℤ) : ℝ) := by exact_mod_cast h
    linarith
  rw [hk, Int.toNat_natCast]
  by_cases h0 : k = 0
  · rw [if_pos h0]
    refine fin_delivered _ hmb v Nat.one_pos hne hneg ?_ fun h => absurd h Bool.false_ne_true
    rw [habs, hsum, h0, Nat.cast_zero, zero_div, zero_add, Real.rpow_intCast]
    have := Between.exact 1 (t / 4)
    rwa [Nat.cast_one, one_mul] at this
  · rw [if_neg h0]
    obtain ⟨hbetween, hge⟩ := root4_between (k := k) (by omega) (t / 4 - 60)
    refine fin_delivered _ hmb v (lt_of_lt_of_le (Nat.two_pow_pos 60) hge) hne hneg ?_ fun _ => lt_unitOf _ hge (by
        omega)
    rw [habs, hsum]
    have hX : (2 : ℝ) ^ ((k : ℝ) / 4 + (t / 4 : ℤ)) = 2 ^ ((k : ℝ) / 4 + 60) * 2 ^ (t / 4 - 60) := by
      rw [← Real.rpow_intCast, ← Real.rpow_add (by norm_num)]
      congr 1
      push_cast
      ring
    rw [hX]
    exact hbetween

/-! ### To L6 -/

/-- The position of m⁴ among the powers of two. -/
theorem logb_fourth {m : Nat} (hm : 0 < m) (e : ℤ) :
    16 + 4 * Real.logb 2 ((m : ℝ) * 2 ^ e) = (16 + 4 * e : ℤ) + Real.logb 2 ((m ^ 4 : Nat) : ℝ) := by
  have hm' : (m : ℝ) ≠ 0 := by exact_mod_cast hm.ne'
  have he : Real.logb 2 ((2 : ℝ) ^ e) = e := by
    rw [← Real.rpow_intCast, Real.logb_rpow (by norm_num) (by norm_num)]
  rw [Real.logb_mul hm' (zpow_ne_zero e (by norm_num)), he, Nat.cast_pow, Real.logb_pow]
  push_cast
  ring

theorem logb_between {n : Nat} (hn : 0 < n) :
    ((n.log2 : ℕ) : ℝ) ≤ Real.logb 2 (n : ℝ) ∧ Real.logb 2 (n : ℝ) < n.log2 + 1 ∧
      (n = 2 ^ n.log2 ↔ Real.logb 2 (n : ℝ) = n.log2) ∧
      (2 ^ (2 * n.log2 + 1) ≤ n ^ 2 ↔ (n.log2 : ℝ) + 1 / 2 ≤ Real.logb 2 (n : ℝ)) := by
  have hn' : (0 : ℝ) < n := by exact_mod_cast hn
  have hlow := Nat.log2_self_le hn.ne'
  have hhigh : n < 2 ^ (n.log2 + 1) := Nat.lt_log2_self
  refine ⟨?_, ?_, ?_, ?_⟩
  · rw [Real.le_logb_iff_rpow_le (by norm_num) hn', Real.rpow_natCast]
    exact_mod_cast hlow
  · rw [Real.logb_lt_iff_lt_rpow (by norm_num) hn', ← Nat.cast_succ, Real.rpow_natCast]
    exact_mod_cast hhigh
  · rw [Real.logb_eq_iff_rpow_eq (by norm_num) (by norm_num) hn', Real.rpow_natCast, eq_comm]
    exact_mod_cast Iff.rfl
  · have h2 : (n.log2 : ℝ) + 1 / 2 ≤ Real.logb 2 (n : ℝ) ↔ ((2 * n.log2 + 1 : Nat) : ℝ) ≤ Real.logb 2 ((n : ℝ) ^ 2) :=
      by
      rw [Real.logb_pow]
      push_cast
      constructor <;> intro h <;> linarith
    rw [h2, Real.le_logb_iff_rpow_le (by norm_num) (by positivity), Real.rpow_natCast]
    exact_mod_cast Iff.rfl

/-- The magnitude code that a position among the fourths of powers of two rounds to (R187). -/
def logCode (rm : Rm) (neg : Bool) (t : ℝ) (M : ℤ) : Prop :=
  (t = ⌊t⌋ → M = ⌊t⌋) ∧ (t ≠ ⌊t⌋ → match rm with
    | .rz => M = ⌊t⌋
    | .ru => M = if neg then ⌊t⌋ else ⌈t⌉
    | .rd => M = if neg then ⌈t⌉ else ⌊t⌋
    | _ => M = round t)

/-- How far a position is rounded up. -/
def logUp (rm : Rm) (neg exact : Bool) (near : Prop) [Decidable near] : Nat :=
  if exact then 0
  else match rm with
    | .rz => 0
    | .ru => if neg then 0 else 1
    | .rd => if neg then 1 else 0
    | _ => if near then 1 else 0

theorem logCode_logUp (rm : Rm) (neg : Bool) {t : ℝ} {c : ℤ} {exact : Bool} {near : Prop} [Decidable near]
    (hlow : (c : ℝ) ≤ t) (hhigh : t < c + 1) (hexact : exact = true ↔ t = c) (hnear : near ↔ (c : ℝ) + 1 / 2 ≤ t) :
    logCode rm neg t (c + logUp rm neg exact near) ∧ (exact = true ↔ t = ⌊t⌋) := by
  have hfloor : ⌊t⌋ = c := Int.floor_eq_iff.2 ⟨hlow, hhigh⟩
  have hround : round t = c + ((if near then 1 else 0 : Nat) : ℤ) := by
    rw [round_eq]
    split
    next h => exact Int.floor_eq_iff.2 ⟨by push_cast; linarith [hnear.1 h], by push_cast; linarith⟩
    next h =>
      have : ¬ (c : ℝ) + 1 / 2 ≤ t := fun h' => h (hnear.2 h')
      exact Int.floor_eq_iff.2 ⟨by push_cast; linarith, by push_cast; linarith⟩
  unfold logCode
  rw [hfloor]
  refine ⟨⟨fun h => ?_, fun h => ?_⟩, hexact⟩
  · rw [hexact.2 h]
    exact Int.add_zero c
  · have hceil : ⌈t⌉ = c + 1 := Int.ceil_eq_iff.2 ⟨by push_cast; linarith [lt_of_le_of_ne hlow (Ne.symm h)], by push_cast; linarith⟩
    have hf : exact = false := Bool.eq_false_of_not_eq_true fun hc => h (hexact.1 hc)
    rw [hf, hceil, hround]
    cases rm <;> cases neg <;> simp [logUp]

/-- A finite value to L6: the code rounded to, within its range. -/
theorem toL6_fin (v : Fenv) (sat n : Bool) (m : Nat) (e : ℤ) :
    let lo := (m ^ 4).log2
    let exact := decide (m ^ 4 = 2 ^ lo)
    let M : Int := 16 + 4 * e + lo + logUp v.rm n exact (2 ^ (2 * lo + 1) ≤ m ^ 8)
    toL6 v sat (.fin n m e) = if 31 < M then (if sat then (if n then 63 else 31) else 0x20, 20) else if M < 1 then (0,
        24)
      else ((if n then 32 else 0) + M.toNat, if exact then 0 else 16) := rfl

/-- What a conversion to L6 gives of a finite nonzero value (R187). -/
structure ToL6 (v : Fenv) (sat : Bool) (n : Bool) (X : ℝ) (r : Fres) (M : ℤ) : Prop where
  code : logCode v.rm n (16 + 4 * Real.logb 2 |X|) M
  large : 31 < M → r = (if sat then (if n then 32 else 0) + 31 else 0x20, 20)
  small : M < 1 → r = (0, 24)
  inRange : 1 ≤ M → M ≤ 31 →
    (16 + 4 * Real.logb 2 |X| = ⌊16 + 4 * Real.logb 2 |X|⌋ → r = ((if n then 32 else 0) + M.toNat, 0)) ∧
    (16 + 4 * Real.logb 2 |X| ≠ ⌊16 + 4 * Real.logb 2 |X|⌋ → r = ((if n then 32 else 0) + M.toNat, 16))

theorem toL6_toL6 (v : Fenv) (sat n : Bool) {m : Nat} (e : ℤ) (hm : 0 < m) :
    ∃ M, ToL6 v sat n (valueOf (.fin n m e)) (toL6 v sat (.fin n m e)) M := by
  obtain ⟨hlow, hhigh, hexact, hnear⟩ := logb_between (Nat.pow_pos hm : 0 < m ^ 4)
  have h8 : m ^ 8 = (m ^ 4) ^ 2 := by rw [← pow_mul]
  rw [toL6_fin, h8]
  have ht : 16 + 4 * Real.logb 2 |(valueOf (.fin n m e) : ℝ)| = (16 + 4 * e : ℤ) + Real.logb 2 ((m ^ 4 : Nat) : ℝ) := by
    rw [abs_valueOf_real, logb_fourth hm]
  generalize (m ^ 4).log2 = lo at *
  generalize Real.logb 2 ((m ^ 4 : Nat) : ℝ) = L at *
  obtain ⟨hcode, hfloor⟩ := logCode_logUp v.rm n (t := (16 + 4 * e : ℤ) + L) (c := 16 + 4 * e + lo)
    (exact := decide (m ^ 4 = 2 ^ lo)) (near := 2 ^ (2 * lo + 1) ≤ (m ^ 4) ^ 2)
    (by push_cast; linarith) (by push_cast; linarith)
    (by rw [decide_eq_true_eq, hexact]; push_cast; constructor <;> intro h <;> linarith)
    (by rw [hnear]; push_cast; constructor <;> intro h <;> linarith)
  rw [← ht] at hcode hfloor
  refine ⟨_, hcode, fun h => ?_, fun h => ?_, fun h1 h2 => ⟨fun h => ?_, fun h => ?_⟩⟩
  · rw [if_pos h]
    cases n <;> rfl
  · rw [if_neg (by omega), if_pos h]
  · rw [if_neg (by omega), if_neg (by omega), if_pos (hfloor.2 h)]
  · rw [if_neg (by omega), if_neg (by omega), if_neg fun hc => h (hfloor.1 hc)]

theorem logValues : Claims.LogValues := by
  intro ty v sat p q hrm hty a b f
  have hf : f = fmtF32 ∨ f = fmtF16 ∨ f = fmtBF16 := by
    rcases hty with rfl | rfl | rfl
    · exact .inl rfl
    · exact .inr (.inl rfl)
    · exact .inr (.inr rfl)
  obtain ⟨hi, hbig⟩ := mb_lt_of_arithmetic hf
  refine ⟨⟨l6Mul_nan sat p q, fun ha hb => ⟨l6Mul_special sat p q ha hb, l6Mul_zero sat p q ha hb, l6Mul_codes sat p q
      ha hb⟩⟩,
    ⟨fun h => ?_, fun h => ?_, fun h => ?_, l6To_gives hi.mb_pos hbig v p⟩, ?_⟩
  · exact if_pos h
  · unfold l6To
    dsimp only
    rw [if_neg (show ¬ 64 ≤ p % 256 by omega), if_pos h]
    rfl
  · unfold l6To
    dsimp only
    rw [if_neg (show ¬ 64 ≤ p % 256 by omega), if_neg (show ¬ p % 256 = 0x20 by omega), if_pos h]
    rfl
  · intro x r X t code
    refine ⟨fun h => ?_, fun n h => ?_, fun n h => ?_, fun h => ?_⟩
    · obtain ⟨b, hb⟩ := isNan_iff.1 h
      simp only [r, hb]
      rfl
    · simp only [r, h]
      rfl
    · simp only [r, h]
      cases sat <;> cases n <;> rfl
    · obtain ⟨n, m, e, hx⟩ := (valueOf_ne_zero_iff (read_pos _ _ p)).1 (valueOf_real_ne_zero.1 h)
      have hpos : (Fv.fin n m e).Pos := hx ▸ read_pos f v.daz p
      obtain ⟨M, ⟨h1, h2⟩, h3, h4, h5⟩ := toL6_toL6 v sat n e hpos
      simp only [r, X, t, code]
      change x = _ at hx
      rw [hx]
      exact ⟨M, h1, h2, h3, h4, h5⟩

/-- Settles O60: a conversion delivers the value that was read, which is exact, rounded once; a class goes by where the magnitude
lies among the patterns; an L6 code is the position of the value among the fourths of powers of two. -/
theorem exactConversions : Obligations.ExactConversions :=
  ⟨conversionsAreExact, classesAreRight, logValues⟩

end Machine

end Sys2Proof
end

section
/-!
PROOFS. ShadowsUnderOneKey: a group that another one under its key stands in for (R317).
-/
namespace Sys2Proof

namespace Machine

open Host Safety

/-! ## Two groups under one key

Nothing in the statement asks that the list of groups have one entry for a key.  A group in handler mode whose word
    traps ends
(R317), and where another entry stands under its key that one is found after the step, with shadows that no hypothesis
    speaks
of. -/

/-- A group in handler mode whose S0 holds an address that is no code address. -/
def lost : Group := { (default : Group) with saved := some (0, (default : Group).ctx), s := vset (default : Group).s 0 1 }

/-- Another one, with a shadow of S0 that does not cover it. -/
def shaded : Group := { lost with ssh := vset lost.ssh 0 (.itv 5 5) }

/-- Both under one key. -/
def lostOn : State := { State.reset with groups := [(0, lost), (0, shaded)] }

theorem lost_issues : Issues lostOn lost := rfl

theorem lost_covered : SCovered lost := by
  refine ⟨fun k hk => ?_, ?_, ?_, ?_⟩
  · have htop : ∀ k < 72, (lost.sAt k).2 = .top := by decide +kernel
    rw [htop k hk]
    trivial
  · intro p hp
    exact absurd hp List.not_mem_nil
  · intro e he
    exact absurd he List.not_mem_nil
  · rintro b (hb | hb)
    · exact absurd hb (Option.some_ne_none b).symm
    · exact absurd hb List.not_mem_nil

theorem not_sCovered_of_sAt {g : Group} (h0 : g.sAt 0 = (1, .itv 5 5)) : ¬ SCovered g := by
  rintro ⟨h, -⟩
  have hcover := h 0 (by decide)
  rw [h0] at hcover
  exact absurd hcover.1 (by decide)

/-- The pending trap, the interrupted context and S0 of the group found under key 0 once a word has issued. -/
def foundAfter (r : Outcome State Fault Refusal) : Option (Option TrapRec × Option (Va × LaneCtx) × W32 × Shadow) :=
  match r with
  | .next t => (t.grp 0).map fun g => (g.trap, g.saved, g.sAt 0)
  | _ => none

theorem lost_jumps : foundAfter (exec (.sjr 0 false) lostOn) = some (none, lost.saved, 1, .itv 5 5) := by decide +kernel

/-- Refutes O58: a jump to no code address ends its group, which is in handler mode, and another group under its key,
    whose
shadows nothing speaks of, is found instead. -/
theorem not_shadowsCover : ¬ Obligations.ShadowsCover := by
  rintro ⟨-, -, -, hcover⟩
  have hfound := lost_jumps
  cases hexec : exec (.sjr 0 false) lostOn with
  | next t =>
    rw [hexec] at hfound
    obtain ⟨g, hg, hparts⟩ := Option.map_eq_some_iff.1 hfound
    obtain ⟨htrap, hsaved, hs0⟩ : g.trap = none ∧ g.saved = lost.saved ∧ g.sAt 0 = (1, .itv 5 5) := by
      simpa only [Prod.mk.injEq] using hparts
    obtain ⟨-, hword, -⟩ := hcover lostOn t lost g (.sjr 0 false) 0 0 0 0 0 0 lost_covered
    exact not_sCovered_of_sAt hs0 (hword rfl lost_issues hexec hg htrap hsaved)
  | _ =>
    rw [hexec] at hfound
    exact absurd hfound (Option.some_ne_none _).symm

end Machine

end Sys2Proof
end

section
/-!
PROOFS. KeptState: what every step keeps, and the operations on groups, memory and accesses that keep it (R37).
-/
namespace Sys2Proof

/-! ## Keyed lists whose keys rise -/

namespace Store

theorem sorted_iff_pairwise {α : Type} (m : List (Nat × α)) : sorted m = true ↔ m.Pairwise fun a b => a.1 < b.1 := by
  induction m with
  | nil => simp [sorted]
  | cons e m ih =>
    obtain ⟨j, x⟩ := e
    rw [sorted_cons, List.pairwise_cons, ih]
    rfl

/-- A map of the entries keeps the keys. -/
theorem sorted_map {α β : Type} {m : List (Nat × α)} (h : sorted m = true) (f : Nat × α → Nat × β)
    (hf : ∀ e, (f e).1 = e.1) : sorted (m.map f) = true := by
  rw [sorted_iff_pairwise] at h ⊢
  exact List.pairwise_map.2 (h.imp fun {a b} hab => by rw [hf a, hf b]; exact hab)

theorem sorted_filter {α : Type} {m : List (Nat × α)} (h : sorted m = true) (f : Nat × α → Bool) :
    sorted (m.filter f) = true := by
  rw [sorted_iff_pairwise] at h ⊢
  exact h.filter f

theorem mem_adjust {α : Type} {m : List (Nat × α)} {k : Nat} {f : α → α} {e : Nat × α} (h : e ∈ adjust m k f) :
    e ∈ m ∨ ∃ x, (k, x) ∈ m ∧ e = (k, f x) := by
  unfold adjust at h
  split at h
  · next x hx =>
    rcases mem_put h with rfl | h
    · exact .inr ⟨x, mem_of_find hx, rfl⟩
    · exact .inl h
  · exact .inl h

end Store

namespace Machine

open Safety

/-! ## What every step keeps -/

/-- EXM lies within the live mask. -/
def LiveIf (q : Prop) (g : Group) : Prop := q → g.ctx.exm &&& ~~~g.live = 0

/-- The forms that every step keeps, field by field: under p those of the invariant, under q the groups' masks. -/
structure KeptOf (p q : Prop) (mem₀ : Memory) (chk₀ ely₀ : List (Nat × BitVec 16)) (ecc₀ : List (Nat × BitVec 48))
    (rf₀ : List (Nat × W32)) (spad₀ : List (Nat × Byte)) (acc₀ : List (Nat × W32)) (cores₀ : List (Nat × Core))
    (counts₀ : List (Nat × W64)) (bias₀ : List (Nat × Bool)) (groups₀ : List (Nat × Group)) (teams₀ : List (Nat × Team))
    (slices₀ : List (Nat × SliceLine)) (lam₀ : Nat) : Prop where
  mem : p → Memory.wf mem₀
  chk : p → Store.wf 0 chk₀ = true
  ely : p → Store.wf 0 ely₀ = true
  ecc : p → Store.wf 0 ecc₀ = true
  rf : p → Store.wf 0 rf₀ = true
  spad : p → Store.wf 0 spad₀ = true
  acc : p → Store.wf 0 acc₀ = true
  cores : p → Store.wf Core.init cores₀ = true
  counts : p → Store.wf 0 counts₀ = true
  bias : p → Store.wf false bias₀ = true
  groups : p → Store.sorted groups₀ = true
  live : ∀ e ∈ groups₀, LiveIf q e.2
  teams : p → Store.sorted teams₀ = true
  slices : p → Store.sorted slices₀ = true
  lam : p → 1 ≤ lam₀ ∧ lam₀ ≤ 4095

/-- What every step keeps of a state: under p the invariant, under q that EXM lies within the live masks. -/
def Kept (p q : Prop) (s : State) : Prop :=
  KeptOf p q s.mem s.chk s.ely s.ecc s.rf s.spad s.acc s.cores s.counts s.hostBias s.groups s.teams s.slices s.lam

theorem kept_of_inv {s : State} (h : Inv s) : Kept True False s :=
  { mem := fun _ => h.mem, chk := fun _ => h.chk, ely := fun _ => h.ely, ecc := fun _ => h.ecc, rf := fun _ => h.rf,
    spad := fun _ => h.spad, acc := fun _ => h.acc, cores := fun _ => h.cores, counts := fun _ => h.counts,
    bias := fun _ => h.bias, groups := fun _ => h.groups, live := fun _ _ hq => hq.elim, teams := fun _ => h.teams,
    slices := fun _ => h.slices, lam := fun _ => h.lam }

theorem inv_of_kept {q : Prop} {s : State} (h : Kept True q s) : Inv s :=
  { mem := h.mem trivial, chk := h.chk trivial, ely := h.ely trivial, ecc := h.ecc trivial, rf := h.rf trivial,
    spad := h.spad trivial, acc := h.acc trivial, cores := h.cores trivial, counts := h.counts trivial,
    bias := h.bias trivial, groups := h.groups trivial, teams := h.teams trivial, slices := h.slices trivial,
    lam := h.lam trivial }

theorem live_of_kept {p : Prop} {s : State} (h : Kept p True s) : ∀ e ∈ s.groups, e.2.ctx.exm &&& ~~~e.2.live = 0 :=
  fun e he => h.live e he trivial

theorem kept_of_live {s : State} (h : ∀ e ∈ s.groups, e.2.ctx.exm &&& ~~~e.2.live = 0) : Kept False True s :=
  { mem := False.elim, chk := False.elim, ely := False.elim, ecc := False.elim, rf := False.elim, spad := False.elim,
    acc := False.elim, cores := False.elim, counts := False.elim, bias := False.elim, groups := False.elim,
    live := fun e he _ => h e he, teams := False.elim, slices := False.elim, lam := False.elim }

section
variable {p q : Prop} {s : State}

namespace Kept

theorem setMem (h : Kept p q s) {m : Memory} (hm : p → Memory.wf m) : Kept p q { s with mem := m } := { h with mem := hm }
theorem setChk (h : Kept p q s) {m : List (Nat × BitVec 16)} (hm : p → Store.wf 0 m = true) :
    Kept p q { s with chk := m } := { h with chk := hm }
theorem setEly (h : Kept p q s) {m : List (Nat × BitVec 16)} (hm : p → Store.wf 0 m = true) :
    Kept p q { s with ely := m } := { h with ely := hm }
theorem setEcc (h : Kept p q s) {m : List (Nat × BitVec 48)} (hm : p → Store.wf 0 m = true) :
    Kept p q { s with ecc := m } := { h with ecc := hm }
theorem setRf (h : Kept p q s) {m : List (Nat × W32)} (hm : p → Store.wf 0 m = true) :
    Kept p q { s with rf := m } := { h with rf := hm }
theorem setSpad (h : Kept p q s) {m : List (Nat × Byte)} (hm : p → Store.wf 0 m = true) :
    Kept p q { s with spad := m } := { h with spad := hm }
theorem setAcc (h : Kept p q s) {m : List (Nat × W32)} (hm : p → Store.wf 0 m = true) :
    Kept p q { s with acc := m } := { h with acc := hm }
theorem setCores (h : Kept p q s) {m : List (Nat × Core)} (hm : p → Store.wf Core.init m = true) :
    Kept p q { s with cores := m } := { h with cores := hm }
theorem setCounts (h : Kept p q s) {m : List (Nat × W64)} (hm : p → Store.wf 0 m = true) :
    Kept p q { s with counts := m } := { h with counts := hm }
theorem setBias (h : Kept p q s) {m : List (Nat × Bool)} (hm : p → Store.wf false m = true) :
    Kept p q { s with hostBias := m } := { h with bias := hm }
theorem setGroups (h : Kept p q s) {m : List (Nat × Group)} (hm : p → Store.sorted m = true)
    (hl : ∀ e ∈ m, LiveIf q e.2) : Kept p q { s with groups := m } := { h with groups := hm, live := hl }
theorem setTeams (h : Kept p q s) {m : List (Nat × Team)} (hm : p → Store.sorted m = true) :
    Kept p q { s with teams := m } := { h with teams := hm }
theorem setSlices (h : Kept p q s) {m : List (Nat × SliceLine)} (hm : p → Store.sorted m = true) :
    Kept p q { s with slices := m } := { h with slices := hm }
theorem setLam (h : Kept p q s) {n : Nat} (hn : p → 1 ≤ n ∧ n ≤ 4095) : Kept p q { s with lam := n } :=
  { h with lam := hn }

/-- A run of steps that each keep it keeps it. -/
theorem foldl {α : Type} {f : State → α → State} (h : Kept p q s) (xs : List α)
    (hf : ∀ s x, Kept p q s → Kept p q (f s x)) : Kept p q (xs.foldl f s) := by
  induction xs generalizing s with
  | nil => exact h
  | cons x xs ih => exact ih (hf s x h)

/-! ## Groups and teams -/

theorem liveIf (h : Kept p q s) {k : Nat} {g : Group} (hg : s.grp k = some g) : LiveIf q g :=
  h.live _ (Store.mem_of_find hg)

theorem setGrp (h : Kept p q s) {g : Group} (hg : LiveIf q g) (k : Nat) : Kept p q (s.setGrp k g) :=
  h.setGroups (fun hp => Store.sorted_put (h.groups hp) k g) fun e he => by
    rcases Store.mem_put he with rfl | he
    · exact hg
    · exact h.live e he

theorem delGrp (h : Kept p q s) (k : Nat) : Kept p q { s with groups := Store.del s.groups k } :=
  h.setGroups (fun hp => Store.sorted_del (h.groups hp) k) fun e he => h.live e (Store.mem_del he)

theorem updGrp (h : Kept p q s) {f : Group → Group} (hf : ∀ g, LiveIf q g → LiveIf q (f g)) (k : Nat) :
    Kept p q (s.updGrp k f) :=
  h.setGroups (fun hp => Store.sorted_adjust (h.groups hp) k f) fun e he => by
    rcases Store.mem_adjust he with he | ⟨x, hx, rfl⟩
    · exact h.live e he
    · exact hf x (h.live _ hx)

/-- Every group changes, each under its key. -/
theorem mapGrp (h : Kept p q s) {f : Nat × Group → Nat × Group} (hk : ∀ e, (f e).1 = e.1)
    (hf : ∀ e, LiveIf q e.2 → LiveIf q (f e).2) : Kept p q { s with groups := s.groups.map f } :=
  h.setGroups (fun hp => Store.sorted_map (h.groups hp) f hk) fun e he => by
    obtain ⟨x, hx, rfl⟩ := List.mem_map.1 he
    exact hf x (h.live x hx)

theorem updTeam (h : Kept p q s) (k : Nat) (f : Team → Team) : Kept p q (s.updTeam k f) :=
  h.setTeams fun hp => Store.sorted_adjust (h.teams hp) k f

theorem putTeam (h : Kept p q s) (k : Nat) (t : Team) : Kept p q { s with teams := Store.put s.teams k t } :=
  h.setTeams fun hp => Store.sorted_put (h.teams hp) k t

theorem delTeam (h : Kept p q s) (k : Nat) : Kept p q { s with teams := Store.del s.teams k } :=
  h.setTeams fun hp => Store.sorted_del (h.teams hp) k

theorem setCore (h : Kept p q s) (k : Nat) (c : Core) : Kept p q (s.setCore k c) :=
  h.setCores fun hp => Store.wf_putD (h.cores hp) k c

theorem putSlice (h : Kept p q s) (k : Nat) (d : SliceLine) : Kept p q { s with slices := Store.put s.slices k d } :=
  h.setSlices fun hp => Store.sorted_put (h.slices hp) k d

theorem delSlice (h : Kept p q s) (k : Nat) : Kept p q { s with slices := Store.del s.slices k } :=
  h.setSlices fun hp => Store.sorted_del (h.slices hp) k

/-! ## Registers and storage (Ops) -/

theorem issueSK (h : Kept p q s) {g : Group} (hg : LiveIf q g) (gid : Nat) (kind : PKind)
    (ws : List (Nat × W32 × Shadow)) (pc : Va) (sw : Bool) : Kept p q (Machine.issueSK s gid g kind ws pc sw) := by
  obtain ⟨-, e⟩ | ⟨-, x, -, -, -, e⟩ := issueSK_cases s gid g kind ws pc sw
  · rw [e]; exact h
  · rw [e]
    refine setGrp (s := { s with nextId := s.nextId + 1 }) h ?_ gid
    exact hg

theorem issueS (h : Kept p q s) {g : Group} (hg : LiveIf q g) (gid : Nat)
    (ws : List (Nat × W32 × Shadow)) (pc : Va) (sw : Bool) : Kept p q (Machine.issueS s gid g ws pc sw) :=
  h.issueSK hg gid .plain ws pc sw

theorem vPut (h : Kept p q s) (gid : Nat) (g : Group) (n : Nat) (lanes : Mask) (vals : List W32) :
    Kept p q (Machine.vPut s gid g n lanes vals) := h.setRf fun hp => vPut_rf_wf (h.rf hp) gid g n lanes vals

theorem undefRf (h : Kept p q s) (key count : Nat) : Kept p q (Machine.undefRf s key count) :=
  h.setRf fun hp => undefRf_wf (h.rf hp) key count

theorem undefRows (h : Kept p q s) (gid : Nat) (g : Group) (n1 n2 : Nat) :
    Kept p q (Machine.undefRows s gid g n1 n2) := by
  unfold Machine.undefRows
  split
  · exact h
  · exact h.undefRf _ _

theorem undefRegs (h : Kept p q s) {g : Group} (hg : LiveIf q g) (gid n1 n2 : Nat) :
    Kept p q (Machine.undefRegs s gid g n1 n2) := by
  refine setGrp (h.undefRf _ _) ?_ gid
  exact hg

theorem receive (h : Kept p q s) {g : Group} (hg : LiveIf q g) (gid n1 n2 : Nat) :
    Kept p q (Machine.receive s gid g n1 n2) := (h.undefRegs hg gid n1 n2).undefRows gid g n1 n2

/-! ## The end of groups and traps (Ops) -/

theorem reap (h : Kept p q s) (k : Nat) : Kept p q (Machine.reap s k) := by
  unfold Machine.reap
  split
  · exact h
  · split
    · exact h.delTeam k
    · exact h

theorem endGroup (h : Kept p q s) (gid : Nat) : Kept p q (Machine.endGroup s gid) := by
  unfold Machine.endGroup
  split
  · exact h
  · dsimp only
    split
    · exact h.delGrp gid
    · refine reap ?_ _
      exact (h.delGrp gid).updTeam _ _

theorem endTeamOf (h : Kept p q s) (gid : Nat) (g : Group) : Kept p q (Machine.endTeamOf s gid g) := by
  unfold Machine.endTeamOf
  split
  · exact h.endGroup gid
  · exact h.foldl _ fun _ x hs => hs.endGroup x

theorem teamStop (h : Kept p q s) (gid : Nat) (g : Group) (on : Bool) : Kept p q (Machine.teamStop s gid g on) := by
  refine h.mapGrp (fun e => ?_) fun e he => ?_
  · split <;> rfl
  · split
    · split <;> exact he
    · exact he

end Kept

theorem publish_ctx (g : Group) : g.publish.ctx = g.ctx ∧ g.publish.live = g.live := by
  suffices ∀ (ws : List (Nat × W32 × Shadow)) (g : Group),
      (ws.foldl (fun g e => g.sPut e.1 e.2.1 e.2.2) g).ctx = g.ctx ∧
        (ws.foldl (fun g e => g.sPut e.1 e.2.1 e.2.2) g).live = g.live from this g.pub g
  intro ws
  induction ws with
  | nil => exact fun _ => ⟨rfl, rfl⟩
  | cons w ws ih =>
    intro g
    obtain ⟨h1, h2⟩ := ih (g.sPut w.1 w.2.1 w.2.2)
    have hp : (g.sPut w.1 w.2.1 w.2.2).ctx = g.ctx ∧ (g.sPut w.1 w.2.1 w.2.2).live = g.live := by
      unfold Group.sPut
      split <;> exact ⟨rfl, rfl⟩
    exact ⟨h1.trans hp.1, h2.trans hp.2⟩

namespace LiveIf
variable {g : Group}

theorem publish (h : LiveIf q g) : LiveIf q g.publish := fun hq => by
  rw [(publish_ctx g).1, (publish_ctx g).2]
  exact h hq

theorem sPut (h : LiveIf q g) (k : Nat) (v : W32) (sh : Shadow) : LiveIf q (g.sPut k v sh) := by
  unfold Group.sPut
  split <;> exact h

theorem shPut (h : LiveIf q g) (picks : List (Nat × Mask)) (k : Nat) (sh : Shadow) :
    LiveIf q (Machine.shPut picks g k sh) := by
  unfold Machine.shPut
  split
  · exact h
  · exact h.sPut _ _ _

theorem setStr (h : LiveIf q g) (lane : Bool) (x : Stream) : LiveIf q (g.setStr lane x) := by
  unfold Group.setStr
  split <;> exact h

/-- A mask cut down by live lies within it. -/
theorem of_and {g : Group} (m : Mask) (h : g.ctx.exm = m &&& g.live) : LiveIf q g := fun _ => by
  rw [h, BitVec.and_assoc, BitVec.and_not_self]
  exact BitVec.and_zero

end LiveIf

namespace Kept

theorem enterTrap (h : Kept p q s) (gid : Nat) : Kept p q (Machine.enterTrap s gid) := by
  unfold Machine.enterTrap
  split
  · exact h
  · next g hg =>
    split
    · exact h
    · split
      · exact h
      · dsimp only
        have hp : LiveIf q g.publish := (h.liveIf hg).publish
        split
        · refine teamStop (h.setGrp ?_ gid) gid _ true
          exact hp
        · refine h.setGrp ?_ gid
          exact hp

theorem raiseAt (h : Kept p q s) {g : Group} (hg : LiveIf q g) (gid : Nat) (lane : Bool) (pc : Va) (c : Cause)
    (info : W32) (xlde : Bool) : Kept p q (Machine.raiseAt s gid g lane pc c info xlde) := by
  obtain ⟨-, e⟩ | ⟨-, -, e⟩ := raiseAt_cases s gid g lane pc c info xlde
  · rw [e]
    exact endTeamOf (s := postFault s _) h gid g
  · rw [e]
    refine enterTrap (h.setGrp ?_ gid) gid
    exact hg

theorem raiseS (h : Kept p q s) {g : Group} (hg : LiveIf q g) (gid : Nat) (c : Cause) (info : W32) :
    Kept p q (Machine.raiseS s gid g c info) := h.raiseAt hg gid false _ c info false

theorem raiseL (h : Kept p q s) {g : Group} (hg : LiveIf q g) (gid : Nat) (c : Cause) (info : W32) :
    Kept p q (Machine.raiseL s gid g c info) := h.raiseAt hg gid true _ c info false

theorem raise (h : Kept p q s) {g : Group} (hg : LiveIf q g) (gid : Nat) (lane : Bool) (c : Cause) (info : W32) :
    Kept p q (Machine.raise s gid g lane c info) := by
  unfold Machine.raise
  split
  · exact h.raiseL hg gid c info
  · exact h.raiseS hg gid c info

theorem volatile (h : Kept p q s) {g : Group} (hg : LiveIf q g) (gid : Nat) : Kept p q (Machine.volatile s gid g) := by
  unfold Machine.volatile
  split
  · exact h.setGrp hg gid
  · exact h.undefRegs hg gid _ _

theorem trapReturn (h : Kept p q s) (gid : Nat) (g : Group) (skip : Bool) : Kept p q (Machine.trapReturn s gid g skip)
    := by
  unfold Machine.trapReturn
  split
  · exact h
  · exact (h.volatile (LiveIf.of_and _ rfl) gid).teamStop gid _ false

end Kept
end
end Machine

namespace Machine

open Safety

section
variable {p q : Prop} {s : State}

/-! ## Memory and homes (Mem) -/

namespace Kept

theorem countMerge (h : Kept p q s) (pa : Nat) : Kept p q (Machine.countMerge s pa) := h

theorem sealSector (h : Kept p q s) (lo hi k : Nat) : Kept p q (Machine.sealSector s lo hi k) := by
  unfold Machine.sealSector
  split
  · exact h.setChk fun hp => Store.wf_putD (h.chk hp) _ _
  · split
    · exact countMerge (h.setChk fun hp => Store.wf_putD (h.chk hp) _ _) _
    · exact h

theorem freshEcc (h : Kept p q s) (first n : Nat) : Kept p q (Machine.freshEcc s first n) :=
  h.setEcc fun hp => Store.wf_foldl_putD (h.ecc hp) (List.range n) (fun i => first + i) fun _ => 0

theorem writeMemAs (h : Kept p q s) (whole : Bool) (pa : Nat) (bs : List Byte) :
    Kept p q (Machine.writeMemAs s whole pa bs) := by
  unfold Machine.writeMemAs
  split
  · exact h
  · refine foldl (freshEcc ?_ _ _) _ fun _ k hs => hs.sealSector _ _ k
    exact h.setMem fun hp => Store.wf_putsD (h.mem hp) _ _

theorem writeMem (h : Kept p q s) (pa : Nat) (bs : List Byte) : Kept p q (Machine.writeMem s pa bs) :=
  h.writeMemAs true pa bs

theorem spoilLine (h : Kept p q s) (line : Nat) : Kept p q (Machine.spoilLine s line) :=
  h.setChk fun hp => spoilLine_chk_wf (h.chk hp) line

theorem putEly (h : Kept p q s) (line : Nat) (e : BitVec 16) : Kept p q (Machine.setEly s line e) :=
  h.setEly fun hp => setEly_wf (h.ely hp) line e

theorem logLoss (h : Kept p q s) (line kind agent : Nat) (inc : BitVec 2) :
    Kept p q (Machine.logLoss s line kind agent inc) := by
  unfold Machine.logLoss
  dsimp only
  split
  · exact h
  · exact h.writeMem _ _

theorem uncorrectable (h : Kept p q s) (line : Nat) : Kept p q (Machine.uncorrectable s line) := by
  refine logLoss ?_ line 2 0 _
  have hs := (h.spoilLine line).putEly line 0
  exact hs.setEcc fun hp => Store.wf_putD (hs.ecc hp) _ _

theorem mediaHit (h : Kept p q s) (line : Nat) : Kept p q (Machine.mediaHit s line) := by
  unfold Machine.mediaHit
  dsimp only
  split
  · exact h
  · split
    · refine uncorrectable ?_ line
      split <;> exact h
    · split <;> exact h

theorem mediaRead (h : Kept p q s) (line : Nat) : Kept p q (Machine.mediaRead s line) := by
  have hhit := h.mediaHit line
  unfold Machine.mediaRead
  split <;> assumption

theorem channelGone (h : Kept p q s) (line : Nat) : Kept p q (Machine.channelGone s line) := by
  unfold Machine.channelGone
  split
  · refine uncorrectable ?_ line
    exact h
  · exact h

theorem resolve (h : Kept p q s) (line : Nat) : Kept p q (Machine.resolve s line) := by
  unfold Machine.resolve
  split
  · exact h
  · have hs : Kept p q (Machine.channelGone (Machine.mediaRead s line) line) := (h.mediaRead line).channelGone line
    dsimp only
    split
    · split
      · exact hs.putEly line 0
      · exact hs
    · split
      · split
        · refine putEly ?_ line 0
          exact (hs.writeMem _ _).setSlices fun hp => Store.sorted_del (hs.slices hp) line
        · exact hs.putEly line 0
      · exact hs
    · split
      · exact (hs.putEly line 0).logLoss line 1 _ _
      · exact hs
    · exact hs

theorem resolves (h : Kept p q s) (lines : List Nat) : Kept p q (lines.foldl Machine.resolve s) :=
  h.foldl lines fun _ l hs => hs.resolve l

theorem arriveAt (h : Kept p q s) (line id : Nat) : Kept p q (Machine.arriveAt s line id) := by
  unfold Machine.arriveAt
  split <;> exact h

theorem emit (h : Kept p q s) (m : Msg) : Kept p q (s.emit m) := h

theorem snoop (h : Kept p q s) (line agent : Nat) (inv keep : Bool) (m : Msg) :
    Kept p q (Machine.snoop s line agent inv keep m) := by
  unfold Machine.snoop
  split <;> exact h

theorem askRead (h : Kept p q s) (line : Nat) : Kept p q (Machine.askRead s line) := by
  have hs := h.resolve line
  have hsnoop := fun agent inv keep m => hs.snoop line agent inv keep m
  unfold Machine.askRead
  dsimp only
  split
  · exact hs
  · split
    · split
      · exact hs
      · split
        · exact hsnoop ..
        · exact hsnoop ..
        · exact hsnoop ..
        · exact hs
    · exact hsnoop ..
    · exact hsnoop ..
    · exact hs

theorem askWrite (h : Kept p q s) (line : Nat) : Kept p q (Machine.askWrite s line) := by
  have hs := h.resolve line
  have hsnoop := fun agent inv keep m => hs.snoop line agent inv keep m
  unfold Machine.askWrite
  dsimp only
  split
  · exact hs
  · split
    · split
      · exact hs
      · split
        · exact hs.foldl _ fun _ a ht => ht.snoop line a true false _
        · exact hsnoop ..
        · exact hsnoop ..
        · exact hsnoop ..
        · exact hsnoop ..
        · exact hs
    · exact hsnoop ..
    · exact hsnoop ..
    · exact hs

theorem tellDirty (h : Kept p q s) (line : Nat) : Kept p q (Machine.tellDirty s line) := by
  unfold Machine.tellDirty
  split
  · split <;> exact h
  · exact h

theorem homeWriteAs (h : Kept p q s) (whole : Bool) (pa : Nat) (bs : List Byte) :
    Kept p q (Machine.homeWriteAs s whole pa bs) := by
  have hslice : ∀ f, Kept p q { Machine.tellDirty s (pa / 128) with slices := Store.adjust s.slices (pa / 128) f } := fun f =>
    (h.tellDirty _).setSlices fun hp => Store.sorted_adjust (h.slices hp) _ f
  have hmem := h.writeMemAs whole pa bs
  unfold Machine.homeWriteAs
  dsimp only
  split
  · exact hslice _
  · exact hslice _
  · exact hslice _
  · exact hmem.putEly _ 0
  · exact hmem
  · exact h

theorem homeWrite (h : Kept p q s) (pa : Nat) (bs : List Byte) : Kept p q (Machine.homeWrite s pa bs) :=
  h.homeWriteAs true pa bs

theorem fillL1 (h : Kept p q s) (core line : Nat) : Kept p q (Machine.fillL1 s core line) := by
  unfold Machine.fillL1
  dsimp only
  split <;> exact h

theorem askFill (h : Kept p q s) (core line : Nat) : Kept p q (Machine.askFill s core line) := by
  have hs := h.resolve line
  unfold Machine.askFill
  dsimp only
  split
  · exact h
  · split
    · exact hs.fillL1 core line
    · exact (hs.askRead line).arriveAt line _

theorem resolveWalk (h : Kept p q s) (asp va : Nat) : Kept p q (Machine.resolveWalk s asp va) := by
  unfold Machine.resolveWalk
  split
  · exact h
  · exact h.resolves _

theorem keepTr (h : Kept p q s) (die asp va : Nat) : Kept p q (Machine.keepTr s die asp va) := by
  have hs := h.resolveWalk asp va
  unfold Machine.keepTr
  dsimp only
  split
  · exact h
  · split
    · exact hs
    · split <;> exact hs

theorem keepTrs (h : Kept p q s) (die asp : Nat) (vas : List Nat) : Kept p q (Machine.keepTrs s die asp vas) :=
  h.foldl vas fun _ va hs => hs.keepTr die asp va

theorem countLines (h : Kept p q s) (die pa n : Nat) : Kept p q (Machine.countLines s die pa n) := by
  unfold Machine.countLines
  dsimp only
  split
  · exact h
  · exact h.setCounts fun hp => Store.wf_putD (h.counts hp) _ _

theorem countEach (h : Kept p q s) (die : Nat) (lines : List Nat) : Kept p q (Machine.countEach s die lines) :=
  h.foldl lines fun _ l hs => hs.countLines die _ 1

end Kept
end
end Machine

namespace Machine

open Safety

section
variable {p q : Prop} {s : State} {g : Group}

/-! ## Lane words' results (Operands) -/

namespace Kept

theorem inQuota (h : Kept p q s) (hg : LiveIf q g) (gid : Nat) (regs : List Nat) {k : State} (hk : Kept p q k) :
    Kept p q (Machine.inQuota s gid g regs k) := by
  unfold Machine.inQuota
  split
  · exact h.raiseL hg gid _ _
  · exact hk

theorem issueP (h : Kept p q s) (hg : LiveIf q g) (gid : Nat) (x : Pending) (sw : Bool) :
    Kept p q (Machine.issueP s gid g x sw) := by
  unfold Machine.issueP
  dsimp only
  split
  · refine h.setGrp ?_ gid
    exact hg
  · split
    · exact h
    · refine setGrp ?_ ?_ gid
      · exact h
      · exact hg

theorem issueL (h : Kept p q s) (hg : LiveIf q g) (gid : Nat) (ws : List PWrite) (sw : Bool) :
    Kept p q (Machine.issueL s gid g ws sw) := h.issueP hg gid _ sw

theorem laneV (h : Kept p q s) (hg : LiveIf q g) (gid : Nat) (m : Mods) (regs : List Nat) (ty : Ty) (d : BitVec 8)
    (sh : Shadow) (f : Nat → Nat) : Kept p q (Machine.laneV s gid g m regs ty d sh f) :=
  h.inQuota hg gid regs (h.issueL hg gid _ m.sw)

theorem laneP (h : Kept p q s) (hg : LiveIf q g) (gid : Nat) (m : Mods) (regs : List Nat) (d : BitVec 3)
    (f : Nat → Bool) : Kept p q (Machine.laneP s gid g m regs d f) :=
  h.inQuota hg gid regs (h.issueL hg gid _ m.sw)

/-! ## Accesses (Access) -/

theorem haltTeam (h : Kept p q s) (gid : Nat) (g : Group) : Kept p q (Machine.haltTeam s gid g) := by
  refine h.mapGrp (fun e => ?_) fun e he => ?_
  · split <;> rfl
  · split <;> exact he

theorem freezeTeam (h : Kept p q s) (gid : Nat) (g : Group) (viol addr : Nat) :
    Kept p q (Machine.freezeTeam s gid g viol addr) := by
  refine haltTeam ?_ gid g
  exact h

theorem ensureTeam (h : Kept p q s) (k : Nat) (t : Team) :
    Kept p q (if (s.team k).isSome then s else { s with teams := Store.put s.teams k t }) := by
  split
  · exact h
  · exact h.putTeam k t

theorem faultTeam (h : Kept p q s) (gid : Nat) (g : Group) (master kind va : Nat) :
    Kept p q (Machine.faultTeam s gid g master kind va) := by
  refine haltTeam ?_ gid g
  exact (h.ensureTeam _ _).updTeam _ _

theorem integrity (h : Kept p q s) (hg : LiveIf q g) (gid : Nat) (lane : Bool) (pc : Va) (pa : Nat) (info : W32) (xlde
    : Bool) :
    Kept p q (Machine.integrity s gid g lane pc pa info xlde) := by
  unfold Machine.integrity
  split
  · exact h.freezeTeam gid g 2 pa
  · exact h.raiseAt hg gid lane pc .integrity info xlde

theorem spadWrite (h : Kept p q s) (d : KDesc) (t : Team) (x : Nat) (bs : List Byte) :
    Kept p q (Machine.spadWrite s d t x bs) := h.setSpad fun hp => spadWrite_wf (h.spad hp) d t x bs

theorem noteWord (h : Kept p q s) (src store w : Nat) (now new mask : W32) :
    Kept p q (Machine.noteWord s src store w now new mask) := h

theorem spadPutAt (h : Kept p q s) (src : Nat) (xs : List (Nat × Byte)) : Kept p q (Machine.spadPutAt s src xs) := by
  refine h.foldl _ fun s w hs => ?_
  split
  · exact hs
  · dsimp only
    refine noteWord (hs.setSpad fun hp => ?_) _ _ _ _ _ _
    exact Store.wf_foldl_putD (hs.spad hp) _ Prod.fst Prod.snd

theorem spadPut (h : Kept p q s) (src : Nat) (d : KDesc) (t : Team) (x : Nat) (bs : List Byte) :
    Kept p q (Machine.spadPut s src d t x bs) := h.spadPutAt src _

theorem readSpad (h : Kept p q s) (me : Nat) (ws : List Nat) : Kept p q (Machine.readSpad s me ws) := by
  obtain ⟨o, ho⟩ := readSpad_cases s me ws
  rw [ho]
  exact h

theorem hideRels (h : Kept p q s) (pa n : Nat) : Kept p q (Machine.hideRels s pa n) := h

theorem coverFollows (h : Kept p q s) (id : Nat) (ids : List Nat) : Kept p q (Machine.coverFollows s id ids) := by
  unfold Machine.coverFollows
  split
  · exact h
  · have hgroups := h.mapGrp (f := fun e => (e.1, e.2.mapCov (also id ids) (also id (replPending s ids)))) (fun _ =>
      rfl)
      fun e he => he
    exact { hgroups with teams := fun hp => Store.sorted_map (h.teams hp) _ fun _ => rfl }

theorem sendReqs (h : Kept p q s) (gid : Nat) (lane : Bool) (rs : List Req) :
    Kept p q (Machine.sendReqs s gid lane rs) := by
  refine h.foldl rs fun s r hs => ?_
  dsimp only
  refine updGrp ?_ (fun g hg => ?_) gid
  · exact hs
  · exact hg.setStr lane _

theorem reserve (h : Kept p q s) (core asp : Nat) (b : Nat × Nat) : Kept p q (Machine.reserve s core asp b) := by
  unfold Machine.reserve
  dsimp only
  refine foldl (foldl ?_ _ fun _ l hs => hs.askRead l) _ fun _ l hs => hs.askFill core l
  split
  · exact h
  · exact h.keepTrs _ _ _

theorem countFoot (h : Kept p q s) (die asp : Nat) (acc : Acc) (b : Nat × Nat) :
    Kept p q (Machine.countFoot s die asp acc b) := by
  refine h.foldl _ fun s i hs => ?_
  dsimp only
  split
  · exact hs.countLines _ _ _
  · exact hs

theorem translated (h : Kept p q s) (gid : Nat) (g : Group) (acc : Acc) (xs : List (Nat × Nat))
    {k : State → List (Nat × Nat × TlbEntry) → State} (hk : ∀ s ps, Kept p q s → Kept p q (k s ps)) :
    Kept p q (Machine.translated s gid g acc xs k) := by
  have hs := h.keepTrs (dieOf (coreOf gid)) (aspOf s g) (xs.map (·.2))
  unfold Machine.translated
  dsimp only
  split
  · exact hs.faultTeam ..
  · split
    · exact hs.askRead _
    · split
      · exact hs.freezeTeam ..
      · exact hk _ _ hs

end Kept

/-! ## Divergence (Diverge) -/

/-- Requests leave the live mask of their group. -/
theorem sendReqs_live (gid : Nat) (lane : Bool) (rs : List Req) {s : State} {g : Group} (hg : s.grp gid = some g) :
    ∃ g', (Machine.sendReqs s gid lane rs).grp gid = some g' ∧ g'.live = g.live := by
  induction rs generalizing s g with
  | nil => exact ⟨g, hg, rfl⟩
  | cons r rs ih =>
    obtain ⟨g', he, hl⟩ := ih (s := Machine.sendReqs s gid lane [r])
      (g := g.setStr lane { g.str lane with cov := live s (g.str lane).cov ++ [s.nextId] })
      ((State.grp_updGrp { s with reqs := Store.put s.reqs s.nextId r, nextId := s.nextId + 1 } gid _).trans
        (congrArg (Option.map _) hg))
    refine ⟨g', he, hl.trans ?_⟩
    unfold Group.setStr
    split <;> rfl

namespace Kept

theorem overflowTrap (h : Kept p q s) (hg : LiveIf q g) (gid : Nat) : Kept p q (Machine.overflowTrap s gid g) :=
  h.raiseL hg gid _ _

theorem pushDiv (h : Kept p q s) (hg : LiveIf q g) (gid : Nat) (es : List DivEntry) {k : State → Group → State}
    (hk : ∀ s g', Kept p q s → LiveIf q g' → g'.live = g.live → Kept p q (k s g')) :
    Kept p q (Machine.pushDiv s gid g es k) := by
  unfold Machine.pushDiv
  extract_lets held n out _ g'
  have hg' : LiveIf q g' := hg
  split
  · exact h.overflowTrap hg gid
  · split
    · exact hk _ _ h hg' rfl
    · split
      · exact h
      · refine h.translated gid g .write _ fun s ps hs => ?_
        extract_lets rs s1
        have hsent : Kept p q s1 := (hs.setGrp hg' gid).sendReqs gid true rs
        split
        · next g1 hg1 =>
          obtain ⟨g2, hg2, hl⟩ := sendReqs_live gid true rs (State.grp_setGrp s gid g')
          rw [hg1] at hg2
          injection hg2 with hg2
          exact hk _ _ hsent (hsent.liveIf hg1) (hg2 ▸ hl)
        · exact hsent

theorem popDiv (h : Kept p q s) (hg : LiveIf q g) (gid : Nat) {k : State → Group → DivEntry → State}
    (hk : ∀ s g e, Kept p q s → LiveIf q g → Kept p q (k s g e)) : Kept p q (Machine.popDiv s gid g k) := by
  unfold Machine.popDiv
  split
  · exact h
  · split
    · exact hk _ _ _ h hg
    · split
      · exact h
      · dsimp only
        refine h.translated gid g .read _ fun s ps hs => ?_
        have hread := hs.foldl ps (f := fun s x => Machine.resolve s (x.2.1 / 128)) fun _ x ht => ht.resolve _
        split
        · exact hread.askFill _ _
        · split
          · exact hread.integrity hg gid true _ _ _ false
          · exact hk _ _ _ hread hg

theorem reconverge (gid : Nat) {k : State → Group → State} (hk : ∀ s g, Kept p q s → LiveIf q g → Kept p q (k s g))
    (n : Nat) {s : State} {g : Group} (h : Kept p q s) (hg : LiveIf q g) : Kept p q (Machine.reconverge gid n s g k) := by
  induction n generalizing s g with
  | zero => exact hk s g h hg
  | succ n ih =>
    unfold Machine.reconverge
    split
    · exact hk s g h hg
    · split
      · exact h.popDiv hg gid fun s g e hs _ => ih hs (LiveIf.of_and _ rfl)
      · exact hk s g h hg

end Kept

/-! ## Fetching (Fetch) -/

/-- What a fetch leaves, stopped or with an instruction. -/
def KeptEither (p q : Prop) (r : State ⊕ (State × Instr)) : Prop := Kept p q (r.elim id Prod.fst)

namespace Kept

theorem setParts (h : Kept p q s) (gid : Nat) (lane : Bool) (parts : List (Nat × List Byte)) :
    Kept p q (Machine.setParts s gid lane parts) := h.updGrp (fun _ hg => hg.setStr lane _) gid

theorem fetchParts (h : Kept p q s) (gid : Nat) (g : Group) (lane : Bool) (ps : List (Nat × Nat))
    {k : State → List Byte → State ⊕ (State × Instr)} (hk : ∀ s bs, Kept p q s → KeptEither p q (k s bs)) :
    KeptEither p q (Machine.fetchParts s gid g lane ps k) := by
  unfold Machine.fetchParts
  dsimp only
  split
  · exact h.setParts gid lane _
  · refine hk _ _ ?_
    split
    · exact h
    · exact h.setParts gid lane _

theorem fetchBytes (h : Kept p q s) (gid : Nat) (g : Group) (lane : Bool) (pc : Va) (n : Nat)
    {k : State → List Byte → State ⊕ (State × Instr)} (hk : ∀ s bs, Kept p q s → KeptEither p q (k s bs)) :
    KeptEither p q (Machine.fetchBytes s gid g lane pc n k) := by
  have hs := h.keepTrs (dieOf (coreOf gid)) (aspOf s g) (tabulate (n / 4) fun i => pc.toNat + 4 * i)
  have hstop : ∀ {s : State} (c : Bool), Kept p q s → Kept p q (if c then s.updGrp gid Group.unpart else s) := fun {s} c h => by
    split
    · refine h.updGrp (fun _ hg => ?_) gid
      exact hg
    · exact h
  unfold Machine.fetchBytes
  dsimp only
  split
  · exact (hstop _ hs).faultTeam ..
  · exact hs.askRead _
  · split
    · exact (hstop _ hs).freezeTeam ..
    · have hread := fun ps => hs.foldl (f := fun s x => Machine.resolve s (x / 128)) ps fun _ x ht => ht.resolve _
      split
      · exact (hread _).askRead _
      · exact (hread _).fetchParts gid g lane _ hk

theorem fetchWord (h : Kept p q s) (hg : LiveIf q g) (gid : Nat) (lane : Bool) :
    KeptEither p q (Machine.fetchWord s gid g lane) := by
  unfold Machine.fetchWord
  dsimp only
  split
  · exact h.raiseAt hg gid lane _ _ _ false
  · split
    · exact h.fetchBytes gid g true _ _ fun _ _ hs => hs
    · split
      · exact h
      · exact h.fetchBytes gid g false _ _ fun _ _ hs => hs

theorem beforeLane (h : Kept p q s) (hg : LiveIf q g) (gid : Nat) : Kept p q (Machine.beforeLane s gid g) :=
  reconverge gid (fun _ _ hs hg => hs.setGrp hg gid) _ h hg

theorem prepare (h : Kept p q s) (gid : Nat) (lane : Bool) (picks : List (Nat × Mask)) :
    KeptEither p q (Machine.prepare s gid lane picks) := by
  unfold Machine.prepare
  split
  · exact h
  · next g hg =>
    split
    · exact h
    · have hs : Kept p q (if lane then Machine.beforeLane s gid g else s) := by
        split
        · exact h.beforeLane (h.liveIf hg) gid
        · exact h
      dsimp only
      generalize (if lane then Machine.beforeLane s gid g else s) = s1 at hs
      split
      · exact hs
      · next g1 hg1 =>
        split
        · exact hs
        · have hword : KeptEither p q (Machine.fetchWord { s1 with cur := gid, picks := picks } gid g1 lane) :=
            fetchWord (s := { s1 with cur := gid, picks := picks }) hs (hs.liveIf hg1) gid lane
          split
          next s' heq =>
            rw [heq] at hword
            exact hword
          next s' i heq =>
            rw [heq] at hword
            split <;> exact hword

theorem stepTrap (h : Kept p q s) (gid : Nat) (lane : Bool) : Kept p q (Machine.stepTrap s gid lane) := by
  unfold Machine.stepTrap
  split
  · exact h
  · next g hg =>
    split
    · exact h
    · split
      · exact reconverge gid (fun _ _ hs hg => (hs.setGrp hg gid).raiseL hg gid _ _) _ h (h.liveIf hg)
      · exact h.raiseS (h.liveIf hg) gid _ _

theorem settle (h : Kept p q s) (before : Group) (gid : Nat) (lane : Bool) (i : Instr) :
    Kept p q (Machine.settle before gid lane i s) := by
  unfold Machine.settle
  split
  · exact h
  · next g hg =>
    split
    · exact h
    · refine stepTrap ?_ gid lane
      split
      · refine h.setGrp ?_ gid
        have := h.liveIf hg
        exact this
      · exact h

theorem viewStep (h : Kept p q s) (gid block : Nat) (regs : Mask) (aregs : BitVec 16) :
    Kept p q (Machine.viewStep s gid block regs aregs) := by
  refine h.updGrp (fun g hg => ?_) gid
  unfold Group.updBlock
  cases block <;> exact hg

theorem nextAct (h : Kept p q s) : Kept p q (Machine.nextAct s).2 := by
  unfold Machine.nextAct
  split <;> exact h

end Kept
end
end Machine

namespace Machine

open Safety

section
variable {p q : Prop} {s : State} {g : Group}

/-! ## Engines' accesses (Engine) -/

namespace Kept

theorem resolveRange (h : Kept p q s) (die asp va n : Nat) : Kept p q (Machine.resolveRange s die asp va n) := by
  refine h.foldl _ fun s x hs => ?_
  split
  · split
    · exact hs.resolve _
    · exact hs
  · exact hs

theorem keepRange (h : Kept p q s) (die asp va n : Nat) : Kept p q (Machine.keepRange s die asp va n) :=
  (h.keepTrs _ _ _).resolveRange _ _ _ _

theorem writePieces (h : Kept p q s) (ps : List (Nat × List Byte)) : Kept p q (Machine.writePieces s ps) := by
  unfold Machine.writePieces
  dsimp only
  split
  · exact h
  · exact (h.homeWriteAs _ _ _).hideRels _ _

theorem lockLines (w : Nat) (ls : List Nat) {s : State} (h : Kept p q s) : Kept p q (Machine.lockLines w s ls).1 := by
  induction ls generalizing s with
  | nil => exact h
  | cons l ls ih =>
    unfold Machine.lockLines
    dsimp only
    split
    · exact ih h
    · have hs := (h.resolve l).arriveAt l w
      split
      · refine ih ?_
        exact hs.putEly l (mkEly 0 0 7)
      · exact hs.askWrite l

theorem unlock (h : Kept p q s) (w : Nat) (ls : List Nat) : Kept p q (Machine.unlock s w ls) :=
  h.foldl (f := fun s l => Machine.setEly s l 0) (ls.filter fun l => s.locks.contains (l, w)) fun _ l hs => hs.putEly
      l 0

theorem dropWriter (h : Kept p q s) (w : Writer) : Kept p q (Machine.dropWriter s w) := h.unlock w.id _

theorem engReady (h : Kept p q s) (w : Writer) (pa : Nat) (repl : BitVec 8) :
    Kept p q (Machine.engReady s w pa repl).1 := by
  unfold Machine.engReady
  dsimp only
  split
  · split
    · exact h.resolve _
    · exact ((h.resolve _).askWrite _).arriveAt _ _
  · split
    · exact h.arriveAt _ _
    · exact lockLines w.id _ (h.arriveAt _ _)

theorem keepAt (h : Kept p q s) (w : Writer) (ls : List Nat) : Kept p q (Machine.keepAt s w ls) := h.unlock w.id _

theorem engAll (w : Writer) (ps : List Place) {s : State} (h : Kept p q s) : Kept p q (Machine.engAll w s ps).1 := by
  induction ps generalizing s with
  | nil => exact h
  | cons x xs ih =>
    have hr := h.engReady w x.pa x.repl
    unfold Machine.engAll
    split
    next s1 heq =>
      rw [heq] at hr
      exact ih hr
    next s1 heq =>
      rw [heq] at hr
      exact hr.keepAt w _

theorem engPut (h : Kept p q s) (x : Place) (bs : List Byte) : Kept p q (Machine.engPut s x bs) :=
  (h.foldl _ fun _ l hs => hs.homeWrite _ bs).hideRels _ _

theorem engWrites (h : Kept p q s) (w : Writer) (ps : List (Place × List Byte)) :
    Kept p q (Machine.engWrites s w ps).1 := by
  have hr := engAll w (ps.map (·.1)) h
  unfold Machine.engWrites
  split
  next s1 heq =>
    rw [heq] at hr
    exact (hr.dropWriter w).foldl ps fun _ x hs => hs.engPut x.1 x.2
  next => exact hr

theorem engWrite (h : Kept p q s) (w : Writer) (pa : Nat) (bs : List Byte) (repl : BitVec 8) :
    Kept p q (Machine.engWrite s w pa bs repl).1 := h.engWrites w _

theorem haltLT (h : Kept p q s) (lid tid : Nat) : Kept p q (Machine.haltLT s lid tid) := by
  refine h.mapGrp (fun e => ?_) fun e he => ?_
  · split <;> rfl
  · split <;> exact he

theorem faultCmd (h : Kept p q s) (lid tid core master kind va : Nat) :
    Kept p q (Machine.faultCmd s lid tid core master kind va) := by
  refine haltLT ?_ lid tid
  exact h.updTeam _ _

theorem freezeEngine (h : Kept p q s) (kind core lid team viol addr : Nat) :
    Kept p q (Machine.freezeEngine s kind core lid team viol addr) := h

theorem mapTeamGroups (h : Kept p q s) (k : Nat) {f : Group → Group} (hf : ∀ g, LiveIf q g → LiveIf q (f g)) :
    Kept p q (Machine.mapTeamGroups s k f) := by
  have hs : Kept p q { s with groups := s.groups.map fun e => if e.2.tkey == some k then (e.1, f e.2) else e } := by
    refine h.mapGrp (fun e => ?_) fun e he => ?_
    · split <;> rfl
    · split
      · exact hf _ he
      · exact he
  unfold Machine.mapTeamGroups
  dsimp only
  split
  · exact hs
  · have ht := fun f => hs.updTeam k f
    split
    · exact ht _
    · refine (ht _).foldl _ fun s g hs => ?_
      split
      · exact hs
      · exact hs.homeWrite _ _

end Kept
end
end Machine

end Sys2Proof
end

section
/-!
PROOFS. KeptWords: every word of the streams keeps the canonical forms and the live masks.
-/
namespace Sys2Proof

namespace Machine

open Safety

section
variable {p q : Prop} {s : State} {g : Group}

/-! ## What a step leaves -/

/-- Whatever next state there is keeps it. -/
def KeptOut (p q : Prop) (o : Host.Outcome State Fault Refusal) : Prop := ∀ t, o = .next t → Kept p q t

namespace Kept

theorem ite {c : Prop} [Decidable c] {t t' : State} (h : Kept p q t) (h' : Kept p q t') : Kept p q (if c then t else t') := by
  split <;> assumption

/-- Of a state with something beside it. -/
theorem of_fst {α : Type} {r : State × α} {t : State} {x : α} (h : Kept p q r.1) (e : r = (t, x)) : Kept p q t := by
  rw [e] at h
  exact h

theorem pair {α : Type} (h : Kept p q s) (x : α) : Kept p q (s, x).1 := h

theorem foldl_fst {α β : Type} {f : State × α → β → State × α} (xs : List β)
    (hf : ∀ r x, Kept p q r.1 → Kept p q (f r x).1) {r : State × α} (h : Kept p q r.1) : Kept p q (xs.foldl f r).1 := by
  induction xs generalizing r with
  | nil => exact h
  | cons x xs ih => exact ih (hf r x h)

theorem next {t : State} (h : Kept p q t) : KeptOut p q (.next t) := fun _ ht => by
  injection ht with ht
  exact ht ▸ h

theorem done {t : State} (h : Kept p q t) : KeptOut p q (Machine.done t) := next h

/-- A word of a resident group. -/
theorem word (h : Kept p q s) {k : Nat → Group → State} (hk : ∀ gid g, LiveIf q g → Kept p q (k gid g)) :
    KeptOut p q (withCur s k) := fun t ht => by
  obtain ⟨g, hg, rfl⟩ := withCur_cases ht
  exact hk _ g (h.liveIf hg)

/-! ## Lane words on integers, predicates and masks (LaneInt) -/

theorem nextL (h : Kept p q s) (hg : LiveIf q g) (gid : Nat) (sw : Bool) : Kept p q (s.setGrp gid (g.nextL sw)) := by
  refine h.setGrp ?_ gid
  exact hg

theorem nextS (h : Kept p q s) (hg : LiveIf q g) (gid : Nat) (sw : Bool) : Kept p q (s.setGrp gid (g.nextS sw)) := by
  refine h.setGrp ?_ gid
  exact hg

theorem goS (h : Kept p q s) (hg : LiveIf q g) (gid : Nat) (pc : Va) (sw : Bool) :
    Kept p q (s.setGrp gid (g.goS pc sw)) := by
  refine h.setGrp ?_ gid
  exact hg

theorem laneZ2 (h : Kept p q s) (hg : LiveIf q g) (gid : Nat) (m : Mods) (ty : Ty) (sat : Bool) (d a : BitVec 8) (b :
    OpB)
    (sh : Shadow) (f : Int → Int → Int) : Kept p q (Machine.laneZ2 s gid g m ty sat d a b sh f) := h.laneV hg gid ..

theorem laneZ3 (h : Kept p q s) (hg : LiveIf q g) (gid : Nat) (m : Mods) (ty : Ty) (sat : Bool) (d a : BitVec 8) (b :
    OpB)
    (c : OpC) (sh : Shadow) (f : Int → Int → Int → Int) : Kept p q (Machine.laneZ3 s gid g m ty sat d a b c sh f) :=
  h.laneV hg gid ..

theorem laneZ1 (h : Kept p q s) (hg : LiveIf q g) (gid : Nat) (m : Mods) (ty : Ty) (sat : Bool) (d a : BitVec 8)
    (f : Int → Int) : Kept p q (Machine.laneZ1 s gid g m ty sat d a f) := h.laneV hg gid ..

theorem laneB2 (h : Kept p q s) (hg : LiveIf q g) (gid : Nat) (m : Mods) (ty : Ty) (d a : BitVec 8) (b : OpB) (sh :
    Shadow)
    (f : Nat → Nat → Nat → Nat) : Kept p q (Machine.laneB2 s gid g m ty d a b sh f) := h.laneV hg gid ..

theorem laneB1 (h : Kept p q s) (hg : LiveIf q g) (gid : Nat) (m : Mods) (ty : Ty) (d a : BitVec 8)
    (f : Nat → Nat → Nat) : Kept p q (Machine.laneB1 s gid g m ty d a f) := h.laneV hg gid ..

theorem predOp (h : Kept p q s) (hg : LiveIf q g) (gid : Nat) (m : Mods) (d a b : BitVec 3) (f : Mask → Mask → Mask) :
    Kept p q (Machine.predOp s gid g m d a b f) := h.laneP hg gid ..

theorem execVwiden (h : Kept p q s) (m : Mods) (d : BitVec 8) (lo hi : Uni) :
    KeptOut p q (Machine.execVwiden m d lo hi s) := by
  refine h.word fun gid g hg => h.inQuota hg gid _ ?_
  split
  · exact h
  · refine h.nextL ?_ gid m.sw
    exact hg

theorem execVrange (h : Kept p q s) (m : Mods) (d : BitVec 8) (lo hi : Uni) :
    KeptOut p q (Machine.execVrange m d lo hi s) := by
  refine h.word fun gid g hg => h.inQuota hg gid _ ?_
  split
  · exact h
  · dsimp only
    split
    · exact h.raiseL hg gid _ _
    · refine h.nextL ?_ gid m.sw
      exact hg

theorem execExmset (h : Kept p q s) (m : Mods) (a : BitVec 3) : KeptOut p q (Machine.execExmset m a s) :=
  h.word fun gid _ _ => h.nextL (LiveIf.of_and _ rfl) gid m.sw

theorem execFxset (h : Kept p q s) (m : Mods) (a : BitVec 8) : KeptOut p q (Machine.execFxset m a s) :=
  h.word fun gid _ hg => h.inQuota hg gid _ (h.issueL hg gid _ _)

/-! ## Floating and logarithmic lane words (LaneFloat) -/

theorem flagged (h : Kept p q s) (hg : LiveIf q g) (gid : Nat) (m : Mods) (eff : Mask) (fl : Nat → BitVec 6)
    (ws : List PWrite) : Kept p q (Machine.flagged s gid g m eff fl ws) := by
  unfold Machine.flagged
  dsimp only
  generalize (if m.nf then none else arithTrap _ _) = r
  split
  · exact h.raiseL hg gid _ _
  · exact h.issueL hg gid _ _

theorem laneF (h : Kept p q s) (hg : LiveIf q g) (gid : Nat) (m : Mods) (regs : List Nat) (ty : Ty) (d : BitVec 8)
    (f : Nat → Fres) : Kept p q (Machine.laneF s gid g m regs ty d f) :=
  h.inQuota hg gid regs (h.flagged hg gid m _ _ _)

theorem laneF2 (h : Kept p q s) (hg : LiveIf q g) (gid : Nat) (m : Mods) (ty : Ty) (rm : Rm) (d a : BitVec 8) (b : OpB)
    (op : Fmt → Fenv → Fv → Fv → Fres) : Kept p q (Machine.laneF2 s gid g m ty rm d a b op) := h.laneF hg gid ..

theorem laneF1 (h : Kept p q s) (hg : LiveIf q g) (gid : Nat) (m : Mods) (ty : Ty) (rm : Rm) (d a : BitVec 8)
    (op : Fmt → Fenv → Fv → Fres) : Kept p q (Machine.laneF1 s gid g m ty rm d a op) := h.laneF hg gid ..

theorem laneMinMax (h : Kept p q s) (hg : LiveIf q g) (gid : Nat) (m : Mods) (ty : Ty) (mx : Bool) (d a : BitVec 8) (b
    : OpB) :
    Kept p q (Machine.laneMinMax s gid g m ty mx d a b) := h.laneF hg gid ..

theorem withL6 (h : Kept p q s) (hg : LiveIf q g) (gid : Nat) (regs : List Nat) {k : State} (hk : Kept p q k) :
    Kept p q (Machine.withL6 s gid g regs k) := by
  refine h.inQuota hg gid regs ?_
  split
  · exact hk
  · exact h.raiseL hg gid _ _

/-! ## Scalar words (ScalarAlu) -/

theorem alu2 (h : Kept p q s) (hg : LiveIf q g) (gid : Nat) (d a b : BitVec 6) (sw : Bool) (f : W32 → W32 → W32)
    (sh : Shadow → Shadow → Shadow) : Kept p q (Machine.alu2 s gid g d a b sw f sh) := h.issueS hg gid ..

theorem alu1 (h : Kept p q s) (hg : LiveIf q g) (gid : Nat) (d a : BitVec 6) (y : W32) (sw : Bool) (f : W32 → W32 → W32)
    (sh : Shadow → Shadow → Shadow) : Kept p q (Machine.alu1 s gid g d a y sw f sh) := h.issueS hg gid ..

theorem setExact (h : Kept p q s) (hg : LiveIf q g) (gid : Nat) (d : BitVec 6) (v : W32) (sw : Bool) :
    Kept p q (Machine.setExact s gid g d v sw) := h.issueS hg gid ..

theorem execSwiden (h : Kept p q s) (d a b : BitVec 6) (sw : Bool) : KeptOut p q (Machine.execSwiden d a b sw s) := by
  refine h.word fun gid g hg => ?_
  split
  · exact h
  · exact h.nextS (hg.shPut _ _ _) gid sw

theorem execSrange (h : Kept p q s) (d a b : BitVec 6) (sw : Bool) : KeptOut p q (Machine.execSrange d a b sw s) := by
  refine h.word fun gid g hg => ?_
  split
  · exact h
  · dsimp only
    split
    · exact h.raiseS hg gid _ _
    · exact h.nextS (hg.shPut _ _ _) gid sw

end Kept

theorem LiveIf.refineS (hg : LiveIf q g) (picks : List (Nat × Mask)) (r : Shadow.Rel) (a b : Nat) (x y : Shadow) :
    LiveIf q (Machine.refineS picks g r a b x y) := by
  have h1 : LiveIf q (if sBusy g a then g else Machine.shPut picks g (g.sKey a) (Shadow.refine r x y).1) := by
    split
    · exact hg
    · exact hg.shPut _ _ _
  unfold Machine.refineS
  split
  · exact hg
  · dsimp only
    split
    · exact h1
    · exact h1.shPut _ _ _

namespace Kept

theorem execSb (h : Kept p q s) (cond : SCond) (a b : BitVec 6) (off : BitVec 9) (sw : Bool) :
    KeptOut p q (Machine.execSb cond a b off sw s) :=
  h.word fun gid _ hg => h.goS (hg.refineS _ _ _ _ _ _) gid _ sw

theorem execSjr (h : Kept p q s) (a : BitVec 6) (sw : Bool) : KeptOut p q (Machine.execSjr a sw s) := by
  refine h.word fun gid g hg => ?_
  dsimp only
  split
  · exact h.goS hg gid _ sw
  · exact h.raiseS hg gid _ _

theorem execAsetb (h : Kept p q s) (n : BitVec 4) (a : BitVec 6) (sw : Bool) : KeptOut p q (Machine.execAsetb n a sw
    s) := by
  refine h.word fun gid g hg => ?_
  dsimp only
  split
  · exact h.raiseS hg gid _ _
  · refine h.nextS ?_ gid sw
    exact hg

theorem execAsetx (h : Kept p q s) (n : BitVec 4) (a b : BitVec 6) (sw : Bool) :
    KeptOut p q (Machine.execAsetx n a b sw s) := by
  refine h.word fun gid g hg => ?_
  dsimp only
  split
  · exact h.raiseS hg gid _ _
  · refine h.nextS ?_ gid sw
    exact hg

end Kept
end
end Machine

namespace Machine

open Safety

section
variable {p q : Prop} {s : State} {g : Group}

/-! ## Results that return (Results) -/

namespace LiveIf

theorem rewind (hg : LiveIf q g) (lane : Bool) (pc : Va) : LiveIf q (g.rewind lane pc) := by
  unfold Group.rewind
  split <;> exact hg

theorem dropOut (hg : LiveIf q g) (lane : Bool) (id : Nat) : LiveIf q (Machine.dropOut g lane id) := hg.setStr lane _

theorem noteLanded (hg : LiveIf q g) (lane : Bool) (ws : List PWrite) : LiveIf q (Machine.noteLanded g lane ws) := by
  unfold Machine.noteLanded
  dsimp only
  split
  · exact hg
  · exact hg.setStr lane _

theorem ite {c : Prop} [Decidable c] {g' : Group} (hg : LiveIf q g) (hg' : LiveIf q g') : LiveIf q (if c then g else g') := by
  split <;> assumption

theorem lsynced (hg : LiveIf q g) : LiveIf q (Machine.lsynced s g) := hg.publish

end LiveIf

namespace Kept

theorem clearOlds (h : Kept p q s) (store : Nat) (words : List Nat) : Kept p q (Machine.clearOlds s store words) := h

theorem released (h : Kept p q s) (gid : Nat) : Kept p q (Machine.released s gid) := h

theorem afterRead (h : Kept p q s) (gid : Nat) (g : Group) (old new : Pending) :
    Kept p q (Machine.afterRead s gid g old new) := by
  unfold Machine.afterRead
  split
  · exact h
  · exact h.readSpad _ _

theorem askElts (h : Kept p q s) (core : Nat) (lanes : Mask) (x : Pending) : Kept p q (Machine.askElts s core lanes x)
    := by
  unfold Machine.askElts
  split
  · exact h
  · refine h.foldl _ fun s e hs => ?_
    dsimp only
    split
    · exact hs.askFill core _
    · split
      · exact hs.askRead _
      · exact (hs.askRead _).arriveAt _ _

theorem resolveElts (h : Kept p q s) (kind : PKind) (es : List LoadElt) : Kept p q (Machine.resolveElts s kind es) := by
  unfold Machine.resolveElts
  split
  · exact h
  · exact h.foldl _ fun _ _ hs => hs.resolve _

theorem issueLoad (h : Kept p q s) (hg : LiveIf q g) (gid : Nat) (lane : Bool) (x : Pending) {next : Bool → Group → Group}
    (hn : ∀ hot g, LiveIf q g → LiveIf q (next hot g)) : Kept p q (Machine.issueLoad s gid g lane x next) := by
  have hs := h.resolveElts x.kind x.elts
  unfold Machine.issueLoad
  dsimp only
  split
  · exact h
  · split
    · exact hs.integrity hg gid lane _ _ _ false
    · refine setGrp ?_ (hn _ _ (hg.setStr lane _)) gid
      refine askElts ?_ _ _ _
      exact hs.afterRead gid g _ _

theorem landWrite (h : Kept p q s) (gid : Nat) (keep hit : Mask) (isLane : Bool) (w : PWrite) :
    Kept p q (Machine.landWrite s gid keep hit isLane w) := by
  unfold Machine.landWrite
  dsimp only
  split
  · exact h
  · next g hg =>
    have hl := h.liveIf hg
    split
    · refine (h.vPut gid g _ _ _).setGrp ?_ gid
      exact hl
    · split
      · refine h.setGrp ?_ gid
        exact hl
      · refine h.setGrp ?_ gid
        exact hl.sPut _ _ _
    · refine h.setGrp ?_ gid
      exact hl
    · refine h.setGrp ?_ gid
      exact LiveIf.ite (hl.setStr _ _) hl
    · refine h.setGrp ?_ gid
      exact hl
    · exact (h.clearOlds _ _).setAcc fun hp => Store.wf_putsD (h.acc hp) _ _

theorem landAll (h : Kept p q s) (gid : Nat) (lane : Bool) (keep : Mask) (met : List (Nat × Nat × Mask)) (ws : List
    PWrite) :
    Kept p q (Machine.landAll s gid lane keep met ws) :=
  h.foldl ws fun _ w hs => hs.landWrite gid keep _ lane w

theorem lateIntegrity (h : Kept p q s) (hg : LiveIf q g) (gid : Nat) (lane : Bool) (x : Pending) (pos : Option Nat)
    (pa : Nat) (info : W32) : Kept p q (Machine.lateIntegrity s gid g lane x pos pa info) := by
  unfold Machine.lateIntegrity
  extract_lets g1 _ g2
  have hr : LiveIf q g2 := by
    cases pos <;> exact hg.rewind lane x.pc
  clear_value g2
  split
  · refine (h.setGrp ?_ gid).freezeTeam gid _ 2 pa
    exact hr
  · split
    · exact (h.setGrp hr gid).raiseAt hr gid lane _ _ _ _
    · split
      · refine h.setGrp ?_ gid
        exact hr
      · exact h.setGrp hr gid

theorem leave (h : Kept p q s) (gid : Nat) (lane : Bool) (id : Nat) : Kept p q (Machine.leave s gid lane id) := by
  unfold Machine.leave
  split
  · exact h
  · refine h.updGrp (fun g hg => ?_) gid
    exact hg

theorem returnBad (h : Kept p q s) (gid : Nat) (lane : Bool) (keep : Mask) (x : Pending) (ws : List PWrite) (e :
    LoadElt) :
    Kept p q (Machine.returnBad s gid lane keep x ws e) := by
  unfold Machine.returnBad
  dsimp only
  generalize (if (x.kind == PKind.expand) = true then ws.map (PWrite.only (lowMask e.lane)) else []) = ws'
  have hs : Kept p q (Machine.leave (Machine.landAll ((s.updGrp gid fun g => Machine.dropOut g lane x.id).updGrp gid
      fun g => Machine.noteLanded g lane ws') gid lane keep x.met ws') gid lane x.id) :=
    (((h.updGrp (fun _ hg => hg.dropOut lane x.id) gid).updGrp (fun _ hg => hg.noteLanded lane ws') gid).landAll
      gid lane keep x.met ws').leave gid lane x.id
  split
  · next g hg => exact (hs.lateIntegrity (hs.liveIf hg) gid lane x _ _ _).enterTrap gid
  · exact hs

theorem returnGood (h : Kept p q s) (hg : LiveIf q g) (gid : Nat) (lane : Bool) (keep : Mask) (x : Pending) :
    Kept p q (Machine.returnGood s gid g lane keep x) := by
  have hs := (((h.setGrp ((hg.dropOut lane x.id).noteLanded lane (landing s gid g x)) gid).landAll gid lane keep x.met
    (landing s gid g x)).leave gid lane x.id)
  refine enterTrap ?_ gid
  split
  · split
    · next g1 hg1 => exact hs.lateIntegrity (hs.liveIf hg1) gid lane x none _ _
    · exact hs
  · exact hs

theorem readMore (h : Kept p q s) (gid : Nat) (g : Group) (lane : Bool) (late : Mask) (x : Pending) :
    Kept p q (Machine.readMore s gid g lane late x).1 := by
  unfold Machine.readMore
  split
  · exact h
  · refine updGrp ?_ (fun g hg => hg.setStr lane _) gid
    exact ((h.resolveElts _ _).afterRead gid g _ _).coverFollows _ _

theorem returnResult (h : Kept p q s) (gid : Nat) (lane : Bool) (k : Nat) (keep late : Mask) :
    Kept p q (Machine.returnResult s gid lane k keep late) := by
  unfold Machine.returnResult
  split
  · exact h
  · next g x _ =>
    have hr := h.readMore gid g lane late x
    split
    next s1 r heq =>
    rw [heq] at hr
    split
    · exact hr.askElts _ _ _
    · split
      · exact hr
      · split
        · exact hr.returnBad gid lane keep x _ _
        · next g1 _ hg1 => exact hr.returnGood (hr.liveIf hg1) gid lane keep _
        · exact hr

/-! ## Scalar loads, stores and waits (ScalarMem) -/

theorem scalarAccess (h : Kept p q s) (hg : LiveIf q g) (gid : Nat) (d : BitVec 6) (n : BitVec 4) (b : BitVec 6)
    (off : BitVec 7) {k : ARegVal → Option Nat → State} (hk : ∀ a addr, Kept p q (k a addr)) :
    Kept p q (Machine.scalarAccess s gid g d n b off k) := by
  unfold Machine.scalarAccess
  dsimp only
  split
  · exact h.raiseS hg gid _ _
  · split
    · exact h.raiseS hg gid _ _
    · split
      · exact h.raiseS hg gid _ _
      · exact hk _ _

theorem scalarPa (h : Kept p q s) (gid : Nat) (g : Group) (acc : Acc) (va : Nat) {k : State → Nat → TlbEntry → State}
    (hk : ∀ s pa e, Kept p q s → Kept p q (k s pa e)) : Kept p q (Machine.scalarPa s gid g acc va k) := by
  refine h.translated gid g acc _ fun s ps hs => ?_
  cases ps with
  | nil => exact hs
  | cons x xs => exact hk _ _ _ hs

theorem execSld (h : Kept p q s) (d : BitVec 6) (n : BitVec 4) (b : BitVec 6) (off : BitVec 7) (sw : Bool) :
    KeptOut p q (Machine.execSld d n b off sw s) := by
  refine h.word fun gid g hg => h.scalarAccess hg gid d n b off fun a addr => ?_
  split
  · exact h
  · dsimp only
    split
    · exact h.issueS hg gid _ _ _
    · exact h.scalarPa gid g .read _ fun s pa _ hs =>
        (hs.countLines _ _ _).issueLoad hg gid false _ fun _ _ hg => hg

theorem execSst (h : Kept p q s) (d : BitVec 6) (n : BitVec 4) (b : BitVec 6) (off : BitVec 7) (sw : Bool) :
    KeptOut p q (Machine.execSst d n b off sw s) := by
  refine h.word fun gid g hg => h.scalarAccess hg gid d n b off fun a addr => ?_
  split
  · exact h
  · split
    · exact h.nextS hg gid sw
    · exact h.scalarPa gid g .write _ fun s pa e hs =>
        ((hs.countLines _ _ _).nextS hg gid sw).sendReqs gid false _

theorem endWait (h : Kept p q s) (gid : Nat) (lane : Bool) (pc : Va) : Kept p q (Machine.endWait s gid lane pc) := by
  unfold Machine.endWait
  split
  · exact h
  · next g hg =>
    have hw : LiveIf q (g.setStr lane { g.str lane with wait := none, wsw := false }) := (h.liveIf hg).setStr _ _
    refine (h.setGrp ?_ gid).stepTrap gid lane
    split <;> exact hw

theorem waitS (h : Kept p q s) (hg : LiveIf q g) (gid : Nat) (w : Wait) (sw : Bool) :
    Kept p q (s.setGrp gid (g.waitS w sw)) := by
  refine h.setGrp ?_ gid
  exact hg

theorem mwaitRead (h : Kept p q s) (gid : Nat) (cmp : MCmp) (acq : Option Scope) (addr : Nat) (v : W64) :
    Kept p q (Machine.mwaitRead s gid cmp acq addr v) := by
  unfold Machine.mwaitRead
  split
  · exact h
  · next g hg =>
    have hl := h.liveIf hg
    refine h.scalarPa gid g .read addr fun s pa _ hs => ?_
    have hr := hs.resolve (pa / 128)
    dsimp only
    split
    · exact hr.askRead _
    · split
      · exact hr.integrity hl gid false _ _ _ false
      · split
        · refine (hr.setGrp ?_ gid).endWait gid false _
          exact hl
        · exact hr

theorem execMwait (h : Kept p q s) (cmp : MCmp) (acq : Option Scope) (a b : BitVec 6) (sw : Bool) :
    KeptOut p q (Machine.execMwait cmp acq a b sw s) := by
  refine h.word fun gid g hg => ?_
  dsimp only
  split
  · exact h.raiseS hg gid _ _
  · split
    · exact h
    · exact (h.waitS hg gid _ sw).mwaitRead gid cmp acq _ _

theorem execMwaitReread (h : Kept p q s) (gid : Nat) : KeptOut p q (Machine.execMwaitReread gid s) := by
  refine done ?_
  split
  · exact h.mwaitRead gid _ _ _ _
  · exact h

theorem fenced (h : Kept p q s) (gid : Nat) (ord : FOrd) : Kept p q (Machine.fenced s gid ord) := by
  unfold Machine.fenced
  split
  · exact h
  · exact h.released gid

theorem execSfence (h : Kept p q s) (ord : FOrd) (sc : Scope) (sw : Bool) : KeptOut p q (Machine.execSfence ord sc sw
    s) := by
  refine h.word fun gid g hg => (h.fenced gid ord).nextS ?_ gid sw
  exact hg

end Kept
end
end Machine

namespace Machine

open Safety

section
variable {p q : Prop} {s : State} {g : Group}

/-! ## Scalar control (ScalarCtl) -/

theorem LiveIf.sysLatch (hg : LiveIf q g) (num : Nat) : LiveIf q (Machine.sysLatch s g num) := by
  unfold Machine.sysLatch
  refine LiveIf.ite ?_ (LiveIf.ite ?_ hg)
  · exact hg
  · exact hg

namespace Kept

theorem smfsGo (h : Kept p q s) (hg : LiveIf q g) (gid : Nat) (d : BitVec 6) (num : Nat) (sw : Bool) :
    Kept p q (Machine.smfsGo s gid g d num sw) := by
  unfold Machine.smfsGo
  split
  · exact h
  · split
    · exact h
    · exact h.issueSK (hg.sysLatch num) gid _ _ _ sw

theorem setTpc (h : Kept p q s) (hg : LiveIf q g) (gid : Nat) (pc : Va) (sw : Bool) :
    Kept p q (Machine.setTpc s gid g pc sw) := by
  unfold Machine.setTpc
  split
  · exact h.raiseS hg gid _ _
  · refine h.nextS ?_ gid sw
    exact hg

theorem writeMode (h : Kept p q s) (hg : LiveIf q g) (gid : Nat) (v : W32) (sw : Bool) :
    Kept p q (Machine.writeMode s gid g v sw) := by
  unfold Machine.writeMode
  split
  · exact h.raiseS hg gid _ _
  · refine h.nextS ?_ gid sw
    exact hg

theorem writeExm (h : Kept p q s) (hg : LiveIf q g) (gid : Nat) (hi : Bool) (v : W32) (sw : Bool) :
    Kept p q (Machine.writeExm s gid g hi v sw) := by
  unfold Machine.writeExm
  split
  · exact h
  · refine h.nextS ?_ gid sw
    exact hg

theorem writeTrappc (h : Kept p q s) (hg : LiveIf q g) (gid : Nat) (v : W32) (sw : Bool) :
    Kept p q (Machine.writeTrappc s gid g v sw) := h.setTpc hg gid _ sw

theorem writeTrappclo (h : Kept p q s) (hg : LiveIf q g) (gid : Nat) (v : W32) (sw : Bool) :
    Kept p q (Machine.writeTrappclo s gid g v sw) := h.setTpc hg gid _ sw

theorem writeTrappchi (h : Kept p q s) (hg : LiveIf q g) (gid : Nat) (v : W32) (sw : Bool) :
    Kept p q (Machine.writeTrappchi s gid g v sw) := by
  unfold Machine.writeTrappchi
  split
  · exact h.raiseS hg gid _ _
  · exact h.setTpc hg gid _ sw

theorem writeTrapinfo (h : Kept p q s) (hg : LiveIf q g) (gid : Nat) (v : W32) (sw : Bool) :
    Kept p q (Machine.writeTrapinfo s gid g v sw) := by
  refine h.nextS ?_ gid sw
  exact hg

theorem smtsGo (h : Kept p q s) (hg : LiveIf q g) (gid num : Nat) (v : W32) (sw : Bool) :
    Kept p q (Machine.smtsGo s gid g num v sw) := by
  unfold Machine.smtsGo
  split
  · exact h.writeMode hg gid v sw
  · exact h.writeExm hg gid false v sw
  · exact h.writeExm hg gid true v sw
  · exact h.writeTrappc hg gid v sw
  · exact h.writeTrapinfo hg gid v sw
  · exact h.writeTrappclo hg gid v sw
  · exact h.writeTrappchi hg gid v sw
  · exact h

theorem inHandler (h : Kept p q s) (hg : LiveIf q g) (gid : Nat) {k : State} (hk : Kept p q k) :
    Kept p q (Machine.inHandler s gid g k) := by
  unfold Machine.inHandler
  split
  · exact hk
  · exact h.raiseS hg gid _ _

theorem execLrun (h : Kept p q s) (idx : BitVec 19) (sw : Bool) : KeptOut p q (Machine.execLrun idx sw s) := by
  refine h.word fun gid g hg => h.ite ?_
  refine h.nextS ?_ gid sw
  exact hg

theorem execLsync (h : Kept p q s) (sw : Bool) : KeptOut p q (Machine.execLsync sw s) := by
  refine h.word fun gid g hg => ?_
  split
  · exact h.nextS hg.lsynced gid sw
  · exact h

theorem execCwait (h : Kept p q s) (ctr : Ctr) (a : BitVec 6) (sw : Bool) :
    KeptOut p q (Machine.execCwait ctr a sw s) := by
  refine h.word fun gid g hg => ?_
  dsimp only
  split
  · exact h.nextS hg gid sw
  · exact h.waitS hg gid _ sw

theorem execCounterWaitMet (h : Kept p q s) (gid : Nat) (lane : Bool) :
    KeptOut p q (Machine.execCounterWaitMet gid lane s) := by
  refine done ?_
  split
  · split
    · split
      · exact h.endWait gid lane _
      · exact h
    · exact h
  · exact h

theorem execYield (h : Kept p q s) (ctr : Ctr) (a b : BitVec 6) (sw : Bool) :
    KeptOut p q (Machine.execYield ctr a b sw s) := by
  refine h.word fun gid g hg => ?_
  dsimp only
  split
  · exact h
  · split
    · exact h.raiseS hg gid _ _
    · split
      · exact h.goS hg.lsynced gid _ sw
      · exact h.waitS hg.lsynced gid _ sw

theorem execYieldReactivate (h : Kept p q s) (gid : Nat) : KeptOut p q (Machine.execYieldReactivate gid s) := by
  refine done ?_
  split
  · split
    · split
      · exact h.endWait gid false _
      · exact h
    · exact h
  · exact h

theorem barAgain (h : Kept p q s) (hg : LiveIf q g) (gid : Nat) (t : Team) (n : Nat) (ph sw : Bool) :
    Kept p q (Machine.barAgain s gid g t n ph sw) := by
  unfold Machine.barAgain
  dsimp only
  split
  · exact h.waitS hg gid _ sw
  · refine h.nextS ?_ gid sw
    exact hg

theorem barArrive (h : Kept p q s) (hg : LiveIf q g) (gid k : Nat) (t : Team) (n c : Nat) (sw : Bool) :
    Kept p q (Machine.barArrive s gid g k t n c sw) := by
  unfold Machine.barArrive
  dsimp only
  split
  · exact h
  · split
    · exact h.raiseS hg gid _ _
    · split
      · exact h
      · refine ((h.released gid).updTeam k _).setGrp ?_ gid
        exact hg.lsynced (s := s)

theorem execBar (h : Kept p q s) (a : BitVec 6) (n : BitVec 4) (sw : Bool) : KeptOut p q (Machine.execBar a n sw s) :=
    by
  refine h.word fun gid g hg => ?_
  split
  · exact h.raiseS hg gid _ _
  · split
    · exact h
    · split
      · split
        · exact h.barAgain hg gid _ _ _ sw
        · exact h
      · dsimp only
        split
        · exact h.raiseS hg gid _ _
        · split
          · exact h
          · exact h.barArrive hg gid _ _ _ _ sw

theorem leaveBar (h : Kept p q s) (lid : Nat) (tid : Option Nat) (n : Nat) (ph : Bool) (cov : List Nat) :
    Kept p q (Machine.leaveBar s lid tid n ph cov) := by
  refine h.foldl _ fun s e hs => (hs.updGrp (fun g hg => ?_) e.1).endWait e.1 false _
  exact hg

theorem execBarrierRelease (h : Kept p q s) (team bar : Nat) : KeptOut p q (Machine.execBarrierRelease team bar s) := by
  refine done ?_
  split
  · exact h
  · dsimp only
    split
    · exact (h.updTeam team _).leaveBar _ _ _ _ _
    · exact h

theorem stageSeen (h : Kept p q s) (gid : Nat) (d : KDesc) (t : Team) (x st : Nat) :
    Kept p q (Machine.stageSeen s gid d t x st) := h.readSpad _ _

theorem inTeam (h : Kept p q s) (hg : LiveIf q g) (gid : Nat) (lane : Bool) {k : Nat → Team → State}
    (hk : ∀ key t, Kept p q (k key t)) : Kept p q (Machine.inTeam s gid g lane k) := by
  unfold Machine.inTeam
  split
  · exact h.raise hg gid lane _ _
  · split
    · exact hk _ _
    · exact h

theorem stagePass (h : Kept p q s) (hg : LiveIf q g) (gid : Nat) (t : Team) (x st : Nat) (sw : Bool) :
    Kept p q (Machine.stagePass s gid g t x st sw) := by
  refine (h.stageSeen gid _ t x st).nextS ?_ gid sw
  exact hg

theorem execStgacq (h : Kept p q s) (a : BitVec 6) (st : BitVec 12) (sw : Bool) :
    KeptOut p q (Machine.execStgacq a st sw s) := by
  refine h.word fun gid g hg => h.inTeam hg gid false fun _ t => ?_
  dsimp only
  split
  · exact h.raiseS hg gid _ _
  · split
    · exact h.raiseS hg gid _ _
    · split
      · exact h.raiseS hg gid _ _
      · split
        · exact h.stagePass hg gid t _ _ sw
        · exact h.waitS hg gid _ sw

theorem execStagePhaseObserved (h : Kept p q s) (gid : Nat) : KeptOut p q (Machine.execStagePhaseObserved gid s) := by
  refine done ?_
  split
  · next g hg =>
    split
    · split
      · refine ((h.stageSeen gid _ _ _ _).setGrp ?_ gid).endWait gid false _
        have := h.liveIf hg
        exact this
      · exact h
    · exact h
  · exact h

theorem execStgrel (h : Kept p q s) (a : BitVec 6) (st : BitVec 12) (sw : Bool) :
    KeptOut p q (Machine.execStgrel a st sw s) := by
  refine h.word fun gid g hg => h.inTeam hg gid false fun k t => ?_
  dsimp only
  split
  · exact h.raiseS hg gid _ _
  · split
    · exact h.raiseS hg gid _ _
    · split
      · exact h.raiseS hg gid _ _
      · split
        · exact h
        · split
          · exact h
          · split
            · exact h.raiseS hg.lsynced gid _ _
            · exact ((((h.released gid).stageSeen gid _ t _ _).spadWrite _ t _ _).updTeam k _).nextS hg.lsynced gid sw

theorem growTo (h : Kept p q s) (hg : LiveIf q g) (gid n : Nat) : Kept p q (Machine.growTo s gid g n) := by
  refine h.receive ?_ gid _ _
  exact hg

theorem execGrow (h : Kept p q s) (n : BitVec 12) (sw : Bool) : KeptOut p q (Machine.execGrow n sw s) := by
  refine h.word fun gid g hg => ?_
  dsimp only
  split
  · exact h.nextS hg gid sw
  · split
    · exact h.raiseS hg gid _ _
    · split
      · refine h.growTo ?_ gid _
        exact hg
      · refine waitS (s := { s with nextId := s.nextId + 1 }) ?_ hg gid _ sw
        exact h

theorem execGrowGrant (h : Kept p q s) (gid : Nat) : KeptOut p q (Machine.execGrowGrant gid s) := by
  refine done ?_
  split
  · next g hg =>
    split
    · split
      · exact (h.growTo (h.liveIf hg) gid _).endWait gid false _
      · exact h
    · exact h
  · exact h

theorem execShrink (h : Kept p q s) (n : BitVec 12) (sw : Bool) : KeptOut p q (Machine.execShrink n sw s) := by
  refine h.word fun gid g hg => ?_
  dsimp only
  split
  · exact h.nextS hg gid sw
  · split
    · exact h.raiseS hg gid _ _
    · split
      · exact h
      · refine h.nextS ?_ gid sw
        exact hg

theorem eretGo (h : Kept p q s) (hg : LiveIf q g) (gid : Nat) (skip : Bool) : Kept p q (Machine.eretGo s gid g skip)
    := by
  unfold Machine.eretGo
  split
  · exact h.raiseS hg gid _ _
  · split
    · exact h
    · exact h.trapReturn gid _ skip

theorem execSexit (h : Kept p q s) (sw : Bool) : KeptOut p q (Machine.execSexit sw s) := by
  refine h.word fun gid g hg => ?_
  split
  · exact h.endTeamOf gid g
  · split
    · exact h.endGroup gid
    · exact h

/-- EXM of a block that starts is the live mask (R28). -/
theorem execBlockStart (h : Kept p q s) (gid : Nat) : KeptOut p q (Machine.execBlockStart gid s) := by
  refine done (h.updGrp (fun g hg => ?_) gid)
  split
  · split
    · exact hg
    · exact LiveIf.of_and _ (BitVec.and_self (x := g.live)).symm
  · exact hg

theorem execBlockRetire (h : Kept p q s) (gid : Nat) : KeptOut p q (Machine.execBlockRetire gid s) := by
  refine done (h.updGrp (fun g hg => ?_) gid)
  dsimp only
  split <;> exact hg

end Kept
end
end Machine

namespace Machine

open Safety

section
variable {p q : Prop} {s : State} {g : Group}

/-! ## Lane accesses (LaneMem) -/

namespace Kept

theorem laneAccess (h : Kept p q s) (hg : LiveIf q g) (gid : Nat) (m : Mods) (regs : List Nat) (n : BitVec 4) (b : OpC)
    (off : BitVec 32) {k : LAccess → State} (hk : ∀ x, Kept p q (k x)) :
    Kept p q (Machine.laneAccess s gid g m regs n b off k) := by
  refine h.inQuota hg gid _ ?_
  dsimp only
  split
  · exact h.raiseL hg gid _ _
  · split
    · exact h.raiseL hg gid _ _
    · exact hk _

theorem countAccess (h : Kept p q s) (core asp : Nat) (acc : Acc) (foot : Option (Nat × Nat))
    (ps : List (Nat × Nat × TlbEntry)) : Kept p q (Machine.countAccess s core asp acc foot ps) := by
  unfold Machine.countAccess
  split
  · exact h
  · split
    · exact h.countFoot _ _ _ _
    · exact h.countEach _ _

theorem reserveFoot (h : Kept p q s) (core asp : Nat) (foot : Option (Nat × Nat)) :
    Kept p q (Machine.reserveFoot s core asp foot) := by
  unfold Machine.reserveFoot
  split
  · exact h.reserve core asp _
  · exact h

theorem fillLines (h : Kept p q s) (core : Nat) (ps : List (Nat × Nat × TlbEntry)) :
    Kept p q (Machine.fillLines s core ps) := h.foldl _ fun _ l hs => hs.askFill core l

theorem execLd (h : Kept p q s) (m : Mods) (ty : Ty) (acq : Option Scope) (d : BitVec 8) (n : BitVec 4) (b : OpC)
    (off : BitVec 32) : KeptOut p q (Machine.execLd m ty acq d n b off s) := by
  refine h.word fun gid g hg => h.laneAccess hg gid m _ n b off fun x => ?_
  extract_lets core far foot
  clear_value far foot
  refine h.ite ?_
  split
  · exact (h.reserveFoot _ _ _).ite ((h.reserveFoot _ _ _).nextL hg gid m.sw)
  · refine h.translated gid g .read _ fun s ps hs => ?_
    have hr := hs.reserveFoot (coreOf gid) (aspOf s g) foot
    refine hr.ite ?_
    have hc := hr.countAccess (coreOf gid) (aspOf (Machine.reserveFoot s (coreOf gid) (aspOf s g) foot) g) .read
        x.foot ps
    exact (hc.ite (hc.fillLines _ ps)).issueLoad hg gid true _ fun _ _ hg => hg

theorem execSt (h : Kept p q s) (m : Mods) (ty : Ty) (rel : Option Scope) (n : BitVec 4) (b : OpC) (c : BitVec 8)
    (off : BitVec 32) : KeptOut p q (Machine.execSt m ty rel n b c off s) := by
  refine h.word fun gid g hg => h.laneAccess hg gid m _ n b off fun x => h.ite ?_
  refine h.translated gid g .write _ fun s ps hs => ?_
  have hc := hs.countAccess (coreOf gid) (aspOf s g) .write x.foot ps
  exact (issueL (ite (hc.released gid) hc) hg gid _ m.sw).sendReqs gid true _

theorem spadAccess (h : Kept p q s) (hg : LiveIf q g) (gid : Nat) (m : Mods) (regs : List Nat) (n : BitVec 4) (b : OpC)
    (off : BitVec 32) {k : Team → LAccess → State} (hk : ∀ t x, Kept p q (k t x)) :
    Kept p q (Machine.spadAccess s gid g m regs n b off k) := by
  refine h.inTeam hg gid true fun _ t => h.laneAccess hg gid m regs n b off fun x => ?_
  split
  · exact h.raiseL hg gid _ _
  · exact hk _ _

theorem execLds (h : Kept p q s) (m : Mods) (ty : Ty) (d : BitVec 8) (n : BitVec 4) (b : OpC) (off : BitVec 32) :
    KeptOut p q (Machine.execLds m ty d n b off s) := by
  refine h.word fun gid g hg => h.spadAccess hg gid m _ n b off fun _ x => h.ite ?_
  exact ite (h.nextL hg gid m.sw) (h.issueLoad hg gid true _ fun _ _ hg => hg)

theorem spadStore (h : Kept p q s) (gid : Nat) (d : KDesc) (t : Team) (xs : List (Nat × List Byte)) :
    Kept p q (Machine.spadStore s gid d t xs) := by
  refine (h.updGrp (fun g hg => ?_) gid).foldl xs fun _ x hs => hs.spadPut _ d t x.1 x.2
  exact hg

theorem execSts (h : Kept p q s) (m : Mods) (ty : Ty) (n : BitVec 4) (b : OpC) (c : BitVec 8) (off : BitVec 32) :
    KeptOut p q (Machine.execSts m ty n b c off s) :=
  h.word fun gid _ hg => h.spadAccess hg gid m _ n b off fun t _ => h.ite ((h.issueL hg gid _ m.sw).spadStore gid _ t _)

theorem posAccess (h : Kept p q s) (hg : LiveIf q g) (gid : Nat) (m : Mods) (regs : List Nat) (n : BitVec 4) (b : Uni)
    (off : BitVec 32) {k : LAccess → State} (hk : ∀ x, Kept p q (k x)) :
    Kept p q (Machine.posAccess s gid g m regs n b off k) := by
  refine h.inQuota hg gid _ ?_
  dsimp only
  generalize (if (effMask s.picks g m == 0) = true then Shadow.top else _) = iv
  split
  · exact h.raiseL hg gid _ _
  · split
    · exact h.raiseL hg gid _ _
    · exact hk _

theorem posRun (h : Kept p q s) (gid : Nat) (g : Group) (acc : Acc) (x : LAccess) :
    Kept p q (Machine.posRun s gid g acc x).1 := h.keepTrs _ _ _

theorem countRun (h : Kept p q s) (gid : Nat) (g : Group) (acc : Acc) (foot : Option (Nat × Nat)) (r : PosRun) :
    Kept p q (Machine.countRun s gid g acc foot r) := h.ite (h.countAccess _ _ _ _ _)

theorem endRun (h : Kept p q s) (gid : Nat) (r : PosRun) (sw unread : Bool) :
    Kept p q (Machine.endRun s gid r sw unread) := by
  unfold Machine.endRun
  split
  · exact h
  · next g hg =>
    have hl := h.liveIf hg
    dsimp only
    split
    · refine h.nextL ?_ gid sw
      exact hl
    · have hset : ∀ g', LiveIf q g' → Kept p q (s.setGrp gid g') := fun _ hg => h.setGrp hg gid
      split
      · refine (hset _ ?_).faultTeam ..
        exact hl
      · refine (hset _ ?_).freezeTeam ..
        exact hl
      · refine (hset _ ?_).askRead _
        exact hl
      · refine hset _ ?_
        exact hl

theorem holdL (h : Kept p q s) (hg : LiveIf q g) (gid : Nat) (x : Pending) : Kept p q (Machine.holdL s gid g x) := by
  refine h.ite (setGrp (s := { s with nextId := s.nextId + 1 }) h ?_ gid)
  exact hg

theorem execCst (h : Kept p q s) (m : Mods) (ty : Ty) (n : BitVec 4) (b : Uni) (c : BitVec 8) (off : BitVec 32) :
    KeptOut p q (Machine.execCst m ty n b c off s) := by
  refine h.word fun gid g hg => h.posAccess hg gid m _ n b off fun x => h.ite ?_
  exact ((((h.posRun gid g .write x).countRun gid g .write x.footPos _).holdL hg gid _).sendReqs gid true _).endRun
      gid _ m.sw false

theorem execXlde (h : Kept p q s) (m : Mods) (ty : Ty) (d : BitVec 8) (n : BitVec 4) (b : Uni) (off : BitVec 32) :
    KeptOut p q (Machine.execXlde m ty d n b off s) := by
  refine h.word fun gid g hg => h.posAccess hg gid m _ n b off fun x => h.ite ?_
  have hf := h.reserveFoot (coreOf gid) (aspOf s g) x.footPos
  refine hf.ite ?_
  generalize Machine.reserveFoot s (coreOf gid) (aspOf s g) x.footPos = s1 at hf
  have hp := hf.posRun gid g .read x
  split
  next s2 r heq =>
  rw [heq] at hp
  extract_lets s3 lanes ws _ x1 s4 t _ g1
  have hs : Kept p q s4 := ((hp.countRun gid g .read x.footPos r).fillLines (coreOf gid) r.ps).resolveElts _ _
  have hg1 : LiveIf q g1 := hg
  clear_value g1 s4
  split
  · next e es _ =>
    extract_lets j low s5
    have hs5 : Kept p q s5 := hs.holdL hg1 gid _
    clear_value s5 j
    split
    · next g2 hg2 =>
      have hl := hs5.liveIf hg2
      extract_lets _ g3
      have hg3 : LiveIf q g3 := hl
      exact (hs5.setGrp hg3 gid).integrity hg3 gid true _ _ _ true
    · exact hs5
  · exact ((hs.askElts _ _ _).holdL hg1 gid _).endRun gid r _ _

theorem execLfence (h : Kept p q s) (nf sw : Bool) (ord : FOrd) (sc : Scope) :
    KeptOut p q (Machine.execLfence nf sw ord sc s) := by
  refine h.word fun gid g hg => (h.fenced gid ord).nextL ?_ gid sw
  exact hg

theorem dropL1 (h : Kept p q s) (core : Nat) (lines : List Nat) : Kept p q (Machine.dropL1 s core lines) := h

theorem issueAtomic (h : Kept p q s) (hg : LiveIf q g) (gid : Nat) (m : Mods) (ty : Ty) (op : AtomOp) (ord : AOrd)
    (c : BitVec 8) (ws : List PWrite) (eff : Mask) (ps : List (Nat × Nat × TlbEntry)) :
    Kept p q (Machine.issueAtomic s gid g m ty op ord c ws eff ps) := by
  have hr : Kept p q (if (ordRel ord).isSome then Machine.released s gid else s) := ite (h.released gid) h
  refine dropL1 (sendReqs (nextL ?_ ?_ gid _) gid true _) _ _
  · exact hr
  · exact hg

theorem atomGo (h : Kept p q s) (hg : LiveIf q g) (op : AtomOp) (m : Mods) (ty : Ty) (ord : AOrd) (d : BitVec 8)
    (n : BitVec 4) (b : OpC) (c : BitVec 8) (off : BitVec 32) (gid : Nat) :
    Kept p q (Machine.atomGo op m ty ord d n b c off gid g s) := by
  refine h.laneAccess hg gid m _ n b off fun x => h.ite (ite (h.nextL hg gid m.sw) ?_)
  exact h.translated gid g .write _ fun s ps hs => (hs.countAccess _ _ _ _ _).issueAtomic hg gid m ty op ord c _ _ ps

/-! ## Matrix words (Matrix) -/

theorem matrixRole (h : Kept p q s) (hg : LiveIf q g) (gid : Nat) {k : Team → State} (hk : ∀ t, Kept p q (k t)) :
    Kept p q (Machine.matrixRole s gid g k) := ite (h.raiseL hg gid _ _) (h.inTeam hg gid true fun _ t => hk t)

theorem tileQuota (h : Kept p q s) (hg : LiveIf q g) (gid : Nat) (regs : List Nat) (tile : Nat) {k : State}
    (hk : Kept p q k) : Kept p q (Machine.tileQuota s gid g regs tile k) :=
  h.inQuota hg gid regs (ite (h.raiseL hg gid _ _) hk)

theorem allLanes (h : Kept p q s) (hg : LiveIf q g) (gid : Nat) {k : State} (hk : Kept p q k) :
    Kept p q (Machine.allLanes s gid g k) := hk.ite (h.raiseL hg gid _ _)

theorem untouched (h : Kept p q s) (hg : LiveIf q g) (gid tile : Nat) {k : State} (hk : Kept p q k) :
    Kept p q (Machine.untouched s gid g tile k) := ite (h.raiseL hg gid _ _) hk

theorem addStat (h : Kept p q s) (lid tid c n : Nat) : Kept p q (Machine.addStat s lid tid c n) := by
  refine h.ite ?_
  exact h

theorem addStats (h : Kept p q s) (lid tid : Nat) (x : Stat) : Kept p q (Machine.addStats s lid tid x) :=
  ((h.addStat lid tid 0 _).addStat lid tid 1 _).addStat lid tid 2 _

theorem execMbegin (h : Kept p q s) (nf sw : Bool) : KeptOut p q (Machine.execMbegin nf sw s) := by
  refine h.word fun gid g hg => ite (h.raiseL hg gid _ _) (h.allLanes hg gid ?_)
  refine ite (h.raiseL hg gid _ _) (ite (h.raiseL hg gid _ _) (h.nextL ?_ gid sw))
  exact hg

theorem execMzero (h : Kept p q s) (nf sw : Bool) (d : BitVec 8) : KeptOut p q (Machine.execMzero nf sw d s) :=
  h.word fun gid _ hg => h.matrixRole hg gid fun _ => h.tileQuota hg gid _ _
    (h.allLanes hg gid (h.untouched hg gid _ (h.issueL hg gid _ sw)))

theorem spadBound (h : Kept p q s) (hg : LiveIf q g) (gid : Nat) (x : Int) (align len : Nat) {k : Nat → State}
    (hk : ∀ x, Kept p q (k x)) : Kept p q (Machine.spadBound s gid g x align len k) :=
  ite (h.raiseL hg gid _ _) (ite (h.raiseL hg gid _ _) (hk _))

theorem issueMat (h : Kept p q s) (hg : LiveIf q g) (gid : Nat) (kind : PKind) (ws : List PWrite) (rest : List Mask)
    (sw : Bool) : Kept p q (Machine.issueMat s gid g kind ws rest sw) := by
  refine h.ite (nextL ?_ ?_ gid sw)
  · exact h.afterRead gid g _ _
  · exact hg

theorem execMldf (h : Kept p q s) (nf sw fragB : Bool) (d : BitVec 8) (addr : Uni) (off : BitVec 32) :
    KeptOut p q (Machine.execMldf nf sw fragB d addr off s) :=
  h.word fun gid _ hg => h.matrixRole hg gid fun _ => h.inQuota hg gid _ (h.allLanes hg gid
    (h.spadBound hg gid _ _ _ fun _ => h.ite (h.issueMat hg gid _ _ _ sw)))

theorem execMaccld (h : Kept p q s) (nf sw : Bool) (d : BitVec 8) (addr : Uni) (off : BitVec 32) :
    KeptOut p q (Machine.execMaccld nf sw d addr off s) :=
  h.word fun gid _ hg => h.matrixRole hg gid fun _ => h.tileQuota hg gid _ _ (h.allLanes hg gid (h.untouched hg gid _
    (h.spadBound hg gid _ _ _ fun _ => h.ite (h.issueMat hg gid _ _ _ sw))))

theorem execMaccst (h : Kept p q s) (nf sw : Bool) (a : BitVec 8) (addr : Uni) (off : BitVec 32) :
    KeptOut p q (Machine.execMaccst nf sw a addr off s) :=
  h.word fun gid _ hg => h.matrixRole hg gid fun t => h.tileQuota hg gid _ _ (h.allLanes hg gid (h.untouched hg gid _
    (h.spadBound hg gid _ _ _ fun _ => h.ite ((h.nextL hg gid sw).spadStore gid _ t _))))

theorem execMma (h : Kept p q s) (nf sw : Bool) (ty : Ty) (rm : Rm) (d a b : BitVec 8) :
    KeptOut p q (Machine.execMma nf sw ty rm d a b s) := by
  refine h.word fun gid g hg => h.matrixRole hg gid fun t => h.tileQuota hg gid _ _
    (ite (h.raiseL hg gid _ _) (h.allLanes hg gid ?_))
  split
  · exact h.raiseL hg gid _ _
  · refine (h.nextL ?_ gid sw).addStats _ _ _
    exact hg

theorem execMend (h : Kept p q s) (nf sw : Bool) : KeptOut p q (Machine.execMend nf sw s) := by
  refine h.word fun gid g hg => ite (h.raiseL hg gid _ _) (h.allLanes hg gid ?_)
  split
  · exact h.raiseL hg gid _ _
  · refine h.ite ((h.issueL ?_ gid _ sw).addStats _ _ _)
    exact hg

end Kept
end
end Machine

end Sys2Proof
end

section
/-!
PROOFS. KeptEngines: engines, graphs, traversals and the saving of teams keep them.
-/
namespace Sys2Proof

namespace Machine

open Safety

section
variable {p q : Prop} {s : State} {g : Group}

theorem LiveIf.startGroup (s : State) (l : Launch) (lid tid gidx row0 : Nat) :
    LiveIf q (Machine.startGroup s l lid tid gidx row0).1 := LiveIf.of_and _ (BitVec.and_self (x := lowMask _)).symm

namespace Kept

/-! ## The start of groups (Start) -/

theorem startGroup (h : Kept p q s) (l : Launch) (lid tid gidx row0 : Nat) :
    Kept p q (Machine.startGroup s l lid tid gidx row0).2 := h

/-! ## Copy commands (Copy) -/

theorem setCopy (h : Kept p q s) (id : Nat) (c : Copy) : Kept p q (s.setCopy id c) := h

theorem queueSlice (h : Kept p q s) (gid : Nat) (g : Group) (k : Nat) (t : Team) (addr i n : Nat) (mask : W32)
    (block : BitVec 512) : Kept p q (Machine.queueSlice s gid g k t addr i n mask block) := by
  unfold Machine.queueSlice
  dsimp only
  refine updGrp ?_ (fun g hg => ?_) gid
  · split <;> exact h
  · exact hg

theorem readBlock (h : Kept p q s) (hg : LiveIf q g) (gid : Nat) (lane : Bool) (addr : Nat)
    {k : State → BitVec 512 → State} (hk : ∀ s b, Kept p q s → Kept p q (k s b)) :
    Kept p q (Machine.readBlock s gid g lane addr k) := by
  refine h.translated gid g .read _ fun s ps hs => ?_
  have hr := hs.foldl (f := fun s (x : Nat × Nat × TlbEntry) => Machine.resolve s (x.2.1 / 128)) ps fun _ _ ht =>
      ht.resolve _
  dsimp only
  split
  · exact ite (hr.askFill _ _) (hr.askRead _)
  · split
    · exact hr.integrity hg gid lane _ _ _ false
    · exact hk _ _ (hr.setGrp (hg.setStr lane _) gid)

theorem execTcopy (h : Kept p q s) (a b : BitVec 6) (i nm1 : BitVec 5) (sw : Bool) :
    KeptOut p q (Machine.execTcopy a b i nm1 sw s) := by
  refine h.word fun gid g hg => ite (h.raiseS hg gid _ _) (h.inTeam hg gid false fun k t => ?_)
  refine ite (h.raiseS hg gid _ _) (ite (h.raiseS hg gid _ _) (ite (h.raiseS hg gid _ _) (ite (h.raiseS hg gid _ _)
    (h.ite (h.readBlock hg gid false _ fun s b hs => ?_)))))
  split
  · next g1 hg1 => exact (hs.nextS (hs.liveIf hg1) gid sw).queueSlice gid _ k t _ _ _ _ _
  · exact hs

theorem setWord (h : Kept p q s) (store w : Nat) (v : W32) : Kept p q (Machine.setWord s store w v) :=
  ite (h.setRf fun hp => Store.wf_putD (h.rf hp) w v) (h.setAcc fun hp => Store.wf_putD (h.acc hp) w v)

theorem putWord (h : Kept p q s) (src store w : Nat) (new mask : W32) : Kept p q (Machine.putWord s src store w new
    mask) :=
  h.ite ((h.setWord store w _).noteWord _ _ _ _ _ _)

theorem wordsPut (h : Kept p q s) (src store : Nat) (xs : List (Nat × Byte)) : Kept p q (Machine.wordsPut s src store
    xs) :=
  h.foldl _ fun _ w hs => hs.putWord src store w _ _

theorem putWords (h : Kept p q s) (src store : Nat) (ws : List (Nat × W32)) : Kept p q (Machine.putWords s src store
    ws) := by
  refine ite ?_ (h.foldl ws fun _ w hs => hs.putWord src store w.1 w.2 _)
  exact h.foldl (f := fun s w => Machine.setWord s store w.1 w.2) ws fun _ w hs => hs.setWord store w.1 w.2

theorem winShadow (h : Kept p q s) (o n : Nat) : Kept p q (Machine.winShadow s o n) := by
  refine h.ite (h.mapGrp (fun e => ?_) fun e he => ?_)
  · split <;> rfl
  · dsimp only
    split
    · intro hq
      exact he hq
    · exact he

theorem winWrite (h : Kept p q s) (src o : Nat) (bs : List Byte) : Kept p q (Machine.winWrite s src o bs) :=
  (((h.wordsPut src stRf _).spadPutAt src _).wordsPut src stAcc _).winShadow _ _

theorem readSector (h : Kept p q s) (id die asp : Nat) (d : KDesc) (t : Team) (c : Copy) (a : Nat) :
    Kept p q (Machine.readSector s id die asp d t c a).1 := by
  have hs := h.keepTr die asp a
  unfold Machine.readSector
  dsimp only
  split
  · exact h
  · split
    · exact ite (hs.resolve _) hs
    · exact hs
    · exact hs

theorem readSectors (id die asp : Nat) (d : KDesc) (t : Team) (as : List Nat) {s : State} (h : Kept p q s) (c : Copy) :
    Kept p q (Machine.readSectors id die asp d t s c as).1 := by
  induction as generalizing s c with
  | nil => exact h
  | cons a as ih =>
    have hr := h.readSector id die asp d t c a
    unfold Machine.readSectors
    split
    next heq => exact ih (hr.of_fst heq) _
    next heq => exact hr.of_fst heq
    next heq => exact (hr.of_fst heq).askRead _
    next heq => exact hr.of_fst heq
    next heq => exact hr.of_fst heq

theorem sectorWrite (h : Kept p q s) (id : Nat) (d : KDesc) (t : Team) (c : Copy) (ps : List Part32) :
    Kept p q (Machine.sectorWrite s id d t c ps).1 := by
  unfold Machine.sectorWrite
  dsimp only
  split
  · exact h
  · split
    · split
      · exact h
      · split
        · exact h
        · exact h.writePieces _
    · refine (h.foldl _ fun s y hs => ?_).addStats _ _ _
      exact ite (hs.spadPutAt _ _) (ite (hs.spadPut _ _ _ _ _) (hs.winWrite _ _ _))

theorem sectorStep (h : Kept p q s) (id die asp : Nat) (d : KDesc) (t : Team) (c : Copy) (ps : List Part32) :
    Kept p q (Machine.sectorStep s id die asp d t c ps).1 := by
  unfold Machine.sectorStep
  split
  · exact h
  · have hr := fun as => readSectors id die asp d t as h c
    split
    next heq => exact ((hr _).of_fst heq).sectorWrite id d t _ ps
    next => exact hr _

theorem readAhead (h : Kept p q s) (id die asp : Nat) (d : KDesc) (t : Team) (c : Copy) (i j : Nat) :
    Kept p q (Machine.readAhead s id die asp d t c i j).1 := by
  unfold Machine.readAhead
  split
  · exact h
  · split
    · exact h
    · refine foldl_fst _ (fun r a hr => ?_) h
      have hs := readSectors id die asp d t [a] hr r.2
      split
      · exact hr
      · split
        next heq => exact hs.of_fst heq
        next => exact hr

theorem runParts (id die asp : Nat) (d : KDesc) (t : Team) (i : Nat) (ps : List (List Part32)) {s : State}
    (h : Kept p q s) (c : Copy) : Kept p q (Machine.runParts id die asp d t i s c ps).1 := by
  induction ps generalizing s c with
  | nil => exact h
  | cons x ps ih =>
    have hr := h.sectorStep id die asp d t c x
    unfold Machine.runParts
    split
    next heq => exact ih (hr.of_fst heq) _
    next => exact hr

theorem runSlices (id die asp : Nat) (d : KDesc) (t : Team) (prog is : List Nat) {s : State} (h : Kept p q s) (c : Copy) :
    Kept p q (Machine.runSlices id die asp d t prog s c is).1 := by
  induction is generalizing s c with
  | nil => exact h
  | cons i is ih =>
    have hr := fun ps => runParts id die asp d t i ps h c
    unfold Machine.runSlices
    dsimp only
    split
    next heq => exact ih ((hr _).of_fst heq) _
    next => exact hr _

theorem stopCopy (h : Kept p q s) (id : Nat) (c : Copy) (kind va : Nat) : Kept p q (Machine.stopCopy s id c kind va)
    := by
  refine (setCopy (dropWriter ?_ _) id _).faultCmd ..
  exact h

theorem freezeCopy (h : Kept p q s) (id : Nat) (c : Copy) (viol pa : Nat) :
    Kept p q (Machine.freezeCopy s id c viol pa) := h

theorem placeStamp (h : Kept p q s) (id : Nat) (c : Copy) (die asp : Nat) {k : State → Copy → State}
    (hk : ∀ s c, Kept p q s → Kept p q (k s c)) : Kept p q (Machine.placeStamp s id c die asp k) := by
  have hs := h.keepTr die asp c.stampa
  unfold Machine.placeStamp
  dsimp only
  split
  · exact hk _ _ h
  · split
    · exact hk _ _ hs
    · exact ite (hk _ _ hs) (hs.stopCopy _ _ _ _)
    · exact hs.askRead _
    · exact ite (hk _ _ hs) (hs.freezeCopy _ _ _ _)

theorem placeLines (h : Kept p q s) (id : Nat) (c : Copy) (die asp : Nat) {k : State → Copy → State}
    (hk : ∀ s c, Kept p q s → Kept p q (k s c)) : Kept p q (Machine.placeLines s id c die asp k) := by
  have hs := fun vas => h.keepTrs die asp vas
  unfold Machine.placeLines
  dsimp only
  split
  · exact hk _ _ h
  · split
    · exact (hs _).stopCopy _ _ _ _
    · exact (hs _).askRead _
    · exact (hs _).freezeCopy _ _ _ _
    · exact hk _ _ (hs _)

theorem readyCopy (h : Kept p q s) (id : Nat) (c : Copy) {k : State → Copy → KDesc → Team → State}
    (hk : ∀ s c d t, Kept p q s → Kept p q (k s c d t)) : Kept p q (Machine.readyCopy s id c k) := by
  unfold Machine.readyCopy
  split
  · refine h.placeStamp id _ _ _ fun s c hs => hs.placeLines id c _ _ fun s c hs => ?_
    have hc := hs.setCopy id c
    exact (hk _ _ _ _ hc).ite hc
  · exact h

theorem withCopy (h : Kept p q s) (id : Nat) {k : State → Copy → KDesc → Team → State}
    (hk : ∀ s c d t, Kept p q s → Kept p q (k s c d t)) : Kept p q (Machine.withCopy s id k) := by
  unfold Machine.withCopy
  split
  · exact h
  · exact h.ite (h.readyCopy id _ hk)

theorem ownLine (h : Kept p q s) (id : Nat) (c : Copy) : Kept p q (Machine.ownLine s id c) := by
  unfold Machine.ownLine
  split
  · exact h
  · next l rest _ =>
    have hs := h.resolve l
    exact ite ((hs.arriveAt l id).askWrite l) ((ite (hs.putEly l 5) hs).setCopy id _)

theorem commitReplicas (h : Kept p q s) (line : Nat) (repl : BitVec 8) : Kept p q (Machine.commitReplicas s line repl)
    := by
  refine h.foldl _ fun s l hs => ?_
  have hw := hs.writeMem (128 * l) (memBytes s (128 * line) 128)
  exact hw.setChk fun hp => Store.wf_foldl_putD (hw.chk hp) (List.range 4) (fun i => 4 * l + i) _

theorem dropLine (h : Kept p q s) (id : Nat) (c : Copy) (line : Nat) : Kept p q (Machine.dropLine s id c line).1 := by
  have hl := fun w ls => lockLines w ls h
  unfold Machine.dropLine
  dsimp only
  split
  next heq => exact (hl _ _).of_fst heq
  next heq =>
    have hs := (hl _ _).of_fst heq
    split
    · exact hs
    · have hu := (commitReplicas hs line (c.replOf line)).unlock (Writer.cmd id).id
        ((replicaLines line (c.replOf line)).filter fun l => l != line)
      exact setCopy (ite (hu.putEly line 0) hu) id _

theorem dropLines (id : Nat) (ls : List Nat) {s : State} (h : Kept p q s) (c : Copy) :
    Kept p q (Machine.dropLines id ls s c).1 := by
  induction ls generalizing s c with
  | nil => exact h
  | cons l ls ih =>
    have hr := h.dropLine id c l
    unfold Machine.dropLines
    split
    next heq => exact ih (hr.of_fst heq) _
    next => exact hr

theorem ringWrite (h : Kept p q s) (d : KDesc) (t : Team) (x : Nat) (w : W32) : Kept p q (Machine.ringWrite s d t x w)
    := by
  unfold Machine.ringWrite
  split
  · exact h.homeWrite _ _
  · exact h.spadWrite _ _ _ _

theorem countCopies (h : Kept p q s) (gidx k : Nat) : Kept p q (Machine.countCopies s gidx k) := by
  refine h.mapTeamGroups k fun g hg => ?_
  refine LiveIf.ite ?_ hg
  exact hg

theorem topShadows (h : Kept p q s) (c : Copy) : Kept p q (c.topShadows s) :=
  h.ite (h.foldl _ fun _ _ hs => hs.foldl _ fun _ ps hs => hs.foldl ps fun _ _ hs => hs.winShadow _ _)

theorem closeCopy (h : Kept p q s) (id : Nat) (c : Copy) (d : KDesc) (t : Team) (status : Nat) :
    Kept p q (Machine.closeCopy s id c d t status) := by
  have ht : Kept p q (c.topShadows (dropOlds s id)) := by
    refine topShadows ?_ c
    exact h
  unfold Machine.closeCopy
  extract_lets k s1 s2 s3
  have h2 : Kept p q s2 := by
    refine ite ?_ ht
    split
    · exact (ht.ringWrite _ _ _ _).updTeam _ _
    · exact ht
  refine reap (foldl ?_ _ fun _ x hs => hs.countCopies x.gidx k) k
  exact h2

theorem finishCopy (h : Kept p q s) (id : Nat) (c : Copy) (d : KDesc) (t : Team) :
    Kept p q (Machine.finishCopy s id c d t) := by
  have hd := dropLines id c.held (h.setCopy id c) { c with want := [] }
  unfold Machine.finishCopy
  dsimp only
  split
  next heq => exact (hd.of_fst heq).setCopy id _
  next heq =>
    have he := fun ps => engAll (.cmd id) ps (hd.of_fst heq)
    split
    next heq => exact (he _).of_fst heq
    next heq =>
      exact ((((he _).of_fst heq).dropWriter (.cmd id)).foldl _ fun _ x hs => hs.engPut x _).closeCopy id _ d t _

theorem prefetch (h : Kept p q s) (c : Copy) (die asp : Nat) : Kept p q (Machine.prefetch s c die asp) := by
  refine h.foldl _ fun s l hs => ?_
  split
  · exact ite (hs.askRead _) hs
  · exact hs

theorem copyStep (h : Kept p q s) (id : Nat) (prog : List Nat) : Kept p q (Machine.copyStep s id prog) := by
  refine h.withCopy id fun s c d t hs => ?_
  extract_lets die asp s1
  have hk : Kept p q s1 := hs.keepTrs _ _ _
  refine ite (hs.finishCopy id c d t) (ite ((hk.prefetch c die asp).finishCopy id c d t) ?_)
  have hr : Kept p q ((prog.drop c.n).foldl (fun (r : State × Copy) e =>
      Machine.readAhead r.1 id die asp d t r.2 (e % 32) (e / 32)) (s1, c)).1 :=
    foldl_fst _ (fun r e hr => hr.readAhead id die asp d t r.2 _ _) hk
  split
  next c2 heq =>
  have hrun := runSlices id die asp d t (prog.take c2.n) (List.range c2.n) (hr.of_fst heq) c2
  split
  next heq => exact (hrun.of_fst heq).setCopy id _
  next heq => exact (hrun.of_fst heq).setCopy id _
  next heq => exact ite ((hrun.of_fst heq).freezeCopy _ _ _ _) ((hrun.of_fst heq).finishCopy _ _ _ _)
  next heq => exact (hrun.of_fst heq).stopCopy _ _ _ _
  next heq => exact (hrun.of_fst heq).freezeCopy _ _ _ _

theorem endPrefetch (h : Kept p q s) (id : Nat) : Kept p q (Machine.endPrefetch s id) := by
  unfold Machine.endPrefetch
  split
  · exact h.readyCopy id _ fun _ _ _ _ hs => hs.finishCopy id _ _ _
  · exact h

theorem execEngineLineRelease (h : Kept p q s) (cmd line : Nat) :
    KeptOut p q (Machine.execEngineLineRelease cmd line s) :=
  done (h.withCopy cmd fun _ c _ _ hs => (hs.dropLine cmd c line).ite hs)

end Kept
end
end Machine

namespace Machine

open Safety

section
variable {p q : Prop} {s : State} {g : Group}

namespace Kept

/-! ## Attention commands (Attention) -/

theorem attnTiles (h : Kept p q s) (hg : LiveIf q g) (gid : Nat) (c : Attn) {k : State} (hk : Kept p q k) :
    Kept p q (Machine.attnTiles s gid g c k) := by
  refine hk.ite ?_
  split
  · exact h.raiseS hg gid _ _
  · exact ite (h.raiseS hg gid _ _) (ite (h.raiseS hg gid _ _) (ite (h.raiseS hg gid _ _) hk))

theorem execAttn (h : Kept p q s) (a b : BitVec 6) (ctl : BitVec 5) (sw : Bool) :
    KeptOut p q (Machine.execAttn a b ctl sw s) := by
  refine h.word fun gid g hg => ite (h.raiseS hg gid _ _) (h.inTeam hg gid false fun _ _ => ite (h.raiseS hg gid _ _)
    (ite (h.raiseS hg gid _ _) (ite (h.raiseS hg gid _ _) (h.ite (h.readBlock hg gid false _ fun s b hs => ?_)))))
  split
  · exact hs
  · next g1 hg1 =>
    refine hs.attnTiles (hs.liveIf hg1) gid _ (nextS ?_ (hs.liveIf hg1) gid sw)
    exact hs

theorem writeOut (h : Kept p q s) (id : Nat) (c : Attn) (t : Team) (w : Nat) (a : AttnAcc) :
    Kept p q (Machine.writeOut s id c t w a) := h.putWords _ _ _

theorem writeTiles (h : Kept p q s) (id : Nat) (c : Attn) (t : Team) (w : Nat) (a : AttnAcc) :
    Kept p q (Machine.writeTiles s id c t w a) := h.putWords _ _ _

theorem take (h : Kept p q s) (die asp : Nat) (c : Attn) (what j va n : Nat) :
    Kept p q (Attn.take s die asp c what j va n).1 := by
  have hs := h.keepRange die asp va n
  unfold Attn.take
  dsimp only
  split
  · exact h
  · split
    · exact h
    · split
      · exact hs
      · exact hs

theorem takeRow (h : Kept p q s) (die asp : Nat) (c : Attn) (j va : Nat) :
    Kept p q (Attn.takeRow s die asp c j va).1 := by
  refine foldl_fst _ (fun r i hr => ?_) h
  split
  · exact hr.take ..
  · exact hr
  · exact hr.take ..

theorem rowsSee (h : Kept p q s) (c : Attn) (die asp m j : Nat) : Kept p q (c.rowsSee s die asp m j).1 := by
  refine foldl_fst _ (fun r i hr => ?_) h
  split
  next s1 c1 vis =>
    split
    · exact hr
    · split
      · exact hr
      · have ht := take (s := s1) hr die asp c1 rdMask j (c1.mask + i * c1.mstride + j / 8) 1
        split
        next heq => exact ht.of_fst heq
        next heq => exact ht.of_fst heq
        next heq => exact ht.of_fst heq
  next => exact hr

theorem readSlot (h : Kept p q s) (c : Attn) (die asp : Nat) (rec : BitVec 256) (j slot : Nat) :
    Kept p q (c.readSlot s die asp rec j slot).1 := by
  have h1 := h.take die asp c rdGen1 j (mapBase rec 2 + 4 * slot) 4
  unfold Attn.readSlot
  split
  next heq => exact h1.of_fst heq
  next s1 c1 _ heq =>
    have hk := (h1.of_fst heq).takeRow die asp c1 j (mapBase rec 0 + 128 * slot)
    have hv := hk.takeRow die asp (Attn.takeRow s1 die asp c1 j (mapBase rec 0 + 128 * slot)).2.1 j
      (mapBase rec 1 + 128 * slot)
    dsimp only
    split
    next c2 _ _ heq _ =>
      have h2 := (hv.of_fst heq).take die asp c2 rdGen2 j (mapBase rec 2 + 4 * slot) 4
      split
      next heq => exact h2.of_fst heq
      next heq => exact h2.of_fst heq
      next heq => exact h2.of_fst heq
    next heq _ => exact hv.of_fst heq
    next heq _ _ => exact hv.of_fst heq
    next heq _ => exact hv.of_fst heq
    next heq _ => exact hv.of_fst heq
    next heq _ => exact hv.of_fst heq
  next heq => exact h1.of_fst heq

theorem readKey (die asp m : Nat) (rec : BitVec 256) (e : State × Attn × BRead) (j : Nat) (h : Kept p q e.1) :
    Kept p q (Machine.readKey die asp m rec e j).1 := by
  unfold Machine.readKey
  split
  · exact h
  · have hr := h.rowsSee e.2.1 die asp m j
    split
    next heq => exact hr.of_fst heq
    next heq => exact hr.of_fst heq
    next c1 _ heq =>
      have hs := (hr.of_fst heq)
      split
      · exact hs
      · have hsl := hs.readSlot c1 die asp rec j (slotOf rec (c1.p0.toNat + j)).1
        dsimp only
        split
        next heq => exact hsl.of_fst heq
        next heq => exact hsl.of_fst heq
        next heq =>
          split
          · exact hsl.of_fst heq
          · exact hsl.of_fst heq

theorem setAttn (h : Kept p q s) (id : Nat) (c : Attn) : Kept p q (s.setAttn id c) := h

theorem dropOlds (h : Kept p q s) (id : Nat) : Kept p q (Machine.dropOlds s id) := h

theorem stopAttn (h : Kept p q s) (id : Nat) (c : Attn) (kind va : Nat) : Kept p q (Machine.stopAttn s id c kind va) :=
  ((dropWriter (h.dropOlds id) (.cmd id)).setAttn id _).faultCmd ..

theorem freezeAttn (h : Kept p q s) (id : Nat) (c : Attn) (viol pa : Nat) :
    Kept p q (Machine.freezeAttn s id c viol pa) := h

theorem attnStop (h : Kept p q s) (id : Nat) (c : Attn) (r : ERead) : Kept p q (Machine.attnStop s id c r) := by
  unfold Machine.attnStop
  split
  · exact h.stopAttn id c _ _
  · exact (h.setAttn id c).askRead _
  · exact h.freezeAttn id c _ _
  · exact ite (h.freezeAttn id c _ _) (h.setAttn id _)
  · exact h

theorem attnPlace (h : Kept p q s) (id : Nat) (c : Attn) (asp va : Nat) {k : State → Option Place → State}
    (hk : ∀ s x, Kept p q s → Kept p q (k s x)) : Kept p q (Machine.attnPlace s id c asp va k) := by
  have hs := h.keepTr (dieOf c.core) asp va
  unfold Machine.attnPlace
  dsimp only
  split
  · exact hk _ _ hs
  · exact hs.askRead _
  · exact ite (hk _ _ hs) (hs.stopAttn id c _ _)
  · exact ite (hk _ _ hs) (hs.freezeAttn id c _ _)

theorem attnStamp (h : Kept p q s) (id : Nat) (c : Attn) (asp : Nat) {k : State → Attn → State}
    (hk : ∀ s c, Kept p q s → Kept p q (k s c)) : Kept p q (Machine.attnStamp s id c asp k) :=
  ite (hk _ _ h) (ite (hk _ _ h) (h.attnPlace id c asp _ fun _ _ hs => hk _ _ hs))

theorem attnMap (h : Kept p q s) (id : Nat) (c : Attn) (asp : Nat) {k : State → Attn → State}
    (hk : ∀ s c, Kept p q s → Kept p q (k s c)) : Kept p q (Machine.attnMap s id c asp k) :=
  ite (hk _ _ h) (h.attnPlace id c asp _ fun _ _ hs => hk _ _ hs)

theorem cacheMap (h : Kept p q s) (die pa : Nat) (m : BitVec 256) : Kept p q (Machine.cacheMap s die pa m) := by
  unfold Machine.cacheMap
  extract_lets key mine s1
  have hs : Kept p q s1 := by
    clear_value mine
    cases mine with
    | nil => exact h
    | cons e es =>
      refine ite ?_ h
      exact h
  exact hs

theorem withAttn (h : Kept p q s) (id : Nat) (started : Bool) {k : Attn → Launch → Team → State}
    (hk : ∀ c l t, Kept p q (k c l t)) : Kept p q (Machine.withAttn s id started k) := by
  unfold Machine.withAttn
  split
  · exact h
  · refine h.ite ?_
    split
    · exact hk _ _ _
    · exact h

theorem readRecord (h : Kept p q s) (id : Nat) (c : Attn) (l : Launch) (pa : Nat) (cached : Bool)
    {k : State → Attn → State} (hk : ∀ s c, Kept p q s → Kept p q (k s c)) :
    Kept p q (Machine.readRecord s id c l pa cached k) := by
  have hs := h.keepRange (dieOf c.core) l.asp c.map_ 64
  unfold Machine.readRecord
  dsimp only
  split
  · exact hk _ _ h
  · split
    · exact hk _ _ (hs.cacheMap _ _ _)
    · exact hs.attnStop id c _

theorem attnStart (h : Kept p q s) (id : Nat) (cached : Bool) : Kept p q (Machine.attnStart s id cached) := by
  refine h.withAttn id false fun c l t => ?_
  refine h.attnStamp id _ _ fun s c hs => hs.attnMap id c _ fun s c hs => ?_
  refine ite (hs.setAttn id _) ?_
  split
  · exact hs.readRecord id c l _ cached fun s c hs => hs.setAttn id _
  · exact ite (writeTiles (hs.setAttn id _) id c t _ _) (hs.setAttn id _)

theorem attnKeys (h : Kept p q s) (id : Nat) : Kept p q (Machine.attnKeys s id) := by
  refine h.withAttn id true fun c l t => ?_
  split
  next rec a _ _ =>
    refine h.ite ?_
    have hr := foldl_fst (f := Machine.readKey (dieOf c.core) l.asp (mRows l.desc.width) rec) (c.blockKeys c.next)
      (fun r j hr => readKey _ _ _ _ r j hr) (r := (s, c, .ok [] 0 0 false)) h
    dsimp only
    split
    next heq => exact (hr.of_fst heq).attnStop id _ _
    next heq => exact (hr.of_fst heq).setAttn id _
    next heq => exact ((hr.of_fst heq).writeTiles id _ t _ _).setAttn id _
  next => exact h

theorem closeAttn (h : Kept p q s) (id : Nat) (c : Attn) : Kept p q (Machine.closeAttn s id c) := by
  refine reap (mapTeamGroups ?_ _ fun g hg => LiveIf.ite ?_ hg) _
  · exact h
  · exact hg

theorem attnFinish (h : Kept p q s) (id : Nat) (c : Attn) (t : Team) (w : Nat) :
    Kept p q (Machine.attnFinish s id c t w) := by
  unfold Machine.attnFinish
  split
  · exact h.setAttn id _
  · exact ((h.writeOut id c t w _).addStats _ _ _).setAttn id _

theorem attnStats (h : Kept p q s) (c : Attn) : Kept p q (Machine.attnStats s c) := by
  unfold Machine.attnStats
  split
  · exact h
  · have hs := h.addStats c.lid c.tensor
    exact ite (hs _) ((hs _).addStats _ _ _)

theorem attnEnd (h : Kept p q s) (id : Nat) : Kept p q (Machine.attnEnd s id) := by
  refine h.withAttn id true fun c l t => h.ite (ite (h.attnFinish id c t _) ?_)
  extract_lets stamp counts slot
  have he := engAll (.cmd id) (counts ++ stamp ++ slot) h
  split
  next heq => exact he.of_fst heq
  next heq =>
    have hst := ((he.of_fst heq).dropWriter (.cmd id)).attnStats c
    exact ((hst.foldl counts fun _ x hs => hs.engPut x _).foldl stamp fun _ x hs => hs.engPut x _).closeAttn id c

/-! ## Bins (Bins) -/

theorem binPut (h : Kept p q s) (core lid : Nat) (entry : Va) (t : Thread) {s' : State}
    (e : Machine.binPut s core lid entry t = some s') : Kept p q s' := by
  unfold Machine.binPut at e
  dsimp only at e
  split at e
  · injection e with e
    rw [← e]
    exact h
  · obtain ⟨n, -, rfl⟩ := Option.map_eq_some_iff.1 e
    exact h

theorem sealBin (h : Kept p q s) (core num : Nat) : Kept p q (Machine.sealBin s core num) := h

end Kept

theorem LiveIf.spawnGroup (s : State) (l : Launch) (lid slot row0 : Nat) (entry : Va) (ts : List Thread) :
    LiveIf q (Machine.spawnGroup s l lid slot row0 entry ts).1 := LiveIf.of_and _ (BitVec.and_self (x := lowMask
        _)).symm

namespace Kept

theorem spawnGroup (h : Kept p q s) (l : Launch) (lid slot row0 : Nat) (entry : Va) (ts : List Thread) :
    Kept p q (Machine.spawnGroup s l lid slot row0 entry ts).2 := h

theorem threadRegs (h : Kept p q s) (gid : Nat) (g : Group) (ts : List Thread) :
    Kept p q (Machine.threadRegs s gid g ts) := by
  refine h.foldl _ fun s i hs => (hs.vPut gid g i _ _).updGrp (fun g hg => ?_) gid
  exact hg

theorem placeSpawned (h : Kept p q s) (core : Nat) (l : Launch) (lid slot gslot row0 : Nat) (entry : Va)
    (ts : List Thread) : Kept p q (Machine.placeSpawned s core l lid slot gslot row0 entry ts) :=
  ((h.spawnGroup l lid slot row0 entry ts).receive (.spawnGroup s l lid slot row0 entry ts) _ _ _).threadRegs _ _ ts

theorem launchBin (h : Kept p q s) (core : Nat) : Kept p q (Machine.launchBin s core) := by
  unfold Machine.launchBin
  split
  · exact h
  · split
    · exact h
    · refine placeSpawned ?_ ..
      exact h

end Kept
end
end Machine

namespace Machine

open Safety

section
variable {p q : Prop} {s : State} {g : Group}

/-- The state in which a node's line is looked up. -/
def NPlace.left : NPlace → State
  | .wait s => s
  | .no s => s
  | .at s _ => s

/-- The state in which the lines of a range are looked up. -/
def WidePlace.left : WidePlace → State
  | .wait s => s
  | .no s => s
  | .at s _ => s

namespace Kept

/-! ## Graphs (Graph) -/

theorem updGraph (h : Kept p q s) (id : Nat) (f : Graph → Graph) : Kept p q (s.updGraph id f) := h

theorem haltGraph (h : Kept p q s) (id : Nat) (gr : Graph) (n code detail lid : Nat) :
    Kept p q (Machine.haltGraph s id gr n code detail lid) := h.dropWriter (.graph id)

theorem nodePlace (h : Kept p q s) (gr : Graph) (n : Nat) : Kept p q (Machine.nodePlace s gr n).left := by
  have hs := h.keepTr gr.die gr.asp n
  unfold Machine.nodePlace
  dsimp only
  split
  · exact hs
  · exact hs.askRead _
  · exact hs

theorem atNode (h : Kept p q s) (gr : Graph) (n : Nat) {t : State} {x : NPlace} (e : Machine.nodePlace s gr n = x)
    (ht : x.left = t) : Kept p q t := by
  rw [← ht, ← e]
  exact h.nodePlace gr n

theorem failNodeAs (h : Kept p q s) (w : Writer) (id : Nat) (gr : Graph) (n code detail lid : Nat) {k : State → State}
    (hk : ∀ s, Kept p q s → Kept p q (k s)) : Kept p q (Machine.failNodeAs s w id gr n code detail lid k) := by
  unfold Machine.failNodeAs
  split
  next heq => exact h.atNode gr n heq rfl
  next heq => exact (hk _ (h.atNode gr n heq rfl)).haltGraph ..
  next heq =>
    have hw := fun ps => (h.atNode gr n heq rfl).engWrites w ps
    split
    next heq => exact (hk _ ((hw _).of_fst heq)).haltGraph ..
    next heq => exact (hw _).of_fst heq

theorem failNode (h : Kept p q s) (id : Nat) (gr : Graph) (n code detail lid : Nat) :
    Kept p q (Machine.failNode s id gr n code detail lid) := h.failNodeAs _ id gr n code detail lid fun _ hs => hs

theorem nodeWrites (h : Kept p q s) (w : Writer) (id : Nat) (gr : Graph) (n : Nat) (ws : List (Nat × List Byte))
    {k : State → State} (hk : ∀ s, Kept p q s → Kept p q (k s)) : Kept p q (Machine.nodeWrites s w id gr n ws k) := by
  unfold Machine.nodeWrites
  split
  next heq => exact h.atNode gr n heq rfl
  next heq => exact (h.atNode gr n heq rfl).haltGraph ..
  next heq =>
    have hw := fun ps => (h.atNode gr n heq rfl).engWrites w ps
    split
    next heq => exact hk _ ((hw _).of_fst heq)
    next heq => exact (hw _).of_fst heq

theorem walkerRead (h : Kept p q s) (id : Nat) (gr : Graph) (n va len : Nat) {k : State → List Byte → State}
    (hk : ∀ s bs, Kept p q s → Kept p q (k s bs)) : Kept p q (Machine.walkerRead s id gr n va len k) := by
  have hs := h.keepRange gr.die gr.asp va len
  unfold Machine.walkerRead
  dsimp only
  split
  · exact hk _ _ hs
  · exact hs.failNode ..
  · exact hs.askRead _
  · exact hs.failNode ..
  · exact hs.failNode ..

theorem didOp (h : Kept p q s) (id : Nat) (ops : List (Nat × Nat)) : Kept p q (Machine.didOp s id ops) := h

theorem readDesc (h : Kept p q s) (id : Nat) (gr : Graph) (n va : Nat) {k : State → List Byte → State}
    (hk : ∀ s bs, Kept p q s → Kept p q (k s bs)) : Kept p q (Machine.readDesc s id gr n va k) := by
  unfold Machine.readDesc
  extract_lets left now s1 rs parts s2
  have hs : Kept p q s2 := (h.keepRange gr.die gr.asp va 256).updGraph id _
  split
  · exact hs.failNode ..
  · exact hs.askRead _
  · exact hs.failNode ..
  · exact ite (hk _ _ hs) hs

theorem dispatch (h : Kept p q s) (id : Nat) (gr : Graph) (n : Nat) (x : NodeBits) :
    Kept p q (Machine.dispatch s id gr n x) := by
  refine h.readDesc id gr n _ fun s bs hs => ?_
  dsimp only
  split
  · exact hs.failNode ..
  · refine ite (hs.failNode ..) (ite (hs.failNode ..) (hs.nodeWrites _ id gr n _ fun s hs => ?_))
    exact hs

theorem dispatchOn (h : Kept p q s) (id n : Nat) : Kept p q (Machine.dispatchOn s id n) := by
  unfold Machine.dispatchOn
  split
  · exact h
  · exact h.dispatch id _ n _

theorem activate (h : Kept p q s) (id : Nat) (gr : Graph) (n : Nat) : Kept p q (Machine.activate s id gr n) := by
  refine h.walkerRead id gr n n 128 fun s bs hs => ?_
  dsimp only
  split
  · exact hs.failNode ..
  · split
    · exact ite (hs.failNode ..) (hs.nodeWrites _ id gr n _ fun s hs => ((hs.didOp id _).updGraph id _).dispatchOn id n)
    · exact ite (hs.nodeWrites _ id gr n _ fun s hs => hs.didOp id _) (hs.nodeWrites _ id gr n _ fun s hs => hs.didOp
        id _)
    · exact hs.updGraph id _
    · exact hs.walkerRead id gr n _ 4 fun s ws hs => hs.nodeWrites _ id gr n _ fun s hs => hs.didOp id _

theorem followNode (h : Kept p q s) (id : Nat) (gr : Graph) (n : Nat) (again : Bool) :
    Kept p q (Machine.followNode s id gr n again) := by
  refine h.walkerRead id gr n n 128 fun s bs hs => ite (hs.failNode ..) (ite (hs.failNode ..) ?_)
  have hd := hs.didOp id
  exact ite ((hd _).updGraph id _) (hd _)

theorem walkOne (h : Kept p q s) (id : Nat) : Kept p q (Machine.walkOne s id) := by
  unfold Machine.walkOne
  split
  · exact h
  · split
    · exact h.ite (ite (h.activate id _ _) (ite (h.dispatchOn id _) (h.followNode id _ _ _)))
    · exact h

theorem postGraph (h : Kept p q s) (die asp root prio : Nat) (cov : List Nat) {s' : State}
    (e : Machine.postGraph s die asp root prio cov = some s') : Kept p q s' := by
  unfold Machine.postGraph at e
  split at e
  · exact nomatch e
  · injection e with e
    rw [← e]
    refine walkOne ?_ _
    exact h

theorem execTask (h : Kept p q s) (a : BitVec 6) (prio : BitVec 2) (sw : Bool) : KeptOut p q (Machine.execTask a prio
    sw s) := by
  refine h.word fun gid g hg => ite (h.raiseS hg gid _ _) (h.ite ?_)
  split
  next heq => exact ((h.released gid).nextS hg gid sw).postGraph _ _ _ _ _ heq
  next => exact h

theorem launchDone (h : Kept p q s) (l : Launch) (gr : Graph) : Kept p q (Machine.launchDone s l gr) :=
  ite ((h.updGraph l.graph _).walkOne _) h

theorem widePlace (h : Kept p q s) (die asp va : Nat) (bs : List Byte) :
    Kept p q (Machine.widePlace s die asp va bs).left := by
  have hs := h.keepRange die asp va bs.length
  unfold Machine.widePlace
  dsimp only
  split
  · exact hs
  · split
    · exact hs.askRead _
    · exact hs

theorem launchEnd (h : Kept p q s) (lid : Nat) : Kept p q (Machine.launchEnd s lid) := by
  unfold Machine.launchEnd
  split
  · exact h
  · refine h.ite ?_
    extract_lets drop gr
    have hdrop : ∀ s, Kept p q s → Kept p q (drop s) := fun _ hs => hs
    next l _ =>
    have hw : Kept p q (if l.desc.stats = 0 then .at s []
        else Machine.widePlace s gr.die l.asp l.desc.stats (statsBytes l) : WidePlace).left := by
      split
      · exact h
      · exact h.widePlace _ _ _ _
    split
    next heq => rw [heq] at hw; exact hw
    next heq => rw [heq] at hw; exact failNodeAs hw _ _ gr _ _ _ _ hdrop
    next heq =>
      rw [heq] at hw
      split
      next heq => exact atNode hw gr _ heq rfl
      next heq =>
        have hr := fun ps => engWrites (atNode hw gr _ heq rfl) (.launch lid) ps
        split
        next heq => exact (hdrop _ ((hr _).of_fst heq)).haltGraph ..
        next heq => exact (hr _).of_fst heq
      next heq =>
        have hr := fun ps => engWrites (atNode hw gr _ heq rfl) (.launch lid) ps
        split
        next heq => exact (hdrop _ ((hr _).of_fst heq)).launchDone _ gr
        next heq => exact (hr _).of_fst heq

theorem openTailWake (h : Kept p q s) (id n : Nat) : Kept p q (Machine.openTailWake s id n) := by
  unfold Machine.openTailWake
  split
  · exact h
  · exact ite ((h.updGraph id _).walkOne id) h

theorem graphEnd (h : Kept p q s) (id : Nat) : Kept p q (Machine.graphEnd s id) := by
  unfold Machine.graphEnd
  split
  · exact h
  · refine h.ite ?_
    split
    · exact h.nodeWrites _ id _ _ _ fun _ hs => hs
    · refine ite ?_ h
      exact h
    · exact h

theorem walkAll (h : Kept p q s) : Kept p q (Machine.walkAll s) := h.foldl _ fun _ id hs => hs.walkOne id

theorem gtcTick (h : Kept p q s) : Kept p q (Machine.gtcTick s) := by
  refine h.ite (walkAll ?_)
  exact h

/-! ## Lane control flow (LaneCtl) -/

end Kept

/-- A part of EXM lies within the live mask. -/
theorem LiveIf.and_exm (hg : LiveIf q g) (m : Mask) {g' : Group} (hx : g'.ctx.exm = g.ctx.exm &&& m) (hl : g'.live = g.live) :
    LiveIf q g' := fun hq => by
  rw [hx, hl, BitVec.and_assoc, BitVec.and_comm m, ← BitVec.and_assoc, hg hq]
  exact BitVec.zero_and

namespace Kept

theorem branch (h : Kept p q s) (hg : LiveIf q g) (gid : Nat) (t : Mask) (tgt nxt rpc : Va) (sw : Bool) :
    Kept p q (Machine.branch s gid g t tgt nxt rpc sw) := by
  have hgo : ∀ pc, Kept p q (s.setGrp gid (g.goL pc sw)) := fun _ => by
    refine h.setGrp ?_ gid
    exact hg
  refine ite (hgo _) (ite (hgo _) (h.pushDiv hg gid _ fun s g' hs _ hl => hs.setGrp (LiveIf.ite ?_ ?_) gid))
  · exact hg.and_exm (~~~t) rfl hl
  · exact hg.and_exm t rfl hl

theorem popTo (h : Kept p q s) (hg : LiveIf q g) (gid : Nat) (call : Bool) (why : W32) (sw : Bool) :
    Kept p q (Machine.popTo s gid g call why sw) := by
  unfold Machine.popTo
  split
  · exact h.raiseL hg gid _ _
  · exact ite (h.raiseL hg gid _ _) (h.popDiv hg gid fun _ _ _ hs _ => hs.setGrp (LiveIf.of_and _ rfl) gid)

theorem goL (h : Kept p q s) (hg : LiveIf q g) (gid : Nat) (pc : Va) (sw : Bool) :
    Kept p q (s.setGrp gid (g.goL pc sw)) := by
  refine h.setGrp ?_ gid
  exact hg

theorem execLexit (h : Kept p q s) (nf sw : Bool) : KeptOut p q (Machine.execLexit nf sw s) := by
  refine h.word fun gid g hg => ite (h.raiseL hg gid _ _) (ite (h.raiseL hg gid _ _) (h.nextL ?_ gid sw))
  exact hg

end Kept

theorem LiveIf.killLanes (hg : LiveIf q g) (eff : Mask) : LiveIf q (Machine.killLanes g eff) := fun hq => by
  have hx : (Machine.killLanes g eff).ctx.exm = g.ctx.exm &&& ~~~eff := by
    unfold Machine.killLanes
    dsimp only
    split <;> rfl
  rw [hx]
  change g.ctx.exm &&& ~~~eff &&& ~~~(g.live &&& ~~~eff) = 0
  have hsub := hg hq
  ext i hi
  have hb := congrArg (fun m : Mask => m[i]) hsub
  simp only [BitVec.getElem_and, BitVec.getElem_not, BitVec.getElem_zero] at hb ⊢
  revert hb
  cases g.ctx.exm[i] <;> cases eff[i] <;> cases g.live[i] <;> simp

namespace Kept

theorem placeThreads (core lid : Nat) (entry : Va) (ts : List Thread) {s : State} (h : Kept p q s) :
    Kept p q (Machine.placeThreads core lid entry s ts).2 := by
  induction ts generalizing s with
  | nil => exact h
  | cons t ts ih =>
    unfold Machine.placeThreads
    split
    next => exact h
    next heq => exact ih (h.binPut _ _ _ _ heq)

theorem execSpawn (h : Kept p q s) (m : Mods) (a : BitVec 8) (entry : BitVec 32) :
    KeptOut p q (Machine.execSpawn m a entry s) := by
  refine h.word fun gid g hg => h.inQuota hg gid _ (ite (h.raiseL hg gid _ _) ?_)
  have hp := fun core lid va ts (ts' : List Thread) =>
    placeThreads core lid va ts (s := if ts'.isEmpty then s else Machine.released s gid) (h.ite (h.released gid))
  refine ite (nextL (hp _ _ _ _ _) ?_ gid m.sw) (setGrp (hp _ _ _ _ _) ?_ gid)
  · exact hg
  · exact hg

theorem waitL (h : Kept p q s) (hg : LiveIf q g) (gid : Nat) (w : Wait) (sw : Bool) :
    Kept p q (s.setGrp gid (g.waitL w sw)) := by
  refine h.setGrp ?_ gid
  exact hg

theorem execLaneCwait (h : Kept p q s) (m : Mods) (ctr : Ctr) (t : Tgt) : KeptOut p q (Machine.execLaneCwait m ctr t
    s) :=
  h.word fun gid _ hg => ite (h.nextL hg gid m.sw) (h.waitL hg gid _ m.sw)

end Kept
end
end Machine

namespace Machine

open Safety

section
variable {p q : Prop} {s : State} {g : Group}

namespace Kept

/-! ## Traversals (Traversal) -/

theorem execTvlayout (h : Kept p q s) (a : BitVec 6) (n : BitVec 4) (sw : Bool) :
    KeptOut p q (Machine.execTvlayout a n sw s) := by
  refine h.word fun gid g hg => ite (h.raiseS hg gid _ _) (ite (h.raiseS hg gid _ _) (h.ite
    (h.readBlock hg gid false _ fun s x hs => ?_)))
  split
  · exact hs
  · next g1 hg1 =>
    have hl := hs.liveIf hg1
    refine ite (hs.raiseS hl gid _ _) (ite (hs.raiseS hl gid _ _) (ite (hs.raiseS hl gid _ _) (nextS ?_ hl gid sw)))
    exact hs

theorem setTrav (h : Kept p q s) (id : Nat) (t : Trav) : Kept p q (s.setTrav id t) := h

theorem countTrav (h : Kept p q s) (t : Trav) : Kept p q (Machine.countTrav s t) := by
  have hcount : ∀ g, LiveIf q g → LiveIf q (Group.countTravs s g) := fun _ hg => hg
  refine h.ite ?_
  split
  · exact h.mapTeamGroups _ fun g hg => LiveIf.ite (hcount g hg) hg
  · split
    · exact h.mapTeamGroups _ hcount
    · exact h.updGrp (fun g hg => LiveIf.ite (hcount g hg) hg) _

theorem deadCut (h : Kept p q s) (id : Nat) (c : Cut) : Kept p q (Machine.deadCut s id c) := by
  unfold Machine.deadCut
  split
  · exact h
  · exact h

theorem deadCuts (h : Kept p q s) (id : Nat) (cs : List Cut) : Kept p q (Machine.deadCuts s id cs) :=
  h.foldl cs fun _ c hs => hs.deadCut id c

theorem suspend (h : Kept p q s) (id : Nat) (t : Trav) (kind va : Nat) : Kept p q (Machine.suspend s id t kind va) :=
  (h.dropWriter (.trav id)).setTrav id { t with fault := some (kind, va) }

theorem placePages (h : Kept p q s) (t : Trav) (va n : Nat) : Kept p q (Machine.placePages s t va n).1 := by
  refine foldl_fst _ (fun r x hr => ?_) h
  split
  · exact hr.keepTr _ _ _
  · exact hr

theorem travStamp (h : Kept p q s) (t : Trav) : Kept p q (Machine.travStamp s t).1 := by
  have hr := h.placePages t t.stampVa 8
  unfold Machine.travStamp
  split
  · exact h
  · split
    next heq => exact hr.of_fst heq
    next heq => exact hr.of_fst heq

theorem cutPlaces (t : Trav) (cs : List Cut) {s : State} (h : Kept p q s) : Kept p q (Machine.cutPlaces t s cs).1 := by
  induction cs generalizing s with
  | nil => exact h
  | cons c cs ih =>
    have hr : Kept p q (if c.pa.isEmpty then Machine.placePages s t c.record 4096 else (s, .ok c.pa)).1 := by
      split
      · exact h.placePages t _ _
      · exact h
    unfold Machine.cutPlaces
    split
    next heq => exact hr.of_fst heq
    next heq =>
      have hs := ih (hr.of_fst heq)
      split
      next heq => exact hs.of_fst heq
      next => exact hs

theorem travPlaces (h : Kept p q s) (t : Trav) : Kept p q (Machine.travPlaces s t).1 := by
  have hr := h.travStamp t
  unfold Machine.travPlaces
  split
  next heq => exact hr.of_fst heq
  next t1 heq =>
    have hc := cutPlaces t1 t1.cuts (hr.of_fst heq)
    split
    next heq => exact hc.of_fst heq
    next heq => exact hc.of_fst heq

theorem closeTrav (h : Kept p q s) (id : Nat) (t : Trav) (status : Nat) : Kept p q (Machine.closeTrav s id t status)
    := by
  unfold Machine.closeTrav
  extract_lets slot stamp
  have he := engAll (.trav id) (stamp ++ slot) h
  split
  next heq => exact he.of_fst heq
  next heq =>
    have hp := ((he.of_fst heq).dropWriter (.trav id)).foldl stamp (f := fun s x =>
      Machine.engPut s x (leBytes 8 (status * 2 ^ 32 + t.seq))) fun _ x hs => hs.engPut x _
    extract_lets s1 _ s2
    have h2 : Kept p q s2 := by
      refine countTrav ?_ t
      exact hp.deadCuts id t.cuts
    split
    · exact h2.reap _
    · exact h2

theorem endTrav (h : Kept p q s) (id : Nat) (t : Trav) (status : Nat) : Kept p q (Machine.endTrav s id t status) := by
  unfold Machine.endTrav
  extract_lets t1 s1
  have h1 : Kept p q s1 := h
  have hr := h1.travPlaces t1
  refine h1.ite ?_
  split
  next heq => exact ((hr.of_fst heq).setTrav id _).closeTrav id _ status
  next heq => exact (hr.of_fst heq).suspend id _ _ _
  next heq => exact (hr.of_fst heq).askRead _
  next heq => exact (hr.of_fst heq).freezeEngine _ _ _ _ _ _
  next heq => exact hr.of_fst heq

theorem stopTrav (h : Kept p q s) (id : Nat) (t : Trav) (r : TStop) : Kept p q (Machine.stopTrav s id t r) := by
  have hs := h.setTrav id t
  unfold Machine.stopTrav
  split
  · exact h.suspend id t _ _
  · exact hs.askRead _
  · exact hs
  · exact hs.freezeEngine _ _ _ _ _ _
  · exact ite (hs.freezeEngine _ _ _ _ _ _) (h.endTrav id t 3)
  · exact h.endTrav id t _

theorem writeSlots (h : Kept p q s) (id : Nat) (t : Trav) (es : List (Nat × TEntry)) (more : List (Place × List Byte)) :
    Kept p q (Machine.writeSlots s id t es more).1 := by
  unfold Machine.writeSlots
  extract_lets r
  have hr : Kept p q r.1 := by
    refine foldl_fst _ (fun r e hr => ?_) h
    split
    next s1 ps =>
      have hp := placePages (s := s1) hr t (t.spillVa e.1) 16
      split
      next heq => exact hp.of_fst heq
      next heq => exact hp.of_fst heq
    next => exact hr
  clear_value r
  split
  next => exact hr
  next s1 ps =>
    have hw := engWrites (s := s1) hr (.trav id) (ps ++ more)
    split
    next heq => exact hw.of_fst heq
    next heq => exact hw.of_fst heq

theorem trim (h : Kept p q s) (id : Nat) (t : Trav) : Kept p q (Machine.trim s id t).1 := by
  have hw := fun es => h.writeSlots id t es []
  unfold Machine.trim
  split
  · exact h
  · dsimp only
    split
    next heq => exact (hw _).of_fst heq
    next heq => exact (hw _).of_fst heq

theorem pushT (h : Kept p q s) (id : Nat) (t : Trav) (e : TEntry) : Kept p q (Machine.pushT s id t e).1 := by
  have hw := fun es => h.writeSlots id t es []
  unfold Machine.pushT
  split
  · exact h
  · dsimp only
    split
    · exact h
    · split
      next heq => exact (hw _).of_fst heq
      next heq => exact (hw _).of_fst heq

theorem pushTs (id : Nat) (es : List TEntry) {s : State} (h : Kept p q s) (t : Trav) :
    Kept p q (Machine.pushTs id s t es).1 := by
  induction es generalizing s t with
  | nil => exact h
  | cons e es ih =>
    have hr := h.pushT id t e
    unfold Machine.pushTs
    split
    next heq => exact ih (hr.of_fst heq) _
    next => exact hr

theorem retEnter (h : Kept p q s) (id : Nat) (t : Trav) (v : TVisit) (r u : W32) :
    Kept p q (Machine.retEnter s id t v r u).1 := by
  unfold Machine.retEnter
  split
  · exact h
  · dsimp only
    split
    · exact h
    · split
      · exact h
      · split
        · exact h
        · split
          · exact h
          · split
            · exact h
            · exact pushTs id _ h _

theorem retVisit (h : Kept p q s) (id : Nat) (t : Trav) (v : TVisit) (r u : W32) :
    Kept p q (Machine.retVisit s id t v r u).1 := by
  unfold Machine.retVisit
  split
  · exact h.retEnter id t v r u
  · exact h
  · exact h

theorem applyReturn (h : Kept p q s) (id : Nat) : Kept p q (Machine.applyReturn s id) := by
  unfold Machine.applyReturn
  split
  · exact h
  · next t _ =>
    have hp := h.travPlaces t
    split
    next v r u _ _ =>
      refine h.ite ?_
      split
      next heq => exact (hp.of_fst heq).stopTrav id _ _
      next t1 heq =>
        have hv := (hp.of_fst heq).retVisit id t1 v r u
        split
        next heq => exact (hv.of_fst heq).setTrav id _
        next heq => exact (hv.of_fst heq).stopTrav id _ _
    next => exact h

theorem placeVisit (h : Kept p q s) (id : Nat) (t : Trav) (v : TVisit) : Kept p q (Machine.placeVisit s id t v) := by
  unfold Machine.placeVisit
  split
  next heq => exact (h.binPut _ _ _ _ heq).setTrav id _
  next => exact h.setTrav id _

theorem stepEnter (h : Kept p q s) (id : Nat) (t : Trav) (e : TEntry) : Kept p q (Machine.stepEnter s id t e) := by
  unfold Machine.stepEnter
  split
  · exact h.placeVisit id t _
  · next x _ =>
    extract_lets t1 s1
    have h1 : Kept p q s1 := h.keepRange _ _ _ _
    split
    · exact h1.placeVisit id _ _
    · exact h1.stopTrav id _ _
    · exact h1.stopTrav id _ _
    · exact h1.stopTrav id _ _
    · exact h1.stopTrav id _ _

theorem stepTrav (h : Kept p q s) (id : Nat) (t : Trav) : Kept p q (Machine.stepTrav s id t) := by
  unfold Machine.stepTrav
  split
  · exact h.endTrav id t 0
  · exact ite (h.placeVisit id _ _) (ite (h.placeVisit id t _) (h.stepEnter id t _))

theorem holdTop (h : Kept p q s) (id : Nat) (t : Trav) : Kept p q (Machine.holdTop s id t).1 := by
  have ht := h.trim id t
  unfold Machine.holdTop
  split
  next heq => exact ht.of_fst heq
  next heq => exact (ht.of_fst heq).keepRange _ _ _ _

theorem readyTrav (h : Kept p q s) (id : Nat) (t : Trav) {k : State → Trav → State}
    (hk : ∀ s t, Kept p q s → Kept p q (k s t)) : Kept p q (Machine.readyTrav s id t k) := by
  have hp := h.travPlaces t
  unfold Machine.readyTrav
  split
  next heq => exact (hp.of_fst heq).stopTrav id _ _
  next t1 heq =>
    have ht := (hp.of_fst heq).holdTop id t1
    split
    next heq => exact (ht.of_fst heq).stopTrav id _ _
    next heq => exact hk _ _ (ht.of_fst heq)

theorem travStep (h : Kept p q s) (id : Nat) : Kept p q (Machine.travStep s id) := by
  unfold Machine.travStep
  split
  · exact h
  · split
    · exact h.ite (h.endTrav id _ _)
    · refine ite (ite (h.applyReturn id) h) (h.ite ?_)
      split
      · exact ite (h.placeVisit id _ _) h
      · exact h.ite (h.readyTrav id _ fun _ t hs => hs.stepTrav id t)

theorem tvChecks (h : Kept p q s) (hg : LiveIf q g) (gid : Nat) (regs : List Nat) {k : State} (hk : Kept p q k) :
    Kept p q (Machine.tvChecks s gid g regs k) :=
  h.inQuota hg gid regs (ite (h.raiseL hg gid _ _) (ite (h.raiseL hg gid _ _) hk))

theorem startTravs (h : Kept p q s) (ts : List Trav) : Kept p q (Machine.startTravs s ts).1 := by
  refine foldl_fst ts (fun r t hr => ?_) (r := (s, [])) h
  exact hr

theorem execTvbegin (h : Kept p q s) (m : Mods) (d a b : BitVec 8) (c : Uni) (lay : BitVec 4) :
    KeptOut p q (Machine.execTvbegin m d a b c lay s) := by
  refine h.word fun gid g hg => h.tvChecks hg gid _ (ite (h.raiseL hg gid _ _) (h.ite
    (h.readBlock hg gid true _ fun s table hs => ?_)))
  split
  · exact hs
  · next g1 hg1 =>
    have hl := hs.liveIf hg1
    refine ite (hs.raiseL hl gid _ _) (hs.ite (hs.translated gid g1 .write _ fun s ps hs => ?_))
    refine ((hs.released gid).startTravs _).issueL ?_ gid _ m.sw
    exact hl

theorem tvFeat (h : Kept p q s) (hg : LiveIf q g) (gid : Nat) (regs : List Nat) {k : State} (hk : Kept p q k) :
    Kept p q (Machine.tvFeat s gid g regs k) := h.inQuota hg gid regs (ite (h.raiseL hg gid _ _) hk)

theorem returnLane (h : Kept p q s) (gid : Nat) (g : Group) (a b : BitVec 8) (cov : List Nat) (l : Nat) :
    Kept p q (Machine.returnLane gid g a b cov s l) := by
  unfold Machine.returnLane
  split
  · exact h
  · refine applyReturn ?_ _
    exact h

theorem execTvret (h : Kept p q s) (m : Mods) (a b : BitVec 8) : KeptOut p q (Machine.execTvret m a b s) := by
  refine h.word fun gid g hg => h.tvFeat hg gid _ (ite (h.raiseL hg gid _ _) ?_)
  refine updGrp ((h.released gid).foldl _ fun _ l hs => hs.returnLane gid g a b _ l) (fun g hg => ?_) gid
  refine LiveIf.killLanes ?_ _
  exact hg

theorem execTvbound (h : Kept p q s) (m : Mods) (a : BitVec 8) : KeptOut p q (Machine.execTvbound m a s) := by
  refine h.word fun gid g hg => h.tvFeat hg gid _ (nextL (h.foldl _ fun s l hs => ite ?_ hs) hg gid m.sw)
  exact hs

theorem takeCut (h : Kept p q s) (g : Group) (x : Nat × Cut) : Kept p q (Machine.takeCut g s x) := by
  refine ite ?_ (h.deadCut x.1 x.2)
  exact h

theorem execTvcut (h : Kept p q s) (m : Mods) (a b : BitVec 8) (c : Uni) : KeptOut p q (Machine.execTvcut m a b c s)
    := by
  refine h.word fun gid g hg => h.tvFeat hg gid _ (ite (h.raiseL hg gid _ _) (h.ite
    (h.translated gid g .write _ fun s ps hs => ?_)))
  exact (hs.foldl _ fun _ _ ht => ht.takeCut g _).nextL hg gid m.sw

theorem splitCut (h : Kept p q s) (t : Trav) (n : Nat) : Kept p q (Machine.splitCut s t n).1 := by
  have hk := h.keepRange (dieOf t.core) (travAsp s t) (t.spillVa 0) (16 * t.spilled)
  unfold Machine.splitCut
  dsimp only
  split <;> exact hk

theorem applyCut (h : Kept p q s) (id : Nat) (t : Trav) (c : Cut) : Kept p q (Machine.applyCut s id t c) := by
  have hc := h.splitCut t (min c.level (min t.h 252))
  unfold Machine.applyCut
  dsimp only
  split
  next heq => exact (hc.of_fst heq).stopTrav id t _
  next heq =>
    have hw := fun moves more => (hc.of_fst heq).writeSlots id t moves more
    split
    next heq => exact ((hw _ _).of_fst heq).stopTrav id t _
    next heq => exact ((hw _ _).of_fst heq).setTrav id _

theorem cutApply (h : Kept p q s) (id : Nat) : Kept p q (Machine.cutApply s id) := by
  unfold Machine.cutApply
  split
  · exact h
  · refine h.ite (ite (h.setTrav id _) ?_)
    split
    · exact h
    · exact ite (h.readyTrav id _ fun _ t hs => hs.applyCut id t _) h

theorem resumeGo (h : Kept p q s) (hg : LiveIf q g) (gid : Nat) (m : Mods) (d : BitVec 8) (eff : Mask) (ls : List
    RLane) :
    Kept p q (Machine.resumeGo s gid g m d eff ls) := by
  refine h.translated gid g .write _ fun s ps hs => ?_
  refine ((hs.released gid).startTravs _).issueL ?_ gid _ m.sw
  exact hg

theorem execTvresume (h : Kept p q s) (m : Mods) (d a : BitVec 8) : KeptOut p q (Machine.execTvresume m d a s) := by
  refine h.word fun gid g hg => h.tvChecks hg gid _ (h.ite (h.translated gid g .read _ fun s ps hs => ?_))
  have hr := fun (s : State) (hs : Kept p q s) (ps : List (Nat × Nat × TlbEntry)) =>
    hs.foldl (f := fun s (x : Nat × Nat × TlbEntry) => Machine.resolve s (x.2.1 / 128)) ps fun _ _ ht => ht.resolve _
  have hs1 := hr s hs ps
  dsimp only
  split
  · exact hs1.askRead _
  · exact hs1.freezeTeam ..
  · exact hs1
  · refine hs1.translated gid g .read _ fun s ps hs => ?_
    have hs2 := hr s hs ps
    split
    · exact hs2.askFill _ _
    · exact hs2.askRead _
    · exact hs2.integrity hg gid true _ _ _ false
    · exact hs2.freezeTeam ..
    · exact hs2
    · refine (hs2.setGrp ?_ gid).resumeGo ?_ gid m d _ _
      · exact hg
      · exact hg

end Kept
end
end Machine

namespace Machine

open Safety

section
variable {p q : Prop} {s : State} {g : Group}

/-- A group that comes back has an EXM cut down by the live mask of its image (R329). -/
theorem LiveIf.groupOf (g : Group) (im : GImage) (trapbase : Va) (row0 : Nat) :
    LiveIf q (Machine.groupOf g im trapbase row0) := by
  unfold Machine.groupOf
  extract_lets b sv ssh av old live c0 _ ctx spc
  refine LiveIf.of_and c0.exm ?_
  dsimp only
  split <;> rfl

namespace Kept

/-! ## Saving and bringing back (Context) -/

theorem writeParts (h : Kept p q s) (w : Writer) (pa : Nat) (ps : List (Nat × List Byte)) :
    Kept p q (Machine.writeParts s w pa ps).1 := h.engWrites w _

theorem writeSlot (h : Kept p q s) (w : Writer) (pa : Nat) (ps : List (Nat × List Byte)) :
    Kept p q (Machine.writeSlot s w pa ps).1 := h.engWrites w _

theorem endPrefetches (h : Kept p q s) (k : Nat) : Kept p q (Machine.endPrefetches s k) :=
  h.foldl _ fun _ id hs => hs.endPrefetch id

theorem dropWriters (h : Kept p q s) (ids : List Nat) :
    Kept p q (ids.foldl (fun s i => Machine.dropWriter (Machine.dropOlds s i) (.cmd i)) s) :=
  h.foldl ids fun _ i hs => (hs.dropOlds i).dropWriter (.cmd i)

theorem stopCmds (h : Kept p q s) (k : Nat) : Kept p q (Machine.stopCmds s k) := by
  unfold Machine.stopCmds
  extract_lets copy attn ids s1
  have h1 : Kept p q s1 := h.dropWriters ids
  exact h1

theorem dropGroups (h : Kept p q s) (gs : List (Nat × Group)) :
    Kept p q { s with groups := gs.foldl (fun m e => Store.del m e.1) s.groups } := by
  induction gs generalizing s with
  | nil => exact h
  | cons e gs ih => exact ih (h.delGrp e.1)

theorem teamOut (h : Kept p q s) (k : Nat) (t : Team) (pa : Nat) (gs : List (Nat × Group)) :
    Kept p q (Machine.teamOut s k t pa gs) := by
  have hg := ((h.dropGroups gs).delTeam k).putTeam
  unfold Machine.teamOut
  exact hg _ _

theorem nextSlot (h : Kept p q s) : Kept p q (Machine.nextSlot s) := by
  unfold Machine.nextSlot
  split <;> exact h

theorem evict (h : Kept p q s) (line : Nat) : Kept p q (Machine.evict s line) := by
  have hd := h.delSlice line
  unfold Machine.evict
  dsimp only
  split
  · exact h
  · split
    · exact h
    · split
      · exact hd.putEly line _
      · exact hd.emit _
      · exact hd.emit _
      · exact hd.emit _
      · exact h

theorem writtenBack (h : Kept p q s) (l : Launch) {s' : State} (e : Machine.writtenBack s l = some s') :
    Kept p q s' := by
  unfold Machine.writtenBack at e
  split at e
  · split at e
    · injection e with e
      rw [← e]
      exact h.foldl _ fun _ line hs => hs.evict line
    · exact nomatch e
  · injection e with e
    exact e ▸ h

theorem copySteps (h : Kept p q s) (k : Nat) (prog : List (Nat × List Nat)) :
    Kept p q (prog.foldl (fun s x => match Store.find s.copies x.1 with
      | some c => if Copy.ofTeam c k then Machine.copyStep s x.1 x.2 else s
      | none => s) s) := by
  refine h.foldl prog fun s x hs => ?_
  split
  · exact ite (hs.copyStep x.1 x.2) hs
  · exact hs

theorem chrysalisComplete (h : Kept p q s) (k : Nat) (prog : List (Nat × List Nat)) :
    Kept p q (Machine.chrysalisComplete s k prog) := by
  have h1 := h.copySteps k prog
  have h2 := fun (c : Bool) => ite (c := c = true) (h1.endPrefetches k) h1
  unfold Machine.chrysalisComplete
  extract_lets s1 s2
  have hs2 : Kept p q s2 := h2 _
  clear_value s2
  split
  · exact hs2
  · split
    · exact hs2
    · refine hs2.ite ?_
      split
      · exact hs2
      · split
        next => exact hs2
        next s3 heq =>
          have hw := fun pa ps => ((hs2.stopCmds k).writtenBack _ heq).writeSlot (.team k) pa ps
          split
          next heq => exact (hw _ _).of_fst heq
          next heq =>
            have ht := fun t pa gs => ((hw _ _).of_fst heq).teamOut k t pa gs
            exact ite (ht _ _ _).nextSlot (ht _ _ _)

theorem poolSlotSave (h : Kept p q s) (k : Nat) : Kept p q (Machine.poolSlotSave s k) := by
  unfold Machine.poolSlotSave
  split
  · exact h
  · refine h.ite ?_
    split
    · exact h.updTeam k _
    · refine updTeam ?_ k _
      exact h

theorem freeSlotAt (h : Kept p q s) (pa : Nat) : Kept p q (Machine.freeSlotAt s pa) := h

theorem unbin (h : Kept p q s) (lid : Nat) : Kept p q (Machine.unbin s lid) := h

theorem stopTravs (h : Kept p q s) (lid : Nat) : Kept p q (Machine.stopTravs s lid) := by
  unfold Machine.stopTravs
  extract_lets stop ids s1
  have h1 : Kept p q s1 := h.foldl ids fun _ i hs => hs.dropWriter (.trav i)
  exact h1

theorem markWhy (h : Kept p q s) (lid : Nat) : Kept p q (Machine.markWhy s lid) :=
  h.setTeams fun hp => Store.sorted_map (h.teams hp) _ fun _ => rfl

theorem holdTops (h : Kept p q s) (lid : Nat) : Kept p q (Machine.holdTops s lid).1 := by
  refine foldl_fst _ (fun r x hr => ?_) (r := (s, true)) h
  have ht := hr.holdTop x.1 x.2
  split
  next heq => exact (ht.of_fst heq).setTrav x.1 _
  next heq => exact (ht.of_fst heq).askRead _
  next heq => exact ht.of_fst heq
  next heq => exact ht.of_fst heq

theorem saveLaunch (h : Kept p q s) (lids : List Nat) (base next : Nat) : Kept p q (Machine.saveLaunch s lids base
    next) := by
  unfold Machine.saveLaunch
  split
  · exact h
  next lid rest =>
    split
    · exact h
    · refine h.ite ?_
      have ht := h.holdTops lid
      split
      next heq => exact ht.of_fst heq
      next heq =>
        split
        next => exact ht.of_fst heq
        next heq' =>
          have hw := fun ps => (((ht.of_fst heq).unbin lid).writtenBack _ heq').writeParts .mailbox 0 ps
          dsimp only
          split
          next heq => exact (hw _).of_fst heq
          next heq =>
            have hs := (((hw _).of_fst heq).stopTravs lid).markWhy lid
            exact hs

theorem haltLaunch (h : Kept p q s) (migrate : Bool) (lid : Nat) : Kept p q (Machine.haltLaunch s migrate lid) := by
  unfold Machine.haltLaunch
  extract_lets mine s1 halt ts s2
  have h1 : Kept p q s1 := by
    refine h.foldl mine fun s e hs => (hs.ensureTeam _ _).updGrp (fun g hg => ?_) e.1
    exact hg
  exact h1.setTeams fun hp => Store.sorted_map (h1.teams hp) _ fun _ => rfl

theorem ret (h : Kept p q s) (code : RetCode) (payload : List Byte) : Kept p q (Machine.ret s code payload) := h

theorem preemptGo (h : Kept p q s) (lids : List Nat) (area : Nat) (migrate : Bool) :
    Kept p q (Machine.preemptGo s lids area migrate) := by
  have hs := h.foldl (f := fun s i => Machine.haltLaunch s migrate i) lids fun _ i hs => hs.haltLaunch migrate i
  exact hs

theorem rebin (h : Kept p q s) (lid : Nat) : Kept p q (Machine.rebin s lid) := by
  unfold Machine.rebin
  split
  · exact h
  · refine h.ite ?_
    extract_lets r
    have hr : Kept p q r.1 := by
      refine foldl_fst _ (fun r t hr => ?_) (r := (s, [])) h
      split
      next heq => exact hr.binPut _ _ _ _ heq
      next => exact hr
    exact hr

theorem resumeLaunch (h : Kept p q s) (lid : Nat) : Kept p q (Machine.resumeLaunch s lid) := by
  refine rebin ?_ lid
  exact h.setTeams fun hp => Store.sorted_map (h.teams hp) _ fun _ => rfl

theorem unlist (h : Kept p q s) (k : Nat) (t : Team) : Kept p q (Machine.unlist s k t) := h

theorem endSaved (h : Kept p q s) (k : Nat) : Kept p q (Machine.endSaved s k) := by
  unfold Machine.endSaved
  split
  · exact h
  · extract_lets copy attn cs as s1 s2 out s3 s4 s5 s6
    have h2 : Kept p q s2 := by
      refine unlist ?_ k _
      split
      · exact h
      · exact h
    have h4 : Kept p q s4 := (h2.updTeam k _).foldl _ fun _ e hs => hs.endGroup e.1
    have h5 : Kept p q s5 := h4.foldl out fun _ _ hs => hs
    have h6 : Kept p q s6 := h5.updTeam k _
    clear_value s6
    split
    · exact h6.delTeam k
    · exact h6.reap k

theorem endLaunch (h : Kept p q s) (lid : Nat) : Kept p q (Machine.endLaunch s lid) := by
  have hf := fun (s : State) (h : Kept p q s) ks => h.foldl (f := Machine.endSaved) ks fun _ k hs => hs.endSaved k
  unfold Machine.endLaunch
  extract_lets fin ts s1 s2
  have h2 : Kept p q s2 := by
    refine hf _ ?_ _
    exact h
  exact h2

theorem clearFaults (h : Kept p q s) (kind lid who : Nat) : Kept p q (Machine.clearFaults s kind lid who) := h

theorem faultDone (h : Kept p q s) (b : Bool) (w : FaultWho) {s' : State} (e : Machine.faultDone s b w = some s') :
    Kept p q s' := by
  cases w with
  | team lid tid =>
    unfold Machine.faultDone at e
    dsimp only at e
    split at e
    · exact nomatch e
    · injection e with e
      rw [← e]
      have hc := h.clearFaults 1 lid tid
      exact ite (hc.foldl _ fun _ k hs => hs.endSaved k) (hc.foldl _ fun _ k hs => hs.updTeam k _)
  | trav id =>
    obtain ⟨t, -, rfl⟩ := Option.map_eq_some_iff.1 e
    exact (h.clearFaults 2 t.lid id).setTrav id _

theorem resolveSlot (h : Kept p q s) (t : Team) (d : KDesc) (pa : Nat) : Kept p q (Machine.resolveSlot s t d pa) :=
  h.resolves _

theorem reenterGroup (h : Kept p q s) (gid row0 : Nat) (g : Group) (im : GImage) :
    Kept p q (Machine.reenterGroup s gid row0 g im) := by
  have hl := LiveIf.groupOf (q := q) g im (s.core (coreOf gid)).trapbase row0
  refine (volatile (foldl (h.setGrp hl gid) _ fun s n hs => ?_) hl gid).undefRows _ _ _ _
  exact hs.vPut _ _ _ _ _

theorem restartCmds (h : Kept p q s) (k old new : Nat) : Kept p q (Machine.restartCmds s k old new) := h

theorem reenterTeam (h : Kept p q s) (k : Nat) (t : Team) (d : KDesc) (pa core spbase accbase : Nat)
    (places : List (Nat × Nat)) (ims : List (Group × GImage)) (sp ac : List Byte) :
    Kept p q (Machine.reenterTeam s k t d pa core spbase accbase places ims sp ac) := by
  unfold Machine.reenterTeam
  extract_lets s1 t' s2 words s3
  have h1 : Kept p q s1 := h.foldl _ fun _ x hs => hs.reenterGroup _ _ _ _
  have h2 : Kept p q s2 := h1.spadWrite d t' 0 sp
  have h3 : Kept p q s3 := by
    have ha := h2.setAcc fun hp => Store.wf_putsD (h2.acc hp) (core * 65536 + accbase * 256) words
    exact ha.putTeam k t'
  exact (h3.restartCmds k t.core core).freeSlotAt pa

end Kept
end
end Machine

end Sys2Proof
end

section
/-!
PROOFS. KeptEvents: homes, other agents, the mailbox and the platform keep them, and so does every step.
-/
namespace Sys2Proof

namespace Machine

open Safety

section
variable {p q : Prop} {s : State} {g : Group}

namespace Kept

/-! ## Homes and other agents (Coherence) -/

theorem l1Fill (h : Kept p q s) (core line : Nat) : Kept p q (Machine.l1Fill s core line) := h.ite (h.askFill core line)

theorem tableWalk (h : Kept p q s) (die asp va : Nat) : Kept p q (Machine.tableWalk s die asp va) := by
  refine h.ite ?_
  split
  · exact h.askRead _
  · exact h.keepTr die asp va

theorem atomReport (h : Kept p q s) (src : Option (Nat × Bool)) (pend id lane : Nat) (old : Option Nat) (rs : List
    Rel) :
    Kept p q (Machine.atomReport s src pend id lane old rs) := by
  unfold Machine.atomReport
  split
  · exact h
  · next gid ln g heq =>
    obtain ⟨x, -, hx⟩ := Option.bind_eq_some_iff.1 heq
    obtain ⟨g', hg', e⟩ := Option.map_eq_some_iff.1 hx
    injection e with e1 e2
    injection e2 with _ e3
    subst e3
    exact (h.setGrp ((h.liveIf hg').setStr ln _) gid).coverFollows _ _

theorem afterWrite (h : Kept p q s) (id : Nat) (r : Req) : Kept p q (Machine.afterWrite s id r) := h

theorem dropReq (h : Kept p q s) (id : Nat) : Kept p q (Machine.dropReq s id) := h

theorem mergeSector (h : Kept p q s) (base : Nat) (data : LineData) (en : BitVec 128) (k : Nat) :
    Kept p q (Machine.mergeSector s base data en k) := by
  unfold Machine.mergeSector
  split
  · exact h
  · exact h.writeMemAs _ _ _

theorem mergeBytes (h : Kept p q s) (line : Nat) (data : LineData) (en : BitVec 128) :
    Kept p q (Machine.mergeBytes s line data en) :=
  (h.foldl _ fun _ k hs => hs.mergeSector _ data en k).hideRels _ _

theorem performAt (h : Kept p q s) (id : Nat) (r : Req) : Kept p q (Machine.performAt s id r) := by
  unfold Machine.performAt
  split
  · exact (h.homeWrite _ _).afterWrite id r
  · split
    · exact h
    · exact (h.dropReq id).atomReport _ _ _ _ _ _
    · exact ((h.homeWrite _ _).afterWrite id r).atomReport _ _ _ _ _ _
  · exact ((h.mergeBytes _ _ _).dropReq id).emit _
  · exact h

theorem performReq (h : Kept p q s) (id : Nat) (r : Req) : Kept p q (Machine.performReq s id r) := by
  have hs := h.resolve r.line
  exact h.ite (ite (h.arriveAt _ _) (ite ((hs.askWrite _).arriveAt _ _) (ite (hs.arriveAt _ _) (hs.performAt id r))))

theorem setReqs (h : Kept p q s) (rs : List (Nat × Req)) : Kept p q { s with reqs := rs } := h

theorem lockReplica (h : Kept p q s) (id : Nat) (r : Req) (die : Nat) : Kept p q (Machine.lockReplica s id r die) := by
  have ha := h.arriveAt r.line id
  unfold Machine.lockReplica
  extract_lets next line s1 s2 s3
  clear_value line
  have h1 : Kept p q s1 := ha
  have h2 : Kept p q s2 := h1.resolve line
  have h3 : Kept p q s3 := h2.arriveAt line id
  clear_value s3 s2 s1
  refine h.ite (ite h1 (ite (h1.arriveAt line id) (ite ((h2.askWrite line).arriveAt line id) (ite (h2.arriveAt line
      id) ?_))))
  exact (h3.putEly line (mkEly 0 0 7)).setReqs _

theorem updateReplicas (h : Kept p q s) (id : Nat) (r : Req) : Kept p q (Machine.updateReplicas s id r) := by
  refine h.ite (commitReplicas (performAt ?_ id r) _ _)
  exact h.foldl (f := fun s l => Machine.setEly s l 0) _ fun _ l hs => hs.putEly l 0

theorem freezeAgent (h : Kept p q s) (a viol addr : Nat) : Kept p q (Machine.freezeAgent s a viol addr) := h

theorem refuse (h : Kept p q s) (a line : Nat) (what : ExtWhat) : Kept p q (Machine.refuse s a line what) := by
  unfold Machine.refuse
  split
  · exact h.emit _
  · exact h.emit _

theorem answer (h : Kept p q s) (id a line : Nat) (d : LineData × Bool) (grant : Option (BitVec 16)) :
    Kept p q (Machine.answer s id a line d grant) := by
  have hd := h.dropReq id
  unfold Machine.answer
  dsimp only
  split
  · exact (ite (hd.freezeAgent _ _ _) hd).emit _
  · refine emit ?_ _
    split
    · exact hd.putEly line _
    · exact hd

theorem callOwner (h : Kept p q s) (line : Nat) (inv keep : Bool) : Kept p q (Machine.callOwner s line inv keep) :=
  h.snoop _ _ _ _ _

theorem callSharers (h : Kept p q s) (line : Nat) (as : List Nat) : Kept p q (Machine.callSharers s line as) :=
  h.foldl as fun _ b hs => hs.snoop line b true false _

theorem extRead (h : Kept p q s) (id a line : Nat) : Kept p q (Machine.extRead s id a line) := by
  unfold Machine.extRead
  split
  · exact h.answer ..
  · exact h.answer ..
  · exact h.callOwner ..
  · exact h.callOwner ..
  · exact h.callOwner ..
  · exact h

theorem extOwn (h : Kept p q s) (id a line : Nat) : Kept p q (Machine.extOwn s id a line) := by
  unfold Machine.extOwn
  split
  · exact ite (h.answer ..) h
  · exact ite (h.callSharers ..) (ite (h.answer ..) h)
  · exact h.callOwner ..
  · exact h.callOwner ..
  · exact h.callOwner ..
  · exact h

theorem extPeek (h : Kept p q s) (id a line : Nat) : Kept p q (Machine.extPeek s id a line) := by
  unfold Machine.extPeek
  split
  · exact h.answer ..
  · exact h.answer ..
  · exact h.answer ..
  · exact h.callOwner ..
  · exact h.callOwner ..
  · exact h

theorem extWrite (h : Kept p q s) (id line : Nat) (data : LineData) (en : BitVec 128) :
    Kept p q (Machine.extWrite s id line data en) := by
  unfold Machine.extWrite
  extract_lets fin e s1 v
  have hfin : ∀ s, Kept p q s → Kept p q (fin s) := fun _ hs => (hs.dropReq id).emit _
  have h1 : Kept p q s1 := by
    unfold s1
    generalize Store.find s.slices line = o
    cases o with
    | none => exact h
    | some d => exact (h.writeMem _ _).setSlices fun hp => Store.sorted_del (h.slices hp) line
  refine ite (hfin _ ((h1.mergeBytes line data en).putEly line 0)) (ite (hfin _ (h.putEly line _)) ?_)
  have hm := hfin _ (h.mergeBytes line data en)
  have hz := hfin _ ((h.mergeBytes line data en).putEly line 0)
  split
  · exact hm.ite h
  · exact ite (h.callSharers _ _) (hz.ite h)
  · exact h.callOwner ..
  · exact h.callOwner ..
  · exact h.callOwner ..
  · exact h

theorem extHostBias (h : Kept p q s) (id a line : Nat) (what : ExtWhat) :
    Kept p q (Machine.extHostBias s id a line what) := by
  unfold Machine.extHostBias
  split
  · exact ((mergeBytes (h.ite (h.mediaHit line)) line _ _).dropReq id).emit _
  · refine ite ((h.mediaHit line).answer ..) ?_
    split
    · exact (h.dropReq id).emit _
    · exact h.snoop ..

theorem extTurn (h : Kept p q s) (id : Nat) (r : Req) (a : Nat) (what : ExtWhat) :
    Kept p q (Machine.extTurn s id r a what) := by
  refine ite (h.extHostBias ..) ?_
  split
  · refine ite ?_ (h.extWrite ..)
    exact h
  · exact h.extPeek ..
  · exact ite (h.extPeek ..) (h.extRead ..)
  · exact ite (h.extPeek ..) (h.extOwn ..)

theorem serveExt (h : Kept p q s) (id : Nat) (r : Req) (a : Nat) (what : ExtWhat) :
    Kept p q (Machine.serveExt s id r a what) :=
  ite (h.arriveAt _ _) (ite ((h.dropReq id).refuse ..) (ite (h.arriveAt _ _) (((h.resolve _).arriveAt _ _).extTurn ..)))

theorem homePerform (h : Kept p q s) (id : Nat) : Kept p q (Machine.homePerform s id) := by
  unfold Machine.homePerform
  split
  · exact h
  · split
    · exact ite (h.serveExt ..) h
    · exact h.performReq id _

theorem extArrive (h : Kept p q s) (a line : Nat) (what : ExtWhat) : Kept p q (Machine.extArrive s a line what) := by
  refine ite (h.refuse ..) (ite ((h.freezeAgent ..).refuse ..) (homePerform ?_ _))
  exact h

theorem hostReq (h : Kept p q s) (addr : Nat) (what : ExtWhat) : Kept p q (Machine.hostReq s addr what) := by
  refine h.ite ?_
  dsimp only
  split
  · exact h.refuse ..
  · exact h.refuse ..
  · exact h.extArrive ..
  · exact h

theorem peerReq (h : Kept p q s) (a : Nat) {k : State → State} (hk : Kept p q (k s)) : Kept p q (Machine.peerReq s a k) :=
  hk.ite h

theorem notice (h : Kept p q s) (a line : Nat) {k : State → State} (hk : Kept p q (k s)) :
    Kept p q (Machine.notice s a line k) :=
  h.peerReq a (h.ite (ite (h.emit _) (ite ((h.freezeAgent ..).emit _) (hk.emit _))))

theorem dirtyNotice (h : Kept p q s) (a line : Nat) : Kept p q (Machine.dirtyNotice s a line) :=
  h.notice a line (ite (h.putEly line _) h)

theorem giveBack (h : Kept p q s) (line : Nat) (data : Option LineData) : Kept p q (Machine.giveBack s line data) := by
  refine delSlice ?_ line
  split
  · exact h.writeMem _ _
  · exact h.writeMem _ _
  · exact h

theorem unshare (h : Kept p q s) (line a : Nat) : Kept p q (Machine.unshare s line a) := h.putEly line _

theorem holderGives (h : Kept p q s) (a line : Nat) (data : Option LineData) :
    Kept p q (Machine.holderGives s a line data) :=
  h.notice a line (ite ((h.giveBack line data).putEly line 0) (ite (h.unshare line a) h))

theorem dropSnoop (h : Kept p q s) (x : Snoop) : Kept p q (Machine.dropSnoop s x) := h

theorem snooped (h : Kept p q s) (line a : Nat) (x : Snoop) (data : Option LineData) :
    Kept p q (Machine.snooped s line a x data) := by
  have hgive : ∀ e, Kept p q (Machine.setEly (Machine.giveBack s line data) line e) := fun e =>
    (h.giveBack line data).putEly line e
  have hput : ∀ d e, Kept p q (Machine.setEly { s with slices := Store.put s.slices line d } line e) := fun d e =>
    (h.putSlice line d).putEly line e
  unfold Machine.snooped
  generalize lineState s line = st
  cases st with
  | shared => exact ite (h.unshare line a) h
  | exclusive => exact h.ite (ite (hgive 0) (hgive _))
  | owned =>
    refine h.ite (ite (hgive 0) ?_)
    generalize x.keep = keep
    cases keep with
    | false => exact hgive _
    | true =>
      cases data with
      | none => exact h
      | some d => exact hgive _
  | modified =>
    refine h.ite (ite (hgive 0) ?_)
    cases data with
    | none =>
      generalize x.keep = keep
      cases keep with
      | false => exact h.putEly line 0
      | true => exact h.putEly line 0
    | some d =>
      generalize x.keep = keep
      cases keep with
      | false => exact hgive _
      | true => exact hput _ _
  | _ => exact h

theorem sliceFill (h : Kept p q s) (line : Nat) (own dirty : Bool) (d : LineData) :
    Kept p q (Machine.sliceFill s line own dirty d) := h.putSlice line _

theorem homeAnswer (h : Kept p q s) (a line : Nat) (data : Option LineData) :
    Kept p q (Machine.homeAnswer s a line data) := by
  refine h.ite ?_
  split
  · exact h
  · exact (h.dropSnoop _).snooped line a _ data

theorem hostCacheData (h : Kept p q s) (line : Nat) (own : Bool) (d : LineData) :
    Kept p q (Machine.hostCacheData s line own d) := by
  refine h.ite ?_
  split
  · exact h
  · exact (h.dropSnoop _).sliceFill ..

theorem peerAnswer (h : Kept p q s) (a line : Nat) (dirty : Bool) (data : Option LineData) :
    Kept p q (Machine.peerAnswer s a line dirty data) := by
  refine h.peerReq a ?_
  split
  · split
    · exact ite ((h.dropSnoop _).sliceFill ..) h
    · exact h
  · exact h.homeAnswer ..
  · exact h

theorem giveUp (h : Kept p q s) (a line : Nat) (inv : Bool) : Kept p q (Machine.giveUp s a line inv) := by
  refine h.ite ?_
  split
  · exact h.emit _
  · refine emit (h.setSlices fun hp => ?_) _
    split
    · exact Store.sorted_del (h.slices hp) line
    · exact Store.sorted_put (h.slices hp) line _

theorem hostSnoop (h : Kept p q s) (line : Nat) (inv : Bool) : Kept p q (Machine.hostSnoop s line inv) :=
  ite (h.giveUp 0 line inv) h

theorem recalled (h : Kept p q s) (a line : Nat) (inv : Bool) : Kept p q (Machine.recalled s a line inv) :=
  h.peerReq a (ite (h.giveUp a line inv) h)

/-! ## Placement (Place) -/

theorem reserveSlots (h : Kept p q s) (b : Bid) (core : Nat) (places : List (Nat × Nat)) (next : Nat) :
    Kept p q (Machine.reserveSlots s b core places next) := h

theorem undefStorage (h : Kept p q s) (d : KDesc) (t : Team) : Kept p q (Machine.undefStorage s d t) := by
  unfold Machine.undefStorage
  extract_lets n s1 words
  have h1 : Kept p q s1 := h.spadWrite d t 0 _
  have h2 := h1.setAcc fun hp => Store.wf_putsD (h1.acc hp) (t.core * 65536 + t.accbase * 256) words
  exact h2

theorem placeFresh (h : Kept p q s) (b : Bid) (tid core spbase accbase : Nat) (places : List (Nat × Nat)) :
    Kept p q (Machine.placeFresh s b tid core spbase accbase places) := by
  refine reserveSlots (foldl (undefStorage (h.putTeam _ _) _ _) _ fun s x hs => ?_) b core places _
  exact (hs.startGroup b.2.1 b.1 tid x.1 x.2.2).receive (LiveIf.startGroup s b.2.1 b.1 tid x.1 x.2.2) _ _ _

theorem placeBack (h : Kept p q s) (b : Bid) (k : Nat) (t : Team) (core spbase accbase : Nat) (places : List (Nat ×
    Nat)) :
    Kept p q (Machine.placeBack s b k t core spbase accbase places) := by
  have hr := h.resolveSlot t b.2.1.desc (t.slot.getD 0)
  unfold Machine.placeBack
  dsimp only
  split
  · exact (hr.reenterTeam ..).reserveSlots ..
  · exact hr.askRead _
  · exact hr.askRead _
  · exact hr.askRead _

theorem swapOut (h : Kept p q s) (k : Nat) : Kept p q (Machine.swapOut s k) := by
  refine (h.updTeam k _).mapGrp (fun e => ?_) fun e he => ?_
  · split <;> rfl
  · split
    · exact he
    · exact he

theorem placeSpawnedBack (h : Kept p q s) (k : Nat) (t : Team) (core slot row0 ix : Nat) :
    Kept p q (Machine.placeSpawnedBack s k t core slot row0 ix) := by
  have hr := h.resolveSlot t default (t.slot.getD 0)
  unfold Machine.placeSpawnedBack
  dsimp only
  split
  · exact hr.askRead _
  · refine freeSlotAt ?_ _
    have hs := fun xs => hr.foldl (f := fun s (x : Group × GImage) =>
      Machine.reenterGroup s (64 * core + slot) row0 { x.1 with gidx := ix } x.2) xs fun _ x hs => hs.reenterGroup _ _ _ _
    exact (hs _).delTeam k

theorem placeTeam (h : Kept p q s) (core spbase accbase : Nat) (places : List (Nat × Nat)) :
    Kept p q (Machine.placeTeam s core spbase accbase places) := by
  unfold Machine.placeTeam
  split
  · exact h.placeSpawnedBack ..
  · split
    · split
      · exact h.placeFresh ..
      · exact h.placeBack ..
    · split
      · exact h.swapOut _
      · exact h

theorem teamReserve (h : Kept p q s) (lid : Nat) : Kept p q (Machine.teamReserve s lid) := by
  unfold Machine.teamReserve
  split
  · exact h
  · split
    · exact h
    · refine h.ite ?_
      split
      · exact h
      · exact h.updTeam _ _

theorem spawnedLaunch (h : Kept p q s) (core : Nat) : Kept p q (Machine.spawnedLaunch s core) :=
  (h.launchBin core).foldl _ fun _ l hs => hs.rebin l.1

end Kept
end
end Machine

namespace Machine

open Safety

section
variable {p q : Prop} {s : State} {g : Group}

namespace Kept

/-! ## The mailbox (Host) -/

theorem setMbox (h : Kept p q s) (m : Mailbox) : Kept p q { s with mbox := m } := h
theorem success (h : Kept p q s) : Kept p q (Machine.success s) := h
theorem invalid (h : Kept p q s) : Kept p q (Machine.invalid s) := h
theorem busy (h : Kept p q s) : Kept p q (Machine.busy s) := h

theorem command (h : Kept p q s) (always : Bool) {k : State → State} (hk : Kept p q (k s)) :
    Kept p q (Machine.command s always k) := by
  unfold Machine.command
  split
  · exact h.busy
  · exact h.busy
  · exact h.ite (h.busy.ite hk)
  · exact h

theorem check (h : Kept p q s) (ok : Bool) {k : State → State} (hk : Kept p q (k s)) : Kept p q (Machine.check s ok k) :=
  hk.success.ite h.invalid

theorem resync (h : Kept p q s) (pa size : Nat) : Kept p q (Machine.resync s pa size) := by
  unfold Machine.resync
  extract_lets ok bs free
  have hfree : ∀ s, Kept p q s → Kept p q (free s) := fun _ hs => hs
  have hw := h.writeParts .mailbox pa [(0, bs)]
  refine ite h.invalid (ite (((hfree s h).dropWriter .mailbox).ret _ _) ?_)
  split
  next heq => exact (hfree _ (hw.of_fst heq)).success
  next heq => exact (hw.of_fst heq).setMbox _

theorem execResync (h : Kept p q s) (pa size : Nat) : KeptOut p q (Machine.execResync pa size s) :=
  done (ite (h.resync pa size) (h.command true (h.resync pa size)))

theorem unfreeze (h : Kept p q s) (f : Frozen) : Kept p q (Machine.unfreeze s f) := h

theorem thaw (h : Kept p q s) (f : Frozen) : Kept p q (Machine.thaw s f) := by
  refine h.mapGrp (fun e => ?_) fun e he => ?_
  · split <;> rfl
  · split
    · exact he
    · exact he

theorem thawEngine (h : Kept p q s) (f : Frozen) : Kept p q (Machine.thawEngine s f) := h

theorem setLinks (h : Kept p q s) (a : Nat) (f : Link → Link) : Kept p q (Machine.setLinks s a f) := by
  unfold Machine.setLinks
  split
  · exact h
  · exact h

theorem releaseResume (h : Kept p q s) (f : Frozen) : Kept p q (Machine.releaseResume s f) := by
  have hs := h.unfreeze f
  unfold Machine.releaseResume
  dsimp only
  split
  · exact hs.thaw f
  · exact hs.thawEngine f
  · exact hs.thawEngine f
  · exact ite (hs.setLinks _ _) hs
  · exact hs

theorem execFreezeReleaseResume (h : Kept p q s) (kind id : Nat) :
    KeptOut p q (Machine.execFreezeReleaseResume kind id s) := by
  refine done (h.command false ?_)
  split
  · exact (h.releaseResume _).success
  · exact h.invalid

theorem forgetAgent (h : Kept p q s) (a : Nat) : Kept p q (Machine.forgetAgent s a) := by
  unfold Machine.forgetAgent
  extract_lets xs s1
  have h1 : Kept p q s1 := h.setSlices fun hp => Store.sorted_filter (h.slices hp) _
  refine h1.foldl xs fun s x hs => ?_
  have hr := hs.resolve x.line
  exact ite (hr.snooped x.line a x none) hr

theorem declareFailed (h : Kept p q s) (a : Nat) : Kept p q (Machine.declareFailed s a) := by
  refine forgetAgent ?_ a
  exact h

theorem releaseEnd (h : Kept p q s) (f : Frozen) : Kept p q (Machine.releaseEnd s f) := by
  have hs := h.unfreeze f
  unfold Machine.releaseEnd
  dsimp only
  split
  · exact (hs.foldl (f := Machine.endSaved) _ fun _ k ht => ht.endSaved k).foldl _ fun _ k ht => ht.endGroup k
  · exact hs
  · exact hs
  · exact hs
  · exact ((hs.setLinks _ _).declareFailed _).emit _
  · exact hs

theorem execFreezeReleaseEnd (h : Kept p q s) (kind id : Nat) : KeptOut p q (Machine.execFreezeReleaseEnd kind id s)
    := by
  refine done (h.command false ?_)
  split
  · exact (h.releaseEnd _).success
  · exact h.invalid

theorem startFlip (h : Kept p q s) : Kept p q (Machine.startFlip s) := by
  unfold Machine.startFlip
  split
  · exact h
  · exact h

theorem biasSet (h : Kept p q s) (host : Bool) (pa count : Nat) : Kept p q (Machine.biasSet s host pa count) := by
  refine ite h.invalid (startFlip ?_)
  exact h

end Kept

/-- What a page's flip leaves, done or waiting. -/
def KeptFlip (p q : Prop) (r : Option State × State) : Prop := Kept p q (r.1.getD r.2)

theorem KeptFlip.wait (h : Kept p q s) : KeptFlip p q (none, s) := h
theorem KeptFlip.done {t : State} (h : Kept p q t) : KeptFlip p q (some t, s) := h

namespace Kept

theorem giveBacks (h : Kept p q s) (e : BitVec 16) (ls : List Nat) :
    Kept p q (ls.foldl (fun s l => Machine.setEly (Machine.giveBack s l none) l e) s) :=
  h.foldl ls fun _ l hs => (hs.giveBack l none).putEly l e

theorem flipToHost (h : Kept p q s) (page : Nat) : KeptFlip p q (Machine.flipToHost s page) := by
  unfold Machine.flipToHost
  extract_lets ls s1 held s2
  have h1 : Kept p q s1 := h.resolves ls
  have h2 : Kept p q s2 := h1.giveBacks _ ls
  split
  · exact .wait h1
  · split
    · exact .wait (h1.foldl held fun _ l hs => hs.callSharers l _)
    · split
      · exact .wait h1
      · exact .done (h2.setBias fun hp => Store.wf_putD (h2.bias hp) page true)

theorem flipToDevice (h : Kept p q s) (page : Nat) : KeptFlip p q (Machine.flipToDevice s page) := by
  unfold Machine.flipToDevice
  extract_lets ls need s1 s2
  have h1 : Kept p q s1 := h.setBias fun hp => Store.wf_putD (h.bias hp) page false
  have h2 : Kept p q s2 := h1.giveBacks 0 ls
  split
  · exact .wait h
  · split
    · exact .wait (h.foldl need fun _ l hs => hs.snoop l 0 true true _)
    · split
      · exact .wait h
      · exact .done h2

theorem pageFlip (h : Kept p q s) (page : Nat) : Kept p q (Machine.pageFlip s page) := by
  unfold Machine.pageFlip
  split
  next host pg rest _ =>
    refine h.ite ?_
    have hf : KeptFlip p q (if host then Machine.flipToHost s page else Machine.flipToDevice s page) := by
      split
      · exact h.flipToHost page
      · exact h.flipToDevice page
    split
    next heq =>
      rw [heq] at hf
      exact hf
    next s1 _ heq =>
      rw [heq] at hf
      exact (setMbox (s := s1) hf _).startFlip
  next => exact h

theorem backgroundStep (h : Kept p q s) : Kept p q (Machine.backgroundStep s) := by
  unfold Machine.backgroundStep
  split
  · exact h.setMbox _
  · exact h.saveLaunch _ _ _
  · exact h

theorem execLeaseSet (h : Kept p q s) (lam : Nat) : KeptOut p q (Machine.execLeaseSet lam s) := by
  refine done (h.command false ?_)
  unfold Machine.check
  split
  · next hl =>
    simp only [Bool.and_eq_true, decide_eq_true_eq] at hl
    exact success (h.setLam fun _ => hl)
  · exact h.invalid

theorem placementRead (h : Kept p q s) (die stack first count : Nat) (clear : Bool) :
    Kept p q (Machine.placementRead s die stack first count clear) := by
  refine ite h.invalid (ret (ite (h.setCounts fun hp => ?_) h) _ _)
  exact Store.wf_foldl_putD (h.counts hp) _ id fun _ => 0

theorem execLosslogSet (h : Kept p q s) (base size : Nat) : KeptOut p q (Machine.execLosslogSet base size s) := by
  refine done (h.command false (h.check _ (ite ?_ ?_)))
  · exact h
  · exact h

theorem execAspaceSet (h : Kept p q s) (id root : Nat) : KeptOut p q (Machine.execAspaceSet id root s) := by
  refine done (h.command false (ite h.invalid (ite h.busy (success ?_))))
  exact h

theorem execTlbInval (h : Kept p q s) (scope : TlbScope) : KeptOut p q (Machine.execTlbInval scope s) := by
  refine done (h.command false (h.check _ ?_))
  exact h

theorem execGraphPost (h : Kept p q s) (die asp root prio : Nat) :
    KeptOut p q (Machine.execGraphPost die asp root prio s) := by
  refine done (h.command false (ite h.invalid ?_))
  split
  next heq => exact (h.postGraph _ _ _ _ _ heq).success
  next => exact h.busy

theorem graphRelease (h : Kept p q s) (die root : Nat) : Kept p q (Machine.graphRelease s die root) := by
  unfold Machine.graphRelease
  dsimp only
  split
  · refine success (dropWriter ?_ _)
    exact h
  · exact h.invalid.ite h.busy

theorem execPreempt (h : Kept p q s) (sel : PreSel) (area : Nat) (migrate : Bool) :
    KeptOut p q (Machine.execPreempt sel area migrate s) :=
  done (h.command false (ite h.invalid (h.preemptGo _ _ _)))

theorem execFaultDone (h : Kept p q s) (b : Bool) (w : FaultWho) :
    Kept p q (match Machine.faultDone s b w with | some s => Machine.success s | none => Machine.invalid s) := by
  split
  next heq => exact (h.faultDone b w heq).success
  next => exact h.invalid

theorem execPoolSet (h : Kept p q s) (base count : Nat) : KeptOut p q (Machine.execPoolSet base count s) := by
  refine done (h.command false (h.check _ ?_))
  exact h

theorem travEnd (h : Kept p q s) (lid id : Nat) : Kept p q (Machine.travEnd s lid id) := by
  unfold Machine.travEnd
  split
  · exact h.invalid
  · exact ite h.invalid (((h.clearFaults 2 lid id).setTrav id _).success)

theorem execTrapbaseSet (h : Kept p q s) (die : Nat) (cores : BitVec 48) (va : Nat) :
    KeptOut p q (Machine.execTrapbaseSet die cores va s) :=
  done (h.command false (h.check _ (h.foldl _ fun _ _ hs => hs.setCore _ _)))

theorem execFeatClear (h : Kept p q s) (die : Nat) (m : BitVec 64) : KeptOut p q (Machine.execFeatClear die m s) := by
  refine done (h.command false (h.check _ ?_))
  exact h

theorem debugLine (h : Kept p q s) (pa n : Nat) : Kept p q (Machine.debugLine s pa n).1 := by
  have hr := h.resolve (pa / 128)
  unfold Machine.debugLine
  dsimp only
  split
  · exact h
  · split
    · exact hr.askRead _
    · exact hr
    · exact hr

theorem debugPut (h : Kept p q s) (pa : Nat) (bs : List Byte) : Kept p q (Machine.debugPut s pa bs).1 := by
  unfold Machine.debugPut
  split
  · exact (h.winWrite _ _ _).pair true
  · exact h.engWrite _ _ _ _

theorem debugEnd (h : Kept p q s) (d : DbgRun) : Kept p q (Machine.debugEnd s d) := by
  unfold Machine.debugEnd
  extract_lets _ s1 s2
  have h1 : Kept p q s1 := (h.setMbox _).dropOlds dbgSrc
  have h2 : Kept p q s2 := ite (h1.foldl _ fun _ _ hs => hs.winShadow _ _) h1
  exact h2.ret _ _

theorem debugGo (cs : List (Nat × Nat)) {s : State} (h : Kept p q s) (d : DbgRun) : Kept p q (Machine.debugGo cs s d) := by
  induction cs generalizing s d with
  | nil => exact ite (h.setMbox _) (h.debugEnd d)
  | cons c cs ih =>
    unfold Machine.debugGo
    extract_lets stay
    have hstay : ∀ s, Kept p q s → Kept p q (stay s) := fun s hs => hs.setMbox _
    have hput := fun bs => h.debugPut c.1 bs
    have hline := h.debugLine c.1 c.2
    refine ite (hstay s h) (ite ?_ ?_)
    · split
      next heq => exact ih ((hput _).of_fst heq) _
      next heq => exact hstay _ ((hput _).of_fst heq)
    · split
      next heq => exact ih (hline.of_fst heq) _
      next heq => exact hstay _ (hline.of_fst heq)

theorem debugRange (h : Kept p q s) (pa n : Nat) (write : Bool) (bs : List Byte) :
    Kept p q (Machine.debugRange s pa n write bs) := by
  unfold Machine.debugRange
  dsimp only
  split
  · exact ite (debugGo _ h _) h
  · exact h.command true (ite (debugGo _ h _) h.invalid)

theorem execDebugRead (h : Kept p q s) (w : DbgWhat) : KeptOut p q (Machine.execDebugRead w s) := by
  refine done ?_
  cases w with
  | core die c => exact h.command true (ite h.invalid (h.ret _ _))
  | range pa n => exact h.debugRange pa n false []

theorem execDebugWrite (h : Kept p q s) (w : DbgWhat) (bytes : List (BitVec 8)) :
    KeptOut p q (Machine.execDebugWrite w bytes s) := by
  refine done ?_
  cases w with
  | core die c =>
    refine h.command true (ite h.invalid ?_)
    split
    · exact (h.setCore _ _).success
    · exact h.invalid
  | range pa n => exact ite (h.debugRange pa n true bytes) (h.command true h.invalid)

theorem execProtectSet (h : Kept p q s) (index pa size : Nat) (flags : BitVec 3) :
    KeptOut p q (Machine.execProtectSet index pa size flags s) := by
  refine done (h.command false (h.check _ ?_))
  exact h

theorem execSwarmSet (h : Kept p q s) (pos n : Nat) (table : List (Option Nat)) :
    KeptOut p q (Machine.execSwarmSet pos n table s) := by
  refine done (h.command false (h.check _ ?_))
  exact h

/-! ## Lane exchange (LaneCross) -/

theorem scanned (h : Kept p q s) (hg : LiveIf q g) (gid : Nat) (m : Mods) (ty : Ty) (eff : Mask) (fl : Nat → BitVec 6)
    (ws : List PWrite) : Kept p q (Machine.scanned s gid g m ty eff fl ws) :=
  ite (h.flagged hg gid m eff fl ws) (h.issueL hg gid ws m.sw)

/-! ## Firmware, identity, links and the platform (Platform) -/

theorem fwStage (h : Kept p q s) (off : Nat) (bs : List Byte) : Kept p q (Machine.fwStage s off bs) := by
  refine h.check _ ?_
  exact h

theorem setFw (h : Kept p q s) (f : Firmware) : Kept p q { s with fw := f } := h

theorem fwActivate (h : Kept p q s) (commit : Bool) : Kept p q (Machine.fwActivate s commit) := by
  unfold Machine.fwActivate
  extract_lets im
  clear_value im
  exact h.check _ (h.setFw _)

theorem spdmReply (h : Kept p q s) (port : Port) (f : Transcript → Transcript) (body : List Byte) :
    Kept p q (Machine.spdmReply s port f body) := by
  refine ite (emit ?_ _) h
  exact h

theorem agree (h : Kept p q s) (port : Port) (which : Nat) (rsp : List Byte) : Kept p q (Machine.agree s port which
    rsp) := by
  refine spdmReply ?_ port _ rsp
  exact h

theorem attested (h : Kept p q s) (port : Port) (peer : List (List Byte)) : Kept p q (Machine.attested s port peer) :=
    by
  unfold Machine.attested
  split
  · exact h
  · refine h.ite ?_
    extract_lets nonce ok s1 _ s2 a
    have h0 : Kept p q { s with free := s.free + 32 } := h
    have h1 : Kept p q s1 := h0.foldl _ fun _ _ hs => hs.emit _
    have h2 : Kept p q s2 := h1
    exact h2.ite h2

theorem challenge (h : Kept p q s) (port : Port) (nonce : BitVec 256) : Kept p q (Machine.challenge s port nonce) := by
  refine spdmReply ?_ port _ _
  exact h

theorem measure (h : Kept p q s) (port : Port) (index : Nat) (nonce : BitVec 256) :
    Kept p q (Machine.measure s port index nonce) := by
  unfold Machine.measure
  split
  · exact h.spdmReply port id _
  · refine spdmReply ?_ port _ _
    exact h

theorem updLink (h : Kept p q s) (pl : Nat) (f : Link → Link) : Kept p q (Machine.updLink s pl f) := by
  refine h.ite ?_
  exact h

theorem hostFails (h : Kept p q s) : Kept p q (Machine.hostFails s) := by
  refine declareFailed ?_ 0
  exact h.setSlices fun hp => Store.sorted_filter (h.slices hp) _

theorem agentFails (h : Kept p q s) (a : Nat) : Kept p q (Machine.agentFails s a) :=
  ite (h.hostFails.ite h) (h.ite (ite ((h.declareFailed a).emit _) h))

theorem failureNotice (h : Kept p q s) (a : Nat) : Kept p q (Machine.failureNotice s a) :=
  ite (h.hostFails.ite h) (h.ite ((h.setLinks a _).declareFailed a))

theorem scrub (h : Kept p q s) (a : Nat) : Kept p q (Machine.scrub s a).1 := by
  have hr := fun ls => h.resolves ls
  unfold Machine.scrub
  dsimp only
  split
  · exact hr _
  · exact hr _

theorem agentRejoins (h : Kept p q s) (a : Nat) : Kept p q (Machine.agentRejoins s a) := by
  refine h.ite ?_
  have hr : Kept p q (if (agent s a).inc + 1 == (agent s a).scrub then Machine.scrub s a else (s, true)).1 := by
    split
    · exact h.scrub a
    · exact h
  split
  next heq => exact hr.of_fst heq
  next heq =>
    have hs := hr.of_fst heq
    exact hs

theorem powerOn (h : Kept p q s) : Kept p q (Machine.powerOn s) := by
  refine h.ite ?_
  exact h

/-- The reset state has the canonical forms, and no group. -/
theorem reset : Kept p q State.reset := by
  obtain ⟨-, -, -, -, hg, -, -, -, -, -, -, -, -, -, -, -, -, hi⟩ := resetState
  have h := kept_of_inv hi
  exact { mem := fun _ => hi.mem, chk := fun _ => hi.chk, ely := fun _ => hi.ely, ecc := fun _ => hi.ecc,
          rf := fun _ => hi.rf, spad := fun _ => hi.spad, acc := fun _ => hi.acc, cores := fun _ => hi.cores,
          counts := fun _ => hi.counts, bias := fun _ => hi.bias, groups := fun _ => hi.groups,
          live := fun e he => (by rw [hg] at he; exact absurd he List.not_mem_nil),
          teams := fun _ => hi.teams, slices := fun _ => hi.slices, lam := fun _ => hi.lam }

theorem resetModule (s : State) (phase : Nat) (fw : Firmware) (trip : Option TripRec) :
    Kept p q (Machine.resetModule s phase fw trip) := reset

theorem moduleReset (s : State) : Kept p q (Machine.moduleReset s) := resetModule ..

theorem selfHeatEnd (h : Kept p q s) : Kept p q (Machine.selfHeatEnd s) := by
  refine h.ite ?_
  exact h

theorem setPlat (h : Kept p q s) (x : Platform) : Kept p q { s with plat := x } := h

theorem execFunctionLevelReset (h : Kept p q s) : KeptOut p q (Machine.execFunctionLevelReset s) :=
  done (h.ite (((h.setMbox _).dropOlds dbgSrc).dropWriter .mailbox))

theorem levelChange (h : Kept p q s) (core level : Nat) : Kept p q (Machine.levelChange s core level) :=
  h.ite (h.setCore core _)

theorem throttle (h : Kept p q s) (die : Nat) (temp : BitVec 16) : Kept p q (Machine.throttle s die temp) :=
  h.ite ((h.setPlat _).foldl _ fun _ _ hs => hs.setCore _ _)

theorem trip (h : Kept p q s) (stack : Bool) (unit : Nat) (temp : BitVec 16) : Kept p q (Machine.trip s stack unit
    temp) :=
  h.ite (resetModule ..)

theorem setChannel (h : Kept p q s) (k : Nat) (c : Channel) : Kept p q (Machine.setChannel s k c) := h.setPlat _

theorem openWindow (h : Kept p q s) (stack ch : Nat) : Kept p q (Machine.openWindow s stack ch) :=
  h.ite (h.setChannel _ _)

theorem postFault (h : Kept p q s) (f : PFault) : Kept p q (Machine.postFault s f) := h

theorem closeWindow (h : Kept p q s) (stack ch : Nat) (ok : Bool) : Kept p q (Machine.closeWindow s stack ch ok) := 
  h.ite (ite (h.setChannel _ _) (ite ((h.setChannel _ _).postFault _) (h.setChannel _ _)))

theorem otherCommand (h : Kept p q s) (op : Nat) : Kept p q (Machine.otherCommand s op) :=
  h.ite (h.command false (h.ret _ _))

theorem telemetry (h : Kept p q s) (sel : Nat) : Kept p q (Machine.telemetry s sel) := by
  refine h.ite (h.busy.ite ?_)
  split
  · refine ret ?_ _ _
    exact h
  · exact h.invalid

end Kept
end
end Machine

namespace Machine

open Safety

section
variable {p q : Prop} {s : State}

namespace Kept

/-- Every instruction and every event keeps it. -/
theorem exec (h : Kept p q s) (i : Instr) : KeptOut p q (Machine.exec i s) := by
  unfold Machine.exec
  cases i with
  -- scalar arithmetic
  | sadd | ssub | smul | smulh | sand | sor | sxor | sshl | sshr | ssra | smin | smax =>
    exact h.word fun gid _ hg => h.alu2 hg gid ..
  | smov => exact h.word fun gid _ hg => h.issueS hg gid ..
  | saddi | smuli | sandi | sori | sxori | smini | smaxi | sshli | sshri | ssrai =>
    exact h.word fun gid _ hg => h.alu1 hg gid ..
  | slui | smovi | srnggetLo | srnggetHi | srnggetTop | skmov | aget =>
    exact h.word fun gid _ hg => h.setExact hg gid ..
  | swiden d a b sw => exact h.execSwiden d a b sw
  | srange d a b sw => exact h.execSrange d a b sw
  | sb cond a b off sw => exact h.execSb cond a b off sw
  | sj => exact h.word fun gid _ hg => h.goS hg gid ..
  | sjal => exact h.word fun gid _ hg => h.issueS hg gid ..
  | sjr a sw => exact h.execSjr a sw
  | asetb n a sw => exact h.execAsetb n a sw
  | asetx n a b sw => exact h.execAsetx n a b sw
  -- scalar control and memory
  | smfs | gtcloRead | gtchiRead => exact h.word fun gid _ hg => h.smfsGo hg gid ..
  | smts => exact h.word fun gid _ hg => h.smtsGo hg gid ..
  | modeWrite => exact h.word fun gid _ hg => h.writeMode hg gid ..
  | exmloWrite | exmhiWrite => exact h.word fun gid _ hg => h.inHandler hg gid (h.writeExm hg gid ..)
  | trappcWrite => exact h.word fun gid _ hg => h.inHandler hg gid (h.writeTrappc hg gid ..)
  | trappcloWrite => exact h.word fun gid _ hg => h.inHandler hg gid (h.writeTrappclo hg gid ..)
  | trappchiWrite => exact h.word fun gid _ hg => h.inHandler hg gid (h.writeTrappchi hg gid ..)
  | trapinfoWrite => exact h.word fun gid _ hg => h.inHandler hg gid (h.writeTrapinfo hg gid ..)
  | sld d n b off sw => exact h.execSld d n b off sw
  | sst d n b off sw => exact h.execSst d n b off sw
  | lrun ix sw => exact h.execLrun ix sw
  | lsync sw => exact h.execLsync sw
  | tcopy a b ix nm1 sw => exact h.execTcopy a b ix nm1 sw
  | cwait ctr a sw => exact h.execCwait ctr a sw
  | mwait cmp acq a b sw => exact h.execMwait cmp acq a b sw
  | yield ctr a b sw => exact h.execYield ctr a b sw
  | attn a b ctl sw => exact h.execAttn a b ctl sw
  | tvlayout a n sw => exact h.execTvlayout a n sw
  | bar a n sw => exact h.execBar a n sw
  | stgacq a st sw => exact h.execStgacq a st sw
  | stgrel a st sw => exact h.execStgrel a st sw
  | grow n sw => exact h.execGrow n sw
  | shrink n sw => exact h.execShrink n sw
  | task a prio sw => exact h.execTask a prio sw
  | sfence ord sc sw => exact h.execSfence ord sc sw
  | trap | brk => exact h.word fun gid _ hg => h.raiseS hg gid ..
  | eret | eretSkip => exact h.word fun gid _ hg => h.eretGo hg gid ..
  | sexit sw => exact h.execSexit sw
  | snop => exact h.word fun gid _ hg => h.nextS hg gid ..
  | wordNotAnInstruction => exact h.word fun gid _ hg => h.raise hg gid ..
  -- lane words on integers, predicates and masks
  | iadd | isub | imul | imulh | imin | imax => exact h.word fun gid _ hg => h.laneZ2 hg gid ..
  | imad | iclamp => exact h.word fun gid _ hg => h.laneZ3 hg gid ..
  | iabs | ineg => exact h.word fun gid _ hg => h.laneZ1 hg gid ..
  | iand | ior | ixor | ishl | ishr | isra => exact h.word fun gid _ hg => h.laneB2 hg gid ..
  | inot | iclz | ipopc | ibrev | ibfx => exact h.word fun gid _ hg => h.laneB1 hg gid ..
  | ibfi | isel | imov | imovi | icvt => exact h.word fun gid _ hg => h.laneV hg gid ..
  | icmp => exact h.word fun gid _ hg => h.laneP hg gid ..
  | vwiden m d lo hi => exact h.execVwiden m d lo hi
  | vrange m d lo hi => exact h.execVrange m d lo hi
  | pand | por | pxor | pnot | pmov => exact h.word fun gid _ hg => h.predOp hg gid ..
  | exmget => exact h.word fun gid _ hg => h.laneP hg gid ..
  | exmset m a => exact h.execExmset m a
  | fxget => exact h.word fun gid _ hg => h.laneV hg gid ..
  | fxset m a => exact h.execFxset m a
  -- floating and logarithmic words
  | fadd | fsub | fmul | fdiv => exact h.word fun gid _ hg => h.laneF2 hg gid ..
  | frcp | frsq | fsqrt | fexp2 | flog2 | frnd => exact h.word fun gid _ hg => h.laneF1 hg gid ..
  | ffma | fcvt => exact h.word fun gid _ hg => h.laneF hg gid ..
  | fmin | fmax => exact h.word fun gid _ hg => h.laneMinMax hg gid ..
  | fcmp => exact h.word fun gid _ hg => h.inQuota hg gid _ (h.flagged hg gid ..)
  | fclass => exact h.word fun gid _ hg => h.laneV hg gid ..
  | lmul | lcvt => exact h.word fun gid _ hg => h.withL6 hg gid _ (h.laneF hg gid ..)
  -- lane exchange
  | xshfl | xbcast => exact h.word fun gid _ hg => h.laneV hg gid ..
  | xballot | xvote => exact h.word fun gid _ hg => h.inQuota hg gid _ (h.issueL hg gid ..)
  | xprefix | xreduce => exact h.word fun gid _ hg => h.inQuota hg gid _ (h.scanned hg gid ..)
  -- lane control flow
  | lbrc => exact h.word fun gid _ hg => h.branch hg gid ..
  | ljoin | lret => exact h.word fun gid _ hg => h.popTo hg gid ..
  | ljmp => exact h.word fun gid _ hg => h.goL hg gid ..
  | lcall => exact h.word fun gid _ hg => h.pushDiv hg gid _ fun _ _ hs hg _ => hs.goL hg gid ..
  | lexit nf sw => exact h.execLexit nf sw
  | lkill => exact h.word fun gid _ hg => h.nextL (hg.killLanes _) gid ..
  | spawn m a entry => exact h.execSpawn m a entry
  | laneCwait m ctr t => exact h.execLaneCwait m ctr t
  -- lane memory
  | ld m ty acq d n b off => exact h.execLd m ty acq d n b off
  | st m ty rel n b c off => exact h.execSt m ty rel n b c off
  | lds m ty d n b off => exact h.execLds m ty d n b off
  | sts m ty n b c off => exact h.execSts m ty n b c off
  | cst m ty n b c off => exact h.execCst m ty n b c off
  | xlde m ty d n b off => exact h.execXlde m ty d n b off
  | lfence nf sw ord sc => exact h.execLfence nf sw ord sc
  | atomAdd | atomMin | atomMax | atomAnd | atomOr | atomXor | atomXchg | atomCas =>
    exact h.word fun gid _ hg => h.atomGo hg ..
  -- matrix words
  | mbegin nf sw => exact h.execMbegin nf sw
  | mend nf sw => exact h.execMend nf sw
  | mma nf sw ty rm d a b => exact h.execMma nf sw ty rm d a b
  | mldf nf sw fragB d addr off => exact h.execMldf nf sw fragB d addr off
  | mzero nf sw d => exact h.execMzero nf sw d
  | maccld nf sw d addr off => exact h.execMaccld nf sw d addr off
  | maccst nf sw a addr off => exact h.execMaccst nf sw a addr off
  -- traversal words
  | tvbegin m d a b c lay => exact h.execTvbegin m d a b c lay
  | tvret m a b => exact h.execTvret m a b
  | tvcut m a b c => exact h.execTvcut m a b c
  | tvresume m d a => exact h.execTvresume m d a
  | tvbound m a => exact h.execTvbound m a
  | tvstat => exact h.word fun gid _ hg => h.tvFeat hg gid _ (h.laneV hg gid ..)
  -- events of streams, waits and teams
  | gtcTick => exact done h.gtcTick
  | resultReturn gid lane k keep late => exact done (h.returnResult gid lane k keep late)
  | blockStart gid => exact h.execBlockStart gid
  | blockRetire gid => exact h.execBlockRetire gid
  | trapEntry gid => exact done (h.enterTrap gid)
  | binTimerExpiry core bin => exact done (h.sealBin core bin)
  | spawnedGroupLaunch core => exact done (h.spawnedLaunch core)
  | teamPlacement core spbase accbase groups => exact done (h.placeTeam core spbase accbase groups)
  | teamReserving lid => exact done (h.teamReserve lid)
  | growGrant gid => exact h.execGrowGrant gid
  | yieldReactivate gid => exact h.execYieldReactivate gid
  | barrierRelease team bar => exact h.execBarrierRelease team bar
  | stagePhaseObserved gid => exact h.execStagePhaseObserved gid
  | mwaitReread gid => exact h.execMwaitReread gid
  | counterWaitMet gid lane => exact h.execCounterWaitMet gid lane
  -- engines, traversals and graphs
  | engineLineOwnership cmd => exact done (h.withCopy cmd fun _ c _ _ hs => hs.ownLine cmd c)
  | engineLineRelease cmd line => exact h.execEngineLineRelease cmd line
  | copyCommandComplete cmd prog => exact done (h.copyStep cmd prog)
  | attnCommandStart cmd cached => exact done (h.attnStart cmd cached)
  | attnKeyBlock cmd => exact done (h.attnKeys cmd)
  | attnCommandComplete cmd => exact done (h.attnEnd cmd)
  | traversalStep id => exact done (h.travStep id)
  | cutApply id => exact done (h.cutApply id)
  | launchEnd lid => exact done (h.launchEnd lid)
  | openTailWake graph node => exact done (h.openTailWake graph node)
  | graphEnd graph => exact done (h.graphEnd graph)
  -- homes and other agents
  | l1Fill core line => exact done (h.l1Fill core line)
  | leaseExpiry => exact done h
  | homeWritePerform req => exact done (h.homePerform req)
  | sliceEviction line => exact done (h.evict line)
  | replicaLock req die =>
    refine done ?_
    split
    · exact h.lockReplica req _ die
    · exact h
  | replicaUpdate req =>
    refine done ?_
    split
    · exact h.updateReplicas req _
    · exact h
  | tableWalk die asp va => exact done (h.tableWalk die asp va)
  | refreshManagement => exact done h
  | readShared agent line | readOwn agent line => exact done (h.peerReq agent (h.extArrive agent line _))
  | dirtyNotice agent line => exact done (h.dirtyNotice agent line)
  | writeback agent line | cleanEviction agent line => exact done (h.holderGives agent line _)
  | recallToShared agent line | recallInvalidate agent line => exact done (h.recalled agent line _)
  | data agent line | dataDirty agent line | notHeld agent line => exact done (h.peerAnswer agent line _ _)
  | failureNotice agent => exact done (h.failureNotice agent)
  | memrdShared addr | memrdAny addr | memrdInvalid addr | memwr addr => exact done (h.hostReq addr _)
  | snpdata line | snpinv line => exact done (h.hostSnoop line _)
  | hostSnoopResponse line dirty => exact done (ite (h.homeAnswer 0 line dirty) h)
  | hostCacheData line own data => exact done (h.hostCacheData line own data)
  | hdmDecoderProgram =>
    refine done (ite ?_ h)
    exact h
  -- mailbox commands
  | resync pa size => exact h.execResync pa size
  | freezeReleaseResume kind id => exact h.execFreezeReleaseResume kind id
  | freezeReleaseEnd kind id => exact h.execFreezeReleaseEnd kind id
  | biasSetHost pa count | biasSetDevice pa count => exact done (h.command false (h.biasSet _ pa count))
  | pageFlip page => exact done (h.pageFlip page)
  | telemetry sel => exact done (h.telemetry sel)
  | fwStage off bytes => exact done (h.command false (h.fwStage off bytes))
  | fwActivate commit => exact done (h.command false (h.fwActivate commit))
  | leaseSet lam => exact h.execLeaseSet lam
  | placementRead die stack first count clear => exact done (h.command false (h.placementRead die stack first count
      clear))
  | losslogSet base size => exact h.execLosslogSet base size
  | aspaceSet id root => exact h.execAspaceSet id root
  | tlbInval scope => exact h.execTlbInval scope
  | graphPost die asp root prio => exact h.execGraphPost die asp root prio
  | graphRelease die root => exact done (h.command false (h.graphRelease die root))
  | preempt sel area migrate => exact h.execPreempt sel area migrate
  | chrysalisComplete team prog => exact done (h.chrysalisComplete team prog)
  | poolSlotSave team => exact done (h.poolSlotSave team)
  | resume lid => exact done (h.command false (h.check _ (h.resumeLaunch lid)))
  | resumeEnd lid => exact done (h.command false (h.check _ (h.endLaunch lid)))
  | faultDoneRetry w | faultDoneEnd w => exact done (h.command false (h.execFaultDone _ w))
  | poolSet base count => exact h.execPoolSet base count
  | trapbaseSet die cores va => exact h.execTrapbaseSet die cores va
  | featClear die bits => exact h.execFeatClear die bits
  | debugRead w => exact h.execDebugRead w
  | debugWrite w bytes => exact h.execDebugWrite w bytes
  | protectSet index pa size flags => exact h.execProtectSet index pa size flags
  | swarmSet pos n table => exact h.execSwarmSet pos n table
  | travEnd lid id => exact done (h.command false (h.travEnd lid id))
  | backgroundComplete => exact done h.backgroundStep
  -- identity, links and the platform
  | getVersion | getDigests | getCertificate => exact done (h.spdmReply ..)
  | getCapabilities | negotiateAlgorithms => exact done (h.agree ..)
  | challenge port nonce peer => exact done ((h.challenge port nonce).attested port peer)
  | getMeasurements port index nonce => exact done (h.measure port index nonce)
  | linkDown pl | linkTrainingComplete pl | flitReplay pl => exact done (h.updLink pl _)
  | agentFailed agent => exact done (h.agentFails agent)
  | agentRejoin agent => exact done (h.agentRejoins agent)
  | powerOn => exact done h.powerOn
  | moduleReset => exact done (moduleReset s)
  | selfHeatEnd => exact done h.selfHeatEnd
  | trainingComplete => exact done (ite (h.setPlat _) h)
  | levelChange core level => exact done (h.levelChange core level)
  | droopEvent core => exact done (h.ite (h.setCore core _))
  | junctionThrottle die temp => exact done (h.throttle die temp)
  | junctionFallsBelow95 | stackRefreshDouble => exact done (h.ite (h.setPlat _))
  | trip stack unit temp => exact done (h.trip stack unit temp)
  | retrainingWindow stack ch => exact done (h.openWindow stack ch)
  | retrainingWindowEnd stack ch ok => exact done (h.closeWindow stack ch ok)
  | functionLevelReset => exact h.execFunctionLevelReset

/-! ## A step -/

theorem issueStep (h : Kept p q s) (gid : Nat) (lane : Bool) (picks : List (Nat × Mask)) :
    KeptOut p q (Machine.issueStep s gid lane picks) := by
  have hp := h.prepare gid lane picks
  unfold Machine.issueStep
  split
  next heq =>
    rw [heq] at hp
    exact next hp
  next s1 i heq =>
    rw [heq] at hp
    have he := exec (s := s1) hp i
    split
    next t g hx _ => exact next ((he t hx).settle g gid lane i)
    next => exact he

theorem step (h : Kept p q s) : KeptOut p q (Machine.step s) := by
  have ha := h.nextAct
  unfold Machine.step
  split
  next gid lane picks s1 heq =>
    rw [heq] at ha
    exact issueStep (s := s1) ha gid lane picks
  next gid block regs aregs s1 heq =>
    rw [heq] at ha
    exact next (viewStep (s := s1) ha gid block regs aregs)
  next i picks s1 heq =>
    rw [heq] at ha
    split
    · exact exec (s := { s1 with picks := picks }) ha i
    · exact next (t := s1) ha
  next op s1 heq =>
    rw [heq] at ha
    exact next (otherCommand (s := s1) ha op)

end Kept
end
end Machine

open Machine

/-- Settles O32: each operation of the model writes the lists of the state through the store's own operations, which
    keep
the canonical form, and every instruction is made of such operations. -/
theorem stepKeepsInvariant : Obligations.StepKeepsInvariant := fun _ _ h e => inv_of_kept ((kept_of_inv h).step _ e)

/-- Settles O33: whatever writes EXM writes a part of the old one or a mask cut down by the live mask, and LKILL takes
    its
lanes out of both. -/
theorem stepKeepsMaskLive : Obligations.StepKeepsMaskLive := fun _ _ h e => live_of_kept ((kept_of_live h).step _ e)

end Sys2Proof
end
